-- ==== Sys2Proof/Word.lean ====
section
/-! DEFINITION. The word types of the module (R10: registers are 32 bits wide, fields are little-endian). -/
namespace Sys2Proof

/-- One byte of a memory. -/
abbrev Byte := BitVec 8

/-- One 32-bit register (R10). -/
abbrev Word32 := BitVec 32

/-- One 64-bit value: a stream instruction word (R181), a timestamp (R376) or a counter (R398). -/
abbrev Word64 := BitVec 64

end Sys2Proof
end

