-- ==== Sys2Proof/Syntax.lean ====
section
/-! DEFINITION. The commands of the module: one constructor of `Instr` for each row of spec/opcode_table.json, and the operand types. -/
namespace Sys2Proof

/-- Through which of its three addresses a partition register is reached (R438, R439, R440). -/
inductive View where
  | vf        -- the virtual function's BAR0
  | operator  -- the operator window of the physical function
  | core      -- the image that the partition's tenant cores see
deriving DecidableEq, Repr

/-- Who makes a raw register access (R441). -/
inductive Requester where
  | pf (h : Fin 4)               -- the physical function of port h
  | vf (h : Fin 4) (i : Fin 16)  -- virtual function i of port h
  | core (p : Fin 64)            -- a tenant core of partition p
  | runtime                      -- the runtime and the dispatchers, in the map of the physical functions
  | runtimeVf (h : Fin 4) (i : Fin 16)  -- the runtime at the BAR0 of a virtual function (R441)
deriving DecidableEq, Repr

/-- An op of a job: the job's number (in order of fetch) and the op's place in it. Indices at or
above the job's OP_COUNT name the REFRESH ops that the runtime inserted (R54, R55). -/
structure OpRef where
  job : Nat
  op : Nat
deriving DecidableEq, Repr

/-- The six streams of a tile, with stream codes 0 to 5 in this order (R179). -/
inductive StreamCode where
  | feed | ntt | vec | cable | rib | ply
deriving DecidableEq, Repr

/-- The fields of a stream instruction word below its opcode (R181). -/
structure StreamWord where
  mode : BitVec 4
  inA : BitVec 6
  inB : BitVec 6
  out : BitVec 6
  flags : BitVec 2
  count : BitVec 16
  imm : BitVec 16
deriving DecidableEq, Repr

/-- A group of RWS fields under R78. -/
inductive Group where
  | handle (p : Fin 64) | keyDir (p : Fin 64) | bundle (p : Fin 64)
  | ring (p : Fin 64) (n : Fin 16) | qtab (t : Fin 576) | bw (d : Fin 18)
  | span (n : Fin 64) | pkeRing (h : Fin 4)
deriving DecidableEq, Repr

/-- A unit identifier: the kind in bits [15:11] and the index in bits [10:0] (R367). -/
structure UnitId where
  kind : BitVec 5
  index : BitVec 11
deriving DecidableEq, Repr

/-- An error of an on-die memory: where an uncorrectable one is read (the rows of R216), how many were corrected on a die since they were last
told (R215), and a change of what an op writes from a tile that no check detects, so that only its replay digest tells of it (R361). -/
inductive OnDieError where
  | dieCache (d : Fin 18) (line : Nat)
  | scratchpad (t : Fin 576) (line : Nat) (o : OpRef)
  | stashOfThisOp (t : Fin 576) (line : Nat) (o : OpRef)
  | staging (t : Fin 576) (line : Nat) (o : OpRef)
  | reservoir (t : Fin 576) (line : Nat) (o : OpRef)
  | stashOfEarlierCopy (t : Fin 576) (line : Nat) (o : OpRef)
  | corrected (d : Fin 18) (count : Nat)
  | undetected (t : Fin 576) (o : OpRef)
deriving DecidableEq, Repr

/-- What a patrol read of a line finds (R228). -/
inductive EccFinding where
  | clean | corrected | uncorrectable | correctedOnDemand
deriving DecidableEq, Repr

/-- What of a tenant core's own state its VS-stage translation reads (R318; PRESUMED, the RISC-V privileged architecture, log entry 82): `vsatp` with MODE in [63:60] and
PPN in [43:0], VS or VU mode, and SUM and MXR of `vsstatus`. -/
structure VsContext where
  vsatp : BitVec 64 := 0
  user : Bool := false
  sum : Bool := false
  mxr : Bool := false
deriving DecidableEq, Repr

/-- A tenant core's access of 1, 2, 4 or 8 bytes (R319), or a change of what its accesses are translated by: the table has no row for a core's other instructions, so that
the row of its accesses brings this too (log entry 82). -/
inductive CoreAccess where
  | fetch
  | load (bytes : Nat)
  | store (bytes : Nat) (value : BitVec 64)
  | context (c : VsContext)
deriving DecidableEq, Repr

/-- The die-cache functions that tenant cores reach (R223). -/
inductive AmoOp where
  | swap | add | min | max | minu | maxu | and | or | xor | cas
deriving DecidableEq, Repr

/-- The calls of the SBI HSM extension (R318). -/
inductive HsmCall where
  | start (target : Nat) (addr : BitVec 64) (arg : BitVec 64)
  | stop
  | suspend (kind : BitVec 32) (addr : BitVec 64) (arg : BitVec 64)
  | status (target : Nat)
deriving DecidableEq, Repr

/-- Where a partition command finds its record: in the host memory of the issuing port, at the
address of PART_CMD_ADDR, or inline in the management command (R312, R430). -/
inductive RecordSource where
  | host (h : Fin 4)
  | inline (rec : BitVec 2048) (maps : List (BitVec 128))
deriving DecidableEq, Repr

/-- The lifecycle states, in the order of their codes in MODULE_INFO (R442). -/
inductive Lifecycle where
  | manufacturing | provisioned | deployed | returned
deriving DecidableEq, Repr

/-- One value for a field of the calibration and settings store (R431). -/
inductive StoreValue where
  | opaqueField (v : Nat)                     -- fields 0x01 to 0x04: trims, offsets, seeds, flow calibration
  | spares (a b : Nat)                        -- field 0x05
  | cap (tensOfWatts : Nat)                   -- field 0x06
  | interleave (code : Nat)                   -- field 0x07
  | split (read write remote : Nat)           -- field 0x08
  | coefficients (milliwatts : List Nat)      -- field 0x09: feeders, NTT, cable, Rib modular, Rib integer, Ply, vector
  | moduleId (id : BitVec 11)                 -- field 0x0A
deriving DecidableEq, Repr

/-- One image of the settings store (R431). -/
structure StoreImage where
  trims : Nat
  sensorOffsets : Nat
  phySeeds : Nat
  flowCal : Nat
  spareA : Nat
  spareB : Nat
  cap : Nat
  interleave : Nat
  bwRead : Nat
  bwWrite : Nat
  bwRemote : Nat
  coefficients : List Nat
  moduleId : BitVec 11
deriving DecidableEq, Repr

/-- What resets a port (R390, R426): a hot reset or a link-down of any port, or PERST_N of port 1, 2 or 3 going low; and its going high, which ends the reset of the link. -/
inductive PortEvent where
  | linkDown (h : Fin 4)
  | perstLow (i : Fin 3)             -- of port i + 1
  | perstHigh (i : Fin 3)
deriving DecidableEq, Repr

/-- A PLDM request (R429). -/
inductive PldmRequest where
  | baseDiscovery
  | inputVoltage | inputCurrent | inputPower | coolantTemp | coolantFlow
  | siteTemp (d : Fin 18) | hankTemp (h : Fin 4) | stackTemp (k : Fin 32) | effectiveCap | activeDies | spares
  | alarmState (entry : Fin 128) | degraded
deriving DecidableEq, Repr

/-- A key store of a port's IDE streams (R349). -/
inductive IdeStream where
  | link
  | selective (i : Fin 8)
deriving DecidableEq, Repr

/-- A Quolyn frame of R410: header fields, payload and tag, and whether its FEC verifies as it arrives. On a link the payload is encrypted. -/
structure Frame where
  ty : BitVec 4
  epoch : BitVec 1
  lines : BitVec 2
  hops : BitVec 4
  dest : BitVec 11
  src : BitVec 11
  srcSpan : BitVec 6
  destSpan : BitVec 6
  seq : BitVec 16
  ack : BitVec 16
  offset : BitVec 32
  payload : BitVec 2048
  fecOk : Bool
  tag : BitVec 128
deriving DecidableEq, Repr

/-- A JTAG TAP instruction (R424). -/
inductive TapInstr where
  | bypass | idcode | debugModule | boundaryScan | other
deriving DecidableEq, Repr

/-- A timed step of the start-up sequence (R380). -/
inductive StartupStep where
  | hankDie (h : Fin 4)
  | segmentPair (k : Fin 8)
  | stackPair (c : Fin 16)
  | site (s : Fin 18)
deriving DecidableEq, Repr

/-- The commands: one constructor for each row of spec/opcode_table.json. -/
inductive Instr where
  /-- DB_SQ_WRITE (R254). -/
  | dbSqWrite (view : View) (p : Fin 64) (n : Fin 16) (value : BitVec 32)
  /-- DB_CQ_WRITE (R254). -/
  | dbCqWrite (view : View) (p : Fin 64) (n : Fin 16) (value : BitVec 32)
  /-- RING_ENABLE (R252). -/
  | ringEnable (view : View) (p : Fin 64) (n : Fin 16)
  /-- RING_DISABLE (R252). -/
  | ringDisable (view : View) (p : Fin 64) (n : Fin 16)
  /-- RING_DRAINED (R252). -/
  | ringDrained (p : Fin 64) (n : Fin 16)
  /-- SUBMISSION_FETCH (R255). -/
  | submissionFetch (p : Fin 64) (n : Fin 16)
  /-- OP_READY (R267). -/
  | opReady (o : OpRef) (tiles : List (Fin 576))
  /-- OP_PASSOVER_BLOCK (R384). -/
  | opPassoverBlock (o : OpRef)
  /-- LOAD_CT (R282). -/
  | loadCt (o : OpRef)
  /-- STORE_CT (R280). -/
  | storeCt (o : OpRef)
  /-- COPY (R244). -/
  | copy (o : OpRef)
  /-- TRANSPOSE_COPY (R244). -/
  | transposeCopy (o : OpRef)
  /-- FILL (R285). -/
  | fill (o : OpRef)
  /-- ADD (R280). -/
  | add (o : OpRef)
  /-- SUB (R280). -/
  | sub (o : OpRef)
  /-- NEG (R280). -/
  | neg (o : OpRef)
  /-- ADD_PLAIN (R281). -/
  | addPlain (o : OpRef)
  /-- MUL_PLAIN (R281). -/
  | mulPlain (o : OpRef)
  /-- MUL_CONST (R283). -/
  | mulConst (o : OpRef)
  /-- MUL (R284). -/
  | mul (o : OpRef)
  /-- RELIN (R137). -/
  | relin (o : OpRef)
  /-- RESCALE (R172). -/
  | rescale (o : OpRef)
  /-- MOD_DROP (R285). -/
  | modDrop (o : OpRef)
  /-- ROTATE (R137). -/
  | rotate (o : OpRef)
  /-- HOIST_ROTATE (R144). -/
  | hoistRotate (o : OpRef)
  /-- CONJUGATE (R137). -/
  | conjugate (o : OpRef)
  /-- KEYSWITCH (R137). -/
  | keyswitch (o : OpRef)
  /-- NTT_FWD (R88). -/
  | nttFwd (o : OpRef)
  /-- NTT_INV (R88). -/
  | nttInv (o : OpRef)
  /-- BCONV (R290). -/
  | bconv (o : OpRef)
  /-- LINEAR_TRANSFORM (R293). -/
  | linearTransform (o : OpRef)
  /-- POLY_EVAL (R294). -/
  | polyEval (o : OpRef)
  /-- REFRESH (R304). -/
  | refresh (o : OpRef)
  /-- ENCODE (R288). -/
  | encodeOp (o : OpRef)
  /-- INT_MATMUL (R289). -/
  | intMatmul (o : OpRef)
  /-- INT_CONV (R289). -/
  | intConv (o : OpRef)
  /-- FENCE (R270). -/
  | fence (o : OpRef)
  /-- SIGNAL (R270). -/
  | signal (o : OpRef)
  /-- CUSTOM (R299). -/
  | custom (o : OpRef)
  /-- TILE_PART_COMPLETE (R180). -/
  | tilePartComplete (t : Fin 576)
  /-- OP_BIND_OFF (R30). -/
  | opBindOff (o : OpRef)
  /-- COMPLETION_WRITE (R257). -/
  | completionWrite (p : Fin 64) (n : Fin 16)
  /-- RING_IRQ_TIMER (R259). -/
  | ringIrqTimer (p : Fin 64) (n : Fin 16)
  /-- MT_DATA_ACCESS (R73). -/
  | mtDataAccess (view : View) (p : Fin 64) (value : Option (BitVec 32))
  /-- MT_COMMIT (R74). -/
  | mtCommit (view : View) (p : Fin 64) (value : BitVec 32)
  /-- MT_COMMIT_CHECK (R75). -/
  | mtCommitCheck (p : Fin 64)
  /-- CTL_COMMIT_HANDLE (R449). -/
  | ctlCommitHandle (view : View) (p : Fin 64)
  /-- CTL_COMMIT_KEY_DIR (R449). -/
  | ctlCommitKeyDir (view : View) (p : Fin 64)
  /-- CTL_COMMIT_BUNDLE (R449). -/
  | ctlCommitBundle (view : View) (p : Fin 64)
  /-- QTAB_COMMIT (R189). -/
  | qtabCommit (t : Fin 576)
  /-- BW_COMMIT (R205). -/
  | bwCommit (d : Fin 18)
  /-- SPAN_COMMIT (R415). -/
  | spanCommit (value : BitVec 32)
  /-- CAST_ON_COMMIT_APPLY (R78). -/
  | castOnCommitApply (g : Group)
  /-- SEM_WRITE (R192). -/
  | semWrite (t : Fin 576) (n : Fin 32) (value : BitVec 32)
  /-- SPAD_PWR_WRITE (R214). -/
  | spadPwrWrite (t : Fin 576) (on : BitVec 8)
  /-- SPAD_PWR_APPLY (R214). -/
  | spadPwrApply (t : Fin 576)
  /-- SPAD_GROUP_READY (R214). -/
  | spadGroupReady (t : Fin 576)
  /-- VEC_CTRL_WRITE (R177). -/
  | vecCtrlWrite (t : Fin 576) (value : BitVec 32)
  /-- REDUCE_PATH_APPLY (R177). -/
  | reducePathApply (t : Fin 576)
  /-- MEM_CFG_WRITE (R227). -/
  | memCfgWrite (value : BitVec 32)
  /-- REGISTER_WRITE (R11). -/
  | registerWrite (req : Requester) (offset : BitVec 32) (width : Nat) (value : BitVec 32)
  /-- BROADCAST_WRITE (R446). -/
  | broadcastWrite (req : Requester) (offset : BitVec 32) (width : Nat) (value : BitVec 32)
  /-- NOP (R185). -/
  | nop (t : Fin 576) (k : StreamCode) (w : StreamWord)
  /-- LOOP (R186). -/
  | loop (t : Fin 576) (k : StreamCode) (w : StreamWord)
  /-- CMPSET (R187). -/
  | cmpset (t : Fin 576) (k : StreamCode) (w : StreamWord)
  /-- WHEN (R187). -/
  | whenInstr (t : Fin 576) (k : StreamCode) (w : StreamWord)
  /-- SWAIT (R193). -/
  | swait (t : Fin 576) (k : StreamCode) (w : StreamWord)
  /-- SWAIT_SATISFIED (R193). -/
  | swaitSatisfied (t : Fin 576) (k : StreamCode)
  /-- SPOST (R193). -/
  | spost (t : Fin 576) (k : StreamCode) (w : StreamWord)
  /-- SPOSTR (R194). -/
  | spostr (t : Fin 576) (k : StreamCode) (w : StreamWord)
  /-- SPOST_TAKES_EFFECT (R193). -/
  | spostTakesEffect (t : Fin 576)
  /-- END (R180). -/
  | endInstr (t : Fin 576) (k : StreamCode) (w : StreamWord)
  /-- FLOAD (R195). -/
  | fload (t : Fin 576) (w : StreamWord)
  /-- FSTORE (R195). -/
  | fstore (t : Fin 576) (w : StreamWord)
  /-- FMOVE (R195). -/
  | fmove (t : Fin 576) (w : StreamWord)
  /-- SPFILL (R195). -/
  | spfill (t : Fin 576) (w : StreamWord)
  /-- SPCOPY (R195). -/
  | spcopy (t : Fin 576) (w : StreamWord)
  /-- FEEDER_TRANSFER_DONE (R202). -/
  | feederTransferDone (t : Fin 576) (f : Fin 4)
  /-- NTTF (R197). -/
  | nttf (t : Fin 576) (w : StreamWord)
  /-- NTTI (R197). -/
  | ntti (t : Fin 576) (w : StreamWord)
  /-- FFTE (R197). -/
  | ffte (t : Fin 576) (w : StreamWord)
  /-- CCOPY (R198). -/
  | ccopy (t : Fin 576) (w : StreamWord)
  /-- CAUTE (R198). -/
  | caute (t : Fin 576) (w : StreamWord)
  /-- CAUTC (R198). -/
  | cautc (t : Fin 576) (w : StreamWord)
  /-- CGATH (R198). -/
  | cgath (t : Fin 576) (w : StreamWord)
  /-- CRGATH (R198). -/
  | crgath (t : Fin 576) (w : StreamWord)
  /-- CTRANS (R198). -/
  | ctrans (t : Fin 576) (w : StreamWord)
  /-- CXCHG (R198). -/
  | cxchg (t : Fin 576) (w : StreamWord)
  /-- EXCHANGE_COMPLETE (R97). -/
  | exchangeComplete (t : Fin 576)
  /-- RMODE (R199). -/
  | rmode (t : Fin 576) (w : StreamWord)
  /-- RCONST (R199). -/
  | rconst (t : Fin 576) (w : StreamWord)
  /-- RMAC (R199). -/
  | rmac (t : Fin 576) (w : StreamWord)
  /-- PKEY (R200). -/
  | pkey (t : Fin 576) (w : StreamWord)
  /-- PMAC (R200). -/
  | pmac (t : Fin 576) (w : StreamWord)
  /-- SETWIN (R164). -/
  | setwin (t : Fin 576) (w : StreamWord)
  /-- SETVL (R167). -/
  | setvl (t : Fin 576) (w : StreamWord)
  /-- VADDM (R169). -/
  | vaddm (t : Fin 576) (w : StreamWord)
  /-- VSUBM (R169). -/
  | vsubm (t : Fin 576) (w : StreamWord)
  /-- VNEGM (R169). -/
  | vnegm (t : Fin 576) (w : StreamWord)
  /-- VMULM (R169). -/
  | vmulm (t : Fin 576) (w : StreamWord)
  /-- VMADDM (R201). -/
  | vmaddm (t : Fin 576) (w : StreamWord)
  /-- VLIFT (R171). -/
  | vlift (t : Fin 576) (w : StreamWord)
  /-- VRESCALE (R172). -/
  | vrescale (t : Fin 576) (w : StreamWord)
  /-- VADDI (R169). -/
  | vaddi (t : Fin 576) (w : StreamWord)
  /-- VSUBI (R169). -/
  | vsubi (t : Fin 576) (w : StreamWord)
  /-- VMULI (R169). -/
  | vmuli (t : Fin 576) (w : StreamWord)
  /-- VMADDI (R201). -/
  | vmaddi (t : Fin 576) (w : StreamWord)
  /-- VMAXI (R169). -/
  | vmaxi (t : Fin 576) (w : StreamWord)
  /-- VMINI (R169). -/
  | vmini (t : Fin 576) (w : StreamWord)
  /-- VRELU (R120). -/
  | vrelu (t : Fin 576) (w : StreamWord)
  /-- VCLAMP (R120). -/
  | vclamp (t : Fin 576) (w : StreamWord)
  /-- VLUT8 (R120). -/
  | vlut8 (t : Fin 576) (w : StreamWord)
  /-- VSHRR (R169). -/
  | vshrr (t : Fin 576) (w : StreamWord)
  /-- VREQ (R121). -/
  | vreq (t : Fin 576) (w : StreamWord)
  /-- VCVTIF (R162). -/
  | vcvtif (t : Fin 576) (w : StreamWord)
  /-- VCVTFI (R162). -/
  | vcvtfi (t : Fin 576) (w : StreamWord)
  /-- VADDF (R169). -/
  | vaddf (t : Fin 576) (w : StreamWord)
  /-- VSUBF (R169). -/
  | vsubf (t : Fin 576) (w : StreamWord)
  /-- VMULF (R169). -/
  | vmulf (t : Fin 576) (w : StreamWord)
  /-- VDIVF (R169). -/
  | vdivf (t : Fin 576) (w : StreamWord)
  /-- VSQRTF (R169). -/
  | vsqrtf (t : Fin 576) (w : StreamWord)
  /-- VMAXF (R175). -/
  | vmaxf (t : Fin 576) (w : StreamWord)
  /-- VMINF (R175). -/
  | vminf (t : Fin 576) (w : StreamWord)
  /-- VCOPY (R169). -/
  | vcopy (t : Fin 576) (w : StreamWord)
  /-- VREDUCE (R173). -/
  | vreduce (t : Fin 576) (w : StreamWord)
  /-- QUEUE_SLOT_COMMIT (R191). -/
  | queueSlotCommit (t : Fin 576) (q : Fin 48)
  /-- QUEUE_SLOT_RELEASE (R191). -/
  | queueSlotRelease (t : Fin 576) (q : Fin 48)
  /-- ENGINE_STALL_RESUME (R191). -/
  | engineStallResume (t : Fin 576) (k : StreamCode)
  /-- DEADLOCK_TIMEOUT (R208). -/
  | deadlockTimeout (o : OpRef)
  /-- STREAM_WATCHDOG (R353). -/
  | streamWatchdog (o : OpRef) (t : Fin 576) (k : StreamCode)
  /-- TRANSACTION_TIMEOUT (R354). -/
  | transactionTimeout (o : OpRef) (reporter : Fin 576) (source : UnitId) (cls : Fin 4)
  /-- RESIDUE_MISMATCH (R69). -/
  | residueMismatch (o : OpRef) (t : Fin 576) (reduction : Bool)
  /-- ONDIE_UNCORRECTABLE (R216). -/
  | ondieUncorrectable (e : OnDieError)
  /-- STACK_UNCORRECTABLE (R229). -/
  | stackUncorrectable (line : Fin 25769803776)
  /-- PATROL_SCRUB (R228). -/
  | patrolScrub (line : Fin 25769803776) (found : EccFinding)
  /-- FLIT_CRC_ERROR (R352). -/
  | flitCrcError (source : UnitId) (reporter : UnitId) (link : BitVec 32) (retry : Nat)
  /-- CORE_MEMORY_ACCESS (R319). -/
  | coreMemoryAccess (p : Fin 64) (vh : Nat) (a : CoreAccess) (va : BitVec 64)
  /-- CORE_ATOMIC (R223). -/
  | coreAtomic (p : Fin 64) (vh : Nat) (f : AmoOp) (wide : Bool) (va : BitVec 64) (v : BitVec 64) (cmp : BitVec 64)
  /-- CORE_LOAD_RESERVED (R223). -/
  | coreLoadReserved (p : Fin 64) (vh : Nat) (wide : Bool) (va : BitVec 64)
  /-- CORE_STORE_CONDITIONAL (R223). -/
  | coreStoreConditional (p : Fin 64) (vh : Nat) (wide : Bool) (va : BitVec 64) (v : BitVec 64)
  /-- SBI_BASE (R318). -/
  | sbiBase (p : Fin 64) (vh : Nat) (fid : BitVec 32) (arg : BitVec 64)
  /-- SBI_TIMER (R318). -/
  | sbiTimer (p : Fin 64) (vh : Nat) (stime : BitVec 64)
  /-- SBI_IPI (R318). -/
  | sbiIpi (p : Fin 64) (vh : Nat) (mask : BitVec 64) (base : BitVec 64)
  /-- SBI_RFENCE (R318). -/
  | sbiRfence (p : Fin 64) (vh : Nat) (fid : BitVec 32) (mask : BitVec 64) (base : BitVec 64)
  /-- SBI_HSM (R318). -/
  | sbiHsm (p : Fin 64) (vh : Nat) (call : HsmCall)
  /-- SBI_SYSTEM_RESET (R318). -/
  | sbiSystemReset (p : Fin 64) (vh : Nat) (kind : BitVec 32)
  /-- CORE_START (R320). -/
  | coreStart (view : View) (p : Fin 64)
  /-- CORE_STOP_ALL (R320). -/
  | coreStopAll (view : View) (p : Fin 64)
  /-- TRANSLATION_CHANGE (R233). -/
  | translationChange (p : Fin 64)
  /-- PART_CREATE (R314). -/
  | partCreate (src : RecordSource) (p : Fin 64)
  /-- PART_DESTROY (R316). -/
  | partDestroy (p : Fin 64)
  /-- PART_REMAP (R315). -/
  | partRemap (src : RecordSource) (p : Fin 64)
  /-- PART_FROG (R322). -/
  | partFrog (p : Fin 64)
  /-- JOB_FROG (R321). -/
  | jobFrog (view : View) (p : Fin 64) (value : BitVec 32)
  /-- FROG_ENGINES_STOPPED (R322). -/
  | frogEnginesStopped (p : Fin 64)
  /-- FROG_SCRUB_STEP_DONE (R323). -/
  | frogScrubStepDone (p : Fin 64)
  /-- PAGE_SCRUB_DONE (R323). -/
  | pageScrubDone (p : Fin 64)
  /-- HOOK_DRAINED (R394). -/
  | hookDrained (p : Fin 64)
  /-- HOOK_RESUME (R395). -/
  | hookResume (view : View) (p : Fin 64)
  /-- INSP_DATA_READ (R396). -/
  | inspDataRead (view : View) (p : Fin 64)
  /-- OP_CNT_LO_READ (R399). -/
  | opCntLoRead (req : Requester)
  /-- SWATCH_SEQ_READ (R402). -/
  | swatchSeqRead (view : View) (p : Fin 64) (n : Fin 16)
  /-- SWATCH_KEY_INSTALL (R404). -/
  | swatchKeyInstall (view : View) (p : Fin 64) (value : BitVec 32)
  /-- SAMPLER_ENABLE (R400). -/
  | samplerEnable (view : View) (p : Fin 64) (value : BitVec 32)
  /-- SAMPLE_RECORD (R401). -/
  | sampleRecord (p : Fin 64)
  /-- LOG_ENABLE (R405). -/
  | logEnable (h : Fin 4) (value : BitVec 32)
  /-- TRACE_ENABLE (R405). -/
  | traceEnable (h : Fin 4) (value : BitVec 32)
  /-- LOG_WINDOW_CLOSE (R370). -/
  | logWindowClose (h : Fin 4) (source : UnitId) (event : BitVec 8)
  /-- TRACE_MARKER (R406). -/
  | traceMarker (h : Fin 4)
  /-- FC_ALARM_ACK (R372). -/
  | fcAlarmAck (h : Fin 4)
  /-- DISPATCHER_HEARTBEAT (R354). -/
  | dispatcherHeartbeat (d : Fin 18)
  /-- HEARTBEAT_CHECK (R354). -/
  | heartbeatCheck (d : Fin 18)
  /-- DIE_PROBE_TIMEOUT (R354). -/
  | dieProbeTimeout (d : Fin 18)
  /-- TILE_SELFTEST_DONE (R355). -/
  | tileSelftestDone (t : Fin 576) (pass : Bool) (reductionOk : Bool)
  /-- RAS_RETIRE (R373). -/
  | rasRetire (value : BitVec 32)
  /-- RETIREMENT_START (R357). -/
  | retirementStart (d : Fin 18)
  /-- SPARE_IN_SERVICE (R22). -/
  | spareInService (d : Fin 18) (pass : Bool)
  /-- RETIRE_GRACE_EXPIRY (R357). -/
  | retireGraceExpiry (d : Fin 18)
  /-- BRIDGE_SEGMENT_FAULT (R364). -/
  | bridgeSegmentFault (k : Fin 16) (lost : Bool)
  /-- MEMORY_COLUMN_FAULT (R364). -/
  | memoryColumnFault (c : Fin 16) (stack : Fin 2)
  /-- HANK_DIE_FAULT (R364). -/
  | hankDieFault (h : Fin 4)
  /-- PLL_LOSS_OF_LOCK (R377). -/
  | pllLossOfLock (source : UnitId)
  /-- REFCLK_LOSS (R377). -/
  | refclkLoss
  /-- REFCLK_ABSENT_TIMEOUT (R377). -/
  | refclkAbsentTimeout
  /-- REFCLK_RETURN (R377). -/
  | refclkReturn
  /-- INPUT_VOLTAGE_CHANGE (R378). -/
  | inputVoltageChange (mv : Nat)
  /-- CONVERSION_FAULT (R379). -/
  | conversionFault (mv : BitVec 32)
  /-- COOLANT_TEMP_CHANGE (R382). -/
  | coolantTempChange (decic : Nat)
  /-- COOLANT_FLOW_CHANGE (R382). -/
  | coolantFlowChange (centil : Nat)
  /-- FLOW_TRIP_TIMER (R386). -/
  | flowTripTimer
  /-- DIE_TEMP_CHANGE (R385). -/
  | dieTempChange (d : Fin 18) (decic : Nat)
  /-- STACK_OVERTEMP (R379). -/
  | stackOvertemp (k : Fin 32) (decic : Nat)
  /-- DUTY_ADJUST (R385). -/
  | dutyAdjust (d : Fin 18) (watts : Nat) (raise : Bool)
  /-- INPUT_THROTTLE (R385). -/
  | inputThrottle (watts : Nat)
  /-- PWR_CAP_WRITE (R386). -/
  | pwrCapWrite (value : BitVec 32)
  /-- ENTER_M3 (R388). -/
  | enterM3
  /-- LEAVE_M3 (R388). -/
  | leaveM3
  /-- M3_EXIT_DONE (R388). -/
  | m3ExitDone
  /-- ENTER_M4 (R389). -/
  | enterM4
  /-- MODULE_RESET_CMD (R390). -/
  | moduleResetCmd
  /-- POWER_ON (R390). -/
  | powerOn
  /-- STARTUP_STEP (R380). -/
  | startupStep (k : StartupStep) (ok : Bool)
  /-- RUNTIME_READY (R380). -/
  | runtimeReady
  /-- PERST0_ASSERT (R426). -/
  | perst0Assert
  /-- PERST0_DEASSERT (R426). -/
  | perst0Deassert
  /-- PORT_RESET (R390). -/
  | portReset (e : PortEvent)
  /-- VF_FLR (R390). -/
  | vfFlr (h : Fin 4) (vf : Fin 16)
  /-- SENSE_CLOSE (R422). -/
  | senseClose
  /-- HOTSWAP_CHARGE_START (R422). -/
  | hotswapChargeStart
  /-- SENSE_OPEN (R422). -/
  | senseOpen
  /-- FORCE_OFF (R424). -/
  | forceOff
  /-- GET_STATE (R430). -/
  | getState
  /-- ALARM_READ (R430). -/
  | alarmRead (h : Fin 4) (entry : BitVec 7)
  /-- ALARM_ACK (R430). -/
  | alarmAck (h : Fin 4) (entry : BitVec 7)
  /-- SET_CAP (R430). -/
  | setCap (cap : BitVec 16) (store : Bool)
  /-- POWER (R430). -/
  | power (op : BitVec 8)
  /-- COLD_RESET (R430). -/
  | coldReset
  /-- PARTITION (R430). -/
  | partition (op : BitVec 8) (p : BitVec 8) (rec : BitVec 2048) (maps : List (BitVec 128))
  /-- RETIRE (R430). -/
  | retire (site : BitVec 8)
  /-- LIFECYCLE (R327). -/
  | lifecycle (target : Lifecycle) (auth : Bool)
  /-- STORE_READ (R430). -/
  | storeRead (field : BitVec 8)
  /-- STORE_WRITE (R433). -/
  | storeWrite (field : BitVec 8) (value : StoreValue)
  /-- STORE_EXPORT (R434). -/
  | storeExport
  /-- STORE_IMPORT (R434). -/
  | storeImport (img : StoreImage) (serial : BitVec 64) (hashOk : Bool)
  /-- STORE_WRITE_DONE (R433). -/
  | storeWriteDone
  /-- SET_ENDPOINT_ID (R428). -/
  | setEndpointId (eid : BitVec 8)
  /-- PLDM_REQUEST (R429). -/
  | pldmRequest (r : PldmRequest)
  /-- PKE_RING_ENABLE (R343). -/
  | pkeRingEnable (h : Fin 4)
  /-- PKE_RING_DISABLE (R343). -/
  | pkeRingDisable (h : Fin 4)
  /-- PKE_DB (R343). -/
  | pkeDb (h : Fin 4) (value : BitVec 32)
  /-- PKE_COMMAND_START (R340). -/
  | pkeCommandStart (h : Fin 4)
  /-- KEYGEN (R334). -/
  | keygen (h : Fin 4) (u : Fin 8)
  /-- SIGN (R334). -/
  | sign (h : Fin 4) (u : Fin 8)
  /-- VERIFY (R334). -/
  | verify (h : Fin 4) (u : Fin 8)
  /-- ECDH (R334). -/
  | ecdh (h : Fin 4) (u : Fin 8)
  /-- CURVE_LOAD (R333). -/
  | curveLoad (h : Fin 4) (u : Fin 8)
  /-- WIPE (R342). -/
  | wipe (h : Fin 4)
  /-- SLOT_LOAD (R334). -/
  | slotLoad (h : Fin 4) (u : Fin 8)
  /-- SLOT_STORE (R334). -/
  | slotStore (h : Fin 4) (u : Fin 8)
  /-- PKE_OP_COMPLETE (R336). -/
  | pkeOpComplete (h : Fin 4) (u : Fin 8) (fault : Bool)
  /-- ENTROPY_HEALTH_FAIL (R339). -/
  | entropyHealthFail (h : Fin 4)
  /-- GET_VERSION (R348). -/
  | getVersion (h : Fin 4)
  /-- GET_CAPABILITIES (R348). -/
  | getCapabilities (h : Fin 4)
  /-- NEGOTIATE_ALGORITHMS (R348). -/
  | negotiateAlgorithms (h : Fin 4)
  /-- GET_DIGESTS (R348). -/
  | getDigests (h : Fin 4)
  /-- GET_CERTIFICATE (R348). -/
  | getCertificate (h : Fin 4)
  /-- CHALLENGE (R348). -/
  | challenge (h : Fin 4)
  /-- GET_MEASUREMENTS (R348). -/
  | getMeasurements (h : Fin 4) (index : Nat)
  /-- KEY_EXCHANGE (R348). -/
  | keyExchange (h : Fin 4)
  /-- FINISH (R348). -/
  | finish (h : Fin 4) (ok : Bool)
  /-- KEY_UPDATE (R348). -/
  | keyUpdate (h : Fin 4)
  /-- HEARTBEAT (R348). -/
  | heartbeat (h : Fin 4)
  /-- END_SESSION (R348). -/
  | endSession (h : Fin 4)
  /-- IDE_KEY_PROGRAM (R349). -/
  | ideKeyProgram (h : Fin 4) (stream : IdeStream) (key : BitVec 256)
  /-- QL_NODE_WRITE (R409). -/
  | qlNodeWrite (value : BitVec 32)
  /-- QL_PORT_TAKEDOWN (R409). -/
  | qlPortTakedown (q : Fin 8)
  /-- QL_TRAINING_DONE (R409). -/
  | qlTrainingDone (q : Fin 8) (lanes : Nat)
  /-- QL_HELLO (R409). -/
  | qlHello (q : Fin 8) (peer : BitVec 11) (peerState : Lifecycle)
  /-- QL_SECURE_DONE (R409). -/
  | qlSecureDone (q : Fin 8)
  /-- QL_PHASE_TIMEOUT (R409). -/
  | qlPhaseTimeout (q : Fin 8)
  /-- QL_RETRY_TIMER (R409). -/
  | qlRetryTimer (q : Fin 8)
  /-- QL_LANE_LOSS (R408). -/
  | qlLaneLoss (q : Fin 8)
  /-- DATA_FRAME (R416). -/
  | dataFrame (q : Fin 8) (f : Frame)
  /-- SIGNAL_FRAME (R416). -/
  | signalFrame (q : Fin 8) (f : Frame)
  /-- CONTROL_FRAME (R411). -/
  | controlFrame (q : Fin 8) (f : Frame)
  /-- PROBE_FRAME (R419). -/
  | probeFrame (q : Fin 8) (f : Frame)
  /-- KEY_EXCHANGE_FRAME (R412). -/
  | keyExchangeFrame (q : Fin 8) (f : Frame)
  /-- QL_CONTROL_TIMER (R411). -/
  | qlControlTimer (q : Fin 8)
  /-- QL_PROBE_SEND (R419). -/
  | qlProbeSend (q : Fin 8)
  /-- QL_REKEY_START (R412). -/
  | qlRekeyStart (q : Fin 8)
  /-- QL_REKEY_COMPLETE (R412). -/
  | qlRekeyComplete (q : Fin 8) (ok : Bool)
  /-- TILE_ENTERS_M1 (R387). -/
  | tileEntersM1 (t : Fin 576)
  /-- TILE_ENTERS_M2 (R387). -/
  | tileEntersM2 (t : Fin 576)
  /-- TILE_M2_EXIT_DONE (R387). -/
  | tileM2ExitDone (t : Fin 576)
  /-- VS_TIMER_INTERRUPT (R318). -/
  | vsTimerInterrupt (p : Fin 64) (vh : Nat)
  /-- ABSTRACT_COMMAND (R397). -/
  | abstractCommand (hart : Fin 160)
  /-- SYSTEM_BUS_ACCESS (R397). -/
  | systemBusAccess (pa : BitVec 41) (write : Option (BitVec 32))
  /-- TAP_INSTRUCTION (R424). -/
  | tapInstruction (i : TapInstr)
  /-- CONFIGURATION_REQUEST (R380). -/
  | configurationRequest (h : Fin 4)
deriving DecidableEq, Repr

end Sys2Proof
end

