-- ==== Sys2Proof/Decode.lean ====
section
/-! DEFINITION. Commands spelled by words: spec/opcode_table.json gives bits to no row, so no word spells a command. -/
namespace Sys2Proof

/-- The command that a word spells by the table's bits. No row of the table has a fixed bit or a field. -/
def decodeTableWord (_nbits _w : Nat) : Option Instr := none

end Sys2Proof
end

