-- ==== Sys2Proof/Config.lean ====
section
/-! DEFINITION. What the spec leaves free: opaque constants without a body, so that no proof can see a value of them. -/
namespace Sys2Proof

/-- Free values, drawn one after the other: the n-th value that the spec does not fix. The
model applies it to the counter `State.fresh` and cuts it to the width it needs
(log entry 3). Unspecified memory contents (R59, R134, R145, R325), the draws of the
deterministic random bit generators (R334, R338, R404) and the replay key (R361) come from it. -/
opaque Config.free : Nat → Nat

/-- A session key, a salt or another key-derivation output that never leaves the security
block and the ports (R347, R349, R350): a function of what it is derived from (log entry 11). -/
opaque Config.derived : Nat → Nat → Nat

/-- Parameters that the spec reads from a record without giving their place in it (log entry 26): the shift of
VSHRR and VREQ, the bounds of VCLAMP and the table of VLUT8 (R169, R201), and the parameter blocks of the activation and
normalisation prologues (R120): a function of the record's bits and of which parameter is meant. -/
opaque Config.param : Nat → Nat → Nat

/-- What stands in the streams, queues, semaphores and scratchpad of a tile under an op whose pattern the runtime builds: a function of the op's stamp, the tile, the space and the word (R396,
log entry 12). -/
opaque Config.pattern : Nat → Nat → Nat → Nat → Nat

/-- Settings of the runtime that the spec names without a value: 0, its own limit on the vector length (R296). -/
opaque Config.runtime : Nat → Nat

/-- Where the runtime places the queue slots of a chain in the scratchpad, first line and lines of each: a function of the chain descriptor (R133, log entry 108). -/
opaque Config.chainSlots : Nat → List (Nat × Nat)

end Sys2Proof
end

