-- ==== Sys2Proof/Machine/RegMap.lean ====
section
/-! DEFINITION. The register map: every register of R450 with its block, its offset (R442 to R448), its fields and their types (R11) and the value it has after reset; the two BAR0 layouts. -/
namespace Sys2Proof.Machine

/-- The register types of R11. -/
inductive RegTy where
  | rw | ro | wo | w1c | rws
deriving DecidableEq, Repr

/-- A field: its bit range [hi:lo] and its type. Bits that no field names are reserved and read as zero (R12). -/
structure RegField where
  hi : Nat
  lo : Nat
  ty : RegTy
deriving DecidableEq, Repr

/-- Element `i` of an array of `n` registers that starts at `base`: the index that offset `o` names. -/
def arrIdx (n base stride o : Nat) : Option (Fin n) :=
  if h : base ≤ o ∧ (o - base) / stride < n ∧ (o - base) % stride = 0 then some ⟨(o - base) / stride, h.2.1⟩
  else none

/-- The module global block (R442). -/
inductive GReg where
  | moduleInfo
  | bcastMask
  | opCntSel
  | opCntLo
  | opCntHi
  | rasStatus
  | dieStateLo
  | dieStateHi
  | rasCmd
  | rasCmdStatus
  | pwrCap
  | pwrStatus
  | pwrCmd
  | pwrCmdStatus
  | diePwr (n : Fin 18)
  | memCfg
  | mcEcc (n : Fin 16)
  | partCmdAddrLo
  | partCmdAddrHi
  | partCmd
  | partCmdStatus
  | partState (n : Fin 64)
  | ptRoot (n : Fin 64)
  | qlNode
  | qlRouteSel
  | qlRouteData
  | qlPortStatus (n : Fin 8)
  | spanCfg (n : Fin 64)
  | spanVa (n : Fin 64)
  | spanSize (n : Fin 64)
  | spanCommit
  | spanStatus
deriving DecidableEq, Repr

/-- The offset of the register in its block. -/
def GReg.off : GReg → Nat
  | .moduleInfo => 0x0
  | .bcastMask => 0x10
  | .opCntSel => 0x20
  | .opCntLo => 0x24
  | .opCntHi => 0x28
  | .rasStatus => 0x100
  | .dieStateLo => 0x104
  | .dieStateHi => 0x108
  | .rasCmd => 0x10c
  | .rasCmdStatus => 0x110
  | .pwrCap => 0x200
  | .pwrStatus => 0x204
  | .pwrCmd => 0x208
  | .pwrCmdStatus => 0x20c
  | .diePwr n => 0x240 + 4 * n.val
  | .memCfg => 0x300
  | .mcEcc n => 0x340 + 4 * n.val
  | .partCmdAddrLo => 0x400
  | .partCmdAddrHi => 0x404
  | .partCmd => 0x408
  | .partCmdStatus => 0x40c
  | .partState n => 0x500 + 4 * n.val
  | .ptRoot n => 0x600 + 4 * n.val
  | .qlNode => 0x800
  | .qlRouteSel => 0x804
  | .qlRouteData => 0x808
  | .qlPortStatus n => 0x820 + 4 * n.val
  | .spanCfg n => 0x1000 + 16 * n.val
  | .spanVa n => 0x1004 + 16 * n.val
  | .spanSize n => 0x1008 + 16 * n.val
  | .spanCommit => 0x1400
  | .spanStatus => 0x1404

/-- The register at an offset of the block, if there is one. -/
def GReg.ofOff (o : Nat) : Option GReg :=
  (if o = 0x0 then some GReg.moduleInfo else none) <|>
  (if o = 0x10 then some GReg.bcastMask else none) <|>
  (if o = 0x20 then some GReg.opCntSel else none) <|>
  (if o = 0x24 then some GReg.opCntLo else none) <|>
  (if o = 0x28 then some GReg.opCntHi else none) <|>
  (if o = 0x100 then some GReg.rasStatus else none) <|>
  (if o = 0x104 then some GReg.dieStateLo else none) <|>
  (if o = 0x108 then some GReg.dieStateHi else none) <|>
  (if o = 0x10c then some GReg.rasCmd else none) <|>
  (if o = 0x110 then some GReg.rasCmdStatus else none) <|>
  (if o = 0x200 then some GReg.pwrCap else none) <|>
  (if o = 0x204 then some GReg.pwrStatus else none) <|>
  (if o = 0x208 then some GReg.pwrCmd else none) <|>
  (if o = 0x20c then some GReg.pwrCmdStatus else none) <|>
  ((GReg.diePwr <$> arrIdx 18 0x240 4 o)) <|>
  (if o = 0x300 then some GReg.memCfg else none) <|>
  ((GReg.mcEcc <$> arrIdx 16 0x340 4 o)) <|>
  (if o = 0x400 then some GReg.partCmdAddrLo else none) <|>
  (if o = 0x404 then some GReg.partCmdAddrHi else none) <|>
  (if o = 0x408 then some GReg.partCmd else none) <|>
  (if o = 0x40c then some GReg.partCmdStatus else none) <|>
  ((GReg.partState <$> arrIdx 64 0x500 4 o)) <|>
  ((GReg.ptRoot <$> arrIdx 64 0x600 4 o)) <|>
  (if o = 0x800 then some GReg.qlNode else none) <|>
  (if o = 0x804 then some GReg.qlRouteSel else none) <|>
  (if o = 0x808 then some GReg.qlRouteData else none) <|>
  ((GReg.qlPortStatus <$> arrIdx 8 0x820 4 o)) <|>
  ((GReg.spanCfg <$> arrIdx 64 0x1000 16 o)) <|>
  ((GReg.spanVa <$> arrIdx 64 0x1004 16 o)) <|>
  ((GReg.spanSize <$> arrIdx 64 0x1008 16 o)) <|>
  (if o = 0x1400 then some GReg.spanCommit else none) <|>
  (if o = 0x1404 then some GReg.spanStatus else none)

/-- The fields of the register. -/
def GReg.fields : GReg → List RegField
  | .moduleInfo => [⟨11, 10, .ro⟩, ⟨7, 0, .ro⟩] -- R442
  | .bcastMask => [⟨17, 0, .rw⟩] -- R442
  | .opCntSel => [⟨21, 16, .rw⟩, ⟨15, 0, .rw⟩] -- R399
  | .opCntLo => [⟨31, 0, .ro⟩] -- R399
  | .opCntHi => [⟨31, 0, .ro⟩] -- R399
  | .rasStatus => [⟨31, 31, .ro⟩, ⟨30, 30, .ro⟩, ⟨29, 29, .ro⟩, ⟨28, 28, .ro⟩, ⟨27, 27, .ro⟩, ⟨26, 26, .ro⟩, ⟨20, 16, .ro⟩, ⟨12, 11, .ro⟩] -- R373
  | .dieStateLo => [⟨31, 0, .ro⟩] -- R373
  | .dieStateHi => [⟨3, 0, .ro⟩] -- R373
  | .rasCmd => [⟨31, 31, .wo⟩, ⟨20, 16, .wo⟩, ⟨3, 0, .wo⟩] -- R373
  | .rasCmdStatus => [⟨31, 16, .ro⟩, ⟨0, 0, .ro⟩] -- R373
  | .pwrCap => [⟨31, 31, .wo⟩, ⟨9, 0, .rw⟩] -- R386
  | .pwrStatus => [⟨31, 22, .ro⟩, ⟨21, 19, .ro⟩, ⟨15, 15, .ro⟩, ⟨14, 14, .ro⟩, ⟨13, 13, .ro⟩, ⟨12, 12, .ro⟩, ⟨0, 0, .w1c⟩] -- R386
  | .pwrCmd => [⟨31, 31, .wo⟩, ⟨3, 0, .wo⟩] -- R386
  | .pwrCmdStatus => [⟨31, 16, .ro⟩, ⟨0, 0, .ro⟩] -- R386
  | .diePwr _ => [⟨31, 28, .ro⟩, ⟨23, 12, .ro⟩, ⟨11, 0, .ro⟩] -- R386
  | .memCfg => [⟨19, 18, .ro⟩, ⟨3, 2, .rw⟩, ⟨1, 0, .rw⟩] -- R227
  | .mcEcc _ => [⟨31, 16, .ro⟩, ⟨15, 0, .ro⟩] -- R228
  | .partCmdAddrLo => [⟨31, 6, .rw⟩] -- R310
  | .partCmdAddrHi => [⟨31, 0, .rw⟩] -- R310
  | .partCmd => [⟨31, 31, .wo⟩, ⟨13, 8, .rw⟩, ⟨3, 0, .rw⟩] -- R310
  | .partCmdStatus => [⟨31, 16, .ro⟩, ⟨13, 8, .ro⟩, ⟨0, 0, .ro⟩] -- R310
  | .partState _ => [⟨23, 16, .ro⟩, ⟨15, 8, .ro⟩, ⟨2, 0, .ro⟩] -- R310
  | .ptRoot _ => [⟨28, 0, .rw⟩] -- R230
  | .qlNode => [⟨31, 31, .rw⟩, ⟨23, 16, .rw⟩, ⟨10, 0, .rw⟩] -- R412
  | .qlRouteSel => [⟨10, 0, .rw⟩] -- R412
  | .qlRouteData => [⟨3, 3, .rw⟩, ⟨2, 0, .rw⟩] -- R412
  | .qlPortStatus _ => [⟨31, 29, .ro⟩, ⟨26, 16, .ro⟩, ⟨15, 0, .ro⟩] -- R412
  | .spanCfg _ => [⟨31, 31, .rws⟩, ⟨30, 30, .rws⟩, ⟨29, 24, .rws⟩, ⟨21, 16, .rws⟩, ⟨10, 0, .rws⟩] -- R414
  | .spanVa _ => [⟨31, 0, .rws⟩] -- R414
  | .spanSize _ => [⟨21, 0, .rws⟩] -- R414
  | .spanCommit => [⟨31, 31, .wo⟩, ⟨5, 0, .wo⟩] -- R414
  | .spanStatus => [⟨17, 17, .ro⟩, ⟨16, 16, .w1c⟩, ⟨5, 0, .ro⟩] -- R414

/-- The value of the register after reset (fields that hold store or fuse values: as shipped, log entry 5). -/
def GReg.init : GReg → Word32
  | .moduleInfo => 0x00000000
  | .bcastMask => 0x00000000
  | .opCntSel => 0x00000000
  | .opCntLo => 0x00000000
  | .opCntHi => 0x00000000
  | .rasStatus => 0x00001000
  | .dieStateLo => 0x00000000
  | .dieStateHi => 0x00000000
  | .rasCmd => 0x00000000
  | .rasCmdStatus => 0x00000000
  | .pwrCap => 0x000003b6
  | .pwrStatus => 0x00300000
  | .pwrCmd => 0x00000000
  | .pwrCmdStatus => 0x00000000
  | .diePwr _ => 0xf0000000
  | .memCfg => 0x00000001
  | .mcEcc _ => 0x00000000
  | .partCmdAddrLo => 0x00000000
  | .partCmdAddrHi => 0x00000000
  | .partCmd => 0x00000000
  | .partCmdStatus => 0x00000000
  | .partState _ => 0x00000000
  | .ptRoot _ => 0x00000000
  | .qlNode => 0x00ff0000
  | .qlRouteSel => 0x00000000
  | .qlRouteData => 0x00000000
  | .qlPortStatus _ => 0x00000000
  | .spanCfg _ => 0x00000000
  | .spanVa _ => 0x00000000
  | .spanSize _ => 0x00000000
  | .spanCommit => 0x00000000
  | .spanStatus => 0x00000000

/-- A hank-die block (R443). -/
inductive HReg where
  | fcStatus
  | fcAlarmSel
  | fcAlarmData (n : Fin 8)
  | fcAlarmAck
  | pkeRingBaseLo
  | pkeRingBaseHi
  | pkeRingCfg
  | pkeDb
  | pkeStatus
  | logBaseLo
  | logBaseHi
  | logCfg
  | logPtr
  | trcBaseLo
  | trcBaseHi
  | trcCfg
  | trcPtr
  | recLost
deriving DecidableEq, Repr

/-- The offset of the register in its block. -/
def HReg.off : HReg → Nat
  | .fcStatus => 0x0
  | .fcAlarmSel => 0x4
  | .fcAlarmData n => 0x10 + 4 * n.val
  | .fcAlarmAck => 0x30
  | .pkeRingBaseLo => 0x100
  | .pkeRingBaseHi => 0x104
  | .pkeRingCfg => 0x108
  | .pkeDb => 0x10c
  | .pkeStatus => 0x110
  | .logBaseLo => 0x200
  | .logBaseHi => 0x204
  | .logCfg => 0x208
  | .logPtr => 0x20c
  | .trcBaseLo => 0x210
  | .trcBaseHi => 0x214
  | .trcCfg => 0x218
  | .trcPtr => 0x21c
  | .recLost => 0x220

/-- The register at an offset of the block, if there is one. -/
def HReg.ofOff (o : Nat) : Option HReg :=
  (if o = 0x0 then some HReg.fcStatus else none) <|>
  (if o = 0x4 then some HReg.fcAlarmSel else none) <|>
  ((HReg.fcAlarmData <$> arrIdx 8 0x10 4 o)) <|>
  (if o = 0x30 then some HReg.fcAlarmAck else none) <|>
  (if o = 0x100 then some HReg.pkeRingBaseLo else none) <|>
  (if o = 0x104 then some HReg.pkeRingBaseHi else none) <|>
  (if o = 0x108 then some HReg.pkeRingCfg else none) <|>
  (if o = 0x10c then some HReg.pkeDb else none) <|>
  (if o = 0x110 then some HReg.pkeStatus else none) <|>
  (if o = 0x200 then some HReg.logBaseLo else none) <|>
  (if o = 0x204 then some HReg.logBaseHi else none) <|>
  (if o = 0x208 then some HReg.logCfg else none) <|>
  (if o = 0x20c then some HReg.logPtr else none) <|>
  (if o = 0x210 then some HReg.trcBaseLo else none) <|>
  (if o = 0x214 then some HReg.trcBaseHi else none) <|>
  (if o = 0x218 then some HReg.trcCfg else none) <|>
  (if o = 0x21c then some HReg.trcPtr else none) <|>
  (if o = 0x220 then some HReg.recLost else none)

/-- The fields of the register. -/
def HReg.fields : HReg → List RegField
  | .fcStatus => [⟨31, 31, .w1c⟩, ⟨23, 16, .ro⟩, ⟨15, 8, .ro⟩] -- R372
  | .fcAlarmSel => [⟨6, 0, .rw⟩] -- R372
  | .fcAlarmData _ => [⟨31, 0, .ro⟩] -- R372
  | .fcAlarmAck => [⟨0, 0, .wo⟩] -- R372
  | .pkeRingBaseLo => [⟨31, 6, .rws⟩] -- R343
  | .pkeRingBaseHi => [⟨31, 0, .rws⟩] -- R343
  | .pkeRingCfg => [⟨31, 31, .rw⟩, ⟨30, 30, .ro⟩, ⟨11, 8, .rw⟩, ⟨4, 0, .rws⟩] -- R343
  | .pkeDb => [⟨15, 0, .wo⟩] -- R343
  | .pkeStatus => [⟨17, 17, .w1c⟩, ⟨16, 16, .w1c⟩, ⟨15, 0, .ro⟩] -- R343
  | .logBaseLo => [⟨31, 5, .rw⟩] -- R405
  | .logBaseHi => [⟨31, 0, .rw⟩] -- R405
  | .logCfg => [⟨31, 31, .rw⟩, ⟨3, 0, .rw⟩] -- R405
  | .logPtr => [⟨31, 16, .ro⟩, ⟨15, 0, .rw⟩] -- R405
  | .trcBaseLo => [⟨31, 5, .rw⟩] -- R405
  | .trcBaseHi => [⟨31, 0, .rw⟩] -- R405
  | .trcCfg => [⟨31, 31, .rw⟩, ⟨3, 0, .rw⟩] -- R405
  | .trcPtr => [⟨31, 16, .ro⟩, ⟨15, 0, .rw⟩] -- R405
  | .recLost => [⟨31, 16, .ro⟩, ⟨15, 0, .ro⟩] -- R405

/-- The value of the register after reset (fields that hold store or fuse values: as shipped, log entry 5). -/
def HReg.init : HReg → Word32
  | .fcStatus => 0x00000000
  | .fcAlarmSel => 0x00000000
  | .fcAlarmData _ => 0x00000000
  | .fcAlarmAck => 0x00000000
  | .pkeRingBaseLo => 0x00000000
  | .pkeRingBaseHi => 0x00000000
  | .pkeRingCfg => 0x00000004
  | .pkeDb => 0x00000000
  | .pkeStatus => 0x00000000
  | .logBaseLo => 0x00000000
  | .logBaseHi => 0x00000000
  | .logCfg => 0x00000006
  | .logPtr => 0x00000000
  | .trcBaseLo => 0x00000000
  | .trcBaseHi => 0x00000000
  | .trcCfg => 0x00000006
  | .trcPtr => 0x00000000
  | .recLost => 0x00000000

/-- The die-level registers of a skein die window (R444). -/
inductive DReg where
  | bwSplit
  | bwCommit
  | bwStatus
deriving DecidableEq, Repr

/-- The offset of the register in its block. -/
def DReg.off : DReg → Nat
  | .bwSplit => 0x0
  | .bwCommit => 0x4
  | .bwStatus => 0x8

/-- The register at an offset of the block, if there is one. -/
def DReg.ofOff (o : Nat) : Option DReg :=
  (if o = 0x0 then some DReg.bwSplit else none) <|>
  (if o = 0x4 then some DReg.bwCommit else none) <|>
  (if o = 0x8 then some DReg.bwStatus else none)

/-- The fields of the register. -/
def DReg.fields : DReg → List RegField
  | .bwSplit => [⟨20, 16, .rws⟩, ⟨12, 8, .rws⟩, ⟨4, 0, .rws⟩] -- R205
  | .bwCommit => [⟨0, 0, .wo⟩] -- R205
  | .bwStatus => [⟨17, 17, .ro⟩, ⟨16, 16, .w1c⟩] -- R205

/-- The value of the register after reset (fields that hold store or fuse values: as shipped, log entry 5). -/
def DReg.init : DReg → Word32
  | .bwSplit => 0x00020608
  | .bwCommit => 0x00000000
  | .bwStatus => 0x00000000

/-- A tile window (R444). -/
inductive TReg where
  | qcfgLo (n : Fin 48)
  | qcfgHi (n : Fin 48)
  | qtabCommit
  | qtabStatus
  | qstat (n : Fin 48)
  | sem (n : Fin 32)
  | feedLimit
  | spadPwr
  | vecVlmax
  | vecCtrl
deriving DecidableEq, Repr

/-- The offset of the register in its block. -/
def TReg.off : TReg → Nat
  | .qcfgLo n => 0x0 + 8 * n.val
  | .qcfgHi n => 0x4 + 8 * n.val
  | .qtabCommit => 0x200
  | .qtabStatus => 0x204
  | .qstat n => 0x300 + 4 * n.val
  | .sem n => 0x400 + 4 * n.val
  | .feedLimit => 0x500
  | .spadPwr => 0x504
  | .vecVlmax => 0x508
  | .vecCtrl => 0x50c

/-- The register at an offset of the block, if there is one. -/
def TReg.ofOff (o : Nat) : Option TReg :=
  ((TReg.qcfgLo <$> arrIdx 48 0x0 8 o)) <|>
  ((TReg.qcfgHi <$> arrIdx 48 0x4 8 o)) <|>
  (if o = 0x200 then some TReg.qtabCommit else none) <|>
  (if o = 0x204 then some TReg.qtabStatus else none) <|>
  ((TReg.qstat <$> arrIdx 48 0x300 4 o)) <|>
  ((TReg.sem <$> arrIdx 32 0x400 4 o)) <|>
  (if o = 0x500 then some TReg.feedLimit else none) <|>
  (if o = 0x504 then some TReg.spadPwr else none) <|>
  (if o = 0x508 then some TReg.vecVlmax else none) <|>
  (if o = 0x50c then some TReg.vecCtrl else none)

/-- The fields of the register. -/
def TReg.fields : TReg → List RegField
  | .qcfgLo _ => [⟨31, 16, .rws⟩, ⟨15, 0, .rws⟩] -- R188
  | .qcfgHi _ => [⟨31, 31, .rws⟩, ⟨14, 12, .rws⟩, ⟨10, 8, .rws⟩, ⟨7, 4, .rws⟩, ⟨3, 0, .rws⟩] -- R188
  | .qtabCommit => [⟨0, 0, .wo⟩] -- R188
  | .qtabStatus => [⟨17, 17, .ro⟩, ⟨16, 16, .w1c⟩, ⟨5, 0, .ro⟩] -- R188
  | .qstat _ => [⟨23, 16, .ro⟩, ⟨15, 12, .ro⟩, ⟨11, 8, .ro⟩, ⟨4, 0, .ro⟩] -- R188
  | .sem _ => [⟨31, 31, .rw⟩, ⟨22, 20, .rw⟩, ⟨18, 16, .rw⟩, ⟨15, 8, .rw⟩, ⟨7, 0, .rw⟩] -- R192
  | .feedLimit => [⟨31, 24, .rw⟩, ⟨23, 16, .rw⟩, ⟨15, 8, .rw⟩, ⟨7, 0, .rw⟩] -- R203
  | .spadPwr => [⟨15, 8, .ro⟩, ⟨7, 0, .rw⟩] -- R214
  | .vecVlmax => [⟨12, 0, .rw⟩] -- R168
  | .vecCtrl => [⟨1, 1, .ro⟩, ⟨0, 0, .rw⟩] -- R168

/-- The value of the register after reset (fields that hold store or fuse values: as shipped, log entry 5). -/
def TReg.init : TReg → Word32
  | .qcfgLo _ => 0x00000000
  | .qcfgHi _ => 0x00000000
  | .qtabCommit => 0x00000000
  | .qtabStatus => 0x00000000
  | .qstat _ => 0x00000000
  | .sem _ => 0x00000000
  | .feedLimit => 0x1e1e1e1e
  | .spadPwr => 0x0000ffff
  | .vecVlmax => 0x00001000
  | .vecCtrl => 0x00000000

/-- The registers of a partition, at the offsets of its virtual function (R438, R447, R448). -/
inductive PReg where
  | dbSq (n : Fin 16)
  | dbCq (n : Fin 16)
  | ringSqBaseLo (n : Fin 16)
  | ringSqBaseHi (n : Fin 16)
  | ringCqBaseLo (n : Fin 16)
  | ringCqBaseHi (n : Fin 16)
  | ringCfg (n : Fin 16)
  | ringCtrl (n : Fin 16)
  | ringPtr (n : Fin 16)
  | ringStatus (n : Fin 16)
  | ringIrq (n : Fin 16)
  | ringCntSel (n : Fin 16)
  | partSticky
  | partEventCount
  | partRas
  | partSpan
  | xlateFaultLo
  | xlateFaultHi
  | frogCtrl
  | frogStatus
  | coreEntryLo
  | coreEntryHi
  | coreCtrl
  | hook (n : Fin 4)
  | hookStatus
  | inspSel
  | inspOffset
  | inspData
  | smpBaseLo
  | smpBaseHi
  | smpCfg
  | smpPtr
  | smpSel (n : Fin 3)
  | swatchCfg (n : Fin 16)
  | swatchSeq (n : Fin 16)
  | swatchD0 (n : Fin 16)
  | swatchD1 (n : Fin 16)
  | swatchD2 (n : Fin 16)
  | swatchD3 (n : Fin 16)
  | swatchKey (n : Fin 4)
  | ctHandleBaseLo
  | ctHandleBaseHi
  | ctHandleCount
  | ctNoiseGuard
  | ctScaleTol
  | ctEventCount
  | ctlCommit
  | ctlStatus
  | mtAddr
  | mtData
  | mtCommit
  | mtStatus
  | mtFault
  | rbBaseLo
  | rbBaseHi
  | rbCount
  | keyDirBaseLo
  | keyDirBaseHi
  | keyDirCount
  | keyFault
  | keyEventCount
deriving DecidableEq, Repr

/-- The offset of the register in its block. -/
def PReg.off : PReg → Nat
  | .dbSq n => 0x0 + 8 * n.val
  | .dbCq n => 0x4 + 8 * n.val
  | .ringSqBaseLo n => 0x1000 + 64 * n.val
  | .ringSqBaseHi n => 0x1004 + 64 * n.val
  | .ringCqBaseLo n => 0x1008 + 64 * n.val
  | .ringCqBaseHi n => 0x100c + 64 * n.val
  | .ringCfg n => 0x1010 + 64 * n.val
  | .ringCtrl n => 0x1014 + 64 * n.val
  | .ringPtr n => 0x1018 + 64 * n.val
  | .ringStatus n => 0x101c + 64 * n.val
  | .ringIrq n => 0x1020 + 64 * n.val
  | .ringCntSel n => 0x1024 + 64 * n.val
  | .partSticky => 0x2000
  | .partEventCount => 0x2004
  | .partRas => 0x2008
  | .partSpan => 0x200c
  | .xlateFaultLo => 0x2010
  | .xlateFaultHi => 0x2014
  | .frogCtrl => 0x2020
  | .frogStatus => 0x2024
  | .coreEntryLo => 0x2030
  | .coreEntryHi => 0x2034
  | .coreCtrl => 0x2038
  | .hook n => 0x2040 + 4 * n.val
  | .hookStatus => 0x2050
  | .inspSel => 0x2060
  | .inspOffset => 0x2064
  | .inspData => 0x2068
  | .smpBaseLo => 0x2080
  | .smpBaseHi => 0x2084
  | .smpCfg => 0x2088
  | .smpPtr => 0x208c
  | .smpSel n => 0x2090 + 4 * n.val
  | .swatchCfg n => 0x3000 + 32 * n.val
  | .swatchSeq n => 0x3004 + 32 * n.val
  | .swatchD0 n => 0x3008 + 32 * n.val
  | .swatchD1 n => 0x300c + 32 * n.val
  | .swatchD2 n => 0x3010 + 32 * n.val
  | .swatchD3 n => 0x3014 + 32 * n.val
  | .swatchKey n => 0x3200 + 4 * n.val
  | .ctHandleBaseLo => 0x4000
  | .ctHandleBaseHi => 0x4004
  | .ctHandleCount => 0x4008
  | .ctNoiseGuard => 0x400c
  | .ctScaleTol => 0x4010
  | .ctEventCount => 0x4014
  | .ctlCommit => 0x4040
  | .ctlStatus => 0x4044
  | .mtAddr => 0x4100
  | .mtData => 0x4104
  | .mtCommit => 0x4108
  | .mtStatus => 0x410c
  | .mtFault => 0x4110
  | .rbBaseLo => 0x4200
  | .rbBaseHi => 0x4204
  | .rbCount => 0x4208
  | .keyDirBaseLo => 0x5000
  | .keyDirBaseHi => 0x5004
  | .keyDirCount => 0x5008
  | .keyFault => 0x500c
  | .keyEventCount => 0x5010

/-- The register at an offset of the block, if there is one. -/
def PReg.ofOff (o : Nat) : Option PReg :=
  ((PReg.dbSq <$> arrIdx 16 0x0 8 o)) <|>
  ((PReg.dbCq <$> arrIdx 16 0x4 8 o)) <|>
  ((PReg.ringSqBaseLo <$> arrIdx 16 0x1000 64 o)) <|>
  ((PReg.ringSqBaseHi <$> arrIdx 16 0x1004 64 o)) <|>
  ((PReg.ringCqBaseLo <$> arrIdx 16 0x1008 64 o)) <|>
  ((PReg.ringCqBaseHi <$> arrIdx 16 0x100c 64 o)) <|>
  ((PReg.ringCfg <$> arrIdx 16 0x1010 64 o)) <|>
  ((PReg.ringCtrl <$> arrIdx 16 0x1014 64 o)) <|>
  ((PReg.ringPtr <$> arrIdx 16 0x1018 64 o)) <|>
  ((PReg.ringStatus <$> arrIdx 16 0x101c 64 o)) <|>
  ((PReg.ringIrq <$> arrIdx 16 0x1020 64 o)) <|>
  ((PReg.ringCntSel <$> arrIdx 16 0x1024 64 o)) <|>
  (if o = 0x2000 then some PReg.partSticky else none) <|>
  (if o = 0x2004 then some PReg.partEventCount else none) <|>
  (if o = 0x2008 then some PReg.partRas else none) <|>
  (if o = 0x200c then some PReg.partSpan else none) <|>
  (if o = 0x2010 then some PReg.xlateFaultLo else none) <|>
  (if o = 0x2014 then some PReg.xlateFaultHi else none) <|>
  (if o = 0x2020 then some PReg.frogCtrl else none) <|>
  (if o = 0x2024 then some PReg.frogStatus else none) <|>
  (if o = 0x2030 then some PReg.coreEntryLo else none) <|>
  (if o = 0x2034 then some PReg.coreEntryHi else none) <|>
  (if o = 0x2038 then some PReg.coreCtrl else none) <|>
  ((PReg.hook <$> arrIdx 4 0x2040 4 o)) <|>
  (if o = 0x2050 then some PReg.hookStatus else none) <|>
  (if o = 0x2060 then some PReg.inspSel else none) <|>
  (if o = 0x2064 then some PReg.inspOffset else none) <|>
  (if o = 0x2068 then some PReg.inspData else none) <|>
  (if o = 0x2080 then some PReg.smpBaseLo else none) <|>
  (if o = 0x2084 then some PReg.smpBaseHi else none) <|>
  (if o = 0x2088 then some PReg.smpCfg else none) <|>
  (if o = 0x208c then some PReg.smpPtr else none) <|>
  ((PReg.smpSel <$> arrIdx 3 0x2090 4 o)) <|>
  ((PReg.swatchCfg <$> arrIdx 16 0x3000 32 o)) <|>
  ((PReg.swatchSeq <$> arrIdx 16 0x3004 32 o)) <|>
  ((PReg.swatchD0 <$> arrIdx 16 0x3008 32 o)) <|>
  ((PReg.swatchD1 <$> arrIdx 16 0x300c 32 o)) <|>
  ((PReg.swatchD2 <$> arrIdx 16 0x3010 32 o)) <|>
  ((PReg.swatchD3 <$> arrIdx 16 0x3014 32 o)) <|>
  ((PReg.swatchKey <$> arrIdx 4 0x3200 4 o)) <|>
  (if o = 0x4000 then some PReg.ctHandleBaseLo else none) <|>
  (if o = 0x4004 then some PReg.ctHandleBaseHi else none) <|>
  (if o = 0x4008 then some PReg.ctHandleCount else none) <|>
  (if o = 0x400c then some PReg.ctNoiseGuard else none) <|>
  (if o = 0x4010 then some PReg.ctScaleTol else none) <|>
  (if o = 0x4014 then some PReg.ctEventCount else none) <|>
  (if o = 0x4040 then some PReg.ctlCommit else none) <|>
  (if o = 0x4044 then some PReg.ctlStatus else none) <|>
  (if o = 0x4100 then some PReg.mtAddr else none) <|>
  (if o = 0x4104 then some PReg.mtData else none) <|>
  (if o = 0x4108 then some PReg.mtCommit else none) <|>
  (if o = 0x410c then some PReg.mtStatus else none) <|>
  (if o = 0x4110 then some PReg.mtFault else none) <|>
  (if o = 0x4200 then some PReg.rbBaseLo else none) <|>
  (if o = 0x4204 then some PReg.rbBaseHi else none) <|>
  (if o = 0x4208 then some PReg.rbCount else none) <|>
  (if o = 0x5000 then some PReg.keyDirBaseLo else none) <|>
  (if o = 0x5004 then some PReg.keyDirBaseHi else none) <|>
  (if o = 0x5008 then some PReg.keyDirCount else none) <|>
  (if o = 0x500c then some PReg.keyFault else none) <|>
  (if o = 0x5010 then some PReg.keyEventCount else none)

/-- The fields of the register. -/
def PReg.fields : PReg → List RegField
  | .dbSq _ => [⟨15, 0, .wo⟩] -- R253
  | .dbCq _ => [⟨15, 0, .wo⟩] -- R253
  | .ringSqBaseLo _ => [⟨31, 6, .rws⟩] -- R251
  | .ringSqBaseHi _ => [⟨31, 0, .rws⟩] -- R251
  | .ringCqBaseLo _ => [⟨31, 6, .rws⟩] -- R251
  | .ringCqBaseHi _ => [⟨31, 0, .rws⟩] -- R251
  | .ringCfg _ => [⟨17, 17, .rws⟩, ⟨16, 16, .rws⟩, ⟨12, 8, .rws⟩, ⟨4, 0, .rws⟩] -- R251
  | .ringCtrl _ => [⟨1, 1, .ro⟩, ⟨0, 0, .rw⟩] -- R251
  | .ringPtr _ => [⟨31, 16, .ro⟩, ⟨15, 0, .ro⟩] -- R251
  | .ringStatus _ => [⟨4, 4, .w1c⟩, ⟨3, 3, .ro⟩, ⟨2, 2, .w1c⟩, ⟨1, 1, .w1c⟩, ⟨0, 0, .w1c⟩] -- R251
  | .ringIrq _ => [⟨31, 16, .rw⟩, ⟨15, 8, .rw⟩, ⟨3, 0, .rw⟩] -- R251
  | .ringCntSel _ => [⟨31, 16, .rw⟩, ⟨15, 0, .rw⟩] -- R251
  | .partSticky => [⟨16, 16, .w1c⟩, ⟨15, 15, .w1c⟩, ⟨14, 14, .w1c⟩, ⟨13, 13, .w1c⟩, ⟨12, 12, .w1c⟩, ⟨11, 11, .w1c⟩, ⟨10, 10, .w1c⟩, ⟨9, 9, .w1c⟩, ⟨8, 8, .w1c⟩, ⟨7, 7, .w1c⟩, ⟨6, 6, .w1c⟩, ⟨5, 5, .w1c⟩, ⟨4, 4, .w1c⟩, ⟨3, 3, .w1c⟩, ⟨2, 2, .w1c⟩, ⟨1, 1, .w1c⟩, ⟨0, 0, .w1c⟩] -- R279
  | .partEventCount => [⟨31, 16, .ro⟩, ⟨15, 0, .ro⟩] -- R279
  | .partRas => [⟨24, 24, .w1c⟩, ⟨23, 16, .ro⟩, ⟨12, 8, .ro⟩, ⟨4, 0, .ro⟩] -- R374
  | .partSpan => [⟨31, 16, .ro⟩, ⟨0, 0, .w1c⟩] -- R414
  | .xlateFaultLo => [⟨31, 0, .ro⟩] -- R232
  | .xlateFaultHi => [⟨31, 28, .ro⟩, ⟨27, 25, .ro⟩, ⟨24, 24, .ro⟩, ⟨23, 23, .w1c⟩, ⟨15, 0, .ro⟩] -- R232
  | .frogCtrl => [⟨31, 31, .wo⟩, ⟨30, 30, .wo⟩, ⟨19, 16, .wo⟩, ⟨15, 0, .wo⟩] -- R320
  | .frogStatus => [⟨1, 0, .ro⟩] -- R320
  | .coreEntryLo => [⟨31, 2, .rw⟩] -- R320
  | .coreEntryHi => [⟨15, 0, .rw⟩] -- R320
  | .coreCtrl => [⟨23, 16, .ro⟩, ⟨8, 8, .ro⟩, ⟨1, 1, .wo⟩, ⟨0, 0, .wo⟩] -- R320
  | .hook _ => [⟨31, 31, .rw⟩, ⟨30, 30, .rw⟩, ⟨19, 16, .rw⟩, ⟨15, 0, .rw⟩] -- R393
  | .hookStatus => [⟨31, 31, .wo⟩, ⟨19, 18, .ro⟩, ⟨17, 16, .ro⟩, ⟨15, 0, .ro⟩] -- R393
  | .inspSel => [⟨26, 24, .rw⟩, ⟨8, 0, .rw⟩] -- R396
  | .inspOffset => [⟨23, 0, .rw⟩] -- R396
  | .inspData => [⟨31, 0, .ro⟩] -- R396
  | .smpBaseLo => [⟨31, 6, .rw⟩] -- R400
  | .smpBaseHi => [⟨15, 0, .rw⟩] -- R400
  | .smpCfg => [⟨31, 31, .rw⟩, ⟨27, 24, .rw⟩, ⟨19, 0, .rw⟩] -- R400
  | .smpPtr => [⟨31, 16, .ro⟩, ⟨15, 0, .rw⟩] -- R400
  | .smpSel _ => [⟨31, 16, .rw⟩, ⟨15, 0, .rw⟩] -- R400
  | .swatchCfg _ => [⟨31, 31, .rw⟩, ⟨30, 30, .rw⟩, ⟨19, 0, .rw⟩] -- R402
  | .swatchSeq _ => [⟨31, 0, .ro⟩] -- R402
  | .swatchD0 _ => [⟨31, 0, .ro⟩] -- R402
  | .swatchD1 _ => [⟨31, 0, .ro⟩] -- R402
  | .swatchD2 _ => [⟨31, 0, .ro⟩] -- R402
  | .swatchD3 _ => [⟨31, 0, .ro⟩] -- R402
  | .swatchKey _ => [⟨31, 0, .wo⟩] -- R404
  | .ctHandleBaseLo => [⟨31, 16, .rws⟩] -- R39
  | .ctHandleBaseHi => [⟨15, 0, .rws⟩] -- R39
  | .ctHandleCount => [⟨20, 0, .rws⟩] -- R39
  | .ctNoiseGuard => [⟨15, 0, .rw⟩] -- R39
  | .ctScaleTol => [⟨31, 0, .rw⟩] -- R39
  | .ctEventCount => [⟨31, 16, .ro⟩, ⟨15, 0, .ro⟩] -- R39
  | .ctlCommit => [⟨2, 2, .wo⟩, ⟨1, 1, .wo⟩, ⟨0, 0, .wo⟩] -- R449
  | .ctlStatus => [⟨18, 18, .w1c⟩, ⟨17, 17, .w1c⟩, ⟨16, 16, .w1c⟩, ⟨2, 2, .ro⟩, ⟨1, 1, .ro⟩, ⟨0, 0, .ro⟩] -- R449
  | .mtAddr => [⟨31, 31, .rw⟩, ⟨15, 12, .rw⟩, ⟨10, 4, .rw⟩, ⟨3, 0, .rw⟩] -- R73
  | .mtData => [⟨31, 0, .rws⟩] -- R73
  | .mtCommit => [⟨15, 0, .wo⟩] -- R73
  | .mtStatus => [⟨17, 17, .ro⟩, ⟨16, 16, .w1c⟩, ⟨15, 0, .ro⟩] -- R73
  | .mtFault => [⟨31, 16, .ro⟩, ⟨15, 12, .ro⟩, ⟨11, 8, .ro⟩, ⟨6, 0, .ro⟩] -- R73
  | .rbBaseLo => [⟨31, 6, .rws⟩] -- R300
  | .rbBaseHi => [⟨15, 0, .rws⟩] -- R300
  | .rbCount => [⟨4, 0, .rws⟩] -- R300
  | .keyDirBaseLo => [⟨31, 16, .rws⟩] -- R151
  | .keyDirBaseHi => [⟨15, 0, .rws⟩] -- R151
  | .keyDirCount => [⟨12, 0, .rws⟩] -- R151
  | .keyFault => [⟨31, 28, .ro⟩, ⟨27, 16, .ro⟩, ⟨15, 0, .ro⟩] -- R159
  | .keyEventCount => [⟨31, 16, .ro⟩, ⟨15, 0, .ro⟩] -- R159

/-- The value of the register after reset (fields that hold store or fuse values: as shipped, log entry 5). -/
def PReg.init : PReg → Word32
  | .dbSq _ => 0x00000000
  | .dbCq _ => 0x00000000
  | .ringSqBaseLo _ => 0x00000000
  | .ringSqBaseHi _ => 0x00000000
  | .ringCqBaseLo _ => 0x00000000
  | .ringCqBaseHi _ => 0x00000000
  | .ringCfg _ => 0x00000404
  | .ringCtrl _ => 0x00000000
  | .ringPtr _ => 0x00000000
  | .ringStatus _ => 0x00000000
  | .ringIrq _ => 0x00000100
  | .ringCntSel _ => 0x00000000
  | .partSticky => 0x00000000
  | .partEventCount => 0x00000000
  | .partRas => 0x00000000
  | .partSpan => 0x00000000
  | .xlateFaultLo => 0x00000000
  | .xlateFaultHi => 0x00000000
  | .frogCtrl => 0x00000000
  | .frogStatus => 0x00000000
  | .coreEntryLo => 0x00000000
  | .coreEntryHi => 0x00000000
  | .coreCtrl => 0x00000000
  | .hook _ => 0x00000000
  | .hookStatus => 0x00000000
  | .inspSel => 0x00000000
  | .inspOffset => 0x00000000
  | .inspData => 0x00000000
  | .smpBaseLo => 0x00000000
  | .smpBaseHi => 0x00000000
  | .smpCfg => 0x040003e8
  | .smpPtr => 0x00000000
  | .smpSel _ => 0x00000000
  | .swatchCfg _ => 0x00000000
  | .swatchSeq _ => 0x00000000
  | .swatchD0 _ => 0x00000000
  | .swatchD1 _ => 0x00000000
  | .swatchD2 _ => 0x00000000
  | .swatchD3 _ => 0x00000000
  | .swatchKey _ => 0x00000000
  | .ctHandleBaseLo => 0x00000000
  | .ctHandleBaseHi => 0x00000000
  | .ctHandleCount => 0x00000000
  | .ctNoiseGuard => 0x00000400
  | .ctScaleTol => 0x00000100
  | .ctEventCount => 0x00000000
  | .ctlCommit => 0x00000000
  | .ctlStatus => 0x00000000
  | .mtAddr => 0x00000000
  | .mtData => 0x00000000
  | .mtCommit => 0x00000000
  | .mtStatus => 0x00000000
  | .mtFault => 0x00000000
  | .rbBaseLo => 0x00000000
  | .rbBaseHi => 0x00000000
  | .rbCount => 0x00000000
  | .keyDirBaseLo => 0x00000000
  | .keyDirBaseHi => 0x00000000
  | .keyDirCount => 0x00000000
  | .keyFault => 0x00000000
  | .keyEventCount => 0x00000000

/-- Every 32-bit register of the module (R450). Tiles carry their global number (R17). -/
inductive Reg where
  | glob (r : GReg)
  | hank (h : Fin 4) (r : HReg)
  | die (d : Fin 18) (r : DReg)
  | tile (t : Fin 576) (r : TReg)
  | part (p : Fin 64) (r : PReg)
deriving DecidableEq, Repr

/-- The address of the register in the physical-function BAR0 (R435). -/
def Reg.addr : Reg → Nat
  | .glob r => r.off
  | .hank h r => 0x100000 + 0x40000 * h.val + r.off
  | .die d r => 0x1000000 + 0x100000 * d.val + r.off
  | .tile t r => 0x1080000 + 0x100000 * (t.val / 32) + 0x2000 * (t.val % 32) + r.off
  | .part p r => 0x800000 + 0x10000 * p.val + r.off

/-- The fields of a register. -/
def Reg.fields : Reg → List RegField
  | .glob r => r.fields
  | .hank _ r => r.fields
  | .die _ r => r.fields
  | .tile _ r => r.fields
  | .part _ r => r.fields

/-- The value of a register after reset. -/
def Reg.init : Reg → Word32
  | .glob r => r.init
  | .hank _ r => r.init
  | .die _ r => r.init
  | .tile _ r => r.init
  | .part _ r => r.init

/-- A block of the physical-function BAR0 and the offset in it (R435). -/
inductive Block where
  | glob (o : Nat)
  | hank (h : Fin 4) (o : Nat)
  | msix (o : Nat)
  | window (p : Fin 64) (o : Nat)
  | die (d : Fin 18) (o : Nat)
  | tile (t : Fin 576) (o : Nat)
  | bcastAll (o : Nat)
  | bcastGroup (o : Nat)
  | bcastTile (o : Nat)
  | security (o : Nat)
  | reserved
deriving DecidableEq, Repr

/-- The block of a region of equal parts: part number and offset in the part. -/
def regionIdx (n base stride o : Nat) : Option (Fin n × Nat) :=
  if h : base ≤ o ∧ (o - base) / stride < n then some (⟨(o - base) / stride, h.2⟩, (o - base) % stride)
  else none

/-- Which part of a skein die window an offset names (R444): a tile window, or the die level. -/
def dieBlock (d : Fin 18) (o : Nat) : Block :=
  if h : 0x80000 ≤ o ∧ (o - 0x80000) / 0x2000 < 32 then
    .tile ⟨d.val * 32 + (o - 0x80000) / 0x2000, by omega⟩ ((o - 0x80000) % 0x2000)
  else .die d o

/-- The layout of the physical-function BAR0 (R435). -/
def pfBlock (a : Nat) : Block :=
  if a < 0x100000 then .glob a
  else match regionIdx 4 0x100000 0x40000 a with
  | some (h, o) => .hank h o
  | none =>
    if 0x200000 ≤ a ∧ a < 0x202000 then .msix (a - 0x200000)
    else match regionIdx 64 0x800000 0x10000 a with
    | some (p, o) => .window p o
    | none =>
      match regionIdx 18 0x1000000 0x100000 a with
      | some (d, o) => dieBlock d o
      | none =>
        if 0x3000000 ≤ a ∧ a < 0x3100000 then .bcastAll (a - 0x3000000)
        else if 0x3100000 ≤ a ∧ a < 0x3200000 then .bcastGroup (a - 0x3100000)
        else if 0x3200000 ≤ a ∧ a < 0x3240000 then .bcastTile (a - 0x3200000)
        else if 0x4000000 ≤ a ∧ a < 0x4100000 then .security (a - 0x4000000)
        else .reserved

/-- The register at an offset of a block, if the layout names one. -/
def Block.reg : Block → Option Reg
  | .glob o => Reg.glob <$> GReg.ofOff o
  | .hank h o => Reg.hank h <$> HReg.ofOff o
  | .window p o => Reg.part p <$> PReg.ofOff o
  | .die d o => Reg.die d <$> DReg.ofOff o
  | .tile t o => Reg.tile t <$> TReg.ofOff o
  | _ => none

/-- The register at an address of the physical-function BAR0, if there is one. -/
def Reg.ofAddr (a : Nat) : Option Reg := (pfBlock a).reg

/-- The value that the register at an address has after reset (0 where there is none): what an
unlisted address of the register file reads as. -/
def regInit (a : Nat) : Word32 :=
  match Reg.ofAddr a with
  | some r => r.init
  | none => 0

/-- What lies at an offset of a virtual-function BAR0 (R438). -/
inductive VfPlace where
  | reg (r : PReg)
  | unnamed        -- inside a listed region, but its layout names nothing there
  | msix (o : Nat)
  | reserved
deriving DecidableEq, Repr

/-- The layout of a virtual-function BAR0 (R438). The listed regions end where the reserved ranges
begin; region 0x4000 to 0x4FFF and 0x5000 to 0x5FFF are the two control blocks. -/
def vfPlace (o : Nat) : VfPlace :=
  if (0x80 ≤ o ∧ o < 0x1000) ∨ (0x1400 ≤ o ∧ o < 0x2000) ∨ (0x6000 ≤ o ∧ o < 0x8000) ∨ 0xA000 ≤ o then .reserved
  else if 0x8000 ≤ o then .msix (o - 0x8000)
  else match PReg.ofOff o with
  | some r => .reg r
  | none => .unnamed

/-- The bits of a field. -/
def RegField.mask (f : RegField) : Word32 := BitVec.ofNat 32 (2 ^ (f.hi + 1) - 2 ^ f.lo)

/-- The bits of a register that have type `ty`. -/
def Reg.mask (r : Reg) (ty : RegTy) : Word32 :=
  (r.fields.filter (fun f => f.ty = ty)).foldl (fun m f => m ||| f.mask) 0

/-- The value a register holds after a write of `v` over `old` by R11: RW and RWS fields take the
new bits, W1C fields lose the bits written as 1, everything else is kept. -/
def Reg.written (r : Reg) (old v : Word32) : Word32 :=
  let m := r.mask .rw ||| r.mask .rws
  ((old &&& ~~~m) ||| (v &&& m)) &&& ~~~(v &&& r.mask .w1c)

/-- Bits [hi:lo] of a word, as a number. -/
def bits {w : Nat} (x : BitVec w) (hi lo : Nat) : Nat := x.toNat / 2 ^ lo % 2 ^ (hi + 1 - lo)

/-- Bit `i` of a word. -/
def bit {w : Nat} (x : BitVec w) (i : Nat) : Bool := x.getLsbD i

/-- A word with bits [hi:lo] replaced by the low bits of `v`. -/
def setBits {w : Nat} (x : BitVec w) (hi lo v : Nat) : BitVec w :=
  let m : BitVec w := BitVec.ofNat w (2 ^ (hi + 1) - 2 ^ lo)
  (x &&& ~~~m) ||| (BitVec.ofNat w (v * 2 ^ lo) &&& m)

end Sys2Proof.Machine
end

