-- ==== Sys2Proof/Machine/Tab.lean ====
section
/-! DEFINITION. Sparse tables in one canonical form: keys strictly rising, no entry equal to what an unlisted key reads as. Every memory, register file and numbered family of parts is one. -/
namespace Sys2Proof

/-- A sparse table: pairs of a key and a value (for bytes, `Host.Cell`). -/
abbrev Tab (α : Type) := List (Nat × α)

namespace Tab

variable {α : Type}

/-- What the table says under key `k`; `d` gives what an unlisted key reads as. -/
def get (d : Nat → α) (m : Tab α) (k : Nat) : α :=
  match m with
  | [] => d k
  | (i, v) :: rest => if i = k then v else get d rest k

/-- Remove the entry of key `k`. -/
def erase (m : Tab α) (k : Nat) : Tab α :=
  match m with
  | [] => []
  | (i, v) :: rest => if i = k then rest else if k < i then (i, v) :: rest else (i, v) :: erase rest k

/-- Put the entry `(k, v)` at its place. -/
def insert (m : Tab α) (k : Nat) (v : α) : Tab α :=
  match m with
  | [] => [(k, v)]
  | (i, w) :: rest =>
    if k < i then (k, v) :: (i, w) :: rest
    else if i = k then (k, v) :: rest
    else (i, w) :: insert rest k v

/-- Write `v` under `k` and keep the canonical form: the value an unlisted key reads as is not listed. -/
def set [DecidableEq α] (d : Nat → α) (m : Tab α) (k : Nat) (v : α) : Tab α :=
  if v = d k then erase m k else insert m k v

/-- Change the value under `k` by `f`. -/
def upd [DecidableEq α] (d : Nat → α) (m : Tab α) (k : Nat) (f : α → α) : Tab α :=
  set d m k (f (get d m k))

/-- Every key is above `lo` (`none`: any key), keys rise strictly, and no value is the default. -/
def wfFrom [DecidableEq α] (d : Nat → α) : Option Nat → Tab α → Bool
  | _, [] => true
  | lo, (i, v) :: rest =>
    (match lo with
     | none => true
     | some l => decide (l < i)) && decide (v ≠ d i) && wfFrom d (some i) rest

/-- The canonical form. -/
def wf [DecidableEq α] (d : Nat → α) (m : Tab α) : Bool := wfFrom d none m

/-- Keep only the entries whose key satisfies `p` (the others read as the default again). -/
def keep (p : Nat → Bool) (m : Tab α) : Tab α :=
  match m with
  | [] => []
  | (i, v) :: rest => if p i then (i, v) :: keep p rest else keep p rest

end Tab
end Sys2Proof
end

