-- ==== Sys2Proof/Machine/Records.lean ====
section
/-! DEFINITION. The parts of the state: rings, jobs and ops, tiles and their streams, partitions, dies, ports, power, store and management. Every default is the value after reset. -/
namespace Sys2Proof.Machine

/-- The status codes of R278 that ops and commands report. -/
inductive Status where
  | done | descMalformed | align | overlap | bounds | xlate | protect | chainHold
  | levelExhausted | budgetExhausted | paramMismatch | keyMismatch | operandPoisoned | scaleMismatch
  | engineAbsent | spadOff | killed | tableCommitRefused
deriving DecidableEq, Repr

/-- Where an op stands between fetch and its end. -/
inductive OpPhase where
  | waiting   -- its predecessors have not settled, or its readiness has not been evaluated
  | ready     -- passed the readiness checks and waits for admission (R384)
  | running   -- its streams run (a CUSTOM pattern)
  | ran       -- its outputs are written; it waits for its bind-off
  | bound     -- bound off (R30)
  | ended     -- ended with a status of its own, without a bind-off
  | resolved  -- resolved without running (R271, R322)
deriving DecidableEq, Repr

/-- What the runtime keeps of a validated CUSTOM container (R295, R296). -/
structure CustomPlan where
  ranks : Nat
  crossDie : Bool
  levelDrop : Nat
  resultForm : Nat
  resultCt : Nat
  loss : Nat
  inputs : Nat                      -- ciphertext inputs of the reference entry
  images : List (List (BitVec 64))
  tables : List (List (BitVec 512)) -- one table of 1,024 entries per rank
  descCount : Nat
  qtab : List (BitVec 32)           -- QCFG_LO_0, QCFG_HI_0, QCFG_LO_1, ...
  sems : List (BitVec 32)
  feedLimit : BitVec 32
  spadOn : BitVec 8
  vlmax : Nat
deriving DecidableEq, Repr

/-- What a CUSTOM op that fails leaves in its destinations: a limb array keeps what it held (R207), a tensor is unspecified (R273); at a failure in a key neither is
written (R157, R160); a combine that met an uncorrectable line leaves it as it is (R229). -/
inductive Leaving where
  | own | key | combine
deriving DecidableEq, Repr

/-- An op of a fetched job. -/
structure OpRec where
  idx : Nat                         -- op index; inserted REFRESH ops stand at OP_COUNT and above
  entry : BitVec 512                -- the op entry (R262)
  phase : OpPhase := .waiting
  status : Status := .done
  origin : Nat := 0xFFFF
  remapped : Bool := false
  spilled : Bool := false
  saturated : Bool := false
  autoRefreshed : Bool := false
  tStart : BitVec 64 := 0
  tEnd : BitVec 64 := 0
  c0Start : BitVec 32 := 0
  c1Start : BitVec 32 := 0
  c0End : BitVec 32 := 0
  c1End : BitVec 32 := 0
  tiles : List Nat := []            -- the op's tile list in rank order
  hdrA : BitVec 512 := 0            -- headers as read at readiness (R40)
  hdrB : BitVec 512 := 0
  guard : BitVec 16 := 0            -- CT_NOISE_GUARD at readiness (R52)
  tol : BitVec 32 := 0              -- CT_SCALE_TOL at readiness (R46, R291)
  results : List (Nat × BitVec 512) := []  -- headers to write at bind-off (R40)
  damaged : List Nat := []          -- source handles found damaged (R57)
  readyAt : Nat := 0                -- when it became ready (R384)
  started : Bool := false
  coefficients : List Nat := []      -- the governor's coefficients at its admission (R383, R431)
  stamp : Nat := 0                  -- a free value drawn as it starts: what its tiles show of a pattern that the runtime builds is a function of it (log entry 12)
  blocking : Bool := false          -- passed over for 2 ms (R384)
  ending : Option (Status × Option (List Nat)) := none -- it has failed and ends so, marking headers or not, once what its engines have begun has ended (R207, R209)
  halted : Bool := false            -- stopped by a hook or a frog (R209, R394)
  resumed : Bool := false           -- its hook has fired and the run was resumed: it is dispatched next, and is exempt (R395)
  displaced : Bool := false         -- it waits for new tiles (R69, R355, R363)
  left : List Nat := []             -- the tiles it has to leave (R69)
  dies : List Nat := []             -- the dies of those tiles, on which it stays if it can (R69, R355)
  ranOn : List Nat := []            -- tiles on which it ran before it moved (R323)
  reduceBad : List Nat := []        -- tiles whose reduction unit has mismatched in this op (R177)
  sumsFp32 : Bool := false          -- it contains an FP32 SUM or SUMSQ reduction (R177)
  mismatches : Nat := 0             -- residue-check mismatches on the present tiles (R69)
  replays : Nat := 0                -- executions discarded so far
  inserted : Option Nat := none     -- for an inserted REFRESH: the index of the op after (or before) which it runs
  insertedBefore : Bool := false    -- inserted before the job's first reader (R56)
  refreshDue : Bool := false        -- an inserted REFRESH follows this op (R275)
  reported : Bool := false          -- its completion entry has been produced
  workSlot : Option Nat := none     -- the REFRESH work slot it occupies (R305)
  checkpoint : Option (List (List (List Nat))) := none -- the latest checkpoint of a REFRESH that has run: components, limbs, elements (R305)
  slots : List Nat := []            -- chain slots it names (R74)
  dirs : List (Nat × Nat) := []     -- directory entries it names, as read at readiness (R152)
  descs : List (Nat × Nat) := []    -- descriptors and records it names, as read at readiness
  hold : Nat × Nat := (0, 0)        -- hold area of its chain: first line and lines (R130)
  keyStream : List (Nat × Nat) := [] -- reservoirs (site, first line) whose keys it streams after an error in a share (R216)
  past : List (List (Nat × Nat)) := [] -- the replay digests of its discarded executions, by rank, of those that had completed a rank (R361)
  stashRan : List (Nat × Nat) := [] -- stash lines (tile, line) that its discarded executions have written (R325)
  held : Bool := false              -- five executions without an agreeing pair: only a frog releases it (R361)
  stale : List Nat := []            -- tiles whose transactions of a discarded execution may still time out (R354)
  awaits : List Nat := []           -- dies that its timeouts named (R358)
  saved : List (Nat × List Byte) := [] -- limb arrays that a CUSTOM op or an op with keys shares with its destination, as they were (R360)
  before : List (Nat × List Byte) := [] -- destination regions of a CUSTOM op, as they were (R157, R207)
  leaving : Leaving := .own         -- what its end leaves of them
  plan : Option CustomPlan := none  -- a CUSTOM op's copy of its container (R295)
  limbs : List (Nat × Nat) := []    -- the limb regions of its destinations
  spoil : List (Nat × Nat) := []    -- owned tensor regions that stay unspecified when it ends badly while it runs (R134, R273)
  scratch : List (Nat × Nat) := []  -- regions that it uses as its own store: work slots, spill and work regions
  footR : List (Nat × Nat) := []    -- read footprints in flight (R247)
  footW : List (Nat × Nat) := []    -- write footprints in flight
deriving DecidableEq, Repr

/-- A fetched job, kept until its job completion entry is written (R255, R321). -/
structure Job where
  id : Nat
  part : Nat
  ring : Nat
  sqIndex : Nat
  entry : BitVec 512                -- the submission entry (R260)
  ops : List OpRec := []
  prev : Option Nat := none         -- the job fetched before it from the same ring
  killed : Bool := false
  acceptStatus : Status := .done
  acceptOrigin : Nat := 0xFFFF
  tStart : BitVec 64 := 0
  c0Start : BitVec 32 := 0
  c1Start : BitVec 32 := 0
  produced : Bool := false          -- its job completion entry has been produced
  due : List Nat := []              -- a killed job's ops that have settled, in that order, until the frog reports them (R275, R322)
deriving DecidableEq, Repr

/-- A completion entry on its way to the ring (R257, R258); PHASE and SQ_HEAD are set when it is written. -/
structure HeldEntry where
  bits : BitVec 512
  job : Nat
  isJob : Bool
deriving DecidableEq, Repr

/-- A ring pair beyond its registers (R252 to R259). -/
structure Ring where
  active : Bool := false
  tail : Nat := 0            -- T of R254
  head : Nat := 0            -- H of R254
  sqHead : Nat := 0
  cqTail : Nat := 0
  phase : Bool := true
  fetchStopped : Bool := false
  deliveryStopped : Bool := false
  hold : List HeldEntry := []
  irqCount : Nat := 0        -- entries written since the last interrupt
  lastJob : Option Nat := none
deriving DecidableEq, Repr

/-- A feeder command: a transfer or a marker (R193, R202). -/
inductive FeedCmd where
  | transfer (op : BitVec 8) (word : StreamWord) (rows : List Nat)
  | marker
deriving DecidableEq, Repr

/-- A semaphore post on its way (R193, R194). -/
structure Post where
  tile : Nat
  pair : Nat
  free : Bool                -- side FREE (otherwise READY)
  amount : Nat
  markers : Bool             -- a FEED post: waits for a marker in all four feeder queues
deriving DecidableEq, Repr

/-- An open LOOP of a stream (R186). -/
structure LoopFrame where
  first : Nat                -- index of the body's first instruction
  len : Nat
  count : Nat
  iter : Nat
deriving DecidableEq, Repr

/-- A comparator bound by CMPSET (R187). -/
structure Comparator where
  counter : Nat
  rel : Nat
  value : Nat
deriving DecidableEq, Repr

/-- Why a stream stands still (R190, R191, R193). -/
inductive Stall where
  | none | freeSlot (q : Nat) | committedSlot (q : Nat) | direct (q : Nat) | sem | feeder (fs : List Nat)
  | key      -- a PMAC, until every rank of the op has passed its key check (R157)
  | spad (gs : List Nat) -- scratchpad groups that are not all READY yet (R214)
  | tracker  -- a read on the narrow path, while the tile's tracker is full (R27)
  | residue  -- a residue check has failed: the instruction does not complete, and RESIDUE_MISMATCH discards the execution (R68, R69)
  | busy     -- a second reduction waits for the first (R173), or RMODE for the open groups (R199)
deriving DecidableEq, Repr

/-- One stream of a tile (R179, R180, R186, R187, R167). -/
structure Stream where
  running : Bool := false
  pc : Nat := 0
  image : List (BitVec 64) := []
  rows : Tab Nat := []
  comps : Tab (Option Comparator) := []
  loops : List LoopFrame := []   -- innermost first
  lastCount : Tab Nat := []      -- iterations of the last LOOP of each row counter (relation 5)
  vl : Tab Nat := []             -- VEC length registers, by loop level
  stall : Stall := .none
  wait : Option (Nat × Bool × Nat) := none  -- SWAIT: pair, side FREE, amount
  done : Nat := 0                -- units of the instruction at pc that are done (R184)
  inBufA : List Nat := []        -- elements it has taken from direct queues
  inBufB : List Nat := []
  outBuf : List Nat := []        -- elements it has still to put into a direct queue
deriving DecidableEq, Repr

/-- A queue of a tile (R188 to R191). -/
structure Queue where
  prodSlot : Nat := 0
  prodOff : Nat := 0             -- bits written into the producer slot
  consSlot : Nat := 0
  consOff : Nat := 0             -- bits read from the consumer slot
  committed : Nat := 0
  commitDue : Nat := 0           -- commits that take effect by QUEUE_SLOT_COMMIT
  releaseDue : Nat := 0
  fifo : List (List Nat) := []   -- direct queue: groups of 128 elements
deriving DecidableEq, Repr

/-- An accumulation group of the Rib array (R106). -/
structure RibGroup where
  isOpen : Bool := false
  acc : Tab Int := []            -- accumulator of row i, column j at 32 i + j
  check : Tab Nat := []          -- the 13-bit running check of the same accumulator in modular mode (R68)
  step : Nat := 0                -- K-steps taken since it was opened
  colBase : Nat := 0             -- first column of the constant matrix
  sat : Bool := false
deriving DecidableEq, Repr

/-- The constant buffer of a modular stage (R108, R248). -/
structure RibConst where
  chain : Nat
  pres : List (Nat × Nat)        -- (f_k, w_k)
  cols : List Nat                -- e_c
  mat : List Nat                 -- B, element (k, c) at k * NC + c
deriving DecidableEq, Repr

/-- A VEC window (R164, R165). -/
structure Window where
  loaded : Bool := false
  record : BitVec 512 := 0
  cursor : Nat := 0
deriving DecidableEq, Repr

/-- An open reduction (R173): its function, element type and prime, and what it has taken. -/
structure Reduction where
  fn : Nat
  ty : Nat
  q : Nat
  cycles : List (List Nat) := [] -- the elements of each engine cycle, as bit patterns
deriving DecidableEq, Repr

/-- An exchange at a rank (R97): its destination region, how many shares it needs and has, and the pair to signal. -/
structure Exchange where
  line : Nat
  ranks : Nat := 0               -- 0: this rank has not issued its own part yet
  sem : Nat := 0
  got : Nat := 0                 -- shares in place, its own included
deriving DecidableEq, Repr

/-- Gating of a tile's engines (R387). -/
inductive Gate where
  | m0 | m1 | m2
deriving DecidableEq, Repr

/-- A tile beyond its registers. -/
structure Tile where
  scratch : Tab Byte := []
  stash : Tab Byte := []
  streams : Tab Stream := []
  desc : Tab (BitVec 512) := []
  descCount : Nat := 0
  queues : Tab Queue := []
  posts : List Post := []
  feeders : Tab (List FeedCmd) := []
  exchanges : List Exchange := []
  ribMode : Nat := 0
  ribGroups : Tab RibGroup := []
  ribConst : Option RibConst := none
  plyKey : Option (Nat × Bool) := none -- the first key block that has passed here, as it was read, and whether the share gave it (R157, R160)
  windows : Tab Window := []
  reduction : Option Reduction := none
  spadHeld : Option (BitVec 8) := none
  spadRising : List (BitVec 8) := [] -- groups of each change that is not READY yet, oldest first
  reduceHeld : Option Bool := none
  gate : Gate := .m0
  outOfUse : Bool := false
  selfTest : Bool := false
  mismatchAt : List Int := []        -- when its residue-check mismatches were, against the present clock (R355)
  stashBad : List Nat := []          -- stash lines with an uncorrectable error in a reservoir share (R216)
  stashWrote : List Nat := []        -- stash lines that the present op has written (R325)
  wrote : Tab Byte := []             -- what the tile's part of the op has stored to memory, by address: its digest covers it (R361)
  op : Option (Nat × Nat) := none    -- the job and op that occupy it
  rank : Nat := 0
  partDone : Bool := false
  sent : List Nat := []              -- feeders that had sent the requests of their head transfer when the op was stopped (R209)
  heldBack : Option (List (List FeedCmd) × List Post) := none -- the feeders' queues as they stood when a hook stopped the op, and the posts whose markers it discarded (R209, R395)
  staging : List Byte := []          -- the staging buffer's image of a staged permutation's source, from its first line on; zeros behind it (R246)
deriving DecidableEq, Repr

/-- A virtual hart of a partition (R318, R320, R362). -/
inductive HartState where
  | stopped | startPending | running | suspended | waitingForCore
deriving DecidableEq, Repr

structure Hart where
  phys : Option Nat                  -- the core it is bound to
  shares : Option Nat := none        -- a core of the partition that it shares for want of its own (R362)
  state : HartState := .stopped
  entry : BitVec 64 := 0
  a0 : BitVec 64 := 0
  a1 : BitVec 64 := 0
  resume : Option (BitVec 64 × BitVec 64) := none -- where a suspension that keeps no registers resumes, and its argument (R318)
  timerAt : Option (BitVec 64) := none
  timerPending : Bool := false
  softPending : Bool := false
  extPending : Bool := false
  fault : Option Nat := none         -- cause of the last access fault (R319) or page fault
  rd : BitVec 64 := 0                -- value the last load, atomic or SBI call returned
  err : BitVec 64 := 0               -- SBI error value
  vs : VsContext := {}               -- what its VS-stage translation reads (R318)
deriving DecidableEq, Repr

/-- An entry of a partition's map with the physical pages that back it (R313). -/
structure MapEntry where
  va : Nat
  units : Nat                        -- size in 64 KiB units
  page : Nat                         -- 0: 64 KiB, 1: 2 MiB, 2: 1 GiB
  read : Bool
  write : Bool
  combine : Bool
  pages : List Nat := []             -- physical base of each page, in address order
deriving DecidableEq, Repr

/-- The states of a partition (PART_STATE_n). -/
inductive PartState where
  | free | active | stopping | scrubbing | releasing
deriving DecidableEq, Repr

/-- A frog in progress (R321 to R326). -/
structure Frog where
  whole : Bool                       -- partition scope
  destroy : Bool := false
  jobs : List Nat := []              -- killed jobs
  tiles : List Nat := []             -- tiles that ran a killed op
  step : Nat := 0                    -- 0: engines stop; 1 to 7: the scrub step of R323 in progress
  killing : Bool := false            -- jobs were killed whose completions are due at its step 3 (R322)
  slots : List Nat := []             -- work slots of killed ops, released last (R323)
  joining : List Nat := []           -- spares that took a retired die's place and are used from the release on (R326)
deriving DecidableEq, Repr

/-- A partition command that has been accepted and has not ended (R311). -/
structure PartCmd where
  op : Nat
  part : Nat
  mgmt : Bool                        -- issued over SMBus (R430)
deriving DecidableEq, Repr

/-- A partition beyond its registers. -/
structure Part where
  state : PartState := .free
  vf : Option (Nat × Nat) := none    -- port and index
  grant : Nat := 0
  quads : List Nat := []             -- 8 s + q, ascending
  lostQuads : List Nat := []         -- quads of a retired die that no spare carries (R363)
  harts : List Hart := []
  map : List MapEntry := []
  dropped : List MapEntry := []      -- pages under scrub (R315)
  remap : Option (List MapEntry) := none
  rings : Tab Ring := []
  nextRing : Nat := 0                -- round-robin turn (R255)
  mtShadow : Tab Word32 := []
  mtActive : Tab Word32 := []
  mtSnap : Option (BitVec 16 × Tab Word32) := none
  startHeld : Bool := false
  frog : Option Frog := none
  destroyed : Bool := false          -- DESTROY issued: the VF answers as unbound (R316)
  counters : Tab (BitVec 64) := []   -- the counts of R398 that the model makes itself
  smpLost : Nat := 0
  swatchH : Nat := 0                 -- the swatch key H (R404)
  reservoirsBlocked : Bool := false  -- R388
  hookOp : Option (Nat × Nat) := none
  stranded : Bool := false
  homes : List Nat := []             -- home list: sites (R222)
deriving DecidableEq, Repr

/-- A fault record (R366) while its log window is open, or in the alarm table. -/
structure FaultRec where
  first : BitVec 64 := 0
  last : BitVec 64 := 0
  source : BitVec 16
  reporter : BitVec 16
  event : BitVec 8
  lastEvent : BitVec 8
  escalated : Bool := false
  part : BitVec 8 := 0xFF
  dups : Nat := 0
  detail : BitVec 32 := 0
deriving DecidableEq, Repr

/-- A pending discard of the trace path (R406). -/
structure TraceLoss where
  firstRec : BitVec 256              -- the first record discarded
  lastAt : BitVec 64
  count : Nat
deriving DecidableEq, Repr

/-- SPDM responder of a port (R348). -/
structure Spdm where
  version : Bool := false
  capabilities : Bool := false
  algorithms : Bool := false
  session : Bool := false            -- KEY_EXCHANGE done
  established : Bool := false        -- FINISH done
  keyGen : Nat := 0                  -- key updates of the session
deriving DecidableEq, Repr

/-- A slot of the public-key operand memory (R330). -/
structure PkeSlot where
  value : Nat := 0                   -- 144 bytes, little-endian
  valid : Bool := false
  secret : Bool := false
  exportable : Bool := false
deriving DecidableEq, Repr

/-- A loaded curve (R332, R333). -/
structure PkeCurve where
  p : Nat
  a : Nat
  b : Nat
  n : Nat
  gx : Nat
  gy : Nat
deriving DecidableEq, Repr

/-- A command taken from a PKE ring: the entry and the ring index it came from. -/
structure PkeEntry where
  raw : BitVec 512
  index : Nat
deriving DecidableEq, Repr

/-- A command in a point unit: its curve as copied at its start (R333), then its results (R340). -/
structure PkeRun where
  entry : PkeEntry
  params : Option PkeCurve := none
  status : Nat := 0                  -- completion code
  verdict : Bool := false
  writes : List (Nat × PkeSlot) := []
  curve : Option (Nat × PkeCurve) := none
  outBytes : List Byte := []         -- bytes that SLOT_STORE delivers
  port : Option (Nat × Nat) := none  -- an operation of the runtime: its Quolyn port, and which exchange of the port (R350, R412)
  starved : Bool := false            -- its status comes from a dead entropy source (R339)
  done : Bool := false               -- executed; waits for PKE_OP_COMPLETE
deriving DecidableEq, Repr

/-- The public-key engine of a hank die (R329 to R345). -/
structure Pke where
  slots : Tab PkeSlot := []
  curves : Tab (Option PkeCurve) := []  -- ids 3 to 7
  units : Tab (Option PkeRun) := []
  waiting : Option PkeEntry := none  -- fetched, and not started yet
  wipes : List PkeEntry := []        -- the WIPEs in progress, oldest first
  active : Bool := false
  tail : Nat := 0
  head : Nat := 0
  fetchStopped : Bool := false
  entropyOk : Bool := true
deriving DecidableEq, Repr

/-- A hank die beyond its registers. -/
structure Hank where
  running : Bool := true
  windows : List FaultRec := []
  alarms : Tab (Option FaultRec) := []
  traceLoss : Option TraceLoss := none
  linkUp : Bool := true
  ideLink : Option Nat := none
  ideSel : Tab (Option Nat) := []
  spdm : Spdm := {}
  pke : Pke := {}
  aliasCert : Option Nat := none     -- the alias certificate of its alias key (R347, log entry 11)
deriving DecidableEq, Repr

/-- DIE_STATE of a site (R373). -/
inductive DieState where
  | active | spare | retiring | retired
deriving DecidableEq, Repr

/-- A leaf entry of a partition's tables in a translation unit: its level, its page by number, and the entry (R230). -/
structure Leaf where
  part : Nat
  level : Nat
  page : Nat
  entry : Nat
deriving DecidableEq, Repr

/-- A skein-die site. -/
structure Site where
  state : DieState := .active
  populated : Bool := true
  passed : Bool := true              -- last self-test
  started : Bool := false            -- its start-up step has run
  missing : Nat := 0                 -- missing heartbeats in a row (R354)
  beat : Bool := false               -- heartbeat received for the current mark
  probe : Bool := false              -- a dispatcher probe is outstanding
  lost : Bool := false               -- declared lost: nothing of it acts any more (R358)
  uncorrAt : List Int := []          -- when its uncorrectable on-die memory errors were (R355)
  corrected : BitVec 64 := 0         -- corrected on-die memory errors (R215, R398)
  correctedAt : List (Int × Nat) := [] -- those of the last 24 h, with their times (R355)
  tempDeci : Nat := 250
  watts : Nat := 0
  duty : Nat := 16
  below : Bool := false
  cache : List (Nat × Nat) := []     -- die cache: user and line number, most recently used first; the user is a partition, or the runtime in its buffer or in free ways (R219)
  leaves : List Leaf := []           -- leaf entries that its translation unit caches, most recently used first (R230)
deriving DecidableEq, Repr

/-- A die retirement that has been decided (R355 to R359). -/
structure Retire where
  site : Nat
  kind : Nat                         -- 0 graceful, 1 abrupt, 2 operator
  operator : Bool := false           -- RAS_CMD_STATUS.BUSY waits for it
  mgmt : Bool := false               -- its command came over SMBus (R430)
  spare : Option Nat := none         -- the spare that comes into service for it
  placed : Bool := false             -- its quads have passed to the spare, or to the pool's quads
deriving DecidableEq, Repr

/-- A frame that has been sent and is kept until it is acknowledged, with how often it was sent (R411). -/
structure OutFrame where
  frame : Frame
  sends : Nat := 1
deriving DecidableEq, Repr

/-- A Quolyn port (R408 to R412, R419). -/
structure QPort where
  phase : Nat := 0
  peer : Nat := 0
  nextSend : Nat := 0
  nextExpect : Nat := 0
  sent : List OutFrame := []         -- frames sent and not acknowledged, oldest first: at most 512
  queue : List Frame := []           -- frames of this module's spans that wait for room among them, in the order queued
  through : List Frame := []         -- forwarded frames that wait
  throughNext : Bool := false        -- the next turn is a forwarded frame's (R418)
  lastSpan : Nat := 0                -- the span that had the last local turn (R418)
  keyOut : Nat := 0                  -- AES key and salt of the outgoing and of the incoming direction (R409)
  saltOut : Nat := 0
  keyIn : Nat := 0
  saltIn : Nat := 0
  keyNew : Nat := 0                  -- the incoming key and salt of the other epoch while both are held (R412)
  saltNew : Nat := 0
  epochOut : Bool := false
  epochIn : Bool := false
  bothKeys : Bool := false           -- the receiver holds the keys of two epochs
  framesOut : Nat := 0               -- frames sent under the present key: the outgoing frame counter (R410)
  framesIn : Nat := 0                -- frames that arrived under the present key: the incoming frame counter
  framesNew : Nat := 0               -- the same of the other epoch while both keys are held
  rekey : Bool := false
  work : List Nat := []              -- public-key operations of the exchange in progress that have not ended (R350, R412)
  idle : List Nat := []              -- those of them that wait for a unit
  exchange : Nat := 0                -- number of the exchange, so that an operation of an earlier one is told apart
  tagFailAt : List Int := []         -- when tags failed, within the last second
  retryWait : Bool := false
  probeSeq : Nat := 0
deriving DecidableEq, Repr

/-- What a cast-on commit that waits will apply: the group, and the shadow values at the write (R78). -/
structure Commit where
  group : Group
  values : List (Nat × Word32)
deriving DecidableEq, Repr

/-- The module's power states (R387, PWR_STATUS.STATE). -/
inductive PowerState where
  | m0 | m3 | starting | enteringM3 | leavingM3 | m4
deriving DecidableEq, Repr

/-- The reference clock (R377). -/
inductive RefClock where
  | present | lost | stopped
deriving DecidableEq, Repr

/-- Power, cooling and start-up. -/
structure Power where
  state : PowerState := .starting
  cold : Bool := true                -- the start-up in progress follows a cold reset
  runtimeReady : Bool := false
  stepsDone : List StartupStep := []
  inputMv : Nat := 54000
  inputWatts : Nat := 0
  fixedWatts : Nat := 0              -- measured power of the fixed consumers
  energy : BitVec 64 := 0            -- module input energy (R398)
  inletDeci : Nat := 300
  flowCenti : Nat := 1600
  flowLow : Bool := false            -- flow below 4 L/min
  throttling : Bool := false
  throttleSteps : Nat := 0
  ref : RefClock := .present
  senseClosed : Bool := true
  charged : Bool := true             -- the hot-swap stage has charged the input since the sense contact closed (R422)
  perst0Low : Bool := false          -- level of PERST0_N (R426)
  perstLow : List Nat := []          -- of ports 1 to 3, those whose PERST_N is low (R426)
  stackDeci : Tab (Option Nat) := [] -- hottest sensor of each stack, once it has been reported (R379, R429)
  standby : List FaultRec := []
  stackDouble : List Nat := []
  cmd : Option Nat := none           -- the PWR_CMD in progress
  cmdMgmt : Bool := false            -- it came over SMBus (R430)
  doorbell : Bool := false           -- a doorbell was recorded on the way to M3 or in it
deriving DecidableEq, Repr

/-- The management side (R424 to R434). -/
structure Mgmt where
  eid : BitVec 8 := 0
  straps : BitVec 2 := 3             -- ADDR_SEL1 and ADDR_SEL0, sampled at standby power-up (R428)
  unread : List (BitVec 16) := []    -- event messages that have not been read: the sources of their reports (R424, R429)
  alarmHeld : Bool := false          -- the standby rail holds ALARM_N (R427)
  tap : TapInstr := .idcode
  cmderr : BitVec 3 := 0
  sberr : BitVec 3 := 0
  idDue : Option (BitVec 11) := none -- MODULE_ID that a store write brought while a port was up: the next bring-up of a port takes it (R431)
deriving DecidableEq, Repr

/-- A firmware image slot of the flash (R431). -/
structure FirmwareSlot where
  valid : Bool
  version : Nat
  image : Nat                        -- stands for the bytes of its boot and runtime images
deriving DecidableEq, Repr

/-- A store write that waits (R433). -/
inductive StoreJob where
  | field (n : Nat) (v : StoreValue)
  | image (img : StoreImage)
deriving DecidableEq, Repr

/-- A write of the store with the management command that waits for its end, if it came over SMBus (R430). -/
structure StoreWrite where
  job : StoreJob
  answer : Option Nat := none
deriving DecidableEq, Repr

/-- What leaves the module (log entry 8). -/
inductive Output where
  | read (value : BitVec 32)                       -- data of a register read
  | msixPf (h vector : Nat)
  | msixVf (h vf vector : Nat)
  | mgmt (command completion : Nat) (status : Option Status) (data : List Nat)  -- answer to a management command (R430)
  | mctp (data : List Nat)                         -- answer to an MCTP control request (R428)
  | pldm (data : List Nat)
  | spdm (h : Nat) (accepted : Bool) (data : List Nat)
  | frame (q : Nat) (f : Frame) (wire : List Byte)  -- a frame with its 288 bytes as they leave port q (R410)
  | alarm (source : BitVec 16) (event : BitVec 8) (detail : BitVec 32)  -- to the management controller (R371)
  | configRetry (h : Nat)
  | configAnswer (h : Nat)
  | jtag (data : Nat)
  | sbError
  | sba (value : BitVec 32)
deriving DecidableEq, Repr

end Sys2Proof.Machine
end

