-- ==== Sys2Proof/Machine/State.lean ====
section
/-! DEFINITION. The state of the module as plain data, its state after reset, and the two ways a step can stop. -/
namespace Sys2Proof.Machine

/-- The state of the module. Registers stand in `regs` under their address in the physical-function
BAR0 (R435 to R450); an unlisted address reads as the register's reset value. Numbered parts
stand in sparse tables; an unlisted number is the part as it is after reset. -/
structure State where
  /-- The mesh-cycle count of every unit (R376). -/
  clock : BitVec 64 := 0
  /-- The start strobe has been issued: the counters run (R376). -/
  counting : Bool := false
  /-- Registers: RW values, sticky bits, counts, and the shadow copies of RWS fields (R11). -/
  regs : Tab Word32 := []
  /-- Active copies of RWS fields (R78). -/
  active : Tab Word32 := []
  /-- MSI-X tables: the physical function of port h at key h, virtual function i of port h at key
  4 + 16 h + i; word w of the function at 64 * key + w (R435, R438). -/
  msix : Tab Word32 := []
  /-- MSI-X pending bits, vector v of a function at 16 * key + v. -/
  msixPending : Tab Bool := []
  /-- Stack memory by physical address (R226). -/
  mem : Tab Byte := []
  /-- 64-byte lines of stack memory that read as uncorrectable (R228). -/
  memBad : Tab Bool := []
  /-- Load reservations (R223): home site, partition, virtual hart, line. -/
  reservations : List (Nat × Nat × Nat × Nat) := []
  /-- Host memory: the byte at address a behind port h under h * 2^64 + a (log entry 4). -/
  host : Tab Byte := []
  hanks : Tab Hank := []
  sites : Tab Site := []
  tiles : Tab Tile := []
  parts : Tab Part := []
  ports : Tab QPort := []
  /-- Route table of Quolyn (R412): VALID and PORT of each module. -/
  routes : Tab (BitVec 4) := []
  jobs : List Job := []
  nextJob : Nat := 0
  commits : List Commit := []
  partCmd : Option PartCmd := none
  /-- Retirements decided and not begun, in the order of their decisions, and the one being served (R356, R359). -/
  retireQueue : List Retire := []
  retiring : Option Retire := none
  /-- Die-retirement events so far (counter 0x8021 of R398). -/
  retirements : Nat := 0
  /-- RAS_STATUS.SERVICE and FABRIC causes that have occurred (R361, R364). -/
  service : Bool := false
  fabric : Bool := false
  /-- Segments bypassed or lost, columns fenced (R364). -/
  segFault : List Nat := []
  colFenced : List Nat := []
  power : Power := {}
  mgmt : Mgmt := {}
  lifecycle : Lifecycle := .deployed
  /-- MODULE_GRADE fuses (R2). -/
  grade : Nat := 1
  /-- The settings store and its write queue (R431, R433). -/
  store : StoreImage :=
    { trims := 0, sensorOffsets := 0, phySeeds := 0, flowCal := 0, spareA := 16, spareB := 17, cap := 950,
      interleave := 0, bwRead := 8, bwWrite := 6, bwRemote := 2,
      coefficients := [800, 1800, 500, 3400, 4000, 2800, 900], moduleId := 0 }
  storeBusy : Option StoreWrite := none
  storeQueue : List StoreWrite := []
  serial : BitVec 64 := 0
  /-- The replay-digest key (R361): a free value drawn at each cold or module reset. -/
  replayKey : Nat := 0
  /-- The root of trust has derived its keys (R347). -/
  attested : Bool := true
  /-- The certificate area of the flash holds an identity certificate of this device's identity key (R347, log entry 11). -/
  identityCert : Bool := true
  /-- The two firmware image slots of the flash (R431). -/
  slots : List FirmwareSlot := [{ valid := true, version := 1, image := 0 }, { valid := false, version := 0, image := 1 }]
  /-- Index of the next free value (log entry 3); the model's own field, not the spec's. -/
  fresh : Nat := 0
  /-- What the module has sent out, oldest first (log entry 8); the model's own field. -/
  out : List Output := []
  /-- The commands that wait, first in, first out. -/
  pending : List Instr := []
deriving DecidableEq, Repr

/-- Why a step stops the machine. No command of this module does: its faults are statuses,
sticky bits, fault records and alarms, all in the state (R278, R366). -/
inductive Fault where
  /-- Raised by nobody; safe. -/
  | never
deriving DecidableEq, Repr

/-- Why a step is refused. -/
inductive Refusal where
  /-- Raised by `exec` for a command that has no meaning yet; safe. -/
  | notModelled (mnemonic : String)
deriving DecidableEq, Repr

/-- The state as shipped before any reset step has run: the spares of the store are spares. -/
def initSites : Tab Site := [(16, { state := .spare }), (17, { state := .spare })]

/-- The module right after a cold reset, before the first start-up step (R380): registers at
their reset values, memories wiped (R391), nothing created, the fuses and the store as shipped (log entry 5). -/
def State.reset : State := { sites := initSites }

end Sys2Proof.Machine
end

