-- ==== Sys2Proof/Machine/Ops.lean ====
section
/-! DEFINITION. The named operations on the state: parts, registers, memory, translation, free values and output. Every command works through these. -/
namespace Sys2Proof.Machine

/-- A list in ascending order, by insertion. -/
def insertUp (x : Nat) : List Nat → List Nat
  | [] => [x]
  | y :: rest => if x ≤ y then x :: y :: rest else y :: insertUp x rest
def sortUp (l : List Nat) : List Nat := l.foldr insertUp []

/-! ### Bytes -/

/-- The number that little-endian bytes spell (R10). -/
def leNat : List Byte → Nat
  | [] => 0
  | b :: rest => b.toNat + 256 * leNat rest

/-- The `n` little-endian bytes of a number. -/
def leBytes : Nat → Nat → List Byte
  | 0, _ => []
  | n + 1, v => BitVec.ofNat 8 v :: leBytes n (v / 256)

/-- Cut a list into pieces of `n` (the last may be shorter); `fuel` bounds the number of pieces. -/
def chunksOf {α : Type} (n : Nat) : Nat → List α → List (List α)
  | 0, _ => []
  | fuel + 1, l => if l.isEmpty then [] else l.take n :: chunksOf n fuel (l.drop n)

/-- A field of a number: bits [hi:lo]. -/
def nbits (x hi lo : Nat) : Nat := x / 2 ^ lo % 2 ^ (hi + 1 - lo)

/-- The signed value of a `w`-bit field. -/
def signed (w x : Nat) : Int := if x % 2 ^ w < 2 ^ (w - 1) then (x % 2 ^ w : Nat) else (x % 2 ^ w : Nat) - (2 ^ w : Nat)

/-- A number of `w` bits from an integer, modulo 2^w. -/
def wrapN (w : Nat) (x : Int) : Nat := (x % (2 ^ w : Nat)).toNat

/-! ### Parts -/

def State.part (s : State) (p : Nat) : Part := Tab.get (fun _ => ({} : Part)) s.parts p
def State.setPart (s : State) (p : Nat) (x : Part) : State := { s with parts := Tab.set (fun _ => {}) s.parts p x }
def State.updPart (s : State) (p : Nat) (f : Part → Part) : State := s.setPart p (f (s.part p))
/-- Count `k` in counter `n` of a partition (R398). -/
def State.countBy (s : State) (p n k : Nat) : State :=
  s.updPart p (fun x => { x with counters := Tab.set (fun _ => 0) x.counters n (Tab.get (fun _ => 0) x.counters n + BitVec.ofNat 64 k) })
def State.countUp (s : State) (p n : Nat) : State := s.countBy p n 1

def State.tile (s : State) (t : Nat) : Tile := Tab.get (fun _ => ({} : Tile)) s.tiles t
def State.setTile (s : State) (t : Nat) (x : Tile) : State := { s with tiles := Tab.set (fun _ => {}) s.tiles t x }
def State.updTile (s : State) (t : Nat) (f : Tile → Tile) : State := s.setTile t (f (s.tile t))

def State.site (s : State) (d : Nat) : Site := Tab.get (fun _ => ({} : Site)) s.sites d
def State.setSite (s : State) (d : Nat) (x : Site) : State := { s with sites := Tab.set (fun _ => {}) s.sites d x }
def State.updSite (s : State) (d : Nat) (f : Site → Site) : State := s.setSite d (f (s.site d))

def State.hank (s : State) (h : Nat) : Hank := Tab.get (fun _ => ({} : Hank)) s.hanks h
def State.setHank (s : State) (h : Nat) (x : Hank) : State := { s with hanks := Tab.set (fun _ => {}) s.hanks h x }
def State.updHank (s : State) (h : Nat) (f : Hank → Hank) : State := s.setHank h (f (s.hank h))

def State.port (s : State) (q : Nat) : QPort := Tab.get (fun _ => ({} : QPort)) s.ports q
def State.setPort (s : State) (q : Nat) (x : QPort) : State := { s with ports := Tab.set (fun _ => {}) s.ports q x }
def State.updPort (s : State) (q : Nat) (f : QPort → QPort) : State := s.setPort q (f (s.port q))

def Part.ring (x : Part) (n : Nat) : Ring := Tab.get (fun _ => ({} : Ring)) x.rings n
def Part.setRing (x : Part) (n : Nat) (r : Ring) : Part := { x with rings := Tab.set (fun _ => {}) x.rings n r }
def State.ring (s : State) (p n : Nat) : Ring := (s.part p).ring n
def State.updRing (s : State) (p n : Nat) (f : Ring → Ring) : State :=
  s.updPart p (fun x => x.setRing n (f (x.ring n)))

def Tile.stream (x : Tile) (k : Nat) : Stream := Tab.get (fun _ => ({} : Stream)) x.streams k
def Tile.setStream (x : Tile) (k : Nat) (v : Stream) : Tile := { x with streams := Tab.set (fun _ => {}) x.streams k v }
def Tile.updStream (x : Tile) (k : Nat) (f : Stream → Stream) : Tile := x.setStream k (f (x.stream k))
def Tile.queue (x : Tile) (q : Nat) : Queue := Tab.get (fun _ => ({} : Queue)) x.queues q
def Tile.setQueue (x : Tile) (q : Nat) (v : Queue) : Tile := { x with queues := Tab.set (fun _ => {}) x.queues q v }
def Tile.updQueue (x : Tile) (q : Nat) (f : Queue → Queue) : Tile := x.setQueue q (f (x.queue q))
def Tile.feeder (x : Tile) (f : Nat) : List FeedCmd := Tab.get (fun _ => []) x.feeders f
def Tile.setFeeder (x : Tile) (f : Nat) (v : List FeedCmd) : Tile := { x with feeders := Tab.set (fun _ => []) x.feeders f v }
def Tile.descEntry (x : Tile) (i : Nat) : BitVec 512 := Tab.get (fun _ => 0) x.desc i
def Tile.anyRunning (x : Tile) : Bool := (List.range 6).any (fun k => (x.stream k).running)

/-- The site of a tile (R17). -/
def siteOf (t : Nat) : Nat := t / 32

/-- The quad of a tile, numbered 8 s + q (R18). -/
def quadOf (t : Nat) : Nat :=
  let l := t % 32
  8 * (t / 32) + (l / 8 / 2) * 4 + (l % 8) / 2

/-- The tiles of quad 8 s + q, ascending (R18). -/
def tilesOfQuad (g : Nat) : List Nat :=
  let q := g % 8
  let b := 32 * (g / 8) + 16 * (q / 4) + 2 * (q % 4)
  [b, b + 1, b + 8, b + 9]

/-! ### Registers -/

/-- The stored value of a register (R11): for an RWS field, its shadow copy. -/
def State.reg (s : State) (r : Reg) : Word32 := Tab.get (fun _ => r.init) s.regs r.addr
def State.setReg (s : State) (r : Reg) (v : Word32) : State :=
  { s with regs := Tab.set (fun _ => r.init) s.regs r.addr v }
def State.updReg (s : State) (r : Reg) (f : Word32 → Word32) : State := s.setReg r (f (s.reg r))

/-- The active copy of an RWS register (R78). -/
def State.act (s : State) (r : Reg) : Word32 := Tab.get (fun _ => r.init) s.active r.addr
def State.setAct (s : State) (r : Reg) (v : Word32) : State :=
  { s with active := Tab.set (fun _ => r.init) s.active r.addr v }

/-- Set bits [hi:lo] of a register. -/
def State.setField (s : State) (r : Reg) (hi lo v : Nat) : State := s.updReg r (fun x => setBits x hi lo v)

/-- Add one to the field [hi:lo] of a register, saturating at all ones. -/
def State.bump (s : State) (r : Reg) (hi lo : Nat) : State :=
  let v := bits (s.reg r) hi lo
  if v + 1 < 2 ^ (hi + 1 - lo) then s.setField r hi lo (v + 1) else s

/-- A partition number as the register map names it. -/
def pIdx (p : Nat) : Fin 64 := ⟨p % 64, Nat.mod_lt _ (by decide)⟩
def nIdx (n : Nat) : Fin 16 := ⟨n % 16, Nat.mod_lt _ (by decide)⟩
def hIdx (h : Nat) : Fin 4 := ⟨h % 4, Nat.mod_lt _ (by decide)⟩
def dIdx (d : Nat) : Fin 18 := ⟨d % 18, Nat.mod_lt _ (by decide)⟩
def tIdx (t : Nat) : Fin 576 := ⟨t % 576, Nat.mod_lt _ (by decide)⟩
def qIdx (q : Nat) : Fin 8 := ⟨q % 8, Nat.mod_lt _ (by decide)⟩

/-- A register of partition `p`. -/
def pr (p : Nat) (r : PReg) : Reg := .part (pIdx p) r

/-- STATE of HOOK_STATUS: 0 running, 1 draining, 2 halted. -/
def State.hookState (s : State) (p : Nat) : Nat := bits (s.reg (pr p .hookStatus)) 17 16

/-! ### Output and free values -/

def State.emit (s : State) (o : Output) : State := { s with out := s.out ++ [o] }

/-- Draw the next free value (log entry 3). -/
def State.draw (s : State) : Nat × State := (Config.free s.fresh, { s with fresh := s.fresh + 1 })

/-- Draw `n` free values, each below `m`. -/
def State.drawBelow (s : State) (m : Nat) : Nat → List Nat × State
  | 0 => ([], s)
  | n + 1 =>
    let (v, s1) := s.draw
    let (rest, s2) := s1.drawBelow m n
    (v % m :: rest, s2)

/-! ### Stack memory -/

/-- A byte of stack memory; unlisted bytes read as zero (the reset wipe, R391). -/
def State.byte (s : State) (pa : Nat) : Byte := Tab.get (fun _ => 0) s.mem pa

/-- Bytes of stack memory from a physical address. -/
def State.readPhys (s : State) (pa : Nat) : Nat → List Byte
  | 0 => []
  | n + 1 => s.byte pa :: s.readPhys (pa + 1) n

/-- Write bytes into a byte table. -/
def putBytes (m : Tab Byte) (a : Nat) : List Byte → Tab Byte
  | [] => m
  | b :: rest => putBytes (Tab.set (fun _ => 0) m a b) (a + 1) rest

/-- Bytes of a byte table. -/
def getBytes (m : Tab Byte) (a : Nat) : Nat → List Byte
  | 0 => []
  | n + 1 => Tab.get (fun _ => 0) m a :: getBytes m (a + 1) n

/-- The 64-byte lines that `n` bytes from `a` touch. -/
def linesOf (a n : Nat) : List Nat :=
  if n = 0 then [] else (List.range ((a + n - 1) / 64 - a / 64 + 1)).map (· + a / 64)

/-- The lines that `n` bytes from `a` cover whole. -/
def wholeLines (a n : Nat) : List Nat :=
  (linesOf a n).filter (fun l => decide (a ≤ 64 * l ∧ 64 * l + 64 ≤ a + n))


/-- The physical end of the stacks (R226). -/
def physEnd : Nat := 0x18000000000

/-- The first byte of the runtime's own memory (R310). -/
def runtimeBase : Nat := 0x17C00000000

/-- The interleave granule in force (R227). -/
def State.granule (s : State) : Nat :=
  match bits (s.reg (.glob .memCfg)) 19 18 with
  | 0 => 4096
  | 1 => 16384
  | _ => 65536

/-- The memory column of a physical address (R226). -/
def State.column (s : State) (pa : Nat) : Nat := pa / s.granule % 16

/-- The stack of a physical address, and its offset within the stack (R226). -/
def State.stackOf (s : State) (pa : Nat) : Nat := 2 * s.column pa + pa / s.granule / 16 % 2
def State.stackOffset (s : State) (pa : Nat) : Nat := pa / s.granule / 32 * s.granule + pa % s.granule

/-- Is the column of a line fenced (R364)? -/
def State.lineFenced (s : State) (l : Nat) : Bool := s.colFenced.contains (s.column (64 * l))

/-- Does a line read as uncorrectable (R228, R364)? -/
def State.lineBad (s : State) (l : Nat) : Bool := Tab.get (fun _ => false) s.memBad l || s.lineFenced l

/-- Store bytes within one line: memory takes them, a line written whole is no longer uncorrectable, reservations on it are
cleared, and copies of it in die caches other than `keep`'s are invalidated (R220, R223, R228). A fenced column discards
the write (R364). -/
def State.storeLine (s : State) (pa : Nat) (bs : List Byte) (keep : Option Nat) : State :=
  let l := pa / 64
  if s.lineFenced l then s
  else { s with
    mem := putBytes s.mem pa bs
    memBad := (wholeLines pa bs.length).foldl (fun m l => Tab.erase m l) s.memBad
    reservations := s.reservations.filter (fun r => decide (r.2.2.2 ≠ l))
    sites := s.sites.foldl (fun m (d, x) => Tab.set (fun _ => {}) m d (if some d = keep then x else { x with cache := x.cache.filter (fun c => decide (c.2 ≠ l)) })) [] }

/-- The pieces of an access that lie in one line each: address and length. -/
def pieces (a n : Nat) : List (Nat × Nat) :=
  (linesOf a n).map (fun l =>
    let lo := max a (64 * l)
    (lo, min (a + n) (64 * l + 64) - lo))

/-- Store bytes at a physical address, line by line. -/
def State.storePhys (s : State) (pa : Nat) (bs : List Byte) (keep : Option Nat := none) : State :=
  (pieces pa bs.length).foldl (fun s (a, n) => s.storeLine a ((bs.drop (a - pa)).take n) keep) s

/-! ### Host memory -/

def hostKey (h a : Nat) : Nat := h * 2 ^ 64 + a % 2 ^ 64
def State.readHost (s : State) (h a n : Nat) : List Byte := getBytes s.host (hostKey h a) n
def State.writeHost (s : State) (h a : Nat) (bs : List Byte) : State := { s with host := putBytes s.host (hostKey h a) bs }

/-! ### Translation (R230 to R232) -/

/-- Kinds of access that a leaf permits or not. -/
inductive Access where
  | read | write | combine
deriving DecidableEq, Repr

/-- A translation or protection fault: address, level of the walk, kind, and the address of the table entry when its line was uncorrectable (R229). -/
structure XFault where
  va : Nat
  level : Nat
  protect : Bool
  entry : Option Nat := none
deriving DecidableEq, Repr

/-- Why an access through translation fails. -/
inductive MemErr where
  | fault (f : XFault)
  | bad (pa va : Nat)      -- an uncorrectable line (R229), and the address that reached it
deriving DecidableEq, Repr

/-- The shift of the first address bit that a level indexes (R230). -/
def levelShift : Nat → Nat
  | 3 => 39
  | 2 => 30
  | 1 => 21
  | _ => 16

/-- The entries of a table of the level (R230). -/
def levelEntries : Nat → Nat
  | 0 => 32
  | _ => 512

/-- Alignment of the table that an entry of level `l` names (R230, R231). -/
def tableAlign : Nat → Nat
  | 1 => 256
  | _ => 4096

/-- Does a translation entry at level `l` keep R231? -/
def pteOk (l e : Nat) : Bool :=
  let leaf := nbits e 1 1 = 1
  let addr := nbits e 40 8 * 256
  decide (nbits e 0 0 = 1) && decide (nbits e 7 5 = 0) && decide (nbits e 63 41 = 0) &&
  (if leaf then
    decide (l ≠ 3) && decide (nbits e 4 4 = 1 → nbits e 3 3 = 1) && decide (addr % 2 ^ levelShift l = 0)
   else
    decide (l ≠ 0) && decide (nbits e 4 2 = 0) && decide (addr % tableAlign l = 0))

/-- Is the byte of a page that another partition still holds under a scrub (R324)? -/
def State.underScrub (s : State) (p pa : Nat) : Bool :=
  s.parts.any (fun (i, x) => decide (i ≠ p) &&
    ((if x.state = .releasing then x.map ++ x.dropped else x.dropped).any (fun e =>
      e.pages.any (fun b => decide (b ≤ pa ∧ pa < b + 2 ^ levelShift e.page)))))

/-- The radix walk from the table `tab` at level `l` (R230): the leaf entry with its level, or the fault. -/
def State.walk (s : State) (va : Nat) : (l tab : Nat) → Except XFault (Nat × Nat)
  | l, tab =>
    let a := tab + 8 * (va / 2 ^ levelShift l % levelEntries l)
    let e := leNat (s.readPhys a 8)
    if s.lineBad (a / 64) then .error ⟨va, l, false, some a⟩
    else if !pteOk l e then .error { va := va, level := l, protect := false }
    else if nbits e 1 1 = 1 then
      if physEnd ≤ nbits e 40 8 * 256 then .error { va := va, level := l, protect := false } else .ok (l, e)
    else match l with
      | 0 => .error { va := va, level := 0, protect := false }
      | k + 1 => s.walk va k (nbits e 40 8 * 256)

/-- The level-3 table of a partition (PT_ROOT_n). -/
def State.ptRoot (s : State) (p : Nat) : Nat := bits (s.reg (.glob (.ptRoot (pIdx p)))) 28 0 * 4096

/-- A leaf entry for an address that the translation unit of die `d` caches (R230). -/
def State.heldLeaf (s : State) (p va d : Nat) : Option (Nat × Nat) :=
  ((s.site d).leaves.find? (fun e => decide (e.part = p ∧ e.page = va / 2 ^ levelShift e.level))).map (fun e => (e.level, e.entry))

/-- The leaf entry of an address for a requester of die `unit`, or of no die: from the walk, or from an entry that the die's unit caches where the walk would meet an
uncorrectable line. Elsewhere the two agree, since a change of the tables invalidates the cached entries (R233). -/
def State.leafOf (s : State) (p va : Nat) (unit : Option Nat) : Except XFault (Nat × Nat) :=
  match s.walk va 3 (s.ptRoot p) with
  | .ok x => .ok x
  | .error f => match (if f.entry.isSome then unit.bind (s.heldLeaf p va) else none) with
    | some x => .ok x
    | none => .error f

/-- A translation unit caches the leaf entry of an address that it has translated: up to 8,192 of them (R230), of which the least recently used goes (log entry 107). -/
def State.keepLeaf (s : State) (p d va : Nat) : State :=
  match s.leafOf p va (some d) with
  | .ok (l, e) =>
    let v : Leaf := { part := p, level := l, page := va / 2 ^ levelShift l, entry := e }
    s.updSite d (fun x => { x with leaves := (v :: x.leaves.filter (fun w => decide (w ≠ v))).take 8192 })
  | .error _ => s

/-- The leaf entries of some regions. -/
def State.keepLeaves (s : State) (p d : Nat) (rs : List (Nat × Nat)) : State :=
  rs.foldl (fun s (a, n) => (List.range ((a + n + 65535) / 65536 - a / 65536)).foldl (fun s i => s.keepLeaf p d ((a / 65536 + i) * 65536)) s) s

/-- The cached entries of a partition become invalid on every die (R233). -/
def State.dropLeaves (s : State) (p : Nat) : State :=
  { s with sites := s.sites.foldl (fun m (d, x) => Tab.set (fun _ => ({} : Site)) m d { x with leaves := x.leaves.filter (fun e => decide (e.part ≠ p)) }) [] }

/-- Translate one address of partition `p` (R232), through the translation unit of die `unit`; the runtime on a hank die has none and walks (log entry 107). -/
def State.xlate (s : State) (p va : Nat) (k : Access) (unit : Option Nat := none) : Except XFault Nat :=
  if 2 ^ 48 ≤ va then .error { va := va % 2 ^ 48, level := 3, protect := false }
  else match s.leafOf p va unit with
  | .error f => .error f
  | .ok (l, e) =>
    let pa := nbits e 40 8 * 256 + va % 2 ^ levelShift l
    let allowed := match k with
      | .read => nbits e 2 2 = 1
      | .write => nbits e 3 3 = 1
      | .combine => nbits e 4 4 = 1
    if allowed && !s.underScrub p pa then .ok pa else .error { va := va, level := 0, protect := true }

/-- Read bytes through a partition's translation, line by line in address order. -/
def State.readVA (s : State) (p va n : Nat) (unit : Option Nat := none) : Except MemErr (List Byte) :=
  (pieces va n).foldl (fun acc (a, len) =>
    match acc with
    | .error e => .error e
    | .ok bs =>
      match s.xlate p a .read unit with
      | .error f => .error (.fault f)
      | .ok pa => if s.lineBad (pa / 64) then .error (.bad pa a) else .ok (bs ++ s.readPhys pa len)) (.ok [])

/-- The physical pieces of a write through translation: address and bytes, or the first fault. -/
def State.xlateWrite (s : State) (p va : Nat) (bs : List Byte) (k : Access) (unit : Option Nat := none) : Except XFault (List (Nat × List Byte)) :=
  (pieces va bs.length).foldl (fun acc (a, len) =>
    match acc with
    | .error e => .error e
    | .ok ps =>
      match s.xlate p a k unit with
      | .error f => .error f
      | .ok pa => .ok (ps ++ [(pa, (bs.drop (a - va)).take len)])) (.ok [])

/-- Write bytes through a partition's translation; a fault writes nothing. -/
def State.writeVA (s : State) (p va : Nat) (bs : List Byte) (k : Access := .write) (unit : Option Nat := none) : Except XFault State :=
  match s.xlateWrite p va bs k unit with
  | .error f => .error f
  | .ok ps => .ok (ps.foldl (fun s (pa, b) => s.storePhys pa b) s)

/-- The status of a fault (R232). -/
def XFault.status (f : XFault) : Status := if f.protect then .protect else .xlate

/-! ### Jobs and ops -/

def State.job? (s : State) (j : Nat) : Option Job := s.jobs.find? (fun x => x.id = j)
def State.updJob (s : State) (j : Nat) (f : Job → Job) : State :=
  { s with jobs := s.jobs.map (fun x => if x.id = j then f x else x) }
def Job.op? (x : Job) (i : Nat) : Option OpRec := x.ops.find? (fun o => o.idx = i)
def Job.updOp (x : Job) (i : Nat) (f : OpRec → OpRec) : Job :=
  { x with ops := x.ops.map (fun o => if o.idx = i then f o else o) }
def State.op? (s : State) (o : OpRef) : Option (Job × OpRec) :=
  match s.job? o.job with
  | none => none
  | some j => match j.op? o.op with
    | none => none
    | some r => some (j, r)
def State.updOp (s : State) (o : OpRef) (f : OpRec → OpRec) : State := s.updJob o.job (fun j => j.updOp o.op f)

/-- The die whose translation unit an op's own accesses go through: that of its first tile (log entry 107). -/
def OpRec.die (r : OpRec) : Option Nat := (r.tiles.head?).map siteOf

/-- An op is in flight from its readiness until its bind-off or its end (R269). -/
def OpPhase.inFlight : OpPhase → Bool
  | .ready | .running | .ran => true
  | _ => false

/-- An op runs, or has run and has not bound off. -/
def OpPhase.runs : OpPhase → Bool
  | .running | .ran => true
  | _ => false

/-- An op has bound off, ended or been resolved. -/
def OpPhase.settled : OpPhase → Bool
  | .bound | .ended | .resolved => true
  | _ => false

/-- Ops of partition `p` in flight. -/
def State.inFlight (s : State) (p : Nat) : List (Job × OpRec) :=
  (s.jobs.filter (fun j => j.part = p)).flatMap (fun j => (j.ops.filter (fun o => o.phase.inFlight)).map (fun o => (j, o)))

end Sys2Proof.Machine
end

