-- ==== Sys2Proof/Machine/Cache.lean ====
section
/-! DEFINITION. The die caches (R219, R220), the homes of combines and atomics (R222, R224), and the narrow path of a tile (R221). -/
namespace Sys2Proof.Machine

/-- A user of a die cache: a partition, or one of the two users below that stand behind them. -/
abbrev CacheUser := Nat
/-- The runtime and the dispatchers, in the ways of quads that no partition holds. -/
def freeWays : CacheUser := 64
/-- The runtime and the dispatchers on a die whose quads are all held: the runtime buffer. -/
def runtimeBuffer : CacheUser := 65

/-- Ways of a set that a user has in the die cache of site `d`: two for each quad that it holds there. The runtime buffer is one set of 256 lines. -/
def State.cacheWays (s : State) (u : CacheUser) (d : Nat) : Nat :=
  if u = runtimeBuffer then 256
  else if u = freeWays then 2 * ((List.range 8).filter (fun q => s.parts.all (fun x => !x.2.quads.contains (8 * d + q)))).length
  else 2 * ((s.part u).quads.filter (fun g => decide (g / 8 = d))).length

/-- Where the lines of the runtime and the dispatchers lie on a die. -/
def State.runtimeUser (s : State) (d : Nat) : CacheUser := if s.cacheWays freeWays d = 0 then runtimeBuffer else freeWays

/-- A line is used in the die cache of site `d`: it becomes the most recent of its set, and the least recent one goes when the ways are full. Without a quad there
nothing is cached. The set of a line is taken as its number modulo 32,768 (log entry 14). -/
def State.cacheTouch (s : State) (u : CacheUser) (d line : Nat) : State :=
  let n := s.cacheWays u d
  if n = 0 then s
  else s.updSite d (fun x =>
    let mine := fun (c : CacheUser × Nat) => decide (c.1 = u ∧ (u = runtimeBuffer ∨ c.2 % 32768 = line % 32768))
    let set := ((u, line) :: (x.cache.filter (fun c => mine c && decide (c.2 ≠ line)))).take n
    { x with cache := set ++ x.cache.filter (fun c => !mine c) })

/-- Quads of site `d` pass to a partition: the runtime's lines leave their ways, whose number the model does not follow line by line (log entry 107). -/
def State.yieldWays (s : State) (ds : List Nat) : State :=
  ds.foldl (fun s d => s.updSite d (fun x => { x with cache := x.cache.filter (fun c => decide (c.1 ≠ freeWays)) })) s

def State.cacheHit (s : State) (u : CacheUser) (d line : Nat) : Bool := (s.site d).cache.contains (u, line)

/-- Cached lines whose site has an uncorrectable error are fetched again from their column (R216): the copy goes where the column cannot give the line. -/
def State.cacheRefetch (s : State) (d line : Nat) : State :=
  if s.lineBad line then s.updSite d (fun x => { x with cache := x.cache.filter (fun c => decide (c.2 ≠ line)) }) else s

/-- Bytes within one line, read through the lines of a user in the die cache of site `d`: a hit does not read the column, a miss fetches the line from it.
Without a site nothing is cached. -/
def State.cachedRead (s : State) (u : CacheUser) (d : Option Nat) (pa va len : Nat) : Except MemErr (List Byte × State) :=
  let l := pa / 64
  if (match d with
    | some d => !s.cacheHit u d l
    | none => true) && s.lineBad l then .error (.bad pa va)
  else .ok (s.readPhys pa len, match d with
    | some d => s.cacheTouch u d l
    | none => s)

/-- Bytes of a partition's memory through a die cache, line by line in address order: in the partition's own lines, or in those of the runtime. -/
def State.cachedVA (s : State) (p : Nat) (d : Option Nat) (va n : Nat) (k : Access := .read) (runtime : Bool := false) : Except MemErr (List Byte × State) :=
  (pieces va n).foldl (fun acc (a, len) =>
    match acc with
    | .error e => .error e
    | .ok (bs, s) => match s.xlate p a k d with
      | .error f => .error (.fault f)
      | .ok pa => match s.cachedRead (if runtime then (d.map s.runtimeUser).getD freeWays else p) d pa a len with
        | .error e => .error e
        | .ok (b, s) => .ok (bs ++ b, match d with
          | some d => s.keepLeaf p d a
          | none => s)) (.ok ([], s))

/-- The narrow path of a tile: reads from the partition's ways on the tile's own die (R221). Each miss counts, with the line it reads from a column (R398). -/
def State.narrowRead (s : State) (p t va n : Nat) : Except MemErr (List Byte × State) :=
  let misses := ((pieces va n).filter (fun (a, _) => match s.xlate p a .read (some (siteOf t)) with
    | .ok pa => !s.cacheHit p (siteOf t) (pa / 64)
    | .error _ => false)).length
  (s.cachedVA p (some (siteOf t)) va n).map (fun (bs, s) => (bs, (s.countBy p 0x27 misses).countBy p 0x20 (64 * misses)))

/-- The home die of a physical address for partition `p` (R222). -/
def State.homeOf (s : State) (p pa : Nat) : Nat :=
  let hs := (s.part p).homes
  if hs = [] then ((List.range 18).find? (fun d => decide ((s.site d).state = .active))).getD 0
  else hs.getD (pa / 4096 % hs.length) 0

/-- A function performed at the home of a line: the bytes in memory go through `f`, and the result is written through; the home's copy stays (R220, R223). -/
def State.atHome (s : State) (p pa va len : Nat) (f : List Byte → List Byte) : Except MemErr State :=
  let d := s.homeOf p pa
  match s.cachedRead p (some d) pa va len with
  | .error e => .error e
  | .ok (bs, s) => .ok (s.storePhys pa (f bs) (some d))

end Sys2Proof.Machine
end

