-- ==== Sys2Proof/Machine/Reports.lean ====
section
/-! DEFINITION. Fault records, the fault concentrators, the log and trace paths (R366 to R372, R405, R406), and counters (R398, R399). -/
namespace Sys2Proof.Machine

/-- A unit identifier (R367). -/
def unitId (kind index : Nat) : BitVec 16 := BitVec.ofNat 16 (kind % 32 * 2048 + index % 2048)
def unitKind (u : BitVec 16) : Nat := bits u 15 11
def unitIndex (u : BitVec 16) : Nat := bits u 10 0
def tileUnit (t : Nat) : BitVec 16 := unitId 1 t
def dieUnit (d : Nat) : BitVec 16 := unitId 2 d
def segmentUnit (k : Nat) : BitVec 16 := unitId 4 k
def columnUnit (c : Nat) : BitVec 16 := unitId 5 c
def stackUnit (k : Nat) : BitVec 16 := unitId 6 k
def hankUnit (h : Nat) : BitVec 16 := unitId 7 h
def quolynUnit (q : Nat) : BitVec 16 := unitId 9 q
def pkeUnit (i u : Nat) : BitVec 16 := unitId 0xA (8 * i + u)
def monitorUnit (m : Nat) : BitVec 16 := unitId 0xB m

/-- The hank die that owns the sources of a site (R369). -/
def siteOwner (d : Nat) : Nat := if d ≤ 4 then 0 else if d ≤ 8 then 2 else if d ≤ 13 then 1 else 3

/-- The hank die that owns a bridge segment or a column (R369). -/
def segmentOwner (c : Nat) : Nat := if c ≤ 3 then 0 else if c ≤ 7 then 2 else if c ≤ 11 then 1 else 3

/-- The owning hank die of a suspected source while every hank die runs (R369). -/
def tableOwner (u : BitVec 16) : Nat :=
  let i := unitIndex u
  match unitKind u with
  | 1 => siteOwner (i / 32)
  | 2 => siteOwner i
  | 3 => if i < 144 then siteOwner (i / 8) else (i - 144) / 4 % 4
  | 4 => segmentOwner i
  | 5 => segmentOwner i
  | 6 => segmentOwner (i / 2)
  | 7 => (i + 1) % 4
  | 8 => i % 4
  | 9 => i / 2 % 4
  | 0xA => i / 8 % 4
  | _ => 0

/-- The first running hank die at or after `h`, in ascending order modulo 4 (R369). -/
def State.runningFrom (s : State) (h : Nat) : Nat :=
  (([h, h + 1, h + 2, h + 3].map (· % 4)).find? (fun x => (s.hank x).running)).getD (h % 4)

/-- The hank die whose concentrator receives a report that names source `u`. -/
def State.owner (s : State) (u : BitVec 16) : Nat := s.runningFrom (tableOwner u)

/-- The alarm entry of a source (R371). -/
def alarmEntry (u : BitVec 16) : Nat :=
  let i := unitIndex u
  match unitKind u with
  | 1 => i / 32
  | 2 => i
  | 3 => if i < 144 then i / 8 else 82 + (i - 144) / 4
  | 4 => 18 + i
  | 5 => 34 + i
  | 6 => 50 + i
  | 7 => 82 + i
  | 8 => 86 + i
  | 9 => 90 + i
  | 0xA => 98 + i / 8
  | _ => 102 + i

/-- The 32 bytes of a fault record (R366); `cls` is CLASS. -/
def FaultRec.encode (r : FaultRec) (cls : Nat) : BitVec 256 :=
  BitVec.ofNat 256 (r.first.toNat + r.source.toNat * 2 ^ 64 + r.reporter.toNat * 2 ^ 80 + r.event.toNat * 2 ^ 96 +
    cls * 2 ^ 104 + (if 0 < r.dups then 2 ^ 106 else 0) + r.dups * 2 ^ 112 +
    (if r.part.toNat < 64 then r.part.toNat * 2 ^ 128 + 2 ^ 134 else 0) +
    (if cls = 0 then r.lastEvent.toNat else r.event.toNat) * 2 ^ 135 +
    (if cls = 0 ∧ r.escalated then 2 ^ 143 else 0) + r.detail.toNat * 2 ^ 160 + r.last.toNat * 2 ^ 192)

/-- A first report of its pair or unit. -/
def State.newRec (s : State) (src rep : BitVec 16) (event : Nat) (detail : Nat) (part : Option Nat) : FaultRec :=
  { first := s.clock, last := s.clock, source := src, reporter := rep, event := BitVec.ofNat 8 event,
    lastEvent := BitVec.ofNat 8 event, part := match part with
      | some p => BitVec.ofNat 8 p
      | none => 0xFF, detail := BitVec.ofNat 32 detail }

/-! ### The rings of the log and trace paths -/

/-- The registers of a path: base low, base high, CFG, PTR. -/
structure PathRegs where
  lo : HReg
  hi : HReg
  cfg : HReg
  ptr : HReg

def logPath : PathRegs := ⟨.logBaseLo, .logBaseHi, .logCfg, .logPtr⟩
def tracePath : PathRegs := ⟨.trcBaseLo, .trcBaseHi, .trcCfg, .trcPtr⟩

/-- Entries in the ring of a path. -/
def State.pathSize (s : State) (h : Fin 4) (r : PathRegs) : Nat := 2 ^ bits (s.reg (.hank h r.cfg)) 3 0

/-- Free entries of the ring of a path. -/
def State.pathFree (s : State) (h : Fin 4) (r : PathRegs) : Nat :=
  let n := s.pathSize h r
  let p := s.reg (.hank h r.ptr)
  (bits p 15 0 + n - 1 + n - bits p 31 16 % n) % n

def State.pathEnabled (s : State) (h : Fin 4) (r : PathRegs) : Bool := bit (s.reg (.hank h r.cfg)) 31

/-- Write a record at WR and advance WR (R405). -/
def State.pathWrite (s : State) (h : Fin 4) (r : PathRegs) (v : BitVec 256) : State :=
  let n := s.pathSize h r
  let wr := bits (s.reg (.hank h r.ptr)) 31 16
  let base := (s.reg (.hank h r.lo)).toNat + (s.reg (.hank h r.hi)).toNat * 2 ^ 32
  (s.writeHost h.val (base + 32 * wr) (leBytes 32 v.toNat)).setField (.hank h r.ptr) 31 16 ((wr + 1) % n)

/-- A log record enters the log path (R405, R406): a full ring loses its oldest record. -/
def State.logRecord (s : State) (h : Fin 4) (v : BitVec 256) : State :=
  if !s.pathEnabled h logPath then s.bump (.hank h .recLost) 15 0
  else if s.pathFree h logPath = 0 then
    let n := s.pathSize h logPath
    let rd := bits (s.reg (.hank h .logPtr)) 15 0
    ((s.pathWrite h logPath v).setField (.hank h .logPtr) 15 0 ((rd + 1) % n)).bump (.hank h .recLost) 15 0
  else s.pathWrite h logPath v

/-- The marker that stands for discarded trace records, from the first of them (R406). -/
def markerOf (l : TraceLoss) (first : BitVec 256) : BitVec 256 :=
  let keep := BitVec.ofNat 256 (first.toNat % 2 ^ 64 + nbits first.toNat 103 96 * 2 ^ 96 + 2 * 2 ^ 104 +
    nbits first.toNat 134 128 * 2 ^ 128 + nbits first.toNat 103 96 * 2 ^ 135)
  keep ||| BitVec.ofNat 256 (min l.count 0xFFFF * 2 ^ 112 + l.lastAt.toNat * 2 ^ 192)

/-- Write the marker that is owed, when two entries are free (R406). -/
def State.traceMark (s : State) (h : Fin 4) : State :=
  match (s.hank h).traceLoss with
  | none => s
  | some l =>
    if s.pathEnabled h tracePath ∧ 2 ≤ s.pathFree h tracePath then
      (s.pathWrite h tracePath (markerOf l l.firstRec)).updHank h (fun x => { x with traceLoss := none })
    else s

/-- A trace record enters the trace path (R406): a record without room is discarded; while a marker is
owed, a record follows it (log entry 15). -/
def State.traceRecord (s : State) (h : Fin 4) (v : BitVec 256) : State :=
  if !s.pathEnabled h tracePath then s.bump (.hank h .recLost) 31 16
  else
    let s := s.traceMark h
    if (s.hank h).traceLoss.isSome ∨ s.pathFree h tracePath = 0 then
      let l : TraceLoss := match (s.hank h).traceLoss with
        | some l => { l with lastAt := BitVec.ofNat 64 v.toNat, count := l.count + 1 }
        | none => { firstRec := v, lastAt := BitVec.ofNat 64 v.toNat, count := 1 }
      (s.updHank h (fun x => { x with traceLoss := some l })).bump (.hank h .recLost) 31 16
    else s.pathWrite h tracePath v

/-! ### Reports -/

/-- A log window closes: its record is emitted (R370). -/
def State.emitLog (s : State) (h : Fin 4) (r : FaultRec) : State :=
  let storm := decide (0 < r.dups)
  let s := if storm then s.setField (.hank h .fcStatus) 31 31 1 else s
  s.logRecord h (r.encode 1)

/-- Is this record of the pair (source, event)? -/
def FaultRec.pair (r : FaultRec) (src : BitVec 16) (event : Nat) : Bool :=
  decide (r.source = src) && decide (r.event = BitVec.ofNat 8 event)

/-- A log-class report (R369, R370). -/
def State.reportLog (s : State) (src rep : BitVec 16) (event detail : Nat) (part : Option Nat := none) : State :=
  let h := hIdx (s.owner src)
  let k := s.hank h
  if !k.running then s
  else if k.windows.any (fun r => r.pair src event) then
    s.setHank h { k with windows := k.windows.map (fun r =>
      if r.pair src event then { r with dups := min (r.dups + 1) 0xFFFF, last := s.clock } else r) }
  else if k.windows.length < 64 then
    s.setHank h { k with windows := k.windows ++ [s.newRec src rep event detail part] }
  else s.emitLog h (s.newRec src rep event detail part)

/-- A trace-class report (R368, R370). -/
def State.reportTrace (s : State) (src rep : BitVec 16) (event detail : Nat) (part : Option Nat := none) : State :=
  let h := hIdx (s.owner src)
  if !(s.hank h).running then s else s.traceRecord h ((s.newRec src rep event detail part).encode 2)

/-- An alarm-class report (R371): the first fills its unit's entry, later ones join it; each is also sent
to the management controller, an event message that SMB_ALERT_N calls for until it is read. -/
def State.reportAlarm (s : State) (src rep : BitVec 16) (event detail : Nat) (part : Option Nat := none) : State :=
  let h := s.owner src
  let k := s.hank h
  let e := alarmEntry src
  let s := { s.emit (.alarm src (BitVec.ofNat 8 event) (BitVec.ofNat 32 detail)) with mgmt := { s.mgmt with unread := s.mgmt.unread ++ [src] } }
  if !k.running then s
  else
    let r : FaultRec := match Tab.get (fun _ => none) k.alarms e with
      | none => s.newRec src rep event detail part
      | some r => { r with dups := min (r.dups + 1) 0xFFFF, last := s.clock, lastEvent := BitVec.ofNat 8 event, escalated := r.escalated || decide (r.event ≠ BitVec.ofNat 8 event) }
    s.setHank h { k with alarms := Tab.set (fun _ => none) k.alarms e (some r) }

/-! ### Uncorrectable lines and translation faults -/

/-- An uncorrectable line read from a column: the column's count and the log record (R228, R229). -/
def State.badLine (s : State) (pa : Nat) (part : Option Nat) (rep : BitVec 16) : State :=
  (s.bump (.glob (.mcEcc ⟨s.column pa, Nat.mod_lt _ (by decide)⟩)) 31 16).reportLog (columnUnit (s.column pa)) rep 0x03
    (pa / s.granule % 2 ^ 32) part

/-- A fault of a partition's access: a table line that was uncorrectable is recorded (R229), and the status block captures the fault unless it
holds one (R232). -/
def State.capture (s : State) (p : Nat) (access : Nat) (f : XFault) : State :=
  let s := match f.entry with
    | some a => s.badLine a (some p) (columnUnit (s.column a))
    | none => s
  let hi := s.reg (pr p .xlateFaultHi)
  if bit hi 23 then s
  else
    (s.setReg (pr p .xlateFaultLo) (BitVec.ofNat 32 f.va)).setReg (pr p .xlateFaultHi)
      (BitVec.ofNat 32 (access * 2 ^ 28 + f.level * 2 ^ 25 + (if f.protect then 2 ^ 24 else 0) + 2 ^ 23 + f.va / 2 ^ 32 % 2 ^ 16))

/-- The alarm output is asserted while any entry of any concentrator is filled (R371), or while the
standby rail holds it (R427). -/
def State.alarmOut (s : State) : Bool :=
  s.mgmt.alarmHeld || s.hanks.any (fun (_, k) => k.running && !k.alarms.isEmpty)

/-! ### Counters (R398, R399) -/

/-- A core of the partition runs (CORE_CTRL.RUNNING). -/
def Part.coresRun (x : Part) : Bool := x.harts.any (fun h => decide (h.state ≠ .stopped))

/-- Does an op of the partition run, of those that `which` names? -/
def State.opRuns (s : State) (p : Nat) (which : OpRec → Bool) : Bool := s.jobs.any (fun j => decide (j.part = p) && j.ops.any (fun r => r.phase.runs && which r))

/-- The counters of cycles, waits and walks, and those of transfers (R398). -/
def clockCounts : List Nat := [0x10, 0x11, 0x12, 0x13, 0x14, 0x15, 0x18, 0x19, 0x1A, 0x1B, 0x1C, 0x1D, 0x26, 0x28, 0x32]
def workCounts : List Nat := [0x20, 0x21, 0x22, 0x23, 0x27]
/-- The counters of key bytes and expander groups, which every key switch counts as it goes. -/
def keyCounts : List Nat := [0x24, 0x25]

/-- Counters go up by free amounts: by what the model does not measure (log entry 16). -/
def State.addUnseen (s : State) (p : Nat) (ns : List Nat) : State := ns.foldl (fun s n => let (v, s) := s.draw; s.countBy p n v) s

/-- What an execution has counted unseen by its end: cycles, waits and walks, and the transfers of a pattern that the runtime builds. -/
def State.countRun (s : State) (p : Nat) (r : OpRec) : State :=
  if r.phase.runs then s.addUnseen p (clockCounts ++ (if bits r.entry 7 0 = 0x7F then [] else workCounts)) else s

/-- Can a counter go up unseen now: an op runs that counts in it, or for walks a core (R398)? -/
def State.countsNow (s : State) (p n : Nat) : Bool :=
  (clockCounts.contains n && (s.opRuns p (fun _ => true) || (decide (n = 0x28) && (s.part p).coresRun))) ||
  (workCounts.contains n && s.opRuns p (fun r => decide (bits r.entry 7 0 ≠ 0x7F)))

/-- The value of counter `n` for partition `p` as it is read: what has been counted, and while something runs that counts unseen, a free amount more. -/
def State.counter (s : State) (p n : Nat) : BitVec 64 × State :=
  if n = 1 then (s.clock, s)
  else
    let s := if s.countsNow p n then s.addUnseen p [n] else s
    (if clockCounts.contains n ∨ workCounts.contains n ∨ keyCounts.contains n ∨ n = 0x30 ∨ n = 0x31 then Tab.get (fun _ => 0) (s.part p).counters n else 0, s)

/-- The value of a module counter (R398). The energy of the input is a measured quantity: it goes up by a free amount before each read (log entry 16). -/
def State.moduleCounter (s : State) (n : Nat) : BitVec 64 × State :=
  if n = 0x8021 then (BitVec.ofNat 64 s.retirements, s)
  else if 0x8000 ≤ n ∧ n < 0x8012 then ((s.site (n - 0x8000)).corrected, s)
  else if n = 0x8020 then
    let (v, s) := s.draw
    let e := s.power.energy + BitVec.ofNat 64 v
    (e, { s with power := { s.power with energy := e } })
  else (0, s)

end Sys2Proof.Machine
end

