-- ==== Sys2Proof/Machine/Flags.lean ====
section
/-! DEFINITION. Status codes with their sticky bits (R278, R279), and the header rules of level, scale, components, noise budget and key set (R41 to R53). -/
namespace Sys2Proof.Machine

/-- The code of a status (R278). -/
def Status.code : Status → Nat
  | .done => 0x00
  | .descMalformed => 0x10
  | .align => 0x11
  | .overlap => 0x12
  | .bounds => 0x13
  | .xlate => 0x14
  | .protect => 0x15
  | .chainHold => 0x16
  | .levelExhausted => 0x20
  | .budgetExhausted => 0x21
  | .paramMismatch => 0x22
  | .keyMismatch => 0x23
  | .operandPoisoned => 0x24
  | .scaleMismatch => 0x25
  | .engineAbsent => 0x30
  | .spadOff => 0x31
  | .killed => 0x40
  | .tableCommitRefused => 0x60

/-- The bit of PART_STICKY that a status sets (R278, R279). -/
def Status.sticky : Status → Option Nat
  | .done => none
  | .descMalformed => some 0
  | .align => some 1
  | .overlap => some 2
  | .bounds => some 3
  | .xlate => some 4
  | .protect => some 5
  | .chainHold => some 6
  | .levelExhausted => some 7
  | .budgetExhausted => some 8
  | .paramMismatch => some 9
  | .keyMismatch => some 10
  | .operandPoisoned => some 11
  | .scaleMismatch => some 12
  | .engineAbsent => some 13
  | .spadOff => some 14
  | .killed => some 15
  | .tableCommitRefused => some 16

/-- Set the sticky bit of a status in a partition (R279). -/
def State.stick (s : State) (p : Nat) (st : Status) : State :=
  match st.sticky with
  | none => s
  | some b => s.setField (pr p .partSticky) b b 1

/-- A malformed set-up write (R12): the DESC_MALFORMED sticky bit. -/
def State.malformed (s : State) (p : Nat) : State := s.stick p .descMalformed

/-- The side effects of an op's own status (R278): its sticky bit, and ABSENT for ENGINE_ABSENT (R4). MISMATCH
and KEY_FAULT of a key fault are written where the fault is found (R48, R159). -/
def State.statusEffects (s : State) (p : Nat) (st : Status) : State :=
  let s := s.stick p st
  if st = .engineAbsent then s.bump (pr p .partEventCount) 31 16 else s

/-! ### Headers (R41) -/

abbrev Header := BitVec 512

def hScheme (h : Header) : Nat := bits h 1 0
def hLog2N (h : Header) : Nat := bits h 6 2
def hComps (h : Header) : Nat := bits h 8 7
def hLevel (h : Header) : Nat := bits h 15 9
def hCap (h : Header) : Nat := bits h 22 16
def hChain (h : Header) : Nat := bits h 26 23
def hForm (h : Header) : Nat := bits h 27 27
def hStorage (h : Header) : Nat := bits h 28 28
def hValid (h : Header) : Bool := bit h 29
def hPoisoned (h : Header) : Bool := bit h 30
def hExhausted (h : Header) : Bool := bit h 31
def hKeySet (h : Header) : Nat := bits h 127 64
def hKeyTag (h : Header) : Nat := bits h 159 128
def hScale (h : Header) : Nat := bits h 191 160
def hNoise (h : Header) : Nat := bits h 207 192

/-- Base and stride of a component (R41). -/
def hBase (h : Header) (c : Nat) : Nat :=
  match c with
  | 0 => bits h 303 256
  | 1 => bits h 383 336
  | _ => bits h 463 416
def hStride (h : Header) (c : Nat) : Nat :=
  match c with
  | 0 => bits h 335 304
  | 1 => bits h 415 384
  | _ => bits h 495 464

/-- The components that a COMPONENTS value declares: two or three. -/
def compCount (c : Nat) : Nat := if c = 3 then 3 else 2

/-- Ring dimension of a header. -/
def hN (h : Header) : Nat := 2 ^ hLog2N h

/-- Size of one limb of N residues in the storage format (R35, R36). -/
def limbSize (n storage : Nat) : Nat := if storage = 0 then n / 128 * 576 else n * 8

/-- Are a header's reserved bits zero (R41)? -/
def hReservedOk (h : Header) : Bool :=
  decide (bits h 63 32 = 0) && decide (bits h 255 208 = 0) && decide (bits h 511 496 = 0)

/-- Do the content fields of a source hold no reserved value (R41, R43)? -/
def hContentOk (h : Header) : Bool :=
  hValid h && decide (hScheme h ≤ 2) && decide (10 ≤ hLog2N h ∧ hLog2N h ≤ 17) &&
  decide (hComps h = 2 ∨ hComps h = 3) && decide (1 ≤ hLevel h ∧ hLevel h ≤ 64) && decide (hKeySet h ≠ 0)

/-- Is CAP_LEVEL of a source in its range (R41)? -/
def hCapOk (h : Header) : Bool := decide (1 ≤ hCap h ∧ hCap h ≤ 64)

/-! ### Noise budget (R49 to R53), Q8.8 integers -/

/-- Bit length of a number. -/
def bitLen (x : Nat) : Nat := if x = 0 then 0 else Nat.log2 x + 1

/-- What the estimate rules need of a chain (R50): log2 N, t, and the primes' bit lengths. -/
structure NoiseCtx where
  log2N : Nat
  t : Nat
  qBits : List Nat
  ckks : Bool
  scale : Nat     -- the result's SCALE, Q16.16
  level : Nat     -- the result level

/-- F = n/2 + 3 in Q8.8 (R50). -/
def NoiseCtx.f (c : NoiseCtx) : Int := c.log2N * 128 + 3 * 256
/-- K = n/2 + 6 (R50). -/
def NoiseCtx.k (c : NoiseCtx) : Int := c.log2N * 128 + 6 * 256
/-- T, the bit length of t (R50). -/
def NoiseCtx.tBits (c : NoiseCtx) : Int := bitLen c.t * 256
/-- LQ of the result level (R50). -/
def NoiseCtx.lq (c : NoiseCtx) : Int := (((c.qBits.take c.level).map (fun b => b - 1)).sum : Nat) * 256
/-- S: the result's SCALE, truncated to Q8.8 (R50). -/
def NoiseCtx.s (c : NoiseCtx) : Int := (c.scale / 256 : Nat)
/-- n in Q8.8. -/
def NoiseCtx.n (c : NoiseCtx) : Int := c.log2N * 256

/-- Estimate after a key switch: RELIN, KEYSWITCH, ROTATE, CONJUGATE, HOIST_ROTATE (R51). -/
def NoiseCtx.keySwitch (c : NoiseCtx) (b : Int) : Int :=
  if c.ckks then min b (c.s - c.k) else min b (c.lq - c.tBits - c.k)
/-- Estimate after RESCALE (R51). -/
def NoiseCtx.rescale (c : NoiseCtx) (b : Int) : Int :=
  if c.ckks then min (b - 128) (c.s - c.f) else min (b - 128) (c.lq - c.tBits - c.f)
/-- Estimate after MOD_DROP (R51). -/
def NoiseCtx.modDrop (c : NoiseCtx) (b : Int) : Int :=
  if c.ckks then b else min (b - 128) (c.lq - c.tBits - c.f)
/-- Estimate after MUL (R51). -/
def NoiseCtx.mul (c : NoiseCtx) (a b : Int) : Int :=
  if c.ckks then min a b - 256 else min a b - (c.tBits + c.n + 512)
/-- Estimate after MUL_PLAIN (R51). -/
def NoiseCtx.mulPlain (c : NoiseCtx) (b : Int) : Int :=
  if c.ckks then b - 256 else b - (c.tBits + c.n)
/-- c centred modulo t: its absolute value (R51, R283). -/
def centredAbs (x : Int) (t : Nat) : Nat :=
  let r := (x % (t : Int)).toNat
  if 2 * r ≤ t then r else t - r
/-- Estimate after MUL_CONST by `x` (R51). -/
def NoiseCtx.mulConst (c : NoiseCtx) (b : Int) (x : Int) : Int :=
  if c.ckks then b - 256 else b - (bitLen (centredAbs x c.t) : Nat) * 256
/-- Estimate after REFRESH with declared output estimate `r` (R51). -/
def NoiseCtx.refresh (c : NoiseCtx) (r : Int) : Int := min r (c.s - c.f)

/-- The headroom cap of CKKS (R52) and the clamp of R49. -/
def NoiseCtx.final (c : NoiseCtx) (b : Int) : Nat :=
  let b := if c.ckks then min b (c.lq - c.s - 256) else b
  (max 0 (min b 0xFFFF)).toNat

/-- Is an operand exhausted under a guard (R53)? -/
def exhausted (h : Header) (guard : Nat) : Bool := hExhausted h || decide (hNoise h ≤ guard)

/-- The content of a result header (R42): what an op writes besides the placement fields. -/
structure Content where
  scheme : Nat
  log2N : Nat
  comps : Nat        -- COMPONENTS value
  level : Nat
  chain : Nat
  form : Nat
  keySet : Nat
  keyTag : Nat
  scale : Nat
  noise : Nat
  poisoned : Bool := false
  exhausted : Bool := false

/-- Write content fields into a header and leave its placement fields (R42). VALID becomes 1. -/
def putContent (h : Header) (c : Content) : Header :=
  let h := setBits h 1 0 c.scheme
  let h := setBits h 6 2 c.log2N
  let h := setBits h 8 7 c.comps
  let h := setBits h 15 9 c.level
  let h := setBits h 26 23 c.chain
  let h := setBits h 27 27 c.form
  let h := setBits h 29 29 1
  let h := setBits h 30 30 (if c.poisoned then 1 else 0)
  let h := setBits h 31 31 (if c.exhausted then 1 else 0)
  let h := setBits h 127 64 c.keySet
  let h := setBits h 159 128 c.keyTag
  let h := setBits h 191 160 c.scale
  setBits h 207 192 c.noise

/-- Content of a header, as a starting point for a result; a SCALE of BGV and BFV is ignored and written as 0 (R41). -/
def contentOf (h : Header) : Content :=
  { scheme := hScheme h, log2N := hLog2N h, comps := hComps h, level := hLevel h, chain := hChain h, form := hForm h,
    keySet := hKeySet h, keyTag := hKeyTag h, scale := if hScheme h = 0 then hScale h else 0, noise := hNoise h,
    poisoned := hPoisoned h, exhausted := hExhausted h }

/-- Give a content its final estimate and its tag (R52). -/
def Content.withNoise (x : Content) (c : NoiseCtx) (b : Int) (guard : Nat) : Content :=
  let n := c.final b
  { x with noise := n, exhausted := decide (n ≤ guard) }

/-! ### log2 of a prime, rounded to Q16.16 (R46) -/

/-- λ of R46 in units of 2^-16: log2 of `q` rounded to the nearest unit, as ⌊(2^17 log2 q + 1) / 2⌋, with
⌊2^17 log2 q⌋ read off the exact power q^(2^17). -/
def lambdaOf (q : Nat) : Nat := (Nat.log2 (q ^ (2 ^ 17)) + 1) / 2

end Sys2Proof.Machine
end

