-- ==== Sys2Proof/Machine/Operands.lean ====
section
/-! DEFINITION. The layouts of submission entries (R260), op entries (R262), completion entries (R274), and what each opcode uses, reads and writes (R263, R264, R266, R280). -/
namespace Sys2Proof.Machine

abbrev Entry := BitVec 512

/-- A 512-bit entry from its 64 bytes. -/
def entryOf (bs : List Byte) : Entry := BitVec.ofNat 512 (leNat bs)

/-! ### Submission entries -/
def seTag (e : Entry) : Nat := bits e 15 0
def seOpCount (e : Entry) : Nat := bits e 31 16
def seAutoRefresh (e : Entry) : Bool := bit e 32
def seOrdered (e : Entry) : Bool := bit e 33
def seReportAll (e : Entry) : Bool := bit e 34
def seCounters (e : Entry) : Bool := bit e 35
def seGraphHost (e : Entry) : Bool := bit e 36
def seGraph (e : Entry) : Nat := bits e 127 64
def seDesc (e : Entry) : Nat := bits e 175 128
def seDescCount (e : Entry) : Nat := bits e 191 176
def seJobId (e : Entry) : Nat := bits e 255 192

/-! ### Op entries -/
def oeOpcode (e : Entry) : Nat := bits e 7 0
def oeReport (e : Entry) : Bool := bit e 8
def oeAfterAll (e : Entry) : Bool := bit e 9
def oeChainEn (e : Entry) : Bool := bit e 10
def oeDepCount (e : Entry) : Nat := bits e 18 16
def oeDep (e : Entry) (k : Nat) : Nat := bits e (47 + 16 * k) (32 + 16 * k)
def oeA (e : Entry) : Nat := bits e 115 96
def oeB (e : Entry) : Nat := bits e 147 128
def oeD (e : Entry) : Nat := bits e 179 160
def oeKey (e : Entry) : Nat := bits e 203 192
def oeChain (e : Entry) : Nat := bits e 223 208
def oeTA (e : Entry) : Nat := bits e 239 224
def oeTB (e : Entry) : Nat := bits e 255 240
def oeTD (e : Entry) : Nat := bits e 271 256
def oeP0 (e : Entry) : Nat := bits e 383 320
def oeP1 (e : Entry) : Nat := bits e 447 384

/-- Are an op entry's reserved bits zero (R262)? -/
def oeReservedOk (e : Entry) : Bool :=
  decide (bits e 15 11 = 0) && decide (bits e 31 19 = 0) && decide (bits e 127 116 = 0) && decide (bits e 159 148 = 0) &&
  decide (bits e 191 180 = 0) && decide (bits e 207 204 = 0) && decide (bits e 319 272 = 0) && decide (bits e 511 448 = 0)

/-- The opcodes of R263. -/
def opcodes : List Nat :=
  [0x01, 0x02, 0x03, 0x04, 0x05, 0x10, 0x11, 0x12, 0x13, 0x14, 0x15, 0x16, 0x17, 0x18, 0x19, 0x20, 0x21, 0x22, 0x23,
   0x28, 0x29, 0x2A, 0x30, 0x31, 0x32, 0x33, 0x40, 0x41, 0x70, 0x71, 0x7F]

/-- Which fields of its op entry an op uses (R280). -/
structure Uses where
  a : Bool := false
  b : Bool := false
  d : Bool := false
  key : Bool := false
  ta : Bool := false
  tb : Bool := false
  td : Bool := false
  p0 : Bool := false
  p1 : Bool := false
  chain : Bool := false

/-- The fields that an opcode uses (R270, R280); for INT_MATMUL, by CHAIN_EN (R289). -/
def usesOf (opcode : Nat) (chainEn : Bool) : Uses :=
  match opcode with
  | 0x01 => { d := true, ta := true }
  | 0x02 => { a := true, d := true }
  | 0x03 => { ta := true, td := true }
  | 0x04 => { ta := true, td := true }
  | 0x05 => { td := true, p0 := true }
  | 0x10 => { a := true, b := true, d := true }
  | 0x11 => { a := true, b := true, d := true }
  | 0x12 => { a := true, d := true }
  | 0x13 => { a := true, tb := true, p0 := true, d := true }
  | 0x14 => { a := true, tb := true, p0 := true, d := true }
  | 0x15 => { a := true, p0 := true, p1 := true, d := true }
  | 0x16 => { a := true, b := true, d := true }
  | 0x17 => { a := true, key := true, d := true }
  | 0x18 => { a := true, d := true }
  | 0x19 => { a := true, p0 := true, d := true }
  | 0x20 => { a := true, p0 := true, key := true, d := true }
  | 0x21 => { a := true, ta := true, key := true, d := true }
  | 0x22 => { a := true, key := true, d := true }
  | 0x23 => { a := true, key := true, d := true }
  | 0x28 => { a := true, d := true }
  | 0x29 => { a := true, d := true }
  | 0x2A => { ta := true, tb := true, td := true }
  | 0x30 => { a := true, p0 := true, p1 := true, key := true, d := true }
  | 0x31 => { a := true, p0 := true, p1 := true, key := true, d := true }
  | 0x32 => { a := true, d := true }
  | 0x33 => { ta := true, td := true, p0 := true }
  | 0x40 => if chainEn then { chain := true } else { ta := true, tb := true, td := true, p0 := true }
  | 0x41 => { ta := true, tb := true, td := true, p0 := true }
  | 0x71 => { p0 := true, p1 := true }
  | 0x7F => { a := true, b := true, d := true, key := true, chain := true }
  | _ => {}

/-- R264: a field that the op does not use is zero, and CHAIN_EN stands only on an op that takes a
chain or a pattern; a CUSTOM has to set it (R295), and one
that does not is refused with its job at acceptance (DESIGN CHOICE, log entry 137). -/
def fieldsKept (e : Entry) : Bool :=
  let u := usesOf (oeOpcode e) (oeChainEn e)
  (u.a || decide (oeA e = 0)) && (u.b || decide (oeB e = 0)) && (u.d || decide (oeD e = 0)) &&
  (u.key || decide (oeKey e = 0)) && (u.chain || decide (oeChain e = 0)) && (u.ta || decide (oeTA e = 0)) &&
  (u.tb || decide (oeTB e = 0)) && (u.td || decide (oeTD e = 0)) && (u.p0 || decide (oeP0 e = 0)) &&
  (u.p1 || decide (oeP1 e = 0)) && (u.chain || !oeChainEn e) && (decide (oeOpcode e ≠ 0x7F) || oeChainEn e)

/-- The dependencies of an op in its graph (R262). -/
def depsOf (e : Entry) (idx : Nat) : List Nat :=
  if oeAfterAll e then List.range idx else (List.range (oeDepCount e)).map (oeDep e)

/-- The descriptor entries that an op entry names: first entry and number of entries (R265 step 4). The
LOAD_CT declaration, the constant record of BCONV and the CUSTOM reference take one entry; a chain
descriptor takes two (R117). -/
def descIdx (e : Entry) : List (Nat × Nat) :=
  let u := usesOf (oeOpcode e) (oeChainEn e)
  (if u.ta then [(oeTA e, if oeOpcode e = 0x01 then 1 else 2)] else []) ++
  (if u.tb then [(oeTB e, if oeOpcode e = 0x2A then 1 else 2)] else []) ++
  (if u.td then [(oeTD e, 2)] else []) ++
  (if u.chain then [(oeChain e, if oeOpcode e = 0x7F then 1 else 2)] else [])

/-- Step 4 of R265 for one op entry. -/
def opEntryOk (e : Entry) (idx descCount : Nat) : Bool :=
  opcodes.contains (oeOpcode e) && oeReservedOk e && decide (oeDepCount e ≤ 4) &&
  (List.range 4).all (fun k => if k < oeDepCount e then decide (oeDep e k < idx) else decide (oeDep e k = 0)) &&
  decide ((List.range (oeDepCount e)).map (oeDep e)).Nodup &&
  fieldsKept e && (descIdx e).all (fun d => decide (d.1 + d.2 ≤ descCount))

/-- Handles that acceptance sees an op read and write (R266). -/
def handleReads (e : Entry) : List Nat :=
  let u := usesOf (oeOpcode e) false
  if oeOpcode e = 0x7F then [] else (if u.a then [oeA e] else []) ++ (if u.b then [oeB e] else [])
def handleWrites (e : Entry) : List Nat :=
  let u := usesOf (oeOpcode e) false
  if oeOpcode e = 0x7F then [] else if u.d then [oeD e] else []

/-- Two sets of handles conflict: a handle of both, written by at least one. -/
def handlesMeet (r1 w1 r2 w2 : List Nat) : Bool :=
  w1.any (fun h => r2.contains h || w2.contains h) || w2.any (fun h => r1.contains h)

/-- The ancestors of every op in index order: all ops joined to it by a path of dependencies. -/
def ancestors (es : List Entry) : List (List Nat) :=
  (es.foldl (fun (acc : List (List Nat) × Nat) e =>
    let ds := depsOf e acc.2
    let anc := ds.foldl (fun l d => l ++ [d] ++ (acc.1.getD d [])) []
    (acc.1 ++ [anc.eraseDups], acc.2 + 1)) ([], 0)).1

/-- Is one of two ops an ancestor of the other? -/
def joined (anc : List (List Nat)) (i j : Nat) : Bool :=
  (anc.getD i []).contains j || (anc.getD j []).contains i

/-- The first conflicting pair's higher index under R266, lowest such index first (R272). -/
def handleConflict (es : List Entry) : Option Nat :=
  let anc := ancestors es
  (List.range es.length).find? (fun i =>
    (List.range i).any (fun j =>
      let a := es.getD i 0
      let b := es.getD j 0
      handlesMeet (handleReads a) (handleWrites a) (handleReads b) (handleWrites b) && !joined anc i j))

/-- The completion entry of an op or a job (R274) before PHASE and SQ_HEAD are known. -/
structure Completion where
  kind : Nat
  status : Status
  remapped : Bool := false
  spilled : Bool := false
  saturated : Bool := false
  autoRefreshed : Bool := false
  tag : Nat
  opIndex : Nat
  origin : Nat
  jobId : Nat
  tStart : BitVec 64
  tEnd : BitVec 64
  c0Start : BitVec 32 := 0
  c0End : BitVec 32 := 0
  c1Start : BitVec 32 := 0
  c1End : BitVec 32 := 0

def bnat (b : Bool) : Nat := if b then 1 else 0

def Completion.encode (c : Completion) : BitVec 512 :=
  BitVec.ofNat 512 (c.kind + c.status.code * 2 ^ 16 + bnat c.remapped * 2 ^ 32 + bnat c.spilled * 2 ^ 33 +
    bnat c.saturated * 2 ^ 34 + bnat c.autoRefreshed * 2 ^ 35 + c.tag * 2 ^ 48 + c.opIndex % 65536 * 2 ^ 64 +
    c.origin % 65536 * 2 ^ 80 + c.jobId * 2 ^ 128 + c.tStart.toNat * 2 ^ 192 + c.tEnd.toNat * 2 ^ 256 +
    c.c0Start.toNat * 2 ^ 320 + c.c0End.toNat * 2 ^ 352 + c.c1Start.toNat * 2 ^ 384 + c.c1End.toNat * 2 ^ 416)

end Sys2Proof.Machine
end

