-- ==== Sys2Proof/Machine/Words.lean ====
section
/-! DEFINITION. The stream instruction word: its layout (R181), the opcodes of each stream (R185, R195 to R201) and the rules on its fields (R182, R183, R186, R187, R193 to R201). -/
namespace Sys2Proof.Machine

/-- The stream code of R179. -/
def streamCode : StreamCode → Nat
  | .feed => 0
  | .ntt => 1
  | .vec => 2
  | .cable => 3
  | .rib => 4
  | .ply => 5

/-- The 64-bit word of R181. -/
def encodeWord (opcode : Nat) (w : StreamWord) : BitVec 64 :=
  BitVec.ofNat 64 (opcode % 256 * 2 ^ 56 + w.mode.toNat * 2 ^ 52 + w.inA.toNat * 2 ^ 46 + w.inB.toNat * 2 ^ 40 +
    w.out.toNat * 2 ^ 34 + w.flags.toNat * 2 ^ 32 + w.count.toNat * 2 ^ 16 + w.imm.toNat)

/-- The fields of a word below its opcode. -/
def wordOf (x : BitVec 64) : StreamWord :=
  { mode := x.extractLsb' 52 4, inA := x.extractLsb' 46 6, inB := x.extractLsb' 40 6, out := x.extractLsb' 34 6,
    flags := x.extractLsb' 32 2, count := x.extractLsb' 16 16, imm := x.extractLsb' 0 16 }

/-- The opcode of a word. -/
def wordOpcode (x : BitVec 64) : Nat := x.toNat / 2 ^ 56

/-- What an operand field may hold (R182). -/
inductive Operand where
  | none         -- the opcode does not use it: 0x3F
  | queue        -- a queue end
  | optQueue     -- a queue end or nothing
  | vec          -- a queue end or a window
deriving DecidableEq, Repr

/-- The rule of R182 for one operand field. -/
def Operand.ok (o : Operand) (v : BitVec 6) : Bool :=
  match o with
  | .none => decide (v = 0x3F)
  | .queue => decide (v.toNat < 0x30)
  | .optQueue => decide (v.toNat < 0x30) || decide (v = 0x3F)
  | .vec => decide (v.toNat < 0x34)

/-- The rule of one opcode: its operands, and the values of `MODE`, `FLAGS`, `COUNT` and `IMM` it takes. -/
structure WordRule where
  inA : Operand := .none
  inB : Operand := .none
  out : Operand := .none
  mode : Nat → Bool := fun m => decide (m = 0)
  flags : Nat → Bool := fun f => decide (f = 0)
  count : Nat → Bool := fun c => decide (c = 0)
  imm : Nat → Bool := fun i => decide (i = 0)

def WordRule.ok (r : WordRule) (w : StreamWord) : Bool :=
  r.inA.ok w.inA && r.inB.ok w.inB && r.out.ok w.out && r.mode w.mode.toNat && r.flags w.flags.toNat &&
  r.count w.count.toNat && r.imm w.imm.toNat

/-- A descriptor index (R179). -/
def isDesc (i : Nat) : Bool := decide (i < 1024)

/-- Control instructions, on every stream (R185). -/
def controlRule (op : Nat) : Option WordRule :=
  match op with
  | 0x00 => some {}
  | 0x01 => some { mode := fun m => decide (m < 8), count := fun _ => true, imm := fun i => decide (1 ≤ i ∧ i ≤ 2047) }
  | 0x02 => some { mode := fun m => decide (m < 4), count := fun _ => true,
                   imm := fun i => decide (i < 128) && decide (i / 8 % 2 = 0) && decide (i / 16 ≤ 5) }
  | 0x03 => some { mode := fun m => decide (m < 8), count := fun c => decide (1 ≤ c ∧ c ≤ 16) }
  | 0x04 => some { mode := fun m => decide (m < 2), count := fun c => decide (1 ≤ c ∧ c ≤ 255), imm := fun i => decide (i < 32) }
  | 0x05 => some { mode := fun m => decide (m < 2), count := fun c => decide (1 ≤ c ∧ c ≤ 255), imm := fun i => decide (i < 32) }
  | 0x06 => some { mode := fun m => decide (m < 2), count := fun c => decide (1 ≤ c ∧ c ≤ 255),
                   imm := fun i => decide (i / 32 % 32 = 0) }
  | 0x0F => some {}
  | _ => none

/-- FEED (R195): `FLAGS` release an input end and commit an output end that the opcode has. -/
def feedRule (op : Nat) : Option WordRule :=
  match op with
  | 0x20 => some { out := .queue, mode := fun m => decide (m < 4), flags := fun f => decide (f % 2 = 0), count := fun c => decide (1 ≤ c), imm := isDesc }
  | 0x21 => some { inA := .queue, mode := fun m => decide (m < 4), flags := fun f => decide (f < 2), count := fun c => decide (1 ≤ c), imm := isDesc }
  | 0x22 => some { mode := fun m => decide (m < 4), count := fun c => decide (1 ≤ c), imm := fun i => isDesc (i + 1) }
  | 0x23 => some { out := .queue, mode := fun m => decide (m < 4), flags := fun f => decide (f % 2 = 0), count := fun c => decide (1 ≤ c), imm := isDesc }
  | 0x24 => some { inA := .queue, out := .queue, mode := fun m => decide (m < 4), flags := fun _ => true, count := fun c => decide (1 ≤ c) }
  | _ => none

/-- NTT (R197). -/
def nttRule (op : Nat) : Option WordRule :=
  if op = 0x30 ∨ op = 0x31 ∨ op = 0x32 then
    some { inA := .queue, out := .queue, flags := fun _ => true, count := fun c => decide (1 ≤ c ∧ c ≤ 64), imm := isDesc }
  else none

/-- CABLE (R198). The spec gives COUNT no range: one of 0 is accepted and moves nothing: CGATH and CRGATH then
release and commit as their flags say, CXCHG still gives its share, and the others do nothing (DESIGN CHOICE, log entry 135). -/
def cableRule (op : Nat) : Option WordRule :=
  match op with
  | 0x40 => some { inA := .queue, out := .queue, flags := fun _ => true, count := fun _ => true }
  | 0x41 => some { inA := .queue, out := .queue, flags := fun _ => true, count := fun _ => true, imm := isDesc }
  | 0x42 => some { inA := .queue, out := .queue, flags := fun _ => true, count := fun _ => true, imm := isDesc }
  | 0x43 => some { inA := .queue, inB := .queue, out := .queue, flags := fun _ => true, count := fun _ => true, imm := isDesc }
  | 0x44 => some { inA := .queue, inB := .queue, out := .queue, flags := fun _ => true, count := fun _ => true, imm := isDesc }
  | 0x45 => some { inA := .queue, out := .queue, flags := fun _ => true, count := fun _ => true, imm := isDesc }
  | 0x46 => some { inA := .queue, mode := fun m => decide (m < 2), flags := fun f => decide (f < 2), count := fun _ => true, imm := isDesc }
  | _ => none

/-- RIB (R199). -/
def ribRule (op : Nat) : Option WordRule :=
  match op with
  | 0x50 => some { mode := fun m => decide (m < 3) }
  | 0x51 => some { imm := isDesc }
  | 0x52 => some { inA := .queue, inB := .optQueue, out := .optQueue, mode := fun _ => true, flags := fun _ => true, count := fun c => decide (1 ≤ c), imm := isDesc }
  | _ => none

/-- PLY (R200). A pattern's PKEY names key 0 (log entry 91); a PMAC takes a seed set in mode 1 only. -/
def plyRule (op m : Nat) : Option WordRule :=
  match op with
  | 0x60 => some {}
  | 0x61 => some { inA := .queue, inB := if m = 1 then .queue else .none, out := .queue, mode := fun m => decide (m < 2), flags := fun _ => true,
                   count := fun c => decide (1 ≤ c ∧ c ≤ 80), imm := isDesc }
  | _ => none

/-- The element operations of VEC: how many sources they take, and whether they always take a constant record (R169, R201). -/
def vecArity (op : Nat) : Option (Nat × Bool) :=
  match op with
  | 0x80 | 0x81 | 0x83 => some (2, false)
  | 0x82 | 0x85 => some (1, false)
  | 0x86 => some (2, false)
  | 0x84 | 0x8B => some (3, false)
  | 0x88 | 0x89 | 0x8A | 0x8C | 0x8D => some (2, false)
  | 0x8E => some (1, false)
  | 0x8F | 0x90 | 0x91 | 0x92 => some (1, true)
  | 0x94 | 0x95 => some (1, false)
  | 0x98 | 0x99 | 0x9A | 0x9B | 0x9D | 0x9E => some (2, false)
  | 0x9C | 0xA0 => some (1, false)
  | _ => none

/-- The rule of an element operation under its scalar bits: a scalar source names no operand, and `IMM` names a
record only where one is used. In the multiply-adds x is never a scalar, `MODE`[52] stands for `IN_B` and `MODE`[53] for
the addend (R201). -/
def vecElemRule (arity : Nat) (params : Bool) (m : Nat) : WordRule :=
  let sa := m % 2 = 1
  let sb := m / 2 % 2 = 1
  let useRec := params || decide (m % 4 ≠ 0)
  { inA := if arity ≠ 3 ∧ sa then .none else .vec
    inB := if arity = 1 then .none else if (arity = 2 ∧ sb) ∨ (arity = 3 ∧ sa) then .none else .vec
    out := .vec
    mode := fun m => decide (m < 4) && (decide (arity ≠ 1) || decide (m < 2))
    flags := fun _ => true
    imm := fun i => if useRec then isDesc i else decide (i = 0) }

/-- VEC (R183, R201). -/
def vecRule (op : Nat) (m : Nat) : Option WordRule :=
  match op with
  | 0x70 => some { mode := fun m => decide (m < 4), imm := isDesc }
  | 0x71 => some { count := fun _ => true }
  | 0xA1 => some { inA := .vec, out := .vec, mode := fun m => decide (m < 8), flags := fun _ => true }
  | _ => (vecArity op).map (fun a => vecElemRule a.1 a.2 m)

/-- The rule of an opcode on a stream; none where the opcode is reserved on it (R201). -/
def wordRule (k op m : Nat) : Option WordRule :=
  match controlRule op with
  | some r => some r
  | none =>
    match k with
    | 0 => feedRule op
    | 1 => nttRule op
    | 2 => vecRule op m
    | 3 => cableRule op
    | 4 => ribRule op
    | 5 => plyRule op m
    | _ => none

/-- The field rules on one stream word (the first row of R206). A VREDUCE that does not close names no destination or
one; CMPSET relation 4 needs V ≥ 1 and relation 5 needs V = 0 (R187). -/
def wordOk (k op : Nat) (w : StreamWord) : Bool :=
  (match wordRule k op w.mode.toNat with
   | some r => r.ok (if op = 0xA1 ∧ w.flags.toNat < 2 ∧ w.out = 0x3F then { w with out := 0 } else w)
   | none => false) &&
  (if op = 0x02 then
    (decide (w.imm.toNat / 16 ≠ 4) || decide (1 ≤ w.count.toNat)) && (decide (w.imm.toNat / 16 ≠ 5) || decide (w.count = 0))
   else true) &&
  (if op = 0x52 then decide (w.flags.toNat / 2 = 0) || decide (w.out ≠ 0x3F) else true)

end Sys2Proof.Machine
end

