-- ==== Sys2Proof/Machine/Governor.lean ====
section
/-! DEFINITION. The tension governor: the effective cap and the die budgets (R382), the runtime's power estimates (R383), and what a die can admit (R384). -/
namespace Sys2Proof.Machine

/-! ### Budgets (R382, R385) -/

/-- The grade maximum of R7, in W. -/
def State.gradeMax (s : State) : Nat := if s.grade = 3 then 8600 else 9500

/-- P_eff in W (R382): inlet in 0.1 °C, flow in 0.01 L/min, input in mV. -/
def State.effCap (s : State) : Nat :=
  let p := s.power
  if p.flowCenti < 800 ∨ 480 < p.inletDeci then 3000
  else
    let cap := 10 * bits (s.reg (.glob .pwrCap)) 9 0
    let c := min cap (min s.gradeMax (p.inputMv / 5))
    let c := if 400 < p.inletDeci then min c (cap - 25 * (p.inletDeci - 400)) else c
    if p.flowCenti < 1600 then min c (cap * p.flowCenti / 1600) else c

/-- A die that tiles run on. -/
def State.diePowered (s : State) (d : Nat) : Bool := decide ((s.site d).state = .active) || decide ((s.site d).state = .retiring)

/-- All tiles of the die are in M2. -/
def State.dieIdle (s : State) (d : Nat) : Bool := (List.range 32).all (fun t => decide ((s.tile (32 * d + t)).gate = .m2))

/-- P_die in W (R382), lowered by the input throttling of R385. -/
def State.dieBudget (s : State) (d : Nat) : Nat :=
  if s.diePowered d then
    let on := (List.range 18).filter s.diePowered
    let busy := on.filter (fun e => !s.dieIdle e)
    let pool := 93 * s.effCap / 100 - max 1043 s.power.fixedWatts
    let share := if s.dieIdle d then 25 else min 420 ((pool - 25 * (on.length - busy.length)) / busy.length)
    let hot := share - 2 * ((s.site d).tempDeci - 950)
    hot * (100 - 2 * s.power.throttleSteps) / 100
  else 0

/-! ### Estimates (R383) -/

/-- The engines that have a coefficient of their own, in the order of the store's field. -/
inductive PowerUnit where
  | feeders | ntt | cable | ribModular | ribInteger | ply | vector
deriving DecidableEq, Repr

/-- The engines that the runtime's images of an op use: those of the column of R280, the feeders, which bring every engine its data, and beside the NTT the vector engine, as
the worked example of R384 charges them. Expanded ops and REFRESH use what the steps they expand to use (log entry 98). -/
def opUnits (op scheme : Nat) : List PowerUnit :=
  match op with
  | 0x01 | 0x10 | 0x11 | 0x12 | 0x13 | 0x14 | 0x15 => [.feeders, .vector]
  | 0x02 | 0x04 => [.feeders, .cable]
  | 0x03 | 0x05 | 0x71 => [.feeders]
  | 0x16 => if scheme = 2 then [.feeders, .vector, .ntt, .ribModular] else [.feeders, .vector]
  | 0x17 | 0x20 | 0x21 | 0x22 | 0x23 | 0x30 | 0x31 | 0x32 => [.feeders, .ntt, .cable, .ribModular, .ply, .vector]
  | 0x18 | 0x28 | 0x29 | 0x33 => [.feeders, .ntt, .vector]
  | 0x19 => if scheme = 0 then [.feeders] else [.feeders, .ntt, .vector]
  | 0x2A => [.feeders, .cable, .ribModular]
  | 0x40 | 0x41 => [.feeders, .ribInteger, .vector, .cable]
  | _ => []

/-- The engines that a pattern's images use: those whose image holds an instruction of their own; the Rib array counts in the integer modes once an RMODE sets one. -/
def CustomPlan.units (pl : CustomPlan) : List PowerUnit :=
  let ops := fun (k : Nat) => (pl.images.getD k []).filter (fun w => decide (0x10 ≤ wordOpcode w))
  let used := fun (k : Nat) (u : PowerUnit) => if (ops k).isEmpty then [] else [u]
  let int := (ops 4).any (fun w => decide (wordOpcode w = 0x50) && decide ((wordOf w).mode ≠ 0))
  used 0 .feeders ++ used 1 .ntt ++ used 3 .cable ++ used 4 (if int then .ribInteger else .ribModular) ++ used 5 .ply ++ used 2 .vector

def PowerUnit.index : PowerUnit → Nat
  | .feeders => 0
  | .ntt => 1
  | .cable => 2
  | .ribModular => 3
  | .ribInteger => 4
  | .ply => 5
  | .vector => 6

/-- The estimate of an op for the tiles of a list that lie on a die, in mW: for each a base of 1.2 W and the coefficients of its engines (R383). -/
def OpRec.estimate (r : OpRec) (coefficients ts : List Nat) (d : Nat) : Nat :=
  let us := match r.plan with
    | some pl => pl.units
    | none => opUnits (oeOpcode r.entry) (hScheme r.hdrA)
  (ts.filter (fun t => decide (siteOf t = d))).length * (1200 + (us.map (fun (u : PowerUnit) => coefficients.getD u.index 0)).sum)

/-- What the ops that are admitted on a die are charged, another op's aside: by the coefficients of their admission (R431). -/
def State.admitted (s : State) (d : Nat) (o : OpRef) : Nat :=
  (s.jobs.map (fun j => ((j.ops.filter (fun q => (decide (q.phase = .running) || decide (q.phase = .ran)) && !q.displaced && decide (j.id ≠ o.job ∨ q.idx ≠ o.op))).map (fun q =>
    q.estimate q.coefficients q.tiles d)).sum)).sum

/-- Does an op fit the budgets of the dies of its tiles (R384)? The die's own charge is 36 W; an op that alone exceeds what is left runs when it is alone. -/
def State.powerFits (s : State) (o : OpRef) (r : OpRec) (ts : List Nat) : Bool :=
  (ts.map siteOf).all (fun d =>
    let room := 1000 * s.dieBudget d - 36000
    let e := r.estimate s.store.coefficients ts d
    let used := s.admitted d o
    decide (e + used ≤ room) || (decide (room < e) && decide (used = 0)))

end Sys2Proof.Machine
end

