-- ==== Sys2Proof/Machine/Modular.lean ====
section
/-! DEFINITION. Arithmetic modulo a prime (R62 to R67): the canonical results; Barrett reduction and lazy accumulation as the spec writes them. -/
namespace Sys2Proof.Machine

/-- Canonical sum, difference and negation (R63). -/
def addMod (q a b : Nat) : Nat := if a + b < q then a + b else a + b - q
def subMod (q a b : Nat) : Nat := if b ≤ a then a - b else a + q - b
def negMod (q a : Nat) : Nat := if a = 0 then 0 else q - a

/-- Canonical product. -/
def mulMod (q a b : Nat) : Nat := a * b % q

/-- Powers modulo `q` by squaring; `fuel` bounds the bits of the exponent. -/
def powModFuel (q : Nat) : Nat → Nat → Nat → Nat
  | 0, _, _ => 1 % q
  | fuel + 1, b, e =>
    if e = 0 then 1 % q
    else
      let h := powModFuel q fuel (b * b % q) (e / 2)
      if e % 2 = 1 then b * h % q else h

/-- b^e mod q. -/
def powMod (q b e : Nat) : Nat := powModFuel q (e.log2 + 1) (b % q) e

/-- The inverse of `a` modulo a prime `q`. -/
def invMod (q a : Nat) : Nat := powMod q a (q - 2)

/-- Bit length as R62 and R64 use it. -/
def bitLength (q : Nat) : Nat := if q = 0 then 0 else Nat.log2 q + 1

/-- MU = ⌊2^(2b+2)/q⌋ (R64). -/
def muOf (q : Nat) : Nat := 2 ^ (2 * bitLength q + 2) / q

/-- The Barrett reduction of R64, step by step. -/
def barrett (q mu x : Nat) : Nat :=
  let b := bitLength q
  let a1 := x / 2 ^ (b - 2)
  let qh := a1 * mu / 2 ^ (b + 4)
  let r := x - qh * q
  let r := if q ≤ r then r - q else r
  if q ≤ r then r - q else r

/-- The reduction of an 80-bit accumulator in two passes (R66). -/
def reduceAcc (q mu pow40 a : Nat) : Nat :=
  let h := barrett q mu (a / 2 ^ 40)
  barrett q mu (h * pow40 + a % 2 ^ 40)

/-! ### Residue checks (R68) -/

/-- The modulus of the residue checks. -/
def checkModulus : Nat := 8191

/-- What the checker of a multiplier confirms of a reduction of a · b to r with total quotient `quot`; `qm` is q mod m, computed at the commit of the table that holds
q. A RESIDUE_MISMATCH is the event that such a check fails; nothing turns the checks off. -/
def productCheck (q qm a b quot r : Nat) : Bool :=
  decide ((a % checkModulus) * (b % checkModulus) % checkModulus = (quot * qm + r) % checkModulus) && decide (r < q)

/-- The check of a product that is reduced to its canonical value. -/
def mulChecked (q qm a b : Nat) : Bool := productCheck q qm a b (a * b / q) (mulMod q a b)

/-- The same for a limb of products. -/
def mulChecks (q qm : Nat) (a b : List Nat) : Bool := (a.zip b).all (fun (x, y) => mulChecked q qm x y)

/-- The 13-bit running check of an accumulator. -/
def runningStep (c x : Nat) : Nat := (c + x % checkModulus) % checkModulus
def runningCheck (xs : List Nat) : Nat := xs.foldl runningStep 0
/-- The reduction of an accumulator, with quotient and remainder, against its running check. -/
def accumulatorCheck (q qm sum check : Nat) : Bool := decide ((sum / q * qm + sum % q) % checkModulus = check) && decide (sum % q < q)
/-- An accumulation of terms and its reduction. -/
def sumChecked (q qm : Nat) (xs : List Nat) : Bool := accumulatorCheck q qm xs.sum (runningCheck xs)
/-- The check of the same form on an exact sum of integers (R174). -/
def intSumChecked (xs : List Int) : Bool := decide (xs.sum % (checkModulus : Int) = xs.foldl (fun c x => (c + x) % (checkModulus : Int)) 0)

/-- One round chain of the Miller–Rabin test: does base `a` witness that n = 2^s d + 1 is composite? -/
def mrRounds (n : Nat) : Nat → Nat → Bool
  | 0, _ => true
  | k + 1, x => if x = n - 1 then false else mrRounds n k (x * x % n)

/-- The power of two in n - 1, and its odd part. -/
def twoPart : Nat → Nat → Nat × Nat
  | 0, d => (0, d)
  | fuel + 1, d => if d % 2 = 0 ∧ d ≠ 0 then let (s, r) := twoPart fuel (d / 2); (s + 1, r) else (0, d)

/-- The deterministic Miller–Rabin test with bases 2, 3, 5, 7, 11 and 13 (R75, check 0x3). -/
def isPrimeMR (n : Nat) : Bool :=
  if n < 2 then false
  else if [2, 3, 5, 7, 11, 13].contains n then true
  else if n % 2 = 0 then false
  else
    let (s, d) := twoPart 40 (n - 1)
    [2, 3, 5, 7, 11, 13].all (fun a =>
      let x := powMod n a d
      decide (x = 1) || !mrRounds n s x)

/-- The centred representative of a residue: the value in (-q/2, q/2) (R171, R284). -/
def centred (q x : Nat) : Int := if 2 * x < q then (x : Int) else (x : Int) - q

/-- The residue of an integer. -/
def toMod (q : Nat) (x : Int) : Nat := (x % (q : Int)).toNat

end Sys2Proof.Machine
end

