-- ==== Sys2Proof/Machine/Entries.lean ====
section
/-! DEFINITION. Completion entries, the hold, interrupts, and how ops and jobs end (R257 to R259, R271 to R277). -/
namespace Sys2Proof.Machine

/-! ### Ring geometry -/

/-- Entries of the submission and of the completion ring, from the active copy (R251). -/
def State.sqSize (s : State) (p n : Nat) : Nat := 2 ^ bits (s.act (pr p (.ringCfg (nIdx n)))) 4 0
def State.cqSize (s : State) (p n : Nat) : Nat := 2 ^ bits (s.act (pr p (.ringCfg (nIdx n)))) 12 8
def State.sqHost (s : State) (p n : Nat) : Bool := bit (s.act (pr p (.ringCfg (nIdx n)))) 16
def State.cqHost (s : State) (p n : Nat) : Bool := bit (s.act (pr p (.ringCfg (nIdx n)))) 17
def State.sqBase (s : State) (p n : Nat) : Nat :=
  (s.act (pr p (.ringSqBaseLo (nIdx n)))).toNat + (s.act (pr p (.ringSqBaseHi (nIdx n)))).toNat * 2 ^ 32
def State.cqBase (s : State) (p n : Nat) : Nat :=
  (s.act (pr p (.ringCqBaseLo (nIdx n)))).toNat + (s.act (pr p (.ringCqBaseHi (nIdx n)))).toNat * 2 ^ 32

def State.ringEnabled (s : State) (p n : Nat) : Bool := bit (s.reg (pr p (.ringCtrl (nIdx n)))) 0

/-- A completion ring is full when CQ_TAIL + 1 equals the written head, modulo its size (R253). -/
def State.cqFull (s : State) (p n : Nat) : Bool :=
  let r := s.ring p n
  decide ((r.cqTail + 1) % s.cqSize p n = r.head)

/-- Completion slots that the ring has free. -/
def State.cqFree (s : State) (p n : Nat) : Nat :=
  let r := s.ring p n
  (r.head + 2 * s.cqSize p n - r.cqTail % s.cqSize p n - 1) % s.cqSize p n

/-- Is PERST_N of a port low? It keeps the port's link in reset (R426). -/
def State.perstLow (s : State) (h : Nat) : Bool := (decide (h = 0) && s.power.perst0Low) || s.power.perstLow.contains h

/-- The port whose physical function and virtual functions answer (R364, R390). -/
def State.portUp (s : State) (h : Nat) : Bool :=
  let k := s.hank h
  k.running && k.linkUp && !s.perstLow h

/-- The port that carries a partition's virtual function (R317). -/
def State.vfPort (s : State) (p : Nat) : Nat := match (s.part p).vf with
  | some (h, _) => h
  | none => 0

/-! ### Interrupts -/

/-- Send an MSI-X message of function `key` (State.msix), or set its pending bit while the vector is masked. -/
def State.msixSend (s : State) (key vector : Nat) (o : Output) : State :=
  if bit (Tab.get (fun w => if w % 4 = 3 then 1 else 0) s.msix (64 * key + 4 * vector + 3)) 0 then
    { s with msixPending := Tab.set (fun _ => false) s.msixPending (16 * key + vector) true }
  else s.emit o

/-- The core that a hart runs on: its own, or the one it shares (R362). -/
def Hart.core (h : Hart) : Option Nat := if h.phys.isSome then h.phys else h.shares

/-- A suspended hart goes on once an interrupt is pending; one whose suspension kept no registers starts at its resume address, in VS
mode with translation Bare (log entry 14). -/
def Hart.wake (v : Nat) (h : Hart) : Hart :=
  if h.state = .suspended ∧ (h.timerPending || h.softPending || h.extPending) then
    let h := { h with state := if h.core.isSome then .running else .waitingForCore, resume := none }
    match h.resume with
    | some (a, x) => { h with entry := a, a0 := BitVec.ofNat 64 v, a1 := x, vs := {} }
    | none => h
  else h

/-- A ring's interrupt (R259): MSI-X on VECTOR, and a supervisor external interrupt on virtual hart 0 (R318). -/
def State.ringIrq (s : State) (p n : Nat) : State :=
  let v := bits (s.reg (pr p (.ringIrq (nIdx n)))) 3 0
  let s := s.updRing p n (fun r => { r with irqCount := 0 })
  let s := match (s.part p).vf with
    | some (h, i) => s.msixSend (4 + 16 * h + i) v (.msixVf h i v)
    | none => s
  s.updPart p (fun x => { x with harts := x.harts.mapIdx (fun i hart => if i = 0 then Hart.wake 0 { hart with extPending := true } else hart) })

/-! ### The hold -/

/-- Is an op reported by an entry of its own (R275)? Inserted REFRESH ops have no op index and none. -/
def reports (j : Job) (o : OpRec) : Bool := o.inserted.isNone && (seReportAll j.entry || oeReport o.entry)

/-- Places of the hold of a ring pair that are taken or reserved (R258): entries that wait, one for each
accepted job without its job entry, and one for each op that may be reported, from its readiness until its entry is produced. -/
def State.holdTaken (s : State) (p n : Nat) : Nat :=
  let js := s.jobs.filter (fun j => j.part = p ∧ j.ring = n ∧ !j.produced)
  (s.ring p n).hold.length + js.length +
    (js.map (fun j => (j.ops.filter (fun o => decide (o.phase ≠ .waiting) && !o.reported && reports j o)).length)).sum

def holdSize : Nat := 4096

/-- Put a completion entry behind those that wait (R258). The entries of resolved ops (R271), which have no reserve, follow too, past 4,096 where it comes to that, since
none is dropped (DESIGN CHOICE, log entry 137). -/
def State.produce (s : State) (p n : Nat) (e : HeldEntry) : State :=
  s.updRing p n (fun r => { r with hold := r.hold ++ [e] })

/-! ### Latched counters (R277) -/

/-- Bits [31:0] of the two selected counters, when the job asks for them. -/
def State.latch (s : State) (j : Job) : (BitVec 32 × BitVec 32) × State :=
  if seCounters j.entry then
    let sel := s.reg (pr j.part (.ringCntSel (nIdx j.ring)))
    let (a, s) := s.counter j.part (bits sel 15 0)
    let (b, s) := s.counter j.part (bits sel 31 16)
    ((a.truncate 32, b.truncate 32), s)
  else ((0, 0), s)

/-! ### Entries of ops and jobs -/

/-- The op entry of R274 to R277. -/
def opCompletion (j : Job) (o : OpRec) : Completion :=
  { kind := 1, status := o.status, remapped := o.remapped, spilled := o.spilled, saturated := o.saturated,
    autoRefreshed := o.autoRefreshed, tag := seTag j.entry, opIndex := o.idx, origin := o.origin, jobId := seJobId j.entry,
    tStart := o.tStart, tEnd := o.tEnd, c0Start := o.c0Start, c0End := o.c0End, c1Start := o.c1Start, c1End := o.c1End }

/-- The status and ORIGIN of a job entry (R272). -/
def jobStatus (j : Job) : Status × Nat :=
  if j.killed then (.killed, 0xFFFF)
  else if j.acceptStatus ≠ .done then (j.acceptStatus, j.acceptOrigin)
  else match j.ops.find? (fun o => o.inserted.isNone && decide (o.origin = o.idx)) with
    | some o => (o.status, o.idx)
    | none => (.done, 0xFFFF)

/-- The job entry (R272, R276). -/
def jobCompletion (j : Job) (now : BitVec 64) (c0 c1 : BitVec 32) : Completion :=
  let (st, org) := jobStatus j
  { kind := 2, status := st,
    remapped := j.ops.any (·.remapped), spilled := j.ops.any (·.spilled), saturated := j.ops.any (·.saturated), autoRefreshed := j.ops.any (·.autoRefreshed),
    tag := seTag j.entry, opIndex := 0xFFFF, origin := org, jobId := seJobId j.entry, tStart := j.tStart, tEnd := now,
    c0Start := j.c0Start, c0End := c0, c1Start := j.c1Start, c1End := c1 }

/-- The entry of an op is produced. -/
def State.produceOp (s : State) (o : OpRef) : State :=
  match s.op? o with
  | some (j, r) =>
    let s := s.updOp o (fun r => { r with reported := true })
    if reports j r then s.produce j.part j.ring ⟨(opCompletion j r).encode, j.id, false⟩ else s
  | none => s

/-- Produce the entry of an op that has settled, unless it waits for the REFRESH inserted after it (R275). The entries of a
killed job wait for step 3 of its frog, in the order in which its ops settled (R322). -/
def State.reportOp (s : State) (o : OpRef) : State :=
  match s.op? o with
  | some (j, r) =>
    if r.phase.settled && !r.reported && !r.refreshDue then
      if j.killed then s.updJob j.id (fun j => { j with due := if j.due.contains r.idx then j.due else j.due ++ [r.idx] })
      else s.produceOp o
    else s
  | none => s

/-- Is every op of a job settled and reported, inserted ones included? -/
def Job.over (j : Job) : Bool := j.ops.all (fun o => o.phase.settled && o.reported)

/-- A job with ORDERED completes after its predecessor (R275). -/
def State.orderKept (s : State) (j : Job) : Bool :=
  !seOrdered j.entry || (match j.prev.bind s.job? with
    | some k => k.produced
    | none => true)

/-- After every op entry of a job, one job entry is produced (R275). -/
def State.completeOne (s : State) (jid : Nat) : State :=
  match s.job? jid with
  | some j =>
    if j.over && !j.produced && s.orderKept j then
      let ((c0, c1), s) := s.latch j
      let s := s.updJob jid (fun j => { j with produced := true })
      s.produce j.part j.ring ⟨(jobCompletion j s.clock c0 c1).encode, j.id, true⟩
    else s
  | none => s

/-- Complete a job, and those with ORDERED that have waited for it; a job's predecessor stands before it. -/
def State.completeJob (s : State) (jid : Nat) : State :=
  s.jobs.foldl (fun s j => if j.id = jid ∨ seOrdered j.entry then s.completeOne j.id else s) s

/-- The direct predecessors of an op: its listed dependencies, every lower op with AFTER_ALL, and the REFRESH
ops inserted after one of those (R54). -/
def Job.preds (j : Job) (o : OpRec) : List OpRec :=
  let ds := depsOf o.entry o.idx
  j.ops.filter (fun r => match r.inserted with
    | none => ds.contains r.idx
    | some a => !r.insertedBefore && ds.contains a)

/-- The direct predecessors that have op indices. -/
def Job.graphPreds (j : Job) (o : OpRec) : List OpRec := (j.preds o).filter (fun r => r.inserted.isNone)

/-- Did an op end in a way that keeps its dependents from running (R271)? -/
def OpRec.failed (o : OpRec) : Bool :=
  o.phase.settled && !(decide (o.status = .done) || (decide (o.status = .operandPoisoned) && decide (o.phase ≠ .resolved)))

/-- The failed direct predecessor with the lowest ORIGIN (R271). -/
def lowestOrigin (ps : List OpRec) : Option OpRec :=
  (ps.filter (·.failed)).foldl (fun best o => match best with
    | none => some o
    | some b => if o.origin < b.origin then some o else some b) none

/-- One pass of dependent resolution over a job (R271): a waiting op whose direct predecessors have all
settled, one of them failed, is resolved with the status of the failed predecessor of lowest ORIGIN. -/
def State.resolvePass (s : State) (jid : Nat) : State :=
  match s.job? jid with
  | some j =>
    j.ops.foldl (fun s o =>
      match s.job? jid with
      | some j =>
        let ps := j.graphPreds o
        match (if o.inserted.isNone && decide (o.phase = .waiting) && ps.all (fun q => q.phase.settled) then lowestOrigin ps else none) with
        | some q =>
          let ((c0, c1), s) := s.latch j
          let s := s.updOp ⟨jid, o.idx⟩ (fun o => { o with phase := .resolved, status := q.status, origin := q.origin, tStart := s.clock, tEnd := s.clock, c0Start := c0, c0End := c0, c1Start := c1, c1End := c1, remapped := false, spilled := false, saturated := false, autoRefreshed := false })
          s.reportOp ⟨jid, o.idx⟩
        | none => s
      | none => s) s
  | none => s

/-- When an inserted REFRESH settles, its flags join those of the op that it was inserted after or before (R276), and an
op after which it was inserted is reported once no other such REFRESH is due (R275). -/
def State.refreshEnds (s : State) (o : OpRef) : State :=
  match s.op? o with
  | some (j, r) =>
    match (if r.phase.settled then r.inserted else none) with
    | some a =>
      let due := j.ops.any (fun q => decide (q.inserted = some a) && !q.insertedBefore && !q.phase.settled)
      let s := s.updOp ⟨o.job, a⟩ (fun q => { q with
        remapped := q.remapped || r.remapped, spilled := q.spilled || r.spilled, saturated := q.saturated || r.saturated, refreshDue := due })
      s.reportOp ⟨o.job, a⟩
    | none => s
  | none => s

/-- After an op has settled: report it, resolve its dependents in index order, and complete the job when
all its ops have settled. -/
def State.settleJob (s : State) (o : OpRef) : State :=
  (((s.refreshEnds o).reportOp o).resolvePass o.job).completeJob o.job

/-- The tiles of an op's list that it occupies. -/
def State.occupied (s : State) (o : OpRef) (r : OpRec) : List Nat := r.tiles.filter (fun t => decide ((s.tile t).op = some (o.job, o.op)))

/-- The stash lines that an op has written: in its discarded executions, and on the tiles that it occupies (R325). -/
def State.stashLines (s : State) (o : OpRef) (r : OpRec) : List (Nat × Nat) :=
  (r.stashRan ++ (s.occupied o r).flatMap (fun t => (s.tile t).stashWrote.map (fun l => (t, l)))).eraseDups

/-- Free the tiles that an op occupies: its streams and feeders stop (R207, R209), and nothing of the pattern stays
behind in the engines; the staging buffer is filled with zeros (R246). -/
def State.freeTiles (s : State) (ts : List Nat) : State :=
  ts.foldl (fun s t => s.updTile t (fun x => { x with
    op := none, partDone := false, streams := [], feeders := [], posts := [], exchanges := [],
    ribGroups := [], ribConst := none, plyKey := none, windows := [], reduction := none, stashWrote := [], wrote := [], sent := [], heldBack := none, staging := [] })) s

/-- An op ends with a status of its own and without a bind-off (R271, R273). An inserted REFRESH counts in no
FAILED and reports in no entry (R55). -/
def State.endOp (s : State) (o : OpRef) (st : Status) : State :=
  match s.op? o with
  | some (j, r) =>
    let s := (s.statusEffects j.part st).countRun j.part r
    let s := if r.inserted.isNone then s.bump (pr j.part .partEventCount) 15 0 else s
    let ((c0, c1), s) := s.latch j
    let s := s.freeTiles r.tiles
    let s := s.updOp o (fun r => { r with
      phase := .ended, status := st, halted := false, ending := none, saved := [], before := [], checkpoint := none, origin := r.idx, tEnd := s.clock, c0End := c0, c1End := c1,
      tStart := if r.started then r.tStart else s.clock, c0Start := if r.started then r.c0Start else c0, c1Start := if r.started then r.c1Start else c1,
      results := [], footR := [], footW := [], workSlot := none, reported := r.inserted.isSome })
    s.settleJob o
  | none => s

end Sys2Proof.Machine
end

