-- ==== Sys2Proof/Machine/Rings.lean ====
section
/-! DEFINITION. Rings and jobs on their way in and out: doorbells, ring enable and drain, submission fetch with job acceptance, completion writes and the interrupt timer (R250 to R266). -/
namespace Sys2Proof.Machine

/-- The module takes register accesses: its runtime is ready (R380) and it is not in M4. -/
def State.answers (s : State) : Bool :=
  s.power.runtimeReady && decide (s.power.state ≠ .m4) && decide (s.power.state ≠ .starting)

/-- Does partition `p` answer at its virtual function, operator window and core image (R316, R440)? -/
def State.partOpen (s : State) (p : Nat) : Bool :=
  let x := s.part p
  !(decide (x.state = .free) || decide (x.state = .releasing) || x.destroyed)

/-- Does an access through a view reach the partition's registers? -/
def State.viewOpen (s : State) (v : View) (p : Nat) : Bool :=
  s.answers && s.partOpen p && (match v with
    | .vf => s.portUp (s.vfPort p)
    | _ => true)

/-- A doorbell in M3, or on the way into it, is recorded and starts the exit (R388, R392). -/
def State.wake (s : State) : State :=
  match s.power.state with
  | .m3 => { s with power := { s.power with state := .leavingM3, doorbell := true, stepsDone := [] } }
  | .enteringM3 => { s with power := { s.power with doorbell := true } }
  | _ => s

/-- A discarded doorbell value: DB_REFUSED and the DESC_MALFORMED sticky bit (R253, R254). -/
def State.refuseDb (s : State) (p n : Nat) : State :=
  (s.setField (pr p (.ringStatus (nIdx n))) 4 4 1).malformed p

/-- The check of a submission doorbell value (R253, R254). -/
def State.sqTailOk (s : State) (p n v : Nat) : Bool :=
  let r := s.ring p n
  let k := s.sqSize p n
  r.active && decide (v < k) && decide (((v : Int) - r.tail) % k ≤ ((r.sqHead : Int) - 1 - r.tail) % k)

/-- The check of a completion doorbell value (R253, R254). -/
def State.cqHeadOk (s : State) (p n v : Nat) : Bool :=
  let r := s.ring p n
  let k := s.cqSize p n
  r.active && decide (v < k) && decide (((v : Int) - r.head) % k ≤ ((r.cqTail : Int) - r.head) % k)

/-- A write of DB_SQ_n (R254). -/
def State.dbSq (s : State) (p n : Nat) (value : Word32) : State :=
  let v := bits value 15 0
  let s := if s.ringEnabled p n then s.wake else s
  if s.sqTailOk p n v then s.updRing p n (fun r => { r with tail := v }) else s.refuseDb p n

/-- A write of DB_CQ_n (R254). -/
def State.dbCq (s : State) (p n : Nat) (value : Word32) : State :=
  let v := bits value 15 0
  let s := if s.ringEnabled p n then s.wake else s
  if s.cqHeadOk p n v then s.updRing p n (fun r => { r with head := v }) else s.refuseDb p n

def execDbSqWrite (view : View) (p : Fin 64) (n : Fin 16) (value : BitVec 32) (s : State) : Host.Outcome State Fault Refusal :=
  .next (if s.viewOpen view p then s.dbSq p n value else s)

def execDbCqWrite (view : View) (p : Fin 64) (n : Fin 16) (value : BitVec 32) (s : State) : Host.Outcome State Fault Refusal :=
  .next (if s.viewOpen view p then s.dbCq p n value else s)

/-! ### Cast-on commits -/

/-- Start a cast-on commit of a group: its shadow values as they stand now (R12, R78). -/
def State.startCommit (s : State) (g : Group) (rs : List Reg) : State :=
  { s with commits := s.commits ++ [{ group := g, values := rs.map (fun r => (r.addr, s.reg r)) }] }

def State.commitPending (s : State) (g : Group) : Bool := s.commits.any (fun c => c.group = g)
def State.dropCommit (s : State) (g : Group) : State := { s with commits := s.commits.filter (fun c => c.group ≠ g) }

/-- The RWS registers of a ring pair (R251). -/
def ringGroup (p n : Nat) : List Reg :=
  [pr p (.ringSqBaseLo (nIdx n)), pr p (.ringSqBaseHi (nIdx n)), pr p (.ringCqBaseLo (nIdx n)), pr p (.ringCqBaseHi (nIdx n)),
   pr p (.ringCfg (nIdx n))]

/-- Writing 1 to ENABLE (R252): nothing while it reads 1. -/
def State.enableRing (s : State) (p n : Nat) : State :=
  if s.ringEnabled p n then s
  else (s.setField (pr p (.ringCtrl (nIdx n))) 0 0 1).startCommit (.ring (pIdx p) (nIdx n)) (ringGroup p n)

/-- Writing 0 to ENABLE (R252): fetching stops at once; a commit that still waits is withdrawn (log entry 18). -/
def State.disableRing (s : State) (p n : Nat) : State :=
  (s.setField (pr p (.ringCtrl (nIdx n))) 0 0 0).dropCommit (.ring (pIdx p) (nIdx n))

def execRingEnable (view : View) (p : Fin 64) (n : Fin 16) (s : State) : Host.Outcome State Fault Refusal :=
  .next (if s.viewOpen view p then s.enableRing p n else s)

def execRingDisable (view : View) (p : Fin 64) (n : Fin 16) (s : State) : Host.Outcome State Fault Refusal :=
  .next (if s.viewOpen view p then s.disableRing p n else s)

/-- Is a pair enabled with no commit that still waits? While a commit asked for before ACTIVE cleared waits,
fetching stays stopped although ENABLE reads 1 (R252). -/
def State.ringServing (s : State) (p n : Nat) : Bool :=
  s.ringEnabled p n && !s.commitPending (.ring (pIdx p) (nIdx n))

/-- Have the jobs of a disabled pair ended, with each entry written or kept in the hold after a failed write (R252)? -/
def State.ringDrainable (s : State) (p n : Nat) : Bool :=
  let r := s.ring p n
  r.active && !s.ringServing p n && (r.hold.isEmpty || r.deliveryStopped) &&
  s.jobs.all (fun j => !(decide (j.part = p) && decide (j.ring = n)) || j.produced)

/-- RING_DRAINED: ACTIVE clears (R252). -/
def execRingDrained (p : Fin 64) (n : Fin 16) (s : State) : Host.Outcome State Fault Refusal :=
  .next (if s.ringDrainable p n then s.updRing p n (fun r => { r with active := false }) else s)

/-! ### Submission fetch and acceptance -/

/-- Bytes from a place that a ring or a graph lies in: host memory behind the partition's port, or device
space. Host reads fail while the port does not answer (R256). -/
def State.readSpace (s : State) (p : Nat) (host : Bool) (a n : Nat) : Except (Option MemErr) (List Byte) :=
  if host then (if s.portUp (s.vfPort p) then .ok (s.readHost (s.vfPort p) a n) else .error none)
  else match s.readVA p a n with
    | .ok bs => .ok bs
    | .error e => .error (some e)

/-- The first failure of the reads of a graph, XLATE before PROTECT before an uncorrectable line (R265 step 3). -/
def State.graphErr (s : State) (p a n : Nat) : Option MemErr :=
  let errs := (pieces a n).filterMap (fun (x, len) => match s.readVA p x len with
    | .ok _ => none
    | .error e => some e)
  match errs.find? (fun e => match e with | .fault f => !f.protect | _ => false) with
  | some e => some e
  | none => match errs.find? (fun e => match e with | .fault _ => true | _ => false) with
    | some e => some e
    | none => errs.head?

/-- Steps 1 and 2 of R265 on a submission entry. -/
def submissionStatus (e : Entry) : Status :=
  if !(decide (bits e 63 37 = 0) && decide (bits e 511 256 = 0) && decide (1 ≤ seOpCount e) &&
      (decide (seDesc e = 0) == decide (seDescCount e = 0)) && (seGraphHost e || decide (seGraph e < 2 ^ 48))) then .descMalformed
  else if seGraph e % 64 ≠ 0 ∨ seDesc e % 64 ≠ 0 then .align
  else .done

/-- Steps 4 and 5 of R265 on the op entries: status and ORIGIN of a refusal. -/
def graphStatus (e : Entry) (es : List Entry) : Status × Nat :=
  match (List.range es.length).find? (fun i => !opEntryOk (es.getD i 0) i (seDescCount e)) with
  | some i => (.descMalformed, i)
  | none => match handleConflict es with
    | some i => (.overlap, i)
    | none => (.done, 0xFFFF)

/-- A new job with its ops. -/
def State.newJob (s : State) (p n idx : Nat) (e : Entry) (es : List Entry) : Job :=
  { id := s.nextJob, part := p, ring := n, sqIndex := idx, entry := e,
    ops := es.mapIdx (fun i x => { idx := i, entry := x }), prev := (s.ring p n).lastJob, tStart := s.clock }

/-- A job joins the fetched jobs. -/
def State.acceptJob (s : State) (j : Job) : State :=
  let ((c0, c1), s) := s.latch j
  let j := { j with c0Start := c0, c1Start := c1 }
  ({ s with jobs := s.jobs ++ [j], nextJob := s.nextJob + 1 }).updRing j.part j.ring (fun r => { r with lastJob := some j.id })

/-- A job refused at acceptance (R265): its sticky bit, and one job entry, after its predecessor's where it has ORDERED (R275). -/
def State.refuseJob (s : State) (j : Job) (st : Status) (origin : Nat) : State :=
  ((s.stick j.part st).acceptJob { j with ops := [], acceptStatus := st, acceptOrigin := origin }).completeJob j.id

/-- A failed submission-entry or graph read (R256). -/
def State.fetchFault (s : State) (p n : Nat) (e : Option MemErr) : State :=
  let s := (s.setField (pr p (.ringStatus (nIdx n))) 1 1 1).updRing p n (fun r => { r with fetchStopped := true })
  match e with
  | some (.fault f) => s.capture p 6 f
  | some (.bad pa _) => s.badLine pa (some p) (hankUnit (s.vfPort p))
  | none => s

def MemErr.status : MemErr → Status
  | .fault f => f.status
  | .bad _ _ => .operandPoisoned

/-- Is an entry of ring `n` ready to be fetched (R252, R255, R258)? -/
def State.fetchable (s : State) (p n : Nat) : Bool :=
  let r := s.ring p n
  r.active && s.ringServing p n && !r.fetchStopped && decide (r.sqHead ≠ r.tail) && decide (s.holdTaken p n < holdSize)

/-- The ring whose turn it is (R255): round-robin over the rings with an entry to fetch. -/
def State.fetchTurn (s : State) (p : Nat) : Option Nat :=
  ((List.range 16).map (fun i => (i + (s.part p).nextRing) % 16)).find? (fun n => s.fetchable p n)

/-- Jobs between fetch and job completion (R255): until the job's entry is produced (DESIGN CHOICE, log entry 137). -/
def State.openJobs (s : State) (p : Nat) : Nat := (s.jobs.filter (fun j => j.part = p ∧ !j.produced)).length

/-- A submission entry whose entry and graph have been read: acceptance (R265), then SQ_HEAD passes it (R255). -/
def State.accept (s : State) (p n : Nat) (e : Entry) (es : List Entry) : State :=
  let r := s.ring p n
  let j := s.newJob p n r.sqHead e es
  let s := s.updRing p n (fun r => { r with sqHead := (r.sqHead + 1) % s.sqSize p n })
  match graphStatus e es with
  | (.done, _) => s.acceptJob j
  | (st, org) => s.refuseJob j st org

/-- Read a graph and accept or refuse its job (R255, R256, R265). A graph in host memory that the port cannot read is refused with XLATE (log entry 130).
An entry refused at steps 1 and 2 of R265 has no graph to read, and SQ_HEAD passes it (DESIGN CHOICE, log entry 137). -/
def State.fetchGraph (s : State) (p n : Nat) (e : Entry) : State :=
  let r := s.ring p n
  match submissionStatus e with
  | .done =>
    let len := 64 * seOpCount e
    if seGraphHost e then
      match s.readSpace p true (seGraph e) len with
      | .ok bs => s.accept p n e ((chunksOf 64 (seOpCount e) bs).map entryOf)
      | .error err => (s.fetchFault p n err).refuseJob (s.newJob p n r.sqHead e []) .xlate 0xFFFF
    else match s.graphErr p (seGraph e) len with
      | some err => (s.fetchFault p n (some err)).refuseJob (s.newJob p n r.sqHead e []) err.status 0xFFFF
      | none => match s.readVA p (seGraph e) len with
        | .ok bs => s.accept p n e ((chunksOf 64 (seOpCount e) bs).map entryOf)
        | .error _ => s
  | st =>
    let j := s.newJob p n r.sqHead e []
    (s.updRing p n (fun r => { r with sqHead := (r.sqHead + 1) % s.sqSize p n })).refuseJob j st 0xFFFF

/-- The runtime of the hank die whose port carries the partition's virtual function fetches for it, in M0 while it is ACTIVE or in a frog (R31, R255, R324, R364, R388). -/
def State.fetches (s : State) (p : Nat) : Bool :=
  s.answers && decide (s.power.state = .m0) && s.partOpen p && (s.hank (s.vfPort p)).running

/-- SUBMISSION_FETCH (R255). -/
def State.fetch (s : State) (p n : Nat) : State :=
  if s.fetches p && decide (s.fetchTurn p = some n) && decide (s.openJobs p < 256) then
    let s := s.updPart p (fun x => { x with nextRing := (n + 1) % 16 })
    match s.readSpace p (s.sqHost p n) (s.sqBase p n + 64 * (s.ring p n).sqHead) 64 with
    | .ok bs => s.fetchGraph p n (entryOf bs)
    | .error err => s.fetchFault p n err
  else s

def execSubmissionFetch (p : Fin 64) (n : Fin 16) (s : State) : Host.Outcome State Fault Refusal := .next (s.fetch p n)

/-! ### Completion delivery -/

/-- The bytes of an entry as they are written: PHASE and SQ_HEAD filled in (R257, R274). -/
def State.entryBytes (s : State) (p n : Nat) (e : HeldEntry) : List Byte :=
  let r := s.ring p n
  leBytes 64 (setBits (setBits e.bits 8 8 (bnat r.phase)) 111 96 r.sqHead).toNat

/-- May the pair write an entry now (R257, R258)? -/
def State.deliverable (s : State) (p n : Nat) : Bool :=
  let r := s.ring p n
  s.answers && decide (s.power.state = .m0) && r.active && !r.deliveryStopped && !s.cqFull p n

/-- An entry has been written: the tail moves, the phase inverts at the wrap (R257), a job whose entry it was
is forgotten, and the interrupt of R259 is raised when COUNT entries stand uncovered. -/
def State.delivered (s : State) (p n : Nat) (e : HeldEntry) : State :=
  let k := s.cqSize p n
  let s := s.updRing p n (fun r => { r with
    hold := r.hold.drop 1, cqTail := (r.cqTail + 1) % k,
    phase := if r.cqTail + 1 = k then !r.phase else r.phase, irqCount := r.irqCount + 1 })
  let s := if e.isJob then { s with jobs := s.jobs.filter (fun j => j.id ≠ e.job) } else s
  let c := bits (s.reg (pr p (.ringIrq (nIdx n)))) 15 8
  if c ≠ 0 ∧ c ≤ (s.ring p n).irqCount then s.ringIrq p n else s

/-- A failed completion-entry write (R258). -/
def State.deliveryFault (s : State) (p n : Nat) : State :=
  (s.setField (pr p (.ringStatus (nIdx n))) 2 2 1).updRing p n (fun r => { r with deliveryStopped := true })

/-- COMPLETION_WRITE (R257): the oldest waiting entry, bytes 4 to 63 first, then bytes 0 to 3. While the port is in reset it stays in
the hold (R390); the write fails when its hank die has stopped. -/
def State.deliver (s : State) (p n : Nat) : State :=
  match (s.ring p n).hold with
  | [] => s
  | e :: _ =>
    if s.deliverable p n then
      let a := s.cqBase p n + 64 * (s.ring p n).cqTail
      let bs := s.entryBytes p n e
      if s.cqHost p n then
        if s.portUp (s.vfPort p) then
          ((s.writeHost (s.vfPort p) (a + 4) (bs.drop 4)).writeHost (s.vfPort p) a (bs.take 4)).delivered p n e
        else if (s.hank (s.vfPort p)).running then s
        else s.deliveryFault p n
      else match s.writeVA p (a + 4) (bs.drop 4) with
        | .error f => (s.deliveryFault p n).capture p 9 f
        | .ok s1 => match s1.writeVA p a (bs.take 4) with
          | .error f => (s.deliveryFault p n).capture p 9 f
          | .ok s2 => s2.delivered p n e
    else s

def execCompletionWrite (p : Fin 64) (n : Fin 16) (s : State) : Host.Outcome State Fault Refusal := .next (s.deliver p n)

/-- RING_IRQ_TIMER (R259): TIME µs have passed since the first entry that no interrupt covers. -/
def execRingIrqTimer (p : Fin 64) (n : Fin 16) (s : State) : Host.Outcome State Fault Refusal :=
  let i := s.reg (.part p (.ringIrq n))
  .next (if bits i 31 16 ≠ 0 ∧ bits i 15 8 ≠ 0 ∧ 0 < (s.ring p n).irqCount then s.ringIrq p n else s)

end Sys2Proof.Machine
end

