-- ==== Sys2Proof/Machine/Chains.lean ====
section
/-! DEFINITION. Modulus tables (R70 to R77): chain headers and prime entries, the shadow banks through MT_ADDR and MT_DATA, and the commit with its checks. -/
namespace Sys2Proof.Machine

/-- Key of word `w` of entry `e` (0x7F: the header) of chain slot `c` in a bank table. -/
def mtKey (c e w : Nat) : Nat := c * 2048 + e * 16 + w

/-- A word of a bank. -/
def mtWord (m : Tab Word32) (c e w : Nat) : Word32 := Tab.get (fun _ => 0) m (mtKey c e w)

/-- The header of a slot, 16 words; an entry, 8 words. -/
def mtHeader (m : Tab Word32) (c : Nat) : Nat :=
  ((List.range 16).map (fun w => (mtWord m c 0x7F w).toNat * 2 ^ (32 * w))).sum
def mtEntry (m : Tab Word32) (c e : Nat) : Nat :=
  ((List.range 8).map (fun w => (mtWord m c e w).toNat * 2 ^ (32 * w))).sum

/-- The chain header of R71. -/
structure ChainHdr where
  log2N : Nat
  l : Nat
  k : Nat
  digits : Nat
  enable : Bool
  t : Nat
deriving DecidableEq, Repr

def chainHdr (m : Tab Word32) (c : Nat) : ChainHdr :=
  let h := mtHeader m c
  { log2N := nbits h 4 0, l := nbits h 14 8, k := nbits h 20 16, digits := nbits h 30 24, enable := decide (nbits h 31 31 = 1),
    t := nbits h 63 32 }

/-- A prime entry of R72. -/
structure PrimeEntry where
  q : Nat
  mu : Nat
  nInv : Nat
  omega : Nat
  pow40 : Nat
  twPtr : Nat
  check : Nat                        -- q mod 8,191, which the module forms at the commit (R68)
deriving DecidableEq, Repr

def primeEntry (m : Tab Word32) (c e : Nat) : PrimeEntry :=
  let x := mtEntry m c e
  { q := nbits x 34 0, mu := nbits x 77 40, nInv := nbits x 114 80, omega := nbits x 154 120, pow40 := nbits x 194 160,
    twPtr := nbits x 247 200, check := nbits x 34 0 % checkModulus }

/-- The entries that are part of a chain, ascending (R70). -/
def chainEntries (h : ChainHdr) : List Nat := List.range h.l ++ (List.range h.k).map (· + 64)

/-- Is an entry number part of a chain? -/
def ChainHdr.has (h : ChainHdr) (e : Nat) : Bool := decide (e < h.l) || (decide (64 ≤ e) && decide (e < 64 + h.k))

/-- A check of R75 that failed: CHECK and ENTRY. -/
abbrev MtFail := Nat × Nat

/-- Check 0x1 on the reserved bits of a header (R71). -/
def hdrReservedOk (h : Nat) : Bool :=
  decide (nbits h 7 5 = 0) && decide (nbits h 15 15 = 0) && decide (nbits h 23 21 = 0) && decide (nbits h 511 64 = 0)

/-- Check 0x1 on the fields of an enabled header, T aside (R71). -/
def hdrFieldsOk (h : ChainHdr) : Bool :=
  decide (10 ≤ h.log2N ∧ h.log2N ≤ 17) && decide (1 ≤ h.l ∧ h.l ≤ 64) && decide (h.k ≤ 16) &&
  (if h.k = 0 then decide (h.digits = 0)
   else decide (1 ≤ h.digits ∧ h.digits ≤ h.l) && decide ((h.l + h.digits - 1) / h.digits ≤ h.k))

/-- Are the reserved bits of a prime entry zero (R72)? -/
def entryReservedOk (x : Nat) : Bool :=
  decide (nbits x 39 35 = 0) && decide (nbits x 79 78 = 0) && decide (nbits x 119 115 = 0) && decide (nbits x 159 155 = 0) &&
  decide (nbits x 199 195 = 0) && decide (nbits x 255 248 = 0)

/-- The first failing check of one prime entry, 0x2 to 0x9 (R75). -/
def entryCheck (m : Tab Word32) (c e log2N : Nat) : Option Nat :=
  let x := primeEntry m c e
  let b := bitLength x.q
  let n := 2 ^ log2N
  if b < 20 ∨ 35 < b then some 0x2
  else if !isPrimeMR x.q then some 0x3
  else if x.q % (2 * n) ≠ 1 then some 0x4
  else if x.mu ≠ muOf x.q then some 0x5
  else if powMod x.q x.omega n ≠ x.q - 1 then some 0x6
  else if x.nInv * n % x.q ≠ 1 then some 0x7
  else if x.pow40 ≠ 2 ^ 40 % x.q then some 0x8
  else if x.twPtr % 64 ≠ 0 ∨ !entryReservedOk (mtEntry m c e) then some 0x9
  else none

/-- The first failing check of one slot (R75). A slot with equal primes reports the lower-numbered second of
the pair's entries that repeats an earlier one (log entry 19). -/
def slotCheck (m : Tab Word32) (c : Nat) : Option MtFail :=
  let raw := mtHeader m c
  let h := chainHdr m c
  if !hdrReservedOk raw then some (0x1, 0x7F)
  else if !h.enable then none
  else if !hdrFieldsOk h then some (0x1, 0x7F)
  else if h.t = 1 then some (0xB, 0x7F)
  else
    let es := chainEntries h
    match es.findSome? (fun e => (entryCheck m c e h.log2N).map (fun k => (k, e))) with
    | some f => some f
    | none =>
      let qs := es.map (fun e => (primeEntry m c e).q)
      match (List.range es.length).find? (fun i => (qs.take i).contains (qs.getD i 0)) with
      | some i => some (0xA, es.getD i 0)
      | none =>
        if h.t = 0 then none
        else match es.find? (fun e => h.t % (primeEntry m c e).q = 0) with
          | some e => some (0xB, e)
          | none => none

/-- The slots of a mask, ascending. -/
def slotsOf (mask : BitVec 16) : List Nat := (List.range 16).filter (fun c => mask.getLsbD c)

/-- The first failure over the masked slots: CHECK, CHAIN, ENTRY (R75). -/
def mtCheck (m : Tab Word32) (mask : BitVec 16) : Option (Nat × Nat × Nat) :=
  (slotsOf mask).findSome? (fun c => (slotCheck m c).map (fun f => (f.1, c, f.2)))

/-- The active chain of a slot of partition `p`, if one is committed (R70, R76). -/
def State.chainActive (s : State) (p c : Nat) : Bool := bit (s.reg (pr p .mtStatus)) c
def State.chain? (s : State) (p c : Nat) : Option ChainHdr :=
  if c < 16 ∧ s.chainActive p c then some (chainHdr (s.part p).mtActive c) else none
def State.prime (s : State) (p c e : Nat) : PrimeEntry := primeEntry (s.part p).mtActive c e

/-- The primes of the first `l` limbs of a chain. -/
def State.primes (s : State) (p c l : Nat) : List Nat := (List.range l).map (fun i => (s.prime p c i).q)

/-! ### MT_ADDR and MT_DATA (R73) -/

/-- The word that MT_ADDR selects, and the next selection under AUTO_INC. -/
def mtNext (a : Word32) : Word32 :=
  let e := bits a 10 4
  let w := bits a 3 0
  if !bit a 31 then a
  else if e = 0x7F then (if w = 15 then setBits (setBits a 10 4 0) 3 0 0 else setBits a 3 0 (w + 1))
  else if w ≥ 7 then setBits (setBits a 10 4 (if e ≥ 79 then 0x7F else e + 1)) 3 0 0
  else setBits a 3 0 (w + 1)

/-- MT_DATA read: the selected shadow word. -/
def State.mtDataRead (s : State) (p : Nat) : Word32 × State :=
  let a := s.reg (pr p .mtAddr)
  (mtWord (s.part p).mtShadow (bits a 15 12) (bits a 10 4) (bits a 3 0), s.setReg (pr p .mtAddr) (mtNext a))

/-- MT_DATA write. -/
def State.mtDataWrite (s : State) (p : Nat) (v : Word32) : State :=
  let a := s.reg (pr p .mtAddr)
  (s.updPart p (fun x => { x with mtShadow := Tab.set (fun _ => 0) x.mtShadow (mtKey (bits a 15 12) (bits a 10 4) (bits a 3 0)) v })).setReg
    (pr p .mtAddr) (mtNext a)

def execMtDataAccess (view : View) (p : Fin 64) (value : Option (BitVec 32)) (s : State) : Host.Outcome State Fault Refusal :=
  .next (match value with
    | some v => if s.viewOpen view p then s.mtDataWrite p v else s
    | none => if s.viewOpen view p then
        let (v, s) := s.mtDataRead p
        s.emit (.read v)
      else s.emit (.read (if s.answers then 0 else 0xFFFFFFFF)))

/-- MT_COMMIT (R74, R77): a snapshot of the masked shadow banks; discarded while one is pending. -/
def State.mtCommit (s : State) (p : Nat) (v : Word32) : State :=
  if (s.part p).mtSnap.isSome then s.malformed p
  else s.updPart p (fun x => { x with mtSnap := some (BitVec.ofNat 16 (bits v 15 0), x.mtShadow) })

def execMtCommit (view : View) (p : Fin 64) (value : BitVec 32) (s : State) : Host.Outcome State Fault Refusal :=
  .next (if s.viewOpen view p then s.mtCommit p value else s)

/-! ### The check at the quiescent point (R74 to R76) -/

/-- Is no op in flight that names a masked slot (R74)? -/
def State.mtQuiet (s : State) (p : Nat) (mask : BitVec 16) : Bool :=
  (s.inFlight p).all (fun (_, o) => o.slots.all (fun c => !mask.getLsbD c))

/-- Does a pending commit hold ops that name one of these slots (R74)? -/
def State.mtHolds (s : State) (p : Nat) (slots : List Nat) : Bool :=
  match (s.part p).mtSnap with
  | some (mask, _) => slots.any (fun c => mask.getLsbD c)
  | none => false

/-- Copy the masked slots of a snapshot into the active banks (R74). -/
def mtLoad (active snap : Tab Word32) (mask : BitVec 16) : Tab Word32 :=
  let inMask := fun (k : Nat) => decide (k / 2048 < 16) && mask.getLsbD (k / 2048)
  (snap.filter (fun e => inMask e.1)).foldl (fun m e => Tab.set (fun _ => 0) m e.1 e.2)
    (active.filter (fun e => !inMask e.1))

/-- ACTIVE bits after a load: a slot is active when its header has ENABLE (R76). -/
def activeBits (old : Word32) (snap : Tab Word32) (mask : BitVec 16) : Word32 :=
  (slotsOf mask).foldl (fun v c => setBits v c c (if (chainHdr snap c).enable then 1 else 0)) old

/-- A passing commit (R74). -/
def State.mtApply (s : State) (p : Nat) (mask : BitVec 16) (snap : Tab Word32) : State :=
  let s := s.updPart p (fun x => { x with mtActive := mtLoad x.mtActive snap mask, mtSnap := none })
  (s.updReg (pr p .mtStatus) (fun v => activeBits v snap mask)).setField (pr p .mtFault) 31 16 0

/-- A refused commit (R76). -/
def State.mtRefuse (s : State) (p : Nat) (f : Nat × Nat × Nat) : State :=
  let s := s.updPart p (fun x => { x with mtSnap := none })
  let s := s.setField (pr p .mtFault) 31 16 0x60
  let s := if bit (s.reg (pr p .mtStatus)) 16 then s
    else ((s.setField (pr p .mtFault) 15 12 f.1).setField (pr p .mtFault) 11 8 f.2.1).setField (pr p .mtFault) 6 0 f.2.2
  (s.setField (pr p .mtStatus) 16 16 1).stick p .tableCommitRefused

/-- MT_COMMIT_CHECK (R75). The derived constants of R136 and R170 are functions of the active bank. -/
def State.mtCommitCheck (s : State) (p : Nat) : State :=
  match (s.part p).mtSnap with
  | none => s
  | some (mask, snap) =>
    if s.mtQuiet p mask then
      match mtCheck snap mask with
      | none => s.mtApply p mask snap
      | some f => s.mtRefuse p f
    else s

def execMtCommitCheck (p : Fin 64) (s : State) : Host.Outcome State Fault Refusal := .next (s.mtCommitCheck p)

end Sys2Proof.Machine
end

