-- ==== Sys2Proof/Machine/Commits.lean ====
section
/-! DEFINITION. Cast-on commits (R78): the handle table, key directory and bundle table (R449), ring pairs (R252), queue tables (R189) and bandwidth splits (R205). -/
namespace Sys2Proof.Machine

/-- The partition that holds a tile, if one does (R308). -/
def State.holder (s : State) (t : Nat) : Option Nat :=
  (s.parts.find? (fun (_, x) => decide (x.state ≠ .free) && x.quads.contains (quadOf t))).map (·.1)

/-- Put the values of a commit into the active copies. -/
def State.putActive (s : State) (vs : List (Nat × Word32)) : State :=
  { s with active := vs.foldl (fun m v => Tab.set regInit m v.1 v.2) s.active }

/-- A value of a commit's snapshot. -/
def snapVal (vs : List (Nat × Word32)) (r : Reg) : Word32 := ((vs.find? (fun v => v.1 = r.addr)).map (·.2)).getD r.init

/-- Set the TABLE_COMMIT_REFUSED sticky bit of the partition concerned, if there is one. -/
def State.stickOpt (s : State) (p : Option Nat) (st : Status) : State :=
  match p with
  | some p => s.stick p st
  | none => s

/-! ### CTL_COMMIT (R449) -/

def handleGroup (p : Nat) : List Reg := [pr p .ctHandleBaseLo, pr p .ctHandleBaseHi, pr p .ctHandleCount]
def keyDirGroup (p : Nat) : List Reg := [pr p .keyDirBaseLo, pr p .keyDirBaseHi, pr p .keyDirCount]
def bundleGroup (p : Nat) : List Reg := [pr p .rbBaseLo, pr p .rbBaseHi, pr p .rbCount]

/-- Start one of the three commits; discarded with DESC_MALFORMED while the group is pending. -/
def State.ctlStart (s : State) (p : Nat) (g : Group) (rs : List Reg) : State :=
  if s.commitPending g then s.malformed p else s.startCommit g rs

/-- A write of CTL_COMMIT: each bit starts its group's commit. -/
def State.ctlCommit (s : State) (p : Nat) (v : Word32) : State :=
  let s := if bit v 0 then s.ctlStart p (.handle (pIdx p)) (handleGroup p) else s
  let s := if bit v 1 then s.ctlStart p (.keyDir (pIdx p)) (keyDirGroup p) else s
  if bit v 2 then s.ctlStart p (.bundle (pIdx p)) (bundleGroup p) else s

def execCtlCommitHandle (view : View) (p : Fin 64) (s : State) : Host.Outcome State Fault Refusal :=
  .next (if s.viewOpen view p then s.ctlStart p (.handle p) (handleGroup p) else s)
def execCtlCommitKeyDir (view : View) (p : Fin 64) (s : State) : Host.Outcome State Fault Refusal :=
  .next (if s.viewOpen view p then s.ctlStart p (.keyDir p) (keyDirGroup p) else s)
def execCtlCommitBundle (view : View) (p : Fin 64) (s : State) : Host.Outcome State Fault Refusal :=
  .next (if s.viewOpen view p then s.ctlStart p (.bundle p) (bundleGroup p) else s)

/-- The agreement rule of the three tables (R449): the end does not exceed 2^48. -/
def tableFits (lo hi count : Word32) (size : Nat) : Bool :=
  decide (lo.toNat + hi.toNat * 2 ^ 32 + count.toNat * size ≤ 2 ^ 48)

/-- Apply or refuse a table's commit at the partition's quiescent point; `k` is its bit in CTL_STATUS. -/
def State.ctlApply (s : State) (p : Nat) (c : Commit) (rs : List Reg) (size k : Nat) : State :=
  if (s.inFlight p).isEmpty then
    let s := s.dropCommit c.group
    match rs with
    | [lo, hi, cnt] =>
      if tableFits (snapVal c.values lo) (snapVal c.values hi) (snapVal c.values cnt) size then
        let s := s.putActive c.values
        if k = 1 then s.updPart p (fun x => { x with reservoirsBlocked := false }) else s
      else (s.setField (pr p .ctlStatus) (16 + k) (16 + k) 1).stick p .tableCommitRefused
    | _ => s
  else s

/-- Does a pending table commit hold the ops of the partition that become ready (R39, R449)? -/
def State.ctlHolds (s : State) (p : Nat) : Bool :=
  s.commitPending (.handle (pIdx p)) || s.commitPending (.keyDir (pIdx p)) || s.commitPending (.bundle (pIdx p))

/-! ### Ring pairs (R252) -/

/-- The agreement rule of a ring pair. -/
def ringAgrees (sqLo sqHi cqLo cqHi cfg : Word32) : Bool :=
  let sq := sqLo.toNat + sqHi.toNat * 2 ^ 32
  let cq := cqLo.toNat + cqHi.toNat * 2 ^ 32
  let sk := bits cfg 4 0
  let ck := bits cfg 12 8
  (bit cfg 16 || decide (sq < 2 ^ 48)) && (bit cfg 17 || decide (cq < 2 ^ 48)) &&
  decide (4 ≤ sk ∧ sk ≤ 16) && decide (4 ≤ ck ∧ ck ≤ 16) &&
  (decide (bit cfg 16 ≠ bit cfg 17) || decide (sq + 64 * 2 ^ sk ≤ cq) || decide (cq + 64 * 2 ^ ck ≤ sq))

/-- Apply or refuse a ring pair's commit once ACTIVE is 0. -/
def State.ringApply (s : State) (p n : Nat) (c : Commit) : State :=
  if (s.ring p n).active then s
  else
    let s := s.dropCommit c.group
    let v := fun r => snapVal c.values (pr p r)
    if ringAgrees (v (.ringSqBaseLo (nIdx n))) (v (.ringSqBaseHi (nIdx n))) (v (.ringCqBaseLo (nIdx n))) (v (.ringCqBaseHi (nIdx n))) (v (.ringCfg (nIdx n))) then
      (s.putActive c.values).updRing p n (fun r => { r with
        active := true, tail := 0, head := 0, sqHead := 0, cqTail := 0, phase := true,
        fetchStopped := false, deliveryStopped := false })
    else
      ((s.setField (pr p (.ringCtrl (nIdx n))) 0 0 0).setField (pr p (.ringStatus (nIdx n))) 0 0 1).stick p .tableCommitRefused

/-! ### Queue tables (R188, R189) -/

/-- The settings of a queue, from its two words. -/
structure QCfg where
  enable : Bool
  slotLine : Nat
  slotLines : Nat
  slots : Nat
  ty : Nat
  prod : Nat
  cons : Nat
deriving DecidableEq, Repr

def qcfg (lo hi : Word32) : QCfg :=
  { enable := bit hi 31, slotLine := bits lo 15 0, slotLines := bits lo 31 16, slots := bits hi 3 0 + 1, ty := bits hi 7 4,
    prod := bits hi 10 8, cons := bits hi 14 12 }

def QCfg.direct (q : QCfg) : Bool := decide (q.slotLines = 0)
def QCfg.endLine (q : QCfg) : Nat := q.slotLine + q.slots * q.slotLines

/-- A direct queue's stream pair (R188): it feeds neither the NTT engine nor an end of the FEED stream. -/
def QCfg.directPair (q : QCfg) : Bool := decide (q.prod ≠ 0) && decide (q.cons ≠ 0) && decide (q.cons ≠ 1)

/-- R189 for one enabled queue by itself. -/
def QCfg.ok (q : QCfg) : Bool :=
  decide (q.prod ≤ 5) && decide (q.cons ≤ 5) &&
  (if q.direct then decide (q.slotLine = 0) && decide (q.slots = 1) && q.directPair
   else decide (q.endLine ≤ 65536) && (decide (q.ty ≠ 0) || decide (q.slotLines % 9 = 0)))

/-- Do the slots of two slotted queues share a line? -/
def QCfg.meets (a b : QCfg) : Bool :=
  !a.direct && !b.direct && decide (a.slotLine < b.endLine) && decide (b.slotLine < a.endLine)

/-- The first failing queue of a table (R189). -/
def qtabCheck (qs : List QCfg) : Option Nat :=
  (List.range qs.length).find? (fun i =>
    match qs[i]? with
    | some q => q.enable && !(q.ok && (List.range qs.length).all (fun j =>
        match qs[j]? with
        | some r => decide (i = j) || !r.enable || !q.meets r
        | none => true))
    | none => false)

/-- The queue registers of a tile. -/
def qtabRegs (t : Nat) : List Reg :=
  (List.finRange 48).flatMap (fun n => [Reg.tile (tIdx t) (.qcfgLo n), Reg.tile (tIdx t) (.qcfgHi n)])

/-- The table that a list of values holds. -/
def qtabOf (vs : List (Nat × Word32)) (t : Nat) : List QCfg :=
  (List.finRange 48).map (fun n => qcfg (snapVal vs (.tile (tIdx t) (.qcfgLo n))) (snapVal vs (.tile (tIdx t) (.qcfgHi n))))

/-- The committed settings of a queue of a tile. -/
def State.qcfgAct (s : State) (t q : Nat) : QCfg :=
  if h : q < 48 then qcfg (s.act (.tile (tIdx t) (.qcfgLo ⟨q, h⟩))) (s.act (.tile (tIdx t) (.qcfgHi ⟨q, h⟩))) else qcfg 0 0

/-- A write of 1 to QTAB_COMMIT.GO; discarded while one is pending (R77, R78; log entry 21). -/
def State.qtabCommit (s : State) (t : Nat) : State :=
  if s.commitPending (.qtab (tIdx t)) then s.stickOpt (s.holder t) .descMalformed
  else s.startCommit (.qtab (tIdx t)) (qtabRegs t)

/-- Do a site's tile windows answer (R445)? -/
def State.tileOpen (s : State) (t : Nat) : Bool :=
  s.answers && (decide ((s.site (siteOf t)).state = .active) || decide ((s.site (siteOf t)).state = .retiring))

def execQtabCommit (t : Fin 576) (s : State) : Host.Outcome State Fault Refusal :=
  .next (if s.tileOpen t then s.qtabCommit t else s)

/-- Apply or refuse a queue table when no stream of the tile runs (R189). -/
def State.qtabApply (s : State) (t : Nat) (c : Commit) : State :=
  if (s.tile t).anyRunning then s
  else
    let s := s.dropCommit c.group
    match qtabCheck (qtabOf c.values t) with
    | none => (s.putActive c.values).updTile t (fun x => { x with queues := [] })
    | some q =>
      let st := s.reg (.tile (tIdx t) .qtabStatus)
      let s := if bit st 16 then s else s.setField (.tile (tIdx t) .qtabStatus) 5 0 q
      (s.setField (.tile (tIdx t) .qtabStatus) 16 16 1).stickOpt (s.holder t) .tableCommitRefused

/-! ### Bandwidth splits (R205) -/

def State.bwCommit (s : State) (d : Nat) : State :=
  if s.commitPending (.bw (dIdx d)) then s else s.startCommit (.bw (dIdx d)) [.die (dIdx d) .bwSplit]

/-- Do a site's die-level registers take writes (R445)? -/
def State.dieOpen (s : State) (d : Nat) : Bool :=
  s.answers && (decide ((s.site d).state = .active) || decide ((s.site d).state = .retiring))

def execBwCommit (d : Fin 18) (s : State) : Host.Outcome State Fault Refusal :=
  .next (if s.dieOpen d then s.bwCommit d else s)

/-- READ + WRITE + REMOTE = 16. -/
def bwAgrees (v : Word32) : Bool := decide (bits v 4 0 + bits v 12 8 + bits v 20 16 = 16)

/-- At the next frame boundary of the die's quad ports. -/
def State.bwApply (s : State) (d : Nat) (c : Commit) : State :=
  let s := s.dropCommit c.group
  if bwAgrees (snapVal c.values (.die (dIdx d) .bwSplit)) then s.putActive c.values
  else s.setField (.die (dIdx d) .bwStatus) 16 16 1

end Sys2Proof.Machine
end

