-- ==== Sys2Proof/Machine/Transform.lean ====
section
/-! DEFINITION. What the NTT engine and the cable unit compute: the negacyclic transform (R79, R80), automorphisms (R90 to R92), the transpose (R93), and the complex FFT mode (R101 to R103). -/
namespace Sys2Proof.Machine

/-- The n-bit bit reversal. -/
def brv : Nat → Nat → Nat
  | 0, _ => 0
  | n + 1, j => j % 2 * 2 ^ n + brv n (j / 2)

/-- e_j = 2 brv_n(j) + 1 (R79). -/
def evalExp (n j : Nat) : Nat := 2 * brv n j + 1

/-- Element `k` of a limb. -/
def el (l : List Nat) (k : Nat) : Nat := l.getD k 0

/-- The sum of a list modulo `q`. -/
def sumMod (q : Nat) (l : List Nat) : Nat := l.foldl (fun acc x => (acc + x) % q) 0

/-- The forward transform (R79): element j is the value at ψ^(e_j). -/
def nttForward (q psi n : Nat) (a : List Nat) : List Nat :=
  (List.range (2 ^ n)).map (fun j =>
    sumMod q ((List.range (2 ^ n)).map (fun k => el a k * powMod q psi (k * evalExp n j % (2 * 2 ^ n)) % q)))

/-- The inverse transform (R80). -/
def nttInverse (q psi nInv n : Nat) (a : List Nat) : List Nat :=
  (List.range (2 ^ n)).map (fun k =>
    nInv * sumMod q ((List.range (2 ^ n)).map (fun j =>
      el a j * powMod q psi ((2 * 2 ^ n - k * evalExp n j % (2 * 2 ^ n)) % (2 * 2 ^ n)) % q)) % q)

/-- The residue checks of a transform's products (R68). -/
def nttChecks (q qm psi nInv n : Nat) (fwd : Bool) (a : List Nat) : Bool :=
  let m := 2 * 2 ^ n
  let all := List.range (2 ^ n)
  if fwd then all.all (fun j => all.all (fun k => mulChecked q qm (el a k) (powMod q psi (k * evalExp n j % m))))
  else all.all (fun k =>
    let w := fun (j : Nat) => powMod q psi ((m - k * evalExp n j % m) % m)
    all.all (fun j => mulChecked q qm (el a j) (w j)) && mulChecked q qm nInv (sumMod q (all.map (fun j => el a j * w j % q))))

/-- The automorphism in evaluation form, a pure gather (R90). -/
def autoEval (n g : Nat) (a : List Nat) : List Nat :=
  (List.range (2 ^ n)).map (fun j => el a (brv n ((g * evalExp n j % (2 * 2 ^ n) - 1) / 2)))

/-- The inverse of an odd number modulo 2N. -/
def oddInv (m g : Nat) : Nat := powMod m g (m / 4 - 1)

/-- The automorphism in coefficient form, a signed gather (R91). -/
def autoCoef (q n g : Nat) (a : List Nat) : List Nat :=
  let h := oddInv (2 * 2 ^ n) g
  (List.range (2 ^ n)).map (fun m =>
    let k1 := m * h % (2 * 2 ^ n)
    if k1 < 2 ^ n then el a k1 else negMod q (el a (k1 - 2 ^ n)))

/-- The Galois element of a rotation by `r` and of conjugation (R92). -/
def rotGalois (ckks : Bool) (n : Nat) (r : Int) : Nat :=
  powMod (2 * 2 ^ n) (if ckks then 5 else 3) ((r % (2 ^ (n - 1) : Nat)).toNat)
def conjGalois (n : Nat) : Nat := 2 * 2 ^ n - 1

/-- The transpose of an R × C matrix stored by rows (R93). -/
def transposeList (r c : Nat) (a : List Nat) : List Nat :=
  (List.range (r * c)).map (fun i => el a (i % r * c + i / r))

/-! ### Fixed-point rounding and saturation -/

/-- v / 2^s rounded to the nearest integer, ties to even (R102, R112). -/
def rnd (v : Int) (s : Nat) : Int :=
  let d : Int := (2 ^ s : Nat)
  let f := v / d
  let r := v % d
  if 2 * r < d then f else if d < 2 * r then f + 1 else if f % 2 = 0 then f else f + 1

/-- Clamp to a range, and whether it clamped. -/
def clampTo (lo hi v : Int) : Int × Bool := if v < lo then (lo, true) else if hi < v then (hi, true) else (v, false)

/-- The signed range of `w` bits. -/
def satW (w : Nat) (v : Int) : Int × Bool := clampTo (-(2 ^ (w - 1) : Nat)) ((2 ^ (w - 1) : Nat) - 1) v

/-! ### The twiddles of the FFT mode (R101) -/

/-- ⌊π · 2^160⌋. -/
def piFix : Nat := 0x3243F6A8885A308D313198A2E03707344A4093822

/-- Terms of the cosine series at an angle of 160 fractional bits: `x2` is the square of the angle. -/
def cosTerms (x2 : Int) : Nat → Nat → Int → Int
  | 0, _, _ => 0
  | fuel + 1, k, t => t + cosTerms x2 fuel (k + 1) (-(t * x2 / (2 ^ 160 : Nat)) / ((2 * k + 1) * (2 * k + 2) : Nat))

/-- round(2^30 cos(π/2 · i/d)) for 0 ≤ i ≤ d: the fixed quarter-wave table. -/
def quarterCos (i d : Nat) : Int :=
  let th : Int := (piFix * i / (2 * d) : Nat)
  rnd (cosTerms (th * th / (2 ^ 160 : Nat)) 40 0 (2 ^ 160 : Nat)) 130

/-- The twiddle W[idx] = (C, S) for M = 2N (R101). -/
def twiddle (m idx : Nat) : Int × Int :=
  let d := m / 4
  let r := idx % d
  match idx / d % 4 with
  | 0 => (quarterCos r d, quarterCos (d - r) d)
  | 1 => (-quarterCos (d - r) d, quarterCos r d)
  | 2 => (-quarterCos r d, -quarterCos (d - r) d)
  | _ => (quarterCos (d - r) d, -quarterCos r d)

/-! ### The complex FFT mode (R102) -/

def sat36 (v : Int) : Int × Bool := satW 36 v

/-- A complex value of Q5.30 parts. -/
abbrev Cplx := Int × Int

def cel (z : List Cplx) (i : Nat) : Cplx := z.getD i (0, 0)

/-- Element `p` after the layer of block length `len`. -/
def fftPoint (m len : Nat) (z : List Cplx) (p : Nat) : Cplx × Bool :=
  let lenh := len / 2
  let lenq := 4 * len
  let off := p % len
  if off < lenh then
    let a := cel z p
    let b := cel z (p + lenh)
    let (x, s1) := sat36 (rnd (a.1 + b.1) 1)
    let (y, s2) := sat36 (rnd (a.2 + b.2) 1)
    ((x, y), s1 || s2)
  else
    let a := cel z (p - lenh)
    let b := cel z p
    let w := twiddle m ((lenq - powMod lenq 5 (off - lenh)) * (m / lenq))
    let dr := a.1 - b.1
    let di := a.2 - b.2
    let (x, s1) := sat36 (rnd (dr * w.1 - di * w.2) 31)
    let (y, s2) := sat36 (rnd (dr * w.2 + di * w.1) 31)
    ((x, y), s1 || s2)

/-- The layers from length 2^k down to 2. -/
def fftLayers (m h : Nat) : Nat → List Cplx → Bool → List Cplx × Bool
  | 0, z, s => (z, s)
  | k + 1, z, s =>
    let r := (List.range h).map (fftPoint m (2 ^ (k + 1)) z)
    fftLayers m h k (r.map (·.1)) (s || r.any (·.2))

/-- The N values m_k of R102, and whether any value was clamped. -/
def fftMode (n : Nat) (z : List Cplx) : List Int × Bool :=
  let h := 2 ^ (n - 1)
  let (z, s) := fftLayers (2 * 2 ^ n) h (n - 1) z false
  let z := (List.range h).map (fun i => cel z (brv (n - 1) i))
  (z.map (·.1) ++ z.map (·.2), s)

/-- The conversion of R103. -/
def fftConvert (e : Nat) (m : Int) : Int × Bool :=
  clampTo (-((2 ^ 35 : Nat) - 1)) ((2 ^ 35 : Nat) - 1) (if e ≤ 30 then rnd m (30 - e) else m * (2 ^ (e - 30) : Nat))

/-- The integers v_k that ENCODE and FFTE write, and the SATURATED flag. -/
def fftIntegers (n e : Nat) (z : List Cplx) : List Int × Bool :=
  let (m, s) := fftMode n z
  let r := m.map (fftConvert e)
  (r.map (·.1), s || r.any (·.2))

/-- A 36-bit part from its L64 word. -/
def cplxPart (x : Nat) : Int := signed 36 x

/-- Is a word of a complex input sign-extended in bits [63:36] (R101)? -/
def cplxWordOk (x : Nat) : Bool := decide (nbits x 63 36 = (if nbits x 35 35 = 1 then 2 ^ 28 - 1 else 0))

end Sys2Proof.Machine
end

