-- ==== Sys2Proof/Machine/Tensor.lean ====
section
/-! DEFINITION. Tensor descriptors (R234 to R249): layout, element addresses, windows with clamping, the checks, footprints, and reads and writes through translation. -/
namespace Sys2Proof.Machine

/-- Pack values of `w` bits, the first lowest. -/
def packBits (w : Nat) : List Nat → Nat
  | [] => 0
  | x :: rest => x % 2 ^ w + 2 ^ w * packBits w rest

/-- Unpack `n` values of `w` bits. -/
def unpackBits (w : Nat) : Nat → Nat → List Nat
  | 0, _ => []
  | n + 1, x => x % 2 ^ w :: unpackBits w n (x / 2 ^ w)

/-- One dimension of a descriptor (R236). -/
structure TDim where
  ext : Nat := 1
  stride : Nat := 0
  org : Nat := 0
  own : Nat := 1
  lo : Nat := 0
  hi : Nat := 0
deriving DecidableEq, Repr

/-- A tensor descriptor (R235). -/
structure TDesc where
  raw : Nat
  base : Nat
  ty : Nat
  dims : Nat
  entry : Nat
  chain : Nat
  combine : Nat
  limb1 : Bool
  perm : List Nat
  orgRc : List Nat
  dim : List TDim
deriving DecidableEq, Repr

/-- Parse the 1,024 bits of two descriptor entries. A dimension not in use acts as one of extent 1. -/
def tdesc (x : Nat) : TDesc :=
  let dims := nbits x 54 52
  { raw := x, base := nbits x 47 0, ty := nbits x 51 48, dims := dims, entry := nbits x 62 56, chain := nbits x 67 64,
    combine := nbits x 70 68, limb1 := decide (nbits x 71 71 = 1),
    perm := (List.range 5).map (fun d => nbits x (3 * d + 74) (3 * d + 72)),
    orgRc := (List.range 5).map (fun d => nbits x (4 * d + 91) (4 * d + 88)),
    dim := (List.range 5).map (fun d =>
      if d < dims then
        let b := x / 2 ^ (128 * d + 128)
        { ext := nbits b 23 0, stride := nbits b 63 24, org := nbits b 87 64, own := nbits b 111 88, lo := nbits b 119 112, hi := nbits b 127 120 }
      else {}) }

def TDesc.d (t : TDesc) (i : Nat) : TDim := t.dim.getD i {}

/-- Residue types, integer types. -/
def TDesc.residue (t : TDesc) : Bool := decide (t.ty ≤ 1)
def TDesc.integer (t : TDesc) : Bool := decide (2 ≤ t.ty ∧ t.ty ≤ 7) && decide (t.ty ≠ 5)

/-- The storage unit of a type along dimension 0: its bits and the elements it holds (INT4: a block of 32). -/
def unitBits (ty : Nat) : Nat :=
  match ty with
  | 0 => 36
  | 1 => 64
  | 2 => 8
  | 3 => 16
  | 4 => 32
  | 5 => 32
  | 6 => 144
  | _ => 64
def unitEls (ty : Nat) : Nat := if ty = 6 then 32 else 1

/-- The access width (R237). -/
def accessWidth (ty : Nat) : Nat :=
  match ty with
  | 0 => 576
  | 1 => 8
  | 2 => 1
  | 3 => 2
  | 4 => 4
  | 5 => 4
  | 6 => 18
  | _ => 8

/-- Bytes of `n` elements along dimension 0. -/
def rowBytes (ty n : Nat) : Nat := unitBits ty * (n / unitEls ty) / 8

/-- Row size of a tensor (R238). -/
def TDesc.rowSize (t : TDesc) : Nat := rowBytes t.ty (t.d 0).ext

/-! ### Field checks (R235, R236, R240) -/

/-- The rules on the fields of a descriptor by itself. `walked`: a feeder walks it, so `ORG_RC` may stand.
`permuted`: it is the destination of a TRANSPOSE_COPY, so `PERM` may stand. -/
def TDesc.fieldsOk (t : TDesc) (walked permuted : Bool) : Bool :=
  decide (nbits t.raw 55 55 = 0) && decide (nbits t.raw 63 63 = 0) && decide (nbits t.raw 87 87 = 0) && decide (nbits t.raw 127 108 = 0) &&
  decide (nbits t.raw 1023 768 = 0) && decide (t.ty ≤ 7) && decide (1 ≤ t.dims ∧ t.dims ≤ 5) && decide (t.combine ≤ 5) &&
  (t.residue || (decide (t.entry = 0) && decide (t.chain = 0) && !t.limb1)) && decide (t.entry ≤ 79) &&
  (if permuted then decide (t.perm.Nodup) && t.perm.all (fun i => decide (i < 5)) else decide (t.perm = [0, 1, 2, 3, 4])) &&
  (walked || t.orgRc.all (fun r => decide (r = 0))) &&
  (List.range 5).all (fun d =>
    let b := t.d d
    if d < t.dims then
      decide (nbits (t.raw / 2 ^ (128 * d + 128)) 111 88 ≤ b.ext) && decide (1 ≤ b.ext) && decide (1 ≤ b.own) && decide (b.org + b.own ≤ b.ext)
    else decide (nbits (t.raw / 2 ^ (128 * d + 128)) 127 0 = 0)) &&
  decide ((t.d 0).stride = 0) &&
  (decide (t.ty ≠ 0) || (decide ((t.d 0).ext % 128 = 0 ∧ (t.d 0).org % 128 = 0 ∧ (t.d 0).own % 128 = 0) && decide ((t.d 0).lo = 0 ∧ (t.d 0).hi = 0))) &&
  (decide (t.ty ≠ 6) || (decide ((t.d 0).ext % 32 = 0 ∧ (t.d 0).org % 32 = 0 ∧ (t.d 0).own % 32 = 0) && decide ((t.d 0).lo = 0 ∧ (t.d 0).hi = 0))) &&
  (match t.combine with
   | 0 => true
   | 1 => decide (t.ty = 1)
   | 3 => decide (t.ty = 7)
   | _ => decide (t.ty = 4)) &&
  (decide (t.combine = 0) || (List.range 5).all (fun d => decide ((t.d d).lo = 0 ∧ (t.d d).hi = 0)))

/-- The rule on the chain of a residue descriptor (R240). -/
def State.tdescChainOk (s : State) (p : Nat) (t : TDesc) : Bool :=
  if t.residue then
    match s.chain? p t.chain with
    | some h => (List.range (if t.limb1 then (t.d 1).ext else 1)).all (fun i => h.has (t.entry + i))
    | none => false
  else true

/-- `BASE` and strides (R240). -/
def TDesc.alignOk (t : TDesc) : Bool :=
  decide (t.base % 64 = 0) && (List.range 5).all (fun d => decide (d = 0) || decide ((t.d d).stride % accessWidth t.ty = 0))

/-- A destination must not alias itself (R240). -/
def TDesc.aliasOk (t : TDesc) : Bool :=
  (List.range 5).all (fun d =>
    if d = 0 ∨ t.dims ≤ d then true
    else if d = 1 then decide (t.rowSize ≤ (t.d 1).stride)
    else decide ((t.d (d - 1)).stride * (t.d (d - 1)).ext ≤ (t.d d).stride))

/-! ### Windows -/

/-- The origin of the owned region in dimension `d`, with the row counters of the stream (R239). -/
def TDesc.origin (t : TDesc) (rows : List Nat) (d : Nat) : Nat :=
  let rc := t.orgRc.getD d 0
  (t.d d).org + (if 8 ≤ rc then rows.getD (rc % 8) 0 else 0) * (t.d d).own

/-- The owned range in dimension `d`, and the read window with halos, as integers [lo, hi). -/
def TDesc.ownRange (t : TDesc) (rows : List Nat) (d : Nat) : Int × Int :=
  let o : Int := t.origin rows d
  (o, o + (t.d d).own)
def TDesc.readRange (t : TDesc) (rows : List Nat) (d : Nat) : Int × Int :=
  let o : Int := t.origin rows d
  (o - (t.d d).lo, o + (t.d d).own + (t.d d).hi)

/-- The indices of a range, one by one. -/
def indices (r : Int × Int) : List Int := (List.range (r.2 - r.1).toNat).map (fun (i : Nat) => r.1 + (i : Int))

/-- Clamp an index to the extent (R241). -/
def TDesc.clamp (t : TDesc) (d : Nat) (i : Int) : Nat := (max 0 (min i ((t.d d).ext - 1 : Nat))).toNat

/-- The tuples of outer indices (dimensions 1 to 4), dimension 1 fastest. -/
def TDesc.outer (t : TDesc) (rng : TDesc → Nat → Int × Int) : List (List Int) :=
  (indices (rng t 4)).flatMap (fun i4 => (indices (rng t 3)).flatMap (fun i3 => (indices (rng t 2)).flatMap (fun i2 =>
    (indices (rng t 1)).map (fun i1 => [i1, i2, i3, i4]))))

/-- The byte offset of the row with these outer indices, after clamping, from `BASE` (R238). -/
def TDesc.rowOff (t : TDesc) (o : List Int) : Nat :=
  ((List.range 4).map (fun k => t.clamp (k + 1) (o.getD k 0) * (t.d (k + 1)).stride)).sum

/-- The units of the read window along dimension 0: positions in units after clamping. -/
def TDesc.rowUnits (t : TDesc) (rows : List Nat) (owned : Bool) : List Nat :=
  let r := if owned then t.ownRange rows 0 else t.readRange rows 0
  if t.ty = 6 then (List.range ((r.2 - r.1).toNat / 32)).map (fun k => min (r.1.toNat / 32 + k) ((t.d 0).ext / 32 - 1))
  else (indices r).map (t.clamp 0)

/-- Does the window stay inside the extent? -/
def TDesc.inside (t : TDesc) (rows : List Nat) (owned : Bool) : Bool :=
  (List.range 5).all (fun d =>
    let r := if owned then t.ownRange rows d else t.readRange rows d
    decide (0 ≤ r.1 ∧ r.2 ≤ (t.d d).ext))

/-- The footprint of a window after clamping: [lo, hi) in bytes (R245). -/
def TDesc.footprint (t : TDesc) (rows : List Nat) (owned : Bool) : Nat × Nat :=
  let r := fun d => if owned then t.ownRange rows d else t.readRange rows d
  let lo := (List.range 4).map (fun k => t.clamp (k + 1) (r (k + 1)).1 * (t.d (k + 1)).stride)
  let hi := (List.range 4).map (fun k => t.clamp (k + 1) ((r (k + 1)).2 - 1) * (t.d (k + 1)).stride)
  (t.base + lo.sum + rowBytes t.ty (t.clamp 0 (r 0).1),
   t.base + hi.sum + rowBytes t.ty (t.clamp 0 ((r 0).2 - 1) + 1))

/-- The byte interval of the whole extent. -/
def TDesc.extentBytes (t : TDesc) : Nat × Nat :=
  (t.base, t.base + ((List.range 4).map (fun k => ((t.d (k + 1)).ext - 1) * (t.d (k + 1)).stride)).sum + t.rowSize)

/-- Do two intervals overlap? -/
def meets (a b : Nat × Nat) : Bool := decide (max a.1 b.1 < min a.2 b.2)

/-- Lines that the packed window of R239 takes in a slot. -/
def TDesc.packedLines (t : TDesc) (owned : Bool) : Nat :=
  let outer := ((List.range 4).map (fun k =>
    let d := t.d (k + 1)
    if owned then d.own else d.lo + d.own + d.hi)).foldl (· * ·) 1
  let d0 := t.d 0
  outer * ((rowBytes t.ty (if owned then d0.own else d0.lo + d0.own + d0.hi) + 63) / 64)

/-- Step 4 of R249 for a footprint: within 2^48 bytes, or a stash slice; the owned region within the extent, which only a row counter can carry past it, and the load window of
a residue or FP32 tensor as well. The windows of integers are clamped (R241). -/
def TDesc.boundsOk (t : TDesc) (rows : List Nat) (owned stash : Bool) : Bool :=
  let f := t.footprint rows owned
  (if stash then decide (f.2 ≤ 196608 * 64) else decide (f.2 ≤ 2 ^ 48)) &&
  t.inside rows true && (owned || t.integer || t.inside rows false)

/-! ### Reads and writes -/

/-- Read the units of one row from a byte source. -/
def rowFrom (rd : Nat → Nat → Except MemErr (List Byte)) (t : TDesc) (a : Nat) (us : List Nat) : Except MemErr (List Nat) :=
  match us.head?, us.getLast? with
  | some _, some _ =>
    let lo := us.foldl min (us.headD 0)
    let hi := us.foldl max 0
    let b := unitBits t.ty
    let first := b * lo / 8
    match rd (a + first) ((b * (hi + 1) + 7) / 8 - first) with
    | .error e => .error e
    | .ok bs => .ok (us.map (fun u => leNat bs / 2 ^ (b * u - 8 * first) % 2 ^ b))
  | _, _ => .ok []

/-- The units of a window in element order, dimension 0 fastest, as a list of rows. -/
def TDesc.readRows (rd : Nat → Nat → Except MemErr (List Byte)) (t : TDesc) (rows : List Nat) (owned : Bool) : Except MemErr (List (List Nat)) :=
  (t.outer (fun t d => if owned then t.ownRange rows d else t.readRange rows d)).foldl (fun acc o =>
    match acc with
    | .error e => .error e
    | .ok rs => match rowFrom rd t (t.base + t.rowOff o) (t.rowUnits rows owned) with
      | .error e => .error e
      | .ok r => .ok (rs ++ [r])) (.ok [])

/-- The owned region of a destination as runs: byte address and unit values of each. -/
def TDesc.ownRuns (t : TDesc) (rows : List Nat) (vals : List (List Nat)) : List (Nat × List Byte) :=
  ((t.outer (fun t d => t.ownRange rows d)).zip vals).map (fun (o, r) =>
    (t.base + t.rowOff o + rowBytes t.ty (t.origin rows 0),
     leBytes (unitBits t.ty * r.length / 8) (packBits (unitBits t.ty) r)))

/-- Write runs through a partition's translation, in order; the first fault stops. -/
def State.writeRuns (s : State) (p : Nat) (runs : List (Nat × List Byte)) (unit : Option Nat := none) : Except XFault State :=
  runs.foldl (fun acc (a, bs) =>
    match acc with
    | .error f => .error f
    | .ok s => s.writeVA p a bs .write unit) (.ok s)

/-- The prime entry of an element whose outer index in dimension 1 is `i1` (R235). -/
def TDesc.entryAt (t : TDesc) (i1 : Nat) : Nat := t.entry + (if t.limb1 then i1 else 0)

/-- Are the residues of a window valid under R37 and R243? `rows` in element order. -/
def State.residuesOk (s : State) (p : Nat) (t : TDesc) (rcs : List Nat) (owned : Bool) (vals : List (List Nat)) : Bool :=
  !t.residue ||
  ((t.outer (fun t d => if owned then t.ownRange rcs d else t.readRange rcs d)).zip vals).all (fun (o, r) =>
    let q := (s.prime p t.chain (t.entryAt (o.getD 0 0).toNat)).q
    r.all (fun x => decide (x < q)))

/-! ### Checks of one descriptor (R249) -/

/-- How an op names a descriptor. `apart` stands at a destination: does it keep R245 against the op's sources and other destinations? -/
structure TUse where
  dest : Bool := false
  permuted : Bool := false
  apart : Bool := true
  suits : TDesc → Bool := fun _ => true

/-- Steps 2 to 5 of R249 on one descriptor named by an op entry (no row counters). -/
def State.tdescStatus (s : State) (p : Nat) (t : TDesc) (u : TUse) : Status :=
  if !(t.fieldsOk false u.permuted && s.tdescChainOk p t && u.suits t) then .descMalformed
  else if !t.alignOk then .align
  else if !t.boundsOk [] u.dest false then .bounds
  else if u.dest && !(t.aliasOk && u.apart) then .overlap
  else .done

/-- A descriptor with its windows where row counters put them (R239). -/
def TDesc.placed (t : TDesc) (rows : List Nat) : TDesc :=
  { t with orgRc := [0, 0, 0, 0, 0], dim := (t.dim.zipIdx).map (fun (x, d) => { x with org := t.origin rows d }) }

/-- Does a row counter move the window? -/
def TDesc.moves (t : TDesc) : Bool := t.orgRc.any (fun r => decide (8 ≤ r))

/-- Dense descriptors, as exception (b) of R245 wants them. -/
def TDesc.dense (t : TDesc) : Bool :=
  (List.range 5).all (fun d =>
    let x := t.d d
    decide (x.org = 0) && decide (x.own = x.ext) && decide (x.lo = 0 ∧ x.hi = 0) &&
    (if d = 0 ∨ t.dims ≤ d then true
     else if d = 1 then decide (x.stride = t.rowSize)
     else decide (x.stride = (t.d (d - 1)).stride * (t.d (d - 1)).ext)))
def TDesc.totalBytes (t : TDesc) : Nat := t.rowSize * ((List.range 4).map (fun k => (t.d (k + 1)).ext)).foldl (· * ·) 1

/-- Source and destination of one op (R245): may they meet? `elementwise` allows exception (a), `permutation` (b). -/
def overlapOk (a d : TDesc) (elementwise permutation : Bool) : Bool :=
  !(meets (d.footprint [] true) (a.footprint [] false)) ||
  (elementwise && decide (a.raw = d.raw) && (List.range 5).all (fun k => decide ((a.d k).lo = 0 ∧ (a.d k).hi = 0))) ||
  (permutation && a.dense && d.dense && decide (a.base = d.base) && decide (a.totalBytes = d.totalBytes) && decide (a.totalBytes ≤ 2 ^ 20))

end Sys2Proof.Machine
end

