-- ==== Sys2Proof/Machine/Engine.lean ====
section
/-! DEFINITION. How a stream instruction runs: issue and advance (R180, R184, R186), scratchpad access under the power groups (R211, R214), queue ends and direct queues (R188 to R191), and the end of an op at a fault (R207). -/
namespace Sys2Proof.Machine

/-- Why a unit of work does not complete. -/
inductive Halt where
  | stall (w : Stall)
  | fault (st : Status)
  | mem (access : Nat) (e : MemErr)
  | key (cause dir : Nat)            -- a key check of R158 fails
  | poison (handles : List Nat)      -- an invalid residue is read from these handles (R57)
  | keyData                          -- an invalid residue is read from a key (R147)
  | unowned                          -- damaged data that belong to no handle: a word of a twiddle table, a stash line of an earlier COPY (R86, R216)
deriving DecidableEq, Repr

/-- A piece of engine work: it changes the state, or halts. -/
abbrev Eng (α : Type) := EStateM Halt State α

/-- Where a stream runs: its tile, its code, its op, the partition and the rank of the tile. -/
structure Seat where
  t : Nat
  k : Nat
  o : OpRef
  p : Nat
  rank : Nat
deriving DecidableEq, Repr

/-- The die of a stream's tile, through whose translation unit its accesses go (R230). -/
def Seat.die (x : Seat) : Option Nat := some (siteOf x.t)

/-- Is a stream in the middle of an instruction: units of it are done, or elements of it are on their way? -/
def Stream.mid (x : Stream) : Bool := decide (x.done ≠ 0) || !x.inBufA.isEmpty || !x.inBufB.isEmpty || !x.outBuf.isEmpty

/-- Do the stopped ops of a job still end what their engines have begun (R209): while a hook drains them, or a frog stops them? -/
def State.draining (s : State) (j : Job) : Bool :=
  decide (s.hookState j.part = 1) || (j.killed && decide (s.hookState j.part ≠ 2) && (match (s.part j.part).frog with
    | some f => decide (f.step = 0)
    | none => false))

/-- A die works until it is lost or off (R358). -/
def Site.works (x : Site) : Bool := !x.lost && (decide (x.state = .active) || decide (x.state = .retiring))

/-- The op of a tile while its pattern runs: its die works (R358), and it is stopped neither by a hook or a frog, but for what has `begun` (R209, R394), nor for want of the reference clock (R377). -/
def State.runSeat? (s : State) (t k : Nat) (begun : Bool) : Option Seat :=
  match (s.tile t).op with
  | none => none
  | some (j, i) => match s.op? ⟨j, i⟩ with
    | some (job, r) =>
      if r.phase = .running ∧ (!r.halted || (begun && (s.draining job || r.ending.isSome))) ∧ (s.power.ref ≠ .stopped || begun) ∧ s.power.state = .m0 ∧ (s.site (siteOf t)).works then
        some ⟨t, k, ⟨j, i⟩, job.part, (s.tile t).rank⟩
      else none
    | none => none

/-- Where a stream of a tile runs now, and a feeder. -/
def State.seat? (s : State) (t k : Nat) : Option Seat := s.runSeat? t k ((s.tile t).stream k).mid
def State.feedSeat? (s : State) (t f : Nat) : Option Seat := s.runSeat? t 0 ((s.tile t).sent.contains f)

def State.stream (s : State) (t k : Nat) : Stream := (s.tile t).stream k
def State.updStream (s : State) (t k : Nat) (f : Stream → Stream) : State := s.updTile t (fun x => x.updStream k f)
def State.updQueue (s : State) (t q : Nat) (f : Queue → Queue) : State := s.updTile t (fun x => x.updQueue q f)

/-! ### The stream's own state -/

/-- The value of row counter `c` (R186). -/
def Stream.row (x : Stream) (c : Nat) : Nat := Tab.get (fun _ => 0) x.rows c
def Stream.setRow (x : Stream) (c v : Nat) : Stream := { x with rows := Tab.set (fun _ => 0) x.rows c v }

/-- All eight row counters, as a FEED instruction takes them along (R196). -/
def Stream.rowList (x : Stream) : List Nat := (List.range 8).map x.row

/-- The vector length in force: that of the innermost open loop's level (R167). -/
def Stream.vlNow (x : Stream) : Nat := Tab.get (fun _ => 128) x.vl x.loops.length

/-- Where a stream goes from the end of a loop body: back to its start, or on past it (R186). -/
def settleLoops (pc : Nat) : List LoopFrame → (Stream → Nat × List LoopFrame × Stream)
  | [], x => (pc, [], x)
  | f :: rest, x =>
    if pc = f.first + f.len then
      if f.iter + 1 < f.count then (f.first, { f with iter := f.iter + 1 } :: rest, x.setRow rest.length (f.iter + 1))
      else settleLoops pc rest x
    else (pc, f :: rest, x)

/-- Move a stream to instruction `pc`; the work of the instruction it leaves is forgotten. -/
def Stream.goTo (x : Stream) (pc : Nat) : Stream :=
  let (pc', loops, x') := settleLoops pc x.loops x
  { x' with pc := pc', loops := loops, done := 0, inBufA := [], inBufB := [], outBuf := [], stall := .none, wait := none }

def Stream.next (x : Stream) : Stream := x.goTo (x.pc + 1)

/-- A stream whose instruction has failed does nothing more. -/
def Stream.drop (x : Stream) : Stream := { x with running := false, done := 0, inBufA := [], inBufB := [], outBuf := [], stall := .none, wait := none }

/-- May the stream issue this word now: it runs, does not stall, its tile is not gated, and the word is the
one at its program counter? -/
def State.canIssue (s : State) (t k op : Nat) (w : StreamWord) : Bool :=
  let x := s.stream t k
  x.running && decide (x.stall = .none) && decide ((s.tile t).gate = .m0) && decide (x.image[x.pc]? = some (encodeWord op w))

/-! ### Waiting, and what has begun -/

def State.queue (s : State) (t q : Nat) : Queue := (s.tile t).queue q

/-- Is the slot at the consumer end committed, past the releases that are due? -/
def Queue.ready (v : Queue) : Bool := decide (v.releaseDue < v.committed)
/-- Is the slot at the producer end free, past the commits that are due? -/
def Queue.free (v : Queue) (c : QCfg) : Bool := decide (v.committed + v.commitDue < c.slots)

/-- Has a feeder sent the requests of the transfer at its head: are its slots available (R190, R195)? -/
def State.headSent (s : State) (t f : Nat) : Bool :=
  match (s.tile t).feeder f with
  | .transfer op w _ :: _ =>
    (!([0x21, 0x24].contains op.toNat) || (s.queue t w.inA.toNat).ready) &&
    (!([0x20, 0x23, 0x24].contains op.toNat) || (s.queue t w.out.toNat).free (s.qcfgAct t w.out.toNat))
  | _ => false

/-- Transactions that a feeder wants: the requests of its head transfer up to its limit (R203); a transfer between the stash, queues and constants wants none. -/
def State.wanted (s : State) (t f : Nat) : Nat :=
  match (s.tile t).feeder f with
  | .transfer op w _ :: _ =>
    let space := fun (i : Nat) => nbits ((s.tile t).descEntry i).toNat 3 0
    let mesh := (([0x20, 0x21, 0x22].contains op.toNat) && decide (space w.imm.toNat = 0)) || (decide (op.toNat = 0x22) && decide (space (w.imm.toNat + 1) = 0))
    if mesh && s.headSent t f then min w.count.toNat (bits (s.reg (.tile (tIdx t) .feedLimit)) (8 * f + 7) (8 * f)) else 0
  | _ => 0

/-- Transactions that a feeder holds. The four feeders and the narrow path of a tile share 120 entries (R27): they go to the feeders in the order of their numbers,
each taking what it wants of those left (DESIGN CHOICE, log entry 83). -/
def State.outstanding (s : State) (t f : Nat) : Nat := min (s.wanted t f) (120 - ((List.range f).map (s.wanted t)).sum)

/-- Does a feeder stall: it wants entries of a tracker that is full (R27)? -/
def State.feederWaits (s : State) (t f : Nat) : Bool := decide (0 < s.wanted t f) && decide (s.outstanding t f = 0)

/-- Is the tracker of a tile full (R27)? A command of a feeder moves its whole transfer, so that entries are
held between commands by transfers under way; the tracker of a die, for its cores and its cache, whose accesses are whole commands, is never full. -/
def State.trackerFull (s : State) (t : Nat) : Bool := decide (120 ≤ ((List.range 4).map (s.outstanding t)).sum)

/-- Have all four feeders of a tile reached their markers? -/
def Tile.markersReached (x : Tile) : Bool := (List.range 4).all (fun f => decide ((x.feeder f).head? = some FeedCmd.marker))

/-- Can a post take effect? -/
def Tile.postDue (x : Tile) (i : Post) : Bool := !i.markers || x.markersReached

/-- A feeder's queue without the markers that are not reached: all of them, or all behind the first `keep`. -/
def unmarked (keep : Nat) (q : List FeedCmd) : List FeedCmd := q.take keep ++ (q.drop keep).filter (· ≠ .marker)

/-- Posts apart: those that stay, and those behind the first `keep` that wait for markers, which go. -/
def partPosts : Nat → List Post → List Post × List Post
  | _, [] => ([], [])
  | keep, i :: rest =>
    let (stay, go) := partPosts (if i.markers then keep - 1 else keep) rest
    if i.markers && decide (keep = 0) then (stay, i :: go) else (i :: stay, go)

/-- Markers reached: those at the heads of all four queues, with their post. -/
def Tile.reached (x : Tile) : Nat := if x.markersReached then 1 else 0

/-- Markers that a stopped tile's feeders have not reached are discarded with their posts (R209). -/
def Tile.dropMarkers (x : Tile) : Tile :=
  { ([0, 1, 2, 3].foldl (fun v f => v.setFeeder f (unmarked x.reached (x.feeder f))) x) with posts := (partPosts x.reached x.posts).1 }

/-- The same on a hook, after which the run goes on with the bits of an unhalted one (R395): the FEED stream has passed its posts and does not go back to them, so that what is
discarded is noted, and RESUME places it again (DEDUCED, log entry 80). -/
def Tile.hookMarkers (x : Tile) : Tile := { x.dropMarkers with heldBack := some ([0, 1, 2, 3].map x.feeder, (partPosts x.reached x.posts).2) }

/-- RESUME: what a feeder had behind the commands that it has ended since, with the markers, and the posts. -/
def Tile.resumeMarkers (x : Tile) : Tile :=
  match x.heldBack with
  | none => x
  | some (qs, posts) =>
    let keep := if qs.all (fun q => decide (q.head? = some FeedCmd.marker)) then 1 else 0
    let back := fun (f : Nat) => let q := qs.getD f []
      q.drop ((unmarked keep q).length - (x.feeder f).length)
    { ([0, 1, 2, 3].foldl (fun v f => v.setFeeder f (back f)) x) with posts := x.posts ++ posts, heldBack := none }

/-- The exchange of a tile that is complete and has not signalled (R97). -/
def Tile.exchangeDue (x : Tile) : Option Exchange := x.exchanges.find? (fun e => decide (e.ranks ≠ 0) && decide (e.ranks ≤ e.got))

/-- Has every rank of an op whose PLY stream still runs passed its first key block (R157)? -/
def State.keyPassed (s : State) (r : OpRec) : Bool := r.tiles.all (fun u => (s.tile u).plyKey.isSome || !(s.stream u 5).running)

/-- May a stalled stream issue again (R27, R190, R191, R202, R214)? -/
def State.stallOver (s : State) (t k : Nat) : Bool :=
  match (s.stream t k).stall with
  | .none => false
  | .freeSlot q => (s.queue t q).free (s.qcfgAct t q)
  | .committedSlot q => (s.queue t q).ready
  | .direct q => if (s.qcfgAct t q).cons = k then decide ((s.queue t q).fifo ≠ []) else decide ((s.queue t q).fifo.length < 32)
  | .sem => false
  | .feeder fs => fs.all (fun f => decide (((s.tile t).feeder f).length < 16))
  | .key => match (s.tile t).op with
    | some (j, i) => (match s.op? ⟨j, i⟩ with
      | some (_, r) => s.keyPassed r
      | none => false)
    | none => false
  | .spad gs => gs.all (fun g => bit (s.reg (.tile (tIdx t) .spadPwr)) (8 + g))
  | .tracker => !s.trackerFull t
  | .residue => false
  | .busy => if k = 4 then (s.tile t).ribGroups.all (fun g => !g.2.isOpen) else decide ((s.tile t).reduction = none)

/-- Do effects that follow an instruction come about on a tile: its die works, and its op, if it is stopped, still ends what it has begun (R209, R394)? -/
def State.effectsRun (s : State) (t : Nat) : Bool :=
  (s.site (siteOf t)).works && (match (s.tile t).op with
    | some (j, i) => (match s.op? ⟨j, i⟩ with
      | some (job, r) => !r.halted || s.draining job || r.ending.isSome
      | none => true)
    | none => true)

/-- Has a tile whose op is stopped come to rest: nothing that its engines and feeders have begun can go on, and no effect of it is due (R209)? -/
def State.rests (s : State) (t : Nat) : Bool :=
  (!s.effectsRun t || ((s.tile t).queues.all (fun q => decide (q.2.commitDue = 0) && decide (q.2.releaseDue = 0)) &&
    !(s.tile t).posts.any (s.tile t).postDue && (s.tile t).exchangeDue.isNone)) &&
  (s.tile t).sent.all (fun i => (s.feedSeat? t i).isNone) &&
  (List.range 6).all (fun k => let v := s.stream t k
    !v.running || (s.seat? t k).isNone || (decide (v.stall ≠ .none) && !s.stallOver t k))

/-- Stop ops under R209: their streams end the instruction that their engine has started, their feeders the transfer whose requests they have sent. -/
def State.stopOps (s : State) (f : Job → OpRec → Bool) : State :=
  let ts := s.jobs.flatMap (fun j => (j.ops.filter (fun r => f j r && !r.halted)).flatMap (·.tiles))
  let s := { s with jobs := s.jobs.map (fun j => { j with ops := j.ops.map (fun r => if f j r then { r with halted := true } else r) }) }
  ts.foldl (fun s t => s.updTile t (fun x => { x with sent := (List.range 4).filter (fun f => s.headSent t f && !s.feederWaits t f) })) s

/-! ### Ends -/

/-- Leave regions unspecified: each byte that can be written becomes a free value. `keep`: a line that reads as uncorrectable stays as it is (R229). -/
def State.spoil (s : State) (p : Nat) (keep : Bool) (rs : List (Nat × Nat)) (unit : Option Nat := none) : State :=
  rs.foldl (fun s (a, n) =>
    let (vs, s1) := s.drawBelow 256 n
    match s1.xlateWrite p a (vs.map (BitVec.ofNat 8)) .write unit with
    | .ok ps => ps.foldl (fun s x => if keep && s.lineBad (x.1 / 64) then s else s.storePhys x.1 x.2) s1
    | .error _ => s) s

/-- Give memory back what it held: a pattern's limb arrays before its first destination write (R360), or what it must not have written (R157, R207). -/
def State.restoreLimbs (s : State) (p : Nat) (saved : List (Nat × List Byte)) (unit : Option Nat := none) : State :=
  saved.foldl (fun s (a, bs) => match s.writeVA p a bs .write unit with
    | .ok s' => s'
    | .error _ => s) s

/-- What a pattern leaves in its destinations as its end takes effect, the transfers that it had begun being over (R209): at a failure in a key all that they held
(R157, R160); otherwise its tensors unspecified (R134, R273), and its limb arrays too where it ends with OPERAND_POISONED (R59, R273), or as they were (R207). -/
def State.leave (s : State) (o : OpRef) (st : Status) : State :=
  match s.op? o with
  | none => s
  | some (j, r) =>
    if oeOpcode r.entry ≠ 0x7F || !r.started then s
    else if r.leaving = .key then s.restoreLimbs j.part r.before r.die
    else
      let keep := decide (r.leaving = .combine)
      if st = .operandPoisoned then s.spoil j.part keep (r.limbs ++ r.spoil) r.die
      else (s.restoreLimbs j.part (r.before.filter (fun x => r.limbs.any (fun l => decide (l.1 = x.1)))) r.die).spoil j.part keep r.spoil r.die

/-- The end of an op that is at rest: with its status, or, where it has headers to mark, on to its bind-off (R57, R59, R145). -/
def State.endNow (s : State) (o : OpRef) (st : Status) : Option (List Nat) → State
  | none => (s.leave o st).endOp o st
  | some damaged => match s.op? o with
    | some (_, r) =>
      let s := r.tiles.foldl (fun s t => s.updTile t (fun x => { x with streams := [], feeders := [], posts := [], exchanges := [] })) (s.leave o st)
      s.updOp o (fun r => { r with
        phase := .ran, status := st, origin := r.idx, damaged := damaged, halted := r.halted && r.ending.isNone, ending := none
        results := r.results.map (fun (a, h) => (a, setBits h 30 30 1)) })
    | none => s

/-- The end of an op that has stopped at a failure comes when its tiles are at rest (R209). -/
def State.settleEnd (s : State) (o : OpRef) : State :=
  match s.op? o with
  | some (j, r) => match r.ending with
    | some (st, marks) => if !j.killed && r.tiles.all s.rests then s.endNow o st marks else s
    | none => s
  | none => s

/-- The same for the op that a tile runs, after an effect on it. -/
def State.settleTile (s : State) (t : Nat) : State :=
  match (s.tile t).op with
  | some (j, i) => s.settleEnd ⟨j, i⟩
  | none => s

/-- An op fails (R207): while its pattern runs it stops under R209, what its engines have begun ends first, and markers not yet reached are discarded. A
failure while it stops changes nothing more. -/
def State.endSoon (s : State) (o : OpRef) (st : Status) (marks : Option (List Nat)) : State :=
  match s.op? o with
  | some (_, r) =>
    if r.phase ≠ .running then s.endNow o st marks
    else
      let s := s.stopOps (fun j q => decide (j.id = o.job) && decide (q.idx = o.op))
      let s := r.tiles.foldl (fun s t => s.updTile t Tile.dropMarkers) s
      (s.updOp o (fun q => { q with ending := some (st, marks) })).settleEnd o
  | none => s

/-- Is a device address inside a limb of a header's components? -/
def limbHolds (h : Header) (va : Nat) : Bool :=
  (List.range (compCount (hComps h))).any (fun c => (List.range (hLevel h)).any (fun i =>
    let a := hBase h c + i * hStride h c
    decide (a ≤ va) && decide (va < a + limbSize (hN h) (hStorage h))))

/-- The operand handles of an op whose limbs hold an address. -/
def OpRec.handlesAt (r : OpRec) (va : Nat) : List Nat :=
  let u := usesOf (oeOpcode r.entry) false
  (if u.a ∧ hValid r.hdrA ∧ limbHolds r.hdrA va then [oeA r.entry] else []) ++
  (if u.b ∧ hValid r.hdrB ∧ limbHolds r.hdrB va then [oeB r.entry] else [])

/-- An op ends with OPERAND_POISONED after it has started. With a damaged handle to mark (R57, R59), for a HOIST_ROTATE (R145) and for an inserted REFRESH (R55, whatever
the damaged data are, log entry 129), it goes on to its bind-off, which writes the marked headers; otherwise it ends at once (R207, R229): no header is marked for a
residue of a key (R147). -/
def State.poisonOp (s : State) (o : OpRef) (damaged : List Nat) : State :=
  match s.op? o with
  | some (_, r) => s.endSoon o .operandPoisoned (if damaged.isEmpty ∧ (r.results.isEmpty ∨ (oeOpcode r.entry ≠ 0x21 ∧ r.inserted.isNone)) then none else some damaged)
  | none => s

/-- The end of an op at a memory error: a fault is captured and gives the status (R232); an uncorrectable line is
recorded, and poisons the handle that holds it, if one does (R57, R229). -/
def State.memFault (s : State) (o : OpRef) (access : Nat) (e : MemErr) (rep : BitVec 16) : State :=
  match s.op? o with
  | none => s
  | some (j, r) =>
    match e with
    | .fault f => (s.capture j.part access f).endSoon o f.status none
    | .bad pa va => (s.badLine pa (some j.part) rep).poisonOp o (r.handlesAt va)

/-- A KEY_MISMATCH (R159): the count, and the capture while the sticky bit is clear. -/
def State.keyFault (s : State) (o : OpRef) (cause dir : Nat) : State :=
  match s.op? o with
  | none => s
  | some (j, r) =>
    let s1 := s.bump (pr j.part .keyEventCount) 15 0
    if bit (s.reg (pr j.part .partSticky)) 10 then s1
    else s1.setReg (pr j.part .keyFault)
      (BitVec.ofNat 32 (cause * 2 ^ 28 + dir % 4096 * 2 ^ 16 + (if r.inserted.isSome then 0xFFFF else r.idx % 65536)))

/-! ### What a failure leaves (R59, R134, R145, R147, R157, R160, R273) -/

/-- Is the failure an end with OPERAND_POISONED at data that are no key's? -/
def Halt.damage : Halt → Bool
  | .poison _ | .fault .operandPoisoned | .unowned => true
  | .mem a (.bad _ _) => decide (a ≠ 5)
  | _ => false

/-- A combine that meets an uncorrectable line does not change it (R229). -/
def Halt.leavesBad : Halt → Bool
  | .mem 3 (.bad _ _) => true
  | _ => false

/-- Does the failure lie in a key: its check, a residue or a fault of a key block? Then nothing is written (R147, R157, R160). -/
def Halt.ofKey : Halt → Bool
  | .key _ _ | .keyData | .mem 5 _ => true
  | _ => false

/-- What a failure of a pattern's work leaves. -/
def Halt.leaving (h : Halt) : Leaving := if h.ofKey then .key else if h.leavesBad then .combine else .own

/-- The regions of a started op that the runtime builds which a failure leaves unspecified (R273); a pattern's are dealt with at its end. A failure in a key leaves
none, but that of an inserted REFRESH at a residue of one (R55). Tensors that the op owns are unspecified at
every other failure (R134), and limb arrays where damaged data end it (R59). A HOIST_ROTATE says itself which outputs
it had formed (R145), and LOAD_CT writes no limbs. -/
def OpRec.unspecified (r : OpRec) (h : Halt) : List (Nat × Nat) :=
  match h with
  | .stall _ => []
  | h =>
    if !r.started || oeOpcode r.entry = 0x7F then []
    else if h.ofKey then (if h = .keyData ∧ r.inserted.isSome then r.limbs else [])
    else (if h.damage && decide (oeOpcode r.entry ≠ 0x21) then r.limbs else []) ++ r.spoil

/-- The input handles of a CUSTOM op whose limb arrays hold an invalid residue (R37): where one of its engines meets one, these are the damaged handles (log entry 86). -/
def State.invalidInputs (s : State) (o : OpRef) : List Nat :=
  match s.op? o with
  | none => []
  | some (j, r) =>
    match r.plan with
    | none => []
    | some pl =>
      let bad := fun (h : Header) => (List.range (compCount (hComps h))).any (fun c => (List.range (hLevel h)).any (fun i =>
        match s.readVA j.part (hBase h c + i * hStride h c) (limbSize (hN h) (hStorage h)) r.die with
        | .ok bs => (unpackBits (if hStorage h = 0 then 36 else 64) (hN h) (leNat bs)).any (fun v => decide ((s.prime j.part (hChain h) i).q ≤ v))
        | .error _ => false))
      (([(oeA r.entry, r.hdrA), (oeB r.entry, r.hdrB)].take pl.inputs).filter (fun x => bad x.2)).map (·.1)

/-- How an op ends at a failure of its work (R207, R57, R159, R232). -/
def State.opFailed (s : State) (o : OpRef) (rep : BitVec 16) (h : Halt) : State :=
  if (s.op? o).any (fun x => x.2.ending.isSome) then s.settleEnd o
  else
  let damaged := s.invalidInputs o
  let s := match s.op? o with
    | some (j, r) => (s.updOp o (fun q => { q with leaving := h.leaving })).spoil j.part h.leavesBad (r.unspecified h) r.die
    | none => s
  match h with
  | .stall _ => s
  | .fault .operandPoisoned => s.poisonOp o damaged
  | .keyData | .unowned => s.poisonOp o []
  | .fault st => s.endSoon o st none
  | .mem a e => s.memFault o a e rep
  | .key c d => (s.keyFault o c d).endSoon o .keyMismatch none
  | .poison hs => s.poisonOp o hs

/-- What a halted piece of a stream's work leaves: a stall of the stream, or the end of its op. -/
def State.halted (s : State) (x : Seat) : Halt → State
  | .stall w => s.updStream x.t x.k (fun v => { v with stall := w })
  | h => (s.updStream x.t x.k Stream.drop).opFailed x.o (tileUnit x.t) h

/-- Issue an instruction: run its work, then move on (R184). -/
def State.issue (s : State) (t k op : Nat) (w : StreamWord) (work : Seat → Eng Unit) : State :=
  match (if s.canIssue t k op w then s.seat? t k else none) with
  | none => s
  | some x => match work x s with
    | .ok _ s' => (s'.updStream t k Stream.next).settleTile t
    | .error h s' => (s'.halted x h).settleTile t

/-- Issue an instruction that says itself where the stream goes. -/
def State.issueAt (s : State) (t k op : Nat) (w : StreamWord) (go : Stream → Stream) : State :=
  match (if s.canIssue t k op w then s.seat? t k else none) with
  | none => s
  | some _ => (s.updStream t k go).settleTile t

/-- Work whose stall leaves nothing behind. -/
def atomically {α : Type} (u : Eng α) : Eng α := fun s =>
  match u s with
  | .error (.stall w) _ => .error (.stall w) s
  | r => r

def engGet : Eng State := fun s => .ok s s
def engPut (f : State → State) : Eng Unit := fun s => .ok () (f s)
/-- Count in a counter of R398. -/
def engCount (p n k : Nat) : Eng Unit := engPut (fun s => s.countBy p n k)
def engFault {α : Type} (st : Status) : Eng α := fun s => .error (.fault st) s
def engStall {α : Type} (w : Stall) : Eng α := fun s => .error (.stall w) s
/-- A residue check of a multiplier or an accumulator (R68). -/
def engResidue (b : Bool) : Eng Unit := if b then pure () else engStall .residue
def engAssert (b : Bool) (st : Status) : Eng Unit := if b then pure () else engFault st
/-- A free value, as engine work. -/
def engDraw : Eng Nat := fun s => let (v, s') := s.draw; .ok v s'

/-! ### Scratchpad -/

/-- The power groups that lines [lo, hi) of a tile touch: off ends the op, rising stalls (R211, R214). -/
def spadReach (t lo hi : Nat) : Eng Unit := do
  let s ← engGet
  let v := s.reg (.tile (tIdx t) .spadPwr)
  let gs := (List.range 8).filter (fun g => decide (8192 * g < hi) && decide (lo < 8192 * g + 8192))
  if gs.any (fun g => !bit v g) then engFault .spadOff
  else if gs.any (fun g => !bit v (8 + g)) then engStall (.spad gs)
  else pure ()

/-- Bits [a, a + n) of a byte table as a number, and with those bits replaced. -/
def getBits (m : Tab Byte) (a n : Nat) : Nat := leNat (getBytes m (a / 8) ((a % 8 + n + 7) / 8)) / 2 ^ (a % 8) % 2 ^ n
def putBitsAt (m : Tab Byte) (a n v : Nat) : Tab Byte :=
  let len := (a % 8 + n + 7) / 8
  let old := leNat (getBytes m (a / 8) len)
  let low := old % 2 ^ (a % 8)
  let high := old / 2 ^ (a % 8 + n)
  putBytes m (a / 8) (leBytes len (low + v % 2 ^ n * 2 ^ (a % 8) + high * 2 ^ (a % 8 + n)))

/-- Read and write `n` elements of `w` bits at a bit address of a tile's scratchpad. -/
def scrRead (t a w n : Nat) : Eng (List Nat) := do
  if n = 0 then return []
  spadReach t (a / 512) ((a + w * n + 511) / 512)
  let s ← engGet
  return unpackBits w n (getBits (s.tile t).scratch a (w * n))
def scrWrite (t a w : Nat) (xs : List Nat) : Eng Unit := do
  if xs.isEmpty then return ()
  spadReach t (a / 512) ((a + w * xs.length + 511) / 512)
  engPut (fun s => s.updTile t (fun x => { x with scratch := putBitsAt x.scratch a (w * xs.length) (packBits w xs) }))

/-- Bits of an element by `TYPE` of windows and queues (R164). -/
def typeBits (ty : Nat) : Nat :=
  match ty with
  | 0 => 36
  | 1 => 64
  | 2 => 8
  | 3 => 16
  | 4 => 32
  | _ => 32

/-! ### Queue ends (R190, R191) -/

/-- Bits of a slot, and the bit address of a slot. -/
def QCfg.slotBits (c : QCfg) : Nat := 512 * c.slotLines
def QCfg.slotAt (c : QCfg) (i : Nat) : Nat := 512 * (c.slotLine + i % c.slots * c.slotLines)

/-- The bit address of the next read at the consumer end, of `n` bits; a read that starts at the slot's end starts
again at offset 0 (log entry 22). -/
def consAddr (t q n : Nat) : Eng Nat := do
  let s ← engGet
  let c := s.qcfgAct t q
  let v := s.queue t q
  if !v.ready then engStall (.committedSlot q)
  else
    let off := if v.consOff = c.slotBits then 0 else v.consOff
    if c.slotBits < off + n then engFault .descMalformed
    else return (c.slotAt (v.consSlot + v.releaseDue) + off)

/-- The bit address of the next write at the producer end, of `n` bits. -/
def prodAddr (t q n : Nat) : Eng Nat := do
  let s ← engGet
  let c := s.qcfgAct t q
  let v := s.queue t q
  if !v.free c then engStall (.freeSlot q)
  else if c.slotBits < v.prodOff + n then engFault .descMalformed
  else return (c.slotAt (v.prodSlot + v.commitDue) + v.prodOff)

/-- Move the offsets. -/
def consMove (t q n : Nat) : Eng Unit := engPut (fun s =>
  let c := s.qcfgAct t q
  s.updQueue t q (fun v => { v with consOff := (if v.consOff = c.slotBits then 0 else v.consOff) + n }))
def prodMove (t q n : Nat) : Eng Unit := engPut (fun s => s.updQueue t q (fun v => { v with prodOff := v.prodOff + n }))

/-- Release the slot at the consumer end: it takes effect by QUEUE_SLOT_RELEASE. -/
def release (t q : Nat) : Eng Unit := do
  let s ← engGet
  if (s.qcfgAct t q).direct then return ()
  engAssert (s.queue t q).ready .descMalformed
  engPut (fun s => s.updQueue t q (fun v => { v with releaseDue := v.releaseDue + 1, consOff := 0 }))

/-- Commit the slot at the producer end: it takes effect by QUEUE_SLOT_COMMIT. -/
def commit (t q : Nat) : Eng Unit := do
  let s ← engGet
  if (s.qcfgAct t q).direct then return ()
  if !(s.queue t q).free (s.qcfgAct t q) then engStall (.freeSlot q)
  engPut (fun s => s.updQueue t q (fun v => { v with commitDue := v.commitDue + 1, prodOff := 0 }))

/-- Lines of a slot, for the transfers that move whole lines: an offset inside a line moves up to the next one. -/
def lineUp (n : Nat) : Nat := (n + 511) / 512 * 512

/-! ### Direct queues (R188) -/

/-- Take groups of a direct queue into the instruction's buffer until it holds `n` elements; stall while it does not. -/
def takeDirect (x : Seat) (q n : Nat) (second : Bool) : Eng Unit := do
  let s ← engGet
  if (s.qcfgAct x.t q).direct then
    let have_ := if second then (s.stream x.t x.k).inBufB else (s.stream x.t x.k).inBufA
    let need := (n - have_.length + 127) / 128
    let fifo := (s.queue x.t q).fifo
    let got := have_ ++ (fifo.take need).flatten
    engPut (fun s => (s.updQueue x.t q (fun v => { v with fifo := v.fifo.drop need })).updStream x.t x.k (fun v =>
      if second then { v with inBufB := got } else { v with inBufA := got }))
    if got.length < n then engStall (.direct q) else pure ()
  else pure ()

/-- Put what the instruction still has to write into a direct queue, in groups of 128 (32 fit). -/
def drainDirect (x : Seat) (q : Nat) : Eng Unit := do
  let s ← engGet
  if (s.qcfgAct x.t q).direct then
    let out := (s.stream x.t x.k).outBuf
    let room := 32 - (s.queue x.t q).fifo.length
    engPut (fun s => (s.updQueue x.t q (fun v => { v with fifo := v.fifo ++ chunksOf 128 room out })).updStream x.t x.k (fun v =>
      { v with outBuf := out.drop (128 * room) }))
    if out.length ≤ 128 * room then pure () else engStall (.direct q)
  else pure ()

/-- Read `n` elements from a queue's consumer end. -/
def readEnd (x : Seat) (q n : Nat) (second : Bool := false) : Eng (List Nat) := do
  let s ← engGet
  let c := s.qcfgAct x.t q
  if c.direct then
    let buf := if second then (s.stream x.t x.k).inBufB else (s.stream x.t x.k).inBufA
    engPut (fun s => s.updStream x.t x.k (fun v =>
      if second then { v with inBufB := buf.drop n } else { v with inBufA := buf.drop n }))
    return buf.take n
  else
    let w := typeBits c.ty
    let a ← consAddr x.t q (w * n)
    let xs ← scrRead x.t a w n
    consMove x.t q (w * n)
    return xs

/-- Write elements to a queue's producer end. -/
def writeEnd (x : Seat) (q : Nat) (xs : List Nat) : Eng Unit := do
  let s ← engGet
  let c := s.qcfgAct x.t q
  if c.direct then engPut (fun s => s.updStream x.t x.k (fun v => { v with outBuf := v.outBuf ++ xs }))
  else
    let w := typeBits c.ty
    let a ← prodAddr x.t q (w * xs.length)
    scrWrite x.t a w xs
    prodMove x.t q (w * xs.length)

/-- Units `i` to `total - 1` of an instruction, each with its stall behind it (R184); `fuel` is what is left. -/
def runUnits (x : Seat) (outQ : Option Nat) (pre unit : Nat → Eng Unit) : Nat → Nat → Eng Unit
  | 0, _ => match outQ with
    | some q => drainDirect x q
    | none => pure ()
  | fuel + 1, i => do
    match outQ with
    | some q => drainDirect x q
    | none => pure ()
    pre i
    atomically (unit i)
    engPut (fun s => s.updStream x.t x.k (fun v => { v with done := i + 1 }))
    runUnits x outQ pre unit fuel (i + 1)

/-- The units of an instruction from the first that is not done. -/
def allUnits (x : Seat) (total : Nat) (outQ : Option Nat) (pre unit : Nat → Eng Unit) : Eng Unit := do
  let s ← engGet
  let d := (s.stream x.t x.k).done
  runUnits x outQ pre unit (total - d) d

/-- A flag bit of a word. -/
def flag (w : StreamWord) (i : Nat) : Bool := w.flags.getLsbD i

/-- The descriptor entry that a word's `IMM` names, as a number. -/
def descAt (x : Seat) (i : Nat) : Eng Nat := do
  let s ← engGet
  return ((s.tile x.t).descEntry i).toNat

/-! ### Effects that follow an instruction -/

/-- QUEUE_SLOT_COMMIT (R191): a due commit takes effect. -/
def State.slotCommit (s : State) (t q : Nat) : State :=
  let v := s.queue t q
  if v.commitDue = 0 || !s.effectsRun t then s
  else State.settleTile (t := t) <| s.setTile t ((s.tile t).setQueue q { v with commitDue := v.commitDue - 1, committed := v.committed + 1, prodSlot := (v.prodSlot + 1) % (s.qcfgAct t q).slots })

/-- QUEUE_SLOT_RELEASE (R191): a due release takes effect. -/
def State.slotRelease (s : State) (t q : Nat) : State :=
  let v := s.queue t q
  if v.releaseDue = 0 || v.committed = 0 || !s.effectsRun t then s
  else State.settleTile (t := t) <| s.setTile t ((s.tile t).setQueue q { v with releaseDue := v.releaseDue - 1, committed := v.committed - 1, consSlot := (v.consSlot + 1) % (s.qcfgAct t q).slots })

def execQueueSlotCommit (t : Fin 576) (q : Fin 48) (s : State) : Host.Outcome State Fault Refusal := .next (s.slotCommit t q)
def execQueueSlotRelease (t : Fin 576) (q : Fin 48) (s : State) : Host.Outcome State Fault Refusal := .next (s.slotRelease t q)

/-- ENGINE_STALL_RESUME (R191): the instruction may be issued in the following cycle. -/
def execEngineStallResume (t : Fin 576) (k : StreamCode) (s : State) : Host.Outcome State Fault Refusal :=
  .next (if s.stallOver t (streamCode k) then s.updStream t (streamCode k) (fun v => { v with stall := .none }) else s)

end Sys2Proof.Machine
end

