-- ==== Sys2Proof/Machine/Control.lean ====
section
/-! DEFINITION. The control instructions of the streams (R185 to R187), semaphores (R192 to R194), and the end of a tile's part (R180). -/
namespace Sys2Proof.Machine

/-! ### NOP, END, LOOP -/

def execNop (t : Fin 576) (k : StreamCode) (w : StreamWord) (s : State) : Host.Outcome State Fault Refusal :=
  .next (s.issueAt t (streamCode k) 0x00 w Stream.next)

/-- END: the stream stops (R180). -/
def execEndInstr (t : Fin 576) (k : StreamCode) (w : StreamWord) (s : State) : Host.Outcome State Fault Refusal :=
  .next (s.issueAt t (streamCode k) 0x0F w (fun x => { x with running := false }))

/-- LOOP (R186): a count of 0 skips the body; otherwise the named row counter starts at 0. -/
def Stream.enterLoop (x : Stream) (c count len : Nat) : Stream :=
  if count = 0 then x.goTo (x.pc + 1 + len)
  else
    let x := x.setRow c 0
    { x.goTo (x.pc + 1) with
      loops := { first := x.pc + 1, len := len, count := count, iter := 0 } :: x.loops
      lastCount := Tab.set (fun _ => 0) x.lastCount c count }

def execLoop (t : Fin 576) (k : StreamCode) (w : StreamWord) (s : State) : Host.Outcome State Fault Refusal :=
  .next (s.issueAt t (streamCode k) 0x01 w (fun x => x.enterLoop (w.mode.toNat % 8) w.count.toNat w.imm.toNat))

/-! ### CMPSET, WHEN (R187) -/

/-- The value of a comparator now: false until CMPSET binds it. Relation 5 uses the iterations of the counter's loop. -/
def Stream.compare (x : Stream) (c : Nat) : Bool :=
  match Tab.get (fun _ => none) x.comps c with
  | none => false
  | some b =>
    let v := x.row b.counter
    match b.rel with
    | 0 => decide (v = b.value)
    | 1 => decide (v ≠ b.value)
    | 2 => decide (v < b.value)
    | 3 => decide (b.value ≤ v)
    | 4 => decide (v % b.value = 0)
    | _ => decide (v + 1 = Tab.get (fun _ => 0) x.lastCount b.counter)

/-- CMPSET binds a comparator. -/
def Stream.bindComparator (x : Stream) (w : StreamWord) : Stream :=
  { x with comps := Tab.set (fun _ => none) x.comps (w.mode.toNat % 4) (some { counter := w.imm.toNat % 8, rel := w.imm.toNat / 16 % 8, value := w.count.toNat }) }

def execCmpset (t : Fin 576) (k : StreamCode) (w : StreamWord) (s : State) : Host.Outcome State Fault Refusal :=
  .next (s.issueAt t (streamCode k) 0x02 w (fun x => x.next.bindComparator w))

/-- WHEN: the governed instructions are passed over unless the condition holds. -/
def execWhenInstr (t : Fin 576) (k : StreamCode) (w : StreamWord) (s : State) : Host.Outcome State Fault Refusal :=
  .next (s.issueAt t (streamCode k) 0x03 w (fun x =>
    if x.compare (w.mode.toNat % 4) != w.mode.getLsbD 2 then x.next else x.goTo (x.pc + 1 + w.count.toNat)))

/-! ### Semaphores -/

/-- A counter of a pair: READY in [7:0], FREE in [15:8] of SEM_n (R192). -/
def semReg (t n : Nat) : Reg := .tile (tIdx t) (.sem ⟨n % 32, Nat.mod_lt _ (by decide)⟩)
def State.semCount (s : State) (t n : Nat) (free : Bool) : Nat := if free then bits (s.reg (semReg t n)) 15 8 else bits (s.reg (semReg t n)) 7 0
def State.setSem (s : State) (t n : Nat) (free : Bool) (v : Nat) : State :=
  if free then s.setField (semReg t n) 15 8 v else s.setField (semReg t n) 7 0 v

/-- Take `n` from a counter, if it holds as many. -/
def State.semTake (s : State) (t pair : Nat) (free : Bool) (n : Nat) : Option State :=
  let c := s.semCount t pair free
  if n ≤ c then some (s.setSem t pair free (c - n)) else none

/-- SWAIT (R193): waits until the counter is at least n, then subtracts n. -/
def State.swait (s : State) (t k : Nat) (w : StreamWord) : State :=
  match (if s.canIssue t k 0x04 w then s.seat? t k else none) with
  | none => s
  | some _ =>
    let pair := w.imm.toNat % 32
    let free := w.mode.getLsbD 0
    match s.semTake t pair free w.count.toNat with
    | some s' => s'.updStream t k Stream.next
    | none => s.updStream t k (fun x => { x with stall := .sem, wait := some (pair, free, w.count.toNat) })

def execSwait (t : Fin 576) (k : StreamCode) (w : StreamWord) (s : State) : Host.Outcome State Fault Refusal :=
  .next (s.swait t (streamCode k) w)

/-- SWAIT_SATISFIED (R193): a waiting stream takes its amount and goes on. -/
def execSwaitSatisfied (t : Fin 576) (k : StreamCode) (s : State) : Host.Outcome State Fault Refusal :=
  .next (match (s.stream t (streamCode k)).wait, s.seat? t (streamCode k) with
    | some (pair, free, n), some _ => match s.semTake t pair free n with
      | some s' => s'.updStream t (streamCode k) Stream.next
      | none => s
    | _, _ => s)

/-- Put a post on its way (R193): the FEED stream's go as markers through all four feeder queues. -/
def putPost (x : Seat) (target : Nat) (w : StreamWord) : Eng Unit := do
  let s ← engGet
  let feed := decide (x.k = 0)
  if feed && (List.range 4).any (fun f => decide (16 ≤ ((s.tile x.t).feeder f).length)) then engStall (.feeder [0, 1, 2, 3])
  engPut (fun s => s.updTile x.t (fun v =>
    let v := { v with posts := v.posts ++ [{ tile := target, pair := w.imm.toNat % 32, free := w.mode.getLsbD 0, amount := w.count.toNat, markers := feed }] }
    if feed then [0, 1, 2, 3].foldl (fun v f => v.setFeeder f (v.feeder f ++ [FeedCmd.marker])) v else v))

def execSpost (t : Fin 576) (k : StreamCode) (w : StreamWord) (s : State) : Host.Outcome State Fault Refusal :=
  .next (s.issue t (streamCode k) 0x05 w (fun x => putPost x x.t w))

/-- SPOSTR (R194): the tile is named by its rank in the op's tile list. -/
def execSpostr (t : Fin 576) (k : StreamCode) (w : StreamWord) (s : State) : Host.Outcome State Fault Refusal :=
  .next (s.issue t (streamCode k) 0x06 w (fun x => do
    let s ← engGet
    match s.op? x.o with
    | some (_, r) => match r.tiles[w.imm.toNat / 1024]? with
      | some target => putPost x target w
      | none => engFault .descMalformed
    | none => pure ()))

/-- SPOST_TAKES_EFFECT (R193): the oldest post of a tile that is due adds its amount; a sum above 255 ends the op. -/
def State.postEffect (s : State) (t : Nat) : State :=
  match (if s.effectsRun t then (s.tile t).posts.find? (s.tile t).postDue else none), (s.tile t).op with
  | some i, some (j, n) =>
    let s1 := s.updTile t (fun x =>
      let x := { x with posts := x.posts.erase i }
      if i.markers then [0, 1, 2, 3].foldl (fun x f => x.setFeeder f ((x.feeder f).drop 1)) x else x)
    let v := s.semCount i.tile i.pair i.free + i.amount
    if v ≤ 255 then (s1.setSem i.tile i.pair i.free v).settleTile t else s1.endSoon ⟨j, n⟩ .descMalformed none
  | _, _ => s

def execSpostTakesEffect (t : Fin 576) (s : State) : Host.Outcome State Fault Refusal := .next (s.postEffect t)

/-! ### The end of a tile's part (R180) -/

/-- Is a tile's part of its op complete: its streams have ended, its feeders are empty, its posts have taken effect and its exchanges have signalled? -/
def Tile.partOver (x : Tile) : Bool :=
  !x.anyRunning && (List.range 4).all (fun f => decide (x.feeder f = [])) && decide (x.posts = []) && x.exchanges.all (fun e => decide (e.ranks = 0))

/-- TILE_PART_COMPLETE (R180): when every tile's part is over, the op waits for its bind-off. -/
def State.tilePart (s : State) (t : Nat) : State :=
  match (s.tile t).op with
  | none => s
  | some (j, i) => match s.op? ⟨j, i⟩ with
    | none => s
    | some (_, r) =>
      if r.phase = .running ∧ !r.halted ∧ (s.tile t).partOver then
        let s := s.updTile t (fun x => { x with partDone := true })
        if r.tiles.all (fun u => (s.tile u).partDone) then s.updOp ⟨j, i⟩ (fun r => { r with phase := .ran }) else s
      else s

def execTilePartComplete (t : Fin 576) (s : State) : Host.Outcome State Fault Refusal := .next (s.tilePart t)

end Sys2Proof.Machine
end

