-- ==== Sys2Proof/Machine/Gcm.lean ====
section
/-! DEFINITION. AES-256 (FIPS 197) and its GCM mode (NIST SP 800-38D), as R410 uses them on a frame. -/
namespace Sys2Proof.Machine

/-! ### Bytes as elements of GF(2^8) -/

/-- x times a byte. -/
def byteX (b : Nat) : Nat := if b < 128 then 2 * b else (2 * b) ^^^ 0x11B

/-- The product of two bytes. -/
def byteMul (a b : Nat) : Nat := ((List.range 8).foldl (fun ((sum, m) : Nat × Nat) i => (if b.testBit i then sum ^^^ m else sum, byteX m)) (0, a)).1

/-- The inverse of a byte, a^254; 0 for 0. -/
def byteInv (a : Nat) : Nat := ((List.range 7).foldl (fun ((prod, sq) : Nat × Nat) _ => let sq := byteMul sq sq; (byteMul prod sq, sq)) (1, a)).1

def byteRotl (b k : Nat) : Nat := (b * 2 ^ k + b / 2 ^ (8 - k)) % 256

/-- The substitution of AES. -/
def subByte (a : Nat) : Nat := [1, 2, 3, 4].foldl (fun x k => x ^^^ byteRotl (byteInv a) k) (byteInv a ^^^ 0x63)

/-! ### Blocks of 16 bytes, column by column -/

/-- The bytes of a number of `n` bytes, the most significant first. -/
def beBytes (n v : Nat) : List Nat := (List.range n).map (fun i => v / 256 ^ (n - 1 - i) % 256)
def beNat (bs : List Nat) : Nat := bs.foldl (fun v b => 256 * v + b) 0

/-- SubBytes and ShiftRows: row r moves r columns to the left. -/
def subShift (b : List Nat) : List Nat := (List.range 16).map (fun i => subByte (b.getD ((i + 4 * (i % 4)) % 16) 0))

/-- MixColumns. -/
def mixColumns (b : List Nat) : List Nat :=
  (List.range 16).map (fun i =>
    let at' := fun k => b.getD (i / 4 * 4 + (i + k) % 4) 0
    byteMul (at' 0) 2 ^^^ byteMul (at' 1) 3 ^^^ at' 2 ^^^ at' 3)

/-- One more word of the key schedule; `ws` holds the words so far, the last first. -/
def nextKeyWord (ws : List Nat) (i : Nat) : List Nat :=
  let last := ws.getD 0 0
  let sub := fun w => beNat ((beBytes 4 w).map subByte)
  let t := if i % 8 = 0 then sub (last * 256 % 2 ^ 32 + last / 2 ^ 24) ^^^ (2 ^ (i / 8 - 1) * 2 ^ 24)
    else if i % 8 = 4 then sub last else last
  (ws.getD 7 0 ^^^ t) :: ws

/-- The 15 round keys of a 256-bit key. -/
def roundKeys (key : Nat) : List Nat :=
  let ws := ((List.range 52).foldl (fun ws i => nextKeyWord ws (i + 8)) ((List.range 8).map (fun i => key / 2 ^ (32 * i) % 2 ^ 32))).reverse
  (List.range 15).map (fun r => (List.range 4).foldl (fun v i => v * 2 ^ 32 + ws.getD (4 * r + i) 0) 0)

/-- AES-256 of one block, 128 bits. -/
def aesBlock (key block : Nat) : Nat :=
  let ks := roundKeys key
  let inner := (List.range 13).foldl (fun b r => beNat (mixColumns (subShift (beBytes 16 b))) ^^^ ks.getD (r + 1) 0) (block ^^^ ks.getD 0 0)
  (beNat (subShift (beBytes 16 inner)) ^^^ ks.getD 14 0) % 2 ^ 128

/-! ### GCM -/

/-- The product of two blocks as elements of GF(2^128), bit 127 of a number being the first bit of its block. -/
def blockMul (x y : Nat) : Nat :=
  ((List.range 128).foldl (fun ((z, v) : Nat × Nat) i =>
    (if x.testBit (127 - i) then z ^^^ v else z, if v % 2 = 1 then v / 2 ^^^ 0xE1 * 2 ^ 120 else v / 2)) (0, y)).1

/-- The hash of a sequence of blocks. -/
def ghash (h : Nat) (blocks : List Nat) : Nat := blocks.foldl (fun y b => blockMul (y ^^^ b) h) 0

/-- Blocks XORed with the key stream under a 96-bit IV: encryption, and decryption. -/
def gcmStream (key iv : Nat) (blocks : List Nat) : List Nat := blocks.zipIdx.map (fun (p, i) => p ^^^ aesBlock key (iv * 2 ^ 32 + (i + 2)))

/-- The tag over additional data and ciphertext, whole blocks. -/
def gcmTag (key iv : Nat) (aad cipher : List Nat) : Nat :=
  let lengths := 128 * aad.length * 2 ^ 64 + 128 * cipher.length
  ghash (aesBlock key 0) (aad ++ cipher ++ [lengths]) ^^^ aesBlock key (iv * 2 ^ 32 + 1)

/-! ### Frames (R410) -/

/-- The 128 bits of the header. -/
def frameHeader (f : Frame) : Nat :=
  f.ty.toNat + f.epoch.toNat * 2 ^ 4 + f.lines.toNat * 2 ^ 5 + f.hops.toNat * 2 ^ 8 + f.dest.toNat * 2 ^ 16 + f.src.toNat * 2 ^ 32 +
  f.srcSpan.toNat * 2 ^ 48 + f.destSpan.toNat * 2 ^ 56 + f.seq.toNat * 2 ^ 64 + f.ack.toNat * 2 ^ 80 + f.offset.toNat * 2 ^ 96

/-- The blocks of a number of `n` times 16 bytes, byte 0 being its least significant and the first of the first block. -/
def wireBlocks (n v : Nat) : List Nat := (List.range n).map (fun i => beNat ((leBytes 16 (v / 2 ^ (128 * i))).map (·.toNat)))

/-- Blocks as a number, byte 0 being its least significant. -/
def blocksNat (bs : List Nat) : Nat := leNat ((bs.flatMap (beBytes 16)).map (BitVec.ofNat 8))

/-- Key and IV of a direction: its key, its salt and its frame counter (log entry 103). -/
def frameIv (salt counter : Nat) : Nat := salt % 2 ^ 32 * 2 ^ 64 + counter % 2 ^ 64

/-- A frame as it travels: payload encrypted, with its tag. -/
def sealFrame (f : Frame) (key salt counter : Nat) : Frame :=
  let k := key % 2 ^ 256
  let cipher := gcmStream k (frameIv salt counter) (wireBlocks 16 f.payload.toNat)
  { f with payload := BitVec.ofNat 2048 (blocksNat cipher), tag := BitVec.ofNat 128 (blocksNat [gcmTag k (frameIv salt counter) (wireBlocks 1 (frameHeader f)) cipher]) }

/-- A frame as it is taken from the wire: in clear, if its tag is that of header and ciphertext. -/
def openFrame (f : Frame) (key salt counter : Nat) : Option Frame :=
  let k := key % 2 ^ 256
  let cipher := wireBlocks 16 f.payload.toNat
  if f.tag = BitVec.ofNat 128 (blocksNat [gcmTag k (frameIv salt counter) (wireBlocks 1 (frameHeader f)) cipher]) then
    some { f with payload := BitVec.ofNat 2048 (blocksNat (gcmStream k (frameIv salt counter) cipher)), tag := 0 }
  else none

/-- The 288 bytes of a frame on the wire: header, encrypted payload and tag, under the key, the salt and the frame counter. -/
def frameWire (f : Frame) (key salt counter : Nat) : List Byte :=
  let g := sealFrame f key salt counter
  leBytes 16 (frameHeader g) ++ leBytes 256 g.payload.toNat ++ leBytes 16 g.tag.toNat

end Sys2Proof.Machine
end

