-- ==== Sys2Proof/Machine/Links.lean ====
section
/-! DEFINITION. Quolyn ports and their frames (R408 to R413), span entries (R414), and the mirroring of feeder writes into send regions (R414, R417). -/
namespace Sys2Proof.Machine

/-! ### Spans (R414) -/

/-- A span entry. -/
structure Span where
  enable : Bool
  receive : Bool
  part : Nat
  peerSpan : Nat
  peerModule : Nat
  base : Nat
  size : Nat
deriving DecidableEq, Repr

def spanEntry (cfg va size : Word32) : Span :=
  { enable := bit cfg 31, receive := bit cfg 30, part := bits cfg 29 24, peerSpan := bits cfg 21 16, peerModule := bits cfg 10 0, base := va.toNat * 65536,
    size := bits size 21 0 * 65536 }

def spanRegs (n : Fin 64) : List Reg := [.glob (.spanCfg n), .glob (.spanVa n), .glob (.spanSize n)]

/-- The span in force. -/
def State.span (s : State) (n : Fin 64) : Span :=
  spanEntry (s.act (.glob (.spanCfg n))) (s.act (.glob (.spanVa n))) (s.act (.glob (.spanSize n)))

/-! ### Ports -/

/-- The module's number (QL_NODE.MODULE_ID). -/
def State.moduleId (s : State) : Nat := bits (s.reg (.glob .qlNode)) 10 0

/-- Is the port fused off (R5)? -/
def State.portAbsent (s : State) : Bool := decide (s.grade = 2)

/-- Do frames flow on port `q`: it is up, its hank die runs, the module is in M0? -/
def State.linkUp (s : State) (q : Nat) : Bool :=
  s.answers && decide (s.power.state = .m0) && (s.hank (q / 2)).running && !s.portAbsent && decide ((s.port q).phase = 4)

/-- The sequence number of the last frame received in order. -/
def QPort.ackOf (x : QPort) : Nat := (x.nextExpect + 65535) % 65536

/-- Put a frame on the wire under the outgoing key, with the acknowledgement and the epoch as they stand; the frame counter advances (R410). -/
def State.putOnWire (s : State) (q : Nat) (f : Frame) : State :=
  let x := s.port q
  let f := { f with ack := BitVec.ofNat 16 x.ackOf, epoch := if x.epochOut then 1 else 0 }
  (s.setPort q { x with framesOut := x.framesOut + 1 }).emit (.frame q f (frameWire f x.keyOut x.saltOut x.framesOut))

/-- A frame of type `ty` to a module, without link fields. -/
def frameTo (ty dest src srcSpan destSpan lines offset payload : Nat) : Frame :=
  { ty := BitVec.ofNat 4 ty, epoch := 0, lines := BitVec.ofNat 2 lines, hops := 15, dest := BitVec.ofNat 11 dest, src := BitVec.ofNat 11 src,
    srcSpan := BitVec.ofNat 6 srcSpan, destSpan := BitVec.ofNat 6 destSpan, seq := 0, ack := 0, offset := BitVec.ofNat 32 offset,
    payload := BitVec.ofNat 2048 payload, fecOk := true, tag := 0 }

/-- Send a new frame at once: it takes the next SEQ and is kept, with the last 512 (R411). -/
def State.sendKept (s : State) (q : Nat) (f : Frame) : State :=
  let x := s.port q
  let f := { f with seq := BitVec.ofNat 16 x.nextSend }
  let kept : OutFrame := { frame := { f with ack := BitVec.ofNat 16 x.ackOf, epoch := if x.epochOut then 1 else 0 } }
  let all := x.sent ++ [kept]
  (s.setPort q { x with nextSend := (x.nextSend + 1) % 65536, sent := all.drop (all.length - 512) }).putOnWire q f

/-- The operations of a bring-up (R350) and of a rekey (R412), by their codes. -/
def bringUpOps : List Nat := [0x01, 0x03, 0x03, 0x03, 0x02, 0x04]
def rekeyOps : List Nat := [0x01, 0x02, 0x03, 0x04]

/-- A rekey begins under the current key: its operations wait for units of the hank die's instance, and a key-exchange frame goes out (R412). What such a frame carries the spec does
not give: a free value. -/
def State.beginRekey (s : State) (q : Nat) : State :=
  let (v, s) := s.draw
  (s.updPort q (fun x => { x with rekey := true, work := rekeyOps, idle := rekeyOps, exchange := x.exchange + 1 })).sendKept q
    (frameTo 5 (s.port q).peer s.moduleId 0 0 0 0 v)

/-- After 2^40 frames under one key, whatever they carry, a rekey begins (R412). -/
def State.rekeyAt40 (s : State) (q : Nat) : State :=
  if 2 ^ 40 ≤ (s.port q).framesOut ∧ (s.port q).rekey = false then s.beginRekey q else s

/-- Send a new frame. -/
def State.transmit (s : State) (q : Nat) (f : Frame) : State := (s.sendKept q f).rekeyAt40 q

/-- Whose turn it is among the waiting frames of spans: the spans in a circle after the last one served, then the first frame of that span (R418). -/
def QPort.localTurn (x : QPort) : Option Frame :=
  ((List.range 64).findSome? (fun k => x.queue.find? (fun f => decide (f.srcSpan.toNat = (x.lastSpan + 1 + k) % 64))))

/-- The waiting frame that the port serves next, and the port without it: forwarded and local frames in alternation while both wait (R418). -/
def QPort.serve (x : QPort) : Option (Frame × QPort) :=
  match x.through, x.localTurn with
  | f :: rest, none => some (f, { x with through := rest, throughNext := false })
  | f :: rest, some g =>
    if x.throughNext then some (f, { x with through := rest, throughNext := false })
    else some (g, { x with queue := x.queue.erase g, lastSpan := g.srcSpan.toNat, throughNext := true })
  | [], some g => some (g, { x with queue := x.queue.erase g, lastSpan := g.srcSpan.toNat, throughNext := true })
  | [], none => none

/-- Nothing waits at a port. -/
def QPort.calm (x : QPort) : Bool := decide (x.queue = []) && decide (x.through = [])

/-- Send a data or signal frame, one of this module's spans or a forwarded one, or let it wait while 512 frames are kept (log entry 99). -/
def State.sendFrame (s : State) (q : Nat) (through : Bool) (f : Frame) : State :=
  let x := s.port q
  if x.calm ∧ x.sent.length < 512 then
    (s.setPort q (if through then { x with throughNext := false } else { x with lastSpan := f.srcSpan.toNat, throughNext := true })).transmit q f
  else s.setPort q (if through then { x with through := x.through ++ [f] } else { x with queue := x.queue ++ [f] })

/-- Waiting frames follow as room appears; `fuel` bounds their number. -/
def State.drainQueue (q : Nat) : Nat → State → State
  | 0, s => s
  | n + 1, s =>
    let x := s.port q
    match x.serve with
    | some (f, x') => if x.sent.length < 512 then State.drainQueue q n ((s.setPort q x').transmit q f) else s
    | none => s

/-- The route entry of a module: its port, if it is valid and the port is up (R412, R413). -/
def State.route (s : State) (dest : Nat) : Option Nat :=
  let e := Tab.get (fun _ => (0 : BitVec 4)) s.routes dest
  if e.getLsbD 3 ∧ s.linkUp (e.toNat % 8) then some (e.toNat % 8) else none

/-! ### Sending through spans (R414, R417) -/

/-- A frame of a span is discarded: LOST counts it, BROKEN is set, event 0x3B. -/
def State.spanLost (s : State) (n : Nat) : State :=
  let v := s.span (pIdx n)
  let e := Tab.get (fun _ => (0 : BitVec 4)) s.routes v.peerModule
  let u := quolynUnit (e.toNat % 8)
  ((s.bump (pr v.part .partSpan) 31 16).setField (pr v.part .partSpan) 0 0 1).reportLog u u 0x3B n (some v.part)

/-- A frame of span `n` is queued on its route's port, or discarded. -/
def State.spanSend (s : State) (n : Nat) (f : Frame) : State :=
  match s.route f.dest.toNat with
  | some q => s.sendFrame q false f
  | none => s.spanLost n

/-! ### A port goes down (R409, R420) -/

/-- An event of a port (R420): log, trace or alarm. -/
def State.linkLog (s : State) (q event detail : Nat) (part : Option Nat := none) : State := s.reportLog (quolynUnit q) (quolynUnit q) event detail part
def State.linkTrace (s : State) (q event detail : Nat) : State := s.reportTrace (quolynUnit q) (quolynUnit q) event detail

/-- The waiting frames that a link takes along when it goes down: those of this module's spans are discarded and counted (R417), forwarded ones are dropped with event
0x39 (R413). -/
def State.dropQueue (s : State) (q : Nat) : State :=
  let s := (s.port q).queue.foldl (fun s f => s.spanLost f.srcSpan.toNat) s
  (s.port q).through.foldl (fun s f => s.linkLog q 0x39 f.dest.toNat) s

/-- A port is in phase 0; only its counts stay. -/
def State.portDown (s : State) (q : Nat) (retry : Bool) : State :=
  let s := s.dropQueue q
  s.updPort q (fun x => { probeSeq := x.probeSeq, exchange := x.exchange + 1, retryWait := retry })

/-- A failed phase (event 0x35), to be retried 1 s later. -/
def State.phaseFailed (s : State) (q : Nat) : State := (s.linkLog q 0x35 (s.port q).phase).portDown q true

/-- A link is lost: event 0x33 with its reason. A bring-up that it ends has failed as well (R409). -/
def State.linkLost (s : State) (q reason : Nat) : State :=
  let s := s.reportAlarm (quolynUnit q) (quolynUnit q) 0x33 reason
  if (s.port q).phase = 4 then s.portDown q true else s.phaseFailed q

/-! ### What feeders write (R414) -/

/-- The enabled send spans of a partition. -/
def State.sendSpans (s : State) (p : Nat) : List (Fin 64) :=
  (List.finRange 64).filter (fun n => let v := s.span n; v.enable && !v.receive && decide (v.part = p))

/-- A line of a partition as it stands now. -/
def State.lineNow (s : State) (p line : Nat) : Nat :=
  match s.xlate p (64 * line) .write with
  | .ok pa => leNat (s.readPhys pa 64)
  | .error _ => 0

/-- The lines of a run that lie in a span, in fours. -/
def State.mirrorRun (s : State) (p : Nat) (n : Fin 64) (a len : Nat) : State :=
  let v := s.span n
  let ls := (linesOf a len).filter (fun l => decide (v.base ≤ 64 * l ∧ 64 * l + 64 ≤ v.base + v.size))
  (chunksOf 4 ls.length ls).foldl (fun s c =>
    let payload := ((c.zipIdx).map (fun (l, i) => s.lineNow p l * 2 ^ (512 * i))).sum
    (s.countBy p 0x23 (64 * c.length)).spanSend n (frameTo 1 v.peerModule s.moduleId n v.peerSpan (c.length - 1) ((64 * c.headD 0 - v.base) / 64) payload)) s

/-- What feeders have written is carried to the paired regions, whole lines as they stand (R414). -/
def State.mirror (s : State) (p : Nat) (runs : List (Nat × List Byte)) : State :=
  (s.sendSpans p).foldl (fun s n => runs.foldl (fun s (a, bs) => s.mirrorRun p n a bs.length) s) s

/-- The 8-byte value of a SIGNAL into a send region goes as a signal frame (R410, R414). -/
def State.mirrorSignal (s : State) (p a value : Nat) : State :=
  (s.sendSpans p).foldl (fun s n =>
    let v := s.span n
    if v.base ≤ a ∧ a + 8 ≤ v.base + v.size then
      (s.countBy p 0x23 8).spanSend n (frameTo 2 v.peerModule s.moduleId n v.peerSpan 0 ((a - v.base) / 64) (value % 2 ^ 64 + (a - v.base) % 64 / 8 * 2 ^ 64))
    else s) s

end Sys2Proof.Machine
end

