-- ==== Sys2Proof/Machine/Feed.lean ====
section
/-! DEFINITION. The FEED stream and its feeders: transfers between memory, stash and queue slots, fills and copies (R195, R196, R202, R239 to R242), and feeder combines (R224). -/
namespace Sys2Proof.Machine

/-- A feed record (R196). -/
structure FeedRec where
  space : Nat
  base : Nat
  terms : List (Nat × Bool × Int)  -- row counter, enable, stride in lines
  tdesc : Nat
deriving DecidableEq, Repr

def feedRec (x : Nat) : FeedRec :=
  { space := nbits x 3 0, base := nbits x 55 8,
    terms := (List.range 4).map (fun i =>
      let b := nbits x (95 + 32 * i) (64 + 32 * i)
      (b % 8, decide (b / 8 % 2 = 1), signed 28 (b / 16))),
    tdesc := nbits x 207 192 }

/-- Reserved bits and values of a feed record. -/
def feedRecOk (x : Nat) : Bool :=
  decide (nbits x 7 4 = 0) && decide (nbits x 63 56 = 0) && decide (nbits x 511 208 = 0) && decide (nbits x 3 0 ≤ 1)

/-- The first line of a linear run, as an offset in lines from `BASE` (R196). -/
def FeedRec.shift (r : FeedRec) (rows : List Nat) : Int :=
  (r.terms.map (fun (c, en, st) => if en then (rows.getD c 0 : Int) * st else 0)).sum

/-- The byte address of line `i` of a linear run in device space; a negative sum lies outside every page. -/
def FeedRec.lineVa (r : FeedRec) (rows : List Nat) (i : Nat) : Nat :=
  let a : Int := (r.base : Int) + 64 * ((i : Int) + r.shift rows)
  if a < 0 then 2 ^ 48 else a.toNat

/-- The stash line of line `i`, if the transfer stays in the slice (R196). -/
def FeedRec.stashLine (r : FeedRec) (rows : List Nat) (i : Nat) : Option Nat :=
  let a : Int := (r.base : Int) + (i : Int) + r.shift rows
  if 0 ≤ a ∧ a < 196608 then some a.toNat else none

/-- The tensor descriptor at index `i` of the tile's table. -/
def Tile.tdescAt (x : Tile) (i : Nat) : TDesc := tdesc ((x.descEntry i).toNat + (x.descEntry (i + 1)).toNat * 2 ^ 512)

/-! ### The transfers of a pattern -/

/-- A walk along an image, as its stream makes it (R186, R187): row counters and comparators, the instructions issued so far with the row counters at each, and whether END was met. -/
structure Walk where
  x : Stream := {}
  out : List (Nat × StreamWord × List Nat) := []
  ended : Bool := false

/-- The walk over a stretch of an image; `fuel` is its length. -/
def walkOps : Nat → List (Nat × StreamWord) → Walk → Walk
  | 0, _, w => w
  | _, [], w => w
  | fuel + 1, (op, v) :: rest, w =>
    if w.ended then w
    else
      let w := { w with out := w.out ++ [(op, v, w.x.rowList)] }
      let c := v.mode.toNat
      let n := v.imm.toNat
      match op with
      | 0x0F => { w with ended := true }
      | 0x01 =>
        let body := fun (w : Walk) (k : Nat) => walkOps fuel (rest.take n) { w with x := { w.x.setRow (c % 8) k with lastCount := Tab.set (fun _ => 0) w.x.lastCount (c % 8) v.count.toNat } }
        walkOps fuel (rest.drop n) ((List.range v.count.toNat).foldl body w)
      | 0x02 => walkOps fuel rest { w with x := w.x.bindComparator v }
      | 0x03 => walkOps fuel (if w.x.compare (c % 4) != v.mode.getLsbD 2 then rest else rest.drop v.count.toNat) w
      | _ => walkOps fuel rest w

/-- The instructions that an image issues, in turn. -/
def issuesOf (img : List (BitVec 64)) : List (Nat × StreamWord × List Nat) :=
  (walkOps img.length (img.map (fun x => (wordOpcode x, wordOf x))) {}).out

/-- A rank's table as the tile holds it. -/
def rankTable (entries : List (BitVec 512)) (extra : List (Nat × BitVec 512)) : Tab (BitVec 512) :=
  ((entries.zipIdx).map (fun (x : BitVec 512 × Nat) => (x.2, x.1)) ++ extra).foldl (fun m (x : Nat × BitVec 512) => Tab.set (fun _ => 0) m x.1 x.2) []

/-- An entry of a table, and the tensor descriptor at it. -/
def tabEntry (m : Tab (BitVec 512)) (i : Nat) : Nat := (Tab.get (fun _ => 0) m i).toNat
def tabTensor (m : Tab (BitVec 512)) (i : Nat) : TDesc := tdesc (tabEntry m i + tabEntry m (i + 1) * 2 ^ 512)

/-- The feed records that an instruction of the FEED stream names: record, line count, and whether it is a destination. -/
def feedsOf (tab : Tab (BitVec 512)) (op : Nat) (w : StreamWord) : List (FeedRec × Nat × Bool) :=
  let r := fun i => feedRec (tabEntry tab i)
  let n := w.count.toNat
  match op with
  | 0x20 => [(r w.imm.toNat, n, false)]
  | 0x21 => [(r w.imm.toNat, n, true)]
  | 0x22 => [(r w.imm.toNat, n, false), (r (w.imm.toNat + 1), n, true)]
  | _ => []

/-- A transfer through a tensor descriptor: the rank that issues it, the descriptor, the row counters as it issues, and what it does. -/
structure Transfer where
  rank : Nat
  t : TDesc
  rows : List Nat
  dest : Bool
  stash : Bool
deriving DecidableEq, Repr

/-- The transfers of a pattern that walk tensor descriptors, one for each issue. -/
def CustomPlan.transfers (pl : CustomPlan) : List Transfer :=
  let issues := issuesOf (pl.images.headD [])
  (pl.tables.zipIdx).flatMap (fun (tab, rank) =>
    let m := rankTable tab []
    issues.flatMap (fun (op, w, rows) => (feedsOf m op w).filterMap (fun (r, _, d) =>
      if r.tdesc = 0xFFFF then none else some ⟨rank, tabTensor m r.tdesc, rows, d, decide (r.space = 1)⟩)))

/-- Do two transfers of one op keep apart (R245): a store's owned region and a load's window? Windows of a stash slice meet only in the slice of one tile. -/
def Transfer.apart (u v : Transfer) : Bool :=
  decide (u.dest = v.dest) || decide (u.stash ≠ v.stash) || (u.stash && decide (u.rank ≠ v.rank)) ||
  (let (ld, st) := if u.dest then (v, u) else (u, v)
   overlapOk (ld.t.placed ld.rows) (st.t.placed st.rows) true false)

def engMem (access : Nat) : Except MemErr (List Byte) → Eng (List Byte)
  | .ok bs => pure bs
  | .error e => fun s => .error (.mem access e) s
def engStore (access : Nat) (r : State → Except XFault State) : Eng Unit := fun s =>
  match r s with
  | .ok s' => .ok () s'
  | .error f => .error (.mem access (.fault f)) s

/-- Writes of feeders into device space; those into a send region are carried to its peer (R414). -/
def engFeed (p : Nat) (unit : Option Nat) (runs : List (Nat × List Byte)) : Eng Unit := do
  engStore 2 (fun s => s.writeRuns p runs unit)
  engPut (fun s => s.mirror p runs)

/-- A row of units as whole 64-byte lines, padded with zeros (R239). -/
def rowLines (ty : Nat) (r : List Nat) : List Byte :=
  let n := unitBits ty * r.length / 8
  let full := (n + 63) / 64 * 64
  leBytes full (packBits (unitBits ty) r)

/-- The units of a row from its packed lines. -/
def lineUnits (ty n : Nat) (bs : List Byte) : List Nat := unpackBits (unitBits ty) n (leNat bs)

/-- Writes of the feeders into the slice; a line written whole has no error any more (R216). -/
def Tile.stashPut (v : Tile) (runs : List (Nat × List Byte)) : Tile :=
  runs.foldl (fun v (a, b) => { v with
    stash := putBytes v.stash a b
    stashBad := v.stashBad.filter (fun l => !(wholeLines a b.length).contains l)
    stashWrote := v.stashWrote ++ (linesOf a b.length).filter (fun l => !v.stashWrote.contains l) }) v

/-- Bytes of a stash slice, as a byte source. -/
def stashSource (m : Tab Byte) (a n : Nat) : Except MemErr (List Byte) := .ok (getBytes m a n)

/-- The bytes that a source record delivers, in whole lines. -/
def sourceLines (x : Seat) (r : FeedRec) (rows : List Nat) (count : Nat) : Eng (List Byte) := do
  let s ← engGet
  if r.tdesc = 0xFFFF then
    if r.space = 1 then
      match (List.range count).mapM (r.stashLine rows) with
      | some ls => return ls.flatMap (fun l => getBytes (s.tile x.t).stash (64 * l) 64)
      | none => engFault .bounds
    else
      engMem 1 ((List.range count).foldl (fun acc i =>
        match acc with
        | .error e => .error e
        | .ok bs => match s.readVA x.p (r.lineVa rows i) 64 x.die with
          | .error e => .error e
          | .ok b => .ok (bs ++ b)) (.ok []))
  else
    let d := (s.tile x.t).tdescAt r.tdesc
    engAssert (d.boundsOk rows false (decide (r.space = 1))) .bounds
    let rd := if r.space = 1 then stashSource (s.tile x.t).stash else (fun a n => s.readVA x.p a n x.die)
    match d.readRows rd rows false with
    | .error e => fun s => .error (.mem 1 e) s
    | .ok vals =>
      engAssert (s.residuesOk x.p d rows false vals) .operandPoisoned
      return vals.flatMap (rowLines d.ty)

/-- One combined element (R224); `old` and `v` as bit patterns. -/
def combineEl (fn q old v : Nat) : Nat :=
  match fn with
  | 1 => addMod q (old % 2 ^ 36 % q) (v % q)
  | 2 => (old + v) % 2 ^ 32
  | 3 => (old + v) % 2 ^ 64
  | 4 => if signed 32 old ≤ signed 32 v then old else v
  | _ => if signed 32 old ≤ signed 32 v then v else old

/-- The identity of a combine function (R224). -/
def combineId (fn : Nat) : Nat :=
  match fn with
  | 4 => 2 ^ 31 - 1
  | 5 => 2 ^ 31
  | _ => 0

/-- Combine a run of elements into memory, each line of them at its home (R222, R224). A line that is uncorrectable ends the op and is not changed. -/
def State.combineRun (s : State) (p : Nat) (fn q w a : Nat) (vals : List Nat) (unit : Option Nat := none) : Except MemErr State :=
  let n := w / 8 * vals.length
  match s.xlateWrite p a (List.replicate n 0) .combine unit with
  | .error f => .error (.fault f)
  | .ok ps =>
    match ps.find? (fun x => s.lineBad (x.1 / 64) && !s.cacheHit p (s.homeOf p x.1) (x.1 / 64)) with
    | some x => .error (.bad x.1 a)
    | none =>
      (ps.foldl (fun (acc : Except MemErr (State × List Nat)) x =>
        match acc with
        | .error e => .error e
        | .ok (s, vs) =>
          let k := x.2.length / (w / 8)
          match s.atHome p x.1 a x.2.length (fun bs => leBytes x.2.length (packBits w (List.zipWith (combineEl fn q) (unpackBits w k (leNat bs)) (vs.take k)))) with
          | .error e => .error e
          | .ok s => .ok (s, vs.drop k)) (.ok (s, vals))).map (·.1)

/-- The rows of a window from the packed lines that a store takes. -/
def TDesc.unpackRows (d : TDesc) (rows : List Nat) (bs : List Byte) : List (List Nat) :=
  let n := (d.d 0).own / unitEls d.ty
  let len := (rowBytes d.ty (d.d 0).own + 63) / 64 * 64
  (chunksOf len (d.outer (fun t k => t.ownRange rows k)).length bs).map (lineUnits d.ty n)

/-- The homes of the lines of a descriptor's owned region, as far as they translate. -/
def State.regionHomes (s : State) (p : Nat) (d : TDesc) (rows : List Nat) (unit : Option Nat := none) : List Nat :=
  ((d.outer (fun t k => t.ownRange rows k)).flatMap (fun o => pieces (d.base + d.rowOff o + rowBytes d.ty (d.origin rows 0)) (rowBytes d.ty (d.d 0).own))).filterMap (fun (a, _) =>
    match s.xlate p a .combine unit with
    | .ok pa => some (s.homeOf p pa)
    | .error _ => none)

/-- Combine the owned region of a descriptor. -/
def combineStore (x : Seat) (d : TDesc) (rows : List Nat) (vals : List (List Nat)) : Eng Unit := fun s =>
  let os := d.outer (fun t k => t.ownRange rows k)
  let r := (os.zip vals).foldl (fun (acc : Except MemErr State) (o, v) =>
    match acc with
    | .error e => .error e
    | .ok s =>
      let q := (s.prime x.p d.chain (d.entryAt (o.getD 0 0).toNat)).q
      s.combineRun x.p d.combine q (unitBits d.ty) (d.base + d.rowOff o + rowBytes d.ty (d.origin rows 0)) v x.die) (.ok s)
  match r with
  | .ok s' => .ok () s'
  | .error e => .error (.mem 3 e) s

/-- The digest of a tile's part covers what it has stored (R361): the last value at an address, and of what it has combined into one the sum, which no order changes. -/
def wroteAt (x : Seat) (rs : List (Nat × List Byte)) : Eng Unit := engPut (fun s => s.updTile x.t (fun v => { v with wrote := rs.foldl (fun m (a, bs) => putBytes m a bs) v.wrote }))
def addedAt (x : Seat) (rs : List (Nat × List Byte)) : Eng Unit := engPut (fun s => s.updTile x.t (fun v => { v with
  wrote := rs.foldl (fun m (a, bs) => putBytes m a (List.zipWith (· + ·) (getBytes m a bs.length) bs)) v.wrote }))

/-- Store whole lines where a destination record says (R196, R239, R242). -/
def destLines (x : Seat) (r : FeedRec) (rows : List Nat) (bs : List Byte) : Eng Unit := do
  let s ← engGet
  let count := bs.length / 64
  if r.tdesc = 0xFFFF then
    if r.space = 1 then
      match (List.range count).mapM (r.stashLine rows) with
      | some ls => engPut (fun s => s.updTile x.t (fun v =>
          v.stashPut ((ls.zip (chunksOf 64 count bs)).map (fun (l, b) => (64 * l, b)))))
      | none => engFault .bounds
    else
      let ls := (List.range count).map (fun i => (r.lineVa rows i, (bs.drop (64 * i)).take 64))
      engFeed x.p x.die ls
      wroteAt x ls
  else
    let d := (s.tile x.t).tdescAt r.tdesc
    engAssert (d.boundsOk rows true (decide (r.space = 1))) .bounds
    let vals := d.unpackRows rows bs
    if d.combine ≠ 0 ∧ r.space = 0 then
      if !(s.regionHomes x.p d rows x.die).all (fun h => (s.site h).works) then engStall .none
      combineStore x d rows vals
      addedAt x (d.ownRuns rows vals)
    else if r.space = 1 then
      engPut (fun s => s.updTile x.t (fun v => v.stashPut (d.ownRuns rows vals)))
    else
      engFeed x.p x.die (d.ownRuns rows vals)
      wroteAt x (d.ownRuns rows vals)

/-- Read whole lines from a consumer slot, and write them into a producer slot (R190). -/
def slotRead (t q count : Nat) : Eng (List Byte) := do
  engPut (fun s => s.updQueue t q (fun v => { v with consOff := lineUp v.consOff }))
  let a ← consAddr t q (512 * count)
  spadReach t (a / 512) (a / 512 + count)
  let s ← engGet
  consMove t q (512 * count)
  return getBytes (s.tile t).scratch (a / 8) (64 * count)
def slotWrite (t q : Nat) (bs : List Byte) : Eng Unit := do
  engPut (fun s => s.updQueue t q (fun v => { v with prodOff := lineUp v.prodOff }))
  let n := bs.length / 64
  let a ← prodAddr t q (512 * n)
  spadReach t (a / 512) (a / 512 + n)
  engPut (fun s => s.updTile t (fun v => { v with scratch := putBytes v.scratch (a / 8) bs }))
  prodMove t q (512 * n)

/-- What a feeder does for one command (R195); the bytes it moves are counted in whole lines (R398). -/
def feedWork (x : Seat) (op : Nat) (w : StreamWord) (rows : List Nat) : Eng Unit := do
  let count := w.count.toNat
  let r := feedRec (← descAt x w.imm.toNat)
  match op with
  | 0x20 =>
    let bs ← sourceLines x r rows count
    slotWrite x.t w.out.toNat bs
    engCount x.p (if r.space = 1 then 0x22 else 0x20) bs.length
  | 0x21 =>
    let bs ← slotRead x.t w.inA.toNat count
    destLines x r rows bs
    engCount x.p (if r.space = 1 then 0x22 else 0x21) bs.length
  | 0x22 =>
    let bs ← sourceLines x r rows count
    let d := feedRec (← descAt x (w.imm.toNat + 1))
    destLines x d rows bs
    if r.space ≠ 1 then engCount x.p 0x20 bs.length
    if d.space ≠ 1 then engCount x.p 0x21 bs.length
  | 0x23 =>
    let c ← descAt x w.imm.toNat
    slotWrite x.t w.out.toNat ((List.replicate (16 * count) (leBytes 4 (nbits c 31 0))).flatten)
  | _ =>
    let bs ← slotRead x.t w.inA.toNat count
    slotWrite x.t w.out.toNat bs
  if flag w 0 then release x.t w.inA.toNat
  if flag w 1 then commit x.t w.out.toNat

/-- Steps 4 and 5 of R249 for the window of a feed record, made again when a transfer issues whose window a row counter moves. -/
def issueBounds (x : Seat) (rows : List Nat) (r : FeedRec) (dest : Bool) : Eng Unit := do
  let s ← engGet
  let d := (s.tile x.t).tdescAt r.tdesc
  if r.tdesc = 0xFFFF then return ()
  engAssert (d.boundsOk rows dest (decide (r.space = 1))) .bounds
  if d.moves then
    let me : Transfer := ⟨x.rank, d, rows, dest, decide (r.space = 1)⟩
    engAssert ((s.op? x.o).all (fun o => o.2.plan.all (fun pl => pl.transfers.all me.apart))) .overlap

/-- Place a transfer in the queue of the feeder that `MODE` names, with the row counters as they stand (R195, R202). -/
def State.feedIssue (s : State) (t op : Nat) (w : StreamWord) : State :=
  s.issue t 0 op w (fun x => do
    let s ← engGet
    let f := w.mode.toNat % 4
    if 16 ≤ ((s.tile t).feeder f).length then engStall (.feeder [f])
    let rows := (s.stream t 0).rowList
    if op = 0x20 ∨ op = 0x22 then issueBounds x rows (feedRec (← descAt x w.imm.toNat)) false
    if op = 0x21 then issueBounds x rows (feedRec (← descAt x w.imm.toNat)) true
    if op = 0x22 then issueBounds x rows (feedRec (← descAt x (w.imm.toNat + 1))) true
    engPut (fun s => s.updTile x.t (fun v => v.setFeeder f (v.feeder f ++ [.transfer (BitVec.ofNat 8 op) w rows]))))

def execFload (t : Fin 576) (w : StreamWord) (s : State) : Host.Outcome State Fault Refusal := .next (s.feedIssue t 0x20 w)
def execFstore (t : Fin 576) (w : StreamWord) (s : State) : Host.Outcome State Fault Refusal := .next (s.feedIssue t 0x21 w)
def execFmove (t : Fin 576) (w : StreamWord) (s : State) : Host.Outcome State Fault Refusal := .next (s.feedIssue t 0x22 w)
def execSpfill (t : Fin 576) (w : StreamWord) (s : State) : Host.Outcome State Fault Refusal := .next (s.feedIssue t 0x23 w)
def execSpcopy (t : Fin 576) (w : StreamWord) (s : State) : Host.Outcome State Fault Refusal := .next (s.feedIssue t 0x24 w)

/-- FEEDER_TRANSFER_DONE (R202): the transfer at the head of a feeder's queue completes. It waits while its slot is not
available, and while it finds no entry of the tracker free (R27); a marker at the head waits for its post. -/
def State.feederDone (s : State) (t f : Nat) : State :=
  if s.feederWaits t f && !(s.tile t).sent.contains f then s
  else match (s.tile t).feeder f, s.feedSeat? t f with
  | .transfer op w rows :: rest, some x =>
    match atomically (feedWork x op.toNat w rows) s with
    | .ok _ s' => (s'.updTile t (fun v => { v.setFeeder f rest with sent := v.sent.filter (· ≠ f) })).settleTile t
    | .error (.stall _) s' => s'
    | .error h s' => (s'.updTile t (fun v => { v.setFeeder f rest with sent := v.sent.filter (· ≠ f) })).halted x h
  | _, _ => s

def execFeederTransferDone (t : Fin 576) (f : Fin 4) (s : State) : Host.Outcome State Fault Refusal := .next (s.feederDone t f)

/-- Could a feeder's head transfer run now, so that it counts as in flight (R208)? -/
def State.feederBusy (s : State) (t f : Nat) : Bool :=
  match (s.tile t).feeder f, s.feedSeat? t f with
  | .transfer op w rows :: _, some x => match atomically (feedWork x op.toNat w rows) s with
    | .error (.stall _) _ => false
    | _ => true
  | _, _ => false

/-- DEADLOCK_TIMEOUT (R208): every running stream of the op stands at a wait, nothing is in flight, and no commit or release of a slot is about to take effect (R191). -/
def State.deadlocked (s : State) (r : OpRec) : Bool :=
  r.tiles.all (fun t =>
    let x := s.tile t
    (List.range 6).all (fun k =>
      !(x.stream k).running || (match (x.stream k).stall with
        | .freeSlot _ | .committedSlot _ | .direct _ => !s.stallOver t k
        | .sem => match (x.stream k).wait with
          | some (pair, free, n) => decide (s.semCount t pair free < n)
          | none => true
        | _ => false)) &&
    x.queues.all (fun q => decide (q.2.commitDue = 0) && decide (q.2.releaseDue = 0)) && !(x.posts.any x.postDue) && x.exchangeDue.isNone && (List.range 4).all (fun f => !s.feederBusy t f)) &&
  r.tiles.any (fun t => !(s.tile t).partOver)

def execDeadlockTimeout (o : OpRef) (s : State) : Host.Outcome State Fault Refusal :=
  .next (match s.op? o with
    | some (_, r) => if r.phase = .running ∧ !r.halted ∧ s.power.ref ≠ .stopped ∧ s.power.state = .m0 ∧ s.deadlocked r then s.endNow o .descMalformed none else s
    | none => s)

end Sys2Proof.Machine
end

