-- ==== Sys2Proof/Machine/Fp32.lean ====
section
/-! DEFINITION. IEEE 754 binary32 as the vector engine runs it: round to nearest even, subnormals kept, one quiet NaN (R161, R162, R175). -/
namespace Sys2Proof.Machine

/-- A binary32 value as its 32 bits. -/
abbrev F32 := Nat

def qNaN : F32 := 0x7FC00000
def f32Inf (neg : Bool) : F32 := if neg then 0xFF800000 else 0x7F800000
def f32Zero (neg : Bool) : F32 := if neg then 0x80000000 else 0

def f32Neg (x : F32) : Bool := decide (nbits x 31 31 = 1)
def f32Exp (x : F32) : Nat := nbits x 30 23
def f32Man (x : F32) : Nat := nbits x 22 0
def f32IsNaN (x : F32) : Bool := decide (f32Exp x = 255) && decide (f32Man x ≠ 0)
def f32IsInf (x : F32) : Bool := decide (f32Exp x = 255) && decide (f32Man x = 0)
def f32IsZero (x : F32) : Bool := decide (f32Exp x = 0) && decide (f32Man x = 0)

/-- The integer significand and the exponent of a finite value: value = m · 2^e. -/
def f32Sig (x : F32) : Nat := if f32Exp x = 0 then f32Man x else f32Man x + 2 ^ 23
def f32Pow (x : F32) : Int := if f32Exp x = 0 then -149 else (f32Exp x : Int) - 150

/-- Round (m + a positive fraction when `sticky`) · 2^e to nearest, ties to even. With `sticky`, `m` has more than 25 bits. -/
def f32Round (neg : Bool) (m : Nat) (e : Int) (sticky : Bool) : F32 :=
  if m = 0 ∧ !sticky then f32Zero neg
  else
    let l : Int := (bitLength m : Nat)
    let t := max (e + l - 24) (-149)
    let q : Nat := if t ≤ e then m * 2 ^ (e - t).toNat
      else
        let s := (t - e).toNat
        let q := m / 2 ^ s
        let r := m % 2 ^ s
        if 2 ^ s < 2 * r ∨ (2 ^ s = 2 * r ∧ (sticky ∨ q % 2 = 1)) then q + 1 else q
    let t := if q = 2 ^ 24 then t + 1 else t
    let q := if q = 2 ^ 24 then 2 ^ 23 else q
    let f := t + 150
    if 255 ≤ f then f32Inf neg
    else (if neg then 2 ^ 31 else 0) + (f - 1).toNat * 2 ^ 23 + q

/-- Addition. -/
def f32Add (a b : F32) : F32 :=
  if f32IsNaN a ∨ f32IsNaN b then qNaN
  else if f32IsInf a then (if f32IsInf b ∧ f32Neg a ≠ f32Neg b then qNaN else a)
  else if f32IsInf b then b
  else
    let e := min (f32Pow a) (f32Pow b)
    let va : Int := (f32Sig a * 2 ^ (f32Pow a - e).toNat : Nat)
    let vb : Int := (f32Sig b * 2 ^ (f32Pow b - e).toNat : Nat)
    let v := (if f32Neg a then -va else va) + (if f32Neg b then -vb else vb)
    if v = 0 then f32Zero (f32Neg a && f32Neg b) else f32Round (decide (v < 0)) v.natAbs e false

/-- Negation of the sign bit, and subtraction. -/
def f32Flip (a : F32) : F32 := if f32Neg a then a - 2 ^ 31 else a + 2 ^ 31
def f32Sub (a b : F32) : F32 := f32Add a (f32Flip b)

/-- Multiplication. -/
def f32Mul (a b : F32) : F32 :=
  let neg := decide (f32Neg a ≠ f32Neg b)
  if f32IsNaN a ∨ f32IsNaN b then qNaN
  else if f32IsInf a ∨ f32IsInf b then (if f32IsZero a ∨ f32IsZero b then qNaN else f32Inf neg)
  else f32Round neg (f32Sig a * f32Sig b) (f32Pow a + f32Pow b) false

/-- Division, correctly rounded. -/
def f32Div (a b : F32) : F32 :=
  let neg := decide (f32Neg a ≠ f32Neg b)
  if f32IsNaN a ∨ f32IsNaN b then qNaN
  else if f32IsInf a then (if f32IsInf b then qNaN else f32Inf neg)
  else if f32IsInf b then f32Zero neg
  else if f32IsZero b then (if f32IsZero a then qNaN else f32Inf neg)
  else if f32IsZero a then f32Zero neg
  else f32Round neg (f32Sig a * 2 ^ 64 / f32Sig b) (f32Pow a - f32Pow b - 64) (decide (f32Sig a * 2 ^ 64 % f32Sig b ≠ 0))

/-- The integer square root, bit by bit from bit `k - 1`. -/
def isqrtFrom (x : Nat) : Nat → Nat → Nat
  | 0, r => r
  | k + 1, r => let r1 := r + 2 ^ k; if r1 * r1 ≤ x then isqrtFrom x k r1 else isqrtFrom x k r

/-- Square root, correctly rounded. -/
def f32Sqrt (a : F32) : F32 :=
  if f32IsNaN a then qNaN
  else if f32IsZero a then a
  else if f32Neg a then qNaN
  else if f32IsInf a then a
  else
    let odd := decide (f32Pow a % 2 ≠ 0)
    let m := (if odd then 2 * f32Sig a else f32Sig a) * 2 ^ 64
    let e := (if odd then f32Pow a - 1 else f32Pow a) - 64
    let r := isqrtFrom m 48 0
    f32Round false r (e / 2) (decide (r * r ≠ m))

/-- An integer as binary32, rounded to nearest even. -/
def f32OfInt (v : Int) : F32 := f32Round (decide (v < 0)) v.natAbs 0 false

/-- A finite value rounded to the nearest integer, ties to even. -/
def f32RoundEven (x : F32) : Int :=
  let m : Int := f32Sig x
  let v := if f32Neg x then -m else m
  if 0 ≤ f32Pow x then v * (2 ^ (f32Pow x).toNat : Nat) else rnd v (-(f32Pow x)).toNat

/-- sat_F of a binary32 value, with the SATURATED flag (R162): a NaN gives 0 and sets it. -/
def f32ToInt (w : Nat) (x : F32) : Int × Bool :=
  if f32IsNaN x then (0, true)
  else if f32IsInf x then (if f32Neg x then -(2 ^ (w - 1) : Nat) else (2 ^ (w - 1) : Nat) - 1, true)
  else satW w (f32RoundEven x)

/-- The position of a value in the total order of R175. -/
def f32Key (x : F32) : Int := if f32Neg x then -(x - 2 ^ 31 : Nat) - 1 else (x : Int)

def f32Max (a b : F32) : F32 := if f32IsNaN a ∨ f32IsNaN b then qNaN else if f32Key a ≤ f32Key b then b else a
def f32Min (a b : F32) : F32 := if f32IsNaN a ∨ f32IsNaN b then qNaN else if f32Key a ≤ f32Key b then a else b

end Sys2Proof.Machine
end

