-- ==== Sys2Proof/Machine/NttStream.lean ====
section
/-! DEFINITION. Transforms on the active bank with their twiddle tables (R81, R85 to R87), and the NTT and CABLE streams (R197, R198, R89 to R97). -/
namespace Sys2Proof.Machine

/-! ### Twiddle tables -/

/-- Why a transform fails at its twiddle table (R86). -/
inductive TwFail where
  | mem (e : MemErr)
  | badWord
deriving DecidableEq, Repr

/-- The words that a table of entry `e` should hold: forward, or inverse twiddles. -/
def twiddleWords (q omega n : Nat) (fwd : Bool) : List Nat :=
  (List.range (2 ^ n)).map (fun k =>
    if fwd then powMod q omega (brv n k) else powMod q omega ((2 * 2 ^ n - brv n k) % (2 * 2 ^ n)))

/-- The half of a twiddle table that a transform on tile `t` reads through the tile's narrow path (R86, R221), checked word by word: does it match `OMEGA`? All
N words of the half are read and checked, word 0 included, which no butterfly needs (DESIGN CHOICE, log entry 93). -/
def State.twiddles (s : State) (p t : Nat) (e : PrimeEntry) (n : Nat) (fwd : Bool) : Except TwFail (Bool × State) :=
  if e.twPtr = 0 then .ok (true, s)
  else match s.narrowRead p t (e.twPtr + (if fwd then 0 else 8 * 2 ^ n)) (8 * 2 ^ n) with
    | .error x => .error (.mem x)
    | .ok (bs, s) =>
      let ws := (chunksOf 8 (2 ^ n) bs).map leNat
      if ws.all (fun w => decide (w < e.q)) then .ok (decide (ws = twiddleWords e.q e.omega n fwd), s) else .error .badWord

/-- A transform on tile `t` of a limb of prime entry `e`. A table that does not match `OMEGA` gives unspecified residues (R87). -/
def State.transform (s : State) (p t : Nat) (e : PrimeEntry) (n : Nat) (fwd : Bool) (xs : List Nat) : Except TwFail (List Nat × State) :=
  match s.twiddles p t e n fwd with
  | .error f => .error f
  | .ok (true, s) => .ok (if fwd then nttForward e.q e.omega n xs else nttInverse e.q e.omega e.nInv n xs, s)
  | .ok (false, s) => .ok (s.drawBelow e.q (2 ^ n))

/-! ### Records -/

/-- An NTT record (R197). -/
structure NttRec where
  base : Nat
  step : Nat
  rc : Nat
  rcEn : Bool
  chain : Nat
  log2N : Nat
  e : Nat
deriving DecidableEq, Repr

def nttRec (x : Nat) : NttRec :=
  { base := nbits x 6 0, step := nbits x 14 8, rc := nbits x 18 16, rcEn := decide (nbits x 19 19 = 1), chain := nbits x 27 24,
    log2N := nbits x 36 32, e := nbits x 45 40 }

/-- Reserved bits and ranges of an NTT record; `E` stands only for FFTE. -/
def nttRecOk (x : Nat) (ffte : Bool) : Bool :=
  decide (nbits x 7 7 = 0) && decide (nbits x 15 15 = 0) && decide (nbits x 23 20 = 0) && decide (nbits x 31 28 = 0) &&
  decide (nbits x 39 37 = 0) && decide (nbits x 511 46 = 0) && decide (nbits x 6 0 ≤ 79) && decide (nbits x 14 8 ≤ 79) &&
  (if ffte then decide (nbits x 45 40 ≤ 40) else decide (nbits x 45 40 = 0))

/-- A cable record (R198). -/
structure CableRec where
  galois : Nat
  log2N : Nat
  base : Nat
  t : Nat
  rank : Nat
  line : Nat
  sem : Nat
  rows : Nat
  cols : Nat
  rowLines : Nat
deriving DecidableEq, Repr

def cableRec (x : Nat) : CableRec :=
  { galois := nbits x 17 0, log2N := nbits x 22 18, base := nbits x 29 23, t := nbits x 36 30, rank := nbits x 42 37,
    line := nbits x 58 43, sem := nbits x 63 59, rows := nbits x 67 64, cols := nbits x 71 68, rowLines := nbits x 87 72 }

/-- Reserved bits and ranges of a cable record for an opcode (R92, R93, R96, R198). -/
def cableRecOk (x op : Nat) : Bool :=
  let r := cableRec x
  decide (nbits x 511 88 = 0) && decide (r.base ≤ 79) &&
  (if op = 0x41 ∨ op = 0x42 then decide (10 ≤ r.log2N ∧ r.log2N ≤ 17) && decide (r.galois % 2 = 1) && decide (r.galois < 2 * 2 ^ r.log2N) else true) &&
  (if op = 0x45 then decide (r.rows + r.cols ≤ 14) else true) &&
  (if op = 0x46 then decide (r.t ∈ [2, 4, 8, 16, 32, 64]) && decide (r.rank < r.t) else true)

/-- The active prime entry of a chain slot, if the entry is part of the chain (R81). -/
def State.entry? (s : State) (p c e : Nat) : Option PrimeEntry :=
  match s.chain? p c with
  | some h => if h.has e then some (s.prime p c e) else none
  | none => none

/-- The chain slot of an op: that of its first ciphertext operand. -/
def State.opChain (s : State) (o : OpRef) : Option Nat :=
  match s.op? o with
  | some (_, r) => if hValid r.hdrA then some (hChain r.hdrA) else none
  | none => none

def engEntry (p c e : Nat) : Eng PrimeEntry := do
  let s ← engGet
  match s.entry? p c e with
  | some x => return x
  | none => engFault .descMalformed

/-- The type of a queue end, and the demand that it carries residues. -/
def engType (t q : Nat) : Eng Nat := do
  let s ← engGet
  return (s.qcfgAct t q).ty
def needResidue (t q : Nat) : Eng Unit := do engAssert (decide ((← engType t q) ≤ 1)) .descMalformed

/-- Set the SATURATED flag of an op (R13). -/
def markSat (o : OpRef) (b : Bool) : Eng Unit :=
  if b then engPut (fun s => s.updOp o (fun r => { r with saturated := true })) else pure ()

/-! ### NTT (R197) -/

/-- A transform of the NTT engine, its products checked (R68). One that reads a table stalls while the tile's tracker is full (R27, R86); a bad word of the table marks no header (R86). -/
def engTransform (p t : Nat) (e : PrimeEntry) (n : Nat) (fwd : Bool) (xs : List Nat) : Eng (List Nat) := fun s =>
  if e.twPtr ≠ 0 ∧ s.trackerFull t then .error (.stall .tracker) s
  else match s.transform p t e n fwd xs with
  | .ok (ys, s') => if nttChecks e.q e.check e.omega e.nInv n fwd xs then .ok ys s' else .error (.stall .residue) s
  | .error (.mem m) => .error (.mem 4 m) s
  | .error .badWord => .error .unowned s

/-- The prime entry of limb `i` of an NTT instruction. -/
def NttRec.entryOf (r : NttRec) (st : Stream) (i : Nat) : Nat := r.base + r.step * (i + (if r.rcEn then st.row r.rc else 0))

/-- NTTF and NTTI: each limb takes one slot at either end, or leaves by a direct queue (R188). -/
def nttWork (w : StreamWord) (fwd : Bool) (x : Seat) : Eng Unit := do
  let a := w.inA.toNat
  let o := w.out.toNat
  needResidue x.t a
  needResidue x.t o
  let r := nttRec (← descAt x w.imm.toNat)
  let st := (← engGet).stream x.t x.k
  allUnits x w.count.toNat (some o) (fun _ => pure ()) (fun i => do
    let e ← engEntry x.p r.chain (r.entryOf st i)
    let xs ← readEnd x a (2 ^ r.log2N)
    engAssert (xs.all (fun v => decide (v < e.q))) .operandPoisoned
    let ys ← engTransform x.p x.t e r.log2N fwd xs
    writeEnd x o ys
    if flag w 0 then release x.t a
    if flag w 1 then commit x.t o)

/-- FFTE: the complex inputs are read for each limb, and their slot is released after the last. Only bits [35:0] of an input word count here: where bits [63:36]
do not copy bit 35, ENCODE ends with OPERAND_POISONED (R288), and for FFTE the spec gives no outcome (DESIGN CHOICE, log entry 94). -/
def ffteWork (w : StreamWord) (x : Seat) : Eng Unit := do
  let a := w.inA.toNat
  let o := w.out.toNat
  engAssert (decide ((← engType x.t a) = 1)) .descMalformed
  needResidue x.t o
  let r := nttRec (← descAt x w.imm.toNat)
  let st := (← engGet).stream x.t x.k
  allUnits x w.count.toNat (some o) (fun _ => pure ()) (fun i => do
    let e ← engEntry x.p r.chain (r.entryOf st i)
    engPut (fun s => s.updQueue x.t a (fun v => { v with consOff := 0 }))
    let xs ← readEnd x a (2 ^ r.log2N)
    let z := (List.range (2 ^ (r.log2N - 1))).map (fun j => (cplxPart (el xs (2 * j)), cplxPart (el xs (2 * j + 1))))
    let (v, sat) := fftIntegers r.log2N r.e z
    writeEnd x o (v.map (toMod e.q))
    markSat x.o sat
    if flag w 0 ∧ i + 1 = w.count.toNat then release x.t a
    if flag w 1 then commit x.t o)

def execNttf (t : Fin 576) (w : StreamWord) (s : State) : Host.Outcome State Fault Refusal := .next (s.issue t 1 0x30 w (nttWork w true))
def execNtti (t : Fin 576) (w : StreamWord) (s : State) : Host.Outcome State Fault Refusal := .next (s.issue t 1 0x31 w (nttWork w false))
def execFfte (t : Fin 576) (w : StreamWord) (s : State) : Host.Outcome State Fault Refusal := .next (s.issue t 1 0x32 w (ffteWork w))

/-! ### CABLE (R198) -/

/-- Release and commit of a whole instruction. -/
def finish (x : Seat) (w : StreamWord) : Eng Unit := do
  if flag w 0 then release x.t w.inA.toNat
  if flag w 1 then commit x.t w.out.toNat

/-- CCOPY: groups of 128 elements; between direct queues they move as they come. -/
def ccopyWork (w : StreamWord) (x : Seat) : Eng Unit := do
  let a := w.inA.toNat
  let o := w.out.toNat
  engAssert (decide ((← engType x.t a) = (← engType x.t o))) .descMalformed
  allUnits x w.count.toNat (some o) (fun _ => takeDirect x a 128 false) (fun i => do
    let xs ← readEnd x a 128
    writeEnd x o xs
    if i + 1 = w.count.toNat then finish x w)

/-- CAUTE and CAUTC: one limb a unit. -/
def cautWork (w : StreamWord) (eval : Bool) (x : Seat) : Eng Unit := do
  let a := w.inA.toNat
  let o := w.out.toNat
  needResidue x.t a
  needResidue x.t o
  let r := cableRec (← descAt x w.imm.toNat)
  allUnits x w.count.toNat (some o) (fun _ => takeDirect x a (2 ^ r.log2N) false) (fun i => do
    let xs ← readEnd x a (2 ^ r.log2N)
    if eval then writeEnd x o (autoEval r.log2N r.galois xs)
    else
      match (← engGet).opChain x.o with
      | some c =>
        let e ← engEntry x.p c (r.base + i)
        engAssert (xs.all (fun v => decide (v < e.q))) .operandPoisoned
        writeEnd x o (autoCoef e.q r.log2N r.galois xs)
      | none =>  -- no operand names a chain: the modulus of the negation is open
        let q := 2 ^ 20 + (← engDraw) % (2 ^ 35 - 2 ^ 20)
        writeEnd x o (autoCoef q r.log2N r.galois xs)
    finish x w)

/-- The elements of the slot at a consumer end, its extent (R94). -/
def slotElements (x : Seat) (q : Nat) : Eng Nat := do
  let c := (← engGet).qcfgAct x.t q
  return c.slotBits / typeBits c.ty

/-- The 32-bit list entries at a consumer end; a queue of another TYPE than INT32 ends the op with DESC_MALFORMED (DESIGN CHOICE, log entry 135). -/
def listEntries (x : Seat) (q n : Nat) : Eng (List Nat) := do
  engAssert (decide ((← engType x.t q) = 4)) .descMalformed
  readEnd x q n true

/-- Read the whole slot at the consumer end from offset 0. -/
def wholeSlot (x : Seat) (q n : Nat) : Eng (List Nat) := do
  if !((← engGet).qcfgAct x.t q).direct then engPut (fun s => s.updQueue x.t q (fun v => { v with consOff := 0 }))
  readEnd x q n

/-- CGATH (R94): one output element for each list entry. The checks come before any write, reserved bits before the bounds. Its record gives no prime for a
negation: the model takes entry `ENTRY_BASE` of the chain of the op's first operand, and a free modulus where none names a chain. A source on a direct queue has
no extent and is refused (DESIGN CHOICE, log entry 47). -/
def cgathWork (w : StreamWord) (x : Seat) : Eng Unit := do
  let a := w.inA.toNat
  let b := w.inB.toNat
  let o := w.out.toNat
  let ty ← engType x.t a
  engAssert (decide (ty = (← engType x.t o))) .descMalformed
  engAssert (!((← engGet).qcfgAct x.t a).direct) .descMalformed
  let n := 128 * w.count.toNat
  allUnits x 1 (some o) (fun _ => takeDirect x b n true) (fun _ => do
    let r := cableRec (← descAt x w.imm.toNat)
    let len ← slotElements x a
    let xs ← wholeSlot x a len
    let ls ← listEntries x b n
    engAssert (ls.all (fun l => decide (nbits l 30 24 = 0) && (decide (nbits l 31 31 = 0) || decide (ty ≤ 1)))) .descMalformed
    engAssert (ls.all (fun l => decide (nbits l 23 0 < len))) .bounds
    let q ← (match (← engGet).opChain x.o with
      | some c => if ls.any (fun l => decide (nbits l 31 31 = 1)) then do return (← engEntry x.p c r.base).q else return 0
      | none => do return 2 ^ 20 + (← engDraw) % (2 ^ 35 - 2 ^ 20))
    writeEnd x o (ls.map (fun l => if nbits l 31 31 = 1 then negMod q (el xs (nbits l 23 0)) else el xs (nbits l 23 0)))
    if flag w 0 then release x.t a; release x.t b
    if flag w 1 then commit x.t o)

/-- The lines of the slot at a consumer end, each as a number of 512 bits. -/
def slotLines (x : Seat) (q : Nat) : Eng (List Nat) := do
  engPut (fun s => s.updQueue x.t q (fun v => { v with consOff := 0 }))
  let c := (← engGet).qcfgAct x.t q
  let a ← consAddr x.t q c.slotBits
  let xs ← scrRead x.t a 512 c.slotLines
  consMove x.t q c.slotBits
  return xs

/-- Write whole lines to a producer end; a direct queue takes them as elements, and where the bits of the rows are not whole elements, of which the spec says nothing,
the op ends with DESC_MALFORMED (DESIGN CHOICE, log entry 116). -/
def writeLines (x : Seat) (q : Nat) (ls : List Nat) : Eng Unit := do
  let c := (← engGet).qcfgAct x.t q
  let w := typeBits c.ty
  if c.direct then
    engAssert (decide (512 * ls.length % w = 0)) .descMalformed
    writeEnd x q (unpackBits w (512 * ls.length / w) (packBits 512 ls))
  else
    let a ← prodAddr x.t q (512 * ls.length)
    scrWrite x.t a 512 ls
    prodMove x.t q (512 * ls.length)

/-- CRGATH (R94): whole rows of `ROW_LINES` lines of the source, by row number. A source on a direct queue has no extent that a row could lie in: DESC_MALFORMED (DESIGN
CHOICE, log entry 135). -/
def crgathWork (w : StreamWord) (x : Seat) : Eng Unit := do
  let a := w.inA.toNat
  let b := w.inB.toNat
  let o := w.out.toNat
  let ty ← engType x.t a
  engAssert (decide (ty = (← engType x.t o))) .descMalformed
  engAssert (!((← engGet).qcfgAct x.t a).direct) .descMalformed
  let r := cableRec (← descAt x w.imm.toNat)
  allUnits x 1 (some o) (fun _ => takeDirect x b w.count.toNat true) (fun _ => do
    let xs ← slotLines x a
    let ls ← listEntries x b w.count.toNat
    engAssert (ls.all (fun l => decide ((l + 1) * r.rowLines ≤ xs.length))) .bounds
    writeLines x o (ls.flatMap (fun l => (xs.drop (l * r.rowLines)).take r.rowLines))
    if flag w 0 then release x.t a; release x.t b
    if flag w 1 then commit x.t o)

/-- CTRANS (R93): `COUNT` matrices. -/
def ctransWork (w : StreamWord) (x : Seat) : Eng Unit := do
  let a := w.inA.toNat
  let o := w.out.toNat
  engAssert (decide ((← engType x.t a) = (← engType x.t o))) .descMalformed
  let r := cableRec (← descAt x w.imm.toNat)
  let n := 2 ^ r.rows * 2 ^ r.cols
  allUnits x w.count.toNat (some o) (fun _ => takeDirect x a n false) (fun i => do
    let xs ← readEnd x a n
    writeEnd x o (transposeList (2 ^ r.rows) (2 ^ r.cols) xs)
    if i + 1 = w.count.toNat then finish x w)

def execCcopy (t : Fin 576) (w : StreamWord) (s : State) : Host.Outcome State Fault Refusal := .next (s.issue t 3 0x40 w (ccopyWork w))
def execCaute (t : Fin 576) (w : StreamWord) (s : State) : Host.Outcome State Fault Refusal := .next (s.issue t 3 0x41 w (cautWork w true))
def execCautc (t : Fin 576) (w : StreamWord) (s : State) : Host.Outcome State Fault Refusal := .next (s.issue t 3 0x42 w (cautWork w false))
def execCgath (t : Fin 576) (w : StreamWord) (s : State) : Host.Outcome State Fault Refusal := .next (s.issue t 3 0x43 w (cgathWork w))
def execCrgath (t : Fin 576) (w : StreamWord) (s : State) : Host.Outcome State Fault Refusal := .next (s.issue t 3 0x44 w (crgathWork w))
def execCtrans (t : Fin 576) (w : StreamWord) (s : State) : Host.Outcome State Fault Refusal := .next (s.issue t 3 0x45 w (ctransWork w))

/-! ### The exchange (R96, R97) -/

/-- A share arrives at a tile: its place in the list of exchanges, by destination line. -/
def Tile.share (x : Tile) (line n : Nat) : Tile :=
  if x.exchanges.any (fun e => e.line = line) then
    { x with exchanges := x.exchanges.map (fun e => if e.line = line then { e with got := e.got + n } else e) }
  else { x with exchanges := x.exchanges ++ [{ line := line, got := n }] }

/-- A rank names the exchange it takes part in: how many shares complete it, and the pair it signals. -/
def Tile.expect (x : Tile) (line ranks sem : Nat) : Tile :=
  let x := x.share line 0
  { x with exchanges := x.exchanges.map (fun e => if e.line = line then { e with ranks := ranks, sem := sem } else e) }

/-- Write a piece into a rank's destination region; a rank on another die makes it remote traffic (R204, R398). A region that goes on past the last line of the scratchpad
ends the op with DESC_MALFORMED, before the piece is written (DESIGN CHOICE, log entry 135). -/
def sharePiece (x : Seat) (t line off w : Nat) (xs : List Nat) : Eng Unit := do
  engAssert (decide (512 * line + off + w * xs.length ≤ 512 * 65536)) .descMalformed
  scrWrite t (512 * line + off) w xs
  if siteOf t ≠ siteOf x.t then engCount x.p 0x23 (w * xs.length / 8)

/-- One limb of an exchange: the pieces go to the ranks of the target distribution (R96). -/
def exchangeLimb (x : Seat) (r : CableRec) (tiles : List Nat) (reverse : Bool) (w i : Nat) (xs : List Nat) : Eng Unit :=
  if reverse then
    let part := w * xs.length
    sharePiece x (tiles.getD (i % r.t) x.t) r.line (i / r.t * r.t * part + r.rank * part) w xs
  else
    let n := xs.length / r.t
    let limb := r.rank + i * r.t
    (List.range r.t).forM (fun d => sharePiece x (tiles.getD d x.t) r.line (limb * (w * n)) w ((xs.drop (d * n)).take n))

/-- Does an exchange move whole blocks (R96): N/T is a multiple of 128? A slot holds the N elements of a limb, or the N/T of a limb's row in the reverse. -/
def exchangeOk (r : CableRec) (reverse : Bool) (n : Nat) : Bool := if reverse then decide (n % 128 = 0) else decide (n % (128 * r.t) = 0)

/-- The elements that an exchange reads for each limb: the whole slot. A direct queue has no slot: there a limb has the N elements of the op's first operand, and a row
of the reverse N/T of them; an op without an operand is refused (DESIGN CHOICE, log entry 95). -/
def exchangeElements (x : Seat) (r : CableRec) (reverse : Bool) (q : Nat) : Eng Nat := do
  let s ← engGet
  if !(s.qcfgAct x.t q).direct then slotElements x q
  else match s.op? x.o with
    | some (_, o) =>
      engAssert (hValid o.hdrA) .descMalformed
      return hN o.hdrA / (if reverse then r.t else 1)
    | none => engFault .descMalformed

/-- CXCHG: each limb is the whole slot at the consumer end, limbs count from 0 at each instruction, and a rank beyond the op's tile list is the own tile. A share is
written and counted at the line that the SENDER's record names, in the receiving rank's scratchpad (DESIGN CHOICE, log entry 95). -/
def cxchgWork (w : StreamWord) (x : Seat) : Eng Unit := do
  let a := w.inA.toNat
  needResidue x.t a
  let r := cableRec (← descAt x w.imm.toNat)
  let tiles := match (← engGet).op? x.o with
    | some (_, o) => o.tiles
    | none => []
  let wd := typeBits (← engType x.t a)
  let reverse := w.mode.getLsbD 0
  let n ← exchangeElements x r reverse a
  engAssert (exchangeOk r reverse n) .descMalformed
  allUnits x w.count.toNat none (fun _ => takeDirect x a n false) (fun i => do
    let xs ← wholeSlot x a n
    exchangeLimb x r tiles reverse wd i xs
    if flag w 0 then release x.t a)
  engPut (fun s => s.updTile x.t (fun v => v.expect r.line r.t r.sem))
  engPut (fun s => (List.range r.t).foldl (fun s d => s.updTile (tiles.getD d x.t) (fun v => v.share r.line 1)) s)

def execCxchg (t : Fin 576) (w : StreamWord) (s : State) : Host.Outcome State Fault Refusal := .next (s.issue t 3 0x46 w (cxchgWork w))

/-- EXCHANGE_COMPLETE (R97): all shares are in place at a rank, which posts 1 to READY of the pair it names. -/
def State.exchangeDone (s : State) (t : Nat) : State :=
  match (if s.effectsRun t then (s.tile t).exchangeDue else none), (s.tile t).op with
  | some e, some (j, i) =>
    let s1 := s.updTile t (fun x => { x with exchanges := x.exchanges.erase e })
    let v := s.semCount t e.sem false + 1
    if v ≤ 255 then (s1.setSem t e.sem false v).settleTile t else s1.endSoon ⟨j, i⟩ .descMalformed none
  | _, _ => s

def execExchangeComplete (t : Fin 576) (s : State) : Host.Outcome State Fault Refusal := .next (s.exchangeDone t)

end Sys2Proof.Machine
end

