-- ==== Sys2Proof/Machine/Shake.lean ====
section
/-! DEFINITION. SHAKE-128 of FIPS 202 and the key expander of R149. -/
namespace Sys2Proof.Machine

/-! ### Keccak-f[1600] of FIPS 202, on its 1,600 bits as one number: bit z of lane (x, y) is bit 64 (5 y + x) + z -/

/-- Lane (x, y), the coordinates modulo 5. -/
def laneOf (st x y : Nat) : Nat := st / 2 ^ (64 * (5 * (y % 5) + x % 5)) % 2 ^ 64

/-- The state whose lanes a function gives. -/
def fromLanes (f : Nat → Nat → Nat) : Nat := ((List.range 25).map (fun i => f (i % 5) (i / 5) * 2 ^ (64 * i))).sum

/-- A lane moved `k` bits towards its high end, with wrap. -/
def turn (k v : Nat) : Nat := v * 2 ^ (k % 64) % 2 ^ 64 + v / 2 ^ (64 - k % 64)

/-- The parity of column x of every slice. -/
def parity (st x : Nat) : Nat := (List.range 5).foldl (fun p y => p ^^^ laneOf st x y) 0

/-- Where the walk of rho from lane (1, 0) stands after `t` moves (FIPS 202, 3.2.2). -/
def rhoWalk : Nat → Nat × Nat
  | 0 => (1, 0)
  | t + 1 => let (x, y) := rhoWalk t; (y, (2 * x + 3 * y) % 5)

/-- The rotation of lane (x, y): (t + 1)(t + 2)/2 where the walk meets it after t moves, and 0 for lane (0, 0). -/
def rhoTurn (x y : Nat) : Nat :=
  match (List.range 24).find? (fun t => decide (rhoWalk t = (x % 5, y % 5))) with
  | some t => (t + 1) * (t + 2) / 2
  | none => 0

/-- Bit `t` of the sequence rc: the constant coefficient of x^t modulo x^8 + x^6 + x^5 + x^4 + 1 (FIPS 202, 3.2.5). -/
def rcPower : Nat → Nat
  | 0 => 1
  | t + 1 => let r := 2 * rcPower t; if r < 256 then r else r ^^^ 0x171

/-- The constant of round `i`: bit 2^j - 1 is rc(j + 7 i). -/
def roundConstant (i : Nat) : Nat := ((List.range 7).map (fun j => rcPower (j + 7 * i) % 2 * 2 ^ (2 ^ j - 1))).sum

/-- One round: theta, then rho with pi, then chi, then iota. -/
def keccakRound (st i : Nat) : Nat :=
  let th := fromLanes (fun x y => laneOf st x y ^^^ parity st (x + 4) ^^^ turn 1 (parity st (x + 1)))
  let rp := fromLanes (fun x y => turn (rhoTurn (x + 3 * y) x) (laneOf th (x + 3 * y) x))
  fromLanes (fun x y => laneOf rp x y ^^^ ((2 ^ 64 - 1 - laneOf rp (x + 1) y) &&& laneOf rp (x + 2) y)) ^^^ roundConstant i

def keccakF (st : Nat) : Nat := (List.range 24).foldl keccakRound st

/-! ### SHAKE-128: a sponge of rate 1,344 bits -/

/-- A message of bytes with its suffix 1111 and the padding 10*1, as one number; the sponge takes its blocks from the low end. -/
def shakeMessage (m : List Byte) : Nat := leNat m + 0x1F * 2 ^ (8 * m.length) + 2 ^ (1344 * (m.length / 168 + 1) - 1)

/-- The state after `n` blocks. -/
def spongeAfter (msg : Nat) : Nat → Nat
  | 0 => 0
  | n + 1 => keccakF (spongeAfter msg n ^^^ (msg / 2 ^ (1344 * n) % 2 ^ 1344))

/-- `n` output blocks from a state. -/
def spongeOut : Nat → Nat → List Byte
  | 0, _ => []
  | n + 1, st => leBytes 168 st ++ spongeOut n (keccakF st)

/-- SHAKE-128: the first `n` bytes of output. -/
def shake128 (m : List Byte) (n : Nat) : List Byte := (spongeOut ((n + 167) / 168) (spongeAfter (shakeMessage m) (m.length / 168 + 1))).take n

/-- Group γ of half-1 limb x of digit j (R149): 128 elements modulo `q`. -/
def expandGroup (seed nonceBase j x gamma q : Nat) : List Nat :=
  let nu := (nonceBase + 128 * j + x) % 2 ^ 64
  let out := shake128 (leBytes 32 seed ++ leBytes 8 nu ++ leBytes 4 gamma) 1536
  (chunksOf 12 128 out).map (fun b => leNat b % q)

/-- A whole regenerated limb of N elements. -/
def expandLimb (seed nonceBase j x n q : Nat) : List Nat :=
  (List.range (n / 128)).flatMap (fun g => expandGroup seed nonceBase j x g q)

end Sys2Proof.Machine
end

