-- ==== Sys2Proof/Machine/Keys.lean ====
section
/-! DEFINITION. Evaluation keys (R146 to R160): directory entries, key headers, the binding check, reservoirs, and the key limbs as the Ply unit reads them. -/
namespace Sys2Proof.Machine

/-- A directory entry (R152). -/
structure KeyEntry where
  raw : Nat
  addr : Nat
  valid : Bool
  resValid : Bool
  site : Nat
  quads : Nat
  line : Nat
deriving DecidableEq, Repr

def keyEntryOf (x : Nat) : KeyEntry :=
  { raw := x, addr := nbits x 47 0, valid := decide (nbits x 48 48 = 1), resValid := decide (nbits x 49 49 = 1), site := nbits x 68 64,
    quads := nbits x 79 72, line := nbits x 113 96 }

def popCount8 (x : Nat) : Nat := ((List.range 8).filter (fun q => decide (x / 2 ^ q % 2 = 1))).length

/-- A key object header (R146). -/
structure KeyHdr where
  raw : Nat
  kind : Nat
  log2N : Nat
  chain : Nat
  seeded : Bool
  storage : Nat
  digits : Nat
  level : Nat
  special : Nat
  galois : Nat
  keySet : Nat
  targetSet : Nat
  targetTag : Nat
  tag : Nat
  seed : Nat
  nonce : Nat
  bBase : Nat
  aBase : Nat
  stride : Nat
deriving DecidableEq, Repr

def keyHdrOf (x : Nat) : KeyHdr :=
  { raw := x, kind := nbits x 3 0, log2N := nbits x 12 8, chain := nbits x 19 16, seeded := decide (nbits x 20 20 = 1), storage := nbits x 21 21,
    digits := nbits x 30 24, level := nbits x 38 32, special := nbits x 44 40, galois := nbits x 81 64, keySet := nbits x 191 128,
    targetSet := nbits x 255 192, targetTag := nbits x 287 256, tag := nbits x 767 512, seed := nbits x 1023 768, nonce := nbits x 1087 1024,
    bBase := nbits x 1135 1088, aBase := nbits x 1199 1152, stride := nbits x 1247 1216 }

def keyHdrReservedOk (x : Nat) : Bool :=
  decide (nbits x 7 4 = 0) && decide (nbits x 15 13 = 0) && decide (nbits x 23 22 = 0) && decide (nbits x 31 31 = 0) &&
  decide (nbits x 39 39 = 0) && decide (nbits x 63 45 = 0) && decide (nbits x 127 82 = 0) && decide (nbits x 511 288 = 0) &&
  decide (nbits x 1151 1136 = 0) && decide (nbits x 1215 1200 = 0) && decide (nbits x 2047 1248 = 0)

/-- Is a key header well-formed (R146, cause 0x1 of R158)? -/
def KeyHdr.ok (k : KeyHdr) : Bool :=
  keyHdrReservedOk k.raw && decide (1 ≤ k.kind ∧ k.kind ≤ 3) && decide (10 ≤ k.log2N ∧ k.log2N ≤ 17) &&
  decide (1 ≤ k.digits ∧ k.digits ≤ 64) && decide (1 ≤ k.level ∧ k.level ≤ 64) && decide (1 ≤ k.special ∧ k.special ≤ 16) &&
  decide (k.keySet ≠ 0) && decide (k.targetSet ≠ 0) && decide (k.bBase % 64 = 0) &&
  decide (k.stride % (if k.storage = 0 then 576 else 8) = 0) && decide (limbSize (2 ^ k.log2N) k.storage ≤ k.stride) &&
  (if k.seeded then decide (k.aBase = 0) else decide (k.aBase ≠ 0 ∧ k.aBase % 64 = 0 ∧ k.seed = 0)) &&
  (decide (k.kind = 3) || (decide (k.targetSet = k.keySet) && decide (k.targetTag = k.tag % 2 ^ 32)))

/-- The first failing cause of R158 (0x1 to 0x7): `kind` and `g` are what the op asks for, where it does; `level` is
the level at which the key is used. -/
def keyCause (k : KeyHdr) (kind g : Option Nat) (h : Header) (ch : ChainHdr) (level : Nat) : Option Nat :=
  if !k.ok then some 0x1
  else if kind ≠ none ∧ kind ≠ some k.kind then some 0x2
  else if k.chain ≠ hChain h ∨ k.log2N ≠ hLog2N h then some 0x3
  else if k.digits ≠ ch.digits ∨ k.special ≠ ch.k ∨ k.level < level ∨ ch.l < k.level then some 0x4
  else if g ≠ none ∧ g ≠ some k.galois then some 0x5
  else if k.keySet ≠ hKeySet h then some 0x6
  else if k.tag % 2 ^ 32 ≠ hKeyTag h then some 0x7
  else none

/-! ### The directory -/

def State.keyDirBase (s : State) (p : Nat) : Nat :=
  (s.act (pr p .keyDirBaseLo)).toNat + (s.act (pr p .keyDirBaseHi)).toNat * 2 ^ 32
def State.keyDirCount (s : State) (p : Nat) : Nat := bits (s.act (pr p .keyDirCount)) 12 0

/-- Read a directory entry (R152). -/
def State.keyEntry (s : State) (p idx : Nat) : Except MemErr KeyEntry :=
  match s.readVA p (s.keyDirBase p + 16 * idx) 16 with
  | .ok bs => .ok (keyEntryOf (leNat bs))
  | .error e => .error e

/-- The ranks of a reservoir: the tiles of its quads in ascending tile number (R153). -/
def KeyEntry.ranks (e : KeyEntry) : List Nat :=
  ((List.range 32).map (· + 32 * e.site)).filter (fun t => decide (e.quads / 2 ^ (quadOf t % 8) % 2 = 1))

/-- Extended-basis entries of a key, and those of one rank of `n`. -/
def KeyHdr.entries (k : KeyHdr) : List Nat := List.range k.level ++ (List.range k.special).map (· + 64)
def KeyHdr.rankEntries (k : KeyHdr) (n r : Nat) : List Nat := k.entries.filter (fun x => decide (x % n = r))

/-- Lines of one limb in a share, and of the largest share (R153). -/
def KeyHdr.limbLines (k : KeyHdr) : Nat := limbSize (2 ^ k.log2N) k.storage / 64
def KeyHdr.shareLines (k : KeyHdr) (n : Nat) : Nat :=
  4 + (if k.seeded then 1 else 2) * k.digits * (((List.range n).map (fun r => (k.rankEntries n r).length)).foldl max 0) * k.limbLines

/-- The key header at `KOBJ_ADDR`. The spec lists no check of an address that is not a multiple of 64: it is read as it stands (DESIGN CHOICE, log entry 123). -/
def State.keyObject (s : State) (p : Nat) (e : KeyEntry) (unit : Option Nat := none) : Except MemErr KeyHdr :=
  match s.readVA p e.addr 256 unit with
  | .ok bs => .ok (keyHdrOf (leNat bs))
  | .error x => .error x

/-- Step 2 of R61 on a directory entry (R152). The size of a share follows from the key object's header, where that can be
read (log entry 23). -/
def State.keyEntryOk (s : State) (p : Nat) (e : KeyEntry) : Bool :=
  e.valid && decide (nbits e.raw 63 50 = 0) && decide (nbits e.raw 71 69 = 0) && decide (nbits e.raw 95 80 = 0) && decide (nbits e.raw 127 114 = 0) &&
  (!e.resValid || (decide (popCount8 e.quads ∈ [1, 2, 4, 8]) && (match s.keyObject p e with
    | .ok k => decide (e.line + k.shareLines (4 * popCount8 e.quads) ≤ 196608)
    | .error _ => true)))

/-- Does the partition hold a quad? -/
def State.holdsQuad (s : State) (p g : Nat) : Bool := (s.part p).quads.contains g

/-- Does the partition hold every quad of a reservoir? -/
def State.resOwned (s : State) (p : Nat) (e : KeyEntry) : Bool :=
  (List.range 8).all (fun q => decide (e.quads / 2 ^ q % 2 = 0) || s.holdsQuad p (8 * e.site + q))

/-- Do the partition's key switches with this key run on its reservoir (R155, R388)? -/
def State.reservoirUp (s : State) (p : Nat) (e : KeyEntry) : Bool :=
  e.resValid && decide ((s.site e.site).state = .active) && s.resOwned p e && !(s.part p).reservoirsBlocked

/-- Does a share of the reservoir hold a line with an uncorrectable error that has not been rewritten (R216)? The shares end
where the key object's header, where it can be read, says. -/
def State.shareBad (s : State) (p : Nat) (e : KeyEntry) : Bool :=
  let size := match s.keyObject p e with
    | .ok k => k.shareLines e.ranks.length
    | .error _ => 196608
  e.ranks.any (fun t => (s.tile t).stashBad.any (fun l => decide (e.line ≤ l ∧ l < e.line + size)))

/-- Would an op on its tiles read the reservoir (R154, R155; log entry 30)? A pattern runs its PLY stages on all its ranks, so these have to be exactly the
reservoir's, in its order; the runtime runs the PLY stages of its own ops on the reservoir's ranks. -/
def State.fitsReservoir (s : State) (p : Nat) (e : KeyEntry) (r : OpRec) : Bool :=
  s.reservoirUp p e && (if oeOpcode r.entry = 0x7F then decide (r.tiles = e.ranks) else e.ranks.all r.tiles.contains) && !r.keyStream.contains (e.site, e.line)

/-- It does, unless a share holds an error (R216). -/
def State.usesReservoir (s : State) (p : Nat) (e : KeyEntry) (r : OpRec) : Bool := s.fitsReservoir p e r && !s.shareBad p e


/-! ### Reading a key -/

/-- A key as an op reads it: its directory index, its header, the reservoir when it reads from one, and the header copies of all its ranks then. -/
structure KeySrc where
  idx : Nat
  hdr : KeyHdr
  entry : KeyEntry
  reservoir : Bool
  copies : List KeyHdr := []
  die : Option Nat := none           -- the die whose Ply key path reads it
deriving DecidableEq, Repr

/-- The header copy in a rank's share. -/
def State.shareHdr (s : State) (e : KeyEntry) (t : Nat) : KeyHdr := keyHdrOf (leNat (getBytes (s.tile t).stash (64 * e.line) 256))

/-- What a key has to be for the op that reads it (R158). -/
structure KeyNeed where
  kind : Option Nat
  g : Option Nat
  operand : Header
  chain : ChainHdr
  level : Nat

/-- Read and check the first key block at every rank (R157). Where the header copies of several ranks fail, the cause of the lowest rank is reported (DESIGN CHOICE,
log entry 88). -/
def keyOpen (p idx : Nat) (e : KeyEntry) (r : OpRec) (n : KeyNeed) : Eng KeySrc := fun s =>
  if s.usesReservoir p e r then
    let hs := e.ranks.map (s.shareHdr e)
    match hs.findSome? (fun h => keyCause h n.kind n.g n.operand n.chain n.level) with
    | some c => .error (.key c idx) s
    | none => .ok { idx := idx, hdr := hs.headD (keyHdrOf 0), entry := e, reservoir := true, copies := hs } s
  else match s.keyObject p e r.die with
    | .error x => .error (.mem 5 x) s
    | .ok h => match keyCause h n.kind n.g n.operand n.chain n.level with
      | some c => .error (.key c idx) s
      | none => .ok { idx := idx, hdr := h, entry := e, reservoir := false, die := r.die } s

/-- Do all keys of an op carry one BINDING_TAG (cause 0x8), in the block that each rank reads (R157)? The first key with a block that differs from the first block
fails (log entry 88). -/
def keysBound (ks : List KeySrc) : Eng Unit :=
  match ks with
  | k :: _ :: _ => match ks.find? (fun x => (x.hdr :: x.copies).any (fun h => decide (h.tag ≠ k.hdr.tag))) with
    | some x => fun s => .error (.key 0x8 x.idx) s
    | none => pure ()
  | _ => pure ()

/-- Residues of a stored limb. -/
def limbOf (storage n : Nat) (bs : List Byte) : List Nat := unpackBits (if storage = 0 then 36 else 64) n (leNat bs)

/-- Byte offset of limb x of digit j of half h in a share (R153). -/
def KeyHdr.shareOff (k : KeyHdr) (n h j x : Nat) : Nat :=
  let es := k.rankEntries n (x % n)
  256 + ((h * k.digits + j) * es.length + es.idxOf x) * (64 * k.limbLines)

/-- Address of limb x of digit j of half h (R147). -/
def KeyHdr.limbVa (k : KeyHdr) (h j x : Nat) : Nat :=
  (if h = 0 then k.bBase else k.aBase) + (j * (k.level + k.special) + (if x < 64 then x else k.level + (x - 64))) * k.stride

/-- A key limb as the Ply unit takes it: stored, or regenerated (R147, R149). An invalid residue ends the op. -/
def keyLimb (p : Nat) (k : KeySrc) (h j x q : Nat) : Eng (List Nat) := fun s =>
  let n := 2 ^ k.hdr.log2N
  if h = 1 ∧ k.hdr.seeded then .ok (expandLimb k.hdr.seed k.hdr.nonce j x n q) s
  else
    let size := limbSize n k.hdr.storage
    let rd : Except MemErr (List Byte) :=
      if k.reservoir then
        let rs := k.entry.ranks
        .ok (getBytes (s.tile (rs.getD (x % rs.length) 0)).stash (64 * k.entry.line + k.hdr.shareOff rs.length h j x) size)
      else s.readVA p (k.hdr.limbVa h j x) size k.die
    match rd with
    | .error e => .error (.mem 5 e) s
    | .ok bs =>
      let xs := limbOf k.hdr.storage n bs
      if xs.all (fun v => decide (v < q)) then .ok xs s else .error .keyData s

/-- What `d` limbs of half `h`, one of each digit, count: groups that the expander regenerates (0x25, R149), or key bytes that stream from the columns (0x24, R154). -/
def countKey (p : Nat) (k : KeySrc) (h d : Nat) : Eng Unit :=
  if h = 1 ∧ k.hdr.seeded then engCount p 0x25 (d * (2 ^ k.hdr.log2N / 128))
  else if k.reservoir then pure () else engCount p 0x24 (d * limbSize (2 ^ k.hdr.log2N) k.hdr.storage)

/-- One key switch that streams its key counts in RES_MISS (R154). -/
def countMiss (p : Nat) (k : KeySrc) : Eng Unit :=
  if k.reservoir then pure () else engPut (fun s => s.bump (pr p .keyEventCount) 31 16)

end Sys2Proof.Machine
end

