-- ==== Sys2Proof/Machine/Ct.lean ====
section
/-! DEFINITION. Ciphertext operands: the handle table (R39), reading a header (R40, R57), the checks of R61 on headers, and the level, scale, form, component and estimate rules of R44 to R53 for one step. -/
namespace Sys2Proof.Machine

/-! ### The handle table -/

def State.handleBase (s : State) (p : Nat) : Nat :=
  (s.act (pr p .ctHandleBaseLo)).toNat + (s.act (pr p .ctHandleBaseHi)).toNat * 2 ^ 32
def State.handleCount (s : State) (p : Nat) : Nat := bits (s.act (pr p .ctHandleCount)) 20 0
def State.handleVa (s : State) (p h : Nat) : Nat := s.handleBase p + 64 * h

/-- A header whose line is uncorrectable is rewritten as valid and poisoned, every other field zero (R57(c)). -/
def damagedHeader : Header := setBits (setBits 0 29 29 1) 30 30 1

/-- Write a header as one line (R40). -/
def State.putHeader (s : State) (p h : Nat) (v : Header) : Except XFault State := s.writeVA p (s.handleVa p h) (leBytes 64 v.toNat)

/-- Count a header that the module has marked poisoned (R57). -/
def State.countPoison (s : State) (p : Nat) : State := s.bump (pr p .ctEventCount) 15 0

/-- Read the header of a handle (R40, R57(c), R232). -/
def readHeader (p h : Nat) : Eng Header := fun s =>
  match s.readVA p (s.handleVa p h) 64 with
  | .ok bs => .ok (BitVec.ofNat 512 (leNat bs)) s
  | .error (.fault f) => .error (.mem 6 (.fault f)) s
  | .error (.bad pa _) =>
    let s := s.badLine pa (some p) (hankUnit (s.vfPort p))
    match s.putHeader p h damagedHeader with
    | .ok s => .ok damagedHeader (s.countPoison p)
    | .error f => .error (.mem 6 (.fault f)) s

/-! ### Placement (R38, R43) -/

/-- Does a header pass steps 2 and 3 of R61 whatever it holds? -/
def hMarked (h : Header) : Bool := hValid h && hPoisoned h

/-- Are base and stride of component `c` aligned? -/
def compAligned (h : Header) (c : Nat) : Bool :=
  decide (hBase h c % 64 = 0) && decide (hStride h c % (if hStorage h = 0 then 576 else 8) = 0)

/-- The region of component `c`: base to base + CAP_LEVEL × stride. -/
def compRegion (h : Header) (c : Nat) : Nat × Nat := (hBase h c, hBase h c + hCap h * hStride h c)

/-- Are all strides long enough for ring 2^n, and do the components keep apart? -/
def compsApart (h : Header) (n comps : Nat) : Bool :=
  (List.range comps).all (fun c =>
    decide (limbSize (2 ^ n) (hStorage h) ≤ hStride h c) &&
    (List.range c).all (fun b => !meets (compRegion h c) (compRegion h b)))

/-- What step 3 checks of one header: how many components, for which ring. -/
structure Place where
  handle : Nat
  hdr : Header
  comps : Nat
  n : Nat

def Place.aligned (x : Place) : Bool := hMarked x.hdr || (List.range x.comps).all (compAligned x.hdr)
def Place.apart (x : Place) : Bool := hMarked x.hdr || compsApart x.hdr x.n x.comps

/-- Do the limb regions of two different handles of one op keep apart (R43)? -/
def Place.clear (x y : Place) : Bool :=
  decide (x.handle = y.handle) || hMarked x.hdr || hMarked y.hdr ||
  (List.range x.comps).all (fun c => (List.range y.comps).all (fun b => !meets (compRegion x.hdr c) (compRegion y.hdr b)))

/-- Step 3 of R61: alignment of every header first, then overlap. -/
def placeCheck (ps : List Place) : Eng Unit := do
  engAssert (ps.all Place.aligned) .align
  engAssert (ps.all (fun x => x.apart && ps.all x.clear)) .overlap

/-- Step 2 of R61 on a source, and on a destination that is not also a source (R43). R38 has `C2_BASE` 0 refused under R43 "where component 2 is checked", and R43 checks
the bases of destinations only: a three-component source with `C2_BASE` 0 is not refused (DESIGN CHOICE, log entry 126). -/
def sourceOk (h : Header) : Bool := hMarked h || (hReservedOk h && hContentOk h && hCapOk h)
def destOk (h : Header) : Bool := hMarked h || hReservedOk h

/-- Step 9 of R61 (R43): bases placed, and `CAP_LEVEL` at least the result level. -/
def destPlaced (h : Header) (comps level : Nat) : Bool :=
  (List.range comps).all (fun c => decide (hBase h c ≠ 0)) && decide (level ≤ hCap h)

/-! ### Chains of operands -/

/-- Step 5 of R61 on a source against its chain (R43): committed, same ring, level within it, and t where the scheme needs one. -/
def State.contentFits (s : State) (p : Nat) (x : Content) : Bool :=
  match s.chain? p x.chain with
  | some c => decide (x.log2N = c.log2N) && decide (x.level ≤ c.l) && (decide (x.scheme = 0) || decide (c.t ≠ 0))
  | none => false
def State.sourceFits (s : State) (p : Nat) (h : Header) : Bool := s.contentFits p (contentOf h) && decide (hLevel h ≤ hCap h)

/-- What the rules need of the chain of a result. -/
structure Ctx where
  chain : ChainHdr
  qs : List Nat          -- the ciphertext primes
  ps : List Nat          -- the special primes
  guard : Nat
  tol : Nat

def State.ctxOf (s : State) (p c : Nat) : Ctx :=
  let h := chainHdr (s.part p).mtActive c
  { chain := h, qs := s.primes p c h.l, ps := (List.range h.k).map (fun i => (s.prime p c (64 + i)).q),
    guard := bits (s.reg (pr p .ctNoiseGuard)) 15 0, tol := (s.reg (pr p .ctScaleTol)).toNat }

/-- The estimate context for a result of this level and scale (R50). -/
def Ctx.noise (c : Ctx) (ckks : Bool) (level scale : Nat) : NoiseCtx :=
  { log2N := c.chain.log2N, t := c.chain.t, qBits := c.qs.map bitLength, ckks := ckks, scale := scale, level := level }

/-! ### One step on contents -/

/-- What an op, or a step of an expansion, does to the content of a ciphertext. -/
inductive CtStep where
  | add                        -- ADD and SUB
  | neg
  | addPlain (scale : Option Nat)   -- none: a constant that takes the scale it meets (R294)
  | mulPlain (scale : Nat)
  | mulConst (c : Int) (scale : Nat)
  | mul
  | relin
  | keySwitch                  -- ROTATE, CONJUGATE, KEYSWITCH, an output of HOIST_ROTATE
  | rescale
  | modDrop (k : Nat)
  | nttFwd
  | nttInv
deriving DecidableEq, Repr

/-- Step 5 of R61 within the op itself (R47, R88, R138, R280). -/
def CtStep.fits (st : CtStep) (c : Ctx) (a : Content) (b : Option Content) : Bool :=
  (match b with
   | some y => decide (a.scheme = y.scheme) && decide (a.log2N = y.log2N) && decide (a.chain = y.chain) && decide (a.form = y.form)
   | none => true) &&
  (match st with
   | .add | .neg | .mulConst _ _ | .rescale | .modDrop _ => true
   | .addPlain _ => decide (a.comps = 2)
   | .mulPlain _ => decide (a.form = 1)
   | .mul => decide (a.form = 1) && decide (a.comps = 2) && (match b with | some y => decide (y.comps = 2) | none => true)
   | .relin => decide (a.comps = 3) && decide (a.form = 1) && decide (c.chain.k ≠ 0)
   | .keySwitch => decide (a.comps = 2) && decide (a.form = 1) && decide (c.chain.k ≠ 0)
   | .nttFwd => decide (a.comps = 2) && decide (a.form = 0)
   | .nttInv => decide (a.comps = 2) && decide (a.form = 1))

/-- Step 6 of R61 (R48). -/
def keysAgree (a : Content) (b : Option Content) : Bool :=
  match b with
  | some y => decide (a.keySet = y.keySet) && decide (a.keyTag = y.keyTag)
  | none => true

/-- Absolute difference. -/
def absDiff (x y : Nat) : Nat := if x ≤ y then y - x else x - y

/-- Step 7 of R61 (R46): do the scales agree? -/
def CtStep.scalesAgree (st : CtStep) (c : Ctx) (a : Content) (b : Option Content) : Bool :=
  decide (a.scheme ≠ 0) ||
  (match st with
   | .add => (match b with | some y => decide (absDiff a.scale y.scale ≤ c.tol) | none => true)
   | .addPlain (some sp) => decide (absDiff a.scale sp ≤ c.tol)
   | _ => true)

/-- The result scale in Q16.16 (R46); 0 for BGV and BFV (R41). -/
def CtStep.scale (st : CtStep) (c : Ctx) (a : Content) (b : Option Content) : Int :=
  if a.scheme ≠ 0 then 0
  else match st with
  | .mul => a.scale + (match b with | some y => y.scale | none => 0)
  | .mulPlain sp => a.scale + sp
  | .mulConst _ sc => a.scale + sc
  | .rescale => (a.scale : Int) - lambdaOf (c.qs.getD (a.level - 1) 0)
  | _ => a.scale

/-- The result level (R51). -/
def CtStep.level (st : CtStep) (a : Content) (b : Option Content) : Int :=
  let l := match b with
    | some y => min a.level y.level
    | none => a.level
  match st with
  | .rescale => (l : Int) - 1
  | .modDrop k => (l : Int) - k
  | _ => l

/-- The result's COMPONENTS (R47). -/
def CtStep.comps (st : CtStep) (a : Content) (b : Option Content) : Nat :=
  match st with
  | .mul => 3
  | .relin | .keySwitch => 2
  | .add => (match b with | some y => max a.comps y.comps | none => a.comps)
  | _ => a.comps

/-- The result's FORM (R47). -/
def CtStep.form (st : CtStep) (a : Content) : Nat :=
  match st with
  | .relin | .keySwitch | .nttFwd => 1
  | .nttInv => 0
  | _ => a.form

/-- The estimate before cap and clamp (R51). -/
def CtStep.estimate (st : CtStep) (n : NoiseCtx) (a : Content) (b : Option Content) : Int :=
  let ba : Int := a.noise
  let bb : Int := match b with
    | some y => y.noise
    | none => a.noise
  match st with
  | .add => min ba bb - 256
  | .neg | .nttFwd | .nttInv => ba
  | .addPlain _ => ba - 256
  | .mulPlain _ => n.mulPlain ba
  | .mulConst c _ => n.mulConst ba c
  | .mul => n.mul ba bb
  | .relin | .keySwitch => n.keySwitch ba
  | .rescale => n.rescale ba
  | .modDrop _ => n.modDrop ba

/-- Fail with the first check that does not hold. -/
def chk (b : Bool) (h : Halt) : Except Halt Unit := if b then .ok () else .error h

/-- Steps 5 to 7 of R61 for one step. -/
def CtStep.agree (st : CtStep) (c : Ctx) (a : Content) (b : Option Content) : Except Halt Unit := do
  chk (st.fits c a b) (.fault .paramMismatch)
  chk (keysAgree a b) (.key 0x9 0)
  chk (st.scalesAgree c a b && decide (0 ≤ st.scale c a b) && decide (st.scale c a b < 2 ^ 32)) (.fault .scaleMismatch)

/-- The level of step 8 (R45). -/
def CtStep.levelOk (st : CtStep) (a : Content) (b : Option Content) : Except Halt Unit :=
  chk (decide (1 ≤ st.level a b)) (.fault .levelExhausted)

/-- The content that a step writes (R42, R46 to R52). -/
def CtStep.result (st : CtStep) (c : Ctx) (a : Content) (b : Option Content) : Content :=
  let l := (st.level a b).toNat
  let sc := (st.scale c a b).toNat
  let n := c.noise (decide (a.scheme = 0)) l sc
  { a with level := l, scale := sc, comps := st.comps a b, form := st.form a, poisoned := false }.withNoise n (st.estimate n a b) c.guard

/-- Are there special primes enough for the exact product of BFV (R284)? -/
def Ctx.bfvRoom (c : Ctx) (l : Nat) : Bool :=
  decide (((c.qs.take l).map (fun q => bitLength q - 1)).sum + c.chain.log2N + bitLen c.chain.t + 2 ≤ (c.ps.map bitLength).sum)

/-- A step of an expansion (R291): everything but the budget. -/
def CtStep.eval (st : CtStep) (c : Ctx) (a : Content) (b : Option Content := none) : Except Halt Content := do
  st.agree c a b
  st.levelOk a b
  chk (decide (st ≠ .mul) || decide (a.scheme ≠ 2) || c.bfvRoom (st.level a b).toNat) (.fault .paramMismatch)
  return st.result c a b

/-- Halting work as engine work. -/
def liftChk {α : Type} (x : Except Halt α) : Eng α := fun s =>
  match x with
  | .ok v => .ok v s
  | .error h => .error h s

end Sys2Proof.Machine
end

