-- ==== Sys2Proof/Machine/RibPly.lean ====
section
/-! DEFINITION. The Rib array and its stream (R105 to R113, R199, R248), and the PLY stream (R140, R141, R200). -/
namespace Sys2Proof.Machine

/-! ### Constant records (R248) -/

/-- Round up to a multiple of 64. -/
def up64 (n : Nat) : Nat := (n + 63) / 64 * 64

/-- The fields of a constant record: base, K, NC, chain. -/
structure ConstRec where
  base : Nat
  k : Nat
  nc : Nat
  chain : Nat
deriving DecidableEq, Repr

def constRec (x : Nat) : ConstRec := { base := nbits x 47 0, k := nbits x 54 48, nc := nbits x 62 56, chain := nbits x 67 64 }
def constRecOk (x : Nat) : Bool :=
  let r := constRec x
  decide (nbits x 55 55 = 0) && decide (nbits x 63 63 = 0) && decide (nbits x 511 68 = 0) && decide (1 ≤ r.k ∧ r.k ≤ 80) && decide (1 ≤ r.nc ∧ r.nc ≤ 80)

/-- Bytes of a constant block. -/
def ConstRec.size (r : ConstRec) : Nat := up64 (8 * r.k) + up64 r.nc + 8 * (r.k * r.nc)

/-- The constants of a block, if they keep R108 and R248: entries of the chain, canonical values, unnamed bits zero. -/
def State.constOf (s : State) (p : Nat) (r : ConstRec) (bs : List Byte) : Option RibConst :=
  let pw := (chunksOf 8 r.k bs).map leNat
  let cols := ((bs.drop (up64 (8 * r.k))).take r.nc).map (·.toNat)
  let mat := (chunksOf 8 (r.k * r.nc) (bs.drop (up64 (8 * r.k) + up64 r.nc))).map leNat
  let pres := pw.map (fun w => (nbits w 46 40, nbits w 35 0))
  let pads := (bs.take (up64 (8 * r.k))).drop (8 * r.k) ++ ((bs.drop (up64 (8 * r.k))).take (up64 r.nc)).drop r.nc
  match s.chain? p r.chain with
  | none => none
  | some h =>
    if pw.all (fun w => decide (nbits w 39 36 = 0) && decide (nbits w 63 47 = 0)) &&
       pres.all (fun x => h.has x.1 && decide (x.2 < (s.prime p r.chain x.1).q)) &&
       cols.all (fun c => decide (c < 128) && h.has c) &&
       pads.all (fun b => decide (b = 0)) &&
       (List.range mat.length).all (fun i => decide (mat.getD i 0 < (s.prime p r.chain (cols.getD (i % r.nc) 0)).q)) then
      some { chain := r.chain, pres := pres, cols := cols, mat := mat }
    else none

/-- Read a constant block (RCONST, BCONV, a modular stage). -/
def readConst (p x : Nat) (unit : Option Nat := none) : Eng RibConst := do
  let r := constRec x
  engAssert (constRecOk x) .descMalformed
  engAssert (decide (r.base % 64 = 0)) .align
  let s ← engGet
  let bs ← engMem 1 (s.readVA p r.base r.size unit)
  match s.constOf p r bs with
  | some c => return c
  | none => engFault .descMalformed

/-! ### Steps of the array -/

/-- sat32. -/
def sat32 (v : Int) : Int × Bool := satW 32 v

/-- One INT8 step: four products added exactly, then sat32 (R110). -/
def int8Step (acc : Int) (a b : List Nat) : Int × Bool :=
  sat32 (acc + (List.zipWith (fun x y => signed 8 x * signed 8 y) a b).sum)

/-- The values and the scale of an INT4 block of 18 bytes (R111). -/
def int4Vals (blk : Nat) : List Int := (List.range 32).map (fun i => signed 4 (nbits blk (4 * i + 3) (4 * i)))
def int4Scale (blk : Nat) : Int := signed 16 (nbits blk 143 128)

/-- One INT4 block step (R112). -/
def int4Step (acc : Int) (a b shift : Nat) : Int × Bool :=
  let d := (List.zipWith (· * ·) (int4Vals a) (int4Vals b)).sum
  sat32 (acc + rnd (d * int4Scale a * int4Scale b) shift)

/-! ### Rib records and groups -/

structure RibRec where
  rows : Nat
  cols : Nat
  fmt : Nat
  shift : Nat
  block : Nat
deriving DecidableEq, Repr

def ribRec (x : Nat) : RibRec := { rows := nbits x 5 0, cols := nbits x 13 8, fmt := nbits x 18 16, shift := nbits x 28 24, block := nbits x 36 32 }
def ribRecOk (x : Nat) : Bool :=
  let r := ribRec x
  decide (nbits x 7 6 = 0) && decide (nbits x 15 14 = 0) && decide (nbits x 23 19 = 0) && decide (nbits x 31 29 = 0) && decide (nbits x 511 37 = 0) &&
  decide (1 ≤ r.rows ∧ r.rows ≤ 32) && decide (1 ≤ r.cols ∧ r.cols ≤ 32) && decide (r.fmt ≤ 4)

/-- What a RIB instruction has to be in an array mode (R118, R199): integer formats in the integer modes only, `OUT_SHIFT` 0 in modular mode, `BLOCK_SHIFT` 0
outside INT4, and no constant buffer for B outside modular mode. -/
def ribModeOk (mode : Nat) (w : StreamWord) (r : RibRec) : Bool :=
  (if mode = 0 then decide (r.fmt ≤ 1) && decide (r.shift = 0) else decide (2 ≤ r.fmt) && decide (w.inB ≠ 0x3F)) && (decide (mode = 2) || decide (r.block = 0))

def Tile.ribGroup (x : Tile) (g : Nat) : RibGroup := Tab.get (fun _ => ({} : RibGroup)) x.ribGroups g
def Tile.setRibGroup (x : Tile) (g : Nat) (v : RibGroup) : Tile := { x with ribGroups := Tab.set (fun _ => {}) x.ribGroups g v }
def RibGroup.at (v : RibGroup) (r c : Nat) : Int := Tab.get (fun _ => 0) v.acc (32 * r + c)

def RibGroup.checkAt (v : RibGroup) (r c : Nat) : Nat := Tab.get (fun _ => 0) v.check (32 * r + c)

/-- Change every accumulator of the valid rows and columns. -/
def RibGroup.each (v : RibGroup) (rows cols : Nat) (f : Nat → Nat → Int → Int × Bool) : RibGroup :=
  (List.range (rows * cols)).foldl (fun v i =>
    let (y, s) := f (i / cols) (i % cols) (v.at (i / cols) (i % cols))
    { v with acc := Tab.set (fun _ => 0) v.acc (32 * (i / cols) + i % cols) y, sat := v.sat || s }) v

/-- Elements of A and of B that `n` K-steps from step `k` take (log entry 24): modular one a row and column, INT8 four, INT4 one
18-byte block a row and column at every fourth step. -/
def ribNeed (mode k n side : Nat) : Nat :=
  match mode with
  | 0 => n * side
  | 1 => 4 * n * side
  | _ => 18 * side * ((List.range n).filter (fun i => decide ((k + i) % 4 = 0))).length

/-- The operands of step `i` (counted from step `k` of the group) in a run of elements. -/
def ribRow (mode side : Nat) (xs : List Nat) (i r : Nat) : List Nat :=
  match mode with
  | 0 => [el xs (i * side + r)]
  | _ => (xs.drop (4 * (i * side + r))).take 4

/-- RMODE (R199): waits until every group is closed. -/
def rmodeWork (w : StreamWord) (x : Seat) : Eng Unit := do
  let s ← engGet
  if (s.tile x.t).ribGroups.any (fun g => g.2.isOpen) then engStall .busy
  engPut (fun s => s.updTile x.t (fun v => { v with ribMode := w.mode.toNat % 4 }))

/-- RCONST (R199). -/
def rconstWork (w : StreamWord) (x : Seat) : Eng Unit := do
  let c ← readConst x.p (← descAt x w.imm.toNat) x.die
  engPut (fun s => s.updTile x.t (fun v => { v with ribConst := some c }))

/-- The K-steps of one instruction in modular mode (R107): B comes from the queue or from the constant buffer. -/
def ribModular (p : Nat) (s : State) (c : RibConst) (r : RibRec) (v : RibGroup) (n : Nat) (as : List Nat) (bs : Option (List Nat)) : Option RibGroup :=
  (List.range n).foldl (fun acc i =>
    match acc with
    | none => none
    | some v =>
      match c.pres[v.step]? with
      | none => none
      | some (f, wk) =>
        let q := (s.prime p c.chain f).q
        let term := fun (a b : Nat) =>
          let y := el as (i * r.rows + a) * wk % q
          let bb := match bs with
            | some l => el l (i * r.cols + b)
            | none => el c.mat (v.step * c.cols.length + (v.colBase + b))
          y * bb
        some { v.each r.rows r.cols (fun a b x => (x + (term a b : Nat), false)) with
          step := v.step + 1
          check := (List.range (r.rows * r.cols)).foldl (fun m k =>
            Tab.set (fun _ => 0) m (32 * (k / r.cols) + k % r.cols) (runningStep (v.checkAt (k / r.cols) (k % r.cols)) (term (k / r.cols) (k % r.cols)))) v.check }) (some v)

/-- The residue checks of a modular step and drain (R68): of each product A · w_k, and of the reduction of each accumulator against its running check. -/
def ribPreChecks (p : Nat) (s : State) (c : RibConst) (r : RibRec) (v : RibGroup) (n : Nat) (as : List Nat) : Bool :=
  (List.range (n * r.rows)).all (fun i => match c.pres[v.step + i / r.rows]? with
    | some (f, wk) => let e := s.prime p c.chain f
      mulChecked e.q e.check (el as i) wk
    | none => true)
def ribAccChecks (p : Nat) (s : State) (c : RibConst) (r : RibRec) (v : RibGroup) : Bool :=
  (List.range (r.rows * r.cols)).all (fun k =>
    let e := s.prime p c.chain (c.cols.getD (v.colBase + k % r.cols) 0)
    accumulatorCheck e.q e.check (v.at (k / r.cols) (k % r.cols)).toNat (v.checkAt (k / r.cols) (k % r.cols)))

/-- The drain of a closed group (R106, R108, R122): values in the order of the output, and whether one was clamped. The spec gives the output no order: the model
puts the elements out row by row in the integer modes and column by column in modular mode, where a column is one limb (DESIGN CHOICE, log entry 24). -/
def ribDrain (p : Nat) (s : State) (mode : Nat) (c : Option RibConst) (r : RibRec) (v : RibGroup) : List Nat × Bool :=
  if mode = 0 then
    match c with
    | some c => ((List.range (r.rows * r.cols)).map (fun i =>
        toMod (s.prime p c.chain (c.cols.getD (v.colBase + i / r.rows) 0)).q (v.at (i % r.rows) (i / r.rows))), false)
    | none => ([], false)
  else
    let w := typeBits r.fmt
    let ys := (List.range (r.rows * r.cols)).map (fun i => satW w (rnd (v.at (i / r.cols) (i % r.cols)) r.shift))
    (ys.map (fun y => wrapN w y.1), v.sat || ys.any (·.2))

/-- RMAC (R106, R199). A commit flag without the close flag is ignored, since nothing has been written to commit (DESIGN CHOICE, log entry 121). The TYPE of IN_A's queue
is that of the mode; elements of an IN_B queue of another TYPE are taken by their low bits (DESIGN CHOICE, log entry 135). A modular stage whose constants have more than 32 columns takes a column range that the spec does
not name: a free value (log entry 24). -/
def rmacWork (w : StreamWord) (x : Seat) : Eng Unit := do
  let g := w.mode.toNat % 4
  let n := w.count.toNat
  let r := ribRec (← descAt x w.imm.toNat)
  let s ← engGet
  let mode := (s.tile x.t).ribMode
  let v0 := (s.tile x.t).ribGroup g
  let step := if flag w 0 then 0 else v0.step
  let nA := ribNeed mode step n r.rows
  let nB := if w.inB = 0x3F then 0 else ribNeed mode step n r.cols
  let o := w.out.toNat
  allUnits x 1 (if flag w 1 then some o else none) (fun _ => do
    takeDirect x w.inA.toNat nA false
    if w.inB ≠ 0x3F then takeDirect x w.inB.toNat nB true) (fun _ => do
    engAssert (if flag w 0 then !v0.isOpen else v0.isOpen) .descMalformed
    engAssert (decide ((mode = 0 ∧ (← engType x.t w.inA.toNat) ≤ 1) ∨ (mode ≠ 0 ∧ (← engType x.t w.inA.toNat) = 2))) .descMalformed
    engAssert (ribModeOk mode w r) .descMalformed
    let as ← readEnd x w.inA.toNat nA
    let bs ← if w.inB = 0x3F then pure [] else readEnd x w.inB.toNat nB true
    let s ← engGet
    let c := (s.tile x.t).ribConst
    let nc := match c with
      | some c => c.cols.length
      | none => 0
    let d ← if flag w 0 ∧ mode = 0 ∧ 32 < nc then engDraw else pure 0
    let base := if flag w 0 then d % (nc - 31) else v0.colBase
    let v : RibGroup := if flag w 0 then { isOpen := true, colBase := base } else v0
    let v' ← (match mode, c with
      | 0, some c => do
        engAssert (decide (v.colBase + r.cols ≤ c.cols.length)) .descMalformed
        engAssert ((List.range (n * r.rows)).all (fun i => match c.pres[v.step + i / r.rows]? with
          | some f => decide (el as i < (s.prime x.p c.chain f.1).q)
          | none => true)) .operandPoisoned
        engAssert ((List.range bs.length).all (fun i => decide (el bs i < (s.prime x.p c.chain (c.cols.getD (v.colBase + i % r.cols) 0)).q))) .operandPoisoned
        engResidue (ribPreChecks x.p s c r v n as)
        match ribModular x.p s c r v n as (if w.inB = 0x3F then none else some bs) with
        | some v => return v
        | none => engFault .descMalformed
      | 0, none => engFault .descMalformed
      | 1, _ => return (List.range n).foldl (fun v i =>
          { v.each r.rows r.cols (fun a b y => int8Step y (ribRow 1 r.rows as i a) ((List.range 4).map (fun u => el bs ((4 * i + u) * r.cols + b)))) with step := v.step + 1 }) v
      | _, _ =>
        let ba := (chunksOf 18 (nA / 18) as).map (packBits 8)
        let bb := (chunksOf 18 (nB / 18) bs).map (packBits 8)
        let first := (List.range n).filter (fun i => decide ((step + i) % 4 = 0))
        let v := (List.range first.length).foldl (fun v i =>
          v.each r.rows r.cols (fun a b y => int4Step y (el ba (i * r.rows + a)) (el bb (i * r.cols + b)) r.block)) v
        return { v with step := v.step + n })
    if flag w 1 then
      engAssert (decide (r.fmt = (← engType x.t o))) .descMalformed
      engResidue (decide (mode ≠ 0) || (s.tile x.t).ribConst.all (fun c => ribAccChecks x.p s c r v'))
      let (ys, sat) := ribDrain x.p s mode c r v'
      writeEnd x o ys
      markSat x.o sat
      engPut (fun s => s.updTile x.t (fun t => t.setRibGroup g {}))
      if w.mode.getLsbD 3 then commit x.t o
    else engPut (fun s => s.updTile x.t (fun t => t.setRibGroup g v'))
    if w.mode.getLsbD 2 then
      release x.t w.inA.toNat
      if w.inB ≠ 0x3F then release x.t w.inB.toNat)

def execRmode (t : Fin 576) (w : StreamWord) (s : State) : Host.Outcome State Fault Refusal := .next (s.issue t 4 0x50 w (rmodeWork w))
def execRconst (t : Fin 576) (w : StreamWord) (s : State) : Host.Outcome State Fault Refusal := .next (s.issue t 4 0x51 w (rconstWork w))
def execRmac (t : Fin 576) (w : StreamWord) (s : State) : Host.Outcome State Fault Refusal := .next (s.issue t 4 0x52 w (rmacWork w))

/-! ### PLY (R200) -/

/-- A Ply record. `KEY_INDEX` is 0, as for PKEY: only a HOIST_ROTATE has more than one key (R200, log entry 91). -/
structure PlyRec where
  beta : Nat
  key : Nat
  base : Nat
  step : Nat
deriving DecidableEq, Repr

def plyRec (x : Nat) : PlyRec := { beta := nbits x 6 0, key := nbits x 13 8, base := nbits x 22 16, step := nbits x 30 24 }
def plyRecOk (x : Nat) : Bool :=
  let r := plyRec x
  decide (nbits x 7 7 = 0) && decide (nbits x 15 14 = 0) && decide (nbits x 23 23 = 0) && decide (nbits x 511 31 = 0) &&
  decide (1 ≤ r.beta ∧ r.beta ≤ 64) && decide (r.key = 0) && decide (r.base ≤ 79) && decide (r.step ≤ 79)

/-- The key of a CUSTOM op: the directory entry that it latched at readiness (R160; log entry 90), and what the key has to be (R158). R137 gives a CUSTOM op no
kind and no Galois element of its own, and it has one key only (R200). An op without a valid first operand has nothing to check a key against: the spec gives no
outcome, and PKEY ends it with DESC_MALFORMED (DESIGN CHOICE, log entry 124). -/
def customKey (x : Seat) : Eng (OpRec × KeyEntry × KeyNeed) := do
  let s ← engGet
  match s.op? x.o with
  | none => engFault .descMalformed
  | some (_, r) =>
    match s.chain? x.p (hChain r.hdrA) with
    | none => engFault .descMalformed
    | some ch =>
      engAssert (hValid r.hdrA) .descMalformed
      return (r, keyEntryOf ((r.dirs.headD (0, 0)).2), { kind := none, g := none, operand := r.hdrA, chain := ch, level := hLevel r.hdrA })

/-- PKEY (R157, R200): the tile reads the first key block once per op (R160), in its own share where the op reads the reservoir, and keeps the block as read. A key
switch that streams its key counts in RES_MISS at the first rank's block (R154, log entry 39). -/
def pkeyWork (x : Seat) : Eng Unit := do
  let (r, e, n) ← customKey x
  let s ← engGet
  if (s.tile x.t).plyKey.isSome then return ()
  let res := s.usesReservoir x.p e r
  match (if res then .ok (s.shareHdr e x.t) else s.keyObject x.p e x.die) with
  | .error m => fun s => .error (.mem 5 m) s
  | .ok h =>
    match keyCause h n.kind n.g n.operand n.chain n.level with
    | some c => fun s => .error (.key c (oeKey r.entry)) s
    | none =>
      if r.tiles.all (fun u => (s.tile u).plyKey.isNone) then countMiss x.p { idx := oeKey r.entry, hdr := h, entry := e, reservoir := res }
      engPut (fun s => s.updTile x.t (fun v => { v with plyKey := some (h.raw, res) }))

/-- One limb of a key MAC (R135, R140), with the residue check of each accumulator, whose products are reduced with its sum (R65, R68): `ds` the β digits, `seed` the limb's seed. -/
def plyLimb (p : Nat) (k : KeySrc) (h x q n : Nat) (ds : List (List Nat)) (seed : List Nat) : Eng (List Nat) := do
  let keys ← (List.range ds.length).mapM (fun j => keyLimb p k h j x q)
  countKey p k h ds.length
  if !(decide (h = 1) && k.hdr.seeded) && !k.reservoir then engCount p 0x20 (ds.length * limbSize n k.hdr.storage)
  let qm := ((← engGet).prime p k.hdr.chain x).check
  engResidue ((List.range n).all (fun i => sumChecked q qm (el seed i :: (List.range ds.length).map (fun j => el (ds.getD j []) i * el (keys.getD j []) i))))
  return (List.range n).map (fun i => (el seed i + sumMod q ((List.range ds.length).map (fun j => el (ds.getD j []) i * el (keys.getD j []) i % q))) % q)

/-- PMAC (R141, R200): it waits until the key block has passed at every rank (R157); then for each limb in turn its β digits, whole limbs in ascending digit, give the limb of component 0
and then that of component 1; a seed set has the same order (log entry 25). -/
def pmacWork (w : StreamWord) (x : Seat) : Eng Unit := do
  let r := plyRec (← descAt x w.imm.toNat)
  let a := w.inA.toNat
  let o := w.out.toNat
  let seeded := w.mode.getLsbD 0
  let (op, e, _) ← customKey x
  let s ← engGet
  let some (raw, res) := (s.tile x.t).plyKey | engFault .descMalformed
  if !s.keyPassed op then engStall .key
  needResidue x.t a
  needResidue x.t o
  let k : KeySrc := { idx := oeKey op.entry, hdr := keyHdrOf raw, entry := e, reservoir := res }
  let n := 2 ^ k.hdr.log2N
  let limbs := w.count.toNat
  allUnits x 1 (some o) (fun _ => do
    takeDirect x a (limbs * r.beta * n) false
    if seeded then takeDirect x w.inB.toNat (limbs * 2 * n) true) (fun _ => do
    let ds ← readEnd x a (limbs * r.beta * n)
    let ss ← if seeded then readEnd x w.inB.toNat (limbs * 2 * n) true else pure []
    (List.range limbs).forM (fun i => do
      let e := r.base + r.step * i
      let pe ← engEntry x.p k.hdr.chain e
      let digs := (List.range r.beta).map (fun j => (ds.drop ((i * r.beta + j) * n)).take n)
      engAssert (digs.all (fun d => d.all (fun v => decide (v < pe.q)))) .operandPoisoned
      (List.range 2).forM (fun h => do
        let seed := if seeded then (ss.drop ((2 * i + h) * n)).take n else []
        engAssert (seed.all (fun v => decide (v < pe.q))) .operandPoisoned
        writeEnd x o (← plyLimb x.p k h e pe.q n digs seed)))
    if flag w 0 then
      release x.t a
      if seeded then release x.t w.inB.toNat
    if flag w 1 then commit x.t o)

def execPkey (t : Fin 576) (w : StreamWord) (s : State) : Host.Outcome State Fault Refusal := .next (s.issue t 5 0x60 w pkeyWork)
def execPmac (t : Fin 576) (w : StreamWord) (s : State) : Host.Outcome State Fault Refusal := .next (s.issue t 5 0x61 w (pmacWork w))

end Sys2Proof.Machine
end

