-- ==== Sys2Proof/Machine/Vec.lean ====
section
/-! DEFINITION. The vector engine and its stream (R161 to R178, R201): windows, vector length, element operations and the two reduction paths. -/
namespace Sys2Proof.Machine

/-! ### Windows (R164, R165) -/

/-- A window record. -/
structure WinRec where
  line : Nat
  size : Nat
  ty : Nat
  entry : Nat
  start : Nat
deriving DecidableEq, Repr

def winRec (x : Nat) : WinRec :=
  { line := nbits x 15 0, size := if nbits x 31 16 = 0 then 65536 else nbits x 31 16, ty := nbits x 35 32, entry := nbits x 46 40, start := nbits x 95 64 }

/-- The capacity in elements. -/
def WinRec.cap (r : WinRec) : Nat := if r.ty = 0 then 128 * (r.size / 9) else 64 * r.size / (typeBits r.ty / 8)

/-- Is a record well-formed, the chain aside (R164)? The record has 16 bytes and its table entry 64: the spec does not say whether the other 48 must be zero, and the
model ignores them (DESIGN CHOICE, log entry 119). -/
def winRecOk (x : Nat) : Bool :=
  let r := winRec x
  decide (nbits x 39 36 = 0) && decide (nbits x 63 47 = 0) && decide (nbits x 127 96 = 0) && decide (r.ty ≤ 5) &&
  (decide (r.ty ≤ 1) || decide (r.entry = 0)) && decide (r.entry ≤ 79) && decide (r.line + r.size ≤ 65536) && decide (r.start < r.cap) && (decide (r.ty ≠ 0) || decide (r.size % 9 = 0))

def Tile.window (x : Tile) (i : Nat) : Window := Tab.get (fun _ => ({} : Window)) x.windows i
def Tile.setWindow (x : Tile) (i : Nat) (v : Window) : Tile := { x with windows := Tab.set (fun _ => {}) x.windows i v }
def Window.rc (v : Window) : WinRec := winRec v.record.toNat

/-- SETWIN (R164). -/
def setwinWork (w : StreamWord) (x : Seat) : Eng Unit := do
  let d ← descAt x w.imm.toNat
  engAssert (winRecOk d) .descMalformed
  let r := winRec d
  let s ← engGet
  match s.opChain x.o with
  | some c => engAssert (decide (2 ≤ r.ty) || (s.entry? x.p c r.entry).isSome) .descMalformed
  | none => pure ()
  engPut (fun s => s.updTile x.t (fun v => v.setWindow (w.mode.toNat % 4) { loaded := true, record := BitVec.ofNat 512 d, cursor := r.start }))

/-- SETVL (R167). -/
def setvlWork (w : StreamWord) (x : Seat) : Eng Unit := do
  let s ← engGet
  let m := bits (s.reg (.tile (tIdx x.t) .vecVlmax)) 12 0
  engPut (fun s => s.updStream x.t x.k (fun v => { v with vl := Tab.set (fun _ => 128) v.vl v.loops.length (min w.count.toNat m) }))

def execSetwin (t : Fin 576) (w : StreamWord) (s : State) : Host.Outcome State Fault Refusal := .next (s.issue t 2 0x70 w (setwinWork w))
def execSetvl (t : Fin 576) (w : StreamWord) (s : State) : Host.Outcome State Fault Refusal := .next (s.issue t 2 0x71 w (setvlWork w))

/-! ### Operands -/

/-- What an operand field of the VEC stream names. -/
inductive VOp where
  | win (i : Nat)
  | queue (q : Nat)
deriving DecidableEq, Repr

def vop (v : BitVec 6) : VOp := if v.toNat < 0x30 then .queue v.toNat else .win (v.toNat - 0x30)

/-- The element type of an operand. -/
def vopType (x : Seat) (v : VOp) : Eng Nat := do
  let s ← engGet
  match v with
  | .queue q => return (s.qcfgAct x.t q).ty
  | .win i =>
    engAssert ((s.tile x.t).window i).loaded .descMalformed
    return ((s.tile x.t).window i).rc.ty

/-- The bit addresses of `n` elements of a window from its cursor (R165). -/
def winAddrs (x : Seat) (i n : Nat) : Eng (List Nat) := do
  let s ← engGet
  let v := (s.tile x.t).window i
  engAssert v.loaded .descMalformed
  let r := v.rc
  engAssert (decide (r.ty ≠ 0) || decide (v.cursor % 128 = 0)) .descMalformed
  return (List.range n).map (fun k => 512 * r.line + typeBits r.ty * ((v.cursor + k) % r.cap))

/-- The element addresses of an operand, with its width; none for a direct queue. -/
def vopAddrs (x : Seat) (v : VOp) (n : Nat) (dest : Bool) : Eng (Option (Nat × List Nat)) := do
  let w := typeBits (← vopType x v)
  match v with
  | .win i => return some (w, ← winAddrs x i n)
  | .queue q =>
    if ((← engGet).qcfgAct x.t q).direct then return none
    else
      let a ← if dest then prodAddr x.t q (w * n) else consAddr x.t q (w * n)
      return some (w, (List.range n).map (fun k => a + w * k))

/-- R166: a destination range may coincide with a source range, and otherwise must not meet it. -/
def vecMeets (d a : Option (Nat × List Nat)) : Bool :=
  match d, a with
  | some (wd, ds), some (wa, as) =>
    !(decide (wd = wa) && decide (ds = as)) && ds.any (fun x => as.any (fun y => decide (x < y + wa) && decide (y < x + wd)))
  | _, _ => false

def readAddrs (x : Seat) (w : Nat) (as : List Nat) : Eng (List Nat) := as.mapM (fun a => do return el (← scrRead x.t a w 1) 0)

/-- Read `n` elements of a source. -/
def vopRead (x : Seat) (v : VOp) (n : Nat) (second : Bool) : Eng (List Nat) := do
  match v with
  | .queue q => readEnd x q n second
  | .win i => readAddrs x (typeBits (← vopType x v)) (← winAddrs x i n)

/-- Write elements to a destination. -/
def vopWrite (x : Seat) (v : VOp) (ys : List Nat) : Eng Unit := do
  match v with
  | .queue q => writeEnd x q ys
  | .win i =>
    let w := typeBits (← vopType x v)
    ((← winAddrs x i ys.length).zip ys).forM (fun (a, y) => scrWrite x.t a w [y])

/-- Advance windows by VL, release and commit queue ends (R165, R183); an operand named twice moves once. -/
def vecAdvance (x : Seat) (n : Nat) (srcs : List VOp) (dst : Option VOp) : Eng Unit := do
  let wins := ((srcs ++ dst.toList).filterMap (fun v => match v with
    | .win i => some i
    | .queue _ => none)).eraseDups
  wins.forM (fun i => engPut (fun s => s.updTile x.t (fun t =>
    let v := t.window i
    t.setWindow i { v with cursor := (v.cursor + n) % v.rc.cap })))
  (srcs.filterMap (fun v => match v with
    | .queue q => some q
    | .win _ => none)).eraseDups.forM (release x.t)
  match dst with
  | some (.queue q) => commit x.t q
  | _ => pure ()

/-! ### Element operations -/

/-- Primes: of a window operand, through the op's chain (R163); none where the spec names no prime. -/
def vopPrime (x : Seat) (v : VOp) : Eng (Option PrimeEntry) := do
  let s ← engGet
  match v, s.opChain x.o with
  | .win i, some c => return s.entry? x.p c ((s.tile x.t).window i).rc.entry
  | _, _ => return none

/-- The prime of a modular operation: the destination window's, else a source window's. -/
def vecPrime (x : Seat) (d : VOp) (srcs : List VOp) : Eng (Option PrimeEntry) := do
  let ps ← (d :: srcs).mapM (vopPrime x)
  return ps.findSome? id

/-- `n` free values below `m`. -/
def engDraws (m n : Nat) : Eng (List Nat) := fun s => let (v, s') := s.drawBelow m n; .ok v s'

/-- The correction residue of VLIFT (R171): δ from r of the last limb, modulus qL; `t` ≠ 0 for BGV. -/
def liftDelta (qL t : Nat) (r : Nat) : Int :=
  let rc : Int := if r ≤ (qL - 1) / 2 then r else (r : Int) - qL
  if t = 0 then rc
  else
    let k := toMod t (-rc * (modInv t qL : Nat))
    let kc : Int := if 2 * k ≤ t then k else (k : Int) - t
    rc + kc * qL
where
  /-- qL⁻¹ modulo t, by the extended Euclidean algorithm; 0 where there is none. -/
  modInv (t a : Nat) : Nat := toMod t (euclid 64 (a % t) t 1 0)
  euclid : Nat → Nat → Nat → Int → Int → Int
    | 0, _, _, _, _ => 0
    | fuel + 1, a, b, x, y => if a = 0 then 0 else if a = 1 then x else euclid fuel (b % a) a (y - (b / a : Nat) * x) x

/-- Scalars of a constant record in the places that R121 gives a and b (log entry 26). -/
def scalarA (ty rec_ : Nat) : Nat := if ty ≤ 1 then nbits rec_ 35 0 else nbits rec_ (typeBits ty - 1) 0
def scalarB (ty rec_ : Nat) : Nat := if ty ≤ 1 then nbits rec_ 99 64 else nbits rec_ (31 + typeBits ty) 32

/-- A modular result from canonical operands (R169). -/
def modularFn (op q a b c : Nat) : Nat :=
  match op with
  | 0x80 => addMod q a b
  | 0x81 => subMod q a b
  | 0x82 => negMod q a
  | 0x83 => mulMod q a b
  | _ => (b * a + c) % q          -- VMADDM: x = a, factor = b, addend = c

/-- An integer result before sat_F (R120, R169), and whether a step inside it clamped; the element x has `wA` bits, and so have the bounds of VCLAMP (R120). -/
def integerFn (op rec_ wA : Nat) (a b c : Int) : Int × Bool :=
  match op with
  | 0x88 => (a + b, false)
  | 0x89 => (a - b, false)
  | 0x8A => (a * b, false)
  | 0x8B => sat32 (b * a + c)
  | 0x8C => (max a b, false)
  | 0x8D => (min a b, false)
  | 0x8E => (max a 0, false)
  | 0x8F =>
    let x := signed wA (Config.param rec_ 1)
    let y := signed wA (Config.param rec_ 2)
    (min (max a (min x y)) (max x y), false)
  | 0x90 => (signed 8 (Config.param rec_ (256 + (a + 128).toNat)), false)
  | 0x91 => (rnd a (Config.param rec_ 0 % 63), false)
  | _ => (rnd (a * signed 32 (nbits rec_ 95 64)) (Config.param rec_ 0 % 63) + signed 32 (nbits rec_ 127 96), false)

/-- A binary32 result (R169). -/
def floatFn (op a b : Nat) : Nat :=
  match op with
  | 0x98 => f32Add a b
  | 0x99 => f32Sub a b
  | 0x9A => f32Mul a b
  | 0x9B => f32Div a b
  | 0x9C => f32Sqrt a
  | 0x9D => f32Max a b
  | _ => f32Min a b

/-- What the operands of an element operation are: sources as operands or scalars, and the addend. -/
structure VecArgs where
  n : Nat
  dst : VOp
  srcA : Option VOp
  srcB : Option VOp
  rec_ : Nat

/-- The prime q_L of the last limb that VLIFT takes (R171): that of a source window, else the last of the operand's level. -/
def lastPrime (x : Seat) (a : Option VOp) : Eng (Option PrimeEntry) := do
  let s ← engGet
  match (← (match a with
    | some v => vopPrime x v
    | none => return none)), s.opChain x.o, s.op? x.o with
  | some e, _, _ => return some e
  | none, some c, some (_, r) => return some (s.prime x.p c (hLevel r.hdrA - 1))
  | _, _, _ => return none

/-- Bring a kind of result: the elements of a, b and the addend in, the result elements out. -/
def vecElement (x : Seat) (op : Nat) (g : VecArgs) (tA tB tC tD : Nat) (as bs cs : List Nat) : Eng (List Nat) := do
  let at_ := fun (l : List Nat) i => el l i
  let idx := List.range g.n
  if op = 0x80 ∨ op = 0x81 ∨ op = 0x82 ∨ op = 0x83 ∨ op = 0x84 then
    engAssert (decide (tA ≤ 1) && decide (tB ≤ 1) && decide (tD ≤ 1)) .descMalformed
    match ← vecPrime x g.dst (g.srcA.toList ++ g.srcB.toList) with
    | some e =>
      engAssert (as.all (fun v => decide (v < e.q)) && bs.all (fun v => decide (v < e.q)) && cs.all (fun v => decide (v < e.q))) .operandPoisoned
      engResidue (decide (op < 0x83) || idx.all (fun i => mulChecked e.q e.check (at_ as i) (at_ bs i)))
      return idx.map (fun i => modularFn op e.q (at_ as i) (at_ bs i) (at_ cs i))
    | none => engDraws (2 ^ 36) g.n
  else if op = 0x85 then  -- VLIFT
    engAssert (decide (tA ≤ 1) && decide (tD ≤ 1)) .descMalformed
    let s ← engGet
    match ← lastPrime x g.srcA, ← vopPrime x g.dst with
    | some l, some e =>
      engAssert (as.all (fun v => decide (v < l.q))) .operandPoisoned
      let t := match s.op? x.o with
        | some (_, r) => if hScheme r.hdrA = 1 then (match s.chain? x.p (hChain r.hdrA) with
          | some h => h.t
          | none => 0) else 0
        | none => 0
      return idx.map (fun i => toMod e.q (liftDelta l.q t (at_ as i)))
    | _, _ => engDraws (2 ^ 36) g.n
  else if op = 0x86 then  -- VRESCALE
    engAssert (decide (tA ≤ 1) && decide (tB ≤ 1) && decide (tD ≤ 1)) .descMalformed
    let s ← engGet
    match ← vecPrime x g.dst (g.srcA.toList ++ g.srcB.toList), s.opChain x.o, s.op? x.o with
    | some e, some c, some (_, r) =>
      engAssert (as.all (fun v => decide (v < e.q)) && bs.all (fun v => decide (v < e.q))) .operandPoisoned
      let qL := (s.prime x.p c (hLevel r.hdrA - 1)).q
      if e.q = qL then return ← engDraws (2 ^ 36) g.n -- q_L itself has no inverse, and the spec states no result (log entry 120)
      engResidue (idx.all (fun i => mulChecked e.q e.check (subMod e.q (at_ as i) (at_ bs i)) (invMod e.q qL)))
      return idx.map (fun i => mulMod e.q (subMod e.q (at_ as i) (at_ bs i)) (invMod e.q qL))
    | _, _, _ => engDraws (2 ^ 36) g.n
  else if op = 0x94 then  -- VCVTIF
    engAssert (decide (2 ≤ tA ∧ tA ≤ 4) && decide (tD = 5)) .descMalformed
    return as.map (fun a => f32OfInt (signed (typeBits tA) a))
  else if op = 0x95 then  -- VCVTFI
    engAssert (decide (tA = 5) && decide (2 ≤ tD ∧ tD ≤ 4)) .descMalformed
    let ys := as.map (f32ToInt (typeBits tD))
    markSat x.o (ys.any (·.2))
    return ys.map (fun y => wrapN (typeBits tD) y.1)
  else if op = 0xA0 then  -- VCOPY
    engAssert (decide (tA = tD)) .descMalformed
    return as
  else if 0x98 ≤ op then
    engAssert (decide (tA = 5) && decide (tB = 5) && decide (tD = 5)) .descMalformed
    return idx.map (fun i => floatFn op (at_ as i) (at_ bs i))
  else
    let int := fun (t : Nat) => decide (2 ≤ t ∧ t ≤ 4)
    engAssert (int tA && int tB && int tD && (decide (op ≠ 0x90) || decide (tA = 2 ∧ tD = 2))) .descMalformed
    let ys := idx.map (fun i =>
      let (y, s1) := integerFn op g.rec_ (typeBits tA) (signed (typeBits tA) (at_ as i)) (signed (typeBits tB) (at_ bs i)) (signed (typeBits tC) (at_ cs i))
      let (z, s2) := satW (typeBits tD) y
      (z, s1 || s2))
    markSat x.o (ys.any (·.2))
    return ys.map (fun y => wrapN (typeBits tD) y.1)

/-- The type that a scalar takes: that of the destination for VCOPY, a residue and binary32; INT8 for VLUT8; INT32 for the other integer operations, as R121
places it; in a conversion the other kind (R169, R183). -/
def scalarTy (op tD : Nat) : Nat :=
  if op = 0xA0 then tD
  else if op = 0x90 then 2
  else if op = 0x94 ∨ (op ≠ 0x95 ∧ 2 ≤ tD ∧ tD ≤ 4) then 4
  else if op = 0x95 then 5
  else tD

/-- An element operation (R166, R169, R201). VMADDM and VMADDI take an addend that is no scalar from the destination's own element, which a direct queue does not
have: the spec gives no outcome, and the op ends with DESC_MALFORMED (DESIGN CHOICE, log entry 122). IN_A and IN_B that name one queue end take 2 · VL
successive elements of it, those of IN_A first (DESIGN CHOICE, log entry 135). -/
def vecWork (op : Nat) (w : StreamWord) (x : Seat) : Eng Unit := do
  let (arity, _) := (vecArity op).getD (1, false)
  let s ← engGet
  let n := (s.stream x.t x.k).vlNow
  if n = 0 then return ()
  let sa := w.mode.getLsbD 0
  let sb := w.mode.getLsbD 1
  let dst := vop w.out
  let srcA := if arity ≠ 3 ∧ sa then none else some (vop w.inA)
  let srcB := if arity = 1 ∨ (arity = 2 ∧ sb) ∨ (arity = 3 ∧ sa) then none else some (vop w.inB)
  let outQ := match dst with
    | .queue q => some q
    | .win _ => none
  allUnits x 1 outQ (fun _ => do
    match srcA with
    | some (.queue q) => takeDirect x q n false
    | _ => pure ()
    match srcB with
    | some (.queue q) => takeDirect x q n true
    | _ => pure ()) (fun _ => do
    let rec_ ← if w.mode.toNat % 4 ≠ 0 ∨ (vecArity op).any (·.2) then descAt x w.imm.toNat else pure 0
    let tD ← vopType x dst
    let tA ← match srcA with
      | some v => vopType x v
      | none => pure (scalarTy op tD)
    let tB ← match srcB with
      | some v => vopType x v
      | none => pure (scalarTy op tD)
    let dA ← vopAddrs x dst n true
    let aA ← match srcA with
      | some v => vopAddrs x v n false
      | none => pure none
    let bA ← match srcB with
      | some v => vopAddrs x v n false
      | none => pure none
    engAssert (!vecMeets dA aA && !vecMeets dA bA) .overlap
    let as ← match srcA with
      | some v => vopRead x v n false
      | none => pure (List.replicate n (scalarA tA rec_))
    let bs ← match srcB with
      | some v => vopRead x v n true
      | none => pure (List.replicate n (if arity = 3 then scalarA tB rec_ else scalarB tB rec_))
    let cs ← if arity ≠ 3 then pure [] else if sb then pure (List.replicate n (scalarB (scalarTy op tD) rec_)) else
      match dA with
      | some (wd, as) => readAddrs x wd as
      | none => engFault .descMalformed
    let ys ← vecElement x op { n := n, dst := dst, srcA := srcA, srcB := srcB, rec_ := rec_ } tA tB (if sb then scalarTy op tD else tD) tD as bs cs
    vopWrite x dst ys
    vecAdvance x n (if flag w 0 then srcA.toList ++ srcB.toList else []) (if flag w 1 then some dst else none))

def State.vec (s : State) (t op : Nat) (w : StreamWord) : State := s.issue t 2 op w (vecWork op w)

def execVaddm (t : Fin 576) (w : StreamWord) (s : State) : Host.Outcome State Fault Refusal := .next (s.vec t 0x80 w)
def execVsubm (t : Fin 576) (w : StreamWord) (s : State) : Host.Outcome State Fault Refusal := .next (s.vec t 0x81 w)
def execVnegm (t : Fin 576) (w : StreamWord) (s : State) : Host.Outcome State Fault Refusal := .next (s.vec t 0x82 w)
def execVmulm (t : Fin 576) (w : StreamWord) (s : State) : Host.Outcome State Fault Refusal := .next (s.vec t 0x83 w)
def execVmaddm (t : Fin 576) (w : StreamWord) (s : State) : Host.Outcome State Fault Refusal := .next (s.vec t 0x84 w)
def execVlift (t : Fin 576) (w : StreamWord) (s : State) : Host.Outcome State Fault Refusal := .next (s.vec t 0x85 w)
def execVrescale (t : Fin 576) (w : StreamWord) (s : State) : Host.Outcome State Fault Refusal := .next (s.vec t 0x86 w)
def execVaddi (t : Fin 576) (w : StreamWord) (s : State) : Host.Outcome State Fault Refusal := .next (s.vec t 0x88 w)
def execVsubi (t : Fin 576) (w : StreamWord) (s : State) : Host.Outcome State Fault Refusal := .next (s.vec t 0x89 w)
def execVmuli (t : Fin 576) (w : StreamWord) (s : State) : Host.Outcome State Fault Refusal := .next (s.vec t 0x8A w)
def execVmaddi (t : Fin 576) (w : StreamWord) (s : State) : Host.Outcome State Fault Refusal := .next (s.vec t 0x8B w)
def execVmaxi (t : Fin 576) (w : StreamWord) (s : State) : Host.Outcome State Fault Refusal := .next (s.vec t 0x8C w)
def execVmini (t : Fin 576) (w : StreamWord) (s : State) : Host.Outcome State Fault Refusal := .next (s.vec t 0x8D w)
def execVrelu (t : Fin 576) (w : StreamWord) (s : State) : Host.Outcome State Fault Refusal := .next (s.vec t 0x8E w)
def execVclamp (t : Fin 576) (w : StreamWord) (s : State) : Host.Outcome State Fault Refusal := .next (s.vec t 0x8F w)
def execVlut8 (t : Fin 576) (w : StreamWord) (s : State) : Host.Outcome State Fault Refusal := .next (s.vec t 0x90 w)
def execVshrr (t : Fin 576) (w : StreamWord) (s : State) : Host.Outcome State Fault Refusal := .next (s.vec t 0x91 w)
def execVreq (t : Fin 576) (w : StreamWord) (s : State) : Host.Outcome State Fault Refusal := .next (s.vec t 0x92 w)
def execVcvtif (t : Fin 576) (w : StreamWord) (s : State) : Host.Outcome State Fault Refusal := .next (s.vec t 0x94 w)
def execVcvtfi (t : Fin 576) (w : StreamWord) (s : State) : Host.Outcome State Fault Refusal := .next (s.vec t 0x95 w)
def execVaddf (t : Fin 576) (w : StreamWord) (s : State) : Host.Outcome State Fault Refusal := .next (s.vec t 0x98 w)
def execVsubf (t : Fin 576) (w : StreamWord) (s : State) : Host.Outcome State Fault Refusal := .next (s.vec t 0x99 w)
def execVmulf (t : Fin 576) (w : StreamWord) (s : State) : Host.Outcome State Fault Refusal := .next (s.vec t 0x9A w)
def execVdivf (t : Fin 576) (w : StreamWord) (s : State) : Host.Outcome State Fault Refusal := .next (s.vec t 0x9B w)
def execVsqrtf (t : Fin 576) (w : StreamWord) (s : State) : Host.Outcome State Fault Refusal := .next (s.vec t 0x9C w)
def execVmaxf (t : Fin 576) (w : StreamWord) (s : State) : Host.Outcome State Fault Refusal := .next (s.vec t 0x9D w)
def execVminf (t : Fin 576) (w : StreamWord) (s : State) : Host.Outcome State Fault Refusal := .next (s.vec t 0x9E w)
def execVcopy (t : Fin 576) (w : StreamWord) (s : State) : Host.Outcome State Fault Refusal := .next (s.vec t 0xA0 w)

/-! ### Reductions (R173 to R178) -/

/-- One level of a pairwise tree over adjacent values; a lone value passes through. -/
def pairUp {α : Type} (f : α → α → α) : List α → List α
  | a :: b :: rest => f a b :: pairUp f rest
  | l => l

/-- `k` levels of the tree. -/
def pairTree {α : Type} (f : α → α → α) : Nat → List α → List α
  | 0, l => l
  | k + 1, l => pairTree f k (pairUp f l)

/-- Lane-first order (R128): 128 lane sums, then seven levels. -/
def laneFirst (f : F32 → F32 → F32) (xs : List F32) : F32 :=
  let lanes := (List.range 128).map (fun l =>
    let ys := (List.range ((xs.length + 127 - l) / 128)).map (fun i => xs.getD (l + 128 * i) 0)
    match ys with
    | [] => 0
    | y :: rest => rest.foldl f y)
  (pairTree f 7 lanes).headD 0

/-- The tree over one cycle's lanes, a missing lane skipped: adjacent positions 2i and 2i + 1 at each level. -/
def laneTree (f : F32 → F32 → F32) (xs : List F32) : Option F32 :=
  (pairTree (fun a b => match a, b with
    | some x, some y => some (f x y)
    | some x, none => some x
    | none, y => y) 7 ((List.range 128).map (fun i => xs[i]?))).headD none

/-- Block-first order of the end-of-lane tree (R177). -/
def blockFirst (f : F32 → F32 → F32) (cycles : List (List F32)) : Option F32 :=
  (cycles.filterMap (laneTree f)).foldl (fun acc y => match acc with
    | none => some y
    | some a => some (f a y)) none

/-- The result of a reduction as the elements written: their width and values (R174). `tree`: the end-of-lane tree. -/
def reduceResult (r : Reduction) (tree : Bool) : List Nat :=
  let xs := r.cycles.flatten
  let ints := xs.map (signed (typeBits r.ty))
  if r.ty ≤ 1 then [sumMod r.q xs]
  else if r.ty = 5 then
    let sq := if r.fn = 1 then xs.map (fun x => f32Mul x x) else xs
    let cyc := if r.fn = 1 then r.cycles.map (·.map (fun x => f32Mul x x)) else r.cycles
    match r.fn with
    | 2 => [xs.foldl f32Max (f32Inf true)]
    | 3 => [xs.foldl f32Min (f32Inf false)]
    | _ => if tree then [(blockFirst f32Add cyc).getD 0] else [laneFirst f32Add sq]
  else match r.fn with
    | 0 => let v := wrapN 64 ints.sum; [v % 2 ^ 32, v / 2 ^ 32]
    | 1 => let v := wrapN 96 (ints.map (fun i => i * i)).sum; [v % 2 ^ 32, v / 2 ^ 32 % 2 ^ 32, v / 2 ^ 64]
    | 2 => [wrapN 32 (ints.foldl max (-(2 ^ 31 : Nat)))]
    | _ => [wrapN 32 (ints.foldl min ((2 ^ 31 : Nat) - 1))]

/-- The checks of a reduction's sum (R68, R174): modular, and of the same form on integers. -/
def reduceChecks (r : Reduction) : Bool :=
  let xs := r.cycles.flatten
  let ints := xs.map (signed (typeBits r.ty))
  if r.ty ≤ 1 then sumChecked r.q (r.q % checkModulus) xs
  else if r.ty = 5 then true
  else match r.fn with
    | 0 => intSumChecked ints
    | 1 => intSumChecked (ints.map (fun i => i * i))
    | _ => true

/-- Does a function of R174 exist for a type? -/
def reduceSuits (fn ty : Nat) : Bool := if ty ≤ 1 then decide (fn = 0) else decide (ty ≤ 5)

/-- The reduction path of a tile (R168, R177). -/
def State.treePath (s : State) (t : Nat) : Bool :=
  let v := s.reg (.tile (tIdx t) .vecCtrl)
  bit v 0 || bit v 1

/-- The modulus of a residue source; a free one where the spec names no prime for it. -/
def sourcePrime (x : Seat) (a : VOp) (ty : Nat) : Eng Nat := do
  match ← vopPrime x a with
  | some e => return e.q
  | none =>
    if 2 ≤ ty then return 0
    let d ← engDraw
    return 2 ^ 20 + d % (2 ^ 35 - 2 ^ 20)

/-- VREDUCE (R173). With a vector length of 0 it does nothing (R167, log entry 27). The spec gives no outcome for one without the open flag that finds no
reduction open, or one of another function or type: it ends the op with DESC_MALFORMED (DESIGN CHOICE, log entry 118). -/
def vreduceWork (w : StreamWord) (x : Seat) : Eng Unit := do
  let s ← engGet
  let n := (s.stream x.t x.k).vlNow
  let fn := w.mode.toNat % 4
  let a := vop w.inA
  let outQ := match vop w.out with
    | .queue q => if w.out = 0x3F then none else some q
    | .win _ => none
  if n = 0 then return ()
  if flag w 0 ∧ ((s.tile x.t).reduction).isSome ∧ (s.stream x.t x.k).done = 0 then engStall .busy
  allUnits x 1 (if flag w 1 then outQ else none) (fun _ => do
    match a with
    | .queue q => takeDirect x q n false
    | .win _ => pure ()) (fun _ => do
    let ty ← vopType x a
    engAssert (reduceSuits fn ty) .descMalformed
    let xs ← vopRead x a n false
    let q ← sourcePrime x a ty
    engAssert (decide (2 ≤ ty) || xs.all (fun v => decide (v < q))) .operandPoisoned
    let r0 ← (match flag w 0, ((← engGet).tile x.t).reduction with
      | true, _ => return ({ fn := fn, ty := ty, q := q } : Reduction)
      | false, some r => do
        engAssert (decide (r.fn = fn) && decide (r.ty = ty)) .descMalformed
        return r
      | false, none => engFault .descMalformed)
    let r := { r0 with cycles := r0.cycles ++ chunksOf 128 ((n + 127) / 128) xs }
    engAssert (decide ((r.cycles.map List.length).sum ≤ 2 ^ 24)) .descMalformed
    if flag w 1 then
      let d := vop w.out
      let tD ← vopType x d
      let ys := reduceResult r ((← engGet).treePath x.t)
      engAssert (if ty ≤ 1 then decide (tD ≤ 1) else if ty = 5 then decide (tD = 5) else decide (tD = 4)) .descMalformed
      engResidue (reduceChecks r)
      vopWrite x d ys
      engPut (fun s => s.updTile x.t (fun v => { v with reduction := none }))
    else engPut (fun s => s.updTile x.t (fun v => { v with reduction := some r }))
    vecAdvance x n (if w.mode.getLsbD 2 then [a] else []) none)

def execVreduce (t : Fin 576) (w : StreamWord) (s : State) : Host.Outcome State Fault Refusal := .next (s.issue t 2 0xA1 w (vreduceWork w))

end Sys2Proof.Machine
end

