-- ==== Sys2Proof/Machine/KeySwitch.lean ====
section
/-! DEFINITION. Ciphertext data in the engines: limbs in and out of memory, the arithmetic of limbs, base conversion (R109), key switching (R135 to R139), rescaling (R171, R172) and the exact BFV product (R284). -/
namespace Sys2Proof.Machine

/-- The limbs of one component, and of a ciphertext. -/
abbrev Limbs := List (List Nat)
abbrev CtData := List Limbs

/-- Where an op computes: partition, chain slot, log2 N, the tile that reports, and the chain. -/
structure Run where
  p : Nat
  c : Nat
  n : Nat
  rep : BitVec 16
  tiles : List Nat                  -- limb e of a value lies at rank e mod T (R96)
  h : ChainHdr
deriving DecidableEq, Repr

/-- The tile that holds limb `e` of a value, and its die. -/
def Run.tileOf (x : Run) (e : Nat) : Nat := x.tiles.getD (e % x.tiles.length) 0
def Run.die (x : Run) (e : Nat) : Option Nat := if x.tiles = [] then none else some (siteOf (x.tileOf e))

/-- A prime entry of the run's chain. -/
def Run.prime (x : Run) (e : Nat) : Eng PrimeEntry := fun s => .ok (s.prime x.p x.c e) s
/-- The prime entries of a list. -/
def Run.entries (x : Run) (es : List Nat) : Eng (List PrimeEntry) := fun s => .ok (es.map (s.prime x.p x.c)) s
/-- The primes of entries. -/
def Run.qs (x : Run) (es : List Nat) : Eng (List Nat) := fun s => .ok (es.map (fun e => (s.prime x.p x.c e).q)) s

/-! ### Memory -/

/-- Read limb `i` of component `c` of a handle and check it (R37): a damaged limb poisons the handle (R57). -/
def readLimb (x : Run) (handle : Nat) (h : Header) (c i : Nat) : Eng (List Nat) := fun s =>
  let q := (s.prime x.p x.c i).q
  match s.readVA x.p (hBase h c + i * hStride h c) (limbSize (hN h) (hStorage h)) (x.die i) with
  | .error (.fault f) => .error (.mem 1 (.fault f)) s
  | .error (.bad pa _) => .error (.poison [handle]) (s.badLine pa (some x.p) x.rep)
  | .ok bs =>
    let xs := limbOf (hStorage h) (hN h) bs
    if xs.all (fun v => decide (v < q)) then .ok xs s else .error (.poison [handle]) s

/-- Read the first `levels` limbs of the first `comps` components. -/
def readCt (x : Run) (handle : Nat) (h : Header) (comps levels : Nat) : Eng CtData :=
  (List.range comps).mapM (fun c => (List.range levels).mapM (fun i => readLimb x handle h c i))

/-- The bytes of a stored limb (R35, R36). -/
def limbBytes (storage : Nat) (xs : List Nat) : List Byte :=
  let w := if storage = 0 then 36 else 64
  leBytes (w * xs.length / 8) (packBits w xs)

/-- The writes of a ciphertext's limbs. -/
def ctRuns (h : Header) (d : CtData) : List (Nat × List Byte) :=
  (List.range d.length).flatMap (fun c =>
    let ls := d.getD c []
    (List.range ls.length).map (fun i => (hBase h c + i * hStride h c, limbBytes (hStorage h) (ls.getD i []))))

/-- Work that leaves nothing behind when it fails. -/
def allOrNothing (u : Eng Unit) : Eng Unit := fun s =>
  match u s with
  | .error h _ => .error h s
  | r => r

/-- Write limbs to a destination's places: all of them, or at a fault none, since an op that ends while it runs writes nothing to its destinations
(R160, R207, R273, R305; log entry 87). -/
def writeCt (p : Nat) (unit : Option Nat) (h : Header) (d : CtData) : Eng Unit :=
  allOrNothing ((ctRuns h d).forM (fun r => engFeed p unit [r]))

/-- The regions that a destination's limbs take, as address and length. -/
def limbRegions (h : Header) (comps levels : Nat) : List (Nat × Nat) :=
  (List.range comps).flatMap (fun c => (List.range levels).map (fun i =>
    (hBase h c + i * hStride h c, limbSize (hN h) (hStorage h))))

/-! ### Limb arithmetic -/

def addLimb (q : Nat) (a b : List Nat) : List Nat := List.zipWith (addMod q) a b
def subLimb (q : Nat) (a b : List Nat) : List Nat := List.zipWith (subMod q) a b
def mulLimb (q : Nat) (a b : List Nat) : List Nat := List.zipWith (mulMod q) a b
def negLimb (q : Nat) (a : List Nat) : List Nat := a.map (negMod q)
def scaleLimb (q c : Nat) (a : List Nat) : List Nat := a.map (mulMod q (c % q))

/-- Apply a limb operation limb by limb, with the prime of each. -/
def limbs2 (f : Nat → List Nat → List Nat → List Nat) (qs : List Nat) (a b : Limbs) : Limbs :=
  (qs.zip (a.zip b)).map (fun (q, x, y) => f q x y)
def limbs1 (f : Nat → List Nat → List Nat) (qs : List Nat) (a : Limbs) : Limbs := (qs.zip a).map (fun (q, x) => f q x)

/-- Component-wise over two ciphertexts; a missing component counts as zero. -/
def ct2 (f : Nat → List Nat → List Nat → List Nat) (qs : List Nat) (n : Nat) (a b : CtData) : CtData :=
  let zero : Limbs := qs.map (fun _ => List.replicate (2 ^ n) 0)
  (List.range (max a.length b.length)).map (fun c => limbs2 f qs (a.getD c zero) (b.getD c zero))

/-- Products of limbs that belong to the given entries, with their residue checks (R68). -/
def Run.mul (x : Run) (es : List Nat) (a b : Limbs) : Eng Limbs := do
  let ps ← x.entries es
  engResidue ((ps.zip (a.zip b)).all (fun (e, u, v) => mulChecks e.q e.check u v))
  return limbs2 mulLimb (ps.map (·.q)) a b

/-- The same with one factor `cs` for each limb. -/
def Run.scale (x : Run) (es cs : List Nat) (a : Limbs) : Eng Limbs := do
  let ps ← x.entries es
  engResidue ((ps.zip (cs.zip a)).all (fun (e, c, u) => u.all (fun v => mulChecked e.q e.check (c % e.q) v)))
  return (ps.zip (cs.zip a)).map (fun (e, c, u) => scaleLimb e.q c u)

/-- The components of a tensor product (R284). -/
def tensorCt (x : Run) (es : List Nat) (a b : CtData) : Eng CtData := do
  let qs ← x.qs es
  let a0 := a.getD 0 []
  let a1 := a.getD 1 []
  let b0 := b.getD 0 []
  let b1 := b.getD 1 []
  return [← x.mul es a0 b0, limbs2 addLimb qs (← x.mul es a0 b1) (← x.mul es a1 b0), ← x.mul es a1 b1]

/-- Transform limbs that belong to the given entries (R79, R80). -/
def Run.ntt (x : Run) (fwd : Bool) (es : List Nat) (ls : Limbs) : Eng Limbs :=
  (es.zip ls).mapM (fun (e, l) => do engTransform x.p (x.tileOf e) (← x.prime e) x.n fwd l)

/-- The product of primes. -/
def prodOf (qs : List Nat) : Nat := qs.foldl (· * ·) 1

/-- Fast base conversion (R109): out_c = Σ_k ((x_k · w_k mod q_k) · B_kc) mod p_c. -/
def bconv (src dst : List Nat) (xs : Limbs) : Limbs :=
  let big := prodOf src
  let ys := limbs1 (fun q l => scaleLimb q (invMod q (big / q % q)) l) src xs
  let len := (xs.headD []).length
  dst.map (fun pc => (List.range len).map (fun i =>
    sumMod pc ((src.zip ys).map (fun (q, y) => el y i % pc * (big / q % pc) % pc))))

/-- The residue checks of a base conversion (R68, R109): of each pre-scaled limb, and of each sum of products. -/
def bconvChecks (src dst : List PrimeEntry) (xs : Limbs) : Bool :=
  let qs := src.map (·.q)
  let big := prodOf qs
  let pre := fun (q : Nat) => invMod q (big / q % q)
  let ys := limbs1 (fun q l => scaleLimb q (pre q) l) qs xs
  (src.zip xs).all (fun (e, l) => l.all (fun v => mulChecked e.q e.check (pre e.q % e.q) v)) &&
  dst.all (fun e => (List.range (xs.headD []).length).all (fun i => sumChecked e.q e.check ((qs.zip ys).map (fun (q, y) => el y i * (big / q % e.q)))))

/-- A base conversion from entries to entries, with its checks. -/
def Run.bconv (x : Run) (src dst : List Nat) (xs : Limbs) : Eng Limbs := do
  let ss ← x.entries src
  let ds ← x.entries dst
  engResidue (bconvChecks ss ds xs)
  return Sys2Proof.Machine.bconv (ss.map (·.q)) (ds.map (·.q)) xs

/-! ### Key switching (R135) -/

/-- The entries of the extended basis at a level. -/
def Run.ext (x : Run) (l : Nat) : List Nat := List.range l ++ (List.range x.h.k).map (· + 64)

/-- Primes per digit, and digits at a level. -/
def Run.perDigit (x : Run) : Nat := (x.h.l + x.h.digits - 1) / x.h.digits
def Run.beta (x : Run) (l : Nat) : Nat := (l + x.perDigit - 1) / x.perDigit

/-- ModUp: the extended digits, each a list of limbs in the order of the extended basis. -/
def modUp (x : Run) (l : Nat) (d : Limbs) : Eng (List Limbs) :=
  (List.range (x.beta l)).mapM (fun j => do
    let dj := (List.range l).filter (fun i => decide (i / x.perDigit = j))
    let rest := (x.ext l).filter (fun e => !dj.contains e)
    let c ← x.ntt false dj (dj.map (fun i => d.getD i []))
    let e ← x.ntt true rest (← x.bconv dj rest c)
    return (x.ext l).map (fun i => if dj.contains i then d.getD i [] else e.getD (rest.idxOf i) []))

/-- The Ply unit's sums over the digits, for one half of the key, with the check of each accumulator (R68). -/
def plySums (x : Run) (k : KeySrc) (l g half : Nat) (dt : List Limbs) : Eng Limbs :=
  (List.range (x.ext l).length).mapM (fun i => do
    let e := (x.ext l).getD i 0
    let pe ← x.prime e
    let ds := dt.map (fun d => autoEval x.n g (d.getD i []))
    let keys ← (List.range dt.length).mapM (fun j => keyLimb x.p k half j e pe.q)
    countKey x.p k half dt.length
    engResidue ((List.range (2 ^ x.n)).all (fun m => sumChecked pe.q pe.check ((ds.zip keys).map (fun (d, key) => el d m * el key m))))
    return ((ds.zip keys).map (fun (d, key) => mulLimb pe.q d key)).foldl (addLimb pe.q) (List.replicate (2 ^ x.n) 0))

/-- ModDown of one component. -/
def modDown (x : Run) (l : Nat) (u : Limbs) : Eng Limbs := do
  let sp := (List.range x.h.k).map (· + 64)
  let qs ← x.qs (List.range l)
  let ps ← x.qs sp
  let c ← x.ntt false sp (u.drop l)
  let e ← x.ntt true (List.range l) (← x.bconv sp (List.range l) c)
  x.scale (List.range l) (qs.map (fun q => invMod q (prodOf ps % q))) (limbs2 subLimb qs (u.take l) e)

/-- v0 and v1 from the extended digits, one key and one Galois element. -/
def keySwitchFrom (x : Run) (k : KeySrc) (l g : Nat) (dt : List Limbs) : Eng (Limbs × Limbs) := do
  let u0 ← plySums x k l g 0 dt
  let u1 ← plySums x k l g 1 dt
  countMiss x.p k
  return (← modDown x l u0, ← modDown x l u1)

def keySwitch (x : Run) (k : KeySrc) (l g : Nat) (d : Limbs) : Eng (Limbs × Limbs) := do
  keySwitchFrom x k l g (← modUp x l d)

/-- RELIN (R137). -/
def relinCt (x : Run) (k : KeySrc) (l : Nat) (a : CtData) : Eng CtData := do
  let (v0, v1) ← keySwitch x k l 1 (a.getD 2 [])
  let qs ← x.qs (List.range l)
  return [limbs2 addLimb qs (a.getD 0 []) v0, limbs2 addLimb qs (a.getD 1 []) v1]

/-- KEYSWITCH, ROTATE and CONJUGATE from extended digits (R137, R139). -/
def galoisCt (x : Run) (k : KeySrc) (l g : Nat) (a : CtData) (dt : List Limbs) : Eng CtData := do
  let (v0, v1) ← keySwitchFrom x k l g dt
  let qs ← x.qs (List.range l)
  return [limbs2 addLimb qs ((a.getD 0 []).map (autoEval x.n g)) v0, v1]

/-! ### Rescaling (R171, R172) -/

/-- One rescale of a component at level `l`; `eval`: it is in evaluation form. -/
def rescaleLimbs (x : Run) (bgv eval : Bool) (l : Nat) (a : Limbs) : Eng Limbs := do
  let ql := (← x.prime (l - 1)).q
  let low := List.range (l - 1)
  let qs ← x.qs low
  let last ← if eval then x.ntt false [l - 1] [a.getD (l - 1) []] else pure [a.getD (l - 1) []]
  let t := x.h.t
  let ds := (last.getD 0 []).map (liftDelta ql (if bgv then t else 0))
  let c := qs.map (fun q => ds.map (toMod q))
  let c ← if eval then x.ntt true low c else pure c
  x.scale low (qs.map (fun q => invMod q (ql % q))) (limbs2 subLimb qs (a.take (l - 1)) c)

/-- RESCALE of every component. -/
def rescaleCt (x : Run) (bgv eval : Bool) (l : Nat) (a : CtData) : Eng CtData := a.mapM (rescaleLimbs x bgv eval l)

/-- `k` rescale steps from the top limb downward (R285). -/
def rescaleDown (x : Run) (bgv eval : Bool) : Nat → Nat → CtData → Eng CtData
  | 0, _, a => pure a
  | k + 1, l, a => do rescaleDown x bgv eval k (l - 1) (← rescaleCt x bgv eval l a)

/-! ### The exact product of BFV (R284) -/

/-- The centred integer that residues modulo pairwise coprime primes stand for. -/
def crt (qs rs : List Nat) : Int :=
  let big := prodOf qs
  centred big (((qs.zip rs).map (fun (q, r) => big / q * (r * invMod q (big / q % q) % q))).sum % big)

/-- The integers of a component from its limbs in coefficient form. -/
def crtLimbs (qs : List Nat) (ls : Limbs) : List Int :=
  (List.range (ls.headD []).length).map (fun i => crt qs (ls.map (fun l => el l i)))

/-- The nearest integer to t·v/Q, Q odd. -/
def scaleRound (t big : Nat) (v : Int) : Int := (2 * (t : Int) * v + big) / (2 * big : Nat)

/-- MUL on BFV: exact centred lift to the special primes, the tensor product there, scaling by t/Q_ℓ. -/
def mulBfv (x : Run) (l : Nat) (a b : CtData) : Eng CtData := do
  let low := List.range l
  let sp := (List.range x.h.k).map (· + 64)
  let qs ← x.qs low
  let ps ← x.qs sp
  let lift := fun (ls : Limbs) => (do
    let c ← x.ntt false low ls
    let v := crtLimbs qs c
    let e ← x.ntt true sp (ps.map (fun q => v.map (toMod q)))
    return ls ++ e : Eng Limbs)
  let a' ← (a.map (·.take l)).mapM lift
  let b' ← (b.map (·.take l)).mapM lift
  (← tensorCt x (low ++ sp) a' b').mapM (fun ls => do
    let c ← x.ntt false (low ++ sp) ls
    let v := (crtLimbs (qs ++ ps) c).map (scaleRound x.h.t (prodOf qs))
    x.ntt true low (qs.map (fun q => v.map (toMod q))))

end Sys2Proof.Machine
end

