-- ==== Sys2Proof/Machine/Expand.lean ====
section
/-! DEFINITION. Expanded ops: linear-transform plans (R292, R293), polynomial blocks (R294), refresh bundles (R301 to R304), their expansions as programs, and how a program is evaluated on headers and on data (R291). -/
namespace Sys2Proof.Machine

/-! ### Programs -/

/-- The plaintext of a step. -/
inductive Pt where
  | diag (base stride storage : Nat)   -- a diagonal of a plan
  | const (c : Int)                    -- every evaluation-form element holds c mod q_i
  | monomial                           -- X^(N/2)
deriving DecidableEq, Repr

/-- One step: what it does to contents and to data; `a` and `b` number earlier values, value 0 the operand. -/
structure XStep where
  st : CtStep
  sub : Bool := false
  a : Nat
  b : Option Nat := none
  key : Option Nat := none             -- directory index
  g : Nat := 1
  pt : Option Pt := none
deriving DecidableEq, Repr

/-- A program; step i gives value i + 1. -/
abbrev Prog := List XStep

/-- Append a step, and the number of its value. -/
def Prog.push (b : Prog) (x : XStep) : Prog × Nat := (b ++ [x], b.length + 1)

/-! ### Linear transforms -/

/-- A linear-transform plan (R292). -/
structure LtPlan where
  raw : Nat
  diags : Nat
  rescale : Bool
  storage : Nat
  level : Nat
  chain : Nat
  scale : Nat
  stride : Nat
  rots : List (Nat × Nat × Nat)        -- raw entry, ROT as 32 bits, PT_BASE
deriving DecidableEq, Repr

def ltHeader (x : Nat) (ds : List Nat) : LtPlan :=
  { raw := x, diags := nbits x 6 0, rescale := decide (nbits x 7 7 = 1), storage := nbits x 8 8, level := nbits x 15 9, chain := nbits x 19 16,
    scale := nbits x 63 32, stride := nbits x 95 64, rots := ds.map (fun d => (d, nbits d 31 0, nbits d 111 64)) }

/-- Rotation amounts that are not zero, in plan order. -/
def LtPlan.nonzero (l : LtPlan) : List Nat := (l.rots.map (fun r => r.2.1)).filter (fun r => decide (r ≠ 0))

/-- The header's own rules, before its diagonals are read. -/
def LtPlan.headOk (l : LtPlan) : Bool :=
  decide (nbits l.raw 31 20 = 0) && decide (nbits l.raw 511 96 = 0) && decide (1 ≤ l.diags ∧ l.diags ≤ 64) && decide (1 ≤ l.level ∧ l.level ≤ 64)

/-- Is a plan well formed for a scheme (R292)? -/
def LtPlan.ok (l : LtPlan) (ckks : Bool) : Bool :=
  l.headOk && (ckks || (!l.rescale && decide (l.scale = 0))) && l.rots.all (fun r => decide (nbits r.1 63 32 = 0) && decide (nbits r.1 127 112 = 0)) &&
  decide l.nonzero.Nodup

/-- Does a plan suit an operand (PARAM_MISMATCH otherwise)? -/
def LtPlan.suits (l : LtPlan) (chain level : Nat) : Bool := decide (l.chain = chain) && decide (level ≤ l.level)
/-- Placement: alignment, then the stride. -/
def LtPlan.aligned (l : LtPlan) : Bool :=
  l.rots.all (fun r => decide (r.2.2 % 64 = 0)) && decide (l.stride % (if l.storage = 0 then 576 else 8) = 0)
def LtPlan.wide (l : LtPlan) (n : Nat) : Bool := decide (limbSize (2 ^ n) l.storage ≤ l.stride)

/-- Bytes that an op reads from a record. -/
def recordBytes (p a n : Nat) : Eng (List Byte) := fun s =>
  match s.readVA p a n with
  | .ok bs => .ok bs s
  | .error e => .error (.mem 6 e) s

/-- Read a plan: the header, then its diagonals. -/
def readPlan (p a : Nat) : Eng LtPlan := do
  let h := leNat (← recordBytes p a 64)
  let l := ltHeader h []
  if !l.headOk then return l
  let bs ← recordBytes p (a + 64) (16 * l.diags)
  return ltHeader h ((chunksOf 16 l.diags bs).map leNat)

/-- The hoisted rotations of a plan: one key switch for each nonzero rotation, in plan order. -/
def hoistSteps (b : Prog) (x n : Nat) (ckks : Bool) (key : Nat) (rots : List Nat) : Prog × List (Nat × Nat) :=
  (rots.foldl (fun (acc : (Prog × List (Nat × Nat)) × Nat) r =>
    let (b, v) := Prog.push acc.1.1 { st := .keySwitch, a := x, key := some acc.2, g := rotGalois ckks n (signed 32 r) }
    ((b, acc.1.2 ++ [(r, v)]), acc.2 + 1)) ((b, []), key)).1

/-- LINEAR_TRANSFORM applied to value `x` (R293): the program, and the value of the result. -/
def ltProg (b : Prog) (x n : Nat) (ckks : Bool) (key : Nat) (l : LtPlan) : Prog × Nat :=
  let (b, ys) := hoistSteps b x n ckks key l.nonzero
  let src := fun (r : Nat) => if r = 0 then x else ((ys.find? (fun y => y.1 = r)).map (·.2)).getD x
  let mulPt := fun (b : Prog) (d : Nat × Nat × Nat) =>
    Prog.push b { st := .mulPlain l.scale, a := src d.2.1, pt := some (.diag d.2.2 l.stride l.storage) }
  match l.rots with
  | [] => (b, x)
  | d :: rest =>
    let (b, acc) := mulPt b d
    let (b, acc) := rest.foldl (fun (st : Prog × Nat) d =>
      let (b, m) := mulPt st.1 d
      Prog.push b { st := .add, a := st.2, b := some m }) (b, acc)
    if l.rescale then Prog.push b { st := .rescale, a := acc } else (b, acc)

/-! ### Polynomials -/

/-- A polynomial block (R294). -/
structure PolyBlk where
  raw : Nat
  degree : Nat
  scale : Nat
  cs : List Int
deriving DecidableEq, Repr

def polyDegrees : List Nat := [3, 7, 11, 15, 19, 23, 27, 31]

/-- Is the header of a polynomial block well formed? -/
def polyHeadOk (x : Nat) (ckks : Bool) : Bool :=
  polyDegrees.contains (nbits x 4 0) && decide (nbits x 31 5 = 0) && decide (nbits x 511 64 = 0) && (ckks || decide (nbits x 63 32 = 0))

/-- Read a block whose header is well formed, with `extra` further 64-bit words behind the coefficients. -/
def readPoly (p a extra : Nat) (ckks : Bool) : Eng (PolyBlk × List Int) := do
  let h := leNat (← recordBytes p a 64)
  engAssert (polyHeadOk h ckks) .descMalformed
  let d := nbits h 4 0
  let bs ← recordBytes p (a + 64) (8 * (d + 1 + extra))
  let ws := (chunksOf 8 (d + 1 + extra) bs).map (fun w => signed 64 (leNat w))
  return ({ raw := h, degree := d, scale := nbits h 63 32, cs := ws.take (d + 1) }, ws.drop (d + 1))

/-- RS of R294: RESCALE on CKKS, nothing otherwise. -/
def pushRS (b : Prog) (ckks : Bool) (x : Nat) : Prog × Nat := if ckks then Prog.push b { st := .rescale, a := x } else (b, x)

/-- RL(MUL(x, y)). -/
def pushProd (b : Prog) (key x y : Nat) : Prog × Nat :=
  let (b, m) := Prog.push b { st := .mul, a := x, b := some y }
  Prog.push b { st := .relin, a := m, key := some key }

/-- RS(RL(MUL(x, y))). -/
def pushMul (b : Prog) (ckks : Bool) (key x y : Nat) : Prog × Nat :=
  let (b, m) := pushProd b key x y
  pushRS b ckks m

/-- The powers P[1], P[2], P[4], … up to J, by squaring (R294). -/
def pushPowers (b : Prog) (ckks : Bool) (key j : Nat) : Nat → List (Nat × Nat) → Prog × List (Nat × Nat)
  | 0, ps => (b, ps)
  | fuel + 1, ps =>
    match ps.getLast? with
    | some (i, v) =>
      if 2 * i ≤ j then
        let (b, w) := pushMul b ckks key v v
        pushPowers b ckks key j fuel (ps ++ [(2 * i, w)])
      else (b, ps)
    | none => (b, ps)

def powerOf (ps : List (Nat × Nat)) (i : Nat) : Nat := ((ps.find? (fun q => q.1 = i)).map (·.2)).getD 0

/-- POLY_EVAL applied to value `x` (R294). -/
def polyProg (b : Prog) (x : Nat) (ckks : Bool) (key : Nat) (k : PolyBlk) : Prog × Nat :=
  let j := (k.degree - 3) / 4
  let c := fun (i : Nat) => k.cs.getD i 0
  let (b, x2) := pushMul b ckks key x x
  let (b, x3) := pushMul b ckks key x2 x
  let (b, ps) := if 1 ≤ j then
      let (b, p1) := pushMul b ckks key x2 x2
      pushPowers b ckks key j 3 [(1, p1)]
    else (b, [])
  let (b, ps) := ((List.range (j + 1)).filter (fun i => decide (3 ≤ i) && !(decide (i = 4)))).foldl (fun (st : Prog × List (Nat × Nat)) i =>
      let h := 2 ^ Nat.log2 (i - 1)
      let (b, v) := pushMul st.1 ckks key (powerOf st.2 h) (powerOf st.2 (i - h))
      (b, st.2 ++ [(i, v)])) (b, ps)
  let term := fun (b : Prog) (v : Nat) (i : Nat) =>
    let (b, m) := Prog.push b { st := .mulConst (c i) k.scale, a := v, pt := some (.const (c i)) }
    pushRS b ckks m
  let (b, qs) := (List.range (j + 1)).foldl (fun (st : Prog × List Nat) i =>
      let (b, t1) := term st.1 x (4 * i + 1)
      let (b, t2) := term b x2 (4 * i + 2)
      let (b, s1) := Prog.push b { st := .add, a := t1, b := some t2 }
      let (b, t3) := term b x3 (4 * i + 3)
      let (b, s2) := Prog.push b { st := .add, a := s1, b := some t3 }
      let (b, q) := Prog.push b { st := .addPlain none, a := s2, pt := some (.const (c (4 * i))) }
      (b, st.2 ++ [q])) (b, [])
  ((List.range j).map (· + 1)).foldl (fun (st : Prog × Nat) i =>
    let (b, m) := pushMul st.1 ckks key (qs.getD i 0) (powerOf ps i)
    Prog.push b { st := .add, a := st.2, b := some m }) (b, qs.getD 0 0)

/-! ### Refresh bundles -/

/-- A bundle header (R302). -/
structure Bundle where
  raw : Nat
  log2N : Nat
  chain : Nat
  depth : Nat
  cts : Nat
  stc : Nat
  degree : Nat
  doublings : Nat
  outScale : Nat
  rOut : Nat
  keySet : Nat
  relinKey : Nat
  conjKey : Nat
  rotBase : Nat
  plans : List Nat
  poly : Nat
  workBase : Nat
  workStride : Nat
  workSlots : Nat
deriving DecidableEq, Repr

def bundleOf (x : Nat) : Bundle :=
  { raw := x, log2N := nbits x 4 0, chain := nbits x 11 8, depth := nbits x 22 16, cts := nbits x 26 24, stc := nbits x 30 28, degree := nbits x 36 32,
    doublings := nbits x 42 40, outScale := nbits x 95 64, rOut := nbits x 111 96, keySet := nbits x 191 128, relinKey := nbits x 203 192,
    conjKey := nbits x 215 204, rotBase := nbits x 227 216, plans := (List.range 8).map (fun k => nbits x (64 * k + 559) (64 * k + 512)),
    poly := nbits x 1071 1024, workBase := nbits x 1135 1088, workStride := nbits x 1183 1152, workSlots := nbits x 1189 1184 }

/-- The plan addresses that a bundle uses: CoeffToSlot, then SlotToCoeff. -/
def Bundle.ctsPlans (b : Bundle) : List Nat := (List.range b.cts).map (fun k => b.plans.getD k 0)
def Bundle.stcPlans (b : Bundle) : List Nat := (List.range b.stc).map (fun k => b.plans.getD (4 + k) 0)

/-- The rules of R302 and R303 step 2 on the header alone, for an operand and a chain. -/
def Bundle.headOk (b : Bundle) (n chain keySet l : Nat) : Bool :=
  decide (nbits b.raw 7 5 = 0) && decide (nbits b.raw 15 12 = 0) && decide (nbits b.raw 23 23 = 0) && decide (nbits b.raw 27 27 = 0) &&
  decide (nbits b.raw 31 31 = 0) && decide (nbits b.raw 39 37 = 0) && decide (nbits b.raw 63 43 = 0) && decide (nbits b.raw 127 112 = 0) &&
  decide (nbits b.raw 255 228 = 0) && decide ((List.range 8).all (fun k => nbits b.raw (64 * k + 575) (64 * k + 560) = 0)) &&
  decide (nbits b.raw 511 256 = 0) && decide (nbits b.raw 1087 1072 = 0) && decide (nbits b.raw 1151 1136 = 0) && decide (nbits b.raw 2047 1190 = 0) &&
  decide (b.log2N = n) && decide (b.chain = chain) && decide (b.keySet = keySet) && decide (1 ≤ b.cts ∧ b.cts ≤ 4) && decide (1 ≤ b.stc ∧ b.stc ≤ 4) &&
  polyDegrees.contains b.degree && decide (1 ≤ b.workSlots) && decide (b.workBase % 64 = 0) &&
  decide (32 * l * limbSize (2 ^ n) 0 ≤ b.workStride) && decide (b.depth < l)

/-- One double-angle step (R304 step 3). -/
def pushDouble (b : Prog) (key p : Nat) (a : Int) : Prog × Nat :=
  let (b, t) := pushProd b key p p
  let (b, d) := Prog.push b { st := .add, a := t, b := some t }
  let (b, e) := Prog.push b { st := .addPlain none, a := d, pt := some (.const a) }
  pushRS b true e

/-- EvalMod of one half (R304 step 3). -/
def evalMod (b : Prog) (u key : Nat) (k : PolyBlk) (as : List Int) : Prog × Nat :=
  as.foldl (fun (st : Prog × Nat) a => pushDouble st.1 key st.2 a) (polyProg b u true key k)

/-- Plans one after the other; each takes the next rotation keys. -/
def pushPlans (b : Prog) (x n key : Nat) (ls : List LtPlan) : Prog × Nat × Nat :=
  ls.foldl (fun (st : Prog × Nat × Nat) l =>
    let (b, y) := ltProg st.1 st.2.1 n true st.2.2 l
    (b, y, st.2.2 + l.nonzero.length)) (b, x, key)

/-- What the stages of R304 give: the program from the raised ciphertext, the result, and the values of the checkpoints after steps 1, 2, 3 and 5 (R305). -/
def refreshSteps (n : Nat) (d : Bundle) (cts stc : List LtPlan) (k : PolyBlk) (as : List Int) : Prog × Nat × List (List Nat) :=
  let (b, y, key) := pushPlans [] 0 n d.rotBase cts
  let (b, yc) := Prog.push b { st := .keySwitch, a := y, key := some d.conjKey, g := conjGalois n }
  let (b, u0) := Prog.push b { st := .add, a := y, b := some yc }
  let (b, u1) := Prog.push b { st := .add, sub := true, a := y, b := some yc }
  let (b, p0) := evalMod b u0 d.relinKey k as
  let (b, p1) := evalMod b u1 d.relinKey k as
  let (b, m) := Prog.push b { st := .mulPlain 0, a := p1, pt := some .monomial }
  let (b, w) := Prog.push b { st := .add, a := p0, b := some m }
  let (b, r, _) := pushPlans b w n key stc
  (b, r, [[0], [u0, u1], [p0, p1], [r]])

/-! ### Evaluation on headers (R291) -/

/-- The contents of all values, in expansion order; the first step that would be refused refuses the op. -/
def Prog.contents (c : Ctx) (b : Prog) (x : Content) : Except Halt (List Content) :=
  b.foldlM (fun vs st => do
    let a := vs.getD st.a x
    let r ← st.st.eval c a (st.b.map (fun i => vs.getD i x))
    return vs ++ [r]) [x]

/-- The levels of all values by the Level column of R51 alone. -/
def Prog.levels (b : Prog) (l : Int) : List Int :=
  b.foldl (fun vs st =>
    let a := vs.getD st.a l
    let v := match st.b with
      | some i => min a (vs.getD i l)
      | none => a
    vs ++ [match st.st with
      | .rescale => v - 1
      | .modDrop k => v - k
      | _ => v]) [l]

/-- The keys of a program with kind, Galois element and the highest level at which each is used (R158). -/
structure KeyUse where
  dir : Nat
  kind : Nat
  g : Nat
  level : Nat
deriving DecidableEq, Repr

/-- Key uses in order of first use; a key used at several levels is compared with the highest. -/
def Prog.keyUses (b : Prog) (vs : List Content) : List KeyUse :=
  b.foldl (fun us st =>
    match st.key with
    | none => us
    | some d =>
      let l := ((vs[st.a]?).map (·.level)).getD 0
      let k := if st.st = .relin then 1 else 2
      if us.any (fun u => u.dir = d ∧ u.kind = k ∧ u.g = st.g) then
        us.map (fun u => if u.dir = d ∧ u.kind = k ∧ u.g = st.g then { u with level := max u.level l } else u)
      else us ++ [{ dir := d, kind := k, g := st.g, level := l }]) []

/-! ### Evaluation on data -/

/-- The limbs of a plaintext at a level. -/
def ptLimbs (x : Run) (l : Nat) : Pt → Eng Limbs
  | .diag base stride storage => (List.range l).mapM (fun i => do
      let q := (← x.prime i).q
      let xs := limbOf storage (2 ^ x.n) (← engMem 1 ((← engGet).readVA x.p (base + i * stride) (limbSize (2 ^ x.n) storage) (x.die i)))
      engAssert (xs.all (fun v => decide (v < q))) .operandPoisoned
      return xs)
  | .const c => do return (← x.qs (List.range l)).map (fun q => List.replicate (2 ^ x.n) (toMod q c))
  | .monomial => (List.range l).mapM (fun i => do
      let e ← x.prime i
      return (List.range (2 ^ x.n)).map (fun j => powMod e.q e.omega (2 ^ (x.n - 1) * evalExp x.n j % (2 * 2 ^ x.n))))

/-- One step on data; `l` is the level of its first operand, `bgv` and `bfv` its scheme. -/
def XStep.run (x : Run) (scheme : Nat) (keys : List (Nat × KeySrc)) (st : XStep) (l : Nat) (a b : CtData) : Eng CtData := do
  let qs ← x.qs (List.range l)
  match st.st with
  | .add => return ct2 (if st.sub then subLimb else addLimb) qs x.n a b
  | .neg => return a.map (limbs1 negLimb qs)
  | .addPlain _ => match st.pt with
    | some pt =>
      let m ← ptLimbs x l pt
      return [limbs2 addLimb qs (a.getD 0 []) m] ++ a.drop 1
    | none => return a
  | .mulPlain _ => match st.pt with
    | some pt =>
      let m ← ptLimbs x l pt
      a.mapM (fun c => x.mul (List.range l) c m)
    | none => return a
  | .mulConst c _ => a.mapM (x.scale (List.range l) (qs.map (fun q => toMod q c)))
  | .mul => if scheme = 2 then mulBfv x l a b else tensorCt x (List.range l) a b
  | .relin => match keys.find? (fun k => some k.1 = st.key) with
    | some k => relinCt x k.2 l a
    | none => return a
  | .keySwitch => match keys.find? (fun k => some k.1 = st.key) with
    | some k => do galoisCt x k.2 l st.g a (← modUp x l (a.getD 1 []))
    | none => return a
  | .rescale => rescaleCt x (decide (scheme = 1)) true l a
  | .modDrop k => return a.map (·.take (l - k))
  | .nttFwd => a.mapM (x.ntt true (List.range l))
  | .nttInv => a.mapM (x.ntt false (List.range l))

/-- All values of a program; operands are read in their first limbs at the level of the step (R44). -/
def Prog.run (x : Run) (scheme : Nat) (keys : List (Nat × KeySrc)) (vs : List Content) (b : Prog) (d : CtData) : Eng (List CtData) :=
  b.foldlM (fun ds st => do
    let lv := fun (i : Nat) => ((vs[i]?).map (·.level)).getD 0
    let l := match st.b with
      | some i => min (lv st.a) (lv i)
      | none => lv st.a
    let cut := fun (i : Nat) => (ds.getD i []).map (·.take l)
    let r ← st.run x scheme keys l (cut st.a) ((st.b.map cut).getD [])
    return ds ++ [r]) [d]

/-- ModRaise (R304 step 1): limb 0, lifted by the CKKS rule to every prime of the chain. -/
def modRaise (x : Run) (form : Nat) (a : CtData) : Eng CtData := do
  let q0 := (← x.prime 0).q
  let all := List.range x.h.l
  let qs ← x.qs all
  a.mapM (fun c => do
    let l0 ← if form = 1 then x.ntt false [0] (c.take 1) else pure (c.take 1)
    let ds := (l0.getD 0 []).map (liftDelta q0 0)
    x.ntt true all (qs.map (fun q => ds.map (toMod q))))

end Sys2Proof.Machine
end

