-- ==== Sys2Proof/Machine/Ready.lean ====
section
/-! DEFINITION. Readiness of ciphertext ops: the checks of R61 in their order, the checks of R281 to R294 and R303 behind them, auto-refresh (R54), and what readiness fixes about an op. -/
namespace Sys2Proof.Machine

/-- What readiness fixes about an op. -/
structure Ready where
  hdrA : Header := 0
  hdrB : Header := 0
  results : List (Nat × Header) := []   -- destination handles with the headers that bind-off will write
  limbs : List (Nat × Nat) := []        -- their limb regions
  spoil : List (Nat × Nat) := []
  scratch : List (Nat × Nat) := []      -- regions that it uses as its own store
  dirs : List (Nat × Nat) := []
  descs : List (Nat × Nat) := []
  slots : List Nat := []
  reads : List Nat := []                -- handles it reads
  footR : List (Nat × Nat) := []
  footW : List (Nat × Nat) := []
  hold : Nat × Nat := (0, 0)
  plan : Option CustomPlan := none
  workSlot : Option Nat := none
  sumsFp32 : Bool := false              -- it contains an FP32 SUM or SUMSQ reduction (R177)
  refresh : Option Nat := none          -- the handle on which a REFRESH is inserted before the op

/-! ### Descriptors and what an op names -/

/-- Entry `i` of the job's descriptor array, `n` entries long, as the dispatcher of the op's die reads it, through the runtime's lines of that die's cache (R219, log entry 107). -/
def opDesc (j : Job) (unit : Option Nat) (i n : Nat) : Eng Nat := fun s =>
  match s.cachedVA j.part unit (seDesc j.entry + 64 * i) (64 * n) .read true with
  | .ok (bs, s) => .ok (leNat bs) s
  | .error e => .error (.mem 6 e) s

/-- The same without effect, where it can be read. -/
def State.peekDesc (s : State) (j : Job) (i n : Nat) : Option Nat :=
  match s.readVA j.part (seDesc j.entry + 64 * i) (64 * n) with
  | .ok bs => some (leNat bs)
  | .error _ => none

/-- The ciphertext inputs that the reference entry of a CUSTOM op declares (R295). -/
def State.customInputs (s : State) (j : Job) (e : Entry) : Nat := match s.peekDesc j (oeChain e) 1 with
  | some x => nbits x 97 96
  | none => 0

/-- Does the container of a CUSTOM op declare a ciphertext result? -/
def State.customResult (s : State) (j : Job) (e : Entry) : Bool := match s.peekDesc j (oeChain e) 1 with
  | some x => match s.readVA j.part (nbits x 47 0) 4 with
    | .ok bs => decide (nbits (leNat bs) 25 24 ≠ 0)
    | .error _ => false
  | none => false

/-- Every handle that an op reads and writes, those in descriptors and containers included (R266). -/
def State.opHandles (s : State) (j : Job) (e : Entry) : List Nat × List Nat :=
  if oeOpcode e = 0x7F then
    (([oeA e, oeB e].take (s.customInputs j e)), if s.customResult j e then [oeD e] else [])
  else if oeOpcode e = 0x21 then
    (handleReads e, match s.peekDesc j (oeTA e) 2 with
      | some x => (List.range (min 64 ((tdesc x).d 0).ext)).map (fun k => oeD e + k)
      | none => handleWrites e)
  else (handleReads e, handleWrites e)

/-- The op entries of a job in index order. -/
def Job.entries (j : Job) : List Entry := (j.ops.filter (fun o => o.inserted.isNone)).map (·.entry)

/-- Does some op of the job that no path joins to op `i` name one of these handles, at least one of the two writing it (R266)? -/
def State.unjoinedMeet (s : State) (j : Job) (i : Nat) (rd wr : List Nat) : Bool :=
  let es := j.entries
  let anc := ancestors es
  (List.range es.length).any (fun k =>
    decide (k ≠ i) && !joined anc i k &&
    (let (r2, w2) := s.opHandles j (es.getD k 0)
     handlesMeet rd wr r2 w2))

/-! ### The key directory (R152, R451) -/

/-- Read a directory entry (R152). -/
def dirEntry (p idx : Nat) : Eng KeyEntry := fun s =>
  match s.keyEntry p idx with
  | .ok e => .ok e s
  | .error e => .error (.mem 6 e) s

/-- PROTECT of a reservoir quad that the partition does not own. -/
def dirOwned (p : Nat) (es : List KeyEntry) : Eng Unit := do
  let s ← engGet
  engAssert (es.all (fun e => !e.resValid || s.resOwned p e)) .protect

/-- The checks of entries whose indices a record gives (R451). -/
def dirCheck (p : Nat) (idxs : List Nat) : Eng (List KeyEntry) := do
  let s ← engGet
  engAssert (idxs.all (fun i => decide (i < s.keyDirCount p))) .bounds
  let es ← idxs.mapM (dirEntry p)
  engAssert (es.all ((← engGet).keyEntryOk p)) .descMalformed
  dirOwned p es
  return es

/-! ### Steps 1 to 4 of R61 -/

/-- The ops whose own KEY_INDEX is checked within R61 (R451). -/
def keyedOps : List Nat := [0x17, 0x20, 0x21, 0x22, 0x23, 0x31]

/-- The declaration of LOAD_CT (R282): well formed? -/
def declOk (h : Header) : Bool :=
  hReservedOk h && hContentOk h && decide (hCap h = 0) && decide (hStorage h = 0) && !hPoisoned h && !hExhausted h && decide (bits h 511 256 = 0)

/-- The COMPONENTS value of the result that step 3 checks a destination for. -/
def resultComps (op : Nat) (a b decl : Header) : Nat :=
  match op with
  | 0x01 => hComps decl
  | 0x10 | 0x11 => if hComps a = 3 ∨ hComps b = 3 then 3 else 2
  | 0x02 | 0x12 | 0x14 | 0x15 | 0x18 | 0x19 => hComps a
  | 0x16 => 3
  | _ => 2

/-- What steps 1 to 4 read. -/
structure Front where
  a : Header := 0
  b : Header := 0
  d : Header := 0
  decl : Header := 0
  key : Option KeyEntry := none

/-- Steps 1 to 4 of R61. -/
def ctFront (j : Job) (unit : Option Nat) (e : Entry) : Eng Front := do
  let p := j.part
  let op := oeOpcode e
  let u := usesOf op false
  let keyed := keyedOps.contains op
  let s ← engGet
  let hs := (if u.a then [oeA e] else []) ++ (if u.b then [oeB e] else []) ++ (if u.d then [oeD e] else [])
  engAssert (hs.all (fun h => decide (h < s.handleCount p)) && (!keyed || decide (oeKey e < s.keyDirCount p))) .bounds
  let k ← if keyed then some <$> dirEntry p (oeKey e) else pure none
  let a ← if u.a then readHeader p (oeA e) else pure 0
  let b ← if u.b then (if oeB e = oeA e then pure a else readHeader p (oeB e)) else pure 0
  let d ← if u.d then (if u.a ∧ oeD e = oeA e then pure a else if u.b ∧ oeD e = oeB e then pure b else readHeader p (oeD e)) else pure 0
  let decl ← if op = 0x01 then BitVec.ofNat 512 <$> opDesc j unit (oeTA e) 1 else pure 0
  let s ← engGet
  engAssert ((!u.a || sourceOk a) && (!u.b || sourceOk b) && (!u.d || destOk d) && (decide (op ≠ 0x01) || declOk decl) &&
    (match k with | some k => s.keyEntryOk p k | none => true)) .descMalformed
  let first := if op = 0x01 then decl else a
  placeCheck ((if u.a then [⟨oeA e, a, compCount (hComps a), hLog2N a⟩] else []) ++
    (if u.b then [⟨oeB e, b, compCount (hComps b), hLog2N b⟩] else []) ++
    (if u.d then [⟨oeD e, d, compCount (resultComps op a b decl), hLog2N first⟩] else []))
  engAssert (!(u.a && hPoisoned a) && !(u.b && hPoisoned b)) .operandPoisoned
  return { a := a, b := b, d := d, decl := decl, key := k }

/-! ### Refresh bundles (R301, R302) -/

/-- The address of the installed bundle of a chain and a key set: the lowest matching table entry. -/
def bundleAddr (p chain ks : Nat) : Nat → Nat → Eng (Option Nat)
  | 0, _ => pure none
  | fuel + 1, i => do
    let s ← engGet
    let base := (s.act (pr p .rbBaseLo)).toNat + (s.act (pr p .rbBaseHi)).toNat * 2 ^ 32
    let x := leNat (← recordBytes p (base + 64 * i) 64)
    if nbits x 0 0 = 1 ∧ nbits x 4 1 = chain ∧ nbits x 127 64 = ks then return some (nbits x 175 128)
    bundleAddr p chain ks fuel (i + 1)

def bundleFor (p chain ks : Nat) : Eng (Option Nat) := do
  bundleAddr p chain ks (bits ((← engGet).act (pr p .rbCount)) 4 0) 0

def readBundle (p a : Nat) : Eng Bundle := do return bundleOf (leNat (← recordBytes p a 256))

/-- The bundle as auto-refresh sees it (R54): a fault or an uncorrectable line counts as none installed. -/
def quietBundle (p chain ks : Nat) : Eng (Option Bundle) := fun s =>
  match (do
    match ← bundleFor p chain ks with
    | some a => return some (← readBundle p a)
    | none => return none : Eng (Option Bundle)) s with
  | .ok b s => .ok b s
  | .error (.mem _ (.fault f)) s => .ok none (s.capture p 6 f)
  | .error (.mem _ (.bad pa _)) s => .ok none (s.badLine pa (some p) (hankUnit (s.vfPort p)))
  | .error _ s => .ok none s

/-! ### Auto-refresh (R54) -/

/-- Does an op of the job read the handle that is neither STORE_CT nor REFRESH (R54(d))? -/
def State.hasReader (s : State) (j : Job) (h : Nat) : Bool :=
  j.entries.any (fun e => decide (oeOpcode e ≠ 0x02) && decide (oeOpcode e ≠ 0x32) && (s.opHandles j e).1.contains h)

/-- Conditions (a) to (d) of R54 for a handle and its header. -/
def refreshWanted (j : Job) (h : Nat) (hdr : Header) (guard : Nat) : Eng Bool := do
  let s ← engGet
  if !(seAutoRefresh j.entry && hValid hdr && exhausted hdr guard && decide (hScheme hdr = 0) && s.hasReader j h) then return false
  match s.chain? j.part (hChain hdr) with
  | none => return false
  | some c => match ← quietBundle j.part (hChain hdr) (hKeySet hdr) with
    | none => return false
    | some b => return decide (c.l - b.depth ≤ hCap hdr)

/-- Has a REFRESH been inserted on this handle in the job, or has an op of the job written it? -/
def Job.touched (j : Job) (h : Nat) : Bool :=
  j.ops.any (fun o => (o.inserted.isSome && decide (oeA o.entry = h)) || (decide (o.phase = .bound) && o.results.any (fun x => x.1 = h)))

/-- The first operand on which a REFRESH is to be inserted before the op (R54). -/
def refreshFirst (j : Job) (r : OpRec) (guard : Nat) : List (Nat × Header) → Eng (Option Nat)
  | [] => pure none
  | (h, x) :: rest => do
    if r.inserted.isNone && !j.touched h then
      if ← refreshWanted j h x guard then return some h
    refreshFirst j r guard rest

/-- Step 8, the budget (R53). -/
def budgetOk (guard : Nat) (hs : List Header) : Eng Unit := engAssert (hs.all (fun h => !exhausted h guard)) .budgetExhausted

/-! ### One-step ops -/

/-- The step that an opcode makes, with its parameters. -/
def stepOf (e : Entry) : CtStep :=
  match oeOpcode e with
  | 0x10 | 0x11 => .add
  | 0x12 => .neg
  | 0x13 => .addPlain (some (nbits (oeP0 e) 31 0))
  | 0x14 => .mulPlain (nbits (oeP0 e) 31 0)
  | 0x15 => .mulConst (signed 64 (oeP0 e)) (nbits (oeP1 e) 31 0)
  | 0x16 => .mul
  | 0x17 => .relin
  | 0x18 => .rescale
  | 0x19 => .modDrop (nbits (oeP0 e) 5 0)
  | 0x28 => .nttFwd
  | 0x29 => .nttInv
  | _ => .keySwitch

/-- The plaintext of ADD_PLAIN and MUL_PLAIN (R249, R281): its descriptor and read footprint. -/
def plainCheck (j : Job) (unit : Option Nat) (e : Entry) (a : Header) : Eng (List (Nat × Nat) × List (Nat × Nat)) := do
  let x ← opDesc j unit (oeTB e) 2
  let t := tdesc x
  let s ← engGet
  let st := s.tdescStatus j.part t { suits := fun t => t.residue && t.limb1 && decide (t.entry = 0) && decide (t.dims = 2) }
  engAssert (decide (st = .done)) st
  engAssert (decide (t.chain = hChain a) && decide ((t.d 0).ext = hN a) && decide (hLevel a ≤ (t.d 1).ext) && decide (nbits (oeP0 e) 32 32 = hForm a)) .paramMismatch
  return ([(oeTB e, x)], [t.footprint [] false, (t.base, t.base + (hLevel a - 1) * (t.d 1).stride + t.rowSize)])

/-- The rotation amounts of a HOIST_ROTATE (R287). -/
def hoistShape (t : TDesc) : Bool := decide (t.ty = 4) && decide (t.dims = 1) && decide (1 ≤ (t.d 0).ext ∧ (t.d 0).ext ≤ 64)

/-- The checks of R287 behind step 9: the descriptor, the range of destinations, their conflicts within the job, the further keys. -/
def hoistCheck (j : Job) (r : OpRec) (f : Front) (c : Content) : Eng Ready := do
  let e := r.entry
  let p := j.part
  let x ← opDesc j r.die (oeTA e) 2
  let t := tdesc x
  let s ← engGet
  let st := s.tdescStatus p t { suits := hoistShape }
  engAssert (decide (st = .done)) st
  let n := (t.d 0).ext
  engAssert (decide (oeD e + n ≤ s.handleCount p)) .bounds
  let ds ← (List.range (n - 1)).mapM (fun k => readHeader p (oeD e + 1 + k))
  let hs := ((List.range n).map (fun k => oeD e + k)).zip (f.d :: ds)
  engAssert (ds.all destOk) .descMalformed
  placeCheck (⟨oeA e, f.a, compCount (hComps f.a), hLog2N f.a⟩ :: hs.map (fun (h, d) => ⟨h, d, 2, hLog2N f.a⟩))
  engAssert (ds.all (fun d => destPlaced d 2 c.level)) .bounds
  let s ← engGet
  engAssert (!s.unjoinedMeet j r.idx [] (hs.map (·.1)).tail) .overlap
  let idxs := (List.range (n - 1)).map (fun k => oeKey e + 1 + k)
  let ks ← dirCheck p idxs
  return { results := hs.map (fun (h, d) => (h, putContent d c)),
           limbs := hs.flatMap (fun (_, d) => limbRegions (setBits d 6 2 c.log2N) 2 c.level),
           dirs := (oeKey e, ((f.key.map (·.raw)).getD 0)) :: idxs.zip (ks.map (·.raw)), descs := [(oeTA e, x)], footR := [t.footprint [] false] }

/-- The result of an op with one destination. -/
def oneResult (e : Entry) (f : Front) (c : Content) : Ready :=
  { hdrA := f.a, hdrB := f.b, results := [(oeD e, putContent f.d c)], slots := [c.chain],
    limbs := limbRegions (setBits f.d 6 2 c.log2N) (compCount c.comps) c.level }

/-- Readiness of the ops of one step: 0x10 to 0x29 (R280). -/
def readyStep (j : Job) (r : OpRec) : Eng Ready := do
  let e := r.entry
  let p := j.part
  let u := usesOf (oeOpcode e) false
  let f ← ctFront j r.die e
  let s ← engGet
  let a := contentOf f.a
  let b := if u.b then some (contentOf f.b) else none
  engAssert (s.sourceFits p f.a && (!u.b || s.sourceFits p f.b)) .paramMismatch
  let c := s.ctxOf p a.chain
  let st := stepOf e
  liftChk (st.agree c a b)
  match ← refreshFirst j r c.guard ([(oeA e, f.a)] ++ (if u.b then [(oeB e, f.b)] else [])) with
  | some h => return { refresh := some h }
  | none =>
  liftChk (st.levelOk a b)
  budgetOk c.guard (f.a :: (if u.b then [f.b] else []))
  let x := st.result c a b
  engAssert (destPlaced f.d (compCount x.comps) x.level) .bounds
  match f.key with
  | some k => dirOwned p [k]
  | none => pure ()
  engAssert (decide (oeOpcode e ≠ 0x19) || decide (nbits (oeP0 e) 5 0 ≠ 0)) .descMalformed
  engAssert (decide (oeOpcode e ≠ 0x16) || decide (a.scheme ≠ 2) || c.bfvRoom x.level) .paramMismatch
  let one := { oneResult e f x with reads := oeA e :: (if u.b then [oeB e] else []), dirs := (match f.key with | some k => [(oeKey e, k.raw)] | none => []) }
  if oeOpcode e = 0x13 ∨ oeOpcode e = 0x14 then
    let (ds, fs) ← plainCheck j r.die e f.a
    return { one with descs := ds, footR := fs }
  else if oeOpcode e = 0x21 then
    let h ← hoistCheck j r f x
    return { one with results := h.results, limbs := h.limbs, dirs := h.dirs, descs := h.descs, footR := h.footR }
  else return one

/-- Readiness of LOAD_CT (R282). -/
def readyLoad (j : Job) (r : OpRec) : Eng Ready := do
  let e := r.entry
  let f ← ctFront j r.die e
  let s ← engGet
  let a := contentOf f.decl
  engAssert (s.contentFits j.part a) .paramMismatch
  engAssert (destPlaced f.d (compCount a.comps) a.level) .bounds
  let c := s.ctxOf j.part a.chain
  let sc := if a.scheme = 0 then a.scale else 0
  let x := { a with scale := sc }.withNoise (c.noise (decide (a.scheme = 0)) a.level sc) a.noise c.guard
  return { oneResult e f x with limbs := [], descs := [(oeTA e, f.decl.toNat)] }

/-- Readiness of STORE_CT (R53, R280). STORE_CT of a handle whose inserted REFRESH has failed runs: R53 excepts STORE_CT from the refusal that R55 speaks of
(DEDUCED, log entry 89). -/
def readyStore (j : Job) (r : OpRec) : Eng Ready := do
  let e := r.entry
  let f ← ctFront j r.die e
  let s ← engGet
  engAssert (s.sourceFits j.part f.a) .paramMismatch
  match ← refreshFirst j r (s.ctxOf j.part (hChain f.a)).guard [(oeA e, f.a)] with
  | some h => return { refresh := some h }
  | none =>
  let x := { contentOf f.a with poisoned := false }
  engAssert (destPlaced f.d (compCount x.comps) x.level) .bounds
  return { oneResult e f x with reads := [oeA e] }

/-! ### Expanded ops (R291) -/

/-- Steps 5 to 8 of R61 on the operand of an expanded op. -/
def expandedFront (j : Job) (r : OpRec) (f : Front) : Eng (Ctx × Option Nat) := do
  let s ← engGet
  engAssert (s.sourceFits j.part f.a && decide (hComps f.a = 2)) .paramMismatch
  let c := s.ctxOf j.part (hChain f.a)
  match ← refreshFirst j r c.guard [(oeA r.entry, f.a)] with
  | some h => return (c, some h)
  | none =>
  budgetOk c.guard [f.a]
  return (c, none)

/-- The work region of an expansion (R291). -/
def workRegion (e : Entry) (a : Header) : Nat × Nat := (oeP1 e, 32 * hLevel a * limbSize (hN a) 0)

/-- The result of an expansion with its content tagged as the last step left it. -/
def expandedResult (e : Entry) (f : Front) (x : Content) : Ready :=
  let w := workRegion e f.a
  { oneResult e f x with reads := [oeA e], footW := [(w.1, w.1 + w.2)] }

/-- The program of a LINEAR_TRANSFORM, from its plan. -/
def ltOf (e : Entry) (a : Header) (l : LtPlan) : Prog × Nat := ltProg [] 0 (hLog2N a) (decide (hScheme a = 0)) (oeKey e) l
/-- The program of a POLY_EVAL, from its block. -/
def polyOf (e : Entry) (a : Header) (k : PolyBlk) : Prog × Nat := polyProg [] 0 (decide (hScheme a = 0)) (oeKey e) k

/-- Readiness of LINEAR_TRANSFORM (R291 to R293, R451). -/
def readyLinear (j : Job) (r : OpRec) : Eng Ready := do
  let e := r.entry
  let f ← ctFront j r.die e
  let (c, again) ← expandedFront j r f
  if again.isSome then return { refresh := again }
  engAssert (decide (oeP1 e % 64 = 0)) .align
  let l ← readPlan j.part (oeP0 e)
  engAssert (l.ok (decide (hScheme f.a = 0))) .descMalformed
  engAssert (l.suits (hChain f.a) (hLevel f.a)) .paramMismatch
  engAssert l.aligned .align
  engAssert (l.wide (hLog2N f.a)) .overlap
  let idxs := (List.range l.nonzero.length).map (fun k => oeKey e + k)
  let ks ← dirCheck j.part idxs
  let (b, v) := ltOf e f.a l
  let xs ← liftChk (b.contents c (contentOf f.a))
  let x := xs.getD v (contentOf f.a)
  engAssert (destPlaced f.d 2 x.level) .bounds
  return { expandedResult e f x with dirs := idxs.zip (ks.map (·.raw)) }

/-- Readiness of POLY_EVAL (R291, R294). -/
def readyPoly (j : Job) (r : OpRec) : Eng Ready := do
  let e := r.entry
  let f ← ctFront j r.die e
  let (c, again) ← expandedFront j r f
  if again.isSome then return { refresh := again }
  engAssert (decide (oeP1 e % 64 = 0)) .align
  let (k, _) ← readPoly j.part (oeP0 e) 0 (decide (hScheme f.a = 0))
  let (b, v) := polyOf e f.a k
  let xs ← liftChk (b.contents c (contentOf f.a))
  let x := xs.getD v (contentOf f.a)
  engAssert (destPlaced f.d 2 x.level) .bounds
  match f.key with
  | some k => dirOwned j.part [k]
  | none => pure ()
  return { expandedResult e f x with dirs := (match f.key with | some k => [(oeKey e, k.raw)] | none => []) }

/-! ### REFRESH (R303) -/

/-- Everything a bundle names, read: the plans, the polynomial and the doubling constants. -/
structure BundleParts where
  b : Bundle
  cts : List LtPlan
  stc : List LtPlan
  poly : PolyBlk
  doubles : List Int

def readParts (p : Nat) (b : Bundle) : Eng BundleParts := do
  let cts ← b.ctsPlans.mapM (readPlan p)
  let stc ← b.stcPlans.mapM (readPlan p)
  let (k, as) ← readPoly p b.poly b.doublings true
  return { b := b, cts := cts, stc := stc, poly := k, doubles := as }

def BundleParts.prog (x : BundleParts) (n : Nat) : Prog × Nat :=
  let (b, v, _) := refreshSteps n x.b x.cts x.stc x.poly x.doubles
  (b, v)
def BundleParts.checkpoints (x : BundleParts) (n : Nat) : List (List Nat) := (refreshSteps n x.b x.cts x.stc x.poly x.doubles).2.2

/-- The levels that plans meet, applied in turn from level `l`. -/
def planLevels (l : Int) (ps : List LtPlan) : List (LtPlan × Int) :=
  (ps.foldl (fun (acc : List (LtPlan × Int) × Int) q => (acc.1 ++ [(q, acc.2)], if q.rescale then acc.2 - 1 else acc.2)) ([], l)).1

/-- Step 2 of R303 on what the header names. -/
def BundleParts.ok (x : BundleParts) (n chain l : Nat) : Bool :=
  let (b, v) := x.prog n
  let final := b.levels l |>.getD v l
  let depth : Int := l - final
  let stcIn : Int := final + ((x.stc.filter (·.rescale)).length : Nat)
  decide (x.poly.degree = x.b.degree) && decide ((x.b.depth : Int) = depth) &&
  (planLevels l x.cts ++ planLevels stcIn x.stc).all (fun (q, lv) =>
    q.ok true && decide (q.chain = chain) && decide (lv ≤ q.level) && q.aligned && q.wide n)

/-- The directory entries that a bundle names, in the order of the program's uses, without repeats. -/
def keyDirs (us : List KeyUse) : List Nat := (us.map (·.dir)).eraseDups

/-- Open the keys of a program and check them (R157, R158). Over several keys of one op the spec gives no order: all of causes 0x1 to 0x7 of one key come before those
of the next, and cause 0x8 comes last (DESIGN CHOICE, log entry 125). -/
def openKeys (p : Nat) (r : OpRec) (dirs : List (Nat × Nat)) (h : Header) (c : ChainHdr) (us : List KeyUse) : Eng (List (Nat × KeySrc)) := do
  let ks ← us.mapM (fun u => do
    let e := keyEntryOf ((dirs.find? (fun d => d.1 = u.dir)).map (·.2) |>.getD 0)
    let k ← keyOpen p u.dir e r { kind := some u.kind, g := some u.g, operand := h, chain := c, level := u.level }
    return (u.dir, k))
  keysBound (ks.map (·.2))
  return ks

/-- The content with which a REFRESH's expansion starts: the raised ciphertext (R304). -/
def raised (a : Content) (l : Nat) : Content := { a with level := l, form := 1, noise := 0xFFFF, exhausted := false }

/-- The content of the result (R306). -/
def refreshContent (c : Ctx) (a : Content) (b : Bundle) : Content :=
  let l := c.chain.l - b.depth
  let n := c.noise true l b.outScale
  { a with level := l, scale := b.outScale, form := 1, comps := 2, poisoned := false }.withNoise n (n.refresh b.rOut) c.guard

/-- Readiness of REFRESH (R303); the work slot is chosen by the caller. A REFRESH of the graph itself reads its handle, so auto-refresh may come before it (R54). -/
def readyRefresh (j : Job) (r : OpRec) : Eng (Ready × Bundle) := do
  let e := r.entry
  let p := j.part
  let f ← ctFront j r.die e
  let s ← engGet
  engAssert (s.sourceFits p f.a && decide (hScheme f.a = 0) && decide (hComps f.a = 2)) .paramMismatch
  let c := s.ctxOf p (hChain f.a)
  match ← refreshFirst j r c.guard [(oeA e, f.a)] with
  | some h => return ({ refresh := some h }, bundleOf 0)
  | none =>
  match ← bundleFor p (hChain f.a) (hKeySet f.a) with
  | none => engFault .paramMismatch
  | some addr =>
  engAssert (decide (addr % 64 = 0)) .descMalformed
  let b ← readBundle p addr
  engAssert (b.headOk (hLog2N f.a) (hChain f.a) (hKeySet f.a) c.chain.l) .descMalformed
  let x ← readParts p b
  engAssert (x.ok (hLog2N f.a) (hChain f.a) c.chain.l) .descMalformed
  let (g, _) := x.prog (hLog2N f.a)
  let a := raised (contentOf f.a) c.chain.l
  let lv := g.levels c.chain.l
  let us := g.keyUses (lv.map (fun l => { a with level := l.toNat }))
  let ks ← dirCheck p (keyDirs us)
  let dirs := (keyDirs us).zip (ks.map (·.raw))
  let _ ← openKeys p r dirs f.a c.chain us
  let _ ← liftChk (g.contents c a)
  let res := refreshContent c (contentOf f.a) b
  engAssert (destPlaced f.d 2 res.level) .bounds
  return ({ oneResult e f res with reads := [oeA e], dirs := dirs, descs := [(addr, b.raw)] }, b)

end Sys2Proof.Machine
end

