-- ==== Sys2Proof/Machine/Tiles.lean ====
section
/-! DEFINITION. The tile registers that take effect at once or when the tile is quiescent: semaphore pairs (R192), scratchpad power (R214), the reduction path (R168, R177). -/
namespace Sys2Proof.Machine

/-- No stream of the tile runs and no feeder transfer is pending (R214). -/
def Tile.quiescent (x : Tile) : Bool := !x.anyRunning && x.feeders.isEmpty

/-! ### Semaphore pairs (R192) -/

/-- A write to SEM_n: discarded, with the holder's DESC_MALFORMED sticky bit, while a stream of the tile runs. -/
def State.semWrite (s : State) (t : Nat) (n : Fin 32) (v : Word32) : State :=
  if (s.tile t).anyRunning then s.stickOpt (s.holder t) .descMalformed
  else
    let r := Reg.tile (tIdx t) (.sem n)
    s.setReg r (r.written (s.reg r) v)

def execSemWrite (t : Fin 576) (n : Fin 32) (value : BitVec 32) (s : State) : Host.Outcome State Fault Refusal :=
  .next (if s.tileOpen t then s.semWrite t n value else s)

/-! ### Scratchpad power (R214) -/

/-- Keep only the scratchpad bytes of the power groups in `on`. -/
def keepGroups (m : Tab Byte) (on : BitVec 8) : Tab Byte := Tab.keep (fun a => bit on (a / 524288)) m

/-- A new ON value takes effect: groups switched off lose their contents, groups switched on read zero and become READY
3,200 engine cycles later. -/
def State.applySpad (s : State) (t : Nat) (on : BitVec 8) : State :=
  let r := Reg.tile (tIdx t) .spadPwr
  let old : BitVec 8 := BitVec.ofNat 8 (bits (s.reg r) 7 0)
  let ready : BitVec 8 := BitVec.ofNat 8 (bits (s.reg r) 15 8)
  let s := s.setReg r (BitVec.ofNat 32 (on.toNat + (ready &&& on &&& old).toNat * 256))
  s.updTile t (fun x => { x with
    scratch := keepGroups x.scratch (on &&& old), spadHeld := none
    spadRising := ((x.spadRising.map (· &&& on)) ++ [on &&& ~~~old]).filter (· ≠ 0) })

/-- The dispatcher's write for a pattern that the runtime builds, whose queues and areas the spec does not place: all groups are on, and the pattern, which waits for
those that rise, finds them READY (DESIGN CHOICE, log entry 133). -/
def State.powerTile (s : State) (t : Nat) : State :=
  ((s.applySpad t 0xFF).setReg (.tile (tIdx t) .spadPwr) 0xFFFF).updTile t (fun x => { x with spadRising := [] })

def State.spadWrite (s : State) (t : Nat) (on : BitVec 8) : State := s.updTile t (fun x => { x with spadHeld := some on })

def execSpadPwrWrite (t : Fin 576) (on : BitVec 8) (s : State) : Host.Outcome State Fault Refusal :=
  .next (if s.tileOpen t then s.spadWrite t on else s)

def execSpadPwrApply (t : Fin 576) (s : State) : Host.Outcome State Fault Refusal :=
  .next (match (s.tile t).spadHeld with
    | some on => if (s.tile t).quiescent then s.applySpad t on else s
    | none => s)

/-- READY is set for the groups of the oldest change that still rises. -/
def execSpadGroupReady (t : Fin 576) (s : State) : Host.Outcome State Fault Refusal :=
  .next (match (s.tile t).spadRising with
    | g :: rest => (s.updReg (.tile t .spadPwr) (fun v => v ||| BitVec.ofNat 32 (g.toNat * 256))).updTile t (fun x => { x with spadRising := rest })
    | [] => s)

/-- A tile reset (R390, R391): the engines' state cleared, the tile registers at their reset values but for RU_OUT, the scratchpad zero;
the stash slice stays. Its queue table's pending commit goes with the table. A tile that an op occupies is not reset. -/
def State.tileReset (s : State) (t : Nat) : State :=
  if (s.tile t).op.isSome then s
  else
    let out := bits (s.reg (.tile (tIdx t) .vecCtrl)) 1 1
    let base := (Reg.tile (tIdx t) (.qcfgLo 0)).addr
    let keep := fun (a : Nat) => decide (a < base ∨ base + 0x2000 ≤ a)
    let s := { (s.dropCommit (.qtab (tIdx t))) with regs := Tab.keep keep s.regs, active := Tab.keep keep s.active }
    (s.setField (.tile (tIdx t) .vecCtrl) 1 1 out).updTile t (fun x =>
      { stash := x.stash, stashBad := x.stashBad, gate := x.gate, outOfUse := x.outOfUse, selfTest := x.selfTest, mismatchAt := x.mismatchAt })

/-! ### The reduction path (R177) -/

/-- A write to VEC_CTRL: one that changes REDUCE_PATH is held; a later write replaces a held one. -/
def State.vecCtrlWrite (s : State) (t : Nat) (v : Word32) : State :=
  let b := bit v 0
  let held := if b = bit (s.reg (.tile (tIdx t) .vecCtrl)) 0 then none else some b
  s.updTile t (fun x => { x with reduceHeld := held })

def execVecCtrlWrite (t : Fin 576) (value : BitVec 32) (s : State) : Host.Outcome State Fault Refusal :=
  .next (if s.tileOpen t then s.vecCtrlWrite t value else s)

def execReducePathApply (t : Fin 576) (s : State) : Host.Outcome State Fault Refusal :=
  .next (match (s.tile t).reduceHeld with
    | some b =>
      if (s.tile t).quiescent then (s.setField (.tile t .vecCtrl) 0 0 (if b then 1 else 0)).updTile t (fun x => { x with reduceHeld := none })
      else s
    | none => s)

/-- May the dispatcher place a tenant op on the tile (R177)? -/
def State.reduceOpen (s : State) (t : Nat) : Bool := (s.tile t).reduceHeld.isNone && !bit (s.reg (.tile (tIdx t) .vecCtrl)) 0

/-- The tile's reduction unit is out of service (R177). -/
def State.ruOut (s : State) (t : Nat) : Bool := bit (s.reg (.tile (tIdx t) .vecCtrl)) 1

end Sys2Proof.Machine
end

