-- ==== Sys2Proof/Machine/Admit.lean ====
section
/-! DEFINITION. Admission and the run of an op (R384, R393, R277), and the ciphertext ops (R280 to R288, R137, R144, R293, R294, R304). -/
namespace Sys2Proof.Machine

/-! ### Admission -/

/-- Is a tile free for an op: nothing on it, its engines powered (those in M1 start their clocks first, R381), in use, on an active die, and under no scrub (R324, R355, R384, R387)? -/
def State.tileFree (s : State) (p t : Nat) : Bool :=
  let x := s.tile t
  decide (x.op = none) && decide (x.gate ≠ .m2) && !x.outOfUse && !x.selfTest && decide ((s.site (siteOf t)).state = .active) &&
  (match (s.part p).frog with
   | some f => !f.tiles.contains t && !f.joining.contains (siteOf t)
   | none => true)

/-- The order in which the governor scans ready ops (R384): by readiness, of ops that became ready at one time by partition number, job fetch order and op index. A replayed
op keeps its place (log entry 117). -/
def scansFirst (k : Job) (q : OpRec) (j : Job) (r : OpRec) : Bool :=
  let key := fun (j : Job) (r : OpRec) => [r.readyAt, j.part, j.id, r.idx]
  decide (key k q < key j r)

/-- Have two ops a die in common? -/
def OpRec.meetsDie (q r : OpRec) : Bool := q.tiles.any (fun t => r.tiles.any (fun u => decide (siteOf t = siteOf u)))

/-- Does an op that has been passed over for 2 ms stand before this one on one of its dies (R384)? -/
def State.blocked (s : State) (j : Job) (r : OpRec) : Bool :=
  s.jobs.any (fun k => k.ops.any (fun q => decide (q.phase = .ready) && q.blocking && !q.displaced && scansFirst k q j r && q.meetsDie r))

/-- After a RESUME the hooked op is dispatched before any other of its partition (R395). -/
def State.resumeTurn (s : State) (j : Job) (r : OpRec) : Bool :=
  r.resumed || !s.jobs.any (fun k => decide (k.part = j.part) && !k.killed && k.ops.any (fun q => q.resumed && decide (q.phase = .ready) && !q.started && !q.displaced))

/-- Does an op that is ready fit now: its partition dispatches, its tiles are free and may take it (R177), and its estimate fits (R384)? -/
def State.opFits (s : State) (j : Job) (r : OpRec) : Bool :=
  s.answers && decide (s.power.state = .m0) && decide (s.power.ref = .present) && decide (r.phase = .ready) && !r.halted && !r.displaced && !j.killed &&
  decide ((s.part j.part).state = .active) && (match (s.part j.part).frog with | some f => !f.whole | none => true) &&
  decide (s.hookState j.part = 0) && s.resumeTurn j r && r.tiles.all (fun t => s.tileFree j.part t && s.reduceOpen t && !(r.sumsFp32 && s.ruOut t)) && s.powerFits ⟨j.id, r.idx⟩ r r.tiles

/-- May the op be dispatched now? The governor scans each die's ready ops in order of readiness: none that comes first and fits is passed over (R384). -/
def State.admits (s : State) (j : Job) (r : OpRec) : Bool :=
  s.opFits j r && !s.blocked j r &&
  !s.jobs.any (fun k => k.ops.any (fun q => scansFirst k q j r && s.opFits k q && q.meetsDie r))

/-- The hook registers of a partition (R393). -/
def hookReg (p i : Nat) : Reg := pr p (.hook ⟨i % 4, Nat.mod_lt _ (by decide)⟩)

/-- The lowest enabled hook that matches an op; an op that was hooked and resumed is exempt (R395). -/
def State.hookOf (s : State) (j : Job) (r : OpRec) : Option Nat :=
  if r.inserted.isSome ∨ r.started ∨ r.resumed then none
  else (List.range 4).find? (fun i =>
    let v := s.reg (hookReg j.part i)
    bit v 31 && decide (bits v 19 16 = j.ring) && decide (bits v 15 0 = r.idx))

/-- Have the stopped ops of some jobs come to rest (R209)? -/
def State.atRest (s : State) (f : Job → Bool) : Bool :=
  s.jobs.all (fun j => !f j || j.ops.all (fun r => !(r.halted && decide (r.phase = .running)) || r.tiles.all s.rests))

/-- A hook fires (R393, R394): draining, and every running op of the partition stops, one whose outputs stand before its bind-off. Markers not yet reached
are discarded until the run is resumed (R209, R395, log entry 80). -/
def State.fireHook (s : State) (j : Job) (r : OpRec) (i : Nat) : State :=
  let s := if bit (s.reg (hookReg j.part i)) 30 then s.setField (hookReg j.part i) 31 31 0 else s
  let s := ((s.setField (pr j.part .hookStatus) 19 18 i).setField (pr j.part .hookStatus) 17 16 1).setField (pr j.part .hookStatus) 15 0 r.idx
  let ts := s.jobs.flatMap (fun k => (k.ops.filter (fun o => decide (k.part = j.part) && decide (o.phase = .running) && !o.halted)).flatMap (·.tiles))
  let s := (s.updPart j.part (fun x => { x with hookOp := some (j.id, r.idx) })).stopOps (fun k o => decide (k.part = j.part) && o.phase.runs)
  ts.foldl (fun s t => s.updTile t Tile.hookMarkers) s

/-- The regions that an op's tiles read and write. -/
def OpRec.regions (r : OpRec) : List (Nat × Nat) :=
  let src := fun (h : BitVec 512) => if h = 0 then [] else limbRegions h (compCount (hComps h)) (hLevel h)
  r.footR ++ r.footW ++ r.limbs ++ r.spoil ++ r.scratch ++ src r.hdrA ++ src r.hdrB

/-- An op starts on its tiles (R277): rank n on the n-th of them. The translation units of their dies cache the leaf entries of its regions (R230, log entry 107). -/
def State.startOp (s : State) (o : OpRef) (j : Job) (r : OpRec) : State :=
  let ((c0, c1), s) := s.latch j
  let (stamp, s) := s.draw
  let s := s.updOp o (fun r => { r with
    started := true, stamp := stamp, coefficients := s.store.coefficients, stale := [], tStart := if r.started then r.tStart else s.clock,
    c0Start := if r.started then r.c0Start else c0, c1Start := if r.started then r.c1Start else c1 })
  let s := ((r.tiles.map siteOf).eraseDups).foldl (fun s d => s.keepLeaves j.part d r.regions) s
  (r.tiles.zipIdx).foldl (fun s (t, k) => s.updTile t (fun x => { x with op := some (o.job, o.op), rank := k, partDone := false, wrote := [], gate := .m0 })) s

/-- Where an op computes. -/
def runAt (s : State) (j : Job) (r : OpRec) (c : Nat) : Run :=
  { p := j.part, c := c, n := (chainHdr (s.part j.part).mtActive c).log2N, rep := tileUnit (r.tiles.headD 0), tiles := r.tiles, h := chainHdr (s.part j.part).mtActive c }

/-- The handles that an op reads, those of a CUSTOM op from its plan once it is ready. -/
def OpRec.readHandles (r : OpRec) : List Nat :=
  if oeOpcode r.entry = 0x7F then [oeA r.entry, oeB r.entry].take ((r.plan.map (·.inputs)).getD 0) else handleReads r.entry

/-- What regions of memory hold, as far as they can be read. -/
def State.copyOf (s : State) (p : Nat) (rs : List (Nat × Nat)) (unit : Option Nat := none) : List (Nat × List Byte) :=
  rs.filterMap (fun (a, n) => match s.readVA p a n unit with
    | .ok bs => some (a, bs)
    | .error _ => none)

/-- Before the first destination write of an op whose destination shares regions with a source, its limb arrays, and the tensor regions of a staged permutation in place,
are kept in a replay area (R246, R360). -/
def State.saveLimbs (s : State) (p : Nat) (r : OpRec) : List (Nat × List Byte) :=
  if r.started then r.saved
  else s.copyOf p ((if r.results.any (fun x => r.readHandles.contains x.1) then r.limbs else []) ++
    r.spoil.filter (fun (a, n) => r.footR.any (meets (a, a + n)))) r.die

/-- The destination regions of a pattern before its first destination write: its failure gives back those that it must not have written (R157, R207). -/
def State.saveBefore (s : State) (p : Nat) (r : OpRec) : List (Nat × List Byte) :=
  if r.started then r.before else s.copyOf p (r.limbs ++ r.spoil) r.die

/-- An op that uses a reservoir with an uncorrectable line in a share takes the course of R216: the line is recorded, the execution that has read it is replayed, and
that key streams. -/
def State.badReservoirs (s : State) (o : OpRef) (j : Job) (r : OpRec) : State :=
  (r.dirs.map (fun x => keyEntryOf x.2)).foldl (fun s e =>
    if s.fitsReservoir j.part e r && s.shareBad j.part e then
      let t := (e.ranks.find? (fun t => !(s.tile t).stashBad.isEmpty)).getD 0
      ((s.reportLog (tileUnit t) (tileUnit t) 0x02 ((s.tile t).stashBad.headD 0) (some j.part)).countUp j.part 0x31).updOp o (fun q => { q with
        replays := q.replays + 1, keyStream := q.keyStream ++ [(e.site, e.line)] })
    else s) s

/-- An op that its command runs whole starts on its tiles, their scratchpads on where it uses engines (R214), with what a replay has to read kept. -/
def State.startRun (s : State) (o : OpRef) (j : Job) (r : OpRec) : State :=
  let keep := s.saveLimbs j.part r
  let s := if oeOpcode r.entry < 0x70 then r.tiles.foldl State.powerTile s else s
  ((s.startOp o j r).updOp o (fun q => { q with saved := keep })).badReservoirs o j r

/-- What an op that its command runs whole has stored, for the digests of its ranks (R361): its destination regions in turn, region k at rank k modulo its tiles (log entry 102). -/
def State.noteWrites (s : State) (j : Job) (r : OpRec) : State :=
  ((r.limbs ++ r.spoil).zipIdx).foldl (fun s ((a, n), k) => match r.tiles[k % r.tiles.length]?, s.readVA j.part a n r.die with
    | some t, .ok bs => s.updTile t (fun x => { x with wrote := putBytes x.wrote a bs })
    | _, _ => s) s

/-- Dispatch an op and run it whole (log entry 12). -/
def State.runOp (s : State) (o : OpRef) (opcode : Nat) (work : Job → OpRec → Eng Unit) : State :=
  match s.op? o with
  | none => s
  | some (j, r) =>
    if decide (oeOpcode r.entry = opcode) && s.admits j r then
      match s.hookOf j r with
      | some i => s.fireHook j r i
      | none =>
        match work j r (s.startRun o j r) with
        | .ok _ s' => (s'.noteWrites j r).updOp o (fun r => { r with phase := .ran })
        | .error h s' => s'.opFailed o (tileUnit (r.tiles.headD 0)) h
    else s

/-! ### Data of the ciphertext ops -/

/-- The destination header of a one-destination op, as bind-off will write it. -/
def OpRec.dest (r : OpRec) : Header := ((r.results.head?).map (·.2)).getD 0

/-- A latched descriptor or record. -/
def OpRec.desc (r : OpRec) (i : Nat) : Nat := ((r.descs.find? (fun d => d.1 = i)).map (·.2)).getD 0

/-- Write the result of an op. -/
def putResult (j : Job) (r : OpRec) (d : CtData) : Eng Unit := writeCt j.part r.die r.dest d

/-- The operand A in its components, `l` limbs of each. -/
def operandA (x : Run) (r : OpRec) (l : Nat) : Eng CtData := readCt x (oeA r.entry) r.hdrA (compCount (hComps r.hdrA)) l
def operandB (x : Run) (r : OpRec) (l : Nat) : Eng CtData := readCt x (oeB r.entry) r.hdrB (compCount (hComps r.hdrB)) l

/-- Limb `i` of the plaintext of ADD_PLAIN and MUL_PLAIN (R243, R281). -/
def plainLimb (x : Run) (t : TDesc) (i : Nat) : Eng (List Nat) := do
  let q := (← x.prime i).q
  let storage := if t.ty = 0 then 0 else 1
  let xs := limbOf storage (2 ^ x.n) (← engMem 1 ((← engGet).readVA x.p (t.base + i * (t.d 1).stride) (limbSize (2 ^ x.n) storage) (x.die i)))
  engAssert (xs.all (fun v => decide (v < q))) .operandPoisoned
  return xs

/-- An op of one step on its operands (R280). -/
def stepWork (f : Run → OpRec → Nat → List Nat → CtData → Eng CtData) (j : Job) (r : OpRec) : Eng Unit := do
  let x := runAt (← engGet) j r (hChain r.hdrA)
  let l := hLevel r.hdrA
  let a ← operandA x r l
  putResult j r (← f x r l (← x.qs (List.range l)) a)

/-- An op of two ciphertext operands, on the lower level of the two (R44). -/
def binaryWork (f : Run → OpRec → Nat → List Nat → CtData → CtData → Eng CtData) (j : Job) (r : OpRec) : Eng Unit := do
  let x := runAt (← engGet) j r (hChain r.hdrA)
  let l := min (hLevel r.hdrA) (hLevel r.hdrB)
  let a ← operandA x r l
  let b ← operandB x r l
  putResult j r (← f x r l (← x.qs (List.range l)) a b)

/-- The key of a key-switching op, opened and checked (R157, R158). -/
def opKey (j : Job) (r : OpRec) (kind g : Nat) : Eng KeySrc := do
  let ks ← openKeys j.part r r.dirs r.hdrA (runAt (← engGet) j r (hChain r.hdrA)).h [{ dir := oeKey r.entry, kind := kind, g := g, level := hLevel r.hdrA }]
  match ks with
  | k :: _ => return k.2
  | [] => engFault .descMalformed

/-- A key-switching op: the key is checked first. -/
def keyWork (kind : Nat) (g : OpRec → Nat) (f : Run → KeySrc → Nat → Nat → CtData → Eng CtData) (after : OpRef → KeySrc → Eng Unit) (o : OpRef) (j : Job) (r : OpRec) : Eng Unit := do
  let k ← opKey j r kind (g r)
  after o k
  let x := runAt (← engGet) j r (hChain r.hdrA)
  let l := hLevel r.hdrA
  let a ← operandA x r l
  putResult j r (← f x k l (g r) a)

/-- The Galois element of a ROTATE and of a CONJUGATE (R92, R286). -/
def rotateG (r : OpRec) : Nat := rotGalois (decide (hScheme r.hdrA = 0)) (hLog2N r.hdrA) (signed 32 (oeP0 r.entry))
def conjugateG (r : OpRec) : Nat := conjGalois (hLog2N r.hdrA)

/-- The Galois forms on data. -/
def galoisWork (x : Run) (k : KeySrc) (l g : Nat) (a : CtData) : Eng CtData := do galoisCt x k l g a (← modUp x l (a.getD 1 []))

/-! ### One-step ops -/

def workAdd : Job → OpRec → Eng Unit :=
  binaryWork (fun x _ _ qs a b => return ct2 addLimb qs x.n a b)
def execAdd (o : OpRef) (s : State) : Host.Outcome State Fault Refusal := .next (s.runOp o 0x10 workAdd)
def workSub : Job → OpRec → Eng Unit :=
  binaryWork (fun x _ _ qs a b => return ct2 subLimb qs x.n a b)
def execSub (o : OpRef) (s : State) : Host.Outcome State Fault Refusal := .next (s.runOp o 0x11 workSub)
def workNeg : Job → OpRec → Eng Unit :=
  stepWork (fun _ _ _ qs a => return a.map (limbs1 negLimb qs))
def execNeg (o : OpRef) (s : State) : Host.Outcome State Fault Refusal := .next (s.runOp o 0x12 workNeg)

/-- ADD_PLAIN: component 0 plus the plaintext. -/
def workAddPlain : Job → OpRec → Eng Unit :=
  stepWork (fun x r l qs a => do
    let m ← (List.range l).mapM (plainLimb x (tdesc (r.desc (oeTB r.entry))))
    return [limbs2 addLimb qs (a.getD 0 []) m] ++ a.drop 1)
def execAddPlain (o : OpRef) (s : State) : Host.Outcome State Fault Refusal := .next (s.runOp o 0x13 workAddPlain)
/-- MUL_PLAIN: every component times the plaintext. -/
def workMulPlain : Job → OpRec → Eng Unit :=
  stepWork (fun x r l _ a => do
    let m ← (List.range l).mapM (plainLimb x (tdesc (r.desc (oeTB r.entry))))
    a.mapM (fun c => x.mul (List.range l) c m))
def execMulPlain (o : OpRef) (s : State) : Host.Outcome State Fault Refusal := .next (s.runOp o 0x14 workMulPlain)
/-- MUL_CONST: every limb times c mod q_i (R283). -/
def workMulConst : Job → OpRec → Eng Unit :=
  stepWork (fun x r l qs a => a.mapM (x.scale (List.range l) (qs.map (fun q => toMod q (signed 64 (oeP0 r.entry))))))
def execMulConst (o : OpRef) (s : State) : Host.Outcome State Fault Refusal := .next (s.runOp o 0x15 workMulConst)
/-- MUL (R284). -/
def workMul : Job → OpRec → Eng Unit :=
  binaryWork (fun x r l _ a b => if hScheme r.hdrA = 2 then mulBfv x l a b else tensorCt x (List.range l) a b)
def execMul (o : OpRef) (s : State) : Host.Outcome State Fault Refusal := .next (s.runOp o 0x16 workMul)
/-- RESCALE (R172). -/
def workRescale : Job → OpRec → Eng Unit :=
  stepWork (fun x r l _ a => rescaleCt x (decide (hScheme r.hdrA = 1)) (decide (hForm r.hdrA = 1)) l a)
def execRescale (o : OpRef) (s : State) : Host.Outcome State Fault Refusal := .next (s.runOp o 0x18 workRescale)
/-- MOD_DROP (R285). On CKKS the top limbs are not read. -/
def workModDrop : Job → OpRec → Eng Unit :=
  fun j r => do
    let x := runAt (← engGet) j r (hChain r.hdrA)
    let k := nbits (oeP0 r.entry) 5 0
    let l := hLevel r.hdrA
    if hScheme r.hdrA = 0 then putResult j r (← operandA x r (l - k))
    else putResult j r (← rescaleDown x (decide (hScheme r.hdrA = 1)) (decide (hForm r.hdrA = 1)) k l (← operandA x r l))
def execModDrop (o : OpRef) (s : State) : Host.Outcome State Fault Refusal := .next (s.runOp o 0x19 workModDrop)
/-- NTT_FWD and NTT_INV (R88). -/
def workNttFwd : Job → OpRec → Eng Unit :=
  stepWork (fun x _ l _ a => a.mapM (x.ntt true (List.range l)))
def execNttFwd (o : OpRef) (s : State) : Host.Outcome State Fault Refusal := .next (s.runOp o 0x28 workNttFwd)
def workNttInv : Job → OpRec → Eng Unit :=
  stepWork (fun x _ l _ a => a.mapM (x.ntt false (List.range l)))
def execNttInv (o : OpRef) (s : State) : Host.Outcome State Fault Refusal := .next (s.runOp o 0x29 workNttInv)

/-- LOAD_CT: every limb of the placement is read and checked (R282). -/
def workLoadCt : Job → OpRec → Eng Unit :=
  fun j r => do
    let x := runAt (← engGet) j r (hChain r.dest)
    let _ ← readCt x (oeD r.entry) r.dest (compCount (hComps r.dest)) (hLevel r.dest)
def execLoadCt (o : OpRef) (s : State) : Host.Outcome State Fault Refusal := .next (s.runOp o 0x01 workLoadCt)
/-- STORE_CT: the limbs in the destination's storage format. -/
def workStoreCt : Job → OpRec → Eng Unit :=
  stepWork (fun _ _ _ _ a => return a)
def execStoreCt (o : OpRef) (s : State) : Host.Outcome State Fault Refusal := .next (s.runOp o 0x02 workStoreCt)

/-! ### Key-switching ops (R137) -/

def workRelin (o : OpRef) : Job → OpRec → Eng Unit :=
  keyWork 1 (fun _ => 1) (fun x k l _ a => relinCt x k l a) (fun _ _ => pure ()) o
def execRelin (o : OpRef) (s : State) : Host.Outcome State Fault Refusal := .next (s.runOp o 0x17 (workRelin o))
def workRotate (o : OpRef) : Job → OpRec → Eng Unit :=
  keyWork 2 rotateG galoisWork (fun _ _ => pure ()) o
def execRotate (o : OpRef) (s : State) : Host.Outcome State Fault Refusal := .next (s.runOp o 0x20 (workRotate o))
def workConjugate (o : OpRef) : Job → OpRec → Eng Unit :=
  keyWork 2 conjugateG galoisWork (fun _ _ => pure ()) o
def execConjugate (o : OpRef) (s : State) : Host.Outcome State Fault Refusal := .next (s.runOp o 0x22 (workConjugate o))

/-- KEYSWITCH writes the target key set and tag of its key object (R48). -/
def retarget (o : OpRef) (k : KeySrc) : Eng Unit := engPut (fun s => s.updOp o (fun r => { r with
  results := r.results.map (fun (h, v) => (h, setBits (setBits v 127 64 k.hdr.targetSet) 159 128 k.hdr.targetTag)) }))
def workKeyswitch (o : OpRef) : Job → OpRec → Eng Unit :=
  keyWork 3 (fun _ => 1) galoisWork retarget o
def execKeyswitch (o : OpRef) (s : State) : Host.Outcome State Fault Refusal := .next (s.runOp o 0x23 (workKeyswitch o))

/-- The outputs of a HOIST_ROTATE in turn; where one fails, the limb arrays of those already formed are unspecified (R145). -/
def hoistOutputs (p : Nat) (unit : Option Nat) (out : Nat → KeySrc → Eng CtData) : List (Nat × KeySrc × Header) → List (Nat × Nat) → Eng Unit
  | [], _ => pure ()
  | (g, k, d) :: rest, formed => fun s =>
    match (do writeCt p unit d (← out g k) : Eng Unit) s with
    | .ok _ s' => hoistOutputs p unit out rest (formed ++ limbRegions d 2 (hLevel d)) s'
    | .error h s' => .error h (s'.spoil p false formed unit)

/-- HOIST_ROTATE (R144): its list of rotations comes over the narrow path (R221); every key is checked before ModUp; one ModUp, then each output. -/
def hoistWork (j : Job) (r : OpRec) : Eng Unit := do
  let x := runAt (← engGet) j r (hChain r.hdrA)
  let l := hLevel r.hdrA
  let t := tdesc (r.desc (oeTA r.entry))
  let (lo, hi) := t.footprint [] false
  let bs ← (fun s => match s.narrowRead j.part (r.tiles.headD 0) lo (hi - lo) with
    | .ok (bs, s) => .ok bs s
    | .error e => .error (.mem 4 e) s : Eng (List Byte))
  let rots ← (match t.readRows (fun a n => .ok ((bs.drop (a - lo)).take n)) [] false with
    | .ok rows => pure (rows.flatten.take r.results.length)
    | .error e => fun s => .error (.mem 4 e) s : Eng (List Nat))
  let gs := rots.map (fun v => rotGalois (decide (hScheme r.hdrA = 0)) (hLog2N r.hdrA) (signed 32 v))
  let ks ← openKeys j.part r r.dirs r.hdrA x.h (gs.zipIdx.map (fun (g, k) => { dir := oeKey r.entry + k, kind := 2, g := g, level := l }))
  let a ← operandA x r l
  let dt ← modUp x l (a.getD 1 [])
  hoistOutputs j.part r.die (fun g k => galoisCt x k l g a dt) (((gs.zip ks).zip r.results).map (fun ((g, k), (_, d)) => (g, k.2, d))) []
def execHoistRotate (o : OpRef) (s : State) : Host.Outcome State Fault Refusal := .next (s.runOp o 0x21 hoistWork)

/-! ### Expanded ops -/

/-- Write a region that an op keeps intermediates in: what is known of them first, then free bytes where the spec leaves the layout open (R291, R305; log entry 31). Feeders write it, so that in
a send region it is carried to the peer (R414). -/
def scratchRegion (p : Nat) (unit : Option Nat) (w : Nat × Nat) (known : List Byte) : Eng Unit := fun s =>
  let (vs, s1) := s.drawBelow 256 (w.2 - known.length)
  engFeed p unit [(w.1, known.take w.2 ++ vs.map (BitVec.ofNat 8))] s1

/-- The highest level at which each directory entry of a program is used. -/
def progKeys (x : Run) (j : Job) (r : OpRec) (b : Prog) (vs : List Content) : Eng (List (Nat × KeySrc)) :=
  openKeys j.part r r.dirs r.hdrA x.h (b.keyUses vs)

/-- The estimate context of an op that runs: the guard band and the tolerance are those of its readiness, at which its steps are evaluated (R52, R291). -/
def State.runCtx (s : State) (j : Job) (r : OpRec) : Ctx := { s.ctxOf j.part (hChain r.hdrA) with guard := r.guard.toNat, tol := r.tol.toNat }

/-- Run a program on an operand: value `v`. -/
def progValue (x : Run) (j : Job) (r : OpRec) (b : Prog) (v : Nat) (a : Content) (keys : List (Nat × KeySrc)) (d : CtData) : Eng CtData := do
  let vs ← liftChk (b.contents ((← engGet).runCtx j r) a)
  let ds ← b.run x (hScheme r.hdrA) keys vs d
  return ds.getD v []

/-- LINEAR_TRANSFORM and POLY_EVAL. -/
def expandedWork (prog : Job → OpRec → Eng (Prog × Nat)) (j : Job) (r : OpRec) : Eng Unit := do
  let x := runAt (← engGet) j r (hChain r.hdrA)
  let a := contentOf r.hdrA
  let (b, v) ← prog j r
  let vs ← liftChk (b.contents ((← engGet).runCtx j r) a)
  let keys ← progKeys x j r b vs
  let d ← operandA x r (hLevel r.hdrA)
  scratchRegion j.part r.die (workRegion r.entry r.hdrA) []
  putResult j r (← progValue x j r b v a keys d)

def workLinearTransform : Job → OpRec → Eng Unit :=
  expandedWork (fun j r => do return ltOf r.entry r.hdrA (← readPlan j.part (oeP0 r.entry)))
def execLinearTransform (o : OpRef) (s : State) : Host.Outcome State Fault Refusal := .next (s.runOp o 0x30 workLinearTransform)
def workPolyEval : Job → OpRec → Eng Unit :=
  expandedWork (fun j r => do
    let (k, _) ← readPoly j.part (oeP0 r.entry) 0 (decide (hScheme r.hdrA = 0))
    return polyOf r.entry r.hdrA k)
def execPolyEval (o : OpRef) (s : State) : Host.Outcome State Fault Refusal := .next (s.runOp o 0x31 workPolyEval)

/-- A checkpoint in the work slot: its limbs, packed as P36, one after the other. The checkpoints stand in the slot in their order (DESIGN CHOICE, log entry 31). -/
def checkpointBytes (n : Nat) (ds : List CtData) : List Byte :=
  ds.flatten.flatten.flatMap (fun l => leBytes (limbSize (2 ^ n) 0) (packBits 36 l))

/-- REFRESH (R304, R305): checkpoint 0, the copy of the input, into the work slot, the expansion from the raised ciphertext, the checkpoints after steps 1, 2, 3 and 5,
the result. A replay after a die retirement has the last of them and only writes the result again. -/
def refreshWork (j : Job) (r : OpRec) : Eng Unit := do
  match r.checkpoint with
  | some d => putResult j r d
  | none =>
    let x := runAt (← engGet) j r (hChain r.hdrA)
    match r.descs with
    | [] => engFault .descMalformed
    | (_, raw) :: _ =>
      let parts ← readParts j.part (bundleOf raw)
      let (b, v) := parts.prog x.n
      let a := raised (contentOf r.hdrA) x.h.l
      let vs ← liftChk (b.contents ((← engGet).runCtx j r) a)
      let keys ← progKeys x j r b vs
      let d ← operandA x r (hLevel r.hdrA)
      let input := checkpointBytes x.n [d]
      scratchRegion j.part r.die (r.workSlot.getD 0, parts.b.workStride) input
      let raised ← modRaise x (hForm r.hdrA) (d.map (·.take 1))
      let vals ← b.run x (hScheme r.hdrA) keys vs raised
      engFeed j.part r.die [(r.workSlot.getD 0 + input.length, (parts.checkpoints x.n).flatMap (fun c => checkpointBytes x.n (c.map (fun i => vals.getD i []))))]
      let out := vals.getD v []
      engPut (fun s => s.updOp ⟨j.id, r.idx⟩ (fun q => { q with checkpoint := some out }))
      putResult j r out

def execRefresh (o : OpRef) (s : State) : Host.Outcome State Fault Refusal := .next (s.runOp o 0x32 refreshWork)

end Sys2Proof.Machine
end

