-- ==== Sys2Proof/Machine/TensorOps.lean ====
section
/-! DEFINITION. Tensor ops: COPY and TRANSPOSE_COPY (R244 to R246), FILL (R285), BCONV (R290), ENCODE (R288), and FENCE and SIGNAL (R270). -/
namespace Sys2Proof.Machine

/-! ### Checks of the descriptors of one op (R249) -/

/-- Steps 2 to 5 of R249 on the descriptors of an op, one after the other (log entry 51). -/
def descsCheck (p : Nat) (ts : List (TDesc × TUse)) : Eng Unit :=
  ts.forM (fun (t, u) => do
    let st := (← engGet).tdescStatus p t u
    engAssert (decide (st = .done)) st)

/-- Byte interval as address and length. -/
def spanOf (f : Nat × Nat) : Nat × Nat := (f.1, f.2 - f.1)

/-- The runs of an owned region, as address and length: what a failing op may leave unspecified (R134, R273). -/
def ownRegions (t : TDesc) : List (Nat × Nat) :=
  (t.outer (fun t d => t.ownRange [] d)).map (fun o => (t.base + t.rowOff o + rowBytes t.ty (t.origin [] 0), rowBytes t.ty (t.d 0).own))

/-- What readiness fixes about an op with one source and one destination tensor. -/
def tensorReady (srcs : List (Nat × TDesc)) (d : Nat × TDesc) : Ready :=
  { descs := (srcs ++ [d]).map (fun (i, t) => (i, t.raw)),
    slots := ((srcs ++ [d]).filter (fun x => x.2.residue)).map (fun x => x.2.chain),
    footR := srcs.map (fun x => x.2.footprint [] false), footW := [d.2.footprint [] true], spoil := ownRegions d.2 }

/-- Read the window of a source; an invalid residue ends the op (R243). -/
def readTensor (p : Nat) (unit : Option Nat) (t : TDesc) : Eng (List (List Nat)) := do
  let s ← engGet
  match t.readRows (fun a n => s.readVA p a n unit) [] false with
  | .error e => fun s => .error (.mem 1 e) s
  | .ok vals =>
    engAssert (s.residuesOk p t [] false vals) .operandPoisoned
    return vals

/-- Write the owned region of a destination. -/
def writeTensor (p : Nat) (unit : Option Nat) (t : TDesc) (vals : List (List Nat)) : Eng Unit := engFeed p unit (t.ownRuns [] vals)

/-! ### COPY and TRANSPOSE_COPY -/

/-- The condition of R244 on a source by itself. -/
def noHalos (t : TDesc) : Bool := (List.range 5).all (fun k => decide ((t.d k).lo = 0 ∧ (t.d k).hi = 0))

/-- The conditions of R244. -/
def copySuits (a d : TDesc) : Bool :=
  decide (a.ty = d.ty) && decide (a.entry = d.entry) && decide (a.chain = d.chain) && (a.limb1 == d.limb1) && decide (a.dims = d.dims) &&
  (List.range 5).all (fun k => decide ((a.d k).own = (d.d (d.perm.getD k 0)).own) && decide ((a.d k).lo = 0 ∧ (a.d k).hi = 0)) &&
  ((decide (a.ty ≠ 0) && decide (a.ty ≠ 6)) || decide (d.perm.getD 0 0 = 0))

def readyCopy (j : Job) (r : OpRec) : Eng Ready := do
  let e := r.entry
  let a := tdesc (← opDesc j r.die (oeTA e) 2)
  let d := tdesc (← opDesc j r.die (oeTD e) 2)
  let tr := decide (oeOpcode e = 0x04)
  descsCheck j.part [(a, { suits := noHalos }), (d, { dest := true, permuted := tr, apart := overlapOk a d (!tr) tr, suits := fun d => copySuits a d })]
  return tensorReady [(oeTA e, a)] (oeTD e, d)

/-- The values of the destination's owned region, row by row: source element r goes to the place whose index in
dimension PERM[d] is r_d (R244). -/
def permuteRows (a d : TDesc) (vals : List (List Nat)) : List (List Nat) :=
  let own := fun (k : Nat) => (a.d k).own
  let src := fun (t : List Nat) => -- indices of the destination element, by dimension
    let r := fun (k : Nat) => t.getD (d.perm.getD k 0) 0
    el (vals.getD (((r 4 * own 3 + r 3) * own 2 + r 2) * own 1 + r 1) []) (r 0)
  let n := fun (k : Nat) => if k = 0 then (d.d 0).own / unitEls d.ty else (d.d k).own
  (List.range (n 4)).flatMap (fun i4 => (List.range (n 3)).flatMap (fun i3 => (List.range (n 2)).flatMap (fun i2 => (List.range (n 1)).map (fun i1 =>
    (List.range (n 0)).map (fun i0 => src [i0, i1, i2, i3, i4])))))

/-- Step 1 of R246: a permutation in place reads its whole source into the staging buffer, that of the op's first tile (DESIGN CHOICE, log entry 110). The replay area of step 2
is kept as the op starts. -/
def stageSource (j : Job) (r : OpRec) (a d : TDesc) : Eng Unit := do
  let (lo, hi) := a.footprint [] false
  if oeOpcode r.entry = 0x04 ∧ meets (lo, hi) (d.footprint [] true) then
    let bs ← engMem 1 ((← engGet).readVA j.part lo (hi - lo) r.die)
    engPut (fun s => s.updTile (r.tiles.headD 0) (fun x => { x with staging := bs }))

def copyWork (j : Job) (r : OpRec) : Eng Unit := do
  let a := tdesc (r.desc (oeTA r.entry))
  let d := tdesc (r.desc (oeTD r.entry))
  stageSource j r a d
  writeTensor j.part r.die d (permuteRows a d (← readTensor j.part r.die a))

def execCopy (o : OpRef) (s : State) : Host.Outcome State Fault Refusal := .next (s.runOp o 0x03 copyWork)
def execTransposeCopy (o : OpRef) (s : State) : Host.Outcome State Fault Refusal := .next (s.runOp o 0x04 copyWork)

/-! ### FILL -/

/-- The value of FILL against the primes of the tensor's entries (R285). -/
def State.fillFits (s : State) (p v : Nat) (t : TDesc) : Bool :=
  !t.residue || (List.range (if t.limb1 then (t.d 1).ext else 1)).all (fun i => decide (v < (s.prime p t.chain (t.entry + i)).q))

def readyFill (j : Job) (r : OpRec) : Eng Ready := do
  let e := r.entry
  let d := tdesc (← opDesc j r.die (oeTD e) 2)
  descsCheck j.part [(d, { dest := true })]
  engAssert ((← engGet).fillFits j.part (if d.residue then oeP0 e else 0) d) .descMalformed
  return tensorReady [] (oeTD e, d)

/-- The unit that FILL writes: the value cut to the type; for a block of INT4, 32 values under a scale that the spec leaves open. -/
def fillUnit (ty v : Nat) : Eng Nat :=
  if ty = 6 then do return packBits 4 (List.replicate 32 v) + 2 ^ 128 * ((← engDraw) % 65536)
  else pure (v % 2 ^ unitBits ty)

def fillWork (j : Job) (r : OpRec) : Eng Unit := do
  let d := tdesc (r.desc (oeTD r.entry))
  let rows ← (d.outer (fun t k => t.ownRange [] k)).mapM (fun _ =>
    (List.range ((d.d 0).own / unitEls d.ty)).mapM (fun _ => fillUnit d.ty (oeP0 r.entry)))
  writeTensor j.part r.die d rows

def execFill (o : OpRef) (s : State) : Host.Outcome State Fault Refusal := .next (s.runOp o 0x05 fillWork)

/-! ### BCONV -/

/-- The agreement of BCONV's tensors with its constants (R290). -/
def bconvSuits (a d : TDesc) (k : RibConst) : Bool :=
  decide (a.chain = k.chain) && decide (d.chain = k.chain) && decide ((a.d 1).own = k.pres.length) && decide ((d.d 1).own = k.cols.length) &&
  decide (k.pres.map (·.1) = (List.range k.pres.length).map (fun i => a.entryAt ((a.d 1).org + i))) &&
  decide (k.cols = (List.range k.cols.length).map (fun i => d.entryAt ((d.d 1).org + i)))

/-- A coefficient-form residue tensor of limbs. -/
def limbTensor (t : TDesc) : Bool := t.residue && t.limb1 && decide (t.dims = 2) && (List.range 5).all (fun k => decide ((t.d k).lo = 0 ∧ (t.d k).hi = 0))

def readyBconv (j : Job) (r : OpRec) : Eng Ready := do
  let e := r.entry
  let a := tdesc (← opDesc j r.die (oeTA e) 2)
  let b ← opDesc j r.die (oeTB e) 1
  let d := tdesc (← opDesc j r.die (oeTD e) 2)
  descsCheck j.part [(a, { suits := limbTensor }), (d, { dest := true, apart := overlapOk a d false false, suits := fun d => limbTensor d && decide ((a.d 0).own = (d.d 0).own) })]
  let k ← readConst j.part b
  engAssert (bconvSuits a d k) .descMalformed
  return { tensorReady [(oeTA e, a)] (oeTD e, d) with descs := [(oeTA e, a.raw), (oeTB e, b), (oeTD e, d.raw)] }

/-- The modular stage of R107 on the limbs of a tensor. -/
def State.ribModular (s : State) (p : Nat) (k : RibConst) (xs : List (List Nat)) : List (List Nat) :=
  let q := fun e => (s.prime p k.chain e).q
  let len := (xs.headD []).length
  (k.cols.zipIdx).map (fun (e, c) => (List.range len).map (fun i =>
    sumMod (q e) ((k.pres.zipIdx).map (fun ((f, w), n) => el (xs.getD n []) i * w % q f * el k.mat (n * k.cols.length + c) % q e))))

/-- The residue checks of that stage (R68): of each product A · w_k, and of each sum. -/
def State.ribModularChecks (s : State) (p : Nat) (k : RibConst) (xs : List (List Nat)) : Bool :=
  let e := fun f => s.prime p k.chain f
  (k.pres.zipIdx).all (fun ((f, w), n) => (xs.getD n []).all (fun v => mulChecked (e f).q (e f).check v w)) &&
  (k.cols.zipIdx).all (fun (d, c) => (List.range (xs.headD []).length).all (fun i =>
    sumChecked (e d).q (e d).check ((k.pres.zipIdx).map (fun ((f, w), n) => el (xs.getD n []) i * w % (e f).q * el k.mat (n * k.cols.length + c)))))

def bconvWork (j : Job) (r : OpRec) : Eng Unit := do
  let a := tdesc (r.desc (oeTA r.entry))
  let d := tdesc (r.desc (oeTD r.entry))
  let k ← readConst j.part (r.desc (oeTB r.entry)) r.die
  let xs ← readTensor j.part r.die a
  engResidue ((← engGet).ribModularChecks j.part k xs)
  writeTensor j.part r.die d ((← engGet).ribModular j.part k xs)

def execBconv (o : OpRef) (s : State) : Host.Outcome State Fault Refusal := .next (s.runOp o 0x2A bconvWork)

/-! ### ENCODE -/

/-- A tensor whose owned region is its extent, without halos. -/
def whole (t : TDesc) : Bool := (List.range 5).all (fun k => decide ((t.d k).org = 0 ∧ (t.d k).own = (t.d k).ext ∧ (t.d k).lo = 0 ∧ (t.d k).hi = 0))

def readyEncode (j : Job) (r : OpRec) : Eng Ready := do
  let e := r.entry
  let a := tdesc (← opDesc j r.die (oeTA e) 2)
  let d := tdesc (← opDesc j r.die (oeTD e) 2)
  let s ← engGet
  let n := (chainHdr (s.part j.part).mtActive d.chain).log2N
  descsCheck j.part [(a, { suits := fun t => decide (t.ty = 7) && decide (t.dims = 1) && whole t && decide ((t.d 0).ext = 2 ^ n) && decide (nbits (oeP0 e) 5 0 ≤ 40) }),
    (d, { dest := true, apart := overlapOk a d false false, suits := fun t => limbTensor t && whole t && decide ((t.d 0).ext = 2 ^ n) })]
  return tensorReady [(oeTA e, a)] (oeTD e, d)

def encodeWork (o : OpRef) (j : Job) (r : OpRec) : Eng Unit := do
  let a := tdesc (r.desc (oeTA r.entry))
  let d := tdesc (r.desc (oeTD r.entry))
  let xs := (← readTensor j.part r.die a).flatten
  engAssert (xs.all cplxWordOk) .operandPoisoned
  let s ← engGet
  let n := (chainHdr (s.part j.part).mtActive d.chain).log2N
  let z := (List.range (2 ^ (n - 1))).map (fun i => (cplxPart (el xs (2 * i)), cplxPart (el xs (2 * i + 1))))
  let (v, sat) := fftIntegers n (nbits (oeP0 r.entry) 5 0) z
  markSat o sat
  writeTensor j.part r.die d ((List.range (d.d 1).own).map (fun i => v.map (toMod (s.prime j.part d.chain (d.entryAt i)).q)))

def execEncodeOp (o : OpRef) (s : State) : Host.Outcome State Fault Refusal := .next (s.runOp o 0x33 (encodeWork o))

/-! ### FENCE and SIGNAL (R270) -/

/-- FENCE does nothing by itself. -/
def workFence (_ : Job) (_ : OpRec) : Eng Unit := pure ()
def execFence (o : OpRef) (s : State) : Host.Outcome State Fault Refusal := .next (s.runOp o 0x70 workFence)

def readySignal (r : OpRec) : Eng Ready := do
  engAssert (decide (nbits (oeP0 r.entry) 62 0 % 8 = 0)) .align
  return {}

/-- SIGNAL writes PARAM1 to host memory behind the partition's port, or through translation. A port that is down carries no write: it is dropped, and the op binds off
with DONE (DESIGN CHOICE, log entry 137). -/
def signalWork (j : Job) (r : OpRec) : Eng Unit :=
  let bs := leBytes 8 (oeP1 r.entry)
  if nbits (oeP0 r.entry) 63 63 = 1 then
    engPut (fun s => if s.portUp (s.vfPort j.part) then s.writeHost (s.vfPort j.part) (nbits (oeP0 r.entry) 62 0) bs else s)
  else do
    engStore 2 (fun s => s.writeVA j.part (nbits (oeP0 r.entry) 47 0) bs .write r.die)
    engPut (fun s => s.mirrorSignal j.part (nbits (oeP0 r.entry) 47 0) (oeP1 r.entry))

def execSignal (o : OpRef) (s : State) : Host.Outcome State Fault Refusal := .next (s.runOp o 0x71 signalWork)

end Sys2Proof.Machine
end

