-- ==== Sys2Proof/Machine/IntOps.lean ====
section
/-! DEFINITION. Integer ops: chain descriptors (R116 to R134), INT_MATMUL and INT_CONV (R289), stages, epilogues and row statistics. -/
namespace Sys2Proof.Machine

/-! ### Chain descriptors (R117, R118) -/

/-- A stage record. Its `IMAGE` names a stream image, and the spec gives no index space for it: an op without a container has the images that the runtime builds,
and the field is ignored (DESIGN CHOICE, log entry 96). -/
structure Stage where
  raw : Nat
  engine : Nat
  mode : Nat
  fmt : Nat
  shift : Nat
  a : Nat
  b : Nat
  out : Nat
  const : Nat
  k : Nat
  block : Nat
deriving DecidableEq, Repr

def stageOf (x : Nat) : Stage :=
  { raw := x, engine := nbits x 3 0, mode := nbits x 7 4, fmt := nbits x 10 8, shift := nbits x 15 11, a := nbits x 47 32, b := nbits x 63 48,
    out := nbits x 79 64, const := nbits x 95 80, k := nbits x 119 96, block := nbits x 124 120 }

/-- A chain descriptor. -/
structure ChainDesc where
  raw : Nat
  count : Nat
  prologue : Nat
  madd : Bool
  rescale : Bool
  rowstat : Bool
  requant : Bool
  statMode : Nat
  epiFmt : Nat
  proDesc : Nat
  epiDesc : Nat
  holdLine : Nat
  holdLines : Nat
  spillBase : Nat
  spillSize : Nat
  statsDesc : Nat
  eps : F32
  reqShift : Nat
  outExp : Int
  stages : List Stage
deriving DecidableEq, Repr

def chainDesc (x : Nat) : ChainDesc :=
  { raw := x, count := nbits x 3 0, prologue := nbits x 15 8, madd := decide (nbits x 16 16 = 1), rescale := decide (nbits x 17 17 = 1),
    rowstat := decide (nbits x 18 18 = 1), requant := decide (nbits x 19 19 = 1), statMode := nbits x 21 20, epiFmt := nbits x 24 22,
    proDesc := nbits x 47 32, epiDesc := nbits x 63 48, holdLine := nbits x 79 64, holdLines := nbits x 95 80, spillBase := nbits x 143 96,
    spillSize := nbits x 175 144, statsDesc := nbits x 191 176, eps := nbits x 223 192, reqShift := nbits x 229 224, outExp := signed 8 (nbits x 239 232),
    stages := (List.range (min 3 (nbits x 3 0))).map (fun s => stageOf (nbits x (256 * s + 511) (256 * s + 256))) }

/-- An integer-mode RIB stage. -/
def Stage.isInt (s : Stage) : Bool := decide (s.engine = 2) && decide (s.mode = 1 ∨ s.mode = 2)

/-- Step 2 of R133: does the chain hold an integer-mode stage or an integer epilogue step? -/
def ChainDesc.usesInt (c : ChainDesc) : Bool := c.stages.any (·.isInt) || c.rowstat || c.requant

/-- Has the chain an epilogue? -/
def ChainDesc.epilogue (c : ChainDesc) : Bool := c.madd || c.rowstat || c.requant

/-- FP32 normalisation. -/
def ChainDesc.normal (c : ChainDesc) : Bool := decide (c.statMode = 2)

/-- The format of what the chain writes. -/
def ChainDesc.outFmt (c : ChainDesc) : Nat := if c.epilogue then c.epiFmt else (c.stages.getLast?.map (·.fmt)).getD 0

/-- Bytes of an element of an integer format. -/
def fmtBytes (f : Nat) : Nat := typeBits f / 8

/-- The rules of one stage of an integer chain (R118): formats, shifts and operands. An integer result is no input of an NTT,
a PLY or a modular stage, nor a residue one of an integer stage, so every stage of a chain that holds an integer-mode stage is one. -/
def ChainDesc.stageOk (c : ChainDesc) (i : Nat) (s : Stage) : Bool :=
  let last := decide (i + 1 = c.count)
  s.isInt && decide (nbits s.raw 255 125 = 0) && decide (2 ≤ s.fmt ∧ s.fmt ≤ 4) && decide (1 ≤ s.k) && decide (s.const = 0xFFFF) &&
  (decide (s.mode = 2) || decide (s.block = 0)) && (last == decide (s.out ≠ 0xFFFF)) && (last || decide (s.fmt = 2)) &&
  (if i = 0 then (decide (s.a ≠ 0xFFFF) || decide (c.prologue ≠ 0)) && (decide (s.b ≠ 0xFFFF) || decide (c.prologue ∈ [0x03, 0x04, 0x05]))
   else decide (s.mode = 1) && decide (s.a = 0xFFFF ∨ s.b = 0xFFFF))

/-- Prologues that an integer chain can have (R119), by the mode of stage 0. -/
def prologueOk (code mode : Nat) : Bool :=
  match code with
  | 0x00 | 0x03 | 0x04 | 0x05 => true
  | 0x10 | 0x11 => decide (mode = 1)
  | _ => false

/-- Does the prologue gather: elements, or rows? Its parameters are then a list of indices (R94). -/
def ChainDesc.gathers (c : ChainDesc) : Bool := decide (c.prologue = 0x03 ∨ c.prologue = 0x04)

/-- The descriptor entries that a chain names: first entry and number of entries (R249 step 1). -/
def ChainDesc.named (c : ChainDesc) : List (Nat × Nat) :=
  (c.stages.flatMap (fun s => [s.a, s.b, s.out])).filterMap (fun i => if i = 0xFFFF then none else some (i, 2)) ++
  (if c.prologue = 0 then [] else [(c.proDesc, if c.gathers then 2 else 1)]) ++
  (if c.madd ∨ c.requant ∨ c.normal then [(c.epiDesc, 2)] else []) ++
  (if c.statMode = 1 then [(c.statsDesc, 2)] else [])

/-- Is a binary32 value positive and normal? -/
def f32Normal (x : F32) : Bool := !f32Neg x && decide (1 ≤ f32Exp x ∧ f32Exp x ≤ 254)

/-- Step 3 of R133. -/
def ChainDesc.ok (c : ChainDesc) (descCount : Nat) : Bool :=
  decide (1 ≤ c.count ∧ c.count ≤ 3) && decide (nbits c.raw 7 4 = 0) && decide (nbits c.raw 31 25 = 0) && decide (nbits c.raw 231 230 = 0) && decide (nbits c.raw 255 240 = 0) &&
  decide (c.raw / 2 ^ (256 * c.count + 256) = 0) && c.stages.any (·.isInt) && (c.stages.zipIdx).all (fun (s, i) => c.stageOk i s) &&
  prologueOk c.prologue ((c.stages.head?.map (·.mode)).getD 0) && !c.rescale &&
  (if c.rowstat then decide (c.statMode = 1 ∨ c.statMode = 2) else decide (c.statMode = 0)) && !(c.requant && c.normal) &&
  (if c.epilogue then decide (2 ≤ c.epiFmt ∧ c.epiFmt ≤ 4) else decide (c.epiFmt = 0 ∨ (2 ≤ c.epiFmt ∧ c.epiFmt ≤ 4))) &&
  decide (c.holdLines ≤ 16384) && decide (c.holdLine + c.holdLines ≤ 65536) && decide (c.spillBase % 64 = 0) && decide (c.spillSize % 64 = 0) &&
  (!c.normal || f32Normal c.eps) && decide (c.reqShift ≤ 62) && decide (-32 ≤ c.outExp ∧ c.outExp ≤ 31) &&
  c.named.all (fun d => decide (d.1 + d.2 ≤ descCount))

/-! ### Shapes -/

/-- A matrix operand: dimension 0 is the inner one, no halos, no combine. -/
def matrix (t : TDesc) (ty inner outer : Nat) : Bool :=
  decide (t.ty = ty) && decide (t.dims = 2) && decide ((t.d 0).own = inner) && decide ((t.d 1).own = outer) &&
  (List.range 5).all (fun k => decide ((t.d k).lo = 0 ∧ (t.d k).hi = 0))

/-- The type of the operands of an integer mode. -/
def modeType (mode : Nat) : Nat := if mode = 2 then 6 else 2

/-- A vector of `bytes` bytes in one dimension, of a type whose elements are whole bytes (log entry 33). -/
def recordsOk (t : TDesc) (bytes : Nat) : Bool :=
  decide (t.dims = 1) && [2, 3, 4, 5, 7].contains t.ty && decide (rowBytes t.ty (t.d 0).own = bytes) && decide ((t.d 0).lo = 0 ∧ (t.d 0).hi = 0)

/-! ### Stages (R110 to R113, R122) -/

/-- An element of a matrix. -/
def at2 (m : List (List Nat)) (i j : Nat) : Nat := el (m.getD i []) j

/-- An accumulation in K order, each step with its clamp. -/
def accumulate (steps : List (Int → Int × Bool)) : Int × Bool :=
  steps.foldl (fun (acc : Int × Bool) f => let (v, c) := f acc.1; (v, acc.2 || c)) (0, false)

/-- The drain of an accumulator in the stage's format (R122). -/
def drain (s : Stage) (v : Int × Bool) : Nat × Bool :=
  let w := typeBits s.fmt
  let (y, c) := satW w (rnd v.1 s.shift)
  (wrapN w y, v.2 || c)

/-- An element of an INT8 stage: K-steps of four in ascending order (R110). -/
def int8Dot (s : Stage) (a b : List Nat) : Nat × Bool :=
  drain s (accumulate ((List.range ((s.k + 3) / 4)).map (fun i acc => int8Step acc ((a.drop (4 * i)).take 4) ((b.drop (4 * i)).take 4))))

/-- The block of B for 32 K-indices of one column, if its 32 scales along K are equal (log entry 35). -/
def int4Column (b : List (List Nat)) (i c : Nat) : Option Nat :=
  let blks := (List.range 32).map (fun u => at2 b (32 * i + u) (c / 32))
  let vals := blks.map (fun x => nbits x (4 * (c % 32) + 3) (4 * (c % 32)))
  match blks with
  | x :: _ => if blks.all (fun y => decide (nbits y 143 128 = nbits x 143 128)) then some (packBits 4 vals + nbits x 143 128 * 2 ^ 128) else none
  | [] => none

/-- An element of an INT4 stage (R112); `none` where B's scales differ along a block of K. -/
def int4Dot (s : Stage) (a : List Nat) (b : List (List Nat)) (c : Nat) : Option (Nat × Bool) :=
  let cols := (List.range (s.k / 32)).map (fun i => int4Column b i c)
  if cols.all (·.isSome) then
    some (drain s (accumulate ((cols.zipIdx).map (fun (x, i) acc => int4Step acc (el a i) (x.getD 0) s.block))))
  else none

/-- A stage on its operands: M rows of A, K rows of B; Nc columns. An element that the spec leaves open because B's scales differ is a free value and sets no
SATURATED (DESIGN CHOICE, log entry 35). -/
def stageRun (o : OpRef) (s : Stage) (nc : Nat) (a b : List (List Nat)) : Eng (List (List Nat)) := do
  let rows ← a.mapM (fun row => (List.range nc).mapM (fun c => (do
    let v := if s.mode = 2 then int4Dot s row b c else some (int8Dot s row ((List.range s.k).map (fun k => at2 b k c)))
    match v with
    | some (y, sat) => markSat o sat; return y
    | none => return (← engDraw) % 2 ^ typeBits s.fmt : Eng Nat)))
  return rows

/-! ### Prologues (R119, R120) -/

/-- FP32 normalisation of one value (R124). -/
def normalise (mean rstd x g b : F32) : F32 := f32Add (f32Mul (f32Mul (f32Sub x mean) rstd) g) b

/-- sat_F(roundeven(y · 2^e)): exact scaling, so the exponent moves the rounding point. -/
def scaleOut (w : Nat) (e : Int) (y : F32) : Int × Bool :=
  if f32IsNaN y ∨ f32IsInf y then f32ToInt w y
  else
    let m : Int := f32Sig y
    let v := if f32Neg y then -m else m
    let p := f32Pow y + e
    satW w (if 0 ≤ p then v * (2 ^ p.toNat : Nat) else rnd v (-p).toNat)

/-- Mean and rstd of a row from its sums (R124). -/
def rowStats (w : Nat) (eps s1 s2 : F32) : F32 × F32 :=
  let wf := f32OfInt w
  let mean := f32Div s1 wf
  let var := f32Max (f32Sub (f32Div s2 wf) (f32Mul mean mean)) 0
  (mean, f32Div (f32OfInt 1) (f32Sqrt (f32Add var eps)))

/-- One element of the activation prologue; the function and its parameters are read from a block whose places the spec leaves open (log entry 26). -/
def activation (blk : Nat) (x : Int) : Int :=
  match Config.param blk 0 % 3 with
  | 0 => max x 0
  | 1 => min (max x (signed 8 (Config.param blk 1))) (signed 8 (Config.param blk 2))
  | _ => signed 8 (Config.param blk (256 + (x + 128).toNat))

/-- The normalisation prologue on row `i`: the integer statistics record of the row (R120, R126). -/
def normaliseRow (o : OpRef) (p : Nat) (unit : Option Nat) (blk : Nat) (eps : F32) (i : Nat) (row : List Nat) : Eng (List Nat) := do
  let rec_ := leNat (← engMem 1 ((← engGet).readVA p (Config.param blk 0 % 2 ^ 43 * 32 + 32 * i) 32 unit))
  let (mean, rstd) := rowStats row.length eps (f32OfInt (signed 64 (nbits rec_ 63 0))) (f32OfInt (nbits rec_ 159 64))
  row.mapM (fun x => do
    let (z, c) := scaleOut 8 (signed 8 (Config.param blk 1)) (normalise mean rstd (f32OfInt (signed 8 x)) (f32OfInt 1) 0)
    markSat o c
    return wrapN 8 z)

/-- The elements of a matrix in row order, each with its block scale (INT4), and rows of `k` elements from such a list. A block of INT4 has one scale: where its
elements bring different ones, the spec states no block, and it is a free value (log entry 35). -/
def elementsOf (ty : Nat) (m : List (List Nat)) : List (Nat × Nat) :=
  if ty = 6 then m.flatten.flatMap (fun b => (List.range 32).map (fun i => (nbits b (4 * i + 3) (4 * i), nbits b 143 128)))
  else m.flatten.map (fun x => (x, 0))
def rowsOf (ty k : Nat) (els : List (Nat × Nat)) : Eng (List (List Nat)) :=
  (chunksOf k els.length els).mapM (fun row =>
    if ty = 6 then (chunksOf 32 row.length row).mapM (fun b => do
      let sc := (b.headD (0, 0)).2
      if b.all (fun x => decide (x.2 = sc)) then return packBits 4 (b.map (·.1)) + sc * 2 ^ 128 else return (← engDraw) % 2 ^ 144)
    else return row.map (·.1))

/-- The rule of R94 on a list of element indices: no reserved bit, and the negation bit stands on residues only. -/
def listCheck (code : Nat) (ls : List Nat) : Eng Unit := engAssert (decide (code ≠ 0x03) || ls.all (fun l => decide (nbits l 31 24 = 0))) .descMalformed

/-- A gather or a row gather by the list `ls`, a transpose (R93, R94): the same as the cable function alone. Indices count from 0 over the elements or
rows of the source's extent. -/
def cableRun (code ty k : Nat) (ls : List Nat) (m : List (List Nat)) : Eng (List (List Nat)) := do
  let els := elementsOf ty m
  listCheck code ls
  match code with
  | 0x03 =>
    engAssert (ls.all (fun l => decide (l < els.length))) .bounds
    rowsOf ty k (ls.map (fun l => els.getD l (0, 0)))
  | 0x04 =>
    engAssert (ls.all (fun l => decide (l < m.length))) .bounds
    return ls.map (fun l => m.getD l [])
  | _ =>
    let c := els.length / k
    rowsOf ty k ((List.range els.length).map (fun i => els.getD (i % k * c + i / k) (0, 0)))

/-- The prologue's output, `rows` rows of `k` elements. Gathers take their list from the tensor at `PRO_DESC`. The prologue of a chain whose stage 0 names its A works on
that A, also where it feeds B; where stage 0 names no A, the spec names no source either, and the output is free (DESIGN CHOICE, log entry 26). -/
def prologueRun (o : OpRef) (p : Nat) (unit : Option Nat) (c : ChainDesc) (blk ty rows k : Nat) (ls : List Nat) (src : Option (List (List Nat))) : Eng (List (List Nat)) :=
  match src with
  | none => do
    listCheck c.prologue ls
    (List.range rows).mapM (fun _ => (List.range (k / unitEls ty)).mapM (fun _ => do return (← engDraw) % 2 ^ unitBits ty))
  | some m =>
    match c.prologue with
    | 0x03 | 0x04 | 0x05 => cableRun c.prologue ty k ls m
    | 0x10 => return m.map (fun r => r.map (fun x => wrapN 8 (activation blk (signed 8 x))))
    | 0x11 => (m.zipIdx).mapM (fun (r, i) => normaliseRow o p unit blk c.eps i r)
    | _ => return m

/-! ### Epilogues (R121, R124, R126, R127) -/

/-- The 16-byte record of a column. -/
def epiRec (recs : Nat) (c : Nat) : Nat := recs / 2 ^ (128 * c) % 2 ^ 128

/-- The statistics record of a row (R126). -/
def statsRecord (xs : List Int) : List Byte :=
  leBytes 8 (wrapN 64 xs.sum) ++ leBytes 12 (wrapN 96 (xs.map (fun x => x * x)).sum) ++
  leBytes 4 (wrapN 32 (xs.foldl max (-(2 ^ 31 : Nat)))) ++ leBytes 4 (wrapN 32 (xs.foldl min ((2 ^ 31 : Nat) - 1))) ++ leBytes 4 0

/-- The fused sum of R127: a pairwise tree over the 32 values of each output tile, merged in tile order; absent columns
of the last tile count +0.0 (log entry 34). -/
def fusedSum (xs : List F32) : F32 :=
  match (chunksOf 32 xs.length xs).map (fun t => (pairTree f32Add 5 (t ++ List.replicate (32 - t.length) 0)).headD 0) with
  | [] => 0
  | y :: rest => rest.foldl f32Add y

/-- The epilogue of one row: values of the last stage to values in the output format, and whether one was clamped. -/
def epilogueRow (c : ChainDesc) (recs : Nat) (xs : List Int) : List Int × List (Int × Bool) :=
  let w := typeBits c.outFmt
  let ys := (xs.zipIdx).map (fun (x, i) => if c.madd then sat32 (signed 32 (nbits (epiRec recs i) 31 0) * x + signed 32 (nbits (epiRec recs i) 63 32)) else (x, false))
  let vs := ys.map (·.1)
  let zs := if c.normal then
      let fs := vs.map f32OfInt
      let (mean, rstd) := rowStats xs.length c.eps (fusedSum fs) (fusedSum (fs.map (fun f => f32Mul f f)))
      (fs.zipIdx).map (fun (f, i) => scaleOut w c.outExp (normalise mean rstd f (nbits (epiRec recs i) 95 64) (nbits (epiRec recs i) 127 96)))
    else if c.requant then
      (vs.zipIdx).map (fun (x, i) => satW w (rnd (x * signed 32 (nbits (epiRec recs i) 95 64)) c.reqShift + signed 32 (nbits (epiRec recs i) 127 96)))
    else vs.map (satW w)
  (vs, (ys.zip zs).map (fun (y, z) => (z.1, y.2 || z.2)))

/-- The epilogue on all rows: the values written and the statistics records. -/
def epilogueRun (o : OpRef) (c : ChainDesc) (fmt recs : Nat) (rows : List (List Nat)) : Eng (List (List Nat) × List (List Byte)) := do
  if !c.epilogue then return (rows, [])
  let outs ← rows.mapM (fun r => do
    let (vs, zs) := epilogueRow c recs (r.map (signed (typeBits fmt)))
    markSat o (zs.any (·.2))
    return (zs.map (fun z => wrapN (typeBits c.outFmt) z.1), statsRecord vs))
  return (outs.map (·.1), if c.statMode = 1 then outs.map (·.2) else [])

/-! ### A chain (R116, R130 to R133) -/

/-- A descriptor among those read. -/
def descOf (ds : List (Nat × Nat)) (i : Nat) : TDesc := tdesc (((ds.find? (fun d => d.1 = i)).map (·.2)).getD 0)

/-- Elements of a window. -/
def TDesc.ownCount (t : TDesc) : Nat := ((List.range 5).map (fun k => (t.d k).own)).foldl (· * ·) 1

/-- The rows and columns that the first of these stages has to give, so that the last gives the destination's. -/
def wantedShape (out : Nat × Nat) : List Stage → Nat × Nat
  | [] | [_] => out
  | _ :: s :: rest =>
    let (m, n) := wantedShape out (s :: rest)
    if s.a = 0xFFFF then (m, s.k) else (s.k, n)

/-- Is a number a power of two from 1 to 16,384? -/
def pow2Upto (n : Nat) : Bool := (List.range 15).any (fun e => n == 2 ^ e)

/-- The limits of a cable prologue on its output of `rows` rows and `k` columns, whatever its source (R93, R94): a gather has an index for each element, a row gather one for
each row of whole lines, a transpose powers of two and at most 16,384 elements. -/
def ChainDesc.prologueFits (c : ChainDesc) (list : TDesc) (ty rows k : Nat) : Bool :=
  match c.prologue with
  | 0x03 => decide (list.ownCount = rows * k)
  | 0x04 => decide (list.ownCount = rows) && decide (rowBytes ty k % 64 = 0)
  | 0x05 => pow2Upto rows && pow2Upto k && decide (rows * k ≤ 16384)
  | _ => true

/-- Rows of the prologue's output of `k` columns, from a source descriptor. -/
def ChainDesc.prologueRows (c : ChainDesc) (t list : TDesc) (ty k : Nat) : Option Nat :=
  let rows := match c.prologue with
    | 0x03 => list.ownCount / k
    | 0x04 => list.ownCount
    | 0x05 => (t.d 0).own
    | _ => (t.d 1).own
  let source := match c.prologue with
    | 0x03 => matrix t ty (t.d 0).own (t.d 1).own
    | 0x05 => matrix t ty (t.d 0).own k
    | _ => matrix t ty k (t.d 1).own
  if source && c.prologueFits list ty rows k then some rows else none

/-- The source of a gather, as far as its indices reach: the extent of its descriptor, of a row gather all rows of it (R94). -/
def ChainDesc.sourceOf (c : ChainDesc) (t : TDesc) : TDesc :=
  let whole := fun (d : TDim) => { d with org := 0, own := d.ext }
  match c.prologue with
  | 0x03 => { t with dim := t.dim.map whole }
  | 0x04 => { t with dim := t.dim.take 1 ++ (t.dim.drop 1).map whole }
  | _ => t

/-- Rows and columns of the result of stage `i`, each stage on what the one before gives; `none` where a shape does not agree. -/
def ChainDesc.shapes (c : ChainDesc) (td : Nat → TDesc) : Option (List (Nat × Nat)) :=
  let out := td ((c.stages.getLast?.map (·.out)).getD 0)
  let first := wantedShape ((out.d 1).own, (out.d 0).own) c.stages
  (c.stages.zipIdx).foldl (fun acc (s, i) =>
    match acc with
    | none => none
    | some ds =>
      let prev := ds.getLast?.getD (0, 0)
      let ty := modeType s.mode
      let am : Option Nat := -- rows of A
        if s.a ≠ 0xFFFF then (if i = 0 ∧ s.b ≠ 0xFFFF then c.prologueRows (td s.a) (td c.proDesc) ty s.k else if matrix (td s.a) ty s.k ((td s.a).d 1).own then some ((td s.a).d 1).own else none)
        else if i = 0 then (if c.prologueFits (td c.proDesc) ty first.1 s.k then some first.1 else none)
        else if prev.2 = s.k then some prev.1 else none
      let bn : Option Nat := -- columns of B
        if s.b ≠ 0xFFFF then (if matrix (td s.b) ty ((td s.b).d 0).own s.k then some ((td s.b).d 0).own else none)
        else if i = 0 then (if (if s.a = 0xFFFF then c.prologueFits (td c.proDesc) ty s.k first.2 else decide (c.prologueRows (td s.a) (td c.proDesc) ty first.2 = some s.k)) then some first.2 else none)
        else if prev.1 = s.k then some prev.2 else none
      match am, bn with
      | some m, some n => if s.mode = 2 ∧ (s.k % 32 ≠ 0 ∨ n % 32 ≠ 0) then none else some (ds ++ [(m, n)])
      | _, _ => none) (some [])

/-- The regions of an integer chain: sources, destination, statistics. -/
structure ChainRegions where
  srcs : List (Nat × TDesc)
  dest : Nat × TDesc
  stats : Option (Nat × TDesc)
  rows : Nat
  cols : Nat

/-- The operands of a chain that has passed step 3, with R249 made on each. -/
def chainRegions (p : Nat) (c : ChainDesc) (ds : List (Nat × Nat)) : Eng ChainRegions := do
  let td := descOf ds
  let srcs := (c.stages.flatMap (fun s => [s.a, s.b])).filter (fun i => decide (i ≠ 0xFFFF))
  let out := (c.stages.getLast?.map (·.out)).getD 0
  match c.shapes td with
  | none => engFault .descMalformed
  | some sh =>
    let (m, n) := sh.getLast?.getD (0, 0)
    let d := td out
    let epi := c.madd || c.requant || c.normal
    let es := if epi then [(c.epiDesc, td c.epiDesc)] else []
    let st := if c.statMode = 1 then some (c.statsDesc, td c.statsDesc) else none
    let ls := if c.gathers then [(c.proDesc, td c.proDesc)] else []
    let srcTs := srcs.map (fun i => (i, td i)) ++ ls ++ es
    let reach := fun (i : Nat) (t : TDesc) => if some i = c.stages.head?.map (·.a) then c.sourceOf t else t
    descsCheck p (srcTs.map (fun (i, t) => (t, { suits := fun t => decide (t.combine = 0) && (!(epi && decide (i = c.epiDesc)) || recordsOk t (16 * n)) && (!(c.gathers && decide (i = c.proDesc)) || decide (t.ty = 4)) })) ++
      [(d, { dest := true, apart := srcTs.all (fun (i, t) => overlapOk (reach i t) d false false), suits := fun d => matrix d c.outFmt n m })] ++
      (match st with
       | some (_, t) => [(t, { dest := true, apart := srcTs.all (fun (i, x) => overlapOk (reach i x) t false false) && !meets (d.footprint [] true) (t.footprint [] true), suits := fun t => decide (t.ty = 7) && decide ((t.d 0).ext = 4 * m) && recordsOk t (32 * m) })]
       | none => []))
    return { srcs := srcTs.map (fun (i, t) => (i, reach i t)), dest := (out, d), stats := st, rows := m, cols := n }

/-- Is the hold area clear of the chain's own queue slots (R133 step 4, R189)? The runtime places those, and the spec does not say where: an opaque value (log entry 108). -/
def ChainDesc.holdClear (c : ChainDesc) : Bool :=
  (Config.chainSlots c.raw).all (fun (l, n) => !meets (l, l + n) (c.holdLine, c.holdLine + c.holdLines))

/-- Hold areas of chains in flight that share a tile with this op (R133 step 4). -/
def State.holdsMeet (s : State) (p : Nat) (r : OpRec) (line lines : Nat) : Bool :=
  (s.inFlight p).any (fun (_, q) =>
    q.tiles.any (fun t => r.tiles.contains t) && decide (lines ≠ 0) && decide (q.hold.2 ≠ 0) && decide (q.hold.1 < line + lines) && decide (line < q.hold.1 + q.hold.2))

/-- Bytes that a row block parks (R130). -/
def ChainDesc.holdNeed (c : ChainDesc) (cols : Nat) : Nat := 32 * cols * fmtBytes ((c.stages.getLast?.map (·.fmt)).getD 4)

/-- Readiness of a chain, from its descriptor's number and the descriptors it names (R133). -/
def readyChain (j : Job) (r : OpRec) : Eng Ready := do
  let e := r.entry
  engAssert (decide ((seDesc j.entry + 64 * oeChain e) % 64 = 0)) .align
  let x ← opDesc j r.die (oeChain e) 2
  let c := chainDesc x
  engAssert (decide ((← engGet).grade ≠ 2) || !c.usesInt) .engineAbsent
  engAssert (c.ok (seDescCount j.entry)) .descMalformed
  let ds ← c.named.mapM (fun d => do return (d.1, ← opDesc j r.die d.1 d.2))
  let g ← chainRegions j.part c ds
  let spill := if c.spillBase = 0 then [] else [(c.spillBase, c.spillBase + c.spillSize)]
  let foots := g.srcs.map (fun t => t.2.footprint [] false) ++ [g.dest.2.footprint [] true] ++ (g.stats.map (fun t => t.2.footprint [] true)).toList
  engAssert (c.holdClear && !(← engGet).holdsMeet j.part r c.holdLine c.holdLines && spill.all (fun w => foots.all (fun f => !meets w f))) .overlap
  let need := c.holdNeed g.cols
  engAssert (!c.normal || decide (need ≤ 64 * c.holdLines) || (decide (c.spillBase ≠ 0) && decide (need ≤ 64 * c.holdLines + c.spillSize))) .chainHold
  return { tensorReady g.srcs g.dest with
    descs := (oeChain e, x) :: ds, sumsFp32 := c.normal, hold := (c.holdLine, c.holdLines),
    scratch := if c.spillBase = 0 then [] else [(c.spillBase, c.spillSize)],
    footW := [g.dest.2.footprint [] true] ++ (g.stats.map (fun t => t.2.footprint [] true)).toList }

/-- Run a chain. `a0` and `b0` are what stage 0 takes as A and, where it names none, as B. -/
def chainStages (o : OpRef) (c : ChainDesc) (sh : List (Nat × Nat)) (a0 b0 : List (List Nat)) (mat : Nat → Eng (List (List Nat))) : Eng (List (List Nat)) :=
  ((c.stages.zip sh).zipIdx).foldlM (fun prev ((s, d), i) => do
    let a ← if i = 0 then pure a0 else if s.a = 0xFFFF then pure prev else mat s.a
    let b ← if s.b ≠ 0xFFFF then mat s.b else if i = 0 then pure b0 else pure prev
    stageRun o s d.2 a b) []

/-- Does another op of the partition, under way too, write the spill region of this one (R132)? -/
def State.spillHit (s : State) (p : Nat) (o : OpRef) (c : ChainDesc) : Bool :=
  (s.inFlight p).any (fun (j, q) => decide (j.id ≠ o.job ∨ q.idx ≠ o.op) && q.started && (q.footW ++ q.scratch.map (fun r => (r.1, r.1 + r.2))).any (meets (c.spillBase, c.spillBase + c.spillSize)))

/-- The pass through hold and spill (R130, R131). The parked tiles lie in the hold area of the op's tiles, in an order that the spec leaves open, so the area holds
free bytes; tiles that find it full go to the spill region, whose layout is open too. -/
def spillPass (o : OpRef) (p : Nat) (unit : Option Nat) (ts : List Nat) (c : ChainDesc) (cols : Nat) : Eng Unit := do
  if c.normal then
    ts.forM (fun t => engPut (fun s =>
      let (bs, s) := s.drawBelow 256 (64 * c.holdLines)
      s.updTile t (fun x => { x with scratch := putBytes x.scratch (64 * c.holdLine) (bs.map (BitVec.ofNat 8)) })))
  if c.normal && decide (64 * c.holdLines < c.holdNeed cols) then do
    scratchRegion p unit (c.spillBase, min c.spillSize (c.holdNeed cols - 64 * c.holdLines)) []
    engPut (fun s => s.updOp o (fun r => { r with spilled := true }))
  else pure ()

/-- INT_MATMUL through a chain descriptor. -/
def chainWork (o : OpRef) (j : Job) (r : OpRec) : Eng Unit := do
  let p := j.part
  let c := chainDesc (r.desc (oeChain r.entry))
  let td := fun i => tdesc (r.desc i)
  match c.stages.head?, c.stages.getLast?, c.shapes td with
  | some s0, some sl, some sh => do
    let (m, n) := sh.getLast?.getD (0, 0)
    let mat := fun i => readTensor p r.die (td i)
    let (m0, n0) := sh.headD (0, 0)
    let src ← if s0.a = 0xFFFF then pure none else some <$> readTensor p r.die (c.sourceOf (td s0.a))
    let ls ← if c.gathers then (do return (← mat c.proDesc).flatten) else pure []
    let out := fun (rows k : Nat) => prologueRun o p r.die c (r.desc c.proDesc) (modeType s0.mode) rows k ls src
    let a0 ← if s0.a ≠ 0xFFFF ∧ s0.b = 0xFFFF then mat s0.a else out m0 s0.k
    let b0 ← if s0.b = 0xFFFF then out s0.k n0 else pure []
    let ys ← chainStages o c sh a0 b0 mat
    let recs ← if c.madd ∨ c.requant ∨ c.normal then do
        let vs ← readTensor p r.die (td c.epiDesc)
        pure (packBits (unitBits (td c.epiDesc).ty) vs.flatten)
      else pure 0
    spillPass o p r.die r.tiles c n
    let hit := c.normal && decide (64 * c.holdLines < c.holdNeed n) && (← engGet).spillHit p o c
    let (zs, st) ← epilogueRun o c sl.fmt recs ys
    let zs ← if hit then zs.mapM (fun row => row.mapM (fun _ => do return (← engDraw) % 2 ^ typeBits c.outFmt)) else pure zs
    writeTensor p r.die (td sl.out) zs
    if c.statMode = 1 then writeTensor p r.die (td c.statsDesc) [unpackBits 64 (4 * m) (leNat st.flatten)]
  | _, _, _ => engFault .descMalformed

/-! ### INT_MATMUL without a chain, INT_CONV (R289) -/

/-- The stage that the runtime builds from descriptors. -/
def plainStage (a d : TDesc) (p0 k : Nat) : Stage :=
  { raw := 0, engine := 2, mode := if a.ty = 6 then 2 else 1, fmt := d.ty, shift := nbits p0 4 0, a := 0, b := 0, out := 0, const := 0xFFFF, k := k, block := nbits p0 12 8 }

/-- What both forms ask of the types. -/
def intTypes (a b d : TDesc) (p0 : Nat) : Bool :=
  decide (a.ty = b.ty) && decide (a.ty = 2 ∨ a.ty = 6) && decide (2 ≤ d.ty ∧ d.ty ≤ 4) && decide (a.combine = 0) && decide (b.combine = 0) &&
  (decide (a.ty = 6) || decide (nbits p0 12 8 = 0))

/-- INT_MATMUL's shapes. -/
def matmulSuits (a b d : TDesc) (p0 : Nat) : Bool :=
  let k := (a.d 0).own
  intTypes a b d p0 && matrix a a.ty k (a.d 1).own && matrix b a.ty (b.d 0).own k && matrix d d.ty (b.d 0).own (a.d 1).own

/-- Kernel width and height of INT_CONV. -/
def kernelW (p0 : Nat) : Nat := nbits p0 19 16
def kernelH (p0 : Nat) : Nat := nbits p0 23 20

/-- INT_CONV's shapes. -/
def convSuits (a b d : TDesc) (p0 : Nat) : Bool :=
  let kw := kernelW p0
  let kh := kernelH p0
  intTypes a b d p0 && decide (kw % 2 = 1 ∧ kh % 2 = 1) && decide (a.dims = 3 ∧ b.dims = 2 ∧ d.dims = 3) &&
  matrix b a.ty (b.d 0).own (kh * kw * (a.d 0).own) && decide ((d.d 0).own = (b.d 0).own ∧ (d.d 1).own = (a.d 1).own ∧ (d.d 2).own = (a.d 2).own) &&
  decide ((kw - 1) / 2 ≤ (a.d 1).lo ∧ (kw - 1) / 2 ≤ (a.d 1).hi ∧ (kh - 1) / 2 ≤ (a.d 2).lo ∧ (kh - 1) / 2 ≤ (a.d 2).hi) &&
  decide ((a.d 0).lo = 0 ∧ (a.d 0).hi = 0) && (List.range 3).all (fun k => decide ((d.d k).lo = 0 ∧ (d.d k).hi = 0))

/-- Readiness of the forms without a chain. -/
def readyInt (j : Job) (r : OpRec) : Eng Ready := do
  let e := r.entry
  engAssert (decide ((← engGet).grade ≠ 2)) .engineAbsent
  let a := tdesc (← opDesc j r.die (oeTA e) 2)
  let b := tdesc (← opDesc j r.die (oeTB e) 2)
  let d := tdesc (← opDesc j r.die (oeTD e) 2)
  let suits := if oeOpcode e = 0x41 then convSuits a b d (oeP0 e) else matmulSuits a b d (oeP0 e)
  descsCheck j.part [(a, { suits := fun _ => suits }), (b, {}), (d, { dest := true, apart := overlapOk a d false false && overlapOk b d false false })]
  return tensorReady [(oeTA e, a), (oeTB e, b)] (oeTD e, d)

/-- The A row that output (w, h) of a convolution meets: the kernel positions in B's order (R289), each with its channels, from
the window of A. -/
def convRow (a : TDesc) (win : List (List Nat)) (kw kh w h : Nat) : List Nat :=
  let width := (a.d 1).lo + (a.d 1).own + (a.d 1).hi
  (List.range kh).flatMap (fun y => (List.range kw).flatMap (fun x =>
    win.getD ((h + y + (a.d 2).lo - (kh - 1) / 2) * width + (w + x + (a.d 1).lo - (kw - 1) / 2)) []))

/-- INT_MATMUL and INT_CONV from their descriptors. -/
def intWork (o : OpRef) (j : Job) (r : OpRec) : Eng Unit := do
  let e := r.entry
  let a := tdesc (r.desc (oeTA e))
  let b := tdesc (r.desc (oeTB e))
  let d := tdesc (r.desc (oeTD e))
  let av ← readTensor j.part r.die a
  let bv ← readTensor j.part r.die b
  let rows := if oeOpcode e = 0x41 then
      (List.range (d.d 2).own).flatMap (fun h => (List.range (d.d 1).own).map (fun w => convRow a av (kernelW (oeP0 e)) (kernelH (oeP0 e)) w h))
    else av
  writeTensor j.part r.die d (← stageRun o (plainStage a d (oeP0 e) (b.d 1).own) (b.d 0).own rows bv)

def readyMatmul (j : Job) (r : OpRec) : Eng Ready := if oeChainEn r.entry then readyChain j r else readyInt j r

/-- INT_MATMUL, alone or as the first stage of a chain. -/
def workIntMatmul (o : OpRef) (j : Job) (r : OpRec) : Eng Unit := if oeChainEn r.entry then chainWork o j r else intWork o j r
def execIntMatmul (o : OpRef) (s : State) : Host.Outcome State Fault Refusal := .next (s.runOp o 0x40 (workIntMatmul o))
def execIntConv (o : OpRef) (s : State) : Host.Outcome State Fault Refusal := .next (s.runOp o 0x41 (intWork o))

end Sys2Proof.Machine
end

