-- ==== Sys2Proof/Machine/Custom.lean ====
section
/-! DEFINITION. CUSTOM patterns (R295 to R299): the container, the validation of its images and tables (R206), readiness, and the start of its streams (R180). -/
namespace Sys2Proof.Machine

/-! ### The container -/

/-- Its header (R296). -/
structure Container where
  raw : Nat
  ranks : Nat
  cross : Bool
  drop : Nat
  form : Nat
  ct : Nat
  loss : Nat
  imgs : List (Nat × Nat)    -- offset in 64-byte units and length in words
  descCount : Nat
  descOff : Nat
  qtabOff : Nat
  semOff : Nat
  feed : Nat
  spad : Nat
  vlmax : Nat
deriving DecidableEq, Repr

def containerOf (x : Nat) : Container :=
  { raw := x, ranks := nbits x 13 8, cross := decide (nbits x 14 14 = 1), drop := nbits x 22 16, form := nbits x 23 23, ct := nbits x 25 24, loss := nbits x 47 32,
    imgs := (List.range 6).map (fun s => (nbits x (128 + 32 * s + 15) (128 + 32 * s), nbits x (128 + 32 * s + 31) (128 + 32 * s + 16))),
    descCount := nbits x 335 320, descOff := nbits x 351 336, qtabOff := nbits x 367 352, semOff := nbits x 383 368,
    feed := nbits x 415 384, spad := nbits x 423 416, vlmax := nbits x 436 424 }

/-- Every region of the container: offset in bytes and length. -/
def Container.regions (c : Container) : List (Nat × Nat) :=
  c.imgs.map (fun (o, n) => (64 * o, 8 * n)) ++ [(64 * c.descOff, 64 * c.descCount * c.ranks), (64 * c.qtabOff, 384), (64 * c.semOff, 128)]

/-- The header's own rules: version, reserved bits, ranges, regions inside the size, and values that the registers they go to take (R168, R203). -/
def Container.ok (c : Container) (size : Nat) : Bool :=
  decide (nbits c.raw 7 0 = 1) && decide (nbits c.raw 15 15 = 0) && decide (nbits c.raw 31 26 = 0) && decide (nbits c.raw 127 48 = 0) && decide (nbits c.raw 2047 437 = 0) &&
  decide (1 ≤ c.ranks) && decide (c.drop ≤ 63) && decide (c.ct ≠ 1) && c.imgs.all (fun i => decide (1 ≤ i.2 ∧ i.2 ≤ 2048)) && decide (c.descCount ≤ 1008) &&
  (List.range 4).all (fun f => decide (1 ≤ nbits c.feed (8 * f + 7) (8 * f) ∧ nbits c.feed (8 * f + 7) (8 * f) ≤ 120)) &&
  decide (c.vlmax % 128 = 0) && decide (128 ≤ c.vlmax ∧ c.vlmax ≤ 4096) && decide (256 ≤ size) && c.regions.all (fun (o, n) => decide (o + n ≤ size))

/-- Bytes of a container. -/
def cut (bs : List Byte) (o n : Nat) : List Byte := (bs.drop o).take n

/-- The plan that the runtime keeps: the copy of the container, cut into its parts. -/
def planOf (c : Container) (inputs : Nat) (bs : List Byte) : CustomPlan :=
  { ranks := c.ranks, crossDie := c.cross, levelDrop := c.drop, resultForm := c.form, resultCt := c.ct, loss := c.loss, inputs := inputs,
    images := c.imgs.map (fun (o, n) => (chunksOf 8 n (cut bs (64 * o) (8 * n))).map (fun w => BitVec.ofNat 64 (leNat w))),
    tables := (List.range c.ranks).map (fun r => (chunksOf 64 c.descCount (cut bs (64 * c.descOff + 64 * c.descCount * r) (64 * c.descCount))).map (fun w => BitVec.ofNat 512 (leNat w))),
    descCount := c.descCount,
    qtab := (chunksOf 4 96 (cut bs (64 * c.qtabOff) 384)).map (fun w => BitVec.ofNat 32 (leNat w)),
    sems := (chunksOf 4 32 (cut bs (64 * c.semOff) 128)).map (fun w => BitVec.ofNat 32 (leNat w)),
    feedLimit := BitVec.ofNat 32 c.feed, spadOn := BitVec.ofNat 8 c.spad, vlmax := c.vlmax }

/-- Does a pattern contain an FP32 SUM or SUMSQ reduction (R177): a VREDUCE of one of these functions whose source is an FP32
queue, or a window into which some SETWIN of the stream loads an FP32 record, one of the dispatcher's own entries among them (R297)? -/
def CustomPlan.sumsFp32 (pl : CustomPlan) : Bool :=
  let img := (pl.images.getD 2 []).map (fun w => (wordOpcode w, wordOf w))
  let fpWin := fun (i : Nat) => img.any (fun (op, w) => decide (op = 0x70) && decide (w.mode.toNat % 4 = i) &&
    pl.tables.any (fun t => decide ((winRec (t.getD w.imm.toNat 0).toNat).ty = 5)))
  img.any (fun (op, w) => decide (op = 0xA1) && decide (w.mode.toNat % 4 ≤ 1) && (match vop w.inA with
    | .queue q => decide ((qcfg (pl.qtab.getD (2 * q) 0) (pl.qtab.getD (2 * q + 1) 0)).ty = 5)
    | .win i => fpWin i))

/-! ### Tables -/

/-- The feed record of a component (R297): `BASE` at limb 0, row counter 0 with the limb stride in lines. -/
def componentRecord (h : Header) (c : Nat) : BitVec 512 :=
  BitVec.ofNat 512 (hBase h c * 2 ^ 8 + (8 + hStride h c / 64 % 2 ^ 28 * 16) * 2 ^ 64 + 0xFFFF * 2 ^ 192)

/-- Entries 1,008 to 1,023, which the dispatcher writes: for the handles that the op uses, in the order A, B, D. -/
def handleRecords (hs : List (Option (Header × Nat))) : List (Nat × BitVec 512) :=
  (hs.zipIdx).flatMap (fun (h, i) => match h with
    | some (hdr, comps) => (List.range comps).map (fun c => (1008 + 3 * i + c, componentRecord hdr c))
    | none => [])

/-! ### The rules of R206 on one image with one table -/

/-- What the checks of an image see. -/
structure Vet where
  rank : Nat
  s : State
  p : Nat
  plan : CustomPlan
  k : Nat                       -- stream
  tab : Tab (BitVec 512)
  log2N : Nat                   -- of the op's operand; the widest ring where there is none

def Vet.q (v : Vet) (i : Nat) : QCfg := qcfg (v.plan.qtab.getD (2 * i) 0) (v.plan.qtab.getD (2 * i + 1) 0)

/-- An input names the consumer end of a queue in use, an output its producer end (R182). -/
def Vet.inOk (v : Vet) (x : BitVec 6) : Bool := decide (0x30 ≤ x.toNat) || ((v.q x.toNat).enable && decide ((v.q x.toNat).cons = v.k))
def Vet.outOk (v : Vet) (x : BitVec 6) : Bool := decide (0x30 ≤ x.toNat) || ((v.q x.toNat).enable && decide ((v.q x.toNat).prod = v.k))

/-- Is a descriptor index loaded: below the count, or one of the dispatcher's own entries (R297)? -/
def Vet.loaded (v : Vet) (i : Nat) : Bool := decide (i < v.plan.descCount) || decide (1008 ≤ i ∧ i < 1024)

/-- The index that an opcode's `IMM` names, if it names a record, and how many entries it takes. -/
def recordIdx (k op : Nat) (w : StreamWord) : List Nat :=
  match op with
  | 0x20 | 0x21 | 0x23 | 0x30 | 0x31 | 0x32 | 0x41 | 0x42 | 0x43 | 0x44 | 0x45 | 0x46 | 0x51 | 0x52 | 0x61 | 0x70 => [w.imm.toNat]
  | 0x22 => [w.imm.toNat, w.imm.toNat + 1]
  | _ => if k = 2 then (match vecArity op with
      | some (_, p) => if p ∨ w.mode.toNat % 4 ≠ 0 then [w.imm.toNat] else []
      | none => []) else []

/-- Steps 1 and 2 of R249 on a tensor descriptor that a feed record names, with the line count that the instruction gives (R239). -/
def Vet.feedTensorOk (v : Vet) (i count : Nat) (dest : Bool) : Bool :=
  v.loaded i && v.loaded (i + 1) && (tabTensor v.tab i).fieldsOk true false && v.s.tdescChainOk v.p (tabTensor v.tab i) &&
  decide ((tabTensor v.tab i).packedLines dest = count)

/-- Is the record of an instruction well formed? -/
def Vet.recordOk (v : Vet) (op : Nat) (w : StreamWord) : Bool :=
  let x := tabEntry v.tab w.imm.toNat
  let chainIs := fun (c n : Nat) => match v.s.chain? v.p c with
    | some h => decide (h.log2N = n)
    | none => false
  match op with
  | 0x20 | 0x21 => feedRecOk x
  | 0x22 => feedRecOk x && feedRecOk (tabEntry v.tab (w.imm.toNat + 1))
  | 0x30 | 0x31 => nttRecOk x false && chainIs (nttRec x).chain (nttRec x).log2N
  | 0x32 => nttRecOk x true && chainIs (nttRec x).chain (nttRec x).log2N
  | 0x41 | 0x42 | 0x43 | 0x44 | 0x45 => cableRecOk x op
  | 0x46 =>
    let q := v.q w.inA.toNat
    let reverse := w.mode.getLsbD 0
    cableRecOk x op && (if q.direct then decide (v.plan.inputs ≠ 0) && exchangeOk (cableRec x) reverse (2 ^ v.log2N / (if reverse then (cableRec x).t else 1))
      else exchangeOk (cableRec x) reverse (q.slotBits / typeBits q.ty))
  | 0x51 => constRecOk x
  | 0x52 => ribRecOk x
  | 0x61 => plyRecOk x
  | 0x70 => winRecOk x
  | _ => true

/-- The pair of a semaphore (R192, R193). -/
def Vet.swaitOk (v : Vet) (w : StreamWord) : Bool :=
  let x := v.plan.sems.getD (w.imm.toNat % 32) 0
  if w.mode.getLsbD 0 then decide (bits x 18 16 = v.k) else decide (bits x 22 20 = v.k)

/-- Engine cycles of one NTT pass over a limb, and the passes (R83). -/
def nttPasses (n : Nat) : Nat := if n ≤ 12 then 1 else 2
def nttCycles (n : Nat) (fwd : Bool) : Nat := (n + (if fwd then 0 else 1)) * max (2 ^ n / 256) 8 + 48 * nttPasses n

/-- The worst-case time of an instruction in engine cycles (R206, log entry 36): its count on an unloaded scratchpad, and 10
for each cycle in which it issues a line request, at 128 elements, 8 feeder lines, 32 filled or 16 copied lines a cycle. A limb of an exchange that comes from a direct
queue has the elements of the op's operand. -/
def Vet.worst (v : Vet) (op : Nat) (w : StreamWord) : Nat :=
  let x := tabEntry v.tab w.imm.toNat
  let c := w.count.toNat
  let at_ := fun (busy req : Nat) => busy + 10 * req
  let lines := fun (per : Nat) => at_ ((c + per - 1) / per) ((c + per - 1) / per)
  match op with
  | 0x20 | 0x21 => lines 8
  | 0x22 => (c + 7) / 8
  | 0x23 => lines 32
  | 0x24 => lines 16
  | 0x30 | 0x31 =>
    let n := (nttRec x).log2N
    c * at_ (nttCycles n (decide (op = 0x30))) (2 * nttPasses n * (2 ^ n / 128))
  | 0x32 =>
    let n := (nttRec x).log2N
    at_ ((n - 1) * (2 ^ n / 128) + 48 * nttPasses n + c * (2 ^ n / 128)) ((2 * nttPasses n + c) * (2 ^ n / 128))
  | 0x40 => at_ (c + 24) c
  | 0x41 | 0x42 =>
    let g := 2 ^ (cableRec x).log2N / 128
    c * at_ (g + 24) g
  | 0x43 => at_ (128 * c) (128 * c)
  | 0x44 => at_ (c * (((cableRec x).rowLines + 31) / 32)) (c * (((cableRec x).rowLines + 31) / 32))
  | 0x45 =>
    let g := (2 ^ ((cableRec x).rows + (cableRec x).cols) + 127) / 128
    c * at_ (g + 24) g
  | 0x46 =>
    let q := v.q w.inA.toNat
    let row := 2 ^ v.log2N / (if w.mode.getLsbD 0 then (cableRec x).t else 1)
    let g := ((if q.direct then (typeBits q.ty * row + 511) / 512 else q.slotLines) + 1) / 2
    c * at_ g g
  | 0x52 => at_ (c + 88) c
  | 0x61 =>
    let g := c * (plyRec x).beta * (2 ^ v.log2N / 128)
    at_ (g + 40) g
  | _ => 0

/-- The loops and WHEN ranges of an image (R186, R187): a walk with the ends of the open loops, innermost first. -/
def flowOk (ops : List (Nat × StreamWord)) (len : Nat) : Nat → List Nat → List (Nat × StreamWord) → Bool
  | _, _, [] => true
  | i, ends, (op, w) :: rest =>
    let ends := ends.filter (fun e => decide (i < e))
    let room := ends.headD len
    (if op = 0x01 then decide (w.mode.toNat = ends.length) && decide (ends.length < 8) && decide (i + 1 + w.imm.toNat ≤ room)
     else if op = 0x03 then decide (i + 1 + w.count.toNat ≤ room) &&
       ((ops.drop (i + 1)).take w.count.toNat).all (fun g => decide (g.1 ≠ 0x01) && decide (g.1 ≠ 0x0F))
     else true) &&
    flowOk ops len (i + 1) (if op = 0x01 then (i + 1 + w.imm.toNat) :: ends else ends) rest

/-- Is END reached on every path: one stands outside every loop that may be skipped (R186, R206)? -/
def endReached (ops : List (Nat × StreamWord)) : Bool :=
  (ops.zipIdx).any (fun (x, i) => decide (x.1 = 0x0F) &&
    (ops.zipIdx).all (fun (y, j) => !(decide (y.1 = 0x01) && decide (j < i) && decide (i < j + 1 + y.2.imm.toNat) && decide (y.2.count = 0))))

/-- Every PMAC stands behind a PKEY (R200). -/
def pmacOk (ops : List (Nat × StreamWord)) : Bool :=
  (ops.zipIdx).all (fun (x, i) => decide (x.1 ≠ 0x61) || (ops.take i).any (fun y => decide (y.1 = 0x60)))

/-- Is instruction `i` governed by a WHEN, and may it be passed over: by a WHEN, or in a LOOP of `COUNT` 0 (R186, R187)? -/
def governed (ops : List (Nat × StreamWord)) (i : Nat) : Bool :=
  (ops.zipIdx).any (fun (y, j) => decide (y.1 = 0x03) && decide (j < i) && decide (i ≤ j + y.2.count.toNat))
def optional (ops : List (Nat × StreamWord)) (i : Nat) : Bool :=
  governed ops i || (ops.zipIdx).any (fun (y, j) => decide (y.1 = 0x01) && decide (j < i) && decide (i ≤ j + y.2.imm.toNat) && decide (y.2.count = 0))

/-- The loops that run instruction `i` more than once: first and last index of their bodies. -/
def repeating (ops : List (Nat × StreamWord)) (i : Nat) : List (Nat × Nat) :=
  (ops.zipIdx).filterMap (fun (y, j) =>
    if y.1 = 0x01 ∧ 2 ≤ y.2.count.toNat ∧ j < i ∧ i ≤ j + y.2.imm.toNat then some (j + 1, j + y.2.imm.toNat) else none)

/-- Groups of the Rib array as the image shows them (R106, log entry 92): an RMAC that follows another of its group, in the image or from the end of a loop's
body to its start, opens the group when the other closed it, and only then; the first of a group opens it. What follows an RMAC that may be passed over is left
to the run. -/
def groupsOk (ops : List (Nat × StreamWord)) : Bool :=
  let rmacs := (ops.zipIdx).filter (fun x => decide (x.1.1 = 0x52))
  let ofGroup := fun (g : Nat) => rmacs.filter (fun x => decide (x.1.2.mode.toNat % 4 = g))
  let follows := fun (a b : (Nat × StreamWord) × Nat) => optional ops a.2 || decide (flag b.1.2 0 = flag a.1.2 1)
  (List.range 4).all (fun g =>
    let rs := ofGroup g
    (rs.take 1).all (fun x => flag x.1.2 0) && (rs.zip (rs.drop 1)).all (fun x => follows x.1 x.2) &&
    rs.all (fun b => (repeating ops b.2).all (fun (lo, hi) =>
      let body := rs.filter (fun x => decide (lo ≤ x.2 ∧ x.2 ≤ hi))
      decide ((body.head?).map (·.2) ≠ some b.2) || optional ops b.2 || (body.getLast?).all (fun a => follows a b))))

/-- The array mode in which RMAC `i` stands, where the image shows it: that of the last RMODE before it, modular before any. -/
def shownMode (ops : List (Nat × StreamWord)) (i : Nat) : Option Nat :=
  match (((ops.zipIdx).take i).filter (fun x => decide (x.1.1 = 0x50))).getLast? with
  | none => some 0
  | some x => if optional ops x.2 then none else some (x.1.2.mode.toNat % 4)

/-- The first six rows of R206 on one image. -/
def Vet.malformed (v : Vet) (img : List (BitVec 64)) : Bool :=
  let ops := img.map (fun x => (wordOpcode x, wordOf x))
  !(ops.all (fun (op, w) => wordOk v.k op w && v.inOk w.inA && v.inOk w.inB && v.outOk w.out) &&
    flowOk ops ops.length 0 [] ops && endReached ops &&
    ops.all (fun (op, w) => (decide (op ≠ 0x04) || v.swaitOk w) && (decide (op ≠ 0x06) || decide (w.imm.toNat / 1024 < v.plan.ranks))) &&
    (decide (v.k ≠ 5) || pmacOk ops) && (decide (v.k ≠ 4) || groupsOk ops) &&
    ops.all (fun (op, w) => (recordIdx v.k op w).all v.loaded && v.recordOk op w) &&
    (ops.zipIdx).all (fun (x, i) => decide (x.1 ≠ 0x52) || (shownMode ops i).all (fun m => ribModeOk m x.2 (ribRec (tabEntry v.tab x.2.imm.toNat)))) &&
    ops.all (fun (op, w) => decide (v.worst op w ≤ 2 ^ 20)))

/-- The feed records that an image names. -/
def Vet.feeds (v : Vet) (img : List (BitVec 64)) : List (FeedRec × Nat × Bool) :=
  if v.k ≠ 0 then [] else img.flatMap (fun x => feedsOf v.tab (wordOpcode x) (wordOf x))

/-- A tensor that a pattern walks: what names it, and how. -/
structure VetTensor where
  idx : Nat          -- table index of the descriptor
  t : TDesc
  count : Nat        -- lines of the transfer
  dest : Bool
  stash : Bool

/-- The tensor descriptors that an image's feed records name. -/
def Vet.tensors (v : Vet) (img : List (BitVec 64)) : List VetTensor :=
  (v.feeds img).filterMap (fun (r, n, d) => if r.tdesc = 0xFFFF then none else some ⟨r.tdesc, tabTensor v.tab r.tdesc, n, d, decide (r.space = 1)⟩)

/-- A misaligned record: a feed `BASE`, a constant block. -/
def Vet.misaligned (v : Vet) (img : List (BitVec 64)) : Bool :=
  (v.feeds img).any (fun (r, _) => decide (r.space = 0) && decide (r.base % 64 ≠ 0)) ||
  img.any (fun x => decide (wordOpcode x = 0x51) && decide (v.k = 4) && decide ((constRec (tabEntry v.tab (wordOf x).imm.toNat)).base % 64 ≠ 0))

/-- The combine regions of an image (R224): its combining descriptors. -/
def combinesOf (k : Nat) (tab : Tab (BitVec 512)) (img : List (BitVec 64)) : List TDesc :=
  (img.filterMap (fun x =>
    let w := wordOf x
    let i := if wordOpcode x = 0x21 then w.imm.toNat else w.imm.toNat + 1
    let r := feedRec (tabEntry tab i)
    if k = 0 ∧ (wordOpcode x = 0x21 ∨ wordOpcode x = 0x22) ∧ r.tdesc ≠ 0xFFFF ∧ r.space = 0 ∧ (tabTensor tab r.tdesc).combine ≠ 0 then some (tabTensor tab r.tdesc) else none)).eraseDups

/-- The combine regions of a plan. -/
def CustomPlan.combines (pl : CustomPlan) : List TDesc :=
  (pl.tables.flatMap (fun t => combinesOf 0 (rankTable t []) (pl.images.headD []))).eraseDups

/-- The whole extent of a descriptor as its owned region. -/
def TDesc.whole (t : TDesc) : TDesc := { t with dim := t.dim.map (fun d => { d with org := 0, own := d.ext, lo := 0, hi := 0 }), orgRc := [] }

/-- Fill a combine region with the identity of its function: the whole extent of the descriptor (R224). -/
def fillCombine (p : Nat) (unit : Option Nat) (t : TDesc) : Eng Unit :=
  let f := t.whole
  let row := List.replicate (f.d 0).own (combineId t.combine)
  let runs := f.ownRuns [] ((f.outer (fun t d => t.ownRange [] d)).map (fun _ => row))
  engStore 3 (fun s => runs.foldl (fun acc (a, bs) =>
    match acc with
    | .error e => .error e
    | .ok s => s.writeVA p a bs .combine unit) (.ok s))

/-- The footprints in device space of a pattern's transfers, read or written (R247): of a combine region its extent (R224). -/
def CustomPlan.foots (pl : CustomPlan) (dest : Bool) : List (Nat × Nat) :=
  (pl.transfers.filterMap (fun x => if x.stash ∨ x.dest ≠ dest then none
    else some (if x.t.combine = 0 then x.t.footprint x.rows dest else x.t.extentBytes))).eraseDups

/-- What the destinations of a pattern may leave unspecified: the owned regions of its transfers, and the elements of the extent of a combine region (R134, R207, R224, R242). -/
def CustomPlan.writes (pl : CustomPlan) : List (Nat × Nat) :=
  (pl.transfers.flatMap (fun x => if x.stash ∨ !x.dest then [] else ownRegions (if x.t.combine = 0 then x.t.placed x.rows else x.t.whole))).eraseDups

/-- The chain slots that an image names: by NTT and constant records and by residue tensors (R74). -/
def Vet.chains (v : Vet) (img : List (BitVec 64)) : List Nat :=
  img.flatMap (fun x =>
    let e := tabEntry v.tab (wordOf x).imm.toNat
    if v.k = 1 ∧ (wordOpcode x = 0x30 ∨ wordOpcode x = 0x31 ∨ wordOpcode x = 0x32) then [(nttRec e).chain]
    else if v.k = 4 ∧ wordOpcode x = 0x51 then [(constRec e).chain] else []) ++
  ((v.tensors img).filter (fun x => x.t.residue)).map (fun x => x.t.chain)

/-- The checks of R206 on all ranks and images, row by row of its table, then those of R249 on the tensor descriptors in turn, in the order in which ranks, images and
instructions name them. Where a row counter moves a window, step 4 sees its first place, and is made again for each transfer; step 5 compares the windows of the transfers that
the images issue, each with each (R245), and is made again as well. -/
def patternCheck (pl : CustomPlan) (vs : List (Vet × List (BitVec 64))) : Eng Unit := do
  engAssert (vs.all (fun (v, i) => !v.malformed i && (List.range 48).all (fun q => decide ((v.q q).ty ≤ 5)))) .descMalformed
  engAssert (vs.all (fun (v, i) => !v.misaligned i)) .align
  engAssert (vs.all (fun (v, i) => i.all (fun x => !(decide (wordOpcode x = 0x24) && decide (v.k = 0)) || decide ((wordOf x).inA ≠ (wordOf x).out)))) .overlap
  engAssert (vs.all (fun (v, i) => decide (v.s.grade ≠ 2) || i.all (fun x => !(decide (wordOpcode x = 0x50) && decide (v.k = 4) && decide ((wordOf x).mode.toNat ≠ 0))))) .engineAbsent
  let moves := pl.transfers
  (vs.flatMap (fun (v, i) => (v.tensors i).map (fun x => (v, x)))).forM (fun (v, x) => do
    engAssert (v.feedTensorOk x.idx x.count x.dest) .descMalformed
    engAssert x.t.alignOk .align
    engAssert (x.t.boundsOk [] x.dest x.stash) .bounds
    engAssert (!x.dest || (x.t.aliasOk && (moves.filter (fun u => decide (u.rank = v.rank) && u.dest && decide (u.t = x.t) && decide (u.stash = x.stash))).all (fun u => moves.all u.apart))) .overlap)

/-! ### Readiness (R299) -/

/-- Step 2 of R299: tiles of the partition on one die, or on two. -/
def State.ranksHeld (s : State) (p ranks : Nat) (cross : Bool) : Bool :=
  let ns := (List.range 18).map (fun d => ((s.part p).quads.filter (fun g => decide (g / 8 = d))).length * 4)
  ns.any (fun n => decide (ranks ≤ n)) || (cross && (ns.zipIdx).any (fun (a, i) => (ns.zipIdx).any (fun (b, j) => decide (i ≠ j) && decide (ranks ≤ a + b))))

/-- The content of a CUSTOM result (R298). -/
def customResult (c : Ctx) (a : Content) (b : Option Content) (pl : CustomPlan) : Content :=
  let l := (match b with | some y => min a.level y.level | none => a.level) - pl.levelDrop
  let n := c.noise (decide (a.scheme = 0)) l a.scale
  let least : Int := match b with | some y => min a.noise y.noise | none => a.noise
  { a with level := l, comps := pl.resultCt, form := pl.resultForm, poisoned := false }.withNoise n (least - pl.loss) c.guard

/-- The container of a CUSTOM op: its reference entry, and the copy that the runtime takes. -/
def readContainer (j : Job) (e : Entry) (x : Nat) : Eng (Container × List Byte) := do
  engAssert (decide (nbits x 47 0 % 64 = 0)) .align
  let size := nbits x 95 64
  engAssert (decide (nbits x 63 48 = 0) && decide (nbits x 511 98 = 0) && decide (nbits x 97 96 ≤ 2) && decide (size ≤ 2 ^ 22) && decide (256 ≤ size)) .descMalformed
  let bs ← recordBytes j.part (nbits x 47 0) size
  let c := containerOf (leNat (bs.take 256))
  let n := nbits x 97 96
  engAssert (c.ok size && (decide (c.ct = 0) || decide (n ≠ 0)) && (decide (1 ≤ n) || decide (oeA e = 0)) && (decide (2 ≤ n) || decide (oeB e = 0)) &&
    (decide (c.ct ≠ 0) || decide (oeD e = 0))) .descMalformed
  return (c, bs)

/-- Readiness of CUSTOM (R299; log entry 29). The chain slots that the op names (R74) are those of its operand handles and those of its pattern's records and tensors
(DEDUCED, log entry 97). -/
def readyCustom (j : Job) (r : OpRec) : Eng Ready := do
  let e := r.entry
  let p := j.part
  let x ← opDesc j r.die (oeChain e) 1
  let n := nbits x 97 96
  let ins := [oeA e, oeB e].take n
  let s ← engGet
  engAssert (ins.all (fun h => decide (h < s.handleCount p))) .bounds
  let a ← if 1 ≤ n then readHeader p (oeA e) else pure 0
  let b ← if 2 ≤ n then (if oeB e = oeA e then pure a else readHeader p (oeB e)) else pure 0
  let hs := ins.zip [a, b]
  engAssert (hs.all (fun h => sourceOk h.2)) .descMalformed
  placeCheck (hs.map (fun (h, v) => ⟨h, v, compCount (hComps v), hLog2N v⟩))
  engAssert (hs.all (fun h => !hPoisoned h.2)) .operandPoisoned
  let s ← engGet
  let ca := contentOf a
  let cb := if 2 ≤ n then some (contentOf b) else none
  let c := s.ctxOf p (hChain a)
  engAssert (hs.all (fun h => s.sourceFits p h.2 && decide (hComps h.2 = 2))) .paramMismatch
  if 2 ≤ n then liftChk (CtStep.add.agree { c with tol := 2 ^ 32 } ca cb)
  match ← refreshFirst j r c.guard hs with
  | some h => return { refresh := some h }
  | none =>
  budgetOk c.guard (hs.map (·.2))
  let (k, bs) ← readContainer j e x
  let s ← engGet
  engAssert (!s.unjoinedMeet j r.idx ins (if k.ct = 0 then [] else [oeD e])) .overlap
  engAssert (s.ranksHeld p k.ranks k.cross) .descMalformed
  let pl := planOf k n bs
  let srcRecs := [if 1 ≤ n then some (a, 2) else none, if 2 ≤ n then some (b, 2) else none]
  let d ← if k.ct = 0 then pure 0 else if oeD e = oeA e then pure a else if 2 ≤ n ∧ oeD e = oeB e then pure b
    else if oeD e < s.handleCount p then readHeader p (oeD e) else pure 0
  let dComps := if k.ct = 3 then 3 else 2
  let extra := handleRecords (srcRecs ++ [if k.ct = 0 then none else some (d, dComps)])
  let plan := { pl with tables := pl.tables.map (fun t => t ++ List.replicate (1008 - t.length) 0 ++ ((List.range 9).map (fun i => ((extra.find? (fun y => y.1 = 1008 + i)).map (·.2)).getD 0))) }
  let vets : List (Vet × List (BitVec 64)) := (plan.tables.zipIdx).flatMap (fun (t, rank) => (plan.images.zipIdx).map (fun (img, i) =>
    ({ rank := rank, s := s, p := p, plan := plan, k := i, tab := rankTable t [], log2N := if n = 0 then 17 else hLog2N a }, img)))
  patternCheck plan vets
  engAssert (decide (qtabCheck ((List.range 48).map (fun i => qcfg (pl.qtab.getD (2 * i) 0) (pl.qtab.getD (2 * i + 1) 0))) = none)) .tableCommitRefused
  let strides := hs.flatMap (fun h => [hStride h.2 0, hStride h.2 1])
  let base : Ready := { hdrA := a, hdrB := b, reads := ins, descs := [(oeChain e, x)], plan := some plan, sumsFp32 := plan.sumsFp32,
                        slots := (hs.map (fun h => hChain h.2) ++ vets.flatMap (fun (v, i) => v.chains i)).eraseDups, spoil := plan.writes,
                        footR := plan.foots false, footW := plan.foots true }
  let withKey : Ready → Eng Ready := fun x => do -- the directory entry, behind the steps of R299 (log entry 90)
    if vets.any (fun (v, i) => decide (v.k = 5) && i.any (fun w => decide (wordOpcode w = 0x60))) then
      let ks ← dirCheck p [oeKey e]
      return { x with dirs := [(oeKey e, ((ks.head?).map (·.raw)).getD 0)] }
    else return x
  if k.ct = 0 then
    engAssert (strides.all (fun v => decide (v % 64 = 0))) .align
    return (← withKey base)
  engAssert (decide (oeD e < s.handleCount p)) .bounds
  engAssert (ins.contains (oeD e) || destOk d) .descMalformed
  placeCheck (hs.map (fun (h, v) => ⟨h, v, 2, hLog2N v⟩) ++ [⟨oeD e, d, dComps, hLog2N a⟩])
  engAssert ((strides ++ (List.range dComps).map (hStride d)).all (fun v => decide (v % 64 = 0))) .align
  engAssert (decide (k.drop < (match cb with | some y => min ca.level y.level | none => ca.level))) .levelExhausted
  let res := customResult c ca cb pl
  engAssert (destPlaced d dComps res.level) .bounds
  withKey { base with results := [(oeD e, putContent d res)], limbs := limbRegions (setBits d 6 2 res.log2N) dComps res.level }

/-! ### The start of the streams (R180) -/

/-- A tile as a pattern finds it: images, table, queues, semaphores, limits, power and vector length (R180, R207, R214, R296). -/
def loadTile (pl : CustomPlan) (o : OpRef) (s : State) (t rank : Nat) : State :=
  let tab := rankTable (pl.tables.getD rank []) []
  let put := fun (s : State) (r : Reg) (v : BitVec 32) => s.setReg r (r.written 0 v) -- reserved bits read as zero (R12)
  let regs := (List.finRange 48).flatMap (fun n => [(Reg.tile (tIdx t) (.qcfgLo n), pl.qtab.getD (2 * n.val) 0), (Reg.tile (tIdx t) (.qcfgHi n), pl.qtab.getD (2 * n.val + 1) 0)])
  let s := regs.foldl (fun s (r, v) => (put s r v).setAct r (r.written 0 v)) s
  let s := (List.finRange 32).foldl (fun s n => put s (.tile (tIdx t) (.sem n)) (pl.sems.getD n.val 0)) s
  let s := (s.setReg (.tile (tIdx t) .feedLimit) pl.feedLimit)
  let s := s.applySpad t pl.spadOn
  let s := s.setReg (.tile (tIdx t) .vecVlmax) (BitVec.ofNat 32 (min pl.vlmax (128 * (1 + Config.runtime 0 % 32))))
  s.updTile t (fun x => { x with
    streams := (List.range 6).foldl (fun m k => Tab.set (fun _ => ({} : Stream)) m k { running := true, image := pl.images.getD k [] }) []
    desc := tab, descCount := pl.descCount, queues := [], posts := [], feeders := [], exchanges := [], ribMode := 0, ribGroups := [], ribConst := none,
    plyKey := none, windows := [], reduction := none,
    op := some (o.job, o.op), rank := rank, partDone := false, stashWrote := [] })

/-- Start a pattern on all tiles of its op. -/
def State.loadPattern (s : State) (o : OpRef) (r : OpRec) (pl : CustomPlan) : State :=
  ((r.tiles.zipIdx).foldl (fun s (t, k) => loadTile pl o s t k) s).updOp o (fun r => { r with phase := .running })

/-- CUSTOM (R298): dispatched like any op, then its streams run by their own commands. -/
def State.startCustom (s : State) (o : OpRef) : State :=
  match s.op? o with
  | none => s
  | some (j, r) =>
    match r.plan with
    | some pl =>
      if decide (oeOpcode r.entry = 0x7F) && s.admits j r then
        match s.hookOf j r with
        | some i => s.fireHook j r i
        | none =>
          let keep := s.saveLimbs j.part r
          let before := s.saveBefore j.part r
          let s := (((s.startOp o j r).updOp o (fun q => { q with saved := keep, before := before })).badReservoirs o j r).loadPattern o r pl
          match pl.combines.forM (fillCombine j.part r.die) s with
          | .ok _ s' => s'
          | .error h s' => s'.opFailed o (tileUnit (r.tiles.headD 0)) h
      else s
    | none => s

def execCustom (o : OpRef) (s : State) : Host.Outcome State Fault Refusal := .next (s.startCustom o)

end Sys2Proof.Machine
end

