-- ==== Sys2Proof/Machine/OpReady.lean ====
section
/-! DEFINITION. OP_READY (R267, R384): the conditions under which an op becomes ready, its readiness checks, the in-flight checks of R224, R247 and R269, and the insertion of a REFRESH before a reader (R54). -/
namespace Sys2Proof.Machine

/-! ### May the op become ready now? -/

/-- Does a REFRESH that was inserted before a job's first reader still stand before an op that reads its handle (R54)? -/
def Job.refreshPending (j : Job) (rd : List Nat) (idx : Nat) : Bool :=
  j.ops.any (fun o => o.insertedBefore && !o.phase.settled && decide (o.idx ≠ idx) && rd.contains (oeA o.entry))

/-- Chain slots that an op names, as far as its entry, its headers and its descriptors show them before readiness (R74). -/
def State.namedSlots (s : State) (j : Job) (e : Entry) : List Nat :=
  let hdrSlot := fun h => match s.readVA j.part (s.handleVa j.part h) 64 with
    | .ok bs => [nbits (leNat bs) 26 23]
    | .error _ => []
  let descSlot := fun (i, n) => match s.peekDesc j i n with
    | some x =>
      if n = 2 then (if (tdesc x).residue ∧ !oeChainEn e then [(tdesc x).chain] else [])
      else if oeOpcode e = 0x01 then [nbits x 26 23]
      else if oeOpcode e = 0x2A then [(constRec x).chain] else []
    | none => []
  (s.opHandles j e).1.flatMap hdrSlot ++ (descIdx e).flatMap descSlot

/-- Ops whose pattern may lie on two dies: a CUSTOM op's where it says so, and an integer chain's, which the runtime builds for tiles of two dies too (R31, R116). -/
def crossOps : List Nat := [0x7F, 0x40, 0x41]

/-- Ops that may name several keys; each key switch runs where its own reservoir lies (R155). -/
def keyLists : List Nat := [0x21, 0x30, 0x31, 0x32]

/-- Is a list of tiles one that the runtime and the dispatchers may give an op (R31, R177, R355, R384): tiles of the partition, in use and
not under self-test, with the reduction unit's path open, on active dies, all on one die unless a pattern may declare cross-die tiles? FENCE, which no engine runs (R280), takes no tile. -/
def State.tilesFit (s : State) (j : Job) (e : Entry) (ts : List Nat) : Bool :=
  let dies := (ts.map siteOf).eraseDups.length
  if oeOpcode e = 0x70 then decide (ts = [])
  else decide (ts ≠ []) && decide ts.Nodup &&
    ts.all (fun t => (s.part j.part).quads.contains (quadOf t) && !(s.tile t).outOfUse && !(s.tile t).selfTest && s.reduceOpen t && decide ((s.site (siteOf t)).state = .active)) &&
    (decide (dies = 1) || ((crossOps ++ keyLists).contains (oeOpcode e) && decide (dies = 2)))

/-- The conditions of R267 and what holds an op back: a paused partition, a frog, a hook, a pending commit, a waiting REFRESH. -/
def State.mayReady (s : State) (j : Job) (r : OpRec) (ts : List Nat) : Bool :=
  let p := j.part
  let rd := (s.opHandles j r.entry).1
  s.answers && (s.hank (s.vfPort p)).running && decide (s.power.state = .m0) && decide (s.power.ref = .present) && decide (r.phase = .waiting) && !j.killed &&
  decide ((s.part p).state = .active) && (match (s.part p).frog with | some f => !f.whole | none => true) && decide (s.hookState p = 0) &&
  decide ((s.part p).remap = none) && !s.ctlHolds p && !s.mtHolds p (s.namedSlots j r.entry) &&
  (j.preds r).all (fun q => q.phase.settled) && !(j.graphPreds r).any (·.failed) && !j.refreshPending rd r.idx &&
  (!seOrdered j.entry || (match j.prev with | some k => (s.job? k).isNone | none => true)) &&
  (!reports j r || decide (s.holdTaken p j.ring < holdSize)) && s.tilesFit j r.entry ts

/-! ### The checks -/

/-- The readiness checks of an opcode. -/
def readyOf (j : Job) (r : OpRec) : Eng Ready := do
  let op := oeOpcode r.entry
  match op with
  | 0x01 => readyLoad j r
  | 0x02 => readyStore j r
  | 0x03 | 0x04 => readyCopy j r
  | 0x05 => readyFill j r
  | 0x2A => readyBconv j r
  | 0x30 => readyLinear j r
  | 0x31 => readyPoly j r
  | 0x33 => readyEncode j r
  | 0x40 => readyMatmul j r
  | 0x41 => readyInt j r
  | 0x70 => return {}
  | 0x71 => readySignal r
  | 0x7F => readyCustom j r
  | 0x32 =>
    let (x, b) ← readyRefresh j r
    if x.refresh.isSome then return x
    let s ← engGet
    let taken := (s.inFlight j.part).filterMap (fun q => q.2.workSlot) ++ ((s.part j.part).frog.map (·.slots)).getD []
    match ((List.range b.workSlots).map (fun i => b.workBase + i * b.workStride)).find? (fun a => !taken.contains a) with
    | none => engStall .sem
    | some a => return { x with workSlot := some a, footW := x.footW ++ [(a, a + b.workStride)], scratch := x.scratch ++ [(a, b.workStride)] }
  | _ => readyStep j r

/-- R224 and R247 against the other ops of the partition in flight: a destination meets no tensor of another op, a source no destination, a combine region no limb array
that another op writes. -/
def State.footsMeet (s : State) (j : Job) (idx : Nat) (x : Ready) : Bool :=
  let combines := ((x.plan.map CustomPlan.combines).getD []).map TDesc.extentBytes
  (s.inFlight j.part).any (fun (k, q) => !(decide (k.id = j.id) && decide (q.idx = idx)) &&
    (combines.any (fun c => q.limbs.any (fun (a, n) => meets c (a, a + n))) || x.footW.any (fun w => (q.footR ++ q.footW).any (meets w)) || x.footR.any (fun f => q.footW.any (meets f))))

/-- R269 against ops in flight of other jobs. -/
def State.handlesInUse (s : State) (j : Job) (x : Ready) : Bool :=
  (s.inFlight j.part).any (fun (k, q) => decide (k.id ≠ j.id) && handlesMeet x.reads (x.results.map (·.1)) q.readHandles (q.results.map (·.1)))

/-- The reservoirs that an op's keys are read from (R155). -/
def State.reservoirs (s : State) (p : Nat) (dirs : List (Nat × Nat)) : List KeyEntry := (dirs.map (fun d => keyEntryOf d.2)).filter (s.reservoirUp p)

/-- The dies of the reservoirs of an op with several keys, as far as its tiles can lie on them: a tile list spans at most two (R98, log entry 30). -/
def State.reservoirDies (s : State) (p : Nat) (dirs : List (Nat × Nat)) : List Nat := (((s.reservoirs p dirs).map (·.site)).eraseDups).take 2

/-- Do the tiles suit the reservoirs of the keys that the op names (R155; log entry 30)? An op with one key runs on the reservoir's ranks, one with several has every
reservoir of those dies among its tiles. -/
def State.reservoirTiles (s : State) (p : Nat) (op : Nat) (dirs : List (Nat × Nat)) (ts : List Nat) : Bool :=
  let es := s.reservoirs p dirs
  if op = 0x17 ∨ op = 0x20 ∨ op = 0x22 ∨ op = 0x23 then es.all (fun e => decide (ts = e.ranks))
  else if keyLists.contains op then es.all (fun e => !(s.reservoirDies p dirs).contains e.site || e.ranks.all ts.contains)
  else true

/-- Do the dies of the tiles suit the op (R31, R98): one, two where its pattern declares cross-die tiles, and for an op with several keys those of its reservoirs? -/
def State.diesFit (s : State) (p : Nat) (op : Nat) (plan : Option CustomPlan) (dirs : List (Nat × Nat)) (ts : List Nat) : Bool :=
  let ds := (ts.map siteOf).eraseDups
  decide (ds.length ≤ 1) ||
  (if op = 0x7F then plan.any (·.crossDie) && decide (ds.length = 2)
   else if keyLists.contains op then ds.all (s.reservoirDies p dirs).contains
   else crossOps.contains op && decide (ds.length = 2))

/-- The REFRESH that auto-refresh inserts on a handle (R54, R55). -/
def refreshOp (idx h a : Nat) (before : Bool) : OpRec :=
  { idx := idx, entry := BitVec.ofNat 512 (0x32 + h * 2 ^ 96 + h * 2 ^ 160), inserted := some a, insertedBefore := before }

/-- Insert a REFRESH (R54, R56). -/
def State.insertRefresh (s : State) (o : OpRef) (h : Nat) (before : Bool) : State :=
  match s.op? o with
  | none => s
  | some (j, _) =>
    let s := s.updJob o.job (fun k => { k with ops := k.ops ++ [refreshOp k.ops.length h o.op before] })
    let s := s.updOp o (fun r => { r with autoRefreshed := true, refreshDue := r.refreshDue || !before })
    s.bump (pr j.part .ctEventCount) 31 16

/-- Latch what readiness fixes. -/
def OpRec.latch (r : OpRec) (x : Ready) (ts : List Nat) (guard tol now : Nat) : OpRec :=
  { r with
    phase := .ready, tiles := ts, hdrA := x.hdrA, hdrB := x.hdrB, guard := BitVec.ofNat 16 guard, tol := BitVec.ofNat 32 tol, results := x.results, readyAt := now,
    sumsFp32 := x.sumsFp32, workSlot := x.workSlot, slots := x.slots, dirs := x.dirs, descs := x.descs, hold := x.hold, plan := x.plan, limbs := x.limbs, spoil := x.spoil, scratch := x.scratch,
    footR := x.footR, footW := x.footW }

/-! ### New tiles for an op that has to move (R69, R355, R363) -/

/-- May the partition's op be placed on a tile? -/
def State.usable (s : State) (p : Nat) (sums : Bool) (t : Nat) : Bool :=
  (s.part p).quads.contains (quadOf t) && !(s.tile t).outOfUse && !(s.tile t).selfTest && s.reduceOpen t &&
  decide ((s.site (siteOf t)).state = .active) && !(sums && s.ruOut t)

/-- Can the ranks of a moved op, `n` of them on the dies `ds` so far, stand on tiles of `xs` (R69 step 3): on its dies, on one other, or, where no single die holds it, on two? -/
def roomFor (n : Nat) (ds xs : List Nat) : Bool :=
  let on := fun (ds : List Nat) => (xs.filter (fun t => ds.contains (siteOf t))).length
  decide (n ≤ on ds) || (List.range 18).any (fun d => decide (n ≤ on [d])) ||
  (decide (1 < ds.length) && (List.range 18).any (fun d => (List.range 18).any (fun e => decide (n ≤ on [d, e]))))

/-- Is `ts` a place of R69 step 3 among the tiles `xs`: on the op's dies where they have room, else on one other die, else on two (log entry 117)? -/
def placedOn (n : Nat) (ds xs ts : List Nat) : Bool :=
  let on := fun (ds : List Nat) => xs.filter (fun t => ds.contains (siteOf t))
  if n ≤ (on ds).length then ts.all (on ds).contains
  else ts.all xs.contains && ((List.range 18).all (fun d => decide ((on [d]).length < n)) || decide ((ts.map siteOf).eraseDups.length = 1))

/-- Where an op that has to move goes (R69 step 3, R177, R355): to tiles that it has not just left, as `placedOn` says; where those have no room, back to its own once they
have passed their self-test, or beside one of them that may not have it any more. An op of a partition whose quads have no room for its ranks at all runs on as many of
them as there are (R363), a CUSTOM op, whose ranks its pattern fixes, waits for more (log entry 117). -/
def State.moveFits (s : State) (j : Job) (r : OpRec) (ts : List Nat) : Bool :=
  let n := r.tiles.length
  let own := (s.part j.part).quads.flatMap tilesOfQuad
  let fit := own.filter (s.usable j.part r.sumsFp32)
  let pool := fit.filter (fun t => !r.left.contains t)
  let tested := decide (r.left ≠ []) && !r.left.any (fun t => (s.tile t).selfTest)
  if decide (oeOpcode r.entry = 0x7F) || roomFor n r.dies own then
    decide (ts.length = n) &&
    (if roomFor n r.dies pool then placedOn n r.dies pool ts
     else tested && (if r.left.all fit.contains then decide (ts = r.left) else roomFor n r.dies fit && placedOn n r.dies fit ts))
  else decide (ts.length ≤ n) && ts.all (if pool = [] ∧ tested then fit else pool).contains

/-- The dispatcher places an op on new tiles; the governor admits it there as any other (R384). Digests of another number of ranks compare with nothing. -/
def State.replace (s : State) (o : OpRef) (j : Job) (r : OpRec) (ts : List Nat) : State :=
  if s.answers && decide (s.power.state = .m0) && decide (s.power.ref = .present) && !j.killed && decide ((s.part j.part).state = .active) &&
     decide (s.hookState j.part = 0) && s.tilesFit j r.entry ts && s.moveFits j r ts && s.diesFit j.part (oeOpcode r.entry) r.plan r.dirs ts then
    s.updOp o (fun r => { r with
      tiles := ts, displaced := false, left := [], mismatches := 0, past := if ts.length = r.tiles.length then r.past else [] })
  else s

/-- OP_READY: hold the op, end it with the first check that fails, insert a REFRESH before it, or make it ready. Of several readers of a handle that was exhausted on
entry, the one whose OP_READY comes first is the job's first reader of R56 (DESIGN CHOICE, log entry 128). -/
def State.opReady (s : State) (o : OpRef) (ts : List Nat) : State :=
  match s.op? o with
  | none => s
  | some (j, r) =>
    if r.displaced then s.replace o j r ts
    else if !s.mayReady j r ts then s
    else
      let r := { r with tiles := ts }
      let rep := hankUnit (s.vfPort j.part)
      match readyOf j r s with
      | .error (.stall _) _ => s
      | .error h s' => s'.opFailed o rep h
      | .ok x s' =>
        match x.refresh with
        | some h => s'.insertRefresh o h true
        | none =>
          if !s.reservoirTiles j.part (oeOpcode r.entry) x.dirs ts || (x.sumsFp32 && ts.any s'.ruOut) || s'.mtHolds j.part x.slots ||
             !s.diesFit j.part (oeOpcode r.entry) x.plan x.dirs ts || x.plan.any (fun pl => decide (ts.length ≠ pl.ranks)) then s
          else if s'.footsMeet j r.idx x || s'.handlesInUse j x then s'.endOp o .overlap
          else
            s'.updOp o (fun r => r.latch x ts (bits (s.reg (pr j.part .ctNoiseGuard)) 15 0) (s.reg (pr j.part .ctScaleTol)).toNat s.clock.toNat)

def execOpReady (o : OpRef) (tiles : List (Fin 576)) (s : State) : Host.Outcome State Fault Refusal := .next (s.opReady o (tiles.map (·.val)))

/-- OP_PASSOVER_BLOCK (R384): an op that has been passed over for 2 ms blocks its die. -/
def execOpPassoverBlock (o : OpRef) (s : State) : Host.Outcome State Fault Refusal :=
  .next (match s.op? o with
    | some (_, r) => if r.phase = .ready ∧ !r.displaced then s.updOp o (fun r => { r with blocking := true }) else s
    | none => s)

end Sys2Proof.Machine
end

