-- ==== Sys2Proof/Machine/OpBind.lean ====
section
/-! DEFINITION. OP_BIND_OFF (R30, R40): destination headers, poisoned marks (R57, R59), swatch digests (R402, R403), and auto-refresh after an op (R54). -/
namespace Sys2Proof.Machine

/-! ### GF(2^128) (R403) -/

/-- Multiply by x modulo x^128 + x^7 + x^2 + x + 1. -/
def gfDouble (a : BitVec 128) : BitVec 128 := (a <<< 1) ^^^ (if a.getLsbD 127 then 0x87 else 0)

/-- The product, over the low `n` bits of `b` from bit `127 - n + 1` on, most significant first. -/
def gfMulFrom (a b : BitVec 128) : Nat → BitVec 128
  | 0 => 0
  | n + 1 => gfDouble (gfMulFrom a b n) ^^^ (if b.getLsbD (127 - n) then a else 0)

def gfMul (a b : BitVec 128) : BitVec 128 := gfMulFrom a b 128

/-- D = Σ B_j · H^(m+2−j) ⊕ L · H: Horner's rule over the blocks, then the final block. -/
def digest (h : BitVec 128) (blocks : List (BitVec 128)) (last : BitVec 128) : BitVec 128 :=
  gfMul h ((blocks.foldl (fun acc b => gfMul h (acc ^^^ b)) 0) ^^^ last)

/-- 16-byte little-endian blocks of bytes, zero-padded. -/
def blocksOf (bs : List Byte) : List (BitVec 128) := (chunksOf 16 bs.length bs).map (fun c => BitVec.ofNat 128 (leNat c))

/-! ### Swatches (R402) -/

/-- The limbs of a header as stored now, by component, limb and element, where they can be read. -/
def State.limbsNow (s : State) (p : Nat) (h : Header) : Option (List Nat) :=
  ((List.range (compCount (hComps h))).flatMap (fun c => (List.range (hLevel h)).map (fun i => (c, i)))).foldl (fun acc (c, i) =>
    match acc with
    | none => none
    | some xs => match s.readVA p (hBase h c + i * hStride h c) (limbSize (hN h) (hStorage h)) with
      | .ok bs => some (xs ++ limbOf (hStorage h) (hN h) bs)
      | .error _ => none) (some [])

/-- The digest of a handle. -/
def handleDigest (key : BitVec 128) (h : Header) (xs : List Nat) : BitVec 128 :=
  digest key (blocksOf (xs.flatMap (leBytes 8))) (BitVec.ofNat 128 (xs.length + hLevel h * 2 ^ 64 + hComps h * 2 ^ 72))

/-- The digest of a tensor's owned region, its bytes in element order. -/
def tensorDigest (key : BitVec 128) (bs : List Byte) : BitVec 128 := digest key (blocksOf bs) (BitVec.ofNat 128 bs.length)

/-- The swatch registers of entry `n`. -/
def swatchWords (n : Fin 16) : List PReg := [.swatchD0 n, .swatchD1 n, .swatchD2 n, .swatchD3 n]

/-- Put a digest into entry `n`: the count goes up, and the words wait for the read that latches them. -/
def State.putDigest (s : State) (p : Nat) (n : Fin 16) (d : BitVec 128) : State :=
  let s := s.updReg (pr p (.swatchSeq n)) (· + 1)
  ((swatchWords n).zipIdx).foldl (fun s (r, k) => s.setAct (pr p r) (BitVec.ofNat 32 (d.toNat / 2 ^ (32 * k)))) s

/-- The destination tensor of an op (R402): its descriptor. -/
def OpRec.destTensor (r : OpRec) : Option TDesc :=
  let e := r.entry
  if [0x03, 0x04, 0x05, 0x2A, 0x33, 0x41].contains (oeOpcode e) ∨ (oeOpcode e = 0x40 ∧ !oeChainEn e) then some (tdesc (r.desc (oeTD e)))
  else if oeOpcode e = 0x40 then (match (chainDesc (r.desc (oeChain e))).stages.getLast? with
    | some s => some (tdesc (r.desc s.out))
    | none => none)
  else none

/-- The digest that entry `n` computes at this bind-off, if its target is written. An unreadable target gives a free value. -/
def State.swatchOf (s : State) (j : Job) (r : OpRec) (cfg : Word32) (key : BitVec 128) : Option (BitVec 128) × State :=
  let free := fun (s : State) => let (v, s) := s.draw; (some (BitVec.ofNat 128 v), s)
  if !bit cfg 31 then (none, s)
  else if !bit cfg 30 then
    match r.results.find? (fun x => x.1 = bits cfg 19 0) with
    | none => (none, s)
    | some (_, h) => match s.limbsNow j.part h with
      | some xs => (some (handleDigest key h xs), s)
      | none => free s
  else if bits cfg 19 16 = j.ring ∧ bits cfg 15 0 = r.idx ∧ r.inserted.isNone then
    match r.destTensor with
    | none => (none, s)
    | some t =>
      match (t.outer (fun t d => t.ownRange [] d)).foldl (fun acc o =>
        match acc with
        | none => none
        | some bs => match s.readVA j.part (t.base + t.rowOff o + rowBytes t.ty (t.origin [] 0)) (rowBytes t.ty (t.d 0).own) with
          | .ok b => some (bs ++ b)
          | .error _ => none) (some []) with
      | some bs => (some (tensorDigest key bs), s)
      | none => free s
  else (none, s)

/-- The digests of a bind-off with DONE. -/
def State.swatches (s : State) (j : Job) (r : OpRec) : State :=
  (List.finRange 16).foldl (fun s n =>
    match s.swatchOf j r (s.reg (pr j.part (.swatchCfg n))) (BitVec.ofNat 128 (s.part j.part).swatchH) with
    | (some d, s) => s.putDigest j.part n d
    | (none, s) => s) s

/-! ### Bind-off -/

/-- The headers that a bind-off writes: results, and damaged sources marked (R57, R59). -/
def OpRec.headers (r : OpRec) : List (Nat × Header × Bool) :=
  let poisoned := decide (r.status = .operandPoisoned)
  r.results.map (fun (h, v) => (h, v, poisoned)) ++
  (if poisoned then (r.damaged.filter (fun h => !(r.results.map (·.1)).contains h)).map (fun h =>
    (h, setBits (if h = oeA r.entry then r.hdrA else r.hdrB) 30 30 1, true)) else [])

/-- Write the headers in turn, counting the marked ones; the first fault stops. -/
def writeHeaders (p : Nat) (hs : List (Nat × Header × Bool)) : Eng Unit :=
  hs.forM (fun (h, v, mark) => do
    engStore 6 (fun s => s.putHeader p h v)
    if mark then engPut (fun s => s.countPoison p))

/-- Insert a REFRESH on every exhausted handle that the op has written (R54), after an end with OPERAND_POISONED too, where R59 writes the header. -/
def State.refreshAfter (s : State) (o : OpRef) (j : Job) (r : OpRec) : State :=
  if r.inserted.isSome then s
  else r.results.foldl (fun s (h, v) =>
    match refreshWanted j h v (bits (s.reg (pr j.part .ctNoiseGuard)) 15 0) s with
    | .ok true s' => s'.insertRefresh o h false
    | .ok false s' => s'
    | .error _ s' => s') s

/-- An op of a killed job binds off only while the frog's engines stop (R322). -/
def State.mayBind (s : State) (j : Job) : Bool :=
  !j.killed || (match (s.part j.part).frog with
    | some f => decide (f.step = 0)
    | none => false)

/-- May an op bind off now: its outputs stand, nothing holds it, the dies of its tiles work, and no die on which it has timed out is lost (R358, R361, R394)? -/
def State.bindable (s : State) (j : Job) (r : OpRec) : Bool :=
  decide (r.phase = .ran) && !r.displaced && !r.halted && !r.held && s.mayBind j && s.answers && decide (s.power.ref ≠ .stopped) &&
  r.tiles.all (fun t => (s.site (siteOf t)).works) && !r.awaits.any (fun d => (s.site d).lost)

/-- The bind-off of an op. -/
def State.bindOff (s : State) (o : OpRef) : State :=
  match s.op? o with
  | none => s
  | some (j, r) =>
    if !s.bindable j r then s
    else match writeHeaders j.part r.headers s with
    | .error h s' => s'.opFailed o (tileUnit (r.tiles.headD 0)) h
    | .ok _ s' =>
      let s := if r.status = .done then s'.swatches j r else s'
      let s := s.statusEffects j.part r.status
      let s := if r.inserted.isNone ∧ r.status ≠ .done then s.bump (pr j.part .partEventCount) 15 0 else s
      let s := (s.countUp j.part 0x30).countRun j.part r
      let ((c0, c1), s) := s.latch j
      let s := s.freeTiles r.tiles
      let s := s.updOp o (fun r => { r with
        phase := .bound, saved := [], before := [], checkpoint := none, tEnd := s.clock, c0End := c0, c1End := c1, footR := [], footW := [], workSlot := none, reported := r.inserted.isSome })
      (s.refreshAfter o j r).settleJob o

end Sys2Proof.Machine
end

