-- ==== Sys2Proof/Machine/LowPower.lean ====
section
/-! DEFINITION. Entry to M3 (R388, R391), and the write queue of the settings store (R433). -/
namespace Sys2Proof.Machine

/-! ### The settings store (R431, R433) -/

/-- A write of the store: it is served at once, waits as one of 8, or finds no place. -/
def State.storePut (s : State) (w : StoreWrite) : Option State :=
  if s.storeBusy.isNone then some { s with storeBusy := some w }
  else if s.storeQueue.length < 8 then some { s with storeQueue := s.storeQueue ++ [w] }
  else none

/-- A register field with store effect; one that finds no place in the queue keeps its effect in the register only. -/
def State.storeFromReg (s : State) (n : Nat) (v : StoreValue) : State := (s.storePut { job := .field n v }).getD s

/-- After training the runtime writes the PHY seeds that it found, which the spec does not give (R431); a write that finds no place is left out (log entry 132). -/
def State.storeSeeds (s : State) : State :=
  let (v, s) := s.draw
  s.storeFromReg 0x03 (.opaqueField v)

/-- The split that a site takes from the store (R205). -/
def State.storeSplit (s : State) : Word32 := BitVec.ofNat 32 (s.store.bwRead + s.store.bwWrite * 2 ^ 8 + s.store.bwRemote * 2 ^ 16)

/-! ### What die and tile registers hold after their dies were off -/

/-- The addresses of the skein die windows in the physical-function BAR0 (R435). -/
def inDieWindows (a : Nat) : Bool := decide (0x1000000 ≤ a ∧ a < 0x1000000 + 18 * 0x100000)

/-- What a tile keeps when it loses everything else: out of use or not, and its counts (R391). -/
def Tile.blank (x : Tile) : Tile := { outOfUse := x.outOfUse, mismatchAt := x.mismatchAt }

/-- Tiles with RU_OUT set. -/
def State.ruOuts (s : State) : List Nat := (List.range 576).filter (fun t => s.ruOut t)

/-- Every die window at its reset value, with BW_SPLIT from the store and RU_OUT kept. -/
def State.resetDieRegs (s : State) (keepOut : Bool) : State :=
  let outs := if keepOut then s.ruOuts else []
  let s := { s with
    regs := Tab.keep (fun a => !inDieWindows a) s.regs, active := Tab.keep (fun a => !inDieWindows a) s.active
    commits := s.commits.filter (fun c => match c.group with
      | .qtab _ | .bw _ => false
      | _ => true) }
  let s := (List.finRange 18).foldl (fun s d => (s.setReg (.die d .bwSplit) s.storeSplit).setAct (.die d .bwSplit) s.storeSplit) s
  outs.foldl (fun s t => s.setField (.tile (tIdx t) .vecCtrl) 1 1 1) s

/-- Tiles after their memories were wiped and their engines were off. -/
def blankTiles (m : Tab Tile) : Tab Tile := m.foldl (fun r (t, x) => Tab.set (fun _ => ({} : Tile)) r t x.blank) []

/-! ### M3 (R388) -/

/-- Steps 2 to 4 of the entry: memories on the dies wiped, die caches invalid, skein dies off. -/
def State.enterM3Now (s : State) : State :=
  let s := s.resetDieRegs true
  { s with
    tiles := blankTiles s.tiles
    sites := s.sites.foldl (fun m (d, x) => Tab.set (fun _ => ({} : Site)) m d { x with cache := [], leaves := [], started := false, missing := 0, beat := false, probe := false, duty := 16 }) []
    reservations := []
    power := { s.power with state := .m3 } }

/-- A power command ends (R386). -/
def State.endPwr (s : State) (op : Nat) (st : Status) : State :=
  if s.power.cmd = some op then
    let s := if s.power.cmdMgmt then s.emit (.mgmt 0x11 0 (some st) []) else s
    let s := { s with power := { s.power with cmd := none, cmdMgmt := false } }
    (s.setField (.glob .pwrCmdStatus) 31 16 st.code).setField (.glob .pwrCmdStatus) 0 0 0
  else s

/-- The exit from M3 begins. -/
def State.leaveM3 (s : State) : State := { s with power := { s.power with state := .leavingM3, stepsDone := [] } }

/-- The lowest-numbered spare site that is not claimed (R357). -/
def State.freeSpare (s : State) : Option Nat :=
  (List.range 18).find? (fun d => decide ((s.site d).state = .spare) && (s.site d).populated &&
    decide ((s.retiring.bind (·.spare)) ≠ some d))

/-- The retirement whose turn it is (R356, R359): the first that does not wait for a spare. -/
def State.nextRetire (s : State) : Option Retire :=
  if s.retiring.isSome then none else s.retireQueue.find? (fun r => decide (r.kind ≠ 0) || s.freeSpare.isSome)

/-- Nothing is served before the entry goes on (R392): no frog and no retirement is in progress, and none is to be served. -/
def State.entryFree (s : State) : Bool := s.retiring.isNone && s.nextRetire.isNone && s.parts.all (fun q => q.2.frog.isNone)

/-- The entry to M3 goes on once nothing is served before it; a doorbell recorded meanwhile starts the exit (R392). -/
def State.continueM3 (s : State) : State :=
  if s.power.state = .enteringM3 ∧ s.entryFree then
    let s := s.enterM3Now.endPwr 1 .done
    if s.power.doorbell then s.leaveM3 else s
  else s

end Sys2Proof.Machine
end

