-- ==== Sys2Proof/Machine/Frog.lean ====
section
/-! DEFINITION. The frog (R321 to R326): killing jobs, stopping their engines, the completions, the scrub and the release; the tenant cores that a partition frog stops (R320). -/
namespace Sys2Proof.Machine

/-! ### Tenant cores -/

/-- A hart in reset state (R309, R320). -/
def Hart.resetOf (h : Hart) : Hart := { phys := h.phys }

/-- Change hart `v` of a partition. -/
def Part.updHart (x : Part) (v : Nat) (f : Hart → Hart) : Part := { x with harts := x.harts.mapIdx (fun i h => if i = v then f h else h) }

/-- Every core stops and returns to reset state; its reservations go (R320). -/
def State.stopCores (s : State) (p : Nat) : State :=
  let s := if (s.part p).coresRun then s.addUnseen p [0x28] else s
  { s.updPart p (fun x => { x with harts := x.harts.map Hart.resetOf }) with reservations := s.reservations.filter (fun r => decide (r.2.1 ≠ p)) }

/-- The core of the partition that a hart without one of its own shares: that of its lowest hart with a core (R362, log entry 101). -/
def firstCore (hs : List Hart) : Option Nat := hs.findSome? (·.phys)

/-- A hart starts in VS mode with its number in a0 (R318); when the partition holds no core, it waits for one (R362). -/
def Hart.start (h : Hart) (core : Option Nat) (v : Nat) (entry a1 : BitVec 64) : Hart :=
  { phys := h.phys, shares := if h.phys.isSome then none else core, state := if core.isSome then .running else .waitingForCore
    entry := entry, a0 := BitVec.ofNat 64 v, a1 := a1 }

/-- Harts that run without a core of their own share one of the partition's, or wait until one frees (R362). -/
def shareCores (hs : List Hart) : List Hart :=
  let first := firstCore hs
  hs.map (fun h =>
    if h.phys.isSome then { h with shares := none, state := if h.state = .waitingForCore then .running else h.state }
    else
      let h := { h with shares := if h.shares.isSome then h.shares else first }
      if h.state = .running ∧ h.shares = none then { h with state := .waitingForCore }
      else if h.state = .waitingForCore ∧ h.shares ≠ none then { h with state := .running } else h)

/-- The entry of virtual hart 0 (R320). -/
def State.coreEntry (s : State) (p : Nat) : BitVec 64 :=
  BitVec.ofNat 64 ((s.reg (pr p .coreEntryLo)).toNat + (s.reg (pr p .coreEntryHi)).toNat * 2 ^ 32)

/-- Virtual hart 0 starts at the entry. -/
def State.startHart0 (s : State) (p : Nat) : State := s.updPart p (fun x => x.updHart 0 (fun h => h.start (firstCore x.harts) 0 (s.coreEntry p) 0))

/-- A write of CORE_CTRL.START: discarded while a core runs, held while the partition is STOPPING or SCRUBBING. -/
def State.coreStart (s : State) (p : Nat) : State :=
  let x := s.part p
  if x.coresRun then s
  else match x.state with
  | .active => s.startHart0 p
  | .stopping | .scrubbing => s.updPart p (fun x => { x with startHeld := true })
  | _ => s

def execCoreStart (view : View) (p : Fin 64) (s : State) : Host.Outcome State Fault Refusal :=
  .next (if s.viewOpen view p then s.coreStart p else s)

def execCoreStopAll (view : View) (p : Fin 64) (s : State) : Host.Outcome State Fault Refusal :=
  .next (if s.viewOpen view p then s.stopCores p else s)

/-! ### Killing (R322) -/

/-- Stash lines of tiles become unspecified (R325). -/
def State.spoilStash (s : State) (ls : List (Nat × Nat)) : State :=
  ls.foldl (fun s (t, l) =>
    let (vs, s) := s.drawBelow 256 64
    s.updTile t (fun x => { x with stash := putBytes x.stash (64 * l) (vs.map (BitVec.ofNat 8)) })) s

/-- An op of a killed job ends with KILLED: ORIGIN its own index, no flags, its regions unspecified if it ran. Its work slot stays taken until the frog's
last step (R323). -/
def State.killOp (s : State) (o : OpRef) : State :=
  match s.op? o with
  | none => s
  | some (j, r) =>
    let s := if r.started then s.spoil j.part false (r.limbs ++ r.spoil ++ r.scratch) r.die else s
    let ((c0, c1), s) := (s.countRun j.part r).latch j
    let s := (s.spoilStash (s.stashLines o r)).freeTiles (s.occupied o r)
    let s := s.updPart j.part (fun x => { x with frog := x.frog.map (fun f => { f with slots := f.slots ++ r.workSlot.toList }) })
    let s := s.updOp o (fun q => { q with
      phase := if r.started then .ended else .resolved, status := .killed, origin := r.idx, tEnd := s.clock, c0End := c0, c1End := c1,
      tStart := if r.started then r.tStart else s.clock, c0Start := if r.started then r.c0Start else c0, c1Start := if r.started then r.c1Start else c1,
      remapped := false, spilled := false, saturated := false, autoRefreshed := false, displaced := false, halted := false, ending := none, results := [], footR := [], footW := [],
      workSlot := none, refreshDue := false, reported := r.inserted.isSome })
    (s.refreshEnds o).reportOp o

/-- The ops of a job that satisfy a test, in index order. -/
def State.opsOf (s : State) (jid : Nat) (f : OpRec → Bool) : List OpRef :=
  match s.job? jid with
  | some j => (j.ops.filter f).map (fun r => ⟨jid, r.idx⟩)
  | none => []

/-- Jobs of a partition that a frog can name (R321): fetched, and their job entry not yet written. -/
def State.openJobIds (s : State) (p : Nat) : List Nat := (s.jobs.filter (fun j => j.part = p ∧ !j.killed)).map (·.id)

/-- A job entry that waits in the hold when its job is killed reports KILLED (R272). -/
def State.killHeld (s : State) (j : Job) : State :=
  s.updRing j.part j.ring (fun r => { r with hold := r.hold.map (fun e =>
    if e.isJob && decide (e.job = j.id) then { e with bits := setBits (setBits e.bits 31 16 Status.killed.code) 95 80 0xFFFF } else e) })

/-- Kill jobs: their running ops stop under R209, and every op that has not started is resolved at once. -/
def State.killJobs (s : State) (js : List Nat) : State :=
  let s := { s with jobs := s.jobs.map (fun (j : Job) => if js.contains j.id then { j with killed := true } else j) }
  let s := s.stopOps (fun j r => js.contains j.id && decide (r.phase = .running))
  let s := (js.flatMap (fun j => (s.opsOf j (fun r => decide (r.phase = .running))))).foldl (fun s o => match s.op? o with
    | some (_, r) => r.tiles.foldl (fun s t => s.updTile t Tile.dropMarkers) s
    | none => s) s
  js.foldl (fun s jid =>
    let s := match s.job? jid with
      | some j => s.killHeld j
      | none => s
    (s.opsOf jid (fun r => !r.phase.settled && !r.started)).foldl State.killOp s) s

/-- Cancel the pending commits of a partition (R77, R449). -/
def State.cancelCommits (s : State) (p : Nat) : State :=
  let s := if (s.part p).mtSnap.isSome then (s.updPart p (fun x => { x with mtSnap := none })).setField (pr p .mtFault) 31 16 0x40 else s
  ((s.dropCommit (.handle (pIdx p))).dropCommit (.keyDir (pIdx p))).dropCommit (.bundle (pIdx p))

/-- A frog is issued (R321, R322). A frog in progress takes it in, with the wider scope; it stops and scrubs anew when more jobs
are killed or the scope widens (R326). -/
def State.startFrog (s : State) (p : Nat) (whole destroy : Bool) (js : List Nat) : State :=
  let js := js.filter (s.openJobIds p).contains
  let old := (s.part p).frog
  let wider := whole && (match old with | some f => !f.whole | none => true)
  if !whole && js.isEmpty && old.isNone then s
  else
    let again := wider || decide (js ≠ [])
    let s := s.updPart p (fun x =>
      let f : Frog := match old with
        | some f => f
        | none => { whole := false }
      { x with
        frog := some { f with whole := f.whole || whole, destroy := f.destroy || destroy, jobs := f.jobs ++ js, killing := f.killing || decide (js ≠ []), step := if again then 0 else f.step }
        state := if (f.whole || whole) && again then .stopping else x.state })
    let s := s.killJobs js
    if wider then (s.cancelCommits p).stopCores p else s

/-- JOB_FROG (R320, R321). -/
def State.jobFrog (s : State) (p : Nat) (v : Word32) : State :=
  if bit v 31 then
    let js := s.openJobIds p
    if bit v 30 then s.startFrog p false false js
    else s.startFrog p false false ((s.jobs.filter (fun j => j.part = p ∧ js.contains j.id ∧ j.ring = bits v 19 16 ∧ j.sqIndex = bits v 15 0)).map (·.id))
  else s

def execJobFrog (view : View) (p : Fin 64) (value : BitVec 32) (s : State) : Host.Outcome State Fault Refusal :=
  .next (if s.viewOpen view p then s.jobFrog p value else s)

/-- The tiles of a partition on which killed ops ran; one that another op has taken since is not among them. -/
def State.killedTiles (s : State) (p : Nat) (js : List Nat) : List Nat :=
  let ran := (s.jobs.filter (fun j => js.contains j.id)).flatMap (fun j => (j.ops.filter (fun r => r.started && !r.phase.settled)).flatMap (fun r => r.tiles ++ r.ranOn))
  (List.range 576).filter (fun t => (s.part p).quads.contains (quadOf t) && (match (s.tile t).op with
    | some (j, _) => js.contains j
    | none => ran.contains t))

/-- Step 3 of R322 for a killed job: each killed op counts in FAILED, the op entries in the order in which the ops settled, then the job entry. -/
def State.reportKilled (s : State) (p jid : Nat) : State :=
  match s.job? jid with
  | none => s
  | some j =>
    let s := s.updJob jid (fun j => { j with due := [], ops := j.ops.map (fun r => { r with refreshDue := false }) })
    let s := (j.due ++ (j.ops.filter (fun r => !r.reported && !j.due.contains r.idx)).map (·.idx)).foldl (fun s i => match s.op? ⟨jid, i⟩ with
      | some (_, r) => (if r.status = .killed then s.bump (pr p .partEventCount) 15 0 else s).produceOp ⟨jid, i⟩
      | none => s) s
    s.completeJob jid

/-- FROG_ENGINES_STOPPED (R322 steps 2 and 3): once what the engines had begun has ended, a REFRESH that writes its destination binds off, every other
running op of a killed job ends, and the entries are produced. -/
def State.enginesStopped (s : State) (p : Nat) : State :=
  match (s.part p).frog with
  | some f =>
    if f.step ≠ 0 ∨ !s.atRest (fun j => f.jobs.contains j.id) then s
    else
      let ts := s.killedTiles p f.jobs
      let s := f.jobs.foldl (fun s j => (s.opsOf j (fun r => decide (r.phase = .ran) && decide (oeOpcode r.entry = 0x32))).foldl (fun s o => (s.updOp o (fun r => { r with halted := false })).bindOff o) s) s
      let s := f.jobs.foldl (fun s j => (s.opsOf j (fun r => !r.phase.settled)).foldl State.killOp s) s
      let s := f.jobs.foldl (fun s j => s.reportKilled p j) s
      let s := if f.killing then s.stick p .killed else s
      s.updPart p (fun x => { x with
        frog := x.frog.map (fun g => { g with tiles := f.tiles ++ ts.filter (fun t => !f.tiles.contains t), step := 1, killing := false })
        state := if f.whole then .scrubbing else x.state })
  | none => s

def execFrogEnginesStopped (p : Fin 64) (s : State) : Host.Outcome State Fault Refusal := .next (s.enginesStopped p)

/-! ### The scrub (R323) -/

/-- The tiles of a partition in ascending global number. -/
def State.partTiles (s : State) (p : Nat) : List Nat := (List.range 576).filter (fun t => (s.part p).quads.contains (quadOf t))

/-- The partition's lines leave the die caches. -/
def State.dropCache (s : State) (p : Nat) : State :=
  { s with sites := s.sites.foldl (fun m (d, x) => Tab.set (fun _ => ({} : Site)) m d { x with cache := x.cache.filter (fun c => decide (c.1 ≠ p)) }) [] }

/-- Fill the powered scratchpad groups of a tile with zeros. -/
def State.zeroScratch (s : State) (t : Nat) : State := s.updTile t (fun x => { x with scratch := [] })
def State.zeroStash (s : State) (t : Nat) : State := s.updTile t (fun x => { x with stash := [], stashBad := [], stashWrote := [] })

/-- The effect of a scrub step at its end. -/
def State.scrubStep (s : State) (p : Nat) (f : Frog) : State :=
  let ts := if f.whole then s.partTiles p else f.tiles
  match f.step with
  | 1 => s.dropCache p
  | 2 => (ts.filter (fun t => match (s.tile t).op with
      | some (j, _) => f.jobs.contains j
      | none => true)).foldl (fun s t => (s.freeTiles [t]).updTile t (fun x => { x with queues := [] })) s
  | 3 => ts.foldl State.zeroScratch s
  | 4 => ts.foldl State.zeroStash s
  | 5 => s.stopCores p
  | _ => s

/-- The step that follows: a job frog has no steps 4 to 6, a partition frog no step 6. -/
def Frog.nextStep (f : Frog) : Nat :=
  if f.whole then (if f.step = 5 then 7 else f.step + 1) else (if f.step = 3 then 7 else f.step + 1)

/-- A partition command ends (R311). -/
def State.endCmd (s : State) (op p : Nat) (st : Status) : State :=
  match s.partCmd with
  | some c =>
    if c.op = op ∧ c.part = p then
      let s := { s with partCmd := none }
      let s := if c.mgmt then s.emit (.mgmt 0x20 0 (some st) []) else s
      ((s.setField (.glob .partCmdStatus) 31 16 st.code).setField (.glob .partCmdStatus) 13 8 p).setField (.glob .partCmdStatus) 0 0 0
    else s
  | none => s

/-- The stopped ops of a partition go on, with the markers that the hook discarded (R395); those of killed jobs do not. -/
def State.unhalt (s : State) (p : Nat) : State :=
  let ts := s.jobs.flatMap (fun k => (k.ops.filter (fun o => decide (k.part = p) && !k.killed && decide (o.phase = .running))).flatMap (·.tiles))
  let s := ts.foldl (fun s t => s.updTile t Tile.resumeMarkers) s
  { s with jobs := s.jobs.map (fun (k : Job) => if k.part = p ∧ !k.killed then { k with ops := k.ops.map (fun (o : OpRec) => { o with halted := false }) } else k) }

/-- The hooked op was killed, so that the debug session ends with it (R326). -/
def State.hookKilled (s : State) (p : Nat) (f : Frog) : Bool :=
  f.whole || (match (s.part p).hookOp with
    | some (j, _) => f.jobs.contains j
    | none => false)

/-- The release (R322 step 5): the work slots go (R323), the session of a killed hooked op has ended and the run goes on (R326), a held START acts;
a DESTROY goes on to the pages. -/
def State.releaseFrog (s : State) (p : Nat) (f : Frog) : State :=
  let held := (s.part p).startHeld
  let s := if s.hookKilled p f then (s.setField (pr p .hookStatus) 17 16 0).unhalt p else s
  if f.whole then
    let s := s.updPart p (fun x => { x with frog := none, startHeld := false, state := if f.destroy then .releasing else .active })
    let s := if held && !f.destroy then s.startHart0 p else s
    s.endCmd 4 p .done
  else (s.updPart p (fun x => { x with frog := none })).endCmd 4 p .done

/-- FROG_SCRUB_STEP_DONE (R323). -/
def State.scrubStepDone (s : State) (p : Nat) : State :=
  match (s.part p).frog with
  | some f =>
    if f.step = 0 then s
    else if f.step = 7 then s.releaseFrog p f
    else (s.scrubStep p f).updPart p (fun x => { x with frog := some { f with step := f.nextStep } })
  | none => s

def execFrogScrubStepDone (p : Fin 64) (s : State) : Host.Outcome State Fault Refusal := .next (s.scrubStepDone p).continueM3

end Sys2Proof.Machine
end

