-- ==== Sys2Proof/Machine/Parts.lean ====
section
/-! DEFINITION. Partitions and their memory maps: CREATE, REMAP, DESTROY and FROG (R308 to R317), the translation tables (R230, R231, R233), spans (R414, R415), and the scrub of pages (R323). -/
namespace Sys2Proof.Machine

/-! ### Spans (R414, R415) -/

def MapEntry.bytes (e : MapEntry) : Nat := e.units * 65536

/-- Bytes that two ranges share. -/
def overlap (a n b m : Nat) : Nat := min (a + n) (b + m) - max a b

/-- The rule of a span entry (R415): an entry that is not enabled agrees (log entry 37). -/
def State.spanOk (s : State) (n : Fin 64) (v : Span) (map : List MapEntry) : Bool :=
  let here := map.filter (fun e => decide (0 < overlap v.base v.size e.va e.bytes))
  !v.enable ||
  (decide ((s.part v.part).state = .active) && decide (1 ≤ v.size) && decide (v.size ≤ (here.map (fun e => overlap v.base v.size e.va e.bytes)).sum) &&
   here.all (fun e => if v.receive then e.read && !e.write else e.write) &&
   (List.finRange 64).all (fun m => let w := s.span m
     decide (m = n) || !w.enable || decide (w.part ≠ v.part) || decide (overlap v.base v.size w.base w.size = 0)) &&
   decide (v.peerModule ≠ bits (s.reg (.glob .qlNode)) 10 0))

/-- A write of SPAN_COMMIT (R414): discarded while the span's commit waits (R437). -/
def State.spanCommit (s : State) (v : Word32) : State :=
  if bit v 31 then
    let n : Fin 64 := pIdx (bits v 5 0)
    if s.commitPending (.span n) then s else s.startCommit (.span n) (spanRegs n)
  else s

def execSpanCommit (value : BitVec 32) (s : State) : Host.Outcome State Fault Refusal :=
  .next (if s.answers then s.spanCommit value else s)

/-- Apply or refuse a span's commit while no op of its partition is in flight (R415); one that disables the span sets BROKEN (R414). -/
def State.spanApply (s : State) (n : Fin 64) (c : Commit) : State :=
  let v := spanEntry (snapVal c.values (.glob (.spanCfg n))) (snapVal c.values (.glob (.spanVa n))) (snapVal c.values (.glob (.spanSize n)))
  if (s.inFlight v.part).isEmpty then
    let s := s.dropCommit c.group
    let old := s.span n
    if s.spanOk n v (s.part v.part).map then
      let s := s.putActive c.values
      if old.enable && !v.enable then s.setField (pr old.part .partSpan) 0 0 1 else s
    else
      let s := if bit (s.reg (.glob .spanStatus)) 16 then s else s.setField (.glob .spanStatus) 5 0 n.val
      (s.setField (.glob .spanStatus) 16 16 1).stick v.part .tableCommitRefused
  else s

/-- Disable a span; its partition reads BROKEN. -/
def State.spanOff (s : State) (n : Fin 64) : State :=
  let r := Reg.glob (.spanCfg n)
  let p := (s.span n).part
  ((s.setAct r (setBits (s.act r) 31 31 0)).setField r 31 31 0).setField (pr p .partSpan) 0 0 1

/-- Disable the enabled spans of a partition that satisfy a test. -/
def State.spansOff (s : State) (p : Nat) (f : State → Fin 64 → Bool) : State :=
  (List.finRange 64).foldl (fun s n => let v := s.span n
    if v.enable && decide (v.part = p) && f s n then s.spanOff n else s) s

/-! ### Records and maps (R312, R313) -/

/-- A map entry as a record holds it. -/
def mapEntryOf (x : Nat) : MapEntry :=
  { va := nbits x 47 0, units := nbits x 95 64, page := nbits x 97 96, read := decide (nbits x 98 98 = 1), write := decide (nbits x 99 99 = 1),
    combine := decide (nbits x 100 100 = 1) }

/-- Size of a page in bytes. -/
def pageSize (page : Nat) : Nat := 2 ^ levelShift page

/-- R313 on one entry. -/
def mapEntryOk (x : Nat) : Bool :=
  let e := mapEntryOf x
  decide (nbits x 63 48 = 0) && decide (nbits x 127 101 = 0) && decide (e.page ≠ 3) && decide (e.va % pageSize e.page = 0) &&
  decide (1 ≤ e.units) && decide (e.bytes % pageSize e.page = 0) && (!e.combine || e.write) && decide (e.va + e.bytes ≤ 2 ^ 48)

/-- Entries disjoint in VA. -/
def disjointMap : List MapEntry → Bool
  | [] => true
  | e :: rest => rest.all (fun f => decide (overlap e.va e.bytes f.va f.bytes = 0)) && disjointMap rest

/-- The map rules of step 3 of R314. -/
def mapOk (xs : List Nat) (grant : Nat) : Bool :=
  xs.all mapEntryOk && disjointMap (xs.map mapEntryOf) && decide ((xs.map (fun x => (mapEntryOf x).units)).sum ≤ grant)

/-- Pages that a partition holds, those under scrub and those of a pending REMAP included. -/
def Part.heldPages (x : Part) : List (Nat × Nat) :=
  (x.map ++ x.dropped ++ x.remap.getD []).flatMap (fun e => e.pages.map (fun b => (b, pageSize e.page)))

/-- The first `n` free aligned pages of a size at or after `a` (log entry 9). -/
def freePages (used : List (Nat × Nat)) (size : Nat) : Nat → Nat → Nat → List Nat
  | 0, _, _ => []
  | fuel + 1, a, n =>
    if n = 0 then []
    else if used.any (fun (b, m) => decide (0 < overlap a size b m)) then freePages used size fuel (a + size) n
    else a :: freePages used size fuel (a + size) (n - 1)

/-- Back entries in turn, those that `old` holds with the same VA, SIZE and PAGE by its pages (R315). -/
def backEach (old : List MapEntry) : List (Nat × Nat) → List MapEntry → Option (List MapEntry)
  | _, [] => some []
  | used, e :: rest =>
    let pages := match old.find? (fun o => decide (o.va = e.va) && decide (o.units = e.units) && decide (o.page = e.page)) with
      | some o => o.pages
      | none => freePages used (pageSize e.page) (runtimeBase / pageSize e.page) 0 (e.bytes / pageSize e.page)
    if pages.length < e.bytes / pageSize e.page then none
    else match backEach old (used ++ pages.map (fun b => (b, pageSize e.page))) rest with
      | some m => some ({ e with pages := pages } :: m)
      | none => none

/-- Back the entries of a map (R314 step 5): the largest pages first, so that no smaller page breaks one that a larger needs. -/
def backMap (old : List MapEntry) (used : List (Nat × Nat)) (es : List MapEntry) : Option (List MapEntry) :=
  (backEach old used ([2, 1, 0].flatMap (fun k => es.filter (fun e => decide (e.page = k))))).map (fun m =>
    es.map (fun e => (m.find? (fun x => decide (x.va = e.va))).getD e))

/-! ### Translation tables (R230, R231) -/

/-- Where the runtime builds the tables of a partition, in its own memory (R310). -/
def tableBase (p : Nat) : Nat := runtimeBase + p * 0x10000000

/-- The leaves of a map: address, level and entry. -/
def leavesOf (m : List MapEntry) : List (Nat × Nat × Nat) :=
  m.flatMap (fun e => (e.pages.zipIdx).map (fun (b, i) =>
    (e.va + i * pageSize e.page, e.page, b + 3 + (if e.read then 4 else 0) + (if e.write then 8 else 0) + (if e.combine then 16 else 0))))

/-- The entries of the tables of a map: address and value, the level-3 table at `base`, then those of levels 2, 1 and 0. -/
def tableWords (base : Nat) (m : List MapEntry) : List (Nat × Nat) :=
  let ls := leavesOf m
  let d2 := (ls.map (fun l => l.1 / 2 ^ 39)).eraseDups
  let d1 := ((ls.filter (fun l => decide (l.2.1 ≤ 1))).map (fun l => l.1 / 2 ^ 30)).eraseDups
  let d0 := ((ls.filter (fun l => decide (l.2.1 = 0))).map (fun l => l.1 / 2 ^ 21)).eraseDups
  let t2 := fun (x : Nat) => base + 4096 * (1 + d2.idxOf x)
  let t1 := fun (x : Nat) => base + 4096 * (1 + d2.length + d1.idxOf x)
  let t0 := fun (x : Nat) => base + 4096 * (1 + d2.length + d1.length) + 256 * d0.idxOf x
  d2.map (fun x => (base + 8 * (x % 512), t2 x + 1)) ++
  d1.map (fun x => (t2 (x / 512) + 8 * (x % 512), t1 x + 1)) ++
  d0.map (fun x => (t1 (x / 512) + 8 * (x % 512), t0 x + 1)) ++
  ls.map (fun (va, l, e) => match l with
    | 2 => (t2 (va / 2 ^ 39) + 8 * (va / 2 ^ 30 % 512), e)
    | 1 => (t1 (va / 2 ^ 30) + 8 * (va / 2 ^ 21 % 512), e)
    | _ => (t0 (va / 2 ^ 21) + 8 * (va / 2 ^ 16 % 32), e))

/-- Replace the tables of one map by those of another. -/
def State.writeTables (s : State) (p : Nat) (old new : List MapEntry) : State :=
  let s := s.dropLeaves p
  let s := (tableWords (tableBase p) old).foldl (fun s (a, _) => s.storePhys a (leBytes 8 0)) s
  (tableWords (tableBase p) new).foldl (fun s (a, e) => s.storePhys a (leBytes 8 e)) s

/-! ### Pages of zeros (R309, R323) -/

/-- Fill pages with zeros at their columns; no die cache keeps a copy of their lines (R220). -/
def State.zeroPages (s : State) (ps : List (Nat × Nat)) : State :=
  let hit := fun (a : Nat) => ps.any (fun (b, n) => decide (b ≤ a ∧ a < b + n))
  { s with mem := Tab.keep (fun a => !hit a) s.mem, memBad := Tab.keep (fun l => !hit (64 * l)) s.memBad
           reservations := s.reservations.filter (fun r => !hit (64 * r.2.2.2))
           sites := s.sites.foldl (fun m (d, x) => Tab.set (fun _ => ({} : Site)) m d { x with cache := x.cache.filter (fun c => !hit (64 * c.2)) }) [] }

/-- The pages of map entries with their sizes. -/
def pagesOf (m : List MapEntry) : List (Nat × Nat) := m.flatMap (fun e => e.pages.map (fun b => (b, pageSize e.page)))

/-! ### Commands (R310 to R316) -/

/-- A partition command is issued: BUSY from now on. -/
def State.issueCmd (s : State) (op p : Nat) (mgmt : Bool) : State :=
  let s := { s with partCmd := some { op := op, part := p, mgmt := mgmt } }
  ((s.setField (.glob .partCmd) 13 8 p).setField (.glob .partCmd) 3 0 op).setField (.glob .partCmdStatus) 0 0 1

/-- May a partition command be issued (R311)? -/
def State.cmdFree (s : State) : Bool := s.answers && s.partCmd.isNone

/-- The record and the map of a command, or the failure to read them. -/
structure PartRecord where
  raw : Nat
  map : List Nat
deriving DecidableEq, Repr

def prGrant (x : Nat) : Nat := nbits x 63 32
def prMapAddr (x : Nat) : Nat := nbits x 559 512
def prMapCount (x : Nat) : Nat := nbits x 570 560

/-- The quads and the cores of a record. -/
def prQuads (x : Nat) : List Nat := (List.range 144).filter (fun g => nbits x (64 + g) (64 + g) = 1)
def prCores (x : Nat) : List Nat := (List.range 144).filter (fun h => nbits x (256 + h) (256 + h) = 1)

/-- Address of the record in host memory. -/
def State.recordAddr (s : State) : Nat := (s.reg (.glob .partCmdAddrLo)).toNat + (s.reg (.glob .partCmdAddrHi)).toNat * 2 ^ 32

/-- Read a record and its map (R312); steps 2 and 3 as far as they bear on the reads. -/
def State.readRecord (s : State) (src : RecordSource) : Except Status PartRecord :=
  match src with
  | .inline x ms => .ok ⟨x.toNat, ms.map (·.toNat)⟩
  | .host h =>
    if !s.portUp h then .error .xlate
    else
      let x := leNat (s.readHost h s.recordAddr 256)
      if prMapAddr x % 64 ≠ 0 then .error .align
      else if 1024 < prMapCount x then .error .descMalformed
      else .ok ⟨x, (chunksOf 16 (prMapCount x) (s.readHost h (prMapAddr x) (16 * prMapCount x))).map leNat⟩

/-- Reserved bits of a CREATE record, its quads and its cores (R314 step 3). -/
def createOk (r : PartRecord) : Bool :=
  let x := r.raw
  decide (nbits x 31 6 = 0) && decide (nbits x 255 208 = 0) && decide (nbits x 511 400 = 0) && decide (nbits x 2047 571 = 0) &&
  decide (prQuads x ≠ []) && (prCores x).all (fun h => decide (2 ≤ h % 8)) && decide (r.map.length = prMapCount x) && mapOk r.map (prGrant x)

/-- Are the quads, the cores and the virtual function of a record free (R314 step 4)? -/
def State.resourcesFree (s : State) (x : Nat) : Bool :=
  let active := fun (d : Nat) => decide ((s.site d).state = .active)
  (prQuads x).all (fun g => active (g / 8) && s.parts.all (fun q => !q.2.quads.contains g)) &&
  (prCores x).all (fun h => active (h / 8) && s.parts.all (fun q => q.2.harts.all (fun k => decide (k.phys ≠ some h)))) &&
  s.parts.all (fun q => decide (q.2.vf ≠ some (nbits x 1 0, nbits x 5 2)))

/-- Pages that some partition holds. -/
def State.usedPages (s : State) : List (Nat × Nat) := s.parts.flatMap (fun q => q.2.heldPages)

/-- The checks of R314, in order, and the backed map. -/
def State.createCheck (s : State) (src : RecordSource) (p : Nat) : Except Status (Nat × List MapEntry) := do
  if s.lifecycle ≠ .deployed ∨ (s.part p).state ≠ .free then throw .protect
  let r ← s.readRecord src
  if !createOk r then throw .descMalformed
  if !s.resourcesFree r.raw then throw .protect
  match backMap [] s.usedPages (r.map.map mapEntryOf) with
  | some m => return (r.raw, m)
  | none => throw .bounds

/-- The registers of a partition return to their reset values. -/
def State.resetPartRegs (s : State) (p : Nat) : State :=
  let keep := fun (a : Nat) => decide (a < 0x800000 + 0x10000 * p ∨ 0x800000 + 0x10000 * (p + 1) ≤ a)
  { s with regs := Tab.keep keep s.regs, active := Tab.keep keep s.active }

/-- The active dies on which quads lie, in ascending order (R222). -/
def homesOf (quads : List Nat) : List Nat := (List.range 18).filter (fun d => quads.any (fun g => decide (g / 8 = d)))

/-- A successful CREATE. -/
def State.create (s : State) (p x : Nat) (m : List MapEntry) : State :=
  let (h, s) := s.draw
  let s := ((s.resetPartRegs p).zeroPages (pagesOf m)).writeTables p [] m
  let s := s.setReg (.glob (.ptRoot (pIdx p))) (BitVec.ofNat 32 (tableBase p / 4096))
  let s := s.yieldWays ((prQuads x).map (· / 8))
  s.setPart p { state := .active, vf := some (nbits x 1 0, nbits x 5 2), grant := prGrant x, quads := prQuads x,
                harts := (prCores x).map (fun h => ({ phys := some h } : Hart)), map := m, swatchH := h % 2 ^ 128, homes := homesOf (prQuads x) }

/-- PART_CMD CREATE. -/
def State.partCreate (s : State) (src : RecordSource) (p : Nat) (mgmt : Bool) : State :=
  let s := s.issueCmd 1 p mgmt
  match s.createCheck src p with
  | .error st => s.endCmd 1 p st
  | .ok (x, m) => (s.create p x m).endCmd 1 p .done

def execPartCreate (src : RecordSource) (p : Fin 64) (s : State) : Host.Outcome State Fault Refusal :=
  .next (if s.cmdFree then s.partCreate src p false else s)

/-- Does a partition exist for REMAP, DESTROY and FROG (R316)? -/
def State.partHeld (s : State) (p : Nat) : Bool :=
  decide ((s.part p).state ≠ .free) && decide ((s.part p).state ≠ .releasing)

/-- The checks of a REMAP: steps 2, 3 and 5 of R314, every other field of the record zero (R312). -/
def State.remapCheck (s : State) (src : RecordSource) (p : Nat) : Except Status (List MapEntry) := do
  if !s.partHeld p then throw .protect
  let r ← s.readRecord src
  if !(decide (nbits r.raw 511 0 = 0) && decide (nbits r.raw 2047 571 = 0) && decide (r.map.length = prMapCount r.raw) && mapOk r.map (s.part p).grant) then throw .descMalformed
  match backMap (s.part p).map s.usedPages (r.map.map mapEntryOf) with
  | some m => return m
  | none => throw .bounds

/-- PART_CMD REMAP: the new map waits for the partition's quiescent point. -/
def State.partRemap (s : State) (src : RecordSource) (p : Nat) (mgmt : Bool) : State :=
  let s := s.issueCmd 3 p mgmt
  match s.remapCheck src p with
  | .error st => s.endCmd 3 p st
  | .ok m => s.updPart p (fun x => { x with remap := some m })

def execPartRemap (src : RecordSource) (p : Fin 64) (s : State) : Host.Outcome State Fault Refusal :=
  .next (if s.cmdFree then s.partRemap src p false else s)

/-- TRANSLATION_CHANGE (R233, R315): with no op of the partition in flight and no frog, the tables are written; pages that the
new map does not keep are under scrub; spans whose rule breaks are disabled. -/
def State.translationChange (s : State) (p : Nat) : State :=
  let x := s.part p
  match x.remap with
  | some m =>
    if (s.inFlight p).isEmpty && x.frog.isNone then
      let kept := m.flatMap (·.pages)
      let gone := x.map.filter (fun e => e.pages.any (fun b => !kept.contains b))
      let old := x.map.flatMap (·.pages)
      let s := s.zeroPages ((pagesOf m).filter (fun q => !old.contains q.1))
      let s := (s.writeTables p x.map m).updPart p (fun x => { x with map := m, remap := none, dropped := x.dropped ++ gone })
      (s.spansOff p (fun s n => !s.spanOk n (s.span n) m)).endCmd 3 p .done
    else s
  | none => s

def execTranslationChange (p : Fin 64) (s : State) : Host.Outcome State Fault Refusal := .next (s.translationChange p)

/-- PART_CMD DESTROY (R316): the virtual function answers as unbound from now on, and its spans end. -/
def State.partDestroy (s : State) (p : Nat) (mgmt : Bool) : State :=
  let s := s.issueCmd 2 p mgmt
  if !s.partHeld p then s.endCmd 2 p .protect
  else ((s.updPart p (fun x => { x with destroyed := true })).spansOff p (fun _ _ => true)).startFrog p true true (s.openJobIds p)

def execPartDestroy (p : Fin 64) (s : State) : Host.Outcome State Fault Refusal :=
  .next (if s.cmdFree then s.partDestroy p false else s)

/-- PART_CMD FROG (R322); one that names a partition in a frog is merged into it. -/
def State.partFrog (s : State) (p : Nat) (mgmt : Bool) : State :=
  let s := s.issueCmd 4 p mgmt
  if !s.partHeld p then s.endCmd 4 p .protect else s.startFrog p true false (s.openJobIds p)

def execPartFrog (p : Fin 64) (s : State) : Host.Outcome State Fault Refusal :=
  .next (if s.cmdFree then s.partFrog p false else s)

/-! ### The scrub of pages (R323 step 6), and what returns to the pool -/

/-- Quads that return to the pool go first to stranded partitions, in ascending partition order, as many as each lost (R363). -/
def State.feedStranded (s : State) (free : List Nat) : State :=
  ((s.parts.map (·.1)).foldl (fun (acc : State × List Nat) q =>
    let (s, free) := acc
    let x := s.part q
    if x.stranded && decide (free ≠ []) then
      let got := free.take (max 1 x.lostQuads.length)
      let s := s.updPart q (fun x => { x with quads := sortUp (got ++ x.quads), stranded := false, lostQuads := [], homes := homesOf got })
      ((s.yieldWays (got.map (· / 8))).setField (pr q .partRas) 12 8 ((got.headD 0) / 8), free.drop got.length)
    else acc) (s, free)).1

/-- Give free cores to harts that wait for one, in ascending order (R362). -/
def giveCores : List Hart → List Nat → List Hart × List Nat
  | [], free => ([], free)
  | h :: rest, free =>
    let (h', free') := match free with
      | c :: more => if h.state = .waitingForCore ∧ h.phys = none then ({ h with phys := some c }, more) else (h, free)
      | [] => (h, [])
    let (rest', free'') := giveCores rest free'
    (h' :: rest', free'')

/-- Cores that return to the pool go first to the harts that wait for one, in ascending partition order, as quads do (R362, R363). -/
def State.feedWaiting (s : State) (free : List Nat) : State :=
  ((s.parts.map (·.1)).foldl (fun (acc : State × List Nat) q =>
    let (hs, rest) := giveCores (acc.1.part q).harts acc.2
    if (acc.1.part q).harts.all (fun h => decide (h.state ≠ .waitingForCore)) then acc else (acc.1.updPart q (fun x => { x with harts := shareCores hs }), rest)) (s, free)).1

/-- The reset contents of the MSI-X table of a virtual function. -/
def State.resetMsix (s : State) (key : Nat) : State :=
  { s with msix := Tab.keep (fun a => decide (a / 64 ≠ key)) s.msix, msixPending := Tab.keep (fun a => decide (a / 16 ≠ key)) s.msixPending }

/-- The partition is FREE and its resources are in the pool. -/
def State.freePart (s : State) (p : Nat) : State :=
  let x := s.part p
  let s := (s.zeroPages x.heldPages).writeTables p x.map []
  let s := match x.vf with
    | some (h, i) => s.resetMsix (4 + 16 * h + i)
    | none => s
  let s := (s.setReg (.glob (.ptRoot (pIdx p))) 0).resetPartRegs p
  let s := { s with
    jobs := s.jobs.filter (fun j => decide (j.part ≠ p)), reservations := s.reservations.filter (fun r => decide (r.2.1 ≠ p)),
    commits := s.commits.filter (fun c => match c.group with
      | .handle q | .keyDir q | .bundle q | .ring q _ => decide (q.val ≠ p)
      | _ => true) }
  let up := fun (d : Nat) => decide ((s.site d).state = .active)
  (((s.setPart p {}).feedStranded (x.quads.filter (fun g => up (g / 8)))).feedWaiting ((sortUp (x.harts.filterMap (·.phys))).filter (fun c => up (c / 8)))).endCmd 2 p .done

/-- PAGE_SCRUB_DONE: the pages of a partition in RELEASING, or the dropped pages of a REMAP, hold zeros and return to the pool; the partition's lines
have left the die caches before (R323 step 1). -/
def State.pageScrubDone (s : State) (p : Nat) : State :=
  let x := s.part p
  if x.state = .releasing then s.freePart p
  else
    let kept := (x.map ++ x.remap.getD []).flatMap (·.pages)
    let ps := (pagesOf x.dropped).filter (fun q => !kept.contains q.1)
    ((s.dropCache p).zeroPages ps).updPart p (fun x => { x with dropped := [] })

def execPageScrubDone (p : Fin 64) (s : State) : Host.Outcome State Fault Refusal := .next (s.pageScrubDone p)

end Sys2Proof.Machine
end

