-- ==== Sys2Proof/Machine/Ras.lean ====
section
/-! DEFINITION. Faults that replay work, units taken out of use and die retirement (R69, R177, R216, R228, R352 to R363), and the log windows and alarm entries of the concentrators (R370 to R373). -/
namespace Sys2Proof.Machine

/-! ### Log windows and alarm entries -/

def UnitId.bits (u : UnitId) : BitVec 16 := unitId u.kind.toNat u.index.toNat

/-- LOG_WINDOW_CLOSE (R370). -/
def State.closeWindow (s : State) (h : Fin 4) (src : BitVec 16) (event : Nat) : State :=
  let k := s.hank h
  match k.windows.find? (fun r => r.pair src event) with
  | some r => (s.setHank h { k with windows := k.windows.filter (fun r => !r.pair src event) }).emitLog h r
  | none => s

def execLogWindowClose (h : Fin 4) (source : UnitId) (event : BitVec 8) (s : State) : Host.Outcome State Fault Refusal :=
  .next (s.closeWindow h (UnitId.bits source) event.toNat)

/-- Empty an alarm entry (R372). -/
def State.alarmAck (s : State) (h entry : Nat) : State :=
  s.updHank h (fun k => { k with alarms := Tab.set (fun _ => none) k.alarms entry none })

/-- Does a hank die's block answer (R443)? -/
def State.hankOpen (s : State) (h : Nat) : Bool := s.answers && (s.hank h).running

def execFcAlarmAck (h : Fin 4) (s : State) : Host.Outcome State Fault Refusal :=
  .next (if s.hankOpen h then s.alarmAck h (bits (s.reg (.hank h .fcAlarmSel)) 6 0) else s)

/-! ### Replay (R69, R360) -/

/-- The reporting unit of the runtime that owns a site. -/
def State.runtimeOf (s : State) (u : BitVec 16) : BitVec 16 := hankUnit (s.owner u)

/-- The digest of what a tile's part of its op has stored, under the key that the runtime draws at each reset (R361, R403). -/
def State.replayDigest (s : State) (t : Nat) : Nat :=
  let w := (s.tile t).wrote
  (digest (BitVec.ofNat 128 s.replayKey) (w.map (fun (a, b) => BitVec.ofNat 128 (256 * a + b.toNat))) (BitVec.ofNat 128 w.length)).toNat

/-- The digests of the ranks whose part of the present execution is complete. -/
def State.partDigests (s : State) (o : OpRef) (r : OpRec) : List (Nat × Nat) :=
  (r.tiles.zipIdx).filterMap (fun (t, k) =>
    if (s.tile t).op = some (o.job, o.op) ∧ (r.phase = .ran ∨ (s.tile t).partDone) then some (k, s.replayDigest t) else none)

/-- An execution is discarded (R69, R360): the op is ready again and starts from its inputs as they were, on the same tiles unless it has to move. A failure of the
discarded execution goes with it. -/
def State.replay (s : State) (o : OpRef) : State :=
  match s.op? o with
  | some (j, r) =>
    let done := s.partDigests o r
    let lines := s.stashLines o r
    ((((s.countUp j.part 0x31).countRun j.part r).freeTiles (s.occupied o r)).restoreLimbs j.part r.saved r.die).updOp o (fun r => { r with
      phase := .ready, status := .done, origin := 0xFFFF, damaged := [], results := r.results.map (fun (a, h) => (a, setBits h 30 30 0))
      halted := r.halted && r.ending.isNone, ending := none, leaving := .own, blocking := false, checkpoint := none, stashRan := lines
      replays := r.replays + 1, past := if done = [] then r.past else r.past ++ [done] })
  | none => s

/-- An op leaves its tiles and waits for others. -/
def State.displace (s : State) (o : OpRef) (left : List Nat) : State :=
  match s.op? o with
  | some (_, r) =>
    let lines := s.stashLines o r
    (s.freeTiles (s.occupied o r)).updOp o (fun r => { r with
      stashRan := lines, displaced := true, left := left, dies := (r.tiles.map siteOf).eraseDups
      ranOn := if r.started then (r.ranOn ++ r.tiles).eraseDups else r.ranOn })
  | none => s

/-- Is the op under way on a tile? -/
def State.runsOn (s : State) (o : OpRef) (t : Nat) : Bool :=
  match s.op? o with
  | some (j, r) => r.phase.runs && !r.displaced && !j.killed && r.tiles.contains t
  | none => false

/-! ### Tiles out of use (R355) -/

def State.startSelfTest (s : State) (t : Nat) : State :=
  if (s.tile t).outOfUse then s else (s.updTile t (fun x => { x with selfTest := true })).tileReset t

/-- The tiles of an op that has moved are reset before their self-test (R390). -/
def State.resetTested (s : State) (ts : List Nat) : State := ts.foldl (fun s t => if (s.tile t).selfTest then s.tileReset t else s) s

/-- Spares that are not claimed. -/
def State.spares (s : State) : Nat :=
  ((List.range 18).filter (fun d => decide ((s.site d).state = .spare) && (s.site d).populated && decide ((s.retiring.bind (·.spare)) ≠ some d))).length

/-- Is a retirement of the site decided and not yet served? -/
def State.retireQueued (s : State) (d : Nat) : Bool := s.retireQueue.any (fun r => r.site = d)

/-- A graceful retirement is decided by a trigger (R355). -/
def State.decideRetire (s : State) (d : Nat) : State :=
  if (s.site d).state ≠ .active ∨ s.retireQueued d then s
  else { s with retireQueue := s.retireQueue ++ [{ site := d, kind := 0 }] }

/-- The ops in flight whose list names a tile, but for those that wait for new ones. -/
def State.opsListing (s : State) (t : Nat) : List OpRef :=
  s.jobs.flatMap (fun j => if j.killed then [] else (j.ops.filter (fun r => r.phase.inFlight && !r.displaced && r.tiles.contains t)).map (fun r => ⟨j.id, r.idx⟩))

/-- An op gives up its tiles: an execution under way is discarded. -/
def State.giveUp (s : State) (o : OpRef) : State :=
  match s.op? o with
  | some (_, r) => (if r.phase.runs then s.replay o else s).displace o []
  | none => s

/-- A tile goes out of use: its ops move, and its die is to be retired. -/
def State.outOfUse (s : State) (t row : Nat) : State :=
  if (s.tile t).outOfUse then s
  else
    let s := (s.updTile t (fun x => { x with outOfUse := true, selfTest := false })).reportLog (tileUnit t) (s.runtimeOf (tileUnit t)) 0x07 row
    ((s.opsListing t).foldl State.giveUp s).decideRetire (siteOf t)

/-- The reduction unit of a tile goes out of service, between executions (R177): an op with an FP32 SUM or SUMSQ that was to run there moves. -/
def State.setRuOut (s : State) (t : Nat) : State :=
  let s := (s.setField (.tile (tIdx t) .vecCtrl) 1 1 1).reportLog (tileUnit t) (s.runtimeOf (tileUnit t)) 0x08 0
  ((s.opsListing t).filter (fun o => (s.op? o).any (fun x => x.2.sumsFp32))).foldl State.giveUp s

/-- Steps 2 and 3 of R69: a replay on the same tiles; a second time on them, they go to self-test and the op moves. An op
one of whose tiles takes no op now moves as well. -/
def State.replayR69 (s : State) (o : OpRef) : State :=
  match s.op? o with
  | some (j, r) =>
    let s := (s.replay o).updOp o (fun r => { r with mismatches := r.mismatches + 1 })
    if 2 ≤ r.mismatches + 1 then r.tiles.foldl State.startSelfTest (s.displace o r.tiles)
    else if r.tiles.all (s.usable j.part r.sumsFp32) then s
    else s.displace o []
  | none => s

/-- Hours in mesh cycles (R376). -/
def hours (n : Nat) : Int := (n * 3600 * 1200000000 : Nat)

/-- Times of the last `n` hours, with the present one added. -/
def State.recent (s : State) (ts : List Int) (n : Nat) : List Int := ts.filter (fun t => decide ((s.clock.toNat : Int) - t < hours n)) ++ [(s.clock.toNat : Int)]

/-- The op's place in a record: its index, 0xFFFF for an inserted REFRESH. -/
def OpRec.detail (r : OpRec) : Nat := if r.inserted.isSome then 0xFFFF else r.idx

/-- RESIDUE_MISMATCH (R69, R174, R177, R355). -/
def State.residueMismatch (s : State) (o : OpRef) (t : Nat) (reduction : Bool) : State :=
  match s.op? o with
  | some (j, r) =>
    if !s.runsOn o t then s
    else
      let s := s.reportLog (tileUnit t) (tileUnit t) 0x01 r.detail (some j.part)
      let times := s.recent (s.tile t).mismatchAt 1
      let twice := reduction && r.reduceBad.contains t && !s.ruOut t
      let s := s.updTile t (fun x => { x with mismatchAt := times })
      let s := if reduction then s.updOp o (fun r => { r with reduceBad := t :: r.reduceBad }) else s
      let s := s.replayR69 o
      let s := if twice then s.setRuOut t else s
      if 3 ≤ times.length then s.outOfUse t 2 else s
  | none => s

def execResidueMismatch (o : OpRef) (t : Fin 576) (reduction : Bool) (s : State) : Host.Outcome State Fault Refusal :=
  .next (s.residueMismatch o t reduction)

/-- STREAM_WATCHDOG (R353): a stream of the op that holds an instruction and waits on nothing. No watchdog counts while a hook
drains or holds the run (R394). -/
def execStreamWatchdog (o : OpRef) (t : Fin 576) (k : StreamCode) (s : State) : Host.Outcome State Fault Refusal :=
  .next (match s.op? o with
    | some (j, r) =>
      let v := s.stream t (streamCode k)
      if s.runsOn o t && decide (s.hookState j.part = 0) && decide (s.power.ref ≠ .stopped) && (decide (r.phase = .ran) || (v.running && decide (v.stall = .none))) then
        (((s.reportLog (tileUnit t) (tileUnit t) 0x05 (streamCode k) (some j.part)).startSelfTest t).replayR69 o).resetTested [t]
      else s
    | none => s)

/-- A report of a timeout names its target: a tile is self-tested, a die is probed (R354, R355). -/
def State.suspect (s : State) (j : Job) (reporter : Nat) (u : BitVec 16) (cls : Nat) : State :=
  let s := s.reportLog u (tileUnit reporter) 0x06 cls (some j.part)
  if unitKind u = 1 ∧ unitIndex u < 576 then s.startSelfTest (unitIndex u)
  else if unitKind u = 2 ∧ unitIndex u < 18 then s.updSite (unitIndex u) (fun x => { x with probe := true })
  else s

/-- TRANSACTION_TIMEOUT (R354): the op is replayed, and the report names the target. Further tiles whose transactions of the execution just discarded time out
report as well; that execution is discarded once. -/
def State.timeout (s : State) (o : OpRef) (reporter : Nat) (u : BitVec 16) (cls : Nat) : State :=
  match s.op? o with
  | some (j, r) =>
    if r.stale.contains reporter && !j.killed then (s.suspect j reporter u cls).updOp o (fun r => { r with stale := r.stale.filter (· ≠ reporter) })
    else if s.runsOn o reporter then
      (((s.suspect j reporter u cls).replayR69 o).resetTested (if unitKind u = 1 then [unitIndex u] else [])).updOp o (fun q => { q with
        stale := r.tiles.filter (· ≠ reporter), awaits := q.awaits ++ (if unitKind u = 2 ∧ (s.site (unitIndex u)).state ≠ .retired then [unitIndex u] else []) })
    else s
  | none => s

def execTransactionTimeout (o : OpRef) (reporter : Fin 576) (source : UnitId) (cls : Fin 4) (s : State) : Host.Outcome State Fault Refusal :=
  .next (s.timeout o reporter (UnitId.bits source) cls)

/-! ### Replay digests (R361) -/

/-- An execution disagrees with every earlier one, at tile `t` first: the record, and the op runs again on tiles that pass their self-test; after the fifth
execution it is held. -/
def State.digestDiffers (s : State) (o : OpRef) (t : Nat) : State :=
  match s.op? o with
  | some (j, r) =>
    let u := tileUnit t
    let n := r.replays + 1
    let s := s.reportLog u (s.runtimeOf u) 0x0C n (some j.part)
    if 5 ≤ n then { ((s.reportAlarm u (s.runtimeOf u) 0x0C n (some j.part)).updOp o (fun r => { r with held := true })) with service := true }
    else r.tiles.foldl State.startSelfTest ((s.replay o).displace o r.tiles)
  | none => s

/-- Does the present execution, whole by now, agree with an earlier one in every rank that both completed (R361)? -/
def State.agrees (s : State) (o : OpRef) (r : OpRec) : Bool :=
  let now := s.partDigests o r
  r.past.any (fun e => e.all now.contains)

/-- The tile of the lowest rank in which the present execution disagrees with an earlier one. -/
def State.differsAt (s : State) (o : OpRef) (r : OpRec) : Nat :=
  let now := s.partDigests o r
  match now.find? (fun x => r.past.any (fun e => e.any (fun y => decide (y.1 = x.1 ∧ y.2 ≠ x.2)))) with
  | some (k, _) => r.tiles.getD k 0
  | none => r.tiles.headD 0

/-- OP_BIND_OFF (R30): once an execution agrees with an earlier one, where there is one to compare (R361). -/
def State.bindOffCompared (s : State) (o : OpRef) : State :=
  match s.op? o with
  | some (j, r) => if s.bindable j r && decide (r.past ≠ []) && !s.agrees o r then s.digestDiffers o (s.differsAt o r) else s.bindOff o
  | none => s.bindOff o

def execOpBindOff (o : OpRef) (s : State) : Host.Outcome State Fault Refusal := .next (s.bindOffCompared o)

/-- The self-test of a site in a cold start-up brings the results of its tiles too (R21, R391; log entry 134). -/
def State.coldTest (s : State) (t : Nat) : Bool :=
  decide (s.power.state = .starting) && s.power.cold && (s.site (siteOf t)).started && decide ((s.site (siteOf t)).state ≠ .retired)

/-- TILE_SELFTEST_DONE (R355, R177): a self-test runs on a tile that no op occupies, or in a cold start-up on every tile (R391); the tile is reset again (R390). -/
def execTileSelftestDone (t : Fin 576) (pass : Bool) (reductionOk : Bool) (s : State) : Host.Outcome State Fault Refusal :=
  .next (if ((s.tile t).selfTest || s.coldTest t) && (s.tile t).op.isNone then
      let s := (s.updTile t (fun x => { x with selfTest := false })).tileReset t
      let s := if reductionOk || s.ruOut t then s else s.setRuOut t
      if pass then s else s.outOfUse t 1
    else s)

/-! ### Memory errors (R216, R228, R352) -/

/-- An uncorrectable on-die memory error counts for its die: the fourth within 24 h retires it (R355). -/
def State.ondieCount (s : State) (d : Nat) : State :=
  let ts := s.recent (s.site d).uncorrAt 24
  let s := s.updSite d (fun x => { x with uncorrAt := ts })
  if 4 ≤ ts.length then s.decideRetire d else s

/-- Corrected on-die errors of a die (R215): more than 10,000 within 24 h retire it (R355). -/
def State.correctedCount (s : State) (d n : Nat) : State :=
  if n = 0 then s
  else
    let old := (s.site d).correctedAt.filter (fun x => decide ((s.clock.toNat : Int) - x.1 < hours 24))
    let s := s.updSite d (fun x => { x with corrected := x.corrected + BitVec.ofNat 64 n, correctedAt := old ++ [((s.clock.toNat : Int), n)] })
    if 10000 < ((s.site d).correctedAt.map (·.2)).sum then s.decideRetire d else s

/-- Counts and replays of an error in a tile's memory under an op. -/
def State.ondieReplay (s : State) (t line : Nat) (o : OpRef) (f : State → State) : State :=
  match s.op? o with
  | some (j, _) =>
    if s.runsOn o t then (f (s.reportLog (tileUnit t) (tileUnit t) 0x02 line (some j.part))).ondieCount (siteOf t) else s
  | none => s

/-- An error that no check sees alters what a tile has stored for its op: memory and the digest become free values (log entries 56, 102). What an op that its command
runs whole has stored is all its destinations. -/
def State.alter (s : State) (o : OpRef) (t : Nat) : State :=
  match s.op? o with
  | some (j, r) =>
    let at_ := if oeOpcode r.entry = 0x7F then (s.tile t).wrote.map (fun x => (x.1, 1)) else r.limbs ++ r.spoil
    let (v, s) := (s.spoil j.part true at_ r.die).draw
    s.updTile t (fun x => { x with wrote := putBytes x.wrote 0 (leBytes 16 v) })
  | none => s

/-- ONDIE_UNCORRECTABLE (R216); the corrected and the undetected errors of on-die memories come the same way (log entry 102). -/
def State.ondieError (s : State) : OnDieError → State
  | .dieCache d line =>
    if s.answers ∧ (s.site d).works then
      (((if s.lineBad line then s.badLine (64 * line) none (dieUnit d) else s).cacheRefetch d line).reportLog (dieUnit d) (dieUnit d) 0x02 line).ondieCount d
    else s
  | .scratchpad t line o => s.ondieReplay t line o (fun s => s.replayR69 o)
  | .stashOfThisOp t line o => s.ondieReplay t line o (fun s => s.replayR69 o)
  | .staging t line o => s.ondieReplay t line o (fun s => s.replayR69 o)
  | .reservoir t line o => s.ondieReplay t line o (fun s =>
      let s := s.updTile t (fun x => { x with stashBad := if x.stashBad.contains line then x.stashBad else x.stashBad ++ [line] })
      let hit := match s.op? o with
        | some (j, r) => ((r.dirs.map (fun x => keyEntryOf x.2)).filter (fun e => e.ranks.contains t && s.shareBad j.part e)).map (fun e => (e.site, e.line))
        | none => []
      (s.replayR69 o).updOp o (fun r => { r with keyStream := r.keyStream ++ hit }))
  | .stashOfEarlierCopy t line o => s.ondieReplay t line o (fun s => s.opFailed o (tileUnit t) .unowned)
  | .corrected d n => if s.answers && (s.site d).works then s.correctedCount d n else s
  | .undetected t o => if s.runsOn o t then s.alter o t else s

def execOndieUncorrectable (e : OnDieError) (s : State) : Host.Outcome State Fault Refusal := .next (s.ondieError e)

/-- STACK_UNCORRECTABLE (R229): from now on the line reads as uncorrectable; each read has the outcome of what reads it. -/
def execStackUncorrectable (line : Fin 25769803776) (s : State) : Host.Outcome State Fault Refusal :=
  .next { s with memBad := Tab.set (fun _ => false) s.memBad line true }

/-- PATROL_SCRUB (R228) of a line at the rate that PATROL sets; a correction in a demand read counts in CORR too (log entry 100). -/
def execPatrolScrub (line : Fin 25769803776) (found : EccFinding) (s : State) : Host.Outcome State Fault Refusal :=
  .next (if (bits (s.reg (.glob .memCfg)) 1 0 = 0 ∧ found ≠ .correctedOnDemand) ∨ s.power.state ≠ .m0 then s
    else match found with
    | .clean => s
    | .corrected | .correctedOnDemand => if s.lineBad line then s else s.bump (.glob (.mcEcc ⟨s.column (64 * line.val), Nat.mod_lt _ (by decide)⟩)) 15 0
    | .uncorrectable =>
      let s := { s with memBad := Tab.set (fun _ => false) s.memBad line true }
      s.badLine (64 * line.val) none (columnUnit (s.column (64 * line.val))))

/-- FLIT_CRC_ERROR (R352): a retransmission is a trace record; after eight the upstream unit is suspected. -/
def execFlitCrcError (source : UnitId) (reporter : UnitId) (link : BitVec 32) (retry : Nat) (s : State) : Host.Outcome State Fault Refusal :=
  .next (if retry = 0 then s
    else if retry ≤ 8 then s.reportTrace (UnitId.bits source) (UnitId.bits reporter) 0x04 retry
    else s.reportLog (UnitId.bits source) (UnitId.bits reporter) 0x0E link.toNat)

/-! ### Retirement (R356 to R363) -/

/-- Tenant core k of a site, by physical hart number (R19). -/
def siteCores (d : Nat) : List Nat := (List.range 6).map (fun k => 8 * d + 2 + k)

/-- Where the quads of a retiring die go: old quad and new one. -/
abbrev Moves := List (Nat × Nat)

/-- Quads of the pool on active dies, in ascending order (R363). -/
def State.poolQuads (s : State) : List Nat :=
  (List.range 144).filter (fun g => decide ((s.site (g / 8)).state = .active) && s.parts.all (fun q => !q.2.quads.contains g))

/-- Free tenant cores on active dies, in ascending order. -/
def State.poolCores (s : State) : List Nat :=
  (List.range 18).flatMap (fun d => if (s.site d).state = .active then (siteCores d).filter (fun h => s.parts.all (fun q => q.2.harts.all (fun k => decide (k.phys ≠ some h)))) else [])

/-- Quads of site `d` that partitions hold, in ascending order. -/
def State.heldOn (s : State) (d : Nat) : List Nat := ((List.range 8).map (fun q => 8 * d + q)).filter (fun g => s.parts.any (fun p => p.2.quads.contains g))
def State.coresOn (s : State) (d : Nat) : List Nat := (siteCores d).filter (fun h => s.parts.any (fun p => p.2.harts.any (fun k => decide (k.phys = some h))))

/-- A hart whose own or shared core lies on a die that goes: on the replacement with its state, or lost with it (R362). -/
def Hart.moved (abrupt : Bool) (d : Nat) (cores : List (Nat × Nat)) (h : Hart) : Hart :=
  let next := fun (c : Option Nat) => c.bind (fun c => if c / 8 = d then (cores.find? (fun m => m.1 = c)).map (·.2) else some c)
  let h' := { h with phys := next h.phys, shares := next h.shares }
  if abrupt && decide (h.core.map (· / 8) = some d) then { phys := h'.phys } else h'

/-- The harts of a partition after the cores of a die are gone. -/
def moveHarts (abrupt : Bool) (d : Nat) (cores : List (Nat × Nat)) (hs : List Hart) : List Hart := shareCores (hs.map (Hart.moved abrupt d cores))

/-- A partition after a retirement: its quads, its harts, its home list (R222, R359, R362, R363); a spare that comes during a frog is used from its release on (R326). -/
def Part.moved (x : Part) (abrupt : Bool) (d : Nat) (quads cores : Moves) (spare : Option Nat) : Part :=
  let mine := x.quads.filter (fun g => g / 8 = d)
  let got := mine.filterMap (fun g => (quads.find? (fun m => m.1 = g)).map (·.2))
  let qs := sortUp (got ++ x.quads.filter (fun g => g / 8 ≠ d))
  { x with
    quads := qs, lostQuads := x.lostQuads ++ mine.filter (fun g => !quads.any (fun m => m.1 = g)), stranded := decide (qs = [])
    harts := moveHarts abrupt d cores x.harts
    homes := match spare with
      | some t => x.homes.map (fun h => if h = d then t else h)
      | none => homesOf qs
    frog := x.frog.map (fun f => { f with
      tiles := f.tiles.filter (fun t => siteOf t ≠ d)
      joining := f.joining.filter (· ≠ d) ++ (if mine = [] ∧ !x.harts.any (fun h => h.core.map (· / 8) = some d) then [] else spare.toList) }) }

/-- What a partition is told of a retirement (R362, R374). -/
def State.tellPart (s : State) (p : Nat) (abrupt : Bool) (d : Nat) (goal : Option Nat) (hadQuads : Bool) (lostHarts : Bool) (survivor : Option Nat) : State :=
  let r := pr p .partRas
  let s := if hadQuads then
      let s := (s.bump r 23 16).setField r 4 0 d
      (match goal with
        | some t => s.setField r 12 8 t
        | none => s)
    else s
  if abrupt && lostHarts then
    let s := s.setField r 24 24 1
    match survivor with
    | some v => s.updPart p (fun x => x.updHart v (fun h => Hart.wake v { h with extPending := true }))
    | none => s
  else s

/-- The quads and cores of a die pass on. -/
def State.passOn (s : State) (d : Nat) (abrupt : Bool) (quads cores : Moves) (spare : Option Nat) : State :=
  (s.parts.map (·.1)).foldl (fun s p =>
    let x := s.part p
    let mine := x.quads.filter (fun g => g / 8 = d)
    let gone := fun (h : Hart) => decide (h.core.map (· / 8) = some d)
    let survivor := (x.harts.zipIdx.find? (fun (h, _) => !gone h)).map (·.2)
    let goal := ((mine.filterMap (fun g => (quads.find? (fun m => m.1 = g)).map (·.2))).map (· / 8)).head?
    ((s.yieldWays (quads.map (·.2 / 8))).setPart p (x.moved abrupt d quads cores spare)).tellPart p abrupt d goal (decide (mine ≠ [])) (x.harts.any gone) survivor) s

/-- The tiles, registers, caches and commits of a die that is powered off. -/
def State.powerOffDie (s : State) (d : Nat) : State :=
  let out := fun (a : Nat) => decide (a < 0x1000000 + 0x100000 * d ∨ 0x1000000 + 0x100000 * (d + 1) ≤ a)
  let s := { s with
    regs := Tab.keep out s.regs, active := Tab.keep out s.active, tiles := Tab.keep (fun t => decide (siteOf t ≠ d)) s.tiles
    reservations := s.reservations.filter (fun r => decide (r.1 ≠ d))
    commits := s.commits.filter (fun c => match c.group with
      | .qtab t => decide (siteOf t.val ≠ d)
      | .bw e => decide (e.val ≠ d)
      | _ => true) }
  s.updSite d (fun x => { x with cache := [], leaves := [], missing := 0, beat := false, probe := false })

/-- The tile that stands for one of the retired die. -/
def onSpare (d spare t : Nat) : Nat := if siteOf t = d then 32 * spare + t % 32 else t

/-- An op of the retired die (R360), a REFRESH with its latest checkpoint (R305): with a spare it goes to the same places there, else it waits for tiles. Keys that it read
from a reservoir of the die stream when it runs again. -/
def State.moveOp (s : State) (o : OpRef) (d : Nat) (spare : Option Nat) : State :=
  match s.op? o with
  | some (j, r) =>
    let s := (if r.phase.runs then s.replay o else s).updOp o (fun q => { q with checkpoint := r.checkpoint }) |>.updOp o (fun r => { r with remapped := r.remapped || r.started, left := r.left.filter (fun t => decide (siteOf t ≠ d)) })
    match spare with
    | some t =>
      let ts := r.tiles.map (onSpare d t)
      s.updOp o (fun r => { r with
        tiles := ts, dies := r.dies.map (fun e => if e = d then t else e), mismatches := 0
        displaced := r.displaced && !ts.all (s.usable j.part r.sumsFp32) })
    | none => if r.displaced then s else s.displace o []
  | none => s

/-- Every op in flight with a tile on the die. -/
def State.opsOn (s : State) (d : Nat) : List OpRef :=
  s.jobs.flatMap (fun j => if j.killed then [] else (j.ops.filter (fun r => r.phase.inFlight && r.tiles.any (fun t => decide (siteOf t = d)))).map (fun r => ⟨j.id, r.idx⟩))

/-- The homes at which a tile's next store combines (R222, R224), if its feeder's head transfer is one. -/
def State.combineHomes (s : State) (p t f : Nat) : List Nat :=
  match (s.tile t).feeder f with
  | .transfer op w rows :: _ =>
    let r := feedRec ((s.tile t).descEntry w.imm.toNat).toNat
    let d := (s.tile t).tdescAt r.tdesc
    if op = 0x21 ∧ r.tdesc ≠ 0xFFFF ∧ r.space = 0 ∧ d.combine ≠ 0 then s.regionHomes p d rows (some (siteOf t)) else []
  | _ => []

/-- Ops on other dies that hold a transaction to a lost die (R358): one of theirs has timed out on it, or a combine has its home there. -/
def State.opsAwaiting (s : State) (d : Nat) : List OpRef :=
  s.jobs.flatMap (fun j => if j.killed then [] else (j.ops.filter (fun r => r.phase.inFlight && !r.tiles.any (fun t => decide (siteOf t = d)) &&
    (r.awaits.contains d || (decide (r.phase = .running) && r.tiles.any (fun t => (List.range 4).any (fun f => (s.combineHomes j.part t f).contains d)))))).map (fun r => ⟨j.id, r.idx⟩))

/-- Before the homes of a lost die pass on, the ops that hold a transaction to it are marked (R358). -/
def State.markAwaiting (s : State) (d : Nat) : State :=
  (s.opsAwaiting d).foldl (fun s o => s.updOp o (fun q => { q with awaits := (q.awaits ++ [d]).eraseDups })) s

/-- The end of a retirement (R357 step 4): the ops that are left replay, the die is off, the record is made. -/
def State.endRetire (s : State) (r : Retire) : State :=
  let u := dieUnit r.site
  let others := if r.kind = 1 then s.opsAwaiting r.site else []
  let s := (s.opsOn r.site).foldl (fun s o => s.moveOp o r.site r.spare) s
  let s := others.foldl (fun s o => (if (s.op? o).any (fun x => x.2.phase.runs) then s.replay o else s).updOp o (fun q => { q with remapped := true, awaits := [] })) s
  let s := (s.powerOffDie r.site).updSite r.site (fun x => { x with state := .retired })
  let s := { (s.reportLog u (s.runtimeOf u) 0x0A r.kind) with retiring := none, retirements := s.retirements + 1 }
  let s := if r.operator then (s.setField (.glob .rasCmdStatus) 31 16 0).setField (.glob .rasCmdStatus) 0 0 0 else s
  if r.mgmt then s.emit (.mgmt 0x21 0 (some .done) []) else s

/-- The quads and cores pass on, to the spare or to the pool's free ones; an abrupt retirement then ends at once. -/
def State.placeRetire (s : State) (r : Retire) (spare : Option Nat) : State :=
  let d := r.site
  let (quads, cores) : Moves × Moves := match spare with
    | some t => ((s.heldOn d).map (fun g => (g, 8 * t + g % 8)), (s.coresOn d).map (fun c => (c, 8 * t + c % 8)))
    | none => ((s.heldOn d).zip s.poolQuads, (s.coresOn d).zip s.poolCores)
  let s := (if r.kind = 1 then s.markAwaiting d else s).passOn d (decide (r.kind = 1)) quads cores spare
  let r := { r with spare := spare, placed := true }
  let s := match spare with
    | some t =>
      let s := (s.setReg (.die (dIdx t) .bwSplit) s.storeSplit).setAct (.die (dIdx t) .bwSplit) s.storeSplit
      (s.updSite t (fun x => { x with state := .active, started := true, missing := 0, beat := false })).reportLog (dieUnit t) (s.runtimeOf (dieUnit t)) 0x0B d
    | none => s.reportAlarm (dieUnit d) (s.runtimeOf (dieUnit d)) 0x0D ((s.parts.filter (fun (q : Nat × Part) => q.2.stranded)).length)
  if r.kind = 1 then s.endRetire r else { s with retiring := some r }

/-- A retirement begins (R357 steps 1 and 2): the die is retiring, and the lowest-numbered spare comes into service, if there is one. -/
def State.beginRetire (s : State) (r : Retire) : State :=
  let s := { s with retireQueue := s.retireQueue.filter (fun q => q.site ≠ r.site) }
  let s := s.updSite r.site (fun x => { x with state := .retiring })
  match s.freeSpare with
  | some t => { s with retiring := some { r with spare := some t } }
  | none => s.placeRetire r none

/-- Abrupt retirements whose turn it is begin by themselves; `fuel` bounds their number. -/
def State.serveAbrupt : Nat → State → State
  | 0, s => s
  | n + 1, s => match s.nextRetire with
    | some r => if r.kind = 1 then State.serveAbrupt n (s.beginRetire r) else s
    | none => s

/-- RETIREMENT_START (R357). -/
def execRetirementStart (d : Fin 18) (s : State) : Host.Outcome State Fault Refusal :=
  .next (match s.nextRetire with
    | some r => if r.site = d then State.serveAbrupt 18 (s.beginRetire r) else s
    | none => s)

/-- A spare is retired itself; the retirement that has claimed it takes the next one. -/
def State.spareGone (s : State) (d kind : Nat) : State :=
  let s := (s.updSite d (fun x => { x with state := .retired })).reportLog (dieUnit d) (s.runtimeOf (dieUnit d)) 0x0A kind
  let s := { s with retirements := s.retirements + 1 }
  match s.retiring with
  | some r =>
    if r.spare ≠ some d ∨ r.placed then s
    else match s.freeSpare with
      | some t => { s with retiring := some { r with spare := some t } }
      | none => s.placeRetire r none
  | none => s

/-- SPARE_IN_SERVICE (R22, R359): the spare passes its self-test and serves, or it is retired itself. -/
def State.spareInService (s : State) (d : Nat) (pass : Bool) : State :=
  match s.retiring with
  | some r =>
    if r.spare ≠ some d ∨ r.placed then s
    else if pass then s.placeRetire r (some d)
    else (s.updSite d (fun x => { x with passed := false })).spareGone d 3
  | none => s

def execSpareInService (d : Fin 18) (pass : Bool) (s : State) : Host.Outcome State Fault Refusal :=
  .next (State.serveAbrupt 18 (s.spareInService d pass)).continueM3

/-- RETIRE_GRACE_EXPIRY (R357 step 3): 2 ms after the spare serves, or after the quads found other places. -/
def execRetireGraceExpiry (d : Fin 18) (s : State) : Host.Outcome State Fault Refusal :=
  .next (match s.retiring with
    | some r => if r.site = d ∧ r.placed then (State.serveAbrupt 18 (s.endRetire r)).continueM3 else s
    | none => s)

/-- The upgrade of a decided retirement to an abrupt one; one that is being served ends without grace (R358). -/
def State.abruptRetire (s : State) (d : Nat) : State :=
  match s.retiring with
  | some r =>
    if r.site = d then
      if r.placed then s.endRetire { r with kind := 1 } else { s with retiring := some { r with kind := 1 } }
    else if s.retireQueued d then { s with retireQueue := s.retireQueue.map (fun q => if q.site = d then { q with kind := 1 } else q) }
    else { s with retireQueue := s.retireQueue ++ [{ site := d, kind := 1 }] }
  | none =>
    if s.retireQueued d then { s with retireQueue := s.retireQueue.map (fun q => if q.site = d then { q with kind := 1 } else q) }
    else { s with retireQueue := s.retireQueue ++ [{ site := d, kind := 1 }] }

/-- The fence around a lost die (R358): nothing of it acts any more, the reservations at its die cache are gone, and it is retired abruptly. -/
def State.fenceDie (s : State) (d : Nat) : State :=
  let s := { (s.updSite d (fun x => { x with state := .retiring, probe := false, lost := true, cache := [], leaves := [] })) with reservations := s.reservations.filter (fun r => decide (r.1 ≠ d)) }
  (State.serveAbrupt 18 (s.abruptRetire d)).continueM3

/-- A die is declared lost (R354, R358): the alarm, the fence, the reservations at its die cache, and the abrupt retirement. A spare, which has its PLL locked but runs nothing (R22), is
retired itself (R377). -/
def State.dieLost (s : State) (d : Nat) : State :=
  let u := dieUnit d
  let told := s.reportAlarm u (s.runtimeOf u) 0x09 (min 3 (s.site d).missing)
  if (s.site d).state = .active ∨ (s.site d).state = .retiring then told.fenceDie d
  else if (s.site d).state = .spare ∧ (s.site d).populated then (State.serveAbrupt 18 (told.spareGone d 1)).continueM3
  else s

/-- A die whose dispatcher sends heartbeats. -/
def State.beats (s : State) (d : Nat) : Bool := s.answers && (s.site d).works

/-- DISPATCHER_HEARTBEAT (R354). -/
def execDispatcherHeartbeat (d : Fin 18) (s : State) : Host.Outcome State Fault Refusal :=
  .next (if s.beats d then s.updSite d (fun x => { x with beat := true }) else s)

/-- HEARTBEAT_CHECK (R354): 10 µs after a mark; the third missing heartbeat in a row loses the die. -/
def execHeartbeatCheck (d : Fin 18) (s : State) : Host.Outcome State Fault Refusal :=
  .next (if !s.beats d then s
    else if (s.site d).beat then s.updSite d (fun x => { x with beat := false, missing := 0 })
    else
      let s := s.updSite d (fun x => { x with missing := x.missing + 1 })
      if 3 ≤ (s.site d).missing then s.dieLost d else s)

/-- DIE_PROBE_TIMEOUT (R354). -/
def execDieProbeTimeout (d : Fin 18) (s : State) : Host.Outcome State Fault Refusal :=
  .next (if (s.site d).probe && s.beats d then s.dieLost d else s)

/-- Would the retirement of a site leave no active die (R373)? Retirements that do not wait take one die each and give one back while spares last; those that wait for a
spare leave their die active (R356); the spare on its way into service is counted. -/
def State.lastDie (s : State) (d : Nat) : Bool :=
  let coming := if (s.retiring.map (fun r => r.spare.isSome && !r.placed)).getD false then 1 else 0
  let queue := s.retireQueue.filter (fun r => r.site ≠ d)
  let waiting := (queue.filter (fun r => r.kind = 0)).length
  let going := (queue.filter (fun r => decide (r.kind ≠ 0) && decide ((s.site r.site).state = .active))).length
  let here := ((List.range 18).filter (fun e => decide (e ≠ d) && decide ((s.site e).state = .active))).length
  decide (here + coming + min (s.spares - waiting) (going + 1) ≤ going)

/-- RAS_CMD RETIRE (R373): the status of a refusal, or the decision. -/
def State.rasRetire (s : State) (op d : Nat) (mgmt : Bool) : Except Status State :=
  if op ≠ 1 ∨ 18 ≤ d ∨ (s.site d).state ≠ .active then .error .descMalformed
  else if s.lastDie d then .error .protect
  else
    let s := s.setField (.glob .rasCmdStatus) 0 0 1
    .ok (if s.retireQueued d then { s with retireQueue := s.retireQueue.map (fun q => if q.site = d then { q with kind := 2, operator := true, mgmt := mgmt } else q) }
      else { s with retireQueue := s.retireQueue ++ [{ site := d, kind := 2, operator := true, mgmt := mgmt }] })

/-- RAS_RETIRE: a write of RAS_CMD with GO, discarded while BUSY. -/
def State.rasCmd (s : State) (v : Word32) : State :=
  if !bit v 31 || bit (s.reg (.glob .rasCmdStatus)) 0 then s
  else match s.rasRetire (bits v 3 0) (bits v 20 16) false with
  | .ok s' => s'
  | .error st => s.setField (.glob .rasCmdStatus) 31 16 st.code

def execRasRetire (value : BitVec 32) (s : State) : Host.Outcome State Fault Refusal :=
  .next (if s.answers then s.rasCmd value else s)

end Sys2Proof.Machine
end

