-- ==== Sys2Proof/Machine/Cores.lean ====
section
/-! DEFINITION. The tenant cores: loads, stores and fetches to device memory (R319), the atomics of R222 and R223, the calls of the runtime's SBI (R318), and the VS timer. -/
namespace Sys2Proof.Machine

/-! ### Harts -/

def State.hart? (s : State) (p vh : Nat) : Option Hart := (s.part p).harts[vh]?

/-- Virtual hart `vh` of partition `p` executes instructions now: its core's die works (R358), and is not held back until a frog's release (R326). -/
def State.coreRuns (s : State) (p vh : Nat) : Bool :=
  s.answers && decide (s.power.state = .m0) && (match s.hart? p vh with
    | some h => decide (h.state = .running) && (match h.core with
      | some c => (s.site (c / 8)).works && !(match (s.part p).frog with
        | some f => f.joining.contains (c / 8)
        | none => false)
      | none => false)
    | none => false)

/-- Change a hart. -/
def State.updHart (s : State) (p vh : Nat) (f : Hart → Hart) : State := s.updPart p (fun x => x.updHart vh f)

/-- An access fault in VS mode with its cause, and the capture with ACCESS 0x7 (R319). -/
def State.coreFault (s : State) (p vh cause : Nat) (f : XFault) : State :=
  (s.capture p 7 f).updHart p vh (fun h => { h with fault := some cause })

/-- The value that a load, an atomic or a call returns. -/
def State.coreReturn (s : State) (p vh : Nat) (v : BitVec 64) : State := s.updHart p vh (fun h => { h with rd := v })

/-! ### The die cache of a core (R219, R220) -/

/-- The site of a hart's core. -/
def State.hartSite (s : State) (p vh : Nat) : Option Nat := ((s.hart? p vh).bind Hart.core).map (· / 8)

/-! ### Loads, stores, fetches (R319) -/

/-- The translation unit of a core's die has translated an address of it. -/
def State.coreLeaf (s : State) (p vh gpa n : Nat) : State := match s.hartSite p vh with
  | some d => s.keepLeaves p d [(gpa, n)]
  | none => s

/-- A core reads `n` bytes of device memory, through the cache of its own die. -/
def State.coreRead (s : State) (p vh gpa n : Nat) : Except MemErr (List Byte × State) := s.cachedVA p (s.hartSite p vh) gpa n

/-- What a failed access of a core leads to; an uncorrectable line is recorded as well (R229, R319). -/
def State.coreErr (s : State) (p vh cause : Nat) (e : MemErr) : State :=
  match e with
  | .fault f => s.coreFault p vh cause f
  | .bad pa a => (s.badLine pa (some p) (dieUnit ((s.hartSite p vh).getD 0))).coreFault p vh cause { va := a, level := 0, protect := false }

/-! ### The VS stage (R318; PRESUMED, the RISC-V privileged architecture with Svade, Svnapot and Svpbmt of the profile, log entry 82) -/

/-- What an access is to a translation: atomics and store-conditionals count as stores. -/
inductive VsKind where
  | fetch | load | store
deriving DecidableEq, Repr

def VsKind.accessCause : VsKind → Nat
  | .fetch => 1
  | .load => 5
  | .store => 7
def VsKind.pageCause : VsKind → Nat
  | .fetch => 12
  | .load => 13
  | .store => 15

/-- Why the VS stage has no address: its tables say so, or one of their entries cannot be read. -/
inductive VsErr where
  | page
  | access (e : MemErr)

/-- Does a leaf entry permit an access: X, R or MXR with X, W; U as the mode asks; A set, and D for a store? -/
def vsPermits (c : VsContext) (k : VsKind) (e : Nat) : Bool :=
  let on := fun (i : Nat) => decide (nbits e i i = 1)
  (match k with
    | .fetch => on 3
    | .load => on 1 || (c.mxr && on 3)
    | .store => on 2) &&
  (if c.user then on 4 else !on 4 || (c.sum && decide (k ≠ .fetch))) && on 6 && (on 7 || decide (k ≠ .store))

/-- The guest physical address behind a leaf entry of level `l`: its page, of 64 KiB where N is set. -/
def vsLeaf (c : VsContext) (k : VsKind) (va l e : Nat) : Option Nat :=
  let ppn := nbits e 53 10
  let n := decide (nbits e 63 63 = 1)
  if (n && (decide (l ≠ 0) || decide (ppn % 16 ≠ 8))) || (!n && decide (ppn % 2 ^ (9 * l) ≠ 0)) || !vsPermits c k e then none
  else if n then some (ppn / 16 * 2 ^ 16 + va % 2 ^ 16)
  else some (ppn * 2 ^ 12 + va % 2 ^ (12 + 9 * l))

/-- The walk of the VS stage from the table at guest physical address `a`, at level `l`; its reads are accesses of the core. -/
def State.vsWalk (s : State) (p vh : Nat) (c : VsContext) (k : VsKind) (va : Nat) : Nat → Nat → Except VsErr (Nat × State)
  | l, a => match s.coreRead p vh (a + 8 * nbits va (20 + 9 * l) (12 + 9 * l)) 8 with
    | .error e => .error (.access e)
    | .ok (bs, s) =>
      let e := leNat bs
      if nbits e 0 0 = 0 ∨ nbits e 2 1 = 2 ∨ nbits e 60 54 ≠ 0 ∨ nbits e 62 61 = 3 then .error .page
      else if nbits e 3 1 ≠ 0 then match vsLeaf c k va l e with
        | some g => .ok (g, s)
        | none => .error .page
      else if nbits e 4 4 ≠ 0 ∨ nbits e 7 6 ≠ 0 ∨ nbits e 63 61 ≠ 0 then .error .page
      else match l with
        | 0 => .error .page
        | l + 1 => State.vsWalk s p vh c k va l (nbits e 53 10 * 4096)

/-- What a hart's VS stage reads. -/
def State.vsOf (s : State) (p vh : Nat) : VsContext := match s.hart? p vh with
  | some h => h.vs
  | none => {}

/-- Translate a virtual address of a hart: Bare, Sv39 or Sv48, whose addresses repeat their top bit. -/
def State.vsAddr (s : State) (p vh : Nat) (k : VsKind) (va : Nat) : Except VsErr (Nat × State) :=
  let c := s.vsOf p vh
  let root := nbits c.vsatp.toNat 43 0 * 4096
  let walk := fun (levels : Nat) =>
    let top := va / 2 ^ (11 + 9 * levels)
    if top = 0 ∨ top = 2 ^ (53 - 9 * levels) - 1 then s.vsWalk p vh c k va (levels - 1) root else .error .page
  match nbits c.vsatp.toNat 63 60 with
  | 8 => walk 3
  | 9 => walk 4
  | _ => .ok (va, s)

/-- The pieces of an access in guest physical space, one, or two where it crosses a page of the VS stage. -/
def State.vsStage (s : State) (p vh : Nat) (k : VsKind) (va n : Nat) : Except VsErr (List (Nat × Nat) × State) :=
  let here := 4096 - va % 4096
  match s.vsAddr p vh k va with
  | .error e => .error e
  | .ok (g, s) =>
    if n ≤ here ∨ nbits (s.vsOf p vh).vsatp.toNat 63 60 = 0 then .ok ([(g, n)], s)
    else match s.vsAddr p vh k ((va + here) % 2 ^ 64) with
      | .error e => .error e
      | .ok (g', s) => .ok ([(g, here), (g', n - here)], s)

/-- An access that the VS stage stops: a page fault, which is the core's own, or the access fault of its walk. -/
def State.vsFault (s : State) (p vh : Nat) (k : VsKind) : VsErr → State
  | .page => s.updHart p vh (fun h => { h with fault := some k.pageCause })
  | .access e => s.coreErr p vh k.accessCause e

/-- An access of one address, such as an atomic, behind the VS stage. -/
def State.behindVs (s : State) (p vh : Nat) (k : VsKind) (va : Nat) (f : State → Nat → State) : State :=
  match s.vsAddr p vh k va with
  | .ok (g, s) => f s g
  | .error e => s.vsFault p vh k e

/-- A core sets its context; a write of `vsatp` with a MODE that the core does not have leaves it. -/
def State.setVs (s : State) (p vh : Nat) (c : VsContext) : State :=
  s.updHart p vh (fun h => { h with vs := { c with vsatp := if nbits c.vsatp.toNat 63 60 = 0 ∨ nbits c.vsatp.toNat 63 60 = 8 ∨ nbits c.vsatp.toNat 63 60 = 9 then c.vsatp else h.vs.vsatp } })

/-- A load of `n` bytes: the bytes as a number. -/
def State.coreLoad (s : State) (p vh gpa n : Nat) : State :=
  match s.coreRead p vh gpa n with
  | .ok (bs, s) => s.coreReturn p vh (BitVec.ofNat 64 (leNat bs))
  | .error e => s.coreErr p vh 5 e

/-- A fetch: it changes nothing but the cache, or raises the fault. -/
def State.coreFetch (s : State) (p vh gpa : Nat) : State :=
  match s.coreRead p vh gpa 4 with
  | .ok (_, s) => s
  | .error e => s.coreErr p vh 1 e

/-- A store: written through (R220), the copy in the core's own die cache stays. A store that misses allocates nothing, and one that hits leaves the order of the set as it
is (DESIGN CHOICE, log entry 136). -/
def State.coreStore (s : State) (p vh gpa n : Nat) (v : BitVec 64) : State :=
  match s.xlateWrite p gpa (leBytes n v.toNat) .write (s.hartSite p vh) with
  | .error f => s.coreFault p vh 7 f
  | .ok ps => ps.foldl (fun s (pa, b) => s.storePhys pa b (s.hartSite p vh)) (s.coreLeaf p vh gpa n)

/-- An access in two pieces: the bytes of both, or the fault of the first that has one; a store writes nothing unless both can. -/
def State.coreSplit (s : State) (p vh : Nat) (a : CoreAccess) (g m g' m' : Nat) : State :=
  let read := match s.coreRead p vh g m with
    | .error e => Except.error e
    | .ok (bs, s) => match s.coreRead p vh g' m' with
      | .error e => Except.error e
      | .ok (bs', s) => Except.ok (bs ++ bs', s)
  match a with
  | .fetch => match read with
    | .ok (_, s) => s
    | .error e => s.coreErr p vh 1 e
  | .load _ => match read with
    | .ok (bs, s) => s.coreReturn p vh (BitVec.ofNat 64 (leNat bs))
    | .error e => s.coreErr p vh 5 e
  | .store n v =>
    let bs := leBytes n v.toNat
    match s.xlateWrite p g (bs.take m) .write (s.hartSite p vh), s.xlateWrite p g' (bs.drop m) .write (s.hartSite p vh) with
    | .ok x, .ok y => (x ++ y).foldl (fun s (pa, b) => s.storePhys pa b (s.hartSite p vh)) ((s.coreLeaf p vh g m).coreLeaf p vh g' m')
    | .error f, _ => s.coreFault p vh 7 f
    | _, .error f => s.coreFault p vh 7 f
  | .context _ => s

/-! ### Atomics (R222, R223) -/

/-- Width in bytes of an atomic. -/
def amoBytes (wide : Bool) : Nat := if wide then 8 else 4

/-- The result that an atomic writes, from the value `m` in memory, the value `v` sent and the comparand `c`, in `w` bits. -/
def amoResult (f : AmoOp) (w m v c : Nat) : Nat :=
  match f with
  | .swap => v % 2 ^ w
  | .add => (m + v) % 2 ^ w
  | .min => if signed w m ≤ signed w v then m else v % 2 ^ w
  | .max => if signed w v ≤ signed w m then m else v % 2 ^ w
  | .minu => min m (v % 2 ^ w)
  | .maxu => max m (v % 2 ^ w)
  | .and => Nat.land m (v % 2 ^ w)
  | .or => Nat.lor m (v % 2 ^ w)
  | .xor => Nat.xor m (v % 2 ^ w)
  | .cas => if m = c % 2 ^ w then v % 2 ^ w else m

/-- A value of the width, sign-extended into a register. -/
def amoReturn (wide : Bool) (m : Nat) : BitVec 64 := if wide then BitVec.ofNat 64 m else (BitVec.ofNat 32 m).signExtend 64

/-- Translate an atomic access: naturally aligned (log entry 14), on a page that permits combines. -/
def State.amoXlate (s : State) (p vh gpa : Nat) (wide : Bool) : Except XFault Nat :=
  if gpa % amoBytes wide ≠ 0 then .error { va := gpa % 2 ^ 48, level := 0, protect := true } else s.xlate p gpa .combine (s.hartSite p vh)

/-- An atomic at the home of its address: the value in memory at its moment. -/
def State.amoRead (s : State) (p pa gpa : Nat) (wide : Bool) : Except MemErr (Nat × State) :=
  match s.cachedRead p (some (s.homeOf p pa)) pa gpa (amoBytes wide) with
  | .error e => .error e
  | .ok (bs, s) => .ok (leNat bs, s)

/-- CORE_ATOMIC (R223). One whose home die is lost waits until the home has passed on (R358). -/
def State.coreAtomic (s : State) (p vh : Nat) (f : AmoOp) (wide : Bool) (gpa v c : Nat) : State :=
  match s.amoXlate p vh gpa wide with
  | .error x => s.coreFault p vh 7 x
  | .ok pa => if !(s.site (s.homeOf p pa)).works then s else match s.amoRead p pa gpa wide with
    | .error e => s.coreErr p vh 7 e
    | .ok (m, s) =>
      let n := amoBytes wide
      (s.storePhys pa (leBytes n (amoResult f (8 * n) m v c)) (some (s.homeOf p pa))).coreReturn p vh (amoReturn wide m)

def execCoreAtomic (p : Fin 64) (vh : Nat) (f : AmoOp) (wide : Bool) (gpa v cmp : BitVec 64) (s : State) : Host.Outcome State Fault Refusal :=
  .next (if s.coreRuns p vh then s.behindVs p vh .store gpa.toNat (fun s g => (s.coreLeaf p vh g (amoBytes wide)).coreAtomic p vh f wide g v.toNat cmp.toNat) else s)

/-- The reservation of a hart, if it holds one. -/
def State.dropReservation (s : State) (p vh : Nat) : State :=
  { s with reservations := s.reservations.filter (fun r => decide (r.2.1 ≠ p ∨ r.2.2.1 ≠ vh)) }

/-- CORE_LOAD_RESERVED (R223): a reservation on the line at its home die cache. -/
def State.loadReserved (s : State) (p vh : Nat) (wide : Bool) (gpa : Nat) : State :=
  match s.amoXlate p vh gpa wide with
  | .error x => s.coreFault p vh 5 x
  | .ok pa => if !(s.site (s.homeOf p pa)).works then s else match s.amoRead p pa gpa wide with
    | .error e => s.coreErr p vh 5 e
    | .ok (m, s) =>
      let s := s.dropReservation p vh
      { s with reservations := s.reservations ++ [(s.homeOf p pa, p, vh, pa / 64)] }.coreReturn p vh (amoReturn wide m)

def execCoreLoadReserved (p : Fin 64) (vh : Nat) (wide : Bool) (gpa : BitVec 64) (s : State) : Host.Outcome State Fault Refusal :=
  .next (if s.coreRuns p vh then s.behindVs p vh .load gpa.toNat (fun s g => (s.coreLeaf p vh g (amoBytes wide)).loadReserved p vh wide g) else s)

/-- Does a hart hold the reservation of a line at its home? -/
def State.reserved (s : State) (p vh pa : Nat) : Bool := s.reservations.contains (s.homeOf p pa, p, vh, pa / 64)

/-- CORE_STORE_CONDITIONAL (R223): 0 in rd when it stores, 1 when its reservation is gone; either way the hart holds none afterwards. -/
def State.storeConditional (s : State) (p vh : Nat) (wide : Bool) (gpa v : Nat) : State :=
  match s.amoXlate p vh gpa wide with
  | .error x => s.coreFault p vh 7 x
  | .ok pa =>
    if s.reserved p vh pa then
      ((s.storePhys pa (leBytes (amoBytes wide) v) (some (s.homeOf p pa))).dropReservation p vh).coreReturn p vh 0
    else (s.dropReservation p vh).coreReturn p vh 1

def execCoreStoreConditional (p : Fin 64) (vh : Nat) (wide : Bool) (gpa v : BitVec 64) (s : State) : Host.Outcome State Fault Refusal :=
  .next (if s.coreRuns p vh then s.behindVs p vh .store gpa.toNat (fun s g => (s.coreLeaf p vh g (amoBytes wide)).storeConditional p vh wide g v.toNat) else s)

/-! ### SBI (R318; codes and function numbers of the RISC-V SBI, log entry 14) -/

/-- Error codes of the SBI. -/
inductive SbiErr where
  | success | notSupported | invalidParam | invalidAddress | alreadyAvailable
deriving DecidableEq, Repr

def SbiErr.code : SbiErr → BitVec 64
  | .success => 0
  | .notSupported => -2
  | .invalidParam => -3
  | .invalidAddress => -5
  | .alreadyAvailable => -6

/-- A call returns its error and its value. -/
def State.sbiReturn (s : State) (p vh : Nat) (e : SbiErr) (v : BitVec 64) : State := s.updHart p vh (fun h => { h with err := e.code, rd := v })

/-- The extensions of R318: Base, TIME, IPI, RFENCE, HSM, SRST. -/
def sbiExtensions : List Nat := [0x10, 0x54494D45, 0x735049, 0x52464E43, 0x48534D, 0x53525354]

/-- SBI_BASE: versions and identities are settings of the runtime; probing answers 1 for what R318 provides. -/
def State.sbiBase (s : State) (p vh : Nat) (fid : Nat) (arg : BitVec 64) : State :=
  if fid = 3 then s.sbiReturn p vh .success (if sbiExtensions.contains arg.toNat then 1 else 0)
  else if fid ≤ 6 then s.sbiReturn p vh .success (BitVec.ofNat 64 (Config.runtime (1 + fid)))
  else s.sbiReturn p vh .notSupported 0

def execSbiBase (p : Fin 64) (vh : Nat) (fid : BitVec 32) (arg : BitVec 64) (s : State) : Host.Outcome State Fault Refusal :=
  .next (if s.coreRuns p vh then s.sbiBase p vh fid.toNat arg else s)

/-- `time` (R318). -/
def State.vsTime (s : State) : Nat := s.clock.toNat / 12

/-- SBI_TIMER: a new deadline; an earlier interrupt is no longer pending. -/
def execSbiTimer (p : Fin 64) (vh : Nat) (stime : BitVec 64) (s : State) : Host.Outcome State Fault Refusal :=
  .next (if s.coreRuns p vh then
      (s.updHart p vh (fun h => { h with timerAt := some stime, timerPending := false })).sbiReturn p vh .success 0
    else s)

/-- VS_TIMER_INTERRUPT: `time` has reached the deadline. -/
def execVsTimerInterrupt (p : Fin 64) (vh : Nat) (s : State) : Host.Outcome State Fault Refusal :=
  .next (match s.hart? p vh with
    | some h => match h.timerAt with
      | some t => if h.state ≠ .stopped ∧ t.toNat ≤ s.vsTime then s.updHart p vh (fun h => Hart.wake vh { h with timerAt := none, timerPending := true }) else s
      | none => s
    | none => s)

/-- The harts that a mask and its base name; a base of all ones names every hart of the partition. -/
def maskHarts (mask base : BitVec 64) (n : Nat) : List Nat :=
  if base = -1 then List.range n else ((List.range 64).filter (fun i => mask.getLsbD i)).map (· + base.toNat)

/-- A call to the partition's own harts; one that is none of them is an invalid parameter. -/
def State.sbiMasked (s : State) (p vh : Nat) (mask base : BitVec 64) (f : Nat → Hart → Hart) : State :=
  let n := (s.part p).harts.length
  let hs := maskHarts mask base n
  if hs.all (fun v => decide (v < n)) then (hs.foldl (fun s v => s.updHart p v (f v)) s).sbiReturn p vh .success 0
  else s.sbiReturn p vh .invalidParam 0

/-- SBI_IPI: a software interrupt for each hart named. -/
def execSbiIpi (p : Fin 64) (vh : Nat) (mask base : BitVec 64) (s : State) : Host.Outcome State Fault Refusal :=
  .next (if s.coreRuns p vh then s.sbiMasked p vh mask base (fun v h => Hart.wake v { h with softPending := true }) else s)

/-- SBI_RFENCE: FENCE.I, SFENCE.VMA, SFENCE.VMA with an ASID. Every store of the model is visible at once, so a fence orders nothing
more; the functions for a nested hypervisor are not supported (log entry 14). -/
def execSbiRfence (p : Fin 64) (vh : Nat) (fid : BitVec 32) (mask base : BitVec 64) (s : State) : Host.Outcome State Fault Refusal :=
  .next (if s.coreRuns p vh then
      (if fid.toNat ≤ 2 then s.sbiMasked p vh mask base (fun _ h => h) else s.sbiReturn p vh .notSupported 0)
    else s)

/-- The status of a hart as HSM reports it: STARTED 0, STOPPED 1, START_PENDING 2, SUSPENDED 4. -/
def HartState.code : HartState → BitVec 64
  | .running => 0
  | .waitingForCore => 0
  | .stopped => 1
  | .startPending => 2
  | .suspended => 4

/-- SBI_HSM on virtual harts of the partition. -/
def State.sbiHsm (s : State) (p vh : Nat) : HsmCall → State
  | .start v addr arg => match s.hart? p v with
    | none => s.sbiReturn p vh .invalidParam 0
    | some h =>
      if h.state ≠ .stopped then s.sbiReturn p vh .alreadyAvailable 0
      else match s.xlate p addr.toNat .read (s.hartSite p vh) with
        | .error _ => s.sbiReturn p vh .invalidAddress 0
        | .ok _ => (s.updPart p (fun x => x.updHart v (fun h => h.start (firstCore x.harts) v addr arg))).sbiReturn p vh .success 0
  | .stop => (s.updHart p vh Hart.resetOf).dropReservation p vh
  | .suspend kind addr arg =>
    if kind = 0 then (s.sbiReturn p vh .success 0).updHart p vh (fun h => Hart.wake vh { h with state := .suspended, resume := none })
    else if kind = 0x80000000 then
      match s.xlate p addr.toNat .read (s.hartSite p vh) with
      | .error _ => s.sbiReturn p vh .invalidAddress 0
      | .ok _ => (s.sbiReturn p vh .success 0).updHart p vh (fun h => Hart.wake vh { h with state := .suspended, resume := some (addr, arg) })
    else s.sbiReturn p vh (if (0x10000000 ≤ kind.toNat ∧ kind.toNat < 0x80000000) ∨ 0x90000000 ≤ kind.toNat then .notSupported else .invalidParam) 0
  | .status v => match s.hart? p v with
    | none => s.sbiReturn p vh .invalidParam 0
    | some h => s.sbiReturn p vh .success h.state.code

def execSbiHsm (p : Fin 64) (vh : Nat) (call : HsmCall) (s : State) : Host.Outcome State Fault Refusal :=
  .next (if s.coreRuns p vh then s.sbiHsm p vh call else s)

/-- SBI_SYSTEM_RESET: the partition's cores restart, and nothing else. -/
def execSbiSystemReset (p : Fin 64) (vh : Nat) (kind : BitVec 32) (s : State) : Host.Outcome State Fault Refusal :=
  .next (if s.coreRuns p vh then
      (if kind.toNat ≤ 2 then (s.stopCores p).startHart0 p else s.sbiReturn p vh .invalidParam 0)
    else s)

end Sys2Proof.Machine
end

