-- ==== Sys2Proof/Machine/Debug.lean ====
section
/-! DEFINITION. Hooks and inspection (R393 to R396), counter readout (R398, R399), the sampler (R400, R401), swatch readout (R402, R404), the log and trace rings (R405, R406). -/
namespace Sys2Proof.Machine

/-- Does an access of a requester reach the register space at all? -/
def State.reqOpen (s : State) : Requester → Bool
  | .pf h => s.answers && s.portUp h
  | .vf h _ => s.answers && s.portUp h
  | .core _ => s.answers
  | .runtime | .runtimeVf _ _ => s.answers

/-- A read by a view of a partition's registers: 0 where the view reaches nothing (R316, R440), all ones where the module does not answer. -/
def State.viewRead (s : State) (v : View) (p : Nat) (f : State → Word32 × State) : State :=
  if s.viewOpen v p then
    let (x, s) := f s
    s.emit (.read x)
  else s.emit (.read (if s.answers then 0 else 0xFFFFFFFF))

/-- The tenant's own views; the operator window hides hooks, inspection and swatches (R440). -/
def State.tenantOpen (s : State) (v : View) (p : Nat) : Bool := s.viewOpen v p && decide (v ≠ .operator)

/-! ### Hooks (R394, R395) -/

/-- HOOK_DRAINED: every running op of the partition has stopped. -/
def execHookDrained (p : Fin 64) (s : State) : Host.Outcome State Fault Refusal :=
  .next (if s.hookState p = 1 ∧ s.atRest (fun j => decide (j.part = p.val)) then s.setField (.part p .hookStatus) 17 16 2 else s)

/-- RESUME: only while STATE is halted. The stopped ops go on, and the hooked op is dispatched next. -/
def State.hookResume (s : State) (p : Nat) : State :=
  if s.hookState p = 2 then
    let s := match (s.part p).hookOp with
      | some (j, i) => s.updOp ⟨j, i⟩ (fun r => { r with resumed := true })
      | none => s
    (s.setField (pr p .hookStatus) 17 16 0).unhalt p
  else s

def execHookResume (view : View) (p : Fin 64) (s : State) : Host.Outcome State Fault Refusal :=
  .next (if s.tenantOpen view p then s.hookResume p else s)

/-! ### Inspection (R396) -/

/-- Does an op whose pattern the runtime builds stand on a tile? Its streams, queues, semaphores and scratchpad read as free values (log entry 12). -/
def State.opaqueTile (s : State) (t : Nat) : Bool :=
  match (s.tile t).op with
  | some (j, i) => (match s.op? ⟨j, i⟩ with
    | some (_, r) => decide (oeOpcode r.entry ≠ 0x7F)
    | none => false)
  | none => false

/-- What a word of a tile shows under an op whose pattern the runtime builds: the same at each read of an execution (log entry 12). -/
def State.patternWord (s : State) (t space w : Nat) : Nat :=
  match (s.tile t).op with
  | some (j, i) => (match s.op? ⟨j, i⟩ with
    | some (_, r) => Config.pattern r.stamp t space w
    | none => 0)
  | none => 0

/-- QSTAT_n and SEM_n as such an op leaves them, in the ranges of their fields. -/
def State.patternQstat (s : State) (t n : Nat) : Word32 :=
  let v := s.patternWord t 3 n
  BitVec.ofNat 32 (v % 17 + v / 17 % 16 * 2 ^ 8 + v / 272 % 16 * 2 ^ 12 + v / 4352 % 33 * 2 ^ 16)
def State.patternSem (s : State) (t n : Nat) : Word32 := (semReg t n).written 0 (BitVec.ofNat 32 (s.patternWord t 3 (64 + n)))

/-- QSTAT_n (R188). -/
def State.qstat (s : State) (t n : Nat) : Word32 :=
  let q := (s.tile t).queue n
  if s.opaqueTile t then s.patternQstat t n
  else BitVec.ofNat 32 (q.committed + q.prodSlot * 2 ^ 8 + q.consSlot * 2 ^ 12 + q.fifo.length * 2 ^ 16)

/-- SEM_n of a tile. -/
def State.semWord (s : State) (t n : Nat) : Word32 := if s.opaqueTile t then s.patternSem t n else s.reg (semReg t n)

/-- Words of the spaces. -/
def inspSize : Nat → Nat
  | 0 => 1048576
  | 1 => 3145728
  | 2 => 192
  | _ => 96

/-- A word of the state of stream `k`. -/
def Stream.word (x : Stream) (k w : Nat) : Nat :=
  if w = 0 then x.pc
  else if w ≤ 8 then x.row (w - 1)
  else if w = 9 then ((List.range 4).map (fun c => if x.compare c then 2 ^ c else 0)).sum
  else if w = 10 ∧ k = 2 then x.vlNow
  else 0

/-- A word of a space of a tile (R396); words that it does not name read zero. -/
def State.inspWord (s : State) (t space w : Nat) : Word32 :=
  match space with
  | 0 => if s.opaqueTile t then BitVec.ofNat 32 (s.patternWord t 0 w) else BitVec.ofNat 32 (leNat (getBytes (s.tile t).scratch (4 * w) 4))
  | 1 => BitVec.ofNat 32 (leNat (getBytes (s.tile t).stash (4 * w) 4))
  | 2 =>
    if s.opaqueTile t then
      (if 11 ≤ w % 32 ∨ (w % 32 = 10 ∧ w / 32 ≠ 2) then 0 else if w % 32 = 9 then BitVec.ofNat 32 (s.patternWord t 2 w % 16) else BitVec.ofNat 32 (s.patternWord t 2 w))
    else BitVec.ofNat 32 ((s.stream t (w / 32)).word (w / 32) (w % 32))
  | _ => if w < 48 then s.qstat t w else if 64 ≤ w then s.semWord t (w - 64) else 0

/-- Is a tile of the partition under scrub (R324)? -/
def State.tileScrubbed (s : State) (p t : Nat) : Bool :=
  match (s.part p).frog with
  | some f => (f.whole && decide (f.step ≠ 0)) || f.tiles.contains t
  | none => false

/-- INSP_DATA. -/
def State.inspect (s : State) (p : Nat) : Word32 × State :=
  let sel := s.reg (pr p .inspSel)
  let space := bits sel 26 24
  let w := bits (s.reg (pr p .inspOffset)) 23 0
  if s.hookState p ≠ 2 then (0, s)
  else match (s.partTiles p)[bits sel 8 0]? with
  | none => (0, s)
  | some t =>
    if s.tileScrubbed p t then (0, s)
    else if inspSize space ≤ w then (0, s.stick p .bounds)
    else (s.inspWord t space w, s)

def execInspDataRead (view : View) (p : Fin 64) (s : State) : Host.Outcome State Fault Refusal :=
  .next (if view = .operator then s.viewRead view p (fun s => (0, s)) else s.viewRead view p (fun s => s.inspect p))

/-! ### Counter readout (R399) -/

/-- The counter that OP_CNT_SEL selects. -/
def State.opCounter (s : State) : BitVec 64 × State :=
  let sel := s.reg (.glob .opCntSel)
  let n := bits sel 15 0
  let p := bits sel 21 16
  if 0x8000 ≤ n then s.moduleCounter n
  else if (s.part p).state ≠ .active then (0, s)
  else s.counter p n

/-- OP_CNT_LO: the low half, and the high half latched. -/
def State.opCntRead (s : State) : Word32 × State :=
  let (v, s) := s.opCounter
  (v.truncate 32, s.setReg (.glob .opCntHi) (BitVec.ofNat 32 (v.toNat / 2 ^ 32)))

/-- OP_CNT_LO_READ: no virtual function or tenant core reaches it (R441). -/
def execOpCntLoRead (req : Requester) (s : State) : Host.Outcome State Fault Refusal :=
  .next (if s.reqOpen req then
      (match req with
        | .vf _ _ | .core _ => s.emit (.read 0)
        | _ => let (v, s) := s.opCntRead; s.emit (.read v))
    else s.emit (.read 0xFFFFFFFF))

/-! ### Swatch readout (R402, R404) -/

/-- SWATCH_SEQ_n: the count, and the four digest words latched. -/
def State.swatchSeqRead (s : State) (p : Nat) (n : Fin 16) : Word32 × State :=
  (s.reg (pr p (.swatchSeq n)), (swatchWords n).foldl (fun s r => s.setReg (pr p r) (s.act (pr p r))) s)

def execSwatchSeqRead (view : View) (p : Fin 64) (n : Fin 16) (s : State) : Host.Outcome State Fault Refusal :=
  .next (if view = .operator then s.viewRead view p (fun s => (0, s)) else s.viewRead view p (fun s => s.swatchSeqRead p n))

/-- A word of the key, kept until SWATCH_KEY_3 installs the four. -/
def State.swatchKeyWrite (s : State) (p : Nat) (k : Fin 4) (v : Word32) : State := s.setReg (pr p (.swatchKey k)) v

/-- A write of SWATCH_KEY_3: the four words become H. -/
def State.swatchInstall (s : State) (p : Nat) (v : Word32) : State :=
  let s := s.swatchKeyWrite p 3 v
  let word := fun (k : Fin 4) => (s.reg (pr p (.swatchKey k))).toNat * 2 ^ (32 * k.val)
  s.updPart p (fun x => { x with swatchH := word 0 + word 1 + word 2 + word 3 })

def execSwatchKeyInstall (view : View) (p : Fin 64) (value : BitVec 32) (s : State) : Host.Outcome State Fault Refusal :=
  .next (if s.tenantOpen view p then s.swatchInstall p value else s)

/-! ### The sampler (R400, R401) -/

/-- SMP_CFG.ENABLE. -/
def State.sampling (s : State) (p : Nat) : Bool := bit (s.reg (pr p .smpCfg)) 31

/-- A write of SMP_CFG: while sampling, only ENABLE can be cleared; a write of 1 is discarded (R12). Enabling starts at index 0. -/
def State.smpCfgWrite (s : State) (p : Nat) (v : Word32) : State :=
  let r := pr p .smpCfg
  if s.sampling p then (if bit v 31 then s.malformed p else s.setField r 31 31 0)
  else if 4 ≤ bits v 27 24 ∧ 1 ≤ bits v 19 0 ∧ bits v 19 0 ≤ 1000000 then
    let s := s.setReg r (r.written (s.reg r) v)
    if bit v 31 then (s.setReg (pr p .smpPtr) 0).updPart p (fun x => { x with smpLost := 0 }) else s
  else s.malformed p

def execSamplerEnable (view : View) (p : Fin 64) (value : BitVec 32) (s : State) : Host.Outcome State Fault Refusal :=
  .next (if s.viewOpen view p then s.smpCfgWrite p value else s)

/-- The six counters of a sample, as they stand. -/
def State.sampleCounters (s : State) (p : Nat) : Nat × State :=
  ([0, 1, 2, 3, 4, 5]).foldl (fun (acc : Nat × State) i =>
    let (sum, s) := acc
    let sel := s.reg (pr p (.smpSel ⟨i / 2 % 3, Nat.mod_lt _ (by decide)⟩))
    let (v, s) := s.counter p (if i % 2 = 0 then bits sel 15 0 else bits sel 31 16)
    (sum + v.toNat * 2 ^ (64 * i + 128), s)) (0, s)

/-- A sample record is due. -/
def State.sample (s : State) (p : Nat) : State :=
  let n := 2 ^ bits (s.reg (pr p .smpCfg)) 27 24
  let ptr := s.reg (pr p .smpPtr)
  let wr := bits ptr 31 16
  if (wr + 1) % n = bits ptr 15 0 then s.updPart p (fun x => { x with smpLost := min (x.smpLost + 1) 0xFFFF })
  else
    let (cs, s) := s.sampleCounters p
    let base := (s.reg (pr p .smpBaseLo)).toNat + (s.reg (pr p .smpBaseHi)).toNat * 2 ^ 32
    match s.writeVA p (base + 64 * wr) (leBytes 64 (s.clock.toNat + (s.part p).smpLost * 2 ^ 64 + cs)) with
    | .ok s => (s.setField (pr p .smpPtr) 31 16 ((wr + 1) % n)).updPart p (fun x => { x with smpLost := 0 })
    | .error f => ((s.setField (pr p .smpCfg) 31 31 0).stick p f.status).capture p 9 f

/-- SAMPLE_RECORD. -/
def execSampleRecord (p : Fin 64) (s : State) : Host.Outcome State Fault Refusal :=
  .next (if s.answers && decide (s.power.state = .m0) && s.partOpen p && s.sampling p then s.sample p else s)

/-! ### Log and trace rings (R405, R406) -/

/-- A write of the CFG register of a path, by the enable rule of R400. -/
def State.pathCfgWrite (s : State) (h : Fin 4) (r : PathRegs) (v : Word32) : State :=
  let c := Reg.hank h r.cfg
  if s.pathEnabled h r then (if bit v 31 then s else s.setField c 31 31 0)
  else if 6 ≤ bits v 3 0 then
    let s := s.setReg c (c.written (s.reg c) v)
    if bit v 31 then s.setReg (.hank h r.ptr) 0 else s
  else s

def execLogEnable (h : Fin 4) (value : BitVec 32) (s : State) : Host.Outcome State Fault Refusal :=
  .next (if s.hankOpen h then s.pathCfgWrite h logPath value else s)

def execTraceEnable (h : Fin 4) (value : BitVec 32) (s : State) : Host.Outcome State Fault Refusal :=
  .next (if s.hankOpen h then s.pathCfgWrite h tracePath value else s)

/-- TRACE_MARKER: the marker that is owed, once two entries are free. -/
def execTraceMarker (h : Fin 4) (s : State) : Host.Outcome State Fault Refusal :=
  .next (if (s.hank h).running then s.traceMark h else s)

end Sys2Proof.Machine
end

