-- ==== Sys2Proof/Machine/Curves.lean ====
section
/-! DEFINITION. Short-Weierstrass curves over a prime field, ECDSA and the primality tests of R332 to R335. -/
namespace Sys2Proof.Machine

/-! ### Points: `none` is the point at infinity -/

abbrev Point := Option (Nat × Nat)

/-- Does (x, y) satisfy y² = x³ + ax + b? -/
def PkeCurve.has (c : PkeCurve) (x y : Nat) : Bool := decide (y * y % c.p = (x * x % c.p * x + c.a * x + c.b) % c.p)

/-- Twice a point. -/
def PkeCurve.double (c : PkeCurve) : Point → Point
  | none => none
  | some (x, y) =>
    if y % c.p = 0 then none
    else
      let l := (3 * x * x + c.a) * invMod c.p (2 * y % c.p) % c.p
      let x3 := subMod c.p (l * l % c.p) (2 * x % c.p)
      some (x3, subMod c.p (l * subMod c.p x x3 % c.p) y)

/-- The sum of two points. -/
def PkeCurve.add (c : PkeCurve) : Point → Point → Point
  | none, q => q
  | p, none => p
  | some (x1, y1), some (x2, y2) =>
    if x1 = x2 then (if y1 = y2 then c.double (some (x1, y1)) else none)
    else
      let l := subMod c.p y2 y1 * invMod c.p (subMod c.p x2 x1) % c.p
      let x3 := subMod c.p (subMod c.p (l * l % c.p) x1) x2
      some (x3, subMod c.p (l * subMod c.p x1 x3 % c.p) y1)

/-- k · P over the low `fuel` bits of k. -/
def PkeCurve.mulFuel (c : PkeCurve) : Nat → Nat → Point → Point
  | 0, _, _ => none
  | fuel + 1, k, p =>
    if k = 0 then none
    else
      let r := c.mulFuel fuel (k / 2) (c.double p)
      if k % 2 = 1 then c.add p r else r

def PkeCurve.mul (c : PkeCurve) (k : Nat) (p : Point) : Point := c.mulFuel (k.log2 + 1) k p

def PkeCurve.base (c : PkeCurve) : Point := some (c.gx, c.gy)

/-- Bytes of the curve's length. -/
def PkeCurve.bytes (c : PkeCurve) : Nat := (bitLength c.p + 7) / 8

/-! ### The curves of R332 (FIPS 186-5) -/

def p256 : PkeCurve :=
  { p := 0xffffffff00000001000000000000000000000000ffffffffffffffffffffffff
    a := 0xffffffff00000001000000000000000000000000fffffffffffffffffffffffc
    b := 0x5ac635d8aa3a93e7b3ebbd55769886bc651d06b0cc53b0f63bce3c3e27d2604b
    n := 0xffffffff00000000ffffffffffffffffbce6faada7179e84f3b9cac2fc632551
    gx := 0x6b17d1f2e12c4247f8bce6e563a440f277037d812deb33a0f4a13945d898c296
    gy := 0x4fe342e2fe1a7f9b8ee7eb4a7c0f9e162bce33576b315ececbb6406837bf51f5 }

def p384 : PkeCurve :=
  { p := 0xfffffffffffffffffffffffffffffffffffffffffffffffffffffffffffffffeffffffff0000000000000000ffffffff
    a := 0xfffffffffffffffffffffffffffffffffffffffffffffffffffffffffffffffeffffffff0000000000000000fffffffc
    b := 0xb3312fa7e23ee7e4988e056be3f82d19181d9c6efe8141120314088f5013875ac656398d8a2ed19d2a85c8edd3ec2aef
    n := 0xffffffffffffffffffffffffffffffffffffffffffffffffc7634d81f4372ddf581a0db248b0a77aecec196accc52973
    gx := 0xaa87ca22be8b05378eb1c71ef320ad746e1d3b628ba79b9859f741e082542a385502f25dbf55296c3a545e3872760ab7
    gy := 0x3617de4a96262c6f5d9e98bf9292dc29f8f41dbd289a147ce9da3113b5f0b8c00a60b1ce1d7e819d7a431d7c90ea0e5f }

def p521 : PkeCurve :=
  { p := 2 ^ 521 - 1
    a := 2 ^ 521 - 4
    b := 0x0051953eb9618e1c9a1f929a21a0b68540eea2da725b99b315f3b8b489918ef109e156193951ec7e937b1652c0bd3bb1bf073573df883d2c34f1ef451fd46b503f00
    n := 0x1fffffffffffffffffffffffffffffffffffffffffffffffffffffffffffffffffa51868783bf2f966b7fcc0148f709a5d03bb5c9b8899c47aebb6fb71e91386409
    gx := 0x00c6858e06b70404e9cd9e3ecb662395b4429c648139053fb521f828af606b4d3dbaa14b5e77efe75928fe1dc127a2ffa8de3348b3c1856a429bf97e7e31c2e5bd66
    gy := 0x011839296a789a3bc0045c8a5fb42c7d1bd998f54449579b446817afbd17273e662c97ee72995ef42640c550b9013fad0761353c7086a272c24088be94769fd16650 }

/-! ### Primality (R333) -/

/-- One Miller–Rabin round of an odd `n` to base `b`. -/
def mrRound (n b : Nat) : Bool :=
  let (s, d) := twoPart (n.log2 + 1) (n - 1)
  let x := powMod n b d
  decide (x = 1) || !mrRounds n s x

/-- The Jacobi symbol (a/n) for odd n; `fuel` bounds the steps. -/
def jacobi : Nat → Nat → Nat → Int
  | 0, _, n => if n = 1 then 1 else 0
  | fuel + 1, a, n =>
    let a := a % n
    if a = 0 then (if n = 1 then 1 else 0)
    else
      let (t, o) := twoPart (a.log2 + 1) a
      let s : Int := if t % 2 = 1 ∧ (n % 8 = 3 ∨ n % 8 = 5) then -1 else 1
      let f : Int := if o % 4 = 3 ∧ n % 4 = 3 then -1 else 1
      s * f * jacobi fuel n o

/-- The first D of 5, -7, 9, -11, ... with (D/n) = -1 (log entry 14). -/
def lucasD (n : Nat) : Nat → Nat → Int
  | 0, k => k
  | fuel + 1, k =>
    let d : Int := if k / 2 % 2 = 0 then k else -k
    if jacobi (2 * n.log2 + 4) (d % (n : Int)).toNat n = -1 then d else lucasD n fuel (k + 2)

/-- Half of a residue modulo an odd n. -/
def halfMod (n x : Nat) : Nat := if x % 2 = 0 then x / 2 % n else (x + n) / 2 % n

/-- U_k, V_k and Q^k of the Lucas sequence with P = 1, over the bits of k from the top. -/
def lucasFuel (n d q : Nat) : Nat → Nat → Nat × Nat × Nat
  | 0, _ => (0, 2 % n, 1 % n)
  | fuel + 1, k =>
    if k = 0 then (0, 2 % n, 1 % n)
    else
      let (u, v, qk) := lucasFuel n d q fuel (k / 2)
      let u2 := u * v % n
      let v2 := subMod n (v * v % n) (2 * qk % n)
      let q2 := qk * qk % n
      if k % 2 = 1 then (halfMod n (u2 + v2), halfMod n (d * u2 + v2), q2 * q % n) else (u2, v2, q2)

/-- V_{2^r k} for r = 0, 1, ...: is one of them zero? -/
def lucasZero (n : Nat) : Nat → Nat → Nat → Bool
  | 0, _, _ => false
  | s + 1, v, qk => decide (v = 0) || lucasZero n s (subMod n (v * v % n) (2 * qk % n)) (qk * qk % n)

/-- The strong Lucas test with Selfridge's parameters (log entry 14). -/
def strongLucas (n : Nat) : Bool :=
  if n % 2 = 0 then decide (n = 2)
  else if n.sqrt * n.sqrt = n then false
  else
    let d := lucasD n 200 5
    let q : Int := (1 - d) / 4
    let dm := (d % (n : Int)).toNat
    let qm := (q % (n : Int)).toNat
    let (s, k) := twoPart (n.log2 + 2) (n + 1)
    let (u, v, qk) := lucasFuel n dm qm (n.log2 + 2) k
    decide (u = 0) || lucasZero n s v qk

/-- A number passes the tests of R333 with the given bases. -/
def provenPrime (n : Nat) (bases : List Nat) : Bool :=
  decide (3 < n) && decide (n % 2 = 1) && bases.all (fun b => mrRound n (2 + b % (n - 3))) && strongLucas n

/-- The conditions of R333 on a curve. -/
def curveOk (c : PkeCurve) (bases : List Nat) : Bool :=
  let len := bitLength c.p
  let t : Int := (c.n : Int) - (c.p + 1 : Nat)
  decide (160 ≤ len ∧ len ≤ 576) && decide (c.a < c.p ∧ c.b < c.p ∧ c.gx < c.p ∧ c.gy < c.p) &&
  provenPrime c.p (bases.take 64) && provenPrime c.n (bases.drop 64) &&
  decide ((4 * c.a * c.a % c.p * c.a + 27 * c.b * c.b) % c.p ≠ 0) && c.has c.gx c.gy &&
  decide (t * t ≤ 4 * c.p) && decide (c.n ≠ c.p) && (c.mul c.n c.base).isNone

/-! ### ECDSA (FIPS 186-5) -/

/-- The leftmost `bits` bits of a number of `len` bytes given in hash-output order. -/
def leftmost (bs : List Byte) (bits : Nat) : Nat :=
  let v := bs.foldl (fun acc b => acc * 256 + b.toNat) 0
  v / 2 ^ (8 * bs.length - bits)

/-- e: the leftmost min(bitlen n, 8 HASH_LEN) bits of the digest (R334). -/
def digestInt (c : PkeCurve) (bs : List Byte) : Nat := leftmost bs (min (bitLength c.n) (8 * bs.length))

/-- r and s for a secret k. -/
def ecdsaSign (c : PkeCurve) (d e k : Nat) : Nat × Nat :=
  match c.mul k c.base with
  | some (x, _) =>
    let r := x % c.n
    (r, invMod c.n k * ((e + r * d) % c.n) % c.n)
  | none => (0, 0)

/-- u1 G + u2 Q of a verification. -/
def ecdsaPoint (c : PkeCurve) (q : Nat × Nat) (e r s : Nat) : Point :=
  let w := invMod c.n s
  c.add (c.mul (e * w % c.n) c.base) (c.mul (r * w % c.n) (some q))

/-- A private value from bitlen(n) + 64 random bits (FIPS 186-5, A.2.1). -/
def privateOf (c : PkeCurve) (rnd : Nat) : Nat := rnd % 2 ^ (bitLength c.n + 64) % (c.n - 1) + 1

end Sys2Proof.Machine
end

