-- ==== Sys2Proof/Machine/Pke.lean ====
section
/-! DEFINITION. The public-key engine (R329 to R346): its ring, the checks and hazards of a command, the operations and their completions. -/
namespace Sys2Proof.Machine

/-! ### Entries (R344) -/

def PkeEntry.num (e : PkeEntry) : Nat := e.raw.toNat
def PkeEntry.op (e : PkeEntry) : Nat := bits e.raw 7 0
def PkeEntry.curve (e : PkeEntry) : Nat := bits e.raw 10 8
def PkeEntry.wipeCurves (e : PkeEntry) : Bool := bit e.raw 11
def PkeEntry.exportable (e : PkeEntry) : Bool := bit e.raw 12
def PkeEntry.secret (e : PkeEntry) : Bool := bit e.raw 13
def PkeEntry.in0 (e : PkeEntry) : Nat := bits e.raw 21 16
def PkeEntry.in1 (e : PkeEntry) : Nat := bits e.raw 29 24
def PkeEntry.in2 (e : PkeEntry) : Nat := bits e.raw 37 32
def PkeEntry.out0 (e : PkeEntry) : Nat := bits e.raw 45 40
def PkeEntry.out1 (e : PkeEntry) : Nat := bits e.raw 53 48
def PkeEntry.hashLen (e : PkeEntry) : Nat := bits e.raw 62 56
def PkeEntry.hostAddr (e : PkeEntry) : Nat := bits e.raw 127 64
def PkeEntry.first (e : PkeEntry) : Nat := bits e.raw 133 128
def PkeEntry.last (e : PkeEntry) : Nat := bits e.raw 141 136

/-- The slots that an operation reads (R334). -/
def PkeEntry.reads (e : PkeEntry) : List Nat :=
  match e.op with
  | 0x02 | 0x04 => [e.in0, e.in1]
  | 0x03 | 0x05 => [e.in0, e.in1, e.in2]
  | 0x09 => [e.in0]
  | _ => []

/-- The slots that an operation writes; a WIPE writes its range. -/
def PkeEntry.writes (e : PkeEntry) : List Nat :=
  match e.op with
  | 0x01 => [e.out0, e.out1]
  | 0x02 | 0x04 | 0x08 => [e.out0]
  | 0x06 => (List.range 63).filter (fun i => decide (e.first ≤ i ∧ i ≤ e.last))
  | _ => []

def PkeEntry.slots (e : PkeEntry) : List Nat := e.reads ++ e.writes

/-- Does the operation compute on a curve? -/
def PkeEntry.onCurve (e : PkeEntry) : Bool := decide (1 ≤ e.op ∧ e.op ≤ 5)

/-- Does an operation need random data (R334, R338, R339)? -/
def pkeRandom (op : Nat) : Bool := [0x01, 0x02, 0x04, 0x05].contains op

/-! ### The engine of a hank die -/

def Pke.slot (x : Pke) (i : Nat) : PkeSlot := Tab.get (fun _ => {}) x.slots i
def Pke.setSlot (x : Pke) (i : Nat) (v : PkeSlot) : Pke := { x with slots := Tab.set (fun _ => {}) x.slots i v }
def Pke.unit (x : Pke) (u : Nat) : Option PkeRun := Tab.get (fun _ => none) x.units u
def Pke.setUnit (x : Pke) (u : Nat) (r : Option PkeRun) : Pke := { x with units := Tab.set (fun _ => none) x.units u r }

/-- The curve of an identifier (R332). -/
def Pke.curveOf (x : Pke) (id : Nat) : Option PkeCurve :=
  match id with
  | 0 => some p256
  | 1 => some p384
  | 2 => some p521
  | _ => Tab.get (fun _ => none) x.curves id

def State.pke (s : State) (h : Nat) : Pke := (s.hank h).pke
def State.updPke (s : State) (h : Nat) (f : Pke → Pke) : State := s.updHank h (fun k => { k with pke := f k.pke })

/-- Does the engine of hank die `h` serve a ring: the die runs, and the lifecycle gives the operator a way to it (R343)? -/
def State.pkeOpen (s : State) (h : Nat) : Bool := s.hankOpen h && decide (s.lifecycle ≠ .provisioned)

/-! ### The ring (R343) -/

def pkeRegs (h : Fin 4) : List Reg := [.hank h .pkeRingBaseLo, .hank h .pkeRingBaseHi, .hank h .pkeRingCfg]

def State.pkeSize (s : State) (h : Fin 4) : Nat := 2 ^ bits (s.act (.hank h .pkeRingCfg)) 4 0
def State.pkeBase (s : State) (h : Fin 4) : Nat :=
  (s.act (.hank h .pkeRingBaseLo)).toNat + (s.act (.hank h .pkeRingBaseHi)).toNat * 2 ^ 32
def State.pkeEnabled (s : State) (h : Fin 4) : Bool := bit (s.reg (.hank h .pkeRingCfg)) 31

/-- Word 12 of an entry, written last, and the message on VECTOR (R345). -/
def State.pkeComplete (s : State) (h : Fin 4) (e : PkeEntry) (status : Nat) (verdict : Bool) : State :=
  if s.portUp h then
    let v := bits (s.reg (.hank h .pkeRingCfg)) 11 8
    (s.writeHost h (s.pkeBase h + 64 * e.index + 48) (leBytes 4 (1 + (if verdict then 2 else 0) + status * 2 ^ 16))).msixSend h v (.msixPf h v)
  else s

/-- Output slots of an operation that did not end with DONE lose VALID (R341). -/
def Pke.invalidate (x : Pke) (is : List Nat) : Pke := is.foldl (fun x i => x.setSlot i { x.slot i with valid := false }) x

/-- Is the operation the operator's (R345)? -/
def PkeRun.operator (r : PkeRun) : Bool := r.port.isNone

/-- An operator's operation in unit `u` ends with PKE_ABORTED (R342). -/
def State.pkeAbort (s : State) (h : Fin 4) (u : Nat) : State :=
  match (s.pke h).unit u with
  | some r =>
    if r.operator then (s.updPke h (fun x => (x.setUnit u none).invalidate r.entry.writes)).pkeComplete h r.entry 0x55 false else s
  | none => s

/-! ### Operations of the runtime (R350, R412) -/

/-- An entry of the runtime: the operation on P-384, with no slot of the operator. -/
def runtimeEntry (op : Nat) : PkeEntry := { raw := BitVec.ofNat 512 (op + 2 ^ 8 + 0x3F * (2 ^ 16 + 2 ^ 24 + 2 ^ 32 + 2 ^ 40 + 2 ^ 48)), index := 0 }

/-- The lowest free unit. -/
def Pke.freeUnit (x : Pke) : Option Nat := (List.range 8).find? (fun u => (x.unit u).isNone)

/-- Operations of a port's exchange that wait take free units; `fuel` bounds their number. -/
def State.pkeGive (h q : Nat) : Nat → State → State
  | 0, s => s
  | n + 1, s =>
    match (s.port q).idle, (s.pke h).freeUnit with
    | op :: rest, some u =>
      let r : PkeRun := { entry := runtimeEntry op, params := some p384, port := some (q, (s.port q).exchange) }
      State.pkeGive h q n ((s.updPke h (fun x => x.setUnit u (some r))).updPort q (fun x => { x with idle := rest }))
    | _, _ => s

/-- Runtime commands take the free units of an instance ahead of the operator's (R350). -/
def State.pkeRuntime (s : State) (h : Nat) : State := State.pkeGive h (2 * h + 1) 8 (State.pkeGive h (2 * h) 8 s)

def execPkeRingEnable (h : Fin 4) (s : State) : Host.Outcome State Fault Refusal :=
  .next (if !s.pkeOpen h || s.pkeEnabled h then s
    else (s.setField (.hank h .pkeRingCfg) 31 31 1).startCommit (.pkeRing h) (pkeRegs h))

/-- Disabling: the operations in flight are aborted, a waiting commit is withdrawn, ACTIVE clears after the completions. -/
def State.pkeDisable (s : State) (h : Fin 4) : State :=
  let s := (s.setField (.hank h .pkeRingCfg) 31 31 0).dropCommit (.pkeRing h)
  let s := (List.range 8).foldl (fun s u => s.pkeAbort h u) s
  let s := (s.pke h).wipes.foldl (fun s e => s.pkeComplete h e 0x55 false) s
  (s.updPke h (fun x => { x with active := false, waiting := none, wipes := [] })).pkeRuntime h

def execPkeRingDisable (h : Fin 4) (s : State) : Host.Outcome State Fault Refusal :=
  .next (if s.pkeOpen h then s.pkeDisable h else s)

/-- Apply or refuse the ring's commit once ACTIVE is 0. -/
def State.pkeApply (s : State) (h : Fin 4) (c : Commit) : State :=
  if (s.pke h).active then s
  else
    let s := s.dropCommit c.group
    let k := bits (snapVal c.values (.hank h .pkeRingCfg)) 4 0
    if 4 ≤ k ∧ k ≤ 10 then
      (s.putActive c.values).updPke h (fun x => { x with active := true, tail := 0, head := 0, fetchStopped := false })
    else (s.setField (.hank h .pkeRingCfg) 31 31 0).setField (.hank h .pkeStatus) 16 16 1

/-- PKE_DB: the new tail; a value beyond the ring is a reserved value (R437). -/
def State.pkeDb (s : State) (h : Fin 4) (v : Word32) : State :=
  let s := if s.pkeEnabled h then s.wake else s
  if (s.pke h).active ∧ bits v 15 0 < s.pkeSize h then s.updPke h (fun x => { x with tail := bits v 15 0 }) else s

def execPkeDb (h : Fin 4) (value : BitVec 32) (s : State) : Host.Outcome State Fault Refusal :=
  .next (if s.pkeOpen h then s.pkeDb h value else s)

/-! ### The checks of R346 -/

/-- Bits of an entry that no field names. -/
def pkeReservedOk (x : Nat) : Bool :=
  decide (nbits x 15 14 = 0) && decide (nbits x 23 22 = 0) && decide (nbits x 31 30 = 0) && decide (nbits x 39 38 = 0) && decide (nbits x 47 46 = 0) &&
  decide (nbits x 55 54 = 0) && decide (nbits x 63 63 = 0) && decide (nbits x 135 134 = 0) && decide (nbits x 383 142 = 0) &&
  decide (nbits x 399 386 = 0) && decide (nbits x 511 416 = 0)

/-- Steps 1 to 5 of R346: the code of the first failure. -/
def State.pkeCheck (s : State) (h : Fin 4) (e : PkeEntry) : Option Nat :=
  let x := s.pke h
  let named := if e.op = 0x06 then [e.first, e.last] else e.slots
  let host := decide (e.op = 0x08) || decide (e.op = 0x09)
  if !(pkeReservedOk e.num && [0x01, 0x02, 0x03, 0x04, 0x05, 0x06, 0x08, 0x09].contains e.op && named.all (fun i => decide (i ≠ 0x3F)) &&
      (decide (e.op ≠ 0x02 ∧ e.op ≠ 0x03) || decide (1 ≤ e.hashLen ∧ e.hashLen ≤ 64)) && (decide (e.op ≠ 0x06) || decide (e.first ≤ e.last))) then some 0x10
  else if host && decide (e.hostAddr % 64 ≠ 0) then some 0x11
  else if named.any (fun i => decide (i < 32)) || (decide (e.op = 0x09) && (x.slot e.in0).secret && !(x.slot e.in0).exportable) then some 0x15
  else if if e.op = 0x05 then decide (e.curve < 3) else (x.curveOf e.curve).isNone then some 0x53
  else if host && !s.portUp h then some 0x14
  else none

/-! ### Hazards and starts (R340, R341) -/

/-- Is a slot of the command written by an operation in flight, or one that it writes read by one? -/
def Pke.hazard (x : Pke) (e : PkeEntry) : Bool :=
  let flight := x.units.filterMap (fun q => q.2.map (·.entry))
  flight.any (fun f => f.writes.any e.slots.contains || f.reads.any e.writes.contains) ||
  x.wipes.any (fun w => w.writes.any e.slots.contains)

/-- Take the next entry of the ring; a failed read stops fetching. -/
def State.pkeFetch (s : State) (h : Fin 4) : State :=
  let x := s.pke h
  if x.waiting.isSome || !x.active || !s.pkeEnabled h || x.fetchStopped || decide (x.head = x.tail) then s
  else if !s.portUp h then (s.setField (.hank h .pkeStatus) 17 17 1).updPke h (fun x => { x with fetchStopped := true })
  else
    let e : PkeEntry := { raw := BitVec.ofNat 512 (leNat (s.readHost h (s.pkeBase h + 64 * x.head) 64)), index := x.head }
    s.updPke h (fun x => { x with waiting := some e, head := (x.head + 1) % s.pkeSize h })

/-- The waiting command is refused, starts, or waits on. -/
def State.pkeStart (s : State) (h : Fin 4) : State :=
  let x := s.pke h
  match x.waiting with
  | none => s
  | some e =>
    let gone := s.updPke h (fun x => { x with waiting := none })
    match s.pkeCheck h e with
    | some code => gone.pkeComplete h e code false
    | none =>
      if e.op = 0x06 then gone.updPke h (fun x => { x with wipes := x.wipes ++ [e] })
      else if x.hazard e then s
      else if e.reads.any (fun i => !(x.slot i).valid) then gone.pkeComplete h e 0x10 false
      else match x.freeUnit with
        | some u => gone.updPke h (fun x => x.setUnit u (some { entry := e, params := if e.op = 0x05 then none else x.curveOf e.curve }))
        | none => s

/-- PKE_COMMAND_START (R340): in ring order, behind what the runtime waits for. -/
def execPkeCommandStart (h : Fin 4) (s : State) : Host.Outcome State Fault Refusal :=
  .next (if s.pkeOpen h && decide (s.power.state = .m0) then ((s.pkeRuntime h).pkeFetch h).pkeStart h else s)

/-! ### Values of slots (R330) -/

/-- The first and the second 72 bytes of a slot. -/
def PkeSlot.lo (v : PkeSlot) : Nat := v.value % 2 ^ 576
def PkeSlot.hi (v : PkeSlot) : Nat := v.value / 2 ^ 576 % 2 ^ 576
def pointValue (x y : Nat) : Nat := x + y * 2 ^ 576

/-- R335 on the inputs of an operation: the first failing row. Integers below `n`, points below `p`. -/
def inputCode (c : PkeCurve) (ints : List PkeSlot) (pairs points : List PkeSlot) : Option Nat :=
  if ints.any (fun v => decide (v.value ≥ c.n)) || pairs.any (fun v => decide (v.lo ≥ c.n ∨ v.hi ≥ c.n)) || points.any (fun v => decide (v.lo ≥ c.p ∨ v.hi ≥ c.p)) then some 0x51
  else if ints.any (fun v => decide (v.value = 0)) || pairs.any (fun v => decide (v.lo = 0 ∨ v.hi = 0)) || points.any (fun v => decide (v.value = 0)) then some 0x50
  else if points.any (fun v => !c.has v.lo v.hi) then some 0x52
  else none

/-- The digest bytes of a slot. -/
def PkeSlot.digest (v : PkeSlot) (n : Nat) : List Byte := (leBytes 144 v.value).take n

/-! ### The operations (R333, R334) -/

/-- Run the operation of unit `u` when it is `op` and has not run; a dead entropy source makes one that needs random data fail (R339).
What an operation of the runtime computes stays in the security block (log entry 11). -/
def State.pkeRun (s : State) (h : Fin 4) (u op : Nat) (f : State → PkeRun → PkeRun × State) : State :=
  match (s.pke h).unit u with
  | some r =>
    if r.entry.op ≠ op ∨ r.done then s
    else
      let (r, s) := if pkeRandom op && !(s.pke h).entropyOk then ({ r with status := 0x54, starved := true }, s)
        else if r.operator then f s r else (r, s)
      s.updPke h (fun x => x.setUnit u (some { r with done := true }))
  | none => s

/-- The slot of an output. -/
def pkeOut (v : Nat) (secret ex : Bool) : PkeSlot := { value := v, valid := true, secret := secret, exportable := ex }

/-- KEYGEN. -/
def keygenWork (s : State) (r : PkeRun) : PkeRun × State :=
  match r.params with
  | some c =>
    let (rnd, s) := s.draw
    let d := privateOf c rnd
    match c.mul d c.base with
    | some (x, y) => ({ r with writes := [(r.entry.out0, pkeOut d true r.entry.exportable), (r.entry.out1, pkeOut (pointValue x y) false false)] }, s)
    | none => ({ r with status := 0x54 }, s)
  | none => (r, s)

def execKeygen (h : Fin 4) (u : Fin 8) (s : State) : Host.Outcome State Fault Refusal := .next (s.pkeRun h u 0x01 keygenWork)

/-- SIGN: a second k when r or s is 0; a second zero is a detected fault (R338). -/
def signWork (h : Nat) (s : State) (r : PkeRun) : PkeRun × State :=
  match r.params with
  | some c =>
    let x := s.pke h
    let d := x.slot r.entry.in0
    match inputCode c [d] [] [] with
    | some code => ({ r with status := code }, s)
    | none =>
      let e := digestInt c ((x.slot r.entry.in1).digest r.entry.hashLen)
      let (k1, s) := s.draw
      let (a, b) := ecdsaSign c d.value e (privateOf c k1)
      if a ≠ 0 ∧ b ≠ 0 then ({ r with writes := [(r.entry.out0, pkeOut (pointValue a b) false false)] }, s)
      else
        let (k2, s) := s.draw
        let (a, b) := ecdsaSign c d.value e (privateOf c k2)
        if a ≠ 0 ∧ b ≠ 0 then ({ r with writes := [(r.entry.out0, pkeOut (pointValue a b) false false)] }, s) else ({ r with status := 0x54 }, s)
  | none => (r, s)

def execSign (h : Fin 4) (u : Fin 8) (s : State) : Host.Outcome State Fault Refusal := .next (s.pkeRun h u 0x02 (signWork h))

/-- VERIFY. -/
def verifyWork (h : Nat) (s : State) (r : PkeRun) : PkeRun × State :=
  match r.params with
  | some c =>
    let x := s.pke h
    let q := x.slot r.entry.in0
    let rs := x.slot r.entry.in2
    match inputCode c [] [rs] [q] with
    | some code => ({ r with status := code }, s)
    | none =>
      let e := digestInt c ((x.slot r.entry.in1).digest r.entry.hashLen)
      match ecdsaPoint c (q.lo, q.hi) e rs.lo rs.hi with
      | none => ({ r with status := 0x56 }, s)
      | some (px, _) => ({ r with verdict := decide (px % c.n = rs.lo) }, s)
  | none => (r, s)

def execVerify (h : Fin 4) (u : Fin 8) (s : State) : Host.Outcome State Fault Refusal := .next (s.pkeRun h u 0x03 (verifyWork h))

/-- ECDH. -/
def ecdhWork (h : Nat) (s : State) (r : PkeRun) : PkeRun × State :=
  match r.params with
  | some c =>
    let x := s.pke h
    let d := x.slot r.entry.in0
    let q := x.slot r.entry.in1
    match inputCode c [d] [] [q] with
    | some code => ({ r with status := code }, s)
    | none => match c.mul d.value (some (q.lo, q.hi)) with
      | none => ({ r with status := 0x56 }, s)
      | some (z, _) => ({ r with writes := [(r.entry.out0, pkeOut z true r.entry.exportable)] }, s)
  | none => (r, s)

def execEcdh (h : Fin 4) (u : Fin 8) (s : State) : Host.Outcome State Fault Refusal := .next (s.pkeRun h u 0x04 (ecdhWork h))

/-- R335 on the inputs of a CURVE_LOAD: a, b and the coordinates of G below p, G not (0, 0), G on the curve (log entry 66). -/
def curveCode (c : PkeCurve) : Option Nat :=
  if c.p ≤ c.a ∨ c.p ≤ c.b ∨ c.p ≤ c.gx ∨ c.p ≤ c.gy then some 0x51
  else if c.gx = 0 ∧ c.gy = 0 then some 0x50
  else if !c.has c.gx c.gy then some 0x52
  else none

/-- CURVE_LOAD (R333): a code of R335, or the rejection by another condition. -/
def curveLoadWork (h : Nat) (s : State) (r : PkeRun) : PkeRun × State :=
  let x := s.pke h
  let pa := x.slot r.entry.in0
  let bn := x.slot r.entry.in1
  let g := x.slot r.entry.in2
  let c : PkeCurve := { p := pa.lo, a := pa.hi, b := bn.lo, n := bn.hi, gx := g.lo, gy := g.hi }
  let (bases, s) := s.drawBelow (2 ^ 576) 128
  match curveCode c with
  | some code => ({ r with status := code }, s)
  | none => if curveOk c bases then ({ r with curve := some (r.entry.curve, c) }, s) else ({ r with status := 0x53 }, s)

def execCurveLoad (h : Fin 4) (u : Fin 8) (s : State) : Host.Outcome State Fault Refusal := .next (s.pkeRun h u 0x05 (curveLoadWork h))

/-- SLOT_LOAD; a failed read of host memory gives XLATE (R346). -/
def slotLoadWork (h : Nat) (s : State) (r : PkeRun) : PkeRun × State :=
  if s.portUp h then
    ({ r with writes := [(r.entry.out0, pkeOut (leNat (s.readHost h r.entry.hostAddr 144)) r.entry.secret r.entry.exportable)] }, s)
  else ({ r with status := 0x14 }, s)

def execSlotLoad (h : Fin 4) (u : Fin 8) (s : State) : Host.Outcome State Fault Refusal := .next (s.pkeRun h u 0x08 (slotLoadWork h))

/-- SLOT_STORE. -/
def slotStoreWork (h : Nat) (s : State) (r : PkeRun) : PkeRun × State :=
  if s.portUp h then ({ r with outBytes := leBytes 144 ((s.pke h).slot r.entry.in0).value }, s) else ({ r with status := 0x14 }, s)

def execSlotStore (h : Fin 4) (u : Fin 8) (s : State) : Host.Outcome State Fault Refusal := .next (s.pkeRun h u 0x09 (slotStoreWork h))

/-! ### WIPE (R342) -/

/-- Is a unit's operation on the range or the curves of a WIPE? -/
def wipeHits (w : PkeEntry) (r : PkeRun) : Bool :=
  r.entry.slots.any w.writes.contains || (w.wipeCurves && r.entry.onCurve && decide (3 ≤ r.entry.curve))

/-- The oldest WIPE in progress: it aborts what is in flight on its range, whose outputs are wiped as well, then zeroes the range. -/
def State.wipeRun (s : State) (h : Fin 4) : State :=
  match (s.pke h).wipes with
  | [] => s
  | w :: rest =>
    let s := (List.range 8).foldl (fun s u => match (s.pke h).unit u with
      | some r => if wipeHits w r then (s.pkeAbort h u).updPke h (fun x => r.entry.writes.foldl (fun x i => x.setSlot i {}) x) else s
      | none => s) s
    let s := s.updPke h (fun x => { (w.writes.foldl (fun x i => x.setSlot i {}) x) with curves := if w.wipeCurves then [] else x.curves, wipes := rest })
    (s.pkeComplete h w 0 false).pkeRuntime h

def execWipe (h : Fin 4) (s : State) : Host.Outcome State Fault Refusal := .next (s.wipeRun h)

/-! ### Completion (R336, R338, R341, R345) -/

/-- A failed check, a second zero and an error in the operand memory are recorded with their instance and unit (R338); a dead entropy
source raises its own alarm (R339). -/
def State.pkeFault (s : State) (h : Fin 4) (u : Nat) (r : PkeRun) : State :=
  if r.status = 0x54 ∧ r.starved = false then s.reportLog (pkeUnit h u) (pkeUnit h u) 0x13 r.entry.op else s

/-- An operation of a port's exchange ends: the exchange goes on without it, or fails (R409, R412). One of an earlier exchange changes nothing. -/
def State.exchangeStep (s : State) (q n : Nat) (r : PkeRun) : State :=
  let x := s.port q
  if x.exchange ≠ n ∨ !x.work.contains r.entry.op then s
  else if r.status = 0 then s.setPort q { x with work := x.work.erase r.entry.op }
  else if x.phase = 3 then s.phaseFailed q
  else s.linkLost q 2

/-- PKE_OP_COMPLETE: T has passed. `fault`: a self-check failed, or the operand memory had an uncorrectable error. -/
def State.pkeEnd (s : State) (h : Fin 4) (u : Nat) (fault : Bool) : State :=
  match (s.pke h).unit u with
  | none => s
  | some r =>
    if !r.done then s
    else
      let r := if fault then { r with status := 0x54, starved := false } else r
      let s := s.pkeFault h u r
      match r.port with
      | some (q, n) => ((s.updPke h (fun x => x.setUnit u none)).exchangeStep q n r).pkeRuntime h
      | none => State.pkeRuntime (if r.status = 0 then
        let s := s.updPke h (fun x =>
          let x := r.writes.foldl (fun x (i, v) => x.setSlot i v) (x.setUnit u none)
          match r.curve with
          | some (id, c) => { x with curves := Tab.set (fun _ => none) x.curves id (some c) }
          | none => x)
        let s := if r.outBytes ≠ [] ∧ s.portUp h then s.writeHost h r.entry.hostAddr r.outBytes else s
        s.pkeComplete h r.entry 0 r.verdict
      else (s.updPke h (fun x => (x.setUnit u none).invalidate r.entry.writes)).pkeComplete h r.entry r.status false) h

def execPkeOpComplete (h : Fin 4) (u : Fin 8) (fault : Bool) (s : State) : Host.Outcome State Fault Refusal := .next (s.pkeEnd h u fault)

/-- ENTROPY_HEALTH_FAIL (R339). -/
def execEntropyHealthFail (h : Fin 4) (s : State) : Host.Outcome State Fault Refusal :=
  .next (if (s.hank h).running && (s.pke h).entropyOk then (s.updPke h (fun x => { x with entropyOk := false })).reportAlarm (pkeUnit h 0) (hankUnit h) 0x14 0 else s)

end Sys2Proof.Machine
end

