-- ==== Sys2Proof/Machine/Spdm.lean ====
section
/-! DEFINITION. The SPDM responder of each port and its IDE key stores (R347 to R351). Contents of the security block are abstract (log entry 11). -/
namespace Sys2Proof.Machine

/-! ### Readiness -/

/-- Does port `h` answer SPDM over DOE? -/
def State.spdmOpen (s : State) (h : Nat) : Bool := s.answers && s.portUp h

/-- The identity key of this device (log entry 11). -/
def identityKey : Nat := Config.derived 347 0

/-- The certificate of a key: what it certifies and the measurements that it covers (log entry 11). -/
def certify (key : Nat) (measured : List Nat) : Nat := measured.foldl Config.derived key

/-- Is there a chain on hank die `h`: its alias certificate exists, the stored certificate is that of the identity key, and the lifecycle
gives one (R347, R351)? -/
def State.hasChain (s : State) (h : Nat) : Bool :=
  s.attested && s.identityCert && (s.hank h).aliasCert.isSome && decide (s.lifecycle ≠ .manufacturing)

/-- Can hank die `h` sign: a chain, and random data for the signature (R339)? -/
def State.canSign (s : State) (h : Nat) : Bool := s.hasChain h && (s.pke h).entropyOk

def State.updSpdm (s : State) (h : Nat) (f : Spdm → Spdm) : State := s.updHank h (fun k => { k with spdm := f k.spdm })
def State.spdm (s : State) (h : Nat) : Spdm := (s.hank h).spdm

/-- A request on port `h`: with its precondition it has its effect and a response; otherwise it is answered by an error. -/
def State.spdmAnswer (s : State) (h : Nat) (ok : Bool) (f : Spdm → Spdm) (data : List Nat) : State :=
  if !s.spdmOpen h then s
  else if ok then (s.updSpdm h f).emit (.spdm h true data)
  else s.emit (.spdm h false [])

/-- The connection is set up: version, capabilities, algorithms. -/
def Spdm.ready (x : Spdm) : Bool := x.version && x.capabilities && x.algorithms

/-! ### Requests (R348) -/

/-- GET_VERSION opens the connection anew: SPDM 1.3. -/
def execGetVersion (h : Fin 4) (s : State) : Host.Outcome State Fault Refusal :=
  .next (s.spdmAnswer h true (fun _ => { version := true }) [0x13])

def execGetCapabilities (h : Fin 4) (s : State) : Host.Outcome State Fault Refusal :=
  .next (s.spdmAnswer h (s.spdm h).version (fun x => { x with capabilities := true }) [])

/-- NEGOTIATE_ALGORITHMS: ECDSA P-384, SHA-384, ECDHE P-384, AES-256-GCM. -/
def execNegotiateAlgorithms (h : Fin 4) (s : State) : Host.Outcome State Fault Refusal :=
  .next (s.spdmAnswer h ((s.spdm h).version && (s.spdm h).capabilities) (fun x => { x with algorithms := true }) [384, 384, 384, 256])

/-- The certificate chain of the answering hank die, by its digest. -/
def chainDigest (s : State) (h : Nat) : Nat := Config.derived (if s.identityCert then certify identityKey [347] else 0) ((s.hank h).aliasCert.getD 0)

def execGetDigests (h : Fin 4) (s : State) : Host.Outcome State Fault Refusal :=
  .next (s.spdmAnswer h ((s.spdm h).ready && s.hasChain h) id [chainDigest s h])

def execGetCertificate (h : Fin 4) (s : State) : Host.Outcome State Fault Refusal :=
  .next (s.spdmAnswer h ((s.spdm h).ready && s.hasChain h) id [Config.derived (chainDigest s h) 0])

/-- CHALLENGE: a signature of the alias key. -/
def execChallenge (h : Fin 4) (s : State) : Host.Outcome State Fault Refusal :=
  .next (s.spdmAnswer h ((s.spdm h).ready && s.canSign h) id [Config.derived (chainDigest s h) 1])

/-- One number for the image of the store, as a hash takes it. -/
def StoreImage.number (x : StoreImage) : Nat :=
  ([x.trims, x.sensorOffsets, x.phySeeds, x.flowCal, x.spareA, x.spareB, x.cap, x.interleave, x.bwRead, x.bwWrite, x.bwRemote,
    x.moduleId.toNat] ++ x.coefficients).foldl (fun acc v => Config.derived acc v) 384

/-- The code of a lifecycle state in MODULE_INFO. -/
def Lifecycle.code : Lifecycle → Nat
  | .manufacturing => 0
  | .provisioned => 1
  | .deployed => 2
  | .returned => 3

/-- The slot that hank die 0 boots: the valid one with the higher security version (R431), the first of two equal ones. -/
def State.bootSlot (s : State) : Option FirmwareSlot :=
  (s.slots.filter (·.valid)).foldl (fun best x => match best with
    | some b => if b.version < x.version then some x else some b
    | none => some x) none

/-- The image that boots; 0 without a valid slot. -/
def State.bootImage (s : State) : Nat := (s.bootSlot.map (·.image)).getD 0

/-- The measurements of R348: the firmware images of the booted slot (R431), the store, lifecycle with grade, the security version. -/
def State.measurement (s : State) : Nat → Nat
  | 1 => Config.derived s.bootImage 3481
  | 2 => Config.derived s.bootImage 3482
  | 3 => StoreImage.number s.store
  | 4 => Lifecycle.code s.lifecycle * 256 + s.grade
  | _ => Config.derived 348 5

/-- GET_MEASUREMENTS: one index, or all of them (0xFF). -/
def execGetMeasurements (h : Fin 4) (index : Nat) (s : State) : Host.Outcome State Fault Refusal :=
  .next (s.spdmAnswer h ((s.spdm h).ready && (decide (1 ≤ index ∧ index ≤ 5) || decide (index = 0xFF))) id
    (if index = 0xFF then [1, 2, 3, 4, 5].map s.measurement else [s.measurement index]))

/-- KEY_EXCHANGE starts a session; its keys stay in the security block. It needs KEYGEN, SIGN and ECDH (R339). -/
def execKeyExchange (h : Fin 4) (s : State) : Host.Outcome State Fault Refusal :=
  .next (s.spdmAnswer h ((s.spdm h).ready && s.canSign h) (fun x => { x with session := true, established := false, keyGen := 0 }) [Config.derived (chainDigest s h) 2])

/-- FINISH completes the handshake, or ends it when its check fails. -/
def execFinish (h : Fin 4) (ok : Bool) (s : State) : Host.Outcome State Fault Refusal :=
  .next (if s.spdmOpen h && (s.spdm h).session && !ok then (s.updSpdm h (fun x => { x with session := false, established := false })).spdmAnswer h false id []
    else s.spdmAnswer h ((s.spdm h).session && ok) (fun x => { x with established := true }) [])

def execKeyUpdate (h : Fin 4) (s : State) : Host.Outcome State Fault Refusal :=
  .next (s.spdmAnswer h (s.spdm h).established (fun x => { x with keyGen := x.keyGen + 1 }) [])

def execHeartbeat (h : Fin 4) (s : State) : Host.Outcome State Fault Refusal :=
  .next (s.spdmAnswer h (s.spdm h).established id [])

def execEndSession (h : Fin 4) (s : State) : Host.Outcome State Fault Refusal :=
  .next (s.spdmAnswer h (s.spdm h).established (fun x => { x with session := false, established := false, keyGen := 0 }) [])

/-! ### IDE (R349, R351) -/

/-- IDE_KEY_PROGRAM: only inside a secured session, in Provisioned and Deployed. -/
def execIdeKeyProgram (h : Fin 4) (stream : IdeStream) (key : BitVec 256) (s : State) : Host.Outcome State Fault Refusal :=
  .next (if s.spdmOpen h && (s.spdm h).established && (decide (s.lifecycle = .provisioned) || decide (s.lifecycle = .deployed)) then
      s.updHank h (fun k => match stream with
        | .link => { k with ideLink := some key.toNat }
        | .selective i => { k with ideSel := Tab.set (fun _ => none) k.ideSel i (some key.toNat) })
    else s)

end Sys2Proof.Machine
end

