-- ==== Sys2Proof/Machine/Quolyn.lean ====
section
/-! DEFINITION. Quolyn links (R408 to R420): bring-up and takedown, reception and retry, rekeying, routing, span deliveries, probes. -/
namespace Sys2Proof.Machine

/-! ### Bring-up (R409) -/

/-- May a port leave phase 0 as far as this module decides it: QL_NODE permits it, the module is Deployed, the certificates exist
(R347), the port is present and its hank die runs? -/
def State.linkWanted (s : State) (q : Nat) : Bool :=
  let n := s.reg (.glob .qlNode)
  bit n 31 && bit n (16 + q)

def State.linkAllowed (s : State) (q : Nat) : Bool :=
  s.linkWanted q && s.answers && decide (s.power.state = .m0) && decide (s.lifecycle = .deployed) && s.hasChain (q / 2) && !s.portAbsent &&
  (s.hank (q / 2)).running

/-- A bring-up takes the MODULE_ID of the store that waits for it (R431). -/
def State.takeId (s : State) : State :=
  match s.mgmt.idDue with
  | some v => { s.setField (.glob .qlNode) 10 0 v.toNat with mgmt := { s.mgmt with idDue := none } }
  | none => s

/-- A port that may begins training; one whose bring-up has failed waits for its second (R409). -/
def State.startTraining (s : State) (q : Nat) : State :=
  if s.linkAllowed q ∧ (s.port q).phase = 0 ∧ (s.port q).retryWait = false then s.takeId.updPort q (fun x => { x with phase := 1 }) else s

/-- A write of QL_NODE (R409, R412): MODULE_ID only while every port is in phase 0, and then also to the store. -/
def State.qlNodeWrite (s : State) (v : Word32) : State :=
  let r := Reg.glob .qlNode
  let old := s.reg r
  let free := (List.range 8).all (fun q => decide ((s.port q).phase = 0))
  let s := s.setReg r (setBits (r.written old v) 10 0 (if free then bits v 10 0 else bits old 10 0))
  let s := if free then { s with mgmt := { s.mgmt with idDue := none } }.storeFromReg 0x0A (.moduleId (BitVec.ofNat 11 (bits v 10 0))) else s
  (List.range 8).foldl State.startTraining s

def execQlNodeWrite (value : BitVec 32) (s : State) : Host.Outcome State Fault Refusal :=
  .next (if s.answers then s.qlNodeWrite value else s)

/-- QL_PORT_TAKEDOWN: its queue is empty or 1 ms has passed (event 0x31). -/
def execQlPortTakedown (q : Fin 8) (s : State) : Host.Outcome State Fault Refusal :=
  .next (if 0 < (s.port q).phase ∧ !s.linkWanted q then (s.linkLog q 0x31 0).portDown q false else s)

/-- QL_TRAINING_DONE: fewer than 8 lanes do not come up (R408, R420). -/
def execQlTrainingDone (q : Fin 8) (lanes : Nat) (s : State) : Host.Outcome State Fault Refusal :=
  .next (if (s.port q).phase = 1 then
      (if 8 ≤ lanes then (s.updPort q (fun x => { x with phase := 2 })).storeSeeds else s.linkLost q 1)
    else s)

/-- An exchange begins: its operations wait for units of the hank die's instance (R350). -/
def State.startExchange (s : State) (q : Nat) (ops : List Nat) : State :=
  (s.updPort q (fun x => { x with work := ops, idle := ops, exchange := x.exchange + 1 })).pkeRuntime (q / 2)

/-- An exchange of a port is over: an operation of it that is still in a unit ends with it, and the unit serves on. -/
def State.endExchange (s : State) (q : Nat) : State :=
  let own := (q, (s.port q).exchange)
  let s := s.updPke (q / 2) (fun x => (List.range 8).foldl (fun x u => if (x.unit u).any (fun r => decide (r.port = some own)) then x.setUnit u none else x) x)
  (s.updPort q (fun x => { x with work := [], idle := [] })).pkeRuntime (q / 2)

/-- Could every operation of the exchange end with DONE: none is left that needs random data of a dead source (R339)? -/
def State.exchangeOk (s : State) (q : Nat) : Bool :=
  (s.pke (q / 2)).entropyOk || (s.port q).work.all (fun op => !pkeRandom op)

/-- Key and salt of the outgoing and of the incoming direction, from the value of the ECDH and the transcript (R409, log entry 11). -/
def exchangeKeys (z : Nat) : List Nat := [1, 2, 3, 4].map (Config.derived z)

/-- QL_HELLO. -/
def execQlHello (q : Fin 8) (peer : BitVec 11) (peerState : Lifecycle) (s : State) : Host.Outcome State Fault Refusal :=
  .next (if (s.port q).phase = 2 then
      (if s.lifecycle = .deployed ∧ peerState = .deployed ∧ peer.toNat ≠ s.moduleId then
        (s.updPort q (fun x => { x with phase := 3, peer := peer.toNat })).startExchange q bringUpOps
       else s.phaseFailed q)
    else s)

/-- The keys are in the port, sequences and epochs start anew, the link is up (event 0x30). -/
def State.secured (s : State) (q : Nat) : State :=
  let s := s.endExchange q
  let (z, s) := s.draw
  let k := exchangeKeys z
  (s.updPort q (fun x => {
    phase := 4, peer := x.peer, probeSeq := x.probeSeq, exchange := x.exchange
    keyOut := k.getD 0 0, saltOut := k.getD 1 0, keyIn := k.getD 2 0, saltIn := k.getD 3 0 })).linkLog q 0x30 (s.port q).peer

/-- QL_SECURE_DONE: the exchange ends, with the operations of R350 that have not ended; a dead entropy source fails it (R339). -/
def execQlSecureDone (q : Fin 8) (s : State) : Host.Outcome State Fault Refusal :=
  .next (if (s.port q).phase = 3 then (if s.exchangeOk q then s.secured q else s.phaseFailed q) else s)

def execQlPhaseTimeout (q : Fin 8) (s : State) : Host.Outcome State Fault Refusal :=
  .next (if 1 ≤ (s.port q).phase ∧ (s.port q).phase ≤ 3 then s.phaseFailed q else s)

def execQlRetryTimer (q : Fin 8) (s : State) : Host.Outcome State Fault Refusal :=
  .next (if (s.port q).retryWait then (s.updPort q (fun x => { x with retryWait := false })).startTraining q else s)

def execQlLaneLoss (q : Fin 8) (s : State) : Host.Outcome State Fault Refusal :=
  .next (if 1 ≤ (s.port q).phase ∧ (s.port q).phase ≤ 4 then s.linkLost q 1 else s)

/-! ### Reception and retry (R411) -/

/-- A control frame; bit 0 of OFFSET makes it a NAK. It waits for nothing. -/
def State.sendControl (s : State) (q : Nat) (nak : Bool) : State := s.transmit q (frameTo 4 (s.port q).peer s.moduleId 0 0 0 (if nak then 1 else 0) 0)

/-- Frames up to ACK are acknowledged. -/
def State.acked (s : State) (q ack : Nat) : State :=
  let x := s.port q
  match x.sent with
  | [] => s
  | f :: _ =>
    let n := (ack + 1 + 65536 - f.frame.seq.toNat) % 65536
    if n ≤ x.sent.length then s.setPort q { x with sent := x.sent.drop n } else s

/-- Waiting frames follow on a port that is up, and the operations of its exchange take the units that are free. -/
def State.follow (s : State) (q : Nat) : State :=
  if s.linkUp q then (State.drainQueue q ((s.port q).queue.length + (s.port q).through.length) s).pkeRuntime (q / 2) else s

/-- Every frame kept goes out again, in order; one sent 8 times without acknowledgement loses the link. -/
def State.resend (s : State) (q : Nat) : State :=
  let x := s.port q
  if x.sent.any (fun f => decide (8 ≤ f.sends)) then s.linkLost q 0
  else
    let s := s.setPort q { x with sent := x.sent.map (fun f => { f with sends := f.sends + 1 }) }
    ((x.sent.foldl (fun s f =>
      ((s.putOnWire q f.frame).bump (.glob (.qlPortStatus (qIdx q))) 15 0).linkTrace q 0x32 f.frame.seq.toNat) s).rekeyAt40 q).pkeRuntime (q / 2)

/-- A frame fails its FEC or its tag: it is dropped; but for a probe, a NAK answers it. 16 tag failures within 1 s take the link down (event 0x34). -/
def State.badFrame (s : State) (q : Nat) (f : Frame) : State :=
  let now : Int := (s.clock.toNat : Int)
  let times := (s.port q).tagFailAt.filter (fun t => decide (now - t < 1200000000)) ++ (if f.fecOk then [now] else [])
  if 16 ≤ times.length then (s.reportAlarm (quolynUnit q) (quolynUnit q) 0x34 16).portDown q true
  else
    let s := s.updPort q (fun x => { x with tagFailAt := times })
    if f.ty = 3 then s else s.sendControl q true

/-- Can the receiver read the frame's epoch: its own, or the new one while it holds both keys (R412)? -/
def QPort.epochOk (x : QPort) (f : Frame) : Bool := decide ((f.epoch = 1) = (x.epochIn = true)) || x.bothKeys

/-- Is a frame of the epoch whose key the receiver holds beside the present one (R412)? -/
def QPort.otherEpoch (x : QPort) (f : Frame) : Bool := decide ((f.epoch = 1) ≠ (x.epochIn = true))

/-- A frame in clear, under the incoming key of its epoch and the count of the frames that have arrived under it (R410). -/
def QPort.clear (x : QPort) (f : Frame) : Option Frame :=
  if !f.fecOk || !x.epochOk f then none
  else if x.otherEpoch f then openFrame f x.keyNew x.saltNew x.framesNew
  else openFrame f x.keyIn x.saltIn x.framesIn

/-- Every frame that arrives counts under the key of its epoch. -/
def QPort.counted (x : QPort) (f : Frame) : QPort :=
  if x.otherEpoch f && x.bothKeys then { x with framesNew := x.framesNew + 1 } else { x with framesIn := x.framesIn + 1 }

/-- The first frame of a new epoch leaves its key alone in force. -/
def QPort.adopt (x : QPort) (f : Frame) : QPort :=
  if x.otherEpoch f then { x with epochIn := !x.epochIn, bothKeys := false, keyIn := x.keyNew, saltIn := x.saltNew, framesIn := x.framesNew } else x

/-- A frame arrives on an up port: the checks, the acknowledgement it carries, then `act` on one that is accepted, in clear, if it is next in order. -/
def State.arrive (s : State) (q ty : Nat) (f : Frame) (act : Frame → State → State) : State :=
  if !s.linkUp q || decide (f.ty.toNat ≠ ty) then s
  else
    let x := s.port q
    let s := s.setPort q (x.counted f)
    match x.clear f with
    | none => s.badFrame q f
    | some g =>
      let s := s.updPort q (fun x => x.adopt f)
      let s := s.acked q f.ack.toNat
      let s := if ty = 3 then act g s
        else if f.seq.toNat ≠ (s.port q).nextExpect then s
        else act g (s.updPort q (fun x => { x with nextExpect := (x.nextExpect + 1) % 65536 }))
      s.follow q

/-! ### Routing and delivery (R413, R416) -/

/-- A frame for another module goes on, or is dropped with event 0x39. -/
def State.forward (s : State) (q : Nat) (f : Frame) : State :=
  if f.hops = 0 then s.linkLog q 0x39 f.dest.toNat
  else match s.route f.dest.toNat with
    | some r => s.sendFrame r true { f with hops := f.hops - 1 }
    | none => s.linkLog q 0x39 f.dest.toNat

/-- Does a receive entry take the frame (R416)? -/
def State.spanTakes (s : State) (f : Frame) (lines : Nat) : Bool :=
  let v := s.span (pIdx f.destSpan.toNat)
  v.enable && v.receive && decide (v.peerModule = f.src.toNat) && decide (v.peerSpan = f.srcSpan.toNat) && decide ((s.part v.part).state = .active) &&
  decide (64 * (f.offset.toNat + lines) ≤ v.size)

/-- A frame refused at a span (event 0x3A), with the partition of the entry that it names (R420). -/
def State.spanRefused (s : State) (q : Nat) (f : Frame) : State :=
  s.linkLog q 0x3A f.destSpan.toNat (some (s.span (pIdx f.destSpan.toNat)).part)

/-- A span delivery of bytes at an offset of the region (R414): it needs a leaf that permits reads; a fault writes nothing. -/
def State.spanWrite (s : State) (q : Nat) (f : Frame) (offset : Nat) (bs : List Byte) : State :=
  let v := s.span (pIdx f.destSpan.toNat)
  match s.xlateWrite v.part (v.base + offset) bs .read with
  | .ok ps => ps.foldl (fun s (pa, b) => s.storePhys pa b) s
  | .error x => (s.spanRefused q f).capture v.part 8 x

/-- A data frame for this module. -/
def State.deliverData (s : State) (q : Nat) (f : Frame) : State :=
  let n := f.lines.toNat + 1
  if s.spanTakes f n then s.spanWrite q f (64 * f.offset.toNat) ((leBytes 256 f.payload.toNat).take (64 * n)) else s.spanRefused q f

/-- A signal frame for this module: the word that byte 8 names. -/
def State.deliverSignal (s : State) (q : Nat) (f : Frame) : State :=
  let w := nbits f.payload.toNat 71 64
  if s.spanTakes f 1 ∧ w < 8 then s.spanWrite q f (64 * f.offset.toNat + 8 * w) (leBytes 8 f.payload.toNat) else s.spanRefused q f

def execDataFrame (q : Fin 8) (f : Frame) (s : State) : Host.Outcome State Fault Refusal :=
  .next (s.arrive q 1 f (fun f s => if f.dest.toNat = s.moduleId then s.deliverData q f else s.forward q f))

def execSignalFrame (q : Fin 8) (f : Frame) (s : State) : Host.Outcome State Fault Refusal :=
  .next (s.arrive q 2 f (fun f s => if f.dest.toNat = s.moduleId then s.deliverSignal q f else s.forward q f))

/-- CONTROL_FRAME: its ACK, and as a NAK the retransmission. -/
def execControlFrame (q : Fin 8) (f : Frame) (s : State) : Host.Outcome State Fault Refusal :=
  .next (s.arrive q 4 f (fun f s => if f.offset.getLsbD 0 then s.resend q else s))

/-- DETAIL of a probe event (R419). -/
def probeDetail (seq peer : Nat) : Nat := seq % 65536 + peer * 65536

/-- PROBE_FRAME (R419): recorded, outside the sequence. -/
def execProbeFrame (q : Fin 8) (f : Frame) (s : State) : Host.Outcome State Fault Refusal :=
  .next (s.arrive q 3 f (fun f s => s.linkTrace q 0x38 (probeDetail f.offset.toNat (s.port q).peer)))

/-- A rekey begins, and its operations take the units that are free (R412). -/
def State.startRekey (s : State) (q : Nat) : State := (s.beginRekey q).pkeRuntime (q / 2)

/-- KEY_EXCHANGE_FRAME (R412): a peer that starts a rekey is answered; the exchange itself stays in the security block. -/
def execKeyExchangeFrame (q : Fin 8) (f : Frame) (s : State) : Host.Outcome State Fault Refusal :=
  .next (s.arrive q 5 f (fun _ s => if (s.port q).rekey then s else s.startRekey q))

/-! ### Timers -/

/-- QL_CONTROL_TIMER (R411). -/
def execQlControlTimer (q : Fin 8) (s : State) : Host.Outcome State Fault Refusal :=
  .next (if s.linkUp q then (s.sendControl q false).pkeRuntime (q / 2) else s)

/-- QL_PROBE_SEND (R419): SEQ repeats the last one sent; the probe is not kept. -/
def State.sendProbe (s : State) (q : Nat) : State :=
  let x := s.port q
  let f := { frameTo 3 x.peer s.moduleId 0 0 0 x.probeSeq 0 with seq := BitVec.ofNat 16 (x.nextSend + 65535) }
  ((((s.setPort q { x with probeSeq := (x.probeSeq + 1) % 2 ^ 32 }).putOnWire q f).linkTrace q 0x37 (probeDetail x.probeSeq x.peer)).rekeyAt40 q).pkeRuntime (q / 2)

def execQlProbeSend (q : Fin 8) (s : State) : Host.Outcome State Fault Refusal :=
  .next (if s.linkUp q then s.sendProbe q else s)

/-- QL_REKEY_START (R412). -/
def execQlRekeyStart (q : Fin 8) (s : State) : Host.Outcome State Fault Refusal :=
  .next (if s.linkUp q && !(s.port q).rekey then s.startRekey q else s)

/-- A rekey ends well: the sender's next frame is in the new epoch, and the receiver holds both keys (event 0x36). -/
def State.rekeyed (s : State) (q : Nat) : State :=
  let s := s.endExchange q
  let (z, s) := s.draw
  let k := exchangeKeys z
  let e := !(s.port q).epochOut
  (s.updPort q (fun x => { x with
    rekey := false, epochOut := e, bothKeys := true, framesOut := 0, framesNew := 0
    keyOut := k.getD 0 0, saltOut := k.getD 1 0, keyNew := k.getD 2 0, saltNew := k.getD 3 0 })).linkLog q 0x36 (if e then 1 else 0)

/-- QL_REKEY_COMPLETE (R412); a failed rekey takes the link down. -/
def execQlRekeyComplete (q : Fin 8) (ok : Bool) (s : State) : Host.Outcome State Fault Refusal :=
  .next (if s.linkUp q && (s.port q).rekey then (if ok && s.exchangeOk q then s.rekeyed q else s.linkLost q 2) else s)

end Sys2Proof.Machine
end

