-- ==== Sys2Proof/Machine/Units.lean ====
section
/-! DEFINITION. Uncorrectable faults of bridge segments, memory columns and hank dies (R24, R364, R369), and the loss of a PLL's lock (R377). -/
namespace Sys2Proof.Machine

/-- Anything can fault only while it is powered. -/
def State.powered (s : State) : Bool := decide (s.power.state ≠ .m4)

/-- Add a number to a list of faulty units. -/
def addUnit (l : List Nat) (n : Nat) : List Nat := if l.contains n then l else l ++ [n]

/-- A column is fenced (R364): its reads report uncorrectable, its writes are discarded. -/
def State.fenceColumn (s : State) (c : Nat) : State := { s with colFenced := addUnit s.colFenced c, service := true }

/-- The site that is bonded to no other segment (R16, R18). -/
def onlyDie : Nat → Option Nat
  | 0 => some 0
  | 7 => some 8
  | 8 => some 9
  | 15 => some 17
  | _ => none

/-- A die is lost, without a report of its own: nothing of it acts any more, the reservations at its die cache are gone (R358), and its abrupt retirement is decided. -/
def State.segmentDie (s : State) (d : Nat) : State :=
  if (s.site d).state = .active ∨ (s.site d).state = .retiring then s.fenceDie d
  else if (s.site d).state = .spare then (State.serveAbrupt 18 (s.spareGone d 1)).continueM3
  else s

/-- A fault of segment `k` that its bypass covers, or not. A hank die whose only segment is lost runs on: R364 retires the dies bonded to it, and R24 retires no hank
die (DESIGN CHOICE, log entry 127). -/
def State.segmentFault (s : State) (k : Nat) (lost : Bool) : State :=
  let u := segmentUnit k
  let s := { (s.reportAlarm u (s.runtimeOf u) 0x10 (if lost then 1 else 0)) with segFault := addUnit s.segFault k }
  if lost then
    let s := s.fenceColumn k
    match onlyDie k with
    | some d => s.segmentDie d
    | none => s
  else { s with fabric := true }

def execBridgeSegmentFault (k : Fin 16) (lost : Bool) (s : State) : Host.Outcome State Fault Refusal :=
  .next (if s.powered then s.segmentFault k lost else s)

/-- A fault of a column's controller or of one of its stacks. -/
def State.columnFault (s : State) (c stack : Nat) : State :=
  let u := columnUnit c
  (s.reportAlarm u (s.runtimeOf u) 0x11 (2 * c + stack)).fenceColumn c

def execMemoryColumnFault (c : Fin 16) (stack : Fin 2) (s : State) : Host.Outcome State Fault Refusal :=
  .next (if s.powered then s.columnFault c stack else s)

/-- The engine of a stopped hank die: every operation is aborted, and no completion can be written (R342). -/
def Pke.stopped (x : Pke) : Pke :=
  let x := (List.range 8).foldl (fun x u => match x.unit u with
    | some r => (x.setUnit u none).invalidate r.entry.writes
    | none => x) x
  { x with active := false, waiting := none, wipes := [] }

/-- The next running hank die takes the alarm entries of hank die `h` over (R369). -/
def State.takeOver (s : State) (h : Nat) : State :=
  let mine := (s.hank h).alarms
  s.updHank (s.runningFrom h) (fun k => { k with alarms := mine.foldl (fun m (e, r) => Tab.set (fun _ => none) m e r) k.alarms })

/-- A hank die stops (R364). -/
def State.hankFault (s : State) (h : Nat) : State :=
  if !(s.hank h).running then s
  else
    let s := s.updHank h (fun k => { k with running := false, windows := [], traceLoss := none, pke := k.pke.stopped, ideLink := none, ideSel := [], spdm := {}, aliasCert := none })
    let s := (s.takeOver h).updHank h (fun k => { k with alarms := [] })
    let s := [2 * h, 2 * h + 1].foldl (fun s q => if (s.port q).phase = 0 then s else s.portDown q false) s
    let s := (s.reportAlarm (hankUnit h) (hankUnit (s.runningFrom (h + 1))) 0x12 0)
    let s := { s with service := true }
    let s := if h = 0 then { s with attested := false, storeBusy := none, storeQueue := [] } else s
    (s.parts.map (·.1)).foldl (fun s p =>
      if s.partHeld p ∧ s.vfPort p = h then s.startFrog p true false (s.openJobIds p) else s) s

def execHankDieFault (h : Fin 4) (s : State) : Host.Outcome State Fault Refusal :=
  .next (if s.powered then s.hankFault h else s)

/-- A report of a monitor (R379). -/
def State.monitorAlarm (s : State) (m event detail : Nat) : State := s.reportAlarm (monitorUnit m) (monitorUnit m) event detail
def State.monitorLog (s : State) (m event detail : Nat) : State := s.reportLog (monitorUnit m) (monitorUnit m) event detail

/-- PLL_LOSS_OF_LOCK (R377): event 0x28, then the loss of the unit. -/
def State.pllLoss (s : State) (u : BitVec 16) : State :=
  let i := unitIndex u
  let raised := s.monitorAlarm 7 0x28 u.toNat
  if unitKind u = 2 ∧ i < 18 then raised.dieLost i
  else if unitKind u = 4 ∧ i < 16 then raised.segmentFault i true
  else if unitKind u = 7 ∧ i < 4 then raised.hankFault i
  else s

def execPllLossOfLock (source : UnitId) (s : State) : Host.Outcome State Fault Refusal :=
  .next (if s.powered then s.pllLoss (UnitId.bits source) else s)

end Sys2Proof.Machine
end

