-- ==== Sys2Proof/Machine/Power.lean ====
section
/-! DEFINITION. Power, clocks and resets: the monitors and the tension governor (R377 to R386), the low-power states (R387 to R389), the resets (R390 to R392), start-up (R380, R426) and the power blade (R422). -/
namespace Sys2Proof.Machine

/-! ### The tension governor's cap (R386) -/

/-- The legal values of CAP, in units of 10 W (R386). -/
def State.capOk (s : State) (c : Nat) : Bool := decide (300 ≤ c ∧ c ≤ (if s.grade = 3 then 860 else 950))

/-- PWR_CAP is written (R386). -/
def State.pwrCapWrite (s : State) (v : Word32) : State :=
  let c := bits v 9 0
  if s.capOk c then
    let s := s.setReg (.glob .pwrCap) (BitVec.ofNat 32 c)
    if bit v 31 then s.storeFromReg 0x06 (.cap c) else s
  else s.setField (.glob .pwrStatus) 0 0 1

def execPwrCapWrite (value : BitVec 32) (s : State) : Host.Outcome State Fault Refusal :=
  .next (if s.answers then s.pwrCapWrite value else s)

/-! ### What a reset leaves (R390, R391) -/

/-- The sites as the store and the grade name them (R6, R21). -/
def State.coldSites (s : State) : Tab Site :=
  (List.range 18).foldl (fun m d =>
    let x : Site := { tempDeci := (s.site d).tempDeci }
    Tab.set (fun _ => ({} : Site)) m d
      (if s.grade = 3 ∧ 16 ≤ d then { x with state := .retired, populated := false, passed := false }
       else if d = s.store.spareA ∨ d = s.store.spareB then { x with state := .spare } else x)) []

/-- Manufacturing and Returned: the states that open the module to test. -/
def State.testState (s : State) : Bool := decide (s.lifecycle = .manufacturing) || decide (s.lifecycle = .returned)

/-- The TAP instruction that is selected: in Provisioned and Deployed everything but BYPASS, IDCODE and the debug module's instructions selects BYPASS (R424). -/
def State.tapSelect (s : State) (i : TapInstr) : TapInstr :=
  match i with
  | .bypass | .idcode | .debugModule => i
  | .boundaryScan | .other => if s.testState then i else .bypass

/-- The module with nothing powered but the standby rail: the fuses, the store, the endpoint and the standby memory stay, and
what stands outside the module. -/
def State.offBase (s : State) : State :=
  { State.reset with
    lifecycle := s.lifecycle, identityCert := s.identityCert, slots := s.slots, grade := s.grade, store := s.store, serial := s.serial, host := s.host, fresh := s.fresh, out := s.out, pending := s.pending
    sites := s.coldSites
    power := { s.power with
      state := .m4, cold := true, runtimeReady := false, stepsDone := [], inputWatts := 0, fixedWatts := 0, energy := 0, throttling := false, throttleSteps := 0
      stackDouble := [], cmd := none, cmdMgmt := false, doorbell := false }
    mgmt := { s.mgmt with cmderr := 0, sberr := 0, idDue := none, tap := s.tapSelect s.mgmt.tap } }

/-- The fields that a cold and a module reset load from the store: those marked S. -/
def State.loadStore (s : State) : State :=
  let i := s.store
  let s := s.setReg (.glob .pwrCap) (BitVec.ofNat 32 i.cap)
  let s := s.setReg (.glob .memCfg) (BitVec.ofNat 32 (1 + i.interleave * 2 ^ 2 + i.interleave * 2 ^ 18))
  let s := s.setReg (.glob .qlNode) (BitVec.ofNat 32 (0xFF0000 + i.moduleId.toNat))
  (List.finRange 18).foldl (fun s d => (s.setReg (.die d .bwSplit) s.storeSplit).setAct (.die d .bwSplit) s.storeSplit) s

/-- A record of standby memory fills its alarm entry, or joins one that is filled (R371, R386). -/
def State.fillAlarm (s : State) (r : FaultRec) : State :=
  let e := alarmEntry r.source
  s.updHank (tableOwner r.source) (fun k =>
    let v : FaultRec := match Tab.get (fun _ => none) k.alarms e with
      | none => r
      | some q => { q with dups := min (q.dups + 1 + r.dups) 0xFFFF, last := r.last, lastEvent := r.lastEvent, escalated := q.escalated || decide (r.event ≠ q.event) }
    { k with alarms := Tab.set (fun _ => none) k.alarms e (some v) })

/-- A cold reset (R390): everything but what is kept is at its reset value or from the store, and start-up begins. -/
def State.coldReset (s : State) : State :=
  let recs := s.power.standby
  let (key, s) := s.offBase.loadStore.draw
  let s := { s with replayKey := key, power := { s.power with state := .starting, standby := [] }, mgmt := { s.mgmt with alarmHeld := false } }
  recs.foldl State.fillAlarm s

/-- The sites after a module reset: a retirement in progress, and abrupt ones that wait, are completed (R392). -/
def State.resetSites (s : State) : State :=
  let lost := s.retireQueue.filter (fun r => r.kind = 1)
  let s := match s.retiring with
    | some r =>
      let s := s.updSite r.site (fun x => { x with state := .retired })
      let s := match r.spare with
        | some t => s.updSite t (fun x => { x with state := .active })
        | none => s
      { s with retiring := none, retirements := s.retirements + 1 }
    | none => s
  lost.foldl (fun s r =>
    let s := s.updSite r.site (fun x => { x with state := .retired })
    let s := { s with retirements := s.retirements + 1 }
    match s.freeSpare with
    | some t => s.updSite t (fun x => { x with state := .active })
    | none => s) s

/-- Times that count against a clock that starts anew. -/
def State.shift (s : State) (ts : List Int) : List Int := ts.map (fun t => t - (s.clock.toNat : Int))

/-- A module reset (R390, R391): as a cold reset from the 5 ms step, but for what its column keeps. -/
def State.moduleReset (s : State) : State :=
  let old := s.resetSites
  let (key, s) := s.offBase.loadStore.draw
  let s := { s with
    replayKey := key, retirements := old.retirements
    retireQueue := old.retireQueue.filter (fun r => r.kind = 0)
    sites := old.sites.foldl (fun m (d, x) => Tab.set (fun _ => ({} : Site)) m d
      ({ state := x.state, populated := x.populated, passed := x.passed, uncorrAt := old.shift x.uncorrAt, correctedAt := x.correctedAt.map (fun (t, n) => (t - (old.clock.toNat : Int), n)), tempDeci := x.tempDeci } : Site)) []
    tiles := old.tiles.foldl (fun m (t, x) => Tab.set (fun _ => ({} : Tile)) m t
      ({ outOfUse := x.outOfUse, mismatchAt := old.shift x.mismatchAt } : Tile)) []
    power := { s.power with state := .starting, cold := false, stepsDone := [.hankDie 0], energy := old.power.energy } }
  let s := (List.finRange 16).foldl (fun s c => s.setReg (.glob (.mcEcc c)) (old.reg (.glob (.mcEcc c)))) s
  let s := (List.finRange 4).foldl (fun s h => s.setField (.hank h .fcStatus) 31 31 (bits (old.reg (.hank h .fcStatus)) 31 31)) s
  let s := old.ruOuts.foldl (fun s t => s.setField (.tile (tIdx t) .vecCtrl) 1 1 1) s
  old.hanks.foldl (fun s (_, k) => k.alarms.foldl (fun s (e, r) => match r with
    | some r => s.updHank (tableOwner r.source) (fun k => { k with alarms := Tab.set (fun _ => none) k.alarms e (some r) })
    | none => s) s) s

/-! ### M4 (R386, R389) -/

/-- Standby memory holds up to 8 records; a further one joins the last (R386). -/
def keepStandby (l : List FaultRec) (r : FaultRec) : List FaultRec :=
  if l.length < 8 then l ++ [r]
  else l.mapIdx (fun i q => if i = 7 then { q with dups := min (q.dups + 1) 0xFFFF, lastEvent := r.event } else q)

/-- An entry to M4 that a fault forces: the alarm, its record in standby memory, ALARM_N held (R386, R427). Faults of the same entry to M4
add their records. -/
def State.faultM4 (s : State) (m event detail : Nat) : State :=
  let r := s.newRec (monitorUnit m) (monitorUnit m) event detail none
  let kept := fun (s : State) => { s with power := { s.power with standby := keepStandby s.power.standby r } }
  if s.powered then
    let s := (s.monitorAlarm m event detail).offBase
    kept { s with mgmt := { s.mgmt with alarmHeld := true } }
  else if s.mgmt.alarmHeld then
    let s := s.emit (.alarm r.source r.event r.detail)
    kept { s with mgmt := { s.mgmt with unread := s.mgmt.unread ++ [r.source] } }
  else s

/-- An entry to M4 by command, by FORCE_OFF_N or by the sense contact. -/
def State.enterM4 (s : State) : State := if s.powered then s.offBase else s

/-! ### Monitors (R377 to R379, R382, R385, R386) -/

/-- A threshold is crossed upwards, or downwards. -/
def rises (old new limit : Nat) : Bool := decide (old ≤ limit ∧ limit < new)
def falls (old new limit : Nat) : Bool := decide (limit ≤ old ∧ new < limit)

/-- The input lies in the range in which the module is not forced into M4 (R378). -/
def inputOk (mv : Nat) : Bool := decide (44000 ≤ mv ∧ mv ≤ 60000)

/-- INPUT_VOLTAGE_CHANGE. -/
def State.inputVoltage (s : State) (mv : Nat) : State :=
  let old := s.power.inputMv
  let s := { s with power := { s.power with inputMv := mv } }
  if inputOk old && !inputOk mv then s.faultM4 0 0x21 mv
  else if s.powered && falls old mv 47500 then s.monitorLog 0 0x20 mv
  else s

def execInputVoltageChange (mv : Nat) (s : State) : Host.Outcome State Fault Refusal := .next (s.inputVoltage mv)

def execConversionFault (mv : BitVec 32) (s : State) : Host.Outcome State Fault Refusal := .next (s.faultM4 1 0x22 mv.toNat)

/-- COOLANT_TEMP_CHANGE. -/
def State.coolantTemp (s : State) (deci : Nat) : State :=
  let old := s.power.inletDeci
  let s := { s with power := { s.power with inletDeci := deci } }
  if s.powered then
    let s := if rises old deci 400 then s.monitorAlarm 2 0x23 deci else s
    if rises old deci 480 then s.monitorAlarm 2 0x25 deci else s
  else s

def execCoolantTempChange (decic : Nat) (s : State) : Host.Outcome State Fault Refusal := .next (s.coolantTemp decic)

/-- COOLANT_FLOW_CHANGE. -/
def State.coolantFlow (s : State) (centi : Nat) : State :=
  let old := s.power.flowCenti
  let s := { s with power := { s.power with flowCenti := centi, flowLow := decide (centi < 400) } }
  if s.powered then
    let s := if falls old centi 1600 then s.monitorAlarm 3 0x24 centi else s
    if falls old centi 800 then s.monitorAlarm 3 0x25 centi else s
  else s

def execCoolantFlowChange (centil : Nat) (s : State) : Host.Outcome State Fault Refusal := .next (s.coolantFlow centil)

/-- FLOW_TRIP_TIMER: the flow has stayed below 4 L/min for 1 s. -/
def execFlowTripTimer (s : State) : Host.Outcome State Fault Refusal :=
  .next (if s.power.flowLow then s.faultM4 3 0x27 s.power.flowCenti else s)

/-- The module's skein dies are on: not in M3 and not in M4. -/
def State.diesOn (s : State) : Bool := s.powered && decide (s.power.state ≠ .m3)

/-- DIE_TEMP_CHANGE: 120 °C trips, 110 °C drops the duty to 4/16. -/
def State.dieTemp (s : State) (d deci : Nat) : State :=
  let old := (s.site d).tempDeci
  let s := s.updSite d (fun x => { x with tempDeci := deci })
  if !(s.site d).populated || decide ((s.site d).state = .retired) then s
  else if 1200 ≤ deci then s.faultM4 4 0x27 deci
  else if s.diesOn && decide (old < 1100 ∧ 1100 ≤ deci) then
    (s.updSite d (fun x => { x with duty := 4 })).monitorLog 4 0x26 (dieUnit d).toNat
  else s

def execDieTempChange (d : Fin 18) (decic : Nat) (s : State) : Host.Outcome State Fault Refusal := .next (s.dieTemp d decic)

/-- STACK_OVERTEMP: a stack above 95 °C is refreshed twice as often. -/
def State.stackTemp (s : State) (k deci : Nat) : State :=
  let s := { s with power := { s.power with stackDeci := Tab.set (fun _ => none) s.power.stackDeci k (some deci) } }
  if !s.powered then s
  else if 950 < deci then
    if s.power.stackDouble.contains k then s
    else ({ s with power := { s.power with stackDouble := s.power.stackDouble ++ [k] } }).monitorLog 6 0x2B deci
  else { s with power := { s.power with stackDouble := s.power.stackDouble.filter (fun x => x ≠ k) } }

def execStackOvertemp (k : Fin 32) (decic : Nat) (s : State) : Host.Outcome State Fault Refusal := .next (s.stackTemp k decic)

/-- A 10 µs sample of a die's power: above P_die + 5 % the duty falls, to 12/16 first and then by 2/16. -/
def Site.sampled (x : Site) (watts budget : Nat) : Site :=
  { x with
    watts := watts, below := decide (watts ≤ budget)
    duty := if 105 * budget < 100 * watts then (if 12 < x.duty then 12 else max 4 (x.duty - 2)) else x.duty }

/-- 100 µs at or below P_die: the duty rises by 2/16. -/
def Site.raised (x : Site) (watts budget : Nat) : Site :=
  let ok := x.below && decide (watts ≤ budget)
  { x with watts := watts, below := decide (watts ≤ budget), duty := if ok then min 16 (x.duty + 2) else x.duty }

/-- DUTY_ADJUST (R385). -/
def execDutyAdjust (d : Fin 18) (watts : Nat) (raise : Bool) (s : State) : Host.Outcome State Fault Refusal :=
  .next (if s.diesOn && s.diePowered d then
      let b := s.dieBudget d
      s.updSite d (fun x => if raise then x.raised watts b else x.sampled watts b)
    else s)

/-- INPUT_THROTTLE (R385): 1 ms with the module's input above P_eff; one at or below it ends the throttling. The fixed consumers are measured anew. -/
def State.inputThrottle (s : State) (watts : Nat) : State :=
  if !s.powered then s
  else
    let (fixed, s) := s.draw
    let s := { s with power := { s.power with inputWatts := watts, fixedWatts := fixed } }
    if s.effCap < watts then
      let first := !s.power.throttling
      let s := { s with power := { s.power with throttling := true, throttleSteps := min 50 (s.power.throttleSteps + 1) } }
      if first then s.monitorLog 0 0x2A s.power.inputMv else s
    else { s with power := { s.power with throttling := false, throttleSteps := 0 } }

def execInputThrottle (watts : Nat) (s : State) : Host.Outcome State Fault Refusal := .next (s.inputThrottle watts)

/-! ### The reference clock (R377) -/

def execRefclkLoss (s : State) : Host.Outcome State Fault Refusal :=
  .next (if s.power.ref = .present then
      let s := { s with power := { s.power with ref := .lost } }
      if s.powered then s.monitorAlarm 7 0x29 0 else s
    else s)

/-- The tiles of the ops that run and are not stopped. -/
def State.runningTiles (s : State) : List Nat := s.jobs.flatMap (fun j => (j.ops.filter (fun r => decide (r.phase = .running) && !r.halted)).flatMap (·.tiles))

/-- After 10 ms without the reference every running op stops under R209, as at a hook: what its engines and feeders have begun ends. -/
def execRefclkAbsentTimeout (s : State) : Host.Outcome State Fault Refusal :=
  .next (if s.power.ref = .lost then
      let s := s.runningTiles.foldl (fun s t => s.updTile t (fun x => { x with sent := (List.range 4).filter (fun f => s.headSent t f && !s.feederWaits t f) })) s
      { s with power := { s.power with ref := .stopped } }
    else s)

/-- The reference returns: dispatch and the stopped ops go on. -/
def execRefclkReturn (s : State) : Host.Outcome State Fault Refusal :=
  .next { (s.runningTiles.foldl (fun s t => s.updTile t (fun x => { x with sent := [] })) s) with power := { s.power with ref := .present } }

/-! ### PWR_CMD (R386, R388, R389) -/

/-- A power command begins: BUSY. -/
def State.pwrStart (s : State) (op : Nat) (mgmt : Bool) : State :=
  ({ s with power := { s.power with cmd := some op, cmdMgmt := mgmt } }).setField (.glob .pwrCmdStatus) 0 0 1

/-- Why M3 is refused: a fetched job without its job completion entry, or a running tenant core. -/
def State.m3Refused (s : State) : Bool := s.jobs.any (fun j => !j.produced) || s.parts.any (fun q => q.2.coresRun)

/-- PWR_CMD 0x1. -/
def State.enterM3 (s : State) (mgmt : Bool) : State :=
  let s := s.pwrStart 1 mgmt
  if s.power.state = .m3 then s.endPwr 1 .done
  else if s.power.state ≠ .m0 ∨ s.m3Refused then s.endPwr 1 .protect
  else State.continueM3 { s with power := { s.power with state := .enteringM3, doorbell := false } }

/-- PWR_CMD 0x2: from M3 it ends when STATE reads M0; elsewhere it has no effect. -/
def State.leaveCmd (s : State) (mgmt : Bool) : State :=
  let s := s.pwrStart 2 mgmt
  match s.power.state with
  | .m3 => s.leaveM3
  | .leavingM3 => s
  | _ => s.endPwr 2 .done

/-- PWR_CMD is written (R386): discarded while BUSY, but for 0x4, which is accepted at any time (R389). -/
def State.pwrCmd (s : State) (op : Nat) : State :=
  if op = 4 then s.enterM4
  else if s.power.cmd.isSome then s
  else if op = 1 then s.enterM3 false
  else if op = 2 then s.leaveCmd false
  else if op = 8 then s.moduleReset
  else s.setField (.glob .pwrStatus) 0 0 1

def execEnterM3 (s : State) : Host.Outcome State Fault Refusal := .next (if s.answers then s.pwrCmd 1 else s)
def execLeaveM3 (s : State) : Host.Outcome State Fault Refusal := .next (if s.answers then s.pwrCmd 2 else s)
def execEnterM4 (s : State) : Host.Outcome State Fault Refusal := .next (if s.answers then s.pwrCmd 4 else s)
def execModuleResetCmd (s : State) : Host.Outcome State Fault Refusal := .next (if s.answers then s.pwrCmd 8 else s)

/-- A site that start-up reaches: populated and not retired. -/
def State.siteUsed (s : State) (d : Nat) : Bool := (s.site d).populated && decide ((s.site d).state ≠ .retired)

/-- M3_EXIT_DONE (R388): every site has restarted; reservoirs stay unread until the next commit of the key directory. -/
def State.exitM3 (s : State) : State :=
  if s.power.state = .leavingM3 ∧ (List.range 18).all (fun d => !s.siteUsed d || (s.site d).started) then
    let s := { s with
      power := { s.power with state := .m0, doorbell := false }
      parts := s.parts.foldl (fun m ((p, x) : Nat × Part) => Tab.set (fun _ => ({} : Part)) m p (if x.state = PartState.free then x else { x with reservoirsBlocked := true })) [] }
    s.endPwr 2 .done
  else s

def execM3ExitDone (s : State) : Host.Outcome State Fault Refusal := .next s.exitM3

/-! ### Start-up (R380, R426) -/

def siteSteps : List StartupStep := (List.finRange 18).map .site

/-- The order of R380. -/
def startOrder : List StartupStep :=
  (List.finRange 4).map .hankDie ++ (List.finRange 8).map .segmentPair ++ (List.finRange 16).map .stackPair ++ siteSteps

/-- A step whose slot passes unused. -/
def State.stepUnused (s : State) : StartupStep → Bool
  | .site d => !s.siteUsed d
  | _ => false

/-- The steps that are still to run; from M3 only the sites restart. -/
def State.stepsLeft (s : State) : List StartupStep :=
  (if s.power.state = .leavingM3 then siteSteps else startOrder).filter (fun k => !s.stepUnused k && !s.power.stepsDone.contains k)

/-- The reference is present and the input within range. -/
def State.clocked (s : State) : Bool := decide (s.power.ref = .present) && inputOk s.power.inputMv

/-- A site has started and run its self-test; after M3 it takes the split of the store as it is then (R391). One that fails after M3 is lost, or retired if it is a spare. -/
def State.siteStarts (s : State) (d : Nat) (ok : Bool) : State :=
  let s := s.updSite d (fun x => { x with started := true, passed := ok })
  let s := if s.power.state = .leavingM3 then (s.setReg (.die (dIdx d) .bwSplit) s.storeSplit).setAct (.die (dIdx d) .bwSplit) s.storeSplit else s
  if ok ∨ s.power.state = .starting then s
  else if (s.site d).state = .spare then s.updSite d (fun x => { x with state := .retired })
  else s.dieLost d

/-- The units of a step. -/
def State.stepRuns (s : State) (ok : Bool) : StartupStep → State
  | .hankDie h => if ok then s else s.hankFault h
  | .segmentPair k => if ok then s else (s.segmentFault k true).segmentFault (k + 8) true
  | .stackPair c => if ok then s else s.columnFault c 0
  | .site d => s.siteStarts d ok

/-- STARTUP_STEP: the next step in order; while PERST0_N is low nothing starts beyond the 5 ms step. -/
def State.startupStep (s : State) (k : StartupStep) (ok : Bool) : State :=
  let starts := decide (s.power.state = .starting)
  if (starts || decide (s.power.state = .leavingM3)) && s.clocked && decide (s.stepsLeft.head? = some k) &&
     !(starts && s.power.perst0Low && decide (k ≠ .hankDie 0)) then
    State.stepRuns { s with power := { s.power with stepsDone := s.power.stepsDone ++ [k] } } ok k
  else s

def execStartupStep (k : StartupStep) (ok : Bool) (s : State) : Host.Outcome State Fault Refusal := .next (s.startupStep k ok)

/-- Sites that failed their self-test are retired; for each that was to be active, the lowest-numbered spare that passed takes its place (R21). -/
def State.settleSites (s : State) : State :=
  let failed := (List.range 18).filter (fun d => s.siteUsed d && !(s.site d).passed)
  let need := (failed.filter (fun d => (s.site d).state = .active)).length
  let s := failed.foldl (fun s d => s.updSite d (fun x => { x with state := .retired })) s
  let spares := ((List.range 18).filter (fun d => (s.site d).state = .spare)).take need
  let s := spares.foldl (fun s d => s.updSite d (fun x => { x with state := .active })) s
  { s with retireQueue := s.retireQueue.filter (fun r => !failed.contains r.site) }

/-- Put a private key into a slot of a public-key instance (R347). -/
def State.putKey (s : State) (h i v : Nat) : State :=
  if (s.hank h).running then s.updPke h (fun x => x.setSlot i { value := 1 + v % (p384.n - 1), valid := true, secret := true }) else s

/-- An alias key and its certificate over the measurements at this reset, signed on hank die 0; a dead entropy source leaves both out (R339). -/
def State.aliasKey (s : State) (h : Nat) : State :=
  if (s.pke h).entropyOk && (s.pke 0).entropyOk && (s.hank 0).running && (s.hank h).running then
    let (v, s) := s.draw
    let cert := certify v ([1, 2, 3, 4, 5].map s.measurement)
    (s.putKey h 1 v).updHank h (fun k => { k with aliasCert := some cert })
  else s

/-- The identity key and the alias keys (R347, log entry 11). -/
def State.attest (s : State) : State := (List.range 4).foldl State.aliasKey (s.putKey 0 0 identityKey)

/-- RUNTIME_READY: the counters start (R376), STATE reads M0, and the seeds of the training of stacks and PCIe links go to the store (R431). -/
def State.ready (s : State) : State :=
  if s.power.state = .starting ∧ s.stepsLeft = [] ∧ s.clocked ∧ !s.power.perst0Low then
    let (fixed, s) := s.settleSites.storeSeeds.attest.draw
    { s with counting := true, power := { s.power with runtimeReady := true, state := .m0, fixedWatts := fixed } }
  else s

def execRuntimeReady (s : State) : Host.Outcome State Fault Refusal := .next s.ready

/-- PERST0_N low (R426): a module reset, unless the module has not passed the 5 ms step. -/
def State.perst0 (s : State) : State :=
  let early := !s.powered || (decide (s.power.state = .starting) && s.power.stepsDone.all (fun k => decide (k = .hankDie 0)))
  let s := if early then s else s.moduleReset
  { s with power := { s.power with perst0Low := true } }

def execPerst0Assert (s : State) : Host.Outcome State Fault Refusal := .next s.perst0
def execPerst0Deassert (s : State) : Host.Outcome State Fault Refusal := .next { s with power := { s.power with perst0Low := false } }

/-- CONFIGURATION_REQUEST: retry status until the runtime is ready (R380); an answer shows that the link is up again, and trained (R431). A link that PERST_N holds in reset carries none. -/
def State.configRequest (s : State) (h : Nat) : State :=
  if !s.powered || s.perstLow h then s
  else if !s.answers then s.emit (.configRetry h)
  else if (s.hank h).running then ((if (s.hank h).linkUp then s else s.storeSeeds).updHank h (fun k => { k with linkUp := true })).emit (.configAnswer h)
  else s

def execConfigurationRequest (h : Fin 4) (s : State) : Host.Outcome State Fault Refusal := .next (s.configRequest h)

/-! ### Port reset and function-level reset (R390) -/

/-- Every ring pair of a partition is disabled. -/
def State.disableRings (s : State) (p : Nat) : State := (List.range 16).foldl (fun s n => if s.ringEnabled p n then s.disableRing p n else s) s

/-- Completion entries of a partition's active ring pairs wait in the hold until the pair is enabled again (R258, R390). -/
def State.holdRings (s : State) (p : Nat) : State :=
  (List.range 16).foldl (fun s n => if (s.ring p n).active then s.updRing p n (fun r => { r with deliveryStopped := true }) else s) s

/-- A port reset: the link is down until it is configured anew; functions and link IDE keys are at their defaults. The ring pairs behind it
are disabled, and the entries of jobs already fetched wait. -/
def State.portReset (s : State) (h : Nat) : State :=
  let s := s.updHank h (fun k => { k with linkUp := false, ideLink := none, spdm := {} })
  let s := (s.parts.map (·.1)).foldl (fun s p => if s.partHeld p ∧ s.vfPort p = h then (s.disableRings p).holdRings p else s) s
  (List.range 16).foldl (fun s i => s.resetMsix (4 + 16 * h + i)) (s.resetMsix h)

/-- PERST_N of a port is low or high. -/
def State.setPerst (s : State) (h : Nat) (low : Bool) : State :=
  { s with power := { s.power with perstLow := s.power.perstLow.filter (fun k => k ≠ h) ++ (if low then [h] else []) } }

/-- Does a port reset take effect now (R390): the module is powered, and no module reset is under way, which ignores it (R392)? -/
def State.portResets (s : State) (h : Nat) : Bool :=
  s.powered && (s.hank h).running && !(decide (s.power.state = .starting) && !s.power.cold)

/-- PORT_RESET: in a cold start-up as well. A PERST_N that is low keeps the link in reset, across resets of the module too, until it goes high (R426). -/
def State.portEvent (s : State) : PortEvent → State
  | .linkDown h => if s.portResets h then s.portReset h else s
  | .perstLow i =>
    let h := i.val + 1
    (if s.portResets h then s.portReset h else s).setPerst h true
  | .perstHigh i =>
    let h := i.val + 1
    if s.perstLow h then (s.updHank h (fun k => { k with linkUp := false })).setPerst h false else s

def execPortReset (e : PortEvent) (s : State) : Host.Outcome State Fault Refusal := .next (s.portEvent e)

/-- The partition bound to a virtual function. -/
def State.vfPart (s : State) (h i : Nat) : Option Nat :=
  (s.parts.find? (fun q => decide (q.2.vf = some (h, i)) && decide (q.2.state ≠ .free) && decide (q.2.state ≠ .releasing) && !q.2.destroyed)).map (·.1)

/-- A function-level reset: job frog of all jobs, cores stopped, ring pairs disabled, MSI-X at its defaults. -/
def State.flr (s : State) (h i : Nat) : State :=
  let s := s.resetMsix (4 + 16 * h + i)
  match s.vfPart h i with
  | some p => ((s.startFrog p false false (s.openJobIds p)).stopCores p).disableRings p
  | none => s

def execVfFlr (h : Fin 4) (vf : Fin 16) (s : State) : Host.Outcome State Fault Refusal :=
  .next (if s.answers && s.portUp h then s.flr h vf else s)

/-! ### The power blade (R422, R424) -/

def execSenseClose (s : State) : Host.Outcome State Fault Refusal :=
  .next { s with power := { s.power with senseClosed := true } }

/-- HOTSWAP_CHARGE_START: only after the sense contact has been closed for 10 ms. -/
def execHotswapChargeStart (s : State) : Host.Outcome State Fault Refusal :=
  .next (if s.power.senseClosed then { s with power := { s.power with charged := true } } else s)

def execSenseOpen (s : State) : Host.Outcome State Fault Refusal :=
  .next (let s := s.enterM4; { s with power := { s.power with senseClosed := false, charged := false } })

/-- POWER_ON: power is applied once the input is charged. -/
def execPowerOn (s : State) : Host.Outcome State Fault Refusal :=
  .next (if s.power.senseClosed && s.power.charged then s.coldReset else s)

def execForceOff (s : State) : Host.Outcome State Fault Refusal := .next s.enterM4

/-! ### Tiles in M1 and M2 (R387) -/

/-- The runtime may gate a tile of a die that is on: no op occupies it. -/
def State.gateOpen (s : State) (t : Nat) : Bool :=
  decide (s.power.state = .m0) && s.diePowered (siteOf t) && decide ((s.tile t).op = none)

/-- TILE_ENTERS_M1: 10 µs without an op. -/
def execTileEntersM1 (t : Fin 576) (s : State) : Host.Outcome State Fault Refusal :=
  .next (if s.gateOpen t ∧ (s.tile t).gate = .m0 then s.updTile t (fun x => { x with gate := .m1 }) else s)

/-- TILE_ENTERS_M2: 1 ms in M1. -/
def execTileEntersM2 (t : Fin 576) (s : State) : Host.Outcome State Fault Refusal :=
  .next (if s.gateOpen t ∧ (s.tile t).gate = .m1 then s.updTile t (fun x => { x with gate := .m2 }) else s)

/-- TILE_M2_EXIT_DONE: 20 µs after the exit began. -/
def execTileM2ExitDone (t : Fin 576) (s : State) : Host.Outcome State Fault Refusal :=
  .next (if (s.tile t).gate = .m2 then s.updTile t (fun x => { x with gate := .m0 }) else s)

end Sys2Proof.Machine
end

