-- ==== Sys2Proof/Machine/Reads.lean ====
section
/-! DEFINITION. What a read of each register returns (R11): the stored value, or what the machine's state makes of it (R310, R372, R373, R386, R412, R442, R443, R449). -/
namespace Sys2Proof.Machine

/-- A condition as a field. -/
def flagAt (b : Bool) (i : Nat) : Nat := if b then 2 ^ i else 0

/-- The number of sites in a state. -/
def State.sitesIn (s : State) (x : DieState) : Nat := ((List.range 18).filter (fun d => decide ((s.site d).state = x))).length

/-! ### The module global block -/

/-- MODULE_INFO (R442). -/
def State.moduleInfo (s : State) : Nat := Lifecycle.code s.lifecycle * 2 ^ 10 + s.grade

/-- The grade's count of active dies (R2). -/
def State.gradeDies (s : State) : Nat := if s.grade = 3 then 14 else 16

/-- A partition holds no quad (R363). -/
def State.anyStranded (s : State) : Bool := s.parts.any (fun q => q.2.stranded)

/-- RAS_STATUS (R373). -/
def State.rasStatus (s : State) : Nat :=
  let active := s.sitesIn .active
  let spares := s.sitesIn .spare
  flagAt s.alarmOut 31 + flagAt s.service 30 + flagAt s.anyStranded 29 + flagAt (decide (active < s.gradeDies)) 28 + flagAt (decide (spares < 2)) 27 +
  flagAt s.fabric 26 + active * 2 ^ 16 + min spares 3 * 2 ^ 11

/-- The degraded attribute (R373). -/
def State.degraded (s : State) : Bool := decide (nbits s.rasStatus 30 26 ≠ 0)

def DieState.code : DieState → Nat
  | .active => 0
  | .spare => 1
  | .retiring => 2
  | .retired => 3

/-- DIE_STATE_LO and DIE_STATE_HI (R373). -/
def State.dieStates (s : State) (first n : Nat) : Nat := ((List.range n).map (fun i => (s.site (first + i)).state.code * 4 ^ i)).sum

def PowerState.code : PowerState → Nat
  | .m0 => 0
  | .m3 => 3
  | .leavingM3 => 3
  | .enteringM3 => 7
  | .starting => 6
  | .m4 => 6

/-- PWR_STATUS (R386). -/
def State.pwrStatus (s : State) : Nat :=
  let dies := (List.range 18).filter s.diePowered
  s.effCap / 10 * 2 ^ 22 + s.power.state.code * 2 ^ 19 + flagAt (decide (s.power.inputMv < 47500)) 15 +
  flagAt (decide (400 < s.power.inletDeci) || decide (s.power.flowCenti < 1600)) 14 + flagAt (dies.any (fun d => decide (950 < (s.site d).tempDeci))) 13 +
  flagAt (dies.any (fun d => decide ((s.site d).duty < 16))) 12 + bits (s.reg (.glob .pwrStatus)) 0 0

/-- DIE_PWR_n (R386). -/
def State.diePwr (s : State) (d : Nat) : Nat :=
  let x := s.site d
  (if s.diePowered d then (x.duty - 1) * 2 ^ 28 + x.watts % 4096 * 2 ^ 12 else 15 * 2 ^ 28) + s.dieBudget d % 4096

def PartState.code : PartState → Nat
  | .free => 0
  | .active => 1
  | .stopping => 2
  | .scrubbing => 3
  | .releasing => 4

/-- Physical cores that a partition holds. -/
def Part.cores (x : Part) : Nat := (x.harts.filter (fun h => h.phys.isSome)).length

/-- PART_STATE_n (R310). -/
def State.partState (s : State) (p : Nat) : Nat :=
  let x := s.part p
  x.quads.length % 256 * 2 ^ 16 + x.cores % 256 * 2 ^ 8 + x.state.code

/-- QL_PORT_STATUS_p (R412). -/
def State.qlPortStatus (s : State) (q : Fin 8) : Nat :=
  let x := s.port q
  (if s.portAbsent then 7 else x.phase) * 2 ^ 29 + (if x.phase = 4 then x.peer % 2048 * 2 ^ 16 else 0) + bits (s.reg (.glob (.qlPortStatus q))) 15 0

/-- Is a commit of any span pending? -/
def State.spanPending (s : State) : Bool := s.commits.any (fun c => match c.group with
  | .span _ => true
  | _ => false)

/-- A register of the module global block. -/
def State.globValue (s : State) (r : GReg) : Word32 :=
  let v := s.reg (.glob r)
  match r with
  | .moduleInfo => BitVec.ofNat 32 s.moduleInfo
  | .rasStatus => BitVec.ofNat 32 s.rasStatus
  | .dieStateLo => BitVec.ofNat 32 (s.dieStates 0 16)
  | .dieStateHi => BitVec.ofNat 32 (s.dieStates 16 2)
  | .pwrStatus => BitVec.ofNat 32 s.pwrStatus
  | .diePwr d => BitVec.ofNat 32 (s.diePwr d)
  | .partState p => BitVec.ofNat 32 (s.partState p)
  | .qlPortStatus q => BitVec.ofNat 32 (s.qlPortStatus q)
  | .qlRouteData => (Tab.get (fun _ => (0 : BitVec 4)) s.routes (bits (s.reg (.glob .qlRouteSel)) 10 0)).zeroExtend 32
  | .spanStatus => setBits v 17 17 (flagAt s.spanPending 0)
  | .rasCmd | .pwrCmd | .spanCommit => 0
  | _ => v

/-! ### Hank-die blocks -/

/-- Word `n` of the record that an alarm entry holds; zero when it is empty (R372). -/
def State.alarmWord (s : State) (h entry n : Nat) : Word32 :=
  match Tab.get (fun _ => none) (s.hank h).alarms entry with
  | some r => ((r.encode 0) >>> (32 * n)).truncate 32
  | none => 0

/-- A register of a hank-die block. -/
def State.hankValue (s : State) (h : Fin 4) (r : HReg) : Word32 :=
  let v := s.reg (.hank h r)
  let k := s.hank h
  if !k.running then 0xFFFFFFFF
  else match r with
  | .fcStatus => setBits (setBits v 23 16 k.windows.length) 15 8 k.alarms.length
  | .fcAlarmData n => s.alarmWord h (bits (s.reg (.hank h .fcAlarmSel)) 6 0) n
  | .pkeRingCfg => setBits v 30 30 (flagAt k.pke.active 0)
  | .pkeStatus => setBits v 15 0 k.pke.head
  | .pkeDb | .fcAlarmAck => 0
  | _ => v

/-! ### Skein-die windows (R444, R445) -/

/-- A die-level register of a site. -/
def State.dieValue (s : State) (d : Fin 18) (r : DReg) : Word32 :=
  let v := s.reg (.die d r)
  match (s.site d).state with
  | .retired => 0xFFFFFFFF
  | .spare => (match r with
    | .bwSplit => s.storeSplit
    | _ => 0)
  | _ => match r with
    | .bwStatus => setBits v 17 17 (flagAt (s.commitPending (.bw d)) 0)
    | .bwCommit => 0
    | _ => v

/-- A register of a tile window. -/
def State.tileValue (s : State) (t : Fin 576) (r : TReg) : Word32 :=
  let v := s.reg (.tile t r)
  if !s.diePowered (siteOf t) then 0xFFFFFFFF
  else match r with
  | .qstat n => s.qstat t n
  | .sem n => s.semWord t n
  | .qtabStatus => setBits v 17 17 (flagAt (s.commitPending (.qtab t)) 0)
  | .qtabCommit => 0
  | _ => v

/-! ### Partition registers -/

/-- FROG_STATUS (R320). -/
def Part.frogPhase (x : Part) : Nat := match x.frog with
  | none => 0
  | some f => if f.step = 0 then 1 else 2

/-- A ring pair holds entries for lack of completion-ring space (R258): more than its ring has free slots, or it writes none. -/
def State.holding (s : State) (p n : Nat) : Bool :=
  let r := s.ring p n
  !r.hold.isEmpty && (decide (s.cqFree p n < r.hold.length) || r.deliveryStopped || !r.active)

/-- A register of a partition, without the side effects that some reads have. -/
def State.partValue (s : State) (p : Fin 64) (r : PReg) : Word32 :=
  let v := s.reg (.part p r)
  let x := s.part p
  match r with
  | .dbSq _ | .dbCq _ | .swatchKey _ | .ctlCommit | .mtCommit | .frogCtrl => 0
  | .ringCtrl n => setBits v 1 1 (flagAt (s.ring p n).active 0)
  | .ringPtr n => BitVec.ofNat 32 ((s.ring p n).cqTail * 2 ^ 16 + (s.ring p n).sqHead % 2 ^ 16)
  | .ringStatus n => setBits v 3 3 (flagAt (s.holding p n) 0)
  | .frogStatus => BitVec.ofNat 32 x.frogPhase
  | .coreCtrl => BitVec.ofNat 32 (x.cores % 256 * 2 ^ 16 + flagAt x.coresRun 8)
  | .hookStatus => setBits v 31 31 0
  | .ctlStatus => setBits (setBits (setBits v 0 0 (flagAt (s.commitPending (.handle p)) 0)) 1 1 (flagAt (s.commitPending (.keyDir p)) 0)) 2 2 (flagAt (s.commitPending (.bundle p)) 0)
  | .mtStatus => setBits v 17 17 (flagAt x.mtSnap.isSome 0)
  | _ => v

/-- A read of a partition register, with its side effects (R73, R396, R402). -/
def State.partRead (s : State) (p : Fin 64) (r : PReg) : Word32 × State :=
  match r with
  | .mtData => s.mtDataRead p
  | .inspData => s.inspect p
  | .swatchSeq n => s.swatchSeqRead p n
  | _ => (s.partValue p r, s)

/-- The registers that the operator window hides (R440). -/
def hiddenReg : PReg → Bool
  | .hook _ | .hookStatus | .inspSel | .inspOffset | .inspData => true
  | .swatchCfg _ | .swatchSeq _ | .swatchD0 _ | .swatchD1 _ | .swatchD2 _ | .swatchD3 _ | .swatchKey _ => true
  | _ => false

/-- A read of the register image that a tenant core sees (R439). -/
def State.imageRead (s : State) (p : Fin 64) (o : Nat) : Word32 × State :=
  if !s.partOpen p then (0, s)
  else if 0x6000 ≤ o then (0, s)
  else match vfPlace o with
  | .reg r => s.partRead p r
  | .reserved => (0xFFFFFFFF, s)
  | _ => (0, s)

end Sys2Proof.Machine
end

