-- ==== Sys2Proof/Machine/Mgmt.lean ====
section
/-! DEFINITION. The management side: the Etdar command set over SMBus (R428, R430), the settings store (R431 to R434), lifecycle changes (R327), PLDM (R429), and JTAG (R397, R424). -/
namespace Sys2Proof.Machine

/-! ### Answers (R430) -/

/-- A command that changes nothing: 1 busy, 2 not permitted in this state, 3 malformed. -/
def State.mgmtRefuse (s : State) (cmd completion : Nat) : State := s.emit (.mgmt cmd completion none [])

/-- A command that is accepted and has ended. -/
def State.mgmtDone (s : State) (cmd : Nat) (st : Option Status) (data : List Nat) : State := s.emit (.mgmt cmd 0 st data)

/-- A command that does not run in M4; start-up does not keep it out. -/
def State.mgmtRun (s : State) (cmd : Nat) (f : State → State) : State := if s.powered then f s else s.mgmtRefuse cmd 2

/-- GET_STATE: in M4 the lifecycle and the grade only. -/
def execGetState (s : State) : Host.Outcome State Fault Refusal :=
  .next (s.mgmtDone 0x01 none ([Lifecycle.code s.lifecycle, s.grade] ++
    (if s.powered then [s.rasStatus, s.pwrStatus, s.dieStates 0 16, s.dieStates 16 2] else [])))

/-! ### Output pins (R424, R427) -/

/-- SMB_ALERT_N is asserted while the endpoint holds an unread event message. -/
def State.smbAlert (s : State) : Bool := !s.mgmt.unread.isEmpty

/-- ALARM_N is low exactly while RAS_STATUS.ALARM is 1, and in an M4 that a fault forced. -/
def State.alarmLow (s : State) : Bool := s.alarmOut

/-- STBY_OK: the standby rail comes from the blade's input. Its range is not given: high whenever the input has a voltage at all (log entry 132). -/
def State.stbyOk (s : State) : Bool := decide (0 < s.power.inputMv)

/-! ### Alarms over SMBus -/

/-- The event messages of one alarm entry have been read (log entry 132). -/
def State.alertRead (s : State) (entry : Nat) : State :=
  { s with mgmt := { s.mgmt with unread := s.mgmt.unread.filter (fun src => decide (alarmEntry src ≠ entry)) } }

/-- ALARM_READ: the eight words of FC_ALARM_DATA; all ones of a hank die that has stopped (R443). -/
def execAlarmRead (h : Fin 4) (entry : BitVec 7) (s : State) : Host.Outcome State Fault Refusal :=
  .next (s.mgmtRun 0x02 (fun s => (s.alertRead entry.toNat).mgmtDone 0x02 none ((List.range 8).map (fun n =>
    if (s.hank h).running then (s.alarmWord h entry.toNat n).toNat else 0xFFFFFFFF))))

def execAlarmAck (h : Fin 4) (entry : BitVec 7) (s : State) : Host.Outcome State Fault Refusal :=
  .next (s.mgmtRun 0x03 (fun s => if (s.hank h).running then (s.alarmAck h entry.toNat).mgmtDone 0x03 none [] else s.mgmtRefuse 0x03 2))

/-- SET_CAP: a cap out of range is malformed; one to be stored is answered when the store holds it. -/
def State.setCap (s : State) (c : Nat) (store : Bool) : State :=
  if !s.capOk c then s.mgmtRefuse 0x10 3
  else
    let set := fun (s : State) => s.setReg (.glob .pwrCap) (BitVec.ofNat 32 c)
    if store then (match s.storePut { job := .field 0x06 (.cap c), answer := some 0x10 } with
      | some s' => set s'
      | none => s.mgmtRefuse 0x10 1)
    else (set s).mgmtDone 0x10 none []

def execSetCap (cap : BitVec 16) (store : Bool) (s : State) : Host.Outcome State Fault Refusal :=
  .next (s.mgmtRun 0x10 (fun s => s.setCap cap.toNat store))

/-- POWER: the answer comes when the command ends; that to 0x4 and 0x8 before the module goes down. -/
def State.powerCmd (s : State) (op : Nat) : State :=
  if op = 4 then (s.mgmtDone 0x11 (some .done) []).enterM4
  else if op ≠ 1 ∧ op ≠ 2 ∧ op ≠ 8 then s.mgmtRefuse 0x11 3
  else if s.power.cmd.isSome then s.mgmtRefuse 0x11 1
  else if op = 1 then s.enterM3 true
  else if op = 2 then s.leaveCmd true
  else (s.mgmtDone 0x11 (some .done) []).moduleReset

def execPower (op : BitVec 8) (s : State) : Host.Outcome State Fault Refusal :=
  .next (s.mgmtRun 0x11 (fun s => s.powerCmd op.toNat))

/-- COLD_RESET: in M4 as well. -/
def execColdReset (s : State) : Host.Outcome State Fault Refusal := .next (s.mgmtDone 0x12 none []).coldReset

/-- PARTITION: the record comes inline, MAP_ADDR zero, with at most 64 map entries. -/
def State.partitionCmd (s : State) (op p : Nat) (record : BitVec 2048) (maps : List (BitVec 128)) : State :=
  let x := record.toNat
  let reads := decide (op = 1) || decide (op = 3)
  if op = 0 ∨ 4 < op ∨ 64 ≤ p ∨ 64 < maps.length ∨ (reads = true ∧ (prMapAddr x ≠ 0 ∨ prMapCount x ≠ maps.length)) then s.mgmtRefuse 0x20 3
  else if s.partCmd.isSome then s.mgmtRefuse 0x20 1
  else match op with
  | 1 => s.partCreate (.inline record maps) p true
  | 2 => s.partDestroy p true
  | 3 => s.partRemap (.inline record maps) p true
  | _ => s.partFrog p true

def execPartition (op p : BitVec 8) (record : BitVec 2048) (maps : List (BitVec 128)) (s : State) : Host.Outcome State Fault Refusal :=
  .next (s.mgmtRun 0x20 (fun s => s.partitionCmd op.toNat p.toNat record maps))

/-- RETIRE: as RAS_CMD; the answer comes when the retirement ends. -/
def State.retireCmd (s : State) (site : Nat) : State :=
  if bit (s.reg (.glob .rasCmdStatus)) 0 then s.mgmtRefuse 0x21 1
  else match s.rasRetire 1 site true with
  | .ok s' => s'
  | .error st => (s.setField (.glob .rasCmdStatus) 31 16 st.code).mgmtDone 0x21 (some st) []

def execRetire (site : BitVec 8) (s : State) : Host.Outcome State Fault Refusal :=
  .next (s.mgmtRun 0x21 (fun s => s.retireCmd site.toNat))

/-! ### Lifecycle (R327) -/

/-- The transitions, and who issues them: `auth` says that an Etdar-signed authorisation came along. -/
def lifecycleMove (old new : Lifecycle) (auth : Bool) : Bool :=
  match old, new with
  | .manufacturing, .provisioned => auth
  | .provisioned, .deployed => true
  | .deployed, .provisioned => true
  | .deployed, .returned => true
  | .provisioned, .returned => true
  | .returned, .manufacturing => auth
  | _, _ => false

/-- LIFECYCLE: the fuse is written, then the module is reset; leaving Deployed and going to Returned need every partition destroyed.
At the change to Provisioned the identity key is certified (R347). -/
def State.lifecycleCmd (s : State) (target : Lifecycle) (auth : Bool) : State :=
  let empties := decide (s.lifecycle = .deployed) || decide (target = .returned)
  let cert := s.identityCert || decide (s.lifecycle = .manufacturing ∧ target = .provisioned)
  if lifecycleMove s.lifecycle target auth && (!empties || s.parts.all (fun q => decide (q.2.state = .free))) then
    ({ s with lifecycle := target, identityCert := cert }.mgmtDone 0x30 (some .done) []).moduleReset
  else s.mgmtDone 0x30 (some .protect) []

def execLifecycle (target : Lifecycle) (auth : Bool) (s : State) : Host.Outcome State Fault Refusal :=
  .next (s.mgmtRun 0x30 (fun s => s.lifecycleCmd target auth))

/-! ### The settings store (R431 to R434) -/

/-- The words of a field, if there is such a field. -/
def StoreImage.field (i : StoreImage) : Nat → Option (List Nat)
  | 0x01 => some [i.trims]
  | 0x02 => some [i.sensorOffsets]
  | 0x03 => some [i.phySeeds]
  | 0x04 => some [i.flowCal]
  | 0x05 => some [i.spareA, i.spareB]
  | 0x06 => some [i.cap]
  | 0x07 => some [i.interleave]
  | 0x08 => some [i.bwRead, i.bwWrite, i.bwRemote]
  | 0x09 => some i.coefficients
  | 0x0A => some [i.moduleId.toNat]
  | _ => none

/-- A value written into a field. -/
def StoreImage.put (i : StoreImage) : Nat → StoreValue → StoreImage
  | 0x01, .opaqueField v => { i with trims := v }
  | 0x02, .opaqueField v => { i with sensorOffsets := v }
  | 0x03, .opaqueField v => { i with phySeeds := v }
  | 0x04, .opaqueField v => { i with flowCal := v }
  | 0x05, .spares a b => { i with spareA := a, spareB := b }
  | 0x06, .cap c => { i with cap := c }
  | 0x07, .interleave c => { i with interleave := c }
  | 0x08, .split a b c => { i with bwRead := a, bwWrite := b, bwRemote := c }
  | 0x09, .coefficients l => { i with coefficients := l }
  | 0x0A, .moduleId id => { i with moduleId := id }
  | _, _ => i

/-- A populated site. -/
def State.populated (s : State) (d : Nat) : Bool := decide (d < 18) && !(decide (s.grade = 3) && decide (16 ≤ d))

/-- R432: does a value suit its field and lie in its range? -/
def State.storeOk (s : State) : Nat → StoreValue → Bool
  | 0x01, .opaqueField _ => true
  | 0x02, .opaqueField _ => true
  | 0x03, .opaqueField _ => true
  | 0x04, .opaqueField _ => true
  | 0x05, .spares a b => s.populated a && s.populated b
  | 0x06, .cap c => s.capOk c
  | 0x07, .interleave c => decide (c < 3)
  | 0x08, .split a b c => decide (a + b + c = 16)
  | 0x09, .coefficients l => decide (l.length = 7)
  | 0x0A, .moduleId _ => true
  | _, _ => false

/-- R432 on every field of an image. -/
def State.imageOk (s : State) (i : StoreImage) : Bool :=
  s.storeOk 0x05 (.spares i.spareA i.spareB) && s.storeOk 0x06 (.cap i.cap) && s.storeOk 0x07 (.interleave i.interleave) &&
  s.storeOk 0x08 (.split i.bwRead i.bwWrite i.bwRemote) && s.storeOk 0x09 (.coefficients i.coefficients)

/-- Every Quolyn port is in phase 0 (R412). -/
def State.portsDown (s : State) : Bool := (List.range 8).all (fun q => decide ((s.port q).phase = 0))

/-- Store commands run on hank die 0. -/
def State.storeRuns (s : State) : Bool := (s.hank 0).running

def execStoreRead (field : BitVec 8) (s : State) : Host.Outcome State Fault Refusal :=
  .next (if !s.storeRuns then s.mgmtRefuse 0x40 2
    else match StoreImage.field s.store field.toNat with
    | some d => s.mgmtDone 0x40 none d
    | none => s.mgmtRefuse 0x40 3)

/-- STORE_WRITE: answered when the new image is current; a ninth that would wait finds the store busy. -/
def State.storeWriteCmd (s : State) (field : Nat) (v : StoreValue) : State :=
  if !s.storeOk field v then s.mgmtRefuse 0x41 3
  else if !s.storeRuns || (decide (field = 0x0A) && !s.portsDown) then s.mgmtRefuse 0x41 2
  else match s.storePut { job := .field field v, answer := some 0x41 } with
  | some s' => s'
  | none => s.mgmtRefuse 0x41 1

def execStoreWrite (field : BitVec 8) (value : StoreValue) (s : State) : Host.Outcome State Fault Refusal :=
  .next (s.mgmtRun 0x41 (fun s => s.storeWriteCmd field.toNat value))

/-- The words of an image, field by field. -/
def StoreImage.words (i : StoreImage) : List Nat := (List.range 11).flatMap (fun n => (StoreImage.field i n).getD [])

/-- STORE_EXPORT: the image, the serial number and the hash (log entry 11). -/
def execStoreExport (s : State) : Host.Outcome State Fault Refusal :=
  .next (if s.storeRuns then s.mgmtDone 0x42 none (StoreImage.words s.store ++ [s.serial.toNat, Config.derived 384 (StoreImage.number s.store)])
    else s.mgmtRefuse 0x42 2)

/-- STORE_IMPORT: the module's own serial number and a correct hash; then one write of the whole image. -/
def State.storeImport (s : State) (img : StoreImage) (serial : BitVec 64) (hashOk : Bool) : State :=
  if decide (serial ≠ s.serial) || !hashOk || !s.imageOk img then s.mgmtRefuse 0x43 3
  else if !s.storeRuns || (decide (img.moduleId ≠ s.store.moduleId) && !s.portsDown) then s.mgmtRefuse 0x43 2
  else match s.storePut { job := .image img, answer := some 0x43 } with
  | some s' => s'
  | none => s.mgmtRefuse 0x43 1

def execStoreImport (img : StoreImage) (serial : BitVec 64) (hashOk : Bool) (s : State) : Host.Outcome State Fault Refusal :=
  .next (s.mgmtRun 0x43 (fun s => s.storeImport img serial hashOk))

/-- The image that a write makes current. -/
def State.imageAfter (s : State) : StoreJob → StoreImage
  | .field n v => StoreImage.put s.store n v
  | .image i => i

/-- Does a write of the store write a field? -/
def StoreJob.writes (j : StoreJob) (n : Nat) : Bool := match j with
  | .field m _ => decide (m = n)
  | .image _ => true

/-- Registers that show a field of the store follow the writes of it: INTERLEAVE and MODULE_ID show the field that has just been written, unless a later write of it waits. A MODULE_ID that finds a port above
phase 0 takes effect at the next bring-up of a port. -/
def State.showStore (s : State) (j : StoreJob) : State :=
  let shows := fun (n : Nat) => j.writes n && !(s.storeBusy.toList ++ s.storeQueue).any (fun w => w.job.writes n)
  let s := if shows 0x07 then s.setField (.glob .memCfg) 3 2 s.store.interleave else s
  if !shows 0x0A then s
  else if s.portsDown then { s.setField (.glob .qlNode) 10 0 s.store.moduleId.toNat with mgmt := { s.mgmt with idDue := none } }
  else { s with mgmt := { s.mgmt with idDue := some s.store.moduleId } }

/-- A new calibration of the flow sensor takes effect at once: the flow reading changes, to a value that the spec does not give (R431). -/
def State.recalibrate (s : State) (old : StoreImage) : State :=
  if s.store.flowCal = old.flowCal then s
  else
    let (v, s) := s.draw
    s.coolantFlow v

/-- STORE_WRITE_DONE (R433): the switch record makes the new image current; the next write begins. -/
def State.storeDone (s : State) : State :=
  match s.storeBusy with
  | none => s
  | some w =>
    let old := s.store
    let s := { s with store := s.imageAfter w.job, storeBusy := s.storeQueue.head?, storeQueue := s.storeQueue.drop 1 }
    let s := (s.showStore w.job).recalibrate old
    match w.answer with
    | some c => s.mgmtDone c none []
    | none => s

def execStoreWriteDone (s : State) : Host.Outcome State Fault Refusal := .next s.storeDone

/-! ### MCTP and PLDM (R428, R429) -/

/-- The endpoint's 7-bit SMBus address (R428). -/
def State.smbusAddress (s : State) : Nat := 0x60 + s.mgmt.straps.toNat

/-- SET_ENDPOINT_ID: in every state the EID is taken and the request is answered, with completion 0 and the EID (log entry 132). -/
def execSetEndpointId (eid : BitVec 8) (s : State) : Host.Outcome State Fault Refusal :=
  .next ({ s with mgmt := { s.mgmt with eid := eid } }.emit (.mctp [0, eid.toNat]))

/-- A sensor that no state of the model holds: a measured value is free. -/
def State.measured (s : State) : List Nat × State :=
  let (v, s) := s.draw
  ([v], s)

/-- Is an entry filled in the table of any hank die that runs? -/
def State.alarmFilled (s : State) (e : Nat) : Bool := s.hanks.any (fun q => q.2.running && (Tab.get (fun _ => none) q.2.alarms e).isSome)

/-- The data of a PLDM answer; in M4 the sensors have none. -/
def State.pldmData (s : State) : PldmRequest → List Nat × State
  | .baseDiscovery => ([0, 2], s)
  | .inputVoltage => ([s.power.inputMv], s)
  | .inputCurrent => s.measured
  | .inputPower => ([s.power.inputWatts], s)
  | .coolantTemp => ([s.power.inletDeci], s)
  | .coolantFlow => ([s.power.flowCenti], s)
  | .siteTemp d => ([(s.site d).tempDeci], s)
  | .hankTemp _ => s.measured
  | .stackTemp k => (match Tab.get (fun _ => none) s.power.stackDeci k.val with
    | some t => ([t], s)
    | none => s.measured)
  | .effectiveCap => ([s.effCap], s)
  | .activeDies => ([s.sitesIn .active], s)
  | .spares => ([s.sitesIn .spare], s)
  | .alarmState e => ([if s.alarmFilled e then 1 else 0], s.alertRead e)
  | .degraded => ([if s.degraded then 1 else 0], s)

def execPldmRequest (r : PldmRequest) (s : State) : Host.Outcome State Fault Refusal :=
  .next (if s.powered ∨ r = .baseDiscovery then
      let (d, s) := s.pldmData r
      s.emit (.pldm d)
    else s.emit (.pldm []))

/-! ### JTAG (R397, R424) -/

def execTapInstruction (i : TapInstr) (s : State) : Host.Outcome State Fault Refusal :=
  .next { s with mgmt := { s.mgmt with tap := s.tapSelect i } }

/-- A tenant core by physical hart number (R19). -/
def tenantHart (h : Nat) : Bool := decide (h < 144) && decide (2 ≤ h % 8)

/-- ABSTRACT_COMMAND: what it returns of a hart that it reaches is a free value. -/
def State.abstractCmd (s : State) (hart : Nat) : State :=
  if !s.powered then s
  else if tenantHart hart && !s.testState then { s with mgmt := { s.mgmt with cmderr := 2 } }
  else
    let (v, s) := s.draw
    ({ s with mgmt := { s.mgmt with cmderr := 0 } }).emit (.jtag v)

def execAbstractCommand (hart : Fin 160) (s : State) : Host.Outcome State Fault Refusal := .next (s.abstractCmd hart)

/-- May the debug module reach an address over the system bus: on no page that a partition holds or that is under scrub, and not the runtime's
memory (R397)? -/
def State.busOpen (s : State) (pa : Nat) : Bool :=
  decide (pa < runtimeBase) && decide (pa % 4 = 0) && !s.usedPages.any (fun q => decide (q.1 ≤ pa ∧ pa < q.1 + q.2))

/-- SYSTEM_BUS_ACCESS: a read or a write of 4 bytes, or sberror. -/
def State.busAccess (s : State) (pa : Nat) (w : Option Word32) : State :=
  if !s.answers then s
  else if decide (s.power.state = .m3) || !s.busOpen pa then ({ s with mgmt := { s.mgmt with sberr := 2 } }).emit .sbError
  else
    let s := { s with mgmt := { s.mgmt with sberr := 0 } }
    match w with
    | some v => s.storePhys pa (leBytes 4 v.toNat)
    | none =>
      if s.lineBad (pa / 64) then ({ (s.badLine pa none (columnUnit (s.column pa))) with mgmt := { s.mgmt with sberr := 7 } }).emit .sbError
      else s.emit (.sba (BitVec.ofNat 32 (leNat (s.readPhys pa 4))))

def execSystemBusAccess (pa : BitVec 41) (write : Option (BitVec 32)) (s : State) : Host.Outcome State Fault Refusal :=
  .next (s.busAccess pa.toNat write)

end Sys2Proof.Machine
end

