-- ==== Sys2Proof/Machine/Regs.lean ====
section
/-! DEFINITION. Register writes from every side (R10 to R12, R435 to R448), broadcasts (R446), the memory configuration (R227), the accesses of tenant cores (R319, R439), and the application of cast-on commits (R78). -/
namespace Sys2Proof.Machine

/-! ### Fields (R11, R12) -/

/-- A write by the field types alone. -/
def State.plainWrite (s : State) (r : Reg) (v : Word32) : State := s.setReg r (r.written (s.reg r) v)

/-- A write to a partition register whose value may be reserved: then the register keeps its value and DESC_MALFORMED is set (R12). -/
def State.checkedWrite (s : State) (p : Fin 64) (r : PReg) (v : Word32) (ok : Bool) : State :=
  if ok then s.plainWrite (.part p r) v else s.malformed p

/-! ### The module global block (R442) -/

/-- MEM_CFG (R227): PATROL at once, INTERLEAVE into the store; a reserved code discards the write (R437). -/
def State.memCfgWrite (s : State) (v : Word32) : State :=
  if bits v 1 0 = 3 ∨ bits v 3 2 = 3 then s
  else (s.plainWrite (.glob .memCfg) v).storeFromReg 0x07 (.interleave (bits v 3 2))

def execMemCfgWrite (value : BitVec 32) (s : State) : Host.Outcome State Fault Refusal :=
  .next (if s.answers then s.memCfgWrite value else s)

/-- PART_CMD (R310, R311): with GO it is discarded while BUSY; its record lies in the host memory of the issuing port. -/
def State.partCmdWrite (s : State) (h : Fin 4) (v : Word32) : State :=
  let op := bits v 3 0
  let p := bits v 13 8
  if op = 0 ∨ 4 < op then s
  else if !bit v 31 then s.plainWrite (.glob .partCmd) v
  else if s.partCmd.isSome then s
  else if op = 1 then s.partCreate (.host h) p false
  else if op = 2 then s.partDestroy p false
  else if op = 3 then s.partRemap (.host h) p false
  else s.partFrog p false

/-- The route entry that QL_ROUTE_SEL selects (R412). -/
def State.routeWrite (s : State) (v : Word32) : State :=
  { s with routes := Tab.set (fun _ => 0) s.routes (bits (s.reg (.glob .qlRouteSel)) 10 0) (v.truncate 4) }

/-- A write to the module global block; `h` is the port it came through. -/
def State.globWrite (s : State) (h : Fin 4) (r : GReg) (v : Word32) : State :=
  match r with
  | .rasCmd => s.rasCmd v
  | .pwrCap => s.pwrCapWrite v
  | .pwrCmd => if bit v 31 then s.pwrCmd (bits v 3 0) else s
  | .memCfg => s.memCfgWrite v
  | .partCmd => s.partCmdWrite h v
  | .qlNode => s.qlNodeWrite v
  | .qlRouteData => s.routeWrite v
  | .spanCommit => s.spanCommit v
  | _ => s.plainWrite (.glob r) v

/-! ### Hank-die blocks (R443) -/

/-- PKE_RING_CFG (R343): the other fields first, then ENABLE. -/
def State.pkeCfgWrite (s : State) (h : Fin 4) (v : Word32) : State :=
  let r := Reg.hank h .pkeRingCfg
  if bits v 4 0 < 4 ∨ 10 < bits v 4 0 then s
  else
    let on := s.pkeEnabled h
    let s := s.plainWrite r (setBits v 31 31 (flagAt on 0))
    if bit v 31 && !on then (s.setField r 31 31 1).startCommit (.pkeRing h) (pkeRegs h)
    else if on && !bit v 31 then s.pkeDisable h
    else s

/-- A write to a hank-die block. -/
def State.hankWrite (s : State) (h : Fin 4) (r : HReg) (v : Word32) : State :=
  if !(s.hank h).running then s
  else match r with
  | .fcAlarmAck => if bit v 0 then s.alarmAck h (bits (s.reg (.hank h .fcAlarmSel)) 6 0) else s
  | .pkeRingCfg => if s.pkeOpen h then s.pkeCfgWrite h v else s
  | .pkeDb => if s.pkeOpen h then s.pkeDb h v else s
  | .pkeRingBaseLo | .pkeRingBaseHi | .pkeStatus => if s.pkeOpen h then s.plainWrite (.hank h r) v else s
  | .logCfg => s.pathCfgWrite h logPath v
  | .trcCfg => s.pathCfgWrite h tracePath v
  | .logBaseLo | .logBaseHi => if s.pathEnabled h logPath then s else s.plainWrite (.hank h r) v
  | .trcBaseLo | .trcBaseHi => if s.pathEnabled h tracePath then s else s.plainWrite (.hank h r) v
  | _ => s.plainWrite (.hank h r) v

/-! ### Skein-die windows (R444) -/

/-- A write to a die-level register of a site. -/
def State.dieWrite (s : State) (d : Fin 18) (r : DReg) (v : Word32) : State :=
  if !s.diePowered d then s
  else match r with
  | .bwCommit => if bit v 0 then s.bwCommit d else s
  | _ => s.plainWrite (.die d r) v

/-- The values of FEED_LIMIT that are not reserved (R203). -/
def feedLimitOk (v : Word32) : Bool := [0, 1, 2, 3].all (fun i => decide (1 ≤ bits v (8 * i + 7) (8 * i)) && decide (bits v (8 * i + 7) (8 * i) ≤ 120))

/-- The values of VEC_VLMAX that are not reserved (R168). -/
def vlmaxOk (v : Word32) : Bool := decide (bits v 12 0 % 128 = 0) && decide (128 ≤ bits v 12 0) && decide (bits v 12 0 ≤ 4096)

/-- The values of QCFG_HI that are not reserved: TYPE is one of R164's codes (R188); a stream code is judged by the commit (R189). -/
def qcfgHiOk (v : Word32) : Bool := decide (bits v 7 4 < 6)

/-- A write to a tile register of a resource that comes with a quad, queues and feeders (R308), whose value may be reserved: then it keeps its value, and DESC_MALFORMED is set
for the partition that holds the tile, if one does (R12). VEC_VLMAX belongs to no partition: a reserved value of it sets nothing (R437). -/
def State.checkedTileWrite (s : State) (t : Fin 576) (r : TReg) (v : Word32) (ok : Bool) : State :=
  if ok then s.plainWrite (.tile t r) v else s.stickOpt (s.holder t) .descMalformed

/-- A write to a tile register. -/
def State.tileWrite (s : State) (t : Fin 576) (r : TReg) (v : Word32) : State :=
  if !s.diePowered (siteOf t) then s
  else match r with
  | .qtabCommit => if bit v 0 then s.qtabCommit t else s
  | .sem n => s.semWrite t n v
  | .spadPwr => s.spadWrite t (v.truncate 8)
  | .vecCtrl => s.vecCtrlWrite t v
  | .feedLimit => s.checkedTileWrite t r v (feedLimitOk v)
  | .vecVlmax => if vlmaxOk v then s.plainWrite (.tile t r) v else s
  | .qcfgHi _ => s.checkedTileWrite t r v (qcfgHiOk v)
  | _ => s.plainWrite (.tile t r) v

/-! ### Partition registers (R447, R448) -/

/-- CORE_CTRL (R320): START is discarded while a core runs as the write arrives. -/
def State.coreCtrlWrite (s : State) (p : Fin 64) (v : Word32) : State :=
  let ran := (s.part p).coresRun
  let s := if bit v 1 then s.stopCores p else s
  if bit v 0 && !ran then s.coreStart p else s

/-- MT_ADDR (R73): the entries 80 to 126 are reserved, and words above 7 of a prime entry. -/
def mtAddrOk (v : Word32) : Bool := decide (bits v 10 4 = 0x7F) || (decide (bits v 10 4 < 80) && decide (bits v 3 0 < 8))

/-- RING_CFG (R251): both sizes are 4 to 16. -/
def ringCfgOk (v : Word32) : Bool :=
  decide (4 ≤ bits v 4 0 ∧ bits v 4 0 ≤ 16) && decide (4 ≤ bits v 12 8 ∧ bits v 12 8 ≤ 16)

/-- A write to a register of partition `p`. -/
def State.partWrite (s : State) (p : Fin 64) (r : PReg) (v : Word32) : State :=
  match r with
  | .dbSq n => s.dbSq p n v
  | .dbCq n => s.dbCq p n v
  | .ringCfg _ => s.checkedWrite p r v (ringCfgOk v)
  | .ringCtrl n => if bit v 0 then s.enableRing p n else s.disableRing p n
  | .frogCtrl => s.jobFrog p v
  | .coreCtrl => s.coreCtrlWrite p v
  | .hookStatus => if bit v 31 then s.hookResume p else s
  | .inspSel => s.checkedWrite p r v (decide (bits v 26 24 < 4))
  | .smpCfg => s.smpCfgWrite p v
  | .smpBaseLo | .smpBaseHi | .smpSel _ => s.checkedWrite p r v (!s.sampling p)
  | .swatchKey k => if k = 3 then s.swatchInstall p v else s.swatchKeyWrite p k v
  | .ctHandleCount => s.checkedWrite p r v (decide (bits v 20 0 ≤ 0x100000))
  | .ctNoiseGuard => s.checkedWrite p r v (decide (bits v 15 0 ≤ 0x4000))
  | .ctScaleTol => s.checkedWrite p r v (decide (v.toNat ≤ 0x10000))
  | .ctlCommit => s.ctlCommit p v
  | .mtAddr => s.checkedWrite p r v (mtAddrOk v)
  | .mtData => s.mtDataWrite p v
  | .mtCommit => s.mtCommit p v
  | .rbCount => s.checkedWrite p r v (decide (bits v 4 0 ≤ 16))
  | .keyDirCount => s.checkedWrite p r v (decide (bits v 12 0 ≤ 0x1000))
  | _ => s.plainWrite (.part p r) v

/-! ### MSI-X tables (R435, R438) -/

/-- A write to the table of function `key`; clearing a vector's mask sends its pending message. -/
def State.msixWrite (s : State) (key o : Nat) (v : Word32) (msg : Nat → Output) : State :=
  if 256 ≤ o then s
  else
    let w := o / 4
    let n := w / 4
    let s := { s with msix := Tab.set (fun w => if w % 4 = 3 then 1 else 0) s.msix (64 * key + w) v }
    if w % 4 = 3 ∧ bit v 0 = false ∧ Tab.get (fun _ => false) s.msixPending (16 * key + n) = true then
      ({ s with msixPending := Tab.set (fun _ => false) s.msixPending (16 * key + n) false }).emit (msg n)
    else s

/-! ### Who reaches what (R436, R441) -/

/-- The MSI-X table of a partition's virtual function (State.msix), with the function. -/
def State.vfMsix (s : State) (p : Nat) : Option (Nat × Nat × Nat) := ((s.part p).vf).map (fun (h, i) => (4 + 16 * h + i, h, i))

/-- A write to a partition's registers through the operator window: what the window hides from the physical functions it does not hide from the runtime (R440, R441). -/
def State.windowWrite (s : State) (p : Fin 64) (runtime : Bool) (o : Nat) (v : Word32) : State :=
  if s.viewOpen .operator p then
    match vfPlace o with
    | .reg r => if hiddenReg r && !runtime then s else s.partWrite p r v
    | .msix o => (match s.vfMsix p with
      | some (key, h, i) => if runtime then s.msixWrite key o v (.msixVf h i) else s
      | none => s)
    | _ => s
  else s

/-- A write in the layout of a skein-die window: `whole` says that the requester may write every tile register. -/
def State.dieWindowWrite (s : State) (d : Fin 18) (o : Nat) (v : Word32) (whole : Bool) : State :=
  match dieBlock d o with
  | .die d o => (match DReg.ofOff o with
    | some r => s.dieWrite d r v
    | none => s)
  | .tile t o => (match TReg.ofOff o with
    | some r => if whole || decide (r = .vecCtrl) then s.tileWrite t r v else s
    | none => s)
  | _ => s

/-- The targets of a broadcast: the active sites, in ascending order (R446). -/
def State.targets (s : State) (f : Nat → Bool) : List (Fin 18) := (List.finRange 18).filter (fun d => decide ((s.site d).state = .active) && f d.val)

/-- A broadcast write: a single write at each target. -/
def State.broadcast (s : State) (b : Block) (v : Word32) (whole : Bool) : State :=
  match b with
  | .bcastAll o => (s.targets (fun _ => true)).foldl (fun s d => s.dieWindowWrite d o v whole) s
  | .bcastGroup o =>
    let m := s.reg (.glob .bcastMask)
    (s.targets (fun d => bit m d)).foldl (fun s d => s.dieWindowWrite d o v whole) s
  | .bcastTile o => (s.targets (fun _ => true)).foldl (fun s d => s.dieWindowWrite d (0x80000 + o) v whole) s
  | _ => s

/-- The ring registers of the security block window (R445): the offset in the block of hank die `o / 0x40000`. -/
def securityReg (o : Nat) : Option HReg := if 0x100 ≤ o % 0x40000 ∧ o % 0x40000 ≤ 0x110 then HReg.ofOff (o % 0x40000) else none

/-- A write in the physical-function map: by the physical function of port `h`, or by the runtime. -/
def State.pfWrite (s : State) (h : Fin 4) (runtime : Bool) (a : Nat) (v : Word32) : State :=
  match pfBlock a with
  | .glob o => (match GReg.ofOff o with
    | some (.ptRoot p) => if runtime then s.plainWrite (.glob (.ptRoot p)) v else s
    | some r => s.globWrite h r v
    | none => s)
  | .hank k o => (match HReg.ofOff o with
    | some r => s.hankWrite k r v
    | none => s)
  | .msix o => if runtime then s else s.msixWrite h o v (.msixPf h)
  | .window p o => s.windowWrite p runtime o v
  | .die d o => s.dieWindowWrite d o v runtime
  | .tile t o => (match TReg.ofOff o with
    | some r => if runtime || decide (r = .vecCtrl) then s.tileWrite t r v else s
    | none => s)
  | .security o => if s.testState || runtime then (match securityReg o with
      | some r => s.hankWrite (hIdx (o / 0x40000)) r v
      | none => s) else s
  | .reserved => s
  | b => s.broadcast b v runtime

/-- A write through virtual function `i` of port `h` (R438). -/
def State.vfWrite (s : State) (h : Fin 4) (i : Fin 16) (o : Nat) (v : Word32) : State :=
  match s.vfPart h i with
  | some p => (match vfPlace o with
    | .reg r => s.partWrite (pIdx p) r v
    | .msix o => s.msixWrite (4 + 16 * h.val + i.val) o v (.msixVf h i)
    | _ => s)
  | none => s

/-- A write to the register image of a tenant core (R439). -/
def State.imageWrite (s : State) (p : Fin 64) (o : Nat) (v : Word32) : State :=
  if s.partOpen p then
    match vfPlace o with
    | .reg r => s.partWrite p r v
    | _ => s
  else s

/-- A write by a requester, of 4 bytes at an aligned offset; any other is discarded (R10). -/
def State.regWrite (s : State) (req : Requester) (o width : Nat) (v : Word32) : State :=
  if !s.reqOpen req || decide (width ≠ 4) || decide (o % 4 ≠ 0) then s
  else match req with
  | .pf h => s.pfWrite h false o v
  | .runtime => s.pfWrite 0 true o v
  | .vf h i | .runtimeVf h i => s.vfWrite h i o v
  | .core p => s.imageWrite p o v

def execRegisterWrite (req : Requester) (offset : BitVec 32) (width : Nat) (value : BitVec 32) (s : State) : Host.Outcome State Fault Refusal :=
  .next (s.regWrite req offset.toNat width value)

/-- Is this the block of a broadcast window? -/
def Block.isBroadcast : Block → Bool
  | .bcastAll _ | .bcastGroup _ | .bcastTile _ => true
  | _ => false

/-- BROADCAST_WRITE: a write to one of the three broadcast windows; virtual functions and cores reach none (R441). -/
def State.bcastWrite (s : State) (req : Requester) (o width : Nat) (v : Word32) : State :=
  match req with
  | .vf _ _ | .core _ => s
  | _ => if (pfBlock o).isBroadcast then s.regWrite req o width v else s

def execBroadcastWrite (req : Requester) (offset : BitVec 32) (width : Nat) (value : BitVec 32) (s : State) : Host.Outcome State Fault Refusal :=
  .next (s.bcastWrite req offset.toNat width value)

/-! ### Accesses of tenant cores (R318, R319, R439) -/

/-- The guest physical address of the register image. -/
def imageBase : Nat := 0x3000000000000

/-- A load from the register image: 4 aligned bytes, else all ones and no side effect (R10). -/
def State.imageLoad (s : State) (p : Fin 64) (vh o n : Nat) : State :=
  if n = 4 ∧ o % 4 = 0 then
    let (v, s) := s.imageRead p o
    s.coreReturn p vh (v.zeroExtend 64)
  else s.coreReturn p vh (BitVec.ofNat 64 (2 ^ (8 * n) - 1))

/-- What an access is to the VS stage, and its bytes. -/
def accessKind : CoreAccess → VsKind × Nat
  | .fetch => (.fetch, 4)
  | .load n => (.load, n)
  | .store n _ => (.store, n)
  | .context _ => (.load, 0)

/-- An access at a guest physical address: to device memory, or to the register image; no instruction is fetched from there. -/
def State.guestAccess (s : State) (p : Fin 64) (vh : Nat) (a : CoreAccess) (gpa : Nat) : State :=
  if imageBase ≤ gpa ∧ gpa < imageBase + 0x10000 then
    let o := gpa - imageBase
    match a with
    | .fetch => s.coreFault p vh 1 { va := gpa % 2 ^ 48, level := 3, protect := false }
    | .load n => s.imageLoad p vh o n
    | .store n v => if n = 4 ∧ o % 4 = 0 then s.imageWrite p o (v.truncate 32) else s
    | .context _ => s
  else match a with
  | .fetch => s.coreFetch p vh gpa
  | .load n => s.coreLoad p vh gpa n
  | .store n v => s.coreStore p vh gpa n v
  | .context _ => s

/-- An access of a tenant core, through the VS stage; or its context changes. -/
def State.coreAccess (s : State) (p : Fin 64) (vh : Nat) (a : CoreAccess) (va : Nat) : State :=
  if !s.coreRuns p vh then s
  else match a with
  | .context c => s.setVs p vh c
  | _ => match s.vsStage p vh (accessKind a).1 va (accessKind a).2 with
    | .error e => s.vsFault p vh (accessKind a).1 e
    | .ok ([(g, m), (g', m')], s) => s.coreSplit p vh a g m g' m'
    | .ok (ps, s) => s.guestAccess p vh a (ps.headD (0, 0)).1

def execCoreMemoryAccess (p : Fin 64) (vh : Nat) (a : CoreAccess) (va : BitVec 64) (s : State) : Host.Outcome State Fault Refusal :=
  .next (s.coreAccess p vh a va.toNat)

/-! ### Cast-on commits (R78) -/

/-- A waiting commit is applied or refused, once its group's quiescent point has come. -/
def State.applyCommit (s : State) (c : Commit) : State :=
  match c.group with
  | .handle p => s.ctlApply p c (handleGroup p) 64 0
  | .keyDir p => s.ctlApply p c (keyDirGroup p) 16 1
  | .bundle p => s.ctlApply p c (bundleGroup p) 64 2
  | .ring p n => s.ringApply p n c
  | .qtab t => s.qtabApply t c
  | .bw d => s.bwApply d c
  | .span n => s.spanApply n c
  | .pkeRing h => s.pkeApply h c

def execCastOnCommitApply (g : Group) (s : State) : Host.Outcome State Fault Refusal :=
  .next (match s.commits.find? (fun c => c.group = g) with
    | some c => s.applyCommit c
    | none => s)

end Sys2Proof.Machine
end

