-- ==== Sys2Proof/Machine/Dispatch.lean ====
section
/-! DEFINITION. Every command with its meaning: one arm per constructor of `Instr`. -/
namespace Sys2Proof.Machine

def exec (i : Instr) (s : State) : Host.Outcome State Fault Refusal :=
  match i with
  | .dbSqWrite view p n value => Sys2Proof.Machine.execDbSqWrite view p n value s
  | .dbCqWrite view p n value => Sys2Proof.Machine.execDbCqWrite view p n value s
  | .ringEnable view p n => Sys2Proof.Machine.execRingEnable view p n s
  | .ringDisable view p n => Sys2Proof.Machine.execRingDisable view p n s
  | .ringDrained p n => Sys2Proof.Machine.execRingDrained p n s
  | .submissionFetch p n => Sys2Proof.Machine.execSubmissionFetch p n s
  | .opReady o tiles => Sys2Proof.Machine.execOpReady o tiles s
  | .opPassoverBlock o => Sys2Proof.Machine.execOpPassoverBlock o s
  | .loadCt o => Sys2Proof.Machine.execLoadCt o s
  | .storeCt o => Sys2Proof.Machine.execStoreCt o s
  | .copy o => Sys2Proof.Machine.execCopy o s
  | .transposeCopy o => Sys2Proof.Machine.execTransposeCopy o s
  | .fill o => Sys2Proof.Machine.execFill o s
  | .add o => Sys2Proof.Machine.execAdd o s
  | .sub o => Sys2Proof.Machine.execSub o s
  | .neg o => Sys2Proof.Machine.execNeg o s
  | .addPlain o => Sys2Proof.Machine.execAddPlain o s
  | .mulPlain o => Sys2Proof.Machine.execMulPlain o s
  | .mulConst o => Sys2Proof.Machine.execMulConst o s
  | .mul o => Sys2Proof.Machine.execMul o s
  | .relin o => Sys2Proof.Machine.execRelin o s
  | .rescale o => Sys2Proof.Machine.execRescale o s
  | .modDrop o => Sys2Proof.Machine.execModDrop o s
  | .rotate o => Sys2Proof.Machine.execRotate o s
  | .hoistRotate o => Sys2Proof.Machine.execHoistRotate o s
  | .conjugate o => Sys2Proof.Machine.execConjugate o s
  | .keyswitch o => Sys2Proof.Machine.execKeyswitch o s
  | .nttFwd o => Sys2Proof.Machine.execNttFwd o s
  | .nttInv o => Sys2Proof.Machine.execNttInv o s
  | .bconv o => Sys2Proof.Machine.execBconv o s
  | .linearTransform o => Sys2Proof.Machine.execLinearTransform o s
  | .polyEval o => Sys2Proof.Machine.execPolyEval o s
  | .refresh o => Sys2Proof.Machine.execRefresh o s
  | .encodeOp o => Sys2Proof.Machine.execEncodeOp o s
  | .intMatmul o => Sys2Proof.Machine.execIntMatmul o s
  | .intConv o => Sys2Proof.Machine.execIntConv o s
  | .fence o => Sys2Proof.Machine.execFence o s
  | .signal o => Sys2Proof.Machine.execSignal o s
  | .custom o => Sys2Proof.Machine.execCustom o s
  | .tilePartComplete t => Sys2Proof.Machine.execTilePartComplete t s
  | .opBindOff o => Sys2Proof.Machine.execOpBindOff o s
  | .completionWrite p n => Sys2Proof.Machine.execCompletionWrite p n s
  | .ringIrqTimer p n => Sys2Proof.Machine.execRingIrqTimer p n s
  | .mtDataAccess view p value => Sys2Proof.Machine.execMtDataAccess view p value s
  | .mtCommit view p value => Sys2Proof.Machine.execMtCommit view p value s
  | .mtCommitCheck p => Sys2Proof.Machine.execMtCommitCheck p s
  | .ctlCommitHandle view p => Sys2Proof.Machine.execCtlCommitHandle view p s
  | .ctlCommitKeyDir view p => Sys2Proof.Machine.execCtlCommitKeyDir view p s
  | .ctlCommitBundle view p => Sys2Proof.Machine.execCtlCommitBundle view p s
  | .qtabCommit t => Sys2Proof.Machine.execQtabCommit t s
  | .bwCommit d => Sys2Proof.Machine.execBwCommit d s
  | .spanCommit value => Sys2Proof.Machine.execSpanCommit value s
  | .castOnCommitApply g => Sys2Proof.Machine.execCastOnCommitApply g s
  | .semWrite t n value => Sys2Proof.Machine.execSemWrite t n value s
  | .spadPwrWrite t on => Sys2Proof.Machine.execSpadPwrWrite t on s
  | .spadPwrApply t => Sys2Proof.Machine.execSpadPwrApply t s
  | .spadGroupReady t => Sys2Proof.Machine.execSpadGroupReady t s
  | .vecCtrlWrite t value => Sys2Proof.Machine.execVecCtrlWrite t value s
  | .reducePathApply t => Sys2Proof.Machine.execReducePathApply t s
  | .memCfgWrite value => Sys2Proof.Machine.execMemCfgWrite value s
  | .registerWrite req offset width value => Sys2Proof.Machine.execRegisterWrite req offset width value s
  | .broadcastWrite req offset width value => Sys2Proof.Machine.execBroadcastWrite req offset width value s
  | .nop t k w => Sys2Proof.Machine.execNop t k w s
  | .loop t k w => Sys2Proof.Machine.execLoop t k w s
  | .cmpset t k w => Sys2Proof.Machine.execCmpset t k w s
  | .whenInstr t k w => Sys2Proof.Machine.execWhenInstr t k w s
  | .swait t k w => Sys2Proof.Machine.execSwait t k w s
  | .swaitSatisfied t k => Sys2Proof.Machine.execSwaitSatisfied t k s
  | .spost t k w => Sys2Proof.Machine.execSpost t k w s
  | .spostr t k w => Sys2Proof.Machine.execSpostr t k w s
  | .spostTakesEffect t => Sys2Proof.Machine.execSpostTakesEffect t s
  | .endInstr t k w => Sys2Proof.Machine.execEndInstr t k w s
  | .fload t w => Sys2Proof.Machine.execFload t w s
  | .fstore t w => Sys2Proof.Machine.execFstore t w s
  | .fmove t w => Sys2Proof.Machine.execFmove t w s
  | .spfill t w => Sys2Proof.Machine.execSpfill t w s
  | .spcopy t w => Sys2Proof.Machine.execSpcopy t w s
  | .feederTransferDone t f => Sys2Proof.Machine.execFeederTransferDone t f s
  | .nttf t w => Sys2Proof.Machine.execNttf t w s
  | .ntti t w => Sys2Proof.Machine.execNtti t w s
  | .ffte t w => Sys2Proof.Machine.execFfte t w s
  | .ccopy t w => Sys2Proof.Machine.execCcopy t w s
  | .caute t w => Sys2Proof.Machine.execCaute t w s
  | .cautc t w => Sys2Proof.Machine.execCautc t w s
  | .cgath t w => Sys2Proof.Machine.execCgath t w s
  | .crgath t w => Sys2Proof.Machine.execCrgath t w s
  | .ctrans t w => Sys2Proof.Machine.execCtrans t w s
  | .cxchg t w => Sys2Proof.Machine.execCxchg t w s
  | .exchangeComplete t => Sys2Proof.Machine.execExchangeComplete t s
  | .rmode t w => Sys2Proof.Machine.execRmode t w s
  | .rconst t w => Sys2Proof.Machine.execRconst t w s
  | .rmac t w => Sys2Proof.Machine.execRmac t w s
  | .pkey t w => Sys2Proof.Machine.execPkey t w s
  | .pmac t w => Sys2Proof.Machine.execPmac t w s
  | .setwin t w => Sys2Proof.Machine.execSetwin t w s
  | .setvl t w => Sys2Proof.Machine.execSetvl t w s
  | .vaddm t w => Sys2Proof.Machine.execVaddm t w s
  | .vsubm t w => Sys2Proof.Machine.execVsubm t w s
  | .vnegm t w => Sys2Proof.Machine.execVnegm t w s
  | .vmulm t w => Sys2Proof.Machine.execVmulm t w s
  | .vmaddm t w => Sys2Proof.Machine.execVmaddm t w s
  | .vlift t w => Sys2Proof.Machine.execVlift t w s
  | .vrescale t w => Sys2Proof.Machine.execVrescale t w s
  | .vaddi t w => Sys2Proof.Machine.execVaddi t w s
  | .vsubi t w => Sys2Proof.Machine.execVsubi t w s
  | .vmuli t w => Sys2Proof.Machine.execVmuli t w s
  | .vmaddi t w => Sys2Proof.Machine.execVmaddi t w s
  | .vmaxi t w => Sys2Proof.Machine.execVmaxi t w s
  | .vmini t w => Sys2Proof.Machine.execVmini t w s
  | .vrelu t w => Sys2Proof.Machine.execVrelu t w s
  | .vclamp t w => Sys2Proof.Machine.execVclamp t w s
  | .vlut8 t w => Sys2Proof.Machine.execVlut8 t w s
  | .vshrr t w => Sys2Proof.Machine.execVshrr t w s
  | .vreq t w => Sys2Proof.Machine.execVreq t w s
  | .vcvtif t w => Sys2Proof.Machine.execVcvtif t w s
  | .vcvtfi t w => Sys2Proof.Machine.execVcvtfi t w s
  | .vaddf t w => Sys2Proof.Machine.execVaddf t w s
  | .vsubf t w => Sys2Proof.Machine.execVsubf t w s
  | .vmulf t w => Sys2Proof.Machine.execVmulf t w s
  | .vdivf t w => Sys2Proof.Machine.execVdivf t w s
  | .vsqrtf t w => Sys2Proof.Machine.execVsqrtf t w s
  | .vmaxf t w => Sys2Proof.Machine.execVmaxf t w s
  | .vminf t w => Sys2Proof.Machine.execVminf t w s
  | .vcopy t w => Sys2Proof.Machine.execVcopy t w s
  | .vreduce t w => Sys2Proof.Machine.execVreduce t w s
  | .queueSlotCommit t q => Sys2Proof.Machine.execQueueSlotCommit t q s
  | .queueSlotRelease t q => Sys2Proof.Machine.execQueueSlotRelease t q s
  | .engineStallResume t k => Sys2Proof.Machine.execEngineStallResume t k s
  | .deadlockTimeout o => Sys2Proof.Machine.execDeadlockTimeout o s
  | .streamWatchdog o t k => Sys2Proof.Machine.execStreamWatchdog o t k s
  | .transactionTimeout o reporter source cls => Sys2Proof.Machine.execTransactionTimeout o reporter source cls s
  | .residueMismatch o t reduction => Sys2Proof.Machine.execResidueMismatch o t reduction s
  | .ondieUncorrectable e => Sys2Proof.Machine.execOndieUncorrectable e s
  | .stackUncorrectable line => Sys2Proof.Machine.execStackUncorrectable line s
  | .patrolScrub line found => Sys2Proof.Machine.execPatrolScrub line found s
  | .flitCrcError source reporter link retry => Sys2Proof.Machine.execFlitCrcError source reporter link retry s
  | .coreMemoryAccess p vh a gpa => Sys2Proof.Machine.execCoreMemoryAccess p vh a gpa s
  | .coreAtomic p vh f wide gpa v cmp => Sys2Proof.Machine.execCoreAtomic p vh f wide gpa v cmp s
  | .coreLoadReserved p vh wide gpa => Sys2Proof.Machine.execCoreLoadReserved p vh wide gpa s
  | .coreStoreConditional p vh wide gpa v => Sys2Proof.Machine.execCoreStoreConditional p vh wide gpa v s
  | .sbiBase p vh fid arg => Sys2Proof.Machine.execSbiBase p vh fid arg s
  | .sbiTimer p vh stime => Sys2Proof.Machine.execSbiTimer p vh stime s
  | .sbiIpi p vh mask base => Sys2Proof.Machine.execSbiIpi p vh mask base s
  | .sbiRfence p vh fid mask base => Sys2Proof.Machine.execSbiRfence p vh fid mask base s
  | .sbiHsm p vh call => Sys2Proof.Machine.execSbiHsm p vh call s
  | .sbiSystemReset p vh kind => Sys2Proof.Machine.execSbiSystemReset p vh kind s
  | .coreStart view p => Sys2Proof.Machine.execCoreStart view p s
  | .coreStopAll view p => Sys2Proof.Machine.execCoreStopAll view p s
  | .translationChange p => Sys2Proof.Machine.execTranslationChange p s
  | .partCreate src p => Sys2Proof.Machine.execPartCreate src p s
  | .partDestroy p => Sys2Proof.Machine.execPartDestroy p s
  | .partRemap src p => Sys2Proof.Machine.execPartRemap src p s
  | .partFrog p => Sys2Proof.Machine.execPartFrog p s
  | .jobFrog view p value => Sys2Proof.Machine.execJobFrog view p value s
  | .frogEnginesStopped p => Sys2Proof.Machine.execFrogEnginesStopped p s
  | .frogScrubStepDone p => Sys2Proof.Machine.execFrogScrubStepDone p s
  | .pageScrubDone p => Sys2Proof.Machine.execPageScrubDone p s
  | .hookDrained p => Sys2Proof.Machine.execHookDrained p s
  | .hookResume view p => Sys2Proof.Machine.execHookResume view p s
  | .inspDataRead view p => Sys2Proof.Machine.execInspDataRead view p s
  | .opCntLoRead req => Sys2Proof.Machine.execOpCntLoRead req s
  | .swatchSeqRead view p n => Sys2Proof.Machine.execSwatchSeqRead view p n s
  | .swatchKeyInstall view p value => Sys2Proof.Machine.execSwatchKeyInstall view p value s
  | .samplerEnable view p value => Sys2Proof.Machine.execSamplerEnable view p value s
  | .sampleRecord p => Sys2Proof.Machine.execSampleRecord p s
  | .logEnable h value => Sys2Proof.Machine.execLogEnable h value s
  | .traceEnable h value => Sys2Proof.Machine.execTraceEnable h value s
  | .logWindowClose h source event => Sys2Proof.Machine.execLogWindowClose h source event s
  | .traceMarker h => Sys2Proof.Machine.execTraceMarker h s
  | .fcAlarmAck h => Sys2Proof.Machine.execFcAlarmAck h s
  | .dispatcherHeartbeat d => Sys2Proof.Machine.execDispatcherHeartbeat d s
  | .heartbeatCheck d => Sys2Proof.Machine.execHeartbeatCheck d s
  | .dieProbeTimeout d => Sys2Proof.Machine.execDieProbeTimeout d s
  | .tileSelftestDone t pass reductionOk => Sys2Proof.Machine.execTileSelftestDone t pass reductionOk s
  | .rasRetire value => Sys2Proof.Machine.execRasRetire value s
  | .retirementStart d => Sys2Proof.Machine.execRetirementStart d s
  | .spareInService d pass => Sys2Proof.Machine.execSpareInService d pass s
  | .retireGraceExpiry d => Sys2Proof.Machine.execRetireGraceExpiry d s
  | .bridgeSegmentFault k lost => Sys2Proof.Machine.execBridgeSegmentFault k lost s
  | .memoryColumnFault c stack => Sys2Proof.Machine.execMemoryColumnFault c stack s
  | .hankDieFault h => Sys2Proof.Machine.execHankDieFault h s
  | .pllLossOfLock source => Sys2Proof.Machine.execPllLossOfLock source s
  | .refclkLoss => Sys2Proof.Machine.execRefclkLoss s
  | .refclkAbsentTimeout => Sys2Proof.Machine.execRefclkAbsentTimeout s
  | .refclkReturn => Sys2Proof.Machine.execRefclkReturn s
  | .inputVoltageChange mv => Sys2Proof.Machine.execInputVoltageChange mv s
  | .conversionFault mv => Sys2Proof.Machine.execConversionFault mv s
  | .coolantTempChange decic => Sys2Proof.Machine.execCoolantTempChange decic s
  | .coolantFlowChange centil => Sys2Proof.Machine.execCoolantFlowChange centil s
  | .flowTripTimer => Sys2Proof.Machine.execFlowTripTimer s
  | .dieTempChange d decic => Sys2Proof.Machine.execDieTempChange d decic s
  | .stackOvertemp k decic => Sys2Proof.Machine.execStackOvertemp k decic s
  | .dutyAdjust d watts raise => Sys2Proof.Machine.execDutyAdjust d watts raise s
  | .inputThrottle watts => Sys2Proof.Machine.execInputThrottle watts s
  | .pwrCapWrite value => Sys2Proof.Machine.execPwrCapWrite value s
  | .enterM3 => Sys2Proof.Machine.execEnterM3 s
  | .leaveM3 => Sys2Proof.Machine.execLeaveM3 s
  | .m3ExitDone => Sys2Proof.Machine.execM3ExitDone s
  | .enterM4 => Sys2Proof.Machine.execEnterM4 s
  | .moduleResetCmd => Sys2Proof.Machine.execModuleResetCmd s
  | .powerOn => Sys2Proof.Machine.execPowerOn s
  | .startupStep k ok => Sys2Proof.Machine.execStartupStep k ok s
  | .runtimeReady => Sys2Proof.Machine.execRuntimeReady s
  | .perst0Assert => Sys2Proof.Machine.execPerst0Assert s
  | .perst0Deassert => Sys2Proof.Machine.execPerst0Deassert s
  | .portReset e => Sys2Proof.Machine.execPortReset e s
  | .vfFlr h vf => Sys2Proof.Machine.execVfFlr h vf s
  | .senseClose => Sys2Proof.Machine.execSenseClose s
  | .hotswapChargeStart => Sys2Proof.Machine.execHotswapChargeStart s
  | .senseOpen => Sys2Proof.Machine.execSenseOpen s
  | .forceOff => Sys2Proof.Machine.execForceOff s
  | .getState => Sys2Proof.Machine.execGetState s
  | .alarmRead h entry => Sys2Proof.Machine.execAlarmRead h entry s
  | .alarmAck h entry => Sys2Proof.Machine.execAlarmAck h entry s
  | .setCap cap store => Sys2Proof.Machine.execSetCap cap store s
  | .power op => Sys2Proof.Machine.execPower op s
  | .coldReset => Sys2Proof.Machine.execColdReset s
  | .partition op p rec_ maps => Sys2Proof.Machine.execPartition op p rec_ maps s
  | .retire site => Sys2Proof.Machine.execRetire site s
  | .lifecycle target auth => Sys2Proof.Machine.execLifecycle target auth s
  | .storeRead field => Sys2Proof.Machine.execStoreRead field s
  | .storeWrite field value => Sys2Proof.Machine.execStoreWrite field value s
  | .storeExport => Sys2Proof.Machine.execStoreExport s
  | .storeImport img serial hashOk => Sys2Proof.Machine.execStoreImport img serial hashOk s
  | .storeWriteDone => Sys2Proof.Machine.execStoreWriteDone s
  | .setEndpointId eid => Sys2Proof.Machine.execSetEndpointId eid s
  | .pldmRequest r => Sys2Proof.Machine.execPldmRequest r s
  | .pkeRingEnable h => Sys2Proof.Machine.execPkeRingEnable h s
  | .pkeRingDisable h => Sys2Proof.Machine.execPkeRingDisable h s
  | .pkeDb h value => Sys2Proof.Machine.execPkeDb h value s
  | .pkeCommandStart h => Sys2Proof.Machine.execPkeCommandStart h s
  | .keygen h u => Sys2Proof.Machine.execKeygen h u s
  | .sign h u => Sys2Proof.Machine.execSign h u s
  | .verify h u => Sys2Proof.Machine.execVerify h u s
  | .ecdh h u => Sys2Proof.Machine.execEcdh h u s
  | .curveLoad h u => Sys2Proof.Machine.execCurveLoad h u s
  | .wipe h => Sys2Proof.Machine.execWipe h s
  | .slotLoad h u => Sys2Proof.Machine.execSlotLoad h u s
  | .slotStore h u => Sys2Proof.Machine.execSlotStore h u s
  | .pkeOpComplete h u fault => Sys2Proof.Machine.execPkeOpComplete h u fault s
  | .entropyHealthFail h => Sys2Proof.Machine.execEntropyHealthFail h s
  | .getVersion h => Sys2Proof.Machine.execGetVersion h s
  | .getCapabilities h => Sys2Proof.Machine.execGetCapabilities h s
  | .negotiateAlgorithms h => Sys2Proof.Machine.execNegotiateAlgorithms h s
  | .getDigests h => Sys2Proof.Machine.execGetDigests h s
  | .getCertificate h => Sys2Proof.Machine.execGetCertificate h s
  | .challenge h => Sys2Proof.Machine.execChallenge h s
  | .getMeasurements h index => Sys2Proof.Machine.execGetMeasurements h index s
  | .keyExchange h => Sys2Proof.Machine.execKeyExchange h s
  | .finish h ok => Sys2Proof.Machine.execFinish h ok s
  | .keyUpdate h => Sys2Proof.Machine.execKeyUpdate h s
  | .heartbeat h => Sys2Proof.Machine.execHeartbeat h s
  | .endSession h => Sys2Proof.Machine.execEndSession h s
  | .ideKeyProgram h stream key => Sys2Proof.Machine.execIdeKeyProgram h stream key s
  | .qlNodeWrite value => Sys2Proof.Machine.execQlNodeWrite value s
  | .qlPortTakedown q => Sys2Proof.Machine.execQlPortTakedown q s
  | .qlTrainingDone q lanes => Sys2Proof.Machine.execQlTrainingDone q lanes s
  | .qlHello q peer peerState => Sys2Proof.Machine.execQlHello q peer peerState s
  | .qlSecureDone q => Sys2Proof.Machine.execQlSecureDone q s
  | .qlPhaseTimeout q => Sys2Proof.Machine.execQlPhaseTimeout q s
  | .qlRetryTimer q => Sys2Proof.Machine.execQlRetryTimer q s
  | .qlLaneLoss q => Sys2Proof.Machine.execQlLaneLoss q s
  | .dataFrame q f => Sys2Proof.Machine.execDataFrame q f s
  | .signalFrame q f => Sys2Proof.Machine.execSignalFrame q f s
  | .controlFrame q f => Sys2Proof.Machine.execControlFrame q f s
  | .probeFrame q f => Sys2Proof.Machine.execProbeFrame q f s
  | .keyExchangeFrame q f => Sys2Proof.Machine.execKeyExchangeFrame q f s
  | .qlControlTimer q => Sys2Proof.Machine.execQlControlTimer q s
  | .qlProbeSend q => Sys2Proof.Machine.execQlProbeSend q s
  | .qlRekeyStart q => Sys2Proof.Machine.execQlRekeyStart q s
  | .qlRekeyComplete q ok => Sys2Proof.Machine.execQlRekeyComplete q ok s
  | .tileEntersM1 t => Sys2Proof.Machine.execTileEntersM1 t s
  | .tileEntersM2 t => Sys2Proof.Machine.execTileEntersM2 t s
  | .tileM2ExitDone t => Sys2Proof.Machine.execTileM2ExitDone t s
  | .vsTimerInterrupt p vh => Sys2Proof.Machine.execVsTimerInterrupt p vh s
  | .abstractCommand hart => Sys2Proof.Machine.execAbstractCommand hart s
  | .systemBusAccess pa write => Sys2Proof.Machine.execSystemBusAccess pa write s
  | .tapInstruction x => Sys2Proof.Machine.execTapInstruction x s
  | .configurationRequest h => Sys2Proof.Machine.execConfigurationRequest h s

end Sys2Proof.Machine
end

