-- ==== Sys2Proof/Machine/Step.lean ====
section
/-! DEFINITION. One step of the block: the command at the front of the queue, or a mesh cycle when the queue is empty. -/
namespace Sys2Proof.Machine

/-- The queue is empty: one mesh cycle passes, and the counters count it once they run (R376; log entry 1). -/
def State.idle (s : State) : State := if s.counting then { s with clock := s.clock + 1 } else s

/-- Take the command at the front of the queue and run it with the queue's rest. -/
def step (s : State) : Host.Outcome State Fault Refusal :=
  match s.pending with
  | [] => .next s.idle
  | c :: rest => exec c { s with pending := rest }

/-- Put the command that a word of the table spells at the front of the queue; `s` unchanged where the
word spells none. -/
def State.withFetchWord (s : State) (nbits w : Nat) : State :=
  match decodeTableWord nbits w with
  | some c => { s with pending := c :: s.pending }
  | none => s

end Sys2Proof.Machine
end

