-- ==== Sys2Proof/WellFormed.lean ====
section
/-! DEFINITION. Which commands are well formed: the operands whose type is wider than the spec's range for them. A command that is not well formed stands for nothing that can reach the module. -/
namespace Sys2Proof

/-- The indices that a kind of unit has (R367); `none` for a reserved kind. -/
def UnitId.range (u : UnitId) : Option Nat :=
  match u.kind.toNat with
  | 1 => some 576
  | 2 => some 18
  | 3 => some 160
  | 4 => some 16
  | 5 => some 16
  | 6 => some 32
  | 7 => some 4
  | 8 => some 4
  | 9 => some 8
  | 10 => some 32
  | 11 => some 8
  | _ => none

/-- A unit identifier that names a unit (R367). -/
def UnitId.wellFormed (u : UnitId) : Bool :=
  match u.range with
  | some n => decide (u.index.toNat < n)
  | none => false

/-- Widths of an access in bytes (R9, R319). -/
def accessBytes (n : Nat) : Bool := decide (n = 1 ∨ n = 2 ∨ n = 4 ∨ n = 8)

/-- A virtual hart number: a partition has at most two cores of each of 48 quads (R313, R318). -/
def hartNumber (vh : Nat) : Bool := decide (vh < 96)

def CoreAccess.wellFormed : CoreAccess → Bool
  | .fetch => true
  | .load n => accessBytes n
  | .store n _ => accessBytes n
  | .context _ => true

/-- Lines of the memories in which an on-die error lies: a die cache holds lines of stack memory (R219), a scratchpad 4 MiB (R209), a stash
12 MiB (R215), a staging buffer 1 MiB (R246). -/
def OnDieError.wellFormed : OnDieError → Bool
  | .dieCache _ l => decide (l < 25769803776)
  | .scratchpad _ l _ => decide (l < 65536)
  | .stashOfThisOp _ l _ => decide (l < 196608)
  | .staging _ l _ => decide (l < 16384)
  | .reservoir _ l _ => decide (l < 196608)
  | .stashOfEarlierCopy _ l _ => decide (l < 196608)
  | .corrected _ _ => true
  | .undetected _ _ => true

/-- A list of tiles without repeats. -/
def distinctTiles : List (Fin 576) → Bool
  | [] => true
  | t :: rest => !rest.contains t && distinctTiles rest

/-- Numbers of a store value that a field of the store can hold (R431). -/
def StoreValue.wellFormed : StoreValue → Bool
  | .coefficients cs => decide (cs.length = 7)
  | _ => true

/-- Does a command name something that can reach the module? -/
def Instr.wellFormed : Instr → Bool
  | .opReady _ ts => distinctTiles ts
  | .registerWrite _ _ n _ => accessBytes n
  | .broadcastWrite _ _ n _ => accessBytes n
  | .coreMemoryAccess _ vh a _ => hartNumber vh && a.wellFormed
  | .coreAtomic _ vh _ _ _ _ _ => hartNumber vh
  | .coreLoadReserved _ vh _ _ => hartNumber vh
  | .coreStoreConditional _ vh _ _ _ => hartNumber vh
  | .sbiBase _ vh _ _ => hartNumber vh
  | .sbiTimer _ vh _ => hartNumber vh
  | .sbiIpi _ vh _ _ => hartNumber vh
  | .sbiRfence _ vh _ _ _ => hartNumber vh
  | .sbiHsm _ vh _ => hartNumber vh
  | .sbiSystemReset _ vh _ => hartNumber vh
  | .vsTimerInterrupt _ vh => hartNumber vh
  | .transactionTimeout _ _ u _ => u.wellFormed
  | .ondieUncorrectable e => e.wellFormed
  | .flitCrcError u r _ n => u.wellFormed && r.wellFormed && decide (n ≤ 9)
  | .logWindowClose _ u _ => u.wellFormed
  | .pllLossOfLock u => u.wellFormed
  | .storeWrite _ v => v.wellFormed
  | .getMeasurements _ i => decide (i ≤ 255)
  | .qlTrainingDone _ n => decide (n ≤ 8)
  | _ => true

end Sys2Proof
end

