-- ==== Sys2Proof/Safety.lean ====
section
/-! DEFINITION. What claims about whole runs speak of: the canonical form of the byte memories, what a step leaves alone, and a safe step. -/
namespace Sys2Proof.Machine

/-- The canonical form of a byte memory: addresses rise strictly, and no listed byte is the zero that an unlisted address reads as. -/
def Memory.wf (m : Tab Byte) : Bool := Tab.wf (fun _ => 0) m

/-- The operand memory, the loaded curves and the point units of a public-key engine are tables in their canonical form. -/
def Pke.wf (x : Pke) : Bool :=
  Tab.wf (fun _ => ({} : PkeSlot)) x.slots && Tab.wf (fun _ => (none : Option PkeCurve)) x.curves && Tab.wf (fun _ => (none : Option PkeRun)) x.units

/-- The tables of the machine are in their canonical form: stack memory (R226), host memory, the register file and its active copies, and the numbered parts. Equal
contents are then equal data, and what has been written to a part is what is read from it. -/
def State.Inv (s : State) : Prop :=
  Memory.wf s.mem = true ∧ Memory.wf s.host = true ∧ Tab.wf regInit s.regs = true ∧ Tab.wf regInit s.active = true ∧
  Tab.wf (fun _ => ({} : Part)) s.parts = true ∧ Tab.wf (fun _ => ({} : Tile)) s.tiles = true ∧
  Tab.wf (fun _ => ({} : Site)) s.sites = true ∧ Tab.wf (fun _ => ({} : Hank)) s.hanks = true ∧
  Tab.wf (fun _ => ({} : QPort)) s.ports = true ∧ s.hanks.all (fun q => q.2.pke.wf) = true

/-- What no command ever changes or takes back: the fuses (R2, R327), and what has been sent out. -/
def State.Kept (s t : State) : Prop := t.grade = s.grade ∧ t.serial = s.serial ∧ s.out <+: t.out ∧ s.fresh ≤ t.fresh

/-- A step that runs to a next state: no fault and no refusal. -/
def Safe (o : Host.Outcome State Fault Refusal) : Prop := ∃ t, o = .next t

end Sys2Proof.Machine
end

