-- ==== Sys2Proof/Certificates/Slice0/Obligations.lean ====
section
/-! DEFINITION. The statements for the provers. Each docstring names the rule of spec/ that its statement formalises. -/
open Sys2Proof Sys2Proof.Machine

/-! ### The queue -/

/-- A step takes the command at the front of the queue and runs it on the state with the queue's rest. On an empty queue one mesh cycle passes: the clock
counts it once the start strobe has been issued (R376), and nothing else changes; that the clock moves here and nowhere else is the model's choice (log entry 1). -/
def Obligations.StepRunsFront : Prop :=
  (∀ (c : Instr) (rest : List Instr) (s : State), s.pending = c :: rest → step s = exec c { s with pending := rest }) ∧
  (∀ s : State, s.pending = [] → step s = .next { s with clock := if s.counting then s.clock + 1 else s.clock })

/-! ### Rings -/

/-- R253, R254: in a pair whose ACTIVE is 1, a doorbell value below the ring's size is accepted exactly when its advance,
modulo the size, does not exceed the free entries (submission) or the written entries (completion); an accepted value moves
that index and nothing else. Any other value leaves the rings unchanged and sets DB_REFUSED and the DESC_MALFORMED sticky bit. Both indices start at 0 when the pair is committed. -/
def Obligations.DoorbellsMoveIndices : Prop :=
  ∀ (v : View) (p : Fin 64) (n : Fin 16) (x : BitVec 32) (s : State),
    s.viewOpen v p = true → s.power.state = .m0 →
    let i : Nat := x.toNat % 65536
    let r := s.ring p n
    let refused := .next ((s.setField (.part p (.ringStatus n)) 4 4 1).setField (.part p .partSticky) 0 0 1)
    (exec (.dbSqWrite v p n x) s =
      if r.active = true ∧ i < s.sqSize p n ∧
          ((i : Int) - r.tail) % s.sqSize p n ≤ ((r.sqHead : Int) - 1 - r.tail) % s.sqSize p n then
        .next (s.updRing p n (fun r => { r with tail := i }))
      else refused) ∧
    (exec (.dbCqWrite v p n x) s =
      if r.active = true ∧ i < s.cqSize p n ∧
          ((i : Int) - r.head) % s.cqSize p n ≤ ((r.cqTail : Int) - r.head) % s.cqSize p n then
        .next (s.updRing p n (fun r => { r with head := i }))
      else refused) ∧
    (∀ c : Commit, s.Inv → s.commits.find? (fun x => x.group = .ring p n) = some c → c.group = .ring p n → r.active = false →
      (let w := fun r => snapVal c.values (.part p r)
       ringAgrees (w (.ringSqBaseLo n)) (w (.ringSqBaseHi n)) (w (.ringCqBaseLo n)) (w (.ringCqBaseHi n)) (w (.ringCfg n)) = true) →
      ∃ t, exec (.castOnCommitApply (.ring p n)) s = .next t ∧ (t.ring p n).tail = 0 ∧ (t.ring p n).head = 0)

/-- R252: writing 1 to ENABLE starts a cast-on commit of the pair's RWS fields as they then stand, and has no effect while ENABLE
reads 1; writing 0 clears ENABLE (a commit that still waits is withdrawn: log entry 18); ACTIVE clears once the jobs of a pair that is
disabled, or whose next commit already waits, have ended and each of their entries is written or kept after a failed write. -/
def Obligations.RingPairLifecycle : Prop :=
  ∀ (v : View) (p : Fin 64) (n : Fin 16) (s : State),
    (s.viewOpen v p = true →
      exec (.ringEnable v p n) s =
        (if bit (s.reg (.part p (.ringCtrl n))) 0 then .next s
         else .next ((s.setField (.part p (.ringCtrl n)) 0 0 1).startCommit (.ring p n) (ringGroup p n))) ∧
      exec (.ringDisable v p n) s = .next ((s.setField (.part p (.ringCtrl n)) 0 0 0).dropCommit (.ring p n))) ∧
    ((s.ring p n).active = true → bit (s.reg (.part p (.ringCtrl n))) 0 = false ∨ s.commitPending (.ring p n) = true →
      ((s.ring p n).hold = [] ∨ (s.ring p n).deliveryStopped = true) →
      (∀ j ∈ s.jobs, j.part = p.val → j.ring = n.val → j.produced = true) →
      exec (.ringDrained p n) s = .next (s.updRing p n (fun r => { r with active := false })))

/-- R255, R256, R265: the entry of the ring whose turn it is. One that cannot be read makes no job: FETCH_FAULT is set and the ring is fetched no more. One that breaks steps 1 or 2 of R265, and one
whose graph breaks step 4 or 5, becomes a job that is refused with that status and ORIGIN: its sticky bit is set, no op of it exists, and its one job entry is produced (at once, when it has no ORDERED). A graph that cannot be read
refuses the job by its failure (step 3) and stops the ring as well, with SQ_HEAD still at its entry (that it stays there is the model's reading, log entry 17; that it passes an entry refused at steps 1 and 2, log entry 137); that a host graph behind a closed port is refused with XLATE is the model's choice (log entry 130). Otherwise the entry becomes one new job
with the ops of its graph, waiting; the turn passes on, SQ_HEAD passes the entry, and no memory changes. With COUNTERS 1 the two counters that RING_CNT_SEL selects are latched: shown for the timestamp and the counted events (R277). -/
def Obligations.FetchAcceptsJob : Prop :=
  ∀ (p : Fin 64) (n : Fin 16) (s : State),
    s.Inv → s.fetches p = true → s.fetchTurn p = some n.val → s.openJobs p < 256 →
    let head := (s.ring p n).sqHead
    let at_ := s.sqBase p n + 64 * head
    let stopped := fun (t : State) => bit (t.reg (.part p (.ringStatus n))) 1 = true ∧ (t.ring p n).fetchStopped = true ∧ (t.ring p n).sqHead = head
    let passed := fun (t : State) => (t.ring p n).sqHead = (head + 1) % s.sqSize p n
    (∀ err, s.readSpace p (s.sqHost p n) at_ 64 = .error err →
      ∃ t, exec (.submissionFetch p n) s = .next t ∧ stopped t ∧ t.jobs = s.jobs ∧ t.nextJob = s.nextJob ∧ t.mem = s.mem) ∧
    (∀ bs, s.readSpace p (s.sqHost p n) at_ 64 = .ok bs →
      let e := entryOf bs
      let graph := s.readSpace p (seGraphHost e) (seGraph e) (64 * seOpCount e)
      let refused := fun (st : Status) (origin : Nat) (t : State) =>
        t.mem = s.mem ∧ t.tiles = s.tiles ∧ t.nextJob = s.nextJob + 1 ∧ (∀ b, st.sticky = some b → bit (t.reg (.part p .partSticky)) b = true) ∧
        (∃ j ∈ t.jobs, j.id = s.nextJob ∧ j.part = p.val ∧ j.ring = n.val ∧ j.sqIndex = head ∧ j.entry = e ∧ j.ops = [] ∧ j.acceptStatus = st ∧ j.acceptOrigin = origin) ∧
        (seOrdered e = false → (∀ k ∈ s.jobs, k.id ≠ s.nextJob) →
          ∃ x ∈ (t.ring p n).hold, x.job = s.nextJob ∧ x.isJob = true ∧ nbits x.bits.toNat 31 16 = st.code ∧ nbits x.bits.toNat 95 80 = origin)
      (submissionStatus e ≠ .done → ∃ t, exec (.submissionFetch p n) s = .next t ∧ passed t ∧ refused (submissionStatus e) 0xFFFF t) ∧
      (submissionStatus e = .done →
        (seGraphHost e = true → graph = .error none → ∃ t, exec (.submissionFetch p n) s = .next t ∧ stopped t ∧ refused .xlate 0xFFFF t) ∧
        (∀ err, seGraphHost e = false → s.graphErr p (seGraph e) (64 * seOpCount e) = some err →
          ∃ t, exec (.submissionFetch p n) s = .next t ∧ stopped t ∧ refused err.status 0xFFFF t) ∧
        (∀ gs, (seGraphHost e = false → s.graphErr p (seGraph e) (64 * seOpCount e) = none) → graph = .ok gs →
          let es := (chunksOf 64 (seOpCount e) gs).map entryOf
          ((graphStatus e es).1 ≠ .done → ∃ t, exec (.submissionFetch p n) s = .next t ∧ passed t ∧ refused (graphStatus e es).1 (graphStatus e es).2 t) ∧
          (graphStatus e es = (.done, 0xFFFF) →
            ∃ t j, exec (.submissionFetch p n) s = .next t ∧ t.jobs = s.jobs ++ [j] ∧ t.nextJob = s.nextJob + 1 ∧
              j.id = s.nextJob ∧ j.part = p.val ∧ j.ring = n.val ∧ j.sqIndex = head ∧ j.entry = e ∧ j.tStart = s.clock ∧ j.produced = false ∧
              j.ops.map (fun o => (o.entry, o.phase)) = es.map (fun x => (x, .waiting)) ∧
              t.regs = s.regs ∧ t.mem = s.mem ∧ t.host = s.host ∧ t.tiles = s.tiles ∧ passed t ∧ (t.part p).nextRing = (n + 1) % 16 ∧ (t.ring p n).lastJob = some s.nextJob ∧
              (seCounters e = false → j.c0Start = 0 ∧ j.c1Start = 0 ∧
                t.parts = ((((s.updPart p (fun x => { x with nextRing := (n + 1) % 16 })).updRing p n
                  (fun r => { r with sqHead := (r.sqHead + 1) % s.sqSize p n })).updRing p n (fun r => { r with lastJob := some s.nextJob })).parts)) ∧
              (seCounters e = true →
                let sel := s.reg (.part p (.ringCntSel n))
                let value := fun (k : Nat) => (if k = 1 then s.clock else Tab.get (fun _ => 0) (s.part p).counters k).truncate 32
                (bits sel 15 0 ∈ [1, 0x30, 0x31] → j.c0Start = value (bits sel 15 0)) ∧ (bits sel 31 16 ∈ [1, 0x30, 0x31] → j.c1Start = value (bits sel 31 16)))))))

/-- R257, R258: the oldest waiting entry is written to the completion ring, in host memory behind the partition's port or in device space, bytes 4 to 63 first and bytes 0 to 3 (with
PHASE) after them; CQ_TAIL moves on and the phase inverts at the wrap; the job whose entry it was is forgotten. R259: when COUNT is not 0 and COUNT written entries are uncovered, the interrupt of the pair
is raised on VECTOR with the write (its vector unmasked) and covers them, and virtual hart 0 gets a supervisor external interrupt (R318), on which it goes on if it was suspended (log entry 14: the RISC-V SBI's reading); with fewer, or COUNT 0, none is. A write that the translation refuses writes nothing of the entry's last part, stops delivery, sets DELIVERY_FAULT and is captured with ACCESS 0x9 (R232). -/
def Obligations.CompletionIsWritten : Prop :=
  ∀ (p : Fin 64) (n : Fin 16) (e : HeldEntry) (rest : List HeldEntry) (s : State), s.Inv →
    s.answers = true → s.power.state = .m0 → (s.ring p n).hold = e :: rest → (s.ring p n).active = true →
    (s.ring p n).deliveryStopped = false → ((s.ring p n).cqTail + 1) % s.cqSize p n ≠ (s.ring p n).head →
    let a := s.cqBase p n + 64 * (s.ring p n).cqTail
    let bs := s.entryBytes p n e
    let irq := s.reg (.part p (.ringIrq n))
    let fires := bits irq 15 8 ≠ 0 ∧ bits irq 15 8 ≤ (s.ring p n).irqCount + 1
    let moved := fun (r : Machine.Ring) => { r with
      hold := rest, cqTail := (r.cqTail + 1) % s.cqSize p n, phase := if r.cqTail + 1 = s.cqSize p n then !r.phase else r.phase, irqCount := r.irqCount + 1 }
    let goesOn := fun (t : State) => t.jobs = (if e.isJob then s.jobs.filter (fun j => j.id ≠ e.job) else s.jobs) ∧ t.tiles = s.tiles ∧
      (¬ fires → t.parts = (s.updRing p n moved).parts ∧ t.out = s.out) ∧
      (fires → t.ring p n = { moved (s.ring p n) with irqCount := 0 } ∧
        (t.part p).harts = (s.part p).harts.mapIdx (fun k hart => if k = 0 then Hart.wake 0 { hart with extPending := true } else hart) ∧
        ∀ h i : Nat, (s.part p).vf = some (h, i) → bit (Tab.get (fun w => if w % 4 = 3 then 1 else 0) s.msix (64 * (4 + 16 * h + i) + 4 * bits irq 3 0 + 3)) 0 = false →
          t.out = s.out ++ [.msixVf h i (bits irq 3 0)])
    (s.cqHost p n = true → s.portUp (s.vfPort p) = true → ∃ t, exec (.completionWrite p n) s = .next t ∧
      t.host = ((s.writeHost (s.vfPort p) (a + 4) (bs.drop 4)).writeHost (s.vfPort p) a (bs.take 4)).host ∧ t.regs = s.regs ∧ t.mem = s.mem ∧ goesOn t) ∧
    (s.cqHost p n = false →
      (∀ u v, s.writeVA p (a + 4) (bs.drop 4) = .ok u → u.writeVA p a (bs.take 4) = .ok v →
        ∃ t, exec (.completionWrite p n) s = .next t ∧ t.mem = v.mem ∧ t.host = s.host ∧ goesOn t) ∧
      (∀ f, s.writeVA p (a + 4) (bs.drop 4) = .error f → f.entry = none → bit (s.reg (.part p .xlateFaultHi)) 23 = false →
        ∃ t, exec (.completionWrite p n) s = .next t ∧ (t.ring p n).deliveryStopped = true ∧ (t.ring p n).hold = e :: rest ∧ bit (t.reg (.part p (.ringStatus n))) 2 = true ∧
          bits (t.reg (.part p .xlateFaultHi)) 31 28 = 9 ∧ bit (t.reg (.part p .xlateFaultHi)) 23 = true ∧ t.mem = s.mem ∧ t.jobs = s.jobs))

/-- R259: TIME µs after the first entry that no interrupt has covered, the interrupt of a pair whose COUNT and TIME are not 0 is
raised on VECTOR: the MSI-X message of the partition's virtual function (its vector unmasked), and a supervisor external
interrupt on virtual hart 0 (R318), which goes on if it was suspended (log entry 14). -/
def Obligations.RingTimerInterrupt : Prop :=
  ∀ (p : Fin 64) (n : Fin 16) (h i : Nat) (s : State), s.Inv →
    let q := s.reg (.part p (.ringIrq n))
    let vec := bits q 3 0
    bits q 31 16 ≠ 0 → bits q 15 8 ≠ 0 → 0 < (s.ring p n).irqCount → (s.part p).vf = some (h, i) →
    bit (Tab.get (fun w => if w % 4 = 3 then 1 else 0) s.msix (64 * (4 + 16 * h + i) + 4 * vec + 3)) 0 = false →
    exec (.ringIrqTimer p n) s = .next (((s.updRing p n (fun r => { r with irqCount := 0 })).emit (.msixVf h i vec)).updPart p
      (fun x => { x with harts := x.harts.mapIdx (fun k hart => if k = 0 then Hart.wake 0 { hart with extPending := true } else hart) }))

/-! ### Tables and cast-on commits -/

/-- R73, R74, R77: an access of MT_DATA writes or reads the shadow word that MT_ADDR selects; with AUTO_INC the access after word 7 of an
entry reaches word 0 of the next entry, after entry 79 word 0 of the header, and after header word 15 word 0 of entry 0; the
active banks are left alone. MT_COMMIT takes a snapshot of the shadow banks for the slots of CHAIN_MASK and is pending from then on;
while one is pending the write is discarded with the DESC_MALFORMED sticky bit. -/
def Obligations.ShadowTableAccess : Prop :=
  (∀ (v : View) (p : Fin 64) (x : BitVec 32) (auto : Bool) (c : Fin 16) (e w : Nat) (s : State),
     s.viewOpen v p = true → (e < 80 ∧ w < 8 ∨ e = 127 ∧ w < 16) →
     s.reg (.part p .mtAddr) = BitVec.ofNat 32 ((if auto then 2 ^ 31 else 0) + c.val * 2 ^ 12 + e * 2 ^ 4 + w) →
     let e' := if e = 127 then (if w = 15 then 0 else 127) else if w = 7 then (if e = 79 then 127 else e + 1) else e
     let w' := if e = 127 then (w + 1) % 16 else (w + 1) % 8
     let a' : Word32 := if auto then BitVec.ofNat 32 (2 ^ 31 + c.val * 2 ^ 12 + e' * 2 ^ 4 + w') else s.reg (.part p .mtAddr)
     exec (.mtDataAccess v p (some x)) s =
       .next ((s.updPart p (fun y => { y with mtShadow := Tab.set (fun _ => 0) y.mtShadow (mtKey c e w) x })).setReg (.part p .mtAddr) a') ∧
     exec (.mtDataAccess v p none) s =
       .next ((s.setReg (.part p .mtAddr) a').emit (.read (mtWord (s.part p).mtShadow c e w)))) ∧
  (∀ (v : View) (p : Fin 64) (x : BitVec 32) (s : State), s.viewOpen v p = true →
     exec (.mtCommit v p x) s = .next (match (s.part p).mtSnap with
       | none => s.updPart p (fun y => { y with mtSnap := some (x.truncate 16, y.mtShadow) })
       | some _ => s.setField (.part p .partSticky) 0 0 1))

/-- R74 to R76: with no op in flight that names a masked slot, a snapshot that passes every check is loaded into the active banks
of the masked slots and into no other slot, LAST_STATUS reads DONE and the slots' ACTIVE bits follow ENABLE; a snapshot that
fails one changes no active bank, clears the pending commit, writes 0x0060 to LAST_STATUS, sets REFUSED and
TABLE_COMMIT_REFUSED, and records the failure only if REFUSED was clear. The shadow banks keep what software wrote. -/
def Obligations.MtCommitIsAllOrNothing : Prop :=
  ∀ (p : Fin 64) (mask : BitVec 16) (snap : Tab Word32) (s : State),
    s.Inv → (s.part p).mtSnap = some (mask, snap) → s.mtQuiet p mask = true → Tab.wf (fun _ => 0) snap = true →
    Tab.wf (fun _ => 0) (s.part p).mtActive = true →
    ∃ t, exec (.mtCommitCheck p) s = .next t ∧ (t.part p).mtSnap = none ∧ (t.part p).mtShadow = (s.part p).mtShadow ∧
      t.mem = s.mem ∧ t.jobs = s.jobs ∧ t.tiles = s.tiles ∧ (∀ q : Nat, q ≠ p.val → t.part q = s.part q) ∧
      (match mtCheck snap mask with
       | none => (∀ (c : Fin 16) (e w : Nat), e < 128 → w < 16 →
            mtWord (t.part p).mtActive c e w = if mask.getLsbD c then mtWord snap c e w else mtWord (s.part p).mtActive c e w) ∧
          t.regs = ((s.updReg (.part p .mtStatus) (fun v => activeBits v snap mask)).setField (.part p .mtFault) 31 16 0).regs
       | some (k, c, e) => (t.part p).mtActive = (s.part p).mtActive ∧
          t.regs = (let r := s.setField (.part p .mtFault) 31 16 0x60
            let r := if bit (r.reg (.part p .mtStatus)) 16 then r
              else ((r.setField (.part p .mtFault) 15 12 k).setField (.part p .mtFault) 11 8 c).setField (.part p .mtFault) 6 0 e
            (r.setField (.part p .mtStatus) 16 16 1).setField (.part p .partSticky) 16 16 1).regs)

/-- R12, R78: cast-on commits. Those that a write starts (the handle table, key directory and bundle table of a partition, R449, the queue
table of a tile, R189, the bandwidth split of a die, R205) take the shadow values of their group's RWS fields as they stand while none of the group is
pending; a second write of a CTL_COMMIT bit is discarded with the DESC_MALFORMED sticky bit. At the group's quiescent point the first waiting commit is taken from
the queue of commits: one that keeps its agreement rule is copied into the active copies (a table whose base and count end at or below 2^48;
a split that sums to 16; a ring pair, which starts with every index at 0 and its phase at 1, R252); one that breaks it leaves
the active copies unchanged and sets the group's REFUSED bit, with TABLE_COMMIT_REFUSED of the partition it belongs to: that of the table or ring pair, the holder of the tile, the partition that the span entry names; a split and a PKE ring belong to none. A refused queue table and span
record their first failing number. -/
def Obligations.CastOnCommits : Prop :=
  ((∀ (v : View) (p : Fin 64) (s : State), s.viewOpen v p = true →
     exec (.ctlCommitHandle v p) s = .next (if s.commitPending (.handle p) then s.setField (.part p .partSticky) 0 0 1
       else s.startCommit (.handle p) [.part p .ctHandleBaseLo, .part p .ctHandleBaseHi, .part p .ctHandleCount]) ∧
     exec (.ctlCommitKeyDir v p) s = .next (if s.commitPending (.keyDir p) then s.setField (.part p .partSticky) 0 0 1
       else s.startCommit (.keyDir p) [.part p .keyDirBaseLo, .part p .keyDirBaseHi, .part p .keyDirCount]) ∧
     exec (.ctlCommitBundle v p) s = .next (if s.commitPending (.bundle p) then s.setField (.part p .partSticky) 0 0 1
       else s.startCommit (.bundle p) [.part p .rbBaseLo, .part p .rbBaseHi, .part p .rbCount])) ∧
   (∀ (t : Fin 576) (s : State), s.tileOpen t = true → s.commitPending (.qtab t) = false →
     exec (.qtabCommit t) s = .next (s.startCommit (.qtab t)
       ((List.finRange 48).flatMap (fun n => [Reg.tile t (.qcfgLo n), Reg.tile t (.qcfgHi n)])))) ∧
   (∀ (d : Fin 18) (s : State), s.dieOpen d = true → s.commitPending (.bw d) = false →
     exec (.bwCommit d) s = .next (s.startCommit (.bw d) [.die d .bwSplit]))) ∧
  (∀ (c : Commit) (s : State), s.commits.find? (fun x => x.group = c.group) = some c →
     let u := s.dropCommit c.group
     (∀ p : Fin 64, c.group = .handle p → (s.inFlight p).isEmpty = true →
       exec (.castOnCommitApply (.handle p)) s = .next
         (if tableFits (snapVal c.values (.part p .ctHandleBaseLo)) (snapVal c.values (.part p .ctHandleBaseHi))
             (snapVal c.values (.part p .ctHandleCount)) 64 then u.putActive c.values
          else (u.setField (.part p .ctlStatus) 16 16 1).setField (.part p .partSticky) 16 16 1)) ∧
     (∀ p : Fin 64, c.group = .keyDir p → (s.inFlight p).isEmpty = true →
       exec (.castOnCommitApply (.keyDir p)) s = .next
         (if tableFits (snapVal c.values (.part p .keyDirBaseLo)) (snapVal c.values (.part p .keyDirBaseHi))
             (snapVal c.values (.part p .keyDirCount)) 16 then (u.putActive c.values).updPart p (fun x => { x with reservoirsBlocked := false })
          else (u.setField (.part p .ctlStatus) 17 17 1).setField (.part p .partSticky) 16 16 1)) ∧
     (∀ p : Fin 64, c.group = .bundle p → (s.inFlight p).isEmpty = true →
       exec (.castOnCommitApply (.bundle p)) s = .next
         (if tableFits (snapVal c.values (.part p .rbBaseLo)) (snapVal c.values (.part p .rbBaseHi))
             (snapVal c.values (.part p .rbCount)) 64 then u.putActive c.values
          else (u.setField (.part p .ctlStatus) 18 18 1).setField (.part p .partSticky) 16 16 1)) ∧
     (∀ t : Fin 576, c.group = .qtab t → (s.tile t).anyRunning = false →
       let first := fun (k : Nat) => if bit (s.reg (.tile t .qtabStatus)) 16 then u else u.setField (.tile t .qtabStatus) 5 0 k
       exec (.castOnCommitApply (.qtab t)) s = .next (match qtabCheck (qtabOf c.values t) with
         | none => (u.putActive c.values).updTile t (fun x => { x with queues := [] })
         | some k => let v := (first k).setField (.tile t .qtabStatus) 16 16 1
           match s.holder t with
           | some p => v.setField (pr p .partSticky) 16 16 1
           | none => v)) ∧
     (∀ n : Fin 64, c.group = .span n →
       let v := spanEntry (snapVal c.values (.glob (.spanCfg n))) (snapVal c.values (.glob (.spanVa n))) (snapVal c.values (.glob (.spanSize n)))
       let old := s.span n
       let first := if bit (s.reg (.glob .spanStatus)) 16 then u else u.setField (.glob .spanStatus) 5 0 n.val
       (s.inFlight v.part).isEmpty = true → exec (.castOnCommitApply (.span n)) s = .next
         (if s.spanOk n v (s.part v.part).map then
            (if old.enable = true ∧ v.enable = false then (u.putActive c.values).setField (pr old.part .partSpan) 0 0 1 else u.putActive c.values)
          else (first.setField (.glob .spanStatus) 16 16 1).setField (pr v.part .partSticky) 16 16 1)) ∧
     (∀ h : Fin 4, c.group = .pkeRing h → (s.pke h).active = false →
       let k := bits (snapVal c.values (.hank h .pkeRingCfg)) 4 0
       exec (.castOnCommitApply (.pkeRing h)) s = .next
         (if 4 ≤ k ∧ k ≤ 10 then (u.putActive c.values).updPke h (fun x => { x with active := true, tail := 0, head := 0, fetchStopped := false })
          else (u.setField (.hank h .pkeRingCfg) 31 31 0).setField (.hank h .pkeStatus) 16 16 1)) ∧
     (∀ d : Fin 18, c.group = .bw d →
       exec (.castOnCommitApply (.bw d)) s = .next
         (let v := snapVal c.values (.die d .bwSplit)
          if bits v 4 0 + bits v 12 8 + bits v 20 16 = 16 then u.putActive c.values
          else u.setField (.die d .bwStatus) 16 16 1)) ∧
     (∀ (p : Fin 64) (n : Fin 16), c.group = .ring p n → (s.ring p n).active = false →
       let v := fun r => snapVal c.values (.part p r)
       exec (.castOnCommitApply (.ring p n)) s = .next
         (if ringAgrees (v (.ringSqBaseLo n)) (v (.ringSqBaseHi n)) (v (.ringCqBaseLo n)) (v (.ringCqBaseHi n)) (v (.ringCfg n)) then
           (u.putActive c.values).updRing p n (fun r => { r with
             active := true, tail := 0, head := 0, sqHead := 0, cqTail := 0, phase := true,
             fetchStopped := false, deliveryStopped := false })
          else ((u.setField (.part p (.ringCtrl n)) 0 0 0).setField (.part p (.ringStatus n)) 0 0 1).setField (.part p .partSticky) 16 16 1)))

/-- The queue-table check reports a queue exactly when one breaks R189: the reported queue is enabled and breaks its own rules or
shares a line with another enabled queue, and every enabled queue below it keeps them all. -/
def Obligations.QueueTableCheckFindsFirst : Prop :=
  ∀ (qs : List QCfg),
    let good := fun (i : Nat) (q : QCfg) => q.enable = true → q.ok = true ∧
      ∀ (j : Nat) (r : QCfg), qs[j]? = some r → r.enable = true → i ≠ j → q.meets r = false
    (qtabCheck qs = none ↔ ∀ (i : Nat) (q : QCfg), qs[i]? = some q → good i q) ∧
    ∀ k, qtabCheck qs = some k → (∃ q, qs[k]? = some q ∧ ¬ good k q) ∧ ∀ (i : Nat) (q : QCfg), i < k → qs[i]? = some q → good i q

/-! ### Tile registers -/

/-- R192, R214, R177: a write of SEM_n while no stream runs sets its RW bits at once, and while one runs is
discarded with the holder's DESC_MALFORMED sticky bit; a write of SPAD_PWR.ON is held, a later write replacing a held one; a
write of VEC_CTRL that changes REDUCE_PATH is held (one that does not, replaces a held one). A held write takes effect when the tile is quiescent: of the scratchpad, exactly the bytes of
groups that were on and stay on keep their contents, and READY stays only for those; a held REDUCE_PATH value is written. The groups of a change become READY together. -/
def Obligations.TileWritesAreHeld : Prop :=
  (∀ (t : Fin 576) (s : State), s.tileOpen t = true →
     (∀ (n : Fin 32) (x : BitVec 32), exec (.semWrite t n x) s = .next
       (if (s.tile t).anyRunning then (match s.holder t with
           | some p => s.setField (pr p .partSticky) 0 0 1
           | none => s)
        else s.updReg (.tile t (.sem n)) (fun old => (old &&& 0x7F880000#32) ||| (x &&& 0x8077FFFF#32)))) ∧
     (∀ on : BitVec 8, exec (.spadPwrWrite t on) s = .next (s.updTile t (fun x => { x with spadHeld := some on }))) ∧
     (∀ x : BitVec 32, exec (.vecCtrlWrite t x) s = .next (s.updTile t (fun y => { y with
       reduceHeld := if bit x 0 = bit (s.reg (.tile t .vecCtrl)) 0 then none else some (bit x 0) })))) ∧
  (∀ (t : Fin 576) (s : State),
     (∀ (on : BitVec 8), s.Inv → (s.tile t).spadHeld = some on → (s.tile t).quiescent = true →
       let old : BitVec 8 := (s.reg (.tile t .spadPwr)).truncate 8
       ∃ u, exec (.spadPwrApply t) s = .next u ∧ (u.tile t).spadHeld = none ∧ u.mem = s.mem ∧ u.parts = s.parts ∧
         (∀ a : Nat, Tab.get (fun _ => 0) (u.tile t).scratch a =
           if bit (on &&& old) (a / 524288) then Tab.get (fun _ => 0) (s.tile t).scratch a else 0) ∧
         u.regs = (s.setReg (.tile t .spadPwr) (BitVec.ofNat 32 (on.toNat + (on &&& old &&& ((s.reg (.tile t .spadPwr)).extractLsb' 8 8)).toNat * 256))).regs ∧
         (∀ q : Nat, q ≠ t.val → u.tile q = s.tile q)) ∧
     (∀ b : Bool, (s.tile t).reduceHeld = some b → (s.tile t).quiescent = true →
       exec (.reducePathApply t) s = .next ((s.setField (.tile t .vecCtrl) 0 0 (if b then 1 else 0)).updTile t (fun x => { x with reduceHeld := none }))) ∧
     (∀ (g : BitVec 8) (rest : List (BitVec 8)), (s.tile t).spadRising = g :: rest →
       exec (.spadGroupReady t) s = .next ((s.updReg (.tile t .spadPwr) (fun v => v ||| BitVec.ofNat 32 (g.toNat * 256))).updTile t
         (fun x => { x with spadRising := rest }))))

/-! ### Register writes -/

/-- The registers of a partition whose writes have a rule of their own besides the field types of R11: doorbells, ring size and enable,
FROG_CTRL, CORE_CTRL, HOOK_STATUS, the inspection selection, the sampler, swatch keys, and the table, MT and commit registers. -/
def ownRule : PReg → Bool
  | .dbSq _ | .dbCq _ | .ringCfg _ | .ringCtrl _ | .frogCtrl | .coreCtrl | .hookStatus | .inspSel | .smpCfg | .smpBaseLo
  | .smpBaseHi | .smpSel _ | .swatchKey _ | .ctHandleCount | .ctNoiseGuard | .ctScaleTol | .ctlCommit | .mtAddr | .mtData
  | .mtCommit | .rbCount | .keyDirCount => true
  | _ => false

/-- The type of bit `i` of a register under its field table (R11). -/
def bitTy (r : Reg) (i : Nat) : Option RegTy := (r.fields.find? (fun f => decide (f.lo ≤ i ∧ i ≤ f.hi))).map (·.ty)

/-- R11: a write of 4 aligned bytes by the virtual function of a partition to one of its registers without a rule of its own
changes that register and nothing else: RW and RWS bits take the written value, W1C bits clear where 1 is written, and RO
and reserved bits stay. -/
def Obligations.RegisterWriteFollowsTypes : Prop :=
  ∀ (h : Fin 4) (i : Fin 16) (p : Fin 64) (r : PReg) (v : BitVec 32) (s : State),
    s.reqOpen (.vf h i) = true → s.vfPart h i = some p.val → ownRule r = false →
    ∃ x : Word32, exec (.registerWrite (.vf h i) (BitVec.ofNat 32 r.off) 4 v) s = .next (s.setReg (.part p r) x) ∧
      ∀ b : Nat, b < 32 → x.getLsbD b = (let old := (s.reg (.part p r)).getLsbD b
        match bitTy (.part p r) b with
        | some .rw | some .rws => v.getLsbD b
        | some .w1c => old && !v.getLsbD b
        | _ => old)

/-- R10, R441: a write of another width or at an unaligned offset is discarded whoever makes it; a virtual function that no
partition is bound to reaches nothing; the physical function's writes to PT_ROOT_n are discarded. R227, R437: a write of MEM_CFG without a reserved
code sets PATROL and INTERLEAVE at once, leaves INTERLEAVE_ACTIVE, and passes the granule to the settings store; one with a reserved code is discarded. -/
def Obligations.RegisterWriteDiscards : Prop :=
  ((∀ (q : Requester) (o v : BitVec 32) (n : Nat) (s : State), n ≠ 4 ∨ o.toNat % 4 ≠ 0 → exec (.registerWrite q o n v) s = .next s) ∧
   (∀ (h : Fin 4) (i : Fin 16) (o v : BitVec 32) (s : State), s.vfPart h i = none → exec (.registerWrite (.vf h i) o 4 v) s = .next s) ∧
   (∀ (h : Fin 4) (p : Fin 64) (v : BitVec 32) (s : State),
     exec (.registerWrite (.pf h) (BitVec.ofNat 32 (GReg.off (.ptRoot p))) 4 v) s = .next s)) ∧
  (∀ (v : BitVec 32) (s : State), s.answers = true →
     exec (.memCfgWrite v) s =
       if v.extractLsb' 0 2 = 3 ∨ v.extractLsb' 2 2 = 3 then .next s
       else .next ((s.updReg (.glob .memCfg) (fun old => (old &&& 0xFFFFFFF0#32) ||| (v &&& 0xF#32))).storeFromReg 0x07 (.interleave (bits v 3 2))))

/-- R446: a broadcast of the runtime to a tile register is one write at each target: with FEED_LIMIT of tile i as the offset, every
active site (in the group window, every active site of BCAST_MASK) takes the value at its tile i, and no other register changes. -/
def Obligations.BroadcastReachesTargets : Prop :=
  ∀ (i : Fin 32) (v : BitVec 32) (s : State), s.Inv → s.answers = true → feedLimitOk v = true →
    let x := 0x80000 + 0x2000 * i.val + TReg.off .feedLimit
    (∃ t, exec (.broadcastWrite .runtime (BitVec.ofNat 32 (0x3000000 + x)) 4 v) s = .next t ∧
      ∀ r : Reg, t.reg r = if ∃ d : Fin 18, (s.site d).state = .active ∧ r = .tile (tIdx (32 * d.val + i.val)) .feedLimit
        then v else s.reg r) ∧
    (∃ t, exec (.broadcastWrite .runtime (BitVec.ofNat 32 (0x3200000 + 0x2000 * i.val + TReg.off .feedLimit)) 4 v) s = .next t ∧
      ∀ r : Reg, t.reg r = if ∃ d : Fin 18, (s.site d).state = .active ∧ r = .tile (tIdx (32 * d.val + i.val)) .feedLimit
        then v else s.reg r) ∧
    (∃ t, exec (.broadcastWrite .runtime (BitVec.ofNat 32 (0x3100000 + x)) 4 v) s = .next t ∧
      ∀ r : Reg, t.reg r = if ∃ d : Fin 18, (s.site d).state = .active ∧ bit (s.reg (.glob .bcastMask)) d.val = true ∧
          r = .tile (tIdx (32 * d.val + i.val)) .feedLimit
        then v else s.reg r)

/-- The register map loses no address: the register found at the address of a register is that register, for every register of
every block. -/
def Obligations.RegisterAddressesRoundTrip : Prop := ∀ r : Reg, Reg.ofAddr r.addr = some r

/-! ### Hooks, inspection, counters, swatches, samplers, log and trace -/

/-- R394, R395: STATE goes from draining to halted when what the engines of the partition's stopped ops had begun has ended, and not before; a write of
RESUME in halted returns it to running, lets the partition's stopped ops go on but for those of killed jobs, each tile with the markers that the hook had discarded (that they are placed again is the model's reading, log entry 80),
and has the hooked op dispatched next; in any other state it is discarded. -/
def Obligations.HookHaltsAndResumes : Prop :=
  ∀ (p : Fin 64) (s : State),
    (bits (s.reg (.part p .hookStatus)) 17 16 = 1 → exec (.hookDrained p) s =
      .next (if s.atRest (fun j => decide (j.part = p.val)) = true then s.setField (.part p .hookStatus) 17 16 2 else s)) ∧
    (∀ v : View, s.viewOpen v p = true → v ≠ .operator →
      (bits (s.reg (.part p .hookStatus)) 17 16 ≠ 2 → exec (.hookResume v p) s = .next s) ∧
      (bits (s.reg (.part p .hookStatus)) 17 16 = 2 →
        ∃ t, exec (.hookResume v p) s = .next t ∧ t.regs = (s.setField (.part p .hookStatus) 17 16 0).regs ∧ t.parts = s.parts ∧ t.mem = s.mem ∧
          (s.Inv → ∀ n : Nat,
            let runs := ∃ j ∈ s.jobs, j.part = p.val ∧ j.killed = false ∧ ∃ o ∈ j.ops, o.phase = .running ∧ n ∈ o.tiles
            (runs → t.tile n = (s.tile n).resumeMarkers) ∧ (¬ runs → t.tile n = s.tile n)) ∧
          t.jobs.map (fun j => (j.id, j.killed, j.ops.map (fun o => (o.idx, o.phase, o.status)))) = s.jobs.map (fun j => (j.id, j.killed, j.ops.map (fun o => (o.idx, o.phase, o.status)))) ∧
          (∀ j ∈ t.jobs, j.part = p.val → j.killed = false → ∀ o ∈ j.ops, o.halted = false) ∧
          (∀ j i k r, (s.part p).hookOp = some (j, i) → t.op? ⟨j, i⟩ = some (k, r) → r.resumed = true)))

/-- R396, R440: a read of INSP_DATA answers the selected word of the t-th tile of the partition while STATE is halted and the tile is
under no scrub, zero and the BOUNDS sticky bit beyond the end of each of the four spaces, and zero for a TILE beyond the partition's tiles, for a tile under scrub and in any other STATE; through the operator window it
answers zero and changes nothing. The words of the scratchpad, the stash slice, the streams (program counter, row counters, comparators, VEC length), the queues and the semaphores are each given. What stands on a tile under an op whose pattern the runtime builds is a free value that two reads of one execution find the same (the model's choice, log entry 12). R399: a read of OP_CNT_LO answers bits [31:0] of the selected counter and latches bits [63:32] into OP_CNT_HI; a counter of a partition
that is not ACTIVE reads zero. R398: shown for the timestamp, for the counted events (ops bound off, executions replayed) and for the corrected on-die errors of a site. -/
def Obligations.InspectionAndCounterReads : Prop :=
  (∀ (p : Fin 64) (s : State) (w : View), s.viewOpen w p = true →
     (w = .operator → exec (.inspDataRead w p) s = .next (s.emit (.read 0))) ∧
     (w ≠ .operator → bits (s.reg (.part p .hookStatus)) 17 16 ≠ 2 → exec (.inspDataRead w p) s = .next (s.emit (.read 0))) ∧
     (w ≠ .operator → bits (s.reg (.part p .hookStatus)) 17 16 = 2 →
       ((s.partTiles p).length ≤ bits (s.reg (.part p .inspSel)) 8 0 → exec (.inspDataRead w p) s = .next (s.emit (.read 0))) ∧
       ∀ t : Nat, (s.partTiles p)[bits (s.reg (.part p .inspSel)) 8 0]? = some t →
       (s.tileScrubbed p t = true → exec (.inspDataRead w p) s = .next (s.emit (.read 0))) ∧
       (s.tileScrubbed p t = false →
       let space := bits (s.reg (.part p .inspSel)) 26 24
       let k := bits (s.reg (.part p .inspOffset)) 23 0
       (space = 0 ∧ 1048576 ≤ k ∨ space = 1 ∧ 3145728 ≤ k ∨ space = 2 ∧ 192 ≤ k ∨ space = 3 ∧ 96 ≤ k →
         exec (.inspDataRead w p) s = .next ((s.setField (.part p .partSticky) 3 3 1).emit (.read 0))) ∧
       (space = 0 →
         (k < 1048576 → s.opaqueTile t = false →
           exec (.inspDataRead w p) s = .next (s.emit (.read (BitVec.ofNat 32 (leNat (getBytes (s.tile t).scratch (4 * k) 4)))))) ∧
         (k < 1048576 → s.opaqueTile t = true → exec (.inspDataRead w p) s = .next (s.emit (.read (BitVec.ofNat 32 (s.patternWord t 0 k)))))) ∧
       (space = 1 → k < 3145728 →
         exec (.inspDataRead w p) s = .next (s.emit (.read (BitVec.ofNat 32 (leNat (getBytes (s.tile t).stash (4 * k) 4)))))) ∧
       (space = 2 → ∀ (n m : Nat), k = 32 * n + m → n < 6 → m < 32 →
         let x := s.stream t n
         ∃ v : Nat, exec (.inspDataRead w p) s = .next (s.emit (.read (BitVec.ofNat 32 v))) ∧
           (s.opaqueTile t = false → (m = 0 → v = x.pc) ∧ (1 ≤ m → m ≤ 8 → v = x.row (m - 1)) ∧
             (m = 9 → v < 16 ∧ ∀ c : Nat, c < 4 → v.testBit c = x.compare c) ∧ (m = 10 → n = 2 → v = x.vlNow)) ∧
           (s.opaqueTile t = true → (m = 9 → v < 16) ∧ (m ≤ 8 ∨ m = 10 ∧ n = 2 → v = s.patternWord t 2 k)) ∧
           (m = 10 ∧ n ≠ 2 ∨ 11 ≤ m → v = 0)) ∧
       (space = 3 → k < 96 →
         exec (.inspDataRead w p) s = .next (s.emit (.read (if k < 48 then s.qstat t k else if k < 64 then 0 else s.semWord t (k - 64)))))))) ∧
  (∀ (q : Requester) (s : State), s.reqOpen q = true → (q = .runtime ∨ ∃ h, q = .pf h) →
     let sel := s.reg (.glob .opCntSel)
     let n := bits sel 15 0
     let p := bits sel 21 16
     ∀ v : BitVec 64,
       ((s.part p).state ≠ .active ∧ n < 0x8000 ∧ v = 0) ∨
       ((s.part p).state = .active ∧ (n = 1 ∧ v = s.clock ∨ (n = 0x30 ∨ n = 0x31) ∧ v = Tab.get (fun _ => 0) (s.part p).counters n)) ∨
       (0x8000 ≤ n ∧ n < 0x8012 ∧ v = (s.site (n - 0x8000)).corrected) →
       exec (.opCntLoRead q) s = .next ((s.setReg (.glob .opCntHi) (v.extractLsb' 32 32)).emit (.read (v.truncate 32))))

/-- R402, R404, R440: a read of SWATCH_SEQ_n by the tenant answers the count and latches the four digest words; a write of SWATCH_KEY_3 installs
the four words as the key; the operator window answers zero and writes nothing. -/
def Obligations.SwatchAccess : Prop :=
  ∀ (v : View) (p : Fin 64) (s : State), s.viewOpen v p = true →
    (∀ n : Fin 16, v ≠ .operator → exec (.swatchSeqRead v p n) s = .next
      (((((s.setReg (.part p (.swatchD0 n)) (s.act (.part p (.swatchD0 n)))).setReg (.part p (.swatchD1 n)) (s.act (.part p (.swatchD1 n)))).setReg
        (.part p (.swatchD2 n)) (s.act (.part p (.swatchD2 n)))).setReg (.part p (.swatchD3 n)) (s.act (.part p (.swatchD3 n)))).emit
        (.read (s.reg (.part p (.swatchSeq n)))))) ∧
    (∀ x : BitVec 32, v ≠ .operator →
      let u := s.setReg (.part p (.swatchKey 3)) x
      let word := fun k : Fin 4 => (u.reg (.part p (.swatchKey k))).toNat * 2 ^ (32 * k.val)
      exec (.swatchKeyInstall v p x) s = .next (u.updPart p (fun y => { y with swatchH := word 0 + word 1 + word 2 + word 3 }))) ∧
    (v = .operator → (∀ n : Fin 16, exec (.swatchSeqRead v p n) s = .next (s.emit (.read 0))) ∧
      ∀ x : BitVec 32, exec (.swatchKeyInstall v p x) s = .next s)

/-- R400, R405: enabling a sampler, the log path or the trace path with fields in range writes its CFG register and sets its indices to 0;
while it is enabled, a write that keeps ENABLE is discarded (for a partition's sampler with the DESC_MALFORMED sticky bit), and one that
clears it clears only ENABLE (that its other fields are then not written is the model's reading, log entry 62). R401: a sample that is due is lost while WR + 1 equals RD; otherwise its 64 bytes are written at WR and WR moves on.
R406: the trace marker that is owed is written once two entries are free, and no marker is owed afterwards. -/
def Obligations.RecordersWrite : Prop :=
  ((∀ (v : View) (p : Fin 64) (x : BitVec 32) (s : State), s.viewOpen v p = true →
     let r : Reg := .part p .smpCfg
     (bit (s.reg r) 31 = false → bit x 31 = true → 4 ≤ bits x 27 24 → 1 ≤ bits x 19 0 → bits x 19 0 ≤ 1000000 →
       exec (.samplerEnable v p x) s = .next (((s.updReg r (fun old => (old &&& 0x70F00000#32) ||| (x &&& 0x8F0FFFFF#32))).setReg (.part p .smpPtr) 0).updPart p
         (fun y => { y with smpLost := 0 }))) ∧
     (bit (s.reg r) 31 = true → exec (.samplerEnable v p x) s = .next
       (if bit x 31 then s.setField (.part p .partSticky) 0 0 1 else s.setField r 31 31 0))) ∧
   (∀ (h : Fin 4) (x : BitVec 32) (s : State), s.hankOpen h = true →
     (bit (s.reg (.hank h .logCfg)) 31 = false → bit x 31 = true → 6 ≤ bits x 3 0 →
       exec (.logEnable h x) s = .next ((s.updReg (.hank h .logCfg) (fun old => (old &&& 0x7FFFFFF0#32) ||| (x &&& 0x8000000F#32))).setReg (.hank h .logPtr) 0)) ∧
     (bit (s.reg (.hank h .trcCfg)) 31 = false → bit x 31 = true → 6 ≤ bits x 3 0 →
       exec (.traceEnable h x) s = .next ((s.updReg (.hank h .trcCfg) (fun old => (old &&& 0x7FFFFFF0#32) ||| (x &&& 0x8000000F#32))).setReg (.hank h .trcPtr) 0)) ∧
     (bit (s.reg (.hank h .logCfg)) 31 = true → exec (.logEnable h x) s = .next (if bit x 31 then s else s.setField (.hank h .logCfg) 31 31 0)) ∧
     (bit (s.reg (.hank h .trcCfg)) 31 = true → exec (.traceEnable h x) s = .next (if bit x 31 then s else s.setField (.hank h .trcCfg) 31 31 0)))) ∧
  (∀ (p : Fin 64) (s : State), s.answers = true → s.power.state = .m0 → s.partOpen p = true → bit (s.reg (.part p .smpCfg)) 31 = true →
     let n := 2 ^ bits (s.reg (.part p .smpCfg)) 27 24
     let wr := bits (s.reg (.part p .smpPtr)) 31 16
     ((wr + 1) % n = bits (s.reg (.part p .smpPtr)) 15 0 →
       exec (.sampleRecord p) s = .next (s.updPart p (fun x => { x with smpLost := min (x.smpLost + 1) 0xFFFF }))) ∧
     ((wr + 1) % n ≠ bits (s.reg (.part p .smpPtr)) 15 0 → (∀ m, s.reg (.part p (.smpSel m)) = 0x00010001#32) →
       let base := (s.reg (.part p .smpBaseLo)).toNat + (s.reg (.part p .smpBaseHi)).toNat * 2 ^ 32
       let k := s.clock.toNat
       let rec6 := k + (s.part p).smpLost * 2 ^ 64 + (((((k * 2 ^ 128 + k * 2 ^ 192) + k * 2 ^ 256) + k * 2 ^ 320) + k * 2 ^ 384) + k * 2 ^ 448)
       ∀ u, s.writeVA p (base + 64 * wr) (leBytes 64 rec6) = .ok u →
         exec (.sampleRecord p) s = .next ((u.setField (.part p .smpPtr) 31 16 ((wr + 1) % n)).updPart p (fun x => { x with smpLost := 0 })))) ∧
  (∀ (h : Fin 4) (l : TraceLoss) (s : State), (s.hank h).running = true → (s.hank h).traceLoss = some l →
     s.pathEnabled h tracePath = true → 2 ≤ s.pathFree h tracePath →
     exec (.traceMarker h) s = .next ((s.pathWrite h tracePath (markerOf l l.firstRec)).updHank h (fun x => { x with traceLoss := none })))

/-! ### Tenant cores -/

/-- A virtual hart of a partition runs, and what it holds. -/
def hartIs (s : State) (p vh : Nat) (h : Hart) : Prop := s.coreRuns p vh = true ∧ s.hart? p vh = some h

/-- R319: an aligned load, store or fetch of a running tenant core to device memory, inside one line that the translation permits: a load
returns the little-endian bytes at the address, a store writes them, and no other byte of stack memory, no register and no other
partition changes. One that finds no valid translation, or whose kind the page does not permit, raises an access fault in VS mode with cause 1 for a fetch, 5
for a load and 7 for a store; it is captured with ACCESS 0x7 (R232) and changes no memory and no other hart. R318: the address is translated by the core's VS stage first, Bare, Sv39 or Sv48; in Bare it is the guest physical
address. By the model's choice (log entry 82, the RISC-V privileged architecture) an address that the VS stage does not map raises a page fault, of cause 12, 13 or 15, which changes nothing else, and the row of a core's accesses brings its `vsatp` and
mode too. -/
def Obligations.CoreAccessesMemory : Prop :=
  (∀ (p : Fin 64) (vh n pa ga : Nat) (g v : BitVec 64) (h : Hart) (s u : State), s.Inv → hartIs s p vh h →
     (n = 1 ∨ n = 2 ∨ n = 4 ∨ n = 8) → g.toNat % n = 0 → ga < imageBase →
     (u.xlate p ga .read (s.hartSite p vh) = .ok pa → s.lineBad (pa / 64) = false →
       (s.vsAddr p vh .load g.toNat = .ok (ga, u) → ∃ t, exec (.coreMemoryAccess p vh (.load n) g) s = .next t ∧
         t.hart? p vh = some { h with rd := BitVec.ofNat 64 (leNat (s.readPhys pa n)) } ∧
         t.mem = s.mem ∧ t.regs = s.regs ∧ ∀ q : Nat, q ≠ p.val → t.part q = s.part q) ∧
       (n = 4 → s.vsAddr p vh .fetch g.toNat = .ok (ga, u) →
         ∃ t, exec (.coreMemoryAccess p vh .fetch g) s = .next t ∧ t.parts = s.parts ∧ t.mem = s.mem ∧ t.regs = s.regs)) ∧
     (s.vsAddr p vh .store g.toNat = .ok (ga, u) → u.xlate p ga .write (s.hartSite p vh) = .ok pa → s.lineFenced (pa / 64) = false → pa % n = 0 →
       ∃ t, exec (.coreMemoryAccess p vh (.store n v) g) s = .next t ∧
         (∀ a : Nat, t.byte a = if pa ≤ a ∧ a < pa + n then BitVec.ofNat 8 (v.toNat / 256 ^ (a - pa)) else s.byte a) ∧
         t.parts = s.parts ∧ t.regs = s.regs)) ∧
  (∀ (p : Fin 64) (vh n ga : Nat) (g v : BitVec 64) (h : Hart) (f : XFault) (s u : State), hartIs s p vh h →
     (n = 1 ∨ n = 2 ∨ n = 4 ∨ n = 8) → g.toNat % n = 0 → ¬ (imageBase ≤ ga ∧ ga < imageBase + 0x10000) →
     let fault := fun (cause : Nat) => Host.Outcome.next ((u.capture p 7 f).updHart p vh (fun x => { x with fault := some cause }))
     (u.xlate p ga .read (s.hartSite p vh) = .error f →
       (s.vsAddr p vh .load g.toNat = .ok (ga, u) → exec (.coreMemoryAccess p vh (.load n) g) s = fault 5) ∧
       (n = 4 → s.vsAddr p vh .fetch g.toNat = .ok (ga, u) → exec (.coreMemoryAccess p vh .fetch g) s = fault 1)) ∧
     (s.vsAddr p vh .store g.toNat = .ok (ga, u) → u.xlate p ga .write (s.hartSite p vh) = .error f → exec (.coreMemoryAccess p vh (.store n v) g) s = fault 7)) ∧
  (∀ (p : Fin 64) (vh : Nat) (g v : BitVec 64) (h : Hart) (s : State), hartIs s p vh h →
     let mode := nbits h.vs.vsatp.toNat 63 60
     let top := fun (n : Nat) => g.toNat / 2 ^ n
     let stops := fun (k : VsKind) => s.vsAddr p vh k g.toNat = .error .page
     let page := fun (cause : Nat) => Host.Outcome.next (s.updHart p vh (fun x => { x with fault := some cause }))
     (mode = 0 → ∀ k, s.vsAddr p vh k g.toNat = .ok (g.toNat, s)) ∧
     (mode = 8 ∧ top 38 ≠ 0 ∧ top 38 ≠ 2 ^ 26 - 1 ∨ mode = 9 ∧ top 47 ≠ 0 ∧ top 47 ≠ 2 ^ 17 - 1 → ∀ k, stops k) ∧
     (stops .fetch → exec (.coreMemoryAccess p vh .fetch g) s = page 12) ∧
     (∀ n, stops .load → exec (.coreMemoryAccess p vh (.load n) g) s = page 13) ∧
     (∀ n, stops .store → exec (.coreMemoryAccess p vh (.store n v) g) s = page 15) ∧
     ∀ c : VsContext, exec (.coreMemoryAccess p vh (.context c) g) s = .next (s.updHart p vh (fun x => { x with
       vs := { c with vsatp := if nbits c.vsatp.toNat 63 60 ∈ [0, 8, 9] then c.vsatp else x.vs.vsatp } })))

/-- What each atomic writes (R223), on words of width w: m is the value in memory, v the value sent, c the comparand. -/
def atomicResult (f : AmoOp) (w : Nat) (m v c : BitVec w) : BitVec w :=
  match f with
  | .swap => v
  | .add => m + v
  | .min => if v.slt m then v else m
  | .max => if m.slt v then v else m
  | .minu => if v.ult m then v else m
  | .maxu => if m.ult v then v else m
  | .and => m &&& v
  | .or => m ||| v
  | .xor => m ^^^ v
  | .cas => if m = c then v else m

/-- R223: a core's atomic on a page that permits combines writes the function's result in place of the old value, returns the old value
(sign-extended), and changes no other byte of memory; its address passes the core's VS stage first (R318, log entry 82), where one that is not mapped raises a store page fault. That one whose home die is lost waits, with no memory, register or hart changed, until the home has passed on is the model's choice: R358 answers transactions to the die as timed out, R362 lets a tenant observe nothing else than time and lost cores (log entry 115). -/
def Obligations.CoreAtomicComputes : Prop :=
  ∀ (p : Fin 64) (vh pa ga : Nat) (f : AmoOp) (wide : Bool) (g v c : BitVec 64) (h : Hart) (s u : State), s.Inv → hartIs s p vh h →
    let n := if wide then 8 else 4
    (s.vsAddr p vh .store g.toNat = .error .page → exec (.coreAtomic p vh f wide g v c) s = .next (s.updHart p vh (fun x => { x with fault := some 15 }))) ∧
    (s.vsAddr p vh .store g.toNat = .ok (ga, u) → g.toNat % n = 0 → (u.coreLeaf p vh ga n).xlate p ga .combine (s.hartSite p vh) = .ok pa → pa % n = 0 → s.lineBad (pa / 64) = false →
    let m : BitVec (8 * n) := BitVec.ofNat (8 * n) (leNat (s.readPhys pa n))
    let r := atomicResult f (8 * n) m (v.truncate (8 * n)) (c.truncate (8 * n))
    ((s.site (s.homeOf p pa)).works = false → ∃ t, exec (.coreAtomic p vh f wide g v c) s = .next t ∧ t.mem = s.mem ∧ t.parts = s.parts ∧ t.regs = s.regs ∧ t.reservations = s.reservations) ∧
    ((s.site (s.homeOf p pa)).works = true → ∃ t, exec (.coreAtomic p vh f wide g v c) s = .next t ∧
      (∀ a : Nat, t.byte a = if pa ≤ a ∧ a < pa + n then BitVec.ofNat 8 (r.toNat / 256 ^ (a - pa)) else s.byte a) ∧
      t.hart? p vh = some { h with rd := m.signExtend 64 } ∧ t.regs = s.regs ∧ ∀ q : Nat, q ≠ p.val → t.part q = s.part q))

/-- R223: a load-reserved sets the hart's one reservation on the line at its home and returns the value; a store-conditional stores and
returns 0 while that reservation stands, and returns 1 and stores nothing when it is gone; either way none is held afterwards. Their addresses pass the core's VS stage first (R318, log entry 82). Any write to a line of stack
memory, from any requester, clears every reservation on it, and leaves those on other lines. -/
def Obligations.ReservationsGuardStores : Prop :=
  (∀ (p : Fin 64) (vh pa ga : Nat) (wide : Bool) (g v : BitVec 64) (h : Hart) (s u : State), s.Inv → hartIs s p vh h →
     let n := if wide then 8 else 4
     g.toNat % n = 0 → (u.coreLeaf p vh ga n).xlate p ga .combine (s.hartSite p vh) = .ok pa → pa % n = 0 →
     let line := (s.homeOf p pa, p.val, vh, pa / 64)
     (s.vsAddr p vh .load g.toNat = .ok (ga, u) → s.lineBad (pa / 64) = false → (s.site (s.homeOf p pa)).works = true →
       ∃ t, exec (.coreLoadReserved p vh wide g) s = .next t ∧ line ∈ t.reservations ∧
         (∀ r ∈ t.reservations, r.2.1 = p.val → r.2.2.1 = vh → r = line) ∧ t.mem = s.mem ∧
         t.hart? p vh = some { h with rd := (BitVec.ofNat (8 * n) (leNat (s.readPhys pa n))).signExtend 64 }) ∧
     (s.vsAddr p vh .store g.toNat = .ok (ga, u) → s.lineFenced (pa / 64) = false →
       ∃ t, exec (.coreStoreConditional p vh wide g v) s = .next t ∧ (∀ r ∈ t.reservations, ¬ (r.2.1 = p.val ∧ r.2.2.1 = vh)) ∧
         (line ∈ s.reservations → t.hart? p vh = some { h with rd := 0 } ∧
           ∀ a : Nat, t.byte a = if pa ≤ a ∧ a < pa + n then BitVec.ofNat 8 (v.toNat / 256 ^ (a - pa)) else s.byte a) ∧
         (line ∉ s.reservations → t.hart? p vh = some { h with rd := 1 } ∧ t.mem = s.mem))) ∧
  (∀ (s : State) (pa : Nat) (bs : List Byte) (keep : Option Nat), bs ≠ [] → pa % 64 + bs.length ≤ 64 → s.lineFenced (pa / 64) = false →
     ∀ r, r ∈ (s.storePhys pa bs keep).reservations ↔ r ∈ s.reservations ∧ r.2.2.2 ≠ pa / 64)

/-- R318: the calls of the runtime's SBI by a running hart. A Base probe answers 1 for the extensions that R318 names and 0 otherwise; Timer
sets the deadline and withdraws a pending interrupt, and when `time` (the mesh clock divided by 12, R376) has reached the deadline the hart's timer interrupt
becomes pending; IPI and RFENCE reach the named harts of the partition and answer an invalid
parameter when one of them is none of its own; HSM starts a stopped hart (its number in a0; on its own core, else, by the model's choice, on the partition's first: R362 does not say on which, log entry 101), stops or suspends
the caller, and reports a hart's state; System Reset restarts the partition's cores. Codes and numbers are the RISC-V SBI's, and a suspended hart goes on once an interrupt is pending (log entry 14). -/
def Obligations.SbiCallsAnswer : Prop :=
  (∀ (p : Fin 64) (vh : Nat) (s : State), s.coreRuns p vh = true →
     let back := fun (u : State) (e x : BitVec 64) => u.updHart p vh (fun h => { h with err := e, rd := x })
     let n := (s.part p).harts.length
     (∀ x : BitVec 64, exec (.sbiBase p vh 3 x) s = .next (back s 0
       (if x.toNat ∈ [0x10, 0x54494D45, 0x735049, 0x52464E43, 0x48534D, 0x53525354] then 1 else 0))) ∧
     (∀ x : BitVec 64, exec (.sbiTimer p vh x) s = .next (back (s.updHart p vh (fun h => { h with timerAt := some x, timerPending := false })) 0 0)) ∧
     (∀ m b : BitVec 64, (∀ v ∈ maskHarts m b n, v < n) →
       exec (.sbiIpi p vh m b) s = .next (back ((maskHarts m b n).foldl (fun u v => u.updHart p v (fun h => Hart.wake v { h with softPending := true })) s) 0 0) ∧
       exec (.sbiRfence p vh 1 m b) s = .next (back ((maskHarts m b n).foldl (fun u v => u.updHart p v id) s) 0 0)) ∧
     (∀ m b : BitVec 64, (∃ v ∈ maskHarts m b n, n ≤ v) →
       exec (.sbiIpi p vh m b) s = .next (back s (-3) 0) ∧ exec (.sbiRfence p vh 1 m b) s = .next (back s (-3) 0)) ∧
     (∀ (v pa : Nat) (a x : BitVec 64) (h : Hart), s.hart? p v = some h → h.state = .stopped → s.xlate p a.toNat .read (s.hartSite p vh) = .ok pa →
       exec (.sbiHsm p vh (.start v a x)) s = .next (back (s.updHart p v (fun h =>
         { phys := h.phys, shares := if h.phys.isSome then none else (s.part p).harts.findSome? (·.phys)
           state := if (s.part p).harts.any (fun k => k.phys.isSome) then .running else .waitingForCore
           entry := a, a0 := BitVec.ofNat 64 v, a1 := x })) 0 0)) ∧
     (∀ a x : BitVec 64, exec (.sbiHsm p vh (.suspend 0 a x)) s = .next ((back s 0 0).updHart p vh (fun h => Hart.wake vh { h with state := .suspended, resume := none }))) ∧
     (∀ (pa : Nat) (a x : BitVec 64), s.xlate p a.toNat .read (s.hartSite p vh) = .ok pa → exec (.sbiHsm p vh (.suspend 0x80000000 a x)) s =
       .next ((back s 0 0).updHart p vh (fun h => Hart.wake vh { h with state := .suspended, resume := some (a, x) }))) ∧
     exec (.sbiHsm p vh .stop) s = .next { s.updHart p vh (fun h => { phys := h.phys }) with
       reservations := s.reservations.filter (fun r => decide (r.2.1 ≠ p.val ∨ r.2.2.1 ≠ vh)) } ∧
     (∀ (v : Nat) (h : Hart), s.hart? p v = some h → exec (.sbiHsm p vh (.status v)) s = .next (back s 0 (match h.state with
       | .running | .waitingForCore => 0
       | .stopped => 1
       | .startPending => 2
       | .suspended => 4))) ∧
     exec (.sbiSystemReset p vh 0) s = .next ((s.stopCores p).startHart0 p)) ∧
  (∀ (p : Fin 64) (vh : Nat) (h : Hart) (x : BitVec 64) (s : State), s.hart? p vh = some h → h.state ≠ .stopped → h.timerAt = some x →
     exec (.vsTimerInterrupt p vh) s =
       if x.toNat ≤ s.clock.toNat / 12 then .next (s.updHart p vh (fun k => Hart.wake vh { k with timerAt := none, timerPending := true })) else .next s) ∧
  (∀ (v : Nat) (h : Hart),
    (h.state ≠ .suspended ∨ (h.timerPending || h.softPending || h.extPending) = false → Hart.wake v h = h) ∧
    (h.state = .suspended → (h.timerPending || h.softPending || h.extPending) = true →
      (Hart.wake v h).state = (if h.core.isSome then .running else .waitingForCore) ∧ (Hart.wake v h).resume = none ∧
      (h.resume = none → (Hart.wake v h).entry = h.entry ∧ (Hart.wake v h).a0 = h.a0 ∧ (Hart.wake v h).vs = h.vs) ∧
      ∀ a x, h.resume = some (a, x) → (Hart.wake v h).entry = a ∧ (Hart.wake v h).a0 = BitVec.ofNat 64 v ∧ (Hart.wake v h).a1 = x ∧ (Hart.wake v h).vs = {}))

/-- R320: START starts virtual hart 0 at CORE_ENTRY with its number in a0 (without a core of its own, by the model's choice, on the partition's first core, and waiting when the partition holds none: R362 does not say which core, log entry 101); it is discarded while a core of the partition runs and
held while the partition is STOPPING or SCRUBBING. STOP_ALL returns every core to reset state and drops their reservations. -/
def Obligations.CoresStartAndStop : Prop :=
  ∀ (v : View) (p : Fin 64) (s : State), s.viewOpen v p = true →
    let x := s.part p
    let runs := x.harts.any (fun h => decide (h.state ≠ .stopped))
    (runs = true → exec (.coreStart v p) s = .next s) ∧
    (runs = false → x.state = .active → exec (.coreStart v p) s = .next (s.updPart p (fun x => x.updHart 0 (fun h =>
      { phys := h.phys, shares := if h.phys.isSome then none else x.harts.findSome? (·.phys)
        state := if x.harts.any (fun k => k.phys.isSome) then .running else .waitingForCore
        entry := BitVec.ofNat 64 ((s.reg (.part p .coreEntryLo)).toNat + (s.reg (.part p .coreEntryHi)).toNat * 2 ^ 32), a0 := 0, a1 := 0 })))) ∧
    (runs = false → (x.state = .stopping ∨ x.state = .scrubbing) →
      exec (.coreStart v p) s = .next (s.updPart p (fun x => { x with startHeld := true }))) ∧
    exec (.coreStopAll v p) s = .next { s.updPart p (fun x => { x with harts := x.harts.map (fun h => { phys := h.phys }) }) with
      reservations := s.reservations.filter (fun r => decide (r.2.1 ≠ p.val)) }

/-! ### Partitions and frogs -/

/-- R314, R316: a CREATE whose checks pass makes the partition ACTIVE with the quads, cores, virtual function, quota and map of its record, and ends with DONE:
LAST_STATUS 0, LAST_PART its number, BUSY 0. A refused CREATE ends with the status of the failing check and changes no partition and no
memory. Outside the Deployed state, or for a partition that is not FREE, the status is PROTECT whatever the record holds. -/
def Obligations.PartitionIsCreated : Prop :=
  (∀ (src : RecordSource) (p : Fin 64) (s : State), s.Inv → s.cmdFree = true →
     (∀ (x : Nat) (m : List MapEntry), (s.issueCmd 1 p false).createCheck src p = .ok (x, m) →
       ∃ t, exec (.partCreate src p) s = .next t ∧ t.partCmd = none ∧ bits (t.reg (.glob .partCmdStatus)) 31 16 = 0 ∧
         bits (t.reg (.glob .partCmdStatus)) 13 8 = p.val ∧ bits (t.reg (.glob .partCmdStatus)) 0 0 = 0 ∧
         (t.part p).state = .active ∧ (t.part p).vf = some (nbits x 1 0, nbits x 5 2) ∧ (t.part p).grant = nbits x 63 32 ∧
         (t.part p).quads = prQuads x ∧ (t.part p).harts.map (·.phys) = (prCores x).map some ∧ (t.part p).map = m ∧
         (∀ (r : PReg), t.reg (.part p r) = (Reg.part p r).init) ∧ (∀ q : Nat, q ≠ p.val → t.part q = s.part q)) ∧
     (∀ e : Status, (s.issueCmd 1 p false).createCheck src p = .error e →
       ∃ t, exec (.partCreate src p) s = .next t ∧ t.partCmd = none ∧ bits (t.reg (.glob .partCmdStatus)) 31 16 = e.code ∧
         bits (t.reg (.glob .partCmdStatus)) 13 8 = p.val ∧ bits (t.reg (.glob .partCmdStatus)) 0 0 = 0 ∧ t.parts = s.parts ∧ t.mem = s.mem)) ∧
  (∀ (src : RecordSource) (p : Nat) (s : State), s.lifecycle ≠ .deployed ∨ (s.part p).state ≠ .free →
     s.createCheck src p = .error .protect)

/-- R311, R315, R316, R322: REMAP, DESTROY and FROG of a partition that exists. A REMAP whose checks pass keeps its map waiting for the partition's quiescent
point, BUSY meanwhile; there (no op in flight, no frog) the new map is in force and the command ends with DONE. A DESTROY answers as unbound at once and starts a partition
frog, a FROG starts one; both stop the tenant cores and put the partition in STOPPING. -/
def Obligations.PartitionCommandsProceed : Prop :=
  ∀ (p : Fin 64) (s : State), s.Inv →
    (s.cmdFree = true → (s.part p).state = .active → (s.part p).frog = none →
      (∀ (src : RecordSource) (m : List MapEntry), (s.issueCmd 3 p false).remapCheck src p = .ok m →
        exec (.partRemap src p) s = .next ((s.issueCmd 3 p false).updPart p (fun x => { x with remap := some m }))) ∧
      (∃ t, exec (.partDestroy p) s = .next t ∧ (t.part p).destroyed = true ∧ (t.part p).state = .stopping ∧
        (∀ h ∈ (t.part p).harts, h.state = .stopped) ∧ t.partCmd = some { op := 2, part := p, mgmt := false }) ∧
      (∃ t, exec (.partFrog p) s = .next t ∧ (t.part p).destroyed = (s.part p).destroyed ∧ (t.part p).state = .stopping ∧
        (∀ h ∈ (t.part p).harts, h.state = .stopped) ∧ t.partCmd = some { op := 4, part := p, mgmt := false })) ∧
    (∀ (m : List MapEntry), (s.part p).remap = some m → (s.inFlight p).isEmpty = true → (s.part p).frog = none →
      s.partCmd = some { op := 3, part := p, mgmt := false } →
      ∃ t, exec (.translationChange p) s = .next t ∧ (t.part p).map = m ∧ (t.part p).remap = none ∧ t.partCmd = none ∧
        bits (t.reg (.glob .partCmdStatus)) 31 16 = 0 ∧ bits (t.reg (.glob .partCmdStatus)) 0 0 = 0)

/-- R320 to R322: a write of FROG_CTRL with GO 1 names the fetched jobs of the partition whose job entry is not yet written, with ALL 1 every one, else the one at RING and SQ_INDEX. It kills them and leaves the partition running: every one of their ops that
has not started is resolved with KILLED (0x40) and ORIGIN its own index, no other job is killed, and the frog goes on to its engine stop. One that names no such entry has no effect; that ALL where there is none has none either is the model's reading (log entry 54). -/
def Obligations.JobFrogKills : Prop :=
  ∀ (v : View) (p : Fin 64) (x : BitVec 32) (s : State), s.viewOpen v p = true → (s.part p).frog = none →
    let names := (s.jobs.filter (fun j => decide (j.part = p.val ∧ j.id ∈ s.openJobIds p ∧ (bit x 30 = true ∨ j.ring = bits x 19 16 ∧ j.sqIndex = bits x 15 0)))).map (·.id)
    (bit x 31 = false ∨ names = [] → exec (.jobFrog v p x) s = .next s) ∧
    (s.Inv → bit x 31 = true → names ≠ [] → (∀ j ∈ s.jobs, ∀ k ∈ s.jobs, j.id = k.id → j = k) → (∀ j ∈ s.jobs, ∀ a ∈ j.ops, ∀ b ∈ j.ops, a.idx = b.idx → a = b) →
      ∃ t, exec (.jobFrog v p x) s = .next t ∧ (t.part p).state = (s.part p).state ∧
        (∃ f, (t.part p).frog = some f ∧ f.whole = false ∧ f.step = 0 ∧ f.jobs = names) ∧
        (∀ j ∈ t.jobs, j.id ∈ names → j.killed = true ∧ ∀ r ∈ j.ops, r.phase.settled = true ∨ r.started = true) ∧
        (∀ j ∈ t.jobs, j.id ∉ names → ∃ k ∈ s.jobs, k.id = j.id ∧ k.killed = j.killed) ∧
        ∀ j ∈ s.jobs, j.id ∈ names → ∀ r ∈ j.ops, r.phase.settled = false → r.started = false →
          ∃ k q, t.op? ⟨j.id, r.idx⟩ = some (k, q) ∧ q.phase = .resolved ∧ q.status = .killed ∧ q.origin = r.idx)

/-- R322, R323, R325: the frog's later steps. When what the engines of the killed jobs' ops had begun has ended (R209), the scrub begins at its first step, and not before; each scrub step ends with its resource
scrubbed and the next one begun: the partition's lines in the die caches of every die, the engine state of the tiles concerned, their scratchpads, and for a partition frog the stash slices and the tenant cores
(after the scratchpads, a job frog's scrub goes to the release of step 7, a partition frog's to the stash; after the cores to the release); after step 7 the frog is over, and the partition of a partition frog
without DESTROY is ACTIVE again. R309, R316: when the page scrub of a partition in RELEASING is done, every byte of every page it held outside the runtime's memory
reads as zero, the partition is FREE again, and a DESTROY that waits ends with DONE; no other partition changes, but for one that waits for a quad or a core (R362, R363). -/
def Obligations.FrogScrubsInOrder : Prop :=
  (∀ (p : Fin 64) (f : Frog) (s : State), s.Inv → (s.part p).frog = some f → s.power.state = .m0 →
     (f.step = 0 → s.atRest (fun j => f.jobs.contains j.id) = false → exec (.frogEnginesStopped p) s = .next s) ∧
     (f.step = 0 → s.atRest (fun j => f.jobs.contains j.id) = true → ∃ t g, exec (.frogEnginesStopped p) s = .next t ∧ (t.part p).frog = some g ∧ g.step = 1 ∧ g.jobs = f.jobs ∧
       (f.whole = true → (t.part p).state = .scrubbing)) ∧
     (f.step = 1 → ∃ t, exec (.frogScrubStepDone p) s = .next t ∧ (∀ (d : Nat) (c : Nat × Nat), c ∈ (t.site d).cache ↔ c ∈ (s.site d).cache ∧ c.1 ≠ p.val) ∧
       (t.part p).frog = some { f with step := 2 } ∧ t.mem = s.mem ∧ t.tiles = s.tiles) ∧
     (f.step = 2 → ∃ t, exec (.frogScrubStepDone p) s = .next t ∧
       (∀ tl : Nat,
         let mine := tl ∈ (if f.whole then s.partTiles p else f.tiles) ∧ ∀ o, (s.tile tl).op = some o → o.1 ∈ f.jobs
         let x := t.tile tl
         (mine → x.op = none ∧ x.streams = [] ∧ x.feeders = [] ∧ x.queues = [] ∧ x.posts = [] ∧ x.exchanges = [] ∧ x.ribGroups = [] ∧ x.ribConst = none ∧ x.windows = [] ∧
           x.reduction = none ∧ x.staging = [] ∧ x.scratch = (s.tile tl).scratch ∧ x.stash = (s.tile tl).stash) ∧ (¬ mine → x = s.tile tl)) ∧
       (t.part p).frog = some { f with step := 3 } ∧ t.mem = s.mem) ∧
     (f.step = 3 → ∃ t, exec (.frogScrubStepDone p) s = .next t ∧
       (∀ tl ∈ (if f.whole then s.partTiles p else f.tiles), (t.tile tl).scratch = []) ∧
       (t.part p).frog = some { f with step := if f.whole then 4 else 7 } ∧ t.mem = s.mem) ∧
     (f.step = 4 → f.whole = true → ∃ t, exec (.frogScrubStepDone p) s = .next t ∧
       (∀ tl ∈ s.partTiles p, (t.tile tl).stash = []) ∧ (t.part p).frog = some { f with step := 5 } ∧ t.mem = s.mem) ∧
     (f.step = 5 → f.whole = true → ∃ t, exec (.frogScrubStepDone p) s = .next t ∧ (t.part p).harts = (s.part p).harts.map (fun h => { phys := h.phys }) ∧
       (∀ r ∈ t.reservations, r.2.1 ≠ p.val) ∧ (t.part p).frog = some { f with step := 7 } ∧ t.mem = s.mem ∧ t.tiles = s.tiles) ∧
     (f.step = 7 → ∃ t, exec (.frogScrubStepDone p) s = .next t ∧ (t.part p).frog = none ∧
       (f.whole = true → f.destroy = false → (t.part p).state = .active) ∧ (f.destroy = true → f.whole = true → (t.part p).state = .releasing))) ∧
  (∀ (p : Fin 64) (s : State), s.Inv → (s.part p).state = .releasing → s.partCmd = some { op := 2, part := p, mgmt := false } →
     ∃ t, exec (.pageScrubDone p) s = .next t ∧ (t.part p).state = .free ∧ t.partCmd = none ∧
       bits (t.reg (.glob .partCmdStatus)) 31 16 = 0 ∧ bits (t.reg (.glob .partCmdStatus)) 0 0 = 0 ∧
       (∀ e ∈ (s.part p).map, ∀ b ∈ e.pages, ∀ a : Nat, b ≤ a → a < b + pageSize e.page → a < runtimeBase → t.byte a = 0) ∧
       (∀ q : Nat, q ≠ p.val → (s.part q).stranded = false → (∀ h ∈ (s.part q).harts, h.state ≠ .waitingForCore) → t.part q = s.part q))


/-! ### Ops -/

/-- Rows of `opRows`. -/
def opRows1 (o : OpRef) : List (Instr × Nat × (Job → OpRec → Eng Unit)) :=
  [(.loadCt o, 0x01, workLoadCt), (.storeCt o, 0x02, workStoreCt), (.copy o, 0x03, copyWork), (.transposeCopy o, 0x04, copyWork),
   (.fill o, 0x05, fillWork), (.add o, 0x10, workAdd), (.sub o, 0x11, workSub), (.neg o, 0x12, workNeg), (.addPlain o, 0x13, workAddPlain),
   (.mulPlain o, 0x14, workMulPlain), (.mulConst o, 0x15, workMulConst), (.mul o, 0x16, workMul), (.relin o, 0x17, workRelin o),
   (.rescale o, 0x18, workRescale), (.modDrop o, 0x19, workModDrop), (.rotate o, 0x20, workRotate o), (.hoistRotate o, 0x21, hoistWork),
   (.conjugate o, 0x22, workConjugate o), (.keyswitch o, 0x23, workKeyswitch o)]

/-- Rows of `opRows`. -/
def opRows2 (o : OpRef) : List (Instr × Nat × (Job → OpRec → Eng Unit)) :=
  [(.nttFwd o, 0x28, workNttFwd), (.nttInv o, 0x29, workNttInv), (.bconv o, 0x2A, bconvWork), (.linearTransform o, 0x30, workLinearTransform),
   (.polyEval o, 0x31, workPolyEval), (.refresh o, 0x32, refreshWork), (.encodeOp o, 0x33, encodeWork o),
   (.intMatmul o, 0x40, workIntMatmul o), (.intConv o, 0x41, intWork o), (.fence o, 0x70, workFence), (.signal o, 0x71, signalWork)]

/-- The rows of the op table whose op runs on its tiles in one command (log entry 12): command, op code (R280) and what its
engines do. CUSTOM, whose streams are commands of their own, stands in `OpsRunWhenAdmitted` on its own. -/
def opRows (o : OpRef) : List (Instr × Nat × (Job → OpRec → Eng Unit)) := opRows1 o ++ opRows2 o

/-- Residue `e` of limb `i` of component `k` of ciphertext data; an absent component counts as zero. -/
def residue (d : CtData) (k i e : Nat) : Nat := el ((d.getD k []).getD i []) e

/-- The checks of R61 from step 2 on for an op of one or two ciphertext operands, in their order, each with its status: the headers well-formed, placed, apart, not
poisoned; the operands suiting their chain and each other, under one key set and tag, their scales agreeing; the level, then the budget; the destination placed. For a
BFV product, whose special primes R284 asks for, one more. -/
def readinessChecks (s : State) (p : Nat) (e : Entry) (a b d : Header) : List (Bool × Status) :=
  let two := (usesOf (oeOpcode e) false).b
  let c := s.ctxOf p (hChain a)
  let x := contentOf a
  let y := if two then some (contentOf b) else none
  let st := stepOf e
  let ops := [(⟨oeA e, a, compCount (hComps a), hLog2N a⟩ : Place)] ++ (if two then [⟨oeB e, b, compCount (hComps b), hLog2N b⟩] else []) ++
    [⟨oeD e, d, compCount (resultComps (oeOpcode e) a (if two then b else 0) 0), hLog2N a⟩]
  [(sourceOk a && (!two || sourceOk b) && destOk d, .descMalformed),
   (ops.all Place.aligned, .align),
   (ops.all (fun v => v.apart && ops.all v.clear), .overlap),
   (!hPoisoned a && !(two && hPoisoned b), .operandPoisoned),
   (s.sourceFits p a && (!two || s.sourceFits p b) && st.fits c x y, .paramMismatch),
   (keysAgree x y, .keyMismatch),
   (st.scalesAgree c x y && decide (0 ≤ st.scale c x y) && decide (st.scale c x y < 2 ^ 32), .scaleMismatch),
   (decide (1 ≤ st.level x y), .levelExhausted),
   (!exhausted a c.guard && !(two && exhausted b c.guard), .budgetExhausted),
   (destPlaced d (compCount (st.comps x y)) (st.level x y).toNat, .bounds),
   (decide (st ≠ .mul) || decide (x.scheme ≠ 2) || c.bfvRoom (st.level x y).toNat, .paramMismatch)]

/-- Readiness (R61, R267, R384): an op whose readiness conditions hold and whose checks all pass becomes
ready on the tiles it is given, with its operands' headers, its results, the guard and the tolerance in force and the time latched; an op that
has been passed over for 2 ms blocks its die; that a replay is not excepted is the model's choice (log entry 117), and so are how destinations are checked and which of two faults of a RESCALE comes first (log entries 42 and 43). For ADD, SUB, NEG, MUL, RESCALE, NTT_FWD and NTT_INV in a job without auto-refresh: a handle index beyond COUNT ends the op with
BOUNDS, and otherwise the first failing check of R61 ends it with that check's status; ORIGIN is the op's own index, and no header and no other byte of memory changes. -/
def Obligations.OpBecomesReady : Prop :=
  ∀ (o : OpRef) (j : Job) (r : OpRec) (s : State), s.op? o = some (j, r) →
    (∀ (ts : List (Fin 576)) (x : Ready) (u : State),
      let tiles := ts.map (·.val)
      r.displaced = false → s.mayReady j r tiles = true → readyOf j { r with tiles := tiles } s = .ok x u → x.refresh = none → x.plan.any (fun pl => decide (tiles.length ≠ pl.ranks)) = false → s.diesFit j.part (oeOpcode r.entry) x.plan x.dirs tiles = true →
      s.reservoirTiles j.part (oeOpcode r.entry) x.dirs tiles = true → (x.sumsFp32 && tiles.any u.ruOut) = false →
      u.mtHolds j.part x.slots = false → u.footsMeet j r.idx x = false → u.handlesInUse j x = false →
      exec (.opReady o ts) s = .next (u.updOp o (fun q =>
        q.latch x tiles (bits (s.reg (pr j.part .ctNoiseGuard)) 15 0) (s.reg (pr j.part .ctScaleTol)).toNat s.clock.toNat))) ∧
    (∀ ts : List (Fin 576),
      let ends := fun (st : Status) => ∃ t k q, exec (.opReady o ts) s = .next t ∧ t.mem = s.mem ∧ t.host = s.host ∧
        t.op? o = some (k, q) ∧ q.phase = .ended ∧ q.status = st ∧ q.origin = r.idx
      let u := usesOf (oeOpcode r.entry) false
      let handles := [oeA r.entry] ++ (if u.b then [oeB r.entry] else []) ++ [oeD r.entry]
      r.displaced = false → r.started = false → r.inserted = none → r.plan = none → r.before = [] → r.ending = none → (j.ops.map (·.idx)).Nodup →
      s.mayReady j r (ts.map (·.val)) = true → seAutoRefresh j.entry = false → oeOpcode r.entry ∈ [0x10, 0x11, 0x12, 0x16, 0x18, 0x28, 0x29] →
      ((∃ h ∈ handles, s.handleCount j.part ≤ h) → ends .bounds) ∧
      (∀ a b d : Header, (∀ h ∈ handles, h < s.handleCount j.part) →
        readHeader j.part (oeA r.entry) s = .ok a s → (u.b = true → readHeader j.part (oeB r.entry) s = .ok b s) → readHeader j.part (oeD r.entry) s = .ok d s →
        ∀ (k : Nat) (st : Status), (readinessChecks s j.part r.entry a b d)[k]? = some (false, st) →
          (∀ i < k, ∀ c, (readinessChecks s j.part r.entry a b d)[i]? = some c → c.1 = true) → ends st)) ∧
    (r.phase = .ready → r.displaced = false →
      exec (.opPassoverBlock o) s = .next (s.updOp o (fun q => { q with blocking := true })))

/-- R384, R393: an admitted op of every row runs its row's work on its tiles and waits for its bind-off, unless an enabled hook
matches it: then the hook fires and the op does not start. An op that is not admitted, or is of another row, changes nothing (log entry 79). That an op other than CUSTOM runs whole in its one command is the model's choice (log entry 12). R204, R295: an admitted CUSTOM op
loads its pattern on its tiles and its streams start; a tile whose streams have ended and
whose feeders, posts and exchanges are done completes its part, and the op has run when every tile of it has. -/
def Obligations.OpsRunWhenAdmitted : Prop :=
  (∀ (o : OpRef) (c : Instr) (opcode : Nat) (work : Job → OpRec → Eng Unit) (j : Job) (r : OpRec) (s : State),
     (c, opcode, work) ∈ opRows o → s.op? o = some (j, r) →
     ((oeOpcode r.entry = opcode ∧ s.admits j r = true) →
       (∀ i, s.hookOf j r = some i → exec c s = .next (s.fireHook j r i)) ∧
       (∀ u, s.hookOf j r = none → work j r (s.startRun o j r) = .ok () u → exec c s = .next ((u.noteWrites j r).updOp o (fun q => { q with phase := .ran })))) ∧
     (¬ (oeOpcode r.entry = opcode ∧ s.admits j r = true) → exec c s = .next s)) ∧
  ((∀ (o : OpRef) (j : Job) (r : OpRec) (pl : CustomPlan) (s u : State),
     s.op? o = some (j, r) → r.plan = some pl → oeOpcode r.entry = 0x7F → s.admits j r = true → s.hookOf j r = none →
     pl.combines.forM (fillCombine j.part r.die) ((((s.startOp o j r).updOp o (fun q => { q with saved := s.saveLimbs j.part r, before := s.saveBefore j.part r })).badReservoirs o j r).loadPattern o r pl) = .ok () u →
     exec (.custom o) s = .next u) ∧
   (∀ (t : Fin 576) (j i : Nat) (k : Job) (r : OpRec) (s : State),
     (s.tile t).op = some (j, i) → s.op? ⟨j, i⟩ = some (k, r) → r.phase = .running → r.halted = false → (s.tile t).partOver = true →
     exec (.tilePartComplete t) s = .next (let u := s.updTile t (fun x => { x with partDone := true })
       if ∀ n ∈ r.tiles, (u.tile n).partDone = true then u.updOp ⟨j, i⟩ (fun q => { q with phase := .ran }) else u)))

/-- R280, R283, R284: what ADD, SUB, NEG, MUL_CONST and MUL write, residue by residue. On CKKS and BGV the canonical residue of
a + b, a − b, −a, a·c, and of the three components a0·b0, a0·b1 + a1·b0, a1·b1, on the ring and the limbs of the operand (the lower level of the two).
On BFV, MUL takes the centred integers A and B that the operands' coefficients stand for to the special primes, forms the same product there, takes the centred integers T
that its coefficients stand for, and writes on the ciphertext limbs the integers R nearest to t·T/Q. -/
def Obligations.ArithmeticOpsCompute : Prop :=
  ∀ (j : Job) (r : OpRec) (a b : CtData) (s : State),
    let x := runAt s j r (hChain r.hdrA)
    let l := hLevel r.hdrA
    let l2 := min (hLevel r.hdrA) (hLevel r.hdrB)
    let entry := fun i => s.prime j.part (hChain r.hdrA) i
    let q := fun i => (entry i).q
    let shaped := fun (d : CtData) (comps l : Nat) => d.length = comps ∧ ∀ k < comps, (d.getD k []).length = l ∧ ∀ i < l, ((d.getD k []).getD i []).length = 2 ^ x.n
    let writes := fun (work : Job → OpRec → Eng Unit) (comps l : Nat) (f : Nat → Nat → Nat → Nat) =>
      ∃ d, work j r s = writeCt j.part r.die r.dest d s ∧ shaped d comps l ∧ ∀ k < comps, ∀ i < l, ∀ e < 2 ^ x.n, residue d k i e = f k i e
    let ca := compCount (hComps r.hdrA)
    let cb := compCount (hComps r.hdrB)
    hN r.hdrA = 2 ^ x.n →
    (readCt x (oeA r.entry) r.hdrA ca l s = .ok a s →
      writes workNeg ca l (fun k i e => (q i - residue a k i e) % q i) ∧
      ((∀ i < l, 0 < q i) → writes workMulConst ca l (fun k i e => (((residue a k i e : Int) * signed 64 (oeP0 r.entry)) % (q i : Int)).toNat))) ∧
    (hN r.hdrB = 2 ^ x.n → readCt x (oeA r.entry) r.hdrA ca l2 s = .ok a s → readCt x (oeB r.entry) r.hdrB cb l2 s = .ok b s →
      writes workAdd (max ca cb) l2 (fun k i e => (residue a k i e + residue b k i e) % q i) ∧
      writes workSub (max ca cb) l2 (fun k i e => (residue a k i e + q i - residue b k i e) % q i) ∧
      ((∀ i < l2, 0 < q i) → hScheme r.hdrA ≠ 2 → ca = 2 → cb = 2 → writes workMul 3 l2 (fun k i e =>
        if k = 0 then residue a 0 i e * residue b 0 i e % q i
        else if k = 1 then (residue a 0 i e * residue b 1 i e + residue a 1 i e * residue b 0 i e) % q i
        else residue a 1 i e * residue b 1 i e % q i)) ∧
      (hScheme r.hdrA = 2 → ca = 2 → cb = 2 → ∀ (d : CtData) (u : State), mulBfv x l2 a b s = .ok d u →
        let low := List.range l2
        let all := low ++ (List.range x.h.k).map (· + 64)
        let big := (low.map q).prod
        let back := fun (i : Nat) (v : List Nat) => nttInverse (q i) (entry i).omega (entry i).nInv x.n v
        let form := fun (i : Nat) (f : Nat → Int) => nttForward (q i) (entry i).omega x.n ((List.range (2 ^ x.n)).map (fun e => (f e % (q i : Int)).toNat))
        workMul j r s = writeCt j.part r.die r.dest d u ∧ shaped d 3 l2 ∧
        ((∀ i ∈ all, (q i).Prime ∧ q i ≠ 2) → (all.map q).Nodup → ∀ A B T R : Nat → Nat → Int,
          (∀ k < 2, ∀ e < 2 ^ x.n, 2 * |A k e| < (big : Int) ∧ ∀ i < l2, A k e % (q i : Int) = (el (back i ((a.getD k []).getD i [])) e : Int)) →
          (∀ k < 2, ∀ e < 2 ^ x.n, 2 * |B k e| < (big : Int) ∧ ∀ i < l2, B k e % (q i : Int) = (el (back i ((b.getD k []).getD i [])) e : Int)) →
          let ea := fun (k i e : Nat) => if i < l2 then residue a k i e else el (form i (A k)) e
          let eb := fun (k i e : Nat) => if i < l2 then residue b k i e else el (form i (B k)) e
          let product := fun (k i e : Nat) =>
            if k = 0 then ea 0 i e * eb 0 i e % q i else if k = 1 then (ea 0 i e * eb 1 i e + ea 1 i e * eb 0 i e) % q i else ea 1 i e * eb 1 i e % q i
          (∀ k < 3, ∀ e < 2 ^ x.n, 2 * |T k e| < ((all.map q).prod : Int) ∧
            ∀ i ∈ all, T k e % (q i : Int) = (el (back i ((List.range (2 ^ x.n)).map (product k i))) e : Int)) →
          (∀ k < 3, ∀ e < 2 ^ x.n, |2 * (x.h.t : Int) * T k e - 2 * (big : Int) * R k e| < (big : Int)) →
          ∀ k < 3, ∀ i < l2, (d.getD k []).getD i [] = form i (R k))))

/-- R30, R40, R59: an op that has run, that nothing holds, on dies that work, binds off: the headers of its results are written, its tiles are freed, its record is bound with
its end time, and no host memory changes. Where the job asks for no auto-refresh, memory changes by those headers alone. R361: so it does when no earlier execution
is to be compared, or one agrees in every rank; one that disagrees does not bind off, is recorded and runs again, and after the fifth execution it is held, with SERVICE set. What is compared are digests
of what each rank's tile has stored (their key and form are the model's choice, log entry 56). -/
def Obligations.OpBindsOff : Prop :=
  ∀ (o : OpRef) (j : Job) (r : OpRec) (s u : State),
    s.op? o = some (j, r) → s.bindable j r = true →
    (r.past ≠ [] → s.agrees o r = false →
      (4 ≤ r.replays → ∃ t k q, exec (.opBindOff o) s = .next t ∧ t.service = true ∧ t.mem = s.mem ∧ t.op? o = some (k, q) ∧ q.held = true ∧ q.phase = .ran ∧
        Output.alarm (tileUnit (s.differsAt o r)) 0x0C (BitVec.ofNat 32 (r.replays + 1)) ∈ t.out) ∧
      (r.replays < 4 → ∃ t k q, exec (.opBindOff o) s = .next t ∧ t.op? o = some (k, q) ∧ q.replays = r.replays + 1 ∧ q.past.length = r.past.length + (if s.partDigests o r = [] then 0 else 1) ∧
        q.displaced = true ∧ q.phase = .ready)) ∧
    (r.past = [] ∨ s.agrees o r = true → (j.ops.map (·.idx)).Nodup → writeHeaders j.part r.headers s = .ok () u →
    ∃ t, exec (.opBindOff o) s = .next t ∧ t.tiles = (s.freeTiles r.tiles).tiles ∧ t.host = s.host ∧ t.routes = s.routes ∧ t.power = s.power ∧
      (seAutoRefresh j.entry = false → t.mem = u.mem) ∧
      ∃ k q, t.op? o = some (k, q) ∧ q.phase = .bound ∧ q.tEnd = s.clock ∧ q.status = r.status)

/-! ### Modular arithmetic and transforms -/

/-- R63, R64, R66: the corrected sum, difference and negation are the canonical residues; for a prime of 20 to 35 bits, the Barrett
reduction is exact below 2^(2b+2), its quotient estimate is never above the true quotient and never more than 2 below it, `MU` fits in b + 3
bits; and the two passes reduce every value of an 80-bit accumulator. -/
def Obligations.ReductionsAreExact : Prop :=
  (∀ q a b : Nat, a < q → b < q → addMod q a b = (a + b) % q ∧ subMod q a b = (a + q - b) % q ∧ negMod q a = (q - a) % q) ∧
  (∀ q : Nat, q.Prime → 20 ≤ bitLength q → bitLength q ≤ 35 →
    muOf q < 2 ^ (bitLength q + 3) ∧
    (∀ x < 2 ^ (2 * bitLength q + 2),
      let estimate := x / 2 ^ (bitLength q - 2) * muOf q / 2 ^ (bitLength q + 4)
      estimate ≤ x / q ∧ x / q ≤ estimate + 2 ∧ barrett q (muOf q) x = x % q) ∧
    (∀ a < 2 ^ 80, reduceAcc q (muOf q) (2 ^ 40 % q) a = a % q))

/-- R80: the two transforms are exact inverses of each other. The constants are those of a table that R75 admits: ψ^N = −1 and
N_INV · N = 1 modulo the prime q. -/
def Obligations.TransformsAreInverse : Prop :=
  ∀ (q psi nInv n : Nat) (a : List Nat), q.Prime → psi ^ 2 ^ n % q = q - 1 → nInv * 2 ^ n % q = 1 → a.length = 2 ^ n → (∀ v ∈ a, v < q) →
    nttInverse q psi nInv n (nttForward q psi n a) = a ∧ nttForward q psi n (nttInverse q psi nInv n a) = a

/-- The product modulo X^N + 1 and the prime q, coefficient by coefficient. -/
def negacyclic (q n : Nat) (a b : List Nat) : List Nat :=
  (List.range (2 ^ n)).map (fun m => (((List.range (2 ^ n)).map (fun i =>
    if i ≤ m then (el a i * el b (m - i) : Int) else -(el a i * el b (2 ^ n + m - i) : Int))).sum % (q : Int)).toNat)

/-- R80, R90, R91: under the orders of R79 the product modulo X^N + 1 is the element-wise product of the evaluation forms, and the
automorphism σ_g of the evaluation form is the evaluation form of the automorphism, for every odd g. -/
def Obligations.EvaluationFormIsAHomomorphism : Prop :=
  ∀ (q psi n : Nat) (a b : List Nat), q.Prime → psi ^ 2 ^ n % q = q - 1 → 2 ≤ n → a.length = 2 ^ n → b.length = 2 ^ n →
    (∀ v ∈ a, v < q) → (∀ v ∈ b, v < q) →
    nttForward q psi n (negacyclic q n a b) = mulLimb q (nttForward q psi n a) (nttForward q psi n b) ∧
    ∀ g, g % 2 = 1 → g < 2 * 2 ^ n → autoEval n g (nttForward q psi n a) = nttForward q psi n (autoCoef q n g a)

/-! ### Streams -/

/-- What the FEED stream does with a transfer (R195, R202): its windows are checked against their descriptors (R249 step 4), and it joins the queue of the feeder that `MODE`
names, with the row counters as they stand; a queue of 16 is full. -/
def placeTransfer (t op : Nat) (w : StreamWord) : Seat → Eng Unit := fun x => do
  let s ← engGet
  let f := w.mode.toNat % 4
  if 16 ≤ ((s.tile t).feeder f).length then engStall (.feeder [f])
  let rows := (s.stream t 0).rowList
  if op = 0x20 ∨ op = 0x22 then issueBounds x rows (feedRec (← descAt x w.imm.toNat)) false
  if op = 0x21 then issueBounds x rows (feedRec (← descAt x w.imm.toNat)) true
  if op = 0x22 then issueBounds x rows (feedRec (← descAt x (w.imm.toNat + 1))) true
  engPut (fun s => s.updTile x.t (fun v => v.setFeeder f (v.feeder f ++ [.transfer (BitVec.ofNat 8 op) w rows])))

/-- What SPOSTR does (R194): a post to the tile of a rank of the op's tile list. -/
def postToRank (w : StreamWord) : Seat → Eng Unit := fun x => do
  let s ← engGet
  match s.op? x.o with
  | some (_, r) => match r.tiles[w.imm.toNat / 1024]? with
    | some target => putPost x target w
    | none => engFault .descMalformed
  | none => pure ()

/-- Rows of `engineRows`. -/
def engineRows1 (t : Fin 576) (k : StreamCode) (w : StreamWord) : List (Instr × Nat × Nat × (Seat → Eng Unit)) :=
  [(.spost t k w, streamCode k, 0x05, fun x => putPost x x.t w), (.spostr t k w, streamCode k, 0x06, postToRank w),
   (.fload t w, 0, 0x20, placeTransfer t 0x20 w), (.fstore t w, 0, 0x21, placeTransfer t 0x21 w), (.fmove t w, 0, 0x22, placeTransfer t 0x22 w),
   (.spfill t w, 0, 0x23, placeTransfer t 0x23 w), (.spcopy t w, 0, 0x24, placeTransfer t 0x24 w),
   (.nttf t w, 1, 0x30, nttWork w true), (.ntti t w, 1, 0x31, nttWork w false), (.ffte t w, 1, 0x32, ffteWork w)]

/-- Rows of `engineRows`. -/
def engineRows2 (t : Fin 576) (w : StreamWord) : List (Instr × Nat × Nat × (Seat → Eng Unit)) :=
  [(.ccopy t w, 3, 0x40, ccopyWork w), (.caute t w, 3, 0x41, cautWork w true), (.cautc t w, 3, 0x42, cautWork w false),
   (.cgath t w, 3, 0x43, cgathWork w), (.crgath t w, 3, 0x44, crgathWork w), (.ctrans t w, 3, 0x45, ctransWork w), (.cxchg t w, 3, 0x46, cxchgWork w),
   (.rmode t w, 4, 0x50, rmodeWork w), (.rconst t w, 4, 0x51, rconstWork w), (.rmac t w, 4, 0x52, rmacWork w),
   (.pkey t w, 5, 0x60, pkeyWork), (.pmac t w, 5, 0x61, pmacWork w), (.setwin t w, 2, 0x70, setwinWork w), (.setvl t w, 2, 0x71, setvlWork w)]

/-- Rows of `engineRows`. -/
def engineRows3 (t : Fin 576) (w : StreamWord) : List (Instr × Nat × Nat × (Seat → Eng Unit)) :=
  [(.vaddm t w, 2, 0x80, vecWork 0x80 w), (.vsubm t w, 2, 0x81, vecWork 0x81 w), (.vnegm t w, 2, 0x82, vecWork 0x82 w), (.vmulm t w, 2, 0x83, vecWork 0x83 w),
   (.vmaddm t w, 2, 0x84, vecWork 0x84 w), (.vlift t w, 2, 0x85, vecWork 0x85 w), (.vrescale t w, 2, 0x86, vecWork 0x86 w), (.vaddi t w, 2, 0x88, vecWork 0x88 w),
   (.vsubi t w, 2, 0x89, vecWork 0x89 w), (.vmuli t w, 2, 0x8A, vecWork 0x8A w), (.vmaddi t w, 2, 0x8B, vecWork 0x8B w), (.vmaxi t w, 2, 0x8C, vecWork 0x8C w),
   (.vmini t w, 2, 0x8D, vecWork 0x8D w), (.vrelu t w, 2, 0x8E, vecWork 0x8E w), (.vclamp t w, 2, 0x8F, vecWork 0x8F w), (.vlut8 t w, 2, 0x90, vecWork 0x90 w)]

/-- Rows of `engineRows`. -/
def engineRows4 (t : Fin 576) (w : StreamWord) : List (Instr × Nat × Nat × (Seat → Eng Unit)) :=
  [(.vshrr t w, 2, 0x91, vecWork 0x91 w), (.vreq t w, 2, 0x92, vecWork 0x92 w), (.vcvtif t w, 2, 0x94, vecWork 0x94 w), (.vcvtfi t w, 2, 0x95, vecWork 0x95 w),
   (.vaddf t w, 2, 0x98, vecWork 0x98 w), (.vsubf t w, 2, 0x99, vecWork 0x99 w), (.vmulf t w, 2, 0x9A, vecWork 0x9A w), (.vdivf t w, 2, 0x9B, vecWork 0x9B w),
   (.vsqrtf t w, 2, 0x9C, vecWork 0x9C w), (.vmaxf t w, 2, 0x9D, vecWork 0x9D w), (.vminf t w, 2, 0x9E, vecWork 0x9E w), (.vcopy t w, 2, 0xA0, vecWork 0xA0 w),
   (.vreduce t w, 2, 0xA1, vreduceWork w)]

/-- The rows of the stream opcodes (R185, R195, R197 to R201) that do work of their own before the stream moves on: command,
stream code, opcode, work. -/
def engineRows (t : Fin 576) (k : StreamCode) (w : StreamWord) : List (Instr × Nat × Nat × (Seat → Eng Unit)) := engineRows1 t k w ++ (engineRows2 t w ++ (engineRows3 t w ++ engineRows4 t w))

/-- R184: a stream that stands at an instruction and may issue it does the instruction's work and moves to the next one; work that
stalls or fails leaves the stream where it is, stalled, or ends the op. A word that is not at the program counter of a
running stream of an op's pattern issues nothing. After an instruction of an op that a failure has stopped, the op ends as soon as all that it has begun has ended (R207, R209). R185 to R187: the control instructions change their own stream alone: NOP moves on, END stops it, LOOP enters its body or skips it at a
count of 0, CMPSET binds a comparator, and WHEN passes over the governed instructions unless its condition holds. -/
def Obligations.InstructionsIssue : Prop :=
  (∀ (t : Fin 576) (k : StreamCode) (w : StreamWord) (c : Instr) (code opcode : Nat) (work : Seat → Eng Unit) (s : State),
     (c, code, opcode, work) ∈ engineRows t k w →
     (∀ x, s.canIssue t code opcode w = true → s.seat? t code = some x →
       (∀ u, work x s = .ok () u → exec c s = .next ((u.updStream t code Stream.next).settleTile t)) ∧
       (∀ h u, work x s = .error h u → exec c s = .next ((u.halted x h).settleTile t))) ∧
     (s.canIssue t code opcode w = false ∨ s.seat? t code = none → exec c s = .next s)) ∧
  (∀ (t : Fin 576) (k : StreamCode) (w : StreamWord) (x : Seat) (s : State), s.seat? t (streamCode k) = some x →
     let may := fun opcode => s.canIssue t (streamCode k) opcode w = true
     let moves := fun (c : Instr) (f : Stream → Stream) => exec c s = .next ((s.updStream t (streamCode k) f).settleTile t)
     (may 0x00 → moves (.nop t k w) Stream.next) ∧
     (may 0x0F → moves (.endInstr t k w) (fun v => { v with running := false })) ∧
     (may 0x01 → moves (.loop t k w) (fun v =>
       if w.count = 0 then v.goTo (v.pc + 1 + w.imm.toNat) else v.enterLoop (w.mode.toNat % 8) w.count.toNat w.imm.toNat)) ∧
     (may 0x02 → moves (.cmpset t k w) (fun v => { v.next with
       comps := Tab.set (fun _ => none) v.comps (w.mode.toNat % 4) (some { counter := w.imm.toNat % 8, rel := w.imm.toNat / 16 % 8, value := w.count.toNat }) })) ∧
     (may 0x03 → moves (.whenInstr t k w) (fun v =>
       if v.compare (w.mode.toNat % 4) ≠ w.mode.getLsbD 2 then v.next else v.goTo (v.pc + 1 + w.count.toNat))))

/-- R186: a loop outside all loops, of n iterations over a body of m instructions: before the i-th instruction that the stream issues in
it the program counter stands at the body's instruction i mod m and the row counter at i / m; after the last one the stream is past the body, in no
loop, and the row counter keeps its last value. -/
def Obligations.LoopRepeatsItsBody : Prop :=
  ∀ (v : Stream) (n m : Nat), 0 < n → 0 < m → v.loops = [] → Tab.wf (fun _ => 0) v.rows = true →
    let at_ := fun (i : Nat) => Nat.iterate Stream.next i (v.enterLoop 0 n m)
    (∀ i < n * m, (at_ i).pc = v.pc + 1 + i % m ∧ (at_ i).row 0 = i / m ∧ (at_ i).running = v.running) ∧
    (at_ (n * m)).pc = v.pc + 1 + m ∧ (at_ (n * m)).loops = [] ∧ (at_ (n * m)).row 0 = n - 1

/-- R193, R194, R97: a wait that its counter satisfies subtracts its amount and the stream moves on, and one that it does not satisfy leaves
the stream waiting until it does; a post that is due adds its amount, and the completion of an exchange adds 1 to the READY counter it names; a sum above 255 ends the op with DESC_MALFORMED.
R191, R202, R208: the transfer at the head of a feeder's queue is done and leaves the queue, or waits while the tile's tracker has no entry for it (R27: how its 120 entries are shared is the model's choice, log entry 83); a due commit moves the producer end on by a slot
and a due release the consumer end; a stalled engine whose wait is over may issue again; an op of which every stream waits with
nothing in flight ends with DESC_MALFORMED. None of these effects comes about while a halt holds the op (R394). -/
def Obligations.PostsAndSlotsComplete : Prop :=
  ((∀ (t : Fin 576) (k : StreamCode) (w : StreamWord) (x : Seat) (s : State),
     s.canIssue t (streamCode k) 0x04 w = true → s.seat? t (streamCode k) = some x →
     let pair := w.imm.toNat % 32
     let free := w.mode.getLsbD 0
     let n := w.count.toNat
     exec (.swait t k w) s = .next (if n ≤ s.semCount t pair free then
         (s.setSem t pair free (s.semCount t pair free - n)).updStream t (streamCode k) Stream.next
       else s.updStream t (streamCode k) (fun v => { v with stall := .sem, wait := some (pair, free, n) }))) ∧
   (∀ (t : Fin 576) (k : StreamCode) (x : Seat) (pair n : Nat) (free : Bool) (s : State),
     (s.stream t (streamCode k)).wait = some (pair, free, n) → s.seat? t (streamCode k) = some x →
     exec (.swaitSatisfied t k) s = .next (if n ≤ s.semCount t pair free then
         (s.setSem t pair free (s.semCount t pair free - n)).updStream t (streamCode k) Stream.next else s)) ∧
   (∀ (t : Fin 576) (a : Post) (j i : Nat) (s : State),
     s.effectsRun t = true → (s.tile t).posts.find? (s.tile t).postDue = some a → (s.tile t).op = some (j, i) →
     let u := s.updTile t (fun v =>
       let v := { v with posts := v.posts.erase a }
       if a.markers then [0, 1, 2, 3].foldl (fun v f => v.setFeeder f ((v.feeder f).drop 1)) v else v)
     exec (.spostTakesEffect t) s = .next (if s.semCount a.tile a.pair a.free + a.amount ≤ 255 then
       (u.setSem a.tile a.pair a.free (s.semCount a.tile a.pair a.free + a.amount)).settleTile t else u.endSoon ⟨j, i⟩ .descMalformed none)) ∧
   (∀ (t : Fin 576) (e : Exchange) (j i : Nat) (s : State),
     s.effectsRun t = true → (s.tile t).exchanges.find? (fun e => decide (e.ranks ≠ 0) && decide (e.ranks ≤ e.got)) = some e → (s.tile t).op = some (j, i) →
     let u := s.updTile t (fun v => { v with exchanges := v.exchanges.erase e })
     exec (.exchangeComplete t) s = .next (if s.semCount t e.sem false < 255 then (u.setSem t e.sem false (s.semCount t e.sem false + 1)).settleTile t
       else u.endSoon ⟨j, i⟩ .descMalformed none))) ∧
  ((∀ (t : Fin 576) (f : Fin 4) (op : BitVec 8) (w : StreamWord) (rows : List Nat) (rest : List FeedCmd) (x : Seat) (s u : State),
     (s.tile t).feeder f = .transfer op w rows :: rest → (s.feederWaits t f = false ∨ f.val ∈ (s.tile t).sent) → s.feedSeat? t f = some x → feedWork x op.toNat w rows s = .ok () u →
     exec (.feederTransferDone t f) s = .next ((u.updTile t (fun v => { v.setFeeder f rest with sent := v.sent.filter (fun i => i ≠ f.val) })).settleTile t)) ∧
   (∀ (t : Fin 576) (f : Fin 4) (s : State), s.feederWaits t f = true → f.val ∉ (s.tile t).sent → exec (.feederTransferDone t f) s = .next s) ∧
   (∀ (t : Fin 576) (q : Fin 48) (s : State),
     let v := s.queue t q
     let n := (s.qcfgAct t q).slots
     (s.effectsRun t = true → exec (.queueSlotCommit t q) s = .next (if v.commitDue = 0 then s else
       (s.setTile t ((s.tile t).setQueue q { v with commitDue := v.commitDue - 1, committed := v.committed + 1, prodSlot := (v.prodSlot + 1) % n })).settleTile t)) ∧
     (s.effectsRun t = true → 0 < v.releaseDue → 0 < v.committed → exec (.queueSlotRelease t q) s = .next ((s.setTile t ((s.tile t).setQueue q
       { v with releaseDue := v.releaseDue - 1, committed := v.committed - 1, consSlot := (v.consSlot + 1) % n })).settleTile t)) ∧
     (s.effectsRun t = false → exec (.queueSlotCommit t q) s = .next s ∧ exec (.queueSlotRelease t q) s = .next s)) ∧
   (∀ (t : Fin 576) (k : StreamCode) (s : State), s.stallOver t (streamCode k) = true →
     exec (.engineStallResume t k) s = .next (s.updStream t (streamCode k) (fun v => { v with stall := .none }))) ∧
   (∀ (o : OpRef) (j : Job) (r : OpRec) (s : State), s.op? o = some (j, r) → r.phase = .running → r.halted = false → s.power.ref ≠ .stopped → s.power.state = .m0 → s.deadlocked r = true →
     exec (.deadlockTimeout o) s = .next (s.endNow o .descMalformed none)))

/-- R63, R64, R169: the elements of the modular vector operations are the canonical residues, and those of the integer operations are the
exact values clamped to the destination type's range, with SATURATED set on the op when one was clamped; VCOPY copies. R178: the two reduction paths give identical bits for every residue and integer
function and for FP32 MAX and MIN; R174: residue and integer results do not depend on any order. -/
def Obligations.VectorElementsAreExact : Prop :=
  (∀ (x : Seat) (g : VecArgs) (as bs cs : List Nat) (s : State), as.length = g.n → bs.length = g.n →
     (∀ e : PrimeEntry, vecPrime x g.dst (g.srcA.toList ++ g.srcB.toList) s = .ok (some e) s →
       (∀ v ∈ as, v < e.q) → (∀ v ∈ bs, v < e.q) → (∀ v ∈ cs, v < e.q) →
       ∀ op ∈ [0x80, 0x81, 0x82, 0x83, 0x84], ∀ tA ≤ 1, ∀ tB ≤ 1, ∀ tC, ∀ tD ≤ 1, ∃ ys, vecElement x op g tA tB tC tD as bs cs s = .ok ys s ∧ ys.length = g.n ∧
         ∀ i < g.n, el ys i = (match op with
           | 0x80 => (el as i + el bs i) % e.q
           | 0x81 => (el as i + e.q - el bs i) % e.q
           | 0x82 => (e.q - el as i) % e.q
           | 0x83 => el as i * el bs i % e.q
           | _ => (el bs i * el as i + el cs i) % e.q)) ∧
     (∀ ty, 2 ≤ ty → ty ≤ 4 → ∀ op ∈ [0x88, 0x89, 0x8A, 0x8C, 0x8D, 0x8E],
       let b := typeBits ty
       let val := fun (l : List Nat) (i : Nat) => signed b (el l i)
       let exact : Nat → Int := fun i => (match op with
         | 0x88 => val as i + val bs i
         | 0x89 => val as i - val bs i
         | 0x8A => val as i * val bs i
         | 0x8C => max (val as i) (val bs i)
         | 0x8D => min (val as i) (val bs i)
         | _ => max (val as i) 0)
       let top : Int := (2 ^ (b - 1) : Nat)
       ∃ ys, vecElement x op g ty ty ty ty as bs cs s = .ok ys
           (if ∃ i < g.n, exact i < -top ∨ top ≤ exact i then s.updOp x.o (fun r => { r with saturated := true }) else s) ∧ ys.length = g.n ∧
         ∀ i < g.n, signed b (el ys i) = max (-top) (min (exact i) (top - 1))) ∧
     (∀ ty, vecElement x 0xA0 g ty ty ty ty as bs cs s = .ok as s)) ∧
  (∀ r : Reduction, (r.ty ≠ 5 ∨ 2 ≤ r.fn) → reduceResult r true = reduceResult r false ∧
     (∀ q : Reduction, q.fn = r.fn → q.ty = r.ty → q.q = r.q → q.cycles.flatten.Perm r.cycles.flatten → r.ty ≠ 5 → 0 < r.q → reduceResult q true = reduceResult r true))


/-! ### Faults, self-test, retirement -/

/-- R69, R355, R360: a residue-check mismatch never lets a wrong value leave the op: the execution is discarded, and the op is ready to run again from its inputs, on the same tiles the first time,
and is moved off them (they go to self-test) at the second mismatch there, or where one of them takes no op now. Where nothing was kept for it, no memory changes. The third mismatch of a tile within an
hour takes the tile out of use. That an op that its own command runs whole reports a mismatch after it has run and is run by its command again is the model's choice (log entry 12). -/
def Obligations.ResidueMismatchReplays : Prop :=
  ∀ (o : OpRef) (t : Fin 576) (j : Job) (r : OpRec) (s : State), s.Inv → s.op? o = some (j, r) → s.runsOn o t = true →
    (∃ u, exec (.residueMismatch o t false) s = .next u ∧ (r.saved = [] → u.mem = s.mem) ∧
      (2 ≤ ((s.tile t).mismatchAt.filter (fun a => decide ((s.clock.toNat : Int) - a < 3600 * 1200000000))).length → (u.tile t).outOfUse = true)) ∧
    (((s.tile t).mismatchAt.filter (fun a => decide ((s.clock.toNat : Int) - a < 3600 * 1200000000))).length < 2 →
      ∃ u k q, exec (.residueMismatch o t false) s = .next u ∧ u.op? o = some (k, q) ∧ q.replays = r.replays + 1 ∧
        q.phase = .ready ∧ q.tiles = r.tiles ∧ q.results.map (·.1) = r.results.map (·.1) ∧ q.status = .done ∧ q.ending = none ∧
        (q.displaced = true ↔ 1 ≤ r.mismatches ∨ r.tiles.all (s.usable j.part r.sumsFp32) = false) ∧
        (1 ≤ r.mismatches → ∀ n ∈ r.tiles, (s.tile n).outOfUse = false → (u.tile n).selfTest = true))

/-- What each suspicion reports and starts. R353: a stream's watchdog makes a log record (event 0x05, the stream code) that names the tile, which goes to self-test, and
the op is replayed. R354: a transaction timeout names its target; a tile is self-tested, a die is probed; the op is replayed once for all timeouts of one execution. R352: a retransmission is a trace record, and the failure after
eight a log record. R216: an uncorrectable line of a die cache is recorded, on a die that works, retiring or not, and its copy goes where the column cannot give it again, which is recorded for the column (R229). R215: corrected on-die errors are counted. R229: a stack line that fails reads as uncorrectable from then on. R228: the patrol scrub counts what it
corrects, and records what it can not, in M0 while PATROL is not 0. R355: a tile that passes its self-test returns to use, one that fails goes out of use, and its reduction unit out of service where that alone fails (R177); so it is in a cold start-up, by the model's choice (log entry 134).
That the tiles whose transactions of a discarded execution may still time out are kept, so that one execution is replayed once, and that the op waits for the dies its timeouts named, are the
model's choices (log entries 114 and 115). -/
def Obligations.SuspectsAreRecorded : Prop :=
  (∀ (o : OpRef) (t : Fin 576) (k : StreamCode) (j : Job) (r : OpRec) (s : State),
    s.op? o = some (j, r) → s.runsOn o t = true → s.hookState j.part = 0 → s.power.ref ≠ .stopped →
    (r.phase = .ran ∨ ((s.stream t (streamCode k)).running = true ∧ (s.stream t (streamCode k)).stall = .none)) →
    exec (.streamWatchdog o t k) s = .next ((((s.reportLog (tileUnit t) (tileUnit t) 0x05 (streamCode k) (some j.part)).startSelfTest t).replayR69 o).resetTested [t])) ∧
  (∀ (o : OpRef) (t : Fin 576) (u : UnitId) (cls : Fin 4) (j : Job) (r : OpRec) (s : State),
    s.op? o = some (j, r) → s.runsOn o t = true →
    let s1 := s.reportLog (UnitId.bits u) (tileUnit t) 0x06 cls (some j.part)
    let i := unitIndex (UnitId.bits u)
    let marked := fun (u : State) (ds : List Nat) => u.updOp o (fun q => { q with stale := r.tiles.filter (fun n => n ≠ t.val), awaits := q.awaits ++ ds })
    (r.stale.contains t.val = false →
      (unitKind (UnitId.bits u) = 1 → i < 576 → exec (.transactionTimeout o t u cls) s = .next (marked (((s1.startSelfTest i).replayR69 o).resetTested [i]) [])) ∧
      (unitKind (UnitId.bits u) = 2 → i < 18 → exec (.transactionTimeout o t u cls) s = .next (marked ((s1.updSite i (fun x => { x with probe := true })).replayR69 o) (if (s.site i).state = .retired then [] else [i]))) ∧
      (unitKind (UnitId.bits u) ≠ 1 → unitKind (UnitId.bits u) ≠ 2 → exec (.transactionTimeout o t u cls) s = .next (marked (s1.replayR69 o) []))) ∧
    (r.stale.contains t.val = true → ∃ v k q, exec (.transactionTimeout o t u cls) s = .next v ∧ v.op? o = some (k, q) ∧ q.replays = r.replays ∧ q.stale = r.stale.filter (fun n => n ≠ t.val) ∧ v.mem = s.mem)) ∧
  (∀ (a b : UnitId) (link : BitVec 32) (n : Nat) (s : State), exec (.flitCrcError a b link n) s = .next
    (if n = 0 then s else if n ≤ 8 then s.reportTrace (UnitId.bits a) (UnitId.bits b) 0x04 n else s.reportLog (UnitId.bits a) (UnitId.bits b) 0x0E link.toNat)) ∧
  (∀ (d : Fin 18) (line : Nat) (s : State), s.Inv → s.answers = true → (s.site d).works = true →
    let t := (((if s.lineBad line then s.badLine (64 * line) none (dieUnit d) else s).cacheRefetch d line).reportLog (dieUnit d) (dieUnit d) 0x02 line).ondieCount d
    exec (.ondieUncorrectable (.dieCache d line)) s = .next t ∧ t.mem = s.mem ∧ t.jobs = s.jobs ∧
      (s.lineBad line = true → ∀ c ∈ (t.site d).cache, c.2 ≠ line) ∧ (s.lineBad line = false → (t.site d).cache = (s.site d).cache)) ∧
  (∀ (d : Fin 18) (n : Nat) (s : State), s.Inv → s.answers = true → (s.site d).works = true →
    ∃ t, exec (.ondieUncorrectable (.corrected d n)) s = .next t ∧ (t.site d).corrected = (s.site d).corrected + BitVec.ofNat 64 n ∧ t.mem = s.mem ∧ t.jobs = s.jobs) ∧
  (∀ (l : Fin 25769803776) (s : State), Tab.wf (fun _ => false) s.memBad = true →
    ∃ t, exec (.stackUncorrectable l) s = .next t ∧ t = { s with memBad := t.memBad } ∧ ∀ k : Nat, t.lineBad k = (s.lineBad k || decide (k = l.val))) ∧
  (∀ (l : Fin 25769803776) (s : State), s.power.state = .m0 → bits (s.reg (.glob .memCfg)) 1 0 ≠ 0 →
    exec (.patrolScrub l .clean) s = .next s ∧
    (s.lineBad l = false → exec (.patrolScrub l .corrected) s = .next (s.bump (.glob (.mcEcc ⟨s.column (64 * l.val), Nat.mod_lt _ (by decide)⟩)) 15 0)) ∧
    exec (.patrolScrub l .uncorrectable) s = .next (State.badLine { s with memBad := Tab.set (fun _ => false) s.memBad l true } (64 * l.val) none (columnUnit (s.column (64 * l.val))))) ∧
  (∀ (t : Fin 576) (s : State), s.Inv → (s.tile t).selfTest = true ∨ s.coldTest t = true → (s.tile t).op = none →
    ∃ u, exec (.tileSelftestDone t true true) s = .next u ∧ (u.tile t).selfTest = false ∧ (u.tile t).outOfUse = (s.tile t).outOfUse ∧
      (u.tile t).stash = (s.tile t).stash ∧ (u.tile t).scratch = [] ∧ u.mem = s.mem) ∧
  (∀ (t : Fin 576) (s : State), s.Inv → (s.tile t).selfTest = true ∨ s.coldTest t = true → (s.tile t).op = none →
    (∃ u, exec (.tileSelftestDone t false true) s = .next u ∧ (u.tile t).outOfUse = true) ∧ ∃ u, exec (.tileSelftestDone t true false) s = .next u ∧ u.ruOut t = true)

/-- R370 to R372: when a log window closes its record is emitted with the number of duplicates (STORM when there are any) and the window is gone; an alarm entry
keeps the first report of its unit and counts the later ones, each of which is also sent to the management controller; writing ENTRY to
FC_ALARM_ACK empties that entry and no other. -/
def Obligations.ConcentratorsKeepAlarms : Prop :=
  (∀ (h : Fin 4) (u : UnitId) (e : BitVec 8) (r : FaultRec) (s : State),
    (s.hank h).windows.find? (fun r => r.pair (UnitId.bits u) e.toNat) = some r →
    exec (.logWindowClose h u e) s = .next
      (let s1 := s.updHank h (fun k => { k with windows := k.windows.filter (fun r => !r.pair (UnitId.bits u) e.toNat) })
       (if 0 < r.dups then s1.setField (.hank h .fcStatus) 31 31 1 else s1).logRecord h (r.encode 1)) ∧ (r.encode 1).getLsbD 106 = decide (0 < r.dups)) ∧
  (∀ (src rep : BitVec 16) (ev d : Nat) (s : State), s.Inv → (s.hank (s.owner src)).running = true →
    Tab.wf (fun _ => none) (s.hank (s.owner src)).alarms = true →
    let t := s.reportAlarm src rep ev d
    let old := Tab.get (fun _ => none) (s.hank (s.owner src)).alarms (alarmEntry src)
    t.out = s.out ++ [.alarm src (BitVec.ofNat 8 ev) (BitVec.ofNat 32 d)] ∧ t.mgmt.unread = s.mgmt.unread ++ [src] ∧ t.mem = s.mem ∧ t.regs = s.regs ∧
    ∃ r, Tab.get (fun _ => none) (t.hank (s.owner src)).alarms (alarmEntry src) = some r ∧ r.lastEvent = BitVec.ofNat 8 ev ∧
      (match old with
       | none => r.first = s.clock ∧ r.source = src ∧ r.event = BitVec.ofNat 8 ev ∧ r.detail = BitVec.ofNat 32 d ∧ r.dups = 0
       | some q => r.first = q.first ∧ r.source = q.source ∧ r.event = q.event ∧ r.detail = q.detail ∧ r.dups = min (q.dups + 1) 0xFFFF)) ∧
  (∀ (h : Fin 4) (s : State), s.Inv → s.hankOpen h = true → Tab.wf (fun _ => none) (s.hank h).alarms = true →
    ∃ t, exec (.fcAlarmAck h) s = .next t ∧ t.regs = s.regs ∧ t.out = s.out ∧
      ∀ e : Nat, Tab.get (fun _ => none) (t.hank h).alarms e =
        if e = bits (s.reg (.hank h .fcAlarmSel)) 6 0 then none else Tab.get (fun _ => none) (s.hank h).alarms e)

/-- R354: a heartbeat is taken; 10 µs after a mark a die that sent one has none missing, the third missing in a row declares the die lost, and so does a probe that is not
answered. A lost die is being retired or retired, no reservation stands at it, and its alarm (event 0x09) goes out. -/
def Obligations.HeartbeatsGuardDies : Prop :=
  ∀ (d : Fin 18) (s : State), s.Inv → s.beats d = true →
    exec (.dispatcherHeartbeat d) s = .next (s.updSite d (fun x => { x with beat := true })) ∧
    ((s.site d).beat = true → exec (.heartbeatCheck d) s = .next (s.updSite d (fun x => { x with beat := false, missing := 0 }))) ∧
    ((s.site d).beat = false → (s.site d).missing < 2 →
      exec (.heartbeatCheck d) s = .next (s.updSite d (fun x => { x with missing := x.missing + 1 }))) ∧
    ((s.site d).beat = false → 2 ≤ (s.site d).missing → exec (.heartbeatCheck d) s =
      .next ((s.updSite d (fun x => { x with missing := x.missing + 1 })).dieLost d)) ∧
    ((s.site d).probe = true → exec (.dieProbeTimeout d) s = .next (s.dieLost d)) ∧
    (let t := s.dieLost d
     ((t.site d).state = .retiring ∨ (t.site d).state = .retired) ∧ (∀ r ∈ t.reservations, r.1 ≠ d.val) ∧
     Output.alarm (dieUnit d) 0x09 (BitVec.ofNat 32 (min 3 (s.site d).missing)) ∈ t.out)

/-- R356, R357, R359, R373: RAS_CMD decides a retirement (BUSY until it ends), refused with DESC_MALFORMED for a site that is not active and with PROTECT for the last
one; the first decided retirement begins with its die retiring and the lowest spare chosen; a spare that passes its self-test becomes active and holds the
quads of the retiring die from then on, quad q of the one as quad q of the other; after the grace the die is retired and its command is done. -/
def Obligations.RetirementProceeds : Prop :=
  (∀ (x : BitVec 32) (s : State), s.answers = true → bit x 31 = true → bit (s.reg (.glob .rasCmdStatus)) 0 = false →
    let d := bits x 20 16
    (bits x 3 0 ≠ 1 ∨ 18 ≤ d ∨ (s.site d).state ≠ .active → exec (.rasRetire x) s = .next (s.setField (.glob .rasCmdStatus) 31 16 0x10)) ∧
    (bits x 3 0 = 1 → d < 18 → (s.site d).state = .active → s.lastDie d = true →
      exec (.rasRetire x) s = .next (s.setField (.glob .rasCmdStatus) 31 16 0x15)) ∧
    (bits x 3 0 = 1 → d < 18 → (s.site d).state = .active → s.lastDie d = false → s.retireQueued d = false →
      exec (.rasRetire x) s = .next { s.setField (.glob .rasCmdStatus) 0 0 1 with
        retireQueue := s.retireQueue ++ [{ site := d, kind := 2, operator := true, mgmt := false }] })) ∧
  (∀ (d : Fin 18) (r : Retire) (x : Nat) (s : State), s.Inv → s.nextRetire = some r → r.site = d.val → (s.site d).state = .active → s.freeSpare = some x →
    ∃ t, exec (.retirementStart d) s = .next t ∧ (t.site d).state = .retiring ∧ t.retiring = some { r with spare := some x } ∧
      t.retireQueue = s.retireQueue.filter (fun q => q.site ≠ d.val) ∧ t.jobs = s.jobs ∧ t.parts = s.parts) ∧
  (∀ (x : Fin 18) (r : Retire) (s : State), s.Inv → s.retiring = some r → r.spare = some x.val → r.placed = false → r.kind ≠ 1 → r.site ≠ x.val → s.power.state = .m0 →
    ∃ t, exec (.spareInService x true) s = .next t ∧ (t.site x).state = .active ∧ t.retiring = some { r with placed := true } ∧
      ∀ p g : Nat, g ∈ (t.part p).quads ↔ ∃ k ∈ (s.part p).quads, g = if k / 8 = r.site then 8 * x.val + k % 8 else k) ∧
  (∀ (d : Fin 18) (r : Retire) (s : State), s.Inv → s.retiring = some r → r.site = d.val → r.placed = true → r.kind ≠ 1 → s.retireQueue = [] → s.power.state = .m0 →
    ∃ t, exec (.retireGraceExpiry d) s = .next t ∧ (t.site d).state = .retired ∧ t.retiring = none ∧ t.retirements = s.retirements + 1 ∧
      (r.operator = true → bits (t.reg (.glob .rasCmdStatus)) 31 16 = 0 ∧ bits (t.reg (.glob .rasCmdStatus)) 0 0 = 0))

/-- R24, R364, R369, R377: a memory column that faults is fenced (its lines read as uncorrectable) and SERVICE is set; a bridge segment whose bypass covers the fault sets FABRIC,
one that is lost fences its column and takes the die that is bonded to it alone; a hank die that faults stops; each sends its alarm (0x11, 0x10, 0x12). Loss of lock of a PLL sends event 0x28 for the unit. No stack
memory changes on a column fault, nor on a segment fault that takes no die. -/
def Obligations.UnitFaultsFence : Prop :=
  ∀ (s : State), s.powered = true →
    (∀ (c : Fin 16) (k : Fin 2), ∃ t, exec (.memoryColumnFault c k) s = .next t ∧ t.service = true ∧ t.mem = s.mem ∧
      (∀ l : Nat, s.column (64 * l) = c.val → t.lineBad l = true) ∧ Output.alarm (columnUnit c) 0x11 (BitVec.ofNat 32 (2 * c.val + k.val)) ∈ t.out) ∧
    (∀ (k : Fin 16), ∃ t, exec (.bridgeSegmentFault k false) s = .next t ∧ t.fabric = true ∧ t.mem = s.mem ∧ t.colFenced = s.colFenced ∧
      k.val ∈ t.segFault ∧ Output.alarm (segmentUnit k) 0x10 0 ∈ t.out) ∧
    (∀ (k : Fin 16), ∃ t, exec (.bridgeSegmentFault k true) s = .next t ∧ t.service = true ∧
      k.val ∈ t.colFenced ∧ k.val ∈ t.segFault ∧ Output.alarm (segmentUnit k) 0x10 1 ∈ t.out ∧ (onlyDie k = none → t.mem = s.mem) ∧
      (s.Inv → ∀ d, onlyDie k = some d → (t.site d).state = .retiring ∨ (t.site d).state = .retired)) ∧
    (∀ (h : Fin 4), s.Inv → (s.hank h).running = true → ∃ t, exec (.hankDieFault h) s = .next t ∧ (t.hank h).running = false ∧
      (t.hank h).alarms = [] ∧ t.service = true ∧ Output.alarm (hankUnit h) 0x12 0 ∈ t.out) ∧
    (∀ (u : UnitId), unitKind (UnitId.bits u) = 2 → unitIndex (UnitId.bits u) < 18 →
      ∃ t, exec (.pllLossOfLock u) s = .next t ∧ Output.alarm (monitorUnit 7) 0x28 ((UnitId.bits u).zeroExtend 32) ∈ t.out)

/-! ### Monitors, governor, power states, start-up, resets -/

/-- The module has been forced into M4 by monitor m with an event (R386, R427): off, its memories gone, the alarm sent and held, and its record in standby memory. -/
def tripped (s t : State) (m : Nat) (event : BitVec 8) (detail : BitVec 32) : Prop :=
  t.power.state = .m4 ∧ t.mgmt.alarmHeld = true ∧ t.mem = [] ∧ t.jobs = [] ∧ Output.alarm (monitorUnit m) event detail ∈ t.out ∧
  ∃ r : FaultRec, r.source = monitorUnit m ∧ r.event = event ∧ r.detail = detail ∧ t.power.standby = keepStandby s.power.standby r

/-- R377 to R379, R386: what the monitors of a powered module do. The input leaving 44 to 60 V, a conversion fault, 120 °C on a die and a flow below 4 L/min for 1 s force M4
(events 0x21, 0x22, 0x27); an input falling below 47.5 V is logged (0x20); the coolant rising through 40 °C and 48 °C and the flow falling through 16 and 8 L/min
send alarms (0x23, 0x24, 0x25); a die rising through 110 °C drops its duty to 4/16 and is logged (0x26), a stack above 95 °C is refreshed twice as often and is logged (0x2B). The loss of the reference clock sends
0x29; after 10 ms without it the running ops stop, each tile keeping what its feeders have sent (R209), and nothing else changes; its return ends both. -/
def Obligations.MonitorsReport : Prop :=
  ∀ (s : State), s.powered = true →
    let input := fun mv => { s with power := { s.power with inputMv := mv } }
    let inlet := fun x => { s with power := { s.power with inletDeci := x } }
    let flow := fun x => { s with power := { s.power with flowCenti := x, flowLow := decide (x < 400) } }
    (∀ mv : Nat, 44000 ≤ s.power.inputMv → s.power.inputMv ≤ 60000 →
      (mv < 44000 ∨ 60000 < mv → ∃ t, exec (.inputVoltageChange mv) s = .next t ∧ tripped s t 0 0x21 (BitVec.ofNat 32 mv)) ∧
      (44000 ≤ mv → mv < 47500 → 47500 ≤ s.power.inputMv → exec (.inputVoltageChange mv) s = .next ((input mv).reportLog (monitorUnit 0) (monitorUnit 0) 0x20 mv)) ∧
      (47500 ≤ mv → mv ≤ 60000 → exec (.inputVoltageChange mv) s = .next (input mv))) ∧
    (∀ x : BitVec 32, ∃ t, exec (.conversionFault x) s = .next t ∧ tripped s t 1 0x22 x) ∧
    (s.power.flowLow = true → ∃ t, exec .flowTripTimer s = .next t ∧ tripped s t 3 0x27 (BitVec.ofNat 32 s.power.flowCenti)) ∧
    (∀ x : Nat, s.power.inletDeci ≤ 400 →
      (x ≤ 400 → exec (.coolantTempChange x) s = .next (inlet x)) ∧
      (400 < x → x ≤ 480 → exec (.coolantTempChange x) s = .next ((inlet x).monitorAlarm 2 0x23 x)) ∧
      (480 < x → exec (.coolantTempChange x) s = .next (((inlet x).monitorAlarm 2 0x23 x).monitorAlarm 2 0x25 x))) ∧
    (∀ x : Nat, 1600 ≤ s.power.flowCenti →
      (1600 ≤ x → exec (.coolantFlowChange x) s = .next (flow x)) ∧
      (800 ≤ x → x < 1600 → exec (.coolantFlowChange x) s = .next ((flow x).monitorAlarm 3 0x24 x)) ∧
      (x < 800 → exec (.coolantFlowChange x) s = .next (((flow x).monitorAlarm 3 0x24 x).monitorAlarm 3 0x25 x))) ∧
    (∀ (d : Fin 18) (x : Nat), s.Inv → (s.site d).populated = true → (s.site d).state ≠ .retired →
      (1200 ≤ x → ∃ t, exec (.dieTempChange d x) s = .next t ∧ tripped s t 4 0x27 (BitVec.ofNat 32 x)) ∧
      (s.power.state ≠ .m3 → (s.site d).tempDeci < 1100 → 1100 ≤ x → x < 1200 → ∃ t, exec (.dieTempChange d x) s = .next t ∧
        t = State.monitorLog ((s.updSite d (fun y => { y with tempDeci := x })).updSite d (fun y => { y with duty := 4 })) 4 0x26 (dieUnit d).toNat ∧
        (t.site d).duty = 4 ∧ (t.site d).tempDeci = x ∧ t.mem = s.mem) ∧
      (x < 1100 → exec (.dieTempChange d x) s = .next (s.updSite d (fun y => { y with tempDeci := x })))) ∧
    (∀ (k : Fin 32) (x : Nat),
      let held := { s.power with stackDeci := Tab.set (fun _ => none) s.power.stackDeci k (some x) }
      (950 < x → k.val ∉ s.power.stackDouble → exec (.stackOvertemp k x) s = .next
        (State.monitorLog { s with power := { held with stackDouble := s.power.stackDouble ++ [k.val] } } 6 0x2B x)) ∧
      (x ≤ 950 → exec (.stackOvertemp k x) s = .next { s with power := { held with stackDouble := s.power.stackDouble.filter (fun y => y ≠ k.val) } })) ∧
    (s.power.ref = .present → exec .refclkLoss s = .next (State.monitorAlarm { s with power := { s.power with ref := .lost } } 7 0x29 0)) ∧
    (s.Inv → s.power.ref = .lost → ∃ t, exec .refclkAbsentTimeout s = .next t ∧ t = { s with tiles := t.tiles, power := { s.power with ref := .stopped } } ∧
      ∀ k : Nat, t.tile k = { s.tile k with sent := (t.tile k).sent }) ∧
    exec .refclkReturn s = .next { s with power := { s.power with ref := .present } }

/-- R382, R385, R386: the tension governor. P_eff is 3 kW with a flow below 8 L/min or an inlet above 48 °C, and with nominal cooling the least of CAP, the grade's maximum and the input's limit (0.2 W a mV).
A legal CAP is set (and stored when STORE is 1), another one changes nothing but BAD_WRITE of PWR_STATUS. A sample above P_die + 5 % lowers the duty to 12/16 and then by 2/16 down to 4/16, and 100 µs at or below P_die raise it
by 2/16. An input above P_eff for 1 ms adds a throttling step, one at or below it ends the throttling; that
the steps stop at 50, where the duty is least, and that the first input at or below P_eff ends them are the model's choices (log entry 71). -/
def Obligations.GovernorAdjusts : Prop :=
  (∀ s : State, let p := s.power
    (p.flowCenti < 800 ∨ 480 < p.inletDeci → s.effCap = 3000) ∧
    (1600 ≤ p.flowCenti → p.inletDeci ≤ 400 →
      s.effCap = min (10 * bits (s.reg (.glob .pwrCap)) 9 0) (min (if s.grade = 3 then 8600 else 9500) (p.inputMv / 5)))) ∧
  (∀ (x : BitVec 32) (s : State), s.answers = true →
    let c := bits x 9 0
    let legal := 300 ≤ c ∧ c ≤ (if s.grade = 3 then 860 else 950)
    exec (.pwrCapWrite x) s = .next (if legal then
        (if bit x 31 then (s.setReg (.glob .pwrCap) (BitVec.ofNat 32 c)).storeFromReg 0x06 (.cap c) else s.setReg (.glob .pwrCap) (BitVec.ofNat 32 c))
      else s.setField (.glob .pwrStatus) 0 0 1)) ∧
  (∀ (d : Fin 18) (w : Nat) (s : State), s.diesOn = true → s.diePowered d = true →
    let b := s.dieBudget d
    exec (.dutyAdjust d w false) s = .next (s.updSite d (fun x => { x with
      watts := w, below := decide (w ≤ b), duty := if 105 * b < 100 * w then (if 12 < x.duty then 12 else max 4 (x.duty - 2)) else x.duty })) ∧
    exec (.dutyAdjust d w true) s = .next (s.updSite d (fun x => { x with
      watts := w, below := decide (w ≤ b), duty := if x.below = true ∧ w ≤ b then min 16 (x.duty + 2) else x.duty }))) ∧
  (∀ (w : Nat) (s : State), s.powered = true →
    (s.effCap < w → ∃ t, exec (.inputThrottle w) s = .next t ∧ t.power.throttling = true ∧ t.power.throttleSteps = min 50 (s.power.throttleSteps + 1) ∧
      t.power.inputWatts = w ∧ t.mem = s.mem) ∧
    (w ≤ s.effCap → ∃ t, exec (.inputThrottle w) s = .next t ∧ t.power.throttling = false ∧ t.power.throttleSteps = 0 ∧ t.regs = s.regs))

/-- R386 to R389: PWR_CMD. M3 is refused with PROTECT while a job is open or a core runs; otherwise it is entered once no frog and no retirement is in progress: the memories of the dies are lost,
stack memory stays, and the command ends with DONE. It is left by starting the sites again, and the command to leave it ends when STATE reads M0. M4 is entered by command, by FORCE_OFF_N and
by the opening of the sense contact: nothing but the standby rail is left. A module reset starts the module anew and keeps the error counts of the columns. A tile without an op
is gated (M1, then M2) and wakes from M2. What exactly the opening of the sense contact leaves is the model's choice (log entry 78). -/
def Obligations.PowerStatesChange : Prop :=
  (∀ s : State, s.Inv → s.answers = true → s.power.cmd = none → s.power.state = .m0 →
    (s.m3Refused = true → ∃ t, exec .enterM3 s = .next t ∧ t.power.state = .m0 ∧ bits (t.reg (.glob .pwrCmdStatus)) 31 16 = 0x15 ∧
      bits (t.reg (.glob .pwrCmdStatus)) 0 0 = 0 ∧ t.tiles = s.tiles ∧ t.mem = s.mem) ∧
    (s.m3Refused = false → s.entryFree = true → ∃ t, exec .enterM3 s = .next t ∧ t.power.state = .m3 ∧ bits (t.reg (.glob .pwrCmdStatus)) 31 16 = 0 ∧
      bits (t.reg (.glob .pwrCmdStatus)) 0 0 = 0 ∧ t.mem = s.mem ∧ t.parts = s.parts ∧ t.jobs = s.jobs ∧
      ∀ k : Nat, (t.tile k).scratch = [] ∧ (t.tile k).stash = [] ∧ (t.tile k).outOfUse = (s.tile k).outOfUse) ∧
    (s.m3Refused = false → s.entryFree = false → ∃ t, exec .enterM3 s = .next t ∧ t.power.state = .enteringM3 ∧ bits (t.reg (.glob .pwrCmdStatus)) 0 0 = 1 ∧ t.tiles = s.tiles)) ∧
  (∀ s : State, s.Inv → s.answers = true → s.power.cmd = none → s.power.state = .m3 →
    ∃ t, exec .leaveM3 s = .next t ∧ t.power.state = .leavingM3 ∧ t.power.stepsDone = [] ∧ bits (t.reg (.glob .pwrCmdStatus)) 0 0 = 1) ∧
  (∀ s : State, s.Inv → s.power.state = .leavingM3 → (∀ d : Fin 18, s.siteUsed d = true → (s.site d).started = true) →
    ∃ t, exec .m3ExitDone s = .next t ∧ t.power.state = .m0 ∧ t.mem = s.mem ∧
      (s.power.cmd = some 2 → bits (t.reg (.glob .pwrCmdStatus)) 31 16 = 0 ∧ bits (t.reg (.glob .pwrCmdStatus)) 0 0 = 0)) ∧
  (∀ s : State, let off := fun (t : State) => t.power.state = .m4 ∧ t.mem = [] ∧ t.regs = [] ∧ t.parts = [] ∧ t.jobs = [] ∧ t.tiles = [] ∧
      t.store = s.store ∧ t.lifecycle = s.lifecycle ∧ t.grade = s.grade ∧ t.serial = s.serial ∧ t.power.standby = s.power.standby ∧ t.host = s.host ∧ t.pending = s.pending
    (s.answers = true → ∃ t, exec .enterM4 s = .next t ∧ off t) ∧
    (s.powered = true → ∃ t, exec .forceOff s = .next t ∧ off t) ∧
    (s.powered = true → ∃ t, exec .senseOpen s = .next t ∧ off t ∧ t.power.senseClosed = false)) ∧
  (∀ s : State, s.Inv → s.answers = true → s.power.cmd = none → ∃ t, exec .moduleResetCmd s = .next t ∧ t.power.state = .starting ∧ t.mem = [] ∧ t.parts = [] ∧ t.jobs = [] ∧
    t.counting = false ∧ t.store = s.store ∧ t.lifecycle = s.lifecycle ∧ (∀ c : Fin 16, t.reg (.glob (.mcEcc c)) = s.reg (.glob (.mcEcc c))) ∧
    ∀ (p : Fin 64) (r : PReg), t.reg (.part p r) = (Reg.part p r).init) ∧
  (∀ (k : Fin 576) (s : State),
    (s.power.state = .m0 → s.diePowered (siteOf k) = true → (s.tile k).op = none →
      ((s.tile k).gate = .m0 → exec (.tileEntersM1 k) s = .next (s.updTile k (fun x => { x with gate := .m1 }))) ∧
      ((s.tile k).gate = .m1 → exec (.tileEntersM2 k) s = .next (s.updTile k (fun x => { x with gate := .m2 })))) ∧
    ((s.tile k).gate = .m2 → exec (.tileM2ExitDone k) s = .next (s.updTile k (fun x => { x with gate := .m0 }))))

/-- R380, R391, R422: the state after reset. Start-up has begun and the runtime is not ready; every register reads its reset value, every memory is wiped and listed in its
canonical form, nothing is created, no counter runs, no command waits. That sites 16 and 17 are the spares, and what the settings store and the registers that read from it hold, are the model's choices (log entries 5 and 6). -/
def Obligations.ResetLeaves : Prop :=
  State.reset.Inv ∧ State.reset.power.state = .starting ∧ State.reset.power.runtimeReady = false ∧ State.reset.counting = false ∧
  (∀ r : Reg, State.reset.reg r = r.init ∧ State.reset.act r = r.init) ∧ (∀ a : Nat, State.reset.byte a = 0) ∧
  (∀ p : Nat, (State.reset.part p).state = .free) ∧ (∀ t a : Nat, Tab.get (fun _ => 0) (State.reset.tile t).scratch a = 0) ∧
  (∀ d : Nat, d < 18 → (State.reset.site d).state = if d = 16 ∨ d = 17 then .spare else .active) ∧
  State.reset.jobs = [] ∧ State.reset.pending = []

/-- R380, R390, R422, R426: power is applied once the sense contact is closed and the input is charged, with registers at their reset values or from the store; the start-up steps run in order, one at a time, none
while the clock or the input is missing and none after the first while PERST0_N is low; once all have run the runtime is ready, STATE reads M0 and the counters run. PERST0_N low
is a module reset once a step beyond the first has run, in start-up and afterwards, and before that it only holds start-up at the first step. That power may be applied anew to a module in any state, as a cold
reset, is the model's choice (log entry 78). -/
def Obligations.StartUpRunsInOrder : Prop :=
  (∀ s : State, s.power.senseClosed = true → s.power.charged = true → s.power.standby = [] →
    ∃ t, exec .powerOn s = .next t ∧ t.power.state = .starting ∧ t.power.stepsDone = [] ∧ t.mem = [] ∧ t.jobs = [] ∧ t.parts = [] ∧ t.hanks = [] ∧ t.store = s.store ∧ t.lifecycle = s.lifecycle ∧
      t.reg (.glob .pwrCap) = BitVec.ofNat 32 s.store.cap ∧ ∀ (p : Fin 64) (r : PReg), t.reg (.part p r) = (Reg.part p r).init) ∧
  (∀ (k : StartupStep) (s : State), s.power.state = .starting → s.power.perst0Low = false →
    let done := { s with power := { s.power with stepsDone := s.power.stepsDone ++ [k] } }
    (s.clocked = true → s.stepsLeft.head? = some k →
      (∀ d, k = .site d → exec (.startupStep k true) s = .next (done.updSite d (fun x => { x with started := true, passed := true }))) ∧
      ((∀ d, k ≠ .site d) → exec (.startupStep k true) s = .next done)) ∧
    (s.clocked = false ∨ s.stepsLeft.head? ≠ some k → ∀ ok, exec (.startupStep k ok) s = .next s)) ∧
  (∀ s : State, s.power.state = .starting → s.power.perst0Low = true → ∀ (k : StartupStep) (ok : Bool), k ≠ .hankDie 0 → exec (.startupStep k ok) s = .next s) ∧
  (∀ s : State, s.power.state = .starting → s.stepsLeft = [] → s.clocked = true → s.power.perst0Low = false →
    ∃ t, exec .runtimeReady s = .next t ∧ t.power.state = .m0 ∧ t.power.runtimeReady = true ∧ t.counting = true ∧ t.clock = s.clock ∧ t.regs = s.regs ∧ t.mem = s.mem ∧
      (s.Inv → ∀ d : Nat, d < 18 → s.siteUsed d = true → (s.site d).passed = false → (t.site d).state = .retired)) ∧
  (∀ s : State, s.powered = true →
    (s.power.state ≠ .starting ∨ (∃ k ∈ s.power.stepsDone, k ≠ .hankDie 0) →
      ∃ t, exec .perst0Assert s = .next t ∧ t.power.perst0Low = true ∧ t.power.state = .starting ∧ t.power.stepsDone = [.hankDie 0] ∧ t.mem = [] ∧ t.parts = [] ∧ t.jobs = []) ∧
    (s.power.state = .starting → (∀ k ∈ s.power.stepsDone, k = .hankDie 0) → exec .perst0Assert s = .next { s with power := { s.power with perst0Low := true } })) ∧
  (∀ s : State, exec .perst0Deassert s = .next { s with power := { s.power with perst0Low := false } } ∧
    exec .senseClose s = .next { s with power := { s.power with senseClosed := true } } ∧
    (s.power.senseClosed = true → exec .hotswapChargeStart s = .next { s with power := { s.power with charged := true } }))

/-- R380, R390: a configuration request is answered with retry status until the runtime is ready, and afterwards with the link up (log entry 76: the model's choice of when the link returns), when the runtime also writes the PHY seeds of the training to the store (R431, log entry 132); PERST_N of its port holds it in reset, start-up included, and then it answers nothing. A port reset takes the link down, ends its link key and, by the model's choice (log entry 67), its SPDM session, and disables
the ring pairs of the partitions behind it, whose completion entries wait in the hold from then on, and changes no stack memory; during a module reset it is ignored (R392); a function-level reset disables those of its partition and stops its cores. -/
def Obligations.PortsAndFunctionsReset : Prop :=
  (∀ (h : Fin 4) (s : State), s.powered = true →
    (s.perstLow h = true → exec (.configurationRequest h) s = .next s) ∧
    (s.perstLow h = false → s.answers = false → exec (.configurationRequest h) s = .next (s.emit (.configRetry h))) ∧
    (s.perstLow h = false → s.answers = true → (s.hank h).running = true →
      ((s.hank h).linkUp = true → exec (.configurationRequest h) s = .next ((s.updHank h (fun k => { k with linkUp := true })).emit (.configAnswer h))) ∧
      ((s.hank h).linkUp = false → ∃ t, exec (.configurationRequest h) s = .next t ∧ (t.hank h).linkUp = true ∧ t.out = s.out ++ [.configAnswer h] ∧ t.mem = s.mem ∧ t.regs = s.regs ∧
        (s.storeBusy = none → ∃ v, t.storeBusy = some { job := .field 0x03 (.opaqueField v), answer := none })))) ∧
  (∀ (i : Fin 3) (s : State), s.Inv →
    (∃ t, exec (.portReset (.perstLow i)) s = .next t ∧ t.perstLow (i.val + 1) = true ∧ t.mem = s.mem ∧ t.jobs = s.jobs ∧
      (s.powered = true → (s.hank (i.val + 1)).running = true → (s.power.state = .starting → s.power.cold = true) → (t.hank (i.val + 1)).linkUp = false)) ∧
    (∃ t, exec (.portReset (.perstHigh i)) s = .next t ∧ t.perstLow (i.val + 1) = false ∧ t.mem = s.mem ∧ t.jobs = s.jobs)) ∧
  (∀ (h : Fin 4) (s : State), s.power.state = .starting → s.power.cold = false → exec (.portReset (.linkDown h)) s = .next s) ∧
  (∀ (h : Fin 4) (s : State), s.Inv → s.powered = true → (s.hank h).running = true → (s.power.state = .starting → s.power.cold = true) →
    ∃ t, exec (.portReset (.linkDown h)) s = .next t ∧ (t.hank h).linkUp = false ∧ (t.hank h).ideLink = none ∧ (t.hank h).spdm = {} ∧ t.mem = s.mem ∧ t.jobs = s.jobs ∧
      ∀ (p : Fin 64) (n : Fin 16), s.partHeld p = true → s.vfPort p = h.val → bit (t.reg (.part p (.ringCtrl n))) 0 = false ∧
        (t.ring p n).hold = (s.ring p n).hold ∧ ((s.ring p n).active = true → (t.ring p n).deliveryStopped = true)) ∧
  (∀ (h : Fin 4) (i : Fin 16) (p : Fin 64) (s : State), s.Inv → s.answers = true → s.portUp h = true → s.vfPart h i = some p.val →
    ∃ t, exec (.vfFlr h i) s = .next t ∧ (∀ n : Fin 16, bit (t.reg (.part p (.ringCtrl n))) 0 = false) ∧
      ∀ x ∈ (t.part p).harts, x.state = .stopped)

/-! ### Management, the store, JTAG -/

/-- The outcome that goes on with a state. -/
abbrev goes (t : State) : Host.Outcome State Fault Refusal := .next t

/-- R327, R430: the Etdar command set. In M4 the commands that M4 does not run are answered with completion 0x02 and change nothing. GET_STATE and
COLD_RESET run always: GET_STATE answers the lifecycle and the grade, and outside M4 RAS_STATUS, PWR_STATUS, DIE_STATE_LO and DIE_STATE_HI (R373, R386) too. That start-up keeps no command out, that SET_CAP out of range
is malformed, and that a stored cap is answered when the store holds it are the model's choices (log entry 73), and so is that ALARM_READ takes the event messages of its entry out of the unread ones (log entry 132). A malformed argument is answered 0x03 and a busy interface 0x01, with nothing changed; any other command has the effect of its register and is answered with completion 0x00 and the status of its end.
LIFECYCLE runs the transitions of R327 and no others: the fuse is written, then the module is reset. -/
def Obligations.ManagementCommandsAnswer : Prop :=
  ∀ s : State,
    let refused := fun (code completion : Nat) => goes (s.emit (.mgmt code completion none []))
    let dies := fun (st : DieState) => ((List.range 18).filter (fun d => decide ((s.site d).state = st))).length
    (s.powered = false → exec .getState s = .next (s.emit (.mgmt 0x01 0 none [Lifecycle.code s.lifecycle, s.grade]))) ∧
    (s.powered = true → ∃ ras pwr lo hi : Nat, exec .getState s = .next (s.emit (.mgmt 0x01 0 none [Lifecycle.code s.lifecycle, s.grade, ras, pwr, lo, hi])) ∧
      nbits ras 20 16 = dies .active ∧ nbits ras 12 11 = min 3 (dies .spare) ∧ (nbits ras 31 31 = 1 ↔ s.alarmOut = true) ∧ (nbits ras 30 30 = 1 ↔ s.service = true) ∧
      (nbits ras 29 29 = 1 ↔ s.anyStranded = true) ∧ (nbits ras 28 28 = 1 ↔ dies .active < (if s.grade = 3 then 14 else 16)) ∧ (nbits ras 27 27 = 1 ↔ dies .spare < 2) ∧ (nbits ras 26 26 = 1 ↔ s.fabric = true) ∧
      nbits pwr 31 22 = s.effCap / 10 ∧ nbits pwr 21 19 = s.power.state.code ∧ (nbits pwr 15 15 = 1 ↔ s.power.inputMv < 47500) ∧ (nbits pwr 14 14 = 1 ↔ 400 < s.power.inletDeci ∨ s.power.flowCenti < 1600) ∧
      (∀ i : Nat, i < 16 → nbits lo (2 * i + 1) (2 * i) = (s.site i).state.code) ∧ (∀ i : Nat, i < 2 → nbits hi (2 * i + 1) (2 * i) = (s.site (16 + i)).state.code)) ∧
    (∃ t, exec .coldReset s = .next t ∧ t.power.state = .starting ∧ t.mem = [] ∧ t.jobs = [] ∧ t.parts = [] ∧ t.store = s.store ∧ t.lifecycle = s.lifecycle ∧
      t.power.standby = [] ∧ Output.mgmt 0x12 0 none [] ∈ t.out) ∧
    (s.powered = false → ∀ (h : Fin 4) (e : BitVec 7) (c : BitVec 16) (b : Bool) (x y : BitVec 8) (r : BitVec 2048) (ms : List (BitVec 128)) (l : Lifecycle) (v : StoreValue) (img : StoreImage) (n : BitVec 64),
      exec (.alarmRead h e) s = refused 0x02 2 ∧ exec (.alarmAck h e) s = refused 0x03 2 ∧ exec (.setCap c b) s = refused 0x10 2 ∧ exec (.power x) s = refused 0x11 2 ∧
      exec (.partition x y r ms) s = refused 0x20 2 ∧ exec (.retire x) s = refused 0x21 2 ∧ exec (.lifecycle l b) s = refused 0x30 2 ∧
      exec (.storeWrite x v) s = refused 0x41 2 ∧ exec (.storeImport img n b) s = refused 0x43 2) ∧
    (s.powered = true →
      (∀ (h : Fin 4) (e : BitVec 7), (s.hank h).running = true →
        exec (.alarmRead h e) s = .next (State.emit { s with mgmt := { s.mgmt with unread := s.mgmt.unread.filter (fun src => decide (alarmEntry src ≠ e.toNat)) } } (.mgmt 0x02 0 none ((List.range 8).map (fun n => (s.alarmWord h e.toNat n).toNat)))) ∧
        exec (.alarmAck h e) s = .next ((s.updHank h (fun k => { k with alarms := Tab.set (fun _ => none) k.alarms e.toNat none })).emit (.mgmt 0x03 0 none []))) ∧
      (∀ c : BitVec 16, let legal := 300 ≤ c.toNat ∧ c.toNat ≤ (if s.grade = 3 then 860 else 950)
        (¬ legal → ∀ b, exec (.setCap c b) s = refused 0x10 3) ∧
        (legal → exec (.setCap c false) s = .next ((s.setReg (.glob .pwrCap) (BitVec.ofNat 32 c.toNat)).emit (.mgmt 0x10 0 none []))) ∧
        (legal → s.storeBusy = none → exec (.setCap c true) s = .next (State.setReg { s with storeBusy := some { job := .field 0x06 (.cap c.toNat), answer := some 0x10 } } (.glob .pwrCap) (BitVec.ofNat 32 c.toNat))) ∧
        (legal → s.storeBusy ≠ none → 8 ≤ s.storeQueue.length → exec (.setCap c true) s = refused 0x10 1)) ∧
      (∃ t, exec (.power 4) s = .next t ∧ t.power.state = .m4 ∧ t.mem = [] ∧ Output.mgmt 0x11 0 (some .done) [] ∈ t.out) ∧
      (∀ x : BitVec 8, x ≠ 1 → x ≠ 2 → x ≠ 4 → x ≠ 8 → exec (.power x) s = refused 0x11 3) ∧
      (s.power.cmd ≠ none → exec (.power 1) s = refused 0x11 1 ∧ exec (.power 2) s = refused 0x11 1 ∧ exec (.power 8) s = refused 0x11 1) ∧
      (s.power.cmd = none →
        (∃ t, exec (.power 8) s = .next t ∧ t.power.state = .starting ∧ t.mem = [] ∧ Output.mgmt 0x11 0 (some .done) [] ∈ t.out) ∧
        (s.power.state = .m0 → s.m3Refused = true → ∃ t, exec (.power 1) s = .next t ∧ t.power.state = .m0 ∧ t.tiles = s.tiles ∧ t.out = s.out ++ [.mgmt 0x11 0 (some .protect) []]) ∧
        (s.power.state = .m0 → s.m3Refused = false → s.entryFree = true → ∃ t, exec (.power 1) s = .next t ∧ t.power.state = .m3 ∧ t.out = s.out ++ [.mgmt 0x11 0 (some .done) []]) ∧
        (s.power.state = .m3 → ∃ t, exec (.power 2) s = .next t ∧ t.power.state = .leavingM3 ∧ t.power.cmd = some 2 ∧ t.power.cmdMgmt = true)) ∧
      (∀ (x p : BitVec 8) (r : BitVec 2048) (ms : List (BitVec 128)),
        let reads := x = 1 ∨ x = 3
        (x = 0 ∨ 4 < x.toNat ∨ 64 ≤ p.toNat ∨ 64 < ms.length ∨ (reads ∧ (prMapAddr r.toNat ≠ 0 ∨ prMapCount r.toNat ≠ ms.length)) → exec (.partition x p r ms) s = refused 0x20 3) ∧
        (p.toNat < 64 → ms.length ≤ 64 → (reads → prMapAddr r.toNat = 0 ∧ prMapCount r.toNat = ms.length) →
          (0 < x.toNat → x.toNat ≤ 4 → s.partCmd ≠ none → exec (.partition x p r ms) s = refused 0x20 1) ∧
          (s.partCmd = none → s.Inv →
            (∀ e, x = 1 → (s.issueCmd 1 p.toNat true).createCheck (.inline r ms) p.toNat = .error e →
              ∃ t, exec (.partition x p r ms) s = .next t ∧ t.partCmd = none ∧ t.parts = s.parts ∧ t.mem = s.mem ∧ t.out = s.out ++ [.mgmt 0x20 0 (some e) []]) ∧
            (∀ y m, x = 1 → (s.issueCmd 1 p.toNat true).createCheck (.inline r ms) p.toNat = .ok (y, m) →
              ∃ t, exec (.partition x p r ms) s = .next t ∧ t.partCmd = none ∧ (t.part p.toNat).state = .active ∧ (t.part p.toNat).quads = prQuads y ∧ (t.part p.toNat).map = m ∧
                t.out = s.out ++ [.mgmt 0x20 0 (some .done) []]) ∧
            (x = 2 ∨ x = 4 → (s.part p.toNat).state = .free → ∃ t, exec (.partition x p r ms) s = .next t ∧ t.partCmd = none ∧ t.parts = s.parts ∧
              t.out = s.out ++ [.mgmt 0x20 0 (some .protect) []]) ∧
            (x = 2 ∨ x = 4 → (s.part p.toNat).state = .active → (s.part p.toNat).frog = none → ∃ t, exec (.partition x p r ms) s = .next t ∧ (t.part p.toNat).state = .stopping ∧
              t.partCmd = some { op := x.toNat, part := p.toNat, mgmt := true })))) ∧
      (∀ x : BitVec 8,
        (bit (s.reg (.glob .rasCmdStatus)) 0 = true → exec (.retire x) s = refused 0x21 1) ∧
        (bit (s.reg (.glob .rasCmdStatus)) 0 = false →
          (18 ≤ x.toNat ∨ (s.site x.toNat).state ≠ .active → ∃ t, exec (.retire x) s = .next t ∧ t.retireQueue = s.retireQueue ∧ t.sites = s.sites ∧ t.out = s.out ++ [.mgmt 0x21 0 (some .descMalformed) []]) ∧
          (x.toNat < 18 → (s.site x.toNat).state = .active → s.lastDie x.toNat = false → s.retireQueued x.toNat = false → exec (.retire x) s = .next (State.setField
            { s with retireQueue := s.retireQueue ++ [{ site := x.toNat, kind := 2, operator := true, mgmt := true }] } (.glob .rasCmdStatus) 0 0 1)))) ∧
      (∀ (l : Lifecycle) (auth : Bool),
        let allowed := (s.lifecycle = .manufacturing ∧ l = .provisioned ∧ auth = true) ∨ (s.lifecycle = .provisioned ∧ (l = .deployed ∨ l = .returned)) ∨
          (s.lifecycle = .deployed ∧ (l = .provisioned ∨ l = .returned)) ∨ (s.lifecycle = .returned ∧ l = .manufacturing ∧ auth = true)
        (¬ allowed ∨ ((s.lifecycle = .deployed ∨ l = .returned) ∧ ∃ q ∈ s.parts, q.2.state ≠ .free) → exec (.lifecycle l auth) s = .next (s.emit (.mgmt 0x30 0 (some .protect) []))) ∧
        (allowed → (∀ q ∈ s.parts, q.2.state = .free) → ∃ t, exec (.lifecycle l auth) s = .next t ∧ t.lifecycle = l ∧ t.power.state = .starting ∧ t.mem = [] ∧ t.jobs = [] ∧ t.store = s.store ∧
          (s.lifecycle = .manufacturing → t.identityCert = true) ∧ Output.mgmt 0x30 0 (some .done) [] ∈ t.out)))

/-- R397, R424, R428 to R434: the settings store and the other management paths. A value out of its range is answered 0x03, a ninth waiting write 0x01; an accepted write waits its turn and is answered when the switch record makes
the new image current, and the next write begins. An import needs the module's own serial number and a correct hash. Boundary scan selects BYPASS, an abstract command to a tenant core ends with
`cmderr` 2 in Provisioned and Deployed, and the system bus reaches no page of a partition, no page under scrub and no runtime memory: `sberror`, and no data; nor does it give the data of an uncorrectable line. The values of `sberror`,
`cmderr` 0 of a command that is permitted (log entry 75), and the form of the answer to Set Endpoint ID (log entry 132) are the model's choices. -/
def Obligations.StoreAndTestAccess : Prop :=
  ∀ s : State,
    let closed := s.lifecycle = .provisioned ∨ s.lifecycle = .deployed
    (s.storeRuns = true →
      (∀ f : BitVec 8, exec (.storeRead f) s = .next (match StoreImage.field s.store f.toNat with
        | some d => s.emit (.mgmt 0x40 0 none d)
        | none => s.emit (.mgmt 0x40 3 none []))) ∧
      (∃ hash, exec .storeExport s = .next (s.emit (.mgmt 0x42 0 none (StoreImage.words s.store ++ [s.serial.toNat, hash]))))) ∧
    (s.powered = true → s.storeRuns = true → s.portsDown = true →
      (∀ (f : BitVec 8) (v : StoreValue),
        (s.storeOk f.toNat v = false → exec (.storeWrite f v) s = .next (s.emit (.mgmt 0x41 3 none []))) ∧
        (s.storeOk f.toNat v = true → s.storeBusy = none → exec (.storeWrite f v) s = .next { s with storeBusy := some { job := .field f.toNat v, answer := some 0x41 } }) ∧
        (s.storeOk f.toNat v = true → s.storeBusy ≠ none → s.storeQueue.length < 8 → exec (.storeWrite f v) s = .next { s with storeQueue := s.storeQueue ++ [{ job := .field f.toNat v, answer := some 0x41 }] }) ∧
        (s.storeOk f.toNat v = true → s.storeBusy ≠ none → 8 ≤ s.storeQueue.length → exec (.storeWrite f v) s = .next (s.emit (.mgmt 0x41 1 none [])))) ∧
      (∀ (img : StoreImage) (n : BitVec 64) (ok : Bool),
        (n ≠ s.serial ∨ ok = false ∨ s.imageOk img = false → exec (.storeImport img n ok) s = .next (s.emit (.mgmt 0x43 3 none []))) ∧
        (n = s.serial → ok = true → s.imageOk img = true → s.storeBusy = none → exec (.storeImport img n ok) s = .next { s with storeBusy := some { job := .image img, answer := some 0x43 } }))) ∧
    (∀ a b : Nat, s.storeOk 0x05 (.spares a b) = true → a < 18 ∧ b < 18 ∧ (s.grade = 3 → a < 16 ∧ b < 16)) ∧
    (∀ a b c : Nat, s.storeOk 0x08 (.split a b c) = true ↔ a + b + c = 16) ∧ (∀ c : Nat, s.storeOk 0x07 (.interleave c) = true ↔ c < 3) ∧
    (∀ c : Nat, s.storeOk 0x06 (.cap c) = true ↔ 300 ≤ c ∧ c ≤ (if s.grade = 3 then 860 else 950)) ∧
    (∀ w : StoreWrite, s.Inv → s.storeBusy = some w → ∃ t, exec .storeWriteDone s = .next t ∧ t.storeBusy = s.storeQueue.head? ∧ t.storeQueue = s.storeQueue.drop 1 ∧
      ((s.imageAfter w.job).flowCal = s.store.flowCal → t.mem = s.mem ∧ t.out = s.out ++ (match w.answer with | some c => [.mgmt c 0 none []] | none => [])) ∧
      ((s.imageAfter w.job).flowCal ≠ s.store.flowCal → ∀ c, w.answer = some c → Output.mgmt c 0 none [] ∈ t.out) ∧
      (∀ c, c < 3 → w.job = .field 0x07 (.interleave c) → (∀ x ∈ s.storeQueue, x.job.writes 0x07 = false) → t.store = { s.store with interleave := c } ∧ bits (t.reg (.glob .memCfg)) 3 2 = c) ∧
      (∀ img, w.job = .image img → t.store = img) ∧ (∀ c, w.job = .field 0x06 (.cap c) → t.store = { s.store with cap := c }) ∧
      (∀ a b c, w.job = .field 0x08 (.split a b c) → t.store = { s.store with bwRead := a, bwWrite := b, bwRemote := c })) ∧
    (∀ e : BitVec 8, exec (.setEndpointId e) s = .next (State.emit { s with mgmt := { s.mgmt with eid := e } } (.mctp [0, e.toNat]))) ∧
    (s.powered = true → exec (.pldmRequest .inputVoltage) s = .next (s.emit (.pldm [s.power.inputMv])) ∧ exec (.pldmRequest .effectiveCap) s = .next (s.emit (.pldm [s.effCap])) ∧
      exec (.pldmRequest .activeDies) s = .next (s.emit (.pldm [((List.range 18).filter (fun d => decide ((s.site d).state = .active))).length]))) ∧
    (s.powered = false → exec (.pldmRequest .inputVoltage) s = .next (s.emit (.pldm [])) ∧ exec (.pldmRequest .degraded) s = .next (s.emit (.pldm []))) ∧
    ((∀ i : TapInstr, i = .bypass ∨ i = .idcode ∨ i = .debugModule ∨ ¬ closed → exec (.tapInstruction i) s = .next { s with mgmt := { s.mgmt with tap := i } }) ∧
      (closed → exec (.tapInstruction .boundaryScan) s = .next { s with mgmt := { s.mgmt with tap := .bypass } } ∧ exec (.tapInstruction .other) s = .next { s with mgmt := { s.mgmt with tap := .bypass } }) ∧
      (s.powered = true → ∀ c : Fin 160,
        (closed → c.val < 144 → 2 ≤ c.val % 8 → exec (.abstractCommand c) s = .next { s with mgmt := { s.mgmt with cmderr := 2 } }) ∧
        (¬ closed ∨ 144 ≤ c.val ∨ c.val % 8 < 2 → ∃ v, exec (.abstractCommand c) s = .next (State.emit { s with fresh := s.fresh + 1, mgmt := { s.mgmt with cmderr := 0 } } (.jtag v))))) ∧
    (s.answers = true → ∀ pa : BitVec 41,
      (runtimeBase ≤ pa.toNat ∨ (∃ q ∈ s.usedPages, q.1 ≤ pa.toNat ∧ pa.toNat < q.1 + q.2) → ∀ w, exec (.systemBusAccess pa w) s = .next (State.emit { s with mgmt := { s.mgmt with sberr := 2 } } .sbError)) ∧
      (s.power.state ≠ .m3 → s.busOpen pa.toNat = true →
        (s.lineBad (pa.toNat / 64) = false →
          exec (.systemBusAccess pa none) s = .next (State.emit { s with mgmt := { s.mgmt with sberr := 0 } } (.sba (BitVec.ofNat 32 (leNat (s.readPhys pa.toNat 4)))))) ∧
        (s.lineBad (pa.toNat / 64) = true → ∃ t, exec (.systemBusAccess pa none) s = .next t ∧ t.mgmt.sberr ≠ 0 ∧ Output.sbError ∈ t.out ∧ t.mem = s.mem) ∧
        ∀ x : BitVec 32, s.Inv → ∃ t, exec (.systemBusAccess pa (some x)) s = .next t ∧ t.readPhys pa.toNat 4 = leBytes 4 x.toNat ∧ (∀ a : Nat, a < pa.toNat ∨ pa.toNat + 4 ≤ a → t.byte a = s.byte a) ∧ t.regs = s.regs))

/-! ### The public-key engine -/

/-- Word 12 of the entry that a PKE command came from, as the host reads it (R344). -/
def pkeWord (s t : State) (h : Fin 4) (e : PkeEntry) : Nat := leNat (t.readHost h (s.pkeBase h + 64 * e.index + 48) 4)

/-- R340 to R346: the operator ring of a public-key engine. Enabling starts a cast-on commit and disabling aborts what is in flight with PKE_ABORTED; the doorbell moves the tail; commands are fetched and start in ring order, on the lowest free unit, and wait for
slot hazards. Operations of the runtime take a free unit first (R350); the one of a link's exchange that ends is done, and one that fails ends the bring-up or the link. The checks of R346 are made in their order, and the first
failure completes the command at once. WIPE zeroes its slots; an operation that ends with DONE delivers its outputs, one that does not leaves its output slots invalid and their contents as they are; word 12 receives CPL, VERDICT
and STATUS. An entropy failure raises an alarm. That a doorbell value at or beyond the ring's size is discarded and that VALID is checked when a command starts (log entry 66), which operations the runtime has and that they go first (105),
and that a WIPE has its effect at its own row (106) are the model's choices. -/
def Obligations.PkeRingServesCommands : Prop :=
  ∀ (h : Fin 4) (s : State), s.Inv → s.pkeOpen h = true → s.portUp h = true → s.power.state = .m0 →
    let x := s.pke h
    let enabled := bit (s.reg (.hank h .pkeRingCfg)) 31
    let gone := s.updPke h (fun x => { x with waiting := none })
    let calm := (s.port (2 * h.val)).idle = [] ∧ (s.port (2 * h.val + 1)).idle = []
    (exec (.pkeRingEnable h) s = if enabled then .next s else .next ((s.setField (.hank h .pkeRingCfg) 31 31 1).startCommit (.pkeRing h) (pkeRegs h))) ∧
    (∃ t, exec (.pkeRingDisable h) s = .next t ∧ bit (t.reg (.hank h .pkeRingCfg)) 31 = false ∧ (t.pke h).active = false ∧ (t.pke h).waiting = none ∧ (t.pke h).wipes = [] ∧
      (∀ (u : Fin 8) (r : PkeRun), (t.pke h).unit u = some r → r.port ≠ none) ∧
      ∀ (u : Fin 8) (r : PkeRun), x.units = [(u.val, some r)] → r.port = none → x.wipes = [] → pkeWord s t h r.entry = 0x550001) ∧
    (∀ v : BitVec 32, x.active = true → exec (.pkeDb h v) s = if v.toNat % 65536 < s.pkeSize h then .next (s.updPke h (fun x => { x with tail := v.toNat % 65536 })) else .next s) ∧
    (calm → x.waiting = none → x.active = true → enabled = true → x.fetchStopped = false → x.head ≠ x.tail →
      let e : PkeEntry := { raw := BitVec.ofNat 512 (leNat (s.readHost h (s.pkeBase h + 64 * x.head) 64)), index := x.head }
      exec (.pkeCommandStart h) s = exec (.pkeCommandStart h) (s.updPke h (fun x => { x with waiting := some e, head := (x.head + 1) % s.pkeSize h }))) ∧
    (∀ (op : Nat) (rest : List Nat) (u : Nat), (s.port (2 * h.val)).idle = op :: rest → x.freeUnit = some u →
      ∃ t, exec (.pkeCommandStart h) s = .next t ∧ (t.pke h).unit u = some { entry := runtimeEntry op, params := some p384, port := some (2 * h.val, (s.port (2 * h.val)).exchange) }) ∧
    (∀ e : PkeEntry, calm → x.waiting = some e →
      (∀ code, s.pkeCheck h e = some code → ∃ t, exec (.pkeCommandStart h) s = .next t ∧ (t.pke h).waiting = none ∧ (t.pke h).units = x.units ∧ (t.pke h).slots = x.slots ∧ pkeWord s t h e = 1 + code * 65536) ∧
      (s.pkeCheck h e = none → e.op = 6 → exec (.pkeCommandStart h) s = .next (gone.updPke h (fun x => { x with wipes := x.wipes ++ [e] }))) ∧
      (s.pkeCheck h e = none → e.op ≠ 6 → x.hazard e = true → exec (.pkeCommandStart h) s = .next s) ∧
      (s.pkeCheck h e = none → e.op ≠ 6 → x.hazard e = false → (∃ i ∈ e.reads, (x.slot i).valid = false) → ∃ t, exec (.pkeCommandStart h) s = .next t ∧ (t.pke h).waiting = none ∧ pkeWord s t h e = 0x100001) ∧
      (s.pkeCheck h e = none → e.op ≠ 6 → x.hazard e = false → (∀ i ∈ e.reads, (x.slot i).valid = true) → ∀ u : Nat, u < 8 → x.unit u = none → (∀ v : Nat, v < u → x.unit v ≠ none) →
        exec (.pkeCommandStart h) s = .next (gone.updPke h (fun x => x.setUnit u (some { entry := e, params := if e.op = 5 then none else x.curveOf e.curve }))))) ∧
    (∀ e : PkeEntry, pkeReservedOk e.num = true →
      (e.op = 3 → e.in0 ≠ 63 → e.in1 ≠ 63 → e.in2 ≠ 63 → 1 ≤ e.hashLen → e.hashLen ≤ 64 →
        s.pkeCheck h e = if e.in0 < 32 ∨ e.in1 < 32 ∨ e.in2 < 32 then some 0x15 else if x.curveOf e.curve = none then some 0x53 else none) ∧
      (e.op = 5 → e.in0 ≠ 63 → e.in1 ≠ 63 → e.in2 ≠ 63 → s.pkeCheck h e = if e.in0 < 32 ∨ e.in1 < 32 ∨ e.in2 < 32 then some 0x15 else if e.curve < 3 then some 0x53 else none) ∧
      (e.op = 6 → e.first ≠ 63 → e.last ≠ 63 → e.first ≤ e.last → s.pkeCheck h e = if e.first < 32 ∨ e.last < 32 then some 0x15 else if x.curveOf e.curve = none then some 0x53 else none) ∧
      (e.op = 9 → e.in0 ≠ 63 → s.pkeCheck h e = if e.hostAddr % 64 ≠ 0 then some 0x11
        else if e.in0 < 32 ∨ ((x.slot e.in0).secret = true ∧ (x.slot e.in0).exportable = false) then some 0x15 else if x.curveOf e.curve = none then some 0x53 else none) ∧
      (e.op = 7 ∨ 9 < e.op → s.pkeCheck h e = some 0x10)) ∧
    (∀ (w : PkeEntry) (rest : List PkeEntry), x.wipes = w :: rest → x.units = [] → w.op = 6 → ∃ t, exec (.wipe h) s = .next t ∧ (t.pke h).wipes = rest ∧ pkeWord s t h w = 1 ∧
      (∀ i : Nat, i < 63 → (t.pke h).slot i = if w.first ≤ i ∧ i ≤ w.last then {} else x.slot i) ∧ (∀ id : Nat, (t.pke h).curveOf id = if 3 ≤ id ∧ w.wipeCurves = true then none else x.curveOf id)) ∧
    (∀ (u : Fin 8) (r : PkeRun) (q n : Nat), x.unit u = some r → r.done = true → r.port = some (q, n) → (s.port q).exchange = n → r.entry.op ∈ (s.port q).work →
      (r.status = 0 → ∃ t, exec (.pkeOpComplete h u false) s = .next t ∧ (t.port q).work = (s.port q).work.erase r.entry.op ∧ t.host = s.host) ∧
      (∀ fault : Bool, fault = true ∨ r.status ≠ 0 → ∃ t, exec (.pkeOpComplete h u fault) s = .next t ∧ (t.port q).phase = 0 ∧ (t.port q).retryWait = true)) ∧
    (∀ (u : Fin 8) (r : PkeRun), calm → x.unit u = some r → r.done = true → r.port = none →
      (r.status = 0 → ∃ t, exec (.pkeOpComplete h u false) s = .next t ∧ (t.pke h).unit u = none ∧ pkeWord s t h r.entry = (if r.verdict then 3 else 1) ∧
        (∀ i v, r.writes = [(i, v)] → (t.pke h).slot i = v) ∧ (∀ id c, 3 ≤ id → r.curve = some (id, c) → (t.pke h).curveOf id = some c)) ∧
      (∀ fault : Bool, r.status < 65536 → (fault = true ∨ r.status ≠ 0) → ∃ t, exec (.pkeOpComplete h u fault) s = .next t ∧ (t.pke h).unit u = none ∧
        pkeWord s t h r.entry = 1 + (if fault then 0x54 else r.status) * 65536 ∧ ∀ i : Nat, (t.pke h).slot i = { x.slot i with valid := (x.slot i).valid && !r.entry.writes.contains i })) ∧
    (x.entropyOk = true → ∃ t, exec (.entropyHealthFail h) s = .next t ∧ (t.pke h).entropyOk = false ∧ Output.alarm (pkeUnit h 0) 0x14 0 ∈ t.out)

/-- R333 to R335, R338, R339: what the operations of a point unit compute. After a failure of the entropy source, those that need random data end with PKE_FAULT_DETECTED. The private key of KEYGEN lies in [1, n - 1] and its public key is dG; a signature
(r, s) has r = x(kG) mod n and s k = e + r d modulo the prime n; VERIFY compares x(u1 G + u2 Q) mod n with r; ECDH delivers the x coordinate of d Q; input values out of range, zero or off the curve are reported in the
order of R335; an accepted curve has the properties of R333. An operation of the runtime delivers no slot. The random draws are free values, and the bytes of a slot the model's own form (log entries 3 and 11); that a rejected CURVE_LOAD reports
0x51, 0x50 or 0x52 for the conditions that R335 names, ahead of the 0x53 of R333, is the model's choice (log entry 66). -/
def Obligations.PkeOperationsCompute : Prop :=
  (∀ (h : Fin 4) (u : Fin 8) (r : PkeRun) (s : State), (s.pke h).unit u = some r → r.done = false → r.port = none →
    let x := s.pke h
    let ends := fun (s : State) (r : PkeRun) => goes (s.updPke h (fun x => x.setUnit u (some { r with done := true })))
    let one := { s with fresh := s.fresh + 1 }
    (x.entropyOk = false → (r.entry.op = 1 → exec (.keygen h u) s = ends s { r with status := 0x54, starved := true }) ∧ (r.entry.op = 2 → exec (.sign h u) s = ends s { r with status := 0x54, starved := true }) ∧
      (r.entry.op = 4 → exec (.ecdh h u) s = ends s { r with status := 0x54, starved := true }) ∧ (r.entry.op = 5 → exec (.curveLoad h u) s = ends s { r with status := 0x54, starved := true })) ∧
    (∀ c : PkeCurve, x.entropyOk = true → r.params = some c →
      (r.entry.op = 1 → ∃ d, (2 ≤ c.n → 1 ≤ d ∧ d < c.n) ∧ ∀ qx qy, c.mul d (some (c.gx, c.gy)) = some (qx, qy) →
        exec (.keygen h u) s = ends one { r with writes := [(r.entry.out0, { value := d, valid := true, secret := true, exportable := r.entry.exportable }), (r.entry.out1, { value := qx + qy * 2 ^ 576, valid := true })] }) ∧
      (r.entry.op = 2 → Nat.Prime c.n → inputCode c [x.slot r.entry.in0] [] [] = none →
        ∃ k, 1 ≤ k ∧ k < c.n ∧ ∀ kx ky, c.mul k (some (c.gx, c.gy)) = some (kx, ky) →
          let a := kx % c.n
          ∃ b, b < c.n ∧ b * k % c.n = (digestInt c ((x.slot r.entry.in1).digest r.entry.hashLen) + a * (x.slot r.entry.in0).value) % c.n ∧
            (a ≠ 0 → b ≠ 0 → exec (.sign h u) s = ends one { r with writes := [(r.entry.out0, { value := a + b * 2 ^ 576, valid := true })] })) ∧
      (r.entry.op = 4 → let d := (x.slot r.entry.in0).value
        let q := x.slot r.entry.in1
        exec (.ecdh h u) s = if d ≥ c.n ∨ q.lo ≥ c.p ∨ q.hi ≥ c.p then ends s { r with status := 0x51 }
          else if d = 0 ∨ q.value = 0 then ends s { r with status := 0x50 }
          else if c.has q.lo q.hi = false then ends s { r with status := 0x52 }
          else match c.mul d (some (q.lo, q.hi)) with
            | none => ends s { r with status := 0x56 }
            | some (z, _) => ends s { r with writes := [(r.entry.out0, { value := z, valid := true, secret := true, exportable := r.entry.exportable })] })) ∧
    (∀ c : PkeCurve, r.params = some c → r.entry.op = 3 →
      let q := x.slot r.entry.in0
      let w := x.slot r.entry.in2
      (w.lo ≥ c.n ∨ w.hi ≥ c.n → exec (.verify h u) s = ends s { r with status := 0x51 }) ∧
      (inputCode c [] [w] [q] = none → exec (.verify h u) s =
        match ecdsaPoint c (q.lo, q.hi) (digestInt c ((x.slot r.entry.in1).digest r.entry.hashLen)) w.lo w.hi with
        | none => ends s { r with status := 0x56 }
        | some (px, _) => ends s { r with verdict := decide (px % c.n = w.lo) })) ∧
    (x.entropyOk = true → r.entry.op = 5 →
      let pa := x.slot r.entry.in0
      let bn := x.slot r.entry.in1
      let g := x.slot r.entry.in2
      let c : PkeCurve := { p := pa.lo, a := pa.hi, b := bn.lo, n := bn.hi, gx := g.lo, gy := g.hi }
      ∃ bases n, exec (.curveLoad h u) s = ends { s with fresh := s.fresh + n }
        (if c.p ≤ c.a ∨ c.p ≤ c.b ∨ c.p ≤ c.gx ∨ c.p ≤ c.gy then { r with status := 0x51 }
         else if c.gx = 0 ∧ c.gy = 0 then { r with status := 0x50 }
         else if c.has c.gx c.gy = false then { r with status := 0x52 }
         else if curveOk c bases then { r with curve := some (r.entry.curve, c) } else { r with status := 0x53 })) ∧
    (s.portUp h = true →
      (r.entry.op = 8 → exec (.slotLoad h u) s = ends s { r with writes := [(r.entry.out0,
        { value := leNat (s.readHost h r.entry.hostAddr 144), valid := true, secret := r.entry.secret, exportable := r.entry.exportable })] }) ∧
      (r.entry.op = 9 → exec (.slotStore h u) s = ends s { r with outBytes := leBytes 144 (x.slot r.entry.in0).value }))) ∧
  (∀ (h : Fin 4) (u : Fin 8) (r : PkeRun) (s : State), (s.pke h).unit u = some r → r.done = false → r.port ≠ none → (s.pke h).entropyOk = true →
    let ran := goes (s.updPke h (fun x => x.setUnit u (some { r with done := true })))
    (r.entry.op = 1 → exec (.keygen h u) s = ran) ∧ (r.entry.op = 2 → exec (.sign h u) s = ran) ∧ (r.entry.op = 3 → exec (.verify h u) s = ran) ∧ (r.entry.op = 4 → exec (.ecdh h u) s = ran)) ∧
  (∀ (c : PkeCurve) (bases : List Nat), curveOk c bases = true →
    2 ^ 159 ≤ c.p ∧ c.p < 2 ^ 576 ∧ c.a < c.p ∧ c.b < c.p ∧ c.gx < c.p ∧ c.gy < c.p ∧ (4 * c.a ^ 3 + 27 * c.b ^ 2) % c.p ≠ 0 ∧ c.gy ^ 2 % c.p = (c.gx ^ 3 + c.a * c.gx + c.b) % c.p ∧
    ((c.n : Int) - (c.p + 1)) ^ 2 ≤ 4 * c.p ∧ c.n ≠ c.p ∧ c.mul c.n (some (c.gx, c.gy)) = none)

/-- R347 to R349, R351: the SPDM responder of a port. A request in its order has its effect and an accepted response; one out of its order is answered with an error and changes nothing. Certificates are given only outside Manufacturing, and by a hank die that has them; what is signed or exchanged needs the entropy source; measurement 4 is
lifecycle and grade. A session opens with KEY_EXCHANGE, is established by FINISH and ends with END_SESSION; IDE keys are written only inside an established session. That a request needs the ones before it is the model's reading of SPDM 1.3 (log entry 14). -/
def Obligations.SpdmAnswersInOrder : Prop :=
  ∀ (h : Fin 4) (s : State), s.Inv → s.spdmOpen h = true →
    let x := s.spdm h
    let error := goes (s.emit (.spdm h false []))
    let sets := fun (c : Instr) (d : List Nat) (y : Spdm) => ∃ t, exec c s = .next t ∧ t.spdm h = y ∧ t.out = s.out ++ [.spdm h true d] ∧ t.mem = s.mem ∧ t.regs = s.regs ∧ t.parts = s.parts ∧
      (t.hank h).ideLink = (s.hank h).ideLink
    let ready := x.version = true ∧ x.capabilities = true ∧ x.algorithms = true
    let chain := s.attested = true ∧ s.identityCert = true ∧ (s.hank h).aliasCert ≠ none ∧ s.lifecycle ≠ .manufacturing
    let signs := chain ∧ (s.pke h).entropyOk = true
    sets (.getVersion h) [0x13] { version := true } ∧
    (x.version = true → sets (.getCapabilities h) [] { x with capabilities := true }) ∧ (x.version = false → exec (.getCapabilities h) s = error) ∧
    (x.version = true → x.capabilities = true → sets (.negotiateAlgorithms h) [384, 384, 384, 256] { x with algorithms := true }) ∧ (x.capabilities = false → exec (.negotiateAlgorithms h) s = error) ∧
    (ready → chain → (∃ d, sets (.getDigests h) [d] x) ∧ ∃ d, sets (.getCertificate h) [d] x) ∧
    (ready → signs → (∃ d, sets (.challenge h) [d] x) ∧ ∃ d, sets (.keyExchange h) [d] { x with session := true, established := false, keyGen := 0 }) ∧
    (¬ (ready ∧ chain) → exec (.getDigests h) s = error ∧ exec (.getCertificate h) s = error) ∧
    (¬ (ready ∧ signs) → exec (.challenge h) s = error ∧ exec (.keyExchange h) s = error) ∧
    (ready → sets (.getMeasurements h 4) [Lifecycle.code s.lifecycle * 256 + s.grade] x ∧ (∃ a b c e, sets (.getMeasurements h 0xFF) [a, b, c, Lifecycle.code s.lifecycle * 256 + s.grade, e] x) ∧
      ∀ n, n = 0 ∨ (5 < n ∧ n ≠ 0xFF) → exec (.getMeasurements h n) s = error) ∧
    (x.session = true → sets (.finish h true) [] { x with established := true } ∧
      ∃ t, exec (.finish h false) s = .next t ∧ t.spdm h = { x with session := false, established := false } ∧ t.out = s.out ++ [.spdm h false []]) ∧
    (x.session = false → ∀ ok, exec (.finish h ok) s = error) ∧
    (x.established = true → sets (.keyUpdate h) [] { x with keyGen := x.keyGen + 1 } ∧ sets (.heartbeat h) [] x ∧ sets (.endSession h) [] { x with session := false, established := false, keyGen := 0 }) ∧
    (x.established = false → exec (.keyUpdate h) s = error ∧ exec (.heartbeat h) s = error ∧ exec (.endSession h) s = error) ∧
    (∀ key : BitVec 256,
      (x.established = true → s.lifecycle = .provisioned ∨ s.lifecycle = .deployed →
        exec (.ideKeyProgram h .link key) s = .next (s.updHank h (fun k => { k with ideLink := some key.toNat })) ∧
        ∀ i : Fin 8, exec (.ideKeyProgram h (.selective i) key) s = .next (s.updHank h (fun k => { k with ideSel := Tab.set (fun _ => none) k.ideSel i (some key.toNat) }))) ∧
      (x.established = false ∨ s.lifecycle = .manufacturing ∨ s.lifecycle = .returned → ∀ i, exec (.ideKeyProgram h i key) s = .next s))

/-! ### Links between modules -/

/-- R351, R408, R409, R412: the phases of a Quolyn port. A write of QL_NODE takes LINKS and PORT_EN, and MODULE_ID only while every port is in phase 0; each port in phase 0 that it permits on a Deployed module begins training. Training with all 8 lanes leads to phase 2, a
hello between Deployed modules of different numbers to phase 3, where the operations of R350 are to be done, the end of securing to phase 4 with keys of its own and the sequence numbers anew. A MODULE_ID that the store brought while a port was up is taken by the next bring-up (R431; that it is then the number of all ports is the model's choice, log entry 132). A failed phase leads to phase 0 and a
retry 1 s later, lost lanes lead there with event 0x33, a takedown without a retry. The PHY seeds found
in training are written to the store (R431). How keys come from the exchanged value (log entry 11) and that an established link that loses its lanes is retried as a failed phase is (log entry 65) are the model's choices. -/
def Obligations.LinksComeUp : Prop :=
  ∀ s : State, s.Inv →
    (∀ x : BitVec 32, s.answers = true →
      let free := ∀ q : Nat, q < 8 → (s.port q).phase = 0
      ∃ t, exec (.qlNodeWrite x) s = .next t ∧ bit (t.reg (.glob .qlNode)) 31 = bit x 31 ∧ bits (t.reg (.glob .qlNode)) 23 16 = bits x 23 16 ∧
        (free → bits (t.reg (.glob .qlNode)) 10 0 = bits x 10 0) ∧ (¬ free → s.mgmt.idDue = none → bits (t.reg (.glob .qlNode)) 10 0 = bits (s.reg (.glob .qlNode)) 10 0) ∧
        (¬ free → ∀ v, s.mgmt.idDue = some v → (∃ q : Nat, q < 8 ∧ t.port q ≠ s.port q) → bits (t.reg (.glob .qlNode)) 10 0 = v.toNat) ∧ t.mem = s.mem ∧
        ∀ q : Nat, q < 8 →
          ((s.port q).phase = 0 → bit x 31 = true → bit x (16 + q) = true → s.power.state = .m0 → s.lifecycle = .deployed → s.hasChain (q / 2) = true → s.grade ≠ 2 →
            (s.hank (q / 2)).running = true → (s.port q).retryWait = false → (t.port q).phase = 1) ∧
          ((s.port q).phase ≠ 0 ∨ (s.port q).retryWait = true ∨ bit x 31 = false ∨ bit x (16 + q) = false ∨ s.lifecycle ≠ .deployed ∨ s.grade = 2 → t.port q = s.port q)) ∧
    (∀ q : Fin 8,
      let p := s.port q
      let down := fun (c : Instr) (retry : Bool) => ∃ t, exec c s = .next t ∧ (t.port q).phase = 0 ∧ (t.port q).retryWait = retry ∧ (t.port q).sent = [] ∧ (t.port q).queue = [] ∧ t.mem = s.mem
      let lost := fun (c : Instr) (reason : BitVec 32) => ∃ t, exec c s = .next t ∧ (t.port q).phase = 0 ∧ (t.port q).retryWait = true ∧ Output.alarm (quolynUnit q) 0x33 reason ∈ t.out
      (∀ lanes : Nat, p.phase = 1 →
        (8 ≤ lanes → ∃ t, exec (.qlTrainingDone q lanes) s = .next t ∧ t.port q = { p with phase := 2 } ∧ t.mem = s.mem ∧ t.jobs = s.jobs ∧
          (s.storeBusy = none → ∃ v, t.storeBusy = some { job := .field 0x03 (.opaqueField v), answer := none })) ∧ (lanes < 8 → lost (.qlTrainingDone q lanes) 1)) ∧
      (∀ (peer : BitVec 11) (l : Lifecycle), p.phase = 2 →
        (s.lifecycle = .deployed → l = .deployed → peer.toNat ≠ s.moduleId → ∃ t, exec (.qlHello q peer l) s = .next t ∧ (t.port q).phase = 3 ∧ (t.port q).peer = peer.toNat ∧
          (t.port q).work = [1, 3, 3, 3, 2, 4] ∧ t.mem = s.mem) ∧
        (s.lifecycle ≠ .deployed ∨ l ≠ .deployed ∨ peer.toNat = s.moduleId → down (.qlHello q peer l) true)) ∧
      (p.phase = 3 → s.exchangeOk q = true → ∃ t z, exec (.qlSecureDone q) s = .next t ∧ t.mem = s.mem ∧ t.port q = {
          phase := 4, peer := p.peer, probeSeq := p.probeSeq, exchange := p.exchange
          keyOut := Config.derived z 1, saltOut := Config.derived z 2, keyIn := Config.derived z 3, saltIn := Config.derived z 4 }) ∧
      (p.phase = 3 → s.exchangeOk q = false → down (.qlSecureDone q) true) ∧
      (1 ≤ p.phase → p.phase ≤ 3 → down (.qlPhaseTimeout q) true) ∧
      (p.retryWait = true → s.linkAllowed q = true → p.phase = 0 → exec (.qlRetryTimer q) s = .next (s.takeId.updPort q (fun x => { x with phase := 1, retryWait := false }))) ∧
      (1 ≤ p.phase → p.phase ≤ 4 → lost (.qlLaneLoss q) 1) ∧
      (0 < p.phase → s.linkWanted q = false → down (.qlPortTakedown q) false))

/-- A frame that port `q` can accept, and what it carries in clear: the link is up, FEC, epoch and tag are good under the incoming key, no frame of the port waits or is unacknowledged. -/
def arrives (s : State) (q : Fin 8) (ty : BitVec 4) (f g : Frame) : Prop :=
  s.Inv ∧ s.linkUp q = true ∧ f.ty = ty ∧ (s.port q).clear f = some g ∧ (s.port q).queue = [] ∧ (s.port q).through = [] ∧ (s.port q).sent = []

/-- R410 to R416, R419: frames. A frame next in order for this module is written where its span entry and the partition's translation take it, and nowhere else; one that no entry takes, that is out of order or that fails its checks changes no memory.
A failed frame is answered with a NAK, unless it is a probe; the 16th tag failure within a second takes the link down. A frame for another module goes on with HOPS reduced, or waits while 512 frames are unacknowledged; one with
HOPS 0 is dropped. An incoming frame is checked and decrypted under the key and the salt of its epoch and the count of the frames that have arrived under it (R410). A NAK resends what is unacknowledged, an eighth send without acknowledgement
loses the link, and acknowledged frames are forgotten. Probes are outside the sequence; a rekey inverts the epoch and changes the keys. After 2^40 frames under one key, probes and frames sent again among them, the module starts a rekey itself (R412). That a good frame out of order is dropped
without a NAK (log entry 64), what waits at 512 unacknowledged frames (63, 99), the work list of a rekey (105), the keys from the exchanged value (11) and the retry of a lost link (65) are the model's choices. -/
def Obligations.FramesAreDelivered : Prop :=
  ∀ (q : Fin 8) (f g : Frame) (s : State),
    let p := s.port q
    let v := s.span (pIdx f.destSpan.toNat)
    let next := f.seq.toNat = p.nextExpect
    let moved := fun (t : State) => (t.port q).nextExpect = (p.nextExpect + 1) % 65536
    let sends := fun (t : State) (r : Nat) (g : Frame → Prop) => ∃ k w, Output.frame r k w ∈ t.out ∧ g k
    let lost := fun (c : Instr) (event : BitVec 8) (reason : BitVec 32) => ∃ t, exec c s = .next t ∧ (t.port q).phase = 0 ∧ (t.port q).retryWait = true ∧ Output.alarm (quolynUnit q) event reason ∈ t.out
    (arrives s q 1 f g →
      (next → f.dest.toNat = s.moduleId → s.spanTakes f (f.lines.toNat + 1) = true →
        ∀ ps, s.xlateWrite v.part (v.base + 64 * f.offset.toNat) ((leBytes 256 g.payload.toNat).take (64 * (f.lines.toNat + 1))) .read = .ok ps →
          ∃ t, exec (.dataFrame q f) s = .next t ∧ moved t ∧ t.mem = (ps.foldl (fun s (pa, b) => s.storePhys pa b) s).mem) ∧
      (next → f.dest.toNat = s.moduleId → s.spanTakes f (f.lines.toNat + 1) = false → ∃ t, exec (.dataFrame q f) s = .next t ∧ moved t ∧ t.mem = s.mem) ∧
      (¬ next → ∃ t, exec (.dataFrame q f) s = .next t ∧ (t.port q).nextExpect = p.nextExpect ∧ t.mem = s.mem ∧ t.out = s.out) ∧
      (next → f.dest.toNat ≠ s.moduleId → f.hops = 0 → ∃ t, exec (.dataFrame q f) s = .next t ∧ moved t ∧ t.mem = s.mem) ∧
      (∀ r, next → f.dest.toNat ≠ s.moduleId → f.hops ≠ 0 → s.route f.dest.toNat = some r → (s.port r).calm = true → (s.port r).sent.length < 512 →
        ∃ t, exec (.dataFrame q f) s = .next t ∧ t.mem = s.mem ∧ sends t r (fun k => k.hops = f.hops - 1 ∧ k.dest = f.dest ∧ k.src = f.src ∧ k.payload = g.payload ∧ k.offset = f.offset)) ∧
      (∀ r, next → f.dest.toNat ≠ s.moduleId → f.hops ≠ 0 → s.route f.dest.toNat = some r → 512 ≤ (s.port r).sent.length →
        ∃ t, exec (.dataFrame q f) s = .next t ∧ t.mem = s.mem ∧ t.out = s.out ∧ (t.port r).through = (s.port r).through ++ [{ g with hops := f.hops - 1 }])) ∧
    (arrives s q 2 f g → next → f.dest.toNat = s.moduleId →
      let w := nbits g.payload.toNat 71 64
      (s.spanTakes f 1 = true → w < 8 → ∀ ps, s.xlateWrite v.part (v.base + (64 * f.offset.toNat + 8 * w)) (leBytes 8 g.payload.toNat) .read = .ok ps →
        ∃ t, exec (.signalFrame q f) s = .next t ∧ moved t ∧ t.mem = (ps.foldl (fun s (pa, b) => s.storePhys pa b) s).mem) ∧
      (s.spanTakes f 1 = false → ∃ t, exec (.signalFrame q f) s = .next t ∧ moved t ∧ t.mem = s.mem)) ∧
    (s.Inv → s.linkUp q = true → f.ty = 1 → p.clear f = none →
      let times := p.tagFailAt.filter (fun t => decide ((s.clock.toNat : Int) - t < 1200000000))
      (times.length < 15 → ∃ t, exec (.dataFrame q f) s = .next t ∧ t.mem = s.mem ∧ (t.port q).nextExpect = p.nextExpect ∧ sends t q (fun k => k.ty = 4 ∧ k.offset = 1 ∧ k.ack.toNat = (p.nextExpect + 65535) % 65536)) ∧
      (f.fecOk = true → 15 ≤ times.length → lost (.dataFrame q f) 0x34 16)) ∧
    (s.Inv → s.linkUp q = true → f.ty = 4 → p.clear f = some g → next → p.calm = true → ∀ x rest, p.sent = x :: rest →
      (f.offset.getLsbD 0 = false → ∀ n, n ≤ p.sent.length → (f.ack.toNat + 1) % 65536 = (x.frame.seq.toNat + n) % 65536 → p.sent.length ≤ 512 →
        ∃ t, exec (.controlFrame q f) s = .next t ∧ moved t ∧ (t.port q).sent = p.sent.drop n ∧ t.mem = s.mem) ∧
      (f.offset.getLsbD 0 = true → (f.ack.toNat + 1) % 65536 = x.frame.seq.toNat →
        ((∀ y ∈ p.sent, y.sends < 8) → (p.framesOut + p.sent.length < 2 ^ 40 ∨ p.rekey = true) → ∃ t, exec (.controlFrame q f) s = .next t ∧ moved t ∧ (t.port q).sent = p.sent.map (fun y => { y with sends := y.sends + 1 }) ∧ t.mem = s.mem ∧
          ∀ y ∈ p.sent, sends t q (fun k => k.seq = y.frame.seq ∧ k.payload = y.frame.payload)) ∧
        ((∃ y ∈ p.sent, 8 ≤ y.sends) → lost (.controlFrame q f) 0x33 0))) ∧
    (arrives s q 3 f g → ∃ t, exec (.probeFrame q f) s = .next t ∧ (t.port q).nextExpect = p.nextExpect ∧ t.mem = s.mem) ∧
    (arrives s q 5 f g → next → p.rekey = false → ∃ t, exec (.keyExchangeFrame q f) s = .next t ∧ moved t ∧ (t.port q).rekey = true ∧ (t.port q).work = [1, 2, 3, 4] ∧ sends t q (fun k => k.ty = 5)) ∧
    (s.Inv → s.linkUp q = true →
      (∃ t, exec (.qlControlTimer q) s = .next t ∧ (p.framesOut + 1 < 2 ^ 40 ∨ p.rekey = true → (t.port q).nextSend = (p.nextSend + 1) % 65536) ∧
        (2 ^ 40 ≤ p.framesOut + 1 → p.rekey = false → (t.port q).rekey = true ∧ (t.port q).work = [1, 2, 3, 4] ∧ sends t q (fun k => k.ty = 5)) ∧ (t.port q).sent.length ≤ 512 ∧ sends t q (fun k => k.ty = 4 ∧ k.offset = 0 ∧ k.seq = BitVec.ofNat 16 p.nextSend)) ∧
      (∃ t, exec (.qlProbeSend q) s = .next t ∧ (p.framesOut + 1 < 2 ^ 40 ∨ p.rekey = true → (t.port q).nextSend = p.nextSend ∧ (t.port q).sent = p.sent) ∧
        (2 ^ 40 ≤ p.framesOut + 1 → p.rekey = false → (t.port q).rekey = true ∧ (t.port q).work = [1, 2, 3, 4] ∧ sends t q (fun k => k.ty = 5)) ∧ (t.port q).probeSeq = (p.probeSeq + 1) % 2 ^ 32 ∧
        sends t q (fun k => k.ty = 3 ∧ k.offset = BitVec.ofNat 32 p.probeSeq)) ∧
      (p.rekey = false → ∃ t, exec (.qlRekeyStart q) s = .next t ∧ (t.port q).rekey = true ∧ (t.port q).work = [1, 2, 3, 4] ∧ sends t q (fun k => k.ty = 5)) ∧
      (p.rekey = true → (s.exchangeOk q = true → ∃ t z, exec (.qlRekeyComplete q true) s = .next t ∧ (t.port q).epochOut = (!p.epochOut) ∧ (t.port q).bothKeys = true ∧ (t.port q).rekey = false ∧
          (t.port q).keyOut = Config.derived z 1 ∧ (t.port q).keyNew = Config.derived z 3 ∧ (t.port q).keyIn = p.keyIn ∧ t.mem = s.mem) ∧
        (s.exchangeOk q = false → lost (.qlRekeyComplete q true) 0x33 2) ∧
        lost (.qlRekeyComplete q false) 0x33 2)) ∧
    (∀ x : BitVec 32, s.answers = true → bit x 31 = true → s.commitPending (.span (pIdx (bits x 5 0))) = false →
      exec (.spanCommit x) s = .next (s.startCommit (.span (pIdx (bits x 5 0))) (spanRegs (pIdx (bits x 5 0)))))

/-! ### The whole machine -/

/-- Every step keeps the canonical form of the memories, the register file and the numbered parts (R226, R435 to R450): whatever the command, a byte that has been written reads back as written, and equal contents are equal states. -/
def Obligations.StepKeepsInv : Prop := ∀ s t : State, s.Inv → step s = .next t → t.Inv

/-- Every command, whatever its operands, completes in every state, and so does every step: no command ends the machine, its faults are statuses, records and alarms (R278, R366). None changes the fuses of grade and serial number (R2, R327),
takes back what the module has sent, or uses a free value twice. -/
def Obligations.StepKeepsFuses : Prop := ∀ s : State, (∃ t, step s = .next t ∧ s.Kept t) ∧ ∀ c : Instr, ∃ t, exec c s = .next t ∧ s.Kept t
end

