-- ==== Sys2Proof/Laws/State.lean ====
section
/-! SUPPORT. What each update of the state leaves alone: one lemma for each field and each update, true by definition, and the same for what is read through an accessor. -/
namespace Sys2Proof.Machine

variable (s : State)


/-! ### setPart -/

@[simp] theorem setPart_clock (p : Nat) (x : Part) : (s.setPart p x).clock = s.clock := rfl
@[simp] theorem setPart_counting (p : Nat) (x : Part) : (s.setPart p x).counting = s.counting := rfl
@[simp] theorem setPart_regs (p : Nat) (x : Part) : (s.setPart p x).regs = s.regs := rfl
@[simp] theorem setPart_active (p : Nat) (x : Part) : (s.setPart p x).active = s.active := rfl
@[simp] theorem setPart_msix (p : Nat) (x : Part) : (s.setPart p x).msix = s.msix := rfl
@[simp] theorem setPart_msixPending (p : Nat) (x : Part) : (s.setPart p x).msixPending = s.msixPending := rfl
@[simp] theorem setPart_mem (p : Nat) (x : Part) : (s.setPart p x).mem = s.mem := rfl
@[simp] theorem setPart_memBad (p : Nat) (x : Part) : (s.setPart p x).memBad = s.memBad := rfl
@[simp] theorem setPart_reservations (p : Nat) (x : Part) : (s.setPart p x).reservations = s.reservations := rfl
@[simp] theorem setPart_host (p : Nat) (x : Part) : (s.setPart p x).host = s.host := rfl
@[simp] theorem setPart_hanks (p : Nat) (x : Part) : (s.setPart p x).hanks = s.hanks := rfl
@[simp] theorem setPart_sites (p : Nat) (x : Part) : (s.setPart p x).sites = s.sites := rfl
@[simp] theorem setPart_tiles (p : Nat) (x : Part) : (s.setPart p x).tiles = s.tiles := rfl
@[simp] theorem setPart_ports (p : Nat) (x : Part) : (s.setPart p x).ports = s.ports := rfl
@[simp] theorem setPart_routes (p : Nat) (x : Part) : (s.setPart p x).routes = s.routes := rfl
@[simp] theorem setPart_jobs (p : Nat) (x : Part) : (s.setPart p x).jobs = s.jobs := rfl
@[simp] theorem setPart_nextJob (p : Nat) (x : Part) : (s.setPart p x).nextJob = s.nextJob := rfl
@[simp] theorem setPart_commits (p : Nat) (x : Part) : (s.setPart p x).commits = s.commits := rfl
@[simp] theorem setPart_partCmd (p : Nat) (x : Part) : (s.setPart p x).partCmd = s.partCmd := rfl
@[simp] theorem setPart_retireQueue (p : Nat) (x : Part) : (s.setPart p x).retireQueue = s.retireQueue := rfl
@[simp] theorem setPart_retiring (p : Nat) (x : Part) : (s.setPart p x).retiring = s.retiring := rfl
@[simp] theorem setPart_retirements (p : Nat) (x : Part) : (s.setPart p x).retirements = s.retirements := rfl
@[simp] theorem setPart_service (p : Nat) (x : Part) : (s.setPart p x).service = s.service := rfl
@[simp] theorem setPart_fabric (p : Nat) (x : Part) : (s.setPart p x).fabric = s.fabric := rfl
@[simp] theorem setPart_segFault (p : Nat) (x : Part) : (s.setPart p x).segFault = s.segFault := rfl
@[simp] theorem setPart_colFenced (p : Nat) (x : Part) : (s.setPart p x).colFenced = s.colFenced := rfl
@[simp] theorem setPart_power (p : Nat) (x : Part) : (s.setPart p x).power = s.power := rfl
@[simp] theorem setPart_mgmt (p : Nat) (x : Part) : (s.setPart p x).mgmt = s.mgmt := rfl
@[simp] theorem setPart_lifecycle (p : Nat) (x : Part) : (s.setPart p x).lifecycle = s.lifecycle := rfl
@[simp] theorem setPart_grade (p : Nat) (x : Part) : (s.setPart p x).grade = s.grade := rfl
@[simp] theorem setPart_store (p : Nat) (x : Part) : (s.setPart p x).store = s.store := rfl
@[simp] theorem setPart_storeBusy (p : Nat) (x : Part) : (s.setPart p x).storeBusy = s.storeBusy := rfl
@[simp] theorem setPart_storeQueue (p : Nat) (x : Part) : (s.setPart p x).storeQueue = s.storeQueue := rfl
@[simp] theorem setPart_serial (p : Nat) (x : Part) : (s.setPart p x).serial = s.serial := rfl
@[simp] theorem setPart_replayKey (p : Nat) (x : Part) : (s.setPart p x).replayKey = s.replayKey := rfl
@[simp] theorem setPart_attested (p : Nat) (x : Part) : (s.setPart p x).attested = s.attested := rfl
@[simp] theorem setPart_identityCert (p : Nat) (x : Part) : (s.setPart p x).identityCert = s.identityCert := rfl
@[simp] theorem setPart_slots (p : Nat) (x : Part) : (s.setPart p x).slots = s.slots := rfl
@[simp] theorem setPart_fresh (p : Nat) (x : Part) : (s.setPart p x).fresh = s.fresh := rfl
@[simp] theorem setPart_out (p : Nat) (x : Part) : (s.setPart p x).out = s.out := rfl
@[simp] theorem setPart_pending (p : Nat) (x : Part) : (s.setPart p x).pending = s.pending := rfl
@[simp] theorem setPart_tile_get (p : Nat) (x : Part) (i : Nat) : (s.setPart p x).tile i = s.tile i := rfl
@[simp] theorem setPart_site_get (p : Nat) (x : Part) (i : Nat) : (s.setPart p x).site i = s.site i := rfl
@[simp] theorem setPart_hank_get (p : Nat) (x : Part) (i : Nat) : (s.setPart p x).hank i = s.hank i := rfl
@[simp] theorem setPart_port_get (p : Nat) (x : Part) (i : Nat) : (s.setPart p x).port i = s.port i := rfl
@[simp] theorem setPart_reg_get (p : Nat) (x : Part) (i : Reg) : (s.setPart p x).reg i = s.reg i := rfl
@[simp] theorem setPart_act_get (p : Nat) (x : Part) (i : Reg) : (s.setPart p x).act i = s.act i := rfl
@[simp] theorem setPart_byte_get (p : Nat) (x : Part) (i : Nat) : (s.setPart p x).byte i = s.byte i := rfl
@[simp] theorem setPart_op_find (p : Nat) (x : Part) (i : OpRef) : (s.setPart p x).op? i = s.op? i := rfl
@[simp] theorem setPart_answers_get (p : Nat) (x : Part) : (s.setPart p x).answers = s.answers := rfl
@[simp] theorem setPart_powered_get (p : Nat) (x : Part) : (s.setPart p x).powered = s.powered := rfl

/-! ### updPart -/

@[simp] theorem updPart_clock (p : Nat) (f : Part → Part) : (s.updPart p f).clock = s.clock := rfl
@[simp] theorem updPart_counting (p : Nat) (f : Part → Part) : (s.updPart p f).counting = s.counting := rfl
@[simp] theorem updPart_regs (p : Nat) (f : Part → Part) : (s.updPart p f).regs = s.regs := rfl
@[simp] theorem updPart_active (p : Nat) (f : Part → Part) : (s.updPart p f).active = s.active := rfl
@[simp] theorem updPart_msix (p : Nat) (f : Part → Part) : (s.updPart p f).msix = s.msix := rfl
@[simp] theorem updPart_msixPending (p : Nat) (f : Part → Part) : (s.updPart p f).msixPending = s.msixPending := rfl
@[simp] theorem updPart_mem (p : Nat) (f : Part → Part) : (s.updPart p f).mem = s.mem := rfl
@[simp] theorem updPart_memBad (p : Nat) (f : Part → Part) : (s.updPart p f).memBad = s.memBad := rfl
@[simp] theorem updPart_reservations (p : Nat) (f : Part → Part) : (s.updPart p f).reservations = s.reservations := rfl
@[simp] theorem updPart_host (p : Nat) (f : Part → Part) : (s.updPart p f).host = s.host := rfl
@[simp] theorem updPart_hanks (p : Nat) (f : Part → Part) : (s.updPart p f).hanks = s.hanks := rfl
@[simp] theorem updPart_sites (p : Nat) (f : Part → Part) : (s.updPart p f).sites = s.sites := rfl
@[simp] theorem updPart_tiles (p : Nat) (f : Part → Part) : (s.updPart p f).tiles = s.tiles := rfl
@[simp] theorem updPart_ports (p : Nat) (f : Part → Part) : (s.updPart p f).ports = s.ports := rfl
@[simp] theorem updPart_routes (p : Nat) (f : Part → Part) : (s.updPart p f).routes = s.routes := rfl
@[simp] theorem updPart_jobs (p : Nat) (f : Part → Part) : (s.updPart p f).jobs = s.jobs := rfl
@[simp] theorem updPart_nextJob (p : Nat) (f : Part → Part) : (s.updPart p f).nextJob = s.nextJob := rfl
@[simp] theorem updPart_commits (p : Nat) (f : Part → Part) : (s.updPart p f).commits = s.commits := rfl
@[simp] theorem updPart_partCmd (p : Nat) (f : Part → Part) : (s.updPart p f).partCmd = s.partCmd := rfl
@[simp] theorem updPart_retireQueue (p : Nat) (f : Part → Part) : (s.updPart p f).retireQueue = s.retireQueue := rfl
@[simp] theorem updPart_retiring (p : Nat) (f : Part → Part) : (s.updPart p f).retiring = s.retiring := rfl
@[simp] theorem updPart_retirements (p : Nat) (f : Part → Part) : (s.updPart p f).retirements = s.retirements := rfl
@[simp] theorem updPart_service (p : Nat) (f : Part → Part) : (s.updPart p f).service = s.service := rfl
@[simp] theorem updPart_fabric (p : Nat) (f : Part → Part) : (s.updPart p f).fabric = s.fabric := rfl
@[simp] theorem updPart_segFault (p : Nat) (f : Part → Part) : (s.updPart p f).segFault = s.segFault := rfl
@[simp] theorem updPart_colFenced (p : Nat) (f : Part → Part) : (s.updPart p f).colFenced = s.colFenced := rfl
@[simp] theorem updPart_power (p : Nat) (f : Part → Part) : (s.updPart p f).power = s.power := rfl
@[simp] theorem updPart_mgmt (p : Nat) (f : Part → Part) : (s.updPart p f).mgmt = s.mgmt := rfl
@[simp] theorem updPart_lifecycle (p : Nat) (f : Part → Part) : (s.updPart p f).lifecycle = s.lifecycle := rfl
@[simp] theorem updPart_grade (p : Nat) (f : Part → Part) : (s.updPart p f).grade = s.grade := rfl
@[simp] theorem updPart_store (p : Nat) (f : Part → Part) : (s.updPart p f).store = s.store := rfl
@[simp] theorem updPart_storeBusy (p : Nat) (f : Part → Part) : (s.updPart p f).storeBusy = s.storeBusy := rfl
@[simp] theorem updPart_storeQueue (p : Nat) (f : Part → Part) : (s.updPart p f).storeQueue = s.storeQueue := rfl
@[simp] theorem updPart_serial (p : Nat) (f : Part → Part) : (s.updPart p f).serial = s.serial := rfl
@[simp] theorem updPart_replayKey (p : Nat) (f : Part → Part) : (s.updPart p f).replayKey = s.replayKey := rfl
@[simp] theorem updPart_attested (p : Nat) (f : Part → Part) : (s.updPart p f).attested = s.attested := rfl
@[simp] theorem updPart_identityCert (p : Nat) (f : Part → Part) : (s.updPart p f).identityCert = s.identityCert := rfl
@[simp] theorem updPart_slots (p : Nat) (f : Part → Part) : (s.updPart p f).slots = s.slots := rfl
@[simp] theorem updPart_fresh (p : Nat) (f : Part → Part) : (s.updPart p f).fresh = s.fresh := rfl
@[simp] theorem updPart_out (p : Nat) (f : Part → Part) : (s.updPart p f).out = s.out := rfl
@[simp] theorem updPart_pending (p : Nat) (f : Part → Part) : (s.updPart p f).pending = s.pending := rfl
@[simp] theorem updPart_tile_get (p : Nat) (f : Part → Part) (i : Nat) : (s.updPart p f).tile i = s.tile i := rfl
@[simp] theorem updPart_site_get (p : Nat) (f : Part → Part) (i : Nat) : (s.updPart p f).site i = s.site i := rfl
@[simp] theorem updPart_hank_get (p : Nat) (f : Part → Part) (i : Nat) : (s.updPart p f).hank i = s.hank i := rfl
@[simp] theorem updPart_port_get (p : Nat) (f : Part → Part) (i : Nat) : (s.updPart p f).port i = s.port i := rfl
@[simp] theorem updPart_reg_get (p : Nat) (f : Part → Part) (i : Reg) : (s.updPart p f).reg i = s.reg i := rfl
@[simp] theorem updPart_act_get (p : Nat) (f : Part → Part) (i : Reg) : (s.updPart p f).act i = s.act i := rfl
@[simp] theorem updPart_byte_get (p : Nat) (f : Part → Part) (i : Nat) : (s.updPart p f).byte i = s.byte i := rfl
@[simp] theorem updPart_op_find (p : Nat) (f : Part → Part) (i : OpRef) : (s.updPart p f).op? i = s.op? i := rfl
@[simp] theorem updPart_answers_get (p : Nat) (f : Part → Part) : (s.updPart p f).answers = s.answers := rfl
@[simp] theorem updPart_powered_get (p : Nat) (f : Part → Part) : (s.updPart p f).powered = s.powered := rfl

/-! ### countBy -/

@[simp] theorem countBy_clock (p n k : Nat) : (s.countBy p n k).clock = s.clock := rfl
@[simp] theorem countBy_counting (p n k : Nat) : (s.countBy p n k).counting = s.counting := rfl
@[simp] theorem countBy_regs (p n k : Nat) : (s.countBy p n k).regs = s.regs := rfl
@[simp] theorem countBy_active (p n k : Nat) : (s.countBy p n k).active = s.active := rfl
@[simp] theorem countBy_msix (p n k : Nat) : (s.countBy p n k).msix = s.msix := rfl
@[simp] theorem countBy_msixPending (p n k : Nat) : (s.countBy p n k).msixPending = s.msixPending := rfl
@[simp] theorem countBy_mem (p n k : Nat) : (s.countBy p n k).mem = s.mem := rfl
@[simp] theorem countBy_memBad (p n k : Nat) : (s.countBy p n k).memBad = s.memBad := rfl
@[simp] theorem countBy_reservations (p n k : Nat) : (s.countBy p n k).reservations = s.reservations := rfl
@[simp] theorem countBy_host (p n k : Nat) : (s.countBy p n k).host = s.host := rfl
@[simp] theorem countBy_hanks (p n k : Nat) : (s.countBy p n k).hanks = s.hanks := rfl
@[simp] theorem countBy_sites (p n k : Nat) : (s.countBy p n k).sites = s.sites := rfl
@[simp] theorem countBy_tiles (p n k : Nat) : (s.countBy p n k).tiles = s.tiles := rfl
@[simp] theorem countBy_ports (p n k : Nat) : (s.countBy p n k).ports = s.ports := rfl
@[simp] theorem countBy_routes (p n k : Nat) : (s.countBy p n k).routes = s.routes := rfl
@[simp] theorem countBy_jobs (p n k : Nat) : (s.countBy p n k).jobs = s.jobs := rfl
@[simp] theorem countBy_nextJob (p n k : Nat) : (s.countBy p n k).nextJob = s.nextJob := rfl
@[simp] theorem countBy_commits (p n k : Nat) : (s.countBy p n k).commits = s.commits := rfl
@[simp] theorem countBy_partCmd (p n k : Nat) : (s.countBy p n k).partCmd = s.partCmd := rfl
@[simp] theorem countBy_retireQueue (p n k : Nat) : (s.countBy p n k).retireQueue = s.retireQueue := rfl
@[simp] theorem countBy_retiring (p n k : Nat) : (s.countBy p n k).retiring = s.retiring := rfl
@[simp] theorem countBy_retirements (p n k : Nat) : (s.countBy p n k).retirements = s.retirements := rfl
@[simp] theorem countBy_service (p n k : Nat) : (s.countBy p n k).service = s.service := rfl
@[simp] theorem countBy_fabric (p n k : Nat) : (s.countBy p n k).fabric = s.fabric := rfl
@[simp] theorem countBy_segFault (p n k : Nat) : (s.countBy p n k).segFault = s.segFault := rfl
@[simp] theorem countBy_colFenced (p n k : Nat) : (s.countBy p n k).colFenced = s.colFenced := rfl
@[simp] theorem countBy_power (p n k : Nat) : (s.countBy p n k).power = s.power := rfl
@[simp] theorem countBy_mgmt (p n k : Nat) : (s.countBy p n k).mgmt = s.mgmt := rfl
@[simp] theorem countBy_lifecycle (p n k : Nat) : (s.countBy p n k).lifecycle = s.lifecycle := rfl
@[simp] theorem countBy_grade (p n k : Nat) : (s.countBy p n k).grade = s.grade := rfl
@[simp] theorem countBy_store (p n k : Nat) : (s.countBy p n k).store = s.store := rfl
@[simp] theorem countBy_storeBusy (p n k : Nat) : (s.countBy p n k).storeBusy = s.storeBusy := rfl
@[simp] theorem countBy_storeQueue (p n k : Nat) : (s.countBy p n k).storeQueue = s.storeQueue := rfl
@[simp] theorem countBy_serial (p n k : Nat) : (s.countBy p n k).serial = s.serial := rfl
@[simp] theorem countBy_replayKey (p n k : Nat) : (s.countBy p n k).replayKey = s.replayKey := rfl
@[simp] theorem countBy_attested (p n k : Nat) : (s.countBy p n k).attested = s.attested := rfl
@[simp] theorem countBy_identityCert (p n k : Nat) : (s.countBy p n k).identityCert = s.identityCert := rfl
@[simp] theorem countBy_slots (p n k : Nat) : (s.countBy p n k).slots = s.slots := rfl
@[simp] theorem countBy_fresh (p n k : Nat) : (s.countBy p n k).fresh = s.fresh := rfl
@[simp] theorem countBy_out (p n k : Nat) : (s.countBy p n k).out = s.out := rfl
@[simp] theorem countBy_pending (p n k : Nat) : (s.countBy p n k).pending = s.pending := rfl
@[simp] theorem countBy_tile_get (p n k : Nat) (i : Nat) : (s.countBy p n k).tile i = s.tile i := rfl
@[simp] theorem countBy_site_get (p n k : Nat) (i : Nat) : (s.countBy p n k).site i = s.site i := rfl
@[simp] theorem countBy_hank_get (p n k : Nat) (i : Nat) : (s.countBy p n k).hank i = s.hank i := rfl
@[simp] theorem countBy_port_get (p n k : Nat) (i : Nat) : (s.countBy p n k).port i = s.port i := rfl
@[simp] theorem countBy_reg_get (p n k : Nat) (i : Reg) : (s.countBy p n k).reg i = s.reg i := rfl
@[simp] theorem countBy_act_get (p n k : Nat) (i : Reg) : (s.countBy p n k).act i = s.act i := rfl
@[simp] theorem countBy_byte_get (p n k : Nat) (i : Nat) : (s.countBy p n k).byte i = s.byte i := rfl
@[simp] theorem countBy_op_find (p n k : Nat) (i : OpRef) : (s.countBy p n k).op? i = s.op? i := rfl
@[simp] theorem countBy_answers_get (p n k : Nat) : (s.countBy p n k).answers = s.answers := rfl
@[simp] theorem countBy_powered_get (p n k : Nat) : (s.countBy p n k).powered = s.powered := rfl

/-! ### setTile -/

@[simp] theorem setTile_clock (t : Nat) (x : Tile) : (s.setTile t x).clock = s.clock := rfl
@[simp] theorem setTile_counting (t : Nat) (x : Tile) : (s.setTile t x).counting = s.counting := rfl
@[simp] theorem setTile_regs (t : Nat) (x : Tile) : (s.setTile t x).regs = s.regs := rfl
@[simp] theorem setTile_active (t : Nat) (x : Tile) : (s.setTile t x).active = s.active := rfl
@[simp] theorem setTile_msix (t : Nat) (x : Tile) : (s.setTile t x).msix = s.msix := rfl
@[simp] theorem setTile_msixPending (t : Nat) (x : Tile) : (s.setTile t x).msixPending = s.msixPending := rfl
@[simp] theorem setTile_mem (t : Nat) (x : Tile) : (s.setTile t x).mem = s.mem := rfl
@[simp] theorem setTile_memBad (t : Nat) (x : Tile) : (s.setTile t x).memBad = s.memBad := rfl
@[simp] theorem setTile_reservations (t : Nat) (x : Tile) : (s.setTile t x).reservations = s.reservations := rfl
@[simp] theorem setTile_host (t : Nat) (x : Tile) : (s.setTile t x).host = s.host := rfl
@[simp] theorem setTile_hanks (t : Nat) (x : Tile) : (s.setTile t x).hanks = s.hanks := rfl
@[simp] theorem setTile_sites (t : Nat) (x : Tile) : (s.setTile t x).sites = s.sites := rfl
@[simp] theorem setTile_parts (t : Nat) (x : Tile) : (s.setTile t x).parts = s.parts := rfl
@[simp] theorem setTile_ports (t : Nat) (x : Tile) : (s.setTile t x).ports = s.ports := rfl
@[simp] theorem setTile_routes (t : Nat) (x : Tile) : (s.setTile t x).routes = s.routes := rfl
@[simp] theorem setTile_jobs (t : Nat) (x : Tile) : (s.setTile t x).jobs = s.jobs := rfl
@[simp] theorem setTile_nextJob (t : Nat) (x : Tile) : (s.setTile t x).nextJob = s.nextJob := rfl
@[simp] theorem setTile_commits (t : Nat) (x : Tile) : (s.setTile t x).commits = s.commits := rfl
@[simp] theorem setTile_partCmd (t : Nat) (x : Tile) : (s.setTile t x).partCmd = s.partCmd := rfl
@[simp] theorem setTile_retireQueue (t : Nat) (x : Tile) : (s.setTile t x).retireQueue = s.retireQueue := rfl
@[simp] theorem setTile_retiring (t : Nat) (x : Tile) : (s.setTile t x).retiring = s.retiring := rfl
@[simp] theorem setTile_retirements (t : Nat) (x : Tile) : (s.setTile t x).retirements = s.retirements := rfl
@[simp] theorem setTile_service (t : Nat) (x : Tile) : (s.setTile t x).service = s.service := rfl
@[simp] theorem setTile_fabric (t : Nat) (x : Tile) : (s.setTile t x).fabric = s.fabric := rfl
@[simp] theorem setTile_segFault (t : Nat) (x : Tile) : (s.setTile t x).segFault = s.segFault := rfl
@[simp] theorem setTile_colFenced (t : Nat) (x : Tile) : (s.setTile t x).colFenced = s.colFenced := rfl
@[simp] theorem setTile_power (t : Nat) (x : Tile) : (s.setTile t x).power = s.power := rfl
@[simp] theorem setTile_mgmt (t : Nat) (x : Tile) : (s.setTile t x).mgmt = s.mgmt := rfl
@[simp] theorem setTile_lifecycle (t : Nat) (x : Tile) : (s.setTile t x).lifecycle = s.lifecycle := rfl
@[simp] theorem setTile_grade (t : Nat) (x : Tile) : (s.setTile t x).grade = s.grade := rfl
@[simp] theorem setTile_store (t : Nat) (x : Tile) : (s.setTile t x).store = s.store := rfl
@[simp] theorem setTile_storeBusy (t : Nat) (x : Tile) : (s.setTile t x).storeBusy = s.storeBusy := rfl
@[simp] theorem setTile_storeQueue (t : Nat) (x : Tile) : (s.setTile t x).storeQueue = s.storeQueue := rfl
@[simp] theorem setTile_serial (t : Nat) (x : Tile) : (s.setTile t x).serial = s.serial := rfl
@[simp] theorem setTile_replayKey (t : Nat) (x : Tile) : (s.setTile t x).replayKey = s.replayKey := rfl
@[simp] theorem setTile_attested (t : Nat) (x : Tile) : (s.setTile t x).attested = s.attested := rfl
@[simp] theorem setTile_identityCert (t : Nat) (x : Tile) : (s.setTile t x).identityCert = s.identityCert := rfl
@[simp] theorem setTile_slots (t : Nat) (x : Tile) : (s.setTile t x).slots = s.slots := rfl
@[simp] theorem setTile_fresh (t : Nat) (x : Tile) : (s.setTile t x).fresh = s.fresh := rfl
@[simp] theorem setTile_out (t : Nat) (x : Tile) : (s.setTile t x).out = s.out := rfl
@[simp] theorem setTile_pending (t : Nat) (x : Tile) : (s.setTile t x).pending = s.pending := rfl
@[simp] theorem setTile_part_get (t : Nat) (x : Tile) (i : Nat) : (s.setTile t x).part i = s.part i := rfl
@[simp] theorem setTile_site_get (t : Nat) (x : Tile) (i : Nat) : (s.setTile t x).site i = s.site i := rfl
@[simp] theorem setTile_hank_get (t : Nat) (x : Tile) (i : Nat) : (s.setTile t x).hank i = s.hank i := rfl
@[simp] theorem setTile_port_get (t : Nat) (x : Tile) (i : Nat) : (s.setTile t x).port i = s.port i := rfl
@[simp] theorem setTile_reg_get (t : Nat) (x : Tile) (i : Reg) : (s.setTile t x).reg i = s.reg i := rfl
@[simp] theorem setTile_act_get (t : Nat) (x : Tile) (i : Reg) : (s.setTile t x).act i = s.act i := rfl
@[simp] theorem setTile_byte_get (t : Nat) (x : Tile) (i : Nat) : (s.setTile t x).byte i = s.byte i := rfl
@[simp] theorem setTile_ring_get (t : Nat) (x : Tile) (i k : Nat) : (s.setTile t x).ring i k = s.ring i k := rfl
@[simp] theorem setTile_op_find (t : Nat) (x : Tile) (i : OpRef) : (s.setTile t x).op? i = s.op? i := rfl
@[simp] theorem setTile_answers_get (t : Nat) (x : Tile) : (s.setTile t x).answers = s.answers := rfl
@[simp] theorem setTile_powered_get (t : Nat) (x : Tile) : (s.setTile t x).powered = s.powered := rfl

/-! ### updTile -/

@[simp] theorem updTile_clock (t : Nat) (f : Tile → Tile) : (s.updTile t f).clock = s.clock := rfl
@[simp] theorem updTile_counting (t : Nat) (f : Tile → Tile) : (s.updTile t f).counting = s.counting := rfl
@[simp] theorem updTile_regs (t : Nat) (f : Tile → Tile) : (s.updTile t f).regs = s.regs := rfl
@[simp] theorem updTile_active (t : Nat) (f : Tile → Tile) : (s.updTile t f).active = s.active := rfl
@[simp] theorem updTile_msix (t : Nat) (f : Tile → Tile) : (s.updTile t f).msix = s.msix := rfl
@[simp] theorem updTile_msixPending (t : Nat) (f : Tile → Tile) : (s.updTile t f).msixPending = s.msixPending := rfl
@[simp] theorem updTile_mem (t : Nat) (f : Tile → Tile) : (s.updTile t f).mem = s.mem := rfl
@[simp] theorem updTile_memBad (t : Nat) (f : Tile → Tile) : (s.updTile t f).memBad = s.memBad := rfl
@[simp] theorem updTile_reservations (t : Nat) (f : Tile → Tile) : (s.updTile t f).reservations = s.reservations := rfl
@[simp] theorem updTile_host (t : Nat) (f : Tile → Tile) : (s.updTile t f).host = s.host := rfl
@[simp] theorem updTile_hanks (t : Nat) (f : Tile → Tile) : (s.updTile t f).hanks = s.hanks := rfl
@[simp] theorem updTile_sites (t : Nat) (f : Tile → Tile) : (s.updTile t f).sites = s.sites := rfl
@[simp] theorem updTile_parts (t : Nat) (f : Tile → Tile) : (s.updTile t f).parts = s.parts := rfl
@[simp] theorem updTile_ports (t : Nat) (f : Tile → Tile) : (s.updTile t f).ports = s.ports := rfl
@[simp] theorem updTile_routes (t : Nat) (f : Tile → Tile) : (s.updTile t f).routes = s.routes := rfl
@[simp] theorem updTile_jobs (t : Nat) (f : Tile → Tile) : (s.updTile t f).jobs = s.jobs := rfl
@[simp] theorem updTile_nextJob (t : Nat) (f : Tile → Tile) : (s.updTile t f).nextJob = s.nextJob := rfl
@[simp] theorem updTile_commits (t : Nat) (f : Tile → Tile) : (s.updTile t f).commits = s.commits := rfl
@[simp] theorem updTile_partCmd (t : Nat) (f : Tile → Tile) : (s.updTile t f).partCmd = s.partCmd := rfl
@[simp] theorem updTile_retireQueue (t : Nat) (f : Tile → Tile) : (s.updTile t f).retireQueue = s.retireQueue := rfl
@[simp] theorem updTile_retiring (t : Nat) (f : Tile → Tile) : (s.updTile t f).retiring = s.retiring := rfl
@[simp] theorem updTile_retirements (t : Nat) (f : Tile → Tile) : (s.updTile t f).retirements = s.retirements := rfl
@[simp] theorem updTile_service (t : Nat) (f : Tile → Tile) : (s.updTile t f).service = s.service := rfl
@[simp] theorem updTile_fabric (t : Nat) (f : Tile → Tile) : (s.updTile t f).fabric = s.fabric := rfl
@[simp] theorem updTile_segFault (t : Nat) (f : Tile → Tile) : (s.updTile t f).segFault = s.segFault := rfl
@[simp] theorem updTile_colFenced (t : Nat) (f : Tile → Tile) : (s.updTile t f).colFenced = s.colFenced := rfl
@[simp] theorem updTile_power (t : Nat) (f : Tile → Tile) : (s.updTile t f).power = s.power := rfl
@[simp] theorem updTile_mgmt (t : Nat) (f : Tile → Tile) : (s.updTile t f).mgmt = s.mgmt := rfl
@[simp] theorem updTile_lifecycle (t : Nat) (f : Tile → Tile) : (s.updTile t f).lifecycle = s.lifecycle := rfl
@[simp] theorem updTile_grade (t : Nat) (f : Tile → Tile) : (s.updTile t f).grade = s.grade := rfl
@[simp] theorem updTile_store (t : Nat) (f : Tile → Tile) : (s.updTile t f).store = s.store := rfl
@[simp] theorem updTile_storeBusy (t : Nat) (f : Tile → Tile) : (s.updTile t f).storeBusy = s.storeBusy := rfl
@[simp] theorem updTile_storeQueue (t : Nat) (f : Tile → Tile) : (s.updTile t f).storeQueue = s.storeQueue := rfl
@[simp] theorem updTile_serial (t : Nat) (f : Tile → Tile) : (s.updTile t f).serial = s.serial := rfl
@[simp] theorem updTile_replayKey (t : Nat) (f : Tile → Tile) : (s.updTile t f).replayKey = s.replayKey := rfl
@[simp] theorem updTile_attested (t : Nat) (f : Tile → Tile) : (s.updTile t f).attested = s.attested := rfl
@[simp] theorem updTile_identityCert (t : Nat) (f : Tile → Tile) : (s.updTile t f).identityCert = s.identityCert := rfl
@[simp] theorem updTile_slots (t : Nat) (f : Tile → Tile) : (s.updTile t f).slots = s.slots := rfl
@[simp] theorem updTile_fresh (t : Nat) (f : Tile → Tile) : (s.updTile t f).fresh = s.fresh := rfl
@[simp] theorem updTile_out (t : Nat) (f : Tile → Tile) : (s.updTile t f).out = s.out := rfl
@[simp] theorem updTile_pending (t : Nat) (f : Tile → Tile) : (s.updTile t f).pending = s.pending := rfl
@[simp] theorem updTile_part_get (t : Nat) (f : Tile → Tile) (i : Nat) : (s.updTile t f).part i = s.part i := rfl
@[simp] theorem updTile_site_get (t : Nat) (f : Tile → Tile) (i : Nat) : (s.updTile t f).site i = s.site i := rfl
@[simp] theorem updTile_hank_get (t : Nat) (f : Tile → Tile) (i : Nat) : (s.updTile t f).hank i = s.hank i := rfl
@[simp] theorem updTile_port_get (t : Nat) (f : Tile → Tile) (i : Nat) : (s.updTile t f).port i = s.port i := rfl
@[simp] theorem updTile_reg_get (t : Nat) (f : Tile → Tile) (i : Reg) : (s.updTile t f).reg i = s.reg i := rfl
@[simp] theorem updTile_act_get (t : Nat) (f : Tile → Tile) (i : Reg) : (s.updTile t f).act i = s.act i := rfl
@[simp] theorem updTile_byte_get (t : Nat) (f : Tile → Tile) (i : Nat) : (s.updTile t f).byte i = s.byte i := rfl
@[simp] theorem updTile_ring_get (t : Nat) (f : Tile → Tile) (i k : Nat) : (s.updTile t f).ring i k = s.ring i k := rfl
@[simp] theorem updTile_op_find (t : Nat) (f : Tile → Tile) (i : OpRef) : (s.updTile t f).op? i = s.op? i := rfl
@[simp] theorem updTile_answers_get (t : Nat) (f : Tile → Tile) : (s.updTile t f).answers = s.answers := rfl
@[simp] theorem updTile_powered_get (t : Nat) (f : Tile → Tile) : (s.updTile t f).powered = s.powered := rfl

/-! ### setSite -/

@[simp] theorem setSite_clock (d : Nat) (x : Site) : (s.setSite d x).clock = s.clock := rfl
@[simp] theorem setSite_counting (d : Nat) (x : Site) : (s.setSite d x).counting = s.counting := rfl
@[simp] theorem setSite_regs (d : Nat) (x : Site) : (s.setSite d x).regs = s.regs := rfl
@[simp] theorem setSite_active (d : Nat) (x : Site) : (s.setSite d x).active = s.active := rfl
@[simp] theorem setSite_msix (d : Nat) (x : Site) : (s.setSite d x).msix = s.msix := rfl
@[simp] theorem setSite_msixPending (d : Nat) (x : Site) : (s.setSite d x).msixPending = s.msixPending := rfl
@[simp] theorem setSite_mem (d : Nat) (x : Site) : (s.setSite d x).mem = s.mem := rfl
@[simp] theorem setSite_memBad (d : Nat) (x : Site) : (s.setSite d x).memBad = s.memBad := rfl
@[simp] theorem setSite_reservations (d : Nat) (x : Site) : (s.setSite d x).reservations = s.reservations := rfl
@[simp] theorem setSite_host (d : Nat) (x : Site) : (s.setSite d x).host = s.host := rfl
@[simp] theorem setSite_hanks (d : Nat) (x : Site) : (s.setSite d x).hanks = s.hanks := rfl
@[simp] theorem setSite_tiles (d : Nat) (x : Site) : (s.setSite d x).tiles = s.tiles := rfl
@[simp] theorem setSite_parts (d : Nat) (x : Site) : (s.setSite d x).parts = s.parts := rfl
@[simp] theorem setSite_ports (d : Nat) (x : Site) : (s.setSite d x).ports = s.ports := rfl
@[simp] theorem setSite_routes (d : Nat) (x : Site) : (s.setSite d x).routes = s.routes := rfl
@[simp] theorem setSite_jobs (d : Nat) (x : Site) : (s.setSite d x).jobs = s.jobs := rfl
@[simp] theorem setSite_nextJob (d : Nat) (x : Site) : (s.setSite d x).nextJob = s.nextJob := rfl
@[simp] theorem setSite_commits (d : Nat) (x : Site) : (s.setSite d x).commits = s.commits := rfl
@[simp] theorem setSite_partCmd (d : Nat) (x : Site) : (s.setSite d x).partCmd = s.partCmd := rfl
@[simp] theorem setSite_retireQueue (d : Nat) (x : Site) : (s.setSite d x).retireQueue = s.retireQueue := rfl
@[simp] theorem setSite_retiring (d : Nat) (x : Site) : (s.setSite d x).retiring = s.retiring := rfl
@[simp] theorem setSite_retirements (d : Nat) (x : Site) : (s.setSite d x).retirements = s.retirements := rfl
@[simp] theorem setSite_service (d : Nat) (x : Site) : (s.setSite d x).service = s.service := rfl
@[simp] theorem setSite_fabric (d : Nat) (x : Site) : (s.setSite d x).fabric = s.fabric := rfl
@[simp] theorem setSite_segFault (d : Nat) (x : Site) : (s.setSite d x).segFault = s.segFault := rfl
@[simp] theorem setSite_colFenced (d : Nat) (x : Site) : (s.setSite d x).colFenced = s.colFenced := rfl
@[simp] theorem setSite_power (d : Nat) (x : Site) : (s.setSite d x).power = s.power := rfl
@[simp] theorem setSite_mgmt (d : Nat) (x : Site) : (s.setSite d x).mgmt = s.mgmt := rfl
@[simp] theorem setSite_lifecycle (d : Nat) (x : Site) : (s.setSite d x).lifecycle = s.lifecycle := rfl
@[simp] theorem setSite_grade (d : Nat) (x : Site) : (s.setSite d x).grade = s.grade := rfl
@[simp] theorem setSite_store (d : Nat) (x : Site) : (s.setSite d x).store = s.store := rfl
@[simp] theorem setSite_storeBusy (d : Nat) (x : Site) : (s.setSite d x).storeBusy = s.storeBusy := rfl
@[simp] theorem setSite_storeQueue (d : Nat) (x : Site) : (s.setSite d x).storeQueue = s.storeQueue := rfl
@[simp] theorem setSite_serial (d : Nat) (x : Site) : (s.setSite d x).serial = s.serial := rfl
@[simp] theorem setSite_replayKey (d : Nat) (x : Site) : (s.setSite d x).replayKey = s.replayKey := rfl
@[simp] theorem setSite_attested (d : Nat) (x : Site) : (s.setSite d x).attested = s.attested := rfl
@[simp] theorem setSite_identityCert (d : Nat) (x : Site) : (s.setSite d x).identityCert = s.identityCert := rfl
@[simp] theorem setSite_slots (d : Nat) (x : Site) : (s.setSite d x).slots = s.slots := rfl
@[simp] theorem setSite_fresh (d : Nat) (x : Site) : (s.setSite d x).fresh = s.fresh := rfl
@[simp] theorem setSite_out (d : Nat) (x : Site) : (s.setSite d x).out = s.out := rfl
@[simp] theorem setSite_pending (d : Nat) (x : Site) : (s.setSite d x).pending = s.pending := rfl
@[simp] theorem setSite_part_get (d : Nat) (x : Site) (i : Nat) : (s.setSite d x).part i = s.part i := rfl
@[simp] theorem setSite_tile_get (d : Nat) (x : Site) (i : Nat) : (s.setSite d x).tile i = s.tile i := rfl
@[simp] theorem setSite_hank_get (d : Nat) (x : Site) (i : Nat) : (s.setSite d x).hank i = s.hank i := rfl
@[simp] theorem setSite_port_get (d : Nat) (x : Site) (i : Nat) : (s.setSite d x).port i = s.port i := rfl
@[simp] theorem setSite_reg_get (d : Nat) (x : Site) (i : Reg) : (s.setSite d x).reg i = s.reg i := rfl
@[simp] theorem setSite_act_get (d : Nat) (x : Site) (i : Reg) : (s.setSite d x).act i = s.act i := rfl
@[simp] theorem setSite_byte_get (d : Nat) (x : Site) (i : Nat) : (s.setSite d x).byte i = s.byte i := rfl
@[simp] theorem setSite_ring_get (d : Nat) (x : Site) (i k : Nat) : (s.setSite d x).ring i k = s.ring i k := rfl
@[simp] theorem setSite_op_find (d : Nat) (x : Site) (i : OpRef) : (s.setSite d x).op? i = s.op? i := rfl
@[simp] theorem setSite_answers_get (d : Nat) (x : Site) : (s.setSite d x).answers = s.answers := rfl
@[simp] theorem setSite_powered_get (d : Nat) (x : Site) : (s.setSite d x).powered = s.powered := rfl

/-! ### updSite -/

@[simp] theorem updSite_clock (d : Nat) (f : Site → Site) : (s.updSite d f).clock = s.clock := rfl
@[simp] theorem updSite_counting (d : Nat) (f : Site → Site) : (s.updSite d f).counting = s.counting := rfl
@[simp] theorem updSite_regs (d : Nat) (f : Site → Site) : (s.updSite d f).regs = s.regs := rfl
@[simp] theorem updSite_active (d : Nat) (f : Site → Site) : (s.updSite d f).active = s.active := rfl
@[simp] theorem updSite_msix (d : Nat) (f : Site → Site) : (s.updSite d f).msix = s.msix := rfl
@[simp] theorem updSite_msixPending (d : Nat) (f : Site → Site) : (s.updSite d f).msixPending = s.msixPending := rfl
@[simp] theorem updSite_mem (d : Nat) (f : Site → Site) : (s.updSite d f).mem = s.mem := rfl
@[simp] theorem updSite_memBad (d : Nat) (f : Site → Site) : (s.updSite d f).memBad = s.memBad := rfl
@[simp] theorem updSite_reservations (d : Nat) (f : Site → Site) : (s.updSite d f).reservations = s.reservations := rfl
@[simp] theorem updSite_host (d : Nat) (f : Site → Site) : (s.updSite d f).host = s.host := rfl
@[simp] theorem updSite_hanks (d : Nat) (f : Site → Site) : (s.updSite d f).hanks = s.hanks := rfl
@[simp] theorem updSite_tiles (d : Nat) (f : Site → Site) : (s.updSite d f).tiles = s.tiles := rfl
@[simp] theorem updSite_parts (d : Nat) (f : Site → Site) : (s.updSite d f).parts = s.parts := rfl
@[simp] theorem updSite_ports (d : Nat) (f : Site → Site) : (s.updSite d f).ports = s.ports := rfl
@[simp] theorem updSite_routes (d : Nat) (f : Site → Site) : (s.updSite d f).routes = s.routes := rfl
@[simp] theorem updSite_jobs (d : Nat) (f : Site → Site) : (s.updSite d f).jobs = s.jobs := rfl
@[simp] theorem updSite_nextJob (d : Nat) (f : Site → Site) : (s.updSite d f).nextJob = s.nextJob := rfl
@[simp] theorem updSite_commits (d : Nat) (f : Site → Site) : (s.updSite d f).commits = s.commits := rfl
@[simp] theorem updSite_partCmd (d : Nat) (f : Site → Site) : (s.updSite d f).partCmd = s.partCmd := rfl
@[simp] theorem updSite_retireQueue (d : Nat) (f : Site → Site) : (s.updSite d f).retireQueue = s.retireQueue := rfl
@[simp] theorem updSite_retiring (d : Nat) (f : Site → Site) : (s.updSite d f).retiring = s.retiring := rfl
@[simp] theorem updSite_retirements (d : Nat) (f : Site → Site) : (s.updSite d f).retirements = s.retirements := rfl
@[simp] theorem updSite_service (d : Nat) (f : Site → Site) : (s.updSite d f).service = s.service := rfl
@[simp] theorem updSite_fabric (d : Nat) (f : Site → Site) : (s.updSite d f).fabric = s.fabric := rfl
@[simp] theorem updSite_segFault (d : Nat) (f : Site → Site) : (s.updSite d f).segFault = s.segFault := rfl
@[simp] theorem updSite_colFenced (d : Nat) (f : Site → Site) : (s.updSite d f).colFenced = s.colFenced := rfl
@[simp] theorem updSite_power (d : Nat) (f : Site → Site) : (s.updSite d f).power = s.power := rfl
@[simp] theorem updSite_mgmt (d : Nat) (f : Site → Site) : (s.updSite d f).mgmt = s.mgmt := rfl
@[simp] theorem updSite_lifecycle (d : Nat) (f : Site → Site) : (s.updSite d f).lifecycle = s.lifecycle := rfl
@[simp] theorem updSite_grade (d : Nat) (f : Site → Site) : (s.updSite d f).grade = s.grade := rfl
@[simp] theorem updSite_store (d : Nat) (f : Site → Site) : (s.updSite d f).store = s.store := rfl
@[simp] theorem updSite_storeBusy (d : Nat) (f : Site → Site) : (s.updSite d f).storeBusy = s.storeBusy := rfl
@[simp] theorem updSite_storeQueue (d : Nat) (f : Site → Site) : (s.updSite d f).storeQueue = s.storeQueue := rfl
@[simp] theorem updSite_serial (d : Nat) (f : Site → Site) : (s.updSite d f).serial = s.serial := rfl
@[simp] theorem updSite_replayKey (d : Nat) (f : Site → Site) : (s.updSite d f).replayKey = s.replayKey := rfl
@[simp] theorem updSite_attested (d : Nat) (f : Site → Site) : (s.updSite d f).attested = s.attested := rfl
@[simp] theorem updSite_identityCert (d : Nat) (f : Site → Site) : (s.updSite d f).identityCert = s.identityCert := rfl
@[simp] theorem updSite_slots (d : Nat) (f : Site → Site) : (s.updSite d f).slots = s.slots := rfl
@[simp] theorem updSite_fresh (d : Nat) (f : Site → Site) : (s.updSite d f).fresh = s.fresh := rfl
@[simp] theorem updSite_out (d : Nat) (f : Site → Site) : (s.updSite d f).out = s.out := rfl
@[simp] theorem updSite_pending (d : Nat) (f : Site → Site) : (s.updSite d f).pending = s.pending := rfl
@[simp] theorem updSite_part_get (d : Nat) (f : Site → Site) (i : Nat) : (s.updSite d f).part i = s.part i := rfl
@[simp] theorem updSite_tile_get (d : Nat) (f : Site → Site) (i : Nat) : (s.updSite d f).tile i = s.tile i := rfl
@[simp] theorem updSite_hank_get (d : Nat) (f : Site → Site) (i : Nat) : (s.updSite d f).hank i = s.hank i := rfl
@[simp] theorem updSite_port_get (d : Nat) (f : Site → Site) (i : Nat) : (s.updSite d f).port i = s.port i := rfl
@[simp] theorem updSite_reg_get (d : Nat) (f : Site → Site) (i : Reg) : (s.updSite d f).reg i = s.reg i := rfl
@[simp] theorem updSite_act_get (d : Nat) (f : Site → Site) (i : Reg) : (s.updSite d f).act i = s.act i := rfl
@[simp] theorem updSite_byte_get (d : Nat) (f : Site → Site) (i : Nat) : (s.updSite d f).byte i = s.byte i := rfl
@[simp] theorem updSite_ring_get (d : Nat) (f : Site → Site) (i k : Nat) : (s.updSite d f).ring i k = s.ring i k := rfl
@[simp] theorem updSite_op_find (d : Nat) (f : Site → Site) (i : OpRef) : (s.updSite d f).op? i = s.op? i := rfl
@[simp] theorem updSite_answers_get (d : Nat) (f : Site → Site) : (s.updSite d f).answers = s.answers := rfl
@[simp] theorem updSite_powered_get (d : Nat) (f : Site → Site) : (s.updSite d f).powered = s.powered := rfl

/-! ### setHank -/

@[simp] theorem setHank_clock (h : Nat) (x : Hank) : (s.setHank h x).clock = s.clock := rfl
@[simp] theorem setHank_counting (h : Nat) (x : Hank) : (s.setHank h x).counting = s.counting := rfl
@[simp] theorem setHank_regs (h : Nat) (x : Hank) : (s.setHank h x).regs = s.regs := rfl
@[simp] theorem setHank_active (h : Nat) (x : Hank) : (s.setHank h x).active = s.active := rfl
@[simp] theorem setHank_msix (h : Nat) (x : Hank) : (s.setHank h x).msix = s.msix := rfl
@[simp] theorem setHank_msixPending (h : Nat) (x : Hank) : (s.setHank h x).msixPending = s.msixPending := rfl
@[simp] theorem setHank_mem (h : Nat) (x : Hank) : (s.setHank h x).mem = s.mem := rfl
@[simp] theorem setHank_memBad (h : Nat) (x : Hank) : (s.setHank h x).memBad = s.memBad := rfl
@[simp] theorem setHank_reservations (h : Nat) (x : Hank) : (s.setHank h x).reservations = s.reservations := rfl
@[simp] theorem setHank_host (h : Nat) (x : Hank) : (s.setHank h x).host = s.host := rfl
@[simp] theorem setHank_sites (h : Nat) (x : Hank) : (s.setHank h x).sites = s.sites := rfl
@[simp] theorem setHank_tiles (h : Nat) (x : Hank) : (s.setHank h x).tiles = s.tiles := rfl
@[simp] theorem setHank_parts (h : Nat) (x : Hank) : (s.setHank h x).parts = s.parts := rfl
@[simp] theorem setHank_ports (h : Nat) (x : Hank) : (s.setHank h x).ports = s.ports := rfl
@[simp] theorem setHank_routes (h : Nat) (x : Hank) : (s.setHank h x).routes = s.routes := rfl
@[simp] theorem setHank_jobs (h : Nat) (x : Hank) : (s.setHank h x).jobs = s.jobs := rfl
@[simp] theorem setHank_nextJob (h : Nat) (x : Hank) : (s.setHank h x).nextJob = s.nextJob := rfl
@[simp] theorem setHank_commits (h : Nat) (x : Hank) : (s.setHank h x).commits = s.commits := rfl
@[simp] theorem setHank_partCmd (h : Nat) (x : Hank) : (s.setHank h x).partCmd = s.partCmd := rfl
@[simp] theorem setHank_retireQueue (h : Nat) (x : Hank) : (s.setHank h x).retireQueue = s.retireQueue := rfl
@[simp] theorem setHank_retiring (h : Nat) (x : Hank) : (s.setHank h x).retiring = s.retiring := rfl
@[simp] theorem setHank_retirements (h : Nat) (x : Hank) : (s.setHank h x).retirements = s.retirements := rfl
@[simp] theorem setHank_service (h : Nat) (x : Hank) : (s.setHank h x).service = s.service := rfl
@[simp] theorem setHank_fabric (h : Nat) (x : Hank) : (s.setHank h x).fabric = s.fabric := rfl
@[simp] theorem setHank_segFault (h : Nat) (x : Hank) : (s.setHank h x).segFault = s.segFault := rfl
@[simp] theorem setHank_colFenced (h : Nat) (x : Hank) : (s.setHank h x).colFenced = s.colFenced := rfl
@[simp] theorem setHank_power (h : Nat) (x : Hank) : (s.setHank h x).power = s.power := rfl
@[simp] theorem setHank_mgmt (h : Nat) (x : Hank) : (s.setHank h x).mgmt = s.mgmt := rfl
@[simp] theorem setHank_lifecycle (h : Nat) (x : Hank) : (s.setHank h x).lifecycle = s.lifecycle := rfl
@[simp] theorem setHank_grade (h : Nat) (x : Hank) : (s.setHank h x).grade = s.grade := rfl
@[simp] theorem setHank_store (h : Nat) (x : Hank) : (s.setHank h x).store = s.store := rfl
@[simp] theorem setHank_storeBusy (h : Nat) (x : Hank) : (s.setHank h x).storeBusy = s.storeBusy := rfl
@[simp] theorem setHank_storeQueue (h : Nat) (x : Hank) : (s.setHank h x).storeQueue = s.storeQueue := rfl
@[simp] theorem setHank_serial (h : Nat) (x : Hank) : (s.setHank h x).serial = s.serial := rfl
@[simp] theorem setHank_replayKey (h : Nat) (x : Hank) : (s.setHank h x).replayKey = s.replayKey := rfl
@[simp] theorem setHank_attested (h : Nat) (x : Hank) : (s.setHank h x).attested = s.attested := rfl
@[simp] theorem setHank_identityCert (h : Nat) (x : Hank) : (s.setHank h x).identityCert = s.identityCert := rfl
@[simp] theorem setHank_slots (h : Nat) (x : Hank) : (s.setHank h x).slots = s.slots := rfl
@[simp] theorem setHank_fresh (h : Nat) (x : Hank) : (s.setHank h x).fresh = s.fresh := rfl
@[simp] theorem setHank_out (h : Nat) (x : Hank) : (s.setHank h x).out = s.out := rfl
@[simp] theorem setHank_pending (h : Nat) (x : Hank) : (s.setHank h x).pending = s.pending := rfl
@[simp] theorem setHank_part_get (h : Nat) (x : Hank) (i : Nat) : (s.setHank h x).part i = s.part i := rfl
@[simp] theorem setHank_tile_get (h : Nat) (x : Hank) (i : Nat) : (s.setHank h x).tile i = s.tile i := rfl
@[simp] theorem setHank_site_get (h : Nat) (x : Hank) (i : Nat) : (s.setHank h x).site i = s.site i := rfl
@[simp] theorem setHank_port_get (h : Nat) (x : Hank) (i : Nat) : (s.setHank h x).port i = s.port i := rfl
@[simp] theorem setHank_reg_get (h : Nat) (x : Hank) (i : Reg) : (s.setHank h x).reg i = s.reg i := rfl
@[simp] theorem setHank_act_get (h : Nat) (x : Hank) (i : Reg) : (s.setHank h x).act i = s.act i := rfl
@[simp] theorem setHank_byte_get (h : Nat) (x : Hank) (i : Nat) : (s.setHank h x).byte i = s.byte i := rfl
@[simp] theorem setHank_ring_get (h : Nat) (x : Hank) (i k : Nat) : (s.setHank h x).ring i k = s.ring i k := rfl
@[simp] theorem setHank_op_find (h : Nat) (x : Hank) (i : OpRef) : (s.setHank h x).op? i = s.op? i := rfl
@[simp] theorem setHank_answers_get (h : Nat) (x : Hank) : (s.setHank h x).answers = s.answers := rfl
@[simp] theorem setHank_powered_get (h : Nat) (x : Hank) : (s.setHank h x).powered = s.powered := rfl

/-! ### updHank -/

@[simp] theorem updHank_clock (h : Nat) (f : Hank → Hank) : (s.updHank h f).clock = s.clock := rfl
@[simp] theorem updHank_counting (h : Nat) (f : Hank → Hank) : (s.updHank h f).counting = s.counting := rfl
@[simp] theorem updHank_regs (h : Nat) (f : Hank → Hank) : (s.updHank h f).regs = s.regs := rfl
@[simp] theorem updHank_active (h : Nat) (f : Hank → Hank) : (s.updHank h f).active = s.active := rfl
@[simp] theorem updHank_msix (h : Nat) (f : Hank → Hank) : (s.updHank h f).msix = s.msix := rfl
@[simp] theorem updHank_msixPending (h : Nat) (f : Hank → Hank) : (s.updHank h f).msixPending = s.msixPending := rfl
@[simp] theorem updHank_mem (h : Nat) (f : Hank → Hank) : (s.updHank h f).mem = s.mem := rfl
@[simp] theorem updHank_memBad (h : Nat) (f : Hank → Hank) : (s.updHank h f).memBad = s.memBad := rfl
@[simp] theorem updHank_reservations (h : Nat) (f : Hank → Hank) : (s.updHank h f).reservations = s.reservations := rfl
@[simp] theorem updHank_host (h : Nat) (f : Hank → Hank) : (s.updHank h f).host = s.host := rfl
@[simp] theorem updHank_sites (h : Nat) (f : Hank → Hank) : (s.updHank h f).sites = s.sites := rfl
@[simp] theorem updHank_tiles (h : Nat) (f : Hank → Hank) : (s.updHank h f).tiles = s.tiles := rfl
@[simp] theorem updHank_parts (h : Nat) (f : Hank → Hank) : (s.updHank h f).parts = s.parts := rfl
@[simp] theorem updHank_ports (h : Nat) (f : Hank → Hank) : (s.updHank h f).ports = s.ports := rfl
@[simp] theorem updHank_routes (h : Nat) (f : Hank → Hank) : (s.updHank h f).routes = s.routes := rfl
@[simp] theorem updHank_jobs (h : Nat) (f : Hank → Hank) : (s.updHank h f).jobs = s.jobs := rfl
@[simp] theorem updHank_nextJob (h : Nat) (f : Hank → Hank) : (s.updHank h f).nextJob = s.nextJob := rfl
@[simp] theorem updHank_commits (h : Nat) (f : Hank → Hank) : (s.updHank h f).commits = s.commits := rfl
@[simp] theorem updHank_partCmd (h : Nat) (f : Hank → Hank) : (s.updHank h f).partCmd = s.partCmd := rfl
@[simp] theorem updHank_retireQueue (h : Nat) (f : Hank → Hank) : (s.updHank h f).retireQueue = s.retireQueue := rfl
@[simp] theorem updHank_retiring (h : Nat) (f : Hank → Hank) : (s.updHank h f).retiring = s.retiring := rfl
@[simp] theorem updHank_retirements (h : Nat) (f : Hank → Hank) : (s.updHank h f).retirements = s.retirements := rfl
@[simp] theorem updHank_service (h : Nat) (f : Hank → Hank) : (s.updHank h f).service = s.service := rfl
@[simp] theorem updHank_fabric (h : Nat) (f : Hank → Hank) : (s.updHank h f).fabric = s.fabric := rfl
@[simp] theorem updHank_segFault (h : Nat) (f : Hank → Hank) : (s.updHank h f).segFault = s.segFault := rfl
@[simp] theorem updHank_colFenced (h : Nat) (f : Hank → Hank) : (s.updHank h f).colFenced = s.colFenced := rfl
@[simp] theorem updHank_power (h : Nat) (f : Hank → Hank) : (s.updHank h f).power = s.power := rfl
@[simp] theorem updHank_mgmt (h : Nat) (f : Hank → Hank) : (s.updHank h f).mgmt = s.mgmt := rfl
@[simp] theorem updHank_lifecycle (h : Nat) (f : Hank → Hank) : (s.updHank h f).lifecycle = s.lifecycle := rfl
@[simp] theorem updHank_grade (h : Nat) (f : Hank → Hank) : (s.updHank h f).grade = s.grade := rfl
@[simp] theorem updHank_store (h : Nat) (f : Hank → Hank) : (s.updHank h f).store = s.store := rfl
@[simp] theorem updHank_storeBusy (h : Nat) (f : Hank → Hank) : (s.updHank h f).storeBusy = s.storeBusy := rfl
@[simp] theorem updHank_storeQueue (h : Nat) (f : Hank → Hank) : (s.updHank h f).storeQueue = s.storeQueue := rfl
@[simp] theorem updHank_serial (h : Nat) (f : Hank → Hank) : (s.updHank h f).serial = s.serial := rfl
@[simp] theorem updHank_replayKey (h : Nat) (f : Hank → Hank) : (s.updHank h f).replayKey = s.replayKey := rfl
@[simp] theorem updHank_attested (h : Nat) (f : Hank → Hank) : (s.updHank h f).attested = s.attested := rfl
@[simp] theorem updHank_identityCert (h : Nat) (f : Hank → Hank) : (s.updHank h f).identityCert = s.identityCert := rfl
@[simp] theorem updHank_slots (h : Nat) (f : Hank → Hank) : (s.updHank h f).slots = s.slots := rfl
@[simp] theorem updHank_fresh (h : Nat) (f : Hank → Hank) : (s.updHank h f).fresh = s.fresh := rfl
@[simp] theorem updHank_out (h : Nat) (f : Hank → Hank) : (s.updHank h f).out = s.out := rfl
@[simp] theorem updHank_pending (h : Nat) (f : Hank → Hank) : (s.updHank h f).pending = s.pending := rfl
@[simp] theorem updHank_part_get (h : Nat) (f : Hank → Hank) (i : Nat) : (s.updHank h f).part i = s.part i := rfl
@[simp] theorem updHank_tile_get (h : Nat) (f : Hank → Hank) (i : Nat) : (s.updHank h f).tile i = s.tile i := rfl
@[simp] theorem updHank_site_get (h : Nat) (f : Hank → Hank) (i : Nat) : (s.updHank h f).site i = s.site i := rfl
@[simp] theorem updHank_port_get (h : Nat) (f : Hank → Hank) (i : Nat) : (s.updHank h f).port i = s.port i := rfl
@[simp] theorem updHank_reg_get (h : Nat) (f : Hank → Hank) (i : Reg) : (s.updHank h f).reg i = s.reg i := rfl
@[simp] theorem updHank_act_get (h : Nat) (f : Hank → Hank) (i : Reg) : (s.updHank h f).act i = s.act i := rfl
@[simp] theorem updHank_byte_get (h : Nat) (f : Hank → Hank) (i : Nat) : (s.updHank h f).byte i = s.byte i := rfl
@[simp] theorem updHank_ring_get (h : Nat) (f : Hank → Hank) (i k : Nat) : (s.updHank h f).ring i k = s.ring i k := rfl
@[simp] theorem updHank_op_find (h : Nat) (f : Hank → Hank) (i : OpRef) : (s.updHank h f).op? i = s.op? i := rfl
@[simp] theorem updHank_answers_get (h : Nat) (f : Hank → Hank) : (s.updHank h f).answers = s.answers := rfl
@[simp] theorem updHank_powered_get (h : Nat) (f : Hank → Hank) : (s.updHank h f).powered = s.powered := rfl

/-! ### setPort -/

@[simp] theorem setPort_clock (q : Nat) (x : QPort) : (s.setPort q x).clock = s.clock := rfl
@[simp] theorem setPort_counting (q : Nat) (x : QPort) : (s.setPort q x).counting = s.counting := rfl
@[simp] theorem setPort_regs (q : Nat) (x : QPort) : (s.setPort q x).regs = s.regs := rfl
@[simp] theorem setPort_active (q : Nat) (x : QPort) : (s.setPort q x).active = s.active := rfl
@[simp] theorem setPort_msix (q : Nat) (x : QPort) : (s.setPort q x).msix = s.msix := rfl
@[simp] theorem setPort_msixPending (q : Nat) (x : QPort) : (s.setPort q x).msixPending = s.msixPending := rfl
@[simp] theorem setPort_mem (q : Nat) (x : QPort) : (s.setPort q x).mem = s.mem := rfl
@[simp] theorem setPort_memBad (q : Nat) (x : QPort) : (s.setPort q x).memBad = s.memBad := rfl
@[simp] theorem setPort_reservations (q : Nat) (x : QPort) : (s.setPort q x).reservations = s.reservations := rfl
@[simp] theorem setPort_host (q : Nat) (x : QPort) : (s.setPort q x).host = s.host := rfl
@[simp] theorem setPort_hanks (q : Nat) (x : QPort) : (s.setPort q x).hanks = s.hanks := rfl
@[simp] theorem setPort_sites (q : Nat) (x : QPort) : (s.setPort q x).sites = s.sites := rfl
@[simp] theorem setPort_tiles (q : Nat) (x : QPort) : (s.setPort q x).tiles = s.tiles := rfl
@[simp] theorem setPort_parts (q : Nat) (x : QPort) : (s.setPort q x).parts = s.parts := rfl
@[simp] theorem setPort_routes (q : Nat) (x : QPort) : (s.setPort q x).routes = s.routes := rfl
@[simp] theorem setPort_jobs (q : Nat) (x : QPort) : (s.setPort q x).jobs = s.jobs := rfl
@[simp] theorem setPort_nextJob (q : Nat) (x : QPort) : (s.setPort q x).nextJob = s.nextJob := rfl
@[simp] theorem setPort_commits (q : Nat) (x : QPort) : (s.setPort q x).commits = s.commits := rfl
@[simp] theorem setPort_partCmd (q : Nat) (x : QPort) : (s.setPort q x).partCmd = s.partCmd := rfl
@[simp] theorem setPort_retireQueue (q : Nat) (x : QPort) : (s.setPort q x).retireQueue = s.retireQueue := rfl
@[simp] theorem setPort_retiring (q : Nat) (x : QPort) : (s.setPort q x).retiring = s.retiring := rfl
@[simp] theorem setPort_retirements (q : Nat) (x : QPort) : (s.setPort q x).retirements = s.retirements := rfl
@[simp] theorem setPort_service (q : Nat) (x : QPort) : (s.setPort q x).service = s.service := rfl
@[simp] theorem setPort_fabric (q : Nat) (x : QPort) : (s.setPort q x).fabric = s.fabric := rfl
@[simp] theorem setPort_segFault (q : Nat) (x : QPort) : (s.setPort q x).segFault = s.segFault := rfl
@[simp] theorem setPort_colFenced (q : Nat) (x : QPort) : (s.setPort q x).colFenced = s.colFenced := rfl
@[simp] theorem setPort_power (q : Nat) (x : QPort) : (s.setPort q x).power = s.power := rfl
@[simp] theorem setPort_mgmt (q : Nat) (x : QPort) : (s.setPort q x).mgmt = s.mgmt := rfl
@[simp] theorem setPort_lifecycle (q : Nat) (x : QPort) : (s.setPort q x).lifecycle = s.lifecycle := rfl
@[simp] theorem setPort_grade (q : Nat) (x : QPort) : (s.setPort q x).grade = s.grade := rfl
@[simp] theorem setPort_store (q : Nat) (x : QPort) : (s.setPort q x).store = s.store := rfl
@[simp] theorem setPort_storeBusy (q : Nat) (x : QPort) : (s.setPort q x).storeBusy = s.storeBusy := rfl
@[simp] theorem setPort_storeQueue (q : Nat) (x : QPort) : (s.setPort q x).storeQueue = s.storeQueue := rfl
@[simp] theorem setPort_serial (q : Nat) (x : QPort) : (s.setPort q x).serial = s.serial := rfl
@[simp] theorem setPort_replayKey (q : Nat) (x : QPort) : (s.setPort q x).replayKey = s.replayKey := rfl
@[simp] theorem setPort_attested (q : Nat) (x : QPort) : (s.setPort q x).attested = s.attested := rfl
@[simp] theorem setPort_identityCert (q : Nat) (x : QPort) : (s.setPort q x).identityCert = s.identityCert := rfl
@[simp] theorem setPort_slots (q : Nat) (x : QPort) : (s.setPort q x).slots = s.slots := rfl
@[simp] theorem setPort_fresh (q : Nat) (x : QPort) : (s.setPort q x).fresh = s.fresh := rfl
@[simp] theorem setPort_out (q : Nat) (x : QPort) : (s.setPort q x).out = s.out := rfl
@[simp] theorem setPort_pending (q : Nat) (x : QPort) : (s.setPort q x).pending = s.pending := rfl
@[simp] theorem setPort_part_get (q : Nat) (x : QPort) (i : Nat) : (s.setPort q x).part i = s.part i := rfl
@[simp] theorem setPort_tile_get (q : Nat) (x : QPort) (i : Nat) : (s.setPort q x).tile i = s.tile i := rfl
@[simp] theorem setPort_site_get (q : Nat) (x : QPort) (i : Nat) : (s.setPort q x).site i = s.site i := rfl
@[simp] theorem setPort_hank_get (q : Nat) (x : QPort) (i : Nat) : (s.setPort q x).hank i = s.hank i := rfl
@[simp] theorem setPort_reg_get (q : Nat) (x : QPort) (i : Reg) : (s.setPort q x).reg i = s.reg i := rfl
@[simp] theorem setPort_act_get (q : Nat) (x : QPort) (i : Reg) : (s.setPort q x).act i = s.act i := rfl
@[simp] theorem setPort_byte_get (q : Nat) (x : QPort) (i : Nat) : (s.setPort q x).byte i = s.byte i := rfl
@[simp] theorem setPort_ring_get (q : Nat) (x : QPort) (i k : Nat) : (s.setPort q x).ring i k = s.ring i k := rfl
@[simp] theorem setPort_op_find (q : Nat) (x : QPort) (i : OpRef) : (s.setPort q x).op? i = s.op? i := rfl
@[simp] theorem setPort_answers_get (q : Nat) (x : QPort) : (s.setPort q x).answers = s.answers := rfl
@[simp] theorem setPort_powered_get (q : Nat) (x : QPort) : (s.setPort q x).powered = s.powered := rfl

/-! ### updPort -/

@[simp] theorem updPort_clock (q : Nat) (f : QPort → QPort) : (s.updPort q f).clock = s.clock := rfl
@[simp] theorem updPort_counting (q : Nat) (f : QPort → QPort) : (s.updPort q f).counting = s.counting := rfl
@[simp] theorem updPort_regs (q : Nat) (f : QPort → QPort) : (s.updPort q f).regs = s.regs := rfl
@[simp] theorem updPort_active (q : Nat) (f : QPort → QPort) : (s.updPort q f).active = s.active := rfl
@[simp] theorem updPort_msix (q : Nat) (f : QPort → QPort) : (s.updPort q f).msix = s.msix := rfl
@[simp] theorem updPort_msixPending (q : Nat) (f : QPort → QPort) : (s.updPort q f).msixPending = s.msixPending := rfl
@[simp] theorem updPort_mem (q : Nat) (f : QPort → QPort) : (s.updPort q f).mem = s.mem := rfl
@[simp] theorem updPort_memBad (q : Nat) (f : QPort → QPort) : (s.updPort q f).memBad = s.memBad := rfl
@[simp] theorem updPort_reservations (q : Nat) (f : QPort → QPort) : (s.updPort q f).reservations = s.reservations := rfl
@[simp] theorem updPort_host (q : Nat) (f : QPort → QPort) : (s.updPort q f).host = s.host := rfl
@[simp] theorem updPort_hanks (q : Nat) (f : QPort → QPort) : (s.updPort q f).hanks = s.hanks := rfl
@[simp] theorem updPort_sites (q : Nat) (f : QPort → QPort) : (s.updPort q f).sites = s.sites := rfl
@[simp] theorem updPort_tiles (q : Nat) (f : QPort → QPort) : (s.updPort q f).tiles = s.tiles := rfl
@[simp] theorem updPort_parts (q : Nat) (f : QPort → QPort) : (s.updPort q f).parts = s.parts := rfl
@[simp] theorem updPort_routes (q : Nat) (f : QPort → QPort) : (s.updPort q f).routes = s.routes := rfl
@[simp] theorem updPort_jobs (q : Nat) (f : QPort → QPort) : (s.updPort q f).jobs = s.jobs := rfl
@[simp] theorem updPort_nextJob (q : Nat) (f : QPort → QPort) : (s.updPort q f).nextJob = s.nextJob := rfl
@[simp] theorem updPort_commits (q : Nat) (f : QPort → QPort) : (s.updPort q f).commits = s.commits := rfl
@[simp] theorem updPort_partCmd (q : Nat) (f : QPort → QPort) : (s.updPort q f).partCmd = s.partCmd := rfl
@[simp] theorem updPort_retireQueue (q : Nat) (f : QPort → QPort) : (s.updPort q f).retireQueue = s.retireQueue := rfl
@[simp] theorem updPort_retiring (q : Nat) (f : QPort → QPort) : (s.updPort q f).retiring = s.retiring := rfl
@[simp] theorem updPort_retirements (q : Nat) (f : QPort → QPort) : (s.updPort q f).retirements = s.retirements := rfl
@[simp] theorem updPort_service (q : Nat) (f : QPort → QPort) : (s.updPort q f).service = s.service := rfl
@[simp] theorem updPort_fabric (q : Nat) (f : QPort → QPort) : (s.updPort q f).fabric = s.fabric := rfl
@[simp] theorem updPort_segFault (q : Nat) (f : QPort → QPort) : (s.updPort q f).segFault = s.segFault := rfl
@[simp] theorem updPort_colFenced (q : Nat) (f : QPort → QPort) : (s.updPort q f).colFenced = s.colFenced := rfl
@[simp] theorem updPort_power (q : Nat) (f : QPort → QPort) : (s.updPort q f).power = s.power := rfl
@[simp] theorem updPort_mgmt (q : Nat) (f : QPort → QPort) : (s.updPort q f).mgmt = s.mgmt := rfl
@[simp] theorem updPort_lifecycle (q : Nat) (f : QPort → QPort) : (s.updPort q f).lifecycle = s.lifecycle := rfl
@[simp] theorem updPort_grade (q : Nat) (f : QPort → QPort) : (s.updPort q f).grade = s.grade := rfl
@[simp] theorem updPort_store (q : Nat) (f : QPort → QPort) : (s.updPort q f).store = s.store := rfl
@[simp] theorem updPort_storeBusy (q : Nat) (f : QPort → QPort) : (s.updPort q f).storeBusy = s.storeBusy := rfl
@[simp] theorem updPort_storeQueue (q : Nat) (f : QPort → QPort) : (s.updPort q f).storeQueue = s.storeQueue := rfl
@[simp] theorem updPort_serial (q : Nat) (f : QPort → QPort) : (s.updPort q f).serial = s.serial := rfl
@[simp] theorem updPort_replayKey (q : Nat) (f : QPort → QPort) : (s.updPort q f).replayKey = s.replayKey := rfl
@[simp] theorem updPort_attested (q : Nat) (f : QPort → QPort) : (s.updPort q f).attested = s.attested := rfl
@[simp] theorem updPort_identityCert (q : Nat) (f : QPort → QPort) : (s.updPort q f).identityCert = s.identityCert := rfl
@[simp] theorem updPort_slots (q : Nat) (f : QPort → QPort) : (s.updPort q f).slots = s.slots := rfl
@[simp] theorem updPort_fresh (q : Nat) (f : QPort → QPort) : (s.updPort q f).fresh = s.fresh := rfl
@[simp] theorem updPort_out (q : Nat) (f : QPort → QPort) : (s.updPort q f).out = s.out := rfl
@[simp] theorem updPort_pending (q : Nat) (f : QPort → QPort) : (s.updPort q f).pending = s.pending := rfl
@[simp] theorem updPort_part_get (q : Nat) (f : QPort → QPort) (i : Nat) : (s.updPort q f).part i = s.part i := rfl
@[simp] theorem updPort_tile_get (q : Nat) (f : QPort → QPort) (i : Nat) : (s.updPort q f).tile i = s.tile i := rfl
@[simp] theorem updPort_site_get (q : Nat) (f : QPort → QPort) (i : Nat) : (s.updPort q f).site i = s.site i := rfl
@[simp] theorem updPort_hank_get (q : Nat) (f : QPort → QPort) (i : Nat) : (s.updPort q f).hank i = s.hank i := rfl
@[simp] theorem updPort_reg_get (q : Nat) (f : QPort → QPort) (i : Reg) : (s.updPort q f).reg i = s.reg i := rfl
@[simp] theorem updPort_act_get (q : Nat) (f : QPort → QPort) (i : Reg) : (s.updPort q f).act i = s.act i := rfl
@[simp] theorem updPort_byte_get (q : Nat) (f : QPort → QPort) (i : Nat) : (s.updPort q f).byte i = s.byte i := rfl
@[simp] theorem updPort_ring_get (q : Nat) (f : QPort → QPort) (i k : Nat) : (s.updPort q f).ring i k = s.ring i k := rfl
@[simp] theorem updPort_op_find (q : Nat) (f : QPort → QPort) (i : OpRef) : (s.updPort q f).op? i = s.op? i := rfl
@[simp] theorem updPort_answers_get (q : Nat) (f : QPort → QPort) : (s.updPort q f).answers = s.answers := rfl
@[simp] theorem updPort_powered_get (q : Nat) (f : QPort → QPort) : (s.updPort q f).powered = s.powered := rfl

/-! ### updRing -/

@[simp] theorem updRing_clock (p n : Nat) (f : Ring → Ring) : (s.updRing p n f).clock = s.clock := rfl
@[simp] theorem updRing_counting (p n : Nat) (f : Ring → Ring) : (s.updRing p n f).counting = s.counting := rfl
@[simp] theorem updRing_regs (p n : Nat) (f : Ring → Ring) : (s.updRing p n f).regs = s.regs := rfl
@[simp] theorem updRing_active (p n : Nat) (f : Ring → Ring) : (s.updRing p n f).active = s.active := rfl
@[simp] theorem updRing_msix (p n : Nat) (f : Ring → Ring) : (s.updRing p n f).msix = s.msix := rfl
@[simp] theorem updRing_msixPending (p n : Nat) (f : Ring → Ring) : (s.updRing p n f).msixPending = s.msixPending := rfl
@[simp] theorem updRing_mem (p n : Nat) (f : Ring → Ring) : (s.updRing p n f).mem = s.mem := rfl
@[simp] theorem updRing_memBad (p n : Nat) (f : Ring → Ring) : (s.updRing p n f).memBad = s.memBad := rfl
@[simp] theorem updRing_reservations (p n : Nat) (f : Ring → Ring) : (s.updRing p n f).reservations = s.reservations := rfl
@[simp] theorem updRing_host (p n : Nat) (f : Ring → Ring) : (s.updRing p n f).host = s.host := rfl
@[simp] theorem updRing_hanks (p n : Nat) (f : Ring → Ring) : (s.updRing p n f).hanks = s.hanks := rfl
@[simp] theorem updRing_sites (p n : Nat) (f : Ring → Ring) : (s.updRing p n f).sites = s.sites := rfl
@[simp] theorem updRing_tiles (p n : Nat) (f : Ring → Ring) : (s.updRing p n f).tiles = s.tiles := rfl
@[simp] theorem updRing_ports (p n : Nat) (f : Ring → Ring) : (s.updRing p n f).ports = s.ports := rfl
@[simp] theorem updRing_routes (p n : Nat) (f : Ring → Ring) : (s.updRing p n f).routes = s.routes := rfl
@[simp] theorem updRing_jobs (p n : Nat) (f : Ring → Ring) : (s.updRing p n f).jobs = s.jobs := rfl
@[simp] theorem updRing_nextJob (p n : Nat) (f : Ring → Ring) : (s.updRing p n f).nextJob = s.nextJob := rfl
@[simp] theorem updRing_commits (p n : Nat) (f : Ring → Ring) : (s.updRing p n f).commits = s.commits := rfl
@[simp] theorem updRing_partCmd (p n : Nat) (f : Ring → Ring) : (s.updRing p n f).partCmd = s.partCmd := rfl
@[simp] theorem updRing_retireQueue (p n : Nat) (f : Ring → Ring) : (s.updRing p n f).retireQueue = s.retireQueue := rfl
@[simp] theorem updRing_retiring (p n : Nat) (f : Ring → Ring) : (s.updRing p n f).retiring = s.retiring := rfl
@[simp] theorem updRing_retirements (p n : Nat) (f : Ring → Ring) : (s.updRing p n f).retirements = s.retirements := rfl
@[simp] theorem updRing_service (p n : Nat) (f : Ring → Ring) : (s.updRing p n f).service = s.service := rfl
@[simp] theorem updRing_fabric (p n : Nat) (f : Ring → Ring) : (s.updRing p n f).fabric = s.fabric := rfl
@[simp] theorem updRing_segFault (p n : Nat) (f : Ring → Ring) : (s.updRing p n f).segFault = s.segFault := rfl
@[simp] theorem updRing_colFenced (p n : Nat) (f : Ring → Ring) : (s.updRing p n f).colFenced = s.colFenced := rfl
@[simp] theorem updRing_power (p n : Nat) (f : Ring → Ring) : (s.updRing p n f).power = s.power := rfl
@[simp] theorem updRing_mgmt (p n : Nat) (f : Ring → Ring) : (s.updRing p n f).mgmt = s.mgmt := rfl
@[simp] theorem updRing_lifecycle (p n : Nat) (f : Ring → Ring) : (s.updRing p n f).lifecycle = s.lifecycle := rfl
@[simp] theorem updRing_grade (p n : Nat) (f : Ring → Ring) : (s.updRing p n f).grade = s.grade := rfl
@[simp] theorem updRing_store (p n : Nat) (f : Ring → Ring) : (s.updRing p n f).store = s.store := rfl
@[simp] theorem updRing_storeBusy (p n : Nat) (f : Ring → Ring) : (s.updRing p n f).storeBusy = s.storeBusy := rfl
@[simp] theorem updRing_storeQueue (p n : Nat) (f : Ring → Ring) : (s.updRing p n f).storeQueue = s.storeQueue := rfl
@[simp] theorem updRing_serial (p n : Nat) (f : Ring → Ring) : (s.updRing p n f).serial = s.serial := rfl
@[simp] theorem updRing_replayKey (p n : Nat) (f : Ring → Ring) : (s.updRing p n f).replayKey = s.replayKey := rfl
@[simp] theorem updRing_attested (p n : Nat) (f : Ring → Ring) : (s.updRing p n f).attested = s.attested := rfl
@[simp] theorem updRing_identityCert (p n : Nat) (f : Ring → Ring) : (s.updRing p n f).identityCert = s.identityCert := rfl
@[simp] theorem updRing_slots (p n : Nat) (f : Ring → Ring) : (s.updRing p n f).slots = s.slots := rfl
@[simp] theorem updRing_fresh (p n : Nat) (f : Ring → Ring) : (s.updRing p n f).fresh = s.fresh := rfl
@[simp] theorem updRing_out (p n : Nat) (f : Ring → Ring) : (s.updRing p n f).out = s.out := rfl
@[simp] theorem updRing_pending (p n : Nat) (f : Ring → Ring) : (s.updRing p n f).pending = s.pending := rfl
@[simp] theorem updRing_tile_get (p n : Nat) (f : Ring → Ring) (i : Nat) : (s.updRing p n f).tile i = s.tile i := rfl
@[simp] theorem updRing_site_get (p n : Nat) (f : Ring → Ring) (i : Nat) : (s.updRing p n f).site i = s.site i := rfl
@[simp] theorem updRing_hank_get (p n : Nat) (f : Ring → Ring) (i : Nat) : (s.updRing p n f).hank i = s.hank i := rfl
@[simp] theorem updRing_port_get (p n : Nat) (f : Ring → Ring) (i : Nat) : (s.updRing p n f).port i = s.port i := rfl
@[simp] theorem updRing_reg_get (p n : Nat) (f : Ring → Ring) (i : Reg) : (s.updRing p n f).reg i = s.reg i := rfl
@[simp] theorem updRing_act_get (p n : Nat) (f : Ring → Ring) (i : Reg) : (s.updRing p n f).act i = s.act i := rfl
@[simp] theorem updRing_byte_get (p n : Nat) (f : Ring → Ring) (i : Nat) : (s.updRing p n f).byte i = s.byte i := rfl
@[simp] theorem updRing_op_find (p n : Nat) (f : Ring → Ring) (i : OpRef) : (s.updRing p n f).op? i = s.op? i := rfl
@[simp] theorem updRing_answers_get (p n : Nat) (f : Ring → Ring) : (s.updRing p n f).answers = s.answers := rfl
@[simp] theorem updRing_powered_get (p n : Nat) (f : Ring → Ring) : (s.updRing p n f).powered = s.powered := rfl

/-! ### setReg -/

@[simp] theorem setReg_clock (r : Reg) (v : Word32) : (s.setReg r v).clock = s.clock := rfl
@[simp] theorem setReg_counting (r : Reg) (v : Word32) : (s.setReg r v).counting = s.counting := rfl
@[simp] theorem setReg_active (r : Reg) (v : Word32) : (s.setReg r v).active = s.active := rfl
@[simp] theorem setReg_msix (r : Reg) (v : Word32) : (s.setReg r v).msix = s.msix := rfl
@[simp] theorem setReg_msixPending (r : Reg) (v : Word32) : (s.setReg r v).msixPending = s.msixPending := rfl
@[simp] theorem setReg_mem (r : Reg) (v : Word32) : (s.setReg r v).mem = s.mem := rfl
@[simp] theorem setReg_memBad (r : Reg) (v : Word32) : (s.setReg r v).memBad = s.memBad := rfl
@[simp] theorem setReg_reservations (r : Reg) (v : Word32) : (s.setReg r v).reservations = s.reservations := rfl
@[simp] theorem setReg_host (r : Reg) (v : Word32) : (s.setReg r v).host = s.host := rfl
@[simp] theorem setReg_hanks (r : Reg) (v : Word32) : (s.setReg r v).hanks = s.hanks := rfl
@[simp] theorem setReg_sites (r : Reg) (v : Word32) : (s.setReg r v).sites = s.sites := rfl
@[simp] theorem setReg_tiles (r : Reg) (v : Word32) : (s.setReg r v).tiles = s.tiles := rfl
@[simp] theorem setReg_parts (r : Reg) (v : Word32) : (s.setReg r v).parts = s.parts := rfl
@[simp] theorem setReg_ports (r : Reg) (v : Word32) : (s.setReg r v).ports = s.ports := rfl
@[simp] theorem setReg_routes (r : Reg) (v : Word32) : (s.setReg r v).routes = s.routes := rfl
@[simp] theorem setReg_jobs (r : Reg) (v : Word32) : (s.setReg r v).jobs = s.jobs := rfl
@[simp] theorem setReg_nextJob (r : Reg) (v : Word32) : (s.setReg r v).nextJob = s.nextJob := rfl
@[simp] theorem setReg_commits (r : Reg) (v : Word32) : (s.setReg r v).commits = s.commits := rfl
@[simp] theorem setReg_partCmd (r : Reg) (v : Word32) : (s.setReg r v).partCmd = s.partCmd := rfl
@[simp] theorem setReg_retireQueue (r : Reg) (v : Word32) : (s.setReg r v).retireQueue = s.retireQueue := rfl
@[simp] theorem setReg_retiring (r : Reg) (v : Word32) : (s.setReg r v).retiring = s.retiring := rfl
@[simp] theorem setReg_retirements (r : Reg) (v : Word32) : (s.setReg r v).retirements = s.retirements := rfl
@[simp] theorem setReg_service (r : Reg) (v : Word32) : (s.setReg r v).service = s.service := rfl
@[simp] theorem setReg_fabric (r : Reg) (v : Word32) : (s.setReg r v).fabric = s.fabric := rfl
@[simp] theorem setReg_segFault (r : Reg) (v : Word32) : (s.setReg r v).segFault = s.segFault := rfl
@[simp] theorem setReg_colFenced (r : Reg) (v : Word32) : (s.setReg r v).colFenced = s.colFenced := rfl
@[simp] theorem setReg_power (r : Reg) (v : Word32) : (s.setReg r v).power = s.power := rfl
@[simp] theorem setReg_mgmt (r : Reg) (v : Word32) : (s.setReg r v).mgmt = s.mgmt := rfl
@[simp] theorem setReg_lifecycle (r : Reg) (v : Word32) : (s.setReg r v).lifecycle = s.lifecycle := rfl
@[simp] theorem setReg_grade (r : Reg) (v : Word32) : (s.setReg r v).grade = s.grade := rfl
@[simp] theorem setReg_store (r : Reg) (v : Word32) : (s.setReg r v).store = s.store := rfl
@[simp] theorem setReg_storeBusy (r : Reg) (v : Word32) : (s.setReg r v).storeBusy = s.storeBusy := rfl
@[simp] theorem setReg_storeQueue (r : Reg) (v : Word32) : (s.setReg r v).storeQueue = s.storeQueue := rfl
@[simp] theorem setReg_serial (r : Reg) (v : Word32) : (s.setReg r v).serial = s.serial := rfl
@[simp] theorem setReg_replayKey (r : Reg) (v : Word32) : (s.setReg r v).replayKey = s.replayKey := rfl
@[simp] theorem setReg_attested (r : Reg) (v : Word32) : (s.setReg r v).attested = s.attested := rfl
@[simp] theorem setReg_identityCert (r : Reg) (v : Word32) : (s.setReg r v).identityCert = s.identityCert := rfl
@[simp] theorem setReg_slots (r : Reg) (v : Word32) : (s.setReg r v).slots = s.slots := rfl
@[simp] theorem setReg_fresh (r : Reg) (v : Word32) : (s.setReg r v).fresh = s.fresh := rfl
@[simp] theorem setReg_out (r : Reg) (v : Word32) : (s.setReg r v).out = s.out := rfl
@[simp] theorem setReg_pending (r : Reg) (v : Word32) : (s.setReg r v).pending = s.pending := rfl
@[simp] theorem setReg_part_get (r : Reg) (v : Word32) (i : Nat) : (s.setReg r v).part i = s.part i := rfl
@[simp] theorem setReg_tile_get (r : Reg) (v : Word32) (i : Nat) : (s.setReg r v).tile i = s.tile i := rfl
@[simp] theorem setReg_site_get (r : Reg) (v : Word32) (i : Nat) : (s.setReg r v).site i = s.site i := rfl
@[simp] theorem setReg_hank_get (r : Reg) (v : Word32) (i : Nat) : (s.setReg r v).hank i = s.hank i := rfl
@[simp] theorem setReg_port_get (r : Reg) (v : Word32) (i : Nat) : (s.setReg r v).port i = s.port i := rfl
@[simp] theorem setReg_act_get (r : Reg) (v : Word32) (i : Reg) : (s.setReg r v).act i = s.act i := rfl
@[simp] theorem setReg_byte_get (r : Reg) (v : Word32) (i : Nat) : (s.setReg r v).byte i = s.byte i := rfl
@[simp] theorem setReg_ring_get (r : Reg) (v : Word32) (i k : Nat) : (s.setReg r v).ring i k = s.ring i k := rfl
@[simp] theorem setReg_op_find (r : Reg) (v : Word32) (i : OpRef) : (s.setReg r v).op? i = s.op? i := rfl
@[simp] theorem setReg_answers_get (r : Reg) (v : Word32) : (s.setReg r v).answers = s.answers := rfl
@[simp] theorem setReg_powered_get (r : Reg) (v : Word32) : (s.setReg r v).powered = s.powered := rfl

/-! ### updReg -/

@[simp] theorem updReg_clock (r : Reg) (f : Word32 → Word32) : (s.updReg r f).clock = s.clock := rfl
@[simp] theorem updReg_counting (r : Reg) (f : Word32 → Word32) : (s.updReg r f).counting = s.counting := rfl
@[simp] theorem updReg_active (r : Reg) (f : Word32 → Word32) : (s.updReg r f).active = s.active := rfl
@[simp] theorem updReg_msix (r : Reg) (f : Word32 → Word32) : (s.updReg r f).msix = s.msix := rfl
@[simp] theorem updReg_msixPending (r : Reg) (f : Word32 → Word32) : (s.updReg r f).msixPending = s.msixPending := rfl
@[simp] theorem updReg_mem (r : Reg) (f : Word32 → Word32) : (s.updReg r f).mem = s.mem := rfl
@[simp] theorem updReg_memBad (r : Reg) (f : Word32 → Word32) : (s.updReg r f).memBad = s.memBad := rfl
@[simp] theorem updReg_reservations (r : Reg) (f : Word32 → Word32) : (s.updReg r f).reservations = s.reservations := rfl
@[simp] theorem updReg_host (r : Reg) (f : Word32 → Word32) : (s.updReg r f).host = s.host := rfl
@[simp] theorem updReg_hanks (r : Reg) (f : Word32 → Word32) : (s.updReg r f).hanks = s.hanks := rfl
@[simp] theorem updReg_sites (r : Reg) (f : Word32 → Word32) : (s.updReg r f).sites = s.sites := rfl
@[simp] theorem updReg_tiles (r : Reg) (f : Word32 → Word32) : (s.updReg r f).tiles = s.tiles := rfl
@[simp] theorem updReg_parts (r : Reg) (f : Word32 → Word32) : (s.updReg r f).parts = s.parts := rfl
@[simp] theorem updReg_ports (r : Reg) (f : Word32 → Word32) : (s.updReg r f).ports = s.ports := rfl
@[simp] theorem updReg_routes (r : Reg) (f : Word32 → Word32) : (s.updReg r f).routes = s.routes := rfl
@[simp] theorem updReg_jobs (r : Reg) (f : Word32 → Word32) : (s.updReg r f).jobs = s.jobs := rfl
@[simp] theorem updReg_nextJob (r : Reg) (f : Word32 → Word32) : (s.updReg r f).nextJob = s.nextJob := rfl
@[simp] theorem updReg_commits (r : Reg) (f : Word32 → Word32) : (s.updReg r f).commits = s.commits := rfl
@[simp] theorem updReg_partCmd (r : Reg) (f : Word32 → Word32) : (s.updReg r f).partCmd = s.partCmd := rfl
@[simp] theorem updReg_retireQueue (r : Reg) (f : Word32 → Word32) : (s.updReg r f).retireQueue = s.retireQueue := rfl
@[simp] theorem updReg_retiring (r : Reg) (f : Word32 → Word32) : (s.updReg r f).retiring = s.retiring := rfl
@[simp] theorem updReg_retirements (r : Reg) (f : Word32 → Word32) : (s.updReg r f).retirements = s.retirements := rfl
@[simp] theorem updReg_service (r : Reg) (f : Word32 → Word32) : (s.updReg r f).service = s.service := rfl
@[simp] theorem updReg_fabric (r : Reg) (f : Word32 → Word32) : (s.updReg r f).fabric = s.fabric := rfl
@[simp] theorem updReg_segFault (r : Reg) (f : Word32 → Word32) : (s.updReg r f).segFault = s.segFault := rfl
@[simp] theorem updReg_colFenced (r : Reg) (f : Word32 → Word32) : (s.updReg r f).colFenced = s.colFenced := rfl
@[simp] theorem updReg_power (r : Reg) (f : Word32 → Word32) : (s.updReg r f).power = s.power := rfl
@[simp] theorem updReg_mgmt (r : Reg) (f : Word32 → Word32) : (s.updReg r f).mgmt = s.mgmt := rfl
@[simp] theorem updReg_lifecycle (r : Reg) (f : Word32 → Word32) : (s.updReg r f).lifecycle = s.lifecycle := rfl
@[simp] theorem updReg_grade (r : Reg) (f : Word32 → Word32) : (s.updReg r f).grade = s.grade := rfl
@[simp] theorem updReg_store (r : Reg) (f : Word32 → Word32) : (s.updReg r f).store = s.store := rfl
@[simp] theorem updReg_storeBusy (r : Reg) (f : Word32 → Word32) : (s.updReg r f).storeBusy = s.storeBusy := rfl
@[simp] theorem updReg_storeQueue (r : Reg) (f : Word32 → Word32) : (s.updReg r f).storeQueue = s.storeQueue := rfl
@[simp] theorem updReg_serial (r : Reg) (f : Word32 → Word32) : (s.updReg r f).serial = s.serial := rfl
@[simp] theorem updReg_replayKey (r : Reg) (f : Word32 → Word32) : (s.updReg r f).replayKey = s.replayKey := rfl
@[simp] theorem updReg_attested (r : Reg) (f : Word32 → Word32) : (s.updReg r f).attested = s.attested := rfl
@[simp] theorem updReg_identityCert (r : Reg) (f : Word32 → Word32) : (s.updReg r f).identityCert = s.identityCert := rfl
@[simp] theorem updReg_slots (r : Reg) (f : Word32 → Word32) : (s.updReg r f).slots = s.slots := rfl
@[simp] theorem updReg_fresh (r : Reg) (f : Word32 → Word32) : (s.updReg r f).fresh = s.fresh := rfl
@[simp] theorem updReg_out (r : Reg) (f : Word32 → Word32) : (s.updReg r f).out = s.out := rfl
@[simp] theorem updReg_pending (r : Reg) (f : Word32 → Word32) : (s.updReg r f).pending = s.pending := rfl
@[simp] theorem updReg_part_get (r : Reg) (f : Word32 → Word32) (i : Nat) : (s.updReg r f).part i = s.part i := rfl
@[simp] theorem updReg_tile_get (r : Reg) (f : Word32 → Word32) (i : Nat) : (s.updReg r f).tile i = s.tile i := rfl
@[simp] theorem updReg_site_get (r : Reg) (f : Word32 → Word32) (i : Nat) : (s.updReg r f).site i = s.site i := rfl
@[simp] theorem updReg_hank_get (r : Reg) (f : Word32 → Word32) (i : Nat) : (s.updReg r f).hank i = s.hank i := rfl
@[simp] theorem updReg_port_get (r : Reg) (f : Word32 → Word32) (i : Nat) : (s.updReg r f).port i = s.port i := rfl
@[simp] theorem updReg_act_get (r : Reg) (f : Word32 → Word32) (i : Reg) : (s.updReg r f).act i = s.act i := rfl
@[simp] theorem updReg_byte_get (r : Reg) (f : Word32 → Word32) (i : Nat) : (s.updReg r f).byte i = s.byte i := rfl
@[simp] theorem updReg_ring_get (r : Reg) (f : Word32 → Word32) (i k : Nat) : (s.updReg r f).ring i k = s.ring i k := rfl
@[simp] theorem updReg_op_find (r : Reg) (f : Word32 → Word32) (i : OpRef) : (s.updReg r f).op? i = s.op? i := rfl
@[simp] theorem updReg_answers_get (r : Reg) (f : Word32 → Word32) : (s.updReg r f).answers = s.answers := rfl
@[simp] theorem updReg_powered_get (r : Reg) (f : Word32 → Word32) : (s.updReg r f).powered = s.powered := rfl

/-! ### setField -/

@[simp] theorem setField_clock (r : Reg) (hi lo v : Nat) : (s.setField r hi lo v).clock = s.clock := rfl
@[simp] theorem setField_counting (r : Reg) (hi lo v : Nat) : (s.setField r hi lo v).counting = s.counting := rfl
@[simp] theorem setField_active (r : Reg) (hi lo v : Nat) : (s.setField r hi lo v).active = s.active := rfl
@[simp] theorem setField_msix (r : Reg) (hi lo v : Nat) : (s.setField r hi lo v).msix = s.msix := rfl
@[simp] theorem setField_msixPending (r : Reg) (hi lo v : Nat) : (s.setField r hi lo v).msixPending = s.msixPending := rfl
@[simp] theorem setField_mem (r : Reg) (hi lo v : Nat) : (s.setField r hi lo v).mem = s.mem := rfl
@[simp] theorem setField_memBad (r : Reg) (hi lo v : Nat) : (s.setField r hi lo v).memBad = s.memBad := rfl
@[simp] theorem setField_reservations (r : Reg) (hi lo v : Nat) : (s.setField r hi lo v).reservations = s.reservations := rfl
@[simp] theorem setField_host (r : Reg) (hi lo v : Nat) : (s.setField r hi lo v).host = s.host := rfl
@[simp] theorem setField_hanks (r : Reg) (hi lo v : Nat) : (s.setField r hi lo v).hanks = s.hanks := rfl
@[simp] theorem setField_sites (r : Reg) (hi lo v : Nat) : (s.setField r hi lo v).sites = s.sites := rfl
@[simp] theorem setField_tiles (r : Reg) (hi lo v : Nat) : (s.setField r hi lo v).tiles = s.tiles := rfl
@[simp] theorem setField_parts (r : Reg) (hi lo v : Nat) : (s.setField r hi lo v).parts = s.parts := rfl
@[simp] theorem setField_ports (r : Reg) (hi lo v : Nat) : (s.setField r hi lo v).ports = s.ports := rfl
@[simp] theorem setField_routes (r : Reg) (hi lo v : Nat) : (s.setField r hi lo v).routes = s.routes := rfl
@[simp] theorem setField_jobs (r : Reg) (hi lo v : Nat) : (s.setField r hi lo v).jobs = s.jobs := rfl
@[simp] theorem setField_nextJob (r : Reg) (hi lo v : Nat) : (s.setField r hi lo v).nextJob = s.nextJob := rfl
@[simp] theorem setField_commits (r : Reg) (hi lo v : Nat) : (s.setField r hi lo v).commits = s.commits := rfl
@[simp] theorem setField_partCmd (r : Reg) (hi lo v : Nat) : (s.setField r hi lo v).partCmd = s.partCmd := rfl
@[simp] theorem setField_retireQueue (r : Reg) (hi lo v : Nat) : (s.setField r hi lo v).retireQueue = s.retireQueue := rfl
@[simp] theorem setField_retiring (r : Reg) (hi lo v : Nat) : (s.setField r hi lo v).retiring = s.retiring := rfl
@[simp] theorem setField_retirements (r : Reg) (hi lo v : Nat) : (s.setField r hi lo v).retirements = s.retirements := rfl
@[simp] theorem setField_service (r : Reg) (hi lo v : Nat) : (s.setField r hi lo v).service = s.service := rfl
@[simp] theorem setField_fabric (r : Reg) (hi lo v : Nat) : (s.setField r hi lo v).fabric = s.fabric := rfl
@[simp] theorem setField_segFault (r : Reg) (hi lo v : Nat) : (s.setField r hi lo v).segFault = s.segFault := rfl
@[simp] theorem setField_colFenced (r : Reg) (hi lo v : Nat) : (s.setField r hi lo v).colFenced = s.colFenced := rfl
@[simp] theorem setField_power (r : Reg) (hi lo v : Nat) : (s.setField r hi lo v).power = s.power := rfl
@[simp] theorem setField_mgmt (r : Reg) (hi lo v : Nat) : (s.setField r hi lo v).mgmt = s.mgmt := rfl
@[simp] theorem setField_lifecycle (r : Reg) (hi lo v : Nat) : (s.setField r hi lo v).lifecycle = s.lifecycle := rfl
@[simp] theorem setField_grade (r : Reg) (hi lo v : Nat) : (s.setField r hi lo v).grade = s.grade := rfl
@[simp] theorem setField_store (r : Reg) (hi lo v : Nat) : (s.setField r hi lo v).store = s.store := rfl
@[simp] theorem setField_storeBusy (r : Reg) (hi lo v : Nat) : (s.setField r hi lo v).storeBusy = s.storeBusy := rfl
@[simp] theorem setField_storeQueue (r : Reg) (hi lo v : Nat) : (s.setField r hi lo v).storeQueue = s.storeQueue := rfl
@[simp] theorem setField_serial (r : Reg) (hi lo v : Nat) : (s.setField r hi lo v).serial = s.serial := rfl
@[simp] theorem setField_replayKey (r : Reg) (hi lo v : Nat) : (s.setField r hi lo v).replayKey = s.replayKey := rfl
@[simp] theorem setField_attested (r : Reg) (hi lo v : Nat) : (s.setField r hi lo v).attested = s.attested := rfl
@[simp] theorem setField_identityCert (r : Reg) (hi lo v : Nat) : (s.setField r hi lo v).identityCert = s.identityCert := rfl
@[simp] theorem setField_slots (r : Reg) (hi lo v : Nat) : (s.setField r hi lo v).slots = s.slots := rfl
@[simp] theorem setField_fresh (r : Reg) (hi lo v : Nat) : (s.setField r hi lo v).fresh = s.fresh := rfl
@[simp] theorem setField_out (r : Reg) (hi lo v : Nat) : (s.setField r hi lo v).out = s.out := rfl
@[simp] theorem setField_pending (r : Reg) (hi lo v : Nat) : (s.setField r hi lo v).pending = s.pending := rfl
@[simp] theorem setField_part_get (r : Reg) (hi lo v : Nat) (i : Nat) : (s.setField r hi lo v).part i = s.part i := rfl
@[simp] theorem setField_tile_get (r : Reg) (hi lo v : Nat) (i : Nat) : (s.setField r hi lo v).tile i = s.tile i := rfl
@[simp] theorem setField_site_get (r : Reg) (hi lo v : Nat) (i : Nat) : (s.setField r hi lo v).site i = s.site i := rfl
@[simp] theorem setField_hank_get (r : Reg) (hi lo v : Nat) (i : Nat) : (s.setField r hi lo v).hank i = s.hank i := rfl
@[simp] theorem setField_port_get (r : Reg) (hi lo v : Nat) (i : Nat) : (s.setField r hi lo v).port i = s.port i := rfl
@[simp] theorem setField_act_get (r : Reg) (hi lo v : Nat) (i : Reg) : (s.setField r hi lo v).act i = s.act i := rfl
@[simp] theorem setField_byte_get (r : Reg) (hi lo v : Nat) (i : Nat) : (s.setField r hi lo v).byte i = s.byte i := rfl
@[simp] theorem setField_ring_get (r : Reg) (hi lo v : Nat) (i k : Nat) : (s.setField r hi lo v).ring i k = s.ring i k := rfl
@[simp] theorem setField_op_find (r : Reg) (hi lo v : Nat) (i : OpRef) : (s.setField r hi lo v).op? i = s.op? i := rfl
@[simp] theorem setField_answers_get (r : Reg) (hi lo v : Nat) : (s.setField r hi lo v).answers = s.answers := rfl
@[simp] theorem setField_powered_get (r : Reg) (hi lo v : Nat) : (s.setField r hi lo v).powered = s.powered := rfl

/-! ### setAct -/

@[simp] theorem setAct_clock (r : Reg) (v : Word32) : (s.setAct r v).clock = s.clock := rfl
@[simp] theorem setAct_counting (r : Reg) (v : Word32) : (s.setAct r v).counting = s.counting := rfl
@[simp] theorem setAct_regs (r : Reg) (v : Word32) : (s.setAct r v).regs = s.regs := rfl
@[simp] theorem setAct_msix (r : Reg) (v : Word32) : (s.setAct r v).msix = s.msix := rfl
@[simp] theorem setAct_msixPending (r : Reg) (v : Word32) : (s.setAct r v).msixPending = s.msixPending := rfl
@[simp] theorem setAct_mem (r : Reg) (v : Word32) : (s.setAct r v).mem = s.mem := rfl
@[simp] theorem setAct_memBad (r : Reg) (v : Word32) : (s.setAct r v).memBad = s.memBad := rfl
@[simp] theorem setAct_reservations (r : Reg) (v : Word32) : (s.setAct r v).reservations = s.reservations := rfl
@[simp] theorem setAct_host (r : Reg) (v : Word32) : (s.setAct r v).host = s.host := rfl
@[simp] theorem setAct_hanks (r : Reg) (v : Word32) : (s.setAct r v).hanks = s.hanks := rfl
@[simp] theorem setAct_sites (r : Reg) (v : Word32) : (s.setAct r v).sites = s.sites := rfl
@[simp] theorem setAct_tiles (r : Reg) (v : Word32) : (s.setAct r v).tiles = s.tiles := rfl
@[simp] theorem setAct_parts (r : Reg) (v : Word32) : (s.setAct r v).parts = s.parts := rfl
@[simp] theorem setAct_ports (r : Reg) (v : Word32) : (s.setAct r v).ports = s.ports := rfl
@[simp] theorem setAct_routes (r : Reg) (v : Word32) : (s.setAct r v).routes = s.routes := rfl
@[simp] theorem setAct_jobs (r : Reg) (v : Word32) : (s.setAct r v).jobs = s.jobs := rfl
@[simp] theorem setAct_nextJob (r : Reg) (v : Word32) : (s.setAct r v).nextJob = s.nextJob := rfl
@[simp] theorem setAct_commits (r : Reg) (v : Word32) : (s.setAct r v).commits = s.commits := rfl
@[simp] theorem setAct_partCmd (r : Reg) (v : Word32) : (s.setAct r v).partCmd = s.partCmd := rfl
@[simp] theorem setAct_retireQueue (r : Reg) (v : Word32) : (s.setAct r v).retireQueue = s.retireQueue := rfl
@[simp] theorem setAct_retiring (r : Reg) (v : Word32) : (s.setAct r v).retiring = s.retiring := rfl
@[simp] theorem setAct_retirements (r : Reg) (v : Word32) : (s.setAct r v).retirements = s.retirements := rfl
@[simp] theorem setAct_service (r : Reg) (v : Word32) : (s.setAct r v).service = s.service := rfl
@[simp] theorem setAct_fabric (r : Reg) (v : Word32) : (s.setAct r v).fabric = s.fabric := rfl
@[simp] theorem setAct_segFault (r : Reg) (v : Word32) : (s.setAct r v).segFault = s.segFault := rfl
@[simp] theorem setAct_colFenced (r : Reg) (v : Word32) : (s.setAct r v).colFenced = s.colFenced := rfl
@[simp] theorem setAct_power (r : Reg) (v : Word32) : (s.setAct r v).power = s.power := rfl
@[simp] theorem setAct_mgmt (r : Reg) (v : Word32) : (s.setAct r v).mgmt = s.mgmt := rfl
@[simp] theorem setAct_lifecycle (r : Reg) (v : Word32) : (s.setAct r v).lifecycle = s.lifecycle := rfl
@[simp] theorem setAct_grade (r : Reg) (v : Word32) : (s.setAct r v).grade = s.grade := rfl
@[simp] theorem setAct_store (r : Reg) (v : Word32) : (s.setAct r v).store = s.store := rfl
@[simp] theorem setAct_storeBusy (r : Reg) (v : Word32) : (s.setAct r v).storeBusy = s.storeBusy := rfl
@[simp] theorem setAct_storeQueue (r : Reg) (v : Word32) : (s.setAct r v).storeQueue = s.storeQueue := rfl
@[simp] theorem setAct_serial (r : Reg) (v : Word32) : (s.setAct r v).serial = s.serial := rfl
@[simp] theorem setAct_replayKey (r : Reg) (v : Word32) : (s.setAct r v).replayKey = s.replayKey := rfl
@[simp] theorem setAct_attested (r : Reg) (v : Word32) : (s.setAct r v).attested = s.attested := rfl
@[simp] theorem setAct_identityCert (r : Reg) (v : Word32) : (s.setAct r v).identityCert = s.identityCert := rfl
@[simp] theorem setAct_slots (r : Reg) (v : Word32) : (s.setAct r v).slots = s.slots := rfl
@[simp] theorem setAct_fresh (r : Reg) (v : Word32) : (s.setAct r v).fresh = s.fresh := rfl
@[simp] theorem setAct_out (r : Reg) (v : Word32) : (s.setAct r v).out = s.out := rfl
@[simp] theorem setAct_pending (r : Reg) (v : Word32) : (s.setAct r v).pending = s.pending := rfl
@[simp] theorem setAct_part_get (r : Reg) (v : Word32) (i : Nat) : (s.setAct r v).part i = s.part i := rfl
@[simp] theorem setAct_tile_get (r : Reg) (v : Word32) (i : Nat) : (s.setAct r v).tile i = s.tile i := rfl
@[simp] theorem setAct_site_get (r : Reg) (v : Word32) (i : Nat) : (s.setAct r v).site i = s.site i := rfl
@[simp] theorem setAct_hank_get (r : Reg) (v : Word32) (i : Nat) : (s.setAct r v).hank i = s.hank i := rfl
@[simp] theorem setAct_port_get (r : Reg) (v : Word32) (i : Nat) : (s.setAct r v).port i = s.port i := rfl
@[simp] theorem setAct_reg_get (r : Reg) (v : Word32) (i : Reg) : (s.setAct r v).reg i = s.reg i := rfl
@[simp] theorem setAct_byte_get (r : Reg) (v : Word32) (i : Nat) : (s.setAct r v).byte i = s.byte i := rfl
@[simp] theorem setAct_ring_get (r : Reg) (v : Word32) (i k : Nat) : (s.setAct r v).ring i k = s.ring i k := rfl
@[simp] theorem setAct_op_find (r : Reg) (v : Word32) (i : OpRef) : (s.setAct r v).op? i = s.op? i := rfl
@[simp] theorem setAct_answers_get (r : Reg) (v : Word32) : (s.setAct r v).answers = s.answers := rfl
@[simp] theorem setAct_powered_get (r : Reg) (v : Word32) : (s.setAct r v).powered = s.powered := rfl

/-! ### putActive -/

@[simp] theorem putActive_clock (vs : List (Nat × Word32)) : (s.putActive vs).clock = s.clock := rfl
@[simp] theorem putActive_counting (vs : List (Nat × Word32)) : (s.putActive vs).counting = s.counting := rfl
@[simp] theorem putActive_regs (vs : List (Nat × Word32)) : (s.putActive vs).regs = s.regs := rfl
@[simp] theorem putActive_msix (vs : List (Nat × Word32)) : (s.putActive vs).msix = s.msix := rfl
@[simp] theorem putActive_msixPending (vs : List (Nat × Word32)) : (s.putActive vs).msixPending = s.msixPending := rfl
@[simp] theorem putActive_mem (vs : List (Nat × Word32)) : (s.putActive vs).mem = s.mem := rfl
@[simp] theorem putActive_memBad (vs : List (Nat × Word32)) : (s.putActive vs).memBad = s.memBad := rfl
@[simp] theorem putActive_reservations (vs : List (Nat × Word32)) : (s.putActive vs).reservations = s.reservations := rfl
@[simp] theorem putActive_host (vs : List (Nat × Word32)) : (s.putActive vs).host = s.host := rfl
@[simp] theorem putActive_hanks (vs : List (Nat × Word32)) : (s.putActive vs).hanks = s.hanks := rfl
@[simp] theorem putActive_sites (vs : List (Nat × Word32)) : (s.putActive vs).sites = s.sites := rfl
@[simp] theorem putActive_tiles (vs : List (Nat × Word32)) : (s.putActive vs).tiles = s.tiles := rfl
@[simp] theorem putActive_parts (vs : List (Nat × Word32)) : (s.putActive vs).parts = s.parts := rfl
@[simp] theorem putActive_ports (vs : List (Nat × Word32)) : (s.putActive vs).ports = s.ports := rfl
@[simp] theorem putActive_routes (vs : List (Nat × Word32)) : (s.putActive vs).routes = s.routes := rfl
@[simp] theorem putActive_jobs (vs : List (Nat × Word32)) : (s.putActive vs).jobs = s.jobs := rfl
@[simp] theorem putActive_nextJob (vs : List (Nat × Word32)) : (s.putActive vs).nextJob = s.nextJob := rfl
@[simp] theorem putActive_commits (vs : List (Nat × Word32)) : (s.putActive vs).commits = s.commits := rfl
@[simp] theorem putActive_partCmd (vs : List (Nat × Word32)) : (s.putActive vs).partCmd = s.partCmd := rfl
@[simp] theorem putActive_retireQueue (vs : List (Nat × Word32)) : (s.putActive vs).retireQueue = s.retireQueue := rfl
@[simp] theorem putActive_retiring (vs : List (Nat × Word32)) : (s.putActive vs).retiring = s.retiring := rfl
@[simp] theorem putActive_retirements (vs : List (Nat × Word32)) : (s.putActive vs).retirements = s.retirements := rfl
@[simp] theorem putActive_service (vs : List (Nat × Word32)) : (s.putActive vs).service = s.service := rfl
@[simp] theorem putActive_fabric (vs : List (Nat × Word32)) : (s.putActive vs).fabric = s.fabric := rfl
@[simp] theorem putActive_segFault (vs : List (Nat × Word32)) : (s.putActive vs).segFault = s.segFault := rfl
@[simp] theorem putActive_colFenced (vs : List (Nat × Word32)) : (s.putActive vs).colFenced = s.colFenced := rfl
@[simp] theorem putActive_power (vs : List (Nat × Word32)) : (s.putActive vs).power = s.power := rfl
@[simp] theorem putActive_mgmt (vs : List (Nat × Word32)) : (s.putActive vs).mgmt = s.mgmt := rfl
@[simp] theorem putActive_lifecycle (vs : List (Nat × Word32)) : (s.putActive vs).lifecycle = s.lifecycle := rfl
@[simp] theorem putActive_grade (vs : List (Nat × Word32)) : (s.putActive vs).grade = s.grade := rfl
@[simp] theorem putActive_store (vs : List (Nat × Word32)) : (s.putActive vs).store = s.store := rfl
@[simp] theorem putActive_storeBusy (vs : List (Nat × Word32)) : (s.putActive vs).storeBusy = s.storeBusy := rfl
@[simp] theorem putActive_storeQueue (vs : List (Nat × Word32)) : (s.putActive vs).storeQueue = s.storeQueue := rfl
@[simp] theorem putActive_serial (vs : List (Nat × Word32)) : (s.putActive vs).serial = s.serial := rfl
@[simp] theorem putActive_replayKey (vs : List (Nat × Word32)) : (s.putActive vs).replayKey = s.replayKey := rfl
@[simp] theorem putActive_attested (vs : List (Nat × Word32)) : (s.putActive vs).attested = s.attested := rfl
@[simp] theorem putActive_identityCert (vs : List (Nat × Word32)) : (s.putActive vs).identityCert = s.identityCert := rfl
@[simp] theorem putActive_slots (vs : List (Nat × Word32)) : (s.putActive vs).slots = s.slots := rfl
@[simp] theorem putActive_fresh (vs : List (Nat × Word32)) : (s.putActive vs).fresh = s.fresh := rfl
@[simp] theorem putActive_out (vs : List (Nat × Word32)) : (s.putActive vs).out = s.out := rfl
@[simp] theorem putActive_pending (vs : List (Nat × Word32)) : (s.putActive vs).pending = s.pending := rfl
@[simp] theorem putActive_part_get (vs : List (Nat × Word32)) (i : Nat) : (s.putActive vs).part i = s.part i := rfl
@[simp] theorem putActive_tile_get (vs : List (Nat × Word32)) (i : Nat) : (s.putActive vs).tile i = s.tile i := rfl
@[simp] theorem putActive_site_get (vs : List (Nat × Word32)) (i : Nat) : (s.putActive vs).site i = s.site i := rfl
@[simp] theorem putActive_hank_get (vs : List (Nat × Word32)) (i : Nat) : (s.putActive vs).hank i = s.hank i := rfl
@[simp] theorem putActive_port_get (vs : List (Nat × Word32)) (i : Nat) : (s.putActive vs).port i = s.port i := rfl
@[simp] theorem putActive_reg_get (vs : List (Nat × Word32)) (i : Reg) : (s.putActive vs).reg i = s.reg i := rfl
@[simp] theorem putActive_byte_get (vs : List (Nat × Word32)) (i : Nat) : (s.putActive vs).byte i = s.byte i := rfl
@[simp] theorem putActive_ring_get (vs : List (Nat × Word32)) (i k : Nat) : (s.putActive vs).ring i k = s.ring i k := rfl
@[simp] theorem putActive_op_find (vs : List (Nat × Word32)) (i : OpRef) : (s.putActive vs).op? i = s.op? i := rfl
@[simp] theorem putActive_answers_get (vs : List (Nat × Word32)) : (s.putActive vs).answers = s.answers := rfl
@[simp] theorem putActive_powered_get (vs : List (Nat × Word32)) : (s.putActive vs).powered = s.powered := rfl

/-! ### emit -/

@[simp] theorem emit_clock (o : Output) : (s.emit o).clock = s.clock := rfl
@[simp] theorem emit_counting (o : Output) : (s.emit o).counting = s.counting := rfl
@[simp] theorem emit_regs (o : Output) : (s.emit o).regs = s.regs := rfl
@[simp] theorem emit_active (o : Output) : (s.emit o).active = s.active := rfl
@[simp] theorem emit_msix (o : Output) : (s.emit o).msix = s.msix := rfl
@[simp] theorem emit_msixPending (o : Output) : (s.emit o).msixPending = s.msixPending := rfl
@[simp] theorem emit_mem (o : Output) : (s.emit o).mem = s.mem := rfl
@[simp] theorem emit_memBad (o : Output) : (s.emit o).memBad = s.memBad := rfl
@[simp] theorem emit_reservations (o : Output) : (s.emit o).reservations = s.reservations := rfl
@[simp] theorem emit_host (o : Output) : (s.emit o).host = s.host := rfl
@[simp] theorem emit_hanks (o : Output) : (s.emit o).hanks = s.hanks := rfl
@[simp] theorem emit_sites (o : Output) : (s.emit o).sites = s.sites := rfl
@[simp] theorem emit_tiles (o : Output) : (s.emit o).tiles = s.tiles := rfl
@[simp] theorem emit_parts (o : Output) : (s.emit o).parts = s.parts := rfl
@[simp] theorem emit_ports (o : Output) : (s.emit o).ports = s.ports := rfl
@[simp] theorem emit_routes (o : Output) : (s.emit o).routes = s.routes := rfl
@[simp] theorem emit_jobs (o : Output) : (s.emit o).jobs = s.jobs := rfl
@[simp] theorem emit_nextJob (o : Output) : (s.emit o).nextJob = s.nextJob := rfl
@[simp] theorem emit_commits (o : Output) : (s.emit o).commits = s.commits := rfl
@[simp] theorem emit_partCmd (o : Output) : (s.emit o).partCmd = s.partCmd := rfl
@[simp] theorem emit_retireQueue (o : Output) : (s.emit o).retireQueue = s.retireQueue := rfl
@[simp] theorem emit_retiring (o : Output) : (s.emit o).retiring = s.retiring := rfl
@[simp] theorem emit_retirements (o : Output) : (s.emit o).retirements = s.retirements := rfl
@[simp] theorem emit_service (o : Output) : (s.emit o).service = s.service := rfl
@[simp] theorem emit_fabric (o : Output) : (s.emit o).fabric = s.fabric := rfl
@[simp] theorem emit_segFault (o : Output) : (s.emit o).segFault = s.segFault := rfl
@[simp] theorem emit_colFenced (o : Output) : (s.emit o).colFenced = s.colFenced := rfl
@[simp] theorem emit_power (o : Output) : (s.emit o).power = s.power := rfl
@[simp] theorem emit_mgmt (o : Output) : (s.emit o).mgmt = s.mgmt := rfl
@[simp] theorem emit_lifecycle (o : Output) : (s.emit o).lifecycle = s.lifecycle := rfl
@[simp] theorem emit_grade (o : Output) : (s.emit o).grade = s.grade := rfl
@[simp] theorem emit_store (o : Output) : (s.emit o).store = s.store := rfl
@[simp] theorem emit_storeBusy (o : Output) : (s.emit o).storeBusy = s.storeBusy := rfl
@[simp] theorem emit_storeQueue (o : Output) : (s.emit o).storeQueue = s.storeQueue := rfl
@[simp] theorem emit_serial (o : Output) : (s.emit o).serial = s.serial := rfl
@[simp] theorem emit_replayKey (o : Output) : (s.emit o).replayKey = s.replayKey := rfl
@[simp] theorem emit_attested (o : Output) : (s.emit o).attested = s.attested := rfl
@[simp] theorem emit_identityCert (o : Output) : (s.emit o).identityCert = s.identityCert := rfl
@[simp] theorem emit_slots (o : Output) : (s.emit o).slots = s.slots := rfl
@[simp] theorem emit_fresh (o : Output) : (s.emit o).fresh = s.fresh := rfl
@[simp] theorem emit_pending (o : Output) : (s.emit o).pending = s.pending := rfl
@[simp] theorem emit_part_get (o : Output) (i : Nat) : (s.emit o).part i = s.part i := rfl
@[simp] theorem emit_tile_get (o : Output) (i : Nat) : (s.emit o).tile i = s.tile i := rfl
@[simp] theorem emit_site_get (o : Output) (i : Nat) : (s.emit o).site i = s.site i := rfl
@[simp] theorem emit_hank_get (o : Output) (i : Nat) : (s.emit o).hank i = s.hank i := rfl
@[simp] theorem emit_port_get (o : Output) (i : Nat) : (s.emit o).port i = s.port i := rfl
@[simp] theorem emit_reg_get (o : Output) (i : Reg) : (s.emit o).reg i = s.reg i := rfl
@[simp] theorem emit_act_get (o : Output) (i : Reg) : (s.emit o).act i = s.act i := rfl
@[simp] theorem emit_byte_get (o : Output) (i : Nat) : (s.emit o).byte i = s.byte i := rfl
@[simp] theorem emit_ring_get (o : Output) (i k : Nat) : (s.emit o).ring i k = s.ring i k := rfl
@[simp] theorem emit_op_find (o : Output) (i : OpRef) : (s.emit o).op? i = s.op? i := rfl
@[simp] theorem emit_answers_get (o : Output) : (s.emit o).answers = s.answers := rfl
@[simp] theorem emit_powered_get (o : Output) : (s.emit o).powered = s.powered := rfl

/-! ### writeHost -/

@[simp] theorem writeHost_clock (h a : Nat) (bs : List Byte) : (s.writeHost h a bs).clock = s.clock := rfl
@[simp] theorem writeHost_counting (h a : Nat) (bs : List Byte) : (s.writeHost h a bs).counting = s.counting := rfl
@[simp] theorem writeHost_regs (h a : Nat) (bs : List Byte) : (s.writeHost h a bs).regs = s.regs := rfl
@[simp] theorem writeHost_active (h a : Nat) (bs : List Byte) : (s.writeHost h a bs).active = s.active := rfl
@[simp] theorem writeHost_msix (h a : Nat) (bs : List Byte) : (s.writeHost h a bs).msix = s.msix := rfl
@[simp] theorem writeHost_msixPending (h a : Nat) (bs : List Byte) : (s.writeHost h a bs).msixPending = s.msixPending := rfl
@[simp] theorem writeHost_mem (h a : Nat) (bs : List Byte) : (s.writeHost h a bs).mem = s.mem := rfl
@[simp] theorem writeHost_memBad (h a : Nat) (bs : List Byte) : (s.writeHost h a bs).memBad = s.memBad := rfl
@[simp] theorem writeHost_reservations (h a : Nat) (bs : List Byte) : (s.writeHost h a bs).reservations = s.reservations := rfl
@[simp] theorem writeHost_hanks (h a : Nat) (bs : List Byte) : (s.writeHost h a bs).hanks = s.hanks := rfl
@[simp] theorem writeHost_sites (h a : Nat) (bs : List Byte) : (s.writeHost h a bs).sites = s.sites := rfl
@[simp] theorem writeHost_tiles (h a : Nat) (bs : List Byte) : (s.writeHost h a bs).tiles = s.tiles := rfl
@[simp] theorem writeHost_parts (h a : Nat) (bs : List Byte) : (s.writeHost h a bs).parts = s.parts := rfl
@[simp] theorem writeHost_ports (h a : Nat) (bs : List Byte) : (s.writeHost h a bs).ports = s.ports := rfl
@[simp] theorem writeHost_routes (h a : Nat) (bs : List Byte) : (s.writeHost h a bs).routes = s.routes := rfl
@[simp] theorem writeHost_jobs (h a : Nat) (bs : List Byte) : (s.writeHost h a bs).jobs = s.jobs := rfl
@[simp] theorem writeHost_nextJob (h a : Nat) (bs : List Byte) : (s.writeHost h a bs).nextJob = s.nextJob := rfl
@[simp] theorem writeHost_commits (h a : Nat) (bs : List Byte) : (s.writeHost h a bs).commits = s.commits := rfl
@[simp] theorem writeHost_partCmd (h a : Nat) (bs : List Byte) : (s.writeHost h a bs).partCmd = s.partCmd := rfl
@[simp] theorem writeHost_retireQueue (h a : Nat) (bs : List Byte) : (s.writeHost h a bs).retireQueue = s.retireQueue := rfl
@[simp] theorem writeHost_retiring (h a : Nat) (bs : List Byte) : (s.writeHost h a bs).retiring = s.retiring := rfl
@[simp] theorem writeHost_retirements (h a : Nat) (bs : List Byte) : (s.writeHost h a bs).retirements = s.retirements := rfl
@[simp] theorem writeHost_service (h a : Nat) (bs : List Byte) : (s.writeHost h a bs).service = s.service := rfl
@[simp] theorem writeHost_fabric (h a : Nat) (bs : List Byte) : (s.writeHost h a bs).fabric = s.fabric := rfl
@[simp] theorem writeHost_segFault (h a : Nat) (bs : List Byte) : (s.writeHost h a bs).segFault = s.segFault := rfl
@[simp] theorem writeHost_colFenced (h a : Nat) (bs : List Byte) : (s.writeHost h a bs).colFenced = s.colFenced := rfl
@[simp] theorem writeHost_power (h a : Nat) (bs : List Byte) : (s.writeHost h a bs).power = s.power := rfl
@[simp] theorem writeHost_mgmt (h a : Nat) (bs : List Byte) : (s.writeHost h a bs).mgmt = s.mgmt := rfl
@[simp] theorem writeHost_lifecycle (h a : Nat) (bs : List Byte) : (s.writeHost h a bs).lifecycle = s.lifecycle := rfl
@[simp] theorem writeHost_grade (h a : Nat) (bs : List Byte) : (s.writeHost h a bs).grade = s.grade := rfl
@[simp] theorem writeHost_store (h a : Nat) (bs : List Byte) : (s.writeHost h a bs).store = s.store := rfl
@[simp] theorem writeHost_storeBusy (h a : Nat) (bs : List Byte) : (s.writeHost h a bs).storeBusy = s.storeBusy := rfl
@[simp] theorem writeHost_storeQueue (h a : Nat) (bs : List Byte) : (s.writeHost h a bs).storeQueue = s.storeQueue := rfl
@[simp] theorem writeHost_serial (h a : Nat) (bs : List Byte) : (s.writeHost h a bs).serial = s.serial := rfl
@[simp] theorem writeHost_replayKey (h a : Nat) (bs : List Byte) : (s.writeHost h a bs).replayKey = s.replayKey := rfl
@[simp] theorem writeHost_attested (h a : Nat) (bs : List Byte) : (s.writeHost h a bs).attested = s.attested := rfl
@[simp] theorem writeHost_identityCert (h a : Nat) (bs : List Byte) : (s.writeHost h a bs).identityCert = s.identityCert := rfl
@[simp] theorem writeHost_slots (h a : Nat) (bs : List Byte) : (s.writeHost h a bs).slots = s.slots := rfl
@[simp] theorem writeHost_fresh (h a : Nat) (bs : List Byte) : (s.writeHost h a bs).fresh = s.fresh := rfl
@[simp] theorem writeHost_out (h a : Nat) (bs : List Byte) : (s.writeHost h a bs).out = s.out := rfl
@[simp] theorem writeHost_pending (h a : Nat) (bs : List Byte) : (s.writeHost h a bs).pending = s.pending := rfl
@[simp] theorem writeHost_part_get (h a : Nat) (bs : List Byte) (i : Nat) : (s.writeHost h a bs).part i = s.part i := rfl
@[simp] theorem writeHost_tile_get (h a : Nat) (bs : List Byte) (i : Nat) : (s.writeHost h a bs).tile i = s.tile i := rfl
@[simp] theorem writeHost_site_get (h a : Nat) (bs : List Byte) (i : Nat) : (s.writeHost h a bs).site i = s.site i := rfl
@[simp] theorem writeHost_hank_get (h a : Nat) (bs : List Byte) (i : Nat) : (s.writeHost h a bs).hank i = s.hank i := rfl
@[simp] theorem writeHost_port_get (h a : Nat) (bs : List Byte) (i : Nat) : (s.writeHost h a bs).port i = s.port i := rfl
@[simp] theorem writeHost_reg_get (h a : Nat) (bs : List Byte) (i : Reg) : (s.writeHost h a bs).reg i = s.reg i := rfl
@[simp] theorem writeHost_act_get (h a : Nat) (bs : List Byte) (i : Reg) : (s.writeHost h a bs).act i = s.act i := rfl
@[simp] theorem writeHost_byte_get (h a : Nat) (bs : List Byte) (i : Nat) : (s.writeHost h a bs).byte i = s.byte i := rfl
@[simp] theorem writeHost_ring_get (h a : Nat) (bs : List Byte) (i k : Nat) : (s.writeHost h a bs).ring i k = s.ring i k := rfl
@[simp] theorem writeHost_op_find (h a : Nat) (bs : List Byte) (i : OpRef) : (s.writeHost h a bs).op? i = s.op? i := rfl
@[simp] theorem writeHost_answers_get (h a : Nat) (bs : List Byte) : (s.writeHost h a bs).answers = s.answers := rfl
@[simp] theorem writeHost_powered_get (h a : Nat) (bs : List Byte) : (s.writeHost h a bs).powered = s.powered := rfl

/-! ### startCommit -/

@[simp] theorem startCommit_clock (g : Group) (rs : List Reg) : (s.startCommit g rs).clock = s.clock := rfl
@[simp] theorem startCommit_counting (g : Group) (rs : List Reg) : (s.startCommit g rs).counting = s.counting := rfl
@[simp] theorem startCommit_regs (g : Group) (rs : List Reg) : (s.startCommit g rs).regs = s.regs := rfl
@[simp] theorem startCommit_active (g : Group) (rs : List Reg) : (s.startCommit g rs).active = s.active := rfl
@[simp] theorem startCommit_msix (g : Group) (rs : List Reg) : (s.startCommit g rs).msix = s.msix := rfl
@[simp] theorem startCommit_msixPending (g : Group) (rs : List Reg) : (s.startCommit g rs).msixPending = s.msixPending := rfl
@[simp] theorem startCommit_mem (g : Group) (rs : List Reg) : (s.startCommit g rs).mem = s.mem := rfl
@[simp] theorem startCommit_memBad (g : Group) (rs : List Reg) : (s.startCommit g rs).memBad = s.memBad := rfl
@[simp] theorem startCommit_reservations (g : Group) (rs : List Reg) : (s.startCommit g rs).reservations = s.reservations := rfl
@[simp] theorem startCommit_host (g : Group) (rs : List Reg) : (s.startCommit g rs).host = s.host := rfl
@[simp] theorem startCommit_hanks (g : Group) (rs : List Reg) : (s.startCommit g rs).hanks = s.hanks := rfl
@[simp] theorem startCommit_sites (g : Group) (rs : List Reg) : (s.startCommit g rs).sites = s.sites := rfl
@[simp] theorem startCommit_tiles (g : Group) (rs : List Reg) : (s.startCommit g rs).tiles = s.tiles := rfl
@[simp] theorem startCommit_parts (g : Group) (rs : List Reg) : (s.startCommit g rs).parts = s.parts := rfl
@[simp] theorem startCommit_ports (g : Group) (rs : List Reg) : (s.startCommit g rs).ports = s.ports := rfl
@[simp] theorem startCommit_routes (g : Group) (rs : List Reg) : (s.startCommit g rs).routes = s.routes := rfl
@[simp] theorem startCommit_jobs (g : Group) (rs : List Reg) : (s.startCommit g rs).jobs = s.jobs := rfl
@[simp] theorem startCommit_nextJob (g : Group) (rs : List Reg) : (s.startCommit g rs).nextJob = s.nextJob := rfl
@[simp] theorem startCommit_partCmd (g : Group) (rs : List Reg) : (s.startCommit g rs).partCmd = s.partCmd := rfl
@[simp] theorem startCommit_retireQueue (g : Group) (rs : List Reg) : (s.startCommit g rs).retireQueue = s.retireQueue := rfl
@[simp] theorem startCommit_retiring (g : Group) (rs : List Reg) : (s.startCommit g rs).retiring = s.retiring := rfl
@[simp] theorem startCommit_retirements (g : Group) (rs : List Reg) : (s.startCommit g rs).retirements = s.retirements := rfl
@[simp] theorem startCommit_service (g : Group) (rs : List Reg) : (s.startCommit g rs).service = s.service := rfl
@[simp] theorem startCommit_fabric (g : Group) (rs : List Reg) : (s.startCommit g rs).fabric = s.fabric := rfl
@[simp] theorem startCommit_segFault (g : Group) (rs : List Reg) : (s.startCommit g rs).segFault = s.segFault := rfl
@[simp] theorem startCommit_colFenced (g : Group) (rs : List Reg) : (s.startCommit g rs).colFenced = s.colFenced := rfl
@[simp] theorem startCommit_power (g : Group) (rs : List Reg) : (s.startCommit g rs).power = s.power := rfl
@[simp] theorem startCommit_mgmt (g : Group) (rs : List Reg) : (s.startCommit g rs).mgmt = s.mgmt := rfl
@[simp] theorem startCommit_lifecycle (g : Group) (rs : List Reg) : (s.startCommit g rs).lifecycle = s.lifecycle := rfl
@[simp] theorem startCommit_grade (g : Group) (rs : List Reg) : (s.startCommit g rs).grade = s.grade := rfl
@[simp] theorem startCommit_store (g : Group) (rs : List Reg) : (s.startCommit g rs).store = s.store := rfl
@[simp] theorem startCommit_storeBusy (g : Group) (rs : List Reg) : (s.startCommit g rs).storeBusy = s.storeBusy := rfl
@[simp] theorem startCommit_storeQueue (g : Group) (rs : List Reg) : (s.startCommit g rs).storeQueue = s.storeQueue := rfl
@[simp] theorem startCommit_serial (g : Group) (rs : List Reg) : (s.startCommit g rs).serial = s.serial := rfl
@[simp] theorem startCommit_replayKey (g : Group) (rs : List Reg) : (s.startCommit g rs).replayKey = s.replayKey := rfl
@[simp] theorem startCommit_attested (g : Group) (rs : List Reg) : (s.startCommit g rs).attested = s.attested := rfl
@[simp] theorem startCommit_identityCert (g : Group) (rs : List Reg) : (s.startCommit g rs).identityCert = s.identityCert := rfl
@[simp] theorem startCommit_slots (g : Group) (rs : List Reg) : (s.startCommit g rs).slots = s.slots := rfl
@[simp] theorem startCommit_fresh (g : Group) (rs : List Reg) : (s.startCommit g rs).fresh = s.fresh := rfl
@[simp] theorem startCommit_out (g : Group) (rs : List Reg) : (s.startCommit g rs).out = s.out := rfl
@[simp] theorem startCommit_pending (g : Group) (rs : List Reg) : (s.startCommit g rs).pending = s.pending := rfl
@[simp] theorem startCommit_part_get (g : Group) (rs : List Reg) (i : Nat) : (s.startCommit g rs).part i = s.part i := rfl
@[simp] theorem startCommit_tile_get (g : Group) (rs : List Reg) (i : Nat) : (s.startCommit g rs).tile i = s.tile i := rfl
@[simp] theorem startCommit_site_get (g : Group) (rs : List Reg) (i : Nat) : (s.startCommit g rs).site i = s.site i := rfl
@[simp] theorem startCommit_hank_get (g : Group) (rs : List Reg) (i : Nat) : (s.startCommit g rs).hank i = s.hank i := rfl
@[simp] theorem startCommit_port_get (g : Group) (rs : List Reg) (i : Nat) : (s.startCommit g rs).port i = s.port i := rfl
@[simp] theorem startCommit_reg_get (g : Group) (rs : List Reg) (i : Reg) : (s.startCommit g rs).reg i = s.reg i := rfl
@[simp] theorem startCommit_act_get (g : Group) (rs : List Reg) (i : Reg) : (s.startCommit g rs).act i = s.act i := rfl
@[simp] theorem startCommit_byte_get (g : Group) (rs : List Reg) (i : Nat) : (s.startCommit g rs).byte i = s.byte i := rfl
@[simp] theorem startCommit_ring_get (g : Group) (rs : List Reg) (i k : Nat) : (s.startCommit g rs).ring i k = s.ring i k := rfl
@[simp] theorem startCommit_op_find (g : Group) (rs : List Reg) (i : OpRef) : (s.startCommit g rs).op? i = s.op? i := rfl
@[simp] theorem startCommit_answers_get (g : Group) (rs : List Reg) : (s.startCommit g rs).answers = s.answers := rfl
@[simp] theorem startCommit_powered_get (g : Group) (rs : List Reg) : (s.startCommit g rs).powered = s.powered := rfl

/-! ### dropCommit -/

@[simp] theorem dropCommit_clock (g : Group) : (s.dropCommit g).clock = s.clock := rfl
@[simp] theorem dropCommit_counting (g : Group) : (s.dropCommit g).counting = s.counting := rfl
@[simp] theorem dropCommit_regs (g : Group) : (s.dropCommit g).regs = s.regs := rfl
@[simp] theorem dropCommit_active (g : Group) : (s.dropCommit g).active = s.active := rfl
@[simp] theorem dropCommit_msix (g : Group) : (s.dropCommit g).msix = s.msix := rfl
@[simp] theorem dropCommit_msixPending (g : Group) : (s.dropCommit g).msixPending = s.msixPending := rfl
@[simp] theorem dropCommit_mem (g : Group) : (s.dropCommit g).mem = s.mem := rfl
@[simp] theorem dropCommit_memBad (g : Group) : (s.dropCommit g).memBad = s.memBad := rfl
@[simp] theorem dropCommit_reservations (g : Group) : (s.dropCommit g).reservations = s.reservations := rfl
@[simp] theorem dropCommit_host (g : Group) : (s.dropCommit g).host = s.host := rfl
@[simp] theorem dropCommit_hanks (g : Group) : (s.dropCommit g).hanks = s.hanks := rfl
@[simp] theorem dropCommit_sites (g : Group) : (s.dropCommit g).sites = s.sites := rfl
@[simp] theorem dropCommit_tiles (g : Group) : (s.dropCommit g).tiles = s.tiles := rfl
@[simp] theorem dropCommit_parts (g : Group) : (s.dropCommit g).parts = s.parts := rfl
@[simp] theorem dropCommit_ports (g : Group) : (s.dropCommit g).ports = s.ports := rfl
@[simp] theorem dropCommit_routes (g : Group) : (s.dropCommit g).routes = s.routes := rfl
@[simp] theorem dropCommit_jobs (g : Group) : (s.dropCommit g).jobs = s.jobs := rfl
@[simp] theorem dropCommit_nextJob (g : Group) : (s.dropCommit g).nextJob = s.nextJob := rfl
@[simp] theorem dropCommit_partCmd (g : Group) : (s.dropCommit g).partCmd = s.partCmd := rfl
@[simp] theorem dropCommit_retireQueue (g : Group) : (s.dropCommit g).retireQueue = s.retireQueue := rfl
@[simp] theorem dropCommit_retiring (g : Group) : (s.dropCommit g).retiring = s.retiring := rfl
@[simp] theorem dropCommit_retirements (g : Group) : (s.dropCommit g).retirements = s.retirements := rfl
@[simp] theorem dropCommit_service (g : Group) : (s.dropCommit g).service = s.service := rfl
@[simp] theorem dropCommit_fabric (g : Group) : (s.dropCommit g).fabric = s.fabric := rfl
@[simp] theorem dropCommit_segFault (g : Group) : (s.dropCommit g).segFault = s.segFault := rfl
@[simp] theorem dropCommit_colFenced (g : Group) : (s.dropCommit g).colFenced = s.colFenced := rfl
@[simp] theorem dropCommit_power (g : Group) : (s.dropCommit g).power = s.power := rfl
@[simp] theorem dropCommit_mgmt (g : Group) : (s.dropCommit g).mgmt = s.mgmt := rfl
@[simp] theorem dropCommit_lifecycle (g : Group) : (s.dropCommit g).lifecycle = s.lifecycle := rfl
@[simp] theorem dropCommit_grade (g : Group) : (s.dropCommit g).grade = s.grade := rfl
@[simp] theorem dropCommit_store (g : Group) : (s.dropCommit g).store = s.store := rfl
@[simp] theorem dropCommit_storeBusy (g : Group) : (s.dropCommit g).storeBusy = s.storeBusy := rfl
@[simp] theorem dropCommit_storeQueue (g : Group) : (s.dropCommit g).storeQueue = s.storeQueue := rfl
@[simp] theorem dropCommit_serial (g : Group) : (s.dropCommit g).serial = s.serial := rfl
@[simp] theorem dropCommit_replayKey (g : Group) : (s.dropCommit g).replayKey = s.replayKey := rfl
@[simp] theorem dropCommit_attested (g : Group) : (s.dropCommit g).attested = s.attested := rfl
@[simp] theorem dropCommit_identityCert (g : Group) : (s.dropCommit g).identityCert = s.identityCert := rfl
@[simp] theorem dropCommit_slots (g : Group) : (s.dropCommit g).slots = s.slots := rfl
@[simp] theorem dropCommit_fresh (g : Group) : (s.dropCommit g).fresh = s.fresh := rfl
@[simp] theorem dropCommit_out (g : Group) : (s.dropCommit g).out = s.out := rfl
@[simp] theorem dropCommit_pending (g : Group) : (s.dropCommit g).pending = s.pending := rfl
@[simp] theorem dropCommit_part_get (g : Group) (i : Nat) : (s.dropCommit g).part i = s.part i := rfl
@[simp] theorem dropCommit_tile_get (g : Group) (i : Nat) : (s.dropCommit g).tile i = s.tile i := rfl
@[simp] theorem dropCommit_site_get (g : Group) (i : Nat) : (s.dropCommit g).site i = s.site i := rfl
@[simp] theorem dropCommit_hank_get (g : Group) (i : Nat) : (s.dropCommit g).hank i = s.hank i := rfl
@[simp] theorem dropCommit_port_get (g : Group) (i : Nat) : (s.dropCommit g).port i = s.port i := rfl
@[simp] theorem dropCommit_reg_get (g : Group) (i : Reg) : (s.dropCommit g).reg i = s.reg i := rfl
@[simp] theorem dropCommit_act_get (g : Group) (i : Reg) : (s.dropCommit g).act i = s.act i := rfl
@[simp] theorem dropCommit_byte_get (g : Group) (i : Nat) : (s.dropCommit g).byte i = s.byte i := rfl
@[simp] theorem dropCommit_ring_get (g : Group) (i k : Nat) : (s.dropCommit g).ring i k = s.ring i k := rfl
@[simp] theorem dropCommit_op_find (g : Group) (i : OpRef) : (s.dropCommit g).op? i = s.op? i := rfl
@[simp] theorem dropCommit_answers_get (g : Group) : (s.dropCommit g).answers = s.answers := rfl
@[simp] theorem dropCommit_powered_get (g : Group) : (s.dropCommit g).powered = s.powered := rfl

/-! ### updJob -/

@[simp] theorem updJob_clock (j : Nat) (f : Job → Job) : (s.updJob j f).clock = s.clock := rfl
@[simp] theorem updJob_counting (j : Nat) (f : Job → Job) : (s.updJob j f).counting = s.counting := rfl
@[simp] theorem updJob_regs (j : Nat) (f : Job → Job) : (s.updJob j f).regs = s.regs := rfl
@[simp] theorem updJob_active (j : Nat) (f : Job → Job) : (s.updJob j f).active = s.active := rfl
@[simp] theorem updJob_msix (j : Nat) (f : Job → Job) : (s.updJob j f).msix = s.msix := rfl
@[simp] theorem updJob_msixPending (j : Nat) (f : Job → Job) : (s.updJob j f).msixPending = s.msixPending := rfl
@[simp] theorem updJob_mem (j : Nat) (f : Job → Job) : (s.updJob j f).mem = s.mem := rfl
@[simp] theorem updJob_memBad (j : Nat) (f : Job → Job) : (s.updJob j f).memBad = s.memBad := rfl
@[simp] theorem updJob_reservations (j : Nat) (f : Job → Job) : (s.updJob j f).reservations = s.reservations := rfl
@[simp] theorem updJob_host (j : Nat) (f : Job → Job) : (s.updJob j f).host = s.host := rfl
@[simp] theorem updJob_hanks (j : Nat) (f : Job → Job) : (s.updJob j f).hanks = s.hanks := rfl
@[simp] theorem updJob_sites (j : Nat) (f : Job → Job) : (s.updJob j f).sites = s.sites := rfl
@[simp] theorem updJob_tiles (j : Nat) (f : Job → Job) : (s.updJob j f).tiles = s.tiles := rfl
@[simp] theorem updJob_parts (j : Nat) (f : Job → Job) : (s.updJob j f).parts = s.parts := rfl
@[simp] theorem updJob_ports (j : Nat) (f : Job → Job) : (s.updJob j f).ports = s.ports := rfl
@[simp] theorem updJob_routes (j : Nat) (f : Job → Job) : (s.updJob j f).routes = s.routes := rfl
@[simp] theorem updJob_nextJob (j : Nat) (f : Job → Job) : (s.updJob j f).nextJob = s.nextJob := rfl
@[simp] theorem updJob_commits (j : Nat) (f : Job → Job) : (s.updJob j f).commits = s.commits := rfl
@[simp] theorem updJob_partCmd (j : Nat) (f : Job → Job) : (s.updJob j f).partCmd = s.partCmd := rfl
@[simp] theorem updJob_retireQueue (j : Nat) (f : Job → Job) : (s.updJob j f).retireQueue = s.retireQueue := rfl
@[simp] theorem updJob_retiring (j : Nat) (f : Job → Job) : (s.updJob j f).retiring = s.retiring := rfl
@[simp] theorem updJob_retirements (j : Nat) (f : Job → Job) : (s.updJob j f).retirements = s.retirements := rfl
@[simp] theorem updJob_service (j : Nat) (f : Job → Job) : (s.updJob j f).service = s.service := rfl
@[simp] theorem updJob_fabric (j : Nat) (f : Job → Job) : (s.updJob j f).fabric = s.fabric := rfl
@[simp] theorem updJob_segFault (j : Nat) (f : Job → Job) : (s.updJob j f).segFault = s.segFault := rfl
@[simp] theorem updJob_colFenced (j : Nat) (f : Job → Job) : (s.updJob j f).colFenced = s.colFenced := rfl
@[simp] theorem updJob_power (j : Nat) (f : Job → Job) : (s.updJob j f).power = s.power := rfl
@[simp] theorem updJob_mgmt (j : Nat) (f : Job → Job) : (s.updJob j f).mgmt = s.mgmt := rfl
@[simp] theorem updJob_lifecycle (j : Nat) (f : Job → Job) : (s.updJob j f).lifecycle = s.lifecycle := rfl
@[simp] theorem updJob_grade (j : Nat) (f : Job → Job) : (s.updJob j f).grade = s.grade := rfl
@[simp] theorem updJob_store (j : Nat) (f : Job → Job) : (s.updJob j f).store = s.store := rfl
@[simp] theorem updJob_storeBusy (j : Nat) (f : Job → Job) : (s.updJob j f).storeBusy = s.storeBusy := rfl
@[simp] theorem updJob_storeQueue (j : Nat) (f : Job → Job) : (s.updJob j f).storeQueue = s.storeQueue := rfl
@[simp] theorem updJob_serial (j : Nat) (f : Job → Job) : (s.updJob j f).serial = s.serial := rfl
@[simp] theorem updJob_replayKey (j : Nat) (f : Job → Job) : (s.updJob j f).replayKey = s.replayKey := rfl
@[simp] theorem updJob_attested (j : Nat) (f : Job → Job) : (s.updJob j f).attested = s.attested := rfl
@[simp] theorem updJob_identityCert (j : Nat) (f : Job → Job) : (s.updJob j f).identityCert = s.identityCert := rfl
@[simp] theorem updJob_slots (j : Nat) (f : Job → Job) : (s.updJob j f).slots = s.slots := rfl
@[simp] theorem updJob_fresh (j : Nat) (f : Job → Job) : (s.updJob j f).fresh = s.fresh := rfl
@[simp] theorem updJob_out (j : Nat) (f : Job → Job) : (s.updJob j f).out = s.out := rfl
@[simp] theorem updJob_pending (j : Nat) (f : Job → Job) : (s.updJob j f).pending = s.pending := rfl
@[simp] theorem updJob_part_get (j : Nat) (f : Job → Job) (i : Nat) : (s.updJob j f).part i = s.part i := rfl
@[simp] theorem updJob_tile_get (j : Nat) (f : Job → Job) (i : Nat) : (s.updJob j f).tile i = s.tile i := rfl
@[simp] theorem updJob_site_get (j : Nat) (f : Job → Job) (i : Nat) : (s.updJob j f).site i = s.site i := rfl
@[simp] theorem updJob_hank_get (j : Nat) (f : Job → Job) (i : Nat) : (s.updJob j f).hank i = s.hank i := rfl
@[simp] theorem updJob_port_get (j : Nat) (f : Job → Job) (i : Nat) : (s.updJob j f).port i = s.port i := rfl
@[simp] theorem updJob_reg_get (j : Nat) (f : Job → Job) (i : Reg) : (s.updJob j f).reg i = s.reg i := rfl
@[simp] theorem updJob_act_get (j : Nat) (f : Job → Job) (i : Reg) : (s.updJob j f).act i = s.act i := rfl
@[simp] theorem updJob_byte_get (j : Nat) (f : Job → Job) (i : Nat) : (s.updJob j f).byte i = s.byte i := rfl
@[simp] theorem updJob_ring_get (j : Nat) (f : Job → Job) (i k : Nat) : (s.updJob j f).ring i k = s.ring i k := rfl
@[simp] theorem updJob_answers_get (j : Nat) (f : Job → Job) : (s.updJob j f).answers = s.answers := rfl
@[simp] theorem updJob_powered_get (j : Nat) (f : Job → Job) : (s.updJob j f).powered = s.powered := rfl

/-! ### updOp -/

@[simp] theorem updOp_clock (o : OpRef) (f : OpRec → OpRec) : (s.updOp o f).clock = s.clock := rfl
@[simp] theorem updOp_counting (o : OpRef) (f : OpRec → OpRec) : (s.updOp o f).counting = s.counting := rfl
@[simp] theorem updOp_regs (o : OpRef) (f : OpRec → OpRec) : (s.updOp o f).regs = s.regs := rfl
@[simp] theorem updOp_active (o : OpRef) (f : OpRec → OpRec) : (s.updOp o f).active = s.active := rfl
@[simp] theorem updOp_msix (o : OpRef) (f : OpRec → OpRec) : (s.updOp o f).msix = s.msix := rfl
@[simp] theorem updOp_msixPending (o : OpRef) (f : OpRec → OpRec) : (s.updOp o f).msixPending = s.msixPending := rfl
@[simp] theorem updOp_mem (o : OpRef) (f : OpRec → OpRec) : (s.updOp o f).mem = s.mem := rfl
@[simp] theorem updOp_memBad (o : OpRef) (f : OpRec → OpRec) : (s.updOp o f).memBad = s.memBad := rfl
@[simp] theorem updOp_reservations (o : OpRef) (f : OpRec → OpRec) : (s.updOp o f).reservations = s.reservations := rfl
@[simp] theorem updOp_host (o : OpRef) (f : OpRec → OpRec) : (s.updOp o f).host = s.host := rfl
@[simp] theorem updOp_hanks (o : OpRef) (f : OpRec → OpRec) : (s.updOp o f).hanks = s.hanks := rfl
@[simp] theorem updOp_sites (o : OpRef) (f : OpRec → OpRec) : (s.updOp o f).sites = s.sites := rfl
@[simp] theorem updOp_tiles (o : OpRef) (f : OpRec → OpRec) : (s.updOp o f).tiles = s.tiles := rfl
@[simp] theorem updOp_parts (o : OpRef) (f : OpRec → OpRec) : (s.updOp o f).parts = s.parts := rfl
@[simp] theorem updOp_ports (o : OpRef) (f : OpRec → OpRec) : (s.updOp o f).ports = s.ports := rfl
@[simp] theorem updOp_routes (o : OpRef) (f : OpRec → OpRec) : (s.updOp o f).routes = s.routes := rfl
@[simp] theorem updOp_nextJob (o : OpRef) (f : OpRec → OpRec) : (s.updOp o f).nextJob = s.nextJob := rfl
@[simp] theorem updOp_commits (o : OpRef) (f : OpRec → OpRec) : (s.updOp o f).commits = s.commits := rfl
@[simp] theorem updOp_partCmd (o : OpRef) (f : OpRec → OpRec) : (s.updOp o f).partCmd = s.partCmd := rfl
@[simp] theorem updOp_retireQueue (o : OpRef) (f : OpRec → OpRec) : (s.updOp o f).retireQueue = s.retireQueue := rfl
@[simp] theorem updOp_retiring (o : OpRef) (f : OpRec → OpRec) : (s.updOp o f).retiring = s.retiring := rfl
@[simp] theorem updOp_retirements (o : OpRef) (f : OpRec → OpRec) : (s.updOp o f).retirements = s.retirements := rfl
@[simp] theorem updOp_service (o : OpRef) (f : OpRec → OpRec) : (s.updOp o f).service = s.service := rfl
@[simp] theorem updOp_fabric (o : OpRef) (f : OpRec → OpRec) : (s.updOp o f).fabric = s.fabric := rfl
@[simp] theorem updOp_segFault (o : OpRef) (f : OpRec → OpRec) : (s.updOp o f).segFault = s.segFault := rfl
@[simp] theorem updOp_colFenced (o : OpRef) (f : OpRec → OpRec) : (s.updOp o f).colFenced = s.colFenced := rfl
@[simp] theorem updOp_power (o : OpRef) (f : OpRec → OpRec) : (s.updOp o f).power = s.power := rfl
@[simp] theorem updOp_mgmt (o : OpRef) (f : OpRec → OpRec) : (s.updOp o f).mgmt = s.mgmt := rfl
@[simp] theorem updOp_lifecycle (o : OpRef) (f : OpRec → OpRec) : (s.updOp o f).lifecycle = s.lifecycle := rfl
@[simp] theorem updOp_grade (o : OpRef) (f : OpRec → OpRec) : (s.updOp o f).grade = s.grade := rfl
@[simp] theorem updOp_store (o : OpRef) (f : OpRec → OpRec) : (s.updOp o f).store = s.store := rfl
@[simp] theorem updOp_storeBusy (o : OpRef) (f : OpRec → OpRec) : (s.updOp o f).storeBusy = s.storeBusy := rfl
@[simp] theorem updOp_storeQueue (o : OpRef) (f : OpRec → OpRec) : (s.updOp o f).storeQueue = s.storeQueue := rfl
@[simp] theorem updOp_serial (o : OpRef) (f : OpRec → OpRec) : (s.updOp o f).serial = s.serial := rfl
@[simp] theorem updOp_replayKey (o : OpRef) (f : OpRec → OpRec) : (s.updOp o f).replayKey = s.replayKey := rfl
@[simp] theorem updOp_attested (o : OpRef) (f : OpRec → OpRec) : (s.updOp o f).attested = s.attested := rfl
@[simp] theorem updOp_identityCert (o : OpRef) (f : OpRec → OpRec) : (s.updOp o f).identityCert = s.identityCert := rfl
@[simp] theorem updOp_slots (o : OpRef) (f : OpRec → OpRec) : (s.updOp o f).slots = s.slots := rfl
@[simp] theorem updOp_fresh (o : OpRef) (f : OpRec → OpRec) : (s.updOp o f).fresh = s.fresh := rfl
@[simp] theorem updOp_out (o : OpRef) (f : OpRec → OpRec) : (s.updOp o f).out = s.out := rfl
@[simp] theorem updOp_pending (o : OpRef) (f : OpRec → OpRec) : (s.updOp o f).pending = s.pending := rfl
@[simp] theorem updOp_part_get (o : OpRef) (f : OpRec → OpRec) (i : Nat) : (s.updOp o f).part i = s.part i := rfl
@[simp] theorem updOp_tile_get (o : OpRef) (f : OpRec → OpRec) (i : Nat) : (s.updOp o f).tile i = s.tile i := rfl
@[simp] theorem updOp_site_get (o : OpRef) (f : OpRec → OpRec) (i : Nat) : (s.updOp o f).site i = s.site i := rfl
@[simp] theorem updOp_hank_get (o : OpRef) (f : OpRec → OpRec) (i : Nat) : (s.updOp o f).hank i = s.hank i := rfl
@[simp] theorem updOp_port_get (o : OpRef) (f : OpRec → OpRec) (i : Nat) : (s.updOp o f).port i = s.port i := rfl
@[simp] theorem updOp_reg_get (o : OpRef) (f : OpRec → OpRec) (i : Reg) : (s.updOp o f).reg i = s.reg i := rfl
@[simp] theorem updOp_act_get (o : OpRef) (f : OpRec → OpRec) (i : Reg) : (s.updOp o f).act i = s.act i := rfl
@[simp] theorem updOp_byte_get (o : OpRef) (f : OpRec → OpRec) (i : Nat) : (s.updOp o f).byte i = s.byte i := rfl
@[simp] theorem updOp_ring_get (o : OpRef) (f : OpRec → OpRec) (i k : Nat) : (s.updOp o f).ring i k = s.ring i k := rfl
@[simp] theorem updOp_answers_get (o : OpRef) (f : OpRec → OpRec) : (s.updOp o f).answers = s.answers := rfl
@[simp] theorem updOp_powered_get (o : OpRef) (f : OpRec → OpRec) : (s.updOp o f).powered = s.powered := rfl

/-! ### updPke -/

@[simp] theorem updPke_clock (h : Nat) (f : Pke → Pke) : (s.updPke h f).clock = s.clock := rfl
@[simp] theorem updPke_counting (h : Nat) (f : Pke → Pke) : (s.updPke h f).counting = s.counting := rfl
@[simp] theorem updPke_regs (h : Nat) (f : Pke → Pke) : (s.updPke h f).regs = s.regs := rfl
@[simp] theorem updPke_active (h : Nat) (f : Pke → Pke) : (s.updPke h f).active = s.active := rfl
@[simp] theorem updPke_msix (h : Nat) (f : Pke → Pke) : (s.updPke h f).msix = s.msix := rfl
@[simp] theorem updPke_msixPending (h : Nat) (f : Pke → Pke) : (s.updPke h f).msixPending = s.msixPending := rfl
@[simp] theorem updPke_mem (h : Nat) (f : Pke → Pke) : (s.updPke h f).mem = s.mem := rfl
@[simp] theorem updPke_memBad (h : Nat) (f : Pke → Pke) : (s.updPke h f).memBad = s.memBad := rfl
@[simp] theorem updPke_reservations (h : Nat) (f : Pke → Pke) : (s.updPke h f).reservations = s.reservations := rfl
@[simp] theorem updPke_host (h : Nat) (f : Pke → Pke) : (s.updPke h f).host = s.host := rfl
@[simp] theorem updPke_sites (h : Nat) (f : Pke → Pke) : (s.updPke h f).sites = s.sites := rfl
@[simp] theorem updPke_tiles (h : Nat) (f : Pke → Pke) : (s.updPke h f).tiles = s.tiles := rfl
@[simp] theorem updPke_parts (h : Nat) (f : Pke → Pke) : (s.updPke h f).parts = s.parts := rfl
@[simp] theorem updPke_ports (h : Nat) (f : Pke → Pke) : (s.updPke h f).ports = s.ports := rfl
@[simp] theorem updPke_routes (h : Nat) (f : Pke → Pke) : (s.updPke h f).routes = s.routes := rfl
@[simp] theorem updPke_jobs (h : Nat) (f : Pke → Pke) : (s.updPke h f).jobs = s.jobs := rfl
@[simp] theorem updPke_nextJob (h : Nat) (f : Pke → Pke) : (s.updPke h f).nextJob = s.nextJob := rfl
@[simp] theorem updPke_commits (h : Nat) (f : Pke → Pke) : (s.updPke h f).commits = s.commits := rfl
@[simp] theorem updPke_partCmd (h : Nat) (f : Pke → Pke) : (s.updPke h f).partCmd = s.partCmd := rfl
@[simp] theorem updPke_retireQueue (h : Nat) (f : Pke → Pke) : (s.updPke h f).retireQueue = s.retireQueue := rfl
@[simp] theorem updPke_retiring (h : Nat) (f : Pke → Pke) : (s.updPke h f).retiring = s.retiring := rfl
@[simp] theorem updPke_retirements (h : Nat) (f : Pke → Pke) : (s.updPke h f).retirements = s.retirements := rfl
@[simp] theorem updPke_service (h : Nat) (f : Pke → Pke) : (s.updPke h f).service = s.service := rfl
@[simp] theorem updPke_fabric (h : Nat) (f : Pke → Pke) : (s.updPke h f).fabric = s.fabric := rfl
@[simp] theorem updPke_segFault (h : Nat) (f : Pke → Pke) : (s.updPke h f).segFault = s.segFault := rfl
@[simp] theorem updPke_colFenced (h : Nat) (f : Pke → Pke) : (s.updPke h f).colFenced = s.colFenced := rfl
@[simp] theorem updPke_power (h : Nat) (f : Pke → Pke) : (s.updPke h f).power = s.power := rfl
@[simp] theorem updPke_mgmt (h : Nat) (f : Pke → Pke) : (s.updPke h f).mgmt = s.mgmt := rfl
@[simp] theorem updPke_lifecycle (h : Nat) (f : Pke → Pke) : (s.updPke h f).lifecycle = s.lifecycle := rfl
@[simp] theorem updPke_grade (h : Nat) (f : Pke → Pke) : (s.updPke h f).grade = s.grade := rfl
@[simp] theorem updPke_store (h : Nat) (f : Pke → Pke) : (s.updPke h f).store = s.store := rfl
@[simp] theorem updPke_storeBusy (h : Nat) (f : Pke → Pke) : (s.updPke h f).storeBusy = s.storeBusy := rfl
@[simp] theorem updPke_storeQueue (h : Nat) (f : Pke → Pke) : (s.updPke h f).storeQueue = s.storeQueue := rfl
@[simp] theorem updPke_serial (h : Nat) (f : Pke → Pke) : (s.updPke h f).serial = s.serial := rfl
@[simp] theorem updPke_replayKey (h : Nat) (f : Pke → Pke) : (s.updPke h f).replayKey = s.replayKey := rfl
@[simp] theorem updPke_attested (h : Nat) (f : Pke → Pke) : (s.updPke h f).attested = s.attested := rfl
@[simp] theorem updPke_identityCert (h : Nat) (f : Pke → Pke) : (s.updPke h f).identityCert = s.identityCert := rfl
@[simp] theorem updPke_slots (h : Nat) (f : Pke → Pke) : (s.updPke h f).slots = s.slots := rfl
@[simp] theorem updPke_fresh (h : Nat) (f : Pke → Pke) : (s.updPke h f).fresh = s.fresh := rfl
@[simp] theorem updPke_out (h : Nat) (f : Pke → Pke) : (s.updPke h f).out = s.out := rfl
@[simp] theorem updPke_pending (h : Nat) (f : Pke → Pke) : (s.updPke h f).pending = s.pending := rfl
@[simp] theorem updPke_part_get (h : Nat) (f : Pke → Pke) (i : Nat) : (s.updPke h f).part i = s.part i := rfl
@[simp] theorem updPke_tile_get (h : Nat) (f : Pke → Pke) (i : Nat) : (s.updPke h f).tile i = s.tile i := rfl
@[simp] theorem updPke_site_get (h : Nat) (f : Pke → Pke) (i : Nat) : (s.updPke h f).site i = s.site i := rfl
@[simp] theorem updPke_port_get (h : Nat) (f : Pke → Pke) (i : Nat) : (s.updPke h f).port i = s.port i := rfl
@[simp] theorem updPke_reg_get (h : Nat) (f : Pke → Pke) (i : Reg) : (s.updPke h f).reg i = s.reg i := rfl
@[simp] theorem updPke_act_get (h : Nat) (f : Pke → Pke) (i : Reg) : (s.updPke h f).act i = s.act i := rfl
@[simp] theorem updPke_byte_get (h : Nat) (f : Pke → Pke) (i : Nat) : (s.updPke h f).byte i = s.byte i := rfl
@[simp] theorem updPke_ring_get (h : Nat) (f : Pke → Pke) (i k : Nat) : (s.updPke h f).ring i k = s.ring i k := rfl
@[simp] theorem updPke_op_find (h : Nat) (f : Pke → Pke) (i : OpRef) : (s.updPke h f).op? i = s.op? i := rfl
@[simp] theorem updPke_answers_get (h : Nat) (f : Pke → Pke) : (s.updPke h f).answers = s.answers := rfl
@[simp] theorem updPke_powered_get (h : Nat) (f : Pke → Pke) : (s.updPke h f).powered = s.powered := rfl

/-! ### updSpdm -/

@[simp] theorem updSpdm_clock (h : Nat) (f : Spdm → Spdm) : (s.updSpdm h f).clock = s.clock := rfl
@[simp] theorem updSpdm_counting (h : Nat) (f : Spdm → Spdm) : (s.updSpdm h f).counting = s.counting := rfl
@[simp] theorem updSpdm_regs (h : Nat) (f : Spdm → Spdm) : (s.updSpdm h f).regs = s.regs := rfl
@[simp] theorem updSpdm_active (h : Nat) (f : Spdm → Spdm) : (s.updSpdm h f).active = s.active := rfl
@[simp] theorem updSpdm_msix (h : Nat) (f : Spdm → Spdm) : (s.updSpdm h f).msix = s.msix := rfl
@[simp] theorem updSpdm_msixPending (h : Nat) (f : Spdm → Spdm) : (s.updSpdm h f).msixPending = s.msixPending := rfl
@[simp] theorem updSpdm_mem (h : Nat) (f : Spdm → Spdm) : (s.updSpdm h f).mem = s.mem := rfl
@[simp] theorem updSpdm_memBad (h : Nat) (f : Spdm → Spdm) : (s.updSpdm h f).memBad = s.memBad := rfl
@[simp] theorem updSpdm_reservations (h : Nat) (f : Spdm → Spdm) : (s.updSpdm h f).reservations = s.reservations := rfl
@[simp] theorem updSpdm_host (h : Nat) (f : Spdm → Spdm) : (s.updSpdm h f).host = s.host := rfl
@[simp] theorem updSpdm_sites (h : Nat) (f : Spdm → Spdm) : (s.updSpdm h f).sites = s.sites := rfl
@[simp] theorem updSpdm_tiles (h : Nat) (f : Spdm → Spdm) : (s.updSpdm h f).tiles = s.tiles := rfl
@[simp] theorem updSpdm_parts (h : Nat) (f : Spdm → Spdm) : (s.updSpdm h f).parts = s.parts := rfl
@[simp] theorem updSpdm_ports (h : Nat) (f : Spdm → Spdm) : (s.updSpdm h f).ports = s.ports := rfl
@[simp] theorem updSpdm_routes (h : Nat) (f : Spdm → Spdm) : (s.updSpdm h f).routes = s.routes := rfl
@[simp] theorem updSpdm_jobs (h : Nat) (f : Spdm → Spdm) : (s.updSpdm h f).jobs = s.jobs := rfl
@[simp] theorem updSpdm_nextJob (h : Nat) (f : Spdm → Spdm) : (s.updSpdm h f).nextJob = s.nextJob := rfl
@[simp] theorem updSpdm_commits (h : Nat) (f : Spdm → Spdm) : (s.updSpdm h f).commits = s.commits := rfl
@[simp] theorem updSpdm_partCmd (h : Nat) (f : Spdm → Spdm) : (s.updSpdm h f).partCmd = s.partCmd := rfl
@[simp] theorem updSpdm_retireQueue (h : Nat) (f : Spdm → Spdm) : (s.updSpdm h f).retireQueue = s.retireQueue := rfl
@[simp] theorem updSpdm_retiring (h : Nat) (f : Spdm → Spdm) : (s.updSpdm h f).retiring = s.retiring := rfl
@[simp] theorem updSpdm_retirements (h : Nat) (f : Spdm → Spdm) : (s.updSpdm h f).retirements = s.retirements := rfl
@[simp] theorem updSpdm_service (h : Nat) (f : Spdm → Spdm) : (s.updSpdm h f).service = s.service := rfl
@[simp] theorem updSpdm_fabric (h : Nat) (f : Spdm → Spdm) : (s.updSpdm h f).fabric = s.fabric := rfl
@[simp] theorem updSpdm_segFault (h : Nat) (f : Spdm → Spdm) : (s.updSpdm h f).segFault = s.segFault := rfl
@[simp] theorem updSpdm_colFenced (h : Nat) (f : Spdm → Spdm) : (s.updSpdm h f).colFenced = s.colFenced := rfl
@[simp] theorem updSpdm_power (h : Nat) (f : Spdm → Spdm) : (s.updSpdm h f).power = s.power := rfl
@[simp] theorem updSpdm_mgmt (h : Nat) (f : Spdm → Spdm) : (s.updSpdm h f).mgmt = s.mgmt := rfl
@[simp] theorem updSpdm_lifecycle (h : Nat) (f : Spdm → Spdm) : (s.updSpdm h f).lifecycle = s.lifecycle := rfl
@[simp] theorem updSpdm_grade (h : Nat) (f : Spdm → Spdm) : (s.updSpdm h f).grade = s.grade := rfl
@[simp] theorem updSpdm_store (h : Nat) (f : Spdm → Spdm) : (s.updSpdm h f).store = s.store := rfl
@[simp] theorem updSpdm_storeBusy (h : Nat) (f : Spdm → Spdm) : (s.updSpdm h f).storeBusy = s.storeBusy := rfl
@[simp] theorem updSpdm_storeQueue (h : Nat) (f : Spdm → Spdm) : (s.updSpdm h f).storeQueue = s.storeQueue := rfl
@[simp] theorem updSpdm_serial (h : Nat) (f : Spdm → Spdm) : (s.updSpdm h f).serial = s.serial := rfl
@[simp] theorem updSpdm_replayKey (h : Nat) (f : Spdm → Spdm) : (s.updSpdm h f).replayKey = s.replayKey := rfl
@[simp] theorem updSpdm_attested (h : Nat) (f : Spdm → Spdm) : (s.updSpdm h f).attested = s.attested := rfl
@[simp] theorem updSpdm_identityCert (h : Nat) (f : Spdm → Spdm) : (s.updSpdm h f).identityCert = s.identityCert := rfl
@[simp] theorem updSpdm_slots (h : Nat) (f : Spdm → Spdm) : (s.updSpdm h f).slots = s.slots := rfl
@[simp] theorem updSpdm_fresh (h : Nat) (f : Spdm → Spdm) : (s.updSpdm h f).fresh = s.fresh := rfl
@[simp] theorem updSpdm_out (h : Nat) (f : Spdm → Spdm) : (s.updSpdm h f).out = s.out := rfl
@[simp] theorem updSpdm_pending (h : Nat) (f : Spdm → Spdm) : (s.updSpdm h f).pending = s.pending := rfl
@[simp] theorem updSpdm_part_get (h : Nat) (f : Spdm → Spdm) (i : Nat) : (s.updSpdm h f).part i = s.part i := rfl
@[simp] theorem updSpdm_tile_get (h : Nat) (f : Spdm → Spdm) (i : Nat) : (s.updSpdm h f).tile i = s.tile i := rfl
@[simp] theorem updSpdm_site_get (h : Nat) (f : Spdm → Spdm) (i : Nat) : (s.updSpdm h f).site i = s.site i := rfl
@[simp] theorem updSpdm_port_get (h : Nat) (f : Spdm → Spdm) (i : Nat) : (s.updSpdm h f).port i = s.port i := rfl
@[simp] theorem updSpdm_reg_get (h : Nat) (f : Spdm → Spdm) (i : Reg) : (s.updSpdm h f).reg i = s.reg i := rfl
@[simp] theorem updSpdm_act_get (h : Nat) (f : Spdm → Spdm) (i : Reg) : (s.updSpdm h f).act i = s.act i := rfl
@[simp] theorem updSpdm_byte_get (h : Nat) (f : Spdm → Spdm) (i : Nat) : (s.updSpdm h f).byte i = s.byte i := rfl
@[simp] theorem updSpdm_ring_get (h : Nat) (f : Spdm → Spdm) (i k : Nat) : (s.updSpdm h f).ring i k = s.ring i k := rfl
@[simp] theorem updSpdm_op_find (h : Nat) (f : Spdm → Spdm) (i : OpRef) : (s.updSpdm h f).op? i = s.op? i := rfl
@[simp] theorem updSpdm_answers_get (h : Nat) (f : Spdm → Spdm) : (s.updSpdm h f).answers = s.answers := rfl
@[simp] theorem updSpdm_powered_get (h : Nat) (f : Spdm → Spdm) : (s.updSpdm h f).powered = s.powered := rfl

/-! ### fenceColumn -/

@[simp] theorem fenceColumn_clock (c : Nat) : (s.fenceColumn c).clock = s.clock := rfl
@[simp] theorem fenceColumn_counting (c : Nat) : (s.fenceColumn c).counting = s.counting := rfl
@[simp] theorem fenceColumn_regs (c : Nat) : (s.fenceColumn c).regs = s.regs := rfl
@[simp] theorem fenceColumn_active (c : Nat) : (s.fenceColumn c).active = s.active := rfl
@[simp] theorem fenceColumn_msix (c : Nat) : (s.fenceColumn c).msix = s.msix := rfl
@[simp] theorem fenceColumn_msixPending (c : Nat) : (s.fenceColumn c).msixPending = s.msixPending := rfl
@[simp] theorem fenceColumn_mem (c : Nat) : (s.fenceColumn c).mem = s.mem := rfl
@[simp] theorem fenceColumn_memBad (c : Nat) : (s.fenceColumn c).memBad = s.memBad := rfl
@[simp] theorem fenceColumn_reservations (c : Nat) : (s.fenceColumn c).reservations = s.reservations := rfl
@[simp] theorem fenceColumn_host (c : Nat) : (s.fenceColumn c).host = s.host := rfl
@[simp] theorem fenceColumn_hanks (c : Nat) : (s.fenceColumn c).hanks = s.hanks := rfl
@[simp] theorem fenceColumn_sites (c : Nat) : (s.fenceColumn c).sites = s.sites := rfl
@[simp] theorem fenceColumn_tiles (c : Nat) : (s.fenceColumn c).tiles = s.tiles := rfl
@[simp] theorem fenceColumn_parts (c : Nat) : (s.fenceColumn c).parts = s.parts := rfl
@[simp] theorem fenceColumn_ports (c : Nat) : (s.fenceColumn c).ports = s.ports := rfl
@[simp] theorem fenceColumn_routes (c : Nat) : (s.fenceColumn c).routes = s.routes := rfl
@[simp] theorem fenceColumn_jobs (c : Nat) : (s.fenceColumn c).jobs = s.jobs := rfl
@[simp] theorem fenceColumn_nextJob (c : Nat) : (s.fenceColumn c).nextJob = s.nextJob := rfl
@[simp] theorem fenceColumn_commits (c : Nat) : (s.fenceColumn c).commits = s.commits := rfl
@[simp] theorem fenceColumn_partCmd (c : Nat) : (s.fenceColumn c).partCmd = s.partCmd := rfl
@[simp] theorem fenceColumn_retireQueue (c : Nat) : (s.fenceColumn c).retireQueue = s.retireQueue := rfl
@[simp] theorem fenceColumn_retiring (c : Nat) : (s.fenceColumn c).retiring = s.retiring := rfl
@[simp] theorem fenceColumn_retirements (c : Nat) : (s.fenceColumn c).retirements = s.retirements := rfl
@[simp] theorem fenceColumn_fabric (c : Nat) : (s.fenceColumn c).fabric = s.fabric := rfl
@[simp] theorem fenceColumn_segFault (c : Nat) : (s.fenceColumn c).segFault = s.segFault := rfl
@[simp] theorem fenceColumn_power (c : Nat) : (s.fenceColumn c).power = s.power := rfl
@[simp] theorem fenceColumn_mgmt (c : Nat) : (s.fenceColumn c).mgmt = s.mgmt := rfl
@[simp] theorem fenceColumn_lifecycle (c : Nat) : (s.fenceColumn c).lifecycle = s.lifecycle := rfl
@[simp] theorem fenceColumn_grade (c : Nat) : (s.fenceColumn c).grade = s.grade := rfl
@[simp] theorem fenceColumn_store (c : Nat) : (s.fenceColumn c).store = s.store := rfl
@[simp] theorem fenceColumn_storeBusy (c : Nat) : (s.fenceColumn c).storeBusy = s.storeBusy := rfl
@[simp] theorem fenceColumn_storeQueue (c : Nat) : (s.fenceColumn c).storeQueue = s.storeQueue := rfl
@[simp] theorem fenceColumn_serial (c : Nat) : (s.fenceColumn c).serial = s.serial := rfl
@[simp] theorem fenceColumn_replayKey (c : Nat) : (s.fenceColumn c).replayKey = s.replayKey := rfl
@[simp] theorem fenceColumn_attested (c : Nat) : (s.fenceColumn c).attested = s.attested := rfl
@[simp] theorem fenceColumn_identityCert (c : Nat) : (s.fenceColumn c).identityCert = s.identityCert := rfl
@[simp] theorem fenceColumn_slots (c : Nat) : (s.fenceColumn c).slots = s.slots := rfl
@[simp] theorem fenceColumn_fresh (c : Nat) : (s.fenceColumn c).fresh = s.fresh := rfl
@[simp] theorem fenceColumn_out (c : Nat) : (s.fenceColumn c).out = s.out := rfl
@[simp] theorem fenceColumn_pending (c : Nat) : (s.fenceColumn c).pending = s.pending := rfl
@[simp] theorem fenceColumn_part_get (c : Nat) (i : Nat) : (s.fenceColumn c).part i = s.part i := rfl
@[simp] theorem fenceColumn_tile_get (c : Nat) (i : Nat) : (s.fenceColumn c).tile i = s.tile i := rfl
@[simp] theorem fenceColumn_site_get (c : Nat) (i : Nat) : (s.fenceColumn c).site i = s.site i := rfl
@[simp] theorem fenceColumn_hank_get (c : Nat) (i : Nat) : (s.fenceColumn c).hank i = s.hank i := rfl
@[simp] theorem fenceColumn_port_get (c : Nat) (i : Nat) : (s.fenceColumn c).port i = s.port i := rfl
@[simp] theorem fenceColumn_reg_get (c : Nat) (i : Reg) : (s.fenceColumn c).reg i = s.reg i := rfl
@[simp] theorem fenceColumn_act_get (c : Nat) (i : Reg) : (s.fenceColumn c).act i = s.act i := rfl
@[simp] theorem fenceColumn_byte_get (c : Nat) (i : Nat) : (s.fenceColumn c).byte i = s.byte i := rfl
@[simp] theorem fenceColumn_ring_get (c : Nat) (i k : Nat) : (s.fenceColumn c).ring i k = s.ring i k := rfl
@[simp] theorem fenceColumn_op_find (c : Nat) (i : OpRef) : (s.fenceColumn c).op? i = s.op? i := rfl
@[simp] theorem fenceColumn_answers_get (c : Nat) : (s.fenceColumn c).answers = s.answers := rfl
@[simp] theorem fenceColumn_powered_get (c : Nat) : (s.fenceColumn c).powered = s.powered := rfl

/-! ### draw -/

@[simp] theorem draw_clock : s.draw.2.clock = s.clock := rfl
@[simp] theorem draw_counting : s.draw.2.counting = s.counting := rfl
@[simp] theorem draw_regs : s.draw.2.regs = s.regs := rfl
@[simp] theorem draw_active : s.draw.2.active = s.active := rfl
@[simp] theorem draw_msix : s.draw.2.msix = s.msix := rfl
@[simp] theorem draw_msixPending : s.draw.2.msixPending = s.msixPending := rfl
@[simp] theorem draw_mem : s.draw.2.mem = s.mem := rfl
@[simp] theorem draw_memBad : s.draw.2.memBad = s.memBad := rfl
@[simp] theorem draw_reservations : s.draw.2.reservations = s.reservations := rfl
@[simp] theorem draw_host : s.draw.2.host = s.host := rfl
@[simp] theorem draw_hanks : s.draw.2.hanks = s.hanks := rfl
@[simp] theorem draw_sites : s.draw.2.sites = s.sites := rfl
@[simp] theorem draw_tiles : s.draw.2.tiles = s.tiles := rfl
@[simp] theorem draw_parts : s.draw.2.parts = s.parts := rfl
@[simp] theorem draw_ports : s.draw.2.ports = s.ports := rfl
@[simp] theorem draw_routes : s.draw.2.routes = s.routes := rfl
@[simp] theorem draw_jobs : s.draw.2.jobs = s.jobs := rfl
@[simp] theorem draw_nextJob : s.draw.2.nextJob = s.nextJob := rfl
@[simp] theorem draw_commits : s.draw.2.commits = s.commits := rfl
@[simp] theorem draw_partCmd : s.draw.2.partCmd = s.partCmd := rfl
@[simp] theorem draw_retireQueue : s.draw.2.retireQueue = s.retireQueue := rfl
@[simp] theorem draw_retiring : s.draw.2.retiring = s.retiring := rfl
@[simp] theorem draw_retirements : s.draw.2.retirements = s.retirements := rfl
@[simp] theorem draw_service : s.draw.2.service = s.service := rfl
@[simp] theorem draw_fabric : s.draw.2.fabric = s.fabric := rfl
@[simp] theorem draw_segFault : s.draw.2.segFault = s.segFault := rfl
@[simp] theorem draw_colFenced : s.draw.2.colFenced = s.colFenced := rfl
@[simp] theorem draw_power : s.draw.2.power = s.power := rfl
@[simp] theorem draw_mgmt : s.draw.2.mgmt = s.mgmt := rfl
@[simp] theorem draw_lifecycle : s.draw.2.lifecycle = s.lifecycle := rfl
@[simp] theorem draw_grade : s.draw.2.grade = s.grade := rfl
@[simp] theorem draw_store : s.draw.2.store = s.store := rfl
@[simp] theorem draw_storeBusy : s.draw.2.storeBusy = s.storeBusy := rfl
@[simp] theorem draw_storeQueue : s.draw.2.storeQueue = s.storeQueue := rfl
@[simp] theorem draw_serial : s.draw.2.serial = s.serial := rfl
@[simp] theorem draw_replayKey : s.draw.2.replayKey = s.replayKey := rfl
@[simp] theorem draw_attested : s.draw.2.attested = s.attested := rfl
@[simp] theorem draw_identityCert : s.draw.2.identityCert = s.identityCert := rfl
@[simp] theorem draw_slots : s.draw.2.slots = s.slots := rfl
@[simp] theorem draw_fresh : s.draw.2.fresh = s.fresh + 1 := rfl
@[simp] theorem draw_out : s.draw.2.out = s.out := rfl
@[simp] theorem draw_pending : s.draw.2.pending = s.pending := rfl

/-! ### What an update writes -/

@[simp] theorem emit_out (o : Output) : (s.emit o).out = s.out ++ [o] := rfl
theorem setPart_parts (p : Nat) (x : Part) : (s.setPart p x).parts = Tab.set (fun _ => {}) s.parts p x := rfl
theorem setTile_tiles (t : Nat) (x : Tile) : (s.setTile t x).tiles = Tab.set (fun _ => {}) s.tiles t x := rfl
theorem setSite_sites (d : Nat) (x : Site) : (s.setSite d x).sites = Tab.set (fun _ => {}) s.sites d x := rfl
theorem setHank_hanks (h : Nat) (x : Hank) : (s.setHank h x).hanks = Tab.set (fun _ => {}) s.hanks h x := rfl
theorem setPort_ports (q : Nat) (x : QPort) : (s.setPort q x).ports = Tab.set (fun _ => {}) s.ports q x := rfl
theorem setReg_regs (r : Reg) (v : Word32) : (s.setReg r v).regs = Tab.set (fun _ => r.init) s.regs r.addr v := rfl
theorem setAct_active (r : Reg) (v : Word32) : (s.setAct r v).active = Tab.set (fun _ => r.init) s.active r.addr v := rfl
theorem writeHost_host (h a : Nat) (bs : List Byte) : (s.writeHost h a bs).host = putBytes s.host (hostKey h a) bs := rfl

end Sys2Proof.Machine
end

