-- ==== Sys2Proof/Laws/Tab.lean ====
section
/-! SUPPORT. The laws of sparse tables: read after write, and every operation keeps the canonical form. -/
namespace Sys2Proof.Tab

variable {α : Type} [DecidableEq α] {d : Nat → α}

omit [DecidableEq α] in
@[simp] theorem get_nil (k : Nat) : get d ([] : Tab α) k = d k := rfl

omit [DecidableEq α] in
theorem get_insert_same (m : Tab α) (k : Nat) (v : α) : get d (insert m k v) k = v := by
  induction m with
  | nil => simp [insert, get]
  | cons e rest ih =>
    obtain ⟨i, w⟩ := e
    by_cases h1 : k < i
    · simp [insert, h1, get]
    · by_cases h2 : i = k
      · simp [insert, h2, get]
      · simp [insert, h1, h2, get, ih]

omit [DecidableEq α] in
theorem get_insert_other (m : Tab α) {k j : Nat} (v : α) (h : j ≠ k) :
    get d (insert m k v) j = get d m j := by
  induction m with
  | nil => simp [insert, get, Ne.symm h]
  | cons e rest ih =>
    obtain ⟨i, w⟩ := e
    by_cases h1 : k < i
    · simp [insert, h1, get, Ne.symm h]
    · by_cases h2 : i = k
      · subst h2; simp [insert, get, Ne.symm h]
      · by_cases h3 : i = j
        · subst h3; simp [insert, h1, h2, get]
        · simp [insert, h1, h2, get, h3, ih]

theorem wfFrom_weaken {lo lo' : Option Nat} {m : Tab α}
    (hl : ∀ l, lo' = some l → ∃ l', lo = some l' ∧ l ≤ l') (h : wfFrom d lo m = true) :
    wfFrom d lo' m = true := by
  cases m with
  | nil => rfl
  | cons e rest =>
    obtain ⟨i, v⟩ := e
    cases lo' with
    | none =>
      cases lo with
      | none => exact h
      | some l => simp [wfFrom] at h ⊢; exact ⟨h.1.2, h.2⟩
    | some l =>
      obtain ⟨l', rfl, hle⟩ := hl l rfl
      simp [wfFrom] at h ⊢
      exact ⟨⟨Nat.lt_of_le_of_lt hle h.1.1, h.1.2⟩, h.2⟩

theorem get_of_wfFrom_le {m : Tab α} {l k : Nat} (h : wfFrom d (some l) m = true) (hk : k ≤ l) :
    get d m k = d k := by
  induction m generalizing l with
  | nil => rfl
  | cons e rest ih =>
    obtain ⟨i, v⟩ := e
    simp [wfFrom] at h
    have hne : i ≠ k := by omega
    simp [get, hne]
    exact ih h.2 (by omega)

theorem get_erase_same {m : Tab α} {lo : Option Nat} (h : wfFrom d lo m = true) (k : Nat) :
    get d (erase m k) k = d k := by
  induction m generalizing lo with
  | nil => rfl
  | cons e rest ih =>
    obtain ⟨i, v⟩ := e
    have hr : wfFrom d (some i) rest = true := by simp [wfFrom] at h; exact h.2
    by_cases h2 : i = k
    · subst h2; simp [erase]; exact get_of_wfFrom_le hr (Nat.le_refl _)
    · by_cases h1 : k < i
      · simp [erase, h2, h1, get]; exact get_of_wfFrom_le hr (Nat.le_of_lt h1)
      · simp [erase, h2, h1, get]; exact ih hr

omit [DecidableEq α] in
theorem get_erase_other (m : Tab α) {k j : Nat} (h : j ≠ k) : get d (erase m k) j = get d m j := by
  induction m with
  | nil => rfl
  | cons e rest ih =>
    obtain ⟨i, v⟩ := e
    by_cases h2 : i = k
    · subst h2; simp [erase, get, Ne.symm h]
    · by_cases h1 : k < i
      · simp [erase, h2, h1]
      · by_cases h3 : i = j
        · subst h3; simp [erase, h2, h1, get]
        · simp [erase, h2, h1, get, h3, ih]

theorem get_set_same {m : Tab α} (h : wf d m = true) (k : Nat) (v : α) :
    get d (set d m k v) k = v := by
  unfold set
  split
  · next hv => rw [get_erase_same h, hv]
  · exact get_insert_same m k v

theorem get_set_other (m : Tab α) {k j : Nat} (v : α) (h : j ≠ k) :
    get d (set d m k v) j = get d m j := by
  unfold set
  split
  · exact get_erase_other m h
  · exact get_insert_other m v h

theorem wfFrom_erase {m : Tab α} {lo : Option Nat} (h : wfFrom d lo m = true) (k : Nat) :
    wfFrom d lo (erase m k) = true := by
  induction m generalizing lo with
  | nil => rfl
  | cons e rest ih =>
    obtain ⟨i, v⟩ := e
    have hr : wfFrom d (some i) rest = true := by simp [wfFrom] at h; exact h.2
    by_cases h2 : i = k
    · simp only [erase, h2, ↓reduceIte]
      refine wfFrom_weaken (lo := some i) ?_ hr
      intro l hl; subst hl
      refine ⟨i, rfl, ?_⟩
      simp [wfFrom] at h; omega
    · by_cases h1 : k < i
      · simp only [erase, h2, h1, ↓reduceIte]; exact h
      · simp only [erase, h2, h1, ↓reduceIte]
        cases lo with
        | none => simp [wfFrom] at h ⊢; exact ⟨h.1, ih hr⟩
        | some l => simp [wfFrom] at h ⊢; exact ⟨h.1, ih hr⟩

theorem wfFrom_insert {m : Tab α} {lo : Option Nat} {k : Nat} {v : α} (h : wfFrom d lo m = true)
    (hl : ∀ l, lo = some l → l < k) (hv : v ≠ d k) : wfFrom d lo (insert m k v) = true := by
  induction m generalizing lo with
  | nil =>
    cases lo with
    | none => simp [insert, wfFrom, hv]
    | some l => simp [insert, wfFrom, hv, hl l rfl]
  | cons e rest ih =>
    obtain ⟨i, w⟩ := e
    have hr : wfFrom d (some i) rest = true := by simp [wfFrom] at h; exact h.2
    have hw : w ≠ d i := by
      cases lo with
      | none => simp [wfFrom] at h; exact h.1
      | some l => simp [wfFrom] at h; exact h.1.2
    by_cases h1 : k < i
    · cases lo with
      | none => simp [insert, h1, wfFrom, hv, hw, hr]
      | some l => simp [insert, h1, wfFrom, hv, hw, hr, hl l rfl]
    · by_cases h2 : i = k
      · subst h2
        cases lo with
        | none => simp [insert, wfFrom, hv, hr]
        | some l => simp [insert, wfFrom, hv, hr, hl l rfl]
      · have hih := ih (lo := some i) hr (by intro l hl'; cases hl'; omega)
        cases lo with
        | none => simp [insert, h1, h2, wfFrom, hw, hih]
        | some l =>
          simp [wfFrom] at h
          simp [insert, h1, h2, wfFrom, hw, hih, h.1.1]

theorem wf_set {m : Tab α} (h : wf d m = true) (k : Nat) (v : α) : wf d (set d m k v) = true := by
  unfold set
  split
  · exact wfFrom_erase h k
  · next hv => exact wfFrom_insert h (by intro l hl; cases hl) hv

theorem wf_upd {m : Tab α} (h : wf d m = true) (k : Nat) (f : α → α) : wf d (upd d m k f) = true :=
  wf_set h k _

theorem wfFrom_keep {m : Tab α} {lo : Option Nat} (p : Nat → Bool) (h : wfFrom d lo m = true) :
    wfFrom d lo (keep p m) = true := by
  induction m generalizing lo with
  | nil => rfl
  | cons e rest ih =>
    obtain ⟨i, v⟩ := e
    have hr : wfFrom d (some i) rest = true := by simp [wfFrom] at h; exact h.2
    by_cases hp : p i
    · simp only [keep, hp, ↓reduceIte]
      cases lo with
      | none => simp [wfFrom] at h ⊢; exact ⟨h.1, ih hr⟩
      | some l => simp [wfFrom] at h ⊢; exact ⟨h.1, ih hr⟩
    · simp only [keep, hp, Bool.false_eq_true, ↓reduceIte]
      refine ih (wfFrom_weaken (lo := some i) ?_ hr)
      intro l hl; subst hl
      refine ⟨i, rfl, ?_⟩
      simp [wfFrom] at h; omega

theorem wf_keep {m : Tab α} (p : Nat → Bool) (h : wf d m = true) : wf d (keep p m) = true :=
  wfFrom_keep p h

/-- Writing what a canonical table already holds changes nothing that can be read. -/
theorem get_upd_same {m : Tab α} (h : wf d m = true) (k : Nat) (f : α → α) :
    get d (upd d m k f) k = f (get d m k) := get_set_same h k _

theorem get_upd_other (m : Tab α) {k j : Nat} (f : α → α) (h : j ≠ k) :
    get d (upd d m k f) j = get d m j := get_set_other m _ h

end Sys2Proof.Tab
end

