-- ==== Sys2Proof/Laws/Ops.lean ====
section
/-! SUPPORT. What the shared operations do: read after write for parts, registers and byte memories, and the canonical form that each of them keeps. -/
namespace Sys2Proof

/-! ### Tables under a default of their own -/

namespace Tab

variable {α : Type} [DecidableEq α] {d e : Nat → α}

theorem get_of_wfFrom_le' {m : Tab α} {l k : Nat} (h : wfFrom d (some l) m = true) (hk : k ≤ l) : get e m k = e k := by
  induction m generalizing l with
  | nil => rfl
  | cons x rest ih =>
    obtain ⟨i, v⟩ := x
    simp [wfFrom] at h
    have hne : i ≠ k := by omega
    simp [get, hne]
    exact ih h.2 (by omega)

theorem get_erase_same' {m : Tab α} {lo : Option Nat} (h : wfFrom d lo m = true) (k : Nat) : get e (erase m k) k = e k := by
  induction m generalizing lo with
  | nil => rfl
  | cons x rest ih =>
    obtain ⟨i, v⟩ := x
    have hr : wfFrom d (some i) rest = true := by simp [wfFrom] at h; exact h.2
    by_cases h2 : i = k
    · subst h2; simp [erase]; exact get_of_wfFrom_le' hr (Nat.le_refl _)
    · by_cases h1 : k < i
      · simp [erase, h2, h1, get]; exact get_of_wfFrom_le' hr (Nat.le_of_lt h1)
      · simp [erase, h2, h1, get]; exact ih hr

/-- Read after write in a table that is canonical for one default and read with another. -/
theorem get_set_same' {m : Tab α} (h : wf d m = true) (k : Nat) (v : α) : get e (set e m k v) k = v := by
  unfold set
  split
  · next hv => rw [get_erase_same' h, hv]
  · exact get_insert_same m k v

/-- A write with a default that agrees at its key keeps the canonical form. -/
theorem wf_set' {m : Tab α} (h : wf d m = true) (k : Nat) (v : α) (hk : e k = d k) : wf d (set e m k v) = true := by
  have : set e m k v = set d m k v := by unfold set; rw [hk]
  rw [this]; exact wf_set h k v

omit [DecidableEq α] in
theorem get_keep {m : Tab α} (p : Nat → Bool) (k : Nat) : get d (keep p m) k = if p k then get d m k else d k := by
  induction m with
  | nil => simp [keep]
  | cons x rest ih =>
    obtain ⟨i, v⟩ := x
    by_cases hi : p i = true
    · by_cases hk : i = k
      · subst hk; simp [keep, hi, get]
      · simp [keep, hi, get, hk, ih]
    · by_cases hk : i = k
      · subst hk; simp [keep, hi, ih]
      · simp [keep, hi, get, hk, ih]

omit [DecidableEq α] in
/-- A property of every entry survives an erasure, an insertion and a write. -/
theorem all_erase {P : Nat × α → Bool} {m : Tab α} (k : Nat) (h : m.all P = true) : (erase m k).all P = true := by
  induction m with
  | nil => rfl
  | cons x rest ih =>
    obtain ⟨i, w⟩ := x
    simp only [List.all_cons, Bool.and_eq_true] at h
    unfold erase
    split
    · exact h.2
    · split
      · simp [h.1, h.2]
      · simp only [List.all_cons, Bool.and_eq_true]; exact ⟨h.1, ih h.2⟩

omit [DecidableEq α] in
theorem all_insert {P : Nat × α → Bool} {m : Tab α} (k : Nat) (v : α) (h : m.all P = true) (hv : P (k, v) = true) : (insert m k v).all P = true := by
  induction m with
  | nil => simp [insert, hv]
  | cons x rest ih =>
    obtain ⟨i, w⟩ := x
    simp only [List.all_cons, Bool.and_eq_true] at h
    unfold insert
    split
    · simp [hv, h.1, h.2]
    · split
      · simp [hv, h.2]
      · simp only [List.all_cons, Bool.and_eq_true]; exact ⟨h.1, ih h.2⟩

theorem all_set {P : Nat × α → Bool} {m : Tab α} (k : Nat) (v : α) (h : m.all P = true) (hv : P (k, v) = true) : (set d m k v).all P = true := by
  unfold set
  split
  · exact all_erase k h
  · exact all_insert k v h hv

omit [DecidableEq α] in
/-- What every entry and the default satisfy, every read satisfies. -/
theorem get_all {P : α → Bool} {m : Tab α} (k : Nat) (h : m.all (fun q => P q.2) = true) (hd : P (d k) = true) : P (get d m k) = true := by
  induction m with
  | nil => exact hd
  | cons x rest ih =>
    obtain ⟨i, w⟩ := x
    simp only [List.all_cons, Bool.and_eq_true] at h
    simp only [get]
    split
    · exact h.1
    · exact ih h.2

/-- A table that is rebuilt entry by entry is canonical. -/
theorem wf_rebuild {β : Type} (l : List β) (key : β → Nat) (val : β → α) (m : Tab α) (h : wf d m = true) :
    wf d (l.foldl (fun m x => set d m (key x) (val x)) m) = true := by
  induction l generalizing m with
  | nil => exact h
  | cons x rest ih => exact ih _ (wf_set h _ _)

end Tab

namespace Machine

/-! ### Numbers of parts as the register map names them -/

@[simp] theorem pIdx_val (p : Fin 64) : pIdx p.val = p := by simp [pIdx, Nat.mod_eq_of_lt p.2]
@[simp] theorem nIdx_val (n : Fin 16) : nIdx n.val = n := by simp [nIdx, Nat.mod_eq_of_lt n.2]
@[simp] theorem hIdx_val (h : Fin 4) : hIdx h.val = h := by simp [hIdx, Nat.mod_eq_of_lt h.2]
@[simp] theorem dIdx_val (d : Fin 18) : dIdx d.val = d := by simp [dIdx, Nat.mod_eq_of_lt d.2]
@[simp] theorem tIdx_val (t : Fin 576) : tIdx t.val = t := by simp [tIdx, Nat.mod_eq_of_lt t.2]
@[simp] theorem qIdx_val (q : Fin 8) : qIdx q.val = q := by simp [qIdx, Nat.mod_eq_of_lt q.2]
@[simp] theorem pr_val (p : Fin 64) (r : PReg) : pr p.val r = .part p r := by simp [pr]

/-! ### Read after write: parts -/

variable {s : State}

theorem part_setPart_same (h : Tab.wf (fun _ => ({} : Part)) s.parts = true) (p : Nat) (x : Part) : (s.setPart p x).part p = x := Tab.get_set_same h p x
theorem part_setPart_other {p q : Nat} (x : Part) (h : q ≠ p) : (s.setPart p x).part q = s.part q := Tab.get_set_other _ x h
theorem part_updPart_same (h : Tab.wf (fun _ => ({} : Part)) s.parts = true) (p : Nat) (f : Part → Part) : (s.updPart p f).part p = f (s.part p) := part_setPart_same h p _
theorem part_updPart_other {p q : Nat} (f : Part → Part) (h : q ≠ p) : (s.updPart p f).part q = s.part q := part_setPart_other _ h
theorem tile_setTile_same (h : Tab.wf (fun _ => ({} : Tile)) s.tiles = true) (t : Nat) (x : Tile) : (s.setTile t x).tile t = x := Tab.get_set_same h t x
theorem tile_setTile_other {t k : Nat} (x : Tile) (h : k ≠ t) : (s.setTile t x).tile k = s.tile k := Tab.get_set_other _ x h
theorem tile_updTile_same (h : Tab.wf (fun _ => ({} : Tile)) s.tiles = true) (t : Nat) (f : Tile → Tile) : (s.updTile t f).tile t = f (s.tile t) := tile_setTile_same h t _
theorem tile_updTile_other {t k : Nat} (f : Tile → Tile) (h : k ≠ t) : (s.updTile t f).tile k = s.tile k := tile_setTile_other _ h
theorem site_setSite_same (h : Tab.wf (fun _ => ({} : Site)) s.sites = true) (d : Nat) (x : Site) : (s.setSite d x).site d = x := Tab.get_set_same h d x
theorem site_setSite_other {d k : Nat} (x : Site) (h : k ≠ d) : (s.setSite d x).site k = s.site k := Tab.get_set_other _ x h
theorem site_updSite_same (h : Tab.wf (fun _ => ({} : Site)) s.sites = true) (d : Nat) (f : Site → Site) : (s.updSite d f).site d = f (s.site d) := site_setSite_same h d _
theorem site_updSite_other {d k : Nat} (f : Site → Site) (h : k ≠ d) : (s.updSite d f).site k = s.site k := site_setSite_other _ h
theorem hank_setHank_same (w : Tab.wf (fun _ => ({} : Hank)) s.hanks = true) (h : Nat) (x : Hank) : (s.setHank h x).hank h = x := Tab.get_set_same w h x
theorem hank_setHank_other {h k : Nat} (x : Hank) (w : k ≠ h) : (s.setHank h x).hank k = s.hank k := Tab.get_set_other _ x w
theorem hank_updHank_same (w : Tab.wf (fun _ => ({} : Hank)) s.hanks = true) (h : Nat) (f : Hank → Hank) : (s.updHank h f).hank h = f (s.hank h) := hank_setHank_same w h _
theorem hank_updHank_other {h k : Nat} (f : Hank → Hank) (w : k ≠ h) : (s.updHank h f).hank k = s.hank k := hank_setHank_other _ w
theorem port_setPort_same (h : Tab.wf (fun _ => ({} : QPort)) s.ports = true) (q : Nat) (x : QPort) : (s.setPort q x).port q = x := Tab.get_set_same h q x
theorem port_setPort_other {q k : Nat} (x : QPort) (h : k ≠ q) : (s.setPort q x).port k = s.port k := Tab.get_set_other _ x h
theorem port_updPort_same (h : Tab.wf (fun _ => ({} : QPort)) s.ports = true) (q : Nat) (f : QPort → QPort) : (s.updPort q f).port q = f (s.port q) := port_setPort_same h q _
theorem port_updPort_other {q k : Nat} (f : QPort → QPort) (h : k ≠ q) : (s.updPort q f).port k = s.port k := port_setPort_other _ h

/-! ### Read after write: registers -/

theorem reg_setReg_same (h : Tab.wf regInit s.regs = true) (r : Reg) (v : Word32) : (s.setReg r v).reg r = v := Tab.get_set_same' h r.addr v

theorem reg_setReg_other {r k : Reg} (v : Word32) (h : k.addr ≠ r.addr) : (s.setReg r v).reg k = s.reg k := by
  show Tab.get (fun _ => k.init) (Tab.set (fun _ => r.init) s.regs r.addr v) k.addr = _
  unfold Tab.set
  split
  · exact Tab.get_erase_other _ h
  · exact Tab.get_insert_other _ v h

theorem reg_updReg_same (h : Tab.wf regInit s.regs = true) (r : Reg) (f : Word32 → Word32) : (s.updReg r f).reg r = f (s.reg r) := reg_setReg_same h r _
theorem reg_updReg_other {r k : Reg} (f : Word32 → Word32) (h : k.addr ≠ r.addr) : (s.updReg r f).reg k = s.reg k := reg_setReg_other _ h
theorem reg_setField_same (h : Tab.wf regInit s.regs = true) (r : Reg) (hi lo v : Nat) : (s.setField r hi lo v).reg r = setBits (s.reg r) hi lo v := reg_setReg_same h r _
theorem reg_setField_other {r k : Reg} (hi lo v : Nat) (h : k.addr ≠ r.addr) : (s.setField r hi lo v).reg k = s.reg k := reg_setReg_other _ h
theorem act_setAct_same (h : Tab.wf regInit s.active = true) (r : Reg) (v : Word32) : (s.setAct r v).act r = v := Tab.get_set_same' h r.addr v

/-- A register whose address is listed nowhere in a canonical file reads its reset value. -/
theorem reg_of_nil (h : s.regs = []) (r : Reg) : s.reg r = r.init := by simp [State.reg, h]

/-! ### Byte memories -/

theorem wf_putBytes {m : Tab Byte} (h : Memory.wf m = true) (a : Nat) (bs : List Byte) : Memory.wf (putBytes m a bs) = true := by
  induction bs generalizing m a with
  | nil => exact h
  | cons b rest ih => exact ih (Tab.wf_set h a b) (a + 1)

/-- A byte after bytes were written: the one written there, or what stood there. -/
theorem get_putBytes {m : Tab Byte} (h : Memory.wf m = true) (a j : Nat) (bs : List Byte) :
    Tab.get (fun _ => 0) (putBytes m a bs) j = if a ≤ j ∧ j < a + bs.length then bs.getD (j - a) 0 else Tab.get (fun _ => 0) m j := by
  induction bs generalizing m a with
  | nil => have hn : ¬ (a ≤ j ∧ j < a + ([] : List Byte).length) := by simp
           rw [if_neg hn]; rfl
  | cons b rest ih =>
    rw [putBytes, ih (Tab.wf_set h a b)]
    by_cases h1 : a + 1 ≤ j ∧ j < a + 1 + rest.length
    · have h2 : a ≤ j ∧ j < a + (b :: rest).length := by simp; omega
      rw [if_pos h1, if_pos h2]
      obtain ⟨k, hk⟩ : ∃ k, j - a = k + 1 := ⟨j - a - 1, by omega⟩
      have hk' : j - (a + 1) = k := by omega
      simp [hk, hk']
    · rw [if_neg h1]
      by_cases h3 : j = a
      · subst h3
        have h2 : j ≤ j ∧ j < j + (b :: rest).length := by simp
        rw [if_pos h2, Tab.get_set_same h]; simp
      · have h2 : ¬ (a ≤ j ∧ j < a + (b :: rest).length) := by simp; omega
        rw [if_neg h2, Tab.get_set_other _ _ h3]

theorem getBytes_length (m : Tab Byte) (a n : Nat) : (getBytes m a n).length = n := by
  induction n generalizing a with
  | zero => rfl
  | succ n ih => simp [getBytes, ih]

/-- Bytes read after they were written. -/
theorem getBytes_putBytes_same {m : Tab Byte} (h : Memory.wf m = true) (a : Nat) (bs : List Byte) : getBytes (putBytes m a bs) a bs.length = bs := by
  have key : ∀ (n k : Nat), k + n = bs.length → getBytes (putBytes m a bs) (a + k) n = bs.drop k := by
    intro n
    induction n with
    | zero => intro k hk; rw [List.drop_eq_nil_of_le (by omega)]; rfl
    | succ n ih =>
      intro k hk
      have hlt : k < bs.length := by omega
      rw [getBytes, get_putBytes h, if_pos ⟨by omega, by omega⟩, Nat.add_assoc, ih (k + 1) (by omega), List.drop_eq_getElem_cons hlt]
      simp [hlt]
  exact key bs.length 0 (by omega)

/-- Bytes that no written address touches are read as before. -/
theorem getBytes_putBytes_other {m : Tab Byte} (h : Memory.wf m = true) (a b n : Nat) (bs : List Byte) (hd : b + n ≤ a ∨ a + bs.length ≤ b) :
    getBytes (putBytes m a bs) b n = getBytes m b n := by
  induction n generalizing b with
  | zero => rfl
  | succ n ih =>
    have hn : ¬ (a ≤ b ∧ b < a + bs.length) := by omega
    rw [getBytes, getBytes, get_putBytes h, if_neg hn, ih (b + 1) (by omega)]

theorem readPhys_eq (s : State) (a n : Nat) : s.readPhys a n = getBytes s.mem a n := by
  induction n generalizing a with
  | zero => rfl
  | succ n ih => simp [State.readPhys, getBytes, State.byte, ih]

theorem readHost_writeHost_same (hw : Memory.wf s.host = true) (h a : Nat) (bs : List Byte) : (s.writeHost h a bs).readHost h a bs.length = bs :=
  getBytes_putBytes_same hw _ bs

theorem leBytes_length (n v : Nat) : (leBytes n v).length = n := by
  induction n generalizing v with
  | zero => rfl
  | succ n ih => simp [leBytes, ih]

/-- A number of `n` bytes is spelled by its bytes. -/
theorem leNat_leBytes (n v : Nat) : leNat (leBytes n v) = v % 256 ^ n := by
  induction n generalizing v with
  | zero => simp [leBytes, leNat, Nat.mod_one]
  | succ n ih =>
    have e : 256 ^ (n + 1) = 256 * 256 ^ n := by rw [Nat.pow_succ, Nat.mul_comm]
    have m : v % (256 * 256 ^ n) = v % 256 + 256 * (v / 256 % 256 ^ n) := Nat.mod_mul
    simp [leBytes, leNat, ih, e, m]

/-! ### Stores to stack memory -/

/-- A store within a line: nothing in a fenced column; otherwise the bytes, and neither registers nor any numbered part but the die caches. -/
theorem storeLine_mem (s : State) (pa : Nat) (bs : List Byte) (keep : Option Nat) :
    (s.storeLine pa bs keep).mem = if s.lineFenced (pa / 64) then s.mem else putBytes s.mem pa bs := by
  unfold State.storeLine; simp only; split <;> rfl

theorem storeLine_frame (s : State) (pa : Nat) (bs : List Byte) (keep : Option Nat) :
    let t := s.storeLine pa bs keep
    t.regs = s.regs ∧ t.active = s.active ∧ t.host = s.host ∧ t.hanks = s.hanks ∧ t.tiles = s.tiles ∧ t.parts = s.parts ∧ t.ports = s.ports ∧ t.jobs = s.jobs ∧
    t.power = s.power ∧ t.colFenced = s.colFenced ∧ t.out = s.out ∧ t.fresh = s.fresh ∧ t.grade = s.grade ∧ t.serial = s.serial ∧ t.commits = s.commits ∧ t.clock = s.clock ∧
    t.pending = s.pending := by
  unfold State.storeLine; simp only; split <;> simp

theorem storeLine_wf (h : Memory.wf s.mem = true) (pa : Nat) (bs : List Byte) (keep : Option Nat) : Memory.wf (s.storeLine pa bs keep).mem = true := by
  rw [storeLine_mem]; split
  · exact h
  · exact wf_putBytes h pa bs

theorem storeLine_sites_wf (h : Tab.wf (fun _ => ({} : Site)) s.sites = true) (pa : Nat) (bs : List Byte) (keep : Option Nat) :
    Tab.wf (fun _ => ({} : Site)) (s.storeLine pa bs keep).sites = true := by
  unfold State.storeLine; simp only; split
  · exact h
  · exact Tab.wf_rebuild s.sites (fun q => q.1) (fun q : Nat × Site => if some q.1 = keep then q.2 else { q.2 with cache := q.2.cache.filter (fun c => decide (c.2 ≠ pa / 64)) }) [] rfl

/-! ### The canonical form -/

/-- The canonical form depends on the memories, the register file and the numbered parts alone. -/
theorem State.Inv.congr {s t : State} (h : s.Inv) (e1 : t.mem = s.mem) (e2 : t.host = s.host) (e3 : t.regs = s.regs) (e4 : t.active = s.active) (e5 : t.parts = s.parts)
    (e6 : t.tiles = s.tiles) (e7 : t.sites = s.sites) (e8 : t.hanks = s.hanks) (e9 : t.ports = s.ports) : t.Inv := by
  unfold State.Inv; rw [e1, e2, e3, e4, e5, e6, e7, e8, e9]; exact h

/-- R226: a stack and an offset in it name one physical address. -/
theorem address_of_stack (s : State) (pa : Nat) (h : 0 < s.granule) :
    s.stackOf pa < 32 ∧ (32 * (s.stackOffset pa / s.granule) + 16 * (s.stackOf pa % 2) + s.stackOf pa / 2) * s.granule + s.stackOffset pa % s.granule = pa := by
  have hm := Nat.mod_lt pa h
  have e1 : s.stackOffset pa / s.granule = pa / s.granule / 32 := by
    unfold State.stackOffset; rw [Nat.mul_comm, Nat.mul_add_div h, Nat.div_eq_of_lt hm, Nat.add_zero]
  have e2 : s.stackOffset pa % s.granule = pa % s.granule := by
    unfold State.stackOffset; rw [Nat.mul_comm, Nat.mul_add_mod, Nat.mod_mod]
  have e3 : 32 * (pa / s.granule / 32) + 16 * (s.stackOf pa % 2) + s.stackOf pa / 2 = pa / s.granule := by
    unfold State.stackOf State.column; generalize pa / s.granule = k; have := Nat.div_div_eq_div_mul k 16 2; omega
  refine ⟨by unfold State.stackOf State.column; generalize pa / s.granule = k; omega, ?_⟩
  rw [e1, e2, e3, Nat.mul_comm]
  exact Nat.div_add_mod pa s.granule

namespace Keeps

/-! Each shared operation keeps the canonical form. -/

theorem setPart (h : s.Inv) (p : Nat) (x : Part) : (s.setPart p x).Inv :=
  ⟨h.1, h.2.1, h.2.2.1, h.2.2.2.1, Tab.wf_set h.2.2.2.2.1 p x, h.2.2.2.2.2⟩
theorem updPart (h : s.Inv) (p : Nat) (f : Part → Part) : (s.updPart p f).Inv := setPart h p _
theorem updRing (h : s.Inv) (p n : Nat) (f : Ring → Ring) : (s.updRing p n f).Inv := setPart h p _
theorem setTile (h : s.Inv) (t : Nat) (x : Tile) : (s.setTile t x).Inv :=
  ⟨h.1, h.2.1, h.2.2.1, h.2.2.2.1, h.2.2.2.2.1, Tab.wf_set h.2.2.2.2.2.1 t x, h.2.2.2.2.2.2⟩
theorem updTile (h : s.Inv) (t : Nat) (f : Tile → Tile) : (s.updTile t f).Inv := setTile h t _
theorem setSite (h : s.Inv) (d : Nat) (x : Site) : (s.setSite d x).Inv :=
  ⟨h.1, h.2.1, h.2.2.1, h.2.2.2.1, h.2.2.2.2.1, h.2.2.2.2.2.1, Tab.wf_set h.2.2.2.2.2.2.1 d x, h.2.2.2.2.2.2.2⟩
theorem updSite (h : s.Inv) (d : Nat) (f : Site → Site) : (s.updSite d f).Inv := setSite h d _
theorem setPort (h : s.Inv) (q : Nat) (x : QPort) : (s.setPort q x).Inv :=
  ⟨h.1, h.2.1, h.2.2.1, h.2.2.2.1, h.2.2.2.2.1, h.2.2.2.2.2.1, h.2.2.2.2.2.2.1, h.2.2.2.2.2.2.2.1, Tab.wf_set h.2.2.2.2.2.2.2.2.1 q x, h.2.2.2.2.2.2.2.2.2⟩
theorem updPort (h : s.Inv) (q : Nat) (f : QPort → QPort) : (s.updPort q f).Inv := setPort h q _

/-- The public-key engine that a hank die shows is in its canonical form. -/
theorem pke_wf (h : s.Inv) (k : Nat) : (s.hank k).pke.wf = true :=
  Tab.get_all (P := fun x : Hank => x.pke.wf) k h.2.2.2.2.2.2.2.2.2 (by decide)

theorem setHank (h : s.Inv) (k : Nat) (x : Hank) (hx : x.pke.wf = true) : (s.setHank k x).Inv :=
  ⟨h.1, h.2.1, h.2.2.1, h.2.2.2.1, h.2.2.2.2.1, h.2.2.2.2.2.1, h.2.2.2.2.2.2.1, Tab.wf_set h.2.2.2.2.2.2.2.1 k x, h.2.2.2.2.2.2.2.2.1,
    Tab.all_set (d := fun _ => ({} : Hank)) (P := fun q : Nat × Hank => q.2.pke.wf) k x h.2.2.2.2.2.2.2.2.2 hx⟩
theorem updHank (h : s.Inv) (k : Nat) (f : Hank → Hank) (hf : ∀ x : Hank, x.pke.wf = true → (f x).pke.wf = true) : (s.updHank k f).Inv :=
  setHank h k _ (hf _ (pke_wf h k))
theorem updPke (h : s.Inv) (k : Nat) (f : Pke → Pke) (hf : ∀ x : Pke, x.wf = true → (f x).wf = true) : (s.updPke k f).Inv := updHank h k _ (fun x hx => hf x.pke hx)
theorem updSpdm (h : s.Inv) (k : Nat) (f : Spdm → Spdm) : (s.updSpdm k f).Inv := updHank h k _ (fun _ hx => hx)

/-- A register write, given that the address map finds the register again. -/
theorem setReg (h : s.Inv) (r : Reg) (v : Word32) (hr : r.init = regInit r.addr) : (s.setReg r v).Inv :=
  ⟨h.1, h.2.1, Tab.wf_set' (e := fun _ => r.init) h.2.2.1 r.addr v hr, h.2.2.2⟩
theorem setField (h : s.Inv) (r : Reg) (hi lo v : Nat) (hr : r.init = regInit r.addr) : (s.setField r hi lo v).Inv := setReg h r _ hr
theorem setAct (h : s.Inv) (r : Reg) (v : Word32) (hr : r.init = regInit r.addr) : (s.setAct r v).Inv :=
  ⟨h.1, h.2.1, h.2.2.1, Tab.wf_set' (e := fun _ => r.init) h.2.2.2.1 r.addr v hr, h.2.2.2.2⟩
theorem putActive (h : s.Inv) (vs : List (Nat × Word32)) : (s.putActive vs).Inv :=
  ⟨h.1, h.2.1, h.2.2.1, Tab.wf_rebuild vs (fun v => v.1) (fun v => v.2) s.active h.2.2.2.1, h.2.2.2.2⟩
theorem bump (h : s.Inv) (r : Reg) (hi lo : Nat) (hr : r.init = regInit r.addr) : (s.bump r hi lo).Inv := by
  unfold State.bump; simp only; split
  · exact setField h r hi lo _ hr
  · exact h
theorem emit (h : s.Inv) (o : Output) : (s.emit o).Inv := h
theorem draw (h : s.Inv) : s.draw.2.Inv := h
theorem startCommit (h : s.Inv) (g : Group) (rs : List Reg) : (s.startCommit g rs).Inv := h
theorem dropCommit (h : s.Inv) (g : Group) : (s.dropCommit g).Inv := h
theorem updJob (h : s.Inv) (j : Nat) (f : Job → Job) : (s.updJob j f).Inv := h
theorem updOp (h : s.Inv) (o : OpRef) (f : OpRec → OpRec) : (s.updOp o f).Inv := h
theorem writeHost (h : s.Inv) (k a : Nat) (bs : List Byte) : (s.writeHost k a bs).Inv := ⟨h.1, wf_putBytes h.2.1 _ bs, h.2.2⟩

theorem storeLine (h : s.Inv) (pa : Nat) (bs : List Byte) (keep : Option Nat) : (s.storeLine pa bs keep).Inv := by
  obtain ⟨h1, h2, h3, h4, h5, h6, h7, h8, h9, h10⟩ := h
  obtain ⟨r, a, o, k, t, p, q, _⟩ := storeLine_frame s pa bs keep
  exact ⟨storeLine_wf h1 pa bs keep, o ▸ h2, r ▸ h3, a ▸ h4, p ▸ h5, t ▸ h6, storeLine_sites_wf h7 pa bs keep, k ▸ h8, q ▸ h9, k ▸ h10⟩

theorem foldl {α : Type} (l : List α) (f : State → α → State) (hf : ∀ (s : State) (x : α), s.Inv → (f s x).Inv) (h : s.Inv) : (l.foldl f s).Inv := by
  induction l generalizing s with
  | nil => exact h
  | cons x rest ih => exact ih (hf s x h)

theorem storePhys (h : s.Inv) (pa : Nat) (bs : List Byte) (keep : Option Nat) : (s.storePhys pa bs keep).Inv :=
  foldl _ _ (fun _ q hs => storeLine hs q.1 _ keep) h

theorem writeVA (h : s.Inv) (p va : Nat) (bs : List Byte) (k : Access) {t : State} (ht : s.writeVA p va bs k = .ok t) : t.Inv := by
  unfold State.writeVA at ht
  split at ht
  · cases ht
  · cases ht; exact foldl _ _ (fun _ q hs => storePhys hs q.1 q.2 none) h

theorem zeroPages (h : s.Inv) (ps : List (Nat × Nat)) : (s.zeroPages ps).Inv := by
  obtain ⟨h1, h2, h3, h4, h5, h6, -, h8⟩ := h
  exact ⟨Tab.wf_keep _ h1, h2, h3, h4, h5, h6, Tab.wf_rebuild s.sites (fun q => q.1) _ [] rfl, h8⟩

theorem resetPartRegs (h : s.Inv) (p : Nat) : (s.resetPartRegs p).Inv := ⟨h.1, h.2.1, Tab.wf_keep _ h.2.2.1, Tab.wf_keep _ h.2.2.2.1, h.2.2.2.2⟩

end Keeps

end Machine
end Sys2Proof
end

