-- ==== Sys2Proof/Laws/Gcm.lean ====
section
/-! SUPPORT. A frame that is sealed opens again under the same key, salt and count, to what it carried (R410). -/
namespace Sys2Proof.Machine

/-! ### Bytes, the most significant first -/

theorem beNat_append (l : List Nat) (b : Nat) : beNat (l ++ [b]) = 256 * beNat l + b := by simp [beNat]

theorem beBytes_succ (n v : Nat) : beBytes (n + 1) v = beBytes n (v / 256) ++ [v % 256] := by
  simp only [beBytes, List.range_succ, List.map_append, List.map_cons, List.map_nil]
  congr 1
  · apply List.map_congr_left
    intro i hi
    have hi := List.mem_range.mp hi
    rw [Nat.div_div_eq_div_mul, ← Nat.pow_succ', show n + 1 - 1 - i = (n - 1 - i) + 1 by omega]
  · simp

theorem beNat_beBytes (n v : Nat) : beNat (beBytes n v) = v % 256 ^ n := by
  induction n generalizing v with
  | zero => simp [beBytes, beNat, Nat.mod_one]
  | succ n ih =>
    rw [beBytes_succ, beNat_append, ih, Nat.pow_succ', Nat.mod_mul]
    omega

theorem beBytes_length (n v : Nat) : (beBytes n v).length = n := by simp [beBytes]

theorem beBytes_beNat (l : List Nat) (h : ∀ b ∈ l, b < 256) : beBytes l.length (beNat l) = l := by
  induction l using List.reverseRecOn with
  | nil => rfl
  | append_singleton l b ih =>
    have hb := h b (by simp)
    rw [List.length_append, List.length_singleton, beBytes_succ, beNat_append, show (256 * beNat l + b) / 256 = beNat l by omega, show (256 * beNat l + b) % 256 = b by omega,
      ih (fun x hx => h x (by simp [hx]))]

theorem beNat_lt (l : List Nat) (h : ∀ b ∈ l, b < 256) : beNat l < 256 ^ l.length := by
  have e := beNat_beBytes l.length (beNat l)
  rw [beBytes_beNat l h] at e
  rw [e]
  exact Nat.mod_lt _ (Nat.pow_pos (by decide))

/-! ### Bytes, the least significant first -/

theorem leNat_append (xs ys : List Byte) : leNat (xs ++ ys) = leNat xs + 256 ^ xs.length * leNat ys := by
  induction xs with
  | nil => simp [leNat]
  | cons x rest ih => simp [leNat, ih, Nat.pow_succ']; ring

theorem leNat_lt (xs : List Byte) : leNat xs < 256 ^ xs.length := by
  induction xs with
  | nil => simp [leNat]
  | cons x rest ih => have := x.isLt; simp [leNat, Nat.pow_succ']; omega

theorem leBytes_leNat (xs ys : List Byte) : leBytes xs.length (leNat xs + 256 ^ xs.length * leNat ys) = xs := by
  induction xs with
  | nil => rfl
  | cons x rest ih =>
    have hx := x.isLt
    have e : leNat (x :: rest) + 256 ^ (rest.length + 1) * leNat ys = x.toNat + 256 * (leNat rest + 256 ^ rest.length * leNat ys) := by
      simp [leNat, Nat.pow_succ']; ring
    rw [List.length_cons, e, leBytes]
    congr 1
    · apply BitVec.eq_of_toNat_eq; simp; omega
    · rw [show (x.toNat + 256 * (leNat rest + 256 ^ rest.length * leNat ys)) / 256 = leNat rest + 256 ^ rest.length * leNat ys by omega]; exact ih

/-! ### Blocks -/

/-- The bytes of a block on the wire. -/
def blockBytes (b : Nat) : List Byte := (beBytes 16 b).map (BitVec.ofNat 8)

theorem blockBytes_length (b : Nat) : (blockBytes b).length = 16 := by simp [blockBytes, beBytes_length]

theorem blocksNat_cons (b : Nat) (bs : List Nat) : blocksNat (b :: bs) = leNat (blockBytes b) + 256 ^ 16 * blocksNat bs := by
  have h := leNat_append (blockBytes b) ((bs.flatMap (beBytes 16)).map (BitVec.ofNat 8))
  rw [blockBytes_length] at h
  simpa [blocksNat, blockBytes] using h

theorem wireBlocks_succ (n v : Nat) : wireBlocks (n + 1) v = beNat ((leBytes 16 v).map (·.toNat)) :: wireBlocks n (v / 256 ^ 16) := by
  simp only [wireBlocks, List.range_succ_eq_map, List.map_cons, List.map_map]
  congr 1
  · simp
  · apply List.map_congr_left
    intro i _
    simp only [Function.comp]
    rw [Nat.div_div_eq_div_mul, show (256 : Nat) ^ 16 = 2 ^ 128 by norm_num, ← Nat.pow_add]
    congr 5
    simp [Nat.mul_succ, Nat.add_comm]

theorem blockBytes_toNat (b : Nat) : (blockBytes b).map (·.toNat) = beBytes 16 b := by
  unfold blockBytes
  rw [List.map_map]
  conv_rhs => rw [← List.map_id (beBytes 16 b)]
  apply List.map_congr_left
  intro x hx
  have : x < 256 := by
    obtain ⟨i, -, rfl⟩ := List.mem_map.mp hx
    exact Nat.mod_lt _ (by decide)
  simp; omega

theorem wireBlocks_blocksNat (bs : List Nat) (h : ∀ b ∈ bs, b < 2 ^ 128) : wireBlocks bs.length (blocksNat bs) = bs := by
  induction bs with
  | nil => rfl
  | cons b rest ih =>
    have hb : b < 256 ^ 16 := lt_of_lt_of_eq (h b (by simp)) (by norm_num)
    have e1 : leBytes 16 (leNat (blockBytes b) + 256 ^ 16 * blocksNat rest) = blockBytes b := by
      have := leBytes_leNat (blockBytes b) ((rest.flatMap (beBytes 16)).map (BitVec.ofNat 8))
      rwa [blockBytes_length] at this
    have e2 : (leNat (blockBytes b) + 256 ^ 16 * blocksNat rest) / 256 ^ 16 = blocksNat rest := by
      have := leNat_lt (blockBytes b)
      rw [blockBytes_length] at this
      omega
    rw [List.length_cons, wireBlocks_succ, blocksNat_cons, e1, e2, ih (fun x hx => h x (by simp [hx])), blockBytes_toNat, beNat_beBytes, Nat.mod_eq_of_lt hb]

theorem blocksNat_wireBlocks (n v : Nat) : blocksNat (wireBlocks n v) = v % 2 ^ (128 * n) := by
  induction n generalizing v with
  | zero => simp [wireBlocks, blocksNat, leNat, Nat.mod_one]
  | succ n ih =>
    have e : blockBytes (beNat ((leBytes 16 v).map (·.toNat))) = leBytes 16 v := by
      have h := beBytes_beNat ((leBytes 16 v).map (·.toNat)) (by intro b hb; obtain ⟨x, -, rfl⟩ := List.mem_map.mp hb; exact x.isLt)
      rw [List.length_map, leBytes_length] at h
      rw [blockBytes, h, List.map_map]
      conv_rhs => rw [← List.map_id (leBytes 16 v)]
      apply List.map_congr_left
      intro x _
      simp
    rw [wireBlocks_succ, blocksNat_cons, e, ih, leNat_leBytes, show 2 ^ (128 * (n + 1)) = 256 ^ 16 * 2 ^ (128 * n) by rw [Nat.mul_succ, Nat.pow_add, Nat.mul_comm]; norm_num,
      Nat.mod_mul]

theorem wireBlocks_lt {n v b : Nat} (h : b ∈ wireBlocks n v) : b < 2 ^ 128 := by
  obtain ⟨i, -, rfl⟩ := List.mem_map.mp h
  have := beNat_lt ((leBytes 16 (v / 2 ^ (128 * i))).map (·.toNat)) (by intro b hb; obtain ⟨x, -, rfl⟩ := List.mem_map.mp hb; exact x.isLt)
  rw [List.length_map, leBytes_length] at this
  exact lt_of_lt_of_eq this (by norm_num)

/-! ### The key stream -/

theorem gcmStream_length (key iv : Nat) (ps : List Nat) : (gcmStream key iv ps).length = ps.length := by simp [gcmStream]

theorem gcmStream_lt {key iv : Nat} {ps : List Nat} (h : ∀ p ∈ ps, p < 2 ^ 128) : ∀ c ∈ gcmStream key iv ps, c < 2 ^ 128 := by
  intro c hc
  obtain ⟨⟨p, i⟩, hp, rfl⟩ := List.mem_map.mp hc
  exact Nat.xor_lt_two_pow (h p (List.fst_mem_of_mem_zipIdx hp)) (Nat.mod_lt _ (by positivity))

theorem gcmStream_twice (key iv : Nat) (ps : List Nat) : gcmStream key iv (gcmStream key iv ps) = ps := by
  apply List.ext_getElem
  · simp [gcmStream]
  · intro i _ _
    simp [gcmStream]

/-! ### Frames -/

theorem openFrame_sealFrame (f : Frame) (key salt counter : Nat) : openFrame (sealFrame f key salt counter) key salt counter = some { f with tag := 0 } := by
  have hs := gcmStream_lt (key := key % 2 ^ 256) (iv := frameIv salt counter) (fun _ => wireBlocks_lt (n := 16) (v := f.payload.toNat))
  have hl : (gcmStream (key % 2 ^ 256) (frameIv salt counter) (wireBlocks 16 f.payload.toNat)).length = 16 := by simp [gcmStream_length, wireBlocks]
  generalize hc : gcmStream (key % 2 ^ 256) (frameIv salt counter) (wireBlocks 16 f.payload.toNat) = cipher at hs hl
  have hp : wireBlocks 16 (BitVec.ofNat 2048 (blocksNat cipher)).toNat = cipher := by
    have hw := wireBlocks_blocksNat cipher hs
    have hm := blocksNat_wireBlocks 16 (blocksNat cipher)
    rw [hl] at hw
    rw [hw] at hm
    rw [BitVec.toNat_ofNat]
    exact (congrArg (wireBlocks 16) hm).symm.trans hw
  have ht : gcmStream (key % 2 ^ 256) (frameIv salt counter) cipher = wireBlocks 16 f.payload.toNat := by rw [← hc, gcmStream_twice]
  have hb : BitVec.ofNat 2048 (blocksNat (wireBlocks 16 f.payload.toNat)) = f.payload := by
    rw [blocksNat_wireBlocks, show 128 * 16 = 2048 from rfl, Nat.mod_eq_of_lt f.payload.isLt, BitVec.ofNat_toNat, BitVec.setWidth_eq]
  unfold openFrame sealFrame
  have hh : ∀ p t, frameHeader { f with payload := p, tag := t } = frameHeader f := by intro p t; simp only [frameHeader]
  simp only [hc, hp, ht, hb, hh, if_true]

/-- What a port reads of a frame that is sealed under its incoming key, salt and count, in its epoch. -/
theorem clear_sealed (x : QPort) (f : Frame) (h : f.fecOk = true) (he : (f.epoch = 1) = (x.epochIn = true)) :
    x.clear (sealFrame f x.keyIn x.saltIn x.framesIn) = some { f with tag := 0 } := by
  have e : (sealFrame f x.keyIn x.saltIn x.framesIn).epoch = f.epoch := by simp only [sealFrame]
  have g : (sealFrame f x.keyIn x.saltIn x.framesIn).fecOk = f.fecOk := by simp only [sealFrame]
  unfold QPort.clear QPort.epochOk QPort.otherEpoch
  rw [e, g, h]
  simp only [he]
  simpa [h] using openFrame_sealFrame f x.keyIn x.saltIn x.framesIn

end Sys2Proof.Machine
end

