-- ==== Sys2Proof/Laws/Reports.lean ====
section
/-! SUPPORT. What reports, entries and the ends of ops do: a report touches registers, host memory, the concentrators of the hank dies and what is sent out, and nothing else; each keeps the canonical form. -/
namespace Sys2Proof.Machine

/-! ### What a report leaves alone -/

/-- Nothing but registers, interrupts, host memory, hank dies, the management side and output differs; output only grows. -/
def State.SameCore (s t : State) : Prop :=
  t.mem = s.mem ∧ t.active = s.active ∧ t.parts = s.parts ∧ t.tiles = s.tiles ∧ t.sites = s.sites ∧ t.ports = s.ports ∧ t.jobs = s.jobs ∧ t.power = s.power ∧
  t.fresh = s.fresh ∧ t.grade = s.grade ∧ t.serial = s.serial ∧ t.commits = s.commits ∧ t.clock = s.clock ∧ t.pending = s.pending ∧ s.out <+: t.out

namespace State.SameCore

theorem refl (s : State) : s.SameCore s := by simp [State.SameCore]

theorem trans {s t u : State} (h : s.SameCore t) (k : t.SameCore u) : s.SameCore u := by
  obtain ⟨a1, a2, a3, a4, a5, a6, a7, a8, a9, a10, a11, a12, a13, a14, a15⟩ := h
  obtain ⟨b1, b2, b3, b4, b5, b6, b7, b8, b9, b10, b11, b12, b13, b14, b15⟩ := k
  exact ⟨b1.trans a1, b2.trans a2, b3.trans a3, b4.trans a4, b5.trans a5, b6.trans a6, b7.trans a7, b8.trans a8, b9.trans a9, b10.trans a10, b11.trans a11, b12.trans a12,
    b13.trans a13, b14.trans a14, a15.trans b15⟩

variable (s : State)

theorem setReg (r : Reg) (v : Word32) : s.SameCore (s.setReg r v) := by simp [State.SameCore]
theorem setField (r : Reg) (hi lo v : Nat) : s.SameCore (s.setField r hi lo v) := by simp [State.SameCore]
theorem bump (r : Reg) (hi lo : Nat) : s.SameCore (s.bump r hi lo) := by
  unfold State.bump; simp only; split
  · exact setField ..
  · exact refl s
theorem emit (o : Output) : s.SameCore (s.emit o) := by simp [State.SameCore]
theorem writeHost (h a : Nat) (bs : List Byte) : s.SameCore (s.writeHost h a bs) := by simp [State.SameCore]
theorem setHank (h : Nat) (x : Hank) : s.SameCore (s.setHank h x) := by simp [State.SameCore]
theorem updHank (h : Nat) (f : Hank → Hank) : s.SameCore (s.updHank h f) := setHank s h _

theorem pathWrite (h : Fin 4) (r : PathRegs) (v : BitVec 256) : s.SameCore (s.pathWrite h r v) := (writeHost s ..).trans (setField ..)

theorem logRecord (h : Fin 4) (v : BitVec 256) : s.SameCore (s.logRecord h v) := by
  unfold State.logRecord; split
  · exact bump ..
  · split
    · exact ((pathWrite s ..).trans (setField ..)).trans (bump ..)
    · exact pathWrite ..

theorem traceMark (h : Fin 4) : s.SameCore (s.traceMark h) := by
  unfold State.traceMark; split
  · exact refl s
  · split
    · exact (pathWrite s ..).trans (updHank ..)
    · exact refl s

theorem traceRecord (h : Fin 4) (v : BitVec 256) : s.SameCore (s.traceRecord h v) := by
  unfold State.traceRecord; split
  · exact bump ..
  · simp only; split
    · exact ((traceMark s h).trans (updHank ..)).trans (bump ..)
    · exact (traceMark s h).trans (pathWrite ..)

theorem emitLog (h : Fin 4) (r : FaultRec) : s.SameCore (s.emitLog h r) := by
  unfold State.emitLog; simp only; split
  · exact (setField s ..).trans (logRecord ..)
  · exact logRecord ..

theorem reportLog (src rep : BitVec 16) (event detail : Nat) (part : Option Nat) : s.SameCore (s.reportLog src rep event detail part) := by
  unfold State.reportLog; simp only; split
  · exact refl s
  · split
    · exact setHank ..
    · split
      · exact setHank ..
      · exact emitLog ..

theorem reportTrace (src rep : BitVec 16) (event detail : Nat) (part : Option Nat) : s.SameCore (s.reportTrace src rep event detail part) := by
  unfold State.reportTrace; simp only; split
  · exact refl s
  · exact traceRecord ..

theorem reportAlarm (src rep : BitVec 16) (event detail : Nat) (part : Option Nat) : s.SameCore (s.reportAlarm src rep event detail part) := by
  have h : s.SameCore { s.emit (.alarm src (BitVec.ofNat 8 event) (BitVec.ofNat 32 detail)) with mgmt := { s.mgmt with unread := s.mgmt.unread ++ [src] } } := by simp [State.SameCore]
  unfold State.reportAlarm; simp only; split
  · exact h
  · exact h.trans (setHank ..)

theorem msixSend (key vector : Nat) (o : Output) : s.SameCore (s.msixSend key vector o) := by
  unfold State.msixSend; split
  · simp [State.SameCore]
  · exact emit ..

theorem stick (p : Nat) (st : Status) : s.SameCore (s.stick p st) := by
  unfold State.stick; split
  · exact refl s
  · exact setField ..

theorem statusEffects (p : Nat) (st : Status) : s.SameCore (s.statusEffects p st) := by
  unfold State.statusEffects; simp only; split
  · exact (stick s p st).trans (bump ..)
  · exact stick ..

theorem badLine (pa : Nat) (part : Option Nat) (rep : BitVec 16) : s.SameCore (s.badLine pa part rep) := (bump s ..).trans (reportLog ..)

/-- What the capture of a fault does once the uncorrectable line has its record. -/
theorem captured (p : Nat) (lov hiv : Word32) (c : Bool) :
    s.SameCore (if c then s else (s.setReg (pr p .xlateFaultLo) lov).setReg (pr p .xlateFaultHi) hiv) := by
  split
  · exact refl s
  · exact (setReg s ..).trans (setReg ..)

theorem capture (p access : Nat) (f : XFault) : s.SameCore (s.capture p access f) := by
  unfold State.capture
  cases f.entry with
  | some a => exact (badLine s ..).trans (captured ..)
  | none => exact captured ..

end State.SameCore

/-! ### The canonical form -/

/-- The address map finds every register again: what register writes rest on. -/
def RegsNamed : Prop := ∀ r : Reg, r.init = regInit r.addr

namespace Keeps

variable {s : State} (n : RegsNamed)
include n

theorem field (h : s.Inv) (r : Reg) (hi lo v : Nat) : (s.setField r hi lo v).Inv := setField h r hi lo v (n r)
theorem register (h : s.Inv) (r : Reg) (v : Word32) : (s.setReg r v).Inv := setReg h r v (n r)
theorem count (h : s.Inv) (r : Reg) (hi lo : Nat) : (s.bump r hi lo).Inv := bump h r hi lo (n r)

theorem pathWrite (h : s.Inv) (k : Fin 4) (r : PathRegs) (v : BitVec 256) : (s.pathWrite k r v).Inv := field n (writeHost h ..) ..

theorem logRecord (h : s.Inv) (k : Fin 4) (v : BitVec 256) : (s.logRecord k v).Inv := by
  unfold State.logRecord; split
  · exact count n h ..
  · split
    · exact count n (field n (pathWrite n h ..) ..) ..
    · exact pathWrite n h ..

theorem traceMark (h : s.Inv) (k : Fin 4) : (s.traceMark k).Inv := by
  unfold State.traceMark; split
  · exact h
  · split
    · exact updHank (pathWrite n h ..) _ _ (fun _ hx => hx)
    · exact h

theorem traceRecord (h : s.Inv) (k : Fin 4) (v : BitVec 256) : (s.traceRecord k v).Inv := by
  unfold State.traceRecord; split
  · exact count n h ..
  · simp only; split
    · refine count n (updHank (traceMark n h k) _ _ ?_) ..
      intro x hx; exact hx
    · exact pathWrite n (traceMark n h k) ..

theorem emitLog (h : s.Inv) (k : Fin 4) (r : FaultRec) : (s.emitLog k r).Inv := by
  unfold State.emitLog; simp only; split
  · exact logRecord n (field n h ..) ..
  · exact logRecord n h ..

theorem reportLog (h : s.Inv) (src rep : BitVec 16) (event detail : Nat) (part : Option Nat) : (s.reportLog src rep event detail part).Inv := by
  unfold State.reportLog; simp only; split
  · exact h
  · split
    · exact setHank h _ _ (pke_wf h _)
    · split
      · exact setHank h _ _ (pke_wf h _)
      · exact emitLog n h ..

theorem reportTrace (h : s.Inv) (src rep : BitVec 16) (event detail : Nat) (part : Option Nat) : (s.reportTrace src rep event detail part).Inv := by
  unfold State.reportTrace; simp only; split
  · exact h
  · exact traceRecord n h ..

omit n in
theorem reportAlarm (h : s.Inv) (src rep : BitVec 16) (event detail : Nat) (part : Option Nat) : (s.reportAlarm src rep event detail part).Inv := by
  have h' : State.Inv { s.emit (.alarm src (BitVec.ofNat 8 event) (BitVec.ofNat 32 detail)) with mgmt := { s.mgmt with unread := s.mgmt.unread ++ [src] } } := h
  unfold State.reportAlarm; simp only; split
  · exact h'
  · exact setHank h' _ _ (pke_wf h _)

omit n in
theorem msixSend (h : s.Inv) (key vector : Nat) (o : Output) : (s.msixSend key vector o).Inv := by
  unfold State.msixSend; split <;> exact h

theorem stick (h : s.Inv) (p : Nat) (st : Status) : (s.stick p st).Inv := by
  unfold State.stick; split
  · exact h
  · exact field n h ..

theorem statusEffects (h : s.Inv) (p : Nat) (st : Status) : (s.statusEffects p st).Inv := by
  unfold State.statusEffects; simp only; split
  · exact count n (stick n h ..) ..
  · exact stick n h ..

theorem badLine (h : s.Inv) (pa : Nat) (part : Option Nat) (rep : BitVec 16) : (s.badLine pa part rep).Inv := reportLog n (count n h ..) ..

theorem capture (h : s.Inv) (p access : Nat) (f : XFault) : (s.capture p access f).Inv := by
  have store : ∀ (s : State) (lo hi : Word32) (c : Bool), s.Inv → (if c then s else (s.setReg (pr p .xlateFaultLo) lo).setReg (pr p .xlateFaultHi) hi).Inv := by
    intro s lo hi c hs; split
    · exact hs
    · exact register n (register n hs ..) ..
  unfold State.capture
  cases f.entry with
  | some a => exact store _ _ _ _ (badLine n h ..)
  | none => exact store _ _ _ _ h

omit n in
theorem produce (h : s.Inv) (p k : Nat) (e : HeldEntry) : (s.produce p k e).Inv := updRing h ..

omit n in
theorem addUnseen (h : s.Inv) (p : Nat) (ks : List Nat) : (s.addUnseen p ks).Inv := foldl _ _ (fun _ _ hs => updPart (draw hs) ..) h

omit n in
theorem counter (h : s.Inv) (p k : Nat) : (s.counter p k).2.Inv := by
  unfold State.counter; split
  · exact h
  · show State.Inv (if s.countsNow p k then s.addUnseen p [k] else s)
    split
    · exact addUnseen h ..
    · exact h

omit n in
theorem countRun (h : s.Inv) (p : Nat) (r : OpRec) : (s.countRun p r).Inv := by
  unfold State.countRun; split
  · exact addUnseen h ..
  · exact h

omit n in
theorem latch (h : s.Inv) (j : Job) : (s.latch j).2.Inv := by
  unfold State.latch; split
  · exact counter (counter h _ _) _ _
  · exact h

omit n in
theorem produceOp (h : s.Inv) (o : OpRef) : (s.produceOp o).Inv := by
  unfold State.produceOp; split
  · simp only; split
    · exact produce (updOp h ..) ..
    · exact updOp h ..
  · exact h

omit n in
theorem reportOp (h : s.Inv) (o : OpRef) : (s.reportOp o).Inv := by
  unfold State.reportOp; split
  · split
    · split
      · exact updJob h ..
      · exact produceOp h o
    · exact h
  · exact h

omit n in
theorem completeOne (h : s.Inv) (j : Nat) : (s.completeOne j).Inv := by
  unfold State.completeOne; split
  · split
    · exact produce (updJob (latch h _) ..) ..
    · exact h
  · exact h

omit n in
theorem completeJob (h : s.Inv) (j : Nat) : (s.completeJob j).Inv := by
  refine foldl _ _ (fun s k hs => ?_) h
  split
  · exact completeOne hs _
  · exact hs

omit n in
theorem resolvePass (h : s.Inv) (j : Nat) : (s.resolvePass j).Inv := by
  unfold State.resolvePass; split
  · refine foldl _ _ (fun s o hs => ?_) h
    simp only
    split
    · split
      · exact reportOp (updOp (latch hs _) ..) _
      · exact hs
    · exact hs
  · exact h

omit n in
theorem refreshEnds (h : s.Inv) (o : OpRef) : (s.refreshEnds o).Inv := by
  unfold State.refreshEnds; split
  · split
    · exact reportOp (updOp h ..) _
    · exact h
  · exact h

omit n in
theorem settleJob (h : s.Inv) (o : OpRef) : (s.settleJob o).Inv := completeJob (resolvePass (reportOp (refreshEnds h o) o) _) _

omit n in
theorem freeTiles (h : s.Inv) (ts : List Nat) : (s.freeTiles ts).Inv := foldl _ _ (fun _ _ hs => updTile hs _ _) h

theorem endOp (h : s.Inv) (o : OpRef) (st : Status) : (s.endOp o st).Inv := by
  unfold State.endOp; split
  · rename_i j r _
    have hc : ∀ b : Bool, (if b then ((s.statusEffects j.part st).countRun j.part r).bump (pr j.part .partEventCount) 15 0
        else (s.statusEffects j.part st).countRun j.part r).Inv := by
      intro b; split
      · exact count n (countRun (statusEffects n h ..) ..) ..
      · exact countRun (statusEffects n h ..) ..
    exact settleJob (updOp (freeTiles (latch (hc r.inserted.isNone) _) _) ..) _
  · exact h

end Keeps

end Sys2Proof.Machine
end

