-- ==== Sys2Proof/Laws/Links.lean ====
section
/-! SUPPORT. What sending on a Quolyn port does (R410, R411, R418): nothing but the port and what goes out differs, and a served frame leaves the port's waiting ones. -/
namespace Sys2Proof.Machine

/-- A frame on the wire changes its port alone, and goes out with the acknowledgement and the epoch of the port. -/
theorem putOnWire_eq (s : State) (q : Nat) (f : Frame) :
    ∃ w, s.putOnWire q f = (s.setPort q { s.port q with framesOut := (s.port q).framesOut + 1 }).emit
      (.frame q { f with ack := BitVec.ofNat 16 (s.port q).ackOf, epoch := if (s.port q).epochOut then 1 else 0 } w) := ⟨_, rfl⟩

theorem putOnWire_frame (s : State) (q : Nat) (f : Frame) :
    (s.putOnWire q f).mem = s.mem ∧ (s.putOnWire q f).regs = s.regs ∧ (s.putOnWire q f).parts = s.parts ∧ (s.putOnWire q f).fresh = s.fresh := ⟨rfl, rfl, rfl, rfl⟩

theorem sendKept_frame (s : State) (q : Nat) (f : Frame) :
    (s.sendKept q f).mem = s.mem ∧ (s.sendKept q f).regs = s.regs ∧ (s.sendKept q f).parts = s.parts ∧ (s.sendKept q f).fresh = s.fresh := ⟨rfl, rfl, rfl, rfl⟩

/-- A rekey that begins sends one frame, and draws what it carries. -/
theorem beginRekey_eq (s : State) (q : Nat) : ∃ g f, s.beginRekey q = (s.draw.2.updPort q g).sendKept q f := ⟨_, _, rfl⟩

theorem beginRekey_frame (s : State) (q : Nat) : (s.beginRekey q).mem = s.mem ∧ (s.beginRekey q).regs = s.regs ∧ (s.beginRekey q).parts = s.parts := by
  obtain ⟨g, f, h⟩ := beginRekey_eq s q
  have k := sendKept_frame (s.draw.2.updPort q g) q f
  rw [h]
  exact ⟨k.1, k.2.1, k.2.2.1⟩

/-- The rekey after 2^40 frames begins or does not. -/
theorem rekeyAt40_eq (s : State) (q : Nat) : s.rekeyAt40 q = s.beginRekey q ∨ s.rekeyAt40 q = s := by
  unfold State.rekeyAt40; split
  · exact .inl rfl
  · exact .inr rfl

theorem rekeyAt40_frame (s : State) (q : Nat) : (s.rekeyAt40 q).mem = s.mem ∧ (s.rekeyAt40 q).regs = s.regs ∧ (s.rekeyAt40 q).parts = s.parts := by
  obtain h | h := rekeyAt40_eq s q <;> rw [h]
  · exact beginRekey_frame s q
  · exact ⟨rfl, rfl, rfl⟩

theorem transmit_frame (s : State) (q : Nat) (f : Frame) :
    (s.transmit q f).mem = s.mem ∧ (s.transmit q f).regs = s.regs ∧ (s.transmit q f).parts = s.parts := by
  have h := sendKept_frame s q f
  have k := rekeyAt40_frame (s.sendKept q f) q
  exact ⟨k.1.trans h.1, k.2.1.trans h.2.1, k.2.2.trans h.2.2.1⟩

theorem sendFrame_frame (s : State) (q : Nat) (through : Bool) (f : Frame) :
    (s.sendFrame q through f).mem = s.mem ∧ (s.sendFrame q through f).regs = s.regs ∧ (s.sendFrame q through f).parts = s.parts := by
  unfold State.sendFrame; simp only; split
  · exact transmit_frame ..
  · exact ⟨rfl, rfl, rfl⟩

/-- The frame whose turn it is among the spans waits at the port. -/
theorem localTurn_mem {x : QPort} {f : Frame} (h : x.localTurn = some f) : f ∈ x.queue := by
  obtain ⟨k, -, h⟩ := List.exists_of_findSome?_eq_some h
  exact List.mem_of_find?_eq_some h

/-- A served frame waited at the port, and the port keeps the others. -/
theorem serve_mem {x y : QPort} {f : Frame} (h : x.serve = some (f, y)) :
    f ∈ x.through ++ x.queue ∧ y.through.length + y.queue.length + 1 = x.through.length + x.queue.length ∧ y.sent = x.sent := by
  have taken : ∀ {g : Frame}, x.localTurn = some g → (x.queue.erase g).length + 1 = x.queue.length := fun {g} hg => by
    have hm := localTurn_mem hg
    have := List.length_pos_of_mem hm
    rw [List.length_erase_of_mem hm]; omega
  unfold QPort.serve at h
  split at h
  · next hx hl => cases h; simp [hx]; omega
  · next g rest g' hx hl =>
    split at h
    · cases h; simp [hx]; omega
    · cases h; have := taken hl; simp [localTurn_mem hl]; omega
  · next g hx hl => cases h; have := taken hl; simp [localTurn_mem hl]; omega
  · cases h

namespace Keeps

variable {s : State}

theorem putOnWire (h : s.Inv) (q : Nat) (f : Frame) : (s.putOnWire q f).Inv := emit (setPort h q _) _
theorem sendKept (h : s.Inv) (q : Nat) (f : Frame) : (s.sendKept q f).Inv := putOnWire (setPort h q _) q _
theorem beginRekey (h : s.Inv) (q : Nat) : (s.beginRekey q).Inv := by
  obtain ⟨g, f, e⟩ := beginRekey_eq s q
  rw [e]
  exact sendKept (updPort (draw h) q g) q f
theorem rekeyAt40 (h : s.Inv) (q : Nat) : (s.rekeyAt40 q).Inv := by
  obtain e | e := rekeyAt40_eq s q <;> rw [e]
  · exact beginRekey h q
  · exact h
theorem transmit (h : s.Inv) (q : Nat) (f : Frame) : (s.transmit q f).Inv := rekeyAt40 (sendKept h q f) q
theorem sendFrame (h : s.Inv) (q : Nat) (through : Bool) (f : Frame) : (s.sendFrame q through f).Inv := by
  unfold State.sendFrame; simp only; split
  · exact transmit (setPort h q _) q f
  · exact setPort h q _

theorem drainQueue (h : s.Inv) (q n : Nat) : (State.drainQueue q n s).Inv := by
  induction n generalizing s with
  | zero => exact h
  | succ n ih =>
    unfold State.drainQueue; simp only; split
    · split
      · exact ih (transmit (setPort h q _) q _)
      · exact h
    · exact h

end Keeps

end Sys2Proof.Machine
end

