-- ==== Sys2Proof/Laws/Modular.lean ====
section
/-! SUPPORT. The residue checks of R68 pass on every exact reduction and on every exact sum: a check that fails shows a fault of the hardware. -/
namespace Sys2Proof.Machine

theorem productCheck_exact {q a b quot r : Nat} (h : a * b = quot * q + r) (hr : r < q) : productCheck q (q % checkModulus) a b quot r = true := by
  have e : (quot * (q % checkModulus) + r) % checkModulus = (quot * q + r) % checkModulus := by
    rw [Nat.add_mod, Nat.mul_mod, Nat.mod_mod, ← Nat.mul_mod, ← Nat.add_mod]
  unfold productCheck
  rw [← Nat.mul_mod, h, e]
  simp [hr]

theorem mulChecked_exact {q : Nat} (h : 0 < q) (a b : Nat) : mulChecked q (q % checkModulus) a b = true :=
  productCheck_exact (by rw [Nat.mul_comm (a * b / q) q]; exact (Nat.div_add_mod (a * b) q).symm) (Nat.mod_lt _ h)

theorem runningCheck_eq (xs : List Nat) : runningCheck xs = xs.sum % checkModulus := by
  suffices h : ∀ c, c < checkModulus → xs.foldl runningStep c = (c + xs.sum) % checkModulus by
    simpa [runningCheck] using h 0 (by decide)
  induction xs with
  | nil => intro c hc; simp [Nat.mod_eq_of_lt hc]
  | cons x rest ih =>
    intro c _
    rw [List.foldl_cons, runningStep, ih _ (Nat.mod_lt _ (by decide))]
    simp [Nat.add_assoc]

theorem accumulatorCheck_exact {q : Nat} (h : 0 < q) (xs : List Nat) : accumulatorCheck q (q % checkModulus) xs.sum (runningCheck xs) = true := by
  have e : (xs.sum / q * (q % checkModulus) + xs.sum % q) % checkModulus = xs.sum % checkModulus := by
    conv => rhs; rw [← Nat.div_add_mod xs.sum q, Nat.mul_comm q]
    rw [Nat.add_mod, Nat.mul_mod, Nat.mod_mod, ← Nat.mul_mod, ← Nat.add_mod]
  simp [accumulatorCheck, runningCheck_eq, e, Nat.mod_lt _ h]

theorem sumChecked_exact {q : Nat} (h : 0 < q) (xs : List Nat) : sumChecked q (q % checkModulus) xs = true := accumulatorCheck_exact h xs

theorem mulChecks_exact {q : Nat} (h : 0 < q) (a b : List Nat) : mulChecks q (q % checkModulus) a b = true := by
  simp [mulChecks, mulChecked_exact h]

theorem nttChecks_exact {q : Nat} (h : 0 < q) (psi nInv n : Nat) (fwd : Bool) (a : List Nat) : nttChecks q (q % checkModulus) psi nInv n fwd a = true := by
  cases fwd <;> simp [nttChecks, mulChecked_exact h]

theorem bconvChecks_exact {src dst : List PrimeEntry} (hs : ∀ e ∈ src, 0 < e.q ∧ e.check = e.q % checkModulus) (hd : ∀ e ∈ dst, 0 < e.q ∧ e.check = e.q % checkModulus)
    (xs : Limbs) : bconvChecks src dst xs = true := by
  simp only [bconvChecks, Bool.and_eq_true, List.all_eq_true]
  refine ⟨fun x hx v _ => ?_, fun e he i _ => ?_⟩
  · obtain ⟨h, c⟩ := hs x.1 (List.of_mem_zip hx).1
    rw [c]; exact mulChecked_exact h _ _
  · obtain ⟨h, c⟩ := hd e he
    rw [c]; exact sumChecked_exact h _

theorem intSumChecked_exact (xs : List Int) : intSumChecked xs = true := by
  suffices h : ∀ c : Int, xs.foldl (fun c x => (c + x) % (checkModulus : Int)) (c % checkModulus) = (c + xs.sum) % checkModulus by
    have := h 0
    simp only [Int.zero_emod, Int.zero_add] at this
    simp [intSumChecked, this]
  induction xs with
  | nil => simp
  | cons x rest ih =>
    intro c
    rw [List.foldl_cons, Int.emod_add_emod, ih]
    simp [Int.add_assoc]

end Sys2Proof.Machine
end

