-- ==== Sys2Proof/Machine/Access.lean ====
section
/-! DEFINITION. What a register read returns to each requester: the widths (R10), the maps (R435 to R440), who reaches what (R328, R441, R443, R445, R446). -/
namespace Sys2Proof.Machine

/-- A read in the MSI-X region of a function: the table, then the pending bits (R435, R438). -/
def State.msixRead (s : State) (key o : Nat) : Word32 :=
  let at32 := fun (n : Nat) => Tab.get (fun _ => false) s.msixPending (16 * key + n)
  if o < 256 then Tab.get (fun w => if w % 4 = 3 then 1 else 0) s.msix (64 * key + o / 4)
  else if o = 0x1000 then BitVec.ofNat 32 (((List.range 16).map (fun n => flagAt (at32 n) n)).sum)
  else 0

/-- A read in the layout of a skein-die window (R444); an offset that it does not name reads 0 where the site answers. -/
def State.dieWindowRead (s : State) (d : Fin 18) (o : Nat) : Word32 :=
  match dieBlock d o with
  | .tile t o => (match TReg.ofOff o with
    | some r => s.tileValue t r
    | none => if s.diePowered (siteOf t) then 0 else 0xFFFFFFFF)
  | _ => (match DReg.ofOff o with
    | some r => s.dieValue d r
    | none => if (s.site d).state = .retired then 0xFFFFFFFF else 0)

/-- A read of a partition's operator window by a physical function or by the runtime (R440, R441). -/
def State.windowRead (s : State) (p : Fin 64) (runtime : Bool) (o : Nat) : Word32 × State :=
  if s.viewOpen .operator p then
    match vfPlace o with
    | .reg r => if hiddenReg r && !runtime then (0, s) else s.partRead p r
    | .msix o => (match s.vfMsix p with
      | some (key, _, _) => (if runtime then s.msixRead key o else 0, s)
      | none => (0, s))
    | _ => (0, s)
  else (0, s)

/-- A read of the security block window (R328, R445): all ones where the lifecycle state closes it; else the ring registers of each hank die, and 0. -/
def State.securityRead (s : State) (runtime : Bool) (o : Nat) : Word32 :=
  if s.testState || runtime then
    match securityReg o with
    | some r => s.hankValue (hIdx (o / 0x40000)) r
    | none => 0
  else 0xFFFFFFFF

/-- A read in the physical-function map (R435 to R446). -/
def State.pfRead (s : State) (h : Fin 4) (runtime : Bool) (a : Nat) : Word32 × State :=
  match pfBlock a with
  | .glob o => (match GReg.ofOff o with
    | some .opCntLo => s.opCntRead
    | some r => (s.globValue r, s)
    | none => (0, s))
  | .hank k o => (match HReg.ofOff o with
    | some r => (s.hankValue k r, s)
    | none => (if (s.hank k).running then 0 else 0xFFFFFFFF, s))
  | .msix o => (if runtime then 0 else s.msixRead h o, s)
  | .window p o => s.windowRead p runtime o
  | .die d o => (s.dieWindowRead d o, s)
  | .tile t o => (s.dieWindowRead ⟨t.val / 32, by omega⟩ (0x80000 + 0x2000 * (t.val % 32) + o), s)
  | .security o => (s.securityRead runtime o, s)
  | .reserved | .bcastAll _ | .bcastGroup _ | .bcastTile _ => (0xFFFFFFFF, s)

/-- Virtual functions are enumerated in the Deployed state alone (R328). -/
def State.vfEnumerated (s : State) : Bool := decide (s.lifecycle = .deployed)

/-- A read through a virtual function (R438): all ones at a reserved offset, or where the function is not enumerated; 0 where no partition answers (R316). -/
def State.vfRead (s : State) (h : Fin 4) (i : Fin 16) (o : Nat) : Word32 × State :=
  if !s.vfEnumerated then (0xFFFFFFFF, s)
  else match s.vfPart h i with
  | some p => (match vfPlace o with
    | .reg r => s.partRead (pIdx p) r
    | .msix o => (s.msixRead (4 + 16 * h.val + i.val) o, s)
    | .reserved => (0xFFFFFFFF, s)
    | .unnamed => (0, s))
  | none => (0, s)

/-- What a read of `width` bytes at an offset returns to a requester, and the state after it. One that is not of 4 aligned bytes, and one to a
module that does not answer, returns all ones and has no effect (R10). -/
def State.regRead (s : State) (req : Requester) (o width : Nat) : Word32 × State :=
  if !s.reqOpen req || decide (width ≠ 4) || decide (o % 4 ≠ 0) then (0xFFFFFFFF, s)
  else match req with
  | .pf h => s.pfRead h false o
  | .runtime => s.pfRead 0 true o
  | .vf h i | .runtimeVf h i => s.vfRead h i o
  | .core p => s.imageRead p o

end Sys2Proof.Machine
end

