-- ==== Sys2Proof/Tests/Slice0.lean ====
section
/-! SUPPORT. Tests: the well-formedness checks refuse what they are for, worked examples of the spec come out, and every statement's hypotheses are met by a concrete state.
Expected values come from the spec's rules and examples; the docstring or name says which. -/
set_option Elab.async false
namespace Sys2Proof.Tests
open Sys2Proof Sys2Proof.Machine

/-- The state after a command, if it answers one. -/
def after (c : Instr) (s : State) : Option State :=
  match exec c s with
  | .next t => some t
  | _ => none

/-- What a test looks at after a command. -/
def sees {α : Type} (c : Instr) (s : State) (f : State → α) : Option α := (after c s).map f

/-- A module that has started, in M0. -/
def up : State := { State.reset with power := { State.reset.power with state := .m0, runtimeReady := true }, counting := true }

/-- Partition 0 on virtual function 1 of port 0, with quad 0 of site 0 and two virtual harts. -/
def tenant0 : Part := { state := .active, vf := some (0, 1), quads := [0], harts := [{ phys := some 2 }, { phys := some 3 }] }

/-- A module with that partition. -/
def up0 (x : Part) : State := { up with parts := [(0, x)] }

/-- The same with some registers written. -/
def poke (l : List (Reg × Word32)) (s : State) : State := l.foldl (fun s x => s.setReg x.1 x.2) s

/-- Partition 0 with 2 MiB at 0x1_0000_0000, readable, writable and combinable, on the page at 0x400_0000. -/
def mapped : MapEntry := { va := 0x100000000, units := 32, page := 1, read := true, write := true, combine := true, pages := [0x4000000] }
def tenantM : Part := { tenant0 with map := [mapped], grant := 32 }
/-- A module with a partition of that map, its translation tables in place. -/
def up1 (x : Part) : State := (poke [(.glob (.ptRoot 0), BitVec.ofNat 32 (tableBase 0 / 4096))] (up0 x)).writeTables 0 [] [mapped]

/-! ### Rings -/

/-- Ring pair 0 of partition 0, in host memory, of 16 entries each (the reset sizes): enabled, entry 0 fetched, entry 1 submitted. -/
def ring0 : Machine.Ring := { active := true, tail := 2, sqHead := 1, cqTail := 1 }
def ringed (r : Machine.Ring) : State := poke [(.part 0 (.ringCtrl 0), 1), (.part 0 (.ringCfg 0), 0x00030404)] (up0 { tenant0 with rings := [(0, r)] })

/-- Front of the queue, and the idle cycle (R376). -/
theorem witness_StepRunsFront : ({ up with pending := [.endSession 0] } : State).pending = .endSession 0 :: [] ∧ up.pending = [] := by decide +kernel
/-- A tail that leaves one entry free, at SQ_HEAD − 1, is taken; one at SQ_HEAD is not (R254). -/
theorem witness_DoorbellsMoveIndices : (ringed ring0).viewOpen .vf 0 = true ∧ (ringed ring0).power.state = .m0 := by decide +kernel
theorem test_doorbell_full : sees (.dbSqWrite .vf 0 0 0) (ringed ring0) (fun s => ((s.ring 0 0).tail, bit (s.reg (.part 0 (.ringStatus 0))) 4)) = some (0, false) := by decide +kernel
theorem test_doorbell_past : sees (.dbSqWrite .vf 0 0 1) (ringed ring0) (fun s => ((s.ring 0 0).tail, bit (s.reg (.part 0 (.ringStatus 0))) 4)) = some (2, true) := by decide +kernel
theorem test_head_at_tail : sees (.dbCqWrite .core 0 0 1) (ringed ring0) (fun s => ((s.ring 0 0).head, bit (s.reg (.part 0 (.ringStatus 0))) 4)) = some (1, false) := by decide +kernel
theorem test_head_past : sees (.dbCqWrite .core 0 0 2) (ringed ring0) (fun s => ((s.ring 0 0).head, bit (s.reg (.part 0 (.ringStatus 0))) 4)) = some (0, true) := by decide +kernel
/-- A commit of the pair that waits, as RING_ENABLE leaves it. -/
def enabling : State := (after (.ringEnable .vf 0 0) (poke [(.part 0 (.ringCqBaseLo 0), 0x1000)] (up0 { tenant0 with rings := [(0, { tail := 5 })] }))).getD up
theorem witness_DoorbellsMoveIndices_commit : ∃ c ∈ enabling.commits, enabling.commits.find? (fun x => x.group = .ring 0 0) = some c ∧
    c.group = .ring 0 0 ∧ (enabling.ring 0 0).active = false ∧ ringAgrees (snapVal c.values (.part 0 (.ringSqBaseLo 0))) (snapVal c.values (.part 0 (.ringSqBaseHi 0)))
      (snapVal c.values (.part 0 (.ringCqBaseLo 0))) (snapVal c.values (.part 0 (.ringCqBaseHi 0))) (snapVal c.values (.part 0 (.ringCfg 0))) = true := by decide +kernel
theorem witness_enabling_inv : enabling.Inv := by unfold State.Inv; decide +kernel
theorem witness_RingPairLifecycle : (ringed ring0).viewOpen .operator 0 = true ∧ (enabling.ring 0 0).hold = [] ∧ enabling.commitPending (.ring 0 0) = true ∧ enabling.jobs = [] := by decide +kernel
theorem witness_RingPairLifecycle_drain : let s := ringed { ring0 with hold := [⟨0, 0, true⟩], deliveryStopped := true }
    (s.ring 0 0).active = true ∧ (s.setField (.part 0 (.ringCtrl 0)) 0 0 0).commitPending (.ring 0 0) = false ∧
    bit ((s.setField (.part 0 (.ringCtrl 0)) 0 0 0).reg (.part 0 (.ringCtrl 0))) 0 = false ∧ (s.ring 0 0).deliveryStopped = true := by decide +kernel
/-- While the next commit waits, ENABLE reads 1 and ACTIVE clears once the jobs have ended (R252). -/
theorem test_drain_with_waiting_commit :
    sees (.ringDrained 0 0) { ringed ring0 with commits := [⟨.ring 0 0, []⟩] } (fun s => (s.ring 0 0).active) = some false := by decide +kernel
theorem test_no_drain_while_enabled : sees (.ringDrained 0 0) (ringed ring0) (fun s => (s.ring 0 0).active) = some true := by decide +kernel

/-- The active copies as well. -/
def pokeAct (l : List (Reg × Word32)) (s : State) : State := l.foldl (fun s x => { s with active := (s.setAct x.1 x.2).active }) s
/-- Submission entry 1 of ring 0, whose base is 0x1000 in host memory: one op, the graph in host memory at 0x2000, where a FENCE stands. -/
def fenceEntry : BitVec 512 := 0x70
def submission : BitVec 512 := BitVec.ofNat 512 (0x83 + 2 ^ 16 + 2 ^ 36 + 0x2000 * 2 ^ 64)
def fetching : State := ((pokeAct [(.part 0 (.ringSqBaseLo 0), 0x1000), (.part 0 (.ringCfg 0), 0x00030404), (.part 0 (.ringCqBaseLo 0), 0x4000)] (ringed ring0)).writeHost
  0 0x1040 (leBytes 64 submission.toNat)).writeHost 0 0x2000 (leBytes 64 fenceEntry.toNat)
/-- The same entry with COUNTERS set, and one without an op; the ring in device space, with and without a page behind it, and there a graph that cannot be read. -/
def fetchingWith (e : Nat) : State := fetching.writeHost 0 0x1040 (leBytes 64 e)
def fetchingDevice (e : Nat) : State := ((pokeAct [(.part 0 (.ringSqBaseLo 0), 0), (.part 0 (.ringSqBaseHi 0), 1), (.part 0 (.ringCfg 0), 0x00000404)]
  { up1 { tenantM with rings := [(0, ring0)] } with hanks := [(0, { linkUp := false })] }).setReg (.part 0 (.ringCtrl 0)) 1).storePhys 0x4000040 (leBytes 64 e)
/-- What the fetch reads: the entry and the graph. -/
def fetchReads (s : State) (f : Entry → Except (Option MemErr) (List Byte) → Bool) : Bool :=
  s.fetches 0 && decide (s.fetchTurn 0 = some 0) && decide (s.openJobs 0 < 256) && match s.readSpace 0 (s.sqHost 0 0) (s.sqBase 0 0 + 64 * (s.ring 0 0).sqHead) 64 with
  | .ok bs => f (entryOf bs) (s.readSpace 0 (seGraphHost (entryOf bs)) (seGraph (entryOf bs)) (64 * seOpCount (entryOf bs)))
  | .error _ => false
def graphOf (e : Entry) (g : Except (Option MemErr) (List Byte)) : Option (Status × Nat) := match g with
  | .ok gs => some (graphStatus e ((chunksOf 64 (seOpCount e) gs).map entryOf))
  | .error _ => none
theorem witness_FetchAcceptsJob :
    fetchReads fetching (fun e g => decide (submissionStatus e = .done) && !seCounters e && !seOrdered e && decide (graphOf e g = some (.done, 0xFFFF))) = true ∧
    fetchReads (fetchingWith (submission.toNat + 2 ^ 35)) (fun e g => decide (submissionStatus e = .done) && seCounters e && decide (graphOf e g = some (.done, 0xFFFF))) = true ∧
    fetchReads (fetchingWith 0) (fun e _ => decide (submissionStatus e = .descMalformed)) = true ∧
    fetchReads (fetching.writeHost 0 0x2000 [0xFF]) (fun e g => decide (submissionStatus e = .done) && decide ((graphOf e g).map (·.1) = some .descMalformed)) = true := by decide +kernel
theorem witness_FetchAcceptsJob_device :
    fetchReads (fetchingDevice submission.toNat) (fun e g => decide (submissionStatus e = .done) && seGraphHost e && match g with | .error none => true | _ => false) = true ∧
    fetchReads (fetchingDevice (submission.toNat - 2 ^ 36)) (fun e _ => decide (submissionStatus e = .done) && !seGraphHost e &&
      ((fetchingDevice (submission.toNat - 2 ^ 36)).graphErr 0 (seGraph e) (64 * seOpCount e)).isSome) = true ∧
    (match (fetchingDevice 0).readSpace 0 false 0 64 with | .error (some _) => true | _ => false) = true := by decide +kernel
theorem witness_FetchAcceptsJob_inv : fetching.Inv := by unfold State.Inv; decide +kernel
/-- The op of the graph is fetched as it stands (R262), with its job in its ring's place. -/
theorem test_fetch : sees (.submissionFetch 0 0) fetching (fun s => (s.jobs.map (fun j => (j.sqIndex, seTag j.entry, j.ops.map (fun o => oeOpcode o.entry))), (s.ring 0 0).sqHead))
    = some ([(1, 0x83, [0x70])], 2) := by decide +kernel
/-- A host graph behind a port that is down is refused with XLATE, and fetching stops (log entry 130). -/
theorem test_fetch_refused : sees (.submissionFetch 0 0) (fetchingDevice submission.toNat) (fun s => (s.jobs.map (·.acceptStatus), bit (s.reg (.part 0 (.ringStatus 0))) 1)) = some ([.xlate], true) ∧
    sees (.submissionFetch 0 0) (fetchingWith 0) (fun s => (s.jobs.map (fun j => (j.acceptStatus, j.acceptOrigin)), (s.ring 0 0).sqHead)) = some ([(.descMalformed, 0xFFFF)], 2) := by decide +kernel
/-- A completion entry of the last place of the ring waits. -/
def delivering : State := poke [(.part 0 (.ringIrq 0), 0)] { fetching with parts := [(0, { tenant0 with rings := [(0, { active := true, cqTail := 15, head := 3, hold := [⟨0xABCD000000000000, 0, true⟩] })] })] }
theorem witness_CompletionIsWritten : delivering.answers = true ∧ delivering.power.state = .m0 ∧ (delivering.ring 0 0).hold = ⟨0xABCD000000000000, 0, true⟩ :: [] ∧
    (delivering.ring 0 0).active = true ∧ (delivering.ring 0 0).deliveryStopped = false ∧ ((delivering.ring 0 0).cqTail + 1) % delivering.cqSize 0 0 ≠ (delivering.ring 0 0).head ∧
    delivering.cqHost 0 0 = true ∧ delivering.portUp (delivering.vfPort 0) = true ∧ bits (delivering.reg (.part 0 (.ringIrq 0))) 15 8 = 0 := by decide +kernel
/-- COUNT 1 raises the interrupt with the entry; a completion ring in device space, with and without a page behind it (R259). -/
def counting (r : Word32) (hi : Word32) : State := pokeAct [(.part 0 (.ringCqBaseLo 0), 0), (.part 0 (.ringCqBaseHi 0), hi), (.part 0 (.ringCfg 0), r)] (poke [(.part 0 (.ringIrq 0), 0x102)]
  { up1 { tenantM with rings := [(0, { active := true, hold := [⟨0xABCD000000000000, 0, true⟩] })] } with msix := [(64 * 5 + 4 * 2 + 3, 0)] })
theorem witness_CompletionIsWritten_more : let s := counting 0x00030404 1
    s.cqHost 0 0 = true ∧ s.portUp (s.vfPort 0) = true ∧ bits (s.reg (.part 0 (.ringIrq 0))) 15 8 = 1 ∧ (s.ring 0 0).irqCount = 0 ∧ (s.part 0).vf = some (0, 1) ∧
    bit (Tab.get (fun w => if w % 4 = 3 then 1 else 0) s.msix (64 * (4 + 16 * 0 + 1) + 4 * 2 + 3)) 0 = false ∧
    (counting 0x00010404 1).cqHost 0 0 = false ∧ (match (counting 0x00010404 1).writeVA 0 0x100000004 (List.replicate 60 0) with
      | .ok u => (match u.writeVA 0 0x100000000 [0, 0, 0, 0] with | .ok _ => true | .error _ => false)
      | .error _ => false) = true ∧
    (match (counting 0x00010404 0).writeVA 0 4 (List.replicate 60 0) with | .ok _ => false | .error f => f.entry.isNone) = true ∧
    bit ((counting 0x00010404 0).reg (.part 0 .xlateFaultHi)) 23 = false := by decide +kernel
theorem test_completion_count : sees (.completionWrite 0 0) (counting 0x00030404 1) (fun s => (s.out, (s.ring 0 0).irqCount)) = some ([.msixVf 0 1 2], 0) ∧
    sees (.completionWrite 0 0) (counting 0x00010404 0) (fun s => ((s.ring 0 0).hold.length, (s.ring 0 0).deliveryStopped)) = some (1, true) := by decide +kernel
/-- The phase inverts at the wrap (R257). -/
theorem test_completion_wraps : sees (.completionWrite 0 0) delivering (fun s => ((s.ring 0 0).cqTail, (s.ring 0 0).phase, s.readHost 0 (0x4000 + 64 * 15 + 6) 2)) = some (0, false, [0xCD, 0xAB]) := by decide +kernel
def timed : State := poke [(.part 0 (.ringIrq 0), 0x00050102)] { delivering with
  parts := [(0, { tenant0 with rings := [(0, { active := true, irqCount := 1 })] })], msix := [(64 * 5 + 4 * 2 + 3, 0)] }
theorem witness_RingTimerInterrupt : bits (timed.reg (.part 0 (.ringIrq 0))) 31 16 ≠ 0 ∧ bits (timed.reg (.part 0 (.ringIrq 0))) 15 8 ≠ 0 ∧ 0 < (timed.ring 0 0).irqCount ∧
    (timed.part 0).vf = some (0, 1) ∧ bit (Tab.get (fun w => if w % 4 = 3 then 1 else 0) timed.msix (64 * (4 + 16 * 0 + 1) + 4 * 2 + 3)) 0 = false := by decide +kernel
theorem witness_RingTimerInterrupt_inv : timed.Inv := by unfold State.Inv; decide +kernel

/-! ### Tables and commits -/

/-- MT_ADDR at word 7 of entry 5 of slot 3, at word 7 of entry 79 and at word 15 of the header, with AUTO_INC (R73). -/
def tabled (a : Word32) : State := poke [(.part 0 .mtAddr, a)] (up0 tenant0)
theorem witness_ShadowTableAccess : (tabled 0x80003057).viewOpen .vf 0 = true ∧
    (tabled 0x80003057).reg (.part 0 .mtAddr) = BitVec.ofNat 32 (2 ^ 31 + 3 * 2 ^ 12 + 5 * 2 ^ 4 + 7) ∧
    (tabled 0x800034F7).reg (.part 0 .mtAddr) = BitVec.ofNat 32 (2 ^ 31 + 3 * 2 ^ 12 + 79 * 2 ^ 4 + 7) ∧
    (tabled 0x800037FF).reg (.part 0 .mtAddr) = BitVec.ofNat 32 (2 ^ 31 + 3 * 2 ^ 12 + 127 * 2 ^ 4 + 15) := by decide +kernel
theorem test_mt_data_next_entry : sees (.mtDataAccess .vf 0 (some 5)) (tabled 0x80003057) (fun s => (s.reg (.part 0 .mtAddr), mtWord (s.part 0).mtShadow 3 5 7)) = some (0x80003060, 5) := by decide +kernel
theorem test_mt_data_to_header : sees (.mtDataAccess .vf 0 none) (tabled 0x800034F7) (fun s => s.reg (.part 0 .mtAddr)) = some 0x800037F0 := by decide +kernel
theorem test_mt_data_header_end : sees (.mtDataAccess .vf 0 none) (tabled 0x800037FF) (fun s => s.reg (.part 0 .mtAddr)) = some 0x80003000 := by decide +kernel
theorem test_mt_commit_pending : sees (.mtCommit .vf 0 8) (up0 { tenant0 with mtSnap := some (1, []) }) (fun s => bit (s.reg (.part 0 .partSticky)) 0) = some true := by decide +kernel
/-- The example of R77: header word 0 of slot 3 before its entries are written; the first prime has no bit length (check 0x2 at entry 0). -/
def committing (w : Word32) : State := up0 { tenant0 with mtSnap := some (8, [(mtKey 3 127 0, w)]) }
theorem witness_MtCommitIsAllOrNothing : ((committing 0x83020510).part 0).mtSnap = some (8, [(mtKey 3 127 0, 0x83020510)]) ∧ (committing 0x83020510).mtQuiet 0 8 = true ∧
    Tab.wf (fun _ => (0 : Word32)) [(mtKey 3 127 0, 0x83020510)] = true ∧ Tab.wf (fun _ => (0 : Word32)) ((committing 0x83020510).part 0).mtActive = true ∧
    mtCheck [(mtKey 3 127 0, 0x83020510)] 8 = some (2, 3, 0) ∧ mtCheck [(mtKey 3 127 0, 0x03020510)] 8 = none := by decide +kernel
theorem witness_MtCommitIsAllOrNothing_inv : (committing 0x83020510).Inv := by unfold State.Inv; decide +kernel
theorem test_mt_refused : sees (.mtCommitCheck 0) (committing 0x83020510) (fun s => (s.reg (.part 0 .mtFault), bit (s.reg (.part 0 .mtStatus)) 16, (s.part 0).mtActive)) = some (0x00602300, true, []) := by decide +kernel
theorem test_mt_slot_removed : sees (.mtCommitCheck 0) (poke [(.part 0 .mtStatus, 0x0008)] (committing 0x03020510)) (fun s => (bits (s.reg (.part 0 .mtStatus)) 15 0, bits (s.reg (.part 0 .mtFault)) 31 16)) = some (0, 0) := by decide +kernel
/-- Commits that wait: of a table that ends at 2^48 and one that ends above it, of a split (R449, R205). -/
def waitingHandle (lo hi n : Word32) : State := { up0 tenant0 with commits := [⟨.handle 0, [((Reg.part 0 .ctHandleBaseLo).addr, lo), ((Reg.part 0 .ctHandleBaseHi).addr, hi), ((Reg.part 0 .ctHandleCount).addr, n)]⟩] }
theorem witness_CastOnCommits : let s := waitingHandle 0xFFFFFFC0 0xFFFF 1
    s.viewOpen .vf 0 = true ∧ up.tileOpen 0 = true ∧ up.commitPending (.qtab 0) = false ∧ up.dieOpen 4 = true ∧ up.commitPending (.bw 4) = false ∧
    s.commits.find? (fun x => x.group = .handle 0) = s.commits.head? ∧ (s.inFlight 0).isEmpty = true ∧ tableFits 0xFFFFFFC0 0xFFFF 1 64 = true ∧ tableFits 0xFFFFFFC0 0xFFFF 2 64 = false := by decide +kernel
theorem test_handle_commit : sees (.castOnCommitApply (.handle 0)) (waitingHandle 0xFFFFFFC0 0xFFFF 1) (fun s => (s.act (.part 0 .ctHandleBaseHi), bit (s.reg (.part 0 .ctlStatus)) 16)) = some (0xFFFF, false) := by decide +kernel
theorem test_handle_refused : sees (.castOnCommitApply (.handle 0)) (waitingHandle 0xFFFFFFC0 0xFFFF 2) (fun s => (s.act (.part 0 .ctHandleBaseHi), bit (s.reg (.part 0 .ctlStatus)) 16, bit (s.reg (.part 0 .partSticky)) 16)) = some (0, true, true) := by decide +kernel
/-- The split of R78's example, 8, 4 and 2, is refused; 8, 4 and 4 is taken. -/
def waitingSplit (v : Word32) : State := { up with commits := [⟨.bw 4, [((Reg.die 4 .bwSplit).addr, v)]⟩] }
theorem test_split_refused : sees (.castOnCommitApply (.bw 4)) (waitingSplit 0x00020408) (fun s => (s.act (.die 4 .bwSplit), bit (s.reg (.die 4 .bwStatus)) 16)) = some (0x00020608, true) := by decide +kernel
theorem test_split_taken : sees (.castOnCommitApply (.bw 4)) (waitingSplit 0x00040408) (fun s => (s.act (.die 4 .bwSplit), bit (s.reg (.die 4 .bwStatus)) 16)) = some (0x00040408, false) := by decide +kernel
/-- R189: queues 0 and 1 share line 8; at 9 they do not. -/
def twoQueues (line : Nat) : List QCfg :=
  [{ enable := true, slotLine := 0, slotLines := 9, slots := 1, ty := 0, prod := 0, cons := 1 }, { enable := true, slotLine := line, slotLines := 9, slots := 1, ty := 0, prod := 1, cons := 2 }]
theorem witness_QueueTableCheckFindsFirst : qtabCheck (twoQueues 8) = some 0 ∧ qtabCheck (twoQueues 9) = none := by decide +kernel
/-- Writes of a tile: while stream 0 runs, and when the tile is quiescent with a held write of ON that keeps group 1 and turns group 0 off. -/
def runningTile : State := { up0 tenant0 with tiles := [(0, { streams := [(0, { running := true })] })] }
def quietTile : State := { up0 tenant0 with tiles := [(0, { scratch := [(524287, 7), (524288, 9)], spadHeld := some 0xFE, reduceHeld := some true, spadRising := [1] })] }
theorem witness_TileWritesAreHeld : runningTile.tileOpen 0 = true ∧ (runningTile.tile 0).anyRunning = true ∧ (quietTile.tile 0).anyRunning = false ∧
    (quietTile.tile 0).spadHeld = some 0xFE ∧ (quietTile.tile 0).quiescent = true ∧ (quietTile.tile 0).reduceHeld = some true ∧ (quietTile.tile 0).spadRising = 1 :: [] := by decide +kernel
theorem witness_TileWritesAreHeld_inv : quietTile.Inv := by unfold State.Inv; decide +kernel
theorem test_sem_write_running : sees (.semWrite 0 2 0x80010200) runningTile (fun s => (s.reg (.tile 0 (.sem 2)), bit (s.reg (.part 0 .partSticky)) 0)) = some (0, true) := by decide +kernel
theorem test_sem_write : sees (.semWrite 0 2 0xFFFFFFFF) quietTile (fun s => s.reg (.tile 0 (.sem 2))) = some 0x8077FFFF := by decide +kernel
theorem test_spad_off_loses : sees (.spadPwrApply 0) quietTile (fun s => ((s.tile 0).scratch, s.reg (.tile 0 .spadPwr))) = some ([(524288, 9)], 0xFEFE) := by decide +kernel
theorem test_reduce_path : sees (.reducePathApply 0) quietTile (fun s => s.reg (.tile 0 .vecCtrl)) = some 1 := by decide +kernel
theorem test_group_ready : sees (.spadGroupReady 0) (poke [(.tile 0 .spadPwr, 0x00FF)] quietTile) (fun s => s.reg (.tile 0 .spadPwr)) = some 0x01FF := by decide +kernel

/-! ### Registers and records -/

theorem witness_RegisterWriteFollowsTypes : (up0 tenant0).reqOpen (.vf 0 1) = true ∧ (up0 tenant0).vfPart 0 1 = some 0 ∧ ownRule .partSticky = false ∧ ownRule (.ringIrq 3) = false := by decide +kernel
/-- RING_IRQ: bits [7:4] are reserved (R251); PART_STICKY is W1C. -/
theorem test_write_rw : sees (.registerWrite (.vf 0 1) (BitVec.ofNat 32 (PReg.off (.ringIrq 3))) 4 0xFFFFFFFF) (up0 tenant0) (fun s => s.reg (.part 0 (.ringIrq 3))) = some 0xFFFFFF0F := by decide +kernel
theorem test_write_w1c : sees (.registerWrite (.vf 0 1) (BitVec.ofNat 32 (PReg.off .partSticky)) 4 1) (poke [(.part 0 .partSticky, 3)] (up0 tenant0)) (fun s => s.reg (.part 0 .partSticky)) = some 2 := by decide +kernel
theorem witness_RegisterWriteDiscards : (2 ≠ 4 ∨ (0x2000 : BitVec 32).toNat % 4 ≠ 0) ∧ (up0 tenant0).vfPart 0 0 = none ∧ up.answers = true ∧ (0xC : BitVec 32).extractLsb' 2 2 = 3 := by decide +kernel
theorem test_mem_cfg : sees (.memCfgWrite 0x5) up (fun s => bits (s.reg (.glob .memCfg)) 3 0) = some 5 := by decide +kernel
theorem witness_BroadcastReachesTargets : up.answers = true ∧ feedLimitOk 0x04040404 = true ∧ (up.site 17).state = .spare ∧ (up.site 0).state = .active := by decide +kernel
theorem witness_up_inv : up.Inv := by unfold State.Inv; decide +kernel
theorem test_broadcast : sees (.broadcastWrite .runtime (BitVec.ofNat 32 (0x3080000 + TReg.off .feedLimit)) 4 0x04040404) up
    (fun s => (s.reg (.tile 32 .feedLimit), decide (s.reg (.tile 33 .feedLimit) = up.reg (.tile 33 .feedLimit)))) = some (0x04040404, true) := by decide +kernel
theorem test_reg_addresses : Reg.ofAddr (Reg.tile 575 .feedLimit).addr = some (.tile 575 .feedLimit) ∧ Reg.ofAddr (Reg.part 63 (.swatchKey 3)).addr = some (.part 63 (.swatchKey 3)) := by decide +kernel
/-- HOOK_STATUS while the partition drains and when it has halted. -/
def hooked (st : Word32) (x : Part) : State := poke [(.part 0 .hookStatus, st)] (up0 x)
theorem witness_HookHaltsAndResumes : bits ((hooked 0x10000 tenant0).reg (.part 0 .hookStatus)) 17 16 = 1 ∧ (hooked 0x20000 tenant0).viewOpen .vf 0 = true ∧ (View.vf ≠ .operator) := by decide +kernel
theorem test_hook_resumes : sees (.hookResume .core 0) (hooked 0x20000 tenant0) (fun s => bits (s.reg (.part 0 .hookStatus)) 17 16) = some 0 := by decide +kernel
/-- Inspection of scratchpad word 3 of the partition's first tile, and past the end of the space. -/
def inspecting (k : Word32) : State := { poke [(.part 0 .inspOffset, k)] (hooked 0x20000 tenant0) with tiles := [(0, { scratch := [(12, 0x78), (13, 0x56), (15, 0x12)] })] }
theorem witness_InspectionAndCounterReads : (inspecting 3).viewOpen .vf 0 = true ∧ bits ((inspecting 3).reg (.part 0 .hookStatus)) 17 16 = 2 ∧
    ((inspecting 3).partTiles 0)[bits ((inspecting 3).reg (.part 0 .inspSel)) 8 0]? = some 0 ∧ (inspecting 3).tileScrubbed 0 0 = false ∧
    bits ((inspecting 3).reg (.part 0 .inspSel)) 26 24 = 0 ∧ up.reqOpen (.pf 2) = true ∧ ((up0 tenant0).part 0).state = .active ∧ (up.part 0).state ≠ .active := by decide +kernel
/-- Further clauses: a TILE beyond the partition's 4 tiles, a tile under scrub, the stream space. -/
theorem witness_InspectionAndCounterReads_bounds : ((inspecting 3).partTiles 0).length ≤ 4 ∧ (inspecting 75).tiles ≠ [] ∧ (75 : Nat) = 32 * 2 + 11 ∧
    State.tileScrubbed ((inspecting 3).updPart 0 (fun x => { x with frog := some { whole := false, tiles := [0], step := 3 } })) 0 0 = true ∧
    bits ((poke [(.part 0 .inspSel, 0x2000000)] (inspecting 64)).reg (.part 0 .inspSel)) 26 24 = 2 := by decide +kernel
/-- R396: word 64 is the program counter of the VEC stream, word 73 the comparators, word 74 its VEC length; word 192 is past the end; TILE 4 is beyond the tiles. -/
def inspStream (k : Word32) : State := { poke [(.part 0 .inspSel, 0x2000000)] (inspecting k) with tiles := [(0, { streams := [(2, { pc := 9, vl := [(0, 77)], rows := [(1, 6)], comps := [(3, some ⟨1, 0, 6⟩)] })] })] }
theorem test_inspect_stream : ([64, 66, 73, 74, 75].map (fun k => (sees (.inspDataRead .vf 0) (inspStream k) (fun s => s.out)))) = [some [.read 9], some [.read 6], some [.read 8], some [.read 77], some [.read 0]] ∧
    sees (.inspDataRead .vf 0) (inspStream 192) (fun s => (s.out, bit (s.reg (.part 0 .partSticky)) 3)) = some ([.read 0], true) ∧
    sees (.inspDataRead .vf 0) (poke [(.part 0 .inspSel, 4)] (inspecting 3)) (fun s => (s.out, bit (s.reg (.part 0 .partSticky)) 3)) = some ([.read 0], false) := by decide +kernel
theorem test_inspect : sees (.inspDataRead .vf 0) (inspecting 3) (fun s => s.out) = some [.read 0x12005678] := by decide +kernel
theorem test_inspect_end : sees (.inspDataRead .vf 0) (inspecting 1048576) (fun s => (s.out, bit (s.reg (.part 0 .partSticky)) 3)) = some ([.read 0], true) := by decide +kernel
theorem test_op_count : sees (.opCntLoRead .runtime) (poke [(.glob .opCntSel, 0x30)] (up0 { tenant0 with counters := [(0x30, 0x500000007)] })) (fun s => (s.out, s.reg (.glob .opCntHi))) = some ([.read 7], 5) := by decide +kernel
theorem witness_SwatchAccess : (up0 tenant0).viewOpen .core 0 = true ∧ View.core ≠ .operator ∧ (up0 tenant0).viewOpen .operator 0 = true := by decide +kernel
theorem test_swatch_key : sees (.swatchKeyInstall .vf 0 9) (poke [(.part 0 (.swatchKey 0), 5)] (up0 tenant0)) (fun s => (s.part 0).swatchH) = some (5 + 9 * 2 ^ 96) := by decide +kernel
/-- A sampler of 16 records at 0x1_0000_0000 with all counters the timestamp, after 5 cycles: full, and with room. -/
def sampling (ptr : Word32) : State := { poke [(.part 0 .smpCfg, 0x84000001), (.part 0 .smpBaseHi, 1), (.part 0 .smpPtr, ptr), (.part 0 (.smpSel 0), 0x00010001), (.part 0 (.smpSel 1), 0x00010001), (.part 0 (.smpSel 2), 0x00010001)]
  (up1 { tenantM with smpLost := 2 }) with clock := 5 }
theorem witness_RecordersWrite : (up0 tenant0).viewOpen .vf 0 = true ∧ bit ((up0 tenant0).reg (.part 0 .smpCfg)) 31 = false ∧ bit (0x84000001 : Word32) 31 = true ∧ 4 ≤ bits (0x84000001 : Word32) 27 24 ∧
    1 ≤ bits (0x84000001 : Word32) 19 0 ∧ bits (0x840F4240 : Word32) 19 0 ≤ 1000000 ∧ bit ((sampling 0).reg (.part 0 .smpCfg)) 31 = true ∧ up.hankOpen 3 = true ∧
    bit (up.reg (.hank 3 .logCfg)) 31 = false ∧ bit (up.reg (.hank 3 .trcCfg)) 31 = false ∧ 6 ≤ bits (0x80000006 : Word32) 3 0 := by decide +kernel
theorem witness_RecordersWrite_sample : (sampling 0x000F0000).answers = true ∧ (sampling 0x000F0000).power.state = .m0 ∧ (sampling 0x000F0000).partOpen 0 = true ∧
    (bits ((sampling 0x000F0000).reg (.part 0 .smpPtr)) 31 16 + 1) % 2 ^ bits ((sampling 0x000F0000).reg (.part 0 .smpCfg)) 27 24 = bits ((sampling 0x000F0000).reg (.part 0 .smpPtr)) 15 0 ∧
    (∀ m, (sampling 0x00020000).reg (.part 0 (.smpSel m)) = 0x00010001#32) ∧
    (match (sampling 0x00020000).writeVA 0 (0x100000000 + 64 * 2) (leBytes 64 5) with | .ok _ => true | .error _ => false) = true := by decide +kernel
theorem test_sample_lost : sees (.sampleRecord 0) (sampling 0x000F0000) (fun s => ((s.part 0).smpLost, decide (s.mem = (sampling 0x000F0000).mem))) = some (3, true) := by decide +kernel
/-- TIME 5, LOST 2, then six counters of 5 (R401). -/
theorem test_sample : sees (.sampleRecord 0) (sampling 0x00020000) (fun s => ((s.mem.take 8).map (fun x => (x.1 - 0x4000000 - 128, x.2)), bits (s.reg (.part 0 .smpPtr)) 31 16)) =
    some ([(0, 5), (8, 2), (16, 5), (24, 5), (32, 5), (40, 5), (48, 5), (56, 5)], 3) := by decide +kernel
def owing : State := { poke [(.hank 1 .trcCfg, 0x80000006), (.hank 1 .trcBaseLo, 0x10000), (.hank 1 .trcPtr, 0x00000003)] up with hanks := [(1, { traceLoss := some ⟨0, 9, 4⟩ })] }
theorem witness_RecordersWrite_marker : (owing.hank 1).running = true ∧ (owing.hank 1).traceLoss = some ⟨0, 9, 4⟩ ∧ owing.pathEnabled 1 tracePath = true ∧ 2 ≤ owing.pathFree 1 tracePath := by decide +kernel

/-! ### Tenant cores -/

def running : Hart := { phys := some 2, state := .running }
/-- Virtual hart 0 runs; the bytes 0x88 to 0x81 stand at 0x1_0000_0040. -/
def cored : State := { (up1 { tenantM with harts := [running, { phys := some 3 }] }).storePhys 0x4000040 [0x88, 0x87, 0x86, 0x85, 0x84, 0x83, 0x82, 0x81] with
  reservations := [(0, 0, 0, 0x4000080 / 64), (0, 0, 1, 0x4000040 / 64)] }
theorem witness_CoreAccessesMemory : hartIs cored 0 0 running ∧ (0x100000040 : BitVec 64).toNat % 8 = 0 ∧ (0x100000040 : BitVec 64).toNat < imageBase ∧
    cored.xlate 0 0x100000040 .read (cored.hartSite 0 0) = .ok 0x4000040 ∧ cored.lineBad (0x4000040 / 64) = false ∧ cored.xlate 0 0x100000040 .write (cored.hartSite 0 0) = .ok 0x4000040 ∧
    cored.lineFenced (0x4000040 / 64) = false ∧ 0x4000040 % 8 = 0 := by unfold hartIs; decide +kernel
theorem witness_CoreAccessesMemory_bare (k : VsKind) : cored.vsAddr 0 0 k (0x100000040 : BitVec 64).toNat = .ok (0x100000040, cored) := rfl
/-- A hart in Sv39 whose root table, at 0x1_0000_0000, maps the second GiB there as well, for VS mode, with R, W, X, A and D. -/
def paged : State := (cored.storePhys 0x4000008 (leBytes 8 (0x100000 * 2 ^ 10 + 0xCF))).updHart 0 0 (fun h => { h with vs := { vsatp := 0x8000000000100000 } })
theorem witness_CoreAccessesMemory_sv39 : (match paged.vsAddr 0 0 .load 0x40000040 with | .ok (g, u) => decide (g = 0x100000040 ∧ u.xlate 0 g .read (paged.hartSite 0 0) = .ok 0x4000040) | .error _ => false) = true ∧
    (match paged.vsAddr 0 0 .store 0x40000040 with | .ok (g, u) => decide (g = 0x100000040 ∧ u.xlate 0 g .write (paged.hartSite 0 0) = .ok 0x4000040 ∧ (u.coreLeaf 0 0 g 8).xlate 0 g .combine (paged.hartSite 0 0) = .ok 0x4000040) | .error _ => false) = true ∧
    nbits (0x8000000000100000 : BitVec 64).toNat 63 60 = 8 ∧ (0x4000000000 : BitVec 64).toNat / 2 ^ 38 ≠ 0 ∧ (0x4000000000 : BitVec 64).toNat / 2 ^ 38 ≠ 2 ^ 26 - 1 := by decide +kernel
theorem test_sv39_load : sees (.coreMemoryAccess 0 0 (.load 2) 0x40000042) paged (fun s => (s.hart? 0 0).map (fun h => (h.rd, h.fault))) = some (some (0x8586, none)) := by decide +kernel
/-- An entry that is not valid, and an address whose top bits differ: a page fault of its own cause, and no capture. -/
theorem test_sv39_fault : sees (.coreMemoryAccess 0 0 (.store 8 1) 0x80000040) paged (fun s => ((s.hart? 0 0).bind (·.fault), bits (s.reg (.part 0 .xlateFaultHi)) 23 23)) = some (some 15, 0) ∧
    sees (.coreMemoryAccess 0 0 .fetch 0x4000000000) paged (fun s => (s.hart? 0 0).bind (·.fault)) = some (some 12) := by decide +kernel
theorem witness_cored_inv : cored.Inv := by unfold State.Inv; decide +kernel
theorem witness_CoreAccessesMemory_fault : ¬ (imageBase ≤ (0x100200000 : BitVec 64).toNat ∧ (0x100200000 : BitVec 64).toNat < imageBase + 0x10000) ∧
    (∃ f, cored.xlate 0 0x100200000 .read (cored.hartSite 0 0) = .error f) ∧ (∃ f, cored.xlate 0 0x100200000 .write (cored.hartSite 0 0) = .error f) := ⟨by decide +kernel, ⟨_, rfl⟩, ⟨_, rfl⟩⟩
theorem test_core_load : sees (.coreMemoryAccess 0 0 (.load 2) 0x100000042) cored (fun s => (s.hart? 0 0).map (·.rd)) = some (some 0x8586) := by decide +kernel
theorem test_core_fault : sees (.coreMemoryAccess 0 0 (.store 8 1) 0x100200000) cored (fun s => ((s.hart? 0 0).bind (·.fault), bits (s.reg (.part 0 .xlateFaultHi)) 31 28)) = some (some 7, 7) := by decide +kernel
/-- A 4-byte add of −1 at the top half; the old value comes back sign-extended (R223). -/
theorem witness_CoreAtomicComputes : hartIs cored 0 0 running ∧ (0x100000044 : BitVec 64).toNat % 4 = 0 ∧ (cored.coreLeaf 0 0 0x100000044 4).xlate 0 0x100000044 .combine (cored.hartSite 0 0) = .ok 0x4000044 ∧ 0x4000044 % 4 = 0 := by
  unfold hartIs; decide +kernel
theorem test_amo_add : sees (.coreAtomic 0 0 .add false 0x100000044 0xFFFFFFFFFFFFFFFF 0) cored (fun s => ((s.hart? 0 0).map (·.rd), s.readPhys 0x4000040 8)) =
    some (some 0xFFFFFFFF81828384, [0x88, 0x87, 0x86, 0x85, 0x83, 0x83, 0x82, 0x81]) := by decide +kernel
theorem test_amo_max_signed : sees (.coreAtomic 0 0 .max false 0x100000044 5 0) cored (fun s => s.readPhys 0x4000044 4) = some [5, 0, 0, 0] := by decide +kernel
theorem test_amo_cas_fails : sees (.coreAtomic 0 0 .cas true 0x100000040 5 6) cored (fun s => s.readPhys 0x4000040 2) = some [0x88, 0x87] := by decide +kernel
theorem witness_ReservationsGuardStores : (cored.coreLeaf 0 0 0x100000040 8).xlate 0 0x100000040 .combine (cored.hartSite 0 0) = .ok 0x4000040 ∧
    (cored.coreLeaf 0 0 0x100000080 8).xlate 0 0x100000080 .combine (cored.hartSite 0 0) = .ok 0x4000080 ∧ cored.lineFenced (0x4000080 / 64) = false ∧
    (cored.homeOf 0 0x4000080, 0, 0, 0x4000080 / 64) ∈ cored.reservations ∧ (cored.homeOf 0 0x4000040, 0, 0, 0x4000040 / 64) ∉ cored.reservations ∧
    [(1 : Byte)] ≠ [] ∧ 0x4000040 % 64 + [(1 : Byte)].length ≤ 64 := by decide +kernel
/-- A store by another requester clears the reservation on its line and no other (R223). -/
theorem test_store_clears : (cored.storePhys 0x4000080 [1]).reservations = [(0, 0, 1, 0x4000040 / 64)] := by decide +kernel
theorem test_sc_ok : sees (.coreStoreConditional 0 0 true 0x100000080 7) cored (fun s => ((s.hart? 0 0).map (·.rd), s.readPhys 0x4000080 1, s.reservations.length)) = some (some 0, [7], 1) := by decide +kernel
theorem test_sc_lost : sees (.coreStoreConditional 0 0 true 0x100000040 7) cored (fun s => ((s.hart? 0 0).map (·.rd), s.readPhys 0x4000040 1)) = some (some 1, [0x88]) := by decide +kernel
theorem test_lr : sees (.coreLoadReserved 0 0 false 0x100000040) cored (fun s => ((s.hart? 0 0).map (·.rd), s.reservations.contains (0, 0, 0, 0x4000040 / 64), s.reservations.contains (0, 0, 0, 0x4000080 / 64))) =
    some (some 0xFFFFFFFF85868788, true, false) := by decide +kernel
theorem witness_SbiCallsAnswer : cored.coreRuns 0 0 = true ∧ (∀ v ∈ maskHarts 3 0 2, v < 2) ∧ (∃ v ∈ maskHarts 4 0 2, 2 ≤ v) ∧ cored.hart? 0 1 = some { phys := some 3 } ∧
    cored.xlate 0 0x100000000 .read (cored.hartSite 0 0) = .ok 0x4000000 := by decide +kernel
theorem test_sbi_probe : sees (.sbiBase 0 0 3 0x48534D) cored (fun s => (s.hart? 0 0).map (fun h => (h.err, h.rd))) = some (some (0, 1)) := by decide +kernel
theorem test_sbi_ipi : sees (.sbiIpi 0 0 1 1) cored (fun s => ((s.hart? 0 1).map (·.softPending), (s.hart? 0 0).map (·.softPending))) = some (some true, some false) := by decide +kernel
theorem test_sbi_ipi_bad : sees (.sbiIpi 0 0 4 0) cored (fun s => (s.hart? 0 0).map (·.err)) = some (some (-3)) := by decide +kernel
theorem test_hsm_start : sees (.sbiHsm 0 0 (.start 1 0x100000000 9)) cored (fun s => (s.hart? 0 1).map (fun h => (h.state, h.a0, h.a1))) = some (some (.running, 1, 9)) := by decide +kernel
/-- The deadline of the timer in 100 MHz counts: 24 mesh cycles are 2 (R318). -/
def timing (c : BitVec 64) : State := { up0 { tenant0 with harts := [{ running with timerAt := some 2 }] } with clock := c }
theorem witness_SbiCallsAnswer_timer : (timing 24).hart? 0 0 = some { running with timerAt := some 2 } ∧ HartState.running ≠ .stopped := by decide +kernel
theorem test_timer_due : sees (.vsTimerInterrupt 0 0) (timing 24) (fun s => (s.hart? 0 0).map (·.timerPending)) = some (some true) := by decide +kernel
theorem test_timer_early : sees (.vsTimerInterrupt 0 0) (timing 23) (fun s => (s.hart? 0 0).map (·.timerPending)) = some (some false) := by decide +kernel
theorem witness_CoresStartAndStop : cored.viewOpen .vf 0 = true ∧ (cored.part 0).harts.any (fun h => decide (h.state ≠ .stopped)) = true ∧
    (up0 tenant0).viewOpen .vf 0 = true ∧ (tenant0.harts.any (fun h => decide (h.state ≠ .stopped))) = false ∧ tenant0.state = .active ∧ (up0 { tenant0 with state := .stopping }).viewOpen .operator 0 = true := by decide +kernel
theorem test_core_start : sees (.coreStart .vf 0) (poke [(.part 0 .coreEntryHi, 1)] (up0 tenant0)) (fun s => (s.hart? 0 0).map (fun h => (h.state, h.entry))) = some (some (.running, 0x100000000)) := by decide +kernel

/-! ### Partitions and frogs -/

/-- A CREATE record (R313): port 0, function 1, quota 32 units, quad 0 of site 0, core 2, one map entry of 2 MiB at 0x1_0000_0000; a second with a reserved bit. -/
def createRecord (reserved : Nat) : RecordSource := .inline (BitVec.ofNat 2048 (4 + 32 * 2 ^ 32 + 2 ^ 64 + 4 * 2 ^ 256 + reserved + 2 ^ 560)) [BitVec.ofNat 128 (0x100000000 + 32 * 2 ^ 64 + 13 * 2 ^ 96)]
def isOk {ε α : Type} : Except ε α → Bool
  | .ok _ => true
  | .error _ => false
theorem witness_PartitionIsCreated : up.cmdFree = true ∧ isOk ((up.issueCmd 1 0 false).createCheck (createRecord 0) 0) = true ∧
    isOk ((up.issueCmd 1 0 false).createCheck (createRecord (2 ^ 600)) 0) = false ∧ ((up0 tenant0).part 0).state ≠ .free ∧ ({ up with lifecycle := .provisioned } : State).lifecycle ≠ .deployed := by decide +kernel
theorem test_create : sees (.partCreate (createRecord 0) 5) up (fun s => ((s.part 5).state, (s.part 5).quads, (s.part 5).vf, s.reg (.glob .partCmdStatus))) =
    some (.active, [0], some (0, 1), 0x00000500) := by decide +kernel
/-- A reserved bit of the record: DESC_MALFORMED (0x10). -/
theorem test_create_refused : sees (.partCreate (createRecord (2 ^ 600)) 5) up (fun s => ((s.part 5).state, s.reg (.glob .partCmdStatus))) = some (.free, 0x00100500) := by decide +kernel
def remapRecord : RecordSource := .inline (BitVec.ofNat 2048 (2 ^ 560)) [BitVec.ofNat 128 (0x200000000 + 32 * 2 ^ 64 + 13 * 2 ^ 96)]
def remapping : State := { up1 { tenantM with remap := some [{ mapped with va := 0x200000000 }] } with partCmd := some { op := 3, part := 0, mgmt := false } }
theorem witness_PartitionCommandsProceed : (up1 tenantM).cmdFree = true ∧ ((up1 tenantM).part 0).state = .active ∧ ((up1 tenantM).part 0).frog = none ∧
    isOk (((up1 tenantM).issueCmd 3 0 false).remapCheck remapRecord 0) = true ∧ (remapping.part 0).remap = some [{ mapped with va := 0x200000000 }] ∧
    (remapping.inFlight 0).isEmpty = true ∧ (remapping.part 0).frog = none ∧ remapping.partCmd = some { op := 3, part := 0, mgmt := false } := by decide +kernel
theorem witness_remap_inv : remapping.Inv ∧ (up1 tenantM).Inv := by unfold State.Inv; decide +kernel
theorem test_remap_takes_effect : sees (.translationChange 0) remapping (fun s => (isOk (s.xlate 0 0x200000000 .read), isOk (s.xlate 0 0x100000000 .read))) = some (true, false) := by decide +kernel
theorem test_destroy : sees (.partDestroy 0) (up1 tenantM) (fun s => ((s.part 0).state, s.viewOpen .vf 0)) = some (.stopping, false) := by decide +kernel
/-- A job of ring 0 with two ops that have not started. -/
def frogged : State := { up1 tenantM with jobs := [{ id := 1, part := 0, ring := 0, sqIndex := 0, entry := 2 ^ 16, ops := [{ idx := 0, entry := 0x70, phase := .ready }, { idx := 1, entry := 0x70 }] }] }
theorem witness_JobFrogKills : frogged.viewOpen .vf 0 = true ∧ (frogged.part 0).frog = none ∧ frogged.openJobIds 0 = [1] ∧ (up1 tenantM).openJobIds 0 = [] ∧
    bit (0xC0000000 : BitVec 32) 31 = true ∧ bit (0x80000000 : BitVec 32) 30 = false ∧ bits (0x80000000 : BitVec 32) 19 16 = 0 ∧ bits (0x80000001 : BitVec 32) 15 0 ≠ 0 := by decide +kernel
theorem witness_frogged_inv : frogged.Inv ∧ (∀ j ∈ frogged.jobs, ∀ k ∈ frogged.jobs, j.id = k.id → j = k) ∧
    (∀ j ∈ frogged.jobs, ∀ a ∈ j.ops, ∀ b ∈ j.ops, a.idx = b.idx → a = b) := by unfold State.Inv; decide +kernel
theorem test_job_frog : sees (.jobFrog .vf 0 0xC0000000) frogged (fun s => s.jobs.map (fun j => j.ops.map (fun r => (r.phase, r.status, r.origin)))) =
    some [[(.resolved, .killed, 0), (.resolved, .killed, 1)]] := by decide +kernel
/-- R321: by ring and index, and an entry that is not there. -/
theorem test_job_frog_names : sees (.jobFrog .vf 0 0x80000000) frogged (fun s => s.jobs.map (fun j => j.killed)) = some [true] ∧ sees (.jobFrog .vf 0 0x80000001) frogged (fun s => s.jobs.map (fun j => j.killed)) = some [false] := by decide +kernel
/-- The scrub of a partition frog at its scratchpads, with bytes in the tile's scratchpad; the release. -/
def scrubbing (step : Nat) : State := { up1 { tenantM with state := .scrubbing, frog := some { whole := true, jobs := [], step := step } } with tiles := [(0, { scratch := [(3, 1)], stash := [(4, 1)] })] }
theorem witness_FrogScrubsInOrder : (∀ k ∈ [0, 1, 2, 3, 4, 5, 7], ((scrubbing k).part 0).frog = some { whole := true, jobs := [], step := k }) ∧ (scrubbing 3).power.state = .m0 := by decide +kernel
theorem witness_scrubbing_inv : (scrubbing 3).Inv := by unfold State.Inv; decide +kernel
theorem test_scrub_scratch : sees (.frogScrubStepDone 0) (scrubbing 3) (fun s => ((s.tile 0).scratch, (s.tile 0).stash)) = some ([], [(4, 1)]) := by decide +kernel
/-- R323 steps 1, 2 and 5: the partition's ways, the engines and queues of its tiles, its cores. -/
theorem test_scrub_steps : sees (.frogScrubStepDone 0) { scrubbing 1 with sites := [(17, { cache := [(1, 5), (0, 6)] })] } (fun s => ((s.site 17).cache, (s.part 0).frog.map (·.step))) = some ([(1, 5)], some 2) ∧
    sees (.frogScrubStepDone 0) { scrubbing 2 with tiles := [(0, { queues := [(3, { committed := 1 })], staging := [7], scratch := [(3, 1)] })] } (fun s => ((s.tile 0).queues, (s.tile 0).staging, (s.tile 0).scratch)) = some ([], [], [(3, 1)]) ∧
    sees (.frogScrubStepDone 0) (scrubbing 5) (fun s => ((s.part 0).harts.map (·.state), (s.part 0).frog.map (·.step))) = some ([.stopped, .stopped], some 7) := by decide +kernel
theorem test_frog_over : sees (.frogScrubStepDone 0) (scrubbing 7) (fun s => ((s.part 0).state, (s.part 0).frog)) = some (.active, none) := by decide +kernel
def releasing : State := { (up1 { tenantM with state := .releasing, destroyed := true }).storePhys 0x4000000 [1, 2] with partCmd := some { op := 2, part := 0, mgmt := false } }
theorem witness_FrogScrubsInOrder_release : (releasing.part 0).state = .releasing ∧ releasing.partCmd = some { op := 2, part := 0, mgmt := false } ∧ releasing.parts.all (fun q => !q.2.stranded) = true := by decide +kernel
theorem test_page_scrub : sees (.pageScrubDone 0) releasing (fun s => ((s.part 0).state, s.readPhys 0x4000000 2)) = some (.free, [0, 0]) := by decide +kernel

/-! ### Ops -/

/-- The FENCE of the fetched job waits, is ready, has run. -/
def o0 : OpRef := ⟨0, 0⟩
def fenced0 : State := (after (.submissionFetch 0 0) fetching).getD up
def fenced1 : State := (after (.opReady o0 []) fenced0).getD up
def fenced2 : State := (after (.fence o0) fenced1).getD up
/-- What a statement asks of an op and its job. -/
def ofOp (s : State) (f : Job → OpRec → Bool) : Bool :=
  match s.op? o0 with
  | some (j, r) => f j r
  | none => false
def runs {α : Type} (x : Eng α) (s : State) : Bool :=
  match x s with
  | .ok _ _ => true
  | .error _ _ => false
theorem witness_OpBecomesReady : ofOp fenced0 (fun j r => !r.displaced && fenced0.mayReady j r [] && match readyOf j { r with tiles := [] } fenced0 with
    | .ok x u => x.refresh.isNone && !x.plan.any (fun pl => decide (0 ≠ pl.ranks)) && fenced0.diesFit j.part (oeOpcode r.entry) x.plan x.dirs [] && fenced0.reservoirTiles j.part (oeOpcode r.entry) x.dirs [] && !(x.sumsFp32 && [].any u.ruOut) &&
        !u.mtHolds j.part x.slots && !u.footsMeet j r.idx x && !u.handlesInUse j x
    | .error _ _ => false) = true := by decide +kernel
/-- A NEG from handle 0 to handle 1 that waits; the handle table is empty, or holds two headers of zeros. -/
def waitingNeg (count : Word32) : State := pokeAct [(.part 0 .ctHandleBaseLo, 0x4000), (.part 0 .ctHandleBaseHi, 1), (.part 0 .ctHandleCount, count)]
  (poke [(.part 0 .ctHandleCount, count)] { up1 tenantM with jobs := [{ id := 0, part := 0, ring := 0, sqIndex := 0, entry := 0, ops := [{ idx := 0, entry := BitVec.ofNat 512 (0x12 + 2 ^ 160) }] }] })
def headerOk (s : State) (h : Nat) : Bool := match readHeader 0 h s with | .ok x t => decide (x = 0) && decide (t = s) | .error _ _ => false
theorem witness_OpBecomesReady_refused : ofOp (waitingNeg 0) (fun j r => !r.displaced && !r.started && r.inserted.isNone && r.plan.isNone && decide (r.before = []) && r.ending.isNone &&
      decide (j.ops.map (·.idx)).Nodup && (waitingNeg 0).mayReady j r [0] && !seAutoRefresh j.entry && decide (oeOpcode r.entry = 0x12) && decide ((waitingNeg 0).handleCount j.part ≤ 0)) = true ∧
    ofOp (waitingNeg 2) (fun j r => (waitingNeg 2).mayReady j r [0] && decide ((waitingNeg 2).handleCount j.part = 2) && decide (oeA r.entry = 0) && decide (oeD r.entry = 1) &&
      headerOk (waitingNeg 2) 0 && headerOk (waitingNeg 2) 1 && decide (((readinessChecks (waitingNeg 2) 0 r.entry 0 0 0)[0]?).map (fun c => (c.1, c.2)) = some (false, .descMalformed))) = true := by decide +kernel
/-- R61 steps 1 and 2, and auto-refresh's flag untouched. -/
theorem test_refused : sees (.opReady o0 [0]) (waitingNeg 0) (fun s => (s.op? o0).map (fun x => (x.2.phase, x.2.status, x.2.origin))) = some (some (.ended, .bounds, 0)) ∧
    sees (.opReady o0 [0]) (waitingNeg 2) (fun s => (s.op? o0).map (fun x => (x.2.phase, x.2.status, x.2.origin))) = some (some (.ended, .descMalformed, 0)) := by decide +kernel
theorem witness_OpBecomesReady_block : ofOp fenced1 (fun _ r => decide (r.phase = .ready) && !r.displaced) = true := by decide +kernel
theorem witness_OpsRunWhenAdmitted : ofOp fenced1 (fun j r => decide (oeOpcode r.entry = 0x70) && fenced1.admits j r && (fenced1.hookOf j r).isNone &&
    runs (workFence j r) (fenced1.startRun o0 j r)) = true := by decide +kernel
/-- A CUSTOM op on tile 0, ready with its plan: an empty pattern of one rank. -/
def customPlan : CustomPlan := { ranks := 1, crossDie := false, levelDrop := 0, resultForm := 0, resultCt := 0, loss := 0, inputs := 0, images := [], tables := [[]], descCount := 0, qtab := [], sems := [], feedLimit := 0, spadOn := 0xFF, vlmax := 128 }
def customOp (ph : OpPhase) : OpRec := { idx := 0, entry := 0x7F, phase := ph, tiles := [0], plan := some customPlan }
def withCustom (ph : OpPhase) : State :=
  { up0 tenant0 with jobs := [{ id := 0, part := 0, ring := 0, sqIndex := 0, entry := 65536, ops := [customOp ph] }], tiles := if ph = .running then [(0, { op := some (0, 0) })] else [] }
theorem witness_OpsRunWhenAdmitted_custom : ofOp (withCustom .ready) (fun j r => decide (r.plan = some customPlan) && decide (oeOpcode r.entry = 0x7F) && (withCustom .ready).admits j r &&
    ((withCustom .ready).hookOf j r).isNone && runs (customPlan.combines.forM (fillCombine j.part r.die))
      (((((withCustom .ready).startOp o0 j r).updOp o0 (fun q => { q with saved := (withCustom .ready).saveLimbs j.part r, before := (withCustom .ready).saveBefore j.part r })).badReservoirs o0 j r).loadPattern o0 r customPlan)) = true := by decide +kernel
theorem witness_OpsRunWhenAdmitted_part : ((withCustom .running).tile 0).op = some (0, 0) ∧ ((withCustom .running).tile 0).partOver = true ∧
    ofOp (withCustom .running) (fun _ r => decide (r.phase = .running) && !r.halted) = true := by decide +kernel
theorem test_custom_completes : sees (.tilePartComplete 0) (withCustom .running) (fun s => (s.op? o0).map (fun x => x.2.phase)) = some (some .ran) := by decide +kernel
/-- A chain of the prime 17 for N = 128, and a ciphertext of two components of one limb: residues 5 and 3 in component 0, 7 in component 1. -/
def hdr (b0 b1 : Nat) : Header := BitVec.ofNat 512 (7 * 4 + 2 * 128 + 512 + 2 ^ 29 + b0 * 2 ^ 256 + 576 * 2 ^ 304 + b1 * 2 ^ 336 + 576 * 2 ^ 384)
def smallOp : OpRec := { idx := 0, entry := BitVec.ofNat 512 (3 * 2 ^ 320), hdrA := hdr 0x100000000 0x100001000, hdrB := hdr 0x100001000 0x100000000, results := [(9, hdr 0x100002000 0x100003000)], tiles := [0] }
def smallJob : Job := { id := 0, part := 0, ring := 0, sqIndex := 0, entry := 0, ops := [smallOp] }
def small : State := { ((up1 { tenantM with mtActive := [(mtKey 0 0 0, 17), (mtKey 0 127 0, 0x80000107)] }).storePhys 0x4000000 [5, 0, 0, 0, 0x30]).storePhys 0x4001000 [7] with jobs := [smallJob] }
def written (work : Job → OpRec → Eng Unit) : Option (List Byte × List Byte) :=
  match work smallJob smallOp small with
  | .ok _ t => some (t.readPhys 0x4002000 5, t.readPhys 0x4003000 5)
  | .error _ _ => none
/-- Residue by residue modulo 17, in P36 packing (R36, R283). -/
theorem test_neg : written workNeg = some ([12, 0, 0, 0, 0xE0], [10, 0, 0, 0, 0]) := by decide +kernel
theorem test_add : written workAdd = some ([12, 0, 0, 0, 0x30], [12, 0, 0, 0, 0x30]) := by decide +kernel
theorem test_sub : written workSub = some ([15, 0, 0, 0, 0x30], [2, 0, 0, 0, 0xE0]) := by decide +kernel
theorem test_mul_const : written workMulConst = some ([15, 0, 0, 0, 0x90], [4, 0, 0, 0, 0]) := by decide +kernel
def readOk (c l : Nat) (first : Bool) : Bool := match readCt (runAt small smallJob smallOp 0) 0 (if first then smallOp.hdrA else smallOp.hdrB) c l small with
  | .ok _ t => decide (t = small)
  | .error _ _ => false
theorem witness_ArithmeticOpsCompute : hN smallOp.hdrA = 2 ^ (runAt small smallJob smallOp (hChain smallOp.hdrA)).n ∧ hN smallOp.hdrB = 2 ^ (runAt small smallJob smallOp (hChain smallOp.hdrA)).n ∧
    compCount (hComps smallOp.hdrA) = 2 ∧ hScheme smallOp.hdrA ≠ 2 ∧ (∀ i < 1, 0 < (small.prime smallJob.part (hChain smallOp.hdrA) i).q) ∧ readOk 2 1 true = true ∧ readOk 2 1 false = true := by decide +kernel
/-- A BFV product over the prime 17 with the special prime 97, t = 5 and N = 4: the constants 1, 2 times the constants 3, 1. -/
def bfvHdr (b0 b1 : Nat) : Header := BitVec.ofNat 512 (2 + 2 * 4 + 2 * 128 + 512 + 2 ^ 28 + 2 ^ 29 + b0 * 2 ^ 256 + 64 * 2 ^ 304 + b1 * 2 ^ 336 + 64 * 2 ^ 384)
def bfvOp : OpRec := { idx := 0, entry := 0, hdrA := bfvHdr 0x100000000 0x100001000, hdrB := bfvHdr 0x100002000 0x100003000, tiles := [0] }
def bfvJob : Job := { smallJob with ops := [bfvOp] }
def bfv : State := { [(0, 1), (1, 2), (2, 3), (3, 1)].foldl (fun s (i, v) => s.storePhys (0x4000000 + 0x1000 * i) ((List.replicate 4 (leBytes 8 v)).flatten)) (up1 { tenantM with mtActive :=
  [(mtKey 0 0 0, 17), (mtKey 0 0 2, 0xD0000), (mtKey 0 0 3, 0x2000000), (mtKey 0 64 0, 97), (mtKey 0 64 2, 0x490000), (mtKey 0 64 3, 0x21000000), (mtKey 0 127 0, 0x80010102), (mtKey 0 127 1, 5)] }) with jobs := [bfvJob] }
def bfvRun : Run := runAt bfv bfvJob bfvOp 0
def constant (v : Nat) : Limbs := [List.replicate 4 v]
theorem witness_ArithmeticOpsCompute_bfv : hScheme bfvOp.hdrA = 2 ∧ bfvRun.n = 2 ∧ hN bfvOp.hdrA = 2 ^ bfvRun.n ∧ hN bfvOp.hdrB = 2 ^ bfvRun.n ∧ compCount (hComps bfvOp.hdrA) = 2 ∧ compCount (hComps bfvOp.hdrB) = 2 ∧
    (match readCt bfvRun 0 bfvOp.hdrA 2 1 bfv with | .ok a t => decide (a = [constant 1, constant 2]) && decide (t = bfv) | .error _ _ => false) = true ∧
    (match readCt bfvRun 0 bfvOp.hdrB 2 1 bfv with | .ok a t => decide (a = [constant 3, constant 1]) && decide (t = bfv) | .error _ _ => false) = true := by decide +kernel
/-- T = 3, 7 and 2, and R = 5·T/17 to the nearest: 1, 2 and 1 (R284). -/
theorem test_mul_bfv : (match mulBfv bfvRun 1 [constant 1, constant 2] [constant 3, constant 1] bfv with | .ok d _ => d | .error _ _ => []) = [constant 1, constant 2, constant 1] := by decide +kernel
/-- The integers A, B, T and R of that product meet what the statement asks of them. -/
theorem witness_ArithmeticOpsCompute_integers :
    let c := fun (l : List Int) (k e : Nat) => if e = 0 then l.getD k 0 else 0
    let back := fun (q omega nInv v : Nat) => nttInverse q omega nInv 2 (List.replicate 4 v)
    (∀ k < 2, ∀ e < 4, 2 * |c [1, 2] k e| < 17 ∧ c [1, 2] k e % 17 = (el (back 17 2 13 ([1, 2].getD k 0)) e : Int)) ∧
    (∀ k < 2, ∀ e < 4, 2 * |c [3, 1] k e| < 17 ∧ c [3, 1] k e % 17 = (el (back 17 2 13 ([3, 1].getD k 0)) e : Int)) ∧
    (∀ k < 3, ∀ e < 4, 2 * |c [3, 7, 2] k e| < 17 * 97 ∧ c [3, 7, 2] k e % 17 = (el (back 17 2 13 ([3, 7, 2].getD k 0)) e : Int) ∧ c [3, 7, 2] k e % 97 = (el (back 97 33 73 ([3, 7, 2].getD k 0)) e : Int)) ∧
    (∀ k < 3, ∀ e < 4, |2 * (5 : Int) * c [3, 7, 2] k e - 2 * 17 * c [1, 2, 1] k e| < 17) ∧ Nat.Prime 17 ∧ Nat.Prime 97 ∧ [17, 97].Nodup :=
  ⟨by decide +kernel, by decide +kernel, by decide +kernel, by decide +kernel, by norm_num, by norm_num, by decide⟩
theorem witness_OpBindsOff : ofOp fenced2 (fun j r => fenced2.bindable j r && decide (r.past = []) && decide (j.ops.map (·.idx)).Nodup && !seAutoRefresh j.entry &&
    runs (writeHeaders j.part r.headers) fenced2) = true := by decide +kernel
theorem test_bind_off : sees (.opBindOff o0) fenced2 (fun s => (s.op? o0).map (fun x => (x.2.phase, x.2.status))) = some (some (.bound, .done)) := by decide +kernel

/-! ### Modular arithmetic and transforms -/

/-- The Barrett example of R64: q = 998,244,353, MU = 4,619,796,750, x = (q − 1)². -/
theorem test_barrett : muOf 998244353 = 4619796750 ∧ bitLength 998244353 = 30 ∧ 996491786299899904 / 2 ^ 28 * 4619796750 / 2 ^ 34 = 998244350 ∧
    barrett 998244353 4619796750 996491786299899904 = 1 := by decide +kernel
theorem witness_ReductionsAreExact : Nat.Prime 786433 ∧ 20 ≤ bitLength 786433 ∧ bitLength 786433 ≤ 35 ∧ 618475290624 < 2 ^ (2 * bitLength 786433 + 2) :=
  ⟨by norm_num, by decide +kernel, by decide +kernel, by decide +kernel⟩
/-- N = 4 and q = 17: ψ = 2 (2^4 = −1), N_INV = 13. -/
theorem witness_TransformsAreInverse : Nat.Prime 17 ∧ 2 ^ 2 ^ 2 % 17 = 17 - 1 ∧ 13 * 2 ^ 2 % 17 = 1 ∧ [1, 2, 3, 16].length = 2 ^ 2 ∧ ∀ v ∈ [1, 2, 3, 16], v < 17 := ⟨by norm_num, by decide⟩
theorem witness_EvaluationFormIsAHomomorphism : Nat.Prime 17 ∧ 2 ^ 2 ^ 2 % 17 = 17 - 1 ∧ 2 ≤ 2 ∧ [1, 2, 3, 16].length = 2 ^ 2 ∧ [0, 1, 0, 0].length = 2 ^ 2 ∧
    (∀ v ∈ [1, 2, 3, 16], v < 17) ∧ (∀ v ∈ [0, 1, 0, 0], v < 17) ∧ 7 % 2 = 1 ∧ 7 < 2 * 2 ^ 2 := ⟨by norm_num, by decide⟩
/-- R79 at N = 4: element j is a(ψ^(e_j)) with e = 1, 5, 3, 7 (e_j = 2 brv(j) + 1). -/
theorem test_ntt : nttForward 17 2 2 [0, 1, 0, 0] = [2, 2 ^ 5 % 17, 2 ^ 3 % 17, 2 ^ 7 % 17] ∧ nttInverse 17 2 13 2 (nttForward 17 2 2 [1, 2, 3, 16]) = [1, 2, 3, 16] := by decide +kernel
/-- X · (1 + 2X + 3X² + 16X³) = −16 + X + 2X² + 3X³ modulo X⁴ + 1. -/
theorem test_negacyclic : nttInverse 17 2 13 2 (mulLimb 17 (nttForward 17 2 2 [1, 2, 3, 16]) (nttForward 17 2 2 [0, 1, 0, 0])) = [1, 1, 2, 3] := by decide +kernel
/-- The example of R92: for ESR-16, ROTATE by 1 has g = 5 and by −1 g = 52,429. -/
theorem test_rotate_element : rotGalois true 16 1 = 5 ∧ rotGalois true 16 (-1) = 52429 ∧ conjGalois 16 = 131071 := by decide +kernel

/-! ### Streams -/

/-- A pattern of words on stream `k` of tile 0, whose stream state and tile are as given. -/
def runningAt (k : Nat) (image : List (BitVec 64)) (v : Stream) (x : Tile) (op : OpRec) : State :=
  { up0 { tenant0 with mtActive := [(mtKey 0 0 0, 17), (mtKey 0 127 0, 0x80000107)] } with
    jobs := [{ id := 0, part := 0, ring := 0, sqIndex := 0, entry := 65536, ops := [op] }]
    tiles := [(0, { x with op := some (0, 0), streams := [(k, { v with running := true, image := image })] })] }
def streamed (k op : Nat) (w : StreamWord) (v : Stream) (x : Tile) : State := runningAt k [encodeWord op w] v x (customOp .running)
def seat (k : Nat) : Seat := ⟨0, k, o0, 0, 0⟩
def word (mode count imm : Nat) : StreamWord := { mode := BitVec.ofNat 4 mode, inA := 0, inB := 0, out := 0, flags := 0, count := BitVec.ofNat 16 count, imm := BitVec.ofNat 16 imm }
/-- What the stream of the command looks like afterwards: its program counter, whether it runs, and its stall. -/
def seesStream (c : Instr) (k : Nat) (s : State) : Option (Nat × Bool × Stall) := sees c s (fun t => ((t.stream 0 k).pc, (t.stream 0 k).running, (t.stream 0 k).stall))

/-- SETVL 64 on the VEC stream (R167). -/
def setvl64 : State := streamed 2 0x71 (word 0 64 0) {} {}
theorem witness_InstructionsIssue : (setvl64.canIssue 0 2 0x71 (word 0 64 0)) = true ∧ setvl64.seat? 0 2 = some (seat 2) ∧ runs (setvlWork (word 0 64 0) (seat 2)) setvl64 = true := by decide +kernel
theorem test_setvl : sees (.setvl 0 (word 0 64 0)) setvl64 (fun t => ((t.stream 0 2).pc, (t.stream 0 2).vlNow)) = some (1, 64) := by decide +kernel
/-- A semaphore post of the FEED stream while one feeder's queue is full stalls (R193). -/
def fullFeeder : State := streamed 0 0x05 (word 0 1 3) {} { feeders := [(2, List.replicate 16 .marker)] }
theorem witness_InstructionsIssue_halt : fullFeeder.canIssue 0 0 0x05 (word 0 1 3) = true ∧ fullFeeder.seat? 0 0 = some (seat 0) ∧ runs (putPost (seat 0) 0 (word 0 1 3)) fullFeeder = false := by decide +kernel
theorem test_post_stalls : seesStream (.spost 0 .feed (word 0 1 3)) 0 fullFeeder = some (0, true, .feeder [0, 1, 2, 3]) := by decide +kernel
theorem witness_InstructionsIssue_none : setvl64.canIssue 0 2 0x71 (word 0 65 0) = false ∧ (streamed 2 0x71 (word 0 64 0) {} { gate := .m2 }).canIssue 0 2 0x71 (word 0 64 0) = false := by decide +kernel
theorem witness_InstructionsIssue_control :
    (streamed 3 0x00 (word 0 0 0) {} {}).canIssue 0 3 0x00 (word 0 0 0) = true ∧ (streamed 3 0x0F (word 0 0 0) {} {}).canIssue 0 3 0x0F (word 0 0 0) = true ∧
    (streamed 3 0x01 (word 7 0 9) {} {}).canIssue 0 3 0x01 (word 7 0 9) = true ∧ (streamed 3 0x02 (word 3 2 7) {} {}).canIssue 0 3 0x02 (word 3 2 7) = true ∧
    (streamed 3 0x03 (word 3 4 0) {} {}).canIssue 0 3 0x03 (word 3 4 0) = true := by decide +kernel
/-- A count of 0 skips the body (R186). -/
theorem test_loop_skips : seesStream (.loop 0 .cable (word 7 0 9)) 3 (streamed 3 0x01 (word 7 0 9) {} {}) = some (10, true, .none) := by decide +kernel
theorem test_end : seesStream (.endInstr 0 .cable (word 0 0 0)) 3 (streamed 3 0x0F (word 0 0 0) {} {}) = some (0, false, .none) := by decide +kernel
/-- A comparator that no CMPSET has bound is false: WHEN passes over its 4 instructions, and with the complement it does not (R187). -/
theorem test_when : seesStream (.whenInstr 0 .cable (word 3 4 0)) 3 (streamed 3 0x03 (word 3 4 0) {} {}) = some (5, true, .none) ∧
    seesStream (.whenInstr 0 .cable (word 7 4 0)) 3 (streamed 3 0x03 (word 7 4 0) {} {}) = some (1, true, .none) := by decide +kernel
theorem witness_LoopRepeatsItsBody : 0 < 2 ∧ 0 < 3 ∧ ({} : Stream).loops = [] ∧ Tab.wf (fun _ => 0) ({} : Stream).rows = true := by decide +kernel
theorem test_loop_rows : (((({} : Stream).enterLoop 0 2 3).next.next.next).pc, ((({} : Stream).enterLoop 0 2 3).next.next.next).row 0) = (1, 1) := by decide +kernel
/-- SWAIT of READY 5 on a counter that holds exactly 5, and one short (R193). -/
def waiting (n : Nat) : State := poke [(semReg 0 31, BitVec.ofNat 32 n)] (streamed 1 0x04 (word 0 5 31) {} {})
theorem witness_PostsAndSlotsComplete_wait : (waiting 5).canIssue 0 1 0x04 (word 0 5 31) = true ∧ (waiting 5).seat? 0 1 = some (seat 1) := by decide +kernel
theorem test_swait : sees (.swait 0 .ntt (word 0 5 31)) (waiting 5) (fun t => ((t.stream 0 1).pc, t.semCount 0 31 false)) = some (1, 0) ∧
    seesStream (.swait 0 .ntt (word 0 5 31)) 1 (waiting 4) = some (0, true, .sem) := by decide +kernel
theorem witness_PostsAndSlotsComplete_satisfied : let s := streamed 1 0x04 (word 0 5 31) { stall := .sem, wait := some (31, false, 5) } {}
    (s.stream 0 1).wait = some (31, false, 5) ∧ s.seat? 0 1 = some (seat 1) := by decide +kernel
/-- A post of 255 on a counter of 0 is taken, on a counter of 1 it ends the op. -/
def posting (n : Nat) : State := poke [(semReg 0 0, BitVec.ofNat 32 n)] (streamed 1 0 (word 0 0 0) {} { posts := [{ tile := 0, pair := 0, free := false, amount := 255, markers := false }] })
theorem witness_PostsAndSlotsComplete_post : ((posting 1).tile 0).posts.find? ((posting 1).tile 0).postDue = some { tile := 0, pair := 0, free := false, amount := 255, markers := false } ∧
    ((posting 1).tile 0).op = some (0, 0) := by decide +kernel
theorem test_post : sees (.spostTakesEffect 0) (posting 0) (fun t => t.semCount 0 0 false) = some 255 ∧
    sees (.spostTakesEffect 0) (posting 1) (fun t => (t.op? o0).map (fun x => x.2.status)) = some (some .descMalformed) := by decide +kernel
theorem witness_PostsAndSlotsComplete_exchange : let s := streamed 3 0 (word 0 0 0) {} { exchanges := [{ line := 4, ranks := 2, sem := 9, got := 2 }] }
    (s.tile 0).exchanges.find? (fun e => decide (e.ranks ≠ 0) && decide (e.ranks ≤ e.got)) = some { line := 4, ranks := 2, sem := 9, got := 2 } ∧ (s.tile 0).op = some (0, 0) := by decide +kernel
/-- SPILL of one line with the constant of descriptor entry 0 into queue 0: lines 0 to 3 of the scratchpad, one slot of 4 lines. -/
def spilling : State := pokeAct [(.tile 0 (.qcfgLo 0), 0x00040000), (.tile 0 (.qcfgHi 0), 0x80000020)]
  (streamed 0 0 (word 0 0 0) {} { desc := [(0, 0x12345678)], descCount := 1, feeders := [(3, [.transfer 0x23 { word 0 1 0 with flags := 2 } []])] })
/-- Four feeders with limits of 48: the first two take 96 of the 120 entries, the third 24, and the fourth waits (R27). -/
def crowdedTile : State := poke [(.tile 0 .feedLimit, 0x30303030)] (streamed 0 0 (word 0 0 0) {} { feeders := (List.range 4).map (fun f => (f, [.transfer 0x22 { word 0 200 0 with imm := 0 } []])) })
theorem test_tracker : (List.range 4).map (crowdedTile.outstanding 0) = [48, 48, 24, 0] ∧ (List.range 4).map (crowdedTile.feederWaits 0) = [false, false, false, true] := by decide +kernel
theorem witness_PostsAndSlotsComplete_feeder : (spilling.tile 0).feeder 3 = [.transfer 0x23 { word 0 1 0 with flags := 2 } []] ∧ spilling.seat? 0 0 = some (seat 0) ∧
    runs (feedWork (seat 0) 0x23 { word 0 1 0 with flags := 2 } []) spilling = true ∧ spilling.feederWaits 0 3 = false ∧ crowdedTile.feederWaits 0 3 = true := by decide +kernel
theorem test_spill : sees (.feederTransferDone 0 3) spilling (fun t => ((t.queue 0 0).commitDue, (List.range 5).map (fun a => Tab.get (fun _ => (0 : Byte)) (t.tile 0).scratch a), (t.tile 0).feeder 3))
    = some (1, [0x78, 0x56, 0x34, 0x12, 0x78], []) := by decide +kernel
theorem witness_PostsAndSlotsComplete_release : let s := streamed 2 0 (word 0 0 0) {} { queues := [(47, { committed := 1, releaseDue := 1 })] }
    0 < (s.queue 0 47).releaseDue ∧ 0 < (s.queue 0 47).committed := by decide +kernel
theorem witness_PostsAndSlotsComplete_stall : (streamed 5 0 (word 0 0 0) { stall := .committedSlot 47 } { queues := [(47, { committed := 1 })] }).stallOver 0 5 = true := by decide +kernel
theorem witness_PostsAndSlotsComplete_deadlock : let s := streamed 5 0 (word 0 0 0) { stall := .sem, wait := some (0, true, 1) } {}
    ofOp s (fun _ r => decide (r.phase = .running) && !r.halted && s.deadlocked r) = true := by decide +kernel
/-- A window of residues under the prime 17, on an op whose operand has the chain. -/
def window17 : Window := { loaded := true, record := BitVec.ofNat 512 (9 * 2 ^ 16) }
def vector17 : State := poke [(.part 0 .mtStatus, 1)] (runningAt 2 [] {} { windows := [(0, window17)] } { customOp .running with hdrA := hdr 0 0 })
def args : VecArgs := { n := 2, dst := .win 0, srcA := some (.win 0), srcB := some (.win 0), rec_ := 0 }
theorem witness_VectorElementsAreExact : (match vecPrime (seat 2) args.dst (args.srcA.toList ++ args.srcB.toList) vector17 with
    | .ok (some e) s => decide (e.q = 17) && decide (s = vector17) && [16, 3].all (fun v => decide (v < e.q)) && [5, 0].all (fun v => decide (v < e.q))
    | _ => false) = true ∧ [16, 3].length = args.n ∧ [5, 0].length = args.n := by decide +kernel
def element (op ty : Nat) (as bs : List Nat) : Option (List Nat × Bool) :=
  match vecElement (seat 2) op args ty ty ty ty as bs [1, 2] vector17 with
  | .ok ys t => some (ys, ofOp t (fun _ r => r.saturated))
  | .error _ _ => none
/-- Modular: 16 + 5, 16 − 5, −16, 16 · 5 and 5 · 16 + 1 modulo 17 (R169). -/
theorem test_vec_modular : element 0x80 0 [16, 3] [5, 0] = some ([4, 3], false) ∧ element 0x81 0 [16, 3] [5, 0] = some ([11, 3], false) ∧
    element 0x83 0 [16, 3] [5, 0] = some ([12, 0], false) ∧ element 0x84 0 [16, 3] [5, 0] = some ([13, 2], false) := by decide +kernel
/-- INT8: 127 + 1 clamps to 127 and sets SATURATED; −128 − 127 to −128; −1 times −1 is 1. -/
theorem test_vec_integer : element 0x88 2 [127, 3] [1, 4] = some ([127, 7], true) ∧ element 0x89 2 [128, 3] [127, 4] = some ([128, 255], true) ∧
    element 0x8A 2 [255, 3] [255, 4] = some ([1, 12], false) ∧ element 0x8E 2 [128, 3] [0, 0] = some ([0, 3], false) := by decide +kernel
theorem witness_VectorElementsAreExact_reduce : (({ fn := 1, ty := 0, q := 17, cycles := [[1, 2], [3]] } : Reduction).ty ≠ 5 ∨ 2 ≤ 1) ∧
    ([[3, 1], [2]] : List (List Nat)).flatten.Perm [[1, 2], [3]].flatten ∧ 0 < 17 := by decide +kernel

/-! ### Faults, self-test, retirement -/

/-- An ADD that has run on tiles 0 and 1 of tile quad 0, with its mismatches and replays so far. -/
def ranOp (mismatches : Nat) : OpRec := { idx := 0, entry := 0x10, phase := .ran, tiles := [0, 1], started := true, mismatches := mismatches }
def ranAt (mismatches : Nat) (times : List Int) (clock : BitVec 64) : State := { up0 tenant0 with
  clock := clock, jobs := [{ id := 0, part := 0, ring := 0, sqIndex := 0, entry := 65536, ops := [ranOp mismatches] }],
  tiles := [(0, { op := some (0, 0), mismatchAt := times }), (1, { op := some (0, 0) })] }
theorem witness_ResidueMismatchReplays : (ranAt 0 [] 0).runsOn o0 0 = true ∧ (ranAt 1 [0, 0] 3600000000000).runsOn o0 1 = true ∧
    ofOp (ranAt 0 [] 0) (fun _ r => decide (r.saved = [])) = true ∧
    2 ≤ (((ranAt 0 [0, 0] 4319999999999).tile 0).mismatchAt.filter (fun a => decide (((ranAt 0 [0, 0] 4319999999999).clock.toNat : Int) - a < 3600 * 1200000000))).length ∧
    (((ranAt 0 [0, 0] 4320000000000).tile 0).mismatchAt.filter (fun a => decide (((ranAt 0 [0, 0] 4320000000000).clock.toNat : Int) - a < 3600 * 1200000000))).length < 2 := by decide +kernel
theorem witness_ranAt_inv : (ranAt 0 [] 0).Inv := by unfold State.Inv; decide +kernel
/-- The third mismatch within an hour takes the tile out of use, one a tick later does not (R355). -/
theorem test_third_mismatch : sees (.residueMismatch o0 0 false) (ranAt 0 [0, 0] 4319999999999) (fun t => (t.tile 0).outOfUse) = some true ∧
    sees (.residueMismatch o0 0 false) (ranAt 0 [0, 0] 4320000000000) (fun t => ((t.tile 0).outOfUse, (t.tile 0).selfTest)) = some (false, false) ∧
    sees (.residueMismatch o0 0 false) (ranAt 1 [] 0) (fun t => ((t.tile 0).selfTest, (t.tile 1).selfTest)) = some (true, true) := by decide +kernel
theorem witness_SuspectsAreRecorded : (ranAt 0 [] 0).runsOn o0 0 = true ∧ (ranAt 0 [] 0).hookState 0 = 0 ∧ (ranAt 0 [] 0).power.ref ≠ .stopped ∧
    ofOp (ranAt 0 [] 0) (fun _ r => decide (r.phase = .ran)) = true := by decide +kernel
theorem witness_SuspectsAreRecorded_stream : (withCustom .running).runsOn o0 0 = true ∧ (streamed 2 0 (word 0 0 0) {} {}).runsOn o0 0 = true ∧
    ((streamed 2 0 (word 0 0 0) {} {}).stream 0 2).running = true ∧ ((streamed 2 0 (word 0 0 0) {} {}).stream 0 2).stall = .none := by decide +kernel
theorem witness_SuspectsAreRecorded_target : unitKind (UnitId.bits ⟨1, 575⟩) = 1 ∧ unitIndex (UnitId.bits ⟨1, 575⟩) < 576 ∧
    unitKind (UnitId.bits ⟨2, 17⟩) = 2 ∧ unitIndex (UnitId.bits ⟨2, 17⟩) < 18 := by decide +kernel
/-- R352: eight retransmissions are trace records, the ninth failure is logged. -/
theorem test_crc : sees (.flitCrcError ⟨3, 0⟩ ⟨3, 1⟩ 7 8) up (fun t => (t.hank 0).windows.length) = some 0 ∧
    sees (.flitCrcError ⟨3, 0⟩ ⟨3, 1⟩ 7 9) up (fun t => (t.hank 0).windows.map (·.event)) = some [0x0E] := by decide +kernel
theorem witness_SuspectsAreRecorded_memory : up.answers = true ∧ (up.site 0).works = true ∧ Tab.wf (fun _ => false) up.memBad = true ∧
    (poke [(.glob .memCfg, 1)] up).power.state = .m0 ∧ bits ((poke [(.glob .memCfg, 1)] up).reg (.glob .memCfg)) 1 0 ≠ 0 ∧ up.lineBad 25769803775 = false := by decide +kernel
/-- Start-up from power-on, with site 17 past its own self-test. -/
def coldStart : State := { State.reset with sites := [(17, { started := true, state := .active })] }
theorem test_cold_selftest : sees (.tileSelftestDone 575 true false) coldStart (fun t => (t.ruOut 575, (t.tile 575).outOfUse)) = some (true, false) := by decide +kernel
theorem witness_SuspectsAreRecorded_selftest : let s : State := { up with tiles := [(575, { selfTest := true })] }
    (s.tile 575).selfTest = true ∧ (s.tile 575).op = none ∧ coldStart.coldTest 575 = true ∧ (coldStart.tile 575).op = none := by decide +kernel
theorem test_stack_line : sees (.stackUncorrectable 25769803775) up (fun t => (t.lineBad 25769803775, t.lineBad 0)) = some (true, false) := by decide +kernel
/-- A log record of event 0x05 of tile 3 with two duplicates; an alarm of tile 3. -/
def logging : State := ((up.reportLog (tileUnit 3) (tileUnit 3) 0x05 1).reportLog (tileUnit 3) (tileUnit 3) 0x05 1)
theorem witness_ConcentratorsKeepAlarms_window : ((logging.hank 0).windows.find? (fun r => r.pair (UnitId.bits ⟨1, 3⟩) 5)).isSome = true := by decide +kernel
theorem test_window_closes : sees (.logWindowClose 0 ⟨1, 3⟩ 5) logging (fun t => ((t.hank 0).windows.length, bit (t.reg (.hank 0 .fcStatus)) 31)) = some (0, true) := by decide +kernel
theorem witness_ConcentratorsKeepAlarms_alarm : (up.hank (up.owner (tileUnit 3))).running = true ∧ Tab.wf (fun _ => none) (up.hank (up.owner (tileUnit 3))).alarms = true ∧ up.hankOpen 3 = true := by decide +kernel
theorem test_alarm_ack : sees (.fcAlarmAck 0) (up.reportAlarm (tileUnit 3) (tileUnit 3) 0x08 0) (fun t => (t.hank 0).alarms.length) = some 0 ∧
    ((up.reportAlarm (tileUnit 3) (tileUnit 3) 0x08 0).hank 0).alarms.length = 1 ∧ (up.reportAlarm (tileUnit 3) (tileUnit 3) 0x08 0).smbAlert = true := by decide +kernel
/-- A die two of whose heartbeats are missing, and one that is probed. -/
def beaten (n : Nat) (beat : Bool) : State := { up with sites := [(3, { missing := n, beat := beat, probe := true }), (16, { state := .spare }), (17, { state := .spare })] }
theorem witness_HeartbeatsGuardDies : (beaten 2 false).beats 3 = true ∧ ((beaten 2 false).site 3).beat = false ∧ 2 ≤ ((beaten 2 false).site 3).missing ∧ ((beaten 1 false).site 3).missing < 2 ∧
    ((beaten 2 true).site 3).beat = true ∧ ((beaten 2 true).site 3).probe = true := by decide +kernel
theorem test_die_lost : sees (.heartbeatCheck 3) (beaten 2 false) (fun t => (t.site 3).state) = some .retiring ∧ sees (.heartbeatCheck 3) (beaten 1 false) (fun t => (t.site 3).state) = some .active := by decide +kernel
/-- Site 3 is retired by the operator: decided, begun on spare 16, placed. -/
def retire3 : Retire := { site := 3, kind := 2, operator := true, mgmt := false }
def retiring (r : Option Retire) (q : List Retire) (st : DieState) : State := { up0 { tenant0 with quads := [0, 24] } with
  retireQueue := q, retiring := r, sites := [(3, { state := st }), (16, { state := .spare }), (17, { state := .spare })] }
theorem witness_RetirementProceeds : up.answers = true ∧ bit (0x80110001 : BitVec 32) 31 = true ∧ bits (0x80110001 : BitVec 32) 3 0 = 1 ∧ bits (0x80030001 : BitVec 32) 20 16 = 3 ∧
    bit (up.reg (.glob .rasCmdStatus)) 0 = false ∧ (up.site 3).state = .active ∧ (up.site 17).state ≠ .active ∧ up.lastDie 3 = false ∧ up.retireQueued 3 = false := by decide +kernel
theorem witness_RetirementProceeds_last : let s : State := { up with sites := (List.range 18).map (fun d => (d, { state := if d = 3 then .active else .retired })) }
    s.answers = true ∧ (s.site 3).state = .active ∧ s.lastDie 3 = true := by decide +kernel
theorem witness_RetirementProceeds_start : let s := retiring none [retire3] .active
    s.nextRetire = some retire3 ∧ (s.site 3).state = .active ∧ s.freeSpare = some 16 := by decide +kernel
theorem witness_RetirementProceeds_spare : let s := retiring (some { retire3 with spare := some 16 }) [] .retiring
    s.retiring = some { retire3 with spare := some 16 } ∧ retire3.placed = false ∧ retire3.kind ≠ 1 ∧ s.power.state = .m0 := by decide +kernel
theorem witness_RetirementProceeds_grace : let s := retiring (some { retire3 with spare := some 16, placed := true }) [] .retiring
    s.retiring = some { retire3 with spare := some 16, placed := true } ∧ s.retireQueue = [] ∧ s.power.state = .m0 := by decide +kernel
theorem witness_RetirementProceeds_inv : (retiring (some { retire3 with spare := some 16, placed := true }) [] .retiring).Inv := by unfold State.Inv; decide +kernel
/-- The tenant's quad of site 3 goes to the spare's first quad (R357). -/
theorem test_spare : sees (.spareInService 16 true) (retiring (some { retire3 with spare := some 16 }) [] .retiring) (fun t => ((t.part 0).quads, (t.site 16).state)) = some ([0, 128], .active) := by decide +kernel
theorem test_retire : sees (.rasRetire 0x80030001) up (fun t => (t.retireQueue, t.reg (.glob .rasCmdStatus))) = some ([retire3], 1) := by decide +kernel
theorem test_grace : sees (.retireGraceExpiry 3) (retiring (some { retire3 with spare := some 16, placed := true }) [] .retiring) (fun t => ((t.site 3).state, t.reg (.glob .rasCmdStatus), t.retirements)) =
    some (.retired, 0, 1) := by decide +kernel
theorem witness_UnitFaultsFence : up.powered = true ∧ onlyDie 1 = none ∧ onlyDie 0 = some 0 ∧ (up.hank 3).running = true ∧ unitKind (UnitId.bits ⟨2, 0⟩) = 2 := by decide +kernel
/-- Column 15 faults on subcolumn 1: its lines read as uncorrectable from then on, and those of column 0 do not (R364). -/
theorem test_column : sees (.memoryColumnFault 15 1) up (fun t => ((List.range 4096).find? (fun l => decide (t.column (64 * l) = 15) && !t.lineBad l), t.lineBad 0, t.service)) = some (none, decide (up.column 0 = 15), true) := by decide +kernel

/-! ### Monitors, governor, power states, start-up, resets -/

/-- The module with other power data. -/
def powered (f : Power → Power) (s : State) : State := { s with power := f s.power }
theorem witness_MonitorsReport : up.powered = true ∧ 44000 ≤ up.power.inputMv ∧ up.power.inputMv ≤ 60000 ∧ 47500 ≤ up.power.inputMv ∧ up.power.inletDeci ≤ 400 ∧ 1600 ≤ up.power.flowCenti ∧
    (powered (fun p => { p with flowLow := true }) up).power.flowLow = true ∧ (up.site 17).populated = true := by decide +kernel
theorem witness_MonitorsReport_more : (up.site 17).state ≠ .retired ∧ up.power.state ≠ .m3 ∧ (up.site 17).tempDeci < 1100 ∧ 31 ∉ up.power.stackDouble ∧ up.power.ref = .present ∧
    (powered (fun p => { p with ref := .lost }) up).power.ref = .lost := by decide +kernel
/-- The limits of R377: 60.000 V and 44.000 V stay, one step beyond forces M4; 47.500 V is no low-input event. -/
theorem test_input : sees (.inputVoltageChange 60000) up (fun t => t.power.state) = some .m0 ∧ sees (.inputVoltageChange 60001) up (fun t => (t.power.state, t.power.standby.map (·.event))) = some (.m4, [0x21]) ∧
    sees (.inputVoltageChange 44000) up (fun t => (t.power.state, (t.hank 0).windows.map (·.event))) = some (.m0, [0x20]) ∧ sees (.inputVoltageChange 43999) up (fun t => t.power.state) = some .m4 ∧
    sees (.inputVoltageChange 47500) up (fun t => (t.hank 0).windows.length) = some 0 := by decide +kernel
theorem test_inlet : sees (.coolantTempChange 400) up (fun t => (t.out.length, t.effCap)) = some (0, 9500) ∧ sees (.coolantTempChange 401) up (fun t => t.out) = some [.alarm (monitorUnit 2) 0x23 401] ∧
    sees (.coolantTempChange 481) up (fun t => (t.out.length, t.effCap)) = some (2, 3000) := by decide +kernel
theorem test_flow : sees (.coolantFlowChange 1600) up (fun t => t.out.length) = some 0 ∧ sees (.coolantFlowChange 1599) up (fun t => t.out) = some [.alarm (monitorUnit 3) 0x24 1599] ∧
    sees (.coolantFlowChange 799) up (fun t => (t.out.length, t.effCap)) = some (2, 3000) ∧ sees (.coolantFlowChange 399) up (fun t => t.power.flowLow) = some true := by decide +kernel
theorem test_die_temp : sees (.dieTempChange 17 1099) up (fun t => (t.site 17).duty) = some 16 ∧ sees (.dieTempChange 17 1100) up (fun t => (t.site 17).duty) = some 4 ∧
    sees (.dieTempChange 17 1200) up (fun t => t.power.state) = some .m4 := by decide +kernel
theorem test_stack_temp : sees (.stackOvertemp 31 950) up (fun t => t.power.stackDouble) = some [] ∧ sees (.stackOvertemp 31 951) up (fun t => t.power.stackDouble) = some [31] := by decide +kernel

theorem witness_GovernorAdjusts : (powered (fun p => { p with flowCenti := 799 }) up).power.flowCenti < 800 ∧ 1600 ≤ up.power.flowCenti ∧ up.power.inletDeci ≤ 400 ∧ up.answers = true ∧
    up.diesOn = true ∧ up.diePowered 0 = true ∧ up.effCap < 9501 ∧ 9500 ≤ up.effCap := by decide +kernel
theorem test_cap : sees (.pwrCapWrite 299) up (fun t => (t.reg (.glob .pwrCap), bit (t.reg (.glob .pwrStatus)) 0)) = some (950, true) ∧
    sees (.pwrCapWrite 300) up (fun t => (t.reg (.glob .pwrCap), t.effCap)) = some (300, 3000) ∧ sees (.pwrCapWrite 951) up (fun t => t.reg (.glob .pwrCap)) = some 950 := by decide +kernel
/-- A sample above P_die + 5 % drops the duty to 12/16, the next to 10/16 (R385). -/
theorem test_duty : sees (.dutyAdjust 0 100000 false) up (fun t => (t.site 0).duty) = some 12 ∧
    sees (.dutyAdjust 0 100000 false) (up.updSite 0 (fun x => { x with duty := 12 })) (fun t => (t.site 0).duty) = some 10 ∧
    sees (.dutyAdjust 0 0 true) (up.updSite 0 (fun x => { x with duty := 12, below := true })) (fun t => (t.site 0).duty) = some 14 := by decide +kernel
theorem test_throttle : sees (.inputThrottle 9501) up (fun t => (t.power.throttling, t.power.throttleSteps)) = some (true, 1) ∧ sees (.inputThrottle 9500) up (fun t => t.power.throttling) = some false := by decide +kernel

/-- Site by site, all have started. -/
def started : Tab Site := (List.range 18).map (fun d => (d, { state := if d < 16 then .active else .spare, started := true }))
theorem witness_PowerStatesChange : up.answers = true ∧ up.power.cmd = none ∧ up.power.state = .m0 ∧ up.m3Refused = false ∧ up.entryFree = true ∧ cored.m3Refused = true ∧
    cored.power.state = .m0 ∧ (retiring (some retire3) [] .retiring).entryFree = false := by decide +kernel
theorem witness_PowerStatesChange_more : (retiring (some retire3) [] .retiring).m3Refused = false ∧ (powered (fun p => { p with state := .m3 }) up).answers = true ∧
    (powered (fun p => { p with state := .leavingM3, cmd := some 2 }) { up with sites := started }).power.state = .leavingM3 ∧
    (∀ d : Fin 18, (powered (fun p => { p with state := .leavingM3 }) { up with sites := started }).siteUsed d = true → ((powered (fun p => { p with state := .leavingM3 }) { up with sites := started }).site d).started = true) ∧
    up.powered = true ∧ up.diePowered (siteOf 511) = true ∧ (up.tile 511).op = none ∧ (up.tile 511).gate = .m0 := by decide +kernel
theorem witness_cored_m3_inv : (powered (fun p => { p with state := .leavingM3, cmd := some 2 }) { up with sites := started }).Inv := by unfold State.Inv; decide +kernel
theorem test_m3 : sees .enterM3 up (fun t => (t.power.state, t.reg (.glob .pwrCmdStatus))) = some (.m3, 0) ∧ sees .enterM3 cored (fun t => (t.power.state, t.reg (.glob .pwrCmdStatus))) = some (.m0, 0x00150000) := by decide +kernel
theorem test_m4 : sees .enterM4 (poke [(.glob .pwrCap, 400)] up) (fun t => (t.power.state, t.reg (.glob .pwrCap))) = some (.m4, 950) := by decide +kernel
/-- A module reset keeps MC_ECC_c and loses PWR_CAP (R389). -/
theorem test_module_reset : sees .moduleResetCmd (poke [(.glob .pwrCap, 400), (.glob (.mcEcc 15), 9)] up) (fun t => (t.power.state, t.reg (.glob .pwrCap), t.reg (.glob (.mcEcc 15)))) = some (.starting, 950, 9) := by decide +kernel

theorem witness_StartUpRunsInOrder : State.reset.power.senseClosed = true ∧ State.reset.power.charged = true ∧ State.reset.power.standby = [] ∧ State.reset.power.state = .starting ∧
    State.reset.power.perst0Low = false ∧ State.reset.clocked = true ∧ State.reset.stepsLeft.head? = some (.hankDie 0) := by decide +kernel
/-- All steps but the last have run; all have. -/
def nearly : State := powered (fun p => { p with stepsDone := startOrder.dropLast }) { State.reset with sites := started }
def ready : State := powered (fun p => { p with stepsDone := startOrder }) { State.reset with sites := started }
theorem witness_StartUpRunsInOrder_last : (∃ d, nearly.stepsLeft.head? = some (.site d)) ∧ ready.stepsLeft = [] ∧ ready.clocked = true ∧ ready.power.perst0Low = false ∧
    (powered (fun p => { p with perst0Low := true }) State.reset).power.perst0Low = true ∧ (powered (fun p => { p with ref := .lost }) State.reset).clocked = false ∧ up.power.state = .m0 :=
  ⟨⟨17, by decide +kernel⟩, by decide +kernel, by decide +kernel, by decide +kernel, by decide +kernel, by decide +kernel, by decide +kernel⟩
/-- R390: the first step is hank die 0, another one does not run before it. -/
theorem test_startup : sees (.startupStep (.hankDie 0) true) State.reset (fun t => t.power.stepsDone) = some [.hankDie 0] ∧ sees (.startupStep (.hankDie 1) true) State.reset (fun t => t.power.stepsDone) = some [] := by decide +kernel
theorem test_ready : sees .runtimeReady ready (fun t => (t.power.state, t.counting)) = some (.m0, true) ∧ sees .runtimeReady nearly (fun t => t.power.runtimeReady) = some false := by decide +kernel
theorem witness_StartUpRunsInOrder_perst : (∃ k ∈ nearly.power.stepsDone, k ≠ .hankDie 0) ∧ nearly.powered = true ∧ up.power.state ≠ .starting ∧ (∀ k ∈ State.reset.power.stepsDone, k = .hankDie 0) :=
  ⟨⟨.hankDie 1, by decide +kernel, by decide⟩, by decide +kernel, by decide +kernel, by decide +kernel⟩
theorem test_perst : sees .perst0Assert up (fun t => (t.power.state, t.power.perst0Low)) = some (.starting, true) := by decide +kernel

/-- The link of port 3 is down. -/
def unlinked : State := { up with hanks := [(3, { linkUp := false })] }
theorem witness_PortsAndFunctionsReset : State.reset.powered = true ∧ State.reset.answers = false ∧ up.answers = true ∧ (up.hank 3).running = true ∧ (up.hank 3).linkUp = true ∧ (unlinked.hank 3).linkUp = false ∧ unlinked.answers = true ∧ ((ringed ring0).hank 0).linkUp = true ∧ State.reset.power.cold = true ∧ up.hankOpen 0 = true ∧ (ringed ring0).partHeld 0 = true ∧
    (ringed ring0).vfPort 0 = 0 ∧ ((ringed ring0).ring 0 0).active = true := by decide +kernel
theorem witness_PortsAndFunctionsReset_function : (ringed ring0).portUp 0 = true ∧ (ringed ring0).vfPart 0 1 = some 0 ∧ (ringed ring0).answers = true := by decide +kernel
theorem witness_ringed_inv : (ringed ring0).Inv := by unfold State.Inv; decide +kernel
/-- R392: what a link does during a module reset has no effect; R431: the first answer writes the seeds. -/
theorem test_link_in_reset : sees (.portReset (.linkDown 0)) { State.reset with power := { State.reset.power with cold := false } } (fun t => decide (t.power.cold = false)) = some true ∧
    sees (.configurationRequest 3) unlinked (fun t => (t.storeBusy.map (·.answer), (t.hank 3).linkUp)) = some (some none, true) := by decide +kernel
theorem test_configuration : sees (.configurationRequest 3) State.reset (fun t => t.out) = some [.configRetry 3] ∧ sees (.configurationRequest 3) up (fun t => (t.out, (t.hank 3).linkUp)) = some ([.configAnswer 3], true) := by decide +kernel
theorem test_port_reset : sees (.portReset (.linkDown 0)) (ringed ring0) (fun t => ((t.hank 0).linkUp, bit (t.reg (.part 0 (.ringCtrl 0))) 0, (t.ring 0 0).active)) = some (false, false, true) := by decide +kernel
/-- PERST3_N low in start-up holds the link of port 3 until it is high again (R426). -/
theorem test_perst3 : sees (.configurationRequest 3) ((after (.portReset (.perstLow 2)) State.reset).getD up) (fun t => (t.out, (t.hank 3).linkUp)) = some ([], false) ∧
    sees (.configurationRequest 3) (((after (.portReset (.perstLow 2)) up).bind (after (.portReset (.perstHigh 2)))).getD State.reset) (fun t => t.out) = some [.configAnswer 3] := by decide +kernel
theorem witness_PortsAndFunctionsReset_perst : State.reset.perstLow 3 = false ∧ (powered (fun p => { p with perstLow := [3] }) up).perstLow 3 = true := by decide +kernel
theorem test_flr : sees (.vfFlr 0 1) (ringed ring0) (fun t => bit (t.reg (.part 0 (.ringCtrl 0))) 0) = some false := by decide +kernel

/-! ### Management, the store, JTAG -/

theorem witness_ManagementCommandsAnswer : (powered (fun p => { p with state := .m4 }) up).powered = false ∧ State.reset.powered = true ∧ up.powered = true ∧ (up.hank 3).running = true ∧ up.storeBusy = none ∧ up.power.cmd = none ∧ up.power.state = .m0 ∧
    up.m3Refused = false ∧ up.entryFree = true ∧ cored.m3Refused = true := by decide +kernel
theorem witness_ManagementCommandsAnswer_busy : let w : StoreWrite := ⟨.field 0x06 (.cap 300), some 0x41⟩
    let s : State := { up with storeBusy := some w, storeQueue := List.replicate 8 w, partCmd := some { op := 4, part := 0, mgmt := true } }
    s.answers = true ∧ s.storeBusy ≠ none ∧ 8 ≤ s.storeQueue.length ∧ s.partCmd ≠ none ∧ (powered (fun p => { p with cmd := some 1 }) up).power.cmd ≠ none := by decide +kernel
theorem witness_ManagementCommandsAnswer_more : prMapAddr 0 = 0 ∧ prMapCount 0 = ([] : List (BitVec 128)).length ∧ up.partCmd = none ∧ ((up0 tenant0).part 0).state = .active ∧ ((up0 tenant0).part 0).frog = none ∧
    (up.part 0).state = .free ∧ (powered (fun p => { p with state := .m3 }) up).answers = true ∧ (poke [(.glob .rasCmdStatus, 1)] up).answers = true := by decide +kernel
theorem witness_ManagementCommandsAnswer_create : isOk ((up.issueCmd 1 0 true).createCheck (createRecord 0) 0) = true ∧ isOk ((up.issueCmd 1 0 true).createCheck (createRecord (2 ^ 600)) 0) = false := by decide +kernel
theorem witness_ManagementCommandsAnswer_retire : bit ((poke [(.glob .rasCmdStatus, 1)] up).reg (.glob .rasCmdStatus)) 0 = true ∧ bit (up.reg (.glob .rasCmdStatus)) 0 = false ∧
    (up.site 17).state ≠ .active ∧ (up.site 15).state = .active ∧ up.lastDie 15 = false ∧ up.retireQueued 15 = false := by decide +kernel
theorem witness_ManagementCommandsAnswer_lifecycle : (∀ q ∈ up.parts, q.2.state = .free) ∧ up.lifecycle = .deployed ∧ (∃ q ∈ (up0 tenant0).parts, q.2.state ≠ .free) :=
  ⟨by decide +kernel, by decide +kernel, ⟨(0, tenant0), by decide +kernel, by decide +kernel⟩⟩
/-- R327: Deployed to Returned only with every partition free. -/
theorem test_lifecycle : sees (.lifecycle .returned false) up (fun t => (t.lifecycle, t.power.state)) = some (.returned, .starting) ∧
    sees (.lifecycle .returned false) (up0 tenant0) (fun t => (t.lifecycle, t.out)) = some (.deployed, [.mgmt 0x30 0 (some .protect) []]) := by decide +kernel
theorem test_mgmt_cap : sees (.setCap 951 false) up (fun t => t.out) = some [.mgmt 0x10 3 none []] ∧ sees (.setCap 950 true) up (fun t => (t.out, t.storeBusy.isSome)) = some ([], true) := by decide +kernel
/-- R430's M4 column: POWER 0x4 runs in start-up (R389), nothing but the marked commands in M4; the answer of GET_STATE with all dies in use (R373, R386). -/
theorem test_mgmt_before_ready : sees (.power 4) State.reset (fun t => (t.power.state, t.out)) = some (.m4, [.mgmt 0x11 0 (some .done) []]) ∧
    sees (.retire 3) (powered (fun p => { p with state := .m4 }) up) (fun t => t.out) = some [.mgmt 0x21 2 none []] ∧
    sees .getState { up with sites := started } (fun t => t.out) = some [.mgmt 0x01 0 none [2, up.grade, 16 * 2 ^ 16 + 2 * 2 ^ 11, 950 * 2 ^ 22, 0, 5]] := by decide +kernel
/-- A split of 8 + 6 + 3 = 17 is out of range, of 8 + 6 + 2 = 16 it is taken; a store write in progress (R431, R433). -/
def storing (q : List StoreWrite) : State := { up with storeBusy := some ⟨.field 0x08 (.split 10 4 2), some 0x41⟩, storeQueue := q }
theorem witness_StoreAndTestAccess : up.storeRuns = true ∧ up.answers = true ∧ up.portsDown = true ∧ up.storeOk 0x08 (.split 8 6 3) = false ∧ up.storeOk 0x08 (.split 8 6 2) = true ∧ up.storeBusy = none ∧
    (storing []).storeBusy ≠ none ∧ up.imageOk up.store = true := by decide +kernel
theorem witness_StoreAndTestAccess_more : up.imageOk { up.store with cap := 951 } = false ∧ up.storeOk 0x05 (.spares 17 0) = true ∧ up.powered = true ∧
    (powered (fun p => { p with state := .m4 }) up).powered = false ∧ up.lifecycle = .deployed ∧ up.power.state ≠ .m3 ∧ up.busOpen 0 = true := by decide +kernel
theorem witness_StoreAndTestAccess_bus : runtimeBase ≤ (0x17C00000000 : BitVec 41).toNat ∧ (∃ q ∈ (up1 tenantM).usedPages, q.1 ≤ (0x4000000 : BitVec 41).toNat ∧ (0x4000000 : BitVec 41).toNat < q.1 + q.2) :=
  ⟨by decide +kernel, (0x4000000, 0x200000), by decide +kernel, by decide +kernel, by decide +kernel⟩
/-- The answer to Set Endpoint ID; SMB_ALERT_N until the alarm of the entry is read; MEM_CFG follows a store write (R428, R429, R433). -/
theorem test_endpoint : sees (.setEndpointId 9) up (fun t => (t.mgmt.eid, t.out)) = some (9, [.mctp [0, 9]]) ∧
    sees (.alarmRead 0 (BitVec.ofNat 7 (alarmEntry (tileUnit 3)))) (up.reportAlarm (tileUnit 3) (tileUnit 3) 0x08 0) State.smbAlert = some false ∧
    sees .storeWriteDone { up with storeBusy := some ⟨.field 0x07 (.interleave 2), none⟩ } (fun t => bits (t.reg (.glob .memCfg)) 3 2) = some 2 := by decide +kernel
theorem witness_StoreAndTestAccess_done : (up.imageAfter (.field 0x07 (.interleave 2))).flowCal = up.store.flowCal ∧ (up.imageAfter (.field 0x04 (.opaqueField 7))).flowCal ≠ up.store.flowCal := by decide +kernel
theorem test_store : sees .storeWriteDone (storing []) (fun t => (t.store.bwRead, t.store.bwWrite, t.store.bwRemote, t.out)) = some (10, 4, 2, [.mgmt 0x41 0 none []]) := by decide +kernel
theorem test_bus : sees (.systemBusAccess 0x4000000 none) (up1 tenantM) (fun t => t.out) = some [.sbError] ∧ sees (.systemBusAccess 4 (some 0x12345678)) up (fun t => t.readPhys 4 4) = some [0x78, 0x56, 0x34, 0x12] := by decide +kernel
theorem test_jtag : sees (.abstractCommand 2) up (fun t => t.mgmt.cmderr) = some 2 ∧ sees (.tapInstruction .boundaryScan) up (fun t => t.mgmt.tap) = some .bypass := by decide +kernel

/-! ### The public-key engine -/

/-- The operator ring of hank die 0: 16 entries from 0x10000, enabled, with an engine. -/
def engine (x : Pke) : State := pokeAct [(.hank 0 .pkeRingBaseLo, 0x10000), (.hank 0 .pkeRingCfg, 0x80000004)] (poke [(.hank 0 .pkeRingCfg, 0x80000004)] { up with hanks := [(0, { pke := x })] })
/-- VERIFY (0x03) on a loaded curve 3 with slots 32, 33, 34 and a digest of one byte; KEYGEN (0x01), SIGN (0x02), ECDH (0x04), CURVE_LOAD (0x05), WIPE (0x06) of slots 32 to 62, SLOT_LOAD (0x08) and SLOT_STORE (0x09). -/
def entry (op : Nat) : PkeEntry := { raw := BitVec.ofNat 512 (op + 3 * 2 ^ 8 + 32 * 2 ^ 16 + 33 * 2 ^ 24 + 34 * 2 ^ 32 + 35 * 2 ^ 40 + 36 * 2 ^ 48 + 2 ^ 56 + 0x20000 * 2 ^ 64), index := 2 }
def wipe : PkeEntry := { raw := BitVec.ofNat 512 (6 + 2 ^ 11 + 32 * 2 ^ 128 + 62 * 2 ^ 136), index := 15 }
/-- y² = x³ + 2x + 2 modulo 17 with G = (5, 1) of order 19; 7 G = (0, 6), 10 G = (7, 11). -/
def toy : PkeCurve := { p := 17, a := 2, b := 2, n := 19, gx := 5, gy := 1 }
/-- Q = 7 G, the digest byte 0x20 (e = 4), and the signature r = 7, s = 10⁻¹ (4 + 7 · 7) = 11 modulo 19. -/
def slots : Tab PkeSlot := [(32, { value := 6 * 2 ^ 576, valid := true }), (33, { value := 0x20, valid := true }), (34, { value := 7 + 11 * 2 ^ 576, valid := true })]
def unit0 (op : Nat) : PkeRun := { entry := entry op, params := some toy }
def inUnit (op : Nat) : State := engine { active := true, slots := slots, curves := [(3, some toy)], units := [(0, some (unit0 op))] }
theorem witness_PkeRingServesCommands : let s := engine { active := true, tail := 3, head := 2 }
    s.pkeOpen 0 = true ∧ s.portUp 0 = true ∧ s.power.state = .m0 ∧ (s.pke 0).active = true ∧ (s.pke 0).waiting = none ∧ bit (s.reg (.hank 0 .pkeRingCfg)) 31 = true ∧ (s.pke 0).head ≠ (s.pke 0).tail := by decide +kernel
theorem witness_engine_inv : (inUnit 3).Inv := by unfold State.Inv; decide +kernel
theorem witness_PkeRingServesCommands_start : let s := engine { active := true, slots := slots, curves := [(3, some toy)], waiting := some (entry 3) }
    (s.pke 0).waiting = some (entry 3) ∧ s.pkeCheck 0 (entry 3) = none ∧ (entry 3).op ≠ 6 ∧ (s.pke 0).hazard (entry 3) = false ∧ (∀ i ∈ (entry 3).reads, ((s.pke 0).slot i).valid = true) ∧ (s.pke 0).unit 0 = none := by decide +kernel
theorem witness_PkeRingServesCommands_refused : (up.pkeCheck 0 (entry 7) = some 0x10) ∧ up.pkeCheck 0 wipe = none ∧ wipe.op = 6 ∧ ((inUnit 1).pke 0).hazard { entry 2 with index := 3 } = true ∧
    (∃ i ∈ (entry 4).reads, ((up.pke 0).slot i).valid = false) ∧ (engine { curves := [(3, some toy)] }).pkeCheck 0 (entry 4) = none :=
  ⟨by decide +kernel, by decide +kernel, by decide +kernel, by decide +kernel, ⟨32, by decide +kernel, by decide +kernel⟩, by decide +kernel⟩
theorem witness_PkeRingServesCommands_rest : let s := engine { active := true, wipes := [wipe] }
    (s.pke 0).wipes = [wipe] ∧ (s.pke 0).units = [] ∧ s.pkeOpen 0 = true ∧ ((engine { units := [(7, some { unit0 3 with done := true, verdict := true })] }).pke 0).unit 7 = some { unit0 3 with done := true, verdict := true } ∧
    pkeReservedOk (entry 3).num = true ∧ (entry 3).in0 ≠ 63 ∧ 1 ≤ (entry 3).hashLen ∧ (entry 3).hashLen ≤ 64 ∧ (entry 9).in0 ≠ 63 := by decide +kernel
theorem test_pke_check : (inUnit 3).pkeCheck 0 (entry 9) = none ∧ (engine { slots := [(32, { secret := true })] }).pkeCheck 0 (entry 9) = some 0x15 ∧ up.pkeCheck 0 (entry 3) = some 0x53 := by decide +kernel
/-- Word 12 of entry 15 receives CPL (R345). -/
theorem test_wipe : sees (.wipe 0) (engine { active := true, slots := slots, wipes := [wipe] }) (fun t => ((t.pke 0).slots, t.readHost 0 (0x10000 + 64 * 15 + 48) 4)) = some ([], [1, 0, 0, 0]) := by decide +kernel
theorem test_disable_aborts : sees (.pkeRingDisable 0) (inUnit 1) (fun t => (t.readHost 0 (0x10000 + 64 * 2 + 48) 4, (t.pke 0).units.length)) = some ([1, 0, 0x55, 0], 0) := by decide +kernel
theorem witness_PkeOperationsCompute : ((inUnit 3).pke 0).unit 0 = some (unit0 3) ∧ (unit0 3).done = false ∧ ((inUnit 3).pke 0).entropyOk = true ∧ (engine { entropyOk := false, units := [(0, some (unit0 1))] }).pke 0 = { entropyOk := false, units := [(0, some (unit0 1))] } ∧
    (unit0 3).params = some toy ∧ (entry 3).op = 3 := by decide +kernel
theorem witness_PkeOperationsCompute_sign : Nat.Prime toy.n ∧ inputCode toy [{ value := 18 }] [] [] = none ∧ 2 ≤ toy.n ∧ inputCode toy [] [((inUnit 3).pke 0).slot 34] [((inUnit 3).pke 0).slot 32] = none ∧ (inUnit 3).portUp 0 = true :=
  ⟨by unfold toy; norm_num, by decide +kernel, by decide +kernel, by decide +kernel, by decide +kernel⟩
/-- The signature is accepted; with s = 12 it is not. -/
theorem test_verify : sees (.verify 0 0) (inUnit 3) (fun t => ((t.pke 0).unit 0).map (fun r => (r.status, r.verdict, r.done))) = some (some (0, true, true)) ∧
    sees (.verify 0 0) ((inUnit 3).updPke 0 (fun x => x.setSlot 34 { value := 7 + 12 * 2 ^ 576, valid := true })) (fun t => ((t.pke 0).unit 0).map (fun r => (r.status, r.verdict))) = some (some (0, false)) := by decide +kernel
/-- ECDH with d = 10 and Q = G delivers x(10 G) = 7; d = n is out of range (0x51), a point off the curve 0x52. -/
def ecdhOf (d q : Nat) : Option (Option (Nat × List Nat)) :=
  sees (.ecdh 0 0) ((inUnit 4).updPke 0 (fun x => (x.setSlot 32 { value := d, valid := true }).setSlot 33 { value := q, valid := true })) (fun t => ((t.pke 0).unit 0).map (fun r => (r.status, r.writes.map (·.2.value))))
theorem test_ecdh : ecdhOf 10 (5 + 2 ^ 576) = some (some (0, [7])) ∧ ecdhOf 19 (5 + 2 ^ 576) = some (some (0x51, [])) ∧ ecdhOf 10 (5 + 2 * 2 ^ 576) = some (some (0x52, [])) ∧ ecdhOf 0 (5 + 2 ^ 576) = some (some (0x50, [])) := by decide +kernel
/-- P-256 passes the checks of R333 for curves. -/
theorem witness_PkeOperationsCompute_curve : curveOk p256 [2] = true := by decide +kernel

/-! ### SPDM -/

def session (x : Spdm) : State := { up with hanks := [(0, { spdm := x })] }
def opened : Spdm := { version := true, capabilities := true, algorithms := true, session := true, established := true }
theorem witness_SpdmAnswersInOrder : (session opened).spdmOpen 0 = true ∧ ((session opened).spdm 0) = opened ∧ up.attested = true ∧ up.lifecycle ≠ .manufacturing ∧ up.spdm 0 = {} ∧ up.spdmOpen 0 = true := by decide +kernel
theorem witness_session_inv : (session opened).Inv := by unfold State.Inv; decide +kernel
theorem test_spdm : sees (.getCapabilities 0) up (fun t => t.out) = some [.spdm 0 false []] ∧ sees (.getMeasurements 0 4) (session opened) (fun t => t.out) = some [.spdm 0 true [2 * 256 + 1]] ∧
    sees (.getMeasurements 0 6) (session opened) (fun t => t.out) = some [.spdm 0 false []] := by decide +kernel
theorem test_ide : sees (.ideKeyProgram 0 .link 77) (session opened) (fun t => (t.hank 0).ideLink) = some (some 77) ∧ sees (.ideKeyProgram 0 .link 77) up (fun t => (t.hank 0).ideLink) = some none := by decide +kernel

/-! ### Links between modules -/

/-- Port 0 in a phase; the module has number 5, its links are on. -/
def linked (x : QPort) : State := poke [(.glob .qlNode, 0x80FF0005)] { up with ports := [(0, x)], hanks := [(0, { aliasCert := some 1 }), (3, { aliasCert := some 2 })] }
theorem witness_LinksComeUp : ((linked { phase := 1 }).port 0).phase = 1 ∧ ((linked { phase := 2 }).port 0).phase = 2 ∧ (linked { phase := 2 }).moduleId = 5 ∧ (6 : BitVec 11).toNat ≠ 5 ∧ ((linked { phase := 3 }).port 0).phase = 3 ∧
    ((linked { retryWait := true }).port 0).retryWait = true ∧ (linked { retryWait := true }).linkAllowed 0 = true ∧ (linked { phase := 3, work := bringUpOps }).exchangeOk 0 = true ∧ (linked { phase := 4 }).linkWanted 0 = true := by decide +kernel
/-- A MODULE_ID of the store waits for the next bring-up, and a port for its second (R431). -/
def idWaits : State := { linked { retryWait := true } with mgmt := { up.mgmt with idDue := some 9 } }
theorem witness_LinksComeUp_id : (idWaits.port 0).retryWait = true ∧ idWaits.linkAllowed 0 = true ∧ (idWaits.port 0).phase = 0 ∧ idWaits.mgmt.idDue = some 9 ∧
    ¬ (∀ q < 8, ((idWaits.setPort 1 { phase := 4 }).port q).phase = 0) ∧ (idWaits.setPort 1 { phase := 4 }).answers = true := by decide +kernel
theorem test_id_taken : sees (.qlRetryTimer 0) idWaits (fun t => (t.moduleId, (t.port 0).phase, t.mgmt.idDue)) = some (9, 1, none) := by decide +kernel
theorem witness_LinksComeUp_more : (poke [(.glob .qlNode, 0x00FF0005)] (linked { phase := 4 })).linkWanted 0 = false ∧ up.answers = true ∧ (∀ q < 8, (up.port q).phase = 0) ∧ up.lifecycle = .deployed ∧ up.grade ≠ 2 := by decide +kernel
theorem witness_linked_inv : (linked { phase := 4 }).Inv := by unfold State.Inv; decide +kernel
theorem test_training : sees (.qlTrainingDone 0 8) (linked { phase := 1 }) (fun t => (t.port 0).phase) = some 2 ∧ sees (.qlTrainingDone 0 7) (linked { phase := 1 }) (fun t => ((t.port 0).phase, (t.port 0).retryWait)) = some (0, true) := by decide +kernel
theorem test_hello : sees (.qlHello 0 6 .deployed) (linked { phase := 2 }) (fun t => ((t.port 0).phase, (t.port 0).peer)) = some (3, 6) ∧ sees (.qlHello 0 5 .deployed) (linked { phase := 2 }) (fun t => (t.port 0).phase) = some 0 := by decide +kernel
/-- MODULE_ID is taken only while every port is in phase 0 (R412). -/
theorem test_node : sees (.qlNodeWrite 0x80FF0009) (linked { phase := 4 }) (fun t => t.moduleId) = some 5 ∧ sees (.qlNodeWrite 0x80FF0009) (linked {}) (fun t => (t.moduleId, (t.port 7).phase, (t.port 2).phase)) = some (9, 1, 0) ∧
    sees (.qlNodeWrite 0x80FF0009) (linked { retryWait := true }) (fun t => (t.port 0).phase) = some 0 := by decide +kernel
/-- Span 1 of module 5 receives from span 2 of module 6, at 0x1_0000_0000 of partition 0. -/
def spanned (x : QPort) : State := pokeAct [(.glob (.spanCfg 1), 0xC0020006), (.glob (.spanVa 1), 0x10000), (.glob (.spanSize 1), 1)]
  (poke [(.glob .qlNode, 0x80FF0005)] { up1 tenantM with ports := [(0, { x with phase := 4 }), (1, { phase := 4 })], routes := [(7, 9)] })
def frame (ty dest seq offset : Nat) : Frame := { frameTo ty dest 6 2 1 0 offset 0xAABBCCDDEEFF0011 with seq := BitVec.ofNat 16 seq }
theorem witness_FramesAreDelivered : (spanned {}).linkUp 0 = true ∧ (frame 1 5 0 3).seq.toNat = ((spanned {}).port 0).nextExpect ∧
    (spanned {}).spanTakes (frame 1 5 0 1023) 1 = true ∧ (spanned {}).spanTakes (frame 1 5 0 1024) 1 = false ∧ (frame 1 5 0 3).dest.toNat = (spanned {}).moduleId ∧ (spanned {}).route 7 = some 1 := by decide +kernel
theorem witness_FramesAreDelivered_write : (match (spanned {}).xlateWrite 0 (0x100000000 + 64 * 1023) ((leBytes 256 1).take 64) .read with | .ok ps => decide (ps.length = 1) | .error _ => false) = true ∧
    ((spanned {}).span 1).part = 0 ∧ ((spanned {}).span 1).base = 0x100000000 ∧ (spanned {}).commitPending (.span 1) = false ∧ (spanned {}).answers = true := by decide +kernel
theorem witness_spanned_inv : (spanned {}).Inv := by unfold State.Inv; decide +kernel
/-- A frame of each kind that the port opens: it is sealed under the port's incoming key, salt and count. -/
theorem witness_FramesAreDelivered_arrives (ty seq : Nat) : ((spanned {}).port 0).clear (sealFrame (frame ty 5 seq 3) 0 0 0) = some (frame ty 5 seq 3) := by
  have e : (spanned {}).port 0 = { phase := 4 } := by decide +kernel
  rw [e]
  exact clear_sealed { phase := 4 } (frame ty 5 seq 3) rfl (by simp [frame, frameTo])
def kept (n : Nat) : QPort := { nextSend := 4, sent := [{ frame := frame 1 6 2 0, sends := n }, { frame := frame 1 6 3 0, sends := 1 }] }
theorem witness_FramesAreDelivered_control : ((spanned (kept 1)).port 0).sent = { frame := frame 1 6 2 0 } :: [{ frame := frame 1 6 3 0 }] ∧ (1 + 1) % 65536 = (frame 1 6 2 0).seq.toNat ∧
    (∀ y ∈ (kept 7).sent, y.sends < 8) ∧ (∃ y ∈ (kept 8).sent, 8 ≤ y.sends) := ⟨by decide +kernel, by decide +kernel, by decide +kernel, ⟨_, List.mem_cons_self .., by decide +kernel⟩⟩
/-- The frame that makes 2^40 under one key, a probe here, begins a rekey (R412). -/
theorem witness_FramesAreDelivered_rekey : (spanned { framesOut := 2 ^ 40 - 1 }).linkUp 0 = true ∧ 2 ^ 40 ≤ ((spanned { framesOut := 2 ^ 40 - 1 }).port 0).framesOut + 1 ∧
    ((spanned { framesOut := 2 ^ 40 - 1 }).port 0).rekey = false ∧ ((spanned (kept 1)).port 0).framesOut + ((spanned (kept 1)).port 0).sent.length < 2 ^ 40 := by decide +kernel
theorem witness_FramesAreDelivered_bad : let x : QPort := { tagFailAt := List.replicate 15 0 }
    (spanned x).linkUp 0 = true ∧ 15 ≤ (((spanned x).port 0).tagFailAt.filter (fun t => decide (((spanned x).clock.toNat : Int) - t < 1200000000))).length ∧ (spanned { rekey := true }).linkUp 0 = true ∧
    ((spanned {}).port 0).clear { frame 1 5 0 3 with fecOk := false } = none ∧ 2 ^ 40 ≤ ((spanned { framesOut := 2 ^ 40 - 1 }).port 0).framesOut + 1 := by decide +kernel
/-- A frame of another epoch is a bad one, though its FEC is good. -/
theorem witness_FramesAreDelivered_epoch : ((spanned {}).port 0).clear { frame 1 5 0 3 with epoch := 1 } = none := by
  have e : (spanned {}).port 0 = { phase := 4 } := by decide +kernel
  rw [e]
  simp [QPort.clear, QPort.epochOk, frame, frameTo]
theorem test_data : ((spanned {}).deliverData 0 (frame 1 5 0 1023)).readPhys (0x4000000 + 64 * 1023) 2 = [0x11, 0x00] ∧ (spanned {}).readPhys (0x4000000 + 64 * 1023) 2 = [0, 0] := by decide +kernel
/-- A frame for module 7 goes on through port 1 with HOPS 14 (R413). -/
theorem test_forward : ((spanned {}).forward 0 (frame 1 7 0 3)).out.map (fun o => match o with | .frame q f _ => (q, f.hops.toNat, f.dest.toNat) | _ => (9, 9, 9)) = [(1, 14, 7)] := by decide +kernel
/-- A NAK of frame 2 resends 2 and 3; the eighth unanswered send is the last (R411). -/
theorem test_nak : (((spanned (kept 7)).resend 0).port 0).sent.map (·.sends) = [8, 2] ∧ (((spanned (kept 7)).resend 0).port 0).phase = 4 ∧
    (((spanned (kept 8)).resend 0).port 0).phase = 0 ∧ (((spanned (kept 1)).acked 0 2).port 0).sent.length = 1 := by decide +kernel
/-- A frame whose FEC fails is answered with a NAK of the next frame that is expected (R411). -/
theorem test_bad : sees (.dataFrame 0 { frame 1 5 0 3 with fecOk := false }) (spanned {}) (fun t => (t.out.map (fun o => match o with | .frame q f _ => (q, f.ty.toNat, f.offset.toNat, f.ack.toNat) | _ => (9, 9, 9, 9)), (t.port 0).nextExpect)) =
    some ([(0, 4, 1, 65535)], 0) := by decide +kernel
theorem test_rekey : sees (.qlRekeyComplete 0 true) (spanned { rekey := true }) (fun t => ((t.port 0).epochOut, (t.port 0).bothKeys)) = some (true, true) := by decide +kernel
theorem test_signal : ((spanned {}).deliverSignal 0 { frame 2 5 0 3 with payload := BitVec.ofNat 2048 (0x42 + 7 * 2 ^ 64) }).readPhys (0x4000000 + 64 * 3 + 56) 2 = [0x42, 0] := by decide +kernel

/-! ### Witnesses of further clauses -/

/-- A running CUSTOM op that a hook has stopped, and one whose stream can go on. -/
def stopped (resting : Bool) : State := { hooked (if resting then 0x20000 else 0x10000) { tenant0 with hookOp := some (0, 0) } with
  jobs := [{ id := 0, part := 0, ring := 0, sqIndex := 0, entry := 65536, killed := !resting, ops := [{ customOp .running with halted := true }] }]
  tiles := [(0, { op := some (0, 0), posts := if resting then [] else [{ tile := 0, pair := 0, free := false, amount := 1, markers := false }] })] }
theorem witness_HookHaltsAndResumes_op : bits ((stopped true).reg (.part 0 .hookStatus)) 17 16 = 2 ∧ (stopped true).viewOpen .core 0 = true ∧ ((stopped true).part 0).hookOp = some (0, 0) ∧
    (stopped true).atRest (fun j => decide (j.part = 0)) = true ∧ (stopped false).atRest (fun j => decide (j.part = 0)) = false := by decide +kernel
theorem test_hook_resumed : sees (.hookResume .core 0) (stopped true) (fun t => (t.op? o0).map (fun x => (x.2.resumed, x.2.halted))) = some (some (true, false)) := by decide +kernel
/-- Under an op of row ADD the scratchpad reads as a free value; without one, or under a CUSTOM op, as it stands. -/
theorem witness_InspectionAndCounterReads_more : (inspecting 3).opaqueTile 0 = false ∧
    State.opaqueTile { inspecting 3 with jobs := (ranAt 0 [] 0).jobs, tiles := (ranAt 0 [] 0).tiles } 0 = true ∧ 0x8000 ≤ 0x8011 ∧ 0x8011 < 0x8012 ∧ (1048575 : Nat) < 1048576 ∧
    bits ((poke [(.part 0 .inspSel, 0x03000000)] (inspecting 95)).reg (.part 0 .inspSel)) 26 24 = 3 ∧ bits ((poke [(.part 0 .inspSel, 0x01000000)] (inspecting 3145727)).reg (.part 0 .inspSel)) 26 24 = 1 := by decide +kernel
theorem witness_CoreAtomicComputes_home : (cored.site (cored.homeOf 0 0x4000044)).works = true ∧
    (({ cored with sites := [(0, { lost := true })] } : State).site (cored.homeOf 0 0x4000044)).works = false := by decide +kernel
theorem witness_SbiCallsAnswer_wake : let h : Hart := { phys := some 2, state := .suspended, softPending := true }
    h.state = .suspended ∧ (h.timerPending || h.softPending || h.extPending) = true ∧ h.resume = none ∧ ({ h with resume := some (4, 5) } : Hart).resume = some (4, 5) ∧
    (running.state ≠ .suspended) := by decide +kernel
/-- A retentive suspension ends at once while an interrupt is pending; without one the hart is suspended (R318). -/
theorem test_suspend : sees (.sbiHsm 0 0 (.suspend 0 0 0)) cored (fun t => (t.hart? 0 0).map (·.state)) = some (some .suspended) ∧
    sees (.sbiHsm 0 0 (.suspend 0 0 0)) (cored.updHart 0 0 (fun h => { h with extPending := true })) (fun t => (t.hart? 0 0).map (·.state)) = some (some .running) := by decide +kernel
/-- The jobs of a job frog at rest, and not. -/
def frogging (resting : Bool) : State := { stopped resting with parts := [(0, { tenant0 with frog := some { whole := false, jobs := [0] } })] }
theorem witness_FrogScrubsInOrder_rest : ((frogging true).part 0).frog = some { whole := false, jobs := [0] } ∧ (frogging true).atRest (fun j => [0].contains j.id) = true ∧
    (frogging false).atRest (fun j => [0].contains j.id) = false ∧ (frogging true).power.state = .m0 := by decide +kernel
theorem witness_frogging_inv : (frogging true).Inv ∧ (frogging false).Inv := by unfold State.Inv; decide +kernel
/-- A second execution of an ADD whose first one had completed with another digest in rank 0, and a fifth one. -/
def differing (replays : Nat) : State := { ranAt 0 [] 0 with
  jobs := [{ id := 0, part := 0, ring := 0, sqIndex := 0, entry := 65536, ops := [{ ranOp 0 with replays := replays, past := [[(0, 1)]] }] }] }
theorem witness_OpBindsOff_compared : ofOp (differing 4) (fun j r => (differing 4).bindable j r && decide (r.past ≠ []) && !(differing 4).agrees o0 r && decide (4 ≤ r.replays)) = true ∧
    ofOp (differing 1) (fun j r => (differing 1).bindable j r && decide (r.past ≠ []) && !(differing 1).agrees o0 r && decide (r.replays < 4)) = true := by decide +kernel
/-- The fifth execution without an agreeing pair holds the op and sets SERVICE (R361). -/
theorem test_digest_hold : sees (.opBindOff o0) (differing 4) (fun t => ((t.op? o0).map (fun x => (x.2.held, x.2.phase)), t.service)) = some (some (true, .ran), true) := by decide +kernel
theorem witness_PostsAndSlotsComplete_works : (posting 1).effectsRun 0 = true ∧ (stopped true).effectsRun 0 = false ∧ ((posting 1).site (siteOf 0)).works = true ∧ (spilling.feedSeat? 0 3) = some (seat 0) ∧
    (let s := streamed 5 0 (word 0 0 0) { stall := .sem, wait := some (0, true, 1) } {}; s.power.ref ≠ .stopped ∧ s.power.state = .m0) := by decide +kernel
theorem witness_ResidueMismatchReplays_tile : ((ranAt 0 [] 0).tile 0).op = some (o0.job, o0.op) := by decide +kernel
/-- A timeout of a discarded execution that can still arrive; a die cache whose column can give a line again, and not. -/
theorem witness_SuspectsAreRecorded_more : ofOp (ranAt 0 [] 0) (fun _ r => !r.stale.contains 0) = true ∧
    (({ ranOp 0 with stale := [0, 1] } : OpRec).stale.contains (0 : Fin 576).val = true) ∧ (up.site 0).works = true ∧ up.lineBad 7 = false ∧
    ({ up with memBad := [(7, true)] } : State).lineBad 7 = true := by decide +kernel
/-- R354: 16 timeouts of one execution are 16 reports and one replay. -/
theorem test_stale_timeout : sees (.transactionTimeout o0 1 ⟨2, 5⟩ 0) ((after (.transactionTimeout o0 0 ⟨2, 5⟩ 0) (ranAt 0 [] 0)).getD up) (fun t => ((t.op? o0).map (fun x => x.2.replays), (t.site 5).probe)) =
    some (some 1, true) := by decide +kernel
/-- R215: corrected on-die errors are counted. -/
theorem test_corrected : sees (.ondieUncorrectable (.corrected 4 3)) up (fun t => ((t.site 4).corrected, (t.site 5).corrected)) = some (3, 0) := by decide +kernel
/-- The system bus gives no data of an uncorrectable line (R397). -/
theorem test_bus_bad : sees (.systemBusAccess 0x1C0 none) { up with memBad := [(7, true)] } (fun t => (t.out, decide (t.mgmt.sberr = 0))) = some ([.sbError], false) := by decide +kernel
/-- Operations of the runtime: one that waits, and one in a unit. -/
def exchanging (idle : List Nat) (r : Option PkeRun) (x : Pke) : State := { engine (match r with
  | some r => { x with units := [(0, some r)] }
  | none => x) with ports := [(0, { phase := 3, exchange := 6, work := [1, 2], idle := idle })] }
def exchangeRun : PkeRun := { entry := runtimeEntry 1, params := some p384, port := some (0, 6), done := true }
theorem witness_PkeRingServesCommands_runtime : ((exchanging [1, 2] none {}).port (2 * (0 : Fin 4).val)).idle = [1, 2] ∧ ((exchanging [1, 2] none {}).pke 0).freeUnit = some 0 ∧
    ((exchanging [] (some exchangeRun) {}).pke 0).unit 0 = some exchangeRun ∧ exchangeRun.port = some (0, 6) ∧ ((exchanging [] (some exchangeRun) {}).port 0).exchange = 6 ∧
    exchangeRun.entry.op ∈ ((exchanging [] (some exchangeRun) {}).port 0).work ∧ exchangeRun.status = 0 ∧ ((inUnit 3).port 0).idle = [] ∧ ((inUnit 3).port 1).idle = [] := by decide +kernel
theorem witness_exchanging_inv : (exchanging [1, 2] none { active := true }).Inv ∧ (exchanging [] (some exchangeRun) {}).Inv := by unfold State.Inv; decide +kernel
/-- The runtime's operation takes the unit ahead of the operator's, which takes the next (R350). -/
theorem test_runtime_first : sees (.pkeCommandStart 0) (exchanging [1] none { active := true, slots := slots, curves := [(3, some toy)], waiting := some (entry 3) })
    (fun t => (((t.pke 0).unit 0).map (·.port), ((t.pke 0).unit 1).map (·.port))) = some (some (some (0, 6)), some none) := by decide +kernel
theorem test_exchange_op : sees (.pkeOpComplete 0 0 false) (exchanging [] (some exchangeRun) {}) (fun t => ((t.port 0).work, (t.port 0).phase)) = some ([2], 3) ∧
    sees (.pkeOpComplete 0 0 true) (exchanging [] (some exchangeRun) {}) (fun t => ((t.port 0).phase, (t.port 0).retryWait)) = some (0, true) := by decide +kernel
theorem witness_PkeOperationsCompute_runtime : let r : PkeRun := { exchangeRun with done := false }
    ((exchanging [] (some r) {}).pke 0).unit 0 = some r ∧ r.port ≠ none ∧ ((exchanging [] (some r) {}).pke 0).entropyOk = true ∧ r.entry.op = 1 ∧ (unit0 3).port = none := by decide +kernel
theorem witness_PkeRingServesCommands_codes : (entry 5).in0 ≠ 63 ∧ (entry 5).in1 ≠ 63 ∧ (entry 5).in2 ≠ 63 ∧ wipe.first ≠ 63 ∧ wipe.last ≠ 63 ∧ wipe.first ≤ wipe.last ∧ pkeReservedOk wipe.num = true := by decide +kernel
/-- R346 step 4: SLOT_STORE with an empty curve id is refused as well. -/
theorem test_pke_no_curve : up.pkeCheck 0 (entry 9) = some 0x53 ∧ up.pkeCheck 0 (entry 5) = none := by decide +kernel
def certified (x : Spdm) (entropy : Bool) : State := { up with hanks := [(0, { spdm := x, aliasCert := some 9, pke := { entropyOk := entropy } })] }
theorem witness_SpdmAnswersInOrder_chain : (certified opened true).hasChain 0 = true ∧ (certified opened true).canSign 0 = true ∧ (certified opened false).canSign 0 = false ∧ (session opened).hasChain 0 = false := by decide +kernel
/-- Without entropy there is no signature, but there are certificates (R339). -/
theorem test_challenge : sees (.challenge 0) (certified opened false) (fun t => t.out) = some [.spdm 0 false []] ∧ sees (.keyExchange 0) (certified opened true) (fun t => (t.spdm 0).established) = some false := by decide +kernel
theorem witness_LinksComeUp_securing : (linked { phase := 3, work := [2] }).exchangeOk 0 = true ∧
    (State.exchangeOk ((linked { phase := 3, work := [2] }).updPke 0 (fun x => { x with entropyOk := false })) 0) = false := by decide +kernel
theorem test_securing : sees (.qlSecureDone 0) (linked { phase := 3, work := [2], peer := 6 }) (fun t => ((t.port 0).phase, (t.port 0).peer, (t.port 0).work)) = some (4, 6, []) ∧
    sees (.qlSecureDone 0) ((linked { phase := 3, work := [2] }).updPke 0 (fun x => { x with entropyOk := false })) (fun t => (t.port 0).phase) = some 0 := by decide +kernel
/-- Port 1 with 512 frames that are not acknowledged, and one with waiting frames of two spans and a forwarded one. -/
def crowded : State := { spanned {} with ports := [(0, { phase := 4 }), (1, { phase := 4, sent := List.replicate 512 { frame := frame 1 6 2 0 } })] }
theorem witness_FramesAreDelivered_forward : ((spanned {}).port 1).calm = true ∧ ((spanned {}).port 1).sent.length < 512 ∧ crowded.route 7 = some 1 ∧ 512 ≤ (crowded.port 1).sent.length ∧
    ((spanned {}).port 0).through = [] := by decide +kernel
theorem test_forward_waits : ((crowded.forward 0 (frame 1 7 0 3)).port 1).through.map (·.hops) = [14] ∧ (crowded.forward 0 (frame 1 7 0 3)).out = [] := by decide +kernel
/-- R418: forwarded and local frames in alternation, and the spans of the local ones in turn. -/
theorem test_turns : let x : QPort := { through := [frame 1 7 0 0], queue := [frame 1 6 0 0, { frame 1 6 0 1 with srcSpan := 1 }], lastSpan := 1 }
    (x.serve.map (fun f => f.1.srcSpan) = some 2 ∧ (x.serve.bind (fun f => f.2.serve)).map (fun f => f.1.dest) = some 7 ∧
     ((x.serve.bind (fun f => f.2.serve)).bind (fun f => f.2.serve)).map (fun f => f.1.srcSpan) = some 1) := by decide +kernel
/-- AES-256 of FIPS 197, appendix C.3. -/
theorem test_aes : aesBlock 0x000102030405060708090a0b0c0d0e0f101112131415161718191a1b1c1d1e1f 0x00112233445566778899aabbccddeeff = 0x8ea2b7ca516745bfeafc49904b496089 := by decide +kernel

/-! ### The whole machine -/

theorem witness_StepKeepsInv : ({ up with pending := [.runtimeReady] } : State).Inv ∧ (match step { up with pending := [.runtimeReady] } with | .next t => decide (t.pending = []) | _ => false) = true := by
  refine ⟨?_, by decide +kernel⟩; unfold State.Inv; decide +kernel

/-- R10: a read that is not of 4 aligned bytes returns all ones; R328: so does the security window while the lifecycle state closes it; R442: MODULE_INFO shows Deployed and grade 1. -/
theorem test_reads : (up.regRead (.pf 0) 0 2).1 = 0xFFFFFFFF ∧ (up.regRead (.pf 0) 2 4).1 = 0xFFFFFFFF ∧ up.securityRead false 0 = 0xFFFFFFFF ∧
    (State.securityRead { up with lifecycle := .returned } false 0x10000) = 0 ∧ (up.regRead (.pf 0) (Reg.glob .moduleInfo).addr 4).1 = 0x801 := by decide +kernel

/-! ### Well-formedness -/

/-- What each check refuses: a tile named twice; 3 bytes; hart 96; a load and a store of 16 bytes; lines past the end of each memory; units past the end and of a reserved kind; 6 coefficients; a tenth transmission; measurement 256; a ninth lane. -/
theorem test_ill_formed : [Instr.opReady o0 [3, 4, 3], .registerWrite (.pf 0) 0 3 0, .broadcastWrite .runtime 0 5 0, .coreMemoryAccess 0 96 .fetch 0, .coreMemoryAccess 0 0 (.load 16) 0, .coreMemoryAccess 0 0 (.store 0 0) 0,
    .coreAtomic 0 96 .swap true 0 0 0, .coreLoadReserved 0 96 true 0, .coreStoreConditional 0 96 true 0 0, .sbiBase 0 96 0 0, .sbiTimer 0 96 0, .sbiIpi 0 96 0 0, .sbiRfence 0 96 0 0 0, .sbiHsm 0 96 .stop,
    .sbiSystemReset 0 96 0, .vsTimerInterrupt 0 96].all (fun c => !c.wellFormed) = true := by decide +kernel
theorem test_ill_formed_units : [Instr.ondieUncorrectable (.dieCache 0 25769803776), .ondieUncorrectable (.scratchpad 0 65536 o0), .ondieUncorrectable (.reservoir 0 196608 o0), .ondieUncorrectable (.stashOfEarlierCopy 0 196608 o0),
    .transactionTimeout o0 0 ⟨1, 576⟩ 0, .flitCrcError ⟨3, 160⟩ ⟨3, 0⟩ 0 1, .flitCrcError ⟨3, 0⟩ ⟨12, 0⟩ 0 1, .flitCrcError ⟨3, 0⟩ ⟨3, 1⟩ 0 10, .logWindowClose 0 ⟨2, 18⟩ 0, .pllLossOfLock ⟨0, 0⟩, .storeWrite 9 (.coefficients [1, 2, 3, 4, 5, 6]),
    .getMeasurements 0 256, .qlTrainingDone 0 9].all (fun c => !c.wellFormed) = true := by decide +kernel
theorem test_well_formed : [Instr.opReady o0 [], .opReady o0 [3, 4], .registerWrite (.pf 0) 0 8 0, .coreMemoryAccess 0 95 (.store 8 0) 0, .ondieUncorrectable (.dieCache 17 25769803775), .flitCrcError ⟨3, 159⟩ ⟨11, 7⟩ 0 9, .getMeasurements 0 255,
    .qlTrainingDone 0 8, .storeWrite 9 (.coefficients [1, 2, 3, 4, 5, 6, 7])].all Instr.wellFormed = true := by decide +kernel
/-- No row of the table has bits: no word spells a command. -/
theorem test_no_words : decodeTableWord 8 0 = none ∧ up.withFetchWord 8 0 = up := by decide +kernel

end Sys2Proof.Tests
end

section
/-! SUPPORT. Register writes: the map finds a register at its offset, a written value bit by bit under the field types, and the writes that are discarded (R10, R11). -/
namespace Sys2Proof.Machine

/-! ### The register map -/

/-- The layout of a virtual function finds a partition register at its offset (R438, R447, R448), which is aligned (R10). -/
theorem vfPlace_off (r : PReg) : vfPlace r.off = .reg r ∧ r.off % 4 = 0 ∧ r.off < 0x10000 := by
  cases r with
  | dbSq n | dbCq n | ringSqBaseLo n | ringSqBaseHi n | ringCqBaseLo n | ringCqBaseHi n | ringCfg n | ringCtrl n | ringPtr n | ringStatus n
  | ringIrq n | ringCntSel n | hook n | smpSel n | swatchCfg n | swatchSeq n | swatchD0 n | swatchD1 n | swatchD2 n | swatchD3 n | swatchKey n =>
    revert n; decide +kernel
  | _ => decide +kernel

theorem pfBlock_ptRoot (p : Fin 64) : pfBlock (GReg.off (.ptRoot p)) = .glob (GReg.off (.ptRoot p)) ∧ GReg.ofOff (GReg.off (.ptRoot p)) = some (.ptRoot p) := by
  revert p; decide +kernel

/-! ### The field types (R11) -/

/-- A field names a bit. -/
def RegField.names (f : RegField) (i : Nat) : Bool := decide (f.lo ≤ i ∧ i ≤ f.hi)

/-- No bit has two types: every field ends where it begins or above, and no two share a bit. -/
def fieldsApart : List RegField → Bool
  | [] => true
  | f :: rest => decide (f.lo ≤ f.hi) && rest.all (fun g => decide (f.hi < g.lo ∨ g.hi < f.lo)) && fieldsApart rest

/-- No bit of a partition register has two types. -/
theorem fieldsApart_preg (r : PReg) : fieldsApart r.fields = true := by cases r <;> rfl

theorem getLsbD_mask {f : RegField} (h : f.lo ≤ f.hi) {i : Nat} (hi : i < 32) : f.mask.getLsbD i = f.names i := by
  have e : 2 ^ (f.hi + 1) - 2 ^ f.lo = 2 ^ f.lo * (2 ^ (f.hi + 1 - f.lo) - 1) := by
    rw [Nat.mul_sub, ← Nat.pow_add, Nat.mul_one]; congr 2; omega
  rw [RegField.mask, BitVec.getLsbD_ofNat, e, Nat.testBit_two_pow_mul, Nat.testBit_two_pow_sub_one]
  simp only [RegField.names, Bool.decide_and, hi]
  by_cases h1 : f.lo ≤ i <;> simp [h1]
  omega

/-- The mask of a type over some fields, added to what is there. -/
theorem getLsbD_foldl_mask {fs : List RegField} (h : fieldsApart fs = true) (ty : RegTy) (m : Word32) {i : Nat} (hi : i < 32) :
    ((fs.filter (fun f => f.ty = ty)).foldl (fun m f => m ||| f.mask) m).getLsbD i =
      (m.getLsbD i || fs.any (fun f => decide (f.ty = ty) && f.names i)) := by
  induction fs generalizing m with
  | nil => simp
  | cons f rest ih =>
    simp only [fieldsApart, Bool.and_eq_true, decide_eq_true_eq] at h
    obtain ⟨⟨hf, -⟩, hr⟩ := h
    by_cases ht : f.ty = ty
    · simp [ht, ih hr, getLsbD_mask hf hi, Bool.or_assoc]
    · simp [ht, ih hr]

/-- Where no bit has two types, some field of a type names a bit exactly when that is the bit's type. -/
theorem any_names_iff {fs : List RegField} (h : fieldsApart fs = true) (ty : RegTy) (i : Nat) :
    fs.any (fun f => decide (f.ty = ty) && f.names i) = decide ((fs.find? (fun f => f.names i)).map (·.ty) = some ty) := by
  induction fs with
  | nil => simp
  | cons f rest ih =>
    simp only [fieldsApart, Bool.and_eq_true, decide_eq_true_eq, List.all_eq_true] at h
    obtain ⟨⟨-, ha⟩, hr⟩ := h
    by_cases hn : f.names i = true
    · have other : rest.any (fun f => decide (f.ty = ty) && f.names i) = false := by
        simp only [List.any_eq_false, Bool.and_eq_true, not_and]
        intro g hg _ hgn
        simp only [RegField.names, decide_eq_true_eq] at hn hgn
        have := ha g hg
        omega
      simp [hn, other]
    · simp [hn, ih hr]

/-- The mask of a type marks the bits of that type. -/
theorem getLsbD_regMask {r : Reg} (h : fieldsApart r.fields = true) (ty : RegTy) {i : Nat} (hi : i < 32) :
    (r.mask ty).getLsbD i = decide (bitTy r i = some ty) := by
  rw [Reg.mask, getLsbD_foldl_mask h ty 0 hi, any_names_iff h]
  simp [bitTy, RegField.names]

/-- A written value, bit by bit. -/
theorem getLsbD_written {r : Reg} (h : fieldsApart r.fields = true) (old v : Word32) {i : Nat} (hi : i < 32) :
    (r.written old v).getLsbD i = (match bitTy r i with
      | some .rw | some .rws => v.getLsbD i
      | some .w1c => old.getLsbD i && !v.getLsbD i
      | _ => old.getLsbD i) := by
  simp only [Reg.written, BitVec.getLsbD_and, BitVec.getLsbD_or, BitVec.getLsbD_not, getLsbD_regMask h _ hi, hi]
  cases bitTy r i with
  | none => simp
  | some ty => cases ty <;> simp

/-! ### Writes -/

/-- A write of 4 aligned bytes by a virtual function goes to its partition's register (R438). -/
theorem exec_registerWrite_vf {h : Fin 4} {i : Fin 16} {p : Fin 64} {s : State} (ho : s.reqOpen (.vf h i) = true) (hp : s.vfPart h i = some p.val)
    (r : PReg) (v : BitVec 32) : exec (.registerWrite (.vf h i) (BitVec.ofNat 32 r.off) 4 v) s = .next (s.partWrite p r v) := by
  obtain ⟨place, aligned, small⟩ := vfPlace_off r
  have e : (BitVec.ofNat 32 r.off).toNat = r.off := by rw [BitVec.toNat_ofNat]; omega
  show execRegisterWrite _ _ _ _ s = _
  simp [execRegisterWrite, State.regWrite, ho, e, aligned, State.vfWrite, hp, place]

/-- A register without a rule of its own takes a write by its field types alone. -/
theorem partWrite_of_ownRule {r : PReg} (h : ownRule r = false) (s : State) (p : Fin 64) (v : Word32) : s.partWrite p r v = s.plainWrite (.part p r) v := by
  cases r with
  | dbSq n | dbCq n | ringCfg n | ringCtrl n | frogCtrl | coreCtrl | hookStatus | inspSel | smpCfg | smpBaseLo | smpBaseHi | smpSel n | swatchKey n
  | ctHandleCount | ctNoiseGuard | ctScaleTol | ctlCommit | mtAddr | mtData | mtCommit | rbCount | keyDirCount => cases h
  | _ => rfl

/-- Settles O12. The write reaches the register, no rule of its own applies, and the masks of the field types mark each bit's type. -/
theorem registerWriteFollowsTypes : Obligations.RegisterWriteFollowsTypes := by
  unfold Obligations.RegisterWriteFollowsTypes
  intro h i p r v s ho hp hr
  refine ⟨(Reg.part p r).written (s.reg (.part p r)) v, ?_, fun b hb => ?_⟩
  · rw [exec_registerWrite_vf ho hp, partWrite_of_ownRule hr]; rfl
  · exact getLsbD_written (r := .part p r) (fieldsApart_preg r) _ v hb

/-- A write of another width or at an unaligned offset is discarded (R10). -/
theorem regWrite_of_unaligned {o n : Nat} (h : n ≠ 4 ∨ o % 4 ≠ 0) (q : Requester) (v : Word32) (s : State) : s.regWrite q o n v = s := by
  unfold State.regWrite
  rw [if_pos]
  simp only [Bool.or_eq_true, decide_eq_true_eq]
  tauto

/-- A virtual function that no partition is bound to reaches nothing. -/
theorem vfWrite_of_unbound {h : Fin 4} {i : Fin 16} {s : State} (hp : s.vfPart h i = none) (o : Nat) (v : Word32) : s.vfWrite h i o v = s := by
  rw [State.vfWrite, hp]

/-- The roots of the translation tables are written by the runtime alone (R441). -/
theorem pfWrite_ptRoot (h : Fin 4) (p : Fin 64) (v : Word32) (s : State) : s.pfWrite h false (GReg.off (.ptRoot p)) v = s := by
  obtain ⟨block, found⟩ := pfBlock_ptRoot p
  simp [State.pfWrite, block, found]

/-- MEM_CFG has no field of another type than RW but INTERLEAVE_ACTIVE (R227). -/
theorem written_memCfg (old v : Word32) : (Reg.glob .memCfg).written old v = (old &&& 0xFFFFFFF0#32) ||| (v &&& 0xF#32) := by
  have rw : (Reg.glob .memCfg).mask .rw ||| (Reg.glob .memCfg).mask .rws = 0xF#32 := by decide
  have w1c : (Reg.glob .memCfg).mask .w1c = 0#32 := by decide
  simp only [Reg.written, rw, w1c, BitVec.and_zero]
  exact BitVec.and_allOnes

/-- Settles O13. Every write passes the check of width and offset first; MEM_CFG has its masks and its reserved codes written out. -/
theorem registerWriteDiscards : Obligations.RegisterWriteDiscards := by
  unfold Obligations.RegisterWriteDiscards
  refine ⟨⟨fun q o v n s h => congrArg _ (regWrite_of_unaligned h q v s), fun h i o v s hp => ?_, fun h p v s => ?_⟩, fun v s ha => ?_⟩
  · show Host.Outcome.next (s.regWrite _ _ _ _) = _
    unfold State.regWrite
    split
    · rfl
    · exact congrArg _ (vfWrite_of_unbound hp _ v)
  · have e : (BitVec.ofNat 32 (GReg.off (.ptRoot p))).toNat = GReg.off (.ptRoot p) := by
      rw [BitVec.toNat_ofNat]; simp only [GReg.off]; omega
    show Host.Outcome.next (s.regWrite _ _ _ _) = _
    rw [e]
    unfold State.regWrite
    split
    · rfl
    · exact congrArg _ (pfWrite_ptRoot h p v s)
  · have code (lo : Nat) : bits v (lo + 1) lo = 3 ↔ v.extractLsb' lo 2 = 3 := by
      have width : lo + 1 + 1 - lo = 2 := by omega
      rw [← BitVec.toNat_inj, BitVec.extractLsb'_toNat, Nat.shiftRight_eq_div_pow, bits, width]
      rfl
    have patrol : bits v 1 0 = 3 ↔ v.extractLsb' 0 2 = 3 := code 0
    have interleave : bits v 3 2 = 3 ↔ v.extractLsb' 2 2 = 3 := code 2
    show execMemCfgWrite v s = _
    rw [execMemCfgWrite, if_pos ha, State.memCfgWrite, State.plainWrite, written_memCfg]
    simp only [patrol, interleave]
    split <;> rfl

end Sys2Proof.Machine
end

section
/-! SUPPORT. Cast-on commits: what the write that starts one does, and what each group does at its quiescent point (R78, R449, R252, R189, R205, R415, R343). -/
namespace Sys2Proof.Machine

theorem stick_tableCommitRefused (s : State) (p : Nat) : s.stick p .tableCommitRefused = s.setField (pr p .partSticky) 16 16 1 := rfl
theorem malformed_eq (s : State) (p : Nat) : s.malformed p = s.setField (pr p .partSticky) 0 0 1 := rfl
theorem stickOpt_tableCommitRefused (s : State) (p : Option Nat) :
    s.stickOpt p .tableCommitRefused = (match p with | some p => s.setField (pr p .partSticky) 16 16 1 | none => s) := by
  cases p <;> rfl

/-- A CTL_COMMIT bit, with the register that says that it came too early. -/
theorem ctlStart_eq (s : State) (p : Fin 64) (g : Group) (rs : List Reg) :
    s.ctlStart p g rs = if s.commitPending g then s.setField (.part p .partSticky) 0 0 1 else s.startCommit g rs := by
  rw [State.ctlStart, malformed_eq, pr_val]

theorem exec_ctlCommitHandle {v : View} {p : Fin 64} {s : State} (h : s.viewOpen v p = true) :
    exec (.ctlCommitHandle v p) s = .next (s.ctlStart p (.handle p) (handleGroup p)) := by
  show execCtlCommitHandle v p s = _
  rw [execCtlCommitHandle, if_pos h]

theorem exec_ctlCommitKeyDir {v : View} {p : Fin 64} {s : State} (h : s.viewOpen v p = true) :
    exec (.ctlCommitKeyDir v p) s = .next (s.ctlStart p (.keyDir p) (keyDirGroup p)) := by
  show execCtlCommitKeyDir v p s = _
  rw [execCtlCommitKeyDir, if_pos h]

theorem exec_ctlCommitBundle {v : View} {p : Fin 64} {s : State} (h : s.viewOpen v p = true) :
    exec (.ctlCommitBundle v p) s = .next (s.ctlStart p (.bundle p) (bundleGroup p)) := by
  show execCtlCommitBundle v p s = _
  rw [execCtlCommitBundle, if_pos h]

theorem exec_qtabCommit {t : Fin 576} {s : State} (h : s.tileOpen t = true) (hp : s.commitPending (.qtab t) = false) :
    exec (.qtabCommit t) s = .next (s.startCommit (.qtab t) (qtabRegs t)) := by
  show execQtabCommit t s = _
  simp [execQtabCommit, h, State.qtabCommit, hp]

theorem exec_bwCommit {d : Fin 18} {s : State} (h : s.dieOpen d = true) (hp : s.commitPending (.bw d) = false) :
    exec (.bwCommit d) s = .next (s.startCommit (.bw d) [.die d .bwSplit]) := by
  show execBwCommit d s = _
  simp [execBwCommit, h, State.bwCommit, hp]

/-- The first waiting commit of a group is the one that is applied or refused. -/
theorem exec_castOnCommitApply {g : Group} {c : Commit} {s : State} (h : s.commits.find? (fun x => x.group = g) = some c) :
    exec (.castOnCommitApply g) s = .next (s.applyCommit c) := by
  show execCastOnCommitApply g s = _
  rw [execCastOnCommitApply, h]

section
variable (s : State) (c : Commit)

/-- A table of a partition whose ops have all left the engines (R449). -/
theorem ctlApply_quiescent (p : Fin 64) (lo hi cnt : PReg) (size k : Nat) (h : (s.inFlight p).isEmpty = true) :
    s.ctlApply p c [pr p lo, pr p hi, pr p cnt] size k =
      let u := s.dropCommit c.group
      if tableFits (snapVal c.values (.part p lo)) (snapVal c.values (.part p hi)) (snapVal c.values (.part p cnt)) size then
        if k = 1 then (u.putActive c.values).updPart p (fun x => { x with reservoirsBlocked := false }) else u.putActive c.values
      else (u.setField (.part p .ctlStatus) (16 + k) (16 + k) 1).setField (.part p .partSticky) 16 16 1 := by
  simp only [State.ctlApply, h, if_true, pr_val, stick_tableCommitRefused]

/-- A queue table of a tile none of whose streams runs (R189). -/
theorem qtabApply_quiescent (t : Fin 576) (h : (s.tile t).anyRunning = false) :
    s.qtabApply t c =
      let u := s.dropCommit c.group
      match qtabCheck (qtabOf c.values t) with
      | none => (u.putActive c.values).updTile t (fun x => { x with queues := [] })
      | some k =>
        let v := (if bit (s.reg (.tile t .qtabStatus)) 16 then u else u.setField (.tile t .qtabStatus) 5 0 k).setField (.tile t .qtabStatus) 16 16 1
        match s.holder t with
        | some p => v.setField (pr p .partSticky) 16 16 1
        | none => v := by
  simp only [State.qtabApply, h, Bool.false_eq_true, if_false, tIdx_val, stickOpt_tableCommitRefused]
  cases qtabCheck (qtabOf c.values t) with
  | none => rfl
  | some k =>
    by_cases hb : bit (s.reg (.tile t .qtabStatus)) 16 = true
    · simp only [dropCommit_reg_get, hb, if_true]; rfl
    · simp only [dropCommit_reg_get, hb]; rfl

/-- A span entry whose partition's ops have all left the engines (R415): a refusal keeps the first failing number. -/
theorem spanApply_quiescent (n : Fin 64) {v : Span}
    (hv : v = spanEntry (snapVal c.values (.glob (.spanCfg n))) (snapVal c.values (.glob (.spanVa n))) (snapVal c.values (.glob (.spanSize n))))
    (h : (s.inFlight v.part).isEmpty = true) :
    s.spanApply n c =
      let u := s.dropCommit c.group
      if s.spanOk n v (s.part v.part).map then
        (if (s.span n).enable = true ∧ v.enable = false then (u.putActive c.values).setField (pr (s.span n).part .partSpan) 0 0 1 else u.putActive c.values)
      else ((if bit (s.reg (.glob .spanStatus)) 16 then u else u.setField (.glob .spanStatus) 5 0 n.val).setField (.glob .spanStatus) 16 16 1).setField
        (pr v.part .partSticky) 16 16 1 := by
  subst hv
  rw [State.spanApply, if_pos h]
  simp only [← Bool.not_eq_true', ← Bool.and_eq_true]
  rfl

/-- The command ring of a public-key engine whose ring is not in use (R343). -/
theorem pkeApply_quiescent (h : Fin 4) (ha : (s.pke h).active = false) :
    s.pkeApply h c =
      let u := s.dropCommit c.group
      if 4 ≤ bits (snapVal c.values (.hank h .pkeRingCfg)) 4 0 ∧ bits (snapVal c.values (.hank h .pkeRingCfg)) 4 0 ≤ 10 then
        (u.putActive c.values).updPke h (fun x => { x with active := true, tail := 0, head := 0, fetchStopped := false })
      else (u.setField (.hank h .pkeRingCfg) 31 31 0).setField (.hank h .pkeStatus) 16 16 1 := by
  simp [State.pkeApply, ha]

/-- A split takes effect at the next frame boundary (R205), and belongs to no partition. -/
theorem bwApply_eq (d : Fin 18) :
    s.bwApply d c =
      let v := snapVal c.values (.die d .bwSplit)
      if bits v 4 0 + bits v 12 8 + bits v 20 16 = 16 then (s.dropCommit c.group).putActive c.values
      else (s.dropCommit c.group).setField (.die d .bwStatus) 16 16 1 := by
  simp [State.bwApply, bwAgrees]

/-- A ring pair that has drained (R252). -/
theorem ringApply_drained (p : Fin 64) (n : Fin 16) (h : (s.ring p n).active = false) :
    s.ringApply p n c =
      let u := s.dropCommit c.group
      let v := fun r => snapVal c.values (.part p r)
      if ringAgrees (v (.ringSqBaseLo n)) (v (.ringSqBaseHi n)) (v (.ringCqBaseLo n)) (v (.ringCqBaseHi n)) (v (.ringCfg n)) then
        (u.putActive c.values).updRing p n (fun r => { r with
          active := true, tail := 0, head := 0, sqHead := 0, cqTail := 0, phase := true, fetchStopped := false, deliveryStopped := false })
      else ((u.setField (.part p (.ringCtrl n)) 0 0 0).setField (.part p (.ringStatus n)) 0 0 1).setField (.part p .partSticky) 16 16 1 := by
  simp [State.ringApply, h, stick_tableCommitRefused]

end

/-- Settles O9. A commit that a write starts is a case of `ctlStart` or `startCommit`; the application takes the first waiting commit of
the group, and each group has its own rule at its quiescent point. -/
theorem castOnCommits : Obligations.CastOnCommits := by
  unfold Obligations.CastOnCommits
  refine ⟨⟨fun v p s h => ⟨?_, ?_, ?_⟩, fun t s h hp => ?_, fun d s h hp => exec_bwCommit h hp⟩, fun c s hc => ?_⟩
  · simp only [exec_ctlCommitHandle h, ctlStart_eq, handleGroup, pr_val]
  · simp only [exec_ctlCommitKeyDir h, ctlStart_eq, keyDirGroup, pr_val]
  · simp only [exec_ctlCommitBundle h, ctlStart_eq, bundleGroup, pr_val]
  · simp only [exec_qtabCommit h hp, qtabRegs, tIdx_val]
  · obtain ⟨g, vs⟩ := c
    refine ⟨fun p e h => ?_, fun p e h => ?_, fun p e h => ?_, fun t e h => ?_, fun n e => ?_, fun k e h => ?_, fun d e => ?_, fun p n e h => ?_⟩
    all_goals subst e
    · exact (exec_castOnCommitApply hc).trans (congrArg _ (ctlApply_quiescent s _ p .ctHandleBaseLo .ctHandleBaseHi .ctHandleCount 64 0 h))
    · exact (exec_castOnCommitApply hc).trans (congrArg _ (ctlApply_quiescent s _ p .keyDirBaseLo .keyDirBaseHi .keyDirCount 16 1 h))
    · exact (exec_castOnCommitApply hc).trans (congrArg _ (ctlApply_quiescent s _ p .rbBaseLo .rbBaseHi .rbCount 64 2 h))
    · exact (exec_castOnCommitApply hc).trans (congrArg _ (qtabApply_quiescent s _ t h))
    · exact fun h => (exec_castOnCommitApply hc).trans (congrArg _ (spanApply_quiescent s _ n rfl h))
    · exact (exec_castOnCommitApply hc).trans (congrArg _ (pkeApply_quiescent s _ k h))
    · exact (exec_castOnCommitApply hc).trans (congrArg _ (bwApply_eq s _ d))
    · exact (exec_castOnCommitApply hc).trans (congrArg _ (ringApply_drained s _ p n h))

end Sys2Proof.Machine
end
section
/-! SUPPORT. What no command changes (R2, R327; the outputs and the free values of the model):
the rules of the relation `State.Kept`, and the same for accesses, for options and for the work of the engines. -/
namespace Sys2Proof.Machine

namespace State.Kept

variable {s₀ s t : State}

theorem refl (s : State) : s.Kept s := ⟨rfl, rfl, List.prefix_refl _, Nat.le_refl _⟩

theorem trans (hs : s₀.Kept s) (ht : s.Kept t) : s₀.Kept t := by
  obtain ⟨grade, serial, out, fresh⟩ := hs
  obtain ⟨grade', serial', out', fresh'⟩ := ht
  exact ⟨grade'.trans grade, serial'.trans serial, out.trans out', Nat.le_trans fresh fresh'⟩

theorem ite {c : Prop} [Decidable c] (hs : s₀.Kept s) (ht : s₀.Kept t) : s₀.Kept (if c then s else t) := by
  split
  · exact hs
  · exact ht

theorem foldl {α : Type} {f : State → α → State} (hs : s₀.Kept s) (l : List α) (hf : ∀ u x, s₀.Kept u → s₀.Kept (f u x)) : s₀.Kept (l.foldl f s) := by
  induction l generalizing s with
  | nil => exact hs
  | cons x rest ih => exact ih (hf s x hs)

theorem foldl_fst {α β : Type} {f : State × β → α → State × β} {a : State × β} (ha : s₀.Kept a.1) (l : List α)
    (hf : ∀ b x, s₀.Kept b.1 → s₀.Kept (f b x).1) : s₀.Kept (l.foldl f a).1 := by
  induction l generalizing a with
  | nil => exact ha
  | cons x rest ih => exact ih (hf a x ha)

theorem foldl_snd {α β : Type} {f : β × State → α → β × State} {a : β × State} (ha : s₀.Kept a.2) (l : List α)
    (hf : ∀ b x, s₀.Kept b.2 → s₀.Kept (f b x).2) : s₀.Kept (l.foldl f a).2 := by
  induction l generalizing a with
  | nil => exact ha
  | cons x rest ih => exact ih (hf a x ha)

theorem snd_ite {α : Type} {c : Prop} [Decidable c] {x y : α × State} (hx : s₀.Kept x.2) (hy : s₀.Kept y.2) : s₀.Kept (if c then x else y).2 := by
  split
  · exact hx
  · exact hy

/-- The state of a pair that is named by an equation. -/
theorem snd {α : Type} {r : α × State} {a : α} (hr : s₀.Kept r.2) (e : r = (a, s)) : s₀.Kept s := by
  subst e; exact hr

end State.Kept

/-- What an access leaves when it completes: in the part `left` of its result. -/
def State.KeptOk {ε α : Type} (s : State) (left : α → State) : Except ε α → Prop
  | .ok a => s.Kept (left a)
  | .error _ => True

/-- What an operation leaves that finds room. -/
def State.KeptSome (s : State) : Option State → Prop
  | some t => s.Kept t
  | none => True

namespace State.KeptOk

variable {ε α β : Type} {s₀ : State} {left : α → State} {r : Except ε α}

theorem of_ok {a : α} (hr : s₀.KeptOk left r) (e : r = .ok a) : s₀.Kept (left a) := by
  subst e; exact hr

/-- Accesses one after the other, the first failure ending them. -/
theorem foldl {f : Except ε α → β → Except ε α} (hr : s₀.KeptOk left r) (l : List β) (hf : ∀ r x, s₀.KeptOk left r → s₀.KeptOk left (f r x)) :
    s₀.KeptOk left (l.foldl f r) := by
  induction l generalizing r with
  | nil => exact hr
  | cons x rest ih => exact ih (hf r x hr)

theorem map {left' : β → State} {f : α → β} (hr : s₀.KeptOk left r) (hf : ∀ a, s₀.Kept (left a) → s₀.Kept (left' (f a))) :
    s₀.KeptOk left' (r.map f) := by
  cases r with
  | error _ => trivial
  | ok a => exact hf a hr

end State.KeptOk

theorem State.KeptSome.of_some {s t : State} {r : Option State} (hr : s.KeptSome r) (e : r = some t) : s.Kept t := by
  subst e; exact hr

theorem State.KeptSome.getD {s₀ s : State} {r : Option State} (hr : s₀.KeptSome r) (hs : s₀.Kept s) : s₀.Kept (r.getD s) := by
  cases r with
  | none => exact hs
  | some _ => exact hr

/-- What a piece of work leaves, whether it completes or halts. -/
def State.KeptBy {α : Type} (s : State) : EStateM.Result Halt State α → Prop
  | .ok _ t => s.Kept t
  | .error _ t => s.Kept t

/-- A piece of engine work keeps what no command changes, whether it completes or halts. -/
structure EngKept {α : Type} (m : Eng α) : Prop where
  kept (s : State) : s.KeptBy (m s)

namespace State.Kept

variable {s₀ s t : State} {α : Type} {m : Eng α}

theorem run (hs : s₀.Kept s) (hm : EngKept m) : s₀.KeptBy (m s) := by
  have h := hm.kept s
  revert h
  cases m s with
  | ok a t => exact hs.trans
  | error h t => exact hs.trans

theorem eng_ok {a : α} (hs : s₀.Kept s) (hm : EngKept m) (e : m s = .ok a t) : s₀.Kept t := by
  have h := hs.run hm
  rw [e] at h
  exact h

theorem eng_error {a : Halt} (hs : s₀.Kept s) (hm : EngKept m) (e : m s = .error a t) : s₀.Kept t := by
  have h := hs.run hm
  rw [e] at h
  exact h

end State.Kept

namespace EngKept

variable {α β : Type}

/-- Work that is written out as a function of the state. -/
theorem of {m : Eng α} (hm : ∀ s₀ s : State, s₀.Kept s → s₀.KeptBy (m s)) : EngKept m := ⟨fun s => hm s s (.refl s)⟩

theorem pure (a : α) : EngKept (pure a : Eng α) := .of fun _ _ hs => hs

theorem bind {m : Eng α} {f : α → Eng β} (hm : EngKept m) (hf : ∀ a, EngKept (f a)) : EngKept (m >>= f) := by
  refine .of fun s₀ s hs => ?_
  show s₀.KeptBy (EStateM.bind m f s)
  unfold EStateM.bind
  split
  · next a t e => exact (hs.eng_ok hm e).run (hf a)
  · next h t e => exact hs.eng_error hm e

theorem map {m : Eng α} (hm : EngKept m) (f : α → β) : EngKept (f <$> m) := by
  refine .of fun s₀ s hs => ?_
  show s₀.KeptBy (EStateM.map f m s)
  unfold EStateM.map
  split
  · next a t e => exact hs.eng_ok hm e
  · next h t e => exact hs.eng_error hm e

theorem ite {c : Prop} [Decidable c] {m n : Eng α} (hm : EngKept m) (hn : EngKept n) : EngKept (if c then m else n) := by
  split
  · exact hm
  · exact hn

/-- Two ways to a value, and then the same work. -/
theorem ite_bind {c : Prop} [Decidable c] {m n : Eng α} {f : α → Eng β} (hm : EngKept m) (hn : EngKept n) (hf : ∀ a, EngKept (f a)) :
    EngKept (if c then m >>= f else n >>= f) := .ite (.bind hm hf) (.bind hn hf)

/-- Work under a condition, and then the same work. -/
theorem when_bind {c : Prop} [Decidable c] {m : Eng Unit} {f : Unit → Eng β} (hm : EngKept m) (hf : ∀ a, EngKept (f a)) :
    EngKept (if c then m >>= f else f ()) := .ite (.bind hm hf) (hf ())

theorem when_bind_bind {γ : Type} {c : Prop} [Decidable c] {m : Eng γ} {n : γ → Eng Unit} {f : Unit → Eng β} (hm :
    EngKept m) (hn : ∀ x, EngKept (n x))
    (hf : ∀ a, EngKept (f a)) : EngKept (if c then m >>= fun x => n x >>= f else f ()) := .ite (.bind hm fun x => .bind (hn x) hf) (hf ())

theorem mapM {f : α → Eng β} {l : List α} (hf : ∀ a, EngKept (f a)) : EngKept (l.mapM f) := by
  induction l with
  | nil => exact .pure _
  | cons a rest ih => rw [List.mapM_cons]; exact .bind (hf a) fun _ => .bind ih fun _ => .pure _

theorem forM {f : α → Eng PUnit} {l : List α} (hf : ∀ a, EngKept (f a)) : EngKept (l.forM f) := by
  induction l with
  | nil => exact .pure _
  | cons a rest ih => exact .bind (hf a) fun _ => ih

theorem foldlM {f : β → α → Eng β} {l : List α} {b : β} (hf : ∀ b a, EngKept (f b a)) : EngKept (l.foldlM f b) := by
  induction l generalizing b with
  | nil => exact .pure _
  | cons a rest ih => rw [List.foldlM_cons]; exact .bind (hf b a) fun _ => ih

theorem engGet : EngKept engGet := .of fun _ _ hs => hs
theorem engPut {f : State → State} (hf : ∀ s : State, s.Kept s → s.Kept (f s)) : EngKept (engPut f) := ⟨fun s => hf s (.refl s)⟩
theorem engFault (st : Status) : EngKept (engFault st : Eng α) := .of fun _ _ hs => hs
theorem engStall (w : Stall) : EngKept (engStall w : Eng α) := .of fun _ _ hs => hs

/-- Work whose stall leaves nothing behind. -/
theorem atomically {m : Eng α} (hm : EngKept m) : EngKept (atomically m) := by
  refine .of fun s₀ s hs => ?_
  unfold Machine.atomically
  split
  · exact hs
  · exact hs.run hm

end EngKept

end Sys2Proof.Machine
end
section
/-! SUPPORT. The updates of a record of the state that leave its fuses, outputs and free values alone, each by the fields it sets. -/
namespace Sys2Proof.Machine

namespace State.Kept

variable {s₀ s : State}

theorem withCountingPower (hs : s₀.Kept s) (counting power) : s₀.Kept { s with counting := counting, power := power } := hs
theorem withJobs (hs : s₀.Kept s) (jobs) : s₀.Kept { s with jobs := jobs } := hs
theorem withJobsNextJob (hs : s₀.Kept s) (jobs nextJob) : s₀.Kept { s with jobs := jobs, nextJob := nextJob } := hs
theorem withLifecycleIdentityCert (hs : s₀.Kept s) (lifecycle identityCert) :
    s₀.Kept { s with lifecycle := lifecycle, identityCert := identityCert } := hs
theorem withMemBad (hs : s₀.Kept s) (memBad) : s₀.Kept { s with memBad := memBad } := hs
theorem withMgmt (hs : s₀.Kept s) (mgmt) : s₀.Kept { s with mgmt := mgmt } := hs
theorem withPartCmd (hs : s₀.Kept s) (partCmd) : s₀.Kept { s with partCmd := partCmd } := hs
theorem withPartsPower (hs : s₀.Kept s) (parts power) : s₀.Kept { s with parts := parts, power := power } := hs
theorem withPower (hs : s₀.Kept s) (power) : s₀.Kept { s with power := power } := hs
theorem withPowerMgmtReplayKey (hs : s₀.Kept s) (power mgmt replayKey) : s₀.Kept { s with power := power, mgmt := mgmt, replayKey := replayKey } := hs
theorem withRegsActive (hs : s₀.Kept s) (regs active) : s₀.Kept { s with regs := regs, active := active } := hs
theorem withRegsActiveCommits (hs : s₀.Kept s) (regs active commits) : s₀.Kept { s with regs := regs, active := active, commits := commits } := hs
theorem withReservations (hs : s₀.Kept s) (reservations) : s₀.Kept { s with reservations := reservations } := hs
theorem withReservationsJobsCommits (hs : s₀.Kept s) (reservations jobs commits) :
    s₀.Kept { s with reservations := reservations, jobs := jobs, commits := commits } := hs
theorem withReservationsSitesTilesPower (hs : s₀.Kept s) (reservations sites tiles power) :
    s₀.Kept { s with reservations := reservations, sites := sites, tiles := tiles, power := power } := hs
theorem withRetireQueue (hs : s₀.Kept s) (retireQueue) : s₀.Kept { s with retireQueue := retireQueue } := hs
theorem withRetirements (hs : s₀.Kept s) (retirements) : s₀.Kept { s with retirements := retirements } := hs
theorem withRetiring (hs : s₀.Kept s) (retiring) : s₀.Kept { s with retiring := retiring } := hs
theorem withRetiringRetirements (hs : s₀.Kept s) (retiring retirements) : s₀.Kept { s with retiring := retiring, retirements := retirements } := hs
theorem withSegFault (hs : s₀.Kept s) (segFault) : s₀.Kept { s with segFault := segFault } := hs
theorem withService (hs : s₀.Kept s) (service) : s₀.Kept { s with service := service } := hs
theorem withSitesTilesRetireQueueRetirementsPowerReplayKey (hs : s₀.Kept s) (sites tiles retireQueue retirements power replayKey) :
    s₀.Kept { s with sites := sites, tiles := tiles, retireQueue := retireQueue, retirements := retirements, power := power, replayKey := replayKey } := hs
theorem withStoreBusyStoreQueueAttested (hs : s₀.Kept s) (storeBusy storeQueue attested) :
    s₀.Kept { s with storeBusy := storeBusy, storeQueue := storeQueue, attested := attested } := hs
theorem withStoreStoreBusyStoreQueue (hs : s₀.Kept s) (store storeBusy storeQueue) :
    s₀.Kept { s with store := store, storeBusy := storeBusy, storeQueue := storeQueue } := hs

end State.Kept

end Sys2Proof.Machine
end
section
/-! SUPPORT. Registers, memory, ports, flags and the translation of addresses: no operation changes a fuse, takes back an output or frees a used value. -/
namespace Sys2Proof.Machine

variable {s₀ s : State}

namespace State.Kept

theorem setPart (hs : s₀.Kept s) (p : Nat) (x : Part) : s₀.Kept (s.setPart p x) := hs
theorem updPart (hs : s₀.Kept s) (p : Nat) (f : Part → Part) : s₀.Kept (s.updPart p f) := hs
theorem countBy (hs : s₀.Kept s) (p n k : Nat) : s₀.Kept (s.countBy p n k) := hs
theorem countUp (hs : s₀.Kept s) (p n : Nat) : s₀.Kept (s.countUp p n) := hs
theorem setTile (hs : s₀.Kept s) (t : Nat) (x : Tile) : s₀.Kept (s.setTile t x) := hs
theorem updTile (hs : s₀.Kept s) (t : Nat) (f : Tile → Tile) : s₀.Kept (s.updTile t f) := hs
theorem updSite (hs : s₀.Kept s) (d : Nat) (f : Site → Site) : s₀.Kept (s.updSite d f) := hs
theorem setHank (hs : s₀.Kept s) (h : Nat) (x : Hank) : s₀.Kept (s.setHank h x) := hs
theorem updHank (hs : s₀.Kept s) (h : Nat) (f : Hank → Hank) : s₀.Kept (s.updHank h f) := hs
theorem setPort (hs : s₀.Kept s) (q : Nat) (x : QPort) : s₀.Kept (s.setPort q x) := hs
theorem updPort (hs : s₀.Kept s) (q : Nat) (f : QPort → QPort) : s₀.Kept (s.updPort q f) := hs
theorem updRing (hs : s₀.Kept s) (p n : Nat) (f : Ring → Ring) : s₀.Kept (s.updRing p n f) := hs
theorem setReg (hs : s₀.Kept s) (r : Reg) (v : Word32) : s₀.Kept (s.setReg r v) := hs
theorem updReg (hs : s₀.Kept s) (r : Reg) (f : Word32 → Word32) : s₀.Kept (s.updReg r f) := hs
theorem setAct (hs : s₀.Kept s) (r : Reg) (v : Word32) : s₀.Kept (s.setAct r v) := hs
theorem setField (hs : s₀.Kept s) (r : Reg) (hi lo v : Nat) : s₀.Kept (s.setField r hi lo v) := hs

theorem bump (hs : s₀.Kept s) (r : Reg) (hi lo : Nat) : s₀.Kept (s.bump r hi lo) := by
  unfold State.bump
  dsimp only
  split
  · exact hs.setField ..
  · exact hs

theorem emit (hs : s₀.Kept s) (o : Output) : s₀.Kept (s.emit o) := by
  obtain ⟨grade, serial, out, fresh⟩ := hs
  exact ⟨grade, serial, out.trans (List.prefix_append ..), fresh⟩

theorem draw (hs : s₀.Kept s) : s₀.Kept s.draw.2 := by
  obtain ⟨grade, serial, out, fresh⟩ := hs
  exact ⟨grade, serial, out, Nat.le_succ_of_le fresh⟩

theorem drawBelow (hs : s₀.Kept s) (m n : Nat) : s₀.Kept (s.drawBelow m n).2 := by
  induction n generalizing s with
  | zero => exact hs
  | succ n ih => exact ih hs.draw

theorem storeLine (hs : s₀.Kept s) (pa : Nat) (bs : List Byte) (keep : Option Nat) : s₀.Kept (s.storeLine pa bs keep) := by
  unfold State.storeLine
  dsimp only
  split <;> exact hs

theorem storePhys (hs : s₀.Kept s) (pa : Nat) (bs : List Byte) (keep : Option Nat) : s₀.Kept (s.storePhys pa bs keep) := by
  unfold State.storePhys
  exact hs.foldl _ fun _ _ hu => hu.storeLine ..

theorem writeHost (hs : s₀.Kept s) (h a : Nat) (bs : List Byte) : s₀.Kept (s.writeHost h a bs) := hs

theorem keepLeaf (hs : s₀.Kept s) (p d va : Nat) : s₀.Kept (s.keepLeaf p d va) := by
  unfold State.keepLeaf
  split
  · exact hs.updSite ..
  · exact hs

theorem keepLeaves (hs : s₀.Kept s) (p d : Nat) (rs : List (Nat × Nat)) : s₀.Kept (s.keepLeaves p d rs) := by
  unfold State.keepLeaves
  exact hs.foldl _ fun _ _ hu => hu.foldl _ fun _ _ hv => hv.keepLeaf ..

theorem dropLeaves (hs : s₀.Kept s) (p : Nat) : s₀.Kept (s.dropLeaves p) := hs

theorem writeVA (hs : s₀.Kept s) (p va : Nat) (bs : List Byte) (k : Access) (unit : Option Nat) : s₀.KeptOk id (s.writeVA p va bs k unit) := by
  unfold State.writeVA
  split
  · trivial
  · exact hs.foldl _ fun _ _ hu => hu.storePhys ..

theorem updJob (hs : s₀.Kept s) (j : Nat) (f : Job → Job) : s₀.Kept (s.updJob j f) := hs
theorem updOp (hs : s₀.Kept s) (o : OpRef) (f : OpRec → OpRec) : s₀.Kept (s.updOp o f) := hs

end State.Kept

end Sys2Proof.Machine
end
section
/-! SUPPORT. The die caches: no operation changes a fuse, takes back an output or frees a used value. -/
namespace Sys2Proof.Machine

variable {s₀ s : State}

namespace State.Kept

theorem cacheTouch (hs : s₀.Kept s) (u : CacheUser) (d line : Nat) : s₀.Kept (s.cacheTouch u d line) := by
  unfold State.cacheTouch
  dsimp only
  split
  · exact hs
  · exact hs.updSite ..

theorem yieldWays (hs : s₀.Kept s) (ds : List Nat) : s₀.Kept (s.yieldWays ds) := by
  unfold State.yieldWays
  exact hs.foldl _ fun _ _ hu => hu.updSite ..

theorem cacheRefetch (hs : s₀.Kept s) (d line : Nat) : s₀.Kept (s.cacheRefetch d line) := by
  unfold State.cacheRefetch
  split
  · exact hs.updSite ..
  · exact hs

theorem cachedRead (hs : s₀.Kept s) (u : CacheUser) (d : Option Nat) (pa va len : Nat) : s₀.KeptOk Prod.snd (s.cachedRead u d pa va len) := by
  unfold State.cachedRead
  dsimp only
  split
  · split
    · trivial
    · exact hs.cacheTouch ..
  · split
    · trivial
    · exact hs

theorem cachedVA (hs : s₀.Kept s) (p : Nat) (d : Option Nat) (va n : Nat) (k : Access) (runtime : Bool) : s₀.KeptOk Prod.snd
  (s.cachedVA p d va n k runtime) := by
  refine State.KeptOk.foldl (r := Except.ok (_, s)) (left := Prod.snd) hs _ fun r x hr => ?_
  obtain ⟨a, len⟩ := x
  dsimp only
  split
  · trivial
  · next bs u =>
    have hu : s₀.Kept u := hr
    split
    · trivial
    · split
      · trivial
      · next e =>
        have hr := (hu.cachedRead ..).of_ok e
        split
        · exact hr.keepLeaf ..
        · exact hr

theorem narrowRead (hs : s₀.Kept s) (p t va n : Nat) : s₀.KeptOk Prod.snd (s.narrowRead p t va n) := by
  unfold State.narrowRead
  exact (hs.cachedVA ..).map fun _ hu => (hu.countBy ..).countBy ..

theorem atHome (hs : s₀.Kept s) (p pa va len : Nat) (f : List Byte → List Byte) : s₀.KeptOk id (s.atHome p pa va len f) := by
  unfold State.atHome
  dsimp only
  split
  · trivial
  next e => exact ((hs.cachedRead ..).of_ok e).storePhys ..

end State.Kept

end Sys2Proof.Machine
end
section
/-! SUPPORT. The tables of alarms and log entries: no operation changes a fuse, takes back an output or frees a used value. -/
namespace Sys2Proof.Machine

variable {s₀ s : State}

namespace State.Kept

theorem pathWrite (hs : s₀.Kept s) (h : Fin 4) (r : PathRegs) (v : BitVec 256) : s₀.Kept (s.pathWrite h r v) := hs

theorem logRecord (hs : s₀.Kept s) (h : Fin 4) (v : BitVec 256) : s₀.Kept (s.logRecord h v) := by
  unfold State.logRecord
  split
  · exact hs.bump ..
  · split
    · exact ((hs.pathWrite ..).setField ..).bump ..
    · exact hs.pathWrite ..

theorem traceMark (hs : s₀.Kept s) (h : Fin 4) : s₀.Kept (s.traceMark h) := by
  unfold State.traceMark
  split
  · exact hs
  · split
    · exact (hs.pathWrite ..).updHank ..
    · exact hs

theorem traceRecord (hs : s₀.Kept s) (h : Fin 4) (v : BitVec 256) : s₀.Kept (s.traceRecord h v) := by
  unfold State.traceRecord
  split
  · exact hs.bump ..
  · dsimp only
    split
    · exact ((hs.traceMark ..).updHank ..).bump ..
    · exact (hs.traceMark ..).pathWrite ..

theorem emitLog (hs : s₀.Kept s) (h : Fin 4) (r : FaultRec) : s₀.Kept (s.emitLog h r) := by
  unfold State.emitLog
  exact .logRecord (.ite (hs.setField ..) hs) ..

theorem reportLog (hs : s₀.Kept s) (src rep : BitVec 16) (event detail : Nat) (part : Option Nat) : s₀.Kept (s.reportLog src rep event detail part) := by
  unfold State.reportLog
  dsimp only
  split
  · exact hs
  · split
    · exact hs.setHank ..
    · split
      · exact hs.setHank ..
      · exact hs.emitLog ..

theorem reportTrace (hs : s₀.Kept s) (src rep : BitVec 16) (event detail : Nat) (part : Option Nat) :
    s₀.Kept (s.reportTrace src rep event detail part) := by
  unfold State.reportTrace
  dsimp only
  split
  · exact hs
  · exact hs.traceRecord ..

theorem reportAlarm (hs : s₀.Kept s) (src rep : BitVec 16) (event detail : Nat) (part : Option Nat) :
    s₀.Kept (s.reportAlarm src rep event detail part) := by
  unfold State.reportAlarm
  dsimp only
  split
  · exact (hs.emit ..).withMgmt ..
  · exact ((hs.emit ..).withMgmt ..).setHank ..

theorem badLine (hs : s₀.Kept s) (pa : Nat) (part : Option Nat) (rep : BitVec 16) : s₀.Kept (s.badLine pa part rep) := by
  unfold State.badLine
  exact (hs.bump ..).reportLog ..

theorem capture (hs : s₀.Kept s) (p access : Nat) (f : XFault) : s₀.Kept (s.capture p access f) := by
  unfold State.capture
  dsimp only
  split
  · split
    · exact hs.badLine ..
    · exact ((hs.badLine ..).setReg ..).setReg ..
  · split
    · exact hs
    · exact (hs.setReg ..).setReg ..

theorem addUnseen (hs : s₀.Kept s) (p : Nat) (ns : List Nat) : s₀.Kept (s.addUnseen p ns) := by
  unfold State.addUnseen
  exact hs.foldl _ fun _ _ hu => (hu.draw ..).countBy ..

theorem countRun (hs : s₀.Kept s) (p : Nat) (r : OpRec) : s₀.Kept (s.countRun p r) := by
  unfold State.countRun
  split
  · exact hs.addUnseen ..
  · exact hs

theorem counter (hs : s₀.Kept s) (p n : Nat) : s₀.Kept (s.counter p n).2 := by
  unfold State.counter
  split
  · exact hs
  · exact .ite (hs.addUnseen ..) hs

theorem moduleCounter (hs : s₀.Kept s) (n : Nat) : s₀.Kept (s.moduleCounter n).2 := by
  unfold State.moduleCounter
  exact .snd_ite hs (.snd_ite hs (.snd_ite ((hs.draw ..).withPower ..) hs))

end State.Kept

end Sys2Proof.Machine
end
section
/-! SUPPORT. Spoiled lines and capture records: no operation changes a fuse, takes back an output or frees a used value. -/
namespace Sys2Proof.Machine

variable {s₀ s : State}

namespace State.Kept

theorem stick (hs : s₀.Kept s) (p : Nat) (st : Status) : s₀.Kept (s.stick p st) := by
  unfold State.stick
  split
  · exact hs
  · exact hs.setField ..

theorem malformed (hs : s₀.Kept s) (p : Nat) : s₀.Kept (s.malformed p) := hs

theorem statusEffects (hs : s₀.Kept s) (p : Nat) (st : Status) : s₀.Kept (s.statusEffects p st) := by
  unfold State.statusEffects
  dsimp only
  split
  · exact (hs.stick ..).bump ..
  · exact hs.stick ..

end State.Kept

end Sys2Proof.Machine
end
section
/-! SUPPORT. Completion entries, counters and jobs: no operation changes a fuse, takes back an output or frees a used value. -/
namespace Sys2Proof.Machine

variable {s₀ s : State}

namespace State.Kept

theorem msixSend (hs : s₀.Kept s) (key vector : Nat) (o : Output) : s₀.Kept (s.msixSend key vector o) := by
  unfold State.msixSend
  split
  · exact hs
  · exact hs.emit ..

theorem ringIrq (hs : s₀.Kept s) (p n : Nat) : s₀.Kept (s.ringIrq p n) := by
  unfold State.ringIrq
  refine .updPart ?_ ..
  split
  · exact (hs.updRing ..).msixSend ..
  · exact hs.updRing ..

theorem produce (hs : s₀.Kept s) (p n : Nat) (e : HeldEntry) : s₀.Kept (s.produce p n e) := hs

theorem latch (hs : s₀.Kept s) (j : Job) : s₀.Kept (s.latch j).2 := by
  unfold State.latch
  split
  · exact (hs.counter ..).counter ..
  · exact hs

theorem produceOp (hs : s₀.Kept s) (o : OpRef) : s₀.Kept (s.produceOp o) := by
  unfold State.produceOp
  split
  · dsimp only
    split
    · exact (hs.updOp ..).produce ..
    · exact hs.updOp ..
  · exact hs

theorem reportOp (hs : s₀.Kept s) (o : OpRef) : s₀.Kept (s.reportOp o) := by
  unfold State.reportOp
  split
  · split
    · split
      · exact hs.updJob ..
      · exact hs.produceOp ..
    · exact hs
  · exact hs

theorem completeOne (hs : s₀.Kept s) (jid : Nat) : s₀.Kept (s.completeOne jid) := by
  unfold State.completeOne
  split
  · split
    · exact ((hs.latch ..).updJob ..).produce ..
    · exact hs
  · exact hs

theorem completeJob (hs : s₀.Kept s) (jid : Nat) : s₀.Kept (s.completeJob jid) := by
  unfold State.completeJob
  exact hs.foldl _ fun _ _ hu => .ite (hu.completeOne ..) hu

theorem resolvePass (hs : s₀.Kept s) (jid : Nat) : s₀.Kept (s.resolvePass jid) := by
  unfold State.resolvePass
  split
  next x _ _ =>
    refine hs.foldl _ fun u x hu => ?_
    split
    · dsimp only
      split
      · exact ((hu.latch ..).updOp ..).reportOp ..
      · exact hu
    · exact hu
  · exact hs

theorem refreshEnds (hs : s₀.Kept s) (o : OpRef) : s₀.Kept (s.refreshEnds o) := by
  unfold State.refreshEnds
  split
  · split
    · exact (hs.updOp ..).reportOp ..
    · exact hs
  · exact hs

theorem settleJob (hs : s₀.Kept s) (o : OpRef) : s₀.Kept (s.settleJob o) := by
  unfold State.settleJob
  exact (((hs.refreshEnds ..).reportOp ..).resolvePass ..).completeJob ..

theorem freeTiles (hs : s₀.Kept s) (ts : List Nat) : s₀.Kept (s.freeTiles ts) := by
  unfold State.freeTiles
  exact hs.foldl _ fun _ _ hu => hu.updTile ..

theorem endOp (hs : s₀.Kept s) (o : OpRef) (st : Status) : s₀.Kept (s.endOp o st) := by
  unfold State.endOp
  split
  · dsimp only
    split
    · exact ((((((hs.statusEffects ..).countRun ..).bump ..).latch ..).freeTiles ..).updOp ..).settleJob ..
    · exact (((((hs.statusEffects ..).countRun ..).latch ..).freeTiles ..).updOp ..).settleJob ..
  · exact hs

end State.Kept

end Sys2Proof.Machine
end
section
/-! SUPPORT. The rings, their doorbells and delivery: no operation changes a fuse, takes back an output or frees a used value. -/
namespace Sys2Proof.Machine

variable {s₀ s : State}

namespace State.Kept

theorem wake (hs : s₀.Kept s) : s₀.Kept s.wake := by
  unfold State.wake
  split <;> exact hs

theorem refuseDb (hs : s₀.Kept s) (p n : Nat) : s₀.Kept (s.refuseDb p n) := hs

theorem dbSq (hs : s₀.Kept s) (p n : Nat) (value : Word32) : s₀.Kept (s.dbSq p n value) := by
  unfold State.dbSq
  dsimp only
  split
  · split
    · exact (hs.wake ..).updRing ..
    · exact (hs.wake ..).refuseDb ..
  · split
    · exact hs.updRing ..
    · exact hs.refuseDb ..

theorem dbCq (hs : s₀.Kept s) (p n : Nat) (value : Word32) : s₀.Kept (s.dbCq p n value) := by
  unfold State.dbCq
  dsimp only
  split
  · split
    · exact (hs.wake ..).updRing ..
    · exact (hs.wake ..).refuseDb ..
  · split
    · exact hs.updRing ..
    · exact hs.refuseDb ..

theorem startCommit (hs : s₀.Kept s) (g : Sys2Proof.Group) (rs : List Reg) : s₀.Kept (s.startCommit g rs) := hs
theorem dropCommit (hs : s₀.Kept s) (g : Sys2Proof.Group) : s₀.Kept (s.dropCommit g) := hs

theorem enableRing (hs : s₀.Kept s) (p n : Nat) : s₀.Kept (s.enableRing p n) := by
  unfold State.enableRing
  split
  · exact hs
  · exact (hs.setField ..).startCommit ..

theorem disableRing (hs : s₀.Kept s) (p n : Nat) : s₀.Kept (s.disableRing p n) := hs

theorem acceptJob (hs : s₀.Kept s) (j : Job) : s₀.Kept (s.acceptJob j) := by
  unfold State.acceptJob
  exact ((hs.latch ..).withJobsNextJob ..).updRing ..

theorem refuseJob (hs : s₀.Kept s) (j : Job) (st : Status) (origin : Nat) : s₀.Kept (s.refuseJob j st origin) := by
  unfold State.refuseJob
  exact ((hs.stick ..).acceptJob ..).completeJob ..

theorem fetchFault (hs : s₀.Kept s) (p n : Nat) (e : Option MemErr) : s₀.Kept (s.fetchFault p n e) := by
  unfold State.fetchFault
  dsimp only
  split
  · exact ((hs.setField ..).updRing ..).capture ..
  · exact ((hs.setField ..).updRing ..).badLine ..
  · exact (hs.setField ..).updRing ..

theorem accept (hs : s₀.Kept s) (p n : Nat) (e : Entry) (es : List Entry) : s₀.Kept (s.accept p n e es) := by
  unfold State.accept
  dsimp only
  split
  · exact (hs.updRing ..).acceptJob ..
  · exact (hs.updRing ..).refuseJob ..

theorem fetchGraph (hs : s₀.Kept s) (p n : Nat) (e : Entry) : s₀.Kept (s.fetchGraph p n e) := by
  unfold State.fetchGraph
  dsimp only
  split
  · split
    · split
      · exact hs.accept ..
      · exact (hs.fetchFault ..).refuseJob ..
    · split
      · exact (hs.fetchFault ..).refuseJob ..
      · split
        · exact hs.accept ..
        · exact hs
  · exact (hs.updRing ..).refuseJob ..

theorem fetch (hs : s₀.Kept s) (p n : Nat) : s₀.Kept (s.fetch p n) := by
  unfold State.fetch
  split
  · dsimp only
    split
    · exact (hs.updPart ..).fetchGraph ..
    · exact (hs.updPart ..).fetchFault ..
  · exact hs

theorem delivered (hs : s₀.Kept s) (p n : Nat) (e : HeldEntry) : s₀.Kept (s.delivered p n e) := by
  unfold State.delivered
  dsimp only
  split
  · split
    · exact ((hs.updRing ..).withJobs ..).ringIrq ..
    · exact (hs.updRing ..).withJobs ..
  · split
    · exact (hs.updRing ..).ringIrq ..
    · exact hs.updRing ..

theorem deliveryFault (hs : s₀.Kept s) (p n : Nat) : s₀.Kept (s.deliveryFault p n) := hs

theorem deliver (hs : s₀.Kept s) (p n : Nat) : s₀.Kept (s.deliver p n) := by
  have hw {u : State} (hu : s₀.Kept u) (p va : Nat) (bs : List Byte) := hu.writeVA p va bs .write none
  unfold State.deliver
  generalize @State.writeVA = write at hw ⊢
  revert write
  -- `id` keeps the abstraction in the proof term: the kernel would otherwise compute the accesses of 64 bytes.
  refine id fun write hw => ?_
  split
  · exact hs
  · split
    · dsimp only
      split
      · split
        · exact ((hs.writeHost ..).writeHost ..).delivered ..
        · split
          · exact hs
          · exact hs.deliveryFault ..
      · split
        · exact (hs.deliveryFault ..).capture ..
        next e =>
          split
          · exact (hs.deliveryFault ..).capture ..
          next e' => exact ((hw ((hw hs ..).of_ok e) ..).of_ok e').delivered ..
    · exact hs

end State.Kept

end Sys2Proof.Machine
end
section
/-! SUPPORT. The modulus tables: no operation changes a fuse, takes back an output or frees a used value. -/
namespace Sys2Proof.Machine

variable {s₀ s : State}

namespace State.Kept

theorem mtDataRead (hs : s₀.Kept s) (p : Nat) : s₀.Kept (s.mtDataRead p).2 := by
  unfold State.mtDataRead
  exact hs.setReg ..

theorem mtDataWrite (hs : s₀.Kept s) (p : Nat) (v : Word32) : s₀.Kept (s.mtDataWrite p v) := hs

theorem mtCommit (hs : s₀.Kept s) (p : Nat) (v : Word32) : s₀.Kept (s.mtCommit p v) := by
  unfold State.mtCommit
  split
  · exact hs.malformed ..
  · exact hs.updPart ..

theorem mtApply (hs : s₀.Kept s) (p : Nat) (mask : BitVec 16) (snap : Tab Word32) : s₀.Kept (s.mtApply p mask snap) := hs

theorem mtRefuse (hs : s₀.Kept s) (p : Nat) (f : Nat × Nat × Nat) : s₀.Kept (s.mtRefuse p f) := by
  unfold State.mtRefuse
  exact .stick (.setField (.ite ((hs.updPart ..).setField ..) (((((hs.updPart ..).setField ..).setField ..).setField ..).setField ..)) ..) ..

theorem mtCommitCheck (hs : s₀.Kept s) (p : Nat) : s₀.Kept (s.mtCommitCheck p) := by
  unfold State.mtCommitCheck
  split
  · exact hs
  · split
    · split
      · exact hs.mtApply ..
      · exact hs.mtRefuse ..
    · exact hs

end State.Kept

end Sys2Proof.Machine
end
section
/-! SUPPORT. Cast-on commits: no operation changes a fuse, takes back an output or frees a used value. -/
namespace Sys2Proof.Machine

variable {s₀ s : State}

namespace State.Kept

theorem putActive (hs : s₀.Kept s) (vs : List (Nat × Word32)) : s₀.Kept (s.putActive vs) := hs

theorem stickOpt (hs : s₀.Kept s) (p : Option Nat) (st : Status) : s₀.Kept (s.stickOpt p st) := by
  unfold State.stickOpt
  split
  · exact hs.stick ..
  · exact hs

theorem ctlStart (hs : s₀.Kept s) (p : Nat) (g : Sys2Proof.Group) (rs : List Reg) : s₀.Kept (s.ctlStart p g rs) := by
  unfold State.ctlStart
  split
  · exact hs.malformed ..
  · exact hs.startCommit ..

theorem ctlCommit (hs : s₀.Kept s) (p : Nat) (v : Word32) : s₀.Kept (s.ctlCommit p v) := by
  unfold State.ctlCommit
  dsimp only
  split
  · exact .ctlStart (.ite (.ctlStart (.ite (hs.ctlStart ..) hs) ..) (.ite (hs.ctlStart ..) hs)) ..
  · split
    · exact .ctlStart (.ite (hs.ctlStart ..) hs) ..
    · split
      · exact hs.ctlStart ..
      · exact hs

theorem ctlApply (hs : s₀.Kept s) (p : Nat) (c : Commit) (rs : List Reg) (size k : Nat) : s₀.Kept (s.ctlApply p c rs size k) := by
  unfold State.ctlApply
  split
  · dsimp only
    split
    · split
      · split
        · exact ((hs.dropCommit ..).putActive ..).updPart ..
        · exact (hs.dropCommit ..).putActive ..
      · exact ((hs.dropCommit ..).setField ..).stick ..
    · exact hs.dropCommit ..
  · exact hs

theorem ringApply (hs : s₀.Kept s) (p n : Nat) (c : Commit) : s₀.Kept (s.ringApply p n c) := by
  unfold State.ringApply
  split
  · exact hs
  · dsimp only
    split
    · exact ((hs.dropCommit ..).putActive ..).updRing ..
    · exact (((hs.dropCommit ..).setField ..).setField ..).stick ..

theorem qtabCommit (hs : s₀.Kept s) (t : Nat) : s₀.Kept (s.qtabCommit t) := by
  unfold State.qtabCommit
  split
  · exact hs.stickOpt ..
  · exact hs.startCommit ..

theorem qtabApply (hs : s₀.Kept s) (t : Nat) (c : Commit) : s₀.Kept (s.qtabApply t c) := by
  unfold State.qtabApply
  split
  · exact hs
  · dsimp only
    split
    · exact ((hs.dropCommit ..).putActive ..).updTile ..
    · exact .stickOpt (.setField (.ite (hs.dropCommit ..) ((hs.dropCommit ..).setField ..)) ..) ..

theorem bwCommit (hs : s₀.Kept s) (d : Nat) : s₀.Kept (s.bwCommit d) := by
  unfold State.bwCommit
  split
  · exact hs
  · exact hs.startCommit ..

theorem bwApply (hs : s₀.Kept s) (d : Nat) (c : Commit) : s₀.Kept (s.bwApply d c) := by
  unfold State.bwApply
  dsimp only
  split
  · exact (hs.dropCommit ..).putActive ..
  · exact (hs.dropCommit ..).setField ..

end State.Kept

end Sys2Proof.Machine
end
section
/-! SUPPORT. Tensor memory: no operation changes a fuse, takes back an output or frees a used value. -/
namespace Sys2Proof.Machine

variable {s₀ s : State}

namespace State.Kept

theorem writeRuns (hs : s₀.Kept s) (p : Nat) (runs : List (Nat × List Byte)) (unit : Option Nat) : s₀.KeptOk id (s.writeRuns p runs unit) := by
  refine State.KeptOk.foldl (r := Except.ok s) (left := id) hs _ fun r x hr => ?_
  obtain ⟨a, bs⟩ := x
  dsimp only
  split
  · trivial
  · next u =>
    have hu : s₀.Kept u := hr
    exact hu.writeVA ..

end State.Kept

end Sys2Proof.Machine
end
section
/-! SUPPORT. The work of the engines: slots, queues and unit steps: no operation changes a fuse, takes back an output or frees a used value. -/
namespace Sys2Proof.Machine

variable {s₀ s : State}

namespace State.Kept

theorem updStream (hs : s₀.Kept s) (t k : Nat) (f : Stream → Stream) : s₀.Kept (s.updStream t k f) := hs
theorem updQueue (hs : s₀.Kept s) (t q : Nat) (f : Queue → Queue) : s₀.Kept (s.updQueue t q f) := hs

theorem stopOps (hs : s₀.Kept s) (f : Job → OpRec → Bool) : s₀.Kept (s.stopOps f) := by
  unfold State.stopOps
  dsimp only
  exact (hs.withJobs ..).foldl _ fun _ _ hu => hu.updTile ..

theorem spoil (hs : s₀.Kept s) (p : Nat) (keep : Bool) (rs : List (Nat × Nat)) (unit : Option Nat) : s₀.Kept (s.spoil p keep rs unit) := by
  unfold State.spoil
  refine hs.foldl _ fun u x hu => ?_
  split
  · split
    next e =>
      split
      · exact ((hu.drawBelow ..).snd e).foldl _ fun _ _ hv => .ite hv (hv.storePhys ..)
      · exact hu

theorem restoreLimbs (hs : s₀.Kept s) (p : Nat) (saved : List (Nat × List Byte)) (unit : Option Nat) : s₀.Kept (s.restoreLimbs p saved unit) := by
  unfold State.restoreLimbs
  refine hs.foldl _ fun u x hu => ?_
  split
  · split
    next e => exact (hu.writeVA ..).of_ok e
    · exact hu

theorem leave (hs : s₀.Kept s) (o : OpRef) (st : Status) : s₀.Kept (s.leave o st) := by
  unfold State.leave
  split
  · exact hs
  · split
    · exact hs
    · split
      · exact hs.restoreLimbs ..
      · dsimp only
        split
        · exact hs.spoil ..
        · exact (hs.restoreLimbs ..).spoil ..

theorem endNow (hs : s₀.Kept s) (o : OpRef) (st : Status) (a : Option (List Nat)) : s₀.Kept (s.endNow o st a) := by
  unfold State.endNow
  split
  · exact (hs.leave ..).endOp ..
  · split
    · dsimp only
      exact ((hs.leave ..).foldl _ fun _ _ hu => hu.updTile ..).updOp ..
    · exact hs

theorem settleEnd (hs : s₀.Kept s) (o : OpRef) : s₀.Kept (s.settleEnd o) := by
  unfold State.settleEnd
  split
  · split
    · split
      · exact hs.endNow ..
      · exact hs
    · exact hs
  · exact hs

theorem settleTile (hs : s₀.Kept s) (t : Nat) : s₀.Kept (s.settleTile t) := by
  unfold State.settleTile
  split
  · exact hs.settleEnd ..
  · exact hs

theorem endSoon (hs : s₀.Kept s) (o : OpRef) (st : Status) (marks : Option (List Nat)) : s₀.Kept (s.endSoon o st marks) := by
  unfold State.endSoon
  split
  · split
    · exact hs.endNow ..
    · dsimp only
      exact (((hs.stopOps ..).foldl _ fun _ _ hu => hu.updTile ..).updOp ..).settleEnd ..
  · exact hs

theorem poisonOp (hs : s₀.Kept s) (o : OpRef) (damaged : List Nat) : s₀.Kept (s.poisonOp o damaged) := by
  unfold State.poisonOp
  split
  · exact hs.endSoon ..
  · exact hs

theorem memFault (hs : s₀.Kept s) (o : OpRef) (access : Nat) (e : MemErr) (rep : BitVec 16) : s₀.Kept (s.memFault o access e rep) := by
  unfold State.memFault
  split
  · exact hs
  · split
    · exact (hs.capture ..).endSoon ..
    · exact (hs.badLine ..).poisonOp ..

theorem keyFault (hs : s₀.Kept s) (o : OpRef) (cause dir : Nat) : s₀.Kept (s.keyFault o cause dir) := by
  unfold State.keyFault
  split
  · exact hs
  · dsimp only
    split
    · exact hs.bump ..
    · exact (hs.bump ..).setReg ..

theorem opFailed (hs : s₀.Kept s) (o : OpRef) (rep : BitVec 16) (h : Halt) : s₀.Kept (s.opFailed o rep h) := by
  unfold State.opFailed
  split
  · exact hs.settleEnd ..
  · extract_lets damaged spoiled
    have hspoiled : s₀.Kept spoiled := by
      unfold spoiled
      split
      · exact (hs.updOp ..).spoil ..
      · exact hs
    clear_value spoiled
    split
    · exact hspoiled
    · exact hspoiled.poisonOp ..
    · exact hspoiled.poisonOp ..
    · exact hspoiled.poisonOp ..
    · exact hspoiled.endSoon ..
    · exact hspoiled.memFault ..
    · exact (hspoiled.keyFault ..).endSoon ..
    · exact hspoiled.poisonOp ..

theorem halted (hs : s₀.Kept s) (x : Seat) (a : Halt) : s₀.Kept (s.halted x a) := by
  unfold State.halted
  split
  · exact hs.updStream ..
  · exact (hs.updStream ..).opFailed ..

theorem issue {work : Seat → Eng Unit} (hs : s₀.Kept s) (hwork : ∀ a, EngKept (work a)) (t k op : Nat) (w : StreamWord) :
    s₀.Kept (s.issue t k op w work) := by
  unfold State.issue
  split
  · exact hs
  · split
    next e1 => exact ((hs.eng_ok (hwork _) e1).updStream ..).settleTile ..
    next e1 => exact ((hs.eng_error (hwork _) e1).halted ..).settleTile ..

theorem issueAt (hs : s₀.Kept s) (t k op : Nat) (w : StreamWord) (go : Stream → Stream) : s₀.Kept (s.issueAt t k op w go) := by
  unfold State.issueAt
  split
  · exact hs
  · exact (hs.updStream ..).settleTile ..

end State.Kept

namespace EngKept

theorem engCount (p n k : Nat) : EngKept (engCount p n k) := by
  unfold Machine.engCount
  exact .engPut fun _ hu => hu.countBy ..

theorem engResidue (b : Bool) : EngKept (engResidue b) := by
  unfold Machine.engResidue
  split
  · exact .pure _
  · exact .engStall ..

theorem engAssert (b : Bool) (st : Status) : EngKept (engAssert b st) := by
  unfold Machine.engAssert
  split
  · exact .pure _
  · exact .engFault ..

theorem engDraw : EngKept engDraw := by
  unfold Machine.engDraw
  refine .of fun s₀ s hs => ?_
  exact hs.draw ..

theorem spadReach (t lo hi : Nat) : EngKept (spadReach t lo hi) := by
  unfold Machine.spadReach
  exact .bind .engGet fun _ => .ite (.engFault ..) (.ite (.engStall ..) (.pure _))

theorem scrRead (t a w n : Nat) : EngKept (scrRead t a w n) := by
  unfold Machine.scrRead
  split
  · exact .pure _
  · exact .bind (.spadReach ..) fun _ => .bind .engGet fun _ => .pure _

theorem scrWrite (t a w : Nat) (xs : List Nat) : EngKept (scrWrite t a w xs) := by
  unfold Machine.scrWrite
  split
  · exact .pure _
  · exact .bind (.spadReach ..) fun _ => .engPut fun _ hu => hu.updTile ..

theorem consAddr (t q n : Nat) : EngKept (consAddr t q n) := by
  unfold Machine.consAddr
  exact .bind .engGet fun _ => .ite (.engStall ..) (.ite (.engFault ..) (.pure _))

theorem prodAddr (t q n : Nat) : EngKept (prodAddr t q n) := by
  unfold Machine.prodAddr
  exact .bind .engGet fun _ => .ite (.engStall ..) (.ite (.engFault ..) (.pure _))

theorem consMove (t q n : Nat) : EngKept (consMove t q n) := by
  unfold Machine.consMove
  exact .engPut fun _ hu => hu.updQueue ..

theorem prodMove (t q n : Nat) : EngKept (prodMove t q n) := by
  unfold Machine.prodMove
  exact .engPut fun _ hu => hu.updQueue ..

theorem release (t q : Nat) : EngKept (release t q) := by
  unfold Machine.release
  exact .bind .engGet fun _ => .ite (.pure _) (.bind (.engAssert ..) fun _ => .engPut fun _ hu => hu.updQueue ..)

theorem commit (t q : Nat) : EngKept (commit t q) := by
  unfold Machine.commit
  exact .bind .engGet fun _ => .ite (.pure _) (.when_bind (.engStall ..) fun _ => .engPut fun _ hu => hu.updQueue ..)

theorem takeDirect (x : Seat) (q n : Nat) (second : Bool) : EngKept (takeDirect x q n second) := by
  unfold Machine.takeDirect
  exact .bind .engGet fun _ => .ite (.bind (.engPut fun _ hu => (hu.updQueue ..).updStream ..) fun _ => .ite (.engStall ..) (.pure _)) (.pure _)

theorem drainDirect (x : Seat) (q : Nat) : EngKept (drainDirect x q) := by
  unfold Machine.drainDirect
  exact .bind .engGet fun _ => .ite (.bind (.engPut fun _ hu => (hu.updQueue ..).updStream ..) fun _ => .ite (.pure _) (.engStall ..)) (.pure _)

theorem readEnd (x : Seat) (q n : Nat) (second : Bool) : EngKept (readEnd x q n second) := by
  unfold Machine.readEnd
  exact .bind .engGet fun _ => .ite (.bind (.engPut fun _ hu => hu.updStream ..) fun _ => .pure _) (.bind (.consAddr ..) fun _ =>
    .bind (.scrRead ..) fun _ => .bind (.consMove ..) fun _ => .pure _)

theorem writeEnd (x : Seat) (q : Nat) (xs : List Nat) : EngKept (writeEnd x q xs) := by
  unfold Machine.writeEnd
  exact .bind .engGet fun _ => .ite (.engPut fun _ hu => hu.updStream ..) (.bind (.prodAddr ..) fun _ => .bind (.scrWrite ..) fun _ => .prodMove ..)

theorem runUnits {pre unit : Nat → Eng Unit} (hpre : ∀ i, EngKept (pre i)) (hunit : ∀ i, EngKept (unit i)) (x : Seat) (outQ : Option Nat)
  (fuel i : Nat) :
    EngKept (Machine.runUnits x outQ pre unit fuel i) := by
  have drained : EngKept (match outQ with | some q => Machine.drainDirect x q | none => Pure.pure ()) := by
    split
    · exact .drainDirect ..
    · exact .pure _
  induction fuel generalizing i with
  | zero => exact drained
  | succ fuel ih =>
    unfold Machine.runUnits
    extract_lets rest
    have hrest (r : PUnit) : EngKept (rest r) :=
      .bind (hpre i) fun _ => .bind (.atomically (hunit i)) fun _ => .bind (.engPut fun _ hu => hu.updStream ..) fun _ => ih (i + 1)
    split
    · exact .bind (.drainDirect ..) hrest
    · exact hrest ()

theorem allUnits {pre unit : Nat → Eng Unit} (hpre : ∀ a, EngKept (pre a)) (hunit : ∀ a, EngKept (unit a)) (x : Seat) (total : Nat)
  (outQ : Option Nat) :
    EngKept (allUnits x total outQ pre unit) := by
  unfold Machine.allUnits
  exact .bind .engGet fun _ => .runUnits (fun _ => (hpre _)) (fun _ => (hunit _)) ..

theorem descAt (x : Seat) (i : Nat) : EngKept (descAt x i) := by
  unfold Machine.descAt
  exact .bind .engGet fun _ => .pure _

end EngKept

namespace State.Kept

theorem slotCommit (hs : s₀.Kept s) (t q : Nat) : s₀.Kept (s.slotCommit t q) := by
  unfold State.slotCommit
  dsimp only
  split
  · exact hs
  · exact (hs.setTile ..).settleTile ..

theorem slotRelease (hs : s₀.Kept s) (t q : Nat) : s₀.Kept (s.slotRelease t q) := by
  unfold State.slotRelease
  dsimp only
  split
  · exact hs
  · exact (hs.setTile ..).settleTile ..

end State.Kept

end Sys2Proof.Machine
end
section
/-! SUPPORT. The control stream: no operation changes a fuse, takes back an output or frees a used value. -/
namespace Sys2Proof.Machine

variable {s₀ s : State}

namespace State.Kept

theorem setSem (hs : s₀.Kept s) (t n : Nat) (free : Bool) (v : Nat) : s₀.Kept (s.setSem t n free v) := by
  unfold State.setSem
  split <;> exact hs.setField ..

theorem semTake (hs : s₀.Kept s) (t pair : Nat) (free : Bool) (n : Nat) : s₀.KeptSome (s.semTake t pair free n) := by
  unfold State.semTake
  dsimp only
  split
  · exact hs.setSem ..
  · trivial

theorem swait (hs : s₀.Kept s) (t k : Nat) (w : StreamWord) : s₀.Kept (s.swait t k w) := by
  unfold State.swait
  split
  · exact hs
  · dsimp only
    split
    next e1 => exact ((hs.semTake ..).of_some e1).updStream ..
    · exact hs.updStream ..

end State.Kept

namespace EngKept

theorem putPost (x : Seat) (target : Nat) (w : StreamWord) : EngKept (putPost x target w) := by
  unfold Machine.putPost
  exact .bind .engGet fun _ => .when_bind (.engStall ..) fun _ => .engPut fun _ hu => hu.updTile ..

end EngKept

namespace State.Kept

theorem postEffect (hs : s₀.Kept s) (t : Nat) : s₀.Kept (s.postEffect t) := by
  unfold State.postEffect
  split
  · dsimp only
    split
    · exact ((hs.updTile ..).setSem ..).settleTile ..
    · exact (hs.updTile ..).endSoon ..
  · exact hs

theorem tilePart (hs : s₀.Kept s) (t : Nat) : s₀.Kept (s.tilePart t) := by
  unfold State.tilePart
  split
  · exact hs
  · split
    · exact hs
    · split
      · dsimp only
        split
        · exact (hs.updTile ..).updOp ..
        · exact hs.updTile ..
      · exact hs

end State.Kept

end Sys2Proof.Machine
end
section
/-! SUPPORT. The ports and their frames: no operation changes a fuse, takes back an output or frees a used value. -/
namespace Sys2Proof.Machine

variable {s₀ s : State}

namespace State.Kept

theorem putOnWire (hs : s₀.Kept s) (q : Nat) (f : Frame) : s₀.Kept (s.putOnWire q f) := by
  unfold State.putOnWire
  exact (hs.setPort ..).emit ..

theorem sendKept (hs : s₀.Kept s) (q : Nat) (f : Frame) : s₀.Kept (s.sendKept q f) := by
  unfold State.sendKept
  exact (hs.setPort ..).putOnWire ..

theorem beginRekey (hs : s₀.Kept s) (q : Nat) : s₀.Kept (s.beginRekey q) := by
  unfold State.beginRekey
  exact ((hs.draw ..).updPort ..).sendKept ..

theorem rekeyAt40 (hs : s₀.Kept s) (q : Nat) : s₀.Kept (s.rekeyAt40 q) := by
  unfold State.rekeyAt40
  split
  · exact hs.beginRekey ..
  · exact hs

theorem transmit (hs : s₀.Kept s) (q : Nat) (f : Frame) : s₀.Kept (s.transmit q f) := by
  unfold State.transmit
  exact (hs.sendKept ..).rekeyAt40 ..

theorem sendFrame (hs : s₀.Kept s) (q : Nat) (through : Bool) (f : Frame) : s₀.Kept (s.sendFrame q through f) := by
  unfold State.sendFrame
  dsimp only
  split
  · exact (hs.setPort ..).transmit ..
  · exact hs.setPort ..

theorem drainQueue (hs : s₀.Kept s) (q n : Nat) : s₀.Kept (State.drainQueue q n s) := by
  induction n generalizing s with
  | zero => exact hs
  | succ n ih =>
    unfold State.drainQueue
    dsimp only
    split
    · exact .ite (ih ((hs.setPort ..).transmit ..)) hs
    · exact hs

theorem spanLost (hs : s₀.Kept s) (n : Nat) : s₀.Kept (s.spanLost n) := by
  unfold State.spanLost
  exact ((hs.bump ..).setField ..).reportLog ..

theorem spanSend (hs : s₀.Kept s) (n : Nat) (f : Frame) : s₀.Kept (s.spanSend n f) := by
  unfold State.spanSend
  split
  · exact hs.sendFrame ..
  · exact hs.spanLost ..

theorem linkLog (hs : s₀.Kept s) (q event detail : Nat) (part : Option Nat) : s₀.Kept (s.linkLog q event detail part) := by
  unfold State.linkLog
  exact hs.reportLog ..

theorem linkTrace (hs : s₀.Kept s) (q event detail : Nat) : s₀.Kept (s.linkTrace q event detail) := by
  unfold State.linkTrace
  exact hs.reportTrace ..

theorem dropQueue (hs : s₀.Kept s) (q : Nat) : s₀.Kept (s.dropQueue q) := by
  unfold State.dropQueue
  dsimp only
  exact (hs.foldl _ fun _ _ hu => hu.spanLost ..).foldl _ fun _ _ hu => hu.linkLog ..

theorem portDown (hs : s₀.Kept s) (q : Nat) (retry : Bool) : s₀.Kept (s.portDown q retry) := by
  unfold State.portDown
  exact (hs.dropQueue ..).updPort ..

theorem phaseFailed (hs : s₀.Kept s) (q : Nat) : s₀.Kept (s.phaseFailed q) := by
  unfold State.phaseFailed
  exact (hs.linkLog ..).portDown ..

theorem linkLost (hs : s₀.Kept s) (q reason : Nat) : s₀.Kept (s.linkLost q reason) := by
  unfold State.linkLost
  dsimp only
  split
  · exact (hs.reportAlarm ..).portDown ..
  · exact (hs.reportAlarm ..).phaseFailed ..

theorem mirrorRun (hs : s₀.Kept s) (p : Nat) (n : Fin 64) (a len : Nat) : s₀.Kept (s.mirrorRun p n a len) := by
  unfold State.mirrorRun
  dsimp only
  exact hs.foldl _ fun _ _ hu => (hu.countBy ..).spanSend ..

theorem mirror (hs : s₀.Kept s) (p : Nat) (runs : List (Nat × List Byte)) : s₀.Kept (s.mirror p runs) := by
  unfold State.mirror
  exact hs.foldl _ fun _ _ hu => hu.foldl _ fun _ _ hv => hv.mirrorRun ..

theorem mirrorSignal (hs : s₀.Kept s) (p a value : Nat) : s₀.Kept (s.mirrorSignal p a value) := by
  unfold State.mirrorSignal
  exact hs.foldl _ fun _ _ hu => .ite ((hu.countBy ..).spanSend ..) hu

end State.Kept

end Sys2Proof.Machine
end
section
/-! SUPPORT. The feeder: no operation changes a fuse, takes back an output or frees a used value. -/
namespace Sys2Proof.Machine

variable {s₀ s : State}

namespace EngKept

theorem engMem (access : Nat) (a : Except MemErr (List Byte)) : EngKept (engMem access a) := by
  unfold Machine.engMem
  split
  · exact .pure _
  · refine .of fun s₀ s hs => ?_
    exact hs

theorem engStore {f : State → Except XFault State} (hf : ∀ {s₀ s : State}, s₀.Kept s → s₀.KeptOk id (f s)) (access : Nat) : EngKept
  (engStore access f) := by
  refine .of fun s₀ s hs => ?_
  unfold Machine.engStore
  split
  · next e => exact (hf hs).of_ok e
  · exact hs

theorem engFeed (p : Nat) (unit : Option Nat) (runs : List (Nat × List Byte)) : EngKept (engFeed p unit runs) :=
  .bind (.engStore (fun hs => hs.writeRuns ..) _) fun _ => .engPut fun _ hu => hu.mirror ..

theorem sourceLines (x : Seat) (r : FeedRec) (rows : List Nat) (count : Nat) : EngKept (sourceLines x r rows count) := by
  unfold Machine.sourceLines
  refine .bind .engGet fun s => ?_
  split
  · split
    · split
      · exact .pure _
      · exact .engFault ..
    · exact .engMem ..
  · dsimp only
    refine .bind (.engAssert ..) fun _ => ?_
    split
    · refine .of fun s₀ s hs => ?_
      exact hs
    · exact .bind (.engAssert ..) fun _ => .pure _

end EngKept

namespace State.Kept

theorem combineRun (hs : s₀.Kept s) (p fn q w a : Nat) (vals : List Nat) (unit : Option Nat) : s₀.KeptOk id (s.combineRun p fn q w a vals unit) := by
  unfold State.combineRun
  dsimp only
  split
  · trivial
  · split
    · trivial
    · refine State.KeptOk.map (left := Prod.fst) (State.KeptOk.foldl (r := Except.ok (s, vals)) (left := Prod.fst) hs _ fun r x hr => ?_) fun _ hu =>
        hu
      split
      · trivial
      · next u vs =>
        have hu : s₀.Kept u := hr
        split
        · trivial
        · next e => exact (hu.atHome ..).of_ok e

end State.Kept

namespace EngKept

theorem combineStore (x : Seat) (d : TDesc) (rows : List Nat) (vals : List (List Nat)) : EngKept (Machine.combineStore x d rows vals) := by
  refine .of fun s₀ s hs => ?_
  unfold Machine.combineStore
  dsimp only
  split
  · next e =>
    refine State.KeptOk.of_ok (left := id) (State.KeptOk.foldl (r := Except.ok s) (left := id) hs _ fun r y hr => ?_) e
    obtain ⟨o, v⟩ := y
    dsimp only
    split
    · trivial
    · next u =>
      have hu : s₀.Kept u := hr
      exact hu.combineRun ..
  · exact hs

theorem wroteAt (x : Seat) (rs : List (Nat × List Byte)) : EngKept (wroteAt x rs) := by
  unfold Machine.wroteAt
  exact .engPut fun _ hu => hu.updTile ..

theorem addedAt (x : Seat) (rs : List (Nat × List Byte)) : EngKept (addedAt x rs) := by
  unfold Machine.addedAt
  exact .engPut fun _ hu => hu.updTile ..

theorem destLines (x : Seat) (r : FeedRec) (rows : List Nat) (bs : List Byte) : EngKept (destLines x r rows bs) := by
  unfold Machine.destLines
  refine .bind .engGet fun _ => ?_
  dsimp only
  split
  · split
    · split
      · exact .engPut fun _ hu => hu.updTile ..
      · exact .engFault ..
    · exact .bind (.engFeed ..) fun _ => .wroteAt ..
  · exact .bind (.engAssert ..) fun _ => .ite (.when_bind (.engStall ..) fun _ => .bind (.combineStore ..) fun _ =>
      .addedAt ..) (.ite (.engPut fun _ hu => hu.updTile ..) (.bind (.engFeed ..) fun _ => .wroteAt ..))

theorem slotRead (t q count : Nat) : EngKept (slotRead t q count) := by
  unfold Machine.slotRead
  exact .bind (.engPut fun _ hu => hu.updQueue ..) fun _ => .bind (.consAddr ..) fun _ => .bind (.spadReach ..) fun _ => .bind .engGet fun _ =>
    .bind (.consMove ..) fun _ => .pure _

theorem slotWrite (t q : Nat) (bs : List Byte) : EngKept (slotWrite t q bs) := by
  unfold Machine.slotWrite
  exact .bind (.engPut fun _ hu => hu.updQueue ..) fun _ => .bind (.prodAddr ..) fun _ => .bind (.spadReach ..) fun _ => .bind (.engPut fun _ hu =>
    hu.updTile ..) fun _ => .prodMove ..

theorem feedWork (x : Seat) (op : Nat) (w : StreamWord) (rows : List Nat) : EngKept (feedWork x op w rows) := by
  unfold Machine.feedWork
  dsimp only
  refine .bind (.descAt ..) fun _ => ?_
  split
  · exact .bind (.sourceLines ..) fun _ => .bind (.slotWrite ..) fun _ => .bind (.engCount ..) fun _ => .when_bind (.release ..) fun _ =>
      .ite (.commit ..) (.pure _)
  · exact .bind (.slotRead ..) fun _ => .bind (.destLines ..) fun _ => .bind (.engCount ..) fun _ => .when_bind (.release ..) fun _ =>
      .ite (.commit ..) (.pure _)
  · exact .bind (.sourceLines ..) fun _ => .bind (.descAt ..) fun _ => .bind (.destLines ..) fun _ => .when_bind (.engCount ..) fun _ =>
      .when_bind (.engCount ..) fun _ => .when_bind (.release ..) fun _ => .ite (.commit ..) (.pure _)
  · exact .bind (.descAt ..) fun _ => .bind (.slotWrite ..) fun _ => .when_bind (.release ..) fun _ => .ite (.commit ..) (.pure _)
  · exact .bind (.slotRead ..) fun _ => .bind (.slotWrite ..) fun _ => .when_bind (.release ..) fun _ => .ite (.commit ..) (.pure _)

theorem issueBounds (x : Seat) (rows : List Nat) (r : FeedRec) (dest : Bool) : EngKept (issueBounds x rows r dest) := by
  unfold Machine.issueBounds
  exact .bind .engGet fun _ => .ite (.pure _) (.bind (.engAssert ..) fun _ => .ite (.engAssert ..) (.pure _))

end EngKept

namespace State.Kept

theorem feedIssue (hs : s₀.Kept s) (t op : Nat) (w : StreamWord) : s₀.Kept (s.feedIssue t op w) :=
  hs.issue (fun _ => .bind .engGet fun _ => .when_bind (.engStall ..) fun _ => .when_bind_bind (.descAt ..) (fun _ => .issueBounds ..) fun _ =>
    .when_bind_bind (.descAt ..) (fun _ => .issueBounds ..) fun _ => .when_bind_bind (.descAt ..) (fun _ => .issueBounds ..) fun _ =>
    .engPut fun _ hu => hu.updTile ..) ..

theorem feederDone (hs : s₀.Kept s) (t f : Nat) : s₀.Kept (s.feederDone t f) := by
  unfold State.feederDone
  split
  · exact hs
  · split
    · split
      next e3 => exact ((hs.eng_ok (.atomically (.feedWork ..) ..) e3).updTile ..).settleTile ..
      next e3 => exact hs.eng_error (.atomically (.feedWork ..) ..) e3
      next e4 => exact ((hs.eng_error (.atomically (.feedWork ..) ..) e4).updTile ..).halted ..
    · exact hs

end State.Kept

end Sys2Proof.Machine
end
section
/-! SUPPORT. The transform, reorder and cable streams: no operation changes a fuse, takes back an output or frees a used value. -/
namespace Sys2Proof.Machine

variable {s₀ s : State}

namespace State.Kept

theorem twiddles (hs : s₀.Kept s) (p t : Nat) (e : PrimeEntry) (n : Nat) (fwd : Bool) : s₀.KeptOk Prod.snd (s.twiddles p t e n fwd) := by
  unfold State.twiddles
  split
  · exact hs
  · split
    · trivial
    next e2 =>
      dsimp only
      split
      · exact (hs.narrowRead ..).of_ok e2
      · trivial

theorem transform (hs : s₀.Kept s) (p t : Nat) (e : PrimeEntry) (n : Nat) (fwd : Bool) (xs : List Nat) :
    s₀.KeptOk Prod.snd (s.transform p t e n fwd xs) := by
  unfold State.transform
  split
  · trivial
  next e1 => exact (hs.twiddles ..).of_ok e1
  next e1 => exact ((hs.twiddles ..).of_ok e1).drawBelow ..

end State.Kept

namespace EngKept

theorem engEntry (p c e : Nat) : EngKept (engEntry p c e) := by
  unfold Machine.engEntry
  refine .bind .engGet fun _ => ?_
  split
  · exact .pure _
  · exact .engFault ..

theorem engType (t q : Nat) : EngKept (engType t q) := by
  unfold Machine.engType
  exact .bind .engGet fun _ => .pure _

theorem needResidue (t q : Nat) : EngKept (needResidue t q) := by
  unfold Machine.needResidue
  exact .bind (.engType ..) fun _ => .engAssert ..

theorem markSat (o : OpRef) (b : Bool) : EngKept (markSat o b) := by
  unfold Machine.markSat
  split
  · exact .engPut fun _ hu => hu.updOp ..
  · exact .pure _

theorem engTransform (p t : Nat) (e : PrimeEntry) (n : Nat) (fwd : Bool) (xs : List Nat) : EngKept (engTransform p t e n fwd xs) := by
  unfold Machine.engTransform
  refine .of fun s₀ s hs => ?_
  split
  · exact hs
  · split
    next e2 =>
      split
      · exact (hs.transform ..).of_ok e2
      · exact hs
    · exact hs
    · exact hs

theorem nttWork (w : StreamWord) (fwd : Bool) (x : Seat) : EngKept (nttWork w fwd x) := by
  unfold Machine.nttWork
  exact .bind (.needResidue ..) fun _ => .bind (.needResidue ..) fun _ => .bind (.descAt ..) fun _ => .bind .engGet fun _ => .allUnits (fun _ =>
    .pure _) (fun _ => .bind (.engEntry ..) fun _ => .bind (.readEnd ..) fun _ => .bind (.engAssert ..) fun _ => .bind (.engTransform ..) fun _ =>
    .bind (.writeEnd ..) fun _ => .when_bind (.release ..) fun _ => .ite (.commit ..) (.pure _)) ..

theorem ffteWork (w : StreamWord) (x : Seat) : EngKept (ffteWork w x) := by
  unfold Machine.ffteWork
  exact .bind (.engType ..) fun _ => .bind (.engAssert ..) fun _ => .bind (.needResidue ..) fun _ => .bind (.descAt ..) fun _ =>
    .bind .engGet fun _ => .allUnits (fun _ => .pure _) (fun _ => .bind (.engEntry ..) fun _ => .bind (.engPut fun _ hu => hu.updQueue ..) fun _ =>
    .bind (.readEnd ..) fun _ => .bind (.writeEnd ..) fun _ => .bind (.markSat ..) fun _ => .when_bind (.release ..) fun _ =>
    .ite (.commit ..) (.pure _)) ..

theorem finish (x : Seat) (w : StreamWord) : EngKept (finish x w) := by
  unfold Machine.finish
  exact .when_bind (.release ..) fun _ => .ite (.commit ..) (.pure _)

theorem ccopyWork (w : StreamWord) (x : Seat) : EngKept (ccopyWork w x) := by
  unfold Machine.ccopyWork
  exact .bind (.engType ..) fun _ => .bind (.engType ..) fun _ => .bind (.engAssert ..) fun _ => .allUnits (fun _ => .takeDirect ..) (fun _ =>
    .bind (.readEnd ..) fun _ => .bind (.writeEnd ..) fun _ => .ite (.finish ..) (.pure _)) ..

theorem cautWork (w : StreamWord) (eval : Bool) (x : Seat) : EngKept (cautWork w eval x) := by
  unfold Machine.cautWork
  dsimp only
  refine .bind (.needResidue ..) fun _ => .bind (.needResidue ..) fun _ => .bind (.descAt ..) fun _ => .allUnits (fun _ => .takeDirect ..) (fun _ =>
    .bind (.readEnd ..) fun _ => ?_) ..
  split
  · exact .bind (.writeEnd ..) fun _ => .finish ..
  · refine .bind .engGet fun _ => ?_
    split
    · exact .bind (.engEntry ..) fun _ => .bind (.engAssert ..) fun _ => .bind (.writeEnd ..) fun _ => .finish ..
    · exact .bind (.engDraw ..) fun _ => .bind (.writeEnd ..) fun _ => .finish ..

theorem slotElements (x : Seat) (q : Nat) : EngKept (slotElements x q) := by
  unfold Machine.slotElements
  exact .bind .engGet fun _ => .pure _

theorem listEntries (x : Seat) (q n : Nat) : EngKept (listEntries x q n) := by
  unfold Machine.listEntries
  exact .bind (.engType ..) fun _ => .bind (.engAssert ..) fun _ => .readEnd ..

theorem wholeSlot (x : Seat) (q n : Nat) : EngKept (wholeSlot x q n) := by
  unfold Machine.wholeSlot
  exact .bind .engGet fun _ => .when_bind (.engPut fun _ hu => hu.updQueue ..) fun _ => .readEnd ..

theorem cgathWork (w : StreamWord) (x : Seat) : EngKept (cgathWork w x) := by
  unfold Machine.cgathWork
  dsimp only
  refine .bind (.engType ..) fun _ => .bind (.engType ..) fun _ => .bind (.engAssert ..) fun _ => .bind .engGet fun _ =>
    .bind (.engAssert ..) fun _ => .allUnits (fun _ => .takeDirect ..) (fun _ => .bind (.descAt ..) fun _ => .bind (.slotElements ..) fun _ =>
    .bind (.wholeSlot ..) fun _ => .bind (.listEntries ..) fun _ => .bind (.engAssert ..) fun _ => .bind (.engAssert ..) fun _ =>
    .bind .engGet fun _ => .bind ?_ fun _ => .bind (.writeEnd ..) fun _ => .ite (.bind (.release ..) fun _ => .bind (.release ..) fun _ =>
    .ite (.commit ..) (.pure _)) (.ite (.commit ..) (.pure _))) ..
  split
  · split
    · exact .bind (.engEntry ..) fun _ => .pure _
    · exact .pure _
  · exact .bind (.engDraw ..) fun _ => .pure _

theorem slotLines (x : Seat) (q : Nat) : EngKept (slotLines x q) := by
  unfold Machine.slotLines
  exact .bind (.engPut fun _ hu => hu.updQueue ..) fun _ => .bind .engGet fun _ => .bind (.consAddr ..) fun _ => .bind (.scrRead ..) fun _ =>
    .bind (.consMove ..) fun _ => .pure _

theorem writeLines (x : Seat) (q : Nat) (ls : List Nat) : EngKept (writeLines x q ls) := by
  unfold Machine.writeLines
  exact .bind .engGet fun _ => .ite (.bind (.engAssert ..) fun _ => .writeEnd ..) (.bind (.prodAddr ..) fun _ => .bind (.scrWrite ..) fun _ =>
    .prodMove ..)

theorem crgathWork (w : StreamWord) (x : Seat) : EngKept (crgathWork w x) := by
  unfold Machine.crgathWork
  exact .bind (.engType ..) fun _ => .bind (.engType ..) fun _ => .bind (.engAssert ..) fun _ => .bind .engGet fun _ =>
    .bind (.engAssert ..) fun _ => .bind (.descAt ..) fun _ => .allUnits (fun _ => .takeDirect ..) (fun _ => .bind (.slotLines ..) fun _ =>
    .bind (.listEntries ..) fun _ => .bind (.engAssert ..) fun _ => .bind (.writeLines ..) fun _ => .ite (.bind (.release ..) fun _ =>
    .bind (.release ..) fun _ => .ite (.commit ..) (.pure _)) (.ite (.commit ..) (.pure _))) ..

theorem ctransWork (w : StreamWord) (x : Seat) : EngKept (ctransWork w x) := by
  unfold Machine.ctransWork
  exact .bind (.engType ..) fun _ => .bind (.engType ..) fun _ => .bind (.engAssert ..) fun _ => .bind (.descAt ..) fun _ => .allUnits (fun _ =>
    .takeDirect ..) (fun _ => .bind (.readEnd ..) fun _ => .bind (.writeEnd ..) fun _ => .ite (.finish ..) (.pure _)) ..

theorem sharePiece (x : Seat) (t line off w : Nat) (xs : List Nat) : EngKept (sharePiece x t line off w xs) := by
  unfold Machine.sharePiece
  exact .bind (.engAssert ..) fun _ => .bind (.scrWrite ..) fun _ => .ite (.engCount ..) (.pure _)

theorem exchangeLimb (x : Seat) (r : CableRec) (tiles : List Nat) (reverse : Bool) (w i : Nat) (xs : List Nat) :
    EngKept (exchangeLimb x r tiles reverse w i xs) := by
  unfold Machine.exchangeLimb
  split
  · exact .sharePiece ..
  · exact .forM fun _ => .sharePiece ..

theorem exchangeElements (x : Seat) (r : CableRec) (reverse : Bool) (q : Nat) : EngKept (exchangeElements x r reverse q) := by
  unfold Machine.exchangeElements
  refine .bind .engGet fun _ => ?_
  split
  · exact .slotElements ..
  · split
    · exact .bind (.engAssert ..) fun _ => .pure _
    · exact .engFault ..

theorem cxchgWork (w : StreamWord) (x : Seat) : EngKept (cxchgWork w x) := by
  unfold Machine.cxchgWork
  dsimp only
  exact .bind (.needResidue ..) fun _ => .bind (.descAt ..) fun _ => .bind .engGet fun _ => .bind (.engType ..) fun _ =>
    .bind (.exchangeElements ..) fun _ => .bind (.engAssert ..) fun _ => .bind (.allUnits (fun _ => .takeDirect ..) (fun _ =>
    .bind (.wholeSlot ..) fun _ => .bind (.exchangeLimb ..) fun _ => .ite (.release ..) (.pure _)) ..) fun _ => .bind (.engPut fun _ hu =>
    hu.updTile ..) fun _ => .engPut fun _ hu => hu.foldl _ fun _ _ hv => hv.updTile ..

end EngKept

namespace State.Kept

theorem exchangeDone (hs : s₀.Kept s) (t : Nat) : s₀.Kept (s.exchangeDone t) := by
  unfold State.exchangeDone
  split
  · dsimp only
    split
    · exact ((hs.updTile ..).setSem ..).settleTile ..
    · exact (hs.updTile ..).endSoon ..
  · exact hs

end State.Kept

end Sys2Proof.Machine
end
section
/-! SUPPORT. Expanded keys: no operation changes a fuse, takes back an output or frees a used value. -/
namespace Sys2Proof.Machine

variable {s₀ s : State}

namespace EngKept

theorem keyOpen (p idx : Nat) (e : KeyEntry) (r : OpRec) (n : KeyNeed) : EngKept (keyOpen p idx e r n) := by
  unfold Machine.keyOpen
  refine .of fun s₀ s hs => ?_
  split
  · dsimp only
    split <;> exact hs
  · split
    · exact hs
    · split <;> exact hs

theorem keysBound (ks : List KeySrc) : EngKept (keysBound ks) := by
  unfold Machine.keysBound
  split
  · split
    · refine .of fun s₀ s hs => ?_
      exact hs
    · exact .pure _
  · exact .pure _

theorem keyLimb (p : Nat) (k : KeySrc) (h j x q : Nat) : EngKept (keyLimb p k h j x q) := by
  unfold Machine.keyLimb
  refine .of fun s₀ s hs => ?_
  dsimp only
  split
  · exact hs
  · split
    · exact hs
    · split <;> exact hs

theorem countKey (p : Nat) (k : KeySrc) (h d : Nat) : EngKept (countKey p k h d) := by
  unfold Machine.countKey
  split
  · exact .engCount ..
  · split
    · exact .pure _
    · exact .engCount ..

theorem countMiss (p : Nat) (k : KeySrc) : EngKept (countMiss p k) := by
  unfold Machine.countMiss
  split
  · exact .pure _
  · exact .engPut fun _ hu => hu.bump ..

end EngKept

end Sys2Proof.Machine
end
section
/-! SUPPORT. Ciphertext operands: no operation changes a fuse, takes back an output or frees a used value. -/
namespace Sys2Proof.Machine

variable {s₀ s : State}

namespace State.Kept

theorem putHeader (hs : s₀.Kept s) (p h : Nat) (v : Header) : s₀.KeptOk id (s.putHeader p h v) := by
  unfold State.putHeader
  exact hs.writeVA ..

theorem countPoison (hs : s₀.Kept s) (p : Nat) : s₀.Kept (s.countPoison p) := by
  unfold State.countPoison
  exact hs.bump ..

end State.Kept

namespace EngKept

theorem readHeader (p h : Nat) : EngKept (Machine.readHeader p h) := by
  unfold Machine.readHeader
  refine .of fun s₀ s hs => ?_
  have hput (pa : Nat) := (hs.badLine pa (some p) (hankUnit (s.vfPort p))).putHeader p h damagedHeader
  generalize s.readVA p (s.handleVa p h) 64 = r
  generalize State.putHeader = put at hput ⊢
  revert r put
  -- `id` keeps the abstraction in the proof term: the kernel would otherwise compute the accesses of 64 bytes.
  refine id fun r put hput => ?_
  split
  · exact hs
  · exact hs
  · dsimp only
    split
    next e => exact ((hput _).of_ok e).countPoison ..
    · exact hs.badLine ..

theorem placeCheck (ps : List Place) : EngKept (placeCheck ps) := by
  unfold Machine.placeCheck
  exact .bind (.engAssert ..) fun _ => .engAssert ..

theorem liftChk {α : Type} (x : Except Halt α) : EngKept (liftChk x) := by
  unfold Machine.liftChk
  refine .of fun s₀ s hs => ?_
  split <;> exact hs

end EngKept

end Sys2Proof.Machine
end
section
/-! SUPPORT. The rib and ply engines: no operation changes a fuse, takes back an output or frees a used value. -/
namespace Sys2Proof.Machine

variable {s₀ s : State}

namespace EngKept

theorem readConst (p x : Nat) (unit : Option Nat) : EngKept (readConst p x unit) := by
  unfold Machine.readConst
  refine .bind (.engAssert ..) fun _ => .bind (.engAssert ..) fun _ => .bind .engGet fun _ => .bind (.engMem ..) fun _ => ?_
  split
  · exact .pure _
  · exact .engFault ..

theorem rmodeWork (w : StreamWord) (x : Seat) : EngKept (rmodeWork w x) := by
  unfold Machine.rmodeWork
  exact .bind .engGet fun _ => .when_bind (.engStall ..) fun _ => .engPut fun _ hu => hu.updTile ..

theorem rconstWork (w : StreamWord) (x : Seat) : EngKept (rconstWork w x) := by
  unfold Machine.rconstWork
  exact .bind (.descAt ..) fun _ => .bind (.readConst ..) fun _ => .engPut fun _ hu => hu.updTile ..

theorem rmacWork (w : StreamWord) (x : Seat) : EngKept (rmacWork w x) := by
  unfold Machine.rmacWork
  dsimp only
  refine .bind (.descAt ..) fun _ => .bind .engGet fun _ => .allUnits (fun _ => .bind (.takeDirect ..) fun _ =>
    .ite (.takeDirect ..) (.pure _)) (fun _ => .bind (.engAssert ..) fun _ => .bind (.engType ..) fun _ => .bind (.engType ..) fun _ =>
    .bind (.engAssert ..) fun _ => .bind (.engAssert ..) fun _ => .bind (.readEnd ..) fun _ => .ite_bind (.pure _) (.readEnd ..) fun _ =>
    .bind .engGet fun _ => .ite_bind (.engDraw ..) (.pure _) fun _ => .bind ?_ fun _ => .ite (.bind (.engType ..) fun _ =>
    .bind (.engAssert ..) fun _ => .bind (.engResidue ..) fun _ => .bind (.writeEnd ..) fun _ => .bind (.markSat ..) fun _ =>
    .bind (.engPut fun _ hu => hu.updTile ..) fun _ => .when_bind (.commit ..) fun _ => .ite (.bind (.release ..) fun _ =>
    .ite (.release ..) (.pure _)) (.pure _)) (.bind (.engPut fun _ hu => hu.updTile ..) fun _ => .ite (.bind (.release ..) fun _ =>
    .ite (.release ..) (.pure _)) (.pure _))) ..
  split
  · refine .bind (.engAssert ..) fun _ => .bind (.engAssert ..) fun _ => .bind (.engAssert ..) fun _ => .bind (.engResidue ..) fun _ => ?_
    split
    · exact .pure _
    · exact .engFault ..
  · exact .engFault ..
  · exact .pure _
  · exact .pure _

theorem customKey (x : Seat) : EngKept (customKey x) := by
  unfold Machine.customKey
  refine .bind .engGet fun _ => ?_
  split
  · exact .engFault ..
  · split
    · exact .engFault ..
    · exact .bind (.engAssert ..) fun _ => .pure _

theorem pkeyWork (x : Seat) : EngKept (pkeyWork x) := by
  unfold Machine.pkeyWork
  refine .bind (.customKey ..) fun _ => ?_
  split
  · refine .bind .engGet fun s => ?_
    split
    · exact .pure _
    · dsimp only
      split
      · refine .of fun s₀ s hs => ?_
        exact hs
      · split
        · refine .of fun s₀ s hs => ?_
          exact hs
        · split
          · exact .bind (.countMiss ..) fun _ => .engPut fun _ hu => hu.updTile ..
          · exact .engPut fun _ hu => hu.updTile ..

theorem plyLimb (p : Nat) (k : KeySrc) (h x q n : Nat) (ds : List (List Nat)) (seed : List Nat) : EngKept (plyLimb p k h x q n ds seed) := by
  unfold Machine.plyLimb
  exact .bind (.mapM fun _ => .keyLimb ..) fun _ => .bind (.countKey ..) fun _ => .when_bind (.engCount ..) fun _ => .bind .engGet fun _ =>
    .bind (.engResidue ..) fun _ => .pure _

theorem pmacWork (w : StreamWord) (x : Seat) : EngKept (pmacWork w x) := by
  unfold Machine.pmacWork
  refine .bind (.descAt ..) fun _ => .bind (.customKey ..) fun _ => .bind .engGet fun _ => ?_
  split
  · exact .when_bind (.engStall ..) fun _ => .bind (.needResidue ..) fun _ => .bind (.needResidue ..) fun _ => .allUnits (fun _ =>
      .bind (.takeDirect ..) fun _ => .ite (.takeDirect ..) (.pure _)) (fun _ => .bind (.readEnd ..) fun _ =>
      .ite_bind (.readEnd ..) (.pure _) fun _ => .bind (.forM fun _ => .bind (.engEntry ..) fun _ => .bind (.engAssert ..) fun _ => .forM fun _ =>
      .bind (.engAssert ..) fun _ => .bind (.plyLimb ..) fun _ => .writeEnd ..) fun _ => .ite (.bind (.release ..) fun _ =>
      .when_bind (.release ..) fun _ => .ite (.commit ..) (.pure _)) (.ite (.commit ..) (.pure _))) ..
  · exact .engFault ..

end EngKept

end Sys2Proof.Machine
end
section
/-! SUPPORT. The vector engine: no operation changes a fuse, takes back an output or frees a used value. -/
namespace Sys2Proof.Machine

variable {s₀ s : State}

namespace EngKept

theorem setwinWork (w : StreamWord) (x : Seat) : EngKept (setwinWork w x) := by
  unfold Machine.setwinWork
  refine .bind (.descAt ..) fun _ => .bind (.engAssert ..) fun _ => .bind .engGet fun _ => ?_
  dsimp only
  split
  · exact .bind (.engAssert ..) fun _ => .engPut fun _ hu => hu.updTile ..
  · exact .engPut fun _ hu => hu.updTile ..

theorem setvlWork (w : StreamWord) (x : Seat) : EngKept (setvlWork w x) := by
  unfold Machine.setvlWork
  exact .bind .engGet fun _ => .engPut fun _ hu => hu.updStream ..

theorem vopType (x : Seat) (v : VOp) : EngKept (vopType x v) := by
  unfold Machine.vopType
  refine .bind .engGet fun _ => ?_
  split
  · exact .pure _
  · exact .bind (.engAssert ..) fun _ => .pure _

theorem winAddrs (x : Seat) (i n : Nat) : EngKept (winAddrs x i n) := by
  unfold Machine.winAddrs
  exact .bind .engGet fun _ => .bind (.engAssert ..) fun _ => .bind (.engAssert ..) fun _ => .pure _

theorem vopAddrs (x : Seat) (v : VOp) (n : Nat) (dest : Bool) : EngKept (vopAddrs x v n dest) := by
  unfold Machine.vopAddrs
  refine .bind (.vopType ..) fun _ => ?_
  dsimp only
  split
  · exact .bind (.winAddrs ..) fun _ => .pure _
  · exact .bind .engGet fun _ => .ite (.pure _) (.ite_bind (.prodAddr ..) (.consAddr ..) fun _ => .pure _)

theorem readAddrs (x : Seat) (w : Nat) (as : List Nat) : EngKept (readAddrs x w as) := by
  unfold Machine.readAddrs
  exact .mapM fun _ => .bind (.scrRead ..) fun _ => .pure _

theorem vopRead (x : Seat) (v : VOp) (n : Nat) (second : Bool) : EngKept (vopRead x v n second) := by
  unfold Machine.vopRead
  split
  · exact .readEnd ..
  · exact .bind (.vopType ..) fun _ => .bind (.winAddrs ..) fun _ => .readAddrs ..

theorem vopWrite (x : Seat) (v : VOp) (ys : List Nat) : EngKept (vopWrite x v ys) := by
  unfold Machine.vopWrite
  split
  · exact .writeEnd ..
  · exact .bind (.vopType ..) fun _ => .bind (.winAddrs ..) fun _ => .forM fun _ => .scrWrite ..

theorem vecAdvance (x : Seat) (n : Nat) (srcs : List VOp) (dst : Option VOp) : EngKept (vecAdvance x n srcs dst) := by
  unfold Machine.vecAdvance
  refine .bind (.forM fun _ => .engPut fun _ hu => hu.updTile ..) fun _ => .bind (.forM fun _ => .release ..) fun _ => ?_
  split
  · exact .commit ..
  · exact .pure _

theorem vopPrime (x : Seat) (v : VOp) : EngKept (vopPrime x v) := by
  unfold Machine.vopPrime
  refine .bind .engGet fun _ => ?_
  split <;> exact .pure _

theorem vecPrime (x : Seat) (d : VOp) (srcs : List VOp) : EngKept (vecPrime x d srcs) := by
  unfold Machine.vecPrime
  exact .bind (.mapM fun _ => .vopPrime ..) fun _ => .pure _

theorem engDraws (m n : Nat) : EngKept (engDraws m n) := by
  unfold Machine.engDraws
  refine .of fun s₀ s hs => ?_
  exact hs.drawBelow ..

theorem lastPrime (x : Seat) (a : Option VOp) : EngKept (lastPrime x a) := by
  unfold Machine.lastPrime
  refine .bind .engGet fun _ => .bind ?_ fun _ => ?_
  · split
    · exact .vopPrime ..
    · exact .pure _
  · split <;> exact .pure _

theorem vecElement (x : Seat) (op : Nat) (g : VecArgs) (tA tB tC tD : Nat) (as bs cs : List Nat) : EngKept (vecElement x op g tA tB tC tD as bs cs) := by
  unfold Machine.vecElement
  dsimp only
  split
  · refine .bind (.engAssert ..) fun _ => .bind (.vecPrime ..) fun _ => ?_
    split
    · exact .bind (.engAssert ..) fun _ => .bind (.engResidue ..) fun _ => .pure _
    · exact .engDraws ..
  · split
    · refine .bind (.engAssert ..) fun _ => .bind .engGet fun _ => .bind (.lastPrime ..) fun _ => .bind (.vopPrime ..) fun _ => ?_
      split
      · exact .bind (.engAssert ..) fun _ => .pure _
      · exact .engDraws ..
    · split
      · refine .bind (.engAssert ..) fun _ => .bind .engGet fun _ => .bind (.vecPrime ..) fun _ => ?_
        split
        · exact .bind (.engAssert ..) fun _ => .ite (.engDraws ..) (.bind (.engResidue ..) fun _ => .pure _)
        · exact .engDraws ..
      · split
        · exact .bind (.engAssert ..) fun _ => .pure _
        · split
          · exact .bind (.engAssert ..) fun _ => .bind (.markSat ..) fun _ => .pure _
          · split
            · exact .bind (.engAssert ..) fun _ => .pure _
            · split
              · exact .bind (.engAssert ..) fun _ => .pure _
              · exact .bind (.engAssert ..) fun _ => .bind (.markSat ..) fun _ => .pure _

theorem vecWork (op : Nat) (w : StreamWord) (x : Seat) : EngKept (Machine.vecWork op w x) := by
  unfold Machine.vecWork
  generalize (vecArity op).getD (1, false) = a
  obtain ⟨arity, _⟩ := a
  refine .bind .engGet fun s => ?_
  extract_lets n sa sb dst srcA srcB outQ takeB unit
  clear_value outQ dst srcA srcB
  have htakeB (r : Unit) : EngKept (takeB r) := by
    unfold takeB
    split
    · exact .takeDirect ..
    · exact .pure _
  have hunit (rec_ : Nat) : EngKept (unit rec_) := by
    refine .bind (.vopType ..) fun tD => ?_
    extract_lets withA
    have hA (tA : Nat) : EngKept (withA tA) := by
      unfold withA
      extract_lets withB
      have hB (tB : Nat) : EngKept (withB tB) := by
        refine .bind (.vopAddrs ..) fun dA => ?_
        extract_lets readA addrA
        have hreadA (as : List Nat) : EngKept (readA as) := by
          unfold readA
          extract_lets readB
          have hreadB (bs : List Nat) : EngKept (readB bs) := by
            unfold readB
            extract_lets write
            have hwrite (cs : List Nat) : EngKept (write cs) :=
              .bind (.vecElement ..) fun _ => .bind (.vopWrite ..) fun _ => .vecAdvance ..
            refine .ite (.bind (.pure _) hwrite) (.ite (.bind (.pure _) hwrite) ?_)
            split
            · exact .bind (.readAddrs ..) hwrite
            · exact .bind (.engFault _) hwrite
          split
          · exact .bind (.vopRead ..) hreadB
          · exact .bind (.pure _) hreadB
        have haddrA (aA : Option (Nat × List Nat)) : EngKept (addrA aA) := by
          unfold addrA
          extract_lets addrB
          have haddrB (bA : Option (Nat × List Nat)) : EngKept (addrB bA) := by
            refine .bind (.engAssert ..) fun _ => ?_
            split
            · exact .bind (.vopRead ..) hreadA
            · exact .bind (.pure _) hreadA
          split
          · exact .bind (.vopAddrs ..) haddrB
          · exact .bind (.pure _) haddrB
        split
        · exact .bind (.vopAddrs ..) haddrA
        · exact .bind (.pure _) haddrA
      split
      · exact .bind (.vopType ..) hB
      · exact .bind (.pure _) hB
    split
    · exact .bind (.vopType ..) hA
    · exact .bind (.pure _) hA
  refine .ite (.pure _) (.allUnits (fun _ => ?_) (fun _ => .ite (.bind (.descAt ..) hunit) (.bind (.pure _) hunit)) ..)
  split
  · exact .bind (.takeDirect ..) htakeB
  · exact htakeB ()

end EngKept

namespace State.Kept

theorem vec (hs : s₀.Kept s) (t op : Nat) (w : StreamWord) : s₀.Kept (s.vec t op w) := by
  unfold State.vec
  exact hs.issue (fun _ => .vecWork ..) ..

end State.Kept

namespace EngKept

theorem sourcePrime (x : Seat) (a : VOp) (ty : Nat) : EngKept (sourcePrime x a ty) := by
  unfold Machine.sourcePrime
  refine .bind (.vopPrime ..) fun _ => ?_
  split
  · exact .pure _
  · split
    · exact .pure _
    · exact .bind (.engDraw ..) fun _ => .pure _

theorem vreduceWork (w : StreamWord) (x : Seat) : EngKept (vreduceWork w x) := by
  unfold Machine.vreduceWork
  refine .bind .engGet fun _ => ?_
  dsimp only
  split
  · exact .pure _
  · refine .when_bind (.engStall ..) fun _ => .allUnits (fun _ => ?_) (fun _ => .bind (.vopType ..) fun _ => .bind (.engAssert ..) fun _ =>
      .bind (.vopRead ..) fun _ => .bind (.sourcePrime ..) fun _ => .bind (.engAssert ..) fun _ => .bind .engGet fun _ => .bind ?_ fun _ =>
      .bind (.engAssert ..) fun _ => .ite (.bind (.vopType ..) fun _ => .bind .engGet fun _ => .bind (.engAssert ..) fun _ =>
      .bind (.engResidue ..) fun _ => .bind (.vopWrite ..) fun _ => .bind (.engPut fun _ hu => hu.updTile ..) fun _ =>
      .vecAdvance ..) (.bind (.engPut fun _ hu => hu.updTile ..) fun _ => .vecAdvance ..)) ..
    · split
      · exact .takeDirect ..
      · exact .pure _
    · split
      · exact .pure _
      · exact .bind (.engAssert ..) fun _ => .pure _
      · exact .engFault ..

end EngKept

end Sys2Proof.Machine
end
section
/-! SUPPORT. Key switching: no operation changes a fuse, takes back an output or frees a used value. -/
namespace Sys2Proof.Machine

variable {s₀ s : State}

namespace EngKept

theorem Run_prime (x : Run) (e : Nat) : EngKept (Run.prime x e) := by
  unfold Machine.Run.prime
  refine .of fun s₀ s hs => ?_
  exact hs

theorem Run_entries (x : Run) (es : List Nat) : EngKept (Run.entries x es) := by
  unfold Machine.Run.entries
  refine .of fun s₀ s hs => ?_
  exact hs

theorem Run_qs (x : Run) (es : List Nat) : EngKept (Run.qs x es) := by
  unfold Machine.Run.qs
  refine .of fun s₀ s hs => ?_
  exact hs

theorem readLimb (x : Run) (handle : Nat) (h : Header) (c i : Nat) : EngKept (readLimb x handle h c i) := by
  unfold Machine.readLimb
  refine .of fun s₀ s hs => ?_
  dsimp only
  split
  · exact hs
  · exact hs.badLine ..
  · split <;> exact hs

theorem readCt (x : Run) (handle : Nat) (h : Header) (comps levels : Nat) : EngKept (readCt x handle h comps levels) := by
  unfold Machine.readCt
  exact .mapM fun _ => .mapM fun _ => .readLimb ..

theorem allOrNothing {u : Eng Unit} (hu : EngKept u) : EngKept (allOrNothing u) := by
  unfold Machine.allOrNothing
  refine .of fun s₀ s hs => ?_
  split
  · exact hs
  · exact hs.run hu

theorem writeCt (p : Nat) (unit : Option Nat) (h : Header) (d : CtData) : EngKept (writeCt p unit h d) := by
  unfold Machine.writeCt
  exact .allOrNothing (.forM fun _ => .engFeed ..) ..

theorem Run_mul (x : Run) (es : List Nat) (a b : Limbs) : EngKept (Run.mul x es a b) := by
  unfold Machine.Run.mul
  exact .bind (.Run_entries ..) fun _ => .bind (.engResidue ..) fun _ => .pure _

theorem Run_scale (x : Run) (es cs : List Nat) (a : Limbs) : EngKept (Run.scale x es cs a) := by
  unfold Machine.Run.scale
  exact .bind (.Run_entries ..) fun _ => .bind (.engResidue ..) fun _ => .pure _

theorem tensorCt (x : Run) (es : List Nat) (a b : CtData) : EngKept (tensorCt x es a b) := by
  unfold Machine.tensorCt
  exact .bind (.Run_qs ..) fun _ => .bind (.Run_mul ..) fun _ => .bind (.Run_mul ..) fun _ => .bind (.Run_mul ..) fun _ =>
    .bind (.Run_mul ..) fun _ => .pure _

theorem Run_ntt (x : Run) (fwd : Bool) (es : List Nat) (ls : Limbs) : EngKept (Run.ntt x fwd es ls) := by
  unfold Machine.Run.ntt
  exact .mapM fun _ => .bind (.Run_prime ..) fun _ => .engTransform ..

theorem Run_bconv (x : Run) (src dst : List Nat) (xs : Limbs) : EngKept (Run.bconv x src dst xs) := by
  unfold Machine.Run.bconv
  exact .bind (.Run_entries ..) fun _ => .bind (.Run_entries ..) fun _ => .bind (.engResidue ..) fun _ => .pure _

theorem modUp (x : Run) (l : Nat) (d : Limbs) : EngKept (modUp x l d) := by
  unfold Machine.modUp
  exact .mapM fun _ => .bind (.Run_ntt ..) fun _ => .bind (.Run_bconv ..) fun _ => .bind (.Run_ntt ..) fun _ => .pure _

theorem plySums (x : Run) (k : KeySrc) (l g half : Nat) (dt : List Limbs) : EngKept (plySums x k l g half dt) := by
  unfold Machine.plySums
  exact .mapM fun _ => .bind (.Run_prime ..) fun _ => .bind (.mapM fun _ => .keyLimb ..) fun _ => .bind (.countKey ..) fun _ =>
    .bind (.engResidue ..) fun _ => .pure _

theorem modDown (x : Run) (l : Nat) (u : Limbs) : EngKept (modDown x l u) := by
  unfold Machine.modDown
  exact .bind (.Run_qs ..) fun _ => .bind (.Run_qs ..) fun _ => .bind (.Run_ntt ..) fun _ => .bind (.Run_bconv ..) fun _ =>
    .bind (.Run_ntt ..) fun _ => .Run_scale ..

theorem keySwitchFrom (x : Run) (k : KeySrc) (l g : Nat) (dt : List Limbs) : EngKept (keySwitchFrom x k l g dt) := by
  unfold Machine.keySwitchFrom
  exact .bind (.plySums ..) fun _ => .bind (.plySums ..) fun _ => .bind (.countMiss ..) fun _ => .bind (.modDown ..) fun _ =>
    .bind (.modDown ..) fun _ => .pure _

theorem keySwitch (x : Run) (k : KeySrc) (l g : Nat) (d : Limbs) : EngKept (keySwitch x k l g d) := by
  unfold Machine.keySwitch
  exact .bind (.modUp ..) fun _ => .keySwitchFrom ..

theorem relinCt (x : Run) (k : KeySrc) (l : Nat) (a : CtData) : EngKept (relinCt x k l a) := by
  unfold Machine.relinCt
  exact .bind (.keySwitch ..) fun _ => .bind (.Run_qs ..) fun _ => .pure _

theorem galoisCt (x : Run) (k : KeySrc) (l g : Nat) (a : CtData) (dt : List Limbs) : EngKept (galoisCt x k l g a dt) := by
  unfold Machine.galoisCt
  exact .bind (.keySwitchFrom ..) fun _ => .bind (.Run_qs ..) fun _ => .pure _

theorem rescaleLimbs (x : Run) (bgv eval : Bool) (l : Nat) (a : Limbs) : EngKept (rescaleLimbs x bgv eval l a) := by
  unfold Machine.rescaleLimbs
  exact .bind (.Run_prime ..) fun _ => .bind (.Run_qs ..) fun _ => .ite_bind (.Run_ntt ..) (.pure _) fun _ =>
    .ite_bind (.Run_ntt ..) (.pure _) fun _ => .Run_scale ..

theorem rescaleCt (x : Run) (bgv eval : Bool) (l : Nat) (a : CtData) : EngKept (rescaleCt x bgv eval l a) := by
  unfold Machine.rescaleCt
  exact .mapM fun _ => .rescaleLimbs ..

theorem rescaleDown (x : Run) (bgv eval : Bool) (k l : Nat) (a : CtData) : EngKept (rescaleDown x bgv eval k l a) := by
  induction k generalizing l a with
  | zero => exact .pure _
  | succ k ih => exact .bind (.rescaleCt ..) fun a => ih (l - 1) a

theorem mulBfv (x : Run) (l : Nat) (a b : CtData) : EngKept (mulBfv x l a b) := by
  unfold Machine.mulBfv
  exact .bind (.Run_qs ..) fun _ => .bind (.Run_qs ..) fun _ => .bind (.mapM fun _ => .bind (.Run_ntt ..) fun _ => .bind (.Run_ntt ..) fun _ =>
    .pure _) fun _ => .bind (.mapM fun _ => .bind (.Run_ntt ..) fun _ => .bind (.Run_ntt ..) fun _ => .pure _) fun _ => .bind (.tensorCt ..) fun _ =>
    .mapM fun _ => .bind (.Run_ntt ..) fun _ => .Run_ntt ..

end EngKept

end Sys2Proof.Machine
end
section
/-! SUPPORT. The expanded instructions: no operation changes a fuse, takes back an output or frees a used value. -/
namespace Sys2Proof.Machine

variable {s₀ s : State}

namespace EngKept

theorem recordBytes (p a n : Nat) : EngKept (recordBytes p a n) := by
  unfold Machine.recordBytes
  refine .of fun s₀ s hs => ?_
  split <;> exact hs

theorem readPlan (p a : Nat) : EngKept (readPlan p a) := by
  unfold Machine.readPlan
  exact .bind (.recordBytes ..) fun _ => .ite (.pure _) (.bind (.recordBytes ..) fun _ => .pure _)

theorem readPoly (p a extra : Nat) (ckks : Bool) : EngKept (readPoly p a extra ckks) := by
  unfold Machine.readPoly
  exact .bind (.recordBytes ..) fun _ => .bind (.engAssert ..) fun _ => .bind (.recordBytes ..) fun _ => .pure _

theorem ptLimbs (x : Run) (l : Nat) (a : Pt) : EngKept (ptLimbs x l a) := by
  unfold Machine.ptLimbs
  split
  · exact .mapM fun _ => .bind (.Run_prime ..) fun _ => .bind .engGet fun _ => .bind (.engMem ..) fun _ => .bind (.engAssert ..) fun _ => .pure _
  · exact .bind (.Run_qs ..) fun _ => .pure _
  · exact .mapM fun _ => .bind (.Run_prime ..) fun _ => .pure _

theorem XStep_run (x : Run) (scheme : Nat) (keys : List (Nat × KeySrc)) (st : XStep) (l : Nat) (a b : CtData) :
    EngKept (XStep.run x scheme keys st l a b) := by
  unfold Machine.XStep.run
  refine .bind (.Run_qs ..) fun _ => ?_
  split
  · exact .pure _
  · exact .pure _
  · split
    · exact .bind (.ptLimbs ..) fun _ => .pure _
    · exact .pure _
  · split
    · exact .bind (.ptLimbs ..) fun _ => .mapM fun _ => .Run_mul ..
    · exact .pure _
  · exact .mapM fun _ => .Run_scale ..
  · split
    · exact .mulBfv ..
    · exact .tensorCt ..
  · split
    · exact .relinCt ..
    · exact .pure _
  · split
    · exact .bind (.modUp ..) fun _ => .galoisCt ..
    · exact .pure _
  · exact .rescaleCt ..
  · exact .pure _
  · exact .mapM fun _ => .Run_ntt ..
  · exact .mapM fun _ => .Run_ntt ..

theorem Prog_run (x : Run) (scheme : Nat) (keys : List (Nat × KeySrc)) (vs : List Content) (b : Prog) (d : CtData) :
    EngKept (Prog.run x scheme keys vs b d) := by
  unfold Machine.Prog.run
  exact .foldlM fun _ _ => .bind (.XStep_run ..) fun _ => .pure _

theorem modRaise (x : Run) (form : Nat) (a : CtData) : EngKept (modRaise x form a) := by
  unfold Machine.modRaise
  exact .bind (.Run_prime ..) fun _ => .bind (.Run_qs ..) fun _ => .mapM fun _ => .ite_bind (.Run_ntt ..) (.pure _) fun _ => .Run_ntt ..

end EngKept

end Sys2Proof.Machine
end
section
/-! SUPPORT. The checks of an op: no operation changes a fuse, takes back an output or frees a used value. -/
namespace Sys2Proof.Machine

variable {s₀ s : State}

namespace EngKept

theorem opDesc (j : Job) (unit : Option Nat) (i n : Nat) : EngKept (opDesc j unit i n) := by
  unfold Machine.opDesc
  refine .of fun s₀ s hs => ?_
  split
  next e => exact (hs.cachedVA ..).of_ok e
  · exact hs

theorem dirEntry (p idx : Nat) : EngKept (dirEntry p idx) := by
  unfold Machine.dirEntry
  refine .of fun s₀ s hs => ?_
  split <;> exact hs

theorem dirOwned (p : Nat) (es : List KeyEntry) : EngKept (dirOwned p es) := by
  unfold Machine.dirOwned
  exact .bind .engGet fun _ => .engAssert ..

theorem dirCheck (p : Nat) (idxs : List Nat) : EngKept (dirCheck p idxs) := by
  unfold Machine.dirCheck
  exact .bind .engGet fun _ => .bind (.engAssert ..) fun _ => .bind (.mapM fun _ => .dirEntry ..) fun _ => .bind .engGet fun _ =>
    .bind (.engAssert ..) fun _ => .bind (.dirOwned ..) fun _ => .pure _

theorem ctFront (j : Job) (unit : Option Nat) (e : Entry) : EngKept (ctFront j unit e) := by
  unfold Machine.ctFront
  exact .bind .engGet fun _ => .bind (.engAssert ..) fun _ => .ite_bind (.map (.dirEntry ..) _) (.pure _) fun _ =>
    .ite_bind (.readHeader ..) (.pure _) fun _ => .ite_bind (.ite (.pure _) (.readHeader ..)) (.pure _) fun _ =>
    .ite_bind (.ite (.pure _) (.ite (.pure _) (.readHeader ..))) (.pure _) fun _ => .ite_bind (.map (.opDesc ..) _) (.pure _) fun _ =>
    .bind .engGet fun _ => .bind (.engAssert ..) fun _ => .bind (.placeCheck ..) fun _ => .bind (.engAssert ..) fun _ => .pure _

theorem bundleAddr (p chain ks fuel i : Nat) : EngKept (bundleAddr p chain ks fuel i) := by
  induction fuel generalizing i with
  | zero => exact .pure _
  | succ fuel ih => exact .bind .engGet fun _ => .bind (.recordBytes ..) fun _ => .ite (.pure _) (ih (i + 1))

theorem bundleFor (p chain ks : Nat) : EngKept (bundleFor p chain ks) := by
  unfold Machine.bundleFor
  exact .bind .engGet fun _ => .bundleAddr ..

theorem readBundle (p a : Nat) : EngKept (readBundle p a) := by
  unfold Machine.readBundle
  exact .bind (.recordBytes ..) fun _ => .pure _

theorem quietBundle (p chain ks : Nat) : EngKept (quietBundle p chain ks) := by
  have found : EngKept (do
      match ← Machine.bundleFor p chain ks with
      | some a => return some (← Machine.readBundle p a)
      | none => return none : Eng (Option Bundle)) := by
    refine .bind (.bundleFor ..) fun a => ?_
    split
    · exact .bind (.readBundle ..) fun _ => .pure _
    · exact .pure _
  refine .of fun s₀ s hs => ?_
  unfold Machine.quietBundle
  split
  · next e => exact hs.eng_ok found e
  · next e => exact (hs.eng_error found e).capture ..
  · next e => exact (hs.eng_error found e).badLine ..
  · next e => exact hs.eng_error found e

theorem refreshWanted (j : Job) (h : Nat) (hdr : Header) (guard : Nat) : EngKept (refreshWanted j h hdr guard) := by
  unfold Machine.refreshWanted
  refine .bind .engGet fun _ => ?_
  split
  · exact .pure _
  · split
    · exact .pure _
    next x _ _ =>
      refine .bind (.quietBundle ..) fun x => ?_
      split <;> exact .pure _

theorem refreshFirst (j : Job) (r : OpRec) (guard : Nat) (hs : List (Nat × Header)) : EngKept (refreshFirst j r guard hs) := by
  induction hs with
  | nil => exact .pure _
  | cons x rest ih => exact .ite (.bind (.refreshWanted ..) fun _ => .ite (.pure _) ih) ih

theorem budgetOk (guard : Nat) (x : List Header) : EngKept (budgetOk guard x) := by
  unfold Machine.budgetOk
  exact .engAssert ..

theorem plainCheck (j : Job) (unit : Option Nat) (e : Entry) (a : Header) : EngKept (plainCheck j unit e a) := by
  unfold Machine.plainCheck
  exact .bind (.opDesc ..) fun _ => .bind .engGet fun _ => .bind (.engAssert ..) fun _ => .bind (.engAssert ..) fun _ => .pure _

theorem hoistCheck (j : Job) (r : OpRec) (f : Front) (c : Content) : EngKept (hoistCheck j r f c) := by
  unfold Machine.hoistCheck
  exact .bind (.opDesc ..) fun _ => .bind .engGet fun _ => .bind (.engAssert ..) fun _ => .bind (.engAssert ..) fun _ => .bind (.mapM fun _ =>
    .readHeader ..) fun _ => .bind (.engAssert ..) fun _ => .bind (.placeCheck ..) fun _ => .bind (.engAssert ..) fun _ => .bind .engGet fun _ =>
    .bind (.engAssert ..) fun _ => .bind (.dirCheck ..) fun _ => .pure _

theorem readyStep (j : Job) (r : OpRec) : EngKept (readyStep j r) := by
  unfold Machine.readyStep
  dsimp only
  refine .bind (.ctFront ..) fun _ => .bind .engGet fun _ => .bind (.engAssert ..) fun _ => .bind (.liftChk ..) fun _ =>
    .bind (.refreshFirst ..) fun _ => ?_
  split
  · exact .pure _
  · refine .bind (.liftChk ..) fun _ => .bind (.budgetOk ..) fun _ => .bind (.engAssert ..) fun _ => ?_
    split
    · exact .bind (.dirOwned ..) fun _ => .bind (.engAssert ..) fun _ => .bind (.engAssert ..) fun _ => .ite (.bind (.plainCheck ..) fun _ =>
        .pure _) (.ite (.bind (.hoistCheck ..) fun _ => .pure _) (.pure _))
    · exact .bind (.engAssert ..) fun _ => .bind (.engAssert ..) fun _ => .ite (.bind (.plainCheck ..) fun _ =>
        .pure _) (.ite (.bind (.hoistCheck ..) fun _ => .pure _) (.pure _))

theorem readyLoad (j : Job) (r : OpRec) : EngKept (readyLoad j r) := by
  unfold Machine.readyLoad
  exact .bind (.ctFront ..) fun _ => .bind .engGet fun _ => .bind (.engAssert ..) fun _ => .bind (.engAssert ..) fun _ => .pure _

theorem readyStore (j : Job) (r : OpRec) : EngKept (readyStore j r) := by
  unfold Machine.readyStore
  refine .bind (.ctFront ..) fun _ => .bind .engGet fun _ => .bind (.engAssert ..) fun _ => .bind (.refreshFirst ..) fun _ => ?_
  split
  · exact .pure _
  · exact .bind (.engAssert ..) fun _ => .pure _

theorem expandedFront (j : Job) (r : OpRec) (f : Front) : EngKept (expandedFront j r f) := by
  unfold Machine.expandedFront
  refine .bind .engGet fun _ => .bind (.engAssert ..) fun _ => .bind (.refreshFirst ..) fun _ => ?_
  split
  · exact .pure _
  · exact .bind (.budgetOk ..) fun _ => .pure _

theorem readyLinear (j : Job) (r : OpRec) : EngKept (readyLinear j r) := by
  unfold Machine.readyLinear
  exact .bind (.ctFront ..) fun _ => .bind (.expandedFront ..) fun _ => .ite (.pure _) (.bind (.engAssert ..) fun _ => .bind (.readPlan ..) fun _ =>
    .bind (.engAssert ..) fun _ => .bind (.engAssert ..) fun _ => .bind (.engAssert ..) fun _ => .bind (.engAssert ..) fun _ =>
    .bind (.dirCheck ..) fun _ => .bind (.liftChk ..) fun _ => .bind (.engAssert ..) fun _ => .pure _)

theorem readyPoly (j : Job) (r : OpRec) : EngKept (readyPoly j r) := by
  unfold Machine.readyPoly
  refine .bind (.ctFront ..) fun _ => .bind (.expandedFront ..) fun x => ?_
  split
  next x _ _ =>
    split
    · exact .pure _
    · refine .bind (.engAssert ..) fun x => .bind (.readPoly ..) fun x => ?_
      split
      · split
        · refine .bind (.liftChk ..) fun _ => .bind (.engAssert ..) fun x => ?_
          dsimp only
          split
          · exact .bind (.dirOwned ..) fun _ => .pure _
          · exact .pure _

theorem readParts (p : Nat) (b : Bundle) : EngKept (readParts p b) := by
  unfold Machine.readParts
  exact .bind (.mapM fun _ => .readPlan ..) fun _ => .bind (.mapM fun _ => .readPlan ..) fun _ => .bind (.readPoly ..) fun _ => .pure _

theorem openKeys (p : Nat) (r : OpRec) (dirs : List (Nat × Nat)) (h : Header) (c : ChainHdr) (us : List KeyUse) : EngKept (openKeys p r dirs h c us) := by
  unfold Machine.openKeys
  exact .bind (.mapM fun _ => .bind (.keyOpen ..) fun _ => .pure _) fun _ => .bind (.keysBound ..) fun _ => .pure _

theorem readyRefresh (j : Job) (r : OpRec) : EngKept (readyRefresh j r) := by
  unfold Machine.readyRefresh
  dsimp only
  refine .bind (.ctFront ..) fun _ => .bind .engGet fun _ => .bind (.engAssert ..) fun _ => .bind (.refreshFirst ..) fun _ => ?_
  split
  · exact .pure _
  · refine .bind (.bundleFor ..) fun _ => ?_
    split
    · exact .engFault ..
    · exact .bind (.engAssert ..) fun _ => .bind (.readBundle ..) fun _ => .bind (.engAssert ..) fun _ => .bind (.readParts ..) fun _ =>
        .bind (.engAssert ..) fun _ => .bind (.dirCheck ..) fun _ => .bind (.openKeys ..) fun _ => .bind (.liftChk ..) fun _ =>
        .bind (.engAssert ..) fun _ => .pure _

end EngKept

end Sys2Proof.Machine
end
section
/-! SUPPORT. The tiles: no operation changes a fuse, takes back an output or frees a used value. -/
namespace Sys2Proof.Machine

variable {s₀ s : State}

namespace State.Kept

theorem semWrite (hs : s₀.Kept s) (t : Nat) (n : Fin 32) (v : Word32) : s₀.Kept (s.semWrite t n v) := by
  unfold State.semWrite
  split
  · exact hs.stickOpt ..
  · exact hs.setReg ..

theorem applySpad (hs : s₀.Kept s) (t : Nat) (on : BitVec 8) : s₀.Kept (s.applySpad t on) := hs
theorem powerTile (hs : s₀.Kept s) (t : Nat) : s₀.Kept (s.powerTile t) := hs
theorem spadWrite (hs : s₀.Kept s) (t : Nat) (on : BitVec 8) : s₀.Kept (s.spadWrite t on) := hs

theorem tileReset (hs : s₀.Kept s) (t : Nat) : s₀.Kept (s.tileReset t) := by
  unfold State.tileReset
  split
  · exact hs
  · exact (((hs.dropCommit ..).withRegsActive ..).setField ..).updTile ..

theorem vecCtrlWrite (hs : s₀.Kept s) (t : Nat) (v : Word32) : s₀.Kept (s.vecCtrlWrite t v) := hs

end State.Kept

end Sys2Proof.Machine
end
section
/-! SUPPORT. The admission of ops and their work: no operation changes a fuse, takes back an output or frees a used value. -/
namespace Sys2Proof.Machine

variable {s₀ s : State}

namespace State.Kept

theorem fireHook (hs : s₀.Kept s) (j : Job) (r : OpRec) (i : Nat) : s₀.Kept (s.fireHook j r i) := by
  unfold State.fireHook
  dsimp only
  exact .foldl (.stopOps (.updPart (.setField (.setField (.setField (.ite (hs.setField ..) hs) ..) ..) ..) ..) ..) _ fun _ _ hu => hu.updTile ..

theorem startOp (hs : s₀.Kept s) (o : OpRef) (j : Job) (r : OpRec) : s₀.Kept (s.startOp o j r) := by
  unfold State.startOp
  dsimp only
  exact .foldl (.foldl (.updOp (hs.latch ..).draw ..) _ fun _ _ hu => hu.keepLeaves ..) _ fun _ _ hu => hu.updTile ..

theorem badReservoirs (hs : s₀.Kept s) (o : OpRef) (j : Job) (r : OpRec) : s₀.Kept (s.badReservoirs o j r) := by
  unfold State.badReservoirs
  exact hs.foldl _ fun _ _ hu => .ite (((hu.reportLog ..).countUp ..).updOp ..) hu

theorem startRun (hs : s₀.Kept s) (o : OpRef) (j : Job) (r : OpRec) : s₀.Kept (s.startRun o j r) := by
  unfold State.startRun
  dsimp only
  exact .badReservoirs (.updOp (.startOp (.ite (hs.foldl _ fun _ _ hu => hu.powerTile ..) hs) ..) ..) ..

theorem noteWrites (hs : s₀.Kept s) (j : Job) (r : OpRec) : s₀.Kept (s.noteWrites j r) := by
  unfold State.noteWrites
  refine hs.foldl _ fun u x hu => ?_
  split
  · split
    · exact hu.updTile ..
    · exact hu

theorem runOp {work : Job → OpRec → Eng Unit} (hs : s₀.Kept s) (hwork : ∀ a b, EngKept (work a b)) (o : OpRef) (opcode : Nat) :
    s₀.Kept (s.runOp o opcode work) := by
  unfold State.runOp
  split
  · exact hs
  · split
    · split
      · exact hs.fireHook ..
      · split
        next e3 => exact (((hs.startRun ..).eng_ok (hwork _ _) e3).noteWrites ..).updOp ..
        next e3 => exact ((hs.startRun ..).eng_error (hwork _ _) e3).opFailed ..
    · exact hs

end State.Kept

namespace EngKept

theorem putResult (j : Job) (r : OpRec) (d : CtData) : EngKept (putResult j r d) := by
  unfold Machine.putResult
  exact .writeCt ..

theorem operandA (x : Run) (r : OpRec) (l : Nat) : EngKept (operandA x r l) := by
  unfold Machine.operandA
  exact .readCt ..

theorem operandB (x : Run) (r : OpRec) (l : Nat) : EngKept (operandB x r l) := by
  unfold Machine.operandB
  exact .readCt ..

theorem plainLimb (x : Run) (t : TDesc) (i : Nat) : EngKept (plainLimb x t i) := by
  unfold Machine.plainLimb
  exact .bind (.Run_prime ..) fun _ => .bind .engGet fun _ => .bind (.engMem ..) fun _ => .bind (.engAssert ..) fun _ => .pure _

theorem stepWork {f : Run → OpRec → Nat → List Nat → CtData → Eng CtData} (hf : ∀ a b c d e, EngKept (f a b c d e)) (j : Job) (r : OpRec) :
    EngKept (stepWork f j r) := by
  unfold Machine.stepWork
  exact .bind .engGet fun _ => .bind (.operandA ..) fun _ => .bind (.Run_qs ..) fun _ => .bind (hf _ _ _ _ _) fun _ => .putResult ..

theorem binaryWork {f : Run → OpRec → Nat → List Nat → CtData → CtData → Eng CtData} (hf : ∀ a b c d e g, EngKept (f a b c d e g)) (j : Job)
  (r : OpRec) :
    EngKept (binaryWork f j r) := by
  unfold Machine.binaryWork
  exact .bind .engGet fun _ => .bind (.operandA ..) fun _ => .bind (.operandB ..) fun _ => .bind (.Run_qs ..) fun _ =>
    .bind (hf _ _ _ _ _ _) fun _ => .putResult ..

theorem opKey (j : Job) (r : OpRec) (kind g : Nat) : EngKept (opKey j r kind g) := by
  unfold Machine.opKey
  refine .bind .engGet fun _ => .bind (.openKeys ..) fun _ => ?_
  split
  · exact .pure _
  · exact .engFault ..

theorem keyWork {f : Run → KeySrc → Nat → Nat → CtData → Eng CtData} {after : OpRef → KeySrc → Eng Unit} (hf : ∀ a b c d e, EngKept (f a b c d e))
  (hafter : ∀ a b, EngKept (after a b)) (kind : Nat) (g : OpRec → Nat) (o : OpRef) (j : Job) (r : OpRec) :
    EngKept (keyWork kind g f after o j r) := by
  unfold Machine.keyWork
  exact .bind (.opKey ..) fun _ => .bind (hafter _ _) fun _ => .bind .engGet fun _ => .bind (.operandA ..) fun _ => .bind (hf _ _ _ _ _) fun _ =>
    .putResult ..

theorem galoisWork (x : Run) (k : KeySrc) (l g : Nat) (a : CtData) : EngKept (galoisWork x k l g a) := by
  unfold Machine.galoisWork
  exact .bind (.modUp ..) fun _ => .galoisCt ..

theorem workAdd (a : Job) (a' : OpRec) : EngKept (workAdd a a') := by
  unfold Machine.workAdd
  exact .binaryWork (fun _ _ _ _ _ _ => .pure _) ..

theorem workSub (a : Job) (a' : OpRec) : EngKept (workSub a a') := by
  unfold Machine.workSub
  exact .binaryWork (fun _ _ _ _ _ _ => .pure _) ..

theorem workNeg (a : Job) (a' : OpRec) : EngKept (workNeg a a') := by
  unfold Machine.workNeg
  exact .stepWork (fun _ _ _ _ _ => .pure _) ..

theorem workAddPlain (a : Job) (a' : OpRec) : EngKept (workAddPlain a a') := by
  unfold Machine.workAddPlain
  exact .stepWork (fun _ _ _ _ _ => .bind (.mapM fun _ => .plainLimb ..) fun _ => .pure _) ..

theorem workMulPlain (a : Job) (a' : OpRec) : EngKept (workMulPlain a a') := by
  unfold Machine.workMulPlain
  exact .stepWork (fun _ _ _ _ _ => .bind (.mapM fun _ => .plainLimb ..) fun _ => .mapM fun _ => .Run_mul ..) ..

theorem workMulConst (a : Job) (a' : OpRec) : EngKept (workMulConst a a') := by
  unfold Machine.workMulConst
  exact .stepWork (fun _ _ _ _ _ => .mapM fun _ => .Run_scale ..) ..

theorem workMul (a : Job) (a' : OpRec) : EngKept (workMul a a') := by
  unfold Machine.workMul
  exact .binaryWork (fun _ _ _ _ _ _ => .ite (.mulBfv ..) (.tensorCt ..)) ..

theorem workRescale (a : Job) (a' : OpRec) : EngKept (workRescale a a') := by
  unfold Machine.workRescale
  exact .stepWork (fun _ _ _ _ _ => .rescaleCt ..) ..

theorem workModDrop (a : Job) (a' : OpRec) : EngKept (workModDrop a a') := by
  unfold Machine.workModDrop
  exact .bind .engGet fun _ => .ite (.bind (.operandA ..) fun _ => .putResult ..) (.bind (.operandA ..) fun _ => .bind (.rescaleDown ..) fun _ =>
    .putResult ..)

theorem workNttFwd (a : Job) (a' : OpRec) : EngKept (workNttFwd a a') := by
  unfold Machine.workNttFwd
  exact .stepWork (fun _ _ _ _ _ => .mapM fun _ => .Run_ntt ..) ..

theorem workNttInv (a : Job) (a' : OpRec) : EngKept (workNttInv a a') := by
  unfold Machine.workNttInv
  exact .stepWork (fun _ _ _ _ _ => .mapM fun _ => .Run_ntt ..) ..

theorem workLoadCt (a : Job) (a' : OpRec) : EngKept (workLoadCt a a') := by
  unfold Machine.workLoadCt
  exact .bind .engGet fun _ => .bind (.readCt ..) fun _ => .pure _

theorem workStoreCt (a : Job) (a' : OpRec) : EngKept (workStoreCt a a') := by
  unfold Machine.workStoreCt
  exact .stepWork (fun _ _ _ _ _ => .pure _) ..

theorem workRelin (o : OpRef) (a : Job) (a' : OpRec) : EngKept (workRelin o a a') := by
  unfold Machine.workRelin
  exact .keyWork (fun _ _ _ _ _ => .relinCt ..) (fun _ _ => .pure _) ..

theorem workRotate (o : OpRef) (a : Job) (a' : OpRec) : EngKept (workRotate o a a') := by
  unfold Machine.workRotate
  exact .keyWork (fun _ _ _ _ _ => .galoisWork ..) (fun _ _ => .pure _) ..

theorem workConjugate (o : OpRef) (a : Job) (a' : OpRec) : EngKept (workConjugate o a a') := by
  unfold Machine.workConjugate
  exact .keyWork (fun _ _ _ _ _ => .galoisWork ..) (fun _ _ => .pure _) ..

theorem retarget (o : OpRef) (k : KeySrc) : EngKept (retarget o k) := by
  unfold Machine.retarget
  exact .engPut fun _ hu => hu.updOp ..

theorem workKeyswitch (o : OpRef) (a : Job) (a' : OpRec) : EngKept (workKeyswitch o a a') := by
  unfold Machine.workKeyswitch
  exact .keyWork (fun _ _ _ _ _ => .galoisWork ..) (fun _ _ => .retarget ..) ..

theorem hoistOutputs {out : Nat → KeySrc → Eng CtData} (hout : ∀ g k, EngKept (out g k)) (p : Nat) (unit : Option Nat) (l : List
  (Nat × KeySrc × Header)) (formed : List (Nat × Nat)) :
    EngKept (hoistOutputs p unit out l formed) := by
  induction l generalizing formed with
  | nil => exact .pure _
  | cons x rest ih =>
    obtain ⟨g, k, d⟩ := x
    have written : EngKept (do Machine.writeCt p unit d (← out g k)) := .bind (hout g k) fun _ => .writeCt ..
    refine .of fun s₀ s hs => ?_
    unfold Machine.hoistOutputs
    split
    · next e => exact (hs.eng_ok written e).run (ih _)
    · next e => exact (hs.eng_error written e).spoil ..

theorem hoistWork (j : Job) (r : OpRec) : EngKept (Machine.hoistWork j r) := by
  unfold Machine.hoistWork
  dsimp only
  refine .bind .engGet fun _ => .bind (.of fun s₀ s hs => ?_) fun _ => .bind ?_ fun _ =>
    .bind (.openKeys ..) fun _ => .bind (.operandA ..) fun _ => .bind (.modUp ..) fun _ => .hoistOutputs (fun _ _ => .galoisCt ..) ..
  · split
    · next e => exact (hs.narrowRead ..).of_ok e
    · exact hs
  · split
    · exact .pure _
    · exact .of fun _ _ hs => hs

theorem scratchRegion (p : Nat) (unit : Option Nat) (w : Nat × Nat) (known : List Byte) : EngKept (scratchRegion p unit w known) := by
  unfold Machine.scratchRegion
  refine .of fun s₀ s hs => ?_
  exact (hs.drawBelow ..).run (.engFeed ..)

theorem progKeys (x : Run) (j : Job) (r : OpRec) (b : Prog) (vs : List Content) : EngKept (progKeys x j r b vs) := by
  unfold Machine.progKeys
  exact .openKeys ..

theorem progValue (x : Run) (j : Job) (r : OpRec) (b : Prog) (v : Nat) (a : Content) (keys : List (Nat × KeySrc)) (d : CtData) :
    EngKept (progValue x j r b v a keys d) := by
  unfold Machine.progValue
  exact .bind .engGet fun _ => .bind (.liftChk ..) fun _ => .bind (.Prog_run ..) fun _ => .pure _

theorem expandedWork {prog : Job → OpRec → Eng (Prog × Nat)} (hprog : ∀ a b, EngKept (prog a b)) (j : Job) (r : OpRec) :
    EngKept (expandedWork prog j r) := by
  unfold Machine.expandedWork
  exact .bind .engGet fun _ => .bind (hprog _ _) fun _ => .bind .engGet fun _ => .bind (.liftChk ..) fun _ => .bind (.progKeys ..) fun _ =>
    .bind (.operandA ..) fun _ => .bind (.scratchRegion ..) fun _ => .bind (.progValue ..) fun _ => .putResult ..

theorem workLinearTransform (a : Job) (a' : OpRec) : EngKept (workLinearTransform a a') := by
  unfold Machine.workLinearTransform
  exact .expandedWork (fun _ _ => .bind (.readPlan ..) fun _ => .pure _) ..

theorem workPolyEval (a : Job) (a' : OpRec) : EngKept (workPolyEval a a') := by
  unfold Machine.workPolyEval
  exact .expandedWork (fun _ _ => .bind (.readPoly ..) fun _ => .pure _) ..

theorem refreshWork (j : Job) (r : OpRec) : EngKept (refreshWork j r) := by
  unfold Machine.refreshWork
  split
  · exact .putResult ..
  next x _ =>
    refine .bind .engGet fun x => ?_
    dsimp only
    split
    · exact .engFault ..
    · exact .bind (.readParts ..) fun _ => .bind .engGet fun _ => .bind (.liftChk ..) fun _ => .bind (.progKeys ..) fun _ =>
        .bind (.operandA ..) fun _ => .bind (.scratchRegion ..) fun _ => .bind (.modRaise ..) fun _ => .bind (.Prog_run ..) fun _ =>
        .bind (.engFeed ..) fun _ => .bind (.engPut fun _ hu => hu.updOp ..) fun _ => .putResult ..

end EngKept

end Sys2Proof.Machine
end
section
/-! SUPPORT. The tensor ops: no operation changes a fuse, takes back an output or frees a used value. -/
namespace Sys2Proof.Machine

variable {s₀ s : State}

namespace EngKept

theorem descsCheck (p : Nat) (ts : List (TDesc × TUse)) : EngKept (descsCheck p ts) := by
  unfold Machine.descsCheck
  exact .forM fun _ => .bind .engGet fun _ => .engAssert ..

theorem readTensor (p : Nat) (unit : Option Nat) (t : TDesc) : EngKept (readTensor p unit t) := by
  unfold Machine.readTensor
  refine .bind .engGet fun s => ?_
  split
  · refine .of fun s₀ s hs => ?_
    exact hs
  · exact .bind (.engAssert ..) fun _ => .pure _

theorem writeTensor (p : Nat) (unit : Option Nat) (t : TDesc) (vals : List (List Nat)) : EngKept (writeTensor p unit t vals) := by
  unfold Machine.writeTensor
  exact .engFeed ..

theorem readyCopy (j : Job) (r : OpRec) : EngKept (readyCopy j r) := by
  unfold Machine.readyCopy
  exact .bind (.opDesc ..) fun _ => .bind (.opDesc ..) fun _ => .bind (.descsCheck ..) fun _ => .pure _

theorem stageSource (j : Job) (r : OpRec) (a d : TDesc) : EngKept (stageSource j r a d) := by
  unfold Machine.stageSource
  split
  · split
    · exact .bind .engGet fun _ => .bind (.engMem ..) fun _ => .engPut fun _ hu => hu.updTile ..
    · exact .pure _

theorem copyWork (j : Job) (r : OpRec) : EngKept (copyWork j r) := by
  unfold Machine.copyWork
  exact .bind (.stageSource ..) fun _ => .bind (.readTensor ..) fun _ => .writeTensor ..

theorem readyFill (j : Job) (r : OpRec) : EngKept (readyFill j r) := by
  unfold Machine.readyFill
  exact .bind (.opDesc ..) fun _ => .bind (.descsCheck ..) fun _ => .bind .engGet fun _ => .bind (.engAssert ..) fun _ => .pure _

theorem fillUnit (ty v : Nat) : EngKept (fillUnit ty v) := by
  unfold Machine.fillUnit
  split
  · exact .bind (.engDraw ..) fun _ => .pure _
  · exact .pure _

theorem fillWork (j : Job) (r : OpRec) : EngKept (fillWork j r) := by
  unfold Machine.fillWork
  exact .bind (.mapM fun _ => .mapM fun _ => .fillUnit ..) fun _ => .writeTensor ..

theorem readyBconv (j : Job) (r : OpRec) : EngKept (readyBconv j r) := by
  unfold Machine.readyBconv
  exact .bind (.opDesc ..) fun _ => .bind (.opDesc ..) fun _ => .bind (.opDesc ..) fun _ => .bind (.descsCheck ..) fun _ =>
    .bind (.readConst ..) fun _ => .bind (.engAssert ..) fun _ => .pure _

theorem bconvWork (j : Job) (r : OpRec) : EngKept (bconvWork j r) := by
  unfold Machine.bconvWork
  exact .bind (.readConst ..) fun _ => .bind (.readTensor ..) fun _ => .bind .engGet fun _ => .bind (.engResidue ..) fun _ => .bind .engGet fun _ =>
    .writeTensor ..

theorem readyEncode (j : Job) (r : OpRec) : EngKept (readyEncode j r) := by
  unfold Machine.readyEncode
  exact .bind (.opDesc ..) fun _ => .bind (.opDesc ..) fun _ => .bind .engGet fun _ => .bind (.descsCheck ..) fun _ => .pure _

theorem encodeWork (o : OpRef) (j : Job) (r : OpRec) : EngKept (encodeWork o j r) := by
  unfold Machine.encodeWork
  refine .bind (.readTensor ..) fun xs => .bind (.engAssert ..) fun _ => .bind .engGet fun s => ?_
  extract_lets n z
  split
  exact .bind (.markSat ..) fun _ => .writeTensor ..

theorem workFence (x : Job) (x' : OpRec) : EngKept (workFence x x') := by
  unfold Machine.workFence
  exact .pure _

theorem readySignal (r : OpRec) : EngKept (readySignal r) := by
  unfold Machine.readySignal
  exact .bind (.engAssert ..) fun _ => .pure _

theorem signalWork (j : Job) (r : OpRec) : EngKept (signalWork j r) := by
  unfold Machine.signalWork
  dsimp only
  split
  · exact .engPut fun _ hu => .ite (hu.writeHost ..) hu
  · exact .bind (.engStore (fun hu => hu.writeVA ..) _) fun _ => .engPut fun _ hu => hu.mirrorSignal ..

end EngKept

end Sys2Proof.Machine
end
section
/-! SUPPORT. Integer ops, encoding and chains: no operation changes a fuse, takes back an output or frees a used value. -/
namespace Sys2Proof.Machine

variable {s₀ s : State}

namespace EngKept

theorem stageRun (o : OpRef) (x : Stage) (nc : Nat) (a b : List (List Nat)) : EngKept (stageRun o x nc a b) := by
  unfold Machine.stageRun
  refine .mapM fun _ => .mapM fun _ => ?_
  dsimp only
  split
  · exact .bind (.markSat ..) fun _ => .pure _
  · exact .bind (.engDraw ..) fun _ => .pure _

theorem normaliseRow (o : OpRef) (p : Nat) (unit : Option Nat) (blk : Nat) (eps : F32) (i : Nat) (row : List Nat) :
    EngKept (normaliseRow o p unit blk eps i row) := by
  unfold Machine.normaliseRow
  exact .bind .engGet fun _ => .bind (.engMem ..) fun _ => .mapM fun _ => .bind (.markSat ..) fun _ => .pure _

theorem rowsOf (ty k : Nat) (els : List (Nat × Nat)) : EngKept (rowsOf ty k els) := by
  unfold Machine.rowsOf
  exact .mapM fun _ => .ite (.mapM fun _ => .ite (.pure _) (.bind (.engDraw ..) fun _ => .pure _)) (.pure _)

theorem listCheck (code : Nat) (ls : List Nat) : EngKept (listCheck code ls) := by
  unfold Machine.listCheck
  exact .engAssert ..

theorem cableRun (code ty k : Nat) (ls : List Nat) (m : List (List Nat)) : EngKept (cableRun code ty k ls m) := by
  unfold Machine.cableRun
  refine .bind (.listCheck ..) fun _ => ?_
  split
  · exact .bind (.engAssert ..) fun _ => .rowsOf ..
  · exact .bind (.engAssert ..) fun _ => .pure _
  · exact .rowsOf ..

theorem prologueRun (o : OpRef) (p : Nat) (unit : Option Nat) (c : ChainDesc) (blk ty rows k : Nat) (ls : List Nat) (src : Option (List (List Nat))) :
    EngKept (prologueRun o p unit c blk ty rows k ls src) := by
  unfold Machine.prologueRun
  split
  · exact .bind (.listCheck ..) fun _ => .mapM fun _ => .mapM fun _ => .bind (.engDraw ..) fun _ => .pure _
  · split
    · exact .cableRun ..
    · exact .cableRun ..
    · exact .cableRun ..
    · exact .pure _
    · exact .mapM fun _ => .normaliseRow ..
    · exact .pure _

theorem epilogueRun (o : OpRef) (c : ChainDesc) (fmt recs : Nat) (rows : List (List Nat)) : EngKept (epilogueRun o c fmt recs rows) := by
  unfold Machine.epilogueRun
  split
  · exact .pure _
  · exact .bind (.mapM fun _ => .bind (.markSat ..) fun _ => .pure _) fun _ => .pure _

theorem chainRegions (p : Nat) (c : ChainDesc) (ds : List (Nat × Nat)) : EngKept (chainRegions p c ds) := by
  unfold Machine.chainRegions
  dsimp only
  split
  · exact .engFault ..
  · exact .bind (.descsCheck ..) fun _ => .pure _

theorem readyChain (j : Job) (r : OpRec) : EngKept (readyChain j r) := by
  unfold Machine.readyChain
  exact .bind (.engAssert ..) fun _ => .bind (.opDesc ..) fun _ => .bind .engGet fun _ => .bind (.engAssert ..) fun _ =>
    .bind (.engAssert ..) fun _ => .bind (.mapM fun _ => .bind (.opDesc ..) fun _ => .pure _) fun _ => .bind (.chainRegions ..) fun _ =>
    .bind .engGet fun _ => .bind (.engAssert ..) fun _ => .bind (.engAssert ..) fun _ => .pure _

theorem chainStages {mat : Nat → Eng (List (List Nat))} (hmat : ∀ a, EngKept (mat a)) (o : OpRef) (c : ChainDesc) (sh : List (Nat × Nat))
  (a0 b0 : List (List Nat)) :
    EngKept (chainStages o c sh a0 b0 mat) := by
  unfold Machine.chainStages
  exact .foldlM fun _ _ => .ite (.bind (.pure _) fun _ => .ite (.bind (hmat _) fun _ => .stageRun ..) (.ite_bind (.pure _) (.pure _) fun _ =>
    .stageRun ..)) (.ite_bind (.pure _) (hmat _) fun _ => .ite (.bind (hmat _) fun _ => .stageRun ..) (.ite_bind (.pure _) (.pure _) fun _ =>
    .stageRun ..))

theorem spillPass (o : OpRef) (p : Nat) (unit : Option Nat) (ts : List Nat) (c : ChainDesc) (cols : Nat) : EngKept (spillPass o p unit ts c cols) := by
  unfold Machine.spillPass
  exact .when_bind (.forM fun _ => .engPut fun _ hu => (hu.drawBelow ..).updTile ..) fun _ => .ite (.bind (.scratchRegion ..) fun _ =>
    .engPut fun _ hu => hu.updOp ..) (.pure _)

theorem chainWork (o : OpRef) (j : Job) (r : OpRec) : EngKept (chainWork o j r) := by
  unfold Machine.chainWork
  dsimp only
  split
  · exact .ite_bind (.pure _) (.map (.readTensor ..) _) fun _ => .ite_bind (.bind (.readTensor ..) fun _ => .pure _) (.pure _) fun _ =>
      .ite_bind (.readTensor ..) (.prologueRun ..) fun _ => .ite_bind (.prologueRun ..) (.pure _) fun _ => .bind (.chainStages (fun _ =>
      .readTensor ..) ..) fun _ => .ite (.bind (.readTensor ..) fun _ => .bind (.pure _) fun _ => .bind (.spillPass ..) fun _ =>
      .bind .engGet fun _ => .bind (.epilogueRun ..) fun _ => .ite_bind (.mapM fun _ => .mapM fun _ => .bind (.engDraw ..) fun _ =>
      .pure _) (.pure _) fun _ => .bind (.writeTensor ..) fun _ => .ite (.writeTensor ..) (.pure _)) (.bind (.pure _) fun _ =>
      .bind (.spillPass ..) fun _ => .bind .engGet fun _ => .bind (.epilogueRun ..) fun _ => .ite_bind (.mapM fun _ => .mapM fun _ =>
      .bind (.engDraw ..) fun _ => .pure _) (.pure _) fun _ => .bind (.writeTensor ..) fun _ => .ite (.writeTensor ..) (.pure _))
  · exact .engFault ..

theorem readyInt (j : Job) (r : OpRec) : EngKept (readyInt j r) := by
  unfold Machine.readyInt
  exact .bind .engGet fun _ => .bind (.engAssert ..) fun _ => .bind (.opDesc ..) fun _ => .bind (.opDesc ..) fun _ => .bind (.opDesc ..) fun _ =>
    .bind (.descsCheck ..) fun _ => .pure _

theorem intWork (o : OpRef) (j : Job) (r : OpRec) : EngKept (intWork o j r) := by
  unfold Machine.intWork
  exact .bind (.readTensor ..) fun _ => .bind (.readTensor ..) fun _ => .bind (.stageRun ..) fun _ => .writeTensor ..

theorem readyMatmul (j : Job) (r : OpRec) : EngKept (readyMatmul j r) := by
  unfold Machine.readyMatmul
  split
  · exact .readyChain ..
  · exact .readyInt ..

theorem workIntMatmul (o : OpRef) (j : Job) (r : OpRec) : EngKept (workIntMatmul o j r) := by
  unfold Machine.workIntMatmul
  split
  · exact .chainWork ..
  · exact .intWork ..

end EngKept

end Sys2Proof.Machine
end
section
/-! SUPPORT. Custom programs: no operation changes a fuse, takes back an output or frees a used value. -/
namespace Sys2Proof.Machine

variable {s₀ s : State}

namespace EngKept

theorem fillCombine (p : Nat) (unit : Option Nat) (t : TDesc) : EngKept (Machine.fillCombine p unit t) := by
  unfold Machine.fillCombine
  refine .engStore (fun {s₀ s} hs => ?_) _
  refine State.KeptOk.foldl (r := Except.ok s) (left := id) hs _ fun r x hr => ?_
  obtain ⟨a, bs⟩ := x
  dsimp only
  split
  · trivial
  · next u =>
    have hu : s₀.Kept u := hr
    exact hu.writeVA ..

theorem patternCheck (pl : CustomPlan) (vs : List (Vet × List (BitVec 64))) : EngKept (patternCheck pl vs) := by
  unfold Machine.patternCheck
  exact .bind (.engAssert ..) fun _ => .bind (.engAssert ..) fun _ => .bind (.engAssert ..) fun _ => .bind (.engAssert ..) fun _ => .forM fun _ =>
    .bind (.engAssert ..) fun _ => .bind (.engAssert ..) fun _ => .bind (.engAssert ..) fun _ => .engAssert ..

theorem readContainer (j : Job) (e : Entry) (x : Nat) : EngKept (readContainer j e x) := by
  unfold Machine.readContainer
  exact .bind (.engAssert ..) fun _ => .bind (.engAssert ..) fun _ => .bind (.recordBytes ..) fun _ => .bind (.engAssert ..) fun _ => .pure _

theorem readyCustom (j : Job) (r : OpRec) : EngKept (Machine.readyCustom j r) := by
  unfold Machine.readyCustom
  extract_lets e p
  refine .bind (.opDesc ..) fun x => ?_
  extract_lets n ins withA
  refine .bind .engGet fun _ => .bind (.engAssert ..) fun _ => ?_
  have hA (a : Header) : EngKept (withA a) := by
    unfold withA
    extract_lets ca withB
    have hB (b : Header) : EngKept (withB b) := by
      unfold withB
      extract_lets hs cb
      refine .bind (.engAssert ..) fun _ => .bind (.placeCheck ..) fun _ => .bind (.engAssert ..) fun _ => .bind .engGet fun s => ?_
      extract_lets c checked
      refine .bind (.engAssert ..) fun _ => ?_
      have hchecked (u : Unit) : EngKept (checked u) := by
        refine .bind (.refreshFirst ..) fun due => ?_
        split
        · exact .pure _
        refine .bind (.budgetOk ..) fun _ => .bind (.readContainer ..) fun kbs => ?_
        obtain ⟨k, bs⟩ := kbs
        refine .bind .engGet fun s => .bind (.engAssert ..) fun _ => .bind (.engAssert ..) fun _ => ?_
        extract_lets pl dComps res withD
        have hD (d : Header) : EngKept (withD d) := by
          unfold withD
          extract_lets extra plan vets base withKey
          refine .bind (.patternCheck ..) fun _ => .bind (.engAssert ..) fun _ => ?_
          have hkey (x : Ready) : EngKept (withKey x) :=
            .ite (.bind (.dirCheck ..) fun _ => .pure _) (.pure _)
          exact .ite (.bind (.engAssert ..) fun _ => hkey _) (.bind (.engAssert ..) fun _ => .bind (.engAssert ..) fun _ =>
            .bind (.placeCheck ..) fun _ => .bind (.engAssert ..) fun _ => .bind (.engAssert ..) fun _ => .bind (.engAssert ..) fun _ => hkey _)
        exact .ite (.bind (.pure _) hD) (.ite (.bind (.pure _) hD) (.ite (.bind (.pure _) hD)
          (.ite (.bind (.readHeader ..) hD) (.bind (.pure _) hD))))
      exact .ite (.bind (.liftChk ..) hchecked) (hchecked ())
    exact .ite (.bind (.ite (.pure _) (.readHeader ..)) hB) (.bind (.pure _) hB)
  exact .ite (.bind (.readHeader ..) hA) (.bind (.pure _) hA)

end EngKept

namespace State.Kept

theorem loadTile (hs : s₀.Kept s) (pl : CustomPlan) (o : OpRef) (t rank : Nat) : s₀.Kept (loadTile pl o s t rank) := by
  unfold Machine.loadTile
  dsimp only
  exact (((((hs.foldl _ fun _ _ hu => (hu.setReg ..).setAct ..).foldl _ fun _ _ hu => hu.setReg ..).setReg ..).applySpad ..).setReg ..).updTile ..

theorem loadPattern (hs : s₀.Kept s) (o : OpRef) (r : OpRec) (pl : CustomPlan) : s₀.Kept (s.loadPattern o r pl) := by
  unfold State.loadPattern
  exact (hs.foldl _ fun _ _ hu => hu.loadTile ..).updOp ..

theorem startCustom (hs : s₀.Kept s) (o : OpRef) : s₀.Kept (s.startCustom o) := by
  unfold State.startCustom
  split
  · exact hs
  · split
    · split
      · split
        · exact hs.fireHook ..
        · dsimp only
          split
          next e4 => exact ((((hs.startOp ..).updOp ..).badReservoirs ..).loadPattern ..).eng_ok (.forM fun _ => .fillCombine ..) e4
          next e4 => exact (((((hs.startOp ..).updOp ..).badReservoirs ..).loadPattern ..).eng_error (.forM fun _ => .fillCombine ..) e4).opFailed ..
      · exact hs
    · exact hs

end State.Kept

end Sys2Proof.Machine
end
section
/-! SUPPORT. The binding of ready ops: no operation changes a fuse, takes back an output or frees a used value. -/
namespace Sys2Proof.Machine

variable {s₀ s : State}

namespace EngKept

theorem readyOf (j : Job) (r : OpRec) : EngKept (readyOf j r) := by
  unfold Machine.readyOf
  dsimp only
  split
  · exact .readyLoad ..
  · exact .readyStore ..
  · exact .readyCopy ..
  · exact .readyCopy ..
  · exact .readyFill ..
  · exact .readyBconv ..
  · exact .readyLinear ..
  · exact .readyPoly ..
  · exact .readyEncode ..
  · exact .readyMatmul ..
  · exact .readyInt ..
  · exact .pure _
  · exact .readySignal ..
  · exact .readyCustom ..
  · refine .bind (.readyRefresh ..) fun _ => ?_
    split
    · exact .pure _
    · refine .bind .engGet fun _ => ?_
      split
      · exact .engStall ..
      · exact .pure _
  · exact .readyStep ..

end EngKept

namespace State.Kept

theorem insertRefresh (hs : s₀.Kept s) (o : OpRef) (h : Nat) (before : Bool) : s₀.Kept (s.insertRefresh o h before) := by
  unfold State.insertRefresh
  split
  · exact hs
  · exact ((hs.updJob ..).updOp ..).bump ..

theorem replace (hs : s₀.Kept s) (o : OpRef) (j : Job) (r : OpRec) (ts : List Nat) : s₀.Kept (s.replace o j r ts) := by
  unfold State.replace
  split
  · exact hs.updOp ..
  · exact hs

theorem opReady (hs : s₀.Kept s) (o : OpRef) (ts : List Nat) : s₀.Kept (s.opReady o ts) := by
  unfold State.opReady
  split
  · exact hs
  · split
    · exact hs.replace ..
    · split
      · exact hs
      · dsimp only
        split
        · exact hs
        next e4 => exact (hs.eng_error (.readyOf ..) e4).opFailed ..
        next e3 =>
          split
          · exact (hs.eng_ok (.readyOf ..) e3).insertRefresh ..
          · split
            · exact hs
            · split
              · exact (hs.eng_ok (.readyOf ..) e3).endOp ..
              · exact (hs.eng_ok (.readyOf ..) e3).updOp ..

end State.Kept

end Sys2Proof.Machine
end
section
/-! SUPPORT. Ops that run: no operation changes a fuse, takes back an output or frees a used value. -/
namespace Sys2Proof.Machine

variable {s₀ s : State}

namespace State.Kept

theorem putDigest (hs : s₀.Kept s) (p : Nat) (n : Fin 16) (d : BitVec 128) : s₀.Kept (s.putDigest p n d) := hs

theorem swatchOf (hs : s₀.Kept s) (j : Job) (r : OpRec) (cfg : Word32) (key : BitVec 128) : s₀.Kept (s.swatchOf j r cfg key).2 := by
  unfold State.swatchOf
  dsimp only
  split
  · exact hs
  · split
    · split
      · exact hs
      · split
        · exact hs
        · exact hs.draw ..
    · split
      · split
        · exact hs
        · split
          · exact hs
          · exact hs.draw ..
      · exact hs

theorem swatches (hs : s₀.Kept s) (j : Job) (r : OpRec) : s₀.Kept (s.swatches j r) := by
  unfold State.swatches
  refine hs.foldl _ fun u x hu => ?_
  split
  next e => exact ((hu.swatchOf ..).snd e).putDigest ..
  next e => exact (hu.swatchOf ..).snd e

end State.Kept

namespace EngKept

theorem writeHeaders (p : Nat) (x : List (Nat × Header × Bool)) : EngKept (writeHeaders p x) := by
  unfold Machine.writeHeaders
  exact .forM fun _ => .bind (.engStore (fun hu => hu.putHeader ..) _) fun _ => .ite (.engPut fun _ hu => hu.countPoison ..) (.pure _)

end EngKept

namespace State.Kept

theorem refreshAfter (hs : s₀.Kept s) (o : OpRef) (j : Job) (r : OpRec) : s₀.Kept (s.refreshAfter o j r) := by
  unfold State.refreshAfter
  split
  · exact hs
  · refine hs.foldl _ fun u x hu => ?_
    split
    · split
      next e1 => exact (hu.eng_ok (.refreshWanted ..) e1).insertRefresh ..
      next e1 => exact hu.eng_ok (.refreshWanted ..) e1
      next e1 => exact hu.eng_error (.refreshWanted ..) e1

theorem bindOff (hs : s₀.Kept s) (o : OpRef) : s₀.Kept (s.bindOff o) := by
  unfold State.bindOff
  split
  · exact hs
  · split
    · exact hs
    · split
      next e2 => exact (hs.eng_error (.writeHeaders ..) e2).opFailed ..
      next e2 =>
        dsimp only
        split
        · exact .settleJob (.refreshAfter (.updOp (.freeTiles (.latch (.countRun (.countUp (.bump (.statusEffects (.ite ((hs.eng_ok
            (.writeHeaders ..) e2).swatches ..) (hs.eng_ok (.writeHeaders ..) e2)) ..) ..) ..) ..) ..) ..) ..) ..) ..
        · exact .settleJob (.refreshAfter (.updOp (.freeTiles (.latch (.countRun (.countUp (.statusEffects (.ite ((hs.eng_ok
            (.writeHeaders ..) e2).swatches ..) (hs.eng_ok (.writeHeaders ..) e2)) ..) ..) ..) ..) ..) ..) ..) ..

end State.Kept

end Sys2Proof.Machine
end
section
/-! SUPPORT. The power states: no operation changes a fuse, takes back an output or frees a used value. -/
namespace Sys2Proof.Machine

variable {s₀ s : State}

namespace State.Kept

theorem storePut (hs : s₀.Kept s) (w : StoreWrite) : s₀.KeptSome (s.storePut w) := by
  unfold State.storePut
  split
  · exact hs
  · split
    · exact hs
    · trivial

theorem storeFromReg (hs : s₀.Kept s) (n : Nat) (v : StoreValue) : s₀.Kept (s.storeFromReg n v) := by
  unfold State.storeFromReg
  exact (hs.storePut ..).getD hs

theorem storeSeeds (hs : s₀.Kept s) : s₀.Kept s.storeSeeds := by
  unfold State.storeSeeds
  exact (hs.draw ..).storeFromReg ..

theorem resetDieRegs (hs : s₀.Kept s) (keepOut : Bool) : s₀.Kept (s.resetDieRegs keepOut) := by
  unfold State.resetDieRegs
  extract_lets outs cleared shared
  have hcleared : s₀.Kept cleared := hs.withRegsActiveCommits ..
  have hshared : s₀.Kept shared := .foldl hcleared _ fun _ _ hu => (hu.setReg ..).setAct ..
  exact .foldl hshared _ fun _ _ hu => hu.setField ..

theorem enterM3Now (hs : s₀.Kept s) : s₀.Kept s.enterM3Now :=
  (hs.resetDieRegs true).withReservationsSitesTilesPower ..

theorem endPwr (hs : s₀.Kept s) (op : Nat) (st : Status) : s₀.Kept (s.endPwr op st) := by
  unfold State.endPwr
  split
  · exact .setField (.setField (.withPower (.ite (hs.emit ..) hs) ..) ..) ..
  · exact hs

theorem leaveM3 (hs : s₀.Kept s) : s₀.Kept s.leaveM3 := hs

theorem continueM3 (hs : s₀.Kept s) : s₀.Kept s.continueM3 := by
  unfold State.continueM3
  split
  · dsimp only
    split
    · exact ((hs.enterM3Now ..).endPwr ..).leaveM3 ..
    · exact (hs.enterM3Now ..).endPwr ..
  · exact hs

end State.Kept

end Sys2Proof.Machine
end
section
/-! SUPPORT. Stopped and killed jobs: no operation changes a fuse, takes back an output or frees a used value. -/
namespace Sys2Proof.Machine

variable {s₀ s : State}

namespace State.Kept

theorem stopCores (hs : s₀.Kept s) (p : Nat) : s₀.Kept (s.stopCores p) := by
  unfold State.stopCores
  exact .withReservations (.updPart (.ite (hs.addUnseen ..) hs) ..) ..

theorem startHart0 (hs : s₀.Kept s) (p : Nat) : s₀.Kept (s.startHart0 p) := hs

theorem coreStart (hs : s₀.Kept s) (p : Nat) : s₀.Kept (s.coreStart p) := by
  unfold State.coreStart
  dsimp only
  split
  · exact hs
  · split
    · exact hs.startHart0 ..
    · exact hs.updPart ..
    · exact hs.updPart ..
    · exact hs

theorem spoilStash (hs : s₀.Kept s) (ls : List (Nat × Nat)) : s₀.Kept (s.spoilStash ls) :=
  .foldl hs _ fun _ _ hu => .updTile (hu.drawBelow 256 64) ..

theorem killOp (hs : s₀.Kept s) (o : OpRef) : s₀.Kept (s.killOp o) := by
  unfold State.killOp
  split
  · exact hs
  · dsimp only
    split
    · exact ((((((((hs.spoil ..).countRun ..).latch ..).spoilStash ..).freeTiles ..).updPart ..).updOp ..).refreshEnds ..).reportOp ..
    · exact (((((((hs.countRun ..).latch ..).spoilStash ..).freeTiles ..).updPart ..).updOp ..).refreshEnds ..).reportOp ..

theorem killHeld (hs : s₀.Kept s) (j : Job) : s₀.Kept (s.killHeld j) := hs

theorem killJobs (hs : s₀.Kept s) (js : List Nat) : s₀.Kept (s.killJobs js) := by
  unfold State.killJobs
  dsimp only
  refine .foldl (((hs.withJobs ..).stopOps ..).foldl _ fun u x hu => ?_) _ fun u x hu => ?_
  · split
    · exact hu.foldl _ fun _ _ hv => hv.updTile ..
    · exact hu
  · refine .foldl ?_ _ fun u x hv => ?_
    · split
      · exact hu.killHeld ..
      · exact hu
    · exact hv.killOp ..

theorem cancelCommits (hs : s₀.Kept s) (p : Nat) : s₀.Kept (s.cancelCommits p) := by
  unfold State.cancelCommits
  exact .dropCommit (.dropCommit (.dropCommit (.ite ((hs.updPart ..).setField ..) hs) ..) ..) ..

theorem startFrog (hs : s₀.Kept s) (p : Nat) (whole destroy : Bool) (js : List Nat) : s₀.Kept (s.startFrog p whole destroy js) := by
  unfold State.startFrog
  dsimp only
  split
  · exact hs
  · split
    · split
      · exact (((hs.updPart ..).killJobs ..).cancelCommits ..).stopCores ..
      · exact (hs.updPart ..).killJobs ..
    · split
      · exact (((hs.updPart ..).killJobs ..).cancelCommits ..).stopCores ..
      · exact (hs.updPart ..).killJobs ..

theorem jobFrog (hs : s₀.Kept s) (p : Nat) (v : Word32) : s₀.Kept (s.jobFrog p v) := by
  unfold State.jobFrog
  split
  · dsimp only
    split <;> exact hs.startFrog ..
  · exact hs

theorem reportKilled (hs : s₀.Kept s) (p jid : Nat) : s₀.Kept (s.reportKilled p jid) := by
  unfold State.reportKilled
  split
  · exact hs
  next x _ _ =>
    refine .completeJob ((hs.updJob ..).foldl _ fun u x hu => ?_) ..
    split
    · exact .produceOp (.ite (hu.bump ..) hu) ..
    · exact hu

theorem enginesStopped (hs : s₀.Kept s) (p : Nat) : s₀.Kept (s.enginesStopped p) := by
  unfold State.enginesStopped
  split
  · split
    · exact hs
    · extract_lets ts resumed killed reported marked
      have hresumed : s₀.Kept resumed := .foldl hs _ fun _ _ hu => hu.foldl _ fun _ _ hv => (hv.updOp ..).bindOff ..
      have hkilled : s₀.Kept killed := .foldl hresumed _ fun _ _ hu => hu.foldl _ fun _ _ hv => hv.killOp ..
      have hreported : s₀.Kept reported := .foldl hkilled _ fun _ _ hu => hu.reportKilled ..
      have hmarked : s₀.Kept marked := .ite (hreported.stick ..) hreported
      exact hmarked.updPart ..
  · exact hs

theorem dropCache (hs : s₀.Kept s) (p : Nat) : s₀.Kept (s.dropCache p) := hs
theorem zeroScratch (hs : s₀.Kept s) (t : Nat) : s₀.Kept (s.zeroScratch t) := hs
theorem zeroStash (hs : s₀.Kept s) (t : Nat) : s₀.Kept (s.zeroStash t) := hs

theorem scrubStep (hs : s₀.Kept s) (p : Nat) (f : Frog) : s₀.Kept (s.scrubStep p f) := by
  unfold State.scrubStep
  dsimp only
  split
  · exact hs.dropCache ..
  · exact hs.foldl _ fun _ _ hu => (hu.freeTiles ..).updTile ..
  · exact hs.foldl _ fun _ _ hu => hu.zeroScratch ..
  · exact hs.foldl _ fun _ _ hu => hu.zeroStash ..
  · exact hs.stopCores ..
  · exact hs

theorem endCmd (hs : s₀.Kept s) (op p : Nat) (st : Status) : s₀.Kept (s.endCmd op p st) := by
  unfold State.endCmd
  split
  · split
    · exact .setField (.setField (.setField (.ite ((hs.withPartCmd ..).emit ..) (hs.withPartCmd ..)) ..) ..) ..
    · exact hs
  · exact hs

theorem unhalt (hs : s₀.Kept s) (p : Nat) : s₀.Kept (s.unhalt p) := by
  unfold State.unhalt
  dsimp only
  exact hs.foldl _ fun _ _ hu => hu.updTile ..

theorem releaseFrog (hs : s₀.Kept s) (p : Nat) (f : Frog) : s₀.Kept (s.releaseFrog p f) := by
  unfold State.releaseFrog
  dsimp only
  split
  · exact .endCmd (.ite (.startHart0 (.updPart (.ite ((hs.setField ..).unhalt ..) hs) ..) ..) (.updPart (.ite ((hs.setField ..).unhalt ..) hs) ..)) ..
  · exact .endCmd (.updPart (.ite ((hs.setField ..).unhalt ..) hs) ..) ..

theorem scrubStepDone (hs : s₀.Kept s) (p : Nat) : s₀.Kept (s.scrubStepDone p) := by
  unfold State.scrubStepDone
  split
  · split
    · exact hs
    · split
      · exact hs.releaseFrog ..
      · exact (hs.scrubStep ..).updPart ..
  · exact hs

end State.Kept

end Sys2Proof.Machine
end
section
/-! SUPPORT. Partitions: no operation changes a fuse, takes back an output or frees a used value. -/
namespace Sys2Proof.Machine

variable {s₀ s : State}

namespace State.Kept

theorem spanCommit (hs : s₀.Kept s) (v : Word32) : s₀.Kept (s.spanCommit v) := by
  unfold State.spanCommit
  split
  · dsimp only
    split
    · exact hs
    · exact hs.startCommit ..
  · exact hs

theorem spanApply (hs : s₀.Kept s) (n : Fin 64) (c : Commit) : s₀.Kept (s.spanApply n c) := by
  unfold State.spanApply
  dsimp only
  split
  · split
    · split
      · exact ((hs.dropCommit ..).putActive ..).setField ..
      · exact (hs.dropCommit ..).putActive ..
    · exact .stick (.setField (.ite (hs.dropCommit ..) ((hs.dropCommit ..).setField ..)) ..) ..
  · exact hs

theorem spanOff (hs : s₀.Kept s) (n : Fin 64) : s₀.Kept (s.spanOff n) := hs

theorem spansOff (hs : s₀.Kept s) (p : Nat) (f : State → Fin 64 → Bool) : s₀.Kept (s.spansOff p f) := by
  unfold State.spansOff
  exact hs.foldl _ fun _ _ hu => .ite (hu.spanOff ..) hu

theorem writeTables (hs : s₀.Kept s) (p : Nat) (old new : List MapEntry) : s₀.Kept (s.writeTables p old new) := by
  unfold State.writeTables
  dsimp only
  exact ((hs.dropLeaves ..).foldl _ fun _ _ hu => hu.storePhys ..).foldl _ fun _ _ hu => hu.storePhys ..

theorem zeroPages (hs : s₀.Kept s) (ps : List (Nat × Nat)) : s₀.Kept (s.zeroPages ps) := hs
theorem issueCmd (hs : s₀.Kept s) (op p : Nat) (mgmt : Bool) : s₀.Kept (s.issueCmd op p mgmt) := hs
theorem resetPartRegs (hs : s₀.Kept s) (p : Nat) : s₀.Kept (s.resetPartRegs p) := hs

theorem create (hs : s₀.Kept s) (p x : Nat) (m : List MapEntry) : s₀.Kept (s.create p x m) := by
  unfold State.create
  exact ((((((hs.draw ..).resetPartRegs ..).zeroPages ..).writeTables ..).setReg ..).yieldWays ..).setPart ..

theorem partCreate (hs : s₀.Kept s) (src : RecordSource) (p : Nat) (mgmt : Bool) : s₀.Kept (s.partCreate src p mgmt) := by
  unfold State.partCreate
  dsimp only
  split
  · exact (hs.issueCmd ..).endCmd ..
  · exact ((hs.issueCmd ..).create ..).endCmd ..

theorem partRemap (hs : s₀.Kept s) (src : RecordSource) (p : Nat) (mgmt : Bool) : s₀.Kept (s.partRemap src p mgmt) := by
  unfold State.partRemap
  dsimp only
  split
  · exact (hs.issueCmd ..).endCmd ..
  · exact (hs.issueCmd ..).updPart ..

theorem translationChange (hs : s₀.Kept s) (p : Nat) : s₀.Kept (s.translationChange p) := by
  unfold State.translationChange
  dsimp only
  split
  · split
    · exact ((((hs.zeroPages ..).writeTables ..).updPart ..).spansOff ..).endCmd ..
    · exact hs
  · exact hs

theorem partDestroy (hs : s₀.Kept s) (p : Nat) (mgmt : Bool) : s₀.Kept (s.partDestroy p mgmt) := by
  unfold State.partDestroy
  dsimp only
  split
  · exact (hs.issueCmd ..).endCmd ..
  · exact (((hs.issueCmd ..).updPart ..).spansOff ..).startFrog ..

theorem partFrog (hs : s₀.Kept s) (p : Nat) (mgmt : Bool) : s₀.Kept (s.partFrog p mgmt) := by
  unfold State.partFrog
  dsimp only
  split
  · exact (hs.issueCmd ..).endCmd ..
  · exact (hs.issueCmd ..).startFrog ..

theorem feedStranded (hs : s₀.Kept s) (free : List Nat) : s₀.Kept (s.feedStranded free) := by
  unfold State.feedStranded
  refine .foldl_fst hs _ fun acc q hu => ?_
  dsimp only
  split
  · exact ((hu.updPart ..).yieldWays ..).setField ..
  · exact hu

theorem feedWaiting (hs : s₀.Kept s) (free : List Nat) : s₀.Kept (s.feedWaiting free) := by
  unfold State.feedWaiting
  refine .foldl_fst hs _ fun acc q hu => ?_
  dsimp only
  split
  · exact hu
  · exact hu.updPart ..

theorem resetMsix (hs : s₀.Kept s) (key : Nat) : s₀.Kept (s.resetMsix key) := hs

theorem freePart (hs : s₀.Kept s) (p : Nat) : s₀.Kept (s.freePart p) := by
  unfold State.freePart
  dsimp only
  refine .endCmd (.feedWaiting (.feedStranded (.setPart (.withReservationsJobsCommits (.resetPartRegs (.setReg ?_ ..) ..) ..) ..) ..) ..) ..
  split
  · exact ((hs.zeroPages ..).writeTables ..).resetMsix ..
  · exact (hs.zeroPages ..).writeTables ..

theorem pageScrubDone (hs : s₀.Kept s) (p : Nat) : s₀.Kept (s.pageScrubDone p) := by
  unfold State.pageScrubDone
  dsimp only
  split
  · exact hs.freePart ..
  · exact ((hs.dropCache ..).zeroPages ..).updPart ..

end State.Kept

end Sys2Proof.Machine
end
section
/-! SUPPORT. Faults, replay and retirement: no operation changes a fuse, takes back an output or frees a used value. -/
namespace Sys2Proof.Machine

variable {s₀ s : State}

namespace State.Kept

theorem closeWindow (hs : s₀.Kept s) (h : Fin 4) (src : BitVec 16) (event : Nat) : s₀.Kept (s.closeWindow h src event) := by
  unfold State.closeWindow
  dsimp only
  split
  · exact (hs.setHank ..).emitLog ..
  · exact hs

theorem alarmAck (hs : s₀.Kept s) (h entry : Nat) : s₀.Kept (s.alarmAck h entry) := hs

theorem replay (hs : s₀.Kept s) (o : OpRef) : s₀.Kept (s.replay o) := by
  unfold State.replay
  split
  · exact ((((hs.countUp ..).countRun ..).freeTiles ..).restoreLimbs ..).updOp ..
  · exact hs

theorem displace (hs : s₀.Kept s) (o : OpRef) (left : List Nat) : s₀.Kept (s.displace o left) := by
  unfold State.displace
  split
  · exact (hs.freeTiles ..).updOp ..
  · exact hs

theorem startSelfTest (hs : s₀.Kept s) (t : Nat) : s₀.Kept (s.startSelfTest t) := by
  unfold State.startSelfTest
  split
  · exact hs
  · exact (hs.updTile ..).tileReset ..

theorem resetTested (hs : s₀.Kept s) (ts : List Nat) : s₀.Kept (s.resetTested ts) := by
  unfold State.resetTested
  exact hs.foldl _ fun _ _ hu => .ite (hu.tileReset ..) hu

theorem decideRetire (hs : s₀.Kept s) (d : Nat) : s₀.Kept (s.decideRetire d) := by
  unfold State.decideRetire
  split <;> exact hs

theorem giveUp (hs : s₀.Kept s) (o : OpRef) : s₀.Kept (s.giveUp o) := by
  unfold State.giveUp
  split
  · exact .displace (.ite (hs.replay ..) hs) ..
  · exact hs

theorem outOfUse (hs : s₀.Kept s) (t row : Nat) : s₀.Kept (s.outOfUse t row) := by
  unfold State.outOfUse
  split
  · exact hs
  · dsimp only
    exact (((hs.updTile ..).reportLog ..).foldl _ fun _ _ hu => hu.giveUp ..).decideRetire ..

theorem setRuOut (hs : s₀.Kept s) (t : Nat) : s₀.Kept (s.setRuOut t) := by
  unfold State.setRuOut
  dsimp only
  exact ((hs.setField ..).reportLog ..).foldl _ fun _ _ hu => hu.giveUp ..

theorem replayR69 (hs : s₀.Kept s) (o : OpRef) : s₀.Kept (s.replayR69 o) := by
  unfold State.replayR69
  split
  · dsimp only
    split
    · exact (((hs.replay ..).updOp ..).displace ..).foldl _ fun _ _ hu => hu.startSelfTest ..
    · split
      · exact (hs.replay ..).updOp ..
      · exact ((hs.replay ..).updOp ..).displace ..
  · exact hs

theorem residueMismatch (hs : s₀.Kept s) (o : OpRef) (t : Nat) (reduction : Bool) : s₀.Kept (s.residueMismatch o t reduction) := by
  unfold State.residueMismatch
  split
  · split
    · exact hs
    · extract_lets reported times twice timed marked replayed ruled
      have htimed : s₀.Kept timed := (hs.reportLog ..).updTile ..
      have hmarked : s₀.Kept marked := .ite (htimed.updOp ..) htimed
      have hreplayed : s₀.Kept replayed := hmarked.replayR69 ..
      have hruled : s₀.Kept ruled := .ite (hreplayed.setRuOut ..) hreplayed
      exact .ite (hruled.outOfUse ..) hruled
  · exact hs

theorem suspect (hs : s₀.Kept s) (j : Job) (reporter : Nat) (u : BitVec 16) (cls : Nat) : s₀.Kept (s.suspect j reporter u cls) := by
  unfold State.suspect
  dsimp only
  split
  · exact (hs.reportLog ..).startSelfTest ..
  · split
    · exact (hs.reportLog ..).updSite ..
    · exact hs.reportLog ..

theorem timeout (hs : s₀.Kept s) (o : OpRef) (reporter : Nat) (u : BitVec 16) (cls : Nat) : s₀.Kept (s.timeout o reporter u cls) := by
  unfold State.timeout
  split
  · split
    · exact (hs.suspect ..).updOp ..
    · split
      · exact (((hs.suspect ..).replayR69 ..).resetTested ..).updOp ..
      · exact hs
  · exact hs

theorem digestDiffers (hs : s₀.Kept s) (o : OpRef) (t : Nat) : s₀.Kept (s.digestDiffers o t) := by
  unfold State.digestDiffers
  split
  · dsimp only
    split
    · exact (((hs.reportLog ..).reportAlarm ..).updOp ..).withService ..
    · exact (((hs.reportLog ..).replay ..).displace ..).foldl _ fun _ _ hu => hu.startSelfTest ..
  · exact hs

theorem bindOffCompared (hs : s₀.Kept s) (o : OpRef) : s₀.Kept (s.bindOffCompared o) := by
  unfold State.bindOffCompared
  split
  · split
    · exact hs.digestDiffers ..
    · exact hs.bindOff ..
  · exact hs.bindOff ..

theorem ondieCount (hs : s₀.Kept s) (d : Nat) : s₀.Kept (s.ondieCount d) := by
  unfold State.ondieCount
  dsimp only
  split
  · exact (hs.updSite ..).decideRetire ..
  · exact hs.updSite ..

theorem correctedCount (hs : s₀.Kept s) (d n : Nat) : s₀.Kept (s.correctedCount d n) := by
  unfold State.correctedCount
  split
  · exact hs
  · dsimp only
    split
    · exact (hs.updSite ..).decideRetire ..
    · exact hs.updSite ..

theorem ondieReplay {f : State → State} (hs : s₀.Kept s) (hf : ∀ {s₀ s : State}, s₀.Kept s → s₀.Kept (f s)) (t line : Nat) (o : OpRef) :
    s₀.Kept (s.ondieReplay t line o f) := by
  unfold State.ondieReplay
  split
  · split
    · exact (hf (hs.reportLog ..)).ondieCount ..
    · exact hs
  · exact hs

theorem alter (hs : s₀.Kept s) (o : OpRef) (t : Nat) : s₀.Kept (s.alter o t) := by
  unfold State.alter
  split
  · exact ((hs.spoil ..).draw ..).updTile ..
  · exact hs

theorem ondieError (hs : s₀.Kept s) (a : OnDieError) : s₀.Kept (s.ondieError a) := by
  unfold State.ondieError
  split
  · split
    · exact .ondieCount (.reportLog (.cacheRefetch (.ite (hs.badLine ..) hs) ..) ..) ..
    · exact hs
  · exact hs.ondieReplay (fun hu => hu.replayR69 ..) ..
  · exact hs.ondieReplay (fun hu => hu.replayR69 ..) ..
  · exact hs.ondieReplay (fun hu => hu.replayR69 ..) ..
  · exact hs.ondieReplay (fun hu => ((hu.updTile ..).replayR69 ..).updOp ..) ..
  · exact hs.ondieReplay (fun hu => hu.opFailed ..) ..
  · split
    · exact hs.correctedCount ..
    · exact hs
  · split
    · exact hs.alter ..
    · exact hs

theorem tellPart (hs : s₀.Kept s) (p : Nat) (abrupt : Bool) (d : Nat) (goal : Option Nat) (hadQuads lostHarts : Bool) (survivor : Option Nat) :
    s₀.Kept (s.tellPart p abrupt d goal hadQuads lostHarts survivor) := by
  unfold State.tellPart
  extract_lets r counted told raised
  have hcounted : s₀.Kept counted := (hs.bump ..).setField ..
  have htold : s₀.Kept told := by
    unfold told
    split
    · split
      · exact hcounted.setField ..
      · exact hcounted
    · exact hs
  have hraised : s₀.Kept raised := htold.setField ..
  split
  · split
    · exact hraised.updPart ..
    · exact hraised
  · exact htold

theorem passOn (hs : s₀.Kept s) (d : Nat) (abrupt : Bool) (quads cores : Moves) (spare : Option Nat) : s₀.Kept (s.passOn d abrupt quads cores spare) := by
  unfold State.passOn
  exact hs.foldl _ fun _ _ hu => ((hu.yieldWays ..).setPart ..).tellPart ..

theorem powerOffDie (hs : s₀.Kept s) (d : Nat) : s₀.Kept (s.powerOffDie d) := hs

theorem moveOp (hs : s₀.Kept s) (o : OpRef) (d : Nat) (spare : Option Nat) : s₀.Kept (s.moveOp o d spare) := by
  unfold State.moveOp
  split
  · dsimp only
    split
    · exact .updOp (.updOp (.updOp (.ite (hs.replay ..) hs) ..) ..) ..
    · split
      · exact .updOp (.updOp (.ite (hs.replay ..) hs) ..) ..
      · exact .displace (.updOp (.updOp (.ite (hs.replay ..) hs) ..) ..) ..
  · exact hs

theorem markAwaiting (hs : s₀.Kept s) (d : Nat) : s₀.Kept (s.markAwaiting d) := by
  unfold State.markAwaiting
  exact hs.foldl _ fun _ _ hu => hu.updOp ..

theorem endRetire (hs : s₀.Kept s) (r : Retire) : s₀.Kept (s.endRetire r) := by
  unfold State.endRetire
  extract_lets u others moved replayed off logged ended cleared
  have hmoved : s₀.Kept moved := .foldl hs _ fun _ _ hu => hu.moveOp ..
  have hreplayed : s₀.Kept replayed := .foldl hmoved _ fun _ _ hu => .updOp (.ite (hu.replay ..) hu) ..
  have hoff : s₀.Kept off := (hreplayed.powerOffDie ..).updSite ..
  have hlogged : s₀.Kept logged := hoff.reportLog ..
  have hended : s₀.Kept ended := hlogged.withRetiringRetirements ..
  have hcleared : s₀.Kept cleared := .ite ((hended.setField ..).setField ..) hended
  exact .ite (hcleared.emit ..) hcleared

theorem placeRetire (hs : s₀.Kept s) (r : Retire) (spare : Option Nat) : s₀.Kept (s.placeRetire r spare) := by
  unfold State.placeRetire
  dsimp only
  split
  · refine .endRetire ?_ ..
    split
    · exact (((((hs.markAwaiting ..).passOn ..).setReg ..).setAct ..).updSite ..).reportLog ..
    · exact ((hs.markAwaiting ..).passOn ..).reportAlarm ..
  · refine .withRetiring ?_ ..
    split
    · exact ((((hs.passOn ..).setReg ..).setAct ..).updSite ..).reportLog ..
    · exact (hs.passOn ..).reportAlarm ..

theorem beginRetire (hs : s₀.Kept s) (r : Retire) : s₀.Kept (s.beginRetire r) := by
  unfold State.beginRetire
  dsimp only
  split
  · exact ((hs.withRetireQueue ..).updSite ..).withRetiring ..
  · exact ((hs.withRetireQueue ..).updSite ..).placeRetire ..

theorem serveAbrupt (hs : s₀.Kept s) (n : Nat) : s₀.Kept (State.serveAbrupt n s) := by
  induction n generalizing s with
  | zero => exact hs
  | succ n ih =>
    unfold State.serveAbrupt
    split
    · split
      · exact ih (hs.beginRetire ..)
      · exact hs
    · exact hs

theorem spareGone (hs : s₀.Kept s) (d kind : Nat) : s₀.Kept (s.spareGone d kind) := by
  unfold State.spareGone
  dsimp only
  split
  · split
    · exact ((hs.updSite ..).reportLog ..).withRetirements ..
    · split
      · exact ((hs.updSite ..).reportLog ..).withRetiringRetirements ..
      · exact (((hs.updSite ..).reportLog ..).withRetirements ..).placeRetire ..
  · exact ((hs.updSite ..).reportLog ..).withRetirements ..

theorem spareInService (hs : s₀.Kept s) (d : Nat) (pass : Bool) : s₀.Kept (s.spareInService d pass) := by
  unfold State.spareInService
  split
  · split
    · exact hs
    · split
      · exact hs.placeRetire ..
      · exact (hs.updSite ..).spareGone ..
  · exact hs

theorem abruptRetire (hs : s₀.Kept s) (d : Nat) : s₀.Kept (s.abruptRetire d) := by
  unfold State.abruptRetire
  split
  · split
    · split
      · exact hs.endRetire ..
      · exact hs
    · split <;> exact hs
  · split <;> exact hs

theorem fenceDie (hs : s₀.Kept s) (d : Nat) : s₀.Kept (s.fenceDie d) := by
  unfold State.fenceDie
  refine .continueM3 (.serveAbrupt ?_ ..)
  exact .abruptRetire ((hs.updSite ..).withReservations ..) ..

theorem dieLost (hs : s₀.Kept s) (d : Nat) : s₀.Kept (s.dieLost d) := by
  unfold State.dieLost
  dsimp only
  split
  · exact (hs.reportAlarm ..).fenceDie ..
  · split
    · exact (((hs.reportAlarm ..).spareGone ..).serveAbrupt ..).continueM3 ..
    · exact hs

theorem rasRetire (hs : s₀.Kept s) (op d : Nat) (mgmt : Bool) : s₀.KeptOk id (s.rasRetire op d mgmt) := by
  unfold State.rasRetire
  split
  · trivial
  · split
    · trivial
    · exact .ite ((hs.setField ..).withRetireQueue ..) ((hs.setField ..).withRetireQueue ..)

theorem rasCmd (hs : s₀.Kept s) (v : Word32) : s₀.Kept (s.rasCmd v) := by
  unfold State.rasCmd
  split
  · exact hs
  · split
    next e1 => exact (hs.rasRetire ..).of_ok e1
    · exact hs.setField ..

end State.Kept

end Sys2Proof.Machine
end
section
/-! SUPPORT. The cores: no operation changes a fuse, takes back an output or frees a used value. -/
namespace Sys2Proof.Machine

variable {s₀ s : State}

namespace State.Kept

theorem updHart (hs : s₀.Kept s) (p vh : Nat) (f : Hart → Hart) : s₀.Kept (s.updHart p vh f) := hs

theorem coreFault (hs : s₀.Kept s) (p vh cause : Nat) (f : XFault) : s₀.Kept (s.coreFault p vh cause f) := by
  unfold State.coreFault
  exact (hs.capture ..).updHart ..

theorem coreReturn (hs : s₀.Kept s) (p vh : Nat) (v : BitVec 64) : s₀.Kept (s.coreReturn p vh v) := hs

theorem coreLeaf (hs : s₀.Kept s) (p vh gpa n : Nat) : s₀.Kept (s.coreLeaf p vh gpa n) := by
  unfold State.coreLeaf
  split
  · exact hs.keepLeaves ..
  · exact hs

theorem coreRead (hs : s₀.Kept s) (p vh gpa n : Nat) : s₀.KeptOk Prod.snd (s.coreRead p vh gpa n) := by
  unfold State.coreRead
  exact hs.cachedVA ..

theorem coreErr (hs : s₀.Kept s) (p vh cause : Nat) (e : MemErr) : s₀.Kept (s.coreErr p vh cause e) := by
  unfold State.coreErr
  split
  · exact hs.coreFault ..
  · exact (hs.badLine ..).coreFault ..

theorem vsWalk (hs : s₀.Kept s) (p vh : Nat) (c : VsContext) (k : VsKind) (va l a : Nat) : s₀.KeptOk Prod.snd (s.vsWalk p vh c k va l a) := by
  induction l generalizing s a with
  | zero =>
    unfold State.vsWalk
    split
    · trivial
    next e =>
      dsimp only
      split
      · trivial
      · split
        · split
          · exact (hs.coreRead ..).of_ok e
          · trivial
        · split <;> trivial
  | succ l ih =>
    unfold State.vsWalk
    split
    · trivial
    next e =>
      dsimp only
      split
      · trivial
      · split
        · split
          · exact (hs.coreRead ..).of_ok e
          · trivial
        · split
          · trivial
          · exact ih ((hs.coreRead ..).of_ok e) ..

theorem vsAddr (hs : s₀.Kept s) (p vh : Nat) (k : VsKind) (va : Nat) : s₀.KeptOk Prod.snd (s.vsAddr p vh k va) := by
  unfold State.vsAddr
  dsimp only
  split
  · split
    · exact hs.vsWalk ..
    · trivial
  · split
    · exact hs.vsWalk ..
    · trivial
  · exact hs

theorem vsStage (hs : s₀.Kept s) (p vh : Nat) (k : VsKind) (va n : Nat) : s₀.KeptOk Prod.snd (s.vsStage p vh k va n) := by
  unfold State.vsStage
  dsimp only
  split
  · trivial
  next e =>
    split
    · exact (hs.vsAddr ..).of_ok e
    · split
      · trivial
      next e2 => exact (((hs.vsAddr ..).of_ok e).vsAddr ..).of_ok e2

theorem vsFault (hs : s₀.Kept s) (p vh : Nat) (k : VsKind) (a : VsErr) : s₀.Kept (s.vsFault p vh k a) := by
  unfold State.vsFault
  split
  · exact hs.updHart ..
  · exact hs.coreErr ..

theorem behindVs {f : State → Nat → State} (hs : s₀.Kept s) (hf : ∀ {s₀ s : State}, s₀.Kept s → ∀ (a : Nat), s₀.Kept (f s a)) (p vh : Nat)
  (k : VsKind) (va : Nat) :
    s₀.Kept (s.behindVs p vh k va f) := by
  unfold State.behindVs
  split
  next e => exact hf ((hs.vsAddr ..).of_ok e) _
  · exact hs.vsFault ..

theorem setVs (hs : s₀.Kept s) (p vh : Nat) (c : VsContext) : s₀.Kept (s.setVs p vh c) := hs

theorem coreLoad (hs : s₀.Kept s) (p vh gpa n : Nat) : s₀.Kept (s.coreLoad p vh gpa n) := by
  unfold State.coreLoad
  split
  next e => exact ((hs.coreRead ..).of_ok e).coreReturn ..
  · exact hs.coreErr ..

theorem coreFetch (hs : s₀.Kept s) (p vh gpa : Nat) : s₀.Kept (s.coreFetch p vh gpa) := by
  unfold State.coreFetch
  split
  next e => exact (hs.coreRead ..).of_ok e
  · exact hs.coreErr ..

theorem coreStore (hs : s₀.Kept s) (p vh gpa n : Nat) (v : BitVec 64) : s₀.Kept (s.coreStore p vh gpa n v) := by
  unfold State.coreStore
  split
  · exact hs.coreFault ..
  · exact (hs.coreLeaf ..).foldl _ fun _ _ hu => hu.storePhys ..

theorem coreSplit (hs : s₀.Kept s) (p vh : Nat) (a : CoreAccess) (g m g' m' : Nat) : s₀.Kept (s.coreSplit p vh a g m g' m') := by
  have read : s₀.KeptOk Prod.snd (match s.coreRead p vh g m with
      | .error e => .error e
      | .ok (bs, u) => match u.coreRead p vh g' m' with
        | .error e => .error e
        | .ok (bs', u) => .ok (bs ++ bs', u)) := by
    split
    · trivial
    · next u e =>
      have hu : s₀.Kept u := (hs.coreRead ..).of_ok e
      split
      · trivial
      · next v e' =>
        have hv : s₀.Kept v := (hu.coreRead ..).of_ok e'
        exact hv
  unfold State.coreSplit
  dsimp only
  split
  · split
    · next e => exact read.of_ok e
    · exact hs.coreErr ..
  · split
    · next e => exact (read.of_ok e).coreReturn ..
    · exact hs.coreErr ..
  · split
    · exact .foldl ((hs.coreLeaf ..).coreLeaf ..) _ fun _ _ hu => hu.storePhys ..
    · exact hs.coreFault ..
    · exact hs.coreFault ..
  · exact hs

theorem amoRead (hs : s₀.Kept s) (p pa gpa : Nat) (wide : Bool) : s₀.KeptOk Prod.snd (s.amoRead p pa gpa wide) := by
  unfold State.amoRead
  split
  · trivial
  next e => exact (hs.cachedRead ..).of_ok e

theorem coreAtomic (hs : s₀.Kept s) (p vh : Nat) (f : AmoOp) (wide : Bool) (gpa v c : Nat) : s₀.Kept (s.coreAtomic p vh f wide gpa v c) := by
  unfold State.coreAtomic
  split
  · exact hs.coreFault ..
  · split
    · exact hs
    · split
      · exact hs.coreErr ..
      next e2 => exact (((hs.amoRead ..).of_ok e2).storePhys ..).coreReturn ..

theorem dropReservation (hs : s₀.Kept s) (p vh : Nat) : s₀.Kept (s.dropReservation p vh) := hs

theorem loadReserved (hs : s₀.Kept s) (p vh : Nat) (wide : Bool) (gpa : Nat) : s₀.Kept (s.loadReserved p vh wide gpa) := by
  unfold State.loadReserved
  split
  · exact hs.coreFault ..
  · split
    · exact hs
    · split
      · exact hs.coreErr ..
      next e2 => exact ((((hs.amoRead ..).of_ok e2).dropReservation ..).withReservations ..).coreReturn ..

theorem storeConditional (hs : s₀.Kept s) (p vh : Nat) (wide : Bool) (gpa v : Nat) : s₀.Kept (s.storeConditional p vh wide gpa v) := by
  unfold State.storeConditional
  split
  · exact hs.coreFault ..
  · split
    · exact ((hs.storePhys ..).dropReservation ..).coreReturn ..
    · exact (hs.dropReservation ..).coreReturn ..

theorem sbiReturn (hs : s₀.Kept s) (p vh : Nat) (e : SbiErr) (v : BitVec 64) : s₀.Kept (s.sbiReturn p vh e v) := hs

theorem sbiBase (hs : s₀.Kept s) (p vh fid : Nat) (arg : BitVec 64) : s₀.Kept (s.sbiBase p vh fid arg) := by
  unfold State.sbiBase
  split
  · exact hs.sbiReturn ..
  · split <;> exact hs.sbiReturn ..

theorem sbiMasked (hs : s₀.Kept s) (p vh : Nat) (mask base : BitVec 64) (f : Nat → Hart → Hart) : s₀.Kept (s.sbiMasked p vh mask base f) := by
  unfold State.sbiMasked
  dsimp only
  split
  · exact (hs.foldl _ fun _ _ hu => hu.updHart ..).sbiReturn ..
  · exact hs.sbiReturn ..

theorem sbiHsm (hs : s₀.Kept s) (p vh : Nat) (a : HsmCall) : s₀.Kept (s.sbiHsm p vh a) := by
  unfold State.sbiHsm
  split
  · split
    · exact hs.sbiReturn ..
    · split
      · exact hs.sbiReturn ..
      · split
        · exact hs.sbiReturn ..
        · exact (hs.updPart ..).sbiReturn ..
  · exact (hs.updHart ..).dropReservation ..
  · split
    · exact (hs.sbiReturn ..).updHart ..
    · split
      · split
        · exact hs.sbiReturn ..
        · exact (hs.sbiReturn ..).updHart ..
      · exact hs.sbiReturn ..
  · split <;> exact hs.sbiReturn ..

end State.Kept

end Sys2Proof.Machine
end
section
/-! SUPPORT. Debug reads and samples: no operation changes a fuse, takes back an output or frees a used value. -/
namespace Sys2Proof.Machine

variable {s₀ s : State}

namespace State.Kept

theorem viewRead {f : State → Word32 × State} (hs : s₀.Kept s) (hf : ∀ {s₀ s : State}, s₀.Kept s → s₀.Kept (f s).2) (v : View) (p : Nat) :
    s₀.Kept (s.viewRead v p f) := by
  unfold State.viewRead
  split
  · exact (hf hs).emit ..
  · exact hs.emit ..

theorem hookResume (hs : s₀.Kept s) (p : Nat) : s₀.Kept (s.hookResume p) := by
  unfold State.hookResume
  split
  · refine .unhalt (.setField ?_ ..) ..
    split
    · exact hs.updOp ..
    · exact hs
  · exact hs

theorem inspect (hs : s₀.Kept s) (p : Nat) : s₀.Kept (s.inspect p).2 := by
  unfold State.inspect
  dsimp only
  split
  · exact hs
  · split
    · exact hs
    · exact .snd_ite hs (.snd_ite (hs.stick ..) hs)

theorem opCounter (hs : s₀.Kept s) : s₀.Kept s.opCounter.2 := by
  unfold State.opCounter
  exact .snd_ite (hs.moduleCounter ..) (.snd_ite hs (hs.counter ..))

theorem opCntRead (hs : s₀.Kept s) : s₀.Kept s.opCntRead.2 := by
  unfold State.opCntRead
  exact (hs.opCounter ..).setReg ..

theorem swatchSeqRead (hs : s₀.Kept s) (p : Nat) (n : Fin 16) : s₀.Kept (s.swatchSeqRead p n).2 := by
  unfold State.swatchSeqRead
  exact hs.foldl _ fun _ _ hu => hu.setReg ..

theorem swatchKeyWrite (hs : s₀.Kept s) (p : Nat) (k : Fin 4) (v : Word32) : s₀.Kept (s.swatchKeyWrite p k v) := hs
theorem swatchInstall (hs : s₀.Kept s) (p : Nat) (v : Word32) : s₀.Kept (s.swatchInstall p v) := hs

theorem smpCfgWrite (hs : s₀.Kept s) (p : Nat) (v : Word32) : s₀.Kept (s.smpCfgWrite p v) := by
  unfold State.smpCfgWrite
  dsimp only
  split
  · split
    · exact hs.malformed ..
    · exact hs.setField ..
  · split
    · split
      · exact ((hs.setReg ..).setReg ..).updPart ..
      · exact hs.setReg ..
    · exact hs.malformed ..

theorem sampleCounters (hs : s₀.Kept s) (p : Nat) : s₀.Kept (s.sampleCounters p).2 := by
  unfold State.sampleCounters
  refine .foldl_snd hs _ fun acc i hu => ?_
  obtain ⟨sum, u⟩ := acc
  exact State.Kept.counter hu ..

theorem sample (hs : s₀.Kept s) (p : Nat) : s₀.Kept (s.sample p) := by
  have hw {u : State} (hu : s₀.Kept u) (p va : Nat) (bs : List Byte) := hu.writeVA p va bs .write none
  have hc := hs.sampleCounters p
  unfold State.sample
  generalize @State.writeVA = write at hw ⊢
  generalize State.sampleCounters = count at hc ⊢
  revert write count
  -- `id` keeps the abstraction in the proof term: the kernel would otherwise compute the accesses of 64 bytes.
  refine id fun write hw count hc => ?_
  dsimp only
  split
  · exact hs.updPart ..
  · split
    next e => exact (((hw hc ..).of_ok e).setField ..).updPart ..
    · exact ((hc.setField ..).stick ..).capture ..

theorem pathCfgWrite (hs : s₀.Kept s) (h : Fin 4) (r : PathRegs) (v : Word32) : s₀.Kept (s.pathCfgWrite h r v) := by
  unfold State.pathCfgWrite
  dsimp only
  split
  · split
    · exact hs
    · exact hs.setField ..
  · split
    · split
      · exact (hs.setReg ..).setReg ..
      · exact hs.setReg ..
    · exact hs

end State.Kept

end Sys2Proof.Machine
end
section
/-! SUPPORT. The public-key engines: no operation changes a fuse, takes back an output or frees a used value. -/
namespace Sys2Proof.Machine

variable {s₀ s : State}

namespace State.Kept

theorem updPke (hs : s₀.Kept s) (h : Nat) (f : Pke → Pke) : s₀.Kept (s.updPke h f) := hs

theorem pkeComplete (hs : s₀.Kept s) (h : Fin 4) (e : PkeEntry) (status : Nat) (verdict : Bool) : s₀.Kept (s.pkeComplete h e status verdict) := by
  unfold State.pkeComplete
  split
  · exact (hs.writeHost ..).msixSend ..
  · exact hs

theorem pkeAbort (hs : s₀.Kept s) (h : Fin 4) (u : Nat) : s₀.Kept (s.pkeAbort h u) := by
  unfold State.pkeAbort
  split
  · split
    · exact (hs.updPke ..).pkeComplete ..
    · exact hs
  · exact hs

theorem pkeGive (hs : s₀.Kept s) (h q n : Nat) : s₀.Kept (State.pkeGive h q n s) := by
  induction n generalizing s with
  | zero => exact hs
  | succ n ih =>
    unfold State.pkeGive
    split
    · exact ih ((hs.updPke ..).updPort ..)
    · exact hs

theorem pkeRuntime (hs : s₀.Kept s) (h : Nat) : s₀.Kept (s.pkeRuntime h) := by
  unfold State.pkeRuntime
  exact (hs.pkeGive ..).pkeGive ..

theorem pkeDisable (hs : s₀.Kept s) (h : Fin 4) : s₀.Kept (s.pkeDisable h) := by
  unfold State.pkeDisable
  dsimp only
  exact (((((hs.setField ..).dropCommit ..).foldl _ fun _ _ hu => hu.pkeAbort ..).foldl _ fun _ _ hu => hu.pkeComplete ..).updPke ..).pkeRuntime ..

theorem pkeApply (hs : s₀.Kept s) (h : Fin 4) (c : Commit) : s₀.Kept (s.pkeApply h c) := by
  unfold State.pkeApply
  split
  · exact hs
  · dsimp only
    split
    · exact ((hs.dropCommit ..).putActive ..).updPke ..
    · exact ((hs.dropCommit ..).setField ..).setField ..

theorem pkeDb (hs : s₀.Kept s) (h : Fin 4) (v : Word32) : s₀.Kept (s.pkeDb h v) := by
  unfold State.pkeDb
  dsimp only
  split
  · split
    · exact (hs.wake ..).updPke ..
    · exact hs.wake ..
  · split
    · exact hs.updPke ..
    · exact hs

theorem pkeFetch (hs : s₀.Kept s) (h : Fin 4) : s₀.Kept (s.pkeFetch h) := by
  unfold State.pkeFetch
  dsimp only
  split
  · exact hs
  · split
    · exact (hs.setField ..).updPke ..
    · exact hs.updPke ..

theorem pkeStart (hs : s₀.Kept s) (h : Fin 4) : s₀.Kept (s.pkeStart h) := by
  unfold State.pkeStart
  dsimp only
  split
  · exact hs
  · split
    · exact (hs.updPke ..).pkeComplete ..
    · split
      · exact (hs.updPke ..).updPke ..
      · split
        · exact hs
        · split
          · exact (hs.updPke ..).pkeComplete ..
          · split
            · exact (hs.updPke ..).updPke ..
            · exact hs

theorem pkeRun {f : State → PkeRun → PkeRun × State} (hs : s₀.Kept s) (hf : ∀ {s₀ s : State}, s₀.Kept s → ∀ (a : PkeRun), s₀.Kept (f s a).2)
  (h : Fin 4) (u op : Nat) :
    s₀.Kept (s.pkeRun h u op f) := by
  unfold State.pkeRun
  split
  · split
    · exact hs
    · exact .updPke (.snd_ite hs (.snd_ite (hf hs _) hs)) ..
  · exact hs

theorem keygenWork (hs : s₀.Kept s) (r : PkeRun) : s₀.Kept (keygenWork s r).2 := by
  unfold Machine.keygenWork
  split
  · split
    next e1 =>
      dsimp only
      split
      next snd _ => exact (hs.draw ..).snd e1
      · exact (hs.draw ..).snd e1
  · exact hs

theorem signWork (hs : s₀.Kept s) (h : Nat) (r : PkeRun) : s₀.Kept (signWork h s r).2 := by
  unfold Machine.signWork
  split
  · dsimp only
    split
    · exact hs
    · exact .snd_ite (hs.draw ..) (.snd_ite ((hs.draw ..).draw ..) ((hs.draw ..).draw ..))
  · exact hs

theorem verifyWork (hs : s₀.Kept s) (h : Nat) (r : PkeRun) : s₀.Kept (verifyWork h s r).2 := by
  unfold Machine.verifyWork
  split
  · dsimp only
    split
    · exact hs
    · split <;> exact hs
  · exact hs

theorem ecdhWork (hs : s₀.Kept s) (h : Nat) (r : PkeRun) : s₀.Kept (ecdhWork h s r).2 := by
  unfold Machine.ecdhWork
  split
  · dsimp only
    split
    · exact hs
    · split <;> exact hs
  · exact hs

theorem curveLoadWork (hs : s₀.Kept s) (h : Nat) (r : PkeRun) : s₀.Kept (curveLoadWork h s r).2 := by
  unfold Machine.curveLoadWork
  dsimp only
  split
  · exact hs.drawBelow ..
  · exact .snd_ite (hs.drawBelow ..) (hs.drawBelow ..)

theorem slotLoadWork (hs : s₀.Kept s) (h : Nat) (r : PkeRun) : s₀.Kept (slotLoadWork h s r).2 := by
  unfold Machine.slotLoadWork
  exact .snd_ite hs hs

theorem slotStoreWork (hs : s₀.Kept s) (h : Nat) (r : PkeRun) : s₀.Kept (slotStoreWork h s r).2 := by
  unfold Machine.slotStoreWork
  exact .snd_ite hs hs

theorem wipeRun (hs : s₀.Kept s) (h : Fin 4) : s₀.Kept (s.wipeRun h) := by
  unfold State.wipeRun
  split
  · exact hs
  next x _ _ _ =>
    refine .pkeRuntime (.pkeComplete (.updPke (hs.foldl _ fun u x hu => ?_) ..) ..) ..
    split
    · split
      · exact (hu.pkeAbort ..).updPke ..
      · exact hu
    · exact hu

theorem pkeFault (hs : s₀.Kept s) (h : Fin 4) (u : Nat) (r : PkeRun) : s₀.Kept (s.pkeFault h u r) := by
  unfold State.pkeFault
  split
  · exact hs.reportLog ..
  · exact hs

theorem exchangeStep (hs : s₀.Kept s) (q n : Nat) (r : PkeRun) : s₀.Kept (s.exchangeStep q n r) := by
  unfold State.exchangeStep
  dsimp only
  split
  · exact hs
  · split
    · exact hs.setPort ..
    · split
      · exact hs.phaseFailed ..
      · exact hs.linkLost ..

theorem pkeEnd (hs : s₀.Kept s) (h : Fin 4) (u : Nat) (fault : Bool) : s₀.Kept (s.pkeEnd h u fault) := by
  unfold State.pkeEnd
  split
  · exact hs
  · split
    · exact hs
    · dsimp only
      split
      · exact (((hs.pkeFault ..).updPke ..).exchangeStep ..).pkeRuntime ..
      · exact .pkeRuntime (.ite (.pkeComplete (.ite (((hs.pkeFault ..).updPke ..).writeHost ..) ((hs.pkeFault ..).updPke ..)) ..)
          (((hs.pkeFault ..).updPke ..).pkeComplete ..)) ..

end State.Kept

end Sys2Proof.Machine
end
section
/-! SUPPORT. The secure sessions: no operation changes a fuse, takes back an output or frees a used value. -/
namespace Sys2Proof.Machine

variable {s₀ s : State}

namespace State.Kept

theorem updSpdm (hs : s₀.Kept s) (h : Nat) (f : Spdm → Spdm) : s₀.Kept (s.updSpdm h f) := hs

theorem spdmAnswer (hs : s₀.Kept s) (h : Nat) (ok : Bool) (f : Spdm → Spdm) (data : List Nat) : s₀.Kept (s.spdmAnswer h ok f data) := by
  unfold State.spdmAnswer
  split
  · exact hs
  · split
    · exact (hs.updSpdm ..).emit ..
    · exact hs.emit ..

end State.Kept

end Sys2Proof.Machine
end
section
/-! SUPPORT. The links between modules: no operation changes a fuse, takes back an output or frees a used value. -/
namespace Sys2Proof.Machine

variable {s₀ s : State}

namespace State.Kept

theorem takeId (hs : s₀.Kept s) : s₀.Kept s.takeId := by
  unfold State.takeId
  split
  · exact (hs.setField ..).withMgmt ..
  · exact hs

theorem startTraining (hs : s₀.Kept s) (q : Nat) : s₀.Kept (s.startTraining q) := by
  unfold State.startTraining
  split
  · exact (hs.takeId ..).updPort ..
  · exact hs

theorem qlNodeWrite (hs : s₀.Kept s) (v : Word32) : s₀.Kept (s.qlNodeWrite v) := by
  unfold State.qlNodeWrite
  dsimp only
  exact .foldl (.ite (((hs.setReg ..).withMgmt ..).storeFromReg ..) (hs.setReg ..)) _ fun _ _ hu => hu.startTraining ..

theorem startExchange (hs : s₀.Kept s) (q : Nat) (ops : List Nat) : s₀.Kept (s.startExchange q ops) := by
  unfold State.startExchange
  exact (hs.updPort ..).pkeRuntime ..

theorem endExchange (hs : s₀.Kept s) (q : Nat) : s₀.Kept (s.endExchange q) := by
  unfold State.endExchange
  exact ((hs.updPke ..).updPort ..).pkeRuntime ..

theorem secured (hs : s₀.Kept s) (q : Nat) : s₀.Kept (s.secured q) := by
  unfold State.secured
  exact (((hs.endExchange ..).draw ..).updPort ..).linkLog ..

theorem sendControl (hs : s₀.Kept s) (q : Nat) (nak : Bool) : s₀.Kept (s.sendControl q nak) := by
  unfold State.sendControl
  exact hs.transmit ..

theorem acked (hs : s₀.Kept s) (q ack : Nat) : s₀.Kept (s.acked q ack) := by
  unfold State.acked
  dsimp only
  split
  · exact hs
  · split
    · exact hs.setPort ..
    · exact hs

theorem follow (hs : s₀.Kept s) (q : Nat) : s₀.Kept (s.follow q) := by
  unfold State.follow
  split
  · exact (hs.drainQueue ..).pkeRuntime ..
  · exact hs

theorem resend (hs : s₀.Kept s) (q : Nat) : s₀.Kept (s.resend q) := by
  unfold State.resend
  dsimp only
  split
  · exact hs.linkLost ..
  · exact (((hs.setPort ..).foldl _ fun _ _ hu => ((hu.putOnWire ..).bump ..).linkTrace ..).rekeyAt40 ..).pkeRuntime ..

theorem badFrame (hs : s₀.Kept s) (q : Nat) (f : Frame) : s₀.Kept (s.badFrame q f) := by
  unfold State.badFrame
  dsimp only
  split
  · split
    · exact (hs.reportAlarm ..).portDown ..
    · split
      · exact hs.updPort ..
      · exact (hs.updPort ..).sendControl ..
  · split
    · exact (hs.reportAlarm ..).portDown ..
    · split
      · exact hs.updPort ..
      · exact (hs.updPort ..).sendControl ..

theorem arrive {act : Frame → State → State} (hs : s₀.Kept s) (hact : ∀ {s₀ s : State}, s₀.Kept s → ∀ (a : Frame), s₀.Kept (act a s)) (q ty : Nat)
  (f : Frame) :
    s₀.Kept (s.arrive q ty f act) := by
  unfold State.arrive
  split
  · exact hs
  · dsimp only
    split
    · exact (hs.setPort ..).badFrame ..
    · exact .follow (.ite (hact (((hs.setPort ..).updPort ..).acked ..) _) (.ite (((hs.setPort ..).updPort ..).acked ..) (hact
        ((((hs.setPort ..).updPort ..).acked ..).updPort ..) _))) ..

theorem forward (hs : s₀.Kept s) (q : Nat) (f : Frame) : s₀.Kept (s.forward q f) := by
  unfold State.forward
  split
  · exact hs.linkLog ..
  · split
    · exact hs.sendFrame ..
    · exact hs.linkLog ..

theorem spanRefused (hs : s₀.Kept s) (q : Nat) (f : Frame) : s₀.Kept (s.spanRefused q f) := by
  unfold State.spanRefused
  exact hs.linkLog ..

theorem spanWrite (hs : s₀.Kept s) (q : Nat) (f : Frame) (offset : Nat) (bs : List Byte) : s₀.Kept (s.spanWrite q f offset bs) := by
  unfold State.spanWrite
  dsimp only
  split
  · exact hs.foldl _ fun _ _ hu => hu.storePhys ..
  · exact (hs.spanRefused ..).capture ..

theorem deliverData (hs : s₀.Kept s) (q : Nat) (f : Frame) : s₀.Kept (s.deliverData q f) := by
  unfold State.deliverData
  dsimp only
  split
  · exact hs.spanWrite ..
  · exact hs.spanRefused ..

theorem deliverSignal (hs : s₀.Kept s) (q : Nat) (f : Frame) : s₀.Kept (s.deliverSignal q f) := by
  unfold State.deliverSignal
  dsimp only
  split
  · exact hs.spanWrite ..
  · exact hs.spanRefused ..

theorem startRekey (hs : s₀.Kept s) (q : Nat) : s₀.Kept (s.startRekey q) := by
  unfold State.startRekey
  exact (hs.beginRekey ..).pkeRuntime ..

theorem sendProbe (hs : s₀.Kept s) (q : Nat) : s₀.Kept (s.sendProbe q) := by
  unfold State.sendProbe
  exact ((((hs.setPort ..).putOnWire ..).linkTrace ..).rekeyAt40 ..).pkeRuntime ..

theorem rekeyed (hs : s₀.Kept s) (q : Nat) : s₀.Kept (s.rekeyed q) := by
  unfold State.rekeyed
  exact (((hs.endExchange ..).draw ..).updPort ..).linkLog ..

end State.Kept

end Sys2Proof.Machine
end
section
/-! SUPPORT. The column, segment and hank units: no operation changes a fuse, takes back an output or frees a used value. -/
namespace Sys2Proof.Machine

variable {s₀ s : State}

namespace State.Kept

theorem fenceColumn (hs : s₀.Kept s) (c : Nat) : s₀.Kept (s.fenceColumn c) := hs

theorem segmentDie (hs : s₀.Kept s) (d : Nat) : s₀.Kept (s.segmentDie d) := by
  unfold State.segmentDie
  split
  · exact hs.fenceDie ..
  · split
    · exact ((hs.spareGone ..).serveAbrupt ..).continueM3 ..
    · exact hs

theorem segmentFault (hs : s₀.Kept s) (k : Nat) (lost : Bool) : s₀.Kept (s.segmentFault k lost) := by
  unfold State.segmentFault
  dsimp only
  split
  · split
    · exact (((hs.reportAlarm ..).withSegFault ..).fenceColumn ..).segmentDie ..
    · exact ((hs.reportAlarm ..).withSegFault ..).fenceColumn ..
  · exact hs.reportAlarm ..

theorem columnFault (hs : s₀.Kept s) (c stack : Nat) : s₀.Kept (s.columnFault c stack) := by
  unfold State.columnFault
  exact (hs.reportAlarm ..).fenceColumn ..

theorem takeOver (hs : s₀.Kept s) (h : Nat) : s₀.Kept (s.takeOver h) := hs

theorem hankFault (hs : s₀.Kept s) (h : Nat) : s₀.Kept (s.hankFault h) := by
  unfold State.hankFault
  split
  · exact hs
  · extract_lets stopped taken down reported service lost
    have hstopped : s₀.Kept stopped := hs.updHank ..
    have htaken : s₀.Kept taken := (hstopped.takeOver ..).updHank ..
    have hdown : s₀.Kept down := .foldl htaken _ fun _ _ hu => .ite hu (hu.portDown ..)
    have hreported : s₀.Kept reported := hdown.reportAlarm ..
    have hservice : s₀.Kept service := hreported.withService ..
    have hlost : s₀.Kept lost := .ite (hservice.withStoreBusyStoreQueueAttested ..) hservice
    exact .foldl hlost _ fun _ _ hu => .ite (hu.startFrog ..) hu

theorem monitorAlarm (hs : s₀.Kept s) (m event detail : Nat) : s₀.Kept (s.monitorAlarm m event detail) := by
  unfold State.monitorAlarm
  exact hs.reportAlarm ..

theorem monitorLog (hs : s₀.Kept s) (m event detail : Nat) : s₀.Kept (s.monitorLog m event detail) := by
  unfold State.monitorLog
  exact hs.reportLog ..

theorem pllLoss (hs : s₀.Kept s) (u : BitVec 16) : s₀.Kept (s.pllLoss u) := by
  unfold State.pllLoss
  dsimp only
  split
  · exact (hs.monitorAlarm ..).dieLost ..
  · split
    · exact (hs.monitorAlarm ..).segmentFault ..
    · split
      · exact (hs.monitorAlarm ..).hankFault ..
      · exact hs

end State.Kept

end Sys2Proof.Machine
end
section
/-! SUPPORT. Supply, cooling and resets: no operation changes a fuse, takes back an output or frees a used value. -/
namespace Sys2Proof.Machine

variable {s₀ s : State}

namespace State.Kept

theorem pwrCapWrite (hs : s₀.Kept s) (v : Word32) : s₀.Kept (s.pwrCapWrite v) := by
  unfold State.pwrCapWrite
  dsimp only
  split
  · split
    · exact (hs.setReg ..).storeFromReg ..
    · exact hs.setReg ..
  · exact hs.setField ..

theorem offBase (hs : s₀.Kept s) : s₀.Kept s.offBase := hs

theorem loadStore (hs : s₀.Kept s) : s₀.Kept s.loadStore := by
  unfold State.loadStore
  dsimp only
  exact (((hs.setReg ..).setReg ..).setReg ..).foldl _ fun _ _ hu => (hu.setReg ..).setAct ..

theorem fillAlarm (hs : s₀.Kept s) (r : FaultRec) : s₀.Kept (s.fillAlarm r) := hs

theorem coldReset (hs : s₀.Kept s) : s₀.Kept s.coldReset := by
  unfold State.coldReset
  dsimp only
  exact ((((hs.offBase ..).loadStore ..).draw ..).withPowerMgmtReplayKey ..).foldl _ fun _ _ hu => hu.fillAlarm ..

theorem moduleReset (hs : s₀.Kept s) : s₀.Kept s.moduleReset := by
  unfold State.moduleReset
  dsimp only
  refine .foldl (.foldl (.foldl (.foldl (hs.offBase.loadStore.draw.withSitesTilesRetireQueueRetirementsPowerReplayKey ..) _ fun _ _ hu =>
    hu.setReg ..) _ fun _ _ hu => hu.setField ..) _ fun _ _ hu => hu.setField ..) _
    fun _ _ hu => .foldl hu _ fun _ _ hv => ?_
  split
  · exact hv.updHank ..
  · exact hv

theorem faultM4 (hs : s₀.Kept s) (m event detail : Nat) : s₀.Kept (s.faultM4 m event detail) := by
  unfold State.faultM4
  dsimp only
  split
  · exact (hs.monitorAlarm ..).offBase ..
  · split
    · exact hs.emit ..
    · exact hs

theorem enterM4 (hs : s₀.Kept s) : s₀.Kept s.enterM4 := by
  unfold State.enterM4
  split
  · exact hs.offBase ..
  · exact hs

theorem inputVoltage (hs : s₀.Kept s) (mv : Nat) : s₀.Kept (s.inputVoltage mv) := by
  unfold State.inputVoltage
  dsimp only
  split
  · exact (hs.withPower ..).faultM4 ..
  · split
    · exact (hs.withPower ..).monitorLog ..
    · exact hs

theorem coolantTemp (hs : s₀.Kept s) (deci : Nat) : s₀.Kept (s.coolantTemp deci) := by
  unfold State.coolantTemp
  dsimp only
  split
  · split
    · exact .monitorAlarm (.ite ((hs.withPower ..).monitorAlarm ..) (hs.withPower ..)) ..
    · split
      · exact (hs.withPower ..).monitorAlarm ..
      · exact hs
  · exact hs

theorem coolantFlow (hs : s₀.Kept s) (centi : Nat) : s₀.Kept (s.coolantFlow centi) := by
  unfold State.coolantFlow
  dsimp only
  split
  · split
    · exact .monitorAlarm (.ite ((hs.withPower ..).monitorAlarm ..) (hs.withPower ..)) ..
    · split
      · exact (hs.withPower ..).monitorAlarm ..
      · exact hs
  · exact hs

theorem dieTemp (hs : s₀.Kept s) (d deci : Nat) : s₀.Kept (s.dieTemp d deci) := by
  unfold State.dieTemp
  dsimp only
  split
  · exact hs.updSite ..
  · split
    · exact (hs.updSite ..).faultM4 ..
    · split
      · exact ((hs.updSite ..).updSite ..).monitorLog ..
      · exact hs.updSite ..

theorem stackTemp (hs : s₀.Kept s) (k deci : Nat) : s₀.Kept (s.stackTemp k deci) := by
  unfold State.stackTemp
  dsimp only
  split
  · exact hs
  · split
    · split
      · exact hs
      · exact (hs.withPower ..).monitorLog ..
    · exact hs

theorem inputThrottle (hs : s₀.Kept s) (watts : Nat) : s₀.Kept (s.inputThrottle watts) := by
  unfold State.inputThrottle
  split
  · exact hs
  · dsimp only
    split
    · split
      · exact ((hs.draw ..).withPower ..).monitorLog ..
      · exact (hs.draw ..).withPower ..
    · exact (hs.draw ..).withPower ..

theorem pwrStart (hs : s₀.Kept s) (op : Nat) (mgmt : Bool) : s₀.Kept (s.pwrStart op mgmt) := hs

theorem enterM3 (hs : s₀.Kept s) (mgmt : Bool) : s₀.Kept (s.enterM3 mgmt) := by
  unfold State.enterM3
  dsimp only
  split
  · exact (hs.pwrStart ..).endPwr ..
  · split
    · exact (hs.pwrStart ..).endPwr ..
    · exact ((hs.pwrStart ..).withPower ..).continueM3 ..

theorem leaveCmd (hs : s₀.Kept s) (mgmt : Bool) : s₀.Kept (s.leaveCmd mgmt) := by
  unfold State.leaveCmd
  dsimp only
  split
  · exact (hs.pwrStart ..).leaveM3 ..
  · exact hs.pwrStart ..
  · exact (hs.pwrStart ..).endPwr ..

theorem pwrCmd (hs : s₀.Kept s) (op : Nat) : s₀.Kept (s.pwrCmd op) := by
  unfold State.pwrCmd
  split
  · exact hs.enterM4 ..
  · split
    · exact hs
    · split
      · exact hs.enterM3 ..
      · split
        · exact hs.leaveCmd ..
        · split
          · exact hs.moduleReset ..
          · exact hs.setField ..

theorem exitM3 (hs : s₀.Kept s) : s₀.Kept s.exitM3 := by
  unfold State.exitM3
  split
  · exact (hs.withPartsPower ..).endPwr ..
  · exact hs

theorem siteStarts (hs : s₀.Kept s) (d : Nat) (ok : Bool) : s₀.Kept (s.siteStarts d ok) := by
  unfold State.siteStarts
  dsimp only
  split
  · split
    · exact ((hs.updSite ..).setReg ..).setAct ..
    · split
      · exact (((hs.updSite ..).setReg ..).setAct ..).updSite ..
      · exact (((hs.updSite ..).setReg ..).setAct ..).dieLost ..
  · split
    · exact hs.updSite ..
    · split
      · exact (hs.updSite ..).updSite ..
      · exact (hs.updSite ..).dieLost ..

theorem stepRuns (hs : s₀.Kept s) (ok : Bool) (a : StartupStep) : s₀.Kept (s.stepRuns ok a) := by
  unfold State.stepRuns
  split
  · split
    · exact hs
    · exact hs.hankFault ..
  · split
    · exact hs
    · exact (hs.segmentFault ..).segmentFault ..
  · split
    · exact hs
    · exact hs.columnFault ..
  · exact hs.siteStarts ..

theorem startupStep (hs : s₀.Kept s) (k : StartupStep) (ok : Bool) : s₀.Kept (s.startupStep k ok) := by
  unfold State.startupStep
  dsimp only
  split
  · exact (hs.withPower ..).stepRuns ..
  · exact hs

theorem settleSites (hs : s₀.Kept s) : s₀.Kept s.settleSites := by
  unfold State.settleSites
  dsimp only
  exact (hs.foldl _ fun _ _ hu => hu.updSite ..).foldl _ fun _ _ hu => hu.updSite ..

theorem putKey (hs : s₀.Kept s) (h i v : Nat) : s₀.Kept (s.putKey h i v) := by
  unfold State.putKey
  split
  · exact hs.updPke ..
  · exact hs

theorem aliasKey (hs : s₀.Kept s) (h : Nat) : s₀.Kept (s.aliasKey h) := by
  unfold State.aliasKey
  split
  · exact ((hs.draw ..).putKey ..).updHank ..
  · exact hs

theorem attest (hs : s₀.Kept s) : s₀.Kept s.attest := by
  unfold State.attest
  exact (hs.putKey ..).foldl _ fun _ _ hu => hu.aliasKey ..

theorem ready (hs : s₀.Kept s) : s₀.Kept s.ready := by
  unfold State.ready
  split
  · exact ((((hs.settleSites ..).storeSeeds ..).attest ..).draw ..).withCountingPower ..
  · exact hs

theorem perst0 (hs : s₀.Kept s) : s₀.Kept s.perst0 := by
  unfold State.perst0
  exact .withPower (.ite hs (hs.moduleReset ..)) ..

theorem configRequest (hs : s₀.Kept s) (h : Nat) : s₀.Kept (s.configRequest h) := by
  unfold State.configRequest
  split
  · exact hs
  · split
    · exact hs.emit ..
    · split
      · exact .emit (.updHank (.ite hs (hs.storeSeeds ..)) ..) ..
      · exact hs

theorem disableRings (hs : s₀.Kept s) (p : Nat) : s₀.Kept (s.disableRings p) := by
  unfold State.disableRings
  exact hs.foldl _ fun _ _ hu => .ite (hu.disableRing ..) hu

theorem holdRings (hs : s₀.Kept s) (p : Nat) : s₀.Kept (s.holdRings p) := by
  unfold State.holdRings
  exact hs.foldl _ fun _ _ hu => .ite (hu.updRing ..) hu

theorem portReset (hs : s₀.Kept s) (h : Nat) : s₀.Kept (s.portReset h) := by
  unfold State.portReset
  dsimp only
  exact (((hs.updHank ..).foldl _ fun _ _ hu => .ite ((hu.disableRings ..).holdRings ..) hu).resetMsix ..).foldl _ fun _ _ hu => hu.resetMsix ..

theorem setPerst (hs : s₀.Kept s) (h : Nat) (low : Bool) : s₀.Kept (s.setPerst h low) := hs

theorem portEvent (hs : s₀.Kept s) (a : PortEvent) : s₀.Kept (s.portEvent a) := by
  unfold State.portEvent
  split
  · split
    · exact hs.portReset ..
    · exact hs
  · exact .setPerst (.ite (hs.portReset ..) hs) ..
  · dsimp only
    split
    · exact (hs.updHank ..).setPerst ..
    · exact hs

theorem flr (hs : s₀.Kept s) (h i : Nat) : s₀.Kept (s.flr h i) := by
  unfold State.flr
  dsimp only
  split
  · exact (((hs.resetMsix ..).startFrog ..).stopCores ..).disableRings ..
  · exact hs.resetMsix ..

end State.Kept

end Sys2Proof.Machine
end
section
/-! SUPPORT. Reads of registers: no operation changes a fuse, takes back an output or frees a used value. -/
namespace Sys2Proof.Machine

variable {s₀ s : State}

namespace State.Kept

theorem partRead (hs : s₀.Kept s) (p : Fin 64) (r : PReg) : s₀.Kept (s.partRead p r).2 := by
  unfold State.partRead
  split
  · exact hs.mtDataRead ..
  · exact hs.inspect ..
  · exact hs.swatchSeqRead ..
  · exact hs

theorem imageRead (hs : s₀.Kept s) (p : Fin 64) (o : Nat) : s₀.Kept (s.imageRead p o).2 := by
  unfold State.imageRead
  split
  · exact hs
  · split
    · exact hs
    · split
      · exact hs.partRead ..
      · exact hs
      · exact hs

end State.Kept

end Sys2Proof.Machine
end
section
/-! SUPPORT. The management commands: no operation changes a fuse, takes back an output or frees a used value. -/
namespace Sys2Proof.Machine

variable {s₀ s : State}

namespace State.Kept

theorem mgmtRefuse (hs : s₀.Kept s) (cmd completion : Nat) : s₀.Kept (s.mgmtRefuse cmd completion) := by
  unfold State.mgmtRefuse
  exact hs.emit ..

theorem mgmtDone (hs : s₀.Kept s) (cmd : Nat) (st : Option Status) (data : List Nat) : s₀.Kept (s.mgmtDone cmd st data) := by
  unfold State.mgmtDone
  exact hs.emit ..

theorem mgmtRun {f : State → State} (hs : s₀.Kept s) (hf : ∀ {s₀ s : State}, s₀.Kept s → s₀.Kept (f s)) (cmd : Nat) : s₀.Kept (s.mgmtRun cmd f) := by
  unfold State.mgmtRun
  split
  · exact hf hs
  · exact hs.mgmtRefuse ..

theorem alertRead (hs : s₀.Kept s) (entry : Nat) : s₀.Kept (s.alertRead entry) := hs

theorem setCap (hs : s₀.Kept s) (c : Nat) (store : Bool) : s₀.Kept (s.setCap c store) := by
  unfold State.setCap
  split
  · exact hs.mgmtRefuse ..
  · dsimp only
    split
    · split
      next e2 => exact ((hs.storePut ..).of_some e2).setReg ..
      · exact hs.mgmtRefuse ..
    · exact (hs.setReg ..).mgmtDone ..

theorem powerCmd (hs : s₀.Kept s) (op : Nat) : s₀.Kept (s.powerCmd op) := by
  unfold State.powerCmd
  split
  · exact (hs.mgmtDone ..).enterM4 ..
  · split
    · exact hs.mgmtRefuse ..
    · split
      · exact hs.mgmtRefuse ..
      · split
        · exact hs.enterM3 ..
        · split
          · exact hs.leaveCmd ..
          · exact (hs.mgmtDone ..).moduleReset ..

theorem partitionCmd (hs : s₀.Kept s) (op p : Nat) (record : BitVec 2048) (maps : List (BitVec 128)) : s₀.Kept (s.partitionCmd op p record maps) := by
  unfold State.partitionCmd
  dsimp only
  split
  · exact hs.mgmtRefuse ..
  · split
    · exact hs.mgmtRefuse ..
    · split
      · exact hs.partCreate ..
      · exact hs.partDestroy ..
      · exact hs.partRemap ..
      · exact hs.partFrog ..

theorem retireCmd (hs : s₀.Kept s) (site : Nat) : s₀.Kept (s.retireCmd site) := by
  unfold State.retireCmd
  split
  · exact hs.mgmtRefuse ..
  · split
    next e1 => exact (hs.rasRetire ..).of_ok e1
    · exact (hs.setField ..).mgmtDone ..

theorem lifecycleCmd (hs : s₀.Kept s) (target : Lifecycle) (auth : Bool) : s₀.Kept (s.lifecycleCmd target auth) := by
  unfold State.lifecycleCmd
  dsimp only
  split
  · exact ((hs.withLifecycleIdentityCert ..).mgmtDone ..).moduleReset ..
  · exact hs.mgmtDone ..

theorem storeWriteCmd (hs : s₀.Kept s) (field : Nat) (v : StoreValue) : s₀.Kept (s.storeWriteCmd field v) := by
  unfold State.storeWriteCmd
  split
  · exact hs.mgmtRefuse ..
  · split
    · exact hs.mgmtRefuse ..
    · split
      next e2 => exact (hs.storePut ..).of_some e2
      · exact hs.mgmtRefuse ..

theorem storeImport (hs : s₀.Kept s) (img : StoreImage) (serial : BitVec 64) (hashOk : Bool) : s₀.Kept (s.storeImport img serial hashOk) := by
  unfold State.storeImport
  split
  · exact hs.mgmtRefuse ..
  · split
    · exact hs.mgmtRefuse ..
    · split
      next e2 => exact (hs.storePut ..).of_some e2
      · exact hs.mgmtRefuse ..

theorem showStore (hs : s₀.Kept s) (j : StoreJob) : s₀.Kept (s.showStore j) := by
  unfold State.showStore
  dsimp only
  split
  · split
    · exact hs.setField ..
    · exact hs
  · split
    · split
      · exact ((hs.setField ..).setField ..).withMgmt ..
      · exact (hs.setField ..).withMgmt ..
    · split
      · exact (hs.setField ..).withMgmt ..
      · exact hs

theorem recalibrate (hs : s₀.Kept s) (old : StoreImage) : s₀.Kept (s.recalibrate old) := by
  unfold State.recalibrate
  split
  · exact hs
  · exact (hs.draw ..).coolantFlow ..

theorem storeDone (hs : s₀.Kept s) : s₀.Kept s.storeDone := by
  unfold State.storeDone
  split
  · exact hs
  · dsimp only
    split
    · exact (((hs.withStoreStoreBusyStoreQueue ..).showStore ..).recalibrate ..).mgmtDone ..
    · exact ((hs.withStoreStoreBusyStoreQueue ..).showStore ..).recalibrate ..

theorem measured (hs : s₀.Kept s) : s₀.Kept s.measured.2 := by
  unfold State.measured
  exact hs.draw ..

theorem pldmData (hs : s₀.Kept s) (a : PldmRequest) : s₀.Kept (s.pldmData a).2 := by
  unfold State.pldmData
  split
  · exact hs
  · exact hs
  · exact hs.measured ..
  · exact hs
  · exact hs
  · exact hs
  · exact hs
  · exact hs.measured ..
  · split
    · exact hs
    · exact hs.measured ..
  · exact hs
  · exact hs
  · exact hs
  · exact hs.alertRead ..
  · exact hs

theorem abstractCmd (hs : s₀.Kept s) (hart : Nat) : s₀.Kept (s.abstractCmd hart) := by
  unfold State.abstractCmd
  split
  · exact hs
  · split
    · exact hs
    · exact ((hs.draw ..).withMgmt ..).emit ..

theorem busAccess (hs : s₀.Kept s) (pa : Nat) (w : Option Word32) : s₀.Kept (s.busAccess pa w) := by
  unfold State.busAccess
  split
  · exact hs
  · split
    · exact (hs.withMgmt ..).emit ..
    · dsimp only
      split
      · exact (hs.withMgmt ..).storePhys ..
      · split
        · exact (((hs.withMgmt ..).badLine ..).withMgmt ..).emit ..
        · exact (hs.withMgmt ..).emit ..

end State.Kept

end Sys2Proof.Machine
end
section
/-! SUPPORT. Register writes: no operation changes a fuse, takes back an output or frees a used value. -/
namespace Sys2Proof.Machine

variable {s₀ s : State}

namespace State.Kept

theorem plainWrite (hs : s₀.Kept s) (r : Reg) (v : Word32) : s₀.Kept (s.plainWrite r v) := hs

theorem checkedWrite (hs : s₀.Kept s) (p : Fin 64) (r : PReg) (v : Word32) (ok : Bool) : s₀.Kept (s.checkedWrite p r v ok) := by
  unfold State.checkedWrite
  split
  · exact hs.plainWrite ..
  · exact hs.malformed ..

theorem memCfgWrite (hs : s₀.Kept s) (v : Word32) : s₀.Kept (s.memCfgWrite v) := by
  unfold State.memCfgWrite
  split
  · exact hs
  · exact (hs.plainWrite ..).storeFromReg ..

theorem partCmdWrite (hs : s₀.Kept s) (h : Fin 4) (v : Word32) : s₀.Kept (s.partCmdWrite h v) := by
  unfold State.partCmdWrite
  dsimp only
  split
  · exact hs
  · split
    · exact hs.plainWrite ..
    · split
      · exact hs
      · split
        · exact hs.partCreate ..
        · split
          · exact hs.partDestroy ..
          · split
            · exact hs.partRemap ..
            · exact hs.partFrog ..

theorem routeWrite (hs : s₀.Kept s) (v : Word32) : s₀.Kept (s.routeWrite v) := hs

theorem globWrite (hs : s₀.Kept s) (h : Fin 4) (r : GReg) (v : Word32) : s₀.Kept (s.globWrite h r v) := by
  unfold State.globWrite
  split
  · exact hs.rasCmd ..
  · exact hs.pwrCapWrite ..
  · split
    · exact hs.pwrCmd ..
    · exact hs
  · exact hs.memCfgWrite ..
  · exact hs.partCmdWrite ..
  · exact hs.qlNodeWrite ..
  · exact hs.routeWrite ..
  · exact hs.spanCommit ..
  · exact hs.plainWrite ..

theorem pkeCfgWrite (hs : s₀.Kept s) (h : Fin 4) (v : Word32) : s₀.Kept (s.pkeCfgWrite h v) := by
  unfold State.pkeCfgWrite
  dsimp only
  split
  · exact hs
  · split
    · exact ((hs.plainWrite ..).setField ..).startCommit ..
    · split
      · exact (hs.plainWrite ..).pkeDisable ..
      · exact hs.plainWrite ..

theorem hankWrite (hs : s₀.Kept s) (h : Fin 4) (r : HReg) (v : Word32) : s₀.Kept (s.hankWrite h r v) := by
  unfold State.hankWrite
  split
  · exact hs
  · split
    · split
      · exact hs.alarmAck ..
      · exact hs
    · split
      · exact hs.pkeCfgWrite ..
      · exact hs
    · split
      · exact hs.pkeDb ..
      · exact hs
    · split
      · exact hs.plainWrite ..
      · exact hs
    · split
      · exact hs.plainWrite ..
      · exact hs
    · split
      · exact hs.plainWrite ..
      · exact hs
    · exact hs.pathCfgWrite ..
    · exact hs.pathCfgWrite ..
    · split
      · exact hs
      · exact hs.plainWrite ..
    · split
      · exact hs
      · exact hs.plainWrite ..
    · split
      · exact hs
      · exact hs.plainWrite ..
    · split
      · exact hs
      · exact hs.plainWrite ..
    · exact hs.plainWrite ..

theorem dieWrite (hs : s₀.Kept s) (d : Fin 18) (r : DReg) (v : Word32) : s₀.Kept (s.dieWrite d r v) := by
  unfold State.dieWrite
  split
  · exact hs
  · split
    · split
      · exact hs.bwCommit ..
      · exact hs
    · exact hs.plainWrite ..

theorem checkedTileWrite (hs : s₀.Kept s) (t : Fin 576) (r : TReg) (v : Word32) (ok : Bool) : s₀.Kept (s.checkedTileWrite t r v ok) := by
  unfold State.checkedTileWrite
  split
  · exact hs.plainWrite ..
  · exact hs.stickOpt ..

theorem tileWrite (hs : s₀.Kept s) (t : Fin 576) (r : TReg) (v : Word32) : s₀.Kept (s.tileWrite t r v) := by
  unfold State.tileWrite
  split
  · exact hs
  · split
    · split
      · exact hs.qtabCommit ..
      · exact hs
    · exact hs.semWrite ..
    · exact hs.spadWrite ..
    · exact hs.vecCtrlWrite ..
    · exact hs.checkedTileWrite ..
    · split
      · exact hs.plainWrite ..
      · exact hs
    · exact hs.checkedTileWrite ..
    · exact hs.plainWrite ..

theorem coreCtrlWrite (hs : s₀.Kept s) (p : Fin 64) (v : Word32) : s₀.Kept (s.coreCtrlWrite p v) := by
  unfold State.coreCtrlWrite
  dsimp only
  split
  · exact .coreStart (.ite (hs.stopCores ..) hs) ..
  · split
    · exact hs.stopCores ..
    · exact hs

theorem partWrite (hs : s₀.Kept s) (p : Fin 64) (r : PReg) (v : Word32) : s₀.Kept (s.partWrite p r v) := by
  unfold State.partWrite
  split
  · exact hs.dbSq ..
  · exact hs.dbCq ..
  · exact hs.checkedWrite ..
  · split
    · exact hs.enableRing ..
    · exact hs.disableRing ..
  · exact hs.jobFrog ..
  · exact hs.coreCtrlWrite ..
  · split
    · exact hs.hookResume ..
    · exact hs
  · exact hs.checkedWrite ..
  · exact hs.smpCfgWrite ..
  · exact hs.checkedWrite ..
  · exact hs.checkedWrite ..
  · exact hs.checkedWrite ..
  · split
    · exact hs.swatchInstall ..
    · exact hs.swatchKeyWrite ..
  · exact hs.checkedWrite ..
  · exact hs.checkedWrite ..
  · exact hs.checkedWrite ..
  · exact hs.ctlCommit ..
  · exact hs.checkedWrite ..
  · exact hs.mtDataWrite ..
  · exact hs.mtCommit ..
  · exact hs.checkedWrite ..
  · exact hs.checkedWrite ..
  · exact hs.plainWrite ..

theorem msixWrite (hs : s₀.Kept s) (key o : Nat) (v : Word32) (msg : Nat → Output) : s₀.Kept (s.msixWrite key o v msg) := by
  unfold State.msixWrite
  split
  · exact hs
  · dsimp only
    split
    · exact hs.emit ..
    · exact hs

theorem windowWrite (hs : s₀.Kept s) (p : Fin 64) (runtime : Bool) (o : Nat) (v : Word32) : s₀.Kept (s.windowWrite p runtime o v) := by
  unfold State.windowWrite
  split
  · split
    · split
      · exact hs
      · exact hs.partWrite ..
    · split
      · split
        · exact hs.msixWrite ..
        · exact hs
      · exact hs
    · exact hs
  · exact hs

theorem dieWindowWrite (hs : s₀.Kept s) (d : Fin 18) (o : Nat) (v : Word32) (whole : Bool) : s₀.Kept (s.dieWindowWrite d o v whole) := by
  unfold State.dieWindowWrite
  split
  · split
    · exact hs.dieWrite ..
    · exact hs
  · split
    · split
      · exact hs.tileWrite ..
      · exact hs
    · exact hs
  · exact hs

theorem broadcast (hs : s₀.Kept s) (b : Block) (v : Word32) (whole : Bool) : s₀.Kept (s.broadcast b v whole) := by
  unfold State.broadcast
  split
  · exact hs.foldl _ fun _ _ hu => hu.dieWindowWrite ..
  · dsimp only
    exact hs.foldl _ fun _ _ hu => hu.dieWindowWrite ..
  · exact hs.foldl _ fun _ _ hu => hu.dieWindowWrite ..
  · exact hs

theorem pfWrite (hs : s₀.Kept s) (h : Fin 4) (runtime : Bool) (a : Nat) (v : Word32) : s₀.Kept (s.pfWrite h runtime a v) := by
  unfold State.pfWrite
  split
  · split
    · split
      · exact hs.plainWrite ..
      · exact hs
    · exact hs.globWrite ..
    · exact hs
  · split
    · exact hs.hankWrite ..
    · exact hs
  · split
    · exact hs
    · exact hs.msixWrite ..
  · exact hs.windowWrite ..
  · exact hs.dieWindowWrite ..
  · split
    · split
      · exact hs.tileWrite ..
      · exact hs
    · exact hs
  · split
    · split
      · exact hs.hankWrite ..
      · exact hs
    · exact hs
  · exact hs
  · exact hs.broadcast ..

theorem vfWrite (hs : s₀.Kept s) (h : Fin 4) (i : Fin 16) (o : Nat) (v : Word32) : s₀.Kept (s.vfWrite h i o v) := by
  unfold State.vfWrite
  split
  · split
    · exact hs.partWrite ..
    · exact hs.msixWrite ..
    · exact hs
  · exact hs

theorem imageWrite (hs : s₀.Kept s) (p : Fin 64) (o : Nat) (v : Word32) : s₀.Kept (s.imageWrite p o v) := by
  unfold State.imageWrite
  split
  · split
    · exact hs.partWrite ..
    · exact hs
  · exact hs

theorem regWrite (hs : s₀.Kept s) (req : Requester) (o width : Nat) (v : Word32) : s₀.Kept (s.regWrite req o width v) := by
  unfold State.regWrite
  split
  · exact hs
  · split
    · exact hs.pfWrite ..
    · exact hs.pfWrite ..
    · exact hs.vfWrite ..
    · exact hs.vfWrite ..
    · exact hs.imageWrite ..

theorem bcastWrite (hs : s₀.Kept s) (req : Requester) (o width : Nat) (v : Word32) : s₀.Kept (s.bcastWrite req o width v) := by
  unfold State.bcastWrite
  split
  · exact hs
  · exact hs
  · split
    · exact hs.regWrite ..
    · exact hs

theorem imageLoad (hs : s₀.Kept s) (p : Fin 64) (vh o n : Nat) : s₀.Kept (s.imageLoad p vh o n) := by
  unfold State.imageLoad
  split
  · exact (hs.imageRead ..).coreReturn ..
  · exact hs.coreReturn ..

theorem guestAccess (hs : s₀.Kept s) (p : Fin 64) (vh : Nat) (a : CoreAccess) (gpa : Nat) : s₀.Kept (s.guestAccess p vh a gpa) := by
  unfold State.guestAccess
  split
  · dsimp only
    split
    · exact hs.coreFault ..
    · exact hs.imageLoad ..
    · split
      · exact hs.imageWrite ..
      · exact hs
    · exact hs
  · split
    · exact hs.coreFetch ..
    · exact hs.coreLoad ..
    · exact hs.coreStore ..
    · exact hs

theorem coreAccess (hs : s₀.Kept s) (p : Fin 64) (vh : Nat) (a : CoreAccess) (va : Nat) : s₀.Kept (s.coreAccess p vh a va) := by
  unfold State.coreAccess
  split
  · exact hs
  · split
    · exact hs.setVs ..
    · split
      · exact hs.vsFault ..
      next e2 => exact ((hs.vsStage ..).of_ok e2).coreSplit ..
      next e3 => exact ((hs.vsStage ..).of_ok e3).guestAccess ..

theorem applyCommit (hs : s₀.Kept s) (c : Commit) : s₀.Kept (s.applyCommit c) := by
  unfold State.applyCommit
  split
  · exact hs.ctlApply ..
  · exact hs.ctlApply ..
  · exact hs.ctlApply ..
  · exact hs.ringApply ..
  · exact hs.qtabApply ..
  · exact hs.bwApply ..
  · exact hs.spanApply ..
  · exact hs.pkeApply ..

end State.Kept

end Sys2Proof.Machine
end
section
/-! SUPPORT. Every command completes in every state, and keeps the fuses, the outputs and the used free values. -/
namespace Sys2Proof.Machine

variable {s₀ s : State}

theorem execOpPassoverBlock_keeps (hs : s₀.Kept s) (o : OpRef) : ∃ u, execOpPassoverBlock o s = .next u ∧ s₀.Kept u := by
  refine ⟨_, rfl, ?_⟩
  split
  · split
    · exact hs.updOp ..
    · exact hs
  · exact hs

theorem execMtDataAccess_keeps (hs : s₀.Kept s) (view : View) (p : Fin 64) (value : Option (BitVec 32)) :
    ∃ u, execMtDataAccess view p value s = .next u ∧ s₀.Kept u := by
  refine ⟨_, rfl, ?_⟩
  split
  · split
    · exact hs.mtDataWrite ..
    · exact hs
  · split
    · exact (hs.mtDataRead ..).emit ..
    · exact hs.emit ..

theorem execCastOnCommitApply_keeps (hs : s₀.Kept s) (g : Sys2Proof.Group) : ∃ u, execCastOnCommitApply g s = .next u ∧ s₀.Kept u := by
  refine ⟨_, rfl, ?_⟩
  split
  · exact hs.applyCommit ..
  · exact hs

theorem execSpadPwrApply_keeps (hs : s₀.Kept s) (t : Fin 576) : ∃ u, execSpadPwrApply t s = .next u ∧ s₀.Kept u := by
  refine ⟨_, rfl, ?_⟩
  split
  · split
    · exact hs.applySpad ..
    · exact hs
  · exact hs

theorem execSpadGroupReady_keeps (hs : s₀.Kept s) (t : Fin 576) : ∃ u, execSpadGroupReady t s = .next u ∧ s₀.Kept u := by
  refine ⟨_, rfl, ?_⟩
  split
  · exact (hs.updReg ..).updTile ..
  · exact hs

theorem execReducePathApply_keeps (hs : s₀.Kept s) (t : Fin 576) : ∃ u, execReducePathApply t s = .next u ∧ s₀.Kept u := by
  refine ⟨_, rfl, ?_⟩
  split
  · split
    · exact (hs.setField ..).updTile ..
    · exact hs
  · exact hs

theorem execSwaitSatisfied_keeps (hs : s₀.Kept s) (t : Fin 576) (k : StreamCode) : ∃ u, execSwaitSatisfied t k s = .next u ∧ s₀.Kept u := by
  refine ⟨_, rfl, ?_⟩
  split
  · split
    next e2 => exact ((hs.semTake ..).of_some e2).updStream ..
    · exact hs
  · exact hs

theorem execSpostr_keeps (hs : s₀.Kept s) (t : Fin 576) (k : StreamCode) (w : StreamWord) : ∃ u, execSpostr t k w s = .next u ∧ s₀.Kept u := by
  refine ⟨_, rfl, ?_⟩
  refine hs.issue (fun _ => .bind .engGet fun s => ?_) ..
  split
  · split
    · exact .putPost ..
    · exact .engFault ..
  · exact .pure _

theorem execDeadlockTimeout_keeps (hs : s₀.Kept s) (o : OpRef) : ∃ u, execDeadlockTimeout o s = .next u ∧ s₀.Kept u := by
  refine ⟨_, rfl, ?_⟩
  split
  · split
    · exact hs.endNow ..
    · exact hs
  · exact hs

theorem execStreamWatchdog_keeps (hs : s₀.Kept s) (o : OpRef) (t : Fin 576) (k : StreamCode) :
    ∃ u, execStreamWatchdog o t k s = .next u ∧ s₀.Kept u := by
  refine ⟨_, rfl, ?_⟩
  split
  · dsimp only
    split
    · exact (((hs.reportLog ..).startSelfTest ..).replayR69 ..).resetTested ..
    · exact hs
  · exact hs

theorem execPatrolScrub_keeps (hs : s₀.Kept s) (line : Fin 25769803776) (found : EccFinding) :
    ∃ u, execPatrolScrub line found s = .next u ∧ s₀.Kept u := by
  refine ⟨_, rfl, ?_⟩
  refine .ite hs ?_
  split
  · exact hs
  · exact .ite hs (hs.bump ..)
  · exact .ite hs (hs.bump ..)
  · exact (hs.withMemBad ..).badLine ..

theorem execOpCntLoRead_keeps (hs : s₀.Kept s) (req : Requester) : ∃ u, execOpCntLoRead req s = .next u ∧ s₀.Kept u := by
  refine ⟨_, rfl, ?_⟩
  split
  · split
    · exact hs.emit ..
    · exact hs.emit ..
    · exact (hs.opCntRead ..).emit ..
  · exact hs.emit ..

theorem execRetirementStart_keeps (hs : s₀.Kept s) (d : Fin 18) : ∃ u, execRetirementStart d s = .next u ∧ s₀.Kept u := by
  refine ⟨_, rfl, ?_⟩
  split
  · split
    · exact (hs.beginRetire ..).serveAbrupt ..
    · exact hs
  · exact hs

theorem execRetireGraceExpiry_keeps (hs : s₀.Kept s) (d : Fin 18) : ∃ u, execRetireGraceExpiry d s = .next u ∧ s₀.Kept u := by
  refine ⟨_, rfl, ?_⟩
  split
  · split
    · exact ((hs.endRetire ..).serveAbrupt ..).continueM3 ..
    · exact hs
  · exact hs

theorem execStoreRead_keeps (hs : s₀.Kept s) (field : BitVec 8) : ∃ u, execStoreRead field s = .next u ∧ s₀.Kept u := by
  refine ⟨_, rfl, ?_⟩
  split
  · exact hs.mgmtRefuse ..
  · split
    · exact hs.mgmtDone ..
    · exact hs.mgmtRefuse ..

theorem execVsTimerInterrupt_keeps (hs : s₀.Kept s) (p : Fin 64) (vh : Nat) : ∃ u, execVsTimerInterrupt p vh s = .next u ∧ s₀.Kept u := by
  refine ⟨_, rfl, ?_⟩
  split
  · split
    · split
      · exact hs.updHart ..
      · exact hs
    · exact hs
  · exact hs

/-- Each command by the operation it runs. -/
theorem exec_keeps (hs : s₀.Kept s) (c : Instr) : ∃ t, exec c s = .next t ∧ s₀.Kept t := by
  cases c with
  | dbSqWrite => exact ⟨_, rfl, .ite (hs.dbSq ..) hs⟩
  | dbCqWrite => exact ⟨_, rfl, .ite (hs.dbCq ..) hs⟩
  | ringEnable => exact ⟨_, rfl, .ite (hs.enableRing ..) hs⟩
  | ringDisable => exact ⟨_, rfl, .ite (hs.disableRing ..) hs⟩
  | ringDrained => exact ⟨_, rfl, .ite (hs.updRing ..) hs⟩
  | submissionFetch => exact ⟨_, rfl, hs.fetch ..⟩
  | opReady => exact ⟨_, rfl, hs.opReady ..⟩
  | opPassoverBlock => exact execOpPassoverBlock_keeps hs ..
  | loadCt => exact ⟨_, rfl, hs.runOp (fun _ _ => .workLoadCt ..) ..⟩
  | storeCt => exact ⟨_, rfl, hs.runOp (fun _ _ => .workStoreCt ..) ..⟩
  | copy => exact ⟨_, rfl, hs.runOp (fun _ _ => .copyWork ..) ..⟩
  | transposeCopy => exact ⟨_, rfl, hs.runOp (fun _ _ => .copyWork ..) ..⟩
  | fill => exact ⟨_, rfl, hs.runOp (fun _ _ => .fillWork ..) ..⟩
  | add => exact ⟨_, rfl, hs.runOp (fun _ _ => .workAdd ..) ..⟩
  | sub => exact ⟨_, rfl, hs.runOp (fun _ _ => .workSub ..) ..⟩
  | neg => exact ⟨_, rfl, hs.runOp (fun _ _ => .workNeg ..) ..⟩
  | addPlain => exact ⟨_, rfl, hs.runOp (fun _ _ => .workAddPlain ..) ..⟩
  | mulPlain => exact ⟨_, rfl, hs.runOp (fun _ _ => .workMulPlain ..) ..⟩
  | mulConst => exact ⟨_, rfl, hs.runOp (fun _ _ => .workMulConst ..) ..⟩
  | mul => exact ⟨_, rfl, hs.runOp (fun _ _ => .workMul ..) ..⟩
  | relin => exact ⟨_, rfl, hs.runOp (fun _ _ => .workRelin ..) ..⟩
  | rescale => exact ⟨_, rfl, hs.runOp (fun _ _ => .workRescale ..) ..⟩
  | modDrop => exact ⟨_, rfl, hs.runOp (fun _ _ => .workModDrop ..) ..⟩
  | rotate => exact ⟨_, rfl, hs.runOp (fun _ _ => .workRotate ..) ..⟩
  | hoistRotate => exact ⟨_, rfl, hs.runOp (fun _ _ => .hoistWork ..) ..⟩
  | conjugate => exact ⟨_, rfl, hs.runOp (fun _ _ => .workConjugate ..) ..⟩
  | keyswitch => exact ⟨_, rfl, hs.runOp (fun _ _ => .workKeyswitch ..) ..⟩
  | nttFwd => exact ⟨_, rfl, hs.runOp (fun _ _ => .workNttFwd ..) ..⟩
  | nttInv => exact ⟨_, rfl, hs.runOp (fun _ _ => .workNttInv ..) ..⟩
  | bconv => exact ⟨_, rfl, hs.runOp (fun _ _ => .bconvWork ..) ..⟩
  | linearTransform => exact ⟨_, rfl, hs.runOp (fun _ _ => .workLinearTransform ..) ..⟩
  | polyEval => exact ⟨_, rfl, hs.runOp (fun _ _ => .workPolyEval ..) ..⟩
  | refresh => exact ⟨_, rfl, hs.runOp (fun _ _ => .refreshWork ..) ..⟩
  | encodeOp => exact ⟨_, rfl, hs.runOp (fun _ _ => .encodeWork ..) ..⟩
  | intMatmul => exact ⟨_, rfl, hs.runOp (fun _ _ => .workIntMatmul ..) ..⟩
  | intConv => exact ⟨_, rfl, hs.runOp (fun _ _ => .intWork ..) ..⟩
  | fence => exact ⟨_, rfl, hs.runOp (fun _ _ => .workFence ..) ..⟩
  | signal => exact ⟨_, rfl, hs.runOp (fun _ _ => .signalWork ..) ..⟩
  | custom => exact ⟨_, rfl, hs.startCustom ..⟩
  | tilePartComplete => exact ⟨_, rfl, hs.tilePart ..⟩
  | opBindOff => exact ⟨_, rfl, hs.bindOffCompared ..⟩
  | completionWrite => exact ⟨_, rfl, hs.deliver ..⟩
  | ringIrqTimer => exact ⟨_, rfl, .ite (hs.ringIrq ..) hs⟩
  | mtDataAccess => exact execMtDataAccess_keeps hs ..
  | mtCommit => exact ⟨_, rfl, .ite (hs.mtCommit ..) hs⟩
  | mtCommitCheck => exact ⟨_, rfl, hs.mtCommitCheck ..⟩
  | ctlCommitHandle => exact ⟨_, rfl, .ite (hs.ctlStart ..) hs⟩
  | ctlCommitKeyDir => exact ⟨_, rfl, .ite (hs.ctlStart ..) hs⟩
  | ctlCommitBundle => exact ⟨_, rfl, .ite (hs.ctlStart ..) hs⟩
  | qtabCommit => exact ⟨_, rfl, .ite (hs.qtabCommit ..) hs⟩
  | bwCommit => exact ⟨_, rfl, .ite (hs.bwCommit ..) hs⟩
  | spanCommit => exact ⟨_, rfl, .ite (hs.spanCommit ..) hs⟩
  | castOnCommitApply => exact execCastOnCommitApply_keeps hs ..
  | semWrite => exact ⟨_, rfl, .ite (hs.semWrite ..) hs⟩
  | spadPwrWrite => exact ⟨_, rfl, .ite (hs.spadWrite ..) hs⟩
  | spadPwrApply => exact execSpadPwrApply_keeps hs ..
  | spadGroupReady => exact execSpadGroupReady_keeps hs ..
  | vecCtrlWrite => exact ⟨_, rfl, .ite (hs.vecCtrlWrite ..) hs⟩
  | reducePathApply => exact execReducePathApply_keeps hs ..
  | memCfgWrite => exact ⟨_, rfl, .ite (hs.memCfgWrite ..) hs⟩
  | registerWrite => exact ⟨_, rfl, hs.regWrite ..⟩
  | broadcastWrite => exact ⟨_, rfl, hs.bcastWrite ..⟩
  | nop => exact ⟨_, rfl, hs.issueAt ..⟩
  | loop => exact ⟨_, rfl, hs.issueAt ..⟩
  | cmpset => exact ⟨_, rfl, hs.issueAt ..⟩
  | whenInstr => exact ⟨_, rfl, hs.issueAt ..⟩
  | swait => exact ⟨_, rfl, hs.swait ..⟩
  | swaitSatisfied => exact execSwaitSatisfied_keeps hs ..
  | spost => exact ⟨_, rfl, hs.issue (fun _ => .putPost ..) ..⟩
  | spostr => exact execSpostr_keeps hs ..
  | spostTakesEffect => exact ⟨_, rfl, hs.postEffect ..⟩
  | endInstr => exact ⟨_, rfl, hs.issueAt ..⟩
  | fload => exact ⟨_, rfl, hs.feedIssue ..⟩
  | fstore => exact ⟨_, rfl, hs.feedIssue ..⟩
  | fmove => exact ⟨_, rfl, hs.feedIssue ..⟩
  | spfill => exact ⟨_, rfl, hs.feedIssue ..⟩
  | spcopy => exact ⟨_, rfl, hs.feedIssue ..⟩
  | feederTransferDone => exact ⟨_, rfl, hs.feederDone ..⟩
  | nttf => exact ⟨_, rfl, hs.issue (fun _ => .nttWork ..) ..⟩
  | ntti => exact ⟨_, rfl, hs.issue (fun _ => .nttWork ..) ..⟩
  | ffte => exact ⟨_, rfl, hs.issue (fun _ => .ffteWork ..) ..⟩
  | ccopy => exact ⟨_, rfl, hs.issue (fun _ => .ccopyWork ..) ..⟩
  | caute => exact ⟨_, rfl, hs.issue (fun _ => .cautWork ..) ..⟩
  | cautc => exact ⟨_, rfl, hs.issue (fun _ => .cautWork ..) ..⟩
  | cgath => exact ⟨_, rfl, hs.issue (fun _ => .cgathWork ..) ..⟩
  | crgath => exact ⟨_, rfl, hs.issue (fun _ => .crgathWork ..) ..⟩
  | ctrans => exact ⟨_, rfl, hs.issue (fun _ => .ctransWork ..) ..⟩
  | cxchg => exact ⟨_, rfl, hs.issue (fun _ => .cxchgWork ..) ..⟩
  | exchangeComplete => exact ⟨_, rfl, hs.exchangeDone ..⟩
  | rmode => exact ⟨_, rfl, hs.issue (fun _ => .rmodeWork ..) ..⟩
  | rconst => exact ⟨_, rfl, hs.issue (fun _ => .rconstWork ..) ..⟩
  | rmac => exact ⟨_, rfl, hs.issue (fun _ => .rmacWork ..) ..⟩
  | pkey => exact ⟨_, rfl, hs.issue (fun _ => .pkeyWork ..) ..⟩
  | pmac => exact ⟨_, rfl, hs.issue (fun _ => .pmacWork ..) ..⟩
  | setwin => exact ⟨_, rfl, hs.issue (fun _ => .setwinWork ..) ..⟩
  | setvl => exact ⟨_, rfl, hs.issue (fun _ => .setvlWork ..) ..⟩
  | vaddm => exact ⟨_, rfl, hs.vec ..⟩
  | vsubm => exact ⟨_, rfl, hs.vec ..⟩
  | vnegm => exact ⟨_, rfl, hs.vec ..⟩
  | vmulm => exact ⟨_, rfl, hs.vec ..⟩
  | vmaddm => exact ⟨_, rfl, hs.vec ..⟩
  | vlift => exact ⟨_, rfl, hs.vec ..⟩
  | vrescale => exact ⟨_, rfl, hs.vec ..⟩
  | vaddi => exact ⟨_, rfl, hs.vec ..⟩
  | vsubi => exact ⟨_, rfl, hs.vec ..⟩
  | vmuli => exact ⟨_, rfl, hs.vec ..⟩
  | vmaddi => exact ⟨_, rfl, hs.vec ..⟩
  | vmaxi => exact ⟨_, rfl, hs.vec ..⟩
  | vmini => exact ⟨_, rfl, hs.vec ..⟩
  | vrelu => exact ⟨_, rfl, hs.vec ..⟩
  | vclamp => exact ⟨_, rfl, hs.vec ..⟩
  | vlut8 => exact ⟨_, rfl, hs.vec ..⟩
  | vshrr => exact ⟨_, rfl, hs.vec ..⟩
  | vreq => exact ⟨_, rfl, hs.vec ..⟩
  | vcvtif => exact ⟨_, rfl, hs.vec ..⟩
  | vcvtfi => exact ⟨_, rfl, hs.vec ..⟩
  | vaddf => exact ⟨_, rfl, hs.vec ..⟩
  | vsubf => exact ⟨_, rfl, hs.vec ..⟩
  | vmulf => exact ⟨_, rfl, hs.vec ..⟩
  | vdivf => exact ⟨_, rfl, hs.vec ..⟩
  | vsqrtf => exact ⟨_, rfl, hs.vec ..⟩
  | vmaxf => exact ⟨_, rfl, hs.vec ..⟩
  | vminf => exact ⟨_, rfl, hs.vec ..⟩
  | vcopy => exact ⟨_, rfl, hs.vec ..⟩
  | vreduce => exact ⟨_, rfl, hs.issue (fun _ => .vreduceWork ..) ..⟩
  | queueSlotCommit => exact ⟨_, rfl, hs.slotCommit ..⟩
  | queueSlotRelease => exact ⟨_, rfl, hs.slotRelease ..⟩
  | engineStallResume => exact ⟨_, rfl, .ite (hs.updStream ..) hs⟩
  | deadlockTimeout => exact execDeadlockTimeout_keeps hs ..
  | streamWatchdog => exact execStreamWatchdog_keeps hs ..
  | transactionTimeout => exact ⟨_, rfl, hs.timeout ..⟩
  | residueMismatch => exact ⟨_, rfl, hs.residueMismatch ..⟩
  | ondieUncorrectable => exact ⟨_, rfl, hs.ondieError ..⟩
  | stackUncorrectable => exact ⟨_, rfl, hs⟩
  | patrolScrub => exact execPatrolScrub_keeps hs ..
  | flitCrcError => exact ⟨_, rfl, .ite hs (.ite (hs.reportTrace ..) (hs.reportLog ..))⟩
  | coreMemoryAccess => exact ⟨_, rfl, hs.coreAccess ..⟩
  | coreAtomic => exact ⟨_, rfl, .ite (hs.behindVs (fun hu _ => (hu.coreLeaf ..).coreAtomic ..) ..) hs⟩
  | coreLoadReserved => exact ⟨_, rfl, .ite (hs.behindVs (fun hu _ => (hu.coreLeaf ..).loadReserved ..) ..) hs⟩
  | coreStoreConditional => exact ⟨_, rfl, .ite (hs.behindVs (fun hu _ => (hu.coreLeaf ..).storeConditional ..) ..) hs⟩
  | sbiBase => exact ⟨_, rfl, .ite (hs.sbiBase ..) hs⟩
  | sbiTimer => exact ⟨_, rfl, .ite ((hs.updHart ..).sbiReturn ..) hs⟩
  | sbiIpi => exact ⟨_, rfl, .ite (hs.sbiMasked ..) hs⟩
  | sbiRfence => exact ⟨_, rfl, .ite (.ite (hs.sbiMasked ..) (hs.sbiReturn ..)) hs⟩
  | sbiHsm => exact ⟨_, rfl, .ite (hs.sbiHsm ..) hs⟩
  | sbiSystemReset => exact ⟨_, rfl, .ite (.ite ((hs.stopCores ..).startHart0 ..) (hs.sbiReturn ..)) hs⟩
  | coreStart => exact ⟨_, rfl, .ite (hs.coreStart ..) hs⟩
  | coreStopAll => exact ⟨_, rfl, .ite (hs.stopCores ..) hs⟩
  | translationChange => exact ⟨_, rfl, hs.translationChange ..⟩
  | partCreate => exact ⟨_, rfl, .ite (hs.partCreate ..) hs⟩
  | partDestroy => exact ⟨_, rfl, .ite (hs.partDestroy ..) hs⟩
  | partRemap => exact ⟨_, rfl, .ite (hs.partRemap ..) hs⟩
  | partFrog => exact ⟨_, rfl, .ite (hs.partFrog ..) hs⟩
  | jobFrog => exact ⟨_, rfl, .ite (hs.jobFrog ..) hs⟩
  | frogEnginesStopped => exact ⟨_, rfl, hs.enginesStopped ..⟩
  | frogScrubStepDone => exact ⟨_, rfl, (hs.scrubStepDone ..).continueM3 ..⟩
  | pageScrubDone => exact ⟨_, rfl, hs.pageScrubDone ..⟩
  | hookDrained => exact ⟨_, rfl, .ite (hs.setField ..) hs⟩
  | hookResume => exact ⟨_, rfl, .ite (hs.hookResume ..) hs⟩
  | inspDataRead => exact ⟨_, rfl, .ite (hs.viewRead (fun hu => hu) ..) (hs.viewRead (fun hu => hu.inspect ..) ..)⟩
  | opCntLoRead => exact execOpCntLoRead_keeps hs ..
  | swatchSeqRead => exact ⟨_, rfl, .ite (hs.viewRead (fun hu => hu) ..) (hs.viewRead (fun hu => hu.swatchSeqRead ..) ..)⟩
  | swatchKeyInstall => exact ⟨_, rfl, .ite (hs.swatchInstall ..) hs⟩
  | samplerEnable => exact ⟨_, rfl, .ite (hs.smpCfgWrite ..) hs⟩
  | sampleRecord => exact ⟨_, rfl, .ite (hs.sample ..) hs⟩
  | logEnable => exact ⟨_, rfl, .ite (hs.pathCfgWrite ..) hs⟩
  | traceEnable => exact ⟨_, rfl, .ite (hs.pathCfgWrite ..) hs⟩
  | logWindowClose => exact ⟨_, rfl, hs.closeWindow ..⟩
  | traceMarker => exact ⟨_, rfl, .ite (hs.traceMark ..) hs⟩
  | fcAlarmAck => exact ⟨_, rfl, .ite (hs.alarmAck ..) hs⟩
  | dispatcherHeartbeat => exact ⟨_, rfl, .ite (hs.updSite ..) hs⟩
  | heartbeatCheck => exact ⟨_, rfl, .ite hs (.ite (hs.updSite ..) (.ite ((hs.updSite ..).dieLost ..) (hs.updSite ..)))⟩
  | dieProbeTimeout => exact ⟨_, rfl, .ite (hs.dieLost ..) hs⟩
  | tileSelftestDone => exact ⟨_, rfl, .ite (.ite (.ite ((hs.updTile ..).tileReset ..) (((hs.updTile ..).tileReset ..).setRuOut ..)) (.outOfUse
    (.ite ((hs.updTile ..).tileReset ..) (((hs.updTile ..).tileReset ..).setRuOut ..)) ..)) hs⟩
  | rasRetire => exact ⟨_, rfl, .ite (hs.rasCmd ..) hs⟩
  | retirementStart => exact execRetirementStart_keeps hs ..
  | spareInService => exact ⟨_, rfl, ((hs.spareInService ..).serveAbrupt ..).continueM3 ..⟩
  | retireGraceExpiry => exact execRetireGraceExpiry_keeps hs ..
  | bridgeSegmentFault => exact ⟨_, rfl, .ite (hs.segmentFault ..) hs⟩
  | memoryColumnFault => exact ⟨_, rfl, .ite (hs.columnFault ..) hs⟩
  | hankDieFault => exact ⟨_, rfl, .ite (hs.hankFault ..) hs⟩
  | pllLossOfLock => exact ⟨_, rfl, .ite (hs.pllLoss ..) hs⟩
  | refclkLoss => exact ⟨_, rfl, .ite (.ite ((hs.withPower ..).monitorAlarm ..) (hs.withPower ..)) hs⟩
  | refclkAbsentTimeout => exact ⟨_, rfl, .ite ((hs.foldl _ fun _ _ hu => hu.updTile ..).withPower ..) hs⟩
  | refclkReturn => exact ⟨_, rfl, (hs.foldl _ fun _ _ hu => hu.updTile ..).withPower ..⟩
  | inputVoltageChange => exact ⟨_, rfl, hs.inputVoltage ..⟩
  | conversionFault => exact ⟨_, rfl, hs.faultM4 ..⟩
  | coolantTempChange => exact ⟨_, rfl, hs.coolantTemp ..⟩
  | coolantFlowChange => exact ⟨_, rfl, hs.coolantFlow ..⟩
  | flowTripTimer => exact ⟨_, rfl, .ite (hs.faultM4 ..) hs⟩
  | dieTempChange => exact ⟨_, rfl, hs.dieTemp ..⟩
  | stackOvertemp => exact ⟨_, rfl, hs.stackTemp ..⟩
  | dutyAdjust => exact ⟨_, rfl, .ite (hs.updSite ..) hs⟩
  | inputThrottle => exact ⟨_, rfl, hs.inputThrottle ..⟩
  | pwrCapWrite => exact ⟨_, rfl, .ite (hs.pwrCapWrite ..) hs⟩
  | enterM3 => exact ⟨_, rfl, .ite (hs.pwrCmd ..) hs⟩
  | leaveM3 => exact ⟨_, rfl, .ite (hs.pwrCmd ..) hs⟩
  | m3ExitDone => exact ⟨_, rfl, hs.exitM3 ..⟩
  | enterM4 => exact ⟨_, rfl, .ite (hs.pwrCmd ..) hs⟩
  | moduleResetCmd => exact ⟨_, rfl, .ite (hs.pwrCmd ..) hs⟩
  | powerOn => exact ⟨_, rfl, .ite (hs.coldReset ..) hs⟩
  | startupStep => exact ⟨_, rfl, hs.startupStep ..⟩
  | runtimeReady => exact ⟨_, rfl, hs.ready ..⟩
  | perst0Assert => exact ⟨_, rfl, hs.perst0 ..⟩
  | perst0Deassert => exact ⟨_, rfl, hs⟩
  | portReset => exact ⟨_, rfl, hs.portEvent ..⟩
  | vfFlr => exact ⟨_, rfl, .ite (hs.flr ..) hs⟩
  | senseClose => exact ⟨_, rfl, hs⟩
  | hotswapChargeStart => exact ⟨_, rfl, .ite (hs.withPower ..) hs⟩
  | senseOpen => exact ⟨_, rfl, (hs.enterM4 ..).withPower ..⟩
  | forceOff => exact ⟨_, rfl, hs.enterM4 ..⟩
  | getState => exact ⟨_, rfl, hs.mgmtDone ..⟩
  | alarmRead => exact ⟨_, rfl, hs.mgmtRun (fun hu => (hu.alertRead ..).mgmtDone ..) ..⟩
  | alarmAck => exact ⟨_, rfl, hs.mgmtRun (fun hu => .ite ((hu.alarmAck ..).mgmtDone ..) (hu.mgmtRefuse ..)) ..⟩
  | setCap => exact ⟨_, rfl, hs.mgmtRun (fun hu => hu.setCap ..) ..⟩
  | power => exact ⟨_, rfl, hs.mgmtRun (fun hu => hu.powerCmd ..) ..⟩
  | coldReset => exact ⟨_, rfl, (hs.mgmtDone ..).coldReset ..⟩
  | partition => exact ⟨_, rfl, hs.mgmtRun (fun hu => hu.partitionCmd ..) ..⟩
  | retire => exact ⟨_, rfl, hs.mgmtRun (fun hu => hu.retireCmd ..) ..⟩
  | lifecycle => exact ⟨_, rfl, hs.mgmtRun (fun hu => hu.lifecycleCmd ..) ..⟩
  | storeRead => exact execStoreRead_keeps hs ..
  | storeWrite => exact ⟨_, rfl, hs.mgmtRun (fun hu => hu.storeWriteCmd ..) ..⟩
  | storeExport => exact ⟨_, rfl, .ite (hs.mgmtDone ..) (hs.mgmtRefuse ..)⟩
  | storeImport => exact ⟨_, rfl, hs.mgmtRun (fun hu => hu.storeImport ..) ..⟩
  | storeWriteDone => exact ⟨_, rfl, hs.storeDone ..⟩
  | setEndpointId => exact ⟨_, rfl, (hs.withMgmt ..).emit ..⟩
  | pldmRequest => exact ⟨_, rfl, .ite ((hs.pldmData ..).emit ..) (hs.emit ..)⟩
  | pkeRingEnable => exact ⟨_, rfl, .ite hs ((hs.setField ..).startCommit ..)⟩
  | pkeRingDisable => exact ⟨_, rfl, .ite (hs.pkeDisable ..) hs⟩
  | pkeDb => exact ⟨_, rfl, .ite (hs.pkeDb ..) hs⟩
  | pkeCommandStart => exact ⟨_, rfl, .ite (((hs.pkeRuntime ..).pkeFetch ..).pkeStart ..) hs⟩
  | keygen => exact ⟨_, rfl, hs.pkeRun (fun hu _ => hu.keygenWork ..) ..⟩
  | sign => exact ⟨_, rfl, hs.pkeRun (fun hu _ => hu.signWork ..) ..⟩
  | verify => exact ⟨_, rfl, hs.pkeRun (fun hu _ => hu.verifyWork ..) ..⟩
  | ecdh => exact ⟨_, rfl, hs.pkeRun (fun hu _ => hu.ecdhWork ..) ..⟩
  | curveLoad => exact ⟨_, rfl, hs.pkeRun (fun hu _ => hu.curveLoadWork ..) ..⟩
  | wipe => exact ⟨_, rfl, hs.wipeRun ..⟩
  | slotLoad => exact ⟨_, rfl, hs.pkeRun (fun hu _ => hu.slotLoadWork ..) ..⟩
  | slotStore => exact ⟨_, rfl, hs.pkeRun (fun hu _ => hu.slotStoreWork ..) ..⟩
  | pkeOpComplete => exact ⟨_, rfl, hs.pkeEnd ..⟩
  | entropyHealthFail => exact ⟨_, rfl, .ite ((hs.updPke ..).reportAlarm ..) hs⟩
  | getVersion => exact ⟨_, rfl, hs.spdmAnswer ..⟩
  | getCapabilities => exact ⟨_, rfl, hs.spdmAnswer ..⟩
  | negotiateAlgorithms => exact ⟨_, rfl, hs.spdmAnswer ..⟩
  | getDigests => exact ⟨_, rfl, hs.spdmAnswer ..⟩
  | getCertificate => exact ⟨_, rfl, hs.spdmAnswer ..⟩
  | challenge => exact ⟨_, rfl, hs.spdmAnswer ..⟩
  | getMeasurements => exact ⟨_, rfl, hs.spdmAnswer ..⟩
  | keyExchange => exact ⟨_, rfl, hs.spdmAnswer ..⟩
  | finish => exact ⟨_, rfl, .ite ((hs.updSpdm ..).spdmAnswer ..) (hs.spdmAnswer ..)⟩
  | keyUpdate => exact ⟨_, rfl, hs.spdmAnswer ..⟩
  | heartbeat => exact ⟨_, rfl, hs.spdmAnswer ..⟩
  | endSession => exact ⟨_, rfl, hs.spdmAnswer ..⟩
  | ideKeyProgram => exact ⟨_, rfl, .ite (hs.updHank ..) hs⟩
  | qlNodeWrite => exact ⟨_, rfl, .ite (hs.qlNodeWrite ..) hs⟩
  | qlPortTakedown => exact ⟨_, rfl, .ite ((hs.linkLog ..).portDown ..) hs⟩
  | qlTrainingDone => exact ⟨_, rfl, .ite (.ite ((hs.updPort ..).storeSeeds ..) (hs.linkLost ..)) hs⟩
  | qlHello => exact ⟨_, rfl, .ite (.ite ((hs.updPort ..).startExchange ..) (hs.phaseFailed ..)) hs⟩
  | qlSecureDone => exact ⟨_, rfl, .ite (.ite (hs.secured ..) (hs.phaseFailed ..)) hs⟩
  | qlPhaseTimeout => exact ⟨_, rfl, .ite (hs.phaseFailed ..) hs⟩
  | qlRetryTimer => exact ⟨_, rfl, .ite ((hs.updPort ..).startTraining ..) hs⟩
  | qlLaneLoss => exact ⟨_, rfl, .ite (hs.linkLost ..) hs⟩
  | dataFrame => exact ⟨_, rfl, hs.arrive (fun hu _ => .ite (hu.deliverData ..) (hu.forward ..)) ..⟩
  | signalFrame => exact ⟨_, rfl, hs.arrive (fun hu _ => .ite (hu.deliverSignal ..) (hu.forward ..)) ..⟩
  | controlFrame => exact ⟨_, rfl, hs.arrive (fun hu _ => .ite (hu.resend ..) hu) ..⟩
  | probeFrame => exact ⟨_, rfl, hs.arrive (fun hu _ => hu.linkTrace ..) ..⟩
  | keyExchangeFrame => exact ⟨_, rfl, hs.arrive (fun hu _ => .ite hu (hu.startRekey ..)) ..⟩
  | qlControlTimer => exact ⟨_, rfl, .ite ((hs.sendControl ..).pkeRuntime ..) hs⟩
  | qlProbeSend => exact ⟨_, rfl, .ite (hs.sendProbe ..) hs⟩
  | qlRekeyStart => exact ⟨_, rfl, .ite (hs.startRekey ..) hs⟩
  | qlRekeyComplete => exact ⟨_, rfl, .ite (.ite (hs.rekeyed ..) (hs.linkLost ..)) hs⟩
  | tileEntersM1 => exact ⟨_, rfl, .ite (hs.updTile ..) hs⟩
  | tileEntersM2 => exact ⟨_, rfl, .ite (hs.updTile ..) hs⟩
  | tileM2ExitDone => exact ⟨_, rfl, .ite (hs.updTile ..) hs⟩
  | vsTimerInterrupt => exact execVsTimerInterrupt_keeps hs ..
  | abstractCommand => exact ⟨_, rfl, hs.abstractCmd ..⟩
  | systemBusAccess => exact ⟨_, rfl, hs.busAccess ..⟩
  | tapInstruction => exact ⟨_, rfl, hs⟩
  | configurationRequest => exact ⟨_, rfl, hs.configRequest ..⟩

theorem step_keeps (s : State) : ∃ u, step s = .next u ∧ s.Kept u := by
  have hs := State.Kept.refl s
  unfold step
  split
  · exact ⟨_, rfl, .ite hs hs⟩
  next c rest _ => exact exec_keeps (s := { s with pending := rest }) hs c

/-- Settles O60: every operation of the model keeps `State.Kept`, operation by operation in the model's order, and every command is one of them. -/
theorem stepKeepsFuses : Obligations.StepKeepsFuses := fun s => ⟨step_keeps s, exec_keeps (.refl s)⟩

end Sys2Proof.Machine
end
section
/-! A bind-off that writes host memory: the look-up of a refresh bundle (R54) meets an uncorrectable line, and its log record, for which no window is free, goes to the
ring of the log path in host memory (R228, R370, R405). -/
namespace Sys2Proof.Machine

/-- Partition 0 with 2 MiB at 0x1_0000_0000, readable and writable. -/
def bundlePart : Part :=
  { state := .active, vf := some (0, 1), quads := [0], grant := 32
    map := [{ va := 0x100000000, units := 32, page := 1, read := true, write := true, combine := true, pages := [0x4000000] }] }

/-- The result of the op: a valid CKKS header that is exhausted (R41, R53). -/
def exhaustedHeader : Header := BitVec.ofNat 512 (2 ^ 29 + 2 ^ 31)

/-- A NEG from handle `a` to handle `d`. -/
def negEntry (a d : Nat) : Entry := BitVec.ofNat 512 (0x12 + a * 2 ^ 96 + d * 2 ^ 160)

/-- The NEG that has run, with its result on handle 1. -/
def refreshedOp : OpRec := { idx := 0, entry := negEntry 0 1, phase := .ran, started := true, tiles := [0], results := [(1, exhaustedHeader)] }

/-- Its job, with auto-refresh; a second NEG reads handle 1. -/
def refreshedJob : Job :=
  { id := 0, part := 0, ring := 0, sqIndex := 0, entry := BitVec.ofNat 512 (2 ^ 32 + 2 * 2 ^ 16), ops := [refreshedOp, { idx := 1, entry := negEntry 1 2 }] }

/-- Registers of the counterexample: the roots of the tables, chain slot 0 committed, and the log path of hank die 1, a ring of 16 entries at host address 0x10000. -/
def bundleRegs : List (Reg × Word32) :=
  [(.glob (.ptRoot 0), BitVec.ofNat 32 (tableBase 0 / 4096)), (pr 0 .mtStatus, 1), (.hank 1 .logCfg, 0x80000004), (.hank 1 .logBaseLo, 0x10000)]

/-- The active copies: the handle table at 0x1_0000_4000, the table of refresh bundles, of one entry, at 0x1_0000_8000. -/
def bundleActs : List (Reg × Word32) :=
  [(pr 0 .ctHandleBaseLo, 0x4000), (pr 0 .ctHandleBaseHi, 1), (pr 0 .ctHandleCount, 3), (pr 0 .rbBaseLo, 0x8000), (pr 0 .rbBaseHi, 1), (pr 0 .rbCount, 1)]

/-- The module in M0 with that job: the line of the table of bundles reads as uncorrectable, and every log window of hank die 1 is open. -/
def badBundle : State :=
  let s : State := { State.reset with
    power := { State.reset.power with state := .m0, runtimeReady := true }
    parts := [(0, bundlePart)], jobs := [refreshedJob], tiles := [(0, { op := some (0, 0) })] }
  let s := bundleRegs.foldl (fun s x => s.setReg x.1 x.2) s
  let s := bundleActs.foldl (fun s x => s.setAct x.1 x.2) s
  { s.writeTables 0 [] bundlePart.map with
    memBad := [(0x4008000 / 64, true)]
    hanks := [(1, { windows := List.replicate 64 (s.newRec (tileUnit 0) (tileUnit 0) 0x01 0 none) })] }

theorem badBundle_op : badBundle.op? ⟨0, 0⟩ = some (refreshedJob, refreshedOp) := by decide +kernel
theorem badBundle_bindable : badBundle.bindable refreshedJob refreshedOp = true := by decide +kernel
/-- The counterexample is in canonical form. -/
theorem badBundle_inv : badBundle.Inv := by unfold State.Inv; decide +kernel

/-- The header of the result can be written. -/
theorem badBundle_headers : ∃ u, writeHeaders refreshedJob.part refreshedOp.headers badBundle = .ok () u := by
  have h : (match writeHeaders refreshedJob.part refreshedOp.headers badBundle with | .ok _ _ => true | .error _ _ => false) = true := by decide +kernel
  split at h
  · next u hu => exact ⟨u, hu⟩
  · cases h

/-- The event code of the log record, 0x03 (R229), stands in host memory after the bind-off, and did not before. -/
theorem badBundle_logs : badBundle.readHost 1 0x1000C 1 = [0] ∧ (badBundle.bindOffCompared ⟨0, 0⟩).readHost 1 0x1000C 1 = [3] := by decide +kernel

/-- Refutes O32: with auto-refresh, a bind-off can write host memory. Its look-up of a refresh bundle meets an uncorrectable line, which it reports; while all 64 log
windows of the column's hank die are open, the record goes to the ring of the log path at once. -/
theorem not_opBindsOff : ¬ Obligations.OpBindsOff := by
  unfold Obligations.OpBindsOff
  intro h
  obtain ⟨u, hu⟩ := badBundle_headers
  obtain ⟨t, ht, -, hhost, -⟩ := (h ⟨0, 0⟩ refreshedJob refreshedOp badBundle u badBundle_op badBundle_bindable).2 (.inl rfl) (by decide) hu
  obtain rfl : badBundle.bindOffCompared ⟨0, 0⟩ = t := Host.Outcome.next.inj ht
  obtain ⟨hbefore, hafter⟩ := badBundle_logs
  have hread : (badBundle.bindOffCompared ⟨0, 0⟩).readHost 1 0x1000C 1 = badBundle.readHost 1 0x1000C 1 := by
    unfold State.readHost; rw [hhost]
  rw [hafter, hbefore] at hread
  exact absurd hread (by decide)

end Sys2Proof.Machine
end
section
/-! A table that is rebuilt entry by entry, as the sites are when lines leave their caches. -/
namespace Sys2Proof.Tab

variable {α : Type} [DecidableEq α] {d : Nat → α} {m r : Tab α} {k : Nat}

/-- Writes under keys above `l` leave what stands at and below it. -/
theorem get_foldl_set_le (f : Nat → α → α) {l : Nat} (hm : wfFrom d (some l) m = true) (hk : k ≤ l) (r : Tab α) :
    get d (m.foldl (fun r q => set d r q.1 (f q.1 q.2)) r) k = get d r k := by
  induction m generalizing l r with
  | nil => rfl
  | cons q rest ih =>
    obtain ⟨hl, hrest⟩ : l < q.1 ∧ wfFrom d (some q.1) rest = true := by simp [wfFrom] at hm; exact ⟨hm.1.1, hm.2⟩
    rw [List.foldl_cons, ih hrest (by omega), get_set_other _ _ (by omega)]

/-- A read of the rebuilt table is that of the changed entry, or there is no entry. -/
theorem get_rebuild (f : Nat → α → α) {lo : Option Nat} (hm : wfFrom d lo m = true) (hr : wf d r = true) :
    get d (m.foldl (fun r q => set d r q.1 (f q.1 q.2)) r) k = f k (get d m k) ∨
    (get d (m.foldl (fun r q => set d r q.1 (f q.1 q.2)) r) k = get d r k ∧ get d m k = d k) := by
  induction m generalizing lo r with
  | nil => exact .inr ⟨rfl, rfl⟩
  | cons q rest ih =>
    have hrest : wfFrom d (some q.1) rest = true := by simp [wfFrom] at hm; exact hm.2
    rw [List.foldl_cons]
    by_cases hq : q.1 = k
    · subst hq
      left
      rw [get_foldl_set_le f hrest (Nat.le_refl _), get_set_same hr]
      simp [get]
    · have hskip : get d (q :: rest) k = get d rest k := by simp [get, hq]
      rw [hskip, ← get_set_other (d := d) r (f q.1 q.2) (Ne.symm hq)]
      exact ih hrest (wf_set hr _ _)

end Sys2Proof.Tab
end
section
/-! What the consequences of a unit's fault leave of the units: the causes of RAS_STATUS, the fenced columns and lost segments, the sites that are on their way out, and
the hank dies that have stopped (R357, R364, R369). -/
namespace Sys2Proof.Machine

/-- A site that is on its way out of service, or out of it. -/
def Site.outgoing (x : Site) : Prop := x.state = .retiring ∨ x.state = .retired

/-- SERVICE stays set, segments and columns stand as they did, a site on its way out is not taken back, and a hank die that has stopped is left alone. -/
def State.UnitsKept (s t : State) : Prop :=
  (s.service = true → t.service = true) ∧ t.segFault = s.segFault ∧ t.colFenced = s.colFenced ∧
  (Tab.wf (fun _ => ({} : Site)) s.sites = true → Tab.wf (fun _ => ({} : Site)) t.sites = true ∧ ∀ d, (s.site d).outgoing → (t.site d).outgoing) ∧
  ∀ h, (s.hank h).running = false → t.hank h = s.hank h

namespace State.UnitsKept

variable {s₀ s t : State}

/-! ### Rules of the relation -/

theorem refl (s : State) : s.UnitsKept s := ⟨id, rfl, rfl, fun w => ⟨w, fun _ => id⟩, fun _ _ => rfl⟩

theorem ite {c : Prop} [Decidable c] (hs : s₀.UnitsKept s) (ht : s₀.UnitsKept t) : s₀.UnitsKept (if c then s else t) := by
  split
  · exact hs
  · exact ht

theorem foldl {α : Type} {f : State → α → State} (hs : s₀.UnitsKept s) (l : List α) (hf : ∀ u x, s₀.UnitsKept u → s₀.UnitsKept (f u x)) :
    s₀.UnitsKept (l.foldl f s) := by
  induction l generalizing s with
  | nil => exact hs
  | cons x rest ih => exact ih (hf s x hs)

theorem service (hs : s₀.UnitsKept s) (h : s₀.service = true) : s.service = true := hs.1 h
theorem segFault (hs : s₀.UnitsKept s) : s.segFault = s₀.segFault := hs.2.1
theorem colFenced (hs : s₀.UnitsKept s) : s.colFenced = s₀.colFenced := hs.2.2.1
theorem outgoing (hs : s₀.UnitsKept s) (w : Tab.wf (fun _ => ({} : Site)) s₀.sites = true) {d : Nat} (h : (s₀.site d).outgoing) : (s.site d).outgoing :=
  (hs.2.2.2.1 w).2 d h
theorem hank (hs : s₀.UnitsKept s) {h : Nat} (hr : (s₀.hank h).running = false) : s.hank h = s₀.hank h := hs.2.2.2.2 h hr

/-! ### Changes of something else -/

theorem updTile (hs : s₀.UnitsKept s) (k : Nat) (f : Tile → Tile) : s₀.UnitsKept (s.updTile k f) := hs
theorem updPart (hs : s₀.UnitsKept s) (p : Nat) (f : Part → Part) : s₀.UnitsKept (s.updPart p f) := hs
theorem countBy (hs : s₀.UnitsKept s) (p n k : Nat) : s₀.UnitsKept (s.countBy p n k) := hs
theorem updPort (hs : s₀.UnitsKept s) (q : Nat) (f : QPort → QPort) : s₀.UnitsKept (s.updPort q f) := hs
theorem updJob (hs : s₀.UnitsKept s) (j : Nat) (f : Job → Job) : s₀.UnitsKept (s.updJob j f) := hs
theorem updOp (hs : s₀.UnitsKept s) (o : OpRef) (f : OpRec → OpRec) : s₀.UnitsKept (s.updOp o f) := hs
theorem setReg (hs : s₀.UnitsKept s) (r : Reg) (v : Word32) : s₀.UnitsKept (s.setReg r v) := hs
theorem setField (hs : s₀.UnitsKept s) (r : Reg) (hi lo v : Nat) : s₀.UnitsKept (s.setField r hi lo v) := hs
theorem setAct (hs : s₀.UnitsKept s) (r : Reg) (v : Word32) : s₀.UnitsKept (s.setAct r v) := hs
theorem emit (hs : s₀.UnitsKept s) (o : Output) : s₀.UnitsKept (s.emit o) := hs
theorem draw (hs : s₀.UnitsKept s) : s₀.UnitsKept s.draw.2 := hs
theorem produce (hs : s₀.UnitsKept s) (p n : Nat) (e : HeldEntry) : s₀.UnitsKept (s.produce p n e) := hs
theorem withJobs (hs : s₀.UnitsKept s) (jobs) : s₀.UnitsKept { s with jobs := jobs } := hs
theorem withPower (hs : s₀.UnitsKept s) (power) : s₀.UnitsKept { s with power := power } := hs
theorem withReservations (hs : s₀.UnitsKept s) (reservations) : s₀.UnitsKept { s with reservations := reservations } := hs
theorem withRetirements (hs : s₀.UnitsKept s) (retirements) : s₀.UnitsKept { s with retirements := retirements } := hs
theorem withRetiring (hs : s₀.UnitsKept s) (retiring) : s₀.UnitsKept { s with retiring := retiring } := hs
theorem withRetiringRetirements (hs : s₀.UnitsKept s) (retiring retirements) : s₀.UnitsKept { s with retiring := retiring, retirements := retirements } := hs
theorem withRegsActiveCommits (hs : s₀.UnitsKept s) (regs active commits) : s₀.UnitsKept { s with regs := regs, active := active, commits := commits } := hs
theorem withTilesReservationsPower (hs : s₀.UnitsKept s) (tiles reservations power) :
    s₀.UnitsKept { s with tiles := tiles, reservations := reservations, power := power } := hs
theorem dropCommit (hs : s₀.UnitsKept s) (g : Group) : s₀.UnitsKept (s.dropCommit g) := hs

/-! ### Changes of a site, and of a hank die that runs -/

theorem updSite (hs : s₀.UnitsKept s) (d : Nat) (f : Site → Site) (hf : ∀ x : Site, x.outgoing → (f x).outgoing) : s₀.UnitsKept (s.updSite d f) := by
  obtain ⟨hservice, hseg, hcol, hsites, hhanks⟩ := hs
  refine ⟨hservice, hseg, hcol, fun w => ?_, hhanks⟩
  obtain ⟨w', hout⟩ := hsites w
  refine ⟨Tab.wf_set w' .., fun k hk => ?_⟩
  by_cases hkd : k = d
  · subst hkd; rw [site_updSite_same w']; exact hf _ (hout k hk)
  · rw [site_updSite_other _ hkd]; exact hout k hk

theorem rebuildSites (hs : s₀.UnitsKept s) (f : Nat → Site → Site) (hf : ∀ d (x : Site), x.outgoing → (f d x).outgoing) :
    s₀.UnitsKept { s with sites := s.sites.foldl (fun r q => Tab.set (fun _ => ({} : Site)) r q.1 (f q.1 q.2)) [] } := by
  obtain ⟨hservice, hseg, hcol, hsites, hhanks⟩ := hs
  refine ⟨hservice, hseg, hcol, fun w => ?_, hhanks⟩
  obtain ⟨w', hout⟩ := hsites w
  refine ⟨Tab.wf_rebuild s.sites (fun q => q.1) (fun q => f q.1 q.2) [] rfl, fun k hk => ?_⟩
  have hold : (Tab.get (fun _ => ({} : Site)) s.sites k).outgoing := hout k hk
  obtain h | ⟨-, h⟩ := Tab.get_rebuild (k := k) (r := []) f w' rfl
  · exact Eq.mpr (congrArg Site.outgoing h) (hf k _ hold)
  · rw [h] at hold
    obtain h | h := hold <;> cases h

theorem setHank (hs : s₀.UnitsKept s) (k : Nat) (hk : (s.hank k).running = true) (x : Hank) : s₀.UnitsKept (s.setHank k x) := by
  obtain ⟨hservice, hseg, hcol, hsites, hhanks⟩ := hs
  refine ⟨hservice, hseg, hcol, hsites, fun h hr => ?_⟩
  have hhk : h ≠ k := by
    rintro rfl
    rw [hhanks h hr, hr] at hk; cases hk
  rw [hank_setHank_other _ hhk]; exact hhanks h hr

/-! ### Reports and counters -/

theorem bump (hs : s₀.UnitsKept s) (r : Reg) (hi lo : Nat) : s₀.UnitsKept (s.bump r hi lo) := .ite hs hs

theorem pathWrite (hs : s₀.UnitsKept s) (h : Fin 4) (r : PathRegs) (v : BitVec 256) : s₀.UnitsKept (s.pathWrite h r v) := hs

theorem logRecord (hs : s₀.UnitsKept s) (h : Fin 4) (v : BitVec 256) : s₀.UnitsKept (s.logRecord h v) := by
  unfold State.logRecord
  exact .ite (hs.bump ..) (.ite (((hs.pathWrite ..).setField ..).bump ..) (hs.pathWrite ..))

theorem emitLog (hs : s₀.UnitsKept s) (h : Fin 4) (r : FaultRec) : s₀.UnitsKept (s.emitLog h r) := by
  unfold State.emitLog
  exact .logRecord (.ite (hs.setField ..) hs) ..

theorem reportLog (hs : s₀.UnitsKept s) (src rep : BitVec 16) (event detail : Nat) (part : Option Nat) :
    s₀.UnitsKept (s.reportLog src rep event detail part) := by
  unfold State.reportLog
  dsimp only
  split
  · exact hs
  next hr =>
    have hr : (s.hank (hIdx (s.owner src))).running = true := by simpa using hr
    exact .ite (hs.setHank _ hr _) (.ite (hs.setHank _ hr _) (hs.emitLog ..))

theorem reportAlarm (hs : s₀.UnitsKept s) (src rep : BitVec 16) (event detail : Nat) (part : Option Nat) :
    s₀.UnitsKept (s.reportAlarm src rep event detail part) := by
  unfold State.reportAlarm
  dsimp only
  split
  · exact hs
  next hr => exact setHank hs _ (by simpa using hr) _

theorem addUnseen (hs : s₀.UnitsKept s) (p : Nat) (ns : List Nat) : s₀.UnitsKept (s.addUnseen p ns) := hs.foldl _ fun _ _ hu => hu
theorem countRun (hs : s₀.UnitsKept s) (p : Nat) (r : OpRec) : s₀.UnitsKept (s.countRun p r) := .ite (hs.addUnseen ..) hs

theorem counter (hs : s₀.UnitsKept s) (p n : Nat) : s₀.UnitsKept (s.counter p n).2 := by
  unfold State.counter
  split
  · exact hs
  · exact .ite (hs.addUnseen ..) hs

theorem latch (hs : s₀.UnitsKept s) (j : Job) : s₀.UnitsKept (s.latch j).2 := by
  unfold State.latch
  split
  · exact (hs.counter ..).counter ..
  · exact hs

/-! ### Memory -/

theorem drawBelow (hs : s₀.UnitsKept s) (m n : Nat) : s₀.UnitsKept (s.drawBelow m n).2 := by
  induction n generalizing s with
  | zero => exact hs
  | succ n ih => exact ih hs.draw

theorem storeLine (hs : s₀.UnitsKept s) (pa : Nat) (bs : List Byte) (keep : Option Nat) : s₀.UnitsKept (s.storeLine pa bs keep) := by
  refine .ite hs (rebuildSites hs (fun d x => if some d = keep then x else { x with cache := x.cache.filter (fun c => decide (c.2 ≠ pa / 64)) }) fun d x hx => ?_)
  split <;> exact hx

theorem storePhys (hs : s₀.UnitsKept s) (pa : Nat) (bs : List Byte) (keep : Option Nat) : s₀.UnitsKept (s.storePhys pa bs keep) :=
  hs.foldl _ fun _ _ hu => hu.storeLine ..

theorem writeVA (hs : s₀.UnitsKept s) {p va : Nat} {bs : List Byte} {k : Access} {unit : Option Nat} (h : s.writeVA p va bs k unit = .ok t) : s₀.UnitsKept t := by
  unfold State.writeVA at h
  split at h
  · cases h
  · cases h; exact hs.foldl _ fun _ _ hu => hu.storePhys ..

theorem restoreLimbs (hs : s₀.UnitsKept s) (p : Nat) (saved : List (Nat × List Byte)) (unit : Option Nat) : s₀.UnitsKept (s.restoreLimbs p saved unit) := by
  refine hs.foldl _ fun u x hu => ?_
  dsimp only
  split
  next h => exact hu.writeVA h
  · exact hu

theorem spoil (hs : s₀.UnitsKept s) (p : Nat) (keep : Bool) (rs : List (Nat × Nat)) (unit : Option Nat) : s₀.UnitsKept (s.spoil p keep rs unit) := by
  refine hs.foldl _ fun u x hu => ?_
  dsimp only
  split
  · exact (hu.drawBelow ..).foldl _ fun _ _ hv => .ite hv (hv.storePhys ..)
  · exact hu

/-! ### Ops that end, move or run again -/

theorem freeTiles (hs : s₀.UnitsKept s) (ts : List Nat) : s₀.UnitsKept (s.freeTiles ts) := hs.foldl _ fun _ _ hu => hu

theorem replay (hs : s₀.UnitsKept s) (o : OpRef) : s₀.UnitsKept (s.replay o) := by
  unfold State.replay
  split
  · exact ((((hs.countBy ..).countRun ..).freeTiles ..).restoreLimbs ..).updOp ..
  · exact hs

theorem displace (hs : s₀.UnitsKept s) (o : OpRef) (left : List Nat) : s₀.UnitsKept (s.displace o left) := by
  unfold State.displace
  split
  · exact (hs.freeTiles ..).updOp ..
  · exact hs

theorem moveOp (hs : s₀.UnitsKept s) (o : OpRef) (d : Nat) (spare : Option Nat) : s₀.UnitsKept (s.moveOp o d spare) := by
  unfold State.moveOp
  split
  next j r _ =>
    have hrun : s₀.UnitsKept (if r.phase.runs then s.replay o else s) := .ite (hs.replay o) hs
    dsimp only
    split
    · exact ((hrun.updOp ..).updOp ..).updOp ..
    · exact .ite ((hrun.updOp ..).updOp ..) (((hrun.updOp ..).updOp ..).displace ..)
  · exact hs

theorem produceOp (hs : s₀.UnitsKept s) (o : OpRef) : s₀.UnitsKept (s.produceOp o) := by
  unfold State.produceOp
  split
  · exact .ite ((hs.updOp ..).produce ..) (hs.updOp ..)
  · exact hs

theorem reportOp (hs : s₀.UnitsKept s) (o : OpRef) : s₀.UnitsKept (s.reportOp o) := by
  unfold State.reportOp
  split
  · exact .ite (.ite (hs.updJob ..) (hs.produceOp ..)) hs
  · exact hs

theorem refreshEnds (hs : s₀.UnitsKept s) (o : OpRef) : s₀.UnitsKept (s.refreshEnds o) := by
  unfold State.refreshEnds
  split
  · split
    · exact (hs.updOp ..).reportOp ..
    · exact hs
  · exact hs

/-! ### Frogs -/

theorem spoilStash (hs : s₀.UnitsKept s) (ls : List (Nat × Nat)) : s₀.UnitsKept (s.spoilStash ls) :=
  hs.foldl _ fun _ _ hu => (hu.drawBelow 256 64).updTile ..

theorem killOp (hs : s₀.UnitsKept s) (o : OpRef) : s₀.UnitsKept (s.killOp o) := by
  unfold State.killOp
  split
  · exact hs
  next j r _ =>
    have hspoilt : s₀.UnitsKept (if r.started then s.spoil j.part false (r.limbs ++ r.spoil ++ r.scratch) r.die else s) := .ite (hs.spoil ..) hs
    exact (((((((hspoilt.countRun ..).latch ..).spoilStash ..).freeTiles ..).updPart ..).updOp ..).refreshEnds ..).reportOp ..

theorem stopOps (hs : s₀.UnitsKept s) (f : Job → OpRec → Bool) : s₀.UnitsKept (s.stopOps f) := by
  unfold State.stopOps
  dsimp only
  exact (hs.withJobs ..).foldl _ fun _ _ hu => hu.updTile ..

theorem killJobs (hs : s₀.UnitsKept s) (js : List Nat) : s₀.UnitsKept (s.killJobs js) := by
  unfold State.killJobs
  extract_lets marked stopped dropped
  have hstopped : s₀.UnitsKept stopped := stopOps (s := marked) hs _
  have hdropped : s₀.UnitsKept dropped := by
    refine hstopped.foldl _ fun u o hu => ?_
    split
    · exact hu.foldl _ fun _ _ hv => hv.updTile ..
    · exact hu
  refine hdropped.foldl _ fun u jid hu => ?_
  refine foldl ?_ _ fun _ _ hv => hv.killOp ..
  split <;> exact hu

theorem cancelCommits (hs : s₀.UnitsKept s) (p : Nat) : s₀.UnitsKept (s.cancelCommits p) := by
  unfold State.cancelCommits
  exact .dropCommit (.dropCommit (.dropCommit (.ite ((hs.updPart ..).setField ..) hs) ..) ..) ..

theorem stopCores (hs : s₀.UnitsKept s) (p : Nat) : s₀.UnitsKept (s.stopCores p) := by
  unfold State.stopCores
  exact .withReservations (.updPart (.ite (hs.addUnseen ..) hs) ..) ..

theorem startFrog (hs : s₀.UnitsKept s) (p : Nat) (whole destroy : Bool) (js : List Nat) : s₀.UnitsKept (s.startFrog p whole destroy js) := by
  unfold State.startFrog
  extract_lets js old wider again frog issued killed
  have hkilled : s₀.UnitsKept killed := (hs.updPart ..).killJobs ..
  exact .ite hs (.ite ((hkilled.cancelCommits ..).stopCores ..) hkilled)

/-! ### Links -/

theorem spanLost (hs : s₀.UnitsKept s) (n : Nat) : s₀.UnitsKept (s.spanLost n) := by
  unfold State.spanLost
  exact ((hs.bump ..).setField ..).reportLog ..

theorem portDown (hs : s₀.UnitsKept s) (q : Nat) (retry : Bool) : s₀.UnitsKept (s.portDown q retry) := by
  unfold State.portDown State.dropQueue
  exact ((hs.foldl _ fun _ _ hu => hu.spanLost ..).foldl _ fun _ _ hu => hu.reportLog ..).updPort ..

/-! ### The entry to M3 goes on -/

theorem resetDieRegs (hs : s₀.UnitsKept s) (keepOut : Bool) : s₀.UnitsKept (s.resetDieRegs keepOut) := by
  unfold State.resetDieRegs
  extract_lets outs cleared shared
  have hcleared : s₀.UnitsKept cleared := hs.withRegsActiveCommits ..
  have hshared : s₀.UnitsKept shared := hcleared.foldl _ fun _ _ hu => (hu.setReg ..).setAct ..
  exact hshared.foldl _ fun _ _ hu => hu.setField ..

theorem enterM3Now (hs : s₀.UnitsKept s) : s₀.UnitsKept s.enterM3Now := by
  unfold State.enterM3Now
  have hu : s₀.UnitsKept (s.resetDieRegs true) := hs.resetDieRegs true
  generalize s.resetDieRegs true = u at hu
  exact (hu.rebuildSites (fun _ x => { x with cache := [], leaves := [], started := false, missing := 0, beat := false, probe := false, duty := 16 })
    fun _ _ hx => hx).withTilesReservationsPower ..

theorem endPwr (hs : s₀.UnitsKept s) (op : Nat) (st : Status) : s₀.UnitsKept (s.endPwr op st) := by
  unfold State.endPwr
  split
  · exact .setField (.setField (.withPower (.ite (hs.emit ..) hs) ..) ..) ..
  · exact hs

theorem continueM3 (hs : s₀.UnitsKept s) : s₀.UnitsKept s.continueM3 := by
  unfold State.continueM3
  split
  · dsimp only
    split
    · exact (hs.enterM3Now.endPwr ..).withPower ..
    · exact hs.enterM3Now.endPwr ..
  · exact hs

/-! ### Retirements -/

theorem yieldWays (hs : s₀.UnitsKept s) (ds : List Nat) : s₀.UnitsKept (s.yieldWays ds) := by
  unfold State.yieldWays
  exact hs.foldl _ fun _ _ hu => hu.updSite _ _ fun _ hx => hx

theorem tellPart (hs : s₀.UnitsKept s) (p : Nat) (abrupt : Bool) (d : Nat) (goal : Option Nat) (hadQuads lostHarts : Bool) (survivor : Option Nat) :
    s₀.UnitsKept (s.tellPart p abrupt d goal hadQuads lostHarts survivor) := by
  unfold State.tellPart
  extract_lets r counted told raised
  have hcounted : s₀.UnitsKept counted := (hs.bump ..).setField ..
  have htold : s₀.UnitsKept told := by
    refine .ite ?_ hs
    split <;> exact hcounted
  refine .ite ?_ htold
  split <;> exact htold

theorem passOn (hs : s₀.UnitsKept s) (d : Nat) (abrupt : Bool) (quads cores : Moves) (spare : Option Nat) :
    s₀.UnitsKept (s.passOn d abrupt quads cores spare) := by
  unfold State.passOn
  exact hs.foldl _ fun _ _ hu => ((hu.yieldWays ..).updPart _ fun _ => _).tellPart ..

theorem markAwaiting (hs : s₀.UnitsKept s) (d : Nat) : s₀.UnitsKept (s.markAwaiting d) := by
  unfold State.markAwaiting
  exact hs.foldl _ fun _ _ hu => hu.updOp ..

theorem powerOffDie (hs : s₀.UnitsKept s) (d : Nat) : s₀.UnitsKept (s.powerOffDie d) := by
  unfold State.powerOffDie
  extract_lets out off
  have hoff : s₀.UnitsKept off := hs
  exact hoff.updSite _ _ fun _ hx => hx

theorem endRetire (hs : s₀.UnitsKept s) (r : Retire) : s₀.UnitsKept (s.endRetire r) := by
  unfold State.endRetire
  extract_lets u others moved replayed off logged ended cleared
  have hmoved : s₀.UnitsKept moved := hs.foldl _ fun _ _ hu => hu.moveOp ..
  have hreplayed : s₀.UnitsKept replayed := hmoved.foldl _ fun _ _ hu => .updOp (.ite (hu.replay ..) hu) ..
  have hoff : s₀.UnitsKept off := (hreplayed.powerOffDie ..).updSite _ _ fun _ _ => .inr rfl
  have hlogged : s₀.UnitsKept logged := hoff.reportLog ..
  have hended : s₀.UnitsKept ended := hlogged.withRetiringRetirements ..
  have hcleared : s₀.UnitsKept cleared := .ite ((hended.setField ..).setField ..) hended
  exact .ite (hcleared.emit ..) hcleared

/-- A retirement without a spare brings no site into service. -/
theorem placeRetire_none (hs : s₀.UnitsKept s) (r : Retire) : s₀.UnitsKept (s.placeRetire r none) := by
  unfold State.placeRetire
  dsimp only
  split
  · exact ((hs.markAwaiting ..).passOn .. |>.reportAlarm ..).endRetire ..
  · exact ((hs.passOn ..).reportAlarm ..).withRetiring ..

theorem beginRetire (hs : s₀.UnitsKept s) (r : Retire) : s₀.UnitsKept (s.beginRetire r) := by
  unfold State.beginRetire
  extract_lets queued begun
  have hbegun : s₀.UnitsKept begun := updSite (s := queued) hs _ _ fun _ _ => .inl rfl
  split
  · exact hbegun
  · exact hbegun.placeRetire_none ..

theorem serveAbrupt (hs : s₀.UnitsKept s) (n : Nat) : s₀.UnitsKept (State.serveAbrupt n s) := by
  induction n generalizing s with
  | zero => exact hs
  | succ n ih =>
    unfold State.serveAbrupt
    split
    · exact .ite (ih (hs.beginRetire ..)) hs
    · exact hs

theorem abruptRetire (hs : s₀.UnitsKept s) (d : Nat) : s₀.UnitsKept (s.abruptRetire d) := by
  unfold State.abruptRetire
  split
  · exact .ite (.ite (hs.endRetire ..) hs) (.ite hs hs)
  · exact .ite hs hs

/-- A spare that is gone is retired, and stays so. -/
theorem spareGone {d : Nat} (hs : s₀.UnitsKept (s.updSite d (fun x => { x with state := .retired }))) (kind : Nat) : s₀.UnitsKept (s.spareGone d kind) := by
  unfold State.spareGone
  extract_lets logged gone
  have hgone : s₀.UnitsKept gone := (hs.reportLog ..).withRetirements ..
  split
  · refine .ite hgone ?_
    split
    · exact hgone.withRetiring ..
    · exact hgone.placeRetire_none ..
  · exact hgone

/-- What is served after it keeps the units too. -/
theorem served (hs : s₀.UnitsKept s) : s₀.UnitsKept (State.serveAbrupt 18 s).continueM3 := (hs.serveAbrupt 18).continueM3

/-- A lost die is on its way out, and stays so. -/
theorem fenceDie {d : Nat} (hs : s₀.UnitsKept (s.updSite d (fun x => { x with state := .retiring, probe := false, lost := true, cache := [], leaves := [] }))) :
    s₀.UnitsKept (s.fenceDie d) := by
  unfold State.fenceDie
  exact ((hs.withReservations ..).abruptRetire d).served

/-- A site that is put on its way out stays so. -/
theorem outgoing_of_updSite {d : Nat} (w : Tab.wf (fun _ => ({} : Site)) s.sites = true) {f : Site → Site} (hf : ∀ x, (f x).outgoing)
    (ht : (s.updSite d f).UnitsKept t) : (t.site d).outgoing := by
  have wf : Tab.wf (fun _ => ({} : Site)) (s.updSite d f).sites = true := Tab.wf_set w ..
  have hd : ((s.updSite d f).site d).outgoing := by rw [site_updSite_same w]; exact hf _
  exact ht.outgoing wf hd

/-- The loss of a die with its segment keeps the rest of the units. -/
theorem segmentDie (hs : s₀.UnitsKept s) (d : Nat) : s₀.UnitsKept (s.segmentDie d) := by
  unfold State.segmentDie
  exact .ite (.fenceDie (hs.updSite d _ fun _ _ => .inl rfl)) (.ite (.served (.spareGone (hs.updSite d _ fun _ _ => .inr rfl) 1)) hs)

end State.UnitsKept

end Sys2Proof.Machine
end
section
/-! Faults of columns, segments, hank dies and PLLs (R24, R364, R369, R377): what each command does of itself, and what stays of it after its consequences. -/
namespace Sys2Proof.Machine

/-- The die that is lost with its segment is on its way out, or it was out already. -/
theorem segmentDie_outgoing {s : State} (w : Tab.wf (fun _ => ({} : Site)) s.sites = true) (d : Nat) : ((s.segmentDie d).site d).outgoing := by
  have hfenced : ((s.fenceDie d).site d).outgoing := State.UnitsKept.outgoing_of_updSite w (fun _ => .inl rfl) (.fenceDie (.refl _))
  have hgone : ((State.serveAbrupt 18 (s.spareGone d 1)).continueM3.site d).outgoing :=
    State.UnitsKept.outgoing_of_updSite w (fun _ => .inr rfl) (.served (.spareGone (.refl _) 1))
  unfold State.segmentDie
  cases hstate : (s.site d).state
  case active => simpa [hstate] using hfenced
  case retiring => simpa [hstate] using hfenced
  case spare => simpa [hstate] using hgone
  case retired => exact .inr (by simp [hstate])

/-! ### Alarms and lists of units -/

theorem mem_addUnit (l : List Nat) (n : Nat) : n ∈ addUnit l n := by
  unfold addUnit
  split
  next h => exact List.contains_iff_mem.mp h
  · simp

/-- An alarm-class report is sent (R371). -/
theorem alarm_mem_reportAlarm (s : State) (src rep : BitVec 16) (event detail : Nat) :
    Output.alarm src (BitVec.ofNat 8 event) (BitVec.ofNat 32 detail) ∈ (s.reportAlarm src rep event detail).out := by
  unfold State.reportAlarm
  dsimp only
  split <;> simp [State.emit]

theorem reportAlarm_regs (s : State) (src rep : BitVec 16) (event detail : Nat) : (s.reportAlarm src rep event detail).regs = s.regs := by
  unfold State.reportAlarm
  dsimp only
  split <;> rfl

/-- What has been sent stays sent. -/
theorem State.Kept.mem_out {s t : State} (hs : s.Kept t) {o : Output} (ho : o ∈ s.out) : o ∈ t.out := hs.2.2.1.subset ho

/-! ### Columns (R228, R364) -/

theorem column_of_regs {s t : State} (h : t.regs = s.regs) (pa : Nat) : t.column pa = s.column pa := by
  unfold State.column State.granule State.reg
  rw [h]

/-- A fenced column's lines read as uncorrectable. -/
theorem lineBad_fenceColumn (s : State) {c l : Nat} (h : s.column (64 * l) = c) : (s.fenceColumn c).lineBad l = true := by
  have hc : (s.fenceColumn c).column (64 * l) = c := h
  have hmem : c ∈ (s.fenceColumn c).colFenced := mem_addUnit ..
  simp [State.lineBad, State.lineFenced, hc, hmem]

/-! ### A hank die stops (R364, R369) -/

/-- What a stopped hank die loses. -/
def Hank.stopped (k : Hank) : Hank :=
  { k with running := false, windows := [], traceLoss := none, pke := k.pke.stopped, ideLink := none, ideSel := [], spdm := {}, aliasCert := none }

/-- The hank die is stopped, its alarms are handed over, and its ports are down. -/
def State.hankStopped (s : State) (h : Nat) : State :=
  [2 * h, 2 * h + 1].foldl (fun s q => if (s.port q).phase = 0 then s else s.portDown q false)
    (((s.updHank h Hank.stopped).takeOver h).updHank h (fun k => { k with alarms := [] }))

/-- SERVICE is set; what only hank die 0 does is lost; the partitions whose functions it carried are stopped. -/
def State.hankServed (s : State) (h : Nat) : State :=
  let s := { s with service := true }
  let s := if h = 0 then { s with attested := false, storeBusy := none, storeQueue := [] } else s
  (s.parts.map (·.1)).foldl (fun s p => if s.partHeld p ∧ s.vfPort p = h then s.startFrog p true false (s.openJobIds p) else s) s

/-- The fault of a running hank die, step by step. -/
theorem hankFault_eq {s : State} {h : Nat} (hr : (s.hank h).running = true) :
    s.hankFault h = ((s.hankStopped h).reportAlarm (hankUnit h) (hankUnit ((s.hankStopped h).runningFrom (h + 1))) 0x12 0).hankServed h := by
  unfold State.hankFault
  rw [if_neg (by simp [hr])]
  rfl

theorem hankServed_service (s : State) (h : Nat) : (s.hankServed h).service = true := by
  unfold State.hankServed
  extract_lets served lost
  have hserved : served.UnitsKept lost := .ite (.refl served) (.refl served)
  exact (hserved.foldl _ fun _ _ hu => .ite (hu.startFrog ..) hu).service rfl

theorem hankServed_unitsKept (s : State) (h : Nat) : s.UnitsKept (s.hankServed h) := by
  unfold State.hankServed
  extract_lets served lost
  have hserved : s.UnitsKept served := ⟨fun _ => rfl, rfl, rfl, fun w => ⟨w, fun _ => id⟩, fun _ _ => rfl⟩
  have hlost : s.UnitsKept lost := .ite hserved hserved
  exact hlost.foldl _ fun _ _ hu => .ite (hu.startFrog ..) hu

theorem hankServed_kept (s : State) (h : Nat) : s.Kept (s.hankServed h) := by
  unfold State.hankServed
  extract_lets served lost
  have hlost : s.Kept lost := .ite (.withStoreBusyStoreQueueAttested (.withService (.refl s) ..) ..) (.withService (.refl s) ..)
  exact hlost.foldl _ fun _ _ hu => .ite (hu.startFrog ..) hu

/-- A takeover changes only the alarm entries of a hank die. -/
theorem takeOver_running {s : State} (w : Tab.wf (fun _ => ({} : Hank)) s.hanks = true) (h k : Nat) : ((s.takeOver h).hank k).running = (s.hank k).running := by
  unfold State.takeOver
  by_cases hk : k = s.runningFrom h
  · subst hk; rw [hank_updHank_same w]
  · rw [hank_updHank_other _ hk]

/-- The stopped hank die runs no more and holds no alarm. -/
theorem hank_hankStopped {s : State} (w : Tab.wf (fun _ => ({} : Hank)) s.hanks = true) (h : Nat) :
    ((s.hankStopped h).hank h).running = false ∧ ((s.hankStopped h).hank h).alarms = [] := by
  have w1 : Tab.wf (fun _ => ({} : Hank)) (s.updHank h Hank.stopped).hanks = true := Tab.wf_set w h (s.hank h).stopped
  have w2 : Tab.wf (fun _ => ({} : Hank)) ((s.updHank h Hank.stopped).takeOver h).hanks = true := Tab.wf_set w1 ..
  have hstopped : ((s.updHank h Hank.stopped).hank h).running = false := by rw [hank_updHank_same w]; rfl
  unfold State.hankStopped
  generalize hu : ((s.updHank h Hank.stopped).takeOver h).updHank h (fun k => { k with alarms := [] }) = u
  have hk : (u.hank h).running = false ∧ (u.hank h).alarms = [] := by
    rw [← hu, hank_updHank_same w2]
    exact ⟨(takeOver_running w1 h h).trans hstopped, rfl⟩
  have hdown : u.UnitsKept ([2 * h, 2 * h + 1].foldl (fun s q => if (s.port q).phase = 0 then s else s.portDown q false) u) :=
    (State.UnitsKept.refl u).foldl _ fun _ _ hv => .ite hv (hv.portDown ..)
  rw [hdown.hank hk.1]
  exact hk

/-! ### The commands -/

section

variable {s : State} (hp : s.powered = true)
include hp

theorem exec_memoryColumnFault (c : Fin 16) (k : Fin 2) : exec (.memoryColumnFault c k) s = .next (s.columnFault c k) := congrArg _ (if_pos hp)
theorem exec_bridgeSegmentFault (k : Fin 16) (lost : Bool) : exec (.bridgeSegmentFault k lost) s = .next (s.segmentFault k lost) := congrArg _ (if_pos hp)
theorem exec_hankDieFault (h : Fin 4) : exec (.hankDieFault h) s = .next (s.hankFault h) := congrArg _ (if_pos hp)
theorem exec_pllLossOfLock (u : UnitId) : exec (.pllLossOfLock u) s = .next (s.pllLoss (UnitId.bits u)) := congrArg _ (if_pos hp)

end

/-- A column that faults is fenced, and says so (R364). -/
theorem columnFault_spec (s : State) (c k : Nat) :
    (s.columnFault c k).service = true ∧ (s.columnFault c k).mem = s.mem ∧ (∀ l : Nat, s.column (64 * l) = c → (s.columnFault c k).lineBad l = true) ∧
    Output.alarm (columnUnit c) 0x11 (BitVec.ofNat 32 (2 * c + k)) ∈ (s.columnFault c k).out :=
  ⟨rfl, (State.SameCore.reportAlarm s ..).1, fun _ hl => lineBad_fenceColumn _ ((column_of_regs (reportAlarm_regs ..) _).trans hl), alarm_mem_reportAlarm ..⟩

/-! ### Segments (R364) -/

/-- The fault of a segment is reported, and the segment is among the faulty ones. -/
def State.segmentReported (s : State) (k : Nat) (lost : Bool) : State :=
  { s.reportAlarm (segmentUnit k) (s.runtimeOf (segmentUnit k)) 0x10 (if lost then 1 else 0) with segFault := addUnit s.segFault k }

/-- A segment that its bypass covers: nothing but the report, the segment and FABRIC. -/
theorem segmentFault_covered (s : State) (k : Nat) : s.segmentFault k false = { s.segmentReported k false with fabric := true } := rfl

/-- A lost segment fences its column and takes the die that is bonded to it alone. -/
theorem segmentFault_lost (s : State) (k : Nat) :
    (onlyDie k = none ∧ s.segmentFault k true = (s.segmentReported k true).fenceColumn k) ∨
    ∃ d, onlyDie k = some d ∧ s.segmentFault k true = ((s.segmentReported k true).fenceColumn k).segmentDie d := by
  unfold State.segmentFault
  cases onlyDie k with
  | none => exact .inl ⟨rfl, rfl⟩
  | some d => exact .inr ⟨d, rfl, rfl⟩

theorem segmentFault_lost_kept (s : State) (k : Nat) :
    ((s.segmentReported k true).fenceColumn k).UnitsKept (s.segmentFault k true) ∧ ((s.segmentReported k true).fenceColumn k).Kept (s.segmentFault k true) := by
  obtain ⟨-, h⟩ | ⟨d, -, h⟩ := segmentFault_lost s k
  · rw [h]; exact ⟨.refl _, .refl _⟩
  · rw [h]; exact ⟨.segmentDie (.refl _) d, .segmentDie (.refl _) d⟩

theorem segmentFault_covered_spec (s : State) (k : Nat) :
    (s.segmentFault k false).fabric = true ∧ (s.segmentFault k false).mem = s.mem ∧ (s.segmentFault k false).colFenced = s.colFenced ∧
    k ∈ (s.segmentFault k false).segFault ∧ Output.alarm (segmentUnit k) 0x10 0 ∈ (s.segmentFault k false).out := by
  rw [segmentFault_covered]
  exact ⟨rfl, (State.SameCore.reportAlarm s ..).1, (State.UnitsKept.reportAlarm (.refl s) ..).colFenced, mem_addUnit .., alarm_mem_reportAlarm s _ _ 0x10 0⟩

theorem segmentFault_lost_spec (s : State) (k : Nat) :
    (s.segmentFault k true).service = true ∧ k ∈ (s.segmentFault k true).colFenced ∧ k ∈ (s.segmentFault k true).segFault ∧
    Output.alarm (segmentUnit k) 0x10 1 ∈ (s.segmentFault k true).out := by
  obtain ⟨hunits, hkept⟩ := segmentFault_lost_kept s k
  refine ⟨hunits.service rfl, ?_, ?_, hkept.mem_out (alarm_mem_reportAlarm s _ _ 0x10 1)⟩
  · rw [hunits.colFenced]; exact mem_addUnit ..
  · rw [hunits.segFault]; exact mem_addUnit ..

/-- Without a die of its own, a lost segment leaves the memory as it is. -/
theorem segmentFault_lost_mem (s : State) {k : Nat} (h : onlyDie k = none) : (s.segmentFault k true).mem = s.mem := by
  obtain ⟨-, hk⟩ | ⟨d, hd, -⟩ := segmentFault_lost s k
  · rw [hk]; exact (State.SameCore.reportAlarm s ..).1
  · rw [h] at hd; cases hd

/-- The die that is bonded to a lost segment alone is on its way out. -/
theorem segmentFault_lost_outgoing {s : State} (w : Tab.wf (fun _ => ({} : Site)) s.sites = true) {k d : Nat} (h : onlyDie k = some d) :
    ((s.segmentFault k true).site d).outgoing := by
  have w' : Tab.wf (fun _ => ({} : Site)) ((s.segmentReported k true).fenceColumn k).sites = true := ((State.UnitsKept.reportAlarm (.refl s) ..).2.2.2.1 w).1
  obtain ⟨hn, -⟩ | ⟨e, he, hk⟩ := segmentFault_lost s k
  · rw [h] at hn; cases hn
  · obtain rfl : d = e := Option.some.inj (h.symm.trans he)
    rw [hk]; exact segmentDie_outgoing w' d

/-! ### Hank dies and PLLs (R364, R369, R377) -/

theorem hankFault_spec {s : State} (w : Tab.wf (fun _ => ({} : Hank)) s.hanks = true) {h : Nat} (hr : (s.hank h).running = true) :
    ((s.hankFault h).hank h).running = false ∧ ((s.hankFault h).hank h).alarms = [] ∧ (s.hankFault h).service = true ∧
    Output.alarm (hankUnit h) 0x12 0 ∈ (s.hankFault h).out := by
  obtain ⟨hstop, halarms⟩ := hank_hankStopped w h
  rw [hankFault_eq hr]
  generalize hu : (s.hankStopped h).reportAlarm (hankUnit h) (hankUnit ((s.hankStopped h).runningFrom (h + 1))) 0x12 0 = u
  have hreported : u.hank h = (s.hankStopped h).hank h := by rw [← hu]; exact (State.UnitsKept.reportAlarm (.refl _) ..).hank hstop
  have hserved : (u.hankServed h).hank h = u.hank h := (hankServed_unitsKept u h).hank (by rw [hreported]; exact hstop)
  have hsent : Output.alarm (hankUnit h) 0x12 0 ∈ u.out := by rw [← hu]; exact alarm_mem_reportAlarm _ _ _ 0x12 0
  rw [hserved, hreported]
  exact ⟨hstop, halarms, hankServed_service u h, (hankServed_kept u h).mem_out hsent⟩

/-- A die whose PLL loses its lock is reported before it is lost. -/
theorem pllLoss_die_alarm (s : State) {u : BitVec 16} (hk : unitKind u = 2) (hi : unitIndex u < 18) :
    Output.alarm (monitorUnit 7) 0x28 (u.zeroExtend 32) ∈ (s.pllLoss u).out := by
  have hraised : Output.alarm (monitorUnit 7) 0x28 (u.zeroExtend 32) ∈ (s.monitorAlarm 7 0x28 u.toNat).out := by
    have h := alarm_mem_reportAlarm s (monitorUnit 7) (monitorUnit 7) 0x28 u.toNat
    rwa [BitVec.ofNat_toNat] at h
  unfold State.pllLoss
  dsimp only
  rw [if_pos ⟨hk, hi⟩]
  exact (State.Kept.dieLost (.refl _) _).mem_out hraised

/-- Settles O45: each command is its fault's operation on a powered module; the report is the first thing that each does, and what follows it keeps the units. -/
theorem unitFaultsFence : Obligations.UnitFaultsFence := by
  intro s hp
  refine ⟨fun c k => ⟨_, exec_memoryColumnFault hp c k, columnFault_spec s c k⟩,
    fun k => ⟨_, exec_bridgeSegmentFault hp k false, segmentFault_covered_spec s k⟩,
    fun k => ?_, fun h hinv hr => ?_, fun u hk hi => ⟨_, exec_pllLossOfLock hp u, pllLoss_die_alarm s hk hi⟩⟩
  · obtain ⟨hservice, hcol, hseg, hsent⟩ := segmentFault_lost_spec s k
    refine ⟨_, exec_bridgeSegmentFault hp k true, hservice, hcol, hseg, hsent, segmentFault_lost_mem s, fun hinv d hd => ?_⟩
    obtain ⟨-, -, -, -, -, -, wsites, -⟩ := hinv
    exact segmentFault_lost_outgoing wsites hd
  · obtain ⟨-, -, -, -, -, -, -, whanks, -⟩ := hinv
    exact ⟨_, exec_hankDieFault hp h, hankFault_spec whanks hr⟩

end Sys2Proof.Machine
end
section
/-! The end of an op that has not started (R207, R271, R273): what settles its job leaves memory, host memory and the record of its end as they are. -/
namespace Sys2Proof.Machine

/-! ### An op after a change of the jobs -/

theorem State.op?_eq_some {s : State} {o : OpRef} {k : Job} {q : OpRec} : s.op? o = some (k, q) ↔ s.job? o.job = some k ∧ k.op? o.op = some q := by
  constructor
  · intro h
    unfold State.op? at h
    split at h
    · cases h
    next j hj =>
      split at h
      · cases h
      next r hr =>
        cases h
        exact ⟨hj, hr⟩
  · rintro ⟨hj, hq⟩
    simp [State.op?, hj, hq]

theorem State.job?_id {s : State} {i : Nat} {k : Job} (h : s.job? i = some k) : k.id = i := by simpa using List.find?_some h

theorem Job.op?_idx {k : Job} {i : Nat} {q : OpRec} (h : k.op? i = some q) : q.idx = i := by simpa using List.find?_some h

theorem State.job?_updJob {f : Job → Job} (hf : ∀ k, (f k).id = k.id) (s : State) (i n : Nat) :
    (s.updJob i f).job? n = (s.job? n).map (fun k => if k.id = i then f k else k) := by
  have hid (k : Job) : (if k.id = i then f k else k).id = k.id := by split <;> simp [hf]
  simp only [State.job?, State.updJob, List.find?_map, Function.comp_def, hid]

theorem Job.op?_updOp {f : OpRec → OpRec} (hf : ∀ q, (f q).idx = q.idx) (k : Job) (i n : Nat) :
    (k.updOp i f).op? n = (k.op? n).map (fun q => if q.idx = i then f q else q) := by
  have hidx (q : OpRec) : (if q.idx = i then f q else q).idx = q.idx := by split <;> simp [hf]
  simp only [Job.op?, Job.updOp, List.find?_map, Function.comp_def, hidx]

theorem Job.updOp_idxs {f : OpRec → OpRec} (hf : ∀ q, (f q).idx = q.idx) (k : Job) (i : Nat) : (k.updOp i f).ops.map (·.idx) = k.ops.map (·.idx) := by
  have hidx (q : OpRec) : (if q.idx = i then f q else q).idx = q.idx := by split <;> simp [hf]
  simp only [Job.updOp, List.map_map, Function.comp_def, hidx]

/-- What a change of one op of a job leaves of an op: the op that it names is changed, another stays. -/
theorem State.op?_updOp {s : State} {o : OpRef} {k : Job} {q : OpRec} (h : s.op? o = some (k, q)) (p : OpRef) {f : OpRec → OpRec} (hf : ∀ q, (f q).idx = q.idx) :
    (s.updOp p f).op? o = some (if o.job = p.job then k.updOp p.op f else k, if o = p then f q else q) := by
  obtain ⟨hk, hq⟩ := State.op?_eq_some.mp h
  refine State.op?_eq_some.mpr ⟨?_, ?_⟩
  · rw [State.updOp, State.job?_updJob (fun _ => by rfl), hk, Option.map_some, State.job?_id hk]
  · obtain ⟨a, b⟩ := o
    obtain ⟨a', b'⟩ := p
    by_cases hj : a = a'
    · simp [hj, Job.op?_updOp hf, hq, Job.op?_idx hq]
    · simp [hj, hq]

/-! ### Operations that leave memory and the jobs alone -/

/-- Memory, host memory and the jobs stand as they did. -/
def State.JobsKept (s t : State) : Prop := t.mem = s.mem ∧ t.host = s.host ∧ t.jobs = s.jobs

namespace State.JobsKept

variable {s₀ s : State}

theorem refl (s : State) : s.JobsKept s := ⟨rfl, rfl, rfl⟩

theorem ite {c : Prop} [Decidable c] {t : State} (hs : s₀.JobsKept s) (ht : s₀.JobsKept t) : s₀.JobsKept (if c then s else t) := by
  split
  · exact hs
  · exact ht

theorem foldl {α : Type} {f : State → α → State} (hs : s₀.JobsKept s) (l : List α) (hf : ∀ u x, s₀.JobsKept u → s₀.JobsKept (f u x)) :
    s₀.JobsKept (l.foldl f s) := by
  induction l generalizing s with
  | nil => exact hs
  | cons x rest ih => exact ih (hf s x hs)

theorem op? (hs : s₀.JobsKept s) (o : OpRef) : s.op? o = s₀.op? o := by
  obtain ⟨-, -, hjobs⟩ := hs
  unfold State.op? State.job?
  rw [hjobs]

theorem updTile (hs : s₀.JobsKept s) (t : Nat) (f : Tile → Tile) : s₀.JobsKept (s.updTile t f) := hs
theorem countBy (hs : s₀.JobsKept s) (p n k : Nat) : s₀.JobsKept (s.countBy p n k) := hs
theorem setReg (hs : s₀.JobsKept s) (r : Reg) (v : Word32) : s₀.JobsKept (s.setReg r v) := hs
theorem setField (hs : s₀.JobsKept s) (r : Reg) (hi lo v : Nat) : s₀.JobsKept (s.setField r hi lo v) := hs
theorem bump (hs : s₀.JobsKept s) (r : Reg) (hi lo : Nat) : s₀.JobsKept (s.bump r hi lo) := .ite hs hs
theorem draw (hs : s₀.JobsKept s) : s₀.JobsKept s.draw.2 := hs
theorem produce (hs : s₀.JobsKept s) (p n : Nat) (e : HeldEntry) : s₀.JobsKept (s.produce p n e) := hs
theorem freeTiles (hs : s₀.JobsKept s) (ts : List Nat) : s₀.JobsKept (s.freeTiles ts) := hs.foldl _ fun _ _ hu => hu.updTile ..
theorem addUnseen (hs : s₀.JobsKept s) (p : Nat) (ns : List Nat) : s₀.JobsKept (s.addUnseen p ns) := hs.foldl _ fun _ _ hu => hu.draw.countBy ..
theorem countRun (hs : s₀.JobsKept s) (p : Nat) (r : OpRec) : s₀.JobsKept (s.countRun p r) := .ite (hs.addUnseen ..) hs

theorem stick (hs : s₀.JobsKept s) (p : Nat) (st : Status) : s₀.JobsKept (s.stick p st) := by
  unfold State.stick
  split
  · exact hs
  · exact hs.setField ..

theorem statusEffects (hs : s₀.JobsKept s) (p : Nat) (st : Status) : s₀.JobsKept (s.statusEffects p st) := .ite ((hs.stick ..).bump ..) (hs.stick ..)

theorem counter (hs : s₀.JobsKept s) (p n : Nat) : s₀.JobsKept (s.counter p n).2 := by
  unfold State.counter
  split
  · exact hs
  · exact .ite (hs.addUnseen ..) hs

theorem latch (hs : s₀.JobsKept s) (j : Job) : s₀.JobsKept (s.latch j).2 := by
  unfold State.latch
  split
  · exact (hs.counter ..).counter ..
  · exact hs

theorem keyFault (hs : s₀.JobsKept s) (o : OpRef) (cause dir : Nat) : s₀.JobsKept (s.keyFault o cause dir) := by
  unfold State.keyFault
  split
  · exact hs
  · exact .ite (hs.bump ..) ((hs.bump ..).setReg ..)

end State.JobsKept

/-! ### An op that has ended stays as it ended -/

/-- The op `o` of the graph has ended with `st` and its own index as ORIGIN, in a job whose ops have indices of their own; memory and host memory are those of `s₀`. -/
def State.EndedFrom (s₀ : State) (o : OpRef) (st : Status) (s : State) : Prop :=
  s.mem = s₀.mem ∧ s.host = s₀.host ∧ ∃ k q, s.op? o = some (k, q) ∧ (k.ops.map (·.idx)).Nodup ∧
    q.phase = .ended ∧ q.status = st ∧ q.origin = o.op ∧ q.inserted = none

namespace State.EndedFrom

variable {s₀ s t : State} {o : OpRef} {st : Status}

theorem ite {c : Prop} [Decidable c] (hs : s₀.EndedFrom o st s) (ht : s₀.EndedFrom o st t) : s₀.EndedFrom o st (if c then s else t) := by
  split
  · exact hs
  · exact ht

theorem foldl {α : Type} {f : State → α → State} (hs : s₀.EndedFrom o st s) (l : List α)
    (hf : ∀ u, ∀ x ∈ l, s₀.EndedFrom o st u → s₀.EndedFrom o st (f u x)) : s₀.EndedFrom o st (l.foldl f s) := by
  induction l generalizing s with
  | nil => exact hs
  | cons x rest ih => exact ih (hf s x (by simp) hs) fun u y hy => hf u y (by simp [hy])

theorem jobsKept (hs : s₀.EndedFrom o st s) (ht : s.JobsKept t) : s₀.EndedFrom o st t := by
  obtain ⟨hmem, hhost, hop⟩ := hs
  rw [← ht.op?] at hop
  obtain ⟨hmem', hhost', -⟩ := ht
  exact ⟨hmem'.trans hmem, hhost'.trans hhost, hop⟩

/-- A change of a job that leaves its number and its ops. -/
theorem updJob (hs : s₀.EndedFrom o st s) (i : Nat) {f : Job → Job} (hid : ∀ k, (f k).id = k.id) (hops : ∀ k, (f k).ops = k.ops) :
    s₀.EndedFrom o st (s.updJob i f) := by
  obtain ⟨hmem, hhost, k, q, hop, hnodup, hq⟩ := hs
  obtain ⟨hk, hkq⟩ := State.op?_eq_some.mp hop
  have hsame : (if k.id = i then f k else k).ops = k.ops := by split <;> simp [hops]
  refine ⟨hmem, hhost, if k.id = i then f k else k, q, State.op?_eq_some.mpr ⟨?_, ?_⟩, by rwa [hsame], hq⟩
  · rw [State.job?_updJob hid, hk, Option.map_some]
  · rwa [Job.op?, hsame]

/-- A change of an op that leaves the record of an end, or of another op. -/
theorem updOp (hs : s₀.EndedFrom o st s) (p : OpRef) {f : OpRec → OpRec} (hidx : ∀ q, (f q).idx = q.idx)
    (hf : o = p → ∀ q, (f q).phase = q.phase ∧ (f q).status = q.status ∧ (f q).origin = q.origin ∧ (f q).inserted = q.inserted) :
    s₀.EndedFrom o st (s.updOp p f) := by
  obtain ⟨hmem, hhost, k, q, hop, hnodup, hphase, hstatus, horigin, hins⟩ := hs
  refine ⟨hmem, hhost, _, _, State.op?_updOp hop p hidx, ?_, ?_⟩
  · split
    · rwa [Job.updOp_idxs hidx]
    · exact hnodup
  · split
    next h =>
      obtain ⟨e1, e2, e3, e4⟩ := hf h q
      exact ⟨e1.trans hphase, e2.trans hstatus, e3.trans horigin, e4.trans hins⟩
    · exact ⟨hphase, hstatus, horigin, hins⟩

theorem produceOp (hs : s₀.EndedFrom o st s) (p : OpRef) : s₀.EndedFrom o st (s.produceOp p) := by
  unfold State.produceOp
  split
  next j r _ =>
    have hreported := hs.updOp p (f := fun r => { r with reported := true }) (fun _ => rfl) fun _ _ => ⟨rfl, rfl, rfl, rfl⟩
    exact .ite (hreported.jobsKept (.produce (.refl _) ..)) hreported
  · exact hs

theorem reportOp (hs : s₀.EndedFrom o st s) (p : OpRef) : s₀.EndedFrom o st (s.reportOp p) := by
  unfold State.reportOp
  split
  · exact .ite (.ite (hs.updJob _ (fun _ => rfl) fun _ => rfl) (hs.produceOp p)) hs
  · exact hs

theorem completeOne (hs : s₀.EndedFrom o st s) (jid : Nat) : s₀.EndedFrom o st (s.completeOne jid) := by
  unfold State.completeOne
  split
  next j _ =>
    have hproduced := (hs.jobsKept (.latch (.refl _) j)).updJob jid (f := fun j => { j with produced := true }) (fun _ => rfl) fun _ => rfl
    exact .ite (hproduced.jobsKept (.produce (.refl _) ..)) hs
  · exact hs

theorem completeJob (hs : s₀.EndedFrom o st s) (jid : Nat) : s₀.EndedFrom o st (s.completeJob jid) :=
  hs.foldl _ fun _ _ _ hu => .ite (hu.completeOne _) hu

/-- No inserted REFRESH has ended: there is nothing to pass on. -/
theorem refreshEnds (hs : s₀.EndedFrom o st s) : s₀.EndedFrom o st (s.refreshEnds o) := by
  have ⟨_, _, k, q, hop, _, _, _, _, hins⟩ := hs
  unfold State.refreshEnds
  simpa [hop, hins] using hs

/-- An op of the job that still waits is another op than the one that has ended. -/
theorem ne_of_waiting (hs : s₀.EndedFrom o st s) {j : Job} (hj : s.job? o.job = some j) {x : OpRec} (hx : x ∈ j.ops) (hw : x.phase = .waiting) :
    o ≠ ⟨o.job, x.idx⟩ := by
  obtain ⟨-, -, k, q, hop, hnodup, hphase, -⟩ := hs
  obtain ⟨hk, hq⟩ := State.op?_eq_some.mp hop
  obtain rfl : k = j := Option.some.inj (hk.symm.trans hj)
  intro he
  have hidx : x.idx = q.idx := (congrArg OpRef.op he).symm.trans (Job.op?_idx hq).symm
  obtain rfl : x = q := List.inj_on_of_nodup_map hnodup hx (List.mem_of_find?_eq_some hq) hidx
  rw [hphase] at hw
  cases hw

/-- Dependents are resolved, and the op itself is none of them. -/
theorem resolvePass (hs : s₀.EndedFrom o st s) : s₀.EndedFrom o st (s.resolvePass o.job) := by
  unfold State.resolvePass
  split
  next j hj =>
    refine hs.foldl _ fun u x hx hu => ?_
    dsimp only
    split
    next k _ =>
      split
      next hfound =>
        have hw : x.phase = .waiting := by
          split at hfound
          next h => simp only [Bool.and_eq_true, decide_eq_true_eq] at h; exact h.1.2
          · cases hfound
        refine State.EndedFrom.reportOp (.updOp (hu.jobsKept (.latch (.refl _) k)) _ ?_ fun he => absurd he (hs.ne_of_waiting hj hx hw)) _
        exact fun _ => rfl
      · exact hu
    · exact hu
  · exact hs

theorem settleJob (hs : s₀.EndedFrom o st s) : s₀.EndedFrom o st (s.settleJob o) := ((hs.refreshEnds.reportOp o).resolvePass).completeJob o.job

end State.EndedFrom

/-- The end of an op of the graph: its record, and that memory and host memory stay. -/
theorem endOp_endedFrom {s : State} {o : OpRef} {j : Job} {r : OpRec} (hop : s.op? o = some (j, r)) (hnodup : (j.ops.map (·.idx)).Nodup)
    (hins : r.inserted = none) (st : Status) : s.EndedFrom o st (s.endOp o st) := by
  have hidx : r.idx = o.op := Job.op?_idx (State.op?_eq_some.mp hop).2
  unfold State.endOp
  simp only [hop, hins, Option.isNone_none, if_true]
  refine State.EndedFrom.settleJob ?_
  have hkept : s.JobsKept ((((((s.statusEffects j.part st).countRun j.part r).bump (pr j.part .partEventCount) 15 0).latch j).2).freeTiles r.tiles) :=
    .freeTiles (.latch (.bump (.countRun (.statusEffects (.refl s) ..) ..) ..) _) _
  generalize (((((s.statusEffects j.part st).countRun j.part r).bump (pr j.part .partEventCount) 15 0).latch j).2).freeTiles r.tiles = u at hkept
  have ⟨hmem, hhost, _⟩ := hkept
  refine ⟨hmem, hhost, _, _, State.op?_updOp ((hkept.op? o).trans hop) o fun _ => rfl, ?_, ?_⟩
  · rw [if_pos rfl, Job.updOp_idxs]
    · exact hnodup
    · exact fun _ => rfl
  · rw [if_pos rfl]
    exact ⟨rfl, rfl, hidx, hins⟩

end Sys2Proof.Machine
end
section
/-! A failed readiness check of an op (R61, R207): the halt that it raises ends the op with the check's status. -/
namespace Sys2Proof.Machine

/-- How a readiness check that asks for `st` halts: a key check that fails is also counted (R159). -/
def checkHalt : Status → Halt
  | .keyMismatch => .key 0x9 0
  | st => .fault st

/-- The note in an op's record of what its failure leaves (R207). -/
def OpRec.noteLeaving (l : Leaving) (q : OpRec) : OpRec := { q with leaving := l }

theorem op?_noteLeaving {s : State} {o : OpRef} {j : Job} {r : OpRec} (hop : s.op? o = some (j, r)) (l : Leaving) :
    (s.updOp o (OpRec.noteLeaving l)).op? o = some (j.updOp o.op (OpRec.noteLeaving l), r.noteLeaving l) := by
  rw [State.op?_updOp hop o (f := OpRec.noteLeaving l) fun _ => rfl, if_pos rfl, if_pos rfl]

/-- What an op is before it has started: of the graph, waiting, and not at its end; HOIST_ROTATE, whose outputs a failure can mark (R145), is left out. -/
structure OpRec.Unstarted (r : OpRec) : Prop where
  phase : r.phase = .waiting
  started : r.started = false
  inserted : r.inserted = none
  plan : r.plan = none
  ending : r.ending = none
  code : oeOpcode r.entry ≠ 0x21

/-- Such an op ends at once, and leaves nothing behind. -/
theorem endSoon_of_unstarted {s : State} {o : OpRef} {j : Job} {r : OpRec} (hop : s.op? o = some (j, r)) (hr : r.Unstarted) (st : Status) :
    s.endSoon o st none = s.endOp o st := by
  have hleave : s.leave o st = s := by simp [State.leave, hop, hr.started]
  simp [State.endSoon, State.endNow, hop, hr.phase, hleave]

/-- It has written nothing that a failure leaves unspecified. -/
theorem unspecified_of_unstarted {r : OpRec} (hr : r.Unstarted) (h : Halt) : r.unspecified h = [] := by
  unfold OpRec.unspecified
  split
  · rfl
  · simp [hr.started]

theorem invalidInputs_of_unstarted {s : State} {o : OpRef} {j : Job} {r : OpRec} (hop : s.op? o = some (j, r)) (hr : r.Unstarted) : s.invalidInputs o = [] := by
  simp [State.invalidInputs, hop, hr.plan]

/-- At OPERAND_POISONED without a damaged handle no header is marked. -/
theorem poisonOp_of_unstarted {s : State} {o : OpRef} {j : Job} {r : OpRec} (hop : s.op? o = some (j, r)) (hr : r.Unstarted) :
    s.poisonOp o [] = s.endOp o .operandPoisoned := by
  have hunmarked : s.poisonOp o [] = s.endSoon o .operandPoisoned none := by simp [State.poisonOp, hop, hr.code, hr.inserted]
  rw [hunmarked, endSoon_of_unstarted hop hr]

/-- A failed check notes what the failure leaves, and goes on by its halt. -/
theorem opFailed_of_unstarted {s : State} {o : OpRef} {j : Job} {r : OpRec} (hop : s.op? o = some (j, r)) (hr : r.Unstarted) (rep : BitVec 16) (st : Status) :
    s.opFailed o rep (checkHalt st) =
      let u := s.updOp o (OpRec.noteLeaving (checkHalt st).leaving)
      match st with
      | .operandPoisoned => u.poisonOp o []
      | .keyMismatch => (u.keyFault o 0x9 0).endSoon o .keyMismatch none
      | st => u.endSoon o st none := by
  have hrun : (s.op? o).any (fun x => x.2.ending.isSome) = false := by simp [hop, hr.ending]
  unfold State.opFailed
  rw [hrun, if_neg Bool.false_ne_true, invalidInputs_of_unstarted hop hr]
  simp only [hop, unspecified_of_unstarted hr]
  cases st <;> rfl

/-- The failed check comes to the end of the op, in a state with the same memory and the same jobs but for that note. -/
theorem opFailed_checkHalt {s : State} {o : OpRef} {j : Job} {r : OpRec} (hop : s.op? o = some (j, r)) (hr : r.Unstarted) (rep : BitVec 16) (st : Status) :
    ∃ u, (s.updOp o (OpRec.noteLeaving (checkHalt st).leaving)).JobsKept u ∧ s.opFailed o rep (checkHalt st) = u.endOp o st := by
  rw [opFailed_of_unstarted hop hr]
  have hru : OpRec.Unstarted (r.noteLeaving (checkHalt st).leaving) := ⟨hr.phase, hr.started, hr.inserted, hr.plan, hr.ending, hr.code⟩
  have hopu := op?_noteLeaving hop (checkHalt st).leaving
  generalize s.updOp o (OpRec.noteLeaving (checkHalt st).leaving) = u at hopu
  dsimp only
  split
  · exact ⟨u, .refl u, poisonOp_of_unstarted hopu hru⟩
  · have hkept : u.JobsKept (u.keyFault o 0x9 0) := .keyFault (.refl u) ..
    exact ⟨_, hkept, endSoon_of_unstarted ((hkept.op? o).trans hopu) hru _⟩
  · exact ⟨u, .refl u, endSoon_of_unstarted hopu hru _⟩

/-- A failed check ends the op with the check's status, and memory and host memory stay. -/
theorem opFailed_endedFrom {s : State} {o : OpRef} {j : Job} {r : OpRec} (hop : s.op? o = some (j, r)) (hr : r.Unstarted) (hnodup : (j.ops.map (·.idx)).Nodup)
    (rep : BitVec 16) (st : Status) : s.EndedFrom o st (s.opFailed o rep (checkHalt st)) := by
  obtain ⟨u, hu, he⟩ := opFailed_checkHalt hop hr rep st
  have hopu := (hu.op? o).trans (op?_noteLeaving hop _)
  have hended : u.EndedFrom o st (u.endOp o st) := by
    refine endOp_endedFrom hopu ?_ hr.inserted st
    rw [Job.updOp_idxs]
    · exact hnodup
    · exact fun _ => rfl
  obtain ⟨hmem, hhost, hrecord⟩ := hended
  obtain ⟨hmem', hhost', -⟩ := hu
  rw [he]
  exact ⟨hmem.trans hmem', hhost.trans hhost', hrecord⟩

end Sys2Proof.Machine
end
section
/-! The readiness of the ops of one step as a list of checks in their order (R61): the work of `readyStep` halts at the first that fails. -/
namespace Sys2Proof.Machine

/-! ### Checks in their order -/

variable {α β : Type} {s : State}

/-- Checks in their order: the first that fails halts the work in the state as it is; where all pass, the outcome is `res`. -/
def checked (s : State) (res : EStateM.Result Halt State α) : List (Bool × Status) → EStateM.Result Halt State α
  | [] => res
  | c :: rest => if c.1 then checked s res rest else .error (checkHalt c.2) s

theorem checked_append (res : EStateM.Result Halt State α) (cs ds : List (Bool × Status)) : checked s res (cs ++ ds) = checked s (checked s res ds) cs := by
  induction cs with
  | nil => rfl
  | cons c rest ih => simp only [List.cons_append, checked, ih]

/-- Two checks with one status, one after the other. -/
theorem checked_and (res : EStateM.Result Halt State α) (b c : Bool) (st : Status) (cs : List (Bool × Status)) :
    checked s res ((b && c, st) :: cs) = checked s res ((b, st) :: (c, st) :: cs) := by
  cases b <;> rfl

/-- The first failing check gives the halt. -/
theorem checked_of_first {res : EStateM.Result Halt State α} {cs : List (Bool × Status)} {k : Nat} {st : Status} (hk : cs[k]? = some (false, st))
    (hbefore : ∀ i < k, ∀ c, cs[i]? = some c → c.1 = true) : checked s res cs = .error (checkHalt st) s := by
  induction cs generalizing k with
  | nil => simp at hk
  | cons c rest ih =>
    cases k with
    | zero =>
      obtain rfl : c = (false, st) := by simpa using hk
      rfl
    | succ k =>
      have hc : c.1 = true := hbefore 0 (by omega) c rfl
      rw [checked, if_pos hc]
      exact ih hk fun i hi => hbefore (i + 1) (by omega)

/-! ### Engine work behind checks -/

theorem bind_of_ok {m : Eng α} {f : α → Eng β} {a : α} {t : State} (h : m s = .ok a t) : (m >>= f) s = f a t := by
  show EStateM.bind m f s = _
  rw [EStateM.bind, h]

theorem bind_of_error {m : Eng α} {f : α → Eng β} {h : Halt} {t : State} (hm : m s = .error h t) : (m >>= f) s = .error h t := by
  show EStateM.bind m f s = _
  rw [EStateM.bind, hm]

/-- Two ways to one value, and then the same work. -/
theorem ite_bind_of_ok {c : Prop} [Decidable c] {m n : Eng α} {f : α → Eng β} {a : α} (hm : c → m s = .ok a s) (hn : ¬ c → n s = .ok a s) :
    (if c then m >>= f else n >>= f) s = f a s := by
  split
  next h => exact bind_of_ok (hm h)
  next h => exact bind_of_ok (hn h)

theorem bind_of_checked {m : Eng α} {f : α → Eng β} {a : α} {res : EStateM.Result Halt State β} {cs ds : List (Bool × Status)}
    (hm : m s = checked s (.ok a s) cs) (hf : f a s = checked s res ds) : (m >>= f) s = checked s res (cs ++ ds) := by
  rw [checked_append, ← hf]
  show EStateM.bind m f s = _
  rw [EStateM.bind, hm]
  clear hm
  induction cs with
  | nil => rfl
  | cons c rest ih =>
    rw [checked, checked]
    cases c.1
    · rfl
    · exact ih

theorem engAssert_eq_checked {b c : Bool} {st : Status} (hb : b = c) (hst : checkHalt st = .fault st) : engAssert b st s = checked s (.ok () s) [(c, st)] := by
  subst hb
  simp only [checked, hst]
  cases b <;> rfl

theorem engAssert_bind {b c : Bool} {st : Status} {f : Unit → Eng β} {res : EStateM.Result Halt State β} {cs : List (Bool × Status)}
    (hb : b = c) (hst : checkHalt st = .fault st) (hf : f () s = checked s res cs) : (engAssert b st >>= f) s = checked s res ((c, st) :: cs) :=
  bind_of_checked (engAssert_eq_checked hb hst) hf

theorem liftChk_bind {b : Bool} {st : Status} {f : Unit → Eng β} {res : EStateM.Result Halt State β} {cs : List (Bool × Status)}
    (hf : f () s = checked s res cs) : (liftChk (chk b (checkHalt st)) >>= f) s = checked s res ((b, st) :: cs) := by
  rw [checked, ← hf]
  cases b <;> rfl

/-- Steps 5 to 7 of R61. -/
theorem agree_bind (st : CtStep) (c : Ctx) (x : Content) (y : Option Content) {f : Unit → Eng β} {res : EStateM.Result Halt State β}
    {cs : List (Bool × Status)} (hf : f () s = checked s res cs) :
    (liftChk (st.agree c x y) >>= f) s = checked s res ((st.fits c x y, .paramMismatch) :: (keysAgree x y, .keyMismatch) ::
      (st.scalesAgree c x y && decide (0 ≤ st.scale c x y) && decide (st.scale c x y < 2 ^ 32), .scaleMismatch) :: cs) := by
  simp only [checked, ← hf, CtStep.agree]
  cases st.fits c x y
  · rfl
  cases keysAgree x y
  · rfl
  cases st.scalesAgree c x y && decide (0 ≤ st.scale c x y) && decide (st.scale c x y < 2 ^ 32) <;> rfl

/-- Step 3 of R61. -/
theorem placeCheck_bind {ps qs : List Place} {f : Unit → Eng β} {res : EStateM.Result Halt State β} {cs : List (Bool × Status)} (hps : ps = qs)
    (hf : f () s = checked s res cs) :
    (placeCheck ps >>= f) s = checked s res ((qs.all Place.aligned, .align) :: (qs.all (fun v => v.apart && qs.all v.clear), .overlap) :: cs) := by
  subst hps
  exact bind_of_checked (cs := [_, _]) (engAssert_bind rfl rfl (engAssert_eq_checked rfl rfl)) hf

/-! ### Ops of one step without a plaintext and without a key -/

/-- The ops of one step that read ciphertexts alone: ADD, SUB, NEG, MUL, RESCALE, NTT_FWD and NTT_INV (R280). -/
def plainOps : List Nat := [0x10, 0x11, 0x12, 0x16, 0x18, 0x28, 0x29]

theorem plainOps_uses {op : Nat} (h : op ∈ plainOps) : (usesOf op false).a = true ∧ (usesOf op false).d = true ∧ keyedOps.contains op = false := by
  revert op; decide

theorem plainOps_ne {op : Nat} (h : op ∈ plainOps) : op ≠ 0x01 ∧ op ≠ 0x19 ∧ op ≠ 0x21 ∧ ¬ (op = 0x13 ∨ op = 0x14) := by
  revert op; decide

/-- MUL is the op of the step `mul`. -/
theorem stepOf_eq_mul_iff (e : Entry) : stepOf e = .mul ↔ oeOpcode e = 0x16 := by
  unfold stepOf
  split <;> simp_all

/-- The handles that such an op names. -/
def plainHandles (e : Entry) : List Nat := [oeA e] ++ (if (usesOf (oeOpcode e) false).b then [oeB e] else []) ++ [oeD e]

/-- The headers of such an op, each read from the handle table, its line not damaged; where the op has no second operand, its header counts as zero. -/
structure HeadersRead (s : State) (p : Nat) (e : Entry) (a b d : Header) : Prop where
  first : readHeader p (oeA e) s = .ok a s
  second : (usesOf (oeOpcode e) false).b = true → readHeader p (oeB e) s = .ok b s
  unused : ¬ (usesOf (oeOpcode e) false).b = true → b = 0
  dest : readHeader p (oeD e) s = .ok d s

/-- A header is read once: a handle that is named again has the header that was read for it. -/
theorem readHeader_again {p h h' : Nat} {x y : Header} (hx : readHeader p h s = .ok x s) (hy : readHeader p h' s = .ok y s) (he : h' = h) :
    (pure x : Eng Header) s = .ok y s := by
  subst he
  exact hx.symm.trans hy

/-- A handle beyond COUNT ends the front checks. -/
theorem ctFront_of_beyond {e : Entry} (j : Job) (unit : Option Nat) (hop : oeOpcode e ∈ plainOps) (h : ∃ h ∈ plainHandles e, s.handleCount j.part ≤ h) :
    ctFront j unit e s = .error (.fault .bounds) s := by
  obtain ⟨ha, hd, hkey⟩ := plainOps_uses hop
  have hbounds : (plainHandles e).all (fun h => decide (h < s.handleCount j.part)) = false := by
    obtain ⟨h, hm, hc⟩ := h
    simp only [List.all_eq_false, decide_eq_true_eq]
    exact ⟨h, hm, by omega⟩
  unfold plainHandles at hbounds
  unfold ctFront
  simp only [ha, hd, hkey, if_true]
  refine (bind_of_ok (m := engGet) rfl).trans (bind_of_error ?_)
  rw [hbounds]
  rfl

/-- Steps 1 to 4 of R61 on such an op. -/
theorem ctFront_eq_checked {e : Entry} {a b d : Header} (j : Job) (unit : Option Nat) (hop : oeOpcode e ∈ plainOps) (hr : HeadersRead s j.part e a b d) :
    ctFront j unit e s = checked s (.ok { a := a, b := b, d := d } s)
      (((plainHandles e).all (fun h => decide (h < s.handleCount j.part)), .bounds) :: (readinessChecks s j.part e a b d).take 4) := by
  obtain ⟨hua, hud, hkey⟩ := plainOps_uses hop
  obtain ⟨hload, -⟩ := plainOps_ne hop
  obtain ⟨hra, hrb, hb, hrd⟩ := hr
  have hsecond : (if (usesOf (oeOpcode e) false).b = true then b else 0) = b := by
    split
    · rfl
    next h => exact (hb h).symm
  unfold ctFront
  simp only [hua, hud, hkey, hload, if_true, if_false, Bool.false_eq_true, true_and]
  -- step 1: the handles, and their headers
  refine (bind_of_ok (m := engGet) rfl).trans (engAssert_bind (by simp [plainHandles]) rfl ?_)
  refine (bind_of_ok (m := pure none) rfl).trans ((bind_of_ok hra).trans ?_)
  refine (ite_bind_of_ok (a := b) (fun hu => ?_) (fun hu => by rw [hb hu]; rfl)).trans ?_
  · split
    next he => exact readHeader_again hra (hrb hu) he
    · exact hrb hu
  refine (bind_of_ok (a := d) (t := s) ?_).trans ?_
  · split
    next he => exact readHeader_again hra hrd he
    · split
      next he => exact readHeader_again (hrb he.1) hrd he.2
      · exact hrd
  refine (bind_of_ok (m := pure 0) rfl).trans ((bind_of_ok (m := engGet) rfl).trans ?_)
  -- steps 2 to 4 on the headers
  refine engAssert_bind (by simp [hload]) rfl (placeCheck_bind (by rw [hsecond]) (engAssert_bind ?_ rfl rfl))
  simp

/-- Without auto-refresh no REFRESH is inserted before an op (R54). -/
theorem refreshFirst_of_off {j : Job} (h : seAutoRefresh j.entry = false) (r : OpRec) (guard : Nat) (hs : List (Nat × Header)) :
    refreshFirst j r guard hs s = .ok none s := by
  induction hs with
  | nil => rfl
  | cons x rest ih =>
    have hwanted : refreshWanted j x.1 x.2 guard s = .ok false s := by
      unfold refreshWanted
      simp only [h, Bool.false_and, Bool.not_false, if_true]
      rfl
    unfold refreshFirst
    dsimp only
    split
    · exact (bind_of_ok hwanted).trans ih
    · exact ih

@[simp] theorem contentOf_chain (h : Header) : (contentOf h).chain = hChain h := rfl

/-- What readiness fixes about such an op. -/
def plainReady (s : State) (p : Nat) (e : Entry) (a b d : Header) : Ready :=
  let second := (usesOf (oeOpcode e) false).b
  let x := (stepOf e).result (s.ctxOf p (hChain a)) (contentOf a) (if second then some (contentOf b) else none)
  { oneResult e { a := a, b := b, d := d } x with reads := oeA e :: (if second then [oeB e] else []) }

/-- The checks of R61 on such an op: the handles within COUNT, and then its list. -/
theorem readyStep_eq_checked {r : OpRec} {j : Job} {a b d : Header} (hop : oeOpcode r.entry ∈ plainOps) (hauto : seAutoRefresh j.entry = false)
    (hr : HeadersRead s j.part r.entry a b d) :
    readyStep j r s = checked s (.ok (plainReady s j.part r.entry a b d) s)
      (((plainHandles r.entry).all (fun h => decide (h < s.handleCount j.part)), .bounds) :: readinessChecks s j.part r.entry a b d) := by
  obtain ⟨-, hdrop, hhoist, hplain⟩ := plainOps_ne hop
  unfold readyStep
  dsimp only
  rw [← List.take_append_drop 4 (readinessChecks s j.part r.entry a b d), ← List.cons_append]
  refine bind_of_checked (ctFront_eq_checked j r.die hop hr) ((bind_of_ok (m := engGet) rfl).trans ?_)
  -- steps 5 to 7: the operands against their chains, and against each other
  refine Eq.trans ?_ (checked_and ..).symm
  refine engAssert_bind rfl rfl (agree_bind _ _ _ _ ?_)
  refine (bind_of_ok (refreshFirst_of_off hauto ..)).trans ?_
  -- step 8: the level, and then the budget
  refine liftChk_bind (st := .levelExhausted) ?_
  refine engAssert_bind ?_ rfl ?_
  · cases (usesOf (oeOpcode r.entry) false).b <;> simp
  -- step 9: the destination; the check of MOD_DROP passes, and that of BFV products is the last
  refine engAssert_bind rfl rfl ?_
  refine (bind_of_ok (m := engAssert _ _) (t := s) (by rw [decide_eq_true hdrop, Bool.true_or]; rfl)).trans ?_
  refine engAssert_bind ?_ rfl ?_
  · simp only [ne_eq, stepOf_eq_mul_iff]
    rfl
  rw [if_neg hplain, if_neg hhoist]
  rfl

/-- Only the header of an operand that the op has counts in its checks. -/
theorem readinessChecks_second (s : State) (p : Nat) (e : Entry) (a b d : Header) :
    readinessChecks s p e a (if (usesOf (oeOpcode e) false).b then b else 0) d = readinessChecks s p e a b d := by
  cases h : (usesOf (oeOpcode e) false).b <;> simp [readinessChecks, h]

/-- A handle beyond COUNT comes before every other check (R39, R61). -/
theorem readyStep_of_beyond {j : Job} {r : OpRec} (hop : oeOpcode r.entry ∈ plainOps) (h : ∃ h ∈ plainHandles r.entry, s.handleCount j.part ≤ h) :
    readyStep j r s = .error (checkHalt .bounds) s :=
  bind_of_error (ctFront_of_beyond j r.die hop h)

/-- With every handle within COUNT, the first failing check of R61 gives the halt. -/
theorem readyStep_of_first {j : Job} {r : OpRec} {a b d : Header} {k : Nat} {st : Status} (hop : oeOpcode r.entry ∈ plainOps)
    (hauto : seAutoRefresh j.entry = false) (hwithin : ∀ h ∈ plainHandles r.entry, h < s.handleCount j.part) (ha : readHeader j.part (oeA r.entry) s = .ok a s)
    (hb : (usesOf (oeOpcode r.entry) false).b = true → readHeader j.part (oeB r.entry) s = .ok b s) (hd : readHeader j.part (oeD r.entry) s = .ok d s)
    (hk : (readinessChecks s j.part r.entry a b d)[k]? = some (false, st))
    (hbefore : ∀ i < k, ∀ c, (readinessChecks s j.part r.entry a b d)[i]? = some c → c.1 = true) : readyStep j r s = .error (checkHalt st) s := by
  have hread : HeadersRead s j.part r.entry a (if (usesOf (oeOpcode r.entry) false).b then b else 0) d :=
    ⟨ha, fun h => by rw [if_pos h]; exact hb h, fun h => if_neg h, hd⟩
  have hall : (plainHandles r.entry).all (fun h => decide (h < s.handleCount j.part)) = true := by simpa using hwithin
  rw [readyStep_eq_checked hop hauto hread, readinessChecks_second, hall, checked, if_pos rfl]
  exact checked_of_first hk hbefore

end Sys2Proof.Machine
end
section
/-! OP_READY and OP_PASSOVER_BLOCK (R61, R267, R384): when an op becomes ready, when a check ends it, and when it blocks its die. -/
namespace Sys2Proof.Machine

theorem readyOf_of_plain {r : OpRec} (h : oeOpcode r.entry ∈ plainOps) (j : Job) : readyOf j r = readyStep j r := by
  unfold readyOf
  dsimp only
  generalize oeOpcode r.entry = op at h
  simp only [plainOps, List.mem_cons, List.not_mem_nil, or_false] at h
  rcases h with rfl | rfl | rfl | rfl | rfl | rfl | rfl <;> rfl

section
variable {s : State} {o : OpRef} {j : Job} {r : OpRec} {ts : List Nat}

/-- An op whose checks all pass and whose tiles suit it is latched. -/
theorem opReady_of_ok {x : Ready} {u : State} (hop : s.op? o = some (j, r)) (hd : r.displaced = false) (hmay : s.mayReady j r ts = true)
    (hready : readyOf j { r with tiles := ts } s = .ok x u) (hrefresh : x.refresh = none)
    (hplan : x.plan.any (fun pl => decide (ts.length ≠ pl.ranks)) = false) (hdies : s.diesFit j.part (oeOpcode r.entry) x.plan x.dirs ts = true)
    (hres : s.reservoirTiles j.part (oeOpcode r.entry) x.dirs ts = true) (hsums : (x.sumsFp32 && ts.any u.ruOut) = false)
    (hmt : u.mtHolds j.part x.slots = false) (hfeet : u.footsMeet j r.idx x = false) (hhandles : u.handlesInUse j x = false) :
    s.opReady o ts = u.updOp o (fun q => q.latch x ts (bits (s.reg (pr j.part .ctNoiseGuard)) 15 0) (s.reg (pr j.part .ctScaleTol)).toNat s.clock.toNat) := by
  unfold State.opReady
  simp only [hop]
  rw [if_neg (by simp [hd]), if_neg (by simp [hmay])]
  simp only [hready, hrefresh, hplan, hdies, hres, hsums, hmt, hfeet, hhandles, Bool.not_true, Bool.or_false, Bool.false_eq_true, if_false]

/-- An op that may become ready waits. -/
theorem waiting_of_mayReady (h : s.mayReady j r ts = true) : r.phase = .waiting := by
  unfold State.mayReady at h
  simp only [Bool.and_eq_true, decide_eq_true_eq] at h
  tauto

/-- An op of one step that reads ciphertexts alone ends by the check that halts its readiness. -/
theorem opReady_endedFrom {st : Status} (hop : s.op? o = some (j, r)) (hr : r.Unstarted) (hnodup : (j.ops.map (·.idx)).Nodup) (hd : r.displaced = false)
    (hmay : s.mayReady j r ts = true) (hcode : oeOpcode r.entry ∈ plainOps) (hready : readyStep j { r with tiles := ts } s = .error (checkHalt st) s) :
    s.EndedFrom o st (s.opReady o ts) := by
  have hfailed : s.opReady o ts = s.opFailed o (hankUnit (s.vfPort j.part)) (checkHalt st) := by
    unfold State.opReady
    simp only [hop]
    rw [if_neg (by simp [hd]), if_neg (by simp [hmay])]
    simp only [readyOf_of_plain (r := { r with tiles := ts }) hcode, hready]
    cases st <;> rfl
  rw [hfailed]
  exact opFailed_endedFrom hop hr hnodup _ st

end

/-- Settles O29: readiness latches an op whose checks pass. Those of the ops of one step that read ciphertexts alone are a list that halts the work at the first
failure; that halt ends an op that has not started, and what settles its job leaves memory and the record of the end. -/
theorem opBecomesReady : Obligations.OpBecomesReady := by
  unfold Obligations.OpBecomesReady
  intro o j r s hop
  refine ⟨fun ts x u => ?_, fun ts => ?_, fun hphase hd => ?_⟩
  · intro tiles hd hmay hready hrefresh hplan hdies hres hsums hmt hfeet hhandles
    exact congrArg _ (opReady_of_ok hop hd hmay hready hrefresh hplan hdies hres hsums hmt hfeet hhandles)
  · intro ends u handles hd hstarted hins hplan _ hending hnodup hmay hauto hcode
    obtain ⟨-, -, hhoist, -⟩ := plainOps_ne hcode
    have hunstarted : r.Unstarted := ⟨waiting_of_mayReady hmay, hstarted, hins, hplan, hending, hhoist⟩
    have hends {st : Status} (h : readyStep j { r with tiles := ts.map (·.val) } s = .error (checkHalt st) s) : ends st := by
      obtain ⟨hmem, hhost, k, q, hq, -, hphase, hstatus, horigin, -⟩ := opReady_endedFrom hop hunstarted hnodup hd hmay hcode h
      have hidx : r.idx = o.op := Job.op?_idx (State.op?_eq_some.mp hop).2
      exact ⟨_, k, q, rfl, hmem, hhost, hq, hphase, hstatus, horigin.trans hidx.symm⟩
    exact ⟨fun hbeyond => hends (readyStep_of_beyond hcode hbeyond),
      fun a b d hwithin ha hb hd k st hk hbefore => hends (readyStep_of_first hcode hauto hwithin ha hb hd hk hbefore)⟩
  · show Host.Outcome.next _ = _
    simp [hop, hphase, hd]

end Sys2Proof.Machine
end
section
/-! The fields of a word (R10): what setting one does to each bit, and to a word that is written as its fields. -/
namespace Sys2Proof.Machine

/-- A field that is set, bit by bit. -/
theorem getLsbD_setBits (x : Word32) {hi lo i : Nat} (h : lo ≤ hi) (hi32 : i < 32) (v : Nat) :
    (setBits x hi lo v).getLsbD i = if lo ≤ i ∧ i ≤ hi then v.testBit (i - lo) else x.getLsbD i := by
  have mask := getLsbD_mask (f := ⟨hi, lo, .rw⟩) h hi32
  simp only [RegField.mask, RegField.names] at mask
  simp only [setBits, BitVec.getLsbD_or, BitVec.getLsbD_and, BitVec.getLsbD_not, BitVec.getLsbD_ofNat, hi32, decide_true, Bool.true_and, mask,
    Nat.mul_comm v, Nat.testBit_two_pow_mul]
  by_cases hin : lo ≤ i ∧ i ≤ hi <;> simp [hin]

/-- A word whose low fields are spelled out: the field above `lo`, the rest above and the rest below. -/
theorem setBits_field (high f low : Nat) {hi lo : Nat} (h : lo ≤ hi) {v : Nat} (hlow : low < 2 ^ lo) (hf : f < 2 ^ (hi + 1 - lo)) (hv : v < 2 ^ (hi + 1 - lo)) :
    setBits (BitVec.ofNat 32 (2 ^ (hi + 1) * high + (2 ^ lo * f + low))) hi lo v = BitVec.ofNat 32 (2 ^ (hi + 1) * high + (2 ^ lo * v + low)) := by
  have below {g : Nat} (hg : g < 2 ^ (hi + 1 - lo)) : 2 ^ lo * g + low < 2 ^ (hi + 1) := by
    calc 2 ^ lo * g + low < 2 ^ lo * (g + 1) := by rw [Nat.mul_add_one]; omega
      _ ≤ 2 ^ lo * 2 ^ (hi + 1 - lo) := Nat.mul_le_mul_left _ hg
      _ = 2 ^ (hi + 1) := by rw [← Nat.pow_add]; congr 1; omega
  refine BitVec.eq_of_getLsbD_eq fun i hi32 => ?_
  rw [getLsbD_setBits _ h hi32]
  simp only [BitVec.getLsbD_ofNat, hi32, decide_true, Bool.true_and, Nat.testBit_two_pow_mul_add _ (below hf), Nat.testBit_two_pow_mul_add _ (below hv),
    Nat.testBit_two_pow_mul_add _ hlow]
  by_cases hlo : lo ≤ i
  · by_cases hhi : i ≤ hi
    · simp [hlo, hhi, Nat.lt_succ_of_le hhi, Nat.not_lt.mpr hlo]
    · simp [hhi, show ¬ i < hi + 1 by omega]
  · simp [hlo, show i < lo by omega]

end Sys2Proof.Machine
end
section
/-! MT_ADDR, MT_DATA and MT_COMMIT (R73, R74, R77). -/
namespace Sys2Proof.Machine

/-- MT_ADDR as its fields say it (R73): AUTO_INC, CHAIN, ENTRY and WORD. -/
def mtAddrOf (auto : Bool) (c e w : Nat) : Word32 := BitVec.ofNat 32 ((if auto then 2 ^ 31 else 0) + c * 2 ^ 12 + e * 2 ^ 4 + w)

/-- The entry and the word that an access reaches after entry `e`, word `w` (R73). -/
def mtEntryAfter (e w : Nat) : Nat := if e = 127 then (if w = 15 then 0 else 127) else if w = 7 then (if e = 79 then 127 else e + 1) else e
def mtWordAfter (e w : Nat) : Nat := if e = 127 then (w + 1) % 16 else (w + 1) % 8

section
variable {c e w : Nat} (hc : c < 16) (he : e < 128) (hw : w < 16)
include hc he hw

theorem toNat_mtAddrOf (auto : Bool) : (mtAddrOf auto c e w).toNat = (if auto then 2 ^ 31 else 0) + c * 2 ^ 12 + e * 2 ^ 4 + w := by
  rw [mtAddrOf, BitVec.toNat_ofNat, Nat.mod_eq_of_lt]
  cases auto <;> simp <;> omega

theorem mtAddrOf_chain (auto : Bool) : bits (mtAddrOf auto c e w) 15 12 = c := by
  rw [bits, toNat_mtAddrOf hc he hw]; cases auto <;> simp <;> omega

theorem mtAddrOf_entry (auto : Bool) : bits (mtAddrOf auto c e w) 10 4 = e := by
  rw [bits, toNat_mtAddrOf hc he hw]; cases auto <;> simp <;> omega

theorem mtAddrOf_word (auto : Bool) : bits (mtAddrOf auto c e w) 3 0 = w := by
  rw [bits, toNat_mtAddrOf hc he hw]; cases auto <;> simp <;> omega

theorem mtAddrOf_auto (auto : Bool) : bit (mtAddrOf auto c e w) 31 = auto := by
  rw [bit, ← BitVec.testBit_toNat, toNat_mtAddrOf hc he hw, Nat.testBit_eq_decide_div_mod_eq]
  cases auto <;> simp <;> omega

omit hc he in
theorem mtAddrOf_setWord (auto : Bool) {v : Nat} (hv : v < 16) : setBits (mtAddrOf auto c e w) 3 0 v = mtAddrOf auto c e v := by
  have split (x : Nat) : (if auto then 2 ^ 31 else 0) + c * 2 ^ 12 + e * 2 ^ 4 + x =
      2 ^ (3 + 1) * ((if auto then 2 ^ 27 else 0) + c * 2 ^ 8 + e) + (2 ^ 0 * x + 0) := by
    cases auto <;> simp <;> omega
  simp only [mtAddrOf, split]
  exact setBits_field _ w 0 (by decide) (by decide) (by simpa using hw) (by simpa using hv)

omit hc in
theorem mtAddrOf_setEntry (auto : Bool) {v : Nat} (hv : v < 128) : setBits (mtAddrOf auto c e w) 10 4 v = mtAddrOf auto c v w := by
  have split (x : Nat) : (if auto then 2 ^ 31 else 0) + c * 2 ^ 12 + x * 2 ^ 4 + w =
      2 ^ (10 + 1) * ((if auto then 2 ^ 20 else 0) + c * 2) + (2 ^ 4 * x + w) := by
    cases auto <;> simp <;> omega
  simp only [mtAddrOf, split]
  exact setBits_field _ e w (by decide) (by simpa using hw) (by simpa using he) (by simpa using hv)

end

/-- What MT_ADDR selects next: under AUTO_INC the word after, across the ends of entries and of the header (R73). -/
theorem mtNext_mtAddrOf {c e w : Nat} (hc : c < 16) (h : e < 80 ∧ w < 8 ∨ e = 127 ∧ w < 16) (auto : Bool) :
    mtNext (mtAddrOf auto c e w) = if auto then mtAddrOf auto c (mtEntryAfter e w) (mtWordAfter e w) else mtAddrOf auto c e w := by
  have he : e < 128 := by omega
  have hw : w < 16 := by omega
  simp only [mtNext, mtAddrOf_auto hc he hw, mtAddrOf_entry hc he hw, mtAddrOf_word hc he hw]
  cases auto with
  | false => rfl
  | true =>
    simp only [Bool.not_true, Bool.false_eq_true, if_false, if_true]
    rcases h with ⟨he80, hw8⟩ | ⟨rfl, -⟩
    · rw [if_neg (show e ≠ 0x7F by omega)]
      by_cases hlast : w = 7
      · subst hlast
        have hnext : mtEntryAfter e 7 = if e ≥ 79 then 0x7F else e + 1 := by
          rw [mtEntryAfter, if_neg (by omega), if_pos rfl]
          split <;> split <;> omega
        have hnext128 : (if e ≥ 79 then 0x7F else e + 1) < 128 := by split <;> omega
        rw [if_pos (by decide), hnext, mtAddrOf_setEntry he hw _ hnext128, mtAddrOf_setWord hw _ (by decide)]
        simp [mtWordAfter, show e ≠ 127 by omega]
      · rw [if_neg (by omega), mtAddrOf_setWord hw _ (by omega)]
        simp [mtEntryAfter, mtWordAfter, hlast, show e ≠ 127 by omega, show w + 1 < 8 by omega, Nat.mod_eq_of_lt]
    · by_cases hlast : w = 15
      · subst hlast
        rw [if_pos rfl, if_pos rfl, mtAddrOf_setEntry he hw _ (by decide), mtAddrOf_setWord hw _ (by decide)]
        rfl
      · rw [if_pos rfl, if_neg hlast, mtAddrOf_setWord hw _ (by omega)]
        simp [mtEntryAfter, mtWordAfter, hlast, show w + 1 < 16 by omega, Nat.mod_eq_of_lt]

section
variable {v : View} {p : Fin 64} {s : State} (hopen : s.viewOpen v p = true)
include hopen

theorem exec_mtDataAccess_write (x : Word32) : exec (.mtDataAccess v p (some x)) s = .next (s.mtDataWrite p x) := by
  show execMtDataAccess v p (some x) s = _
  simp only [execMtDataAccess, hopen, if_true]

theorem exec_mtDataAccess_read : exec (.mtDataAccess v p none) s = .next ((s.mtDataRead p).2.emit (.read (s.mtDataRead p).1)) := by
  show execMtDataAccess v p none s = _
  simp only [execMtDataAccess, hopen, if_true]

theorem exec_mtCommit (x : Word32) : exec (.mtCommit v p x) s = .next (s.mtCommit p x) := by
  show execMtCommit v p x s = _
  simp only [execMtCommit, hopen, if_true]

end

/-- CHAIN_MASK is the low half of the written value (R74). -/
theorem ofNat_bits_low (x : Word32) : BitVec.ofNat 16 (bits x 15 0) = x.truncate 16 := by
  refine BitVec.eq_of_toNat_eq ?_
  simp [bits]

/-- MT_COMMIT takes a snapshot of the shadow banks where none is pending (R74). -/
theorem mtCommit_of_none {p : Fin 64} {s : State} (h : (s.part p).mtSnap = none) (x : Word32) :
    s.mtCommit p x = s.updPart p (fun y => { y with mtSnap := some (x.truncate 16, y.mtShadow) }) := by
  simp only [State.mtCommit, h, Option.isSome_none, Bool.false_eq_true, if_false, ofNat_bits_low]

/-- While one is pending, MT_COMMIT is malformed (R77). -/
theorem mtCommit_of_pending {p : Fin 64} {s : State} {y : BitVec 16 × Tab Word32} (h : (s.part p).mtSnap = some y) (x : Word32) :
    s.mtCommit p x = s.setField (.part p .partSticky) 0 0 1 := by
  simp only [State.mtCommit, h, Option.isSome_some, if_true, malformed_eq, pr_val]

/-- Settles O7: MT_ADDR is its fields, and its next selection is theirs. -/
theorem shadowTableAccess : Obligations.ShadowTableAccess := by
  unfold Obligations.ShadowTableAccess
  refine ⟨fun v p x auto c e w s hopen hsel haddr => ?_, fun v p x s hopen => ?_⟩
  · have haddr : s.reg (pr p .mtAddr) = mtAddrOf auto c e w := by rw [pr_val]; exact haddr
    have he : e < 128 := by omega
    have hw : w < 16 := by omega
    have hnext := mtNext_mtAddrOf c.isLt hsel auto
    rw [exec_mtDataAccess_write hopen, exec_mtDataAccess_read hopen]
    simp only [State.mtDataWrite, State.mtDataRead, haddr, mtAddrOf_chain c.isLt he hw, mtAddrOf_entry c.isLt he hw, mtAddrOf_word c.isLt he hw, hnext]
    rw [pr_val] at haddr ⊢
    rw [haddr]
    cases auto <;> exact ⟨rfl, rfl⟩
  · rw [exec_mtCommit hopen]
    cases h : (s.part p).mtSnap with
    | none => exact congrArg _ (mtCommit_of_none h x)
    | some y => exact congrArg _ (mtCommit_of_pending h x)

end Sys2Proof.Machine
end
section
/-! Tables that are filtered by key and rebuilt over another one. -/
namespace Sys2Proof.Tab

variable {α : Type} {d : Nat → α}

theorem filter_eq_keep (p : Nat → Bool) (m : Tab α) : m.filter (fun e => p e.1) = keep p m := by
  induction m with
  | nil => rfl
  | cons e rest ih => rw [List.filter_cons, ih]; rfl

theorem keep_key {p : Nat → Bool} {m : Tab α} {e : Nat × α} (h : e ∈ keep p m) : p e.1 = true := by
  rw [← filter_eq_keep] at h
  exact (List.mem_filter.mp h).2

variable [DecidableEq α]

/-- Writes under other keys leave what stands under `k`. -/
theorem get_foldl_set_of_not_key {m : Tab α} {k : Nat} (h : ∀ e ∈ m, e.1 ≠ k) (r : Tab α) : get d (m.foldl (fun r e => set d r e.1 e.2) r) k = get d r k := by
  induction m generalizing r with
  | nil => rfl
  | cons e rest ih =>
    obtain ⟨he, hrest⟩ := List.forall_mem_cons.mp h
    rw [List.foldl_cons, ih hrest, get_set_other _ _ he.symm]

/-- The entries of one table under the keys of a set, written over the entries of another table under the other keys. -/
theorem get_overlay (p : Nat → Bool) {m r : Tab α} (hm : wf d m = true) (hr : wf d r = true) (k : Nat) :
    get d ((keep p m).foldl (fun r e => set d r e.1 e.2) (keep (fun i => !p i) r)) k = if p k then get d m k else get d r k := by
  cases hp : p k with
  | false =>
    have other : ∀ e ∈ keep p m, e.1 ≠ k := fun e he hk => by
      have := keep_key he
      rw [hk, hp] at this
      cases this
    rw [get_foldl_set_of_not_key other, get_keep, hp]
    rfl
  | true =>
    have below : get d (keep (fun i => !p i) r) k = d k := by rw [get_keep, hp]; rfl
    have above : get d (keep p m) k = get d m k := by rw [get_keep, if_pos hp]
    rcases get_rebuild (k := k) (fun _ v => v) (wf_keep p hm) (wf_keep (fun i => !p i) hr) with h | ⟨h, hdefault⟩
    · exact h.trans above
    · rw [h, below, ← hdefault, above]; rfl

end Sys2Proof.Tab
end
section
/-! MT_COMMIT_CHECK (R74 to R76): what a passing commit loads and what a refused one leaves. -/
namespace Sys2Proof.Machine

theorem mtKey_slot {e w : Nat} (he : e < 128) (hw : w < 16) (c : Nat) : mtKey c e w / 2048 = c := by
  rw [mtKey]; omega

/-- A word of the active banks after a load: that of the snapshot in a masked slot, and what stood there in every other (R74). -/
theorem mtWord_mtLoad {active snap : Tab Word32} (ha : Tab.wf (fun _ => 0) active = true) (hs : Tab.wf (fun _ => 0) snap = true) (mask : BitVec 16) (c : Fin 16)
    {e w : Nat} (he : e < 128) (hw : w < 16) : mtWord (mtLoad active snap mask) c e w = if mask.getLsbD c then mtWord snap c e w else mtWord active c e w := by
  have slot : (decide (mtKey c e w / 2048 < 16) && mask.getLsbD (mtKey c e w / 2048)) = mask.getLsbD c := by
    simp [mtKey_slot he hw, c.isLt]
  simp only [mtWord, mtLoad]
  rw [Tab.filter_eq_keep (fun k => decide (k / 2048 < 16) && mask.getLsbD (k / 2048)) snap,
    Tab.filter_eq_keep (fun k => !(decide (k / 2048 < 16) && mask.getLsbD (k / 2048))) active, Tab.get_overlay _ hs ha, slot]

section
variable (s : State) (p : Fin 64)

/-- A passing commit changes its partition's tables and registers. -/
theorem mtApply_sameCore (mask : BitVec 16) (snap : Tab Word32) :
    (s.updPart p (fun x => { x with mtActive := mtLoad x.mtActive snap mask, mtSnap := none })).SameCore (s.mtApply p mask snap) :=
  (State.SameCore.setReg ..).trans (.setField ..)

theorem mtApply_regs (mask : BitVec 16) (snap : Tab Word32) :
    (s.mtApply p mask snap).regs = ((s.updReg (.part p .mtStatus) (fun v => activeBits v snap mask)).setField (.part p .mtFault) 31 16 0).regs := by
  rw [State.mtApply, pr_val, pr_val]
  rfl

/-- The registers of a refused commit (R76): the failure is recorded where none stands. -/
def State.mtRefusal (s : State) (p : Fin 64) (f : Nat × Nat × Nat) : State :=
  let r := s.setField (.part p .mtFault) 31 16 0x60
  let r := if bit (r.reg (.part p .mtStatus)) 16 then r
    else ((r.setField (.part p .mtFault) 15 12 f.1).setField (.part p .mtFault) 11 8 f.2.1).setField (.part p .mtFault) 6 0 f.2.2
  (r.setField (.part p .mtStatus) 16 16 1).setField (.part p .partSticky) 16 16 1

theorem mtRefuse_eq (f : Nat × Nat × Nat) : s.mtRefuse p f = (s.updPart p (fun x => { x with mtSnap := none })).mtRefusal p f := by
  simp only [State.mtRefuse, State.mtRefusal, stick_tableCommitRefused, pr_val]

theorem mtRefusal_sameCore (f : Nat × Nat × Nat) : s.SameCore (s.mtRefusal p f) := by
  unfold State.mtRefusal
  dsimp only
  refine State.SameCore.trans ?_ ((State.SameCore.setField ..).trans (.setField ..))
  split
  · exact .setField ..
  · exact (((State.SameCore.setField ..).trans (.setField ..)).trans (.setField ..)).trans (.setField ..)

/-- The registers of a refusal are those of the registers it starts from. -/
theorem mtRefusal_updPart_regs (g : Part → Part) (f : Nat × Nat × Nat) : ((s.updPart p g).mtRefusal p f).regs = (s.mtRefusal p f).regs := by
  unfold State.mtRefusal
  dsimp only
  have status : ((s.updPart p g).setField (.part p .mtFault) 31 16 0x60).reg (.part p .mtStatus) = (s.setField (.part p .mtFault) 31 16 0x60).reg (.part p .mtStatus) := rfl
  rw [status]
  split <;> rfl

section
variable {s p} {mask : BitVec 16} {snap : Tab Word32} (hsnap : (s.part p).mtSnap = some (mask, snap)) (hquiet : s.mtQuiet p mask = true)
include hsnap hquiet

/-- With no op in flight that names a masked slot, a snapshot that passes every check is loaded (R74). -/
theorem exec_mtCommitCheck_of_pass (h : mtCheck snap mask = none) : exec (.mtCommitCheck p) s = .next (s.mtApply p mask snap) := by
  show execMtCommitCheck p s = _
  simp only [execMtCommitCheck, State.mtCommitCheck, hsnap, hquiet, h, if_true]

/-- One that fails a check is refused (R75, R76). -/
theorem exec_mtCommitCheck_of_fail {f : Nat × Nat × Nat} (h : mtCheck snap mask = some f) : exec (.mtCommitCheck p) s = .next (s.mtRefuse p f) := by
  show execMtCommitCheck p s = _
  simp only [execMtCommitCheck, State.mtCommitCheck, hsnap, hquiet, h, if_true]

end

end

/-- What agrees with a change of one partition in all but registers and reports. -/
theorem updPart_sameCore_frame {s t : State} {p : Fin 64} {g : Part → Part} (hinv : s.Inv) (h : (s.updPart p g).SameCore t) :
    t.part p = g (s.part p) ∧ t.mem = s.mem ∧ t.jobs = s.jobs ∧ t.tiles = s.tiles ∧ ∀ q : Nat, q ≠ p.val → t.part q = s.part q := by
  obtain ⟨-, -, -, -, hparts, -⟩ := hinv
  obtain ⟨tmem, -, tparts, ttiles, -, -, tjobs, -⟩ := h
  have part (q : Nat) : t.part q = (s.updPart p g).part q := congrArg (Tab.get _ · q) tparts
  exact ⟨(part p).trans (part_updPart_same hparts ..), tmem, tjobs, ttiles, fun q hq => (part q).trans (part_updPart_other _ hq)⟩

/-- Settles O8: the check decides between a load of the masked slots and a refusal, and each changes the tables of its partition and registers alone. -/
theorem mtCommitIsAllOrNothing : Obligations.MtCommitIsAllOrNothing := by
  unfold Obligations.MtCommitIsAllOrNothing
  intro p mask snap s hinv hsnap hquiet hwfSnap hwfActive
  cases hcheck : mtCheck snap mask with
  | none =>
    obtain ⟨hpart, hmem, hjobs, htiles, hother⟩ := updPart_sameCore_frame hinv (mtApply_sameCore s p mask snap)
    refine ⟨_, exec_mtCommitCheck_of_pass hsnap hquiet hcheck, by rw [hpart], by rw [hpart], hmem, hjobs, htiles, hother, fun c e w he hw => ?_, mtApply_regs s p mask snap⟩
    rw [hpart]
    exact mtWord_mtLoad hwfActive hwfSnap mask c he hw
  | some f =>
    have hcore := mtRefusal_sameCore (s.updPart p (fun x => { x with mtSnap := none })) p f
    rw [← mtRefuse_eq] at hcore
    obtain ⟨hpart, hmem, hjobs, htiles, hother⟩ := updPart_sameCore_frame hinv hcore
    refine ⟨_, exec_mtCommitCheck_of_fail hsnap hquiet hcheck, by rw [hpart], by rw [hpart], hmem, hjobs, htiles, hother, by rw [hpart], ?_⟩
    rw [mtRefuse_eq, mtRefusal_updPart_regs]
    rfl

end Sys2Proof.Machine
end
section
/-! Modular arithmetic (R62 to R66): canonical sums, differences and negations, Barrett reduction, and the two passes over an accumulator. -/
namespace Sys2Proof.Machine

theorem addMod_eq {q a b : Nat} (ha : a < q) (hb : b < q) : addMod q a b = (a + b) % q := by
  unfold addMod
  split
  · next h => exact (Nat.mod_eq_of_lt h).symm
  · next h => rw [Nat.mod_eq_sub_mod (by omega), Nat.mod_eq_of_lt (by omega)]

theorem subMod_eq {q a b : Nat} (ha : a < q) (hb : b < q) : subMod q a b = (a + q - b) % q := by
  unfold subMod
  split
  · next h => rw [show a + q - b = a - b + q by omega, Nat.add_mod_right, Nat.mod_eq_of_lt (by omega)]
  · next h => exact (Nat.mod_eq_of_lt (by omega)).symm

theorem negMod_eq {q a : Nat} (ha : a < q) : negMod q a = (q - a) % q := by
  unfold negMod
  split
  · next h => rw [h, Nat.sub_zero, Nat.mod_self]
  · next h => exact (Nat.mod_eq_of_lt (by omega)).symm

/-! ### The quotient estimate, with `P` for 2^(b-2) -/

section
variable {P q x : Nat}

/-- The estimate truncates three times, each time downwards. -/
theorem estimate_le (hP : 0 < P) (hq : 0 < q) : x / P * (64 * P * P / q) / (64 * P) ≤ x / q := by
  have hmu : 64 * P * P / q * q ≤ 64 * P * P := Nat.div_mul_le_self _ _
  have hhigh : x / P * P ≤ x := Nat.div_mul_le_self _ _
  have hestimate : x / P * (64 * P * P / q) / (64 * P) * (64 * P) ≤ x / P * (64 * P * P / q) := Nat.div_mul_le_self _ _
  generalize 64 * P * P / q = mu at *
  generalize x / P = high at *
  generalize high * mu / (64 * P) = e at *
  refine (Nat.le_div_iff_mul_le hq).mpr (Nat.le_of_mul_le_mul_left (c := 64 * P) ?_ (by omega))
  calc 64 * P * (e * q) = e * (64 * P) * q := by ring
    _ ≤ high * mu * q := Nat.mul_le_mul_right _ hestimate
    _ = high * (mu * q) := by ring
    _ ≤ high * (64 * P * P) := Nat.mul_le_mul_left _ hmu
    _ = 64 * P * (high * P) := by ring
    _ ≤ 64 * P * x := Nat.mul_le_mul_left _ hhigh

/-- Together the truncations lose less than three: the two of the operands and that of the product less than one each. -/
theorem le_estimate_add_two (hP : 0 < P) (hPq : P ≤ q) (hx : x < 64 * P * P) : x / q ≤ x / P * (64 * P * P / q) / (64 * P) + 2 := by
  have hq : 0 < q := by omega
  have hmu : 64 * P * P < (64 * P * P / q + 1) * q := (Nat.div_lt_iff_lt_mul hq).mp (Nat.lt_succ_self _)
  have hhigh : x < (x / P + 1) * P := (Nat.div_lt_iff_lt_mul hP).mp (Nat.lt_succ_self _)
  have hhigh64 : x / P < 64 * P := (Nat.div_lt_iff_lt_mul hP).mpr hx
  have hestimate : x / P * (64 * P * P / q) < (x / P * (64 * P * P / q) / (64 * P) + 1) * (64 * P) :=
    (Nat.div_lt_iff_lt_mul (by omega)).mp (Nat.lt_succ_self _)
  generalize 64 * P * P / q = mu at *
  generalize x / P = high at *
  generalize high * mu / (64 * P) = e at *
  have key : 64 * P * (high * P) ≤ 64 * P * ((e + 2) * q) := by
    calc 64 * P * (high * P) = high * (64 * P * P) := by ring
      _ ≤ high * ((mu + 1) * q) := Nat.mul_le_mul_left _ hmu.le
      _ = high * mu * q + high * q := by ring
      _ ≤ (e + 1) * (64 * P) * q + 64 * P * q := Nat.add_le_add (Nat.mul_le_mul_right _ hestimate.le) (Nat.mul_le_mul_right _ hhigh64.le)
      _ = 64 * P * ((e + 2) * q) := by ring
  have below : x < (e + 3) * q := by
    calc x < high * P + P := by rw [← Nat.succ_mul]; exact hhigh
      _ ≤ (e + 2) * q + q := Nat.add_le_add (Nat.le_of_mul_le_mul_left key (by omega)) hPq
      _ = (e + 3) * q := by ring
  exact Nat.le_of_lt_succ ((Nat.div_lt_iff_lt_mul hq).mpr below)

end

/-- Two corrections reduce what an estimate leaves that is at most 2 below the quotient. -/
theorem mod_of_estimate {q x e : Nat} (hle : e ≤ x / q) (hge : x / q ≤ e + 2) (hq : 0 < q) :
    (let r := x - e * q
     let r := if q ≤ r then r - q else r
     if q ≤ r then r - q else r) = x % q := by
  obtain ⟨d, hd⟩ := Nat.exists_eq_add_of_le hle
  have hmod : x % q < q := Nat.mod_lt _ hq
  have left : x - e * q = x % q + d * q := by
    have hx : q * (x / q) + x % q = x := Nat.div_add_mod x q
    rw [hd, Nat.mul_add, Nat.mul_comm q e, Nat.mul_comm q d] at hx
    omega
  rw [left]
  obtain rfl | rfl | rfl : d = 0 ∨ d = 1 ∨ d = 2 := by omega
  all_goals
    dsimp only
    split_ifs <;> omega

/-! ### The prime's bit length -/

section
variable {q : Nat} (hq : 2 ≤ bitLength q)
include hq

/-- A modulus of at least two bits, between the powers of two that its bit length names. -/
theorem bitLength_bounds : 2 * 2 ^ (bitLength q - 2) ≤ q ∧ q < 4 * 2 ^ (bitLength q - 2) := by
  have hne : q ≠ 0 := by rintro rfl; simp [bitLength] at hq
  have hlog : bitLength q = q.log2 + 1 := by rw [bitLength, if_neg hne]
  obtain ⟨k, hk⟩ : ∃ k, q.log2 = k + 1 := ⟨q.log2 - 1, by omega⟩
  have hlo : 2 ^ q.log2 ≤ q := Nat.log2_self_le hne
  have hhi : q < 2 ^ (q.log2 + 1) := Nat.lt_log2_self
  rw [hlog, hk, show k + 1 + 1 - 2 = k by omega]
  rw [hk, Nat.pow_succ] at hlo hhi
  rw [Nat.pow_succ] at hhi
  omega

theorem two_pow_bitLength_add_four : 2 ^ (bitLength q + 4) = 64 * 2 ^ (bitLength q - 2) := by
  rw [show bitLength q + 4 = 6 + (bitLength q - 2) by omega, Nat.pow_add]

theorem two_pow_two_mul_bitLength : 2 ^ (2 * bitLength q + 2) = 64 * 2 ^ (bitLength q - 2) * 2 ^ (bitLength q - 2) := by
  rw [show 2 * bitLength q + 2 = 6 + (bitLength q - 2) + (bitLength q - 2) by omega, Nat.pow_add, Nat.pow_add]

/-- MU of a modulus that is no power of two fits in b + 3 bits (R64). -/
theorem muOf_lt (hne : q ≠ 2 * 2 ^ (bitLength q - 2)) : muOf q < 2 ^ (bitLength q + 3) := by
  obtain ⟨hlo, -⟩ := bitLength_bounds hq
  have hP : 0 < 2 ^ (bitLength q - 2) := Nat.two_pow_pos _
  rw [muOf, two_pow_two_mul_bitLength hq, show bitLength q + 3 = 5 + (bitLength q - 2) by omega, Nat.pow_add]
  generalize 2 ^ (bitLength q - 2) = P at *
  refine (Nat.div_lt_iff_lt_mul (by omega)).mpr ?_
  calc 64 * P * P = 2 ^ 5 * P * (2 * P) := by ring
    _ < 2 ^ 5 * P * q := Nat.mul_lt_mul_of_pos_left (by omega) (by omega)

/-- The estimate that Barrett reduction makes of the quotient (R64). -/
theorem barrettEstimate_bounds {x : Nat} (hx : x < 2 ^ (2 * bitLength q + 2)) :
    x / 2 ^ (bitLength q - 2) * muOf q / 2 ^ (bitLength q + 4) ≤ x / q ∧ x / q ≤ x / 2 ^ (bitLength q - 2) * muOf q / 2 ^ (bitLength q + 4) + 2 := by
  obtain ⟨hlo, -⟩ := bitLength_bounds hq
  have hP : 0 < 2 ^ (bitLength q - 2) := Nat.two_pow_pos _
  rw [muOf, two_pow_two_mul_bitLength hq, two_pow_bitLength_add_four hq]
  rw [two_pow_two_mul_bitLength hq] at hx
  exact ⟨estimate_le hP (by omega), le_estimate_add_two hP (by omega) hx⟩

/-- Barrett reduction is exact below 2^(2b+2) (R64). -/
theorem barrett_eq {x : Nat} (hx : x < 2 ^ (2 * bitLength q + 2)) : barrett q (muOf q) x = x % q := by
  obtain ⟨hlo, -⟩ := bitLength_bounds hq
  obtain ⟨hle, hge⟩ := barrettEstimate_bounds hq hx
  have hP : 0 < 2 ^ (bitLength q - 2) := Nat.two_pow_pos _
  exact mod_of_estimate hle hge (by omega)

end

/-- The two passes reduce an accumulator of 80 bits (R66): the high part, folded back by 2^40 mod q, leaves a value that Barrett reduction takes. -/
theorem reduceAcc_eq {q a : Nat} (hq : 20 ≤ bitLength q) (ha : a < 2 ^ 80) : reduceAcc q (muOf q) (2 ^ 40 % q) a = a % q := by
  have hq2 : 2 ≤ bitLength q := by omega
  obtain ⟨hlo, hhi⟩ := bitLength_bounds hq2
  have hP : 2 ^ 18 ≤ 2 ^ (bitLength q - 2) := Nat.pow_le_pow_right (by decide) (by omega)
  have hbound := two_pow_two_mul_bitLength hq2
  have hpow : (2 : Nat) ^ 40 ≤ 16 * (2 ^ (bitLength q - 2) * 2 ^ (bitLength q - 2)) :=
    calc (2 : Nat) ^ 40 = 16 * (2 ^ 18 * 2 ^ 18) := by norm_num
      _ ≤ _ := Nat.mul_le_mul_left _ (Nat.mul_le_mul hP hP)
  have hfold : a / 2 ^ 40 % q * (2 ^ 40 % q) ≤ 16 * (2 ^ (bitLength q - 2) * 2 ^ (bitLength q - 2)) :=
    calc a / 2 ^ 40 % q * (2 ^ 40 % q) ≤ 4 * 2 ^ (bitLength q - 2) * (4 * 2 ^ (bitLength q - 2)) :=
          Nat.mul_le_mul ((Nat.mod_lt _ (by omega)).trans hhi).le ((Nat.mod_lt _ (by omega)).trans hhi).le
      _ = _ := by ring
  have hlow : a % 2 ^ 40 < 2 ^ 40 := Nat.mod_lt _ (by decide)
  rw [Nat.mul_assoc] at hbound
  have hhigh : barrett q (muOf q) (a / 2 ^ 40) = a / 2 ^ 40 % q := barrett_eq hq2 (by rw [hbound]; omega)
  simp only [reduceAcc, hhigh]
  rw [barrett_eq hq2 (by rw [hbound]; omega), Nat.add_mod, ← Nat.mul_mod, ← Nat.add_mod, Nat.mul_comm, Nat.div_add_mod]

/-- A prime of three bits or more is no power of two. -/
theorem prime_ne_two_pow {q : Nat} (hq : q.Prime) (hb : 3 ≤ bitLength q) : q ≠ 2 * 2 ^ (bitLength q - 2) := fun h => by
  rcases (Nat.dvd_prime hq).mp ⟨_, h⟩ with h1 | h2
  · cases h1
  · have : 2 ^ 1 ≤ 2 ^ (bitLength q - 2) := Nat.pow_le_pow_right (by decide) (by omega)
    omega

/-- Settles O33: the corrections are one subtraction or addition of q; the estimate's three truncations lose less than three; the passes stay within its range. -/
theorem reductionsAreExact : Obligations.ReductionsAreExact := by
  unfold Obligations.ReductionsAreExact
  refine ⟨fun q a b ha hb => ⟨addMod_eq ha hb, subMod_eq ha hb, negMod_eq ha⟩, fun q hprime hb _ => ?_⟩
  have hb2 : 2 ≤ bitLength q := by omega
  refine ⟨muOf_lt hb2 (prime_ne_two_pow hprime (by omega)), fun x hx => ?_, fun a ha => reduceAcc_eq hb ha⟩
  obtain ⟨hle, hge⟩ := barrettEstimate_bounds hb2 hx
  exact ⟨hle, hge, barrett_eq hb2 hx⟩

end Sys2Proof.Machine
end
section
/-! What R63, R64, R169, R174 and R178 say of the vector elements and of the reductions, for the functions that R174 has. -/
namespace Sys2Proof.Machine

/-! ### Engine work that goes through -/

section
variable {α β : Type} {s t : State}

theorem bind_eq_ok {m : Eng α} {f : α → Eng β} {b : β} (h : (m >>= f) s = .ok b t) : ∃ a u, m s = .ok a u ∧ f a u = .ok b t := by
  change EStateM.bind m f s = _ at h
  unfold EStateM.bind at h
  split at h
  · next a u hm => exact ⟨a, u, hm, h⟩
  · cases h

theorem mapM_ok_forall {m : α → Eng β} {P : β → Prop} (hm : ∀ a s b t, m a s = .ok b t → P b) (l : List α) {bs : List β} (h : l.mapM m s = .ok bs t) : ∀ b ∈ bs, P b := by
  induction l generalizing s bs with
  | nil => cases h; simp
  | cons a rest ih =>
    rw [List.mapM_cons] at h
    obtain ⟨b, u, hb, h⟩ := bind_eq_ok h
    obtain ⟨cs, v, hcs, h⟩ := bind_eq_ok h
    cases h
    exact List.forall_mem_cons.mpr ⟨hm _ _ _ _ hb, ih hcs⟩

theorem engAssert_ok {b : Bool} (h : b = true) (st : Status) : engAssert b st s = .ok () s := by subst h; rfl
theorem engResidue_ok {b : Bool} (h : b = true) : engResidue b s = .ok () s := by subst h; rfl

theorem markSat_ok (o : OpRef) (b : Bool) : markSat o b s = .ok () (if b then s.updOp o (fun r => { r with saturated := true }) else s) := by
  cases b <;> rfl

end

/-! ### Modular elements -/

/-- An entry's check value is formed from its prime (R68). -/
theorem check_of_entry? {s : State} {p c i : Nat} {e : PrimeEntry} (h : s.entry? p c i = some e) : e.check = e.q % checkModulus := by
  unfold State.entry? at h
  split at h
  · split at h
    · cases h; rfl
    · cases h
  · cases h

theorem check_of_vopPrime {x : Seat} {v : VOp} {s t : State} {o : Option PrimeEntry} (h : vopPrime x v s = .ok o t) : ∀ e ∈ o, e.check = e.q % checkModulus := by
  unfold vopPrime at h
  rw [bind_of_ok (m := engGet) (a := s) rfl] at h
  cases v with
  | queue q => cases h; exact fun e he => nomatch he
  | win i =>
    cases hchain : s.opChain x.o with
    | none => rw [hchain] at h; cases h; exact fun e he => nomatch he
    | some c => rw [hchain] at h; cases h; exact fun e he => check_of_entry? he

theorem check_of_vecPrime {x : Seat} {d : VOp} {srcs : List VOp} {s t : State} {e : PrimeEntry} (h : vecPrime x d srcs s = .ok (some e) t) : e.check = e.q % checkModulus := by
  obtain ⟨ps, _, hps, h⟩ := bind_eq_ok h
  obtain ⟨o, ho, he⟩ := List.exists_of_findSome?_eq_some (EStateM.Result.ok.inj h).1
  exact mapM_ok_forall (fun _ _ _ _ => check_of_vopPrime) _ hps o ho e he

theorem el_lt {l : List Nat} {q i : Nat} (h : ∀ v ∈ l, v < q) (hi : i < l.length) : el l i < q := by
  rw [el, List.getD_eq_getElem _ _ hi]
  exact h _ (List.getElem_mem hi)

section
variable {x : Seat} {g : VecArgs} {as bs cs : List Nat} {s : State} (hasn : as.length = g.n) (hbsn : bs.length = g.n)
include hasn hbsn

/-- The elements of a modular operation are the results of its function, and the residue checks of its products pass (R68, R169). -/
theorem vecElement_modular {e : PrimeEntry} (he : vecPrime x g.dst (g.srcA.toList ++ g.srcB.toList) s = .ok (some e) s) (has : ∀ v ∈ as, v < e.q)
    (hbs : ∀ v ∈ bs, v < e.q) (hcs : ∀ v ∈ cs, v < e.q) {op : Nat} (hop : op ∈ [0x80, 0x81, 0x82, 0x83, 0x84]) {tA tB tD : Nat} (hA : tA ≤ 1) (hB : tB ≤ 1)
    (tC : Nat) (hD : tD ≤ 1) :
    vecElement x op g tA tB tC tD as bs cs s = .ok ((List.range g.n).map (fun i => modularFn op e.q (el as i) (el bs i) (el cs i))) s := by
  have checks : (List.range g.n).all (fun i => mulChecked e.q e.check (el as i) (el bs i)) = true := by
    simp only [List.all_eq_true, List.mem_range]
    intro i hi
    have hlt : el as i < e.q := el_lt has (by omega)
    rw [check_of_vecPrime he]
    exact mulChecked_exact (by omega) _ _
  unfold vecElement
  dsimp only
  rw [if_pos (by simpa using hop)]
  refine (bind_of_ok (engAssert_ok (by simp [hA, hB, hD]) _)).trans ((bind_of_ok he).trans ?_)
  refine (bind_of_ok (engAssert_ok (by simpa using ⟨⟨has, hbs⟩, hcs⟩) _)).trans ((bind_of_ok (engResidue_ok ?_)).trans rfl)
  rw [checks, Bool.or_true]

end

/-- Each modular function gives the canonical residue (R63, R64, R169). -/
theorem modularFn_eq {q a b : Nat} (ha : a < q) (hb : b < q) (c : Nat) :
    modularFn 0x80 q a b c = (a + b) % q ∧ modularFn 0x81 q a b c = (a + q - b) % q ∧ modularFn 0x82 q a b c = (q - a) % q ∧
    modularFn 0x83 q a b c = a * b % q ∧ modularFn 0x84 q a b c = (b * a + c) % q :=
  ⟨addMod_eq ha hb, subMod_eq ha hb, negMod_eq ha, rfl, rfl⟩

/-! ### Integer elements -/

/-- A clamp to the signed range, and whether it changed the value. -/
theorem satW_eq (w : Nat) (v : Int) :
    satW w v = (max (-((2 ^ (w - 1) : Nat) : Int)) (min v ((2 ^ (w - 1) : Nat) - 1)), decide (v < -((2 ^ (w - 1) : Nat) : Int) ∨ ((2 ^ (w - 1) : Nat) : Int) ≤ v)) := by
  have hpos : (0 : Int) < (2 ^ (w - 1) : Nat) := by positivity
  unfold satW clampTo
  generalize ((2 ^ (w - 1) : Nat) : Int) = top at *
  split_ifs with hlo hhi
  · simp [hlo]; omega
  · simp; omega
  · simp; omega

/-- A number in the signed range of `w` bits is read back from its `w` bits. -/
theorem signed_wrapN {w : Nat} (hw : 0 < w) {v : Int} (hlo : -((2 ^ (w - 1) : Nat) : Int) ≤ v) (hhi : v < (2 ^ (w - 1) : Nat)) : signed w (wrapN w v) = v := by
  have hdouble : 2 ^ w = 2 * 2 ^ (w - 1) := by rw [← Nat.pow_succ', Nat.succ_eq_add_one, Nat.sub_add_cancel hw]
  have hpos : 0 < 2 ^ (w - 1) := Nat.two_pow_pos _
  unfold signed wrapN
  rw [hdouble]
  generalize 2 ^ (w - 1) = top at *
  have hmod : v % ((2 * top : Nat) : Int) = if 0 ≤ v then v else v + (2 * top : Nat) := by
    split
    · exact Int.emod_eq_of_lt (by omega) (by omega)
    · rw [← Int.add_emod_right]; exact Int.emod_eq_of_lt (by omega) (by omega)
  rw [hmod]
  split at hmod
  · next h => rw [if_pos h, Nat.mod_eq_of_lt (by omega), if_pos (by omega)]; omega
  · next h => rw [if_neg h, Nat.mod_eq_of_lt (by omega), if_neg (by omega)]; omega

/-- So an element that a clamp has brought into its type's range reads as the clamped value. -/
theorem signed_wrapN_satW {w : Nat} (hw : 0 < w) (v : Int) : signed w (wrapN w (satW w v).1) = (satW w v).1 := by
  have hpos : (0 : Int) < (2 ^ (w - 1) : Nat) := by positivity
  rw [satW_eq]
  exact signed_wrapN hw (le_max_left _ _) (by dsimp only; omega)

/-- The operations of R169 on integers whose exact value has no clamp inside. -/
theorem integerFn_exact {op : Nat} (hop : op ∈ [0x88, 0x89, 0x8A, 0x8C, 0x8D, 0x8E]) (rec_ w : Nat) (a b c : Int) : (integerFn op rec_ w a b c).2 = false := by
  simp only [List.mem_cons, List.not_mem_nil, or_false] at hop
  rcases hop with rfl | rfl | rfl | rfl | rfl | rfl <;> rfl

/-- The elements of an integer operation are its exact values clamped to the destination's range, with SATURATED set where one was clamped (R169). -/
theorem vecElement_integer {op : Nat} (hop : op ∈ [0x88, 0x89, 0x8A, 0x8C, 0x8D, 0x8E]) {ty : Nat} (hty : 2 ≤ ty ∧ ty ≤ 4) (x : Seat) (g : VecArgs) (as bs cs : List Nat) (s : State) :
    let exact := fun i => (integerFn op g.rec_ (typeBits ty) (signed (typeBits ty) (el as i)) (signed (typeBits ty) (el bs i)) (signed (typeBits ty) (el cs i))).1
    vecElement x op g ty ty ty ty as bs cs s = .ok ((List.range g.n).map (fun i => wrapN (typeBits ty) (satW (typeBits ty) (exact i)).1))
      (if (List.range g.n).any (fun i => (satW (typeBits ty) (exact i)).2) then s.updOp x.o (fun r => { r with saturated := true }) else s) := by
  dsimp only
  have hbranch : ¬ (op = 0x80 ∨ op = 0x81 ∨ op = 0x82 ∨ op = 0x83 ∨ op = 0x84) ∧ op ≠ 0x85 ∧ op ≠ 0x86 ∧ op ≠ 0x90 ∧ op ≠ 0x94 ∧ op ≠ 0x95 ∧ op ≠ 0xA0 ∧ ¬ 0x98 ≤ op := by
    simp only [List.mem_cons, List.not_mem_nil, or_false] at hop
    omega
  obtain ⟨hmodular, hlift, hrescale, hlut, hcvtif, hcvtfi, hcopy, hfloat⟩ := hbranch
  unfold vecElement
  dsimp only
  rw [if_neg hmodular, if_neg hlift, if_neg hrescale, if_neg hcvtif, if_neg hcvtfi, if_neg hcopy, if_neg hfloat]
  refine (bind_of_ok (engAssert_ok (by simp [hty, hlut]) _)).trans ((bind_of_ok (markSat_ok ..)).trans ?_)
  simp only [List.any_map, List.map_map, Function.comp_def, integerFn_exact hop, Bool.false_or]
  rfl

/-- VCOPY copies (R169). -/
theorem vecElement_copy (x : Seat) (g : VecArgs) (ty : Nat) (as bs cs : List Nat) (s : State) : vecElement x 0xA0 g ty ty ty ty as bs cs s = .ok as s := by
  unfold vecElement
  exact (bind_of_ok (engAssert_ok (by simp) _)).trans rfl

/-! ### Reductions -/

/-- The two paths agree on residues, on integers and on MAX and MIN of binary32 (R178). -/
theorem reduceResult_paths {r : Reduction} (h : r.ty ≠ 5 ∨ r.fn = 2 ∨ r.fn = 3) : reduceResult r true = reduceResult r false := by
  unfold reduceResult
  dsimp only
  split
  · rfl
  · split
    · next h5 =>
      rcases h with h | h | h
      · exact absurd h5 h
      · simp only [h]
      · simp only [h]
    · rfl

theorem sumMod_eq {q : Nat} (hq : 0 < q) (xs : List Nat) : sumMod q xs = xs.sum % q := by
  suffices h : ∀ a < q, xs.foldl (fun acc x => (acc + x) % q) a = (a + xs.sum) % q by simpa [sumMod] using h 0 hq
  induction xs with
  | nil => intro a ha; simp [Nat.mod_eq_of_lt ha]
  | cons x rest ih =>
    intro a _
    rw [List.foldl_cons, ih _ (Nat.mod_lt _ hq), Nat.mod_add_mod, List.sum_cons, Nat.add_assoc]

/-- Residue and integer results do not depend on the order of the elements (R174). -/
theorem reduceResult_perm {q r : Reduction} (hfn : q.fn = r.fn) (hty : q.ty = r.ty) (hq : q.q = r.q) (hperm : q.cycles.flatten.Perm r.cycles.flatten) (h5 : r.ty ≠ 5)
    (hpos : 0 < r.q) (tree : Bool) : reduceResult q tree = reduceResult r tree := by
  have ints := hperm.map (signed (typeBits r.ty))
  have squares := (ints.map (fun i => i * i)).sum_eq
  have hmax (a : Int) := ints.foldl_eq' (f := max) (fun _ _ _ _ z => max_right_comm z _ _) a
  have hmin (a : Int) := ints.foldl_eq' (f := min) (fun _ _ _ _ z => min_right_comm z _ _) a
  unfold reduceResult
  simp only [hfn, hty, hq, sumMod_eq hpos, hperm.sum_eq, ints.sum_eq, squares, hmax, hmin, h5, if_false]

end Sys2Proof.Machine
end
section
/-! The two reduction paths (R174, R177, R178). A function number above 3 is none of R174's; the model's equation for binary32 takes it as a sum, whose paths differ. -/
namespace Sys2Proof.Machine

/-- A reduction of binary32 under function number 4, which has taken −0.0 alone. -/
def unnamedSum : Reduction := { fn := 4, ty := 5, q := 0, cycles := [[0x80000000]] }

/-- The tree over blocks passes −0.0 through; lane by lane, it is added to the +0.0 of the empty lanes (R128, R177). -/
theorem unnamedSum_paths : reduceResult unnamedSum true = [0x80000000] ∧ reduceResult unnamedSum false = [0] := by decide +kernel

/-- Refutes O39: its clause on the two paths takes every function number from 2 on, where R178 speaks of MAX and MIN, numbers 2 and 3, alone. Under number 4 a
reduction of binary32 is a sum in the model, and the paths differ on −0.0. For the functions that R178 names the paths agree: `reduceResult_paths`. -/
theorem not_vectorElementsAreExact : ¬ Obligations.VectorElementsAreExact := by
  unfold Obligations.VectorElementsAreExact
  intro ⟨_, hpaths⟩
  obtain ⟨hagree, -⟩ := hpaths unnamedSum (.inr (by decide))
  obtain ⟨htree, hlanes⟩ := unnamedSum_paths
  rw [htree, hlanes] at hagree
  exact absurd hagree (by decide)

end Sys2Proof.Machine
end
section
/-! Below the third mismatch (R69, R355): the tile stays in use, no op but the one that mismatched is replayed, and its memory stays where nothing was kept for it. -/
namespace Sys2Proof.Machine

theorem freeTiles_mem (s : State) (ts : List Nat) : (s.freeTiles ts).mem = s.mem := (State.JobsKept.freeTiles (.refl s) ts).1

theorem displace_mem (s : State) (o : OpRef) (left : List Nat) : (s.displace o left).mem = s.mem := by
  unfold State.displace
  split
  · exact freeTiles_mem ..
  · rfl

theorem tileReset_mem (s : State) (t : Nat) : (s.tileReset t).mem = s.mem := by
  unfold State.tileReset
  split <;> rfl

theorem startSelfTest_mem (s : State) (t : Nat) : (s.startSelfTest t).mem = s.mem := by
  unfold State.startSelfTest
  split
  · rfl
  · exact tileReset_mem ..

theorem startSelfTests_mem (s : State) (ts : List Nat) : (ts.foldl State.startSelfTest s).mem = s.mem := by
  induction ts generalizing s with
  | nil => rfl
  | cons t rest ih => exact (ih _).trans (startSelfTest_mem s t)

section
variable {s : State} {o : OpRef} {j : Job} {r : OpRec} (hop : s.op? o = some (j, r)) (hsaved : r.saved = [])
include hop hsaved

/-- A discarded execution for which nothing was kept writes nothing back. -/
theorem replay_mem : (s.replay o).mem = s.mem := by
  simp only [State.replay, hop, hsaved]
  exact (State.JobsKept.freeTiles (.countRun (.countBy (.refl s) ..) ..) _).1

theorem replayR69_mem : (s.replayR69 o).mem = s.mem := by
  have hreplay : ((s.replay o).updOp o (fun q => { q with mismatches := q.mismatches + 1 })).mem = s.mem := replay_mem hop hsaved
  unfold State.replayR69
  simp only [hop]
  split
  · exact (startSelfTests_mem ..).trans ((displace_mem ..).trans hreplay)
  · split
    · exact hreplay
    · exact (displace_mem ..).trans hreplay

/-- The clause of O40 that fails at the third mismatch holds before it. -/
theorem residueMismatch_mem {t : Nat} (hfew : ((s.tile t).mismatchAt.filter (fun a => decide ((s.clock.toNat : Int) - a < hours 1))).length < 2) :
    (s.residueMismatch o t false).mem = s.mem := by
  have hreport := State.SameCore.reportLog s (tileUnit t) (tileUnit t) 0x01 r.detail (some j.part)
  obtain ⟨hmem, -, -, htiles, -, -, hjobs, -, -, -, -, -, hclock, -⟩ := hreport
  simp only [State.residueMismatch, hop]
  split
  · rfl
  · generalize s.reportLog (tileUnit t) (tileUnit t) 0x01 r.detail (some j.part) = u at *
    have htile : u.tile t = s.tile t := congrArg (Tab.get _ · t) htiles
    have htimes : (u.recent (u.tile t).mismatchAt 1).length < 3 := by
      rw [State.recent, htile, hclock, List.length_append, List.length_singleton]
      omega
    have hopu : (u.updTile t (fun x => { x with mismatchAt := u.recent (u.tile t).mismatchAt 1 })).op? o = some (j, r) := by
      rw [← hop]
      unfold State.op? State.job?
      rw [updTile_jobs, hjobs]
    simp only [Bool.false_and, Bool.false_eq_true, if_false, Nat.not_le.mpr htimes]
    exact (replayR69_mem hopu hsaved).trans hmem

end

end Sys2Proof.Machine
end
section
/-! A tile that goes out of use while a second op has run on it (R69, R355, R360): that op is replayed too, and what was kept for it is written back. -/
namespace Sys2Proof.Machine

/-- An ADD that has run on tile 0, with nothing kept for it. -/
def crowdedOp : OpRec := { idx := 0, entry := 0x10, phase := .ran, started := true, tiles := [0] }

/-- Its job; a second op has run on tile 0, for which the byte 1 at 0x1_0000_0000 was kept. -/
def crowdedJob : Job :=
  { id := 0, part := 0, ring := 0, sqIndex := 0, entry := 0, ops := [crowdedOp, { crowdedOp with idx := 1, saved := [(0x100000000, [1])] }] }

/-- Tile 0, with two mismatches in the last hour, lists both ops; partition 0 maps that address to 0x400_0000. -/
def sharedTile : State :=
  let s : State := { State.reset with parts := [(0, bundlePart)], tiles := [(0, { op := some (0, 0), mismatchAt := [0, 0] })], jobs := [crowdedJob] }
  (s.setReg (.glob (.ptRoot 0)) (BitVec.ofNat 32 (tableBase 0 / 4096))).writeTables 0 [] bundlePart.map

/-- The counterexample is in canonical form. -/
theorem sharedTile_inv : sharedTile.Inv := by unfold State.Inv; decide +kernel

theorem sharedTile_op : sharedTile.op? ⟨0, 0⟩ = some (crowdedJob, crowdedOp) := by decide +kernel
theorem sharedTile_runsOn : sharedTile.runsOn ⟨0, 0⟩ (0 : Fin 576) = true := by decide +kernel

/-- A third mismatch of the first op takes the tile out of use, and the byte that was kept for the second op comes back. -/
theorem sharedTile_restores : sharedTile.byte 0x4000000 = 0 ∧ (sharedTile.residueMismatch ⟨0, 0⟩ 0 false).byte 0x4000000 = 1 := by decide +kernel

/-- Refutes O40: memory can change although nothing was kept for the op that mismatches. The third mismatch within an hour takes the tile out of use, and every op under
way on it is replayed (R355); `Inv`, the canonical form of the tables, lets a second op stand there for which something was kept. Below the third mismatch the clause holds: `residueMismatch_mem`. -/
theorem not_residueMismatchReplays : ¬ Obligations.ResidueMismatchReplays := by
  unfold Obligations.ResidueMismatchReplays
  intro h
  obtain ⟨⟨u, hu, hmem, -⟩, -⟩ := h ⟨0, 0⟩ 0 crowdedJob crowdedOp sharedTile sharedTile_inv sharedTile_op sharedTile_runsOn
  obtain rfl : sharedTile.residueMismatch ⟨0, 0⟩ 0 false = u := Host.Outcome.next.inj hu
  obtain ⟨hbefore, hafter⟩ := sharedTile_restores
  have hbyte : (sharedTile.residueMismatch ⟨0, 0⟩ 0 false).byte 0x4000000 = sharedTile.byte 0x4000000 := by
    unfold State.byte; rw [hmem rfl]
  rw [hbefore, hafter] at hbyte
  exact absurd hbyte (by decide)

end Sys2Proof.Machine
end
section
/-! Canonical limbs as residues (R67, R79): the model's powers, sums and lists, read in `ZMod q`. -/
namespace Sys2Proof.Machine
open Finset

/-! ### Powers and sums -/

theorem powModFuel_eq (q : Nat) (fuel b e : Nat) (he : e < 2 ^ fuel) : powModFuel q fuel b e = b ^ e % q := by
  induction fuel generalizing b e with
  | zero =>
    obtain rfl : e = 0 := by omega
    rfl
  | succ fuel ih =>
    have hsquare : (b * b % q) ^ (e / 2) % q = b ^ (2 * (e / 2)) % q := by rw [← Nat.pow_mod, pow_mul, sq]
    rw [powModFuel, ih _ _ (by omega), hsquare]
    split_ifs with hzero hodd
    · rw [hzero, pow_zero]
    · rw [Nat.mul_mod_mod, ← pow_succ', show 2 * (e / 2) + 1 = e by omega]
    · rw [show 2 * (e / 2) = e by omega]

theorem powMod_eq (q b e : Nat) : powMod q b e = b ^ e % q := by
  rw [powMod, powModFuel_eq _ _ _ _ Nat.lt_log2_self, ← Nat.pow_mod]

@[simp] theorem cast_powMod (q b e : Nat) : (powMod q b e : ZMod q) = (b : ZMod q) ^ e := by
  rw [powMod_eq, ZMod.natCast_mod, Nat.cast_pow]

theorem cast_sumMod_range {q : Nat} (hq : 0 < q) (n : Nat) (f : Nat → Nat) :
    (sumMod q ((List.range n).map f) : ZMod q) = ∑ k ∈ range n, (f k : ZMod q) := by
  rw [sumMod_eq hq, ZMod.natCast_mod]
  exact Nat.cast_sum (range n) f

/-! ### Elements -/

@[simp] theorem el_map_range (f : Nat → Nat) {n k : Nat} (hk : k < n) : el ((List.range n).map f) k = f k := by
  simp [el, hk]

theorem el_mulLimb {q : Nat} {a b : List Nat} {k : Nat} (ha : k < a.length) (hb : k < b.length) : el (mulLimb q a b) k = mulMod q (el a k) (el b k) := by
  simp [el, mulLimb, ha, hb]

/-- A limb of N = 2^n canonical residues (R67). -/
structure Canonical (q n : Nat) (a : List Nat) : Prop where
  length_eq : a.length = 2 ^ n
  lt : ∀ v ∈ a, v < q

theorem canonical_map_range {q n : Nat} {f : Nat → Nat} (hf : ∀ k < 2 ^ n, f k < q) : Canonical q n ((List.range (2 ^ n)).map f) :=
  ⟨by simp, by simpa using hf⟩

theorem Canonical.el_lt {q n k : Nat} {a : List Nat} (ha : Canonical q n a) (hk : k < 2 ^ n) : el a k < q :=
  Machine.el_lt ha.lt (ha.length_eq ▸ hk)

theorem canonical_mulLimb {q n : Nat} (hq : 0 < q) {a b : List Nat} (ha : Canonical q n a) (hb : Canonical q n b) : Canonical q n (mulLimb q a b) := by
  refine ⟨by simp [mulLimb, ha.length_eq, hb.length_eq], fun v hv => ?_⟩
  obtain ⟨k, hk, rfl⟩ := List.mem_iff_getElem.mp hv
  simp only [mulLimb, List.getElem_zipWith]
  exact Nat.mod_lt _ hq

/-- A canonical limb is known by its residues. -/
theorem Canonical.ext {q n : Nat} {a b : List Nat} (ha : Canonical q n a) (hb : Canonical q n b)
    (h : ∀ k < 2 ^ n, (el a k : ZMod q) = el b k) : a = b := by
  refine List.ext_getElem (ha.length_eq.trans hb.length_eq.symm) fun k hka hkb => ?_
  have hk : k < 2 ^ n := ha.length_eq ▸ hka
  have hmod : el a k % q = el b k % q := (ZMod.natCast_eq_natCast_iff' _ _ _).mp (h k hk)
  rw [Nat.mod_eq_of_lt (ha.el_lt hk), Nat.mod_eq_of_lt (hb.el_lt hk)] at hmod
  simpa [el, hka, hkb] using hmod

/-! ### Roots of X^N + 1, and the seed of the transform -/

section
variable {q n : Nat} {x : ZMod q} (hx : x ^ 2 ^ n = -1)
include hx

theorem root_pow_two_mul : x ^ (2 * 2 ^ n) = 1 := by rw [mul_comm, pow_mul, hx, neg_one_sq]

/-- Exponents of a root count modulo 2N. -/
theorem root_pow_mod (e : Nat) : x ^ (e % (2 * 2 ^ n)) = x ^ e := (pow_eq_pow_mod e (root_pow_two_mul hx)).symm

/-- Every odd power of a root is a root. -/
theorem root_odd_pow {e : Nat} (he : e % 2 = 1) : (x ^ e) ^ 2 ^ n = -1 := by
  rw [pow_right_comm, hx, Odd.neg_one_pow (Nat.odd_iff.mpr he)]

end

/-- Check 0x6 of R75: ψ is a root. -/
theorem seed_pow {q psi n : Nat} (hq : 0 < q) (hpsi : psi ^ 2 ^ n % q = q - 1) : (psi : ZMod q) ^ 2 ^ n = -1 := by
  rw [← Nat.cast_pow, ← ZMod.natCast_mod, hpsi, Nat.cast_sub hq, ZMod.natCast_self, Nat.cast_one, zero_sub]

end Sys2Proof.Machine
end
section
/-! The forward and the inverse transform (R79, R80) as matrices over `ZMod q`: the Vandermonde matrix of the points ψ^(e_j), and its inverse. -/
namespace Sys2Proof.Machine
open Finset Matrix

/-! ### Bit reversal -/

theorem brv_lt (n j : Nat) : brv n j < 2 ^ n := by
  induction n generalizing j with
  | zero => exact Nat.one_pos
  | succ n ih =>
    have hlow : j % 2 * 2 ^ n ≤ 1 * 2 ^ n := Nat.mul_le_mul_right _ (by omega)
    have hrest := ih (j / 2)
    rw [brv, pow_succ]
    omega

/-- The highest bit comes out lowest. -/
theorem brv_succ_top (n : Nat) {b k : Nat} (hb : b < 2) (hk : k < 2 ^ n) : brv (n + 1) (b * 2 ^ n + k) = 2 * brv n k + b := by
  induction n generalizing k with
  | zero =>
    obtain rfl : k = 0 := by omega
    simp [brv, Nat.mod_eq_of_lt hb]
  | succ n ih =>
    have hshift : b * 2 ^ (n + 1) = 2 * (b * 2 ^ n) := by ring
    rw [brv, show (b * 2 ^ (n + 1) + k) % 2 = k % 2 by omega, show (b * 2 ^ (n + 1) + k) / 2 = b * 2 ^ n + k / 2 by omega, ih (by omega), brv]
    ring

theorem brv_brv (n : Nat) {j : Nat} (hj : j < 2 ^ n) : brv n (brv n j) = j := by
  induction n generalizing j with
  | zero =>
    obtain rfl : j = 0 := by omega
    rfl
  | succ n ih =>
    rw [show brv (n + 1) j = j % 2 * 2 ^ n + brv n (j / 2) from rfl, brv_succ_top n (by omega) (brv_lt n _), ih (by omega)]
    omega

theorem evalExp_odd (n j : Nat) : evalExp n j % 2 = 1 := by unfold evalExp; omega

theorem evalExp_lt (n j : Nat) : evalExp n j < 2 * 2 ^ n := by have := brv_lt n j; unfold evalExp; omega

theorem evalExp_injOn {n i j : Nat} (hi : i < 2 ^ n) (hj : j < 2 ^ n) (h : evalExp n i = evalExp n j) : i = j := by
  have hbrv : brv n i = brv n j := by unfold evalExp at h; omega
  rw [← brv_brv n hi, hbrv, brv_brv n hj]

/-! ### The points and their Vandermonde matrix -/

/-- The residues of a limb's N elements. -/
def residues (q n : Nat) (a : List Nat) : Fin (2 ^ n) → ZMod q := fun k => el a k

theorem Canonical.ext_residues {q n : Nat} {a b : List Nat} (ha : Canonical q n a) (hb : Canonical q n b) (h : residues q n a = residues q n b) : a = b :=
  ha.ext hb fun k hk => congrFun h ⟨k, hk⟩

/-- The point of element `j` (R79). -/
def evalPoint (q psi n j : Nat) : ZMod q := (psi : ZMod q) ^ evalExp n j

/-- The points of all N elements. -/
def evalPoints (q psi n : Nat) : Fin (2 ^ n) → ZMod q := fun j => evalPoint q psi n j

/-- A limb's polynomial at `x`. -/
def valueAt (q n : Nat) (a : List Nat) (x : ZMod q) : ZMod q := ∑ k ∈ range (2 ^ n), (el a k : ZMod q) * x ^ k

/-- The matrix of the inverse transform (R80): N_INV · ψ^(−k·e_j) in row k and column j. -/
def inverseMatrix (q psi nInv n : Nat) [Fact q.Prime] : Matrix (Fin (2 ^ n)) (Fin (2 ^ n)) (ZMod q) :=
  (nInv : ZMod q) • (vandermonde fun j => (evalPoints q psi n j)⁻¹)ᵀ

theorem vandermonde_mulVec_residues (q psi n : Nat) (a : List Nat) (j : Fin (2 ^ n)) :
    (vandermonde (evalPoints q psi n) *ᵥ residues q n a) j = valueAt q n a (evalPoint q psi n j) := by
  change ∑ k : Fin (2 ^ n), evalPoint q psi n j ^ (k : Nat) * (el a k : ZMod q) = _
  rw [valueAt, Finset.sum_range]
  exact Finset.sum_congr rfl fun _ _ => mul_comm _ _

theorem canonical_nttForward {q : Nat} (hq : 0 < q) (psi n : Nat) (a : List Nat) : Canonical q n (nttForward q psi n a) :=
  canonical_map_range fun _ _ => by rw [sumMod_eq hq]; exact Nat.mod_lt _ hq

theorem canonical_nttInverse {q : Nat} (hq : 0 < q) (psi nInv n : Nat) (a : List Nat) : Canonical q n (nttInverse q psi nInv n a) :=
  canonical_map_range fun _ _ => Nat.mod_lt _ hq

section
variable {q psi n : Nat} (hq : 0 < q) (hpsi : psi ^ 2 ^ n % q = q - 1)
include hq hpsi

theorem evalPoint_pow (j : Nat) : evalPoint q psi n j ^ 2 ^ n = -1 := root_odd_pow (seed_pow hq hpsi) (evalExp_odd n j)

/-- Element `j` of the forward transform is the value at the point of `j` (R79). -/
theorem cast_el_nttForward (a : List Nat) {j : Nat} (hj : j < 2 ^ n) : (el (nttForward q psi n a) j : ZMod q) = valueAt q n a (evalPoint q psi n j) := by
  rw [nttForward, el_map_range _ hj, cast_sumMod_range hq]
  refine Finset.sum_congr rfl fun k _ => ?_
  rw [ZMod.natCast_mod, Nat.cast_mul, cast_powMod, root_pow_mod (seed_pow hq hpsi), evalPoint, ← pow_mul, mul_comm k]

theorem residues_nttForward (a : List Nat) : residues q n (nttForward q psi n a) = vandermonde (evalPoints q psi n) *ᵥ residues q n a :=
  funext fun j => (cast_el_nttForward hq hpsi a j.isLt).trans (vandermonde_mulVec_residues q psi n a j).symm

end

section
variable {q psi n : Nat} [Fact q.Prime] (hpsi : psi ^ 2 ^ n % q = q - 1)
include hpsi

/-- ψ^(−e) is the power that the inverse transform reads. -/
theorem seed_pow_neg (e : Nat) : (psi : ZMod q) ^ ((2 * 2 ^ n - e % (2 * 2 ^ n)) % (2 * 2 ^ n)) = ((psi : ZMod q) ^ e)⁻¹ := by
  have hq : 0 < q := (Fact.out : q.Prime).pos
  have hle : e % (2 * 2 ^ n) ≤ 2 * 2 ^ n := (Nat.mod_lt _ (by positivity)).le
  refine eq_inv_of_mul_eq_one_left ?_
  rw [root_pow_mod (seed_pow hq hpsi), ← root_pow_mod (seed_pow hq hpsi) e, ← pow_add, Nat.sub_add_cancel hle, root_pow_two_mul (seed_pow hq hpsi)]

theorem residues_nttInverse (nInv : Nat) (a : List Nat) : residues q n (nttInverse q psi nInv n a) = inverseMatrix q psi nInv n *ᵥ residues q n a := by
  funext k
  rw [residues, nttInverse, el_map_range _ k.isLt, ZMod.natCast_mod, Nat.cast_mul, cast_sumMod_range (Fact.out : q.Prime).pos, inverseMatrix, smul_mulVec,
    Pi.smul_apply, smul_eq_mul, Finset.sum_range]
  congr 1
  refine Finset.sum_congr rfl fun j _ => ?_
  change _ = (evalPoint q psi n j)⁻¹ ^ (k : Nat) * (el a j : ZMod q)
  rw [ZMod.natCast_mod, Nat.cast_mul, cast_powMod, seed_pow_neg hpsi, mul_comm (k : Nat), pow_mul, evalPoint, inv_pow, mul_comm]

/-- ψ is a primitive root of order 2N, as long as −1 is not 1. -/
theorem seed_isPrimitiveRoot (htwo : (2 : ZMod q) ≠ 0) : IsPrimitiveRoot (psi : ZMod q) (2 * 2 ^ n) := by
  have hq : 0 < q := (Fact.out : q.Prime).pos
  have horder : orderOf (psi : ZMod q) = 2 ^ (n + 1) := by
    refine orderOf_eq_prime_pow (fun h => htwo ?_) (by rw [pow_succ']; exact root_pow_two_mul (seed_pow hq hpsi))
    rw [← one_add_one_eq_two, ← neg_eq_iff_add_eq_zero, ← seed_pow hq hpsi, h]
  rw [← pow_succ', ← horder]
  exact IsPrimitiveRoot.orderOf _

theorem evalPoint_injOn (hN : (2 : ZMod q) ^ n ≠ 0) {i j : Nat} (hi : i < 2 ^ n) (hj : j < 2 ^ n) (h : evalPoint q psi n i = evalPoint q psi n j) : i = j := by
  rcases Nat.eq_zero_or_pos n with rfl | hn
  · omega
  · have htwo : (2 : ZMod q) ≠ 0 := fun h => hN (by rw [h, zero_pow hn.ne'])
    exact evalExp_injOn hi hj ((seed_isPrimitiveRoot hpsi htwo).pow_inj (evalExp_lt n i) (evalExp_lt n j) h)

/-- The powers of the quotient of two points sum to 0: it is an N-th root of 1 other than 1. -/
theorem sum_pow_evalPoint_div (hN : (2 : ZMod q) ^ n ≠ 0) {i j : Nat} (hi : i < 2 ^ n) (hj : j < 2 ^ n) (hij : i ≠ j) :
    ∑ k ∈ range (2 ^ n), (evalPoint q psi n i / evalPoint q psi n j) ^ k = 0 := by
  have hq : 0 < q := (Fact.out : q.Prime).pos
  have hne : evalPoint q psi n i / evalPoint q psi n j ≠ 1 := fun h => hij (evalPoint_injOn hpsi hN hi hj (eq_of_div_eq_one h))
  rw [geom_sum_eq hne, div_pow, evalPoint_pow hq hpsi, evalPoint_pow hq hpsi, div_self (neg_ne_zero.mpr one_ne_zero), sub_self, zero_div]

theorem evalPoint_ne_zero (j : Nat) : evalPoint q psi n j ≠ 0 := by
  intro h
  have hpow := evalPoint_pow (Fact.out : q.Prime).pos hpsi j
  rw [h, zero_pow (by positivity)] at hpow
  exact neg_ne_zero.mpr one_ne_zero hpow.symm

/-- The two matrices are inverse to each other. -/
theorem vandermonde_mul_inverseMatrix {nInv : Nat} (hN : (nInv : ZMod q) * 2 ^ n = 1) :
    vandermonde (evalPoints q psi n) * inverseMatrix q psi nInv n = 1 := by
  ext i j
  have hentry : (vandermonde (evalPoints q psi n) * inverseMatrix q psi nInv n) i j =
      nInv * ∑ k ∈ range (2 ^ n), (evalPoint q psi n i / evalPoint q psi n j) ^ k := by
    rw [inverseMatrix, Matrix.mul_smul, Matrix.smul_apply, smul_eq_mul, mul_apply, Finset.sum_range]
    congr 1
    refine Finset.sum_congr rfl fun k _ => ?_
    rw [div_eq_mul_inv, mul_pow]
    rfl
  rw [hentry]
  by_cases hij : i = j
  · rw [hij, div_self (evalPoint_ne_zero hpsi j), one_apply_eq]
    simpa using hN
  · rw [sum_pow_evalPoint_div hpsi (right_ne_zero_of_mul_eq_one hN) i.isLt j.isLt (Fin.val_ne_of_ne hij), mul_zero, one_apply_ne hij]

end

/-- Settles O34: the matrix of the forward transform is the Vandermonde matrix of N different points ψ^(e_j), that of the inverse transform is its inverse. -/
theorem transformsAreInverse : Obligations.TransformsAreInverse := by
  unfold Obligations.TransformsAreInverse
  intro q psi nInv n a hprime hpsi hnInv hlen hlt
  have : Fact q.Prime := ⟨hprime⟩
  have hq : 0 < q := hprime.pos
  have hN : (nInv : ZMod q) * 2 ^ n = 1 := by
    have h : ((nInv * 2 ^ n % q : Nat) : ZMod q) = (1 : Nat) := congrArg _ hnInv
    rw [ZMod.natCast_mod] at h
    exact_mod_cast h
  have hright := vandermonde_mul_inverseMatrix hpsi hN
  have hleft := mul_eq_one_comm.mp hright
  have ha : Canonical q n a := ⟨hlen, hlt⟩
  constructor
  · refine (canonical_nttInverse hq psi nInv n _).ext_residues ha ?_
    rw [residues_nttInverse hpsi, residues_nttForward hq hpsi, mulVec_mulVec, hleft, one_mulVec]
  · refine (canonical_nttForward hq psi n _).ext_residues ha ?_
    rw [residues_nttForward hq hpsi, residues_nttInverse hpsi, mulVec_mulVec, hright, one_mulVec]

end Sys2Proof.Machine
end
section
/-! Products modulo X^N + 1 and automorphisms (R79, R80, R90, R91): at a root of X^N + 1 the terms of a polynomial repeat with period N in the exponent, so that they may
be summed in any order of the exponents modulo N. -/
namespace Sys2Proof.Machine
open Finset

/-- A sum over one period may be taken over any other N numbers that differ modulo N. -/
theorem sum_range_comp_of_periodic {M : Type} [AddCommMonoid M] {f : Nat → M} {N : Nat} (hf : Function.Periodic f N) (hN : 0 < N) {σ : Nat → Nat}
    (hσ : ∀ i < N, ∀ j < N, σ i ≡ σ j [MOD N] → i = j) : ∑ i ∈ range N, f (σ i) = ∑ k ∈ range N, f k := by
  have hmaps : Set.MapsTo (fun i => σ i % N) (range N : Set Nat) (range N : Set Nat) := fun i _ => by simpa using Nat.mod_lt _ hN
  have hinj : Set.InjOn (fun i => σ i % N) (range N : Set Nat) := fun i hi j hj => hσ i (by simpa using hi) j (by simpa using hj)
  exact Finset.sum_nbij _ hmaps hinj (Finset.surjOn_of_injOn_of_card_le _ hmaps hinj le_rfl) fun i _ => (hf.map_mod_nat _).symm

/-- The coefficient of X^k modulo X^N + 1, for every k: that of X^(k + N) is its negation. -/
def wrapped (q n : Nat) (a : List Nat) (k : Nat) : ZMod q :=
  if k % (2 * 2 ^ n) < 2 ^ n then el a (k % (2 * 2 ^ n)) else -(el a (k % (2 * 2 ^ n) - 2 ^ n) : ZMod q)

section
variable {q n : Nat} (a : List Nat)

theorem wrapped_of_lt {k : Nat} (hk : k < 2 ^ n) : wrapped q n a k = el a k := by
  rw [wrapped, Nat.mod_eq_of_lt (by omega), if_pos hk]

theorem wrapped_add_period (k : Nat) : wrapped q n a (k + 2 * 2 ^ n) = wrapped q n a k := by
  simp only [wrapped, Nat.add_mod_right]

theorem wrapped_add (k : Nat) : wrapped q n a (k + 2 ^ n) = -wrapped q n a k := by
  have hlt : k % (2 * 2 ^ n) < 2 * 2 ^ n := Nat.mod_lt _ (by positivity)
  have hmod : (k + 2 ^ n) % (2 * 2 ^ n) = (k % (2 * 2 ^ n) + 2 ^ n) % (2 * 2 ^ n) := by rw [Nat.mod_add_mod]
  unfold wrapped
  rw [hmod]
  generalize k % (2 * 2 ^ n) = r at *
  by_cases hr : r < 2 ^ n
  · rw [Nat.mod_eq_of_lt (by omega), if_neg (by omega), if_pos hr, Nat.add_sub_cancel]
  · rw [show r + 2 ^ n = r - 2 ^ n + 2 * 2 ^ n by omega, Nat.add_mod_right, Nat.mod_eq_of_lt (by omega), if_pos (by omega), if_neg hr, neg_neg]

/-- The terms of a polynomial at a root of X^N + 1 repeat with period N. -/
theorem wrapped_mul_pow_periodic {x : ZMod q} (hx : x ^ 2 ^ n = -1) : Function.Periodic (fun k => wrapped q n a k * x ^ k) (2 ^ n) := by
  intro k
  simp only [wrapped_add, pow_add, hx]
  ring

theorem valueAt_eq_sum_wrapped (x : ZMod q) : valueAt q n a x = ∑ k ∈ range (2 ^ n), wrapped q n a k * x ^ k :=
  Finset.sum_congr rfl fun k hk => by rw [wrapped_of_lt a (by simpa using hk)]

end

/-! ### The product -/

/-- The form in which `negacyclic` writes the canonical residue of a sum of integers. -/
theorem cast_toNat_sum_emod {q : Nat} (hq : 0 < q) (N : Nat) (f : Nat → Int) :
    ((((List.range N).map f).sum % (q : Int)).toNat : ZMod q) = ∑ i ∈ range N, (f i : ZMod q) := by
  have hnonneg : 0 ≤ ((List.range N).map f).sum % (q : Int) := Int.emod_nonneg _ (by exact_mod_cast hq.ne')
  rw [← Int.cast_natCast, Int.toNat_of_nonneg hnonneg, ZMod.intCast_mod]
  exact Int.cast_sum (range N) f

section
variable {q n : Nat} (hq : 0 < q) (a b : List Nat)
include hq

/-- Each coefficient of the product is a convolution. The summand 2N keeps the exponent m − i a natural number. -/
theorem cast_el_negacyclic {m : Nat} (hm : m < 2 ^ n) :
    (el (negacyclic q n a b) m : ZMod q) = ∑ i ∈ range (2 ^ n), (el a i : ZMod q) * wrapped q n b (m + (2 * 2 ^ n - i)) := by
  rw [negacyclic, el_map_range _ hm, cast_toNat_sum_emod hq]
  refine Finset.sum_congr rfl fun i hi => ?_
  have hiN : i < 2 ^ n := by simpa using hi
  split_ifs with him
  · rw [show m + (2 * 2 ^ n - i) = m - i + 2 * 2 ^ n by omega, wrapped_add_period, wrapped_of_lt b (by omega)]
    push_cast
    rfl
  · rw [show m + (2 * 2 ^ n - i) = 2 ^ n + m - i + 2 ^ n by omega, wrapped_add, wrapped_of_lt b (by omega), mul_neg]
    push_cast
    rfl

/-- A product modulo X^N + 1 is evaluated at a root of X^N + 1: for each i, the sum over m only shifts the exponents of b. -/
theorem valueAt_negacyclic {x : ZMod q} (hx : x ^ 2 ^ n = -1) : valueAt q n (negacyclic q n a b) x = valueAt q n a x * valueAt q n b x := by
  have hshift (i : Nat) : ∑ m ∈ range (2 ^ n), wrapped q n b (m + (2 * 2 ^ n - i)) * x ^ (m + (2 * 2 ^ n - i)) = valueAt q n b x := by
    rw [valueAt_eq_sum_wrapped]
    refine sum_range_comp_of_periodic (wrapped_mul_pow_periodic b hx) (by positivity) fun i hi j hj h => ?_
    exact Nat.ModEq.eq_of_lt_of_lt (Nat.ModEq.add_right_cancel' _ h) hi hj
  have hterm {m i : Nat} (hi : i ∈ range (2 ^ n)) : (el a i : ZMod q) * wrapped q n b (m + (2 * 2 ^ n - i)) * x ^ m =
      el a i * x ^ i * (wrapped q n b (m + (2 * 2 ^ n - i)) * x ^ (m + (2 * 2 ^ n - i))) := by
    have hiN : i < 2 ^ n := by simpa using hi
    have hpow : x ^ i * x ^ (m + (2 * 2 ^ n - i)) = x ^ m := by
      rw [← pow_add, show i + (m + (2 * 2 ^ n - i)) = m + 2 * 2 ^ n by omega, pow_add, root_pow_two_mul hx, mul_one]
    rw [← hpow]
    ring
  calc valueAt q n (negacyclic q n a b) x
      = ∑ m ∈ range (2 ^ n), ∑ i ∈ range (2 ^ n), el a i * x ^ i * (wrapped q n b (m + (2 * 2 ^ n - i)) * x ^ (m + (2 * 2 ^ n - i))) := by
        refine Finset.sum_congr rfl fun m hm => ?_
        rw [cast_el_negacyclic hq a b (by simpa using hm), Finset.sum_mul]
        exact Finset.sum_congr rfl fun i hi => hterm hi
    _ = ∑ i ∈ range (2 ^ n), el a i * x ^ i * valueAt q n b x := by
        rw [Finset.sum_comm]
        exact Finset.sum_congr rfl fun i _ => by rw [← Finset.mul_sum, hshift]
    _ = valueAt q n a x * valueAt q n b x := (Finset.sum_mul _ _ _).symm

end

/-! ### The automorphisms -/

/-- The units modulo 2N have exponent N / 2: this is why `oddInv` takes the power N / 2 − 1. -/
theorem odd_pow_modEq {n g : Nat} (hn : 2 ≤ n) (hg : g % 2 = 1) : g ^ 2 ^ (n - 1) ≡ 1 [MOD 2 * 2 ^ n] := by
  have hcoprime : Nat.Coprime g (2 ^ (n + 1)) := (Nat.coprime_two_right.mpr (Nat.odd_iff.mpr hg)).pow_right _
  have hunit := ArithmeticFunction.pow_carmichael (ZMod.unitOfCoprime g hcoprime)
  rw [ArithmeticFunction.carmichael_two_pow_of_ne_two (by omega), show n + 1 - 2 = n - 1 by omega] at hunit
  rw [← pow_succ', ← ZMod.natCast_eq_natCast_iff]
  simpa using congrArg Units.val hunit

theorem mul_oddInv {n g : Nat} (hn : 2 ≤ n) (hg : g % 2 = 1) : g * oddInv (2 * 2 ^ n) g ≡ 1 [MOD 2 * 2 ^ n] := by
  obtain ⟨k, rfl⟩ := Nat.exists_eq_add_of_le' hn
  have hquarter : 2 * 2 ^ (k + 2) / 4 = 2 ^ (k + 1) := by rw [show 2 * 2 ^ (k + 2) = 2 ^ (k + 1) * 4 by ring, Nat.mul_div_cancel _ (by decide)]
  have hpos : 0 < 2 ^ (k + 1) := by positivity
  have hpow : g * g ^ (2 ^ (k + 1) - 1) = g ^ 2 ^ (k + 1) := by rw [← pow_succ', Nat.sub_add_cancel hpos]
  calc g * oddInv (2 * 2 ^ (k + 2)) g ≡ g * g ^ (2 ^ (k + 1) - 1) [MOD 2 * 2 ^ (k + 2)] := by
        rw [oddInv, powMod_eq, hquarter]
        exact (Nat.mod_modEq _ _).mul_left g
    _ = g ^ 2 ^ (k + 1) := hpow
    _ ≡ 1 [MOD 2 * 2 ^ (k + 2)] := odd_pow_modEq hn hg

theorem cast_negMod {q v : Nat} (hv : v < q) : (negMod q v : ZMod q) = -v := by
  rw [negMod_eq hv, ZMod.natCast_mod, Nat.cast_sub hv.le, ZMod.natCast_self, zero_sub]

section
variable {q n g : Nat} {a : List Nat} (ha : Canonical q n a)
include ha

/-- Element `m` of σ_g gathers the wrapped coefficient of exponent m · g^(−1) (R91). -/
theorem cast_el_autoCoef {m : Nat} (hm : m < 2 ^ n) : (el (autoCoef q n g a) m : ZMod q) = wrapped q n a (m * oddInv (2 * 2 ^ n) g) := by
  have hlt : m * oddInv (2 * 2 ^ n) g % (2 * 2 ^ n) < 2 * 2 ^ n := Nat.mod_lt _ (by positivity)
  rw [autoCoef, el_map_range _ hm, wrapped]
  dsimp only
  split_ifs with hk
  · rfl
  · exact cast_negMod (ha.el_lt (by omega))

/-- σ_g(a) is a(X^g): the gather by g^(−1) only permutes the exponents modulo N. -/
theorem valueAt_autoCoef (hn : 2 ≤ n) (hg : g % 2 = 1) {x : ZMod q} (hx : x ^ 2 ^ n = -1) : valueAt q n (autoCoef q n g a) x = valueAt q n a (x ^ g) := by
  have hinv := mul_oddInv hn hg
  have hback (m : Nat) : (x ^ g) ^ (m * oddInv (2 * 2 ^ n) g) = x ^ m := by
    rw [← pow_mul, mul_left_comm, ← root_pow_mod hx, (hinv.mul_left m : _ % _ = _ % _), mul_one, root_pow_mod hx]
  have hinj (i : Nat) (hi : i < 2 ^ n) (j : Nat) (hj : j < 2 ^ n) (h : i * oddInv (2 * 2 ^ n) g ≡ j * oddInv (2 * 2 ^ n) g [MOD 2 ^ n]) : i = j := by
    have hone := hinv.of_mul_left 2
    refine Nat.ModEq.eq_of_lt_of_lt ?_ hi hj
    calc i ≡ i * (g * oddInv (2 * 2 ^ n) g) [MOD 2 ^ n] := by simpa using (hone.mul_left i).symm
      _ = g * (i * oddInv (2 * 2 ^ n) g) := mul_left_comm _ _ _
      _ ≡ g * (j * oddInv (2 * 2 ^ n) g) [MOD 2 ^ n] := h.mul_left g
      _ = j * (g * oddInv (2 * 2 ^ n) g) := mul_left_comm _ _ _
      _ ≡ j [MOD 2 ^ n] := by simpa using hone.mul_left j
  calc valueAt q n (autoCoef q n g a) x
      = ∑ m ∈ range (2 ^ n), wrapped q n a (m * oddInv (2 * 2 ^ n) g) * (x ^ g) ^ (m * oddInv (2 * 2 ^ n) g) :=
        Finset.sum_congr rfl fun m hm => by rw [cast_el_autoCoef ha (by simpa using hm), hback]
    _ = ∑ k ∈ range (2 ^ n), wrapped q n a k * (x ^ g) ^ k := sum_range_comp_of_periodic (wrapped_mul_pow_periodic a (root_odd_pow hx hg)) (by positivity) hinj
    _ = valueAt q n a (x ^ g) := (valueAt_eq_sum_wrapped a _).symm

end

/-- Element `j` of σ_g of an evaluation form is the element whose exponent is g · e_j modulo 2N (R90). -/
theorem evalExp_autoEval {n g : Nat} (hg : g % 2 = 1) (j : Nat) :
    evalExp n (brv n ((g * evalExp n j % (2 * 2 ^ n) - 1) / 2)) = g * evalExp n j % (2 * 2 ^ n) := by
  have hlt : g * evalExp n j % (2 * 2 ^ n) < 2 * 2 ^ n := Nat.mod_lt _ (by positivity)
  have hodd : g * evalExp n j % (2 * 2 ^ n) % 2 = 1 := by rw [Nat.mod_mul_right_mod, Nat.mul_mod, hg, evalExp_odd]
  rw [evalExp, brv_brv n (by omega)]
  omega

section
variable {q psi n : Nat} (hq : 0 < q) (hpsi : psi ^ 2 ^ n % q = q - 1)
include hq hpsi

theorem evalPoint_autoEval {g : Nat} (hg : g % 2 = 1) (j : Nat) :
    evalPoint q psi n (brv n ((g * evalExp n j % (2 * 2 ^ n) - 1) / 2)) = evalPoint q psi n j ^ g := by
  rw [evalPoint, evalPoint, evalExp_autoEval hg, root_pow_mod (seed_pow hq hpsi), mul_comm, pow_mul]

/-- The product modulo X^N + 1 is the element-wise product of the evaluation forms (R80). -/
theorem nttForward_negacyclic (a b : List Nat) : nttForward q psi n (negacyclic q n a b) = mulLimb q (nttForward q psi n a) (nttForward q psi n b) := by
  have ha := canonical_nttForward hq psi n a
  have hb := canonical_nttForward hq psi n b
  refine (canonical_nttForward hq psi n _).ext (canonical_mulLimb hq ha hb) fun j hj => ?_
  rw [el_mulLimb (ha.length_eq ▸ hj) (hb.length_eq ▸ hj), mulMod, ZMod.natCast_mod, Nat.cast_mul, cast_el_nttForward hq hpsi _ hj, cast_el_nttForward hq hpsi _ hj,
    cast_el_nttForward hq hpsi _ hj]
  exact valueAt_negacyclic hq a b (evalPoint_pow hq hpsi j)

/-- σ_g of the evaluation form is the evaluation form of σ_g (R90, R91). -/
theorem autoEval_nttForward (hn : 2 ≤ n) {a : List Nat} (ha : Canonical q n a) {g : Nat} (hg : g % 2 = 1) :
    autoEval n g (nttForward q psi n a) = nttForward q psi n (autoCoef q n g a) := by
  have hgather : Canonical q n (autoEval n g (nttForward q psi n a)) :=
    canonical_map_range fun _ _ => (canonical_nttForward hq psi n a).el_lt (brv_lt n _)
  refine hgather.ext (canonical_nttForward hq psi n _) fun j hj => ?_
  rw [autoEval, el_map_range _ hj, cast_el_nttForward hq hpsi _ (brv_lt n _), cast_el_nttForward hq hpsi _ hj, evalPoint_autoEval hq hpsi hg]
  exact (valueAt_autoCoef ha hn hg (evalPoint_pow hq hpsi j)).symm

end

/-- Settles O35: an element of an evaluation form is the value at a root of X^N + 1, where the product takes the product of the values, and σ_g the value at the g-th
power, which is again a point of the transform. -/
theorem evaluationFormIsAHomomorphism : Obligations.EvaluationFormIsAHomomorphism := by
  unfold Obligations.EvaluationFormIsAHomomorphism
  intro q psi n a b hprime hpsi hn hlen _ hlt _
  exact ⟨nttForward_negacyclic hprime.pos hpsi a b, fun g hg _ => autoEval_nttForward hprime.pos hpsi hn ⟨hlen, hlt⟩ hg⟩

end Sys2Proof.Machine
end
section
/-! The queue-table check (R189): the first of the queues that break a rule. -/
namespace Sys2Proof.Machine

/-- R189 for queue `i` of a table: enabled, it keeps its own rules and shares no line with another enabled queue. -/
def KeepsQueueRules (qs : List QCfg) (i : Nat) (q : QCfg) : Prop :=
  q.enable = true → q.ok = true ∧ ∀ (j : Nat) (r : QCfg), qs[j]? = some r → r.enable = true → i ≠ j → q.meets r = false

/-- Is `q`, as queue `i`, apart from every other enabled queue of the table? -/
def apartInTable (qs : List QCfg) (i : Nat) (q : QCfg) : Bool :=
  (List.range qs.length).all (fun j => qs[j]?.all (fun r => decide (i = j) || !r.enable || !q.meets r))

/-- Does the table have a queue `i` that breaks R189? -/
def queueBreaks (qs : List QCfg) (i : Nat) : Bool := qs[i]?.any (fun q => q.enable && !(q.ok && apartInTable qs i q))

variable {qs : List QCfg} {i : Nat}

theorem qtabCheck_eq_find? : qtabCheck qs = (List.range qs.length).find? (queueBreaks qs) := by
  have other (q : QCfg) (i j : Nat) : qs[j]?.all (fun r => decide (i = j) || !r.enable || !q.meets r) = (match qs[j]? with
      | some r => decide (i = j) || !r.enable || !q.meets r
      | none => true) := by
    cases qs[j]? <;> rfl
  unfold qtabCheck
  congr 1
  funext i
  simp only [queueBreaks, apartInTable, other]
  cases qs[i]? <;> rfl

theorem apartInTable_iff {q : QCfg} :
    apartInTable qs i q = true ↔ ∀ (j : Nat) (r : QCfg), qs[j]? = some r → r.enable = true → i ≠ j → q.meets r = false := by
  simp only [apartInTable, List.all_eq_true, List.mem_range, Option.all_eq_true]
  constructor
  · intro h j r hr he hij
    have hj := (List.getElem?_eq_some_iff.mp hr).1
    simpa [he, hij] using h j hj r hr
  · intro h j _ r hr
    by_cases hij : i = j
    · simp [hij]
    · cases he : r.enable with
      | false => simp
      | true => simp [h j r hr he hij]

theorem queueBreaks_iff : queueBreaks qs i = true ↔ ∃ q, qs[i]? = some q ∧ ¬ KeepsQueueRules qs i q := by
  rw [queueBreaks, Option.any_eq_true]
  refine exists_congr fun q => and_congr_right fun _ => ?_
  rw [KeepsQueueRules, Classical.not_imp, ← apartInTable_iff, ← Bool.and_eq_true, Bool.not_eq_true, Bool.and_eq_true, Bool.not_eq_true']

theorem keepsQueueRules_of_not_breaks (h : queueBreaks qs i = false) {q : QCfg} (hq : qs[i]? = some q) : KeepsQueueRules qs i q :=
  not_not.mp fun hn => by simp [queueBreaks_iff.mpr ⟨q, hq, hn⟩] at h

/-- Settles O10: the check looks for the first queue that breaks R189, and it looks at every queue. -/
theorem queueTableCheckFindsFirst : Obligations.QueueTableCheckFindsFirst := by
  unfold Obligations.QueueTableCheckFindsFirst
  intro qs
  refine ⟨⟨fun hnone i q hq => ?_, fun hgood => ?_⟩, fun k hk => ?_⟩
  · rw [qtabCheck_eq_find?, List.find?_range_eq_none] at hnone
    have hbound := (List.getElem?_eq_some_iff.mp hq).1
    exact keepsQueueRules_of_not_breaks (by simpa using hnone i hbound) hq
  · rw [qtabCheck_eq_find?, List.find?_eq_none]
    rintro i - hbreaks
    obtain ⟨q, hq, hbad⟩ := queueBreaks_iff.mp hbreaks
    exact hbad (hgood i q hq)
  · rw [qtabCheck_eq_find?, List.find?_range_eq_some] at hk
    obtain ⟨hbreaks, -, hbelow⟩ := hk
    exact ⟨queueBreaks_iff.mp hbreaks, fun i q hik hq => keepsQueueRules_of_not_breaks (by simpa using hbelow i hik) hq⟩

end Sys2Proof.Machine
end

section
/-! Tile registers whose writes are held (R177, R192, R214): one equation for each command in the circumstances in which it acts. -/
namespace Sys2Proof.Machine

/-- The fields of SEM_n are RW (R192). -/
theorem written_sem (t : Fin 576) (n : Fin 32) (old v : Word32) :
    (Reg.tile t (.sem n)).written old v = (old &&& 0x7F880000#32) ||| (v &&& 0x8077FFFF#32) := by
  have rw : (Reg.tile t (.sem n)).mask .rw ||| (Reg.tile t (.sem n)).mask .rws = 0x8077FFFF#32 := by
    simp [Reg.mask, Reg.fields, TReg.fields, RegField.mask]
  have w1c : (Reg.tile t (.sem n)).mask .w1c = 0#32 := by simp [Reg.mask, Reg.fields, TReg.fields]
  simp only [Reg.written, rw, w1c, BitVec.and_zero]
  exact BitVec.and_allOnes

variable {t : Fin 576} {s : State}

section
variable (hopen : s.tileOpen t = true)
include hopen

theorem exec_semWrite (n : Fin 32) (x : Word32) : exec (.semWrite t n x) s = .next (s.semWrite t n x) := congrArg _ (if_pos hopen)
theorem exec_spadPwrWrite (on : BitVec 8) : exec (.spadPwrWrite t on) s = .next (s.spadWrite t on) := congrArg _ (if_pos hopen)
theorem exec_vecCtrlWrite (x : Word32) : exec (.vecCtrlWrite t x) s = .next (s.vecCtrlWrite t x) := congrArg _ (if_pos hopen)

end

theorem semWrite_eq (s : State) (t : Fin 576) (n : Fin 32) (x : Word32) : s.semWrite t n x =
    if (s.tile t).anyRunning then s.stickOpt (s.holder t) .descMalformed
    else s.updReg (.tile t (.sem n)) (fun old => (old &&& 0x7F880000#32) ||| (x &&& 0x8077FFFF#32)) := by
  simp only [State.semWrite, tIdx_val, written_sem]
  rfl

section
variable (hquiet : (s.tile t).quiescent = true)
include hquiet

theorem exec_spadPwrApply {on : BitVec 8} (hheld : (s.tile t).spadHeld = some on) : exec (.spadPwrApply t) s = .next (s.applySpad t on) := by
  show execSpadPwrApply t s = _
  rw [execSpadPwrApply, hheld]
  exact congrArg _ (if_pos hquiet)

theorem exec_reducePathApply {b : Bool} (hheld : (s.tile t).reduceHeld = some b) : exec (.reducePathApply t) s =
    .next ((s.setField (.tile t .vecCtrl) 0 0 (if b then 1 else 0)).updTile t (fun x => { x with reduceHeld := none })) := by
  show execReducePathApply t s = _
  rw [execReducePathApply, hheld]
  exact congrArg _ (if_pos hquiet)

end

theorem exec_spadGroupReady {g : BitVec 8} {rest : List (BitVec 8)} (hrise : (s.tile t).spadRising = g :: rest) : exec (.spadGroupReady t) s =
    .next ((s.updReg (.tile t .spadPwr) (fun v => v ||| BitVec.ofNat 32 (g.toNat * 256))).updTile t (fun x => { x with spadRising := rest })) := by
  show execSpadGroupReady t s = _
  rw [execSpadGroupReady, hrise]

/-! ### A new value of SPAD_PWR.ON (R214) -/

/-- ON of SPAD_PWR. -/
theorem ofNat_bits_on (x : Word32) : BitVec.ofNat 8 (bits x 7 0) = x.truncate 8 := by
  refine BitVec.eq_of_toNat_eq ?_
  simp [bits]

/-- READY of SPAD_PWR. -/
theorem ofNat_bits_ready (x : Word32) : BitVec.ofNat 8 (bits x 15 8) = x.extractLsb' 8 8 := by
  refine BitVec.eq_of_toNat_eq ?_
  simp [bits, Nat.shiftRight_eq_div_pow]

/-- SPAD_PWR when a new value of ON takes effect: READY stays for the groups that were on and stay on. -/
def spadPwrAfter (x : Word32) (on : BitVec 8) : Word32 :=
  BitVec.ofNat 32 (on.toNat + (on &&& x.truncate 8 &&& x.extractLsb' 8 8).toNat * 256)

/-- A tile when the groups that are on change from `old` to `on`. -/
def Tile.changeGroups (x : Tile) (old on : BitVec 8) : Tile :=
  { x with
    scratch := keepGroups x.scratch (on &&& old), spadHeld := none
    spadRising := ((x.spadRising.map (· &&& on)) ++ [on &&& ~~~old]).filter (· ≠ 0) }

theorem applySpad_eq (s : State) (t : Fin 576) (on : BitVec 8) : s.applySpad t on =
    (s.setReg (.tile t .spadPwr) (spadPwrAfter (s.reg (.tile t .spadPwr)) on)).updTile t (·.changeGroups ((s.reg (.tile t .spadPwr)).truncate 8) on) := by
  have hready (old ready : BitVec 8) : ready &&& on &&& old = on &&& old &&& ready := by rw [BitVec.and_assoc, BitVec.and_comm]
  simp only [State.applySpad, tIdx_val, ofNat_bits_on, ofNat_bits_ready, hready]
  rfl

theorem applySpad_tile (hwf : Tab.wf (fun _ => ({} : Tile)) s.tiles = true) (on : BitVec 8) :
    (s.applySpad t on).tile t = (s.tile t).changeGroups ((s.reg (.tile t .spadPwr)).truncate 8) on := by
  rw [applySpad_eq]
  exact tile_updTile_same (s := s.setReg _ _) hwf t.val _

theorem applySpad_tile_other {q : Nat} (hq : q ≠ t.val) (on : BitVec 8) : (s.applySpad t on).tile q = s.tile q := by
  rw [applySpad_eq]
  exact tile_updTile_other _ hq

theorem applySpad_regs (s : State) (t : Fin 576) (on : BitVec 8) :
    (s.applySpad t on).regs = (s.setReg (.tile t .spadPwr) (spadPwrAfter (s.reg (.tile t .spadPwr)) on)).regs := by
  rw [applySpad_eq]
  rfl

theorem get_keepGroups (m : Tab Byte) (on : BitVec 8) (a : Nat) :
    Tab.get (fun _ => 0) (keepGroups m on) a = if bit on (a / 524288) then Tab.get (fun _ => 0) m a else 0 := Tab.get_keep ..

/-- Settles O11: a write is held in the tile, and at the quiescent point `applySpad` and the field of VEC_CTRL take the held value. -/
theorem tileWritesAreHeld : Obligations.TileWritesAreHeld := by
  unfold Obligations.TileWritesAreHeld
  refine ⟨fun t s hopen => ⟨fun n x => ?_, fun on => exec_spadPwrWrite hopen on, fun x => ?_⟩,
    fun t s => ⟨fun on hinv hheld hquiet => ?_, fun b hheld hquiet => exec_reducePathApply hquiet hheld, fun g rest hrise => exec_spadGroupReady hrise⟩⟩
  · rw [exec_semWrite hopen, semWrite_eq]
    cases s.holder t <;> rfl
  · rw [exec_vecCtrlWrite hopen, State.vecCtrlWrite, tIdx_val]
  · obtain ⟨-, -, -, -, -, htiles, -⟩ := hinv
    have htile := applySpad_tile (t := t) htiles on
    refine ⟨_, exec_spadPwrApply hquiet hheld, by rw [htile]; rfl, rfl, rfl, fun a => ?_, applySpad_regs s t on, fun q hq => applySpad_tile_other hq on⟩
    rw [htile]
    exact get_keepGroups ..

end Sys2Proof.Machine
end

section
/-! Streams: where the program counter goes at the end of a loop body, and the invariant of a loop that is outside all others (R184, R186). -/
namespace Sys2Proof.Machine

/-! ### The end of a loop body -/

theorem settleLoops_inside {pc : Nat} {f : LoopFrame} (h : pc ≠ f.first + f.len) (rest : List LoopFrame) (x : Stream) :
    settleLoops pc (f :: rest) x = (pc, f :: rest, x) := by
  simp [settleLoops, h]

theorem settleLoops_again {f : LoopFrame} (h : f.iter + 1 < f.count) (rest : List LoopFrame) (x : Stream) :
    settleLoops (f.first + f.len) (f :: rest) x = (f.first, { f with iter := f.iter + 1 } :: rest, x.setRow rest.length (f.iter + 1)) := by
  simp [settleLoops, h]

theorem settleLoops_last {f : LoopFrame} (h : f.iter + 1 = f.count) (rest : List LoopFrame) (x : Stream) :
    settleLoops (f.first + f.len) (f :: rest) x = settleLoops (f.first + f.len) rest x := by
  simp [settleLoops, ← h]

/-- The end of a body changes no more of the stream than row counters. -/
theorem settleLoops_comps (pc : Nat) (fs : List LoopFrame) (x : Stream) : (settleLoops pc fs x).2.2.comps = x.comps := by
  induction fs with
  | nil => rfl
  | cons f rest ih =>
    unfold settleLoops
    split
    · split
      · rfl
      · exact ih
    · rfl

theorem goTo_comps (x : Stream) (pc : Nat) : (x.goTo pc).comps = x.comps := settleLoops_comps ..

theorem next_of_settleLoops {x y : Stream} {pc : Nat} {fs : List LoopFrame} (h : settleLoops (x.pc + 1) x.loops x = (pc, fs, y)) :
    x.next = { y with pc := pc, loops := fs, done := 0, inBufA := [], inBufB := [], outBuf := [], stall := .none, wait := none } := by
  rw [Stream.next, Stream.goTo, h]

/-! ### A loop outside all loops -/

/-- The stream `x` is before the `i`-th instruction that it issues in a loop of `n` iterations over `m` instructions, which stands at `v.pc` outside all loops. -/
structure InLoop (v : Stream) (n m i : Nat) (x : Stream) : Prop where
  pc : x.pc = v.pc + 1 + i % m
  loops : x.loops = [{ first := v.pc + 1, len := m, count := n, iter := i / m }]
  row : x.row 0 = i / m
  rows : Tab.wf (fun _ => 0) x.rows = true
  running : x.running = v.running

/-- The stream `x` is past such a loop. -/
structure PastLoop (v : Stream) (n m : Nat) (x : Stream) : Prop where
  pc : x.pc = v.pc + 1 + m
  loops : x.loops = []
  row : x.row 0 = n - 1

variable {v x : Stream} {n m i : Nat}

theorem row_setRow_same (h : Tab.wf (fun _ => 0) x.rows = true) (c k : Nat) : (x.setRow c k).row c = k := Tab.get_set_same h c k

theorem inLoop_enterLoop (hn : 0 < n) (hloops : v.loops = []) (hrows : Tab.wf (fun _ => 0) v.rows = true) : InLoop v n m 0 (v.enterLoop 0 n m) := by
  have henter : v.enterLoop 0 n m = { (v.setRow 0 0).goTo (v.pc + 1) with
      loops := [{ first := v.pc + 1, len := m, count := n, iter := 0 }]
      lastCount := Tab.set (fun _ => 0) v.lastCount 0 n } := by
    simp [Stream.enterLoop, hn.ne', Stream.setRow, hloops]
  have hgo : (v.setRow 0 0).goTo (v.pc + 1) = { v.setRow 0 0 with
      pc := v.pc + 1, done := 0, inBufA := [], inBufB := [], outBuf := [], stall := .none, wait := none } := by
    simp [Stream.goTo, Stream.setRow, hloops, settleLoops]
  rw [henter, hgo]
  exact { pc := by simp, loops := by simp, row := by rw [Nat.zero_div]; exact row_setRow_same hrows 0 0, rows := Tab.wf_set hrows 0 0, running := rfl }

theorem dvd_of_body_end (h : i % m + 1 = m) : m ∣ i + 1 := Nat.dvd_of_mod_eq_zero (by rw [← Nat.mod_add_mod, h, Nat.mod_self])

/-- Before the end of the body the stream goes to the instruction that follows. -/
theorem InLoop.next_of_lt (hi : i % m + 1 < m) (h : InLoop v n m i x) : InLoop v n m (i + 1) x.next := by
  obtain ⟨hpc, hloops, hrow, hrows, hrunning⟩ := h
  have hmod : (i + 1) % m = i % m + 1 := by rw [Nat.add_mod, Nat.mod_eq_of_lt (a := 1) (by omega), Nat.mod_eq_of_lt hi]
  have hdiv : (i + 1) / m = i / m := Nat.succ_div_of_not_dvd fun hd => by simp [Nat.mod_eq_zero_of_dvd hd] at hmod
  have hsettle : settleLoops (x.pc + 1) x.loops x = (x.pc + 1, x.loops, x) := by
    rw [hloops]
    exact settleLoops_inside (by simp only; omega) ..
  rw [next_of_settleLoops hsettle]
  exact { pc := by simp only; omega, loops := by rw [hdiv]; exact hloops, row := by rw [hdiv]; exact hrow, rows := hrows, running := hrunning }

/-- At the end of the body the stream starts the next iteration, if there is one. -/
theorem InLoop.next_of_eq (hend : i % m + 1 = m) (hi : i / m + 1 < n) (h : InLoop v n m i x) : InLoop v n m (i + 1) x.next := by
  obtain ⟨hpc, hloops, hrow, hrows, hrunning⟩ := h
  have hdvd := dvd_of_body_end hend
  have hdiv : (i + 1) / m = i / m + 1 := Nat.succ_div_of_dvd hdvd
  have hpcEnd : x.pc + 1 = v.pc + 1 + m := by omega
  have hsettle : settleLoops (x.pc + 1) x.loops x =
      (v.pc + 1, [{ first := v.pc + 1, len := m, count := n, iter := i / m + 1 }], x.setRow 0 (i / m + 1)) := by
    rw [hloops, hpcEnd]
    exact settleLoops_again (f := ⟨v.pc + 1, m, n, i / m⟩) hi ..
  rw [next_of_settleLoops hsettle]
  exact { pc := by rw [Nat.mod_eq_zero_of_dvd hdvd], loops := by rw [hdiv], row := by rw [hdiv]; exact row_setRow_same hrows 0 (i / m + 1)
          rows := Tab.wf_set hrows 0 (i / m + 1), running := hrunning }

theorem InLoop.next (hm : 0 < m) (hi : i + 1 < n * m) (h : InLoop v n m i x) : InLoop v n m (i + 1) x.next := by
  by_cases hend : i % m + 1 = m
  · refine h.next_of_eq hend ?_
    rw [← Nat.succ_div_of_dvd (dvd_of_body_end hend)]
    exact (Nat.div_lt_iff_lt_mul hm).mpr hi
  · exact h.next_of_lt (by have := Nat.mod_lt i hm; omega)

theorem InLoop.next_last (hm : 0 < m) (hi : i + 1 = n * m) (h : InLoop v n m i x) : PastLoop v n m x.next := by
  obtain ⟨hpc, hloops, hrow, -, -⟩ := h
  have hdiv : i / m + 1 = n := by
    rw [← Nat.succ_div_of_dvd (hi ▸ Nat.dvd_mul_left m n), hi, Nat.mul_div_cancel n hm]
  have hpcEnd : x.pc + 1 = v.pc + 1 + m := by
    have hsplit := Nat.div_add_mod i m
    rw [← hdiv, Nat.succ_mul, Nat.mul_comm] at hi
    omega
  have hsettle : settleLoops (x.pc + 1) x.loops x = (v.pc + 1 + m, [], x) := by
    rw [hloops, hpcEnd]
    exact settleLoops_last (f := ⟨v.pc + 1, m, n, i / m⟩) hdiv ..
  rw [next_of_settleLoops hsettle]
  exact { pc := rfl, loops := rfl, row := hrow.trans (by omega) }

theorem inLoop_iterate (hn : 0 < n) (hm : 0 < m) (hloops : v.loops = []) (hrows : Tab.wf (fun _ => 0) v.rows = true) :
    ∀ i < n * m, InLoop v n m i (Nat.iterate Stream.next i (v.enterLoop 0 n m))
  | 0, _ => inLoop_enterLoop hn hloops hrows
  | i + 1, hi => by
    rw [Function.iterate_succ_apply']
    exact (inLoop_iterate hn hm hloops hrows i (by omega)).next hm hi

/-- Settles O37: inside the loop `InLoop` is kept by every instruction but the last, which leaves the loop. -/
theorem loopRepeatsItsBody : Obligations.LoopRepeatsItsBody := by
  unfold Obligations.LoopRepeatsItsBody
  intro v n m hn hm hloops hrows
  have inside := inLoop_iterate hn hm hloops hrows
  obtain ⟨l, hl⟩ : ∃ l, n * m = l + 1 := Nat.exists_eq_succ_of_ne_zero (Nat.mul_pos hn hm).ne'
  have past : PastLoop v n m (Nat.iterate Stream.next (n * m) (v.enterLoop 0 n m)) := by
    rw [hl, Function.iterate_succ_apply']
    exact (inside l (by omega)).next_last hm hl.symm
  exact ⟨fun i hi => ⟨(inside i hi).pc, (inside i hi).row, (inside i hi).running⟩, past.pc, past.loops, past.row⟩

end Sys2Proof.Machine
end

section
/-! Streams: the issue of an instruction (R184), the rows of the engines' opcodes, and the control instructions (R185 to R187). -/
namespace Sys2Proof.Machine

/-! ### The issue of an instruction -/

section
variable {s u : State} {t k op : Nat} {w : StreamWord} {x : Seat} {work : Seat → Eng Unit}

theorem issue_of_ok (hmay : s.canIssue t k op w = true) (hseat : s.seat? t k = some x) (hwork : work x s = .ok () u) :
    s.issue t k op w work = (u.updStream t k Stream.next).settleTile t := by
  simp only [State.issue, hmay, if_true, hseat, hwork]

theorem issue_of_error {h : Halt} (hmay : s.canIssue t k op w = true) (hseat : s.seat? t k = some x) (hwork : work x s = .error h u) :
    s.issue t k op w work = (u.halted x h).settleTile t := by
  simp only [State.issue, hmay, if_true, hseat, hwork]

theorem issue_of_not (h : s.canIssue t k op w = false ∨ s.seat? t k = none) : s.issue t k op w work = s := by
  have hnone : (if s.canIssue t k op w then s.seat? t k else none) = none := by rcases h with h | h <;> simp [h]
  rw [State.issue, hnone]

theorem issueAt_of_seat (hmay : s.canIssue t k op w = true) (hseat : s.seat? t k = some x) (go : Stream → Stream) :
    s.issueAt t k op w go = (s.updStream t k go).settleTile t := by
  simp only [State.issueAt, hmay, if_true, hseat]

end

/-! ### The rows of the engines' opcodes -/

/-- A row's command issues the row's opcode on the row's stream, with the row's work. -/
def RowIssues (t : Fin 576) (w : StreamWord) (row : Instr × Nat × Nat × (Seat → Eng Unit)) : Prop :=
  ∀ s : State, exec row.1 s = .next (s.issue t row.2.1 row.2.2.1 w row.2.2.2)

theorem engineRows_issue {t : Fin 576} {k : StreamCode} {w : StreamWord} : ∀ row ∈ engineRows t k w, RowIssues t w row := by
  simp only [engineRows, engineRows1, engineRows2, engineRows3, engineRows4, List.forall_mem_append, List.forall_mem_cons, List.not_mem_nil, false_imp_iff,
    implies_true, and_true]
  and_intros <;> exact fun _ => rfl

/-! ### The control instructions -/

section
variable {t : Fin 576} {k : StreamCode} {w : StreamWord} {s : State}

theorem exec_nop : exec (.nop t k w) s = .next (s.issueAt t (streamCode k) 0x00 w Stream.next) := rfl
theorem exec_endInstr : exec (.endInstr t k w) s = .next (s.issueAt t (streamCode k) 0x0F w (fun v => { v with running := false })) := rfl

theorem enterLoop_zero (v : Stream) (c len : Nat) : v.enterLoop c 0 len = v.goTo (v.pc + 1 + len) := if_pos rfl

theorem exec_loop : exec (.loop t k w) s = .next (s.issueAt t (streamCode k) 0x01 w (fun v =>
    if w.count = 0 then v.goTo (v.pc + 1 + w.imm.toNat) else v.enterLoop (w.mode.toNat % 8) w.count.toNat w.imm.toNat)) := by
  refine congrArg (fun go => Host.Outcome.next (s.issueAt t (streamCode k) 0x01 w go)) (funext fun v => ?_)
  split
  · next h => rw [h]; exact enterLoop_zero ..
  · rfl

theorem exec_cmpset : exec (.cmpset t k w) s = .next (s.issueAt t (streamCode k) 0x02 w (fun v => { v.next with
    comps := Tab.set (fun _ => none) v.comps (w.mode.toNat % 4) (some { counter := w.imm.toNat % 8, rel := w.imm.toNat / 16 % 8, value := w.count.toNat }) })) := by
  have hcomps (v : Stream) : v.next.comps = v.comps := goTo_comps ..
  show execCmpset t k w s = _
  simp only [execCmpset, Stream.bindComparator, hcomps]

theorem exec_whenInstr : exec (.whenInstr t k w) s = .next (s.issueAt t (streamCode k) 0x03 w (fun v =>
    if v.compare (w.mode.toNat % 4) ≠ w.mode.getLsbD 2 then v.next else v.goTo (v.pc + 1 + w.count.toNat))) := by
  show execWhenInstr t k w s = _
  simp only [execWhenInstr, bne_iff_ne]

end

/-- Settles O36: every row issues through `State.issue`, and every control instruction through `State.issueAt`. -/
theorem instructionsIssue : Obligations.InstructionsIssue := by
  unfold Obligations.InstructionsIssue
  refine ⟨fun t k w c code opcode work s hrow => ?_, fun t k w x s hseat => ?_⟩
  · have hexec : exec c s = .next (s.issue t code opcode w work) := engineRows_issue _ hrow s
    rw [hexec]
    exact ⟨fun x hmay hseat => ⟨fun u hu => congrArg _ (issue_of_ok hmay hseat hu), fun h u hu => congrArg _ (issue_of_error hmay hseat hu)⟩,
      fun h => congrArg _ (issue_of_not h)⟩
  · have moves {opcode : Nat} {c : Instr} {f : Stream → Stream} (hexec : exec c s = .next (s.issueAt t (streamCode k) opcode w f))
        (hmay : s.canIssue t (streamCode k) opcode w = true) : exec c s = .next ((s.updStream t (streamCode k) f).settleTile t) :=
      hexec.trans (congrArg _ (issueAt_of_seat hmay hseat f))
    exact ⟨moves exec_nop, moves exec_endInstr, moves exec_loop, moves exec_cmpset, moves exec_whenInstr⟩

end Sys2Proof.Machine
end

section
/-! Waits, posts, exchanges, feeders, slots and stalls (R97, R191, R193, R194, R202, R208): what each command does in the circumstances in which it acts. -/
namespace Sys2Proof.Machine

variable {s u : State} {t : Fin 576} {k : StreamCode} {x : Seat}

/-! ### Semaphore waits (R193) -/

section
variable {pair n : Nat} {free : Bool}

theorem semTake_of_le (h : n ≤ s.semCount t pair free) : s.semTake t pair free n = some (s.setSem t pair free (s.semCount t pair free - n)) := if_pos h
theorem semTake_of_not_le (h : ¬ n ≤ s.semCount t pair free) : s.semTake t pair free n = none := if_neg h

theorem exec_swait {w : StreamWord} (hmay : s.canIssue t (streamCode k) 0x04 w = true) (hseat : s.seat? t (streamCode k) = some x) :
    let pair := w.imm.toNat % 32
    let free := w.mode.getLsbD 0
    let n := w.count.toNat
    exec (.swait t k w) s = .next (if n ≤ s.semCount t pair free then
        (s.setSem t pair free (s.semCount t pair free - n)).updStream t (streamCode k) Stream.next
      else s.updStream t (streamCode k) (fun v => { v with stall := .sem, wait := some (pair, free, n) })) := by
  show execSwait t k w s = _
  by_cases h : w.count.toNat ≤ s.semCount t (w.imm.toNat % 32) (w.mode.getLsbD 0)
  · simp only [execSwait, State.swait, hmay, if_true, hseat, semTake_of_le h, h]
  · simp only [execSwait, State.swait, hmay, if_true, hseat, semTake_of_not_le h, h, if_false]

theorem exec_swaitSatisfied (hwait : (s.stream t (streamCode k)).wait = some (pair, free, n)) (hseat : s.seat? t (streamCode k) = some x) :
    exec (.swaitSatisfied t k) s = .next (if n ≤ s.semCount t pair free then
      (s.setSem t pair free (s.semCount t pair free - n)).updStream t (streamCode k) Stream.next else s) := by
  show execSwaitSatisfied t k s = _
  by_cases h : n ≤ s.semCount t pair free
  · simp only [execSwaitSatisfied, hwait, hseat, semTake_of_le h, h, if_true]
  · simp only [execSwaitSatisfied, hwait, hseat, semTake_of_not_le h, h, if_false]

end

/-! ### Posts and exchanges (R97, R193, R194) -/

theorem exec_spostTakesEffect {a : Post} {j i : Nat} (hrun : s.effectsRun t = true) (hdue : (s.tile t).posts.find? (s.tile t).postDue = some a)
    (hop : (s.tile t).op = some (j, i)) :
    let u := s.updTile t (fun v =>
      let v := { v with posts := v.posts.erase a }
      if a.markers then [0, 1, 2, 3].foldl (fun v f => v.setFeeder f ((v.feeder f).drop 1)) v else v)
    exec (.spostTakesEffect t) s = .next (if s.semCount a.tile a.pair a.free + a.amount ≤ 255 then
      (u.setSem a.tile a.pair a.free (s.semCount a.tile a.pair a.free + a.amount)).settleTile t else u.endSoon ⟨j, i⟩ .descMalformed none) := by
  intro u
  show execSpostTakesEffect t s = _
  simp only [execSpostTakesEffect, State.postEffect, hrun, if_true, hdue, hop]
  rfl

theorem exec_exchangeComplete {e : Exchange} {j i : Nat} (hrun : s.effectsRun t = true) (hdue : (s.tile t).exchangeDue = some e)
    (hop : (s.tile t).op = some (j, i)) :
    let u := s.updTile t (fun v => { v with exchanges := v.exchanges.erase e })
    exec (.exchangeComplete t) s = .next (if s.semCount t e.sem false < 255 then (u.setSem t e.sem false (s.semCount t e.sem false + 1)).settleTile t
      else u.endSoon ⟨j, i⟩ .descMalformed none) := by
  intro u
  show execExchangeComplete t s = _
  simp only [execExchangeComplete, State.exchangeDone, hrun, if_true, hdue, hop]
  rfl

/-! ### Feeders (R202) -/

/-- The transfer at the head of a feeder's queue waits for the tile's tracker, unless its requests were sent (R27, R209). -/
theorem exec_feederTransferDone_of_waits {f : Fin 4} (hwaits : s.feederWaits t f = true) (hsent : f.val ∉ (s.tile t).sent) :
    exec (.feederTransferDone t f) s = .next s := by
  show execFeederTransferDone t f s = _
  simp [execFeederTransferDone, State.feederDone, hwaits, hsent]

theorem exec_feederTransferDone {f : Fin 4} {op : BitVec 8} {w : StreamWord} {rows : List Nat} {rest : List FeedCmd}
    (hhead : (s.tile t).feeder f = .transfer op w rows :: rest) (hgo : s.feederWaits t f = false ∨ f.val ∈ (s.tile t).sent)
    (hseat : s.feedSeat? t f = some x) (hwork : feedWork x op.toNat w rows s = .ok () u) :
    exec (.feederTransferDone t f) s =
      .next ((u.updTile t (fun v => { v.setFeeder f rest with sent := v.sent.filter (fun i => i ≠ f.val) })).settleTile t) := by
  have hno : (s.feederWaits t f && !(s.tile t).sent.contains f.val) = false := by rcases hgo with h | h <;> simp [h]
  have hdone : atomically (feedWork x op.toNat w rows) s = .ok () u := by rw [atomically, hwork]
  show execFeederTransferDone t f s = _
  simp only [execFeederTransferDone, State.feederDone, hno, Bool.false_eq_true, if_false, hhead, hseat, hdone]

/-! ### Slots and stalls (R191) -/

theorem exec_queueSlotCommit (q : Fin 48) (hrun : s.effectsRun t = true) :
    let v := s.queue t q
    exec (.queueSlotCommit t q) s = .next (if v.commitDue = 0 then s else (s.setTile t ((s.tile t).setQueue q
      { v with commitDue := v.commitDue - 1, committed := v.committed + 1, prodSlot := (v.prodSlot + 1) % (s.qcfgAct t q).slots })).settleTile t) := by
  intro v
  show execQueueSlotCommit t q s = _
  simp [execQueueSlotCommit, State.slotCommit, hrun, v]

theorem exec_queueSlotRelease (q : Fin 48) (hrun : s.effectsRun t = true) (hdue : 0 < (s.queue t q).releaseDue) (hheld : 0 < (s.queue t q).committed) :
    let v := s.queue t q
    exec (.queueSlotRelease t q) s = .next ((s.setTile t ((s.tile t).setQueue q
      { v with releaseDue := v.releaseDue - 1, committed := v.committed - 1, consSlot := (v.consSlot + 1) % (s.qcfgAct t q).slots })).settleTile t) := by
  intro v
  show execQueueSlotRelease t q s = _
  simp [execQueueSlotRelease, State.slotRelease, hrun, v, hdue.ne', hheld.ne']

/-- While a halt holds the op neither end of a queue moves (R394). -/
theorem exec_queueSlotCommit_of_held (q : Fin 48) (hheld : s.effectsRun t = false) : exec (.queueSlotCommit t q) s = .next s := by
  show execQueueSlotCommit t q s = _
  simp [execQueueSlotCommit, State.slotCommit, hheld]

theorem exec_queueSlotRelease_of_held (q : Fin 48) (hheld : s.effectsRun t = false) : exec (.queueSlotRelease t q) s = .next s := by
  show execQueueSlotRelease t q s = _
  simp [execQueueSlotRelease, State.slotRelease, hheld]

theorem exec_engineStallResume (hover : s.stallOver t (streamCode k) = true) :
    exec (.engineStallResume t k) s = .next (s.updStream t (streamCode k) (fun v => { v with stall := .none })) :=
  congrArg _ (if_pos hover)

/-! ### Deadlock (R208) -/

theorem exec_deadlockTimeout {o : OpRef} {j : Job} {r : OpRec} (hop : s.op? o = some (j, r))
    (hcase : r.phase = .running ∧ !r.halted ∧ s.power.ref ≠ .stopped ∧ s.power.state = .m0 ∧ s.deadlocked r) :
    exec (.deadlockTimeout o) s = .next (s.endNow o .descMalformed none) := by
  show execDeadlockTimeout o s = _
  rw [execDeadlockTimeout, hop]
  exact congrArg _ (if_pos hcase)

/-- Settles O38: each command's own equation, in the circumstances in which it acts; a held op meets `effectsRun` with false. -/
theorem postsAndSlotsComplete : Obligations.PostsAndSlotsComplete := by
  unfold Obligations.PostsAndSlotsComplete
  refine ⟨⟨fun t k w x s hmay hseat => exec_swait hmay hseat, fun t k x pair n free s hwait hseat => exec_swaitSatisfied hwait hseat,
      fun t a j i s hrun hdue hop => exec_spostTakesEffect hrun hdue hop, fun t e j i s hrun hdue hop => exec_exchangeComplete hrun hdue hop⟩,
    fun t f op w rows rest x s u hhead hgo hseat hwork => exec_feederTransferDone hhead hgo hseat hwork,
    fun t f s hwaits hsent => exec_feederTransferDone_of_waits hwaits hsent,
    fun t q s => ⟨fun hrun => exec_queueSlotCommit q hrun, fun hrun hdue hheld => exec_queueSlotRelease q hrun hdue hheld,
      fun hheld => ⟨exec_queueSlotCommit_of_held q hheld, exec_queueSlotRelease_of_held q hheld⟩⟩,
    fun t k s hover => exec_engineStallResume hover,
    fun o j r s hop hphase hhalt href hpower hdead => exec_deadlockTimeout hop ⟨hphase, by simp [hhalt], href, hpower, hdead⟩⟩

end Sys2Proof.Machine
end

section
/-! The address map finds every register again (R435, R441 to R448): each block's layout at its offsets, and the blocks in the physical-function BAR0. -/
namespace Sys2Proof.Machine

/-! ### The layouts of the blocks -/

theorem GReg.ofOff_off (r : GReg) : GReg.ofOff r.off = some r ∧ r.off < 0x100000 := by
  cases r with
  | diePwr n | mcEcc n | partState n | ptRoot n | qlPortStatus n | spanCfg n | spanVa n | spanSize n => revert n; decide +kernel
  | _ => decide +kernel

theorem HReg.ofOff_off (r : HReg) : HReg.ofOff r.off = some r ∧ r.off < 0x40000 := by
  cases r with
  | fcAlarmData n => revert n; decide +kernel
  | _ => decide +kernel

theorem DReg.ofOff_off (r : DReg) : DReg.ofOff r.off = some r ∧ r.off < 0x80000 := by
  cases r <;> decide +kernel

theorem TReg.ofOff_off (r : TReg) : TReg.ofOff r.off = some r ∧ r.off < 0x2000 := by
  cases r with
  | qcfgLo n | qcfgHi n | qstat n | sem n => revert n; decide +kernel
  | _ => decide +kernel

theorem PReg.ofOff_off (r : PReg) : PReg.ofOff r.off = some r ∧ r.off < 0x10000 := by
  obtain ⟨place, -, small⟩ := vfPlace_off r
  refine ⟨?_, small⟩
  unfold vfPlace at place
  split at place
  · cases place
  · split at place
    · cases place
    · split at place
      next found => cases place; exact found
      · cases place

/-! ### The blocks of the physical-function BAR0 -/

/-- An offset in part `i` of a region of equal parts. -/
theorem regionIdx_part {n base stride o : Nat} (i : Fin n) (h : o < stride) : regionIdx n base stride (base + stride * i.val + o) = some (i, o) := by
  have part : (stride * i.val + o) / stride = i.val := by rw [Nat.mul_add_div (by omega), Nat.div_eq_of_lt h, Nat.add_zero]
  have rest : (stride * i.val + o) % stride = o := by rw [Nat.mul_add_mod, Nat.mod_eq_of_lt h]
  simp [regionIdx, part, rest, Nat.add_assoc]

theorem regionIdx_below {n base stride a : Nat} (h : a < base) : regionIdx n base stride a = none := by
  rw [regionIdx, dif_neg (by omega)]

theorem regionIdx_above {n base stride a : Nat} (hs : 0 < stride) (h : base + stride * n ≤ a) : regionIdx n base stride a = none := by
  have outside : n ≤ (a - base) / stride := (Nat.le_div_iff_mul_le hs).2 (by rw [Nat.mul_comm]; omega)
  rw [regionIdx, dif_neg (by omega)]

theorem pfBlock_hank (h : Fin 4) {o : Nat} (ho : o < 0x40000) : pfBlock (0x100000 + 0x40000 * h.val + o) = .hank h o := by
  rw [pfBlock, if_neg (by omega), regionIdx_part h ho]

theorem pfBlock_part (p : Fin 64) {o : Nat} (ho : o < 0x10000) : pfBlock (0x800000 + 0x10000 * p.val + o) = .window p o := by
  rw [pfBlock, if_neg (by omega), regionIdx_above (by decide) (by omega)]
  dsimp only
  rw [if_neg (by omega), regionIdx_part p ho]

theorem pfBlock_die (d : Fin 18) {o : Nat} (ho : o < 0x100000) : pfBlock (0x1000000 + 0x100000 * d.val + o) = dieBlock d o := by
  rw [pfBlock, if_neg (by omega), regionIdx_above (by decide) (by omega)]
  dsimp only
  rw [if_neg (by omega), regionIdx_above (by decide) (by omega)]
  dsimp only
  rw [regionIdx_part d ho]

theorem dieBlock_tile (t : Fin 576) {o : Nat} (ho : o < 0x2000) :
    dieBlock ⟨t.val / 32, by omega⟩ (0x80000 + 0x2000 * (t.val % 32) + o) = .tile t o := by
  have sub : 0x80000 + 0x2000 * (t.val % 32) + o - 0x80000 = 0x2000 * (t.val % 32) + o := by omega
  have place : (0x2000 * (t.val % 32) + o) / 0x2000 = t.val % 32 := by rw [Nat.mul_add_div (by decide), Nat.div_eq_of_lt ho, Nat.add_zero]
  have rest : (0x2000 * (t.val % 32) + o) % 0x2000 = o := by rw [Nat.mul_add_mod, Nat.mod_eq_of_lt ho]
  have number : t.val / 32 * 32 + t.val % 32 = t.val := Nat.div_add_mod' ..
  have inside : 0x80000 ≤ 0x80000 + 0x2000 * (t.val % 32) + o ∧ (0x80000 + 0x2000 * (t.val % 32) + o - 0x80000) / 0x2000 < 32 := by omega
  rw [dieBlock, dif_pos inside]
  simp only [sub, place, rest, number]

/-- Every register lies at its address. -/
theorem Reg.ofAddr_addr (r : Reg) : Reg.ofAddr r.addr = some r := by
  unfold Reg.ofAddr
  cases r with
  | glob r =>
    obtain ⟨found, small⟩ := r.ofOff_off
    rw [Reg.addr, pfBlock, if_pos small, Block.reg, found]; rfl
  | hank h r =>
    obtain ⟨found, small⟩ := r.ofOff_off
    rw [Reg.addr, pfBlock_hank h small, Block.reg, found]; rfl
  | die d r =>
    obtain ⟨found, small⟩ := r.ofOff_off
    rw [Reg.addr, pfBlock_die d (by omega), dieBlock, dif_neg (by omega), Block.reg, found]; rfl
  | tile t r =>
    obtain ⟨found, small⟩ := r.ofOff_off
    have e : Reg.addr (.tile t r) = 0x1000000 + 0x100000 * (t.val / 32) + (0x80000 + 0x2000 * (t.val % 32) + r.off) := by rw [Reg.addr]; omega
    rw [e, pfBlock_die ⟨t.val / 32, by omega⟩ (by omega), dieBlock_tile t small, Block.reg, found]; rfl
  | part p r =>
    obtain ⟨found, small⟩ := r.ofOff_off
    rw [Reg.addr, pfBlock_part p small, Block.reg, found]; rfl

/-- What an unlisted address reads as is the reset value of the register there. -/
theorem regsNamed : RegsNamed := fun r => by rw [regInit, r.ofAddr_addr]

end Sys2Proof.Machine
end
section
/-! The canonical form of the state (`State.Inv`) is kept by everything that the model builds a command from. Here: its rules for the control structures
of the model, for accesses that may fail, and for the work of the engines. -/
namespace Sys2Proof.Machine

namespace State.Inv

variable {s t : State}

theorem ite {c : Prop} [Decidable c] (hs : s.Inv) (ht : t.Inv) : (if c then s else t).Inv := by
  split
  · exact hs
  · exact ht

theorem foldl {α : Type} {f : State → α → State} (hs : s.Inv) (l : List α) (hf : ∀ u x, u.Inv → (f u x).Inv) : (l.foldl f s).Inv :=
  Keeps.foldl l f hf hs

theorem foldl_fst {α β : Type} {f : State × β → α → State × β} {a : State × β} (ha : a.1.Inv) (l : List α)
    (hf : ∀ b x, b.1.Inv → (f b x).1.Inv) : (l.foldl f a).1.Inv := by
  induction l generalizing a with
  | nil => exact ha
  | cons x rest ih => exact ih (hf a x ha)

theorem foldl_snd {α β : Type} {f : β × State → α → β × State} {a : β × State} (ha : a.2.Inv) (l : List α)
    (hf : ∀ b x, b.2.Inv → (f b x).2.Inv) : (l.foldl f a).2.Inv := by
  induction l generalizing a with
  | nil => exact ha
  | cons x rest ih => exact ih (hf a x ha)

theorem snd_ite {α : Type} {c : Prop} [Decidable c] {x y : α × State} (hx : x.2.Inv) (hy : y.2.Inv) : (if c then x else y).2.Inv := by
  split
  · exact hx
  · exact hy

/-- The state of a pair that is named by an equation. -/
theorem snd {α : Type} {r : α × State} {a : α} (hr : r.2.Inv) (e : r = (a, s)) : s.Inv := by
  subst e; exact hr

end State.Inv

/-- An access that completes leaves a state with a property: in the part `left` of its result. -/
def LeftOk {ε α : Type} (P : State → Prop) (left : α → State) : Except ε α → Prop
  | .ok a => P (left a)
  | .error _ => True

/-- An access that completes leaves a state in canonical form. -/
def State.InvOk {ε α : Type} (left : α → State) (r : Except ε α) : Prop := LeftOk State.Inv left r

/-- An operation that finds room leaves a state in canonical form. -/
def State.InvSome : Option State → Prop
  | some t => t.Inv
  | none => True

namespace LeftOk

variable {ε α β : Type} {P : State → Prop} {left : α → State} {r : Except ε α}

theorem of_ok {a : α} (hr : LeftOk P left r) (e : r = .ok a) : P (left a) := by
  subst e; exact hr

/-- Accesses one after the other, the first failure ending them. -/
theorem foldl {f : Except ε α → β → Except ε α} (hr : LeftOk P left r) (l : List β) (hf : ∀ r x, LeftOk P left r → LeftOk P left (f r x)) :
    LeftOk P left (l.foldl f r) := by
  induction l generalizing r with
  | nil => exact hr
  | cons x rest ih => exact ih (hf r x hr)

theorem mono {Q : State → Prop} (hr : LeftOk P left r) (h : ∀ {u}, P u → Q u) : LeftOk Q left r := by
  cases r with
  | error _ => trivial
  | ok a => exact h hr

theorem map {left' : β → State} {f : α → β} (hr : LeftOk P left r) (hf : ∀ a, P (left a) → P (left' (f a))) : LeftOk P left' (r.map f) := by
  cases r with
  | error _ => trivial
  | ok a => exact hf a hr

end LeftOk

theorem State.InvSome.of_some {t : State} {r : Option State} (hr : State.InvSome r) (e : r = some t) : t.Inv := by
  subst e; exact hr

theorem State.InvSome.getD {s : State} {r : Option State} (hr : State.InvSome r) (hs : s.Inv) : (r.getD s).Inv := by
  cases r with
  | none => exact hs
  | some _ => exact hr

/-- A piece of work leaves a state in canonical form, whether it completes or halts. -/
def State.InvBy {α : Type} : EStateM.Result Halt State α → Prop
  | .ok _ t => t.Inv
  | .error _ t => t.Inv

/-- A piece of engine work keeps the canonical form. -/
structure EngInv {α : Type} (m : Eng α) : Prop where
  /-- Work that is written out as a function of the state. -/
  of ::
  run : ∀ s : State, s.Inv → State.InvBy (m s)

namespace State.Inv

variable {s t : State} {α : Type} {m : Eng α}

theorem run (hs : s.Inv) (hm : EngInv m) : State.InvBy (m s) := hm.run s hs

theorem eng_ok {a : α} (hs : s.Inv) (hm : EngInv m) (e : m s = .ok a t) : t.Inv := by
  have h := hs.run hm
  rw [e] at h
  exact h

theorem eng_error {a : Halt} (hs : s.Inv) (hm : EngInv m) (e : m s = .error a t) : t.Inv := by
  have h := hs.run hm
  rw [e] at h
  exact h

end State.Inv

namespace EngInv

variable {α β : Type}

theorem pure (a : α) : EngInv (pure a : Eng α) := .of fun _ hs => hs

theorem bind {m : Eng α} {f : α → Eng β} (hm : EngInv m) (hf : ∀ a, EngInv (f a)) : EngInv (m >>= f) := by
  refine .of fun s hs => ?_
  show State.InvBy (EStateM.bind m f s)
  unfold EStateM.bind
  split
  · next a t e => exact (hs.eng_ok hm e).run (hf a)
  · next h t e => exact hs.eng_error hm e

theorem map {m : Eng α} (hm : EngInv m) (f : α → β) : EngInv (f <$> m) := by
  refine .of fun s hs => ?_
  show State.InvBy (EStateM.map f m s)
  unfold EStateM.map
  split
  · next a t e => exact hs.eng_ok hm e
  · next h t e => exact hs.eng_error hm e

theorem ite {c : Prop} [Decidable c] {m n : Eng α} (hm : EngInv m) (hn : EngInv n) : EngInv (if c then m else n) := by
  split
  · exact hm
  · exact hn

/-- Two ways to a value, and then the same work. -/
theorem ite_bind {c : Prop} [Decidable c] {m n : Eng α} {f : α → Eng β} (hm : EngInv m) (hn : EngInv n) (hf : ∀ a, EngInv (f a)) :
    EngInv (if c then m >>= f else n >>= f) := .ite (.bind hm hf) (.bind hn hf)

/-- Work under a condition, and then the same work. -/
theorem when_bind {c : Prop} [Decidable c] {m : Eng Unit} {f : Unit → Eng β} (hm : EngInv m) (hf : ∀ a, EngInv (f a)) :
    EngInv (if c then m >>= f else f ()) := .ite (.bind hm hf) (hf ())

theorem when_bind_bind {γ : Type} {c : Prop} [Decidable c] {m : Eng γ} {n : γ → Eng Unit} {f : Unit → Eng β} (hm : EngInv m) (hn : ∀ x, EngInv (n x))
    (hf : ∀ a, EngInv (f a)) : EngInv (if c then m >>= fun x => n x >>= f else f ()) := .ite (.bind hm fun x => .bind (hn x) hf) (hf ())

theorem mapM {f : α → Eng β} {l : List α} (hf : ∀ a, EngInv (f a)) : EngInv (l.mapM f) := by
  induction l with
  | nil => exact .pure _
  | cons a rest ih => rw [List.mapM_cons]; exact .bind (hf a) fun _ => .bind ih fun _ => .pure _

theorem forM {f : α → Eng PUnit} {l : List α} (hf : ∀ a, EngInv (f a)) : EngInv (l.forM f) := by
  induction l with
  | nil => exact .pure _
  | cons a rest ih => exact .bind (hf a) fun _ => ih

theorem foldlM {f : β → α → Eng β} {l : List α} {b : β} (hf : ∀ b a, EngInv (f b a)) : EngInv (l.foldlM f b) := by
  induction l generalizing b with
  | nil => exact .pure _
  | cons a rest ih => rw [List.foldlM_cons]; exact .bind (hf b a) fun _ => ih

theorem engGet : EngInv engGet := .of fun _ hs => hs
theorem engPut {f : State → State} (hf : ∀ s : State, s.Inv → (f s).Inv) : EngInv (engPut f) := .of hf
theorem engFault (st : Status) : EngInv (engFault st : Eng α) := .of fun _ hs => hs
theorem engStall (w : Stall) : EngInv (engStall w : Eng α) := .of fun _ hs => hs

/-- Work whose stall leaves nothing behind. -/
theorem atomically {m : Eng α} (hm : EngInv m) : EngInv (atomically m) := by
  refine .of fun s hs => ?_
  unfold Machine.atomically
  split
  · exact hs
  · exact hs.run hm

end EngInv

end Sys2Proof.Machine
end
section
/-! The updates of the state keep its canonical form: those of fields outside it, and those of a table in it, given that the new table is canonical. -/
namespace Sys2Proof.Machine

namespace State.Inv

variable {s : State}

/-! ### Fields outside the canonical form -/

theorem withCountingPower (hs : s.Inv) (counting power) : State.Inv { s with counting := counting, power := power } := hs
theorem withJobs (hs : s.Inv) (jobs) : State.Inv { s with jobs := jobs } := hs
theorem withJobsNextJob (hs : s.Inv) (jobs nextJob) : State.Inv { s with jobs := jobs, nextJob := nextJob } := hs
theorem withLifecycleIdentityCert (hs : s.Inv) (lifecycle identityCert) :
    State.Inv { s with lifecycle := lifecycle, identityCert := identityCert } := hs
theorem withMemBad (hs : s.Inv) (memBad) : State.Inv { s with memBad := memBad } := hs
theorem withMgmt (hs : s.Inv) (mgmt) : State.Inv { s with mgmt := mgmt } := hs
theorem withPartCmd (hs : s.Inv) (partCmd) : State.Inv { s with partCmd := partCmd } := hs
theorem withPower (hs : s.Inv) (power) : State.Inv { s with power := power } := hs
theorem withPowerMgmtReplayKey (hs : s.Inv) (power mgmt replayKey) : State.Inv { s with power := power, mgmt := mgmt, replayKey := replayKey } := hs
theorem withReservations (hs : s.Inv) (reservations) : State.Inv { s with reservations := reservations } := hs
theorem withReservationsJobsCommits (hs : s.Inv) (reservations jobs commits) :
    State.Inv { s with reservations := reservations, jobs := jobs, commits := commits } := hs
theorem withRetireQueue (hs : s.Inv) (retireQueue) : State.Inv { s with retireQueue := retireQueue } := hs
theorem withRetirements (hs : s.Inv) (retirements) : State.Inv { s with retirements := retirements } := hs
theorem withRetiring (hs : s.Inv) (retiring) : State.Inv { s with retiring := retiring } := hs
theorem withRetiringRetirements (hs : s.Inv) (retiring retirements) : State.Inv { s with retiring := retiring, retirements := retirements } := hs
theorem withSegFault (hs : s.Inv) (segFault) : State.Inv { s with segFault := segFault } := hs
theorem withService (hs : s.Inv) (service) : State.Inv { s with service := service } := hs
theorem withStoreBusyStoreQueueAttested (hs : s.Inv) (storeBusy storeQueue attested) :
    State.Inv { s with storeBusy := storeBusy, storeQueue := storeQueue, attested := attested } := hs
theorem withStoreStoreBusyStoreQueue (hs : s.Inv) (store storeBusy storeQueue) :
    State.Inv { s with store := store, storeBusy := storeBusy, storeQueue := storeQueue } := hs

/-! ### Tables -/

theorem withParts (hs : s.Inv) {m : Tab Part} (h : Tab.wf (fun _ => ({} : Part)) m = true) : State.Inv { s with parts := m } := by
  obtain ⟨mem, host, regs, active, -, rest⟩ := hs
  exact ⟨mem, host, regs, active, h, rest⟩

theorem withTiles (hs : s.Inv) {m : Tab Tile} (h : Tab.wf (fun _ => ({} : Tile)) m = true) : State.Inv { s with tiles := m } := by
  obtain ⟨mem, host, regs, active, parts, -, rest⟩ := hs
  exact ⟨mem, host, regs, active, parts, h, rest⟩

theorem withSites (hs : s.Inv) {m : Tab Site} (h : Tab.wf (fun _ => ({} : Site)) m = true) : State.Inv { s with sites := m } := by
  obtain ⟨mem, host, regs, active, parts, tiles, -, rest⟩ := hs
  exact ⟨mem, host, regs, active, parts, tiles, h, rest⟩

theorem parts (hs : s.Inv) : Tab.wf (fun _ => ({} : Part)) s.parts = true := by
  obtain ⟨-, -, -, -, parts, -⟩ := hs
  exact parts

theorem sites (hs : s.Inv) : Tab.wf (fun _ => ({} : Site)) s.sites = true := by
  obtain ⟨-, -, -, -, -, -, sites, -⟩ := hs
  exact sites

theorem tiles (hs : s.Inv) : Tab.wf (fun _ => ({} : Tile)) s.tiles = true := by
  obtain ⟨-, -, -, -, -, tiles, -⟩ := hs
  exact tiles

/-- The register file and the active copies lose the entries at some addresses. -/
theorem keepRegs (hs : s.Inv) (p : Nat → Bool) : State.Inv { s with regs := Tab.keep p s.regs, active := Tab.keep p s.active } := by
  obtain ⟨mem, host, regs, active, rest⟩ := hs
  exact ⟨mem, host, Tab.wf_keep p regs, Tab.wf_keep p active, rest⟩

/-- Every site is written anew from what it was. -/
theorem mapSites (hs : s.Inv) (f : Nat → Site → Site) :
    State.Inv { s with sites := s.sites.foldl (fun m (d, x) => Tab.set (fun _ => ({} : Site)) m d (f d x)) [] } :=
  hs.withSites (Tab.wf_rebuild s.sites (·.1) (fun q => f q.1 q.2) [] rfl)

end State.Inv

end Sys2Proof.Machine
end
section
/-! The canonical form of a public-key engine: its operand memory, the loaded curves and the point units. -/
namespace Sys2Proof.Machine

namespace Pke

variable {x : Pke}

theorem wf_iff : x.wf = true ↔ Tab.wf (fun _ => ({} : PkeSlot)) x.slots = true ∧ Tab.wf (fun _ => (none : Option PkeCurve)) x.curves = true ∧
    Tab.wf (fun _ => (none : Option PkeRun)) x.units = true := by
  simp only [wf, Bool.and_eq_true, and_assoc]

theorem wf_setSlot (hx : x.wf = true) (i : Nat) (v : PkeSlot) : (x.setSlot i v).wf = true := by
  obtain ⟨slots, curves, units⟩ := wf_iff.1 hx
  exact wf_iff.2 ⟨Tab.wf_set slots i v, curves, units⟩

theorem wf_setUnit (hx : x.wf = true) (u : Nat) (r : Option PkeRun) : (x.setUnit u r).wf = true := by
  obtain ⟨slots, curves, units⟩ := wf_iff.1 hx
  exact wf_iff.2 ⟨slots, curves, Tab.wf_set units u r⟩

theorem wf_setCurve (hx : x.wf = true) (id : Nat) (c : Option PkeCurve) : ({ x with curves := Tab.set (fun _ => none) x.curves id c } : Pke).wf = true := by
  obtain ⟨slots, curves, units⟩ := wf_iff.1 hx
  exact wf_iff.2 ⟨slots, Tab.wf_set curves id c, units⟩

theorem wf_foldl {α : Type} {f : Pke → α → Pke} (hx : x.wf = true) (l : List α) (hf : ∀ y a, y.wf = true → (f y a).wf = true) : (l.foldl f x).wf = true := by
  induction l generalizing x with
  | nil => exact hx
  | cons a rest ih => exact ih (hf x a hx)

theorem wf_invalidate (hx : x.wf = true) (is : List Nat) : (x.invalidate is).wf = true := wf_foldl hx is fun _ _ hy => wf_setSlot hy ..

/-- The engine after a WIPE: its slots are zero, and the curves are gone if it says so. -/
theorem wf_wiped (hx : x.wf = true) (is : List Nat) (all : Bool) (rest : List PkeEntry) :
    ({ is.foldl (fun x i => x.setSlot i {}) x with curves := if all then [] else x.curves, wipes := rest } : Pke).wf = true := by
  obtain ⟨-, curves, -⟩ := wf_iff.1 hx
  obtain ⟨slots, -, units⟩ := wf_iff.1 (wf_foldl (f := fun x i => x.setSlot i {}) hx is fun _ _ hy => wf_setSlot hy ..)
  refine wf_iff.2 ⟨slots, ?_, units⟩
  dsimp only
  split
  · rfl
  · exact curves

theorem wf_stopped (hx : x.wf = true) : x.stopped.wf = true := by
  unfold stopped
  extract_lets y
  have hy : y.wf = true := by
    refine wf_foldl hx _ fun y u hy => ?_
    split
    · exact wf_invalidate (wf_setUnit hy ..) _
    · exact hy
  exact hy

end Pke

/-! ### Tables that are built anew -/

theorem wf_blankTiles (m : Tab Tile) : Tab.wf (fun _ => ({} : Tile)) (blankTiles m) = true := Tab.wf_rebuild m (·.1) (fun q => q.2.blank) [] rfl

theorem wf_coldSites (s : State) : Tab.wf (fun _ => ({} : Site)) s.coldSites = true := Tab.wf_rebuild (List.range 18) (fun d => d) _ [] rfl

end Sys2Proof.Machine
end
section
/-! The canonical form: registers, memory and the numbered parts. -/
namespace Sys2Proof.Machine

variable {s : State}

namespace State.Inv

theorem setPart (hs : s.Inv) (p : Nat) (x : Part) : (s.setPart p x).Inv := Keeps.setPart hs p x
theorem updPart (hs : s.Inv) (p : Nat) (f : Part → Part) : (s.updPart p f).Inv := hs.setPart ..
theorem countBy (hs : s.Inv) (p n k : Nat) : (s.countBy p n k).Inv := hs.updPart ..
theorem countUp (hs : s.Inv) (p n : Nat) : (s.countUp p n).Inv := hs.countBy ..
theorem updRing (hs : s.Inv) (p n : Nat) (f : Ring → Ring) : (s.updRing p n f).Inv := hs.updPart ..
theorem setTile (hs : s.Inv) (t : Nat) (x : Tile) : (s.setTile t x).Inv := Keeps.setTile hs t x
theorem updTile (hs : s.Inv) (t : Nat) (f : Tile → Tile) : (s.updTile t f).Inv := hs.setTile ..
theorem updSite (hs : s.Inv) (d : Nat) (f : Site → Site) : (s.updSite d f).Inv := Keeps.updSite hs d f
theorem setPort (hs : s.Inv) (q : Nat) (x : QPort) : (s.setPort q x).Inv := Keeps.setPort hs q x
theorem updPort (hs : s.Inv) (q : Nat) (f : QPort → QPort) : (s.updPort q f).Inv := hs.setPort ..

theorem setHank (hs : s.Inv) (h : Nat) (x : Hank) (hx : x.pke.wf = true) : (s.setHank h x).Inv := Keeps.setHank hs h x hx

/-- A change of a hank die that leaves its public-key engine in canonical form: as a rule, as it was. -/
theorem updHank (hs : s.Inv) (h : Nat) (f : Hank → Hank) (hf : ∀ x : Hank, x.pke.wf = true → (f x).pke.wf = true := by exact fun _ hx => hx) :
    (s.updHank h f).Inv := Keeps.updHank hs h f hf

theorem setReg (hs : s.Inv) (r : Reg) (v : Word32) : (s.setReg r v).Inv := Keeps.register regsNamed hs r v
theorem updReg (hs : s.Inv) (r : Reg) (f : Word32 → Word32) : (s.updReg r f).Inv := hs.setReg ..
theorem setAct (hs : s.Inv) (r : Reg) (v : Word32) : (s.setAct r v).Inv := Keeps.setAct hs r v (regsNamed r)
theorem setField (hs : s.Inv) (r : Reg) (hi lo v : Nat) : (s.setField r hi lo v).Inv := hs.updReg ..
theorem bump (hs : s.Inv) (r : Reg) (hi lo : Nat) : (s.bump r hi lo).Inv := Keeps.count regsNamed hs r hi lo
theorem putActive (hs : s.Inv) (vs : List (Nat × Word32)) : (s.putActive vs).Inv := Keeps.putActive hs vs

theorem emit (hs : s.Inv) (o : Output) : (s.emit o).Inv := hs
theorem draw (hs : s.Inv) : s.draw.2.Inv := hs

theorem drawBelow (hs : s.Inv) (m n : Nat) : (s.drawBelow m n).2.Inv := by
  induction n generalizing s with
  | zero => exact hs
  | succ n ih => exact ih hs.draw

theorem storeLine (hs : s.Inv) (pa : Nat) (bs : List Byte) (keep : Option Nat) : (s.storeLine pa bs keep).Inv := Keeps.storeLine hs pa bs keep
theorem storePhys (hs : s.Inv) (pa : Nat) (bs : List Byte) (keep : Option Nat) : (s.storePhys pa bs keep).Inv := Keeps.storePhys hs pa bs keep
theorem writeHost (hs : s.Inv) (h a : Nat) (bs : List Byte) : (s.writeHost h a bs).Inv := Keeps.writeHost hs h a bs

theorem dropLeaves (hs : s.Inv) (p : Nat) : (s.dropLeaves p).Inv :=
  hs.mapSites fun _ x => { x with leaves := x.leaves.filter (fun e => decide (e.part ≠ p)) }

theorem writeVA (hs : s.Inv) (p va : Nat) (bs : List Byte) (k : Access) (unit : Option Nat) : State.InvOk id (s.writeVA p va bs k unit) := by
  unfold State.writeVA
  split
  · trivial
  · exact hs.foldl _ fun _ _ hu => hu.storePhys ..

theorem updJob (hs : s.Inv) (j : Nat) (f : Job → Job) : (s.updJob j f).Inv := hs
theorem updOp (hs : s.Inv) (o : OpRef) (f : OpRec → OpRec) : (s.updOp o f).Inv := hs

end State.Inv

end Sys2Proof.Machine
end
section
/-! What the caches of the sites take in: a read through a die cache, and a translation whose leaf entry a die's unit keeps, change nothing else of the state (R219, R230). -/
namespace Sys2Proof.Machine

/-- Nothing but the die caches and the leaf entries of the sites differs, and the state is in canonical form. -/
structure State.CachesOnly (s t : State) : Prop where
  inv : t.Inv
  eq : t = { s with sites := t.sites }
  site (d : Nat) : ∃ cache leaves, t.site d = { s.site d with cache := cache, leaves := leaves }

namespace State.CachesOnly

variable {s₀ s t : State}

theorem refl (hs : s.Inv) : s.CachesOnly s := ⟨hs, rfl, fun _ => ⟨_, _, rfl⟩⟩

theorem ite {c : Prop} [Decidable c] (hs : s₀.CachesOnly s) (ht : s₀.CachesOnly t) : s₀.CachesOnly (if c then s else t) := by
  split
  · exact hs
  · exact ht

theorem foldl {α : Type} {f : State → α → State} (hs : s₀.CachesOnly s) (l : List α) (hf : ∀ u x, s₀.CachesOnly u → s₀.CachesOnly (f u x)) :
    s₀.CachesOnly (l.foldl f s) := by
  induction l generalizing s with
  | nil => exact hs
  | cons x rest ih => exact ih (hf s x hs)

/-! ### What reads as before -/

section
variable (h : s.CachesOnly t)
include h

theorem mem : t.mem = s.mem := by rw [h.eq]
theorem memBad : t.memBad = s.memBad := by rw [h.eq]
theorem regs : t.regs = s.regs := by rw [h.eq]
theorem parts : t.parts = s.parts := by rw [h.eq]
theorem colFenced : t.colFenced = s.colFenced := by rw [h.eq]
theorem reservations : t.reservations = s.reservations := by rw [h.eq]

theorem part (p : Nat) : t.part p = s.part p := by rw [State.part, h.parts]; rfl
theorem hart? (p vh : Nat) : t.hart? p vh = s.hart? p vh := by rw [State.hart?, h.part]; rfl
theorem hartSite (p vh : Nat) : t.hartSite p vh = s.hartSite p vh := by rw [State.hartSite, h.hart?]; rfl
theorem byte (a : Nat) : t.byte a = s.byte a := by rw [State.byte, h.mem]; rfl
theorem readPhys (a n : Nat) : t.readPhys a n = s.readPhys a n := by rw [readPhys_eq, readPhys_eq, h.mem]

theorem lineFenced (l : Nat) : t.lineFenced l = s.lineFenced l := by
  simp only [State.lineFenced, State.column, State.granule, State.reg, h.colFenced, h.regs]

theorem lineBad (l : Nat) : t.lineBad l = s.lineBad l := by rw [State.lineBad, State.lineBad, h.memBad, h.lineFenced]

theorem site_state (d : Nat) : (t.site d).state = (s.site d).state := by
  obtain ⟨cache, leaves, e⟩ := h.site d
  rw [e]

theorem works (d : Nat) : (t.site d).works = (s.site d).works := by
  obtain ⟨cache, leaves, e⟩ := h.site d
  rw [e]; rfl

theorem homeOf (p pa : Nat) : t.homeOf p pa = s.homeOf p pa := by
  simp only [State.homeOf, h.part, h.site_state]

end

/-! ### The operations of the caches -/

theorem updSite (h : s₀.CachesOnly s) (d : Nat) (f : Site → Site)
    (hf : ∀ x : Site, ∃ cache leaves, f x = { x with cache := cache, leaves := leaves } := by exact fun _ => ⟨_, _, rfl⟩) : s₀.CachesOnly (s.updSite d f) := by
  refine ⟨h.inv.updSite d f, ?_, fun k => ?_⟩
  · rw [h.eq]; rfl
  · by_cases hk : k = d
    · subst hk
      obtain ⟨cache, leaves, e⟩ := h.site k
      obtain ⟨cache', leaves', e'⟩ := hf (s.site k)
      rw [site_updSite_same h.inv.sites, e', e]
      exact ⟨cache', leaves', rfl⟩
    · rw [site_updSite_other _ hk]
      exact h.site k

theorem cacheTouch (h : s₀.CachesOnly s) (u : CacheUser) (d line : Nat) : s₀.CachesOnly (s.cacheTouch u d line) := by
  unfold State.cacheTouch
  dsimp only
  split
  · exact h
  · exact h.updSite ..

theorem keepLeaf (h : s₀.CachesOnly s) (p d va : Nat) : s₀.CachesOnly (s.keepLeaf p d va) := by
  unfold State.keepLeaf
  split
  · exact h.updSite ..
  · exact h

theorem keepLeaves (h : s₀.CachesOnly s) (p d : Nat) (rs : List (Nat × Nat)) : s₀.CachesOnly (s.keepLeaves p d rs) := by
  unfold State.keepLeaves
  exact h.foldl _ fun _ _ hu => hu.foldl _ fun _ _ hv => hv.keepLeaf ..

theorem cachedRead (h : s₀.CachesOnly s) (u : CacheUser) (d : Option Nat) (pa va len : Nat) : LeftOk s₀.CachesOnly Prod.snd (s.cachedRead u d pa va len) := by
  unfold State.cachedRead
  dsimp only
  split
  · split
    · trivial
    · exact h.cacheTouch ..
  · split
    · trivial
    · exact h

theorem cachedVA (h : s₀.CachesOnly s) (p : Nat) (d : Option Nat) (va n : Nat) (k : Access) (runtime : Bool) :
    LeftOk s₀.CachesOnly Prod.snd (s.cachedVA p d va n k runtime) := by
  refine LeftOk.foldl (P := s₀.CachesOnly) (r := Except.ok (_, s)) (left := Prod.snd) h _ fun r x hr => ?_
  obtain ⟨a, len⟩ := x
  dsimp only
  split
  · trivial
  · next bs u =>
    have hu : s₀.CachesOnly u := hr
    split
    · trivial
    · split
      · trivial
      · next e =>
        have hread := (hu.cachedRead ..).of_ok e
        split
        · exact hread.keepLeaf ..
        · exact hread

/-! ### The accesses of a core -/

theorem coreLeaf (h : s₀.CachesOnly s) (p vh gpa n : Nat) : s₀.CachesOnly (s.coreLeaf p vh gpa n) := by
  unfold State.coreLeaf
  split
  · exact h.keepLeaves ..
  · exact h

theorem coreRead (h : s₀.CachesOnly s) (p vh gpa n : Nat) : LeftOk s₀.CachesOnly Prod.snd (s.coreRead p vh gpa n) := h.cachedVA ..

theorem vsWalk (h : s₀.CachesOnly s) (p vh : Nat) (c : VsContext) (k : VsKind) (va l a : Nat) : LeftOk s₀.CachesOnly Prod.snd (s.vsWalk p vh c k va l a) := by
  induction l generalizing s a with
  | zero =>
    unfold State.vsWalk
    split
    · trivial
    next e =>
      dsimp only
      split
      · trivial
      · split
        · split
          · exact (h.coreRead ..).of_ok e
          · trivial
        · split <;> trivial
  | succ l ih =>
    unfold State.vsWalk
    split
    · trivial
    next e =>
      dsimp only
      split
      · trivial
      · split
        · split
          · exact (h.coreRead ..).of_ok e
          · trivial
        · split
          · trivial
          · exact ih ((h.coreRead ..).of_ok e) ..

theorem vsAddr (h : s₀.CachesOnly s) (p vh : Nat) (k : VsKind) (va : Nat) : LeftOk s₀.CachesOnly Prod.snd (s.vsAddr p vh k va) := by
  unfold State.vsAddr
  dsimp only
  split
  · split
    · exact h.vsWalk ..
    · trivial
  · split
    · exact h.vsWalk ..
    · trivial
  · exact h

end State.CachesOnly

end Sys2Proof.Machine
end
section
/-! The die caches: every operation keeps the canonical form. -/
namespace Sys2Proof.Machine

variable {s : State}

namespace State.Inv

theorem keepLeaf (hs : s.Inv) (p d va : Nat) : (s.keepLeaf p d va).Inv := ((CachesOnly.refl hs).keepLeaf ..).inv
theorem keepLeaves (hs : s.Inv) (p d : Nat) (rs : List (Nat × Nat)) : (s.keepLeaves p d rs).Inv := ((CachesOnly.refl hs).keepLeaves ..).inv
theorem cacheTouch (hs : s.Inv) (u : CacheUser) (d line : Nat) : (s.cacheTouch u d line).Inv := ((CachesOnly.refl hs).cacheTouch ..).inv

theorem yieldWays (hs : s.Inv) (ds : List Nat) : (s.yieldWays ds).Inv := by
  unfold State.yieldWays
  exact hs.foldl _ fun _ _ hu => hu.updSite ..

theorem cacheRefetch (hs : s.Inv) (d line : Nat) : (s.cacheRefetch d line).Inv := by
  unfold State.cacheRefetch
  split
  · exact hs.updSite ..
  · exact hs

theorem cachedRead (hs : s.Inv) (u : CacheUser) (d : Option Nat) (pa va len : Nat) : State.InvOk Prod.snd (s.cachedRead u d pa va len) :=
  ((CachesOnly.refl hs).cachedRead ..).mono fun h => h.inv

theorem cachedVA (hs : s.Inv) (p : Nat) (d : Option Nat) (va n : Nat) (k : Access) (runtime : Bool) :
    State.InvOk Prod.snd (s.cachedVA p d va n k runtime) := ((CachesOnly.refl hs).cachedVA ..).mono fun h => h.inv

theorem narrowRead (hs : s.Inv) (p t va n : Nat) : State.InvOk Prod.snd (s.narrowRead p t va n) := by
  unfold State.narrowRead
  exact (hs.cachedVA ..).map fun _ hu => (hu.countBy ..).countBy ..

theorem atHome (hs : s.Inv) (p pa va len : Nat) (f : List Byte → List Byte) : State.InvOk id (s.atHome p pa va len f) := by
  unfold State.atHome
  dsimp only
  split
  · trivial
  next e => exact ((hs.cachedRead ..).of_ok e).storePhys ..

end State.Inv

end Sys2Proof.Machine
end
section
/-! The tables of alarms and log entries: every operation keeps the canonical form. -/
namespace Sys2Proof.Machine

variable {s : State}

namespace State.Inv

theorem pathWrite (hs : s.Inv) (h : Fin 4) (r : PathRegs) (v : BitVec 256) : (s.pathWrite h r v).Inv := Keeps.pathWrite regsNamed hs h r v

theorem logRecord (hs : s.Inv) (h : Fin 4) (v : BitVec 256) : (s.logRecord h v).Inv := Keeps.logRecord regsNamed hs h v

theorem traceMark (hs : s.Inv) (h : Fin 4) : (s.traceMark h).Inv := Keeps.traceMark regsNamed hs h

theorem traceRecord (hs : s.Inv) (h : Fin 4) (v : BitVec 256) : (s.traceRecord h v).Inv := Keeps.traceRecord regsNamed hs h v

theorem emitLog (hs : s.Inv) (h : Fin 4) (r : FaultRec) : (s.emitLog h r).Inv := Keeps.emitLog regsNamed hs h r

theorem reportLog (hs : s.Inv) (src rep : BitVec 16) (event detail : Nat) (part : Option Nat) : (s.reportLog src rep event detail part).Inv := Keeps.reportLog regsNamed hs src rep event detail part

theorem reportTrace (hs : s.Inv) (src rep : BitVec 16) (event detail : Nat) (part : Option Nat) :
    (s.reportTrace src rep event detail part).Inv := Keeps.reportTrace regsNamed hs src rep event detail part

theorem reportAlarm (hs : s.Inv) (src rep : BitVec 16) (event detail : Nat) (part : Option Nat) :
    (s.reportAlarm src rep event detail part).Inv := Keeps.reportAlarm hs src rep event detail part

theorem badLine (hs : s.Inv) (pa : Nat) (part : Option Nat) (rep : BitVec 16) : (s.badLine pa part rep).Inv := Keeps.badLine regsNamed hs pa part rep

theorem capture (hs : s.Inv) (p access : Nat) (f : XFault) : (s.capture p access f).Inv := Keeps.capture regsNamed hs p access f

theorem addUnseen (hs : s.Inv) (p : Nat) (ns : List Nat) : (s.addUnseen p ns).Inv := Keeps.addUnseen hs p ns

theorem countRun (hs : s.Inv) (p : Nat) (r : OpRec) : (s.countRun p r).Inv := Keeps.countRun hs p r

theorem counter (hs : s.Inv) (p n : Nat) : (s.counter p n).2.Inv := Keeps.counter hs p n

theorem moduleCounter (hs : s.Inv) (n : Nat) : (s.moduleCounter n).2.Inv := by
  unfold State.moduleCounter
  exact .snd_ite hs (.snd_ite hs (.snd_ite ((hs.draw ..).withPower ..) hs))

end State.Inv

end Sys2Proof.Machine
end
section
/-! Spoiled lines and capture records: every operation keeps the canonical form. -/
namespace Sys2Proof.Machine

variable {s : State}

namespace State.Inv

theorem stick (hs : s.Inv) (p : Nat) (st : Status) : (s.stick p st).Inv := Keeps.stick regsNamed hs p st

theorem malformed (hs : s.Inv) (p : Nat) : (s.malformed p).Inv := hs.stick ..

theorem statusEffects (hs : s.Inv) (p : Nat) (st : Status) : (s.statusEffects p st).Inv := Keeps.statusEffects regsNamed hs p st

end State.Inv

end Sys2Proof.Machine
end
section
/-! Completion entries, counters and jobs: every operation keeps the canonical form. -/
namespace Sys2Proof.Machine

variable {s : State}

namespace State.Inv

theorem msixSend (hs : s.Inv) (key vector : Nat) (o : Output) : (s.msixSend key vector o).Inv := Keeps.msixSend hs key vector o

theorem ringIrq (hs : s.Inv) (p n : Nat) : (s.ringIrq p n).Inv := by
  unfold State.ringIrq
  refine .updPart ?_ ..
  split
  · exact (hs.updRing ..).msixSend ..
  · exact hs.updRing ..

theorem produce (hs : s.Inv) (p n : Nat) (e : HeldEntry) : (s.produce p n e).Inv := Keeps.produce hs p n e

theorem latch (hs : s.Inv) (j : Job) : (s.latch j).2.Inv := Keeps.latch hs j

theorem produceOp (hs : s.Inv) (o : OpRef) : (s.produceOp o).Inv := Keeps.produceOp hs o

theorem reportOp (hs : s.Inv) (o : OpRef) : (s.reportOp o).Inv := Keeps.reportOp hs o

theorem completeOne (hs : s.Inv) (jid : Nat) : (s.completeOne jid).Inv := Keeps.completeOne hs jid

theorem completeJob (hs : s.Inv) (jid : Nat) : (s.completeJob jid).Inv := Keeps.completeJob hs jid

theorem resolvePass (hs : s.Inv) (jid : Nat) : (s.resolvePass jid).Inv := Keeps.resolvePass hs jid

theorem refreshEnds (hs : s.Inv) (o : OpRef) : (s.refreshEnds o).Inv := Keeps.refreshEnds hs o

theorem settleJob (hs : s.Inv) (o : OpRef) : (s.settleJob o).Inv := Keeps.settleJob hs o

theorem freeTiles (hs : s.Inv) (ts : List Nat) : (s.freeTiles ts).Inv := Keeps.freeTiles hs ts

theorem endOp (hs : s.Inv) (o : OpRef) (st : Status) : (s.endOp o st).Inv := Keeps.endOp regsNamed hs o st

end State.Inv

end Sys2Proof.Machine
end
section
/-! The rings, their doorbells and delivery: every operation keeps the canonical form. -/
namespace Sys2Proof.Machine

variable {s : State}

namespace State.Inv

theorem wake (hs : s.Inv) : s.wake.Inv := by
  unfold State.wake
  split <;> exact hs

theorem refuseDb (hs : s.Inv) (p n : Nat) : (s.refuseDb p n).Inv := (hs.setField ..).malformed ..

theorem dbSq (hs : s.Inv) (p n : Nat) (value : Word32) : (s.dbSq p n value).Inv := by
  unfold State.dbSq
  dsimp only
  split
  · split
    · exact (hs.wake ..).updRing ..
    · exact (hs.wake ..).refuseDb ..
  · split
    · exact hs.updRing ..
    · exact hs.refuseDb ..

theorem dbCq (hs : s.Inv) (p n : Nat) (value : Word32) : (s.dbCq p n value).Inv := by
  unfold State.dbCq
  dsimp only
  split
  · split
    · exact (hs.wake ..).updRing ..
    · exact (hs.wake ..).refuseDb ..
  · split
    · exact hs.updRing ..
    · exact hs.refuseDb ..

theorem startCommit (hs : s.Inv) (g : Sys2Proof.Group) (rs : List Reg) : (s.startCommit g rs).Inv := Keeps.startCommit hs g rs
theorem dropCommit (hs : s.Inv) (g : Sys2Proof.Group) : (s.dropCommit g).Inv := Keeps.dropCommit hs g

theorem enableRing (hs : s.Inv) (p n : Nat) : (s.enableRing p n).Inv := by
  unfold State.enableRing
  split
  · exact hs
  · exact (hs.setField ..).startCommit ..

theorem disableRing (hs : s.Inv) (p n : Nat) : (s.disableRing p n).Inv := (hs.setField ..).dropCommit ..

theorem acceptJob (hs : s.Inv) (j : Job) : (s.acceptJob j).Inv := by
  unfold State.acceptJob
  exact ((hs.latch ..).withJobsNextJob ..).updRing ..

theorem refuseJob (hs : s.Inv) (j : Job) (st : Status) (origin : Nat) : (s.refuseJob j st origin).Inv := by
  unfold State.refuseJob
  exact ((hs.stick ..).acceptJob ..).completeJob ..

theorem fetchFault (hs : s.Inv) (p n : Nat) (e : Option MemErr) : (s.fetchFault p n e).Inv := by
  unfold State.fetchFault
  dsimp only
  split
  · exact ((hs.setField ..).updRing ..).capture ..
  · exact ((hs.setField ..).updRing ..).badLine ..
  · exact (hs.setField ..).updRing ..

theorem accept (hs : s.Inv) (p n : Nat) (e : Entry) (es : List Entry) : (s.accept p n e es).Inv := by
  unfold State.accept
  dsimp only
  split
  · exact (hs.updRing ..).acceptJob ..
  · exact (hs.updRing ..).refuseJob ..

theorem fetchGraph (hs : s.Inv) (p n : Nat) (e : Entry) : (s.fetchGraph p n e).Inv := by
  unfold State.fetchGraph
  dsimp only
  split
  · split
    · split
      · exact hs.accept ..
      · exact (hs.fetchFault ..).refuseJob ..
    · split
      · exact (hs.fetchFault ..).refuseJob ..
      · split
        · exact hs.accept ..
        · exact hs
  · exact (hs.updRing ..).refuseJob ..

theorem fetch (hs : s.Inv) (p n : Nat) : (s.fetch p n).Inv := by
  unfold State.fetch
  split
  · dsimp only
    split
    · exact (hs.updPart ..).fetchGraph ..
    · exact (hs.updPart ..).fetchFault ..
  · exact hs

theorem delivered (hs : s.Inv) (p n : Nat) (e : HeldEntry) : (s.delivered p n e).Inv := by
  unfold State.delivered
  dsimp only
  split
  · split
    · exact ((hs.updRing ..).withJobs ..).ringIrq ..
    · exact (hs.updRing ..).withJobs ..
  · split
    · exact (hs.updRing ..).ringIrq ..
    · exact hs.updRing ..

theorem deliveryFault (hs : s.Inv) (p n : Nat) : (s.deliveryFault p n).Inv := (hs.setField ..).updRing ..

theorem deliver (hs : s.Inv) (p n : Nat) : (s.deliver p n).Inv := by
  have hw {u : State} (hu : u.Inv) (p va : Nat) (bs : List Byte) := hu.writeVA p va bs .write none
  unfold State.deliver
  generalize @State.writeVA = write at hw ⊢
  revert write
  -- `id` keeps the abstraction in the proof term: the kernel would otherwise compute the accesses of 64 bytes.
  refine id fun write hw => ?_
  split
  · exact hs
  · split
    · dsimp only
      split
      · split
        · exact ((hs.writeHost ..).writeHost ..).delivered ..
        · split
          · exact hs
          · exact hs.deliveryFault ..
      · split
        · exact (hs.deliveryFault ..).capture ..
        next e =>
          split
          · exact (hs.deliveryFault ..).capture ..
          next e' => exact ((hw ((hw hs ..).of_ok e) ..).of_ok e').delivered ..
    · exact hs

end State.Inv

end Sys2Proof.Machine
end
section
/-! The modulus tables: every operation keeps the canonical form. -/
namespace Sys2Proof.Machine

variable {s : State}

namespace State.Inv

theorem mtDataRead (hs : s.Inv) (p : Nat) : (s.mtDataRead p).2.Inv := by
  unfold State.mtDataRead
  exact hs.setReg ..

theorem mtDataWrite (hs : s.Inv) (p : Nat) (v : Word32) : (s.mtDataWrite p v).Inv := (hs.updPart ..).setReg ..

theorem mtCommit (hs : s.Inv) (p : Nat) (v : Word32) : (s.mtCommit p v).Inv := by
  unfold State.mtCommit
  split
  · exact hs.malformed ..
  · exact hs.updPart ..

theorem mtApply (hs : s.Inv) (p : Nat) (mask : BitVec 16) (snap : Tab Word32) : (s.mtApply p mask snap).Inv := ((hs.updPart ..).updReg ..).setField ..

theorem mtRefuse (hs : s.Inv) (p : Nat) (f : Nat × Nat × Nat) : (s.mtRefuse p f).Inv := by
  unfold State.mtRefuse
  exact .stick (.setField (.ite ((hs.updPart ..).setField ..) (((((hs.updPart ..).setField ..).setField ..).setField ..).setField ..)) ..) ..

theorem mtCommitCheck (hs : s.Inv) (p : Nat) : (s.mtCommitCheck p).Inv := by
  unfold State.mtCommitCheck
  split
  · exact hs
  · split
    · split
      · exact hs.mtApply ..
      · exact hs.mtRefuse ..
    · exact hs

end State.Inv

end Sys2Proof.Machine
end
section
/-! Cast-on commits: every operation keeps the canonical form. -/
namespace Sys2Proof.Machine

variable {s : State}

namespace State.Inv

theorem stickOpt (hs : s.Inv) (p : Option Nat) (st : Status) : (s.stickOpt p st).Inv := by
  unfold State.stickOpt
  split
  · exact hs.stick ..
  · exact hs

theorem ctlStart (hs : s.Inv) (p : Nat) (g : Sys2Proof.Group) (rs : List Reg) : (s.ctlStart p g rs).Inv := by
  unfold State.ctlStart
  split
  · exact hs.malformed ..
  · exact hs.startCommit ..

theorem ctlCommit (hs : s.Inv) (p : Nat) (v : Word32) : (s.ctlCommit p v).Inv := by
  unfold State.ctlCommit
  dsimp only
  split
  · exact .ctlStart (.ite (.ctlStart (.ite (hs.ctlStart ..) hs) ..) (.ite (hs.ctlStart ..) hs)) ..
  · split
    · exact .ctlStart (.ite (hs.ctlStart ..) hs) ..
    · split
      · exact hs.ctlStart ..
      · exact hs

theorem ctlApply (hs : s.Inv) (p : Nat) (c : Commit) (rs : List Reg) (size k : Nat) : (s.ctlApply p c rs size k).Inv := by
  unfold State.ctlApply
  split
  · dsimp only
    split
    · split
      · split
        · exact ((hs.dropCommit ..).putActive ..).updPart ..
        · exact (hs.dropCommit ..).putActive ..
      · exact ((hs.dropCommit ..).setField ..).stick ..
    · exact hs.dropCommit ..
  · exact hs

theorem ringApply (hs : s.Inv) (p n : Nat) (c : Commit) : (s.ringApply p n c).Inv := by
  unfold State.ringApply
  split
  · exact hs
  · dsimp only
    split
    · exact ((hs.dropCommit ..).putActive ..).updRing ..
    · exact (((hs.dropCommit ..).setField ..).setField ..).stick ..

theorem qtabCommit (hs : s.Inv) (t : Nat) : (s.qtabCommit t).Inv := by
  unfold State.qtabCommit
  split
  · exact hs.stickOpt ..
  · exact hs.startCommit ..

theorem qtabApply (hs : s.Inv) (t : Nat) (c : Commit) : (s.qtabApply t c).Inv := by
  unfold State.qtabApply
  split
  · exact hs
  · dsimp only
    split
    · exact ((hs.dropCommit ..).putActive ..).updTile ..
    · exact .stickOpt (.setField (.ite (hs.dropCommit ..) ((hs.dropCommit ..).setField ..)) ..) ..

theorem bwCommit (hs : s.Inv) (d : Nat) : (s.bwCommit d).Inv := by
  unfold State.bwCommit
  split
  · exact hs
  · exact hs.startCommit ..

theorem bwApply (hs : s.Inv) (d : Nat) (c : Commit) : (s.bwApply d c).Inv := by
  unfold State.bwApply
  dsimp only
  split
  · exact (hs.dropCommit ..).putActive ..
  · exact (hs.dropCommit ..).setField ..

end State.Inv

end Sys2Proof.Machine
end
section
/-! Tensor memory: every operation keeps the canonical form. -/
namespace Sys2Proof.Machine

variable {s : State}

namespace State.Inv

theorem writeRuns (hs : s.Inv) (p : Nat) (runs : List (Nat × List Byte)) (unit : Option Nat) : State.InvOk id (s.writeRuns p runs unit) := by
  refine LeftOk.foldl (P := State.Inv) (r := Except.ok s) (left := id) hs _ fun r x hr => ?_
  obtain ⟨a, bs⟩ := x
  dsimp only
  split
  · trivial
  · next u =>
    have hu : u.Inv := hr
    exact hu.writeVA ..

end State.Inv

end Sys2Proof.Machine
end
section
/-! The work of the engines: slots, queues and unit steps: every operation keeps the canonical form. -/
namespace Sys2Proof.Machine

variable {s : State}

namespace State.Inv

theorem updStream (hs : s.Inv) (t k : Nat) (f : Stream → Stream) : (s.updStream t k f).Inv := hs.updTile ..
theorem updQueue (hs : s.Inv) (t q : Nat) (f : Queue → Queue) : (s.updQueue t q f).Inv := hs.updTile ..

theorem stopOps (hs : s.Inv) (f : Job → OpRec → Bool) : (s.stopOps f).Inv := by
  unfold State.stopOps
  dsimp only
  exact (hs.withJobs ..).foldl _ fun _ _ hu => hu.updTile ..

theorem spoil (hs : s.Inv) (p : Nat) (keep : Bool) (rs : List (Nat × Nat)) (unit : Option Nat) : (s.spoil p keep rs unit).Inv := by
  unfold State.spoil
  refine hs.foldl _ fun u x hu => ?_
  split
  · split
    next e =>
      split
      · exact ((hu.drawBelow ..).snd e).foldl _ fun _ _ hv => .ite hv (hv.storePhys ..)
      · exact hu

theorem restoreLimbs (hs : s.Inv) (p : Nat) (saved : List (Nat × List Byte)) (unit : Option Nat) : (s.restoreLimbs p saved unit).Inv := by
  unfold State.restoreLimbs
  refine hs.foldl _ fun u x hu => ?_
  split
  · split
    next e => exact (hu.writeVA ..).of_ok e
    · exact hu

theorem leave (hs : s.Inv) (o : OpRef) (st : Status) : (s.leave o st).Inv := by
  unfold State.leave
  split
  · exact hs
  · split
    · exact hs
    · split
      · exact hs.restoreLimbs ..
      · dsimp only
        split
        · exact hs.spoil ..
        · exact (hs.restoreLimbs ..).spoil ..

theorem endNow (hs : s.Inv) (o : OpRef) (st : Status) (a : Option (List Nat)) : (s.endNow o st a).Inv := by
  unfold State.endNow
  split
  · exact (hs.leave ..).endOp ..
  · split
    · dsimp only
      exact ((hs.leave ..).foldl _ fun _ _ hu => hu.updTile ..).updOp ..
    · exact hs

theorem settleEnd (hs : s.Inv) (o : OpRef) : (s.settleEnd o).Inv := by
  unfold State.settleEnd
  split
  · split
    · split
      · exact hs.endNow ..
      · exact hs
    · exact hs
  · exact hs

theorem settleTile (hs : s.Inv) (t : Nat) : (s.settleTile t).Inv := by
  unfold State.settleTile
  split
  · exact hs.settleEnd ..
  · exact hs

theorem endSoon (hs : s.Inv) (o : OpRef) (st : Status) (marks : Option (List Nat)) : (s.endSoon o st marks).Inv := by
  unfold State.endSoon
  split
  · split
    · exact hs.endNow ..
    · dsimp only
      exact (((hs.stopOps ..).foldl _ fun _ _ hu => hu.updTile ..).updOp ..).settleEnd ..
  · exact hs

theorem poisonOp (hs : s.Inv) (o : OpRef) (damaged : List Nat) : (s.poisonOp o damaged).Inv := by
  unfold State.poisonOp
  split
  · exact hs.endSoon ..
  · exact hs

theorem memFault (hs : s.Inv) (o : OpRef) (access : Nat) (e : MemErr) (rep : BitVec 16) : (s.memFault o access e rep).Inv := by
  unfold State.memFault
  split
  · exact hs
  · split
    · exact (hs.capture ..).endSoon ..
    · exact (hs.badLine ..).poisonOp ..

theorem keyFault (hs : s.Inv) (o : OpRef) (cause dir : Nat) : (s.keyFault o cause dir).Inv := by
  unfold State.keyFault
  split
  · exact hs
  · dsimp only
    split
    · exact hs.bump ..
    · exact (hs.bump ..).setReg ..

theorem opFailed (hs : s.Inv) (o : OpRef) (rep : BitVec 16) (h : Halt) : (s.opFailed o rep h).Inv := by
  unfold State.opFailed
  split
  · exact hs.settleEnd ..
  · extract_lets damaged spoiled
    have hspoiled : spoiled.Inv := by
      unfold spoiled
      split
      · exact (hs.updOp ..).spoil ..
      · exact hs
    clear_value spoiled
    split
    · exact hspoiled
    · exact hspoiled.poisonOp ..
    · exact hspoiled.poisonOp ..
    · exact hspoiled.poisonOp ..
    · exact hspoiled.endSoon ..
    · exact hspoiled.memFault ..
    · exact (hspoiled.keyFault ..).endSoon ..
    · exact hspoiled.poisonOp ..

theorem halted (hs : s.Inv) (x : Seat) (a : Halt) : (s.halted x a).Inv := by
  unfold State.halted
  split
  · exact hs.updStream ..
  · exact (hs.updStream ..).opFailed ..

theorem issue {work : Seat → Eng Unit} (hs : s.Inv) (hwork : ∀ a, EngInv (work a)) (t k op : Nat) (w : StreamWord) :
    (s.issue t k op w work).Inv := by
  unfold State.issue
  split
  · exact hs
  · split
    next e1 => exact ((hs.eng_ok (hwork _) e1).updStream ..).settleTile ..
    next e1 => exact ((hs.eng_error (hwork _) e1).halted ..).settleTile ..

theorem issueAt (hs : s.Inv) (t k op : Nat) (w : StreamWord) (go : Stream → Stream) : (s.issueAt t k op w go).Inv := by
  unfold State.issueAt
  split
  · exact hs
  · exact (hs.updStream ..).settleTile ..

end State.Inv

namespace EngInv

theorem engCount (p n k : Nat) : EngInv (engCount p n k) := by
  unfold Machine.engCount
  exact .engPut fun _ hu => hu.countBy ..

theorem engResidue (b : Bool) : EngInv (engResidue b) := by
  unfold Machine.engResidue
  split
  · exact .pure _
  · exact .engStall ..

theorem engAssert (b : Bool) (st : Status) : EngInv (engAssert b st) := by
  unfold Machine.engAssert
  split
  · exact .pure _
  · exact .engFault ..

theorem engDraw : EngInv engDraw := by
  unfold Machine.engDraw
  refine .of fun s hs => ?_
  exact hs.draw ..

theorem spadReach (t lo hi : Nat) : EngInv (spadReach t lo hi) := by
  unfold Machine.spadReach
  exact .bind .engGet fun _ => .ite (.engFault ..) (.ite (.engStall ..) (.pure _))

theorem scrRead (t a w n : Nat) : EngInv (scrRead t a w n) := by
  unfold Machine.scrRead
  split
  · exact .pure _
  · exact .bind (.spadReach ..) fun _ => .bind .engGet fun _ => .pure _

theorem scrWrite (t a w : Nat) (xs : List Nat) : EngInv (scrWrite t a w xs) := by
  unfold Machine.scrWrite
  split
  · exact .pure _
  · exact .bind (.spadReach ..) fun _ => .engPut fun _ hu => hu.updTile ..

theorem consAddr (t q n : Nat) : EngInv (consAddr t q n) := by
  unfold Machine.consAddr
  exact .bind .engGet fun _ => .ite (.engStall ..) (.ite (.engFault ..) (.pure _))

theorem prodAddr (t q n : Nat) : EngInv (prodAddr t q n) := by
  unfold Machine.prodAddr
  exact .bind .engGet fun _ => .ite (.engStall ..) (.ite (.engFault ..) (.pure _))

theorem consMove (t q n : Nat) : EngInv (consMove t q n) := by
  unfold Machine.consMove
  exact .engPut fun _ hu => hu.updQueue ..

theorem prodMove (t q n : Nat) : EngInv (prodMove t q n) := by
  unfold Machine.prodMove
  exact .engPut fun _ hu => hu.updQueue ..

theorem release (t q : Nat) : EngInv (release t q) := by
  unfold Machine.release
  exact .bind .engGet fun _ => .ite (.pure _) (.bind (.engAssert ..) fun _ => .engPut fun _ hu => hu.updQueue ..)

theorem commit (t q : Nat) : EngInv (commit t q) := by
  unfold Machine.commit
  exact .bind .engGet fun _ => .ite (.pure _) (.when_bind (.engStall ..) fun _ => .engPut fun _ hu => hu.updQueue ..)

theorem takeDirect (x : Seat) (q n : Nat) (second : Bool) : EngInv (takeDirect x q n second) := by
  unfold Machine.takeDirect
  exact .bind .engGet fun _ => .ite (.bind (.engPut fun _ hu => (hu.updQueue ..).updStream ..) fun _ => .ite (.engStall ..) (.pure _)) (.pure _)

theorem drainDirect (x : Seat) (q : Nat) : EngInv (drainDirect x q) := by
  unfold Machine.drainDirect
  exact .bind .engGet fun _ => .ite (.bind (.engPut fun _ hu => (hu.updQueue ..).updStream ..) fun _ => .ite (.pure _) (.engStall ..)) (.pure _)

theorem readEnd (x : Seat) (q n : Nat) (second : Bool) : EngInv (readEnd x q n second) := by
  unfold Machine.readEnd
  exact .bind .engGet fun _ => .ite (.bind (.engPut fun _ hu => hu.updStream ..) fun _ => .pure _) (.bind (.consAddr ..) fun _ =>
    .bind (.scrRead ..) fun _ => .bind (.consMove ..) fun _ => .pure _)

theorem writeEnd (x : Seat) (q : Nat) (xs : List Nat) : EngInv (writeEnd x q xs) := by
  unfold Machine.writeEnd
  exact .bind .engGet fun _ => .ite (.engPut fun _ hu => hu.updStream ..) (.bind (.prodAddr ..) fun _ => .bind (.scrWrite ..) fun _ => .prodMove ..)

theorem runUnits {pre unit : Nat → Eng Unit} (hpre : ∀ i, EngInv (pre i)) (hunit : ∀ i, EngInv (unit i)) (x : Seat) (outQ : Option Nat)
  (fuel i : Nat) :
    EngInv (Machine.runUnits x outQ pre unit fuel i) := by
  have drained : EngInv (match outQ with | some q => Machine.drainDirect x q | none => Pure.pure ()) := by
    split
    · exact .drainDirect ..
    · exact .pure _
  induction fuel generalizing i with
  | zero => exact drained
  | succ fuel ih =>
    unfold Machine.runUnits
    extract_lets rest
    have hrest (r : PUnit) : EngInv (rest r) :=
      .bind (hpre i) fun _ => .bind (.atomically (hunit i)) fun _ => .bind (.engPut fun _ hu => hu.updStream ..) fun _ => ih (i + 1)
    split
    · exact .bind (.drainDirect ..) hrest
    · exact hrest ()

theorem allUnits {pre unit : Nat → Eng Unit} (hpre : ∀ a, EngInv (pre a)) (hunit : ∀ a, EngInv (unit a)) (x : Seat) (total : Nat)
  (outQ : Option Nat) :
    EngInv (allUnits x total outQ pre unit) := by
  unfold Machine.allUnits
  exact .bind .engGet fun _ => .runUnits (fun _ => (hpre _)) (fun _ => (hunit _)) ..

theorem descAt (x : Seat) (i : Nat) : EngInv (descAt x i) := by
  unfold Machine.descAt
  exact .bind .engGet fun _ => .pure _

end EngInv

namespace State.Inv

theorem slotCommit (hs : s.Inv) (t q : Nat) : (s.slotCommit t q).Inv := by
  unfold State.slotCommit
  dsimp only
  split
  · exact hs
  · exact (hs.setTile ..).settleTile ..

theorem slotRelease (hs : s.Inv) (t q : Nat) : (s.slotRelease t q).Inv := by
  unfold State.slotRelease
  dsimp only
  split
  · exact hs
  · exact (hs.setTile ..).settleTile ..

end State.Inv

end Sys2Proof.Machine
end
section
/-! The control stream: every operation keeps the canonical form. -/
namespace Sys2Proof.Machine

variable {s : State}

namespace State.Inv

theorem setSem (hs : s.Inv) (t n : Nat) (free : Bool) (v : Nat) : (s.setSem t n free v).Inv := by
  unfold State.setSem
  split <;> exact hs.setField ..

theorem semTake (hs : s.Inv) (t pair : Nat) (free : Bool) (n : Nat) : State.InvSome (s.semTake t pair free n) := by
  unfold State.semTake
  dsimp only
  split
  · exact hs.setSem ..
  · trivial

theorem swait (hs : s.Inv) (t k : Nat) (w : StreamWord) : (s.swait t k w).Inv := by
  unfold State.swait
  split
  · exact hs
  · dsimp only
    split
    next e1 => exact ((hs.semTake ..).of_some e1).updStream ..
    · exact hs.updStream ..

end State.Inv

namespace EngInv

theorem putPost (x : Seat) (target : Nat) (w : StreamWord) : EngInv (putPost x target w) := by
  unfold Machine.putPost
  exact .bind .engGet fun _ => .when_bind (.engStall ..) fun _ => .engPut fun _ hu => hu.updTile ..

end EngInv

namespace State.Inv

theorem postEffect (hs : s.Inv) (t : Nat) : (s.postEffect t).Inv := by
  unfold State.postEffect
  split
  · dsimp only
    split
    · exact ((hs.updTile ..).setSem ..).settleTile ..
    · exact (hs.updTile ..).endSoon ..
  · exact hs

theorem tilePart (hs : s.Inv) (t : Nat) : (s.tilePart t).Inv := by
  unfold State.tilePart
  split
  · exact hs
  · split
    · exact hs
    · split
      · dsimp only
        split
        · exact (hs.updTile ..).updOp ..
        · exact hs.updTile ..
      · exact hs

end State.Inv

end Sys2Proof.Machine
end
section
/-! The ports and their frames: every operation keeps the canonical form. -/
namespace Sys2Proof.Machine

variable {s : State}

namespace State.Inv

theorem putOnWire (hs : s.Inv) (q : Nat) (f : Frame) : (s.putOnWire q f).Inv := Keeps.putOnWire hs q f

theorem sendKept (hs : s.Inv) (q : Nat) (f : Frame) : (s.sendKept q f).Inv := Keeps.sendKept hs q f

theorem beginRekey (hs : s.Inv) (q : Nat) : (s.beginRekey q).Inv := Keeps.beginRekey hs q

theorem rekeyAt40 (hs : s.Inv) (q : Nat) : (s.rekeyAt40 q).Inv := Keeps.rekeyAt40 hs q

theorem transmit (hs : s.Inv) (q : Nat) (f : Frame) : (s.transmit q f).Inv := Keeps.transmit hs q f

theorem sendFrame (hs : s.Inv) (q : Nat) (through : Bool) (f : Frame) : (s.sendFrame q through f).Inv := Keeps.sendFrame hs q through f

theorem drainQueue (hs : s.Inv) (q n : Nat) : (State.drainQueue q n s).Inv := Keeps.drainQueue hs q n

theorem spanLost (hs : s.Inv) (n : Nat) : (s.spanLost n).Inv := by
  unfold State.spanLost
  exact ((hs.bump ..).setField ..).reportLog ..

theorem spanSend (hs : s.Inv) (n : Nat) (f : Frame) : (s.spanSend n f).Inv := by
  unfold State.spanSend
  split
  · exact hs.sendFrame ..
  · exact hs.spanLost ..

theorem linkLog (hs : s.Inv) (q event detail : Nat) (part : Option Nat) : (s.linkLog q event detail part).Inv := by
  unfold State.linkLog
  exact hs.reportLog ..

theorem linkTrace (hs : s.Inv) (q event detail : Nat) : (s.linkTrace q event detail).Inv := by
  unfold State.linkTrace
  exact hs.reportTrace ..

theorem dropQueue (hs : s.Inv) (q : Nat) : (s.dropQueue q).Inv := by
  unfold State.dropQueue
  dsimp only
  exact (hs.foldl _ fun _ _ hu => hu.spanLost ..).foldl _ fun _ _ hu => hu.linkLog ..

theorem portDown (hs : s.Inv) (q : Nat) (retry : Bool) : (s.portDown q retry).Inv := by
  unfold State.portDown
  exact (hs.dropQueue ..).updPort ..

theorem phaseFailed (hs : s.Inv) (q : Nat) : (s.phaseFailed q).Inv := by
  unfold State.phaseFailed
  exact (hs.linkLog ..).portDown ..

theorem linkLost (hs : s.Inv) (q reason : Nat) : (s.linkLost q reason).Inv := by
  unfold State.linkLost
  dsimp only
  split
  · exact (hs.reportAlarm ..).portDown ..
  · exact (hs.reportAlarm ..).phaseFailed ..

theorem mirrorRun (hs : s.Inv) (p : Nat) (n : Fin 64) (a len : Nat) : (s.mirrorRun p n a len).Inv := by
  unfold State.mirrorRun
  dsimp only
  exact hs.foldl _ fun _ _ hu => (hu.countBy ..).spanSend ..

theorem mirror (hs : s.Inv) (p : Nat) (runs : List (Nat × List Byte)) : (s.mirror p runs).Inv := by
  unfold State.mirror
  exact hs.foldl _ fun _ _ hu => hu.foldl _ fun _ _ hv => hv.mirrorRun ..

theorem mirrorSignal (hs : s.Inv) (p a value : Nat) : (s.mirrorSignal p a value).Inv := by
  unfold State.mirrorSignal
  exact hs.foldl _ fun _ _ hu => .ite ((hu.countBy ..).spanSend ..) hu

end State.Inv

end Sys2Proof.Machine
end
section
/-! The feeder: every operation keeps the canonical form. -/
namespace Sys2Proof.Machine

variable {s : State}

namespace EngInv

theorem engMem (access : Nat) (a : Except MemErr (List Byte)) : EngInv (engMem access a) := by
  unfold Machine.engMem
  split
  · exact .pure _
  · refine .of fun s hs => ?_
    exact hs

theorem engStore {f : State → Except XFault State} (hf : ∀ {s : State}, s.Inv → State.InvOk id (f s)) (access : Nat) : EngInv
  (engStore access f) := by
  refine .of fun s hs => ?_
  unfold Machine.engStore
  split
  · next e => exact (hf hs).of_ok e
  · exact hs

theorem engFeed (p : Nat) (unit : Option Nat) (runs : List (Nat × List Byte)) : EngInv (engFeed p unit runs) :=
  .bind (.engStore (fun hs => hs.writeRuns ..) _) fun _ => .engPut fun _ hu => hu.mirror ..

theorem sourceLines (x : Seat) (r : FeedRec) (rows : List Nat) (count : Nat) : EngInv (sourceLines x r rows count) := by
  unfold Machine.sourceLines
  refine .bind .engGet fun s => ?_
  split
  · split
    · split
      · exact .pure _
      · exact .engFault ..
    · exact .engMem ..
  · dsimp only
    refine .bind (.engAssert ..) fun _ => ?_
    split
    · refine .of fun s hs => ?_
      exact hs
    · exact .bind (.engAssert ..) fun _ => .pure _

end EngInv

namespace State.Inv

theorem combineRun (hs : s.Inv) (p fn q w a : Nat) (vals : List Nat) (unit : Option Nat) : State.InvOk id (s.combineRun p fn q w a vals unit) := by
  unfold State.combineRun
  dsimp only
  split
  · trivial
  · split
    · trivial
    · refine LeftOk.map (left := Prod.fst) (LeftOk.foldl (P := State.Inv) (r := Except.ok (s, vals)) (left := Prod.fst) hs _ fun r x hr => ?_) fun _ hu =>
        hu
      split
      · trivial
      · next u vs =>
        have hu : u.Inv := hr
        split
        · trivial
        · next e => exact (hu.atHome ..).of_ok e

end State.Inv

namespace EngInv

theorem combineStore (x : Seat) (d : TDesc) (rows : List Nat) (vals : List (List Nat)) : EngInv (Machine.combineStore x d rows vals) := by
  refine .of fun s hs => ?_
  unfold Machine.combineStore
  dsimp only
  split
  · next e =>
    refine LeftOk.of_ok (left := id) (LeftOk.foldl (P := State.Inv) (r := Except.ok s) (left := id) hs _ fun r y hr => ?_) e
    obtain ⟨o, v⟩ := y
    dsimp only
    split
    · trivial
    · next u =>
      have hu : u.Inv := hr
      exact hu.combineRun ..
  · exact hs

theorem wroteAt (x : Seat) (rs : List (Nat × List Byte)) : EngInv (wroteAt x rs) := by
  unfold Machine.wroteAt
  exact .engPut fun _ hu => hu.updTile ..

theorem addedAt (x : Seat) (rs : List (Nat × List Byte)) : EngInv (addedAt x rs) := by
  unfold Machine.addedAt
  exact .engPut fun _ hu => hu.updTile ..

theorem destLines (x : Seat) (r : FeedRec) (rows : List Nat) (bs : List Byte) : EngInv (destLines x r rows bs) := by
  unfold Machine.destLines
  refine .bind .engGet fun _ => ?_
  dsimp only
  split
  · split
    · split
      · exact .engPut fun _ hu => hu.updTile ..
      · exact .engFault ..
    · exact .bind (.engFeed ..) fun _ => .wroteAt ..
  · exact .bind (.engAssert ..) fun _ => .ite (.when_bind (.engStall ..) fun _ => .bind (.combineStore ..) fun _ =>
      .addedAt ..) (.ite (.engPut fun _ hu => hu.updTile ..) (.bind (.engFeed ..) fun _ => .wroteAt ..))

theorem slotRead (t q count : Nat) : EngInv (slotRead t q count) := by
  unfold Machine.slotRead
  exact .bind (.engPut fun _ hu => hu.updQueue ..) fun _ => .bind (.consAddr ..) fun _ => .bind (.spadReach ..) fun _ => .bind .engGet fun _ =>
    .bind (.consMove ..) fun _ => .pure _

theorem slotWrite (t q : Nat) (bs : List Byte) : EngInv (slotWrite t q bs) := by
  unfold Machine.slotWrite
  exact .bind (.engPut fun _ hu => hu.updQueue ..) fun _ => .bind (.prodAddr ..) fun _ => .bind (.spadReach ..) fun _ => .bind (.engPut fun _ hu =>
    hu.updTile ..) fun _ => .prodMove ..

theorem feedWork (x : Seat) (op : Nat) (w : StreamWord) (rows : List Nat) : EngInv (feedWork x op w rows) := by
  unfold Machine.feedWork
  dsimp only
  refine .bind (.descAt ..) fun _ => ?_
  split
  · exact .bind (.sourceLines ..) fun _ => .bind (.slotWrite ..) fun _ => .bind (.engCount ..) fun _ => .when_bind (.release ..) fun _ =>
      .ite (.commit ..) (.pure _)
  · exact .bind (.slotRead ..) fun _ => .bind (.destLines ..) fun _ => .bind (.engCount ..) fun _ => .when_bind (.release ..) fun _ =>
      .ite (.commit ..) (.pure _)
  · exact .bind (.sourceLines ..) fun _ => .bind (.descAt ..) fun _ => .bind (.destLines ..) fun _ => .when_bind (.engCount ..) fun _ =>
      .when_bind (.engCount ..) fun _ => .when_bind (.release ..) fun _ => .ite (.commit ..) (.pure _)
  · exact .bind (.descAt ..) fun _ => .bind (.slotWrite ..) fun _ => .when_bind (.release ..) fun _ => .ite (.commit ..) (.pure _)
  · exact .bind (.slotRead ..) fun _ => .bind (.slotWrite ..) fun _ => .when_bind (.release ..) fun _ => .ite (.commit ..) (.pure _)

theorem issueBounds (x : Seat) (rows : List Nat) (r : FeedRec) (dest : Bool) : EngInv (issueBounds x rows r dest) := by
  unfold Machine.issueBounds
  exact .bind .engGet fun _ => .ite (.pure _) (.bind (.engAssert ..) fun _ => .ite (.engAssert ..) (.pure _))

end EngInv

namespace State.Inv

theorem feedIssue (hs : s.Inv) (t op : Nat) (w : StreamWord) : (s.feedIssue t op w).Inv :=
  hs.issue (fun _ => .bind .engGet fun _ => .when_bind (.engStall ..) fun _ => .when_bind_bind (.descAt ..) (fun _ => .issueBounds ..) fun _ =>
    .when_bind_bind (.descAt ..) (fun _ => .issueBounds ..) fun _ => .when_bind_bind (.descAt ..) (fun _ => .issueBounds ..) fun _ =>
    .engPut fun _ hu => hu.updTile ..) ..

theorem feederDone (hs : s.Inv) (t f : Nat) : (s.feederDone t f).Inv := by
  unfold State.feederDone
  split
  · exact hs
  · split
    · split
      next e3 => exact ((hs.eng_ok (.atomically (.feedWork ..) ..) e3).updTile ..).settleTile ..
      next e3 => exact hs.eng_error (.atomically (.feedWork ..) ..) e3
      next e4 => exact ((hs.eng_error (.atomically (.feedWork ..) ..) e4).updTile ..).halted ..
    · exact hs

end State.Inv

end Sys2Proof.Machine
end
section
/-! The transform, reorder and cable streams: every operation keeps the canonical form. -/
namespace Sys2Proof.Machine

variable {s : State}

namespace State.Inv

theorem twiddles (hs : s.Inv) (p t : Nat) (e : PrimeEntry) (n : Nat) (fwd : Bool) : State.InvOk Prod.snd (s.twiddles p t e n fwd) := by
  unfold State.twiddles
  split
  · exact hs
  · split
    · trivial
    next e2 =>
      dsimp only
      split
      · exact (hs.narrowRead ..).of_ok e2
      · trivial

theorem transform (hs : s.Inv) (p t : Nat) (e : PrimeEntry) (n : Nat) (fwd : Bool) (xs : List Nat) :
    State.InvOk Prod.snd (s.transform p t e n fwd xs) := by
  unfold State.transform
  split
  · trivial
  next e1 => exact (hs.twiddles ..).of_ok e1
  next e1 => exact ((hs.twiddles ..).of_ok e1).drawBelow ..

end State.Inv

namespace EngInv

theorem engEntry (p c e : Nat) : EngInv (engEntry p c e) := by
  unfold Machine.engEntry
  refine .bind .engGet fun _ => ?_
  split
  · exact .pure _
  · exact .engFault ..

theorem engType (t q : Nat) : EngInv (engType t q) := by
  unfold Machine.engType
  exact .bind .engGet fun _ => .pure _

theorem needResidue (t q : Nat) : EngInv (needResidue t q) := by
  unfold Machine.needResidue
  exact .bind (.engType ..) fun _ => .engAssert ..

theorem markSat (o : OpRef) (b : Bool) : EngInv (markSat o b) := by
  unfold Machine.markSat
  split
  · exact .engPut fun _ hu => hu.updOp ..
  · exact .pure _

theorem engTransform (p t : Nat) (e : PrimeEntry) (n : Nat) (fwd : Bool) (xs : List Nat) : EngInv (engTransform p t e n fwd xs) := by
  unfold Machine.engTransform
  refine .of fun s hs => ?_
  split
  · exact hs
  · split
    next e2 =>
      split
      · exact (hs.transform ..).of_ok e2
      · exact hs
    · exact hs
    · exact hs

theorem nttWork (w : StreamWord) (fwd : Bool) (x : Seat) : EngInv (nttWork w fwd x) := by
  unfold Machine.nttWork
  exact .bind (.needResidue ..) fun _ => .bind (.needResidue ..) fun _ => .bind (.descAt ..) fun _ => .bind .engGet fun _ => .allUnits (fun _ =>
    .pure _) (fun _ => .bind (.engEntry ..) fun _ => .bind (.readEnd ..) fun _ => .bind (.engAssert ..) fun _ => .bind (.engTransform ..) fun _ =>
    .bind (.writeEnd ..) fun _ => .when_bind (.release ..) fun _ => .ite (.commit ..) (.pure _)) ..

theorem ffteWork (w : StreamWord) (x : Seat) : EngInv (ffteWork w x) := by
  unfold Machine.ffteWork
  exact .bind (.engType ..) fun _ => .bind (.engAssert ..) fun _ => .bind (.needResidue ..) fun _ => .bind (.descAt ..) fun _ =>
    .bind .engGet fun _ => .allUnits (fun _ => .pure _) (fun _ => .bind (.engEntry ..) fun _ => .bind (.engPut fun _ hu => hu.updQueue ..) fun _ =>
    .bind (.readEnd ..) fun _ => .bind (.writeEnd ..) fun _ => .bind (.markSat ..) fun _ => .when_bind (.release ..) fun _ =>
    .ite (.commit ..) (.pure _)) ..

theorem finish (x : Seat) (w : StreamWord) : EngInv (finish x w) := by
  unfold Machine.finish
  exact .when_bind (.release ..) fun _ => .ite (.commit ..) (.pure _)

theorem ccopyWork (w : StreamWord) (x : Seat) : EngInv (ccopyWork w x) := by
  unfold Machine.ccopyWork
  exact .bind (.engType ..) fun _ => .bind (.engType ..) fun _ => .bind (.engAssert ..) fun _ => .allUnits (fun _ => .takeDirect ..) (fun _ =>
    .bind (.readEnd ..) fun _ => .bind (.writeEnd ..) fun _ => .ite (.finish ..) (.pure _)) ..

theorem cautWork (w : StreamWord) (eval : Bool) (x : Seat) : EngInv (cautWork w eval x) := by
  unfold Machine.cautWork
  dsimp only
  refine .bind (.needResidue ..) fun _ => .bind (.needResidue ..) fun _ => .bind (.descAt ..) fun _ => .allUnits (fun _ => .takeDirect ..) (fun _ =>
    .bind (.readEnd ..) fun _ => ?_) ..
  split
  · exact .bind (.writeEnd ..) fun _ => .finish ..
  · refine .bind .engGet fun _ => ?_
    split
    · exact .bind (.engEntry ..) fun _ => .bind (.engAssert ..) fun _ => .bind (.writeEnd ..) fun _ => .finish ..
    · exact .bind (.engDraw ..) fun _ => .bind (.writeEnd ..) fun _ => .finish ..

theorem slotElements (x : Seat) (q : Nat) : EngInv (slotElements x q) := by
  unfold Machine.slotElements
  exact .bind .engGet fun _ => .pure _

theorem listEntries (x : Seat) (q n : Nat) : EngInv (listEntries x q n) := by
  unfold Machine.listEntries
  exact .bind (.engType ..) fun _ => .bind (.engAssert ..) fun _ => .readEnd ..

theorem wholeSlot (x : Seat) (q n : Nat) : EngInv (wholeSlot x q n) := by
  unfold Machine.wholeSlot
  exact .bind .engGet fun _ => .when_bind (.engPut fun _ hu => hu.updQueue ..) fun _ => .readEnd ..

theorem cgathWork (w : StreamWord) (x : Seat) : EngInv (cgathWork w x) := by
  unfold Machine.cgathWork
  dsimp only
  refine .bind (.engType ..) fun _ => .bind (.engType ..) fun _ => .bind (.engAssert ..) fun _ => .bind .engGet fun _ =>
    .bind (.engAssert ..) fun _ => .allUnits (fun _ => .takeDirect ..) (fun _ => .bind (.descAt ..) fun _ => .bind (.slotElements ..) fun _ =>
    .bind (.wholeSlot ..) fun _ => .bind (.listEntries ..) fun _ => .bind (.engAssert ..) fun _ => .bind (.engAssert ..) fun _ =>
    .bind .engGet fun _ => .bind ?_ fun _ => .bind (.writeEnd ..) fun _ => .ite (.bind (.release ..) fun _ => .bind (.release ..) fun _ =>
    .ite (.commit ..) (.pure _)) (.ite (.commit ..) (.pure _))) ..
  split
  · split
    · exact .bind (.engEntry ..) fun _ => .pure _
    · exact .pure _
  · exact .bind (.engDraw ..) fun _ => .pure _

theorem slotLines (x : Seat) (q : Nat) : EngInv (slotLines x q) := by
  unfold Machine.slotLines
  exact .bind (.engPut fun _ hu => hu.updQueue ..) fun _ => .bind .engGet fun _ => .bind (.consAddr ..) fun _ => .bind (.scrRead ..) fun _ =>
    .bind (.consMove ..) fun _ => .pure _

theorem writeLines (x : Seat) (q : Nat) (ls : List Nat) : EngInv (writeLines x q ls) := by
  unfold Machine.writeLines
  exact .bind .engGet fun _ => .ite (.bind (.engAssert ..) fun _ => .writeEnd ..) (.bind (.prodAddr ..) fun _ => .bind (.scrWrite ..) fun _ =>
    .prodMove ..)

theorem crgathWork (w : StreamWord) (x : Seat) : EngInv (crgathWork w x) := by
  unfold Machine.crgathWork
  exact .bind (.engType ..) fun _ => .bind (.engType ..) fun _ => .bind (.engAssert ..) fun _ => .bind .engGet fun _ =>
    .bind (.engAssert ..) fun _ => .bind (.descAt ..) fun _ => .allUnits (fun _ => .takeDirect ..) (fun _ => .bind (.slotLines ..) fun _ =>
    .bind (.listEntries ..) fun _ => .bind (.engAssert ..) fun _ => .bind (.writeLines ..) fun _ => .ite (.bind (.release ..) fun _ =>
    .bind (.release ..) fun _ => .ite (.commit ..) (.pure _)) (.ite (.commit ..) (.pure _))) ..

theorem ctransWork (w : StreamWord) (x : Seat) : EngInv (ctransWork w x) := by
  unfold Machine.ctransWork
  exact .bind (.engType ..) fun _ => .bind (.engType ..) fun _ => .bind (.engAssert ..) fun _ => .bind (.descAt ..) fun _ => .allUnits (fun _ =>
    .takeDirect ..) (fun _ => .bind (.readEnd ..) fun _ => .bind (.writeEnd ..) fun _ => .ite (.finish ..) (.pure _)) ..

theorem sharePiece (x : Seat) (t line off w : Nat) (xs : List Nat) : EngInv (sharePiece x t line off w xs) := by
  unfold Machine.sharePiece
  exact .bind (.engAssert ..) fun _ => .bind (.scrWrite ..) fun _ => .ite (.engCount ..) (.pure _)

theorem exchangeLimb (x : Seat) (r : CableRec) (tiles : List Nat) (reverse : Bool) (w i : Nat) (xs : List Nat) :
    EngInv (exchangeLimb x r tiles reverse w i xs) := by
  unfold Machine.exchangeLimb
  split
  · exact .sharePiece ..
  · exact .forM fun _ => .sharePiece ..

theorem exchangeElements (x : Seat) (r : CableRec) (reverse : Bool) (q : Nat) : EngInv (exchangeElements x r reverse q) := by
  unfold Machine.exchangeElements
  refine .bind .engGet fun _ => ?_
  split
  · exact .slotElements ..
  · split
    · exact .bind (.engAssert ..) fun _ => .pure _
    · exact .engFault ..

theorem cxchgWork (w : StreamWord) (x : Seat) : EngInv (cxchgWork w x) := by
  unfold Machine.cxchgWork
  dsimp only
  exact .bind (.needResidue ..) fun _ => .bind (.descAt ..) fun _ => .bind .engGet fun _ => .bind (.engType ..) fun _ =>
    .bind (.exchangeElements ..) fun _ => .bind (.engAssert ..) fun _ => .bind (.allUnits (fun _ => .takeDirect ..) (fun _ =>
    .bind (.wholeSlot ..) fun _ => .bind (.exchangeLimb ..) fun _ => .ite (.release ..) (.pure _)) ..) fun _ => .bind (.engPut fun _ hu =>
    hu.updTile ..) fun _ => .engPut fun _ hu => hu.foldl _ fun _ _ hv => hv.updTile ..

end EngInv

namespace State.Inv

theorem exchangeDone (hs : s.Inv) (t : Nat) : (s.exchangeDone t).Inv := by
  unfold State.exchangeDone
  split
  · dsimp only
    split
    · exact ((hs.updTile ..).setSem ..).settleTile ..
    · exact (hs.updTile ..).endSoon ..
  · exact hs

end State.Inv

end Sys2Proof.Machine
end
section
/-! Expanded keys: every operation keeps the canonical form. -/
namespace Sys2Proof.Machine

variable {s : State}

namespace EngInv

theorem keyOpen (p idx : Nat) (e : KeyEntry) (r : OpRec) (n : KeyNeed) : EngInv (keyOpen p idx e r n) := by
  unfold Machine.keyOpen
  refine .of fun s hs => ?_
  split
  · dsimp only
    split <;> exact hs
  · split
    · exact hs
    · split <;> exact hs

theorem keysBound (ks : List KeySrc) : EngInv (keysBound ks) := by
  unfold Machine.keysBound
  split
  · split
    · refine .of fun s hs => ?_
      exact hs
    · exact .pure _
  · exact .pure _

theorem keyLimb (p : Nat) (k : KeySrc) (h j x q : Nat) : EngInv (keyLimb p k h j x q) := by
  unfold Machine.keyLimb
  refine .of fun s hs => ?_
  dsimp only
  split
  · exact hs
  · split
    · exact hs
    · split <;> exact hs

theorem countKey (p : Nat) (k : KeySrc) (h d : Nat) : EngInv (countKey p k h d) := by
  unfold Machine.countKey
  split
  · exact .engCount ..
  · split
    · exact .pure _
    · exact .engCount ..

theorem countMiss (p : Nat) (k : KeySrc) : EngInv (countMiss p k) := by
  unfold Machine.countMiss
  split
  · exact .pure _
  · exact .engPut fun _ hu => hu.bump ..

end EngInv

end Sys2Proof.Machine
end
section
/-! Ciphertext operands: every operation keeps the canonical form. -/
namespace Sys2Proof.Machine

variable {s : State}

namespace State.Inv

theorem putHeader (hs : s.Inv) (p h : Nat) (v : Header) : State.InvOk id (s.putHeader p h v) := by
  unfold State.putHeader
  exact hs.writeVA ..

theorem countPoison (hs : s.Inv) (p : Nat) : (s.countPoison p).Inv := by
  unfold State.countPoison
  exact hs.bump ..

end State.Inv

namespace EngInv

theorem readHeader (p h : Nat) : EngInv (Machine.readHeader p h) := by
  unfold Machine.readHeader
  refine .of fun s hs => ?_
  have hput (pa : Nat) := (hs.badLine pa (some p) (hankUnit (s.vfPort p))).putHeader p h damagedHeader
  generalize s.readVA p (s.handleVa p h) 64 = r
  generalize State.putHeader = put at hput ⊢
  revert r put
  -- `id` keeps the abstraction in the proof term: the kernel would otherwise compute the accesses of 64 bytes.
  refine id fun r put hput => ?_
  split
  · exact hs
  · exact hs
  · dsimp only
    split
    next e => exact ((hput _).of_ok e).countPoison ..
    · exact hs.badLine ..

theorem placeCheck (ps : List Place) : EngInv (placeCheck ps) := by
  unfold Machine.placeCheck
  exact .bind (.engAssert ..) fun _ => .engAssert ..

theorem liftChk {α : Type} (x : Except Halt α) : EngInv (liftChk x) := by
  unfold Machine.liftChk
  refine .of fun s hs => ?_
  split <;> exact hs

end EngInv

end Sys2Proof.Machine
end
section
/-! The rib and ply engines: every operation keeps the canonical form. -/
namespace Sys2Proof.Machine

variable {s : State}

namespace EngInv

theorem readConst (p x : Nat) (unit : Option Nat) : EngInv (readConst p x unit) := by
  unfold Machine.readConst
  refine .bind (.engAssert ..) fun _ => .bind (.engAssert ..) fun _ => .bind .engGet fun _ => .bind (.engMem ..) fun _ => ?_
  split
  · exact .pure _
  · exact .engFault ..

theorem rmodeWork (w : StreamWord) (x : Seat) : EngInv (rmodeWork w x) := by
  unfold Machine.rmodeWork
  exact .bind .engGet fun _ => .when_bind (.engStall ..) fun _ => .engPut fun _ hu => hu.updTile ..

theorem rconstWork (w : StreamWord) (x : Seat) : EngInv (rconstWork w x) := by
  unfold Machine.rconstWork
  exact .bind (.descAt ..) fun _ => .bind (.readConst ..) fun _ => .engPut fun _ hu => hu.updTile ..

theorem rmacWork (w : StreamWord) (x : Seat) : EngInv (rmacWork w x) := by
  unfold Machine.rmacWork
  dsimp only
  refine .bind (.descAt ..) fun _ => .bind .engGet fun _ => .allUnits (fun _ => .bind (.takeDirect ..) fun _ =>
    .ite (.takeDirect ..) (.pure _)) (fun _ => .bind (.engAssert ..) fun _ => .bind (.engType ..) fun _ => .bind (.engType ..) fun _ =>
    .bind (.engAssert ..) fun _ => .bind (.engAssert ..) fun _ => .bind (.readEnd ..) fun _ => .ite_bind (.pure _) (.readEnd ..) fun _ =>
    .bind .engGet fun _ => .ite_bind (.engDraw ..) (.pure _) fun _ => .bind ?_ fun _ => .ite (.bind (.engType ..) fun _ =>
    .bind (.engAssert ..) fun _ => .bind (.engResidue ..) fun _ => .bind (.writeEnd ..) fun _ => .bind (.markSat ..) fun _ =>
    .bind (.engPut fun _ hu => hu.updTile ..) fun _ => .when_bind (.commit ..) fun _ => .ite (.bind (.release ..) fun _ =>
    .ite (.release ..) (.pure _)) (.pure _)) (.bind (.engPut fun _ hu => hu.updTile ..) fun _ => .ite (.bind (.release ..) fun _ =>
    .ite (.release ..) (.pure _)) (.pure _))) ..
  split
  · refine .bind (.engAssert ..) fun _ => .bind (.engAssert ..) fun _ => .bind (.engAssert ..) fun _ => .bind (.engResidue ..) fun _ => ?_
    split
    · exact .pure _
    · exact .engFault ..
  · exact .engFault ..
  · exact .pure _
  · exact .pure _

theorem customKey (x : Seat) : EngInv (customKey x) := by
  unfold Machine.customKey
  refine .bind .engGet fun _ => ?_
  split
  · exact .engFault ..
  · split
    · exact .engFault ..
    · exact .bind (.engAssert ..) fun _ => .pure _

theorem pkeyWork (x : Seat) : EngInv (pkeyWork x) := by
  unfold Machine.pkeyWork
  refine .bind (.customKey ..) fun _ => ?_
  split
  · refine .bind .engGet fun s => ?_
    split
    · exact .pure _
    · dsimp only
      split
      · refine .of fun s hs => ?_
        exact hs
      · split
        · refine .of fun s hs => ?_
          exact hs
        · split
          · exact .bind (.countMiss ..) fun _ => .engPut fun _ hu => hu.updTile ..
          · exact .engPut fun _ hu => hu.updTile ..

theorem plyLimb (p : Nat) (k : KeySrc) (h x q n : Nat) (ds : List (List Nat)) (seed : List Nat) : EngInv (plyLimb p k h x q n ds seed) := by
  unfold Machine.plyLimb
  exact .bind (.mapM fun _ => .keyLimb ..) fun _ => .bind (.countKey ..) fun _ => .when_bind (.engCount ..) fun _ => .bind .engGet fun _ =>
    .bind (.engResidue ..) fun _ => .pure _

theorem pmacWork (w : StreamWord) (x : Seat) : EngInv (pmacWork w x) := by
  unfold Machine.pmacWork
  refine .bind (.descAt ..) fun _ => .bind (.customKey ..) fun _ => .bind .engGet fun _ => ?_
  split
  · exact .when_bind (.engStall ..) fun _ => .bind (.needResidue ..) fun _ => .bind (.needResidue ..) fun _ => .allUnits (fun _ =>
      .bind (.takeDirect ..) fun _ => .ite (.takeDirect ..) (.pure _)) (fun _ => .bind (.readEnd ..) fun _ =>
      .ite_bind (.readEnd ..) (.pure _) fun _ => .bind (.forM fun _ => .bind (.engEntry ..) fun _ => .bind (.engAssert ..) fun _ => .forM fun _ =>
      .bind (.engAssert ..) fun _ => .bind (.plyLimb ..) fun _ => .writeEnd ..) fun _ => .ite (.bind (.release ..) fun _ =>
      .when_bind (.release ..) fun _ => .ite (.commit ..) (.pure _)) (.ite (.commit ..) (.pure _))) ..
  · exact .engFault ..

end EngInv

end Sys2Proof.Machine
end
section
/-! The vector engine: every operation keeps the canonical form. -/
namespace Sys2Proof.Machine

variable {s : State}

namespace EngInv

theorem setwinWork (w : StreamWord) (x : Seat) : EngInv (setwinWork w x) := by
  unfold Machine.setwinWork
  refine .bind (.descAt ..) fun _ => .bind (.engAssert ..) fun _ => .bind .engGet fun _ => ?_
  dsimp only
  split
  · exact .bind (.engAssert ..) fun _ => .engPut fun _ hu => hu.updTile ..
  · exact .engPut fun _ hu => hu.updTile ..

theorem setvlWork (w : StreamWord) (x : Seat) : EngInv (setvlWork w x) := by
  unfold Machine.setvlWork
  exact .bind .engGet fun _ => .engPut fun _ hu => hu.updStream ..

theorem vopType (x : Seat) (v : VOp) : EngInv (vopType x v) := by
  unfold Machine.vopType
  refine .bind .engGet fun _ => ?_
  split
  · exact .pure _
  · exact .bind (.engAssert ..) fun _ => .pure _

theorem winAddrs (x : Seat) (i n : Nat) : EngInv (winAddrs x i n) := by
  unfold Machine.winAddrs
  exact .bind .engGet fun _ => .bind (.engAssert ..) fun _ => .bind (.engAssert ..) fun _ => .pure _

theorem vopAddrs (x : Seat) (v : VOp) (n : Nat) (dest : Bool) : EngInv (vopAddrs x v n dest) := by
  unfold Machine.vopAddrs
  refine .bind (.vopType ..) fun _ => ?_
  dsimp only
  split
  · exact .bind (.winAddrs ..) fun _ => .pure _
  · exact .bind .engGet fun _ => .ite (.pure _) (.ite_bind (.prodAddr ..) (.consAddr ..) fun _ => .pure _)

theorem readAddrs (x : Seat) (w : Nat) (as : List Nat) : EngInv (readAddrs x w as) := by
  unfold Machine.readAddrs
  exact .mapM fun _ => .bind (.scrRead ..) fun _ => .pure _

theorem vopRead (x : Seat) (v : VOp) (n : Nat) (second : Bool) : EngInv (vopRead x v n second) := by
  unfold Machine.vopRead
  split
  · exact .readEnd ..
  · exact .bind (.vopType ..) fun _ => .bind (.winAddrs ..) fun _ => .readAddrs ..

theorem vopWrite (x : Seat) (v : VOp) (ys : List Nat) : EngInv (vopWrite x v ys) := by
  unfold Machine.vopWrite
  split
  · exact .writeEnd ..
  · exact .bind (.vopType ..) fun _ => .bind (.winAddrs ..) fun _ => .forM fun _ => .scrWrite ..

theorem vecAdvance (x : Seat) (n : Nat) (srcs : List VOp) (dst : Option VOp) : EngInv (vecAdvance x n srcs dst) := by
  unfold Machine.vecAdvance
  refine .bind (.forM fun _ => .engPut fun _ hu => hu.updTile ..) fun _ => .bind (.forM fun _ => .release ..) fun _ => ?_
  split
  · exact .commit ..
  · exact .pure _

theorem vopPrime (x : Seat) (v : VOp) : EngInv (vopPrime x v) := by
  unfold Machine.vopPrime
  refine .bind .engGet fun _ => ?_
  split <;> exact .pure _

theorem vecPrime (x : Seat) (d : VOp) (srcs : List VOp) : EngInv (vecPrime x d srcs) := by
  unfold Machine.vecPrime
  exact .bind (.mapM fun _ => .vopPrime ..) fun _ => .pure _

theorem engDraws (m n : Nat) : EngInv (engDraws m n) := by
  unfold Machine.engDraws
  refine .of fun s hs => ?_
  exact hs.drawBelow ..

theorem lastPrime (x : Seat) (a : Option VOp) : EngInv (lastPrime x a) := by
  unfold Machine.lastPrime
  refine .bind .engGet fun _ => .bind ?_ fun _ => ?_
  · split
    · exact .vopPrime ..
    · exact .pure _
  · split <;> exact .pure _

theorem vecElement (x : Seat) (op : Nat) (g : VecArgs) (tA tB tC tD : Nat) (as bs cs : List Nat) : EngInv (vecElement x op g tA tB tC tD as bs cs) := by
  unfold Machine.vecElement
  dsimp only
  split
  · refine .bind (.engAssert ..) fun _ => .bind (.vecPrime ..) fun _ => ?_
    split
    · exact .bind (.engAssert ..) fun _ => .bind (.engResidue ..) fun _ => .pure _
    · exact .engDraws ..
  · split
    · refine .bind (.engAssert ..) fun _ => .bind .engGet fun _ => .bind (.lastPrime ..) fun _ => .bind (.vopPrime ..) fun _ => ?_
      split
      · exact .bind (.engAssert ..) fun _ => .pure _
      · exact .engDraws ..
    · split
      · refine .bind (.engAssert ..) fun _ => .bind .engGet fun _ => .bind (.vecPrime ..) fun _ => ?_
        split
        · exact .bind (.engAssert ..) fun _ => .ite (.engDraws ..) (.bind (.engResidue ..) fun _ => .pure _)
        · exact .engDraws ..
      · split
        · exact .bind (.engAssert ..) fun _ => .pure _
        · split
          · exact .bind (.engAssert ..) fun _ => .bind (.markSat ..) fun _ => .pure _
          · split
            · exact .bind (.engAssert ..) fun _ => .pure _
            · split
              · exact .bind (.engAssert ..) fun _ => .pure _
              · exact .bind (.engAssert ..) fun _ => .bind (.markSat ..) fun _ => .pure _

theorem vecWork (op : Nat) (w : StreamWord) (x : Seat) : EngInv (Machine.vecWork op w x) := by
  unfold Machine.vecWork
  generalize (vecArity op).getD (1, false) = a
  obtain ⟨arity, _⟩ := a
  refine .bind .engGet fun s => ?_
  extract_lets n sa sb dst srcA srcB outQ takeB unit
  clear_value outQ dst srcA srcB
  have htakeB (r : Unit) : EngInv (takeB r) := by
    unfold takeB
    split
    · exact .takeDirect ..
    · exact .pure _
  have hunit (rec_ : Nat) : EngInv (unit rec_) := by
    refine .bind (.vopType ..) fun tD => ?_
    extract_lets withA
    have hA (tA : Nat) : EngInv (withA tA) := by
      unfold withA
      extract_lets withB
      have hB (tB : Nat) : EngInv (withB tB) := by
        refine .bind (.vopAddrs ..) fun dA => ?_
        extract_lets readA addrA
        have hreadA (as : List Nat) : EngInv (readA as) := by
          unfold readA
          extract_lets readB
          have hreadB (bs : List Nat) : EngInv (readB bs) := by
            unfold readB
            extract_lets write
            have hwrite (cs : List Nat) : EngInv (write cs) :=
              .bind (.vecElement ..) fun _ => .bind (.vopWrite ..) fun _ => .vecAdvance ..
            refine .ite (.bind (.pure _) hwrite) (.ite (.bind (.pure _) hwrite) ?_)
            split
            · exact .bind (.readAddrs ..) hwrite
            · exact .bind (.engFault _) hwrite
          split
          · exact .bind (.vopRead ..) hreadB
          · exact .bind (.pure _) hreadB
        have haddrA (aA : Option (Nat × List Nat)) : EngInv (addrA aA) := by
          unfold addrA
          extract_lets addrB
          have haddrB (bA : Option (Nat × List Nat)) : EngInv (addrB bA) := by
            refine .bind (.engAssert ..) fun _ => ?_
            split
            · exact .bind (.vopRead ..) hreadA
            · exact .bind (.pure _) hreadA
          split
          · exact .bind (.vopAddrs ..) haddrB
          · exact .bind (.pure _) haddrB
        split
        · exact .bind (.vopAddrs ..) haddrA
        · exact .bind (.pure _) haddrA
      split
      · exact .bind (.vopType ..) hB
      · exact .bind (.pure _) hB
    split
    · exact .bind (.vopType ..) hA
    · exact .bind (.pure _) hA
  refine .ite (.pure _) (.allUnits (fun _ => ?_) (fun _ => .ite (.bind (.descAt ..) hunit) (.bind (.pure _) hunit)) ..)
  split
  · exact .bind (.takeDirect ..) htakeB
  · exact htakeB ()

end EngInv

namespace State.Inv

theorem vec (hs : s.Inv) (t op : Nat) (w : StreamWord) : (s.vec t op w).Inv := by
  unfold State.vec
  exact hs.issue (fun _ => .vecWork ..) ..

end State.Inv

namespace EngInv

theorem sourcePrime (x : Seat) (a : VOp) (ty : Nat) : EngInv (sourcePrime x a ty) := by
  unfold Machine.sourcePrime
  refine .bind (.vopPrime ..) fun _ => ?_
  split
  · exact .pure _
  · split
    · exact .pure _
    · exact .bind (.engDraw ..) fun _ => .pure _

theorem vreduceWork (w : StreamWord) (x : Seat) : EngInv (vreduceWork w x) := by
  unfold Machine.vreduceWork
  refine .bind .engGet fun _ => ?_
  dsimp only
  split
  · exact .pure _
  · refine .when_bind (.engStall ..) fun _ => .allUnits (fun _ => ?_) (fun _ => .bind (.vopType ..) fun _ => .bind (.engAssert ..) fun _ =>
      .bind (.vopRead ..) fun _ => .bind (.sourcePrime ..) fun _ => .bind (.engAssert ..) fun _ => .bind .engGet fun _ => .bind ?_ fun _ =>
      .bind (.engAssert ..) fun _ => .ite (.bind (.vopType ..) fun _ => .bind .engGet fun _ => .bind (.engAssert ..) fun _ =>
      .bind (.engResidue ..) fun _ => .bind (.vopWrite ..) fun _ => .bind (.engPut fun _ hu => hu.updTile ..) fun _ =>
      .vecAdvance ..) (.bind (.engPut fun _ hu => hu.updTile ..) fun _ => .vecAdvance ..)) ..
    · split
      · exact .takeDirect ..
      · exact .pure _
    · split
      · exact .pure _
      · exact .bind (.engAssert ..) fun _ => .pure _
      · exact .engFault ..

end EngInv

end Sys2Proof.Machine
end
section
/-! Key switching: every operation keeps the canonical form. -/
namespace Sys2Proof.Machine

variable {s : State}

namespace EngInv

theorem Run_prime (x : Run) (e : Nat) : EngInv (Run.prime x e) := by
  unfold Machine.Run.prime
  refine .of fun s hs => ?_
  exact hs

theorem Run_entries (x : Run) (es : List Nat) : EngInv (Run.entries x es) := by
  unfold Machine.Run.entries
  refine .of fun s hs => ?_
  exact hs

theorem Run_qs (x : Run) (es : List Nat) : EngInv (Run.qs x es) := by
  unfold Machine.Run.qs
  refine .of fun s hs => ?_
  exact hs

theorem readLimb (x : Run) (handle : Nat) (h : Header) (c i : Nat) : EngInv (readLimb x handle h c i) := by
  unfold Machine.readLimb
  refine .of fun s hs => ?_
  dsimp only
  split
  · exact hs
  · exact hs.badLine ..
  · split <;> exact hs

theorem readCt (x : Run) (handle : Nat) (h : Header) (comps levels : Nat) : EngInv (readCt x handle h comps levels) := by
  unfold Machine.readCt
  exact .mapM fun _ => .mapM fun _ => .readLimb ..

theorem allOrNothing {u : Eng Unit} (hu : EngInv u) : EngInv (allOrNothing u) := by
  unfold Machine.allOrNothing
  refine .of fun s hs => ?_
  split
  · exact hs
  · exact hs.run hu

theorem writeCt (p : Nat) (unit : Option Nat) (h : Header) (d : CtData) : EngInv (writeCt p unit h d) := by
  unfold Machine.writeCt
  exact .allOrNothing (.forM fun _ => .engFeed ..) ..

theorem Run_mul (x : Run) (es : List Nat) (a b : Limbs) : EngInv (Run.mul x es a b) := by
  unfold Machine.Run.mul
  exact .bind (.Run_entries ..) fun _ => .bind (.engResidue ..) fun _ => .pure _

theorem Run_scale (x : Run) (es cs : List Nat) (a : Limbs) : EngInv (Run.scale x es cs a) := by
  unfold Machine.Run.scale
  exact .bind (.Run_entries ..) fun _ => .bind (.engResidue ..) fun _ => .pure _

theorem tensorCt (x : Run) (es : List Nat) (a b : CtData) : EngInv (tensorCt x es a b) := by
  unfold Machine.tensorCt
  exact .bind (.Run_qs ..) fun _ => .bind (.Run_mul ..) fun _ => .bind (.Run_mul ..) fun _ => .bind (.Run_mul ..) fun _ =>
    .bind (.Run_mul ..) fun _ => .pure _

theorem Run_ntt (x : Run) (fwd : Bool) (es : List Nat) (ls : Limbs) : EngInv (Run.ntt x fwd es ls) := by
  unfold Machine.Run.ntt
  exact .mapM fun _ => .bind (.Run_prime ..) fun _ => .engTransform ..

theorem Run_bconv (x : Run) (src dst : List Nat) (xs : Limbs) : EngInv (Run.bconv x src dst xs) := by
  unfold Machine.Run.bconv
  exact .bind (.Run_entries ..) fun _ => .bind (.Run_entries ..) fun _ => .bind (.engResidue ..) fun _ => .pure _

theorem modUp (x : Run) (l : Nat) (d : Limbs) : EngInv (modUp x l d) := by
  unfold Machine.modUp
  exact .mapM fun _ => .bind (.Run_ntt ..) fun _ => .bind (.Run_bconv ..) fun _ => .bind (.Run_ntt ..) fun _ => .pure _

theorem plySums (x : Run) (k : KeySrc) (l g half : Nat) (dt : List Limbs) : EngInv (plySums x k l g half dt) := by
  unfold Machine.plySums
  exact .mapM fun _ => .bind (.Run_prime ..) fun _ => .bind (.mapM fun _ => .keyLimb ..) fun _ => .bind (.countKey ..) fun _ =>
    .bind (.engResidue ..) fun _ => .pure _

theorem modDown (x : Run) (l : Nat) (u : Limbs) : EngInv (modDown x l u) := by
  unfold Machine.modDown
  exact .bind (.Run_qs ..) fun _ => .bind (.Run_qs ..) fun _ => .bind (.Run_ntt ..) fun _ => .bind (.Run_bconv ..) fun _ =>
    .bind (.Run_ntt ..) fun _ => .Run_scale ..

theorem keySwitchFrom (x : Run) (k : KeySrc) (l g : Nat) (dt : List Limbs) : EngInv (keySwitchFrom x k l g dt) := by
  unfold Machine.keySwitchFrom
  exact .bind (.plySums ..) fun _ => .bind (.plySums ..) fun _ => .bind (.countMiss ..) fun _ => .bind (.modDown ..) fun _ =>
    .bind (.modDown ..) fun _ => .pure _

theorem keySwitch (x : Run) (k : KeySrc) (l g : Nat) (d : Limbs) : EngInv (keySwitch x k l g d) := by
  unfold Machine.keySwitch
  exact .bind (.modUp ..) fun _ => .keySwitchFrom ..

theorem relinCt (x : Run) (k : KeySrc) (l : Nat) (a : CtData) : EngInv (relinCt x k l a) := by
  unfold Machine.relinCt
  exact .bind (.keySwitch ..) fun _ => .bind (.Run_qs ..) fun _ => .pure _

theorem galoisCt (x : Run) (k : KeySrc) (l g : Nat) (a : CtData) (dt : List Limbs) : EngInv (galoisCt x k l g a dt) := by
  unfold Machine.galoisCt
  exact .bind (.keySwitchFrom ..) fun _ => .bind (.Run_qs ..) fun _ => .pure _

theorem rescaleLimbs (x : Run) (bgv eval : Bool) (l : Nat) (a : Limbs) : EngInv (rescaleLimbs x bgv eval l a) := by
  unfold Machine.rescaleLimbs
  exact .bind (.Run_prime ..) fun _ => .bind (.Run_qs ..) fun _ => .ite_bind (.Run_ntt ..) (.pure _) fun _ =>
    .ite_bind (.Run_ntt ..) (.pure _) fun _ => .Run_scale ..

theorem rescaleCt (x : Run) (bgv eval : Bool) (l : Nat) (a : CtData) : EngInv (rescaleCt x bgv eval l a) := by
  unfold Machine.rescaleCt
  exact .mapM fun _ => .rescaleLimbs ..

theorem rescaleDown (x : Run) (bgv eval : Bool) (k l : Nat) (a : CtData) : EngInv (rescaleDown x bgv eval k l a) := by
  induction k generalizing l a with
  | zero => exact .pure _
  | succ k ih => exact .bind (.rescaleCt ..) fun a => ih (l - 1) a

theorem mulBfv (x : Run) (l : Nat) (a b : CtData) : EngInv (mulBfv x l a b) := by
  unfold Machine.mulBfv
  exact .bind (.Run_qs ..) fun _ => .bind (.Run_qs ..) fun _ => .bind (.mapM fun _ => .bind (.Run_ntt ..) fun _ => .bind (.Run_ntt ..) fun _ =>
    .pure _) fun _ => .bind (.mapM fun _ => .bind (.Run_ntt ..) fun _ => .bind (.Run_ntt ..) fun _ => .pure _) fun _ => .bind (.tensorCt ..) fun _ =>
    .mapM fun _ => .bind (.Run_ntt ..) fun _ => .Run_ntt ..

end EngInv

end Sys2Proof.Machine
end
section
/-! The expanded instructions: every operation keeps the canonical form. -/
namespace Sys2Proof.Machine

variable {s : State}

namespace EngInv

theorem recordBytes (p a n : Nat) : EngInv (recordBytes p a n) := by
  unfold Machine.recordBytes
  refine .of fun s hs => ?_
  split <;> exact hs

theorem readPlan (p a : Nat) : EngInv (readPlan p a) := by
  unfold Machine.readPlan
  exact .bind (.recordBytes ..) fun _ => .ite (.pure _) (.bind (.recordBytes ..) fun _ => .pure _)

theorem readPoly (p a extra : Nat) (ckks : Bool) : EngInv (readPoly p a extra ckks) := by
  unfold Machine.readPoly
  exact .bind (.recordBytes ..) fun _ => .bind (.engAssert ..) fun _ => .bind (.recordBytes ..) fun _ => .pure _

theorem ptLimbs (x : Run) (l : Nat) (a : Pt) : EngInv (ptLimbs x l a) := by
  unfold Machine.ptLimbs
  split
  · exact .mapM fun _ => .bind (.Run_prime ..) fun _ => .bind .engGet fun _ => .bind (.engMem ..) fun _ => .bind (.engAssert ..) fun _ => .pure _
  · exact .bind (.Run_qs ..) fun _ => .pure _
  · exact .mapM fun _ => .bind (.Run_prime ..) fun _ => .pure _

theorem XStep_run (x : Run) (scheme : Nat) (keys : List (Nat × KeySrc)) (st : XStep) (l : Nat) (a b : CtData) :
    EngInv (XStep.run x scheme keys st l a b) := by
  unfold Machine.XStep.run
  refine .bind (.Run_qs ..) fun _ => ?_
  split
  · exact .pure _
  · exact .pure _
  · split
    · exact .bind (.ptLimbs ..) fun _ => .pure _
    · exact .pure _
  · split
    · exact .bind (.ptLimbs ..) fun _ => .mapM fun _ => .Run_mul ..
    · exact .pure _
  · exact .mapM fun _ => .Run_scale ..
  · split
    · exact .mulBfv ..
    · exact .tensorCt ..
  · split
    · exact .relinCt ..
    · exact .pure _
  · split
    · exact .bind (.modUp ..) fun _ => .galoisCt ..
    · exact .pure _
  · exact .rescaleCt ..
  · exact .pure _
  · exact .mapM fun _ => .Run_ntt ..
  · exact .mapM fun _ => .Run_ntt ..

theorem Prog_run (x : Run) (scheme : Nat) (keys : List (Nat × KeySrc)) (vs : List Content) (b : Prog) (d : CtData) :
    EngInv (Prog.run x scheme keys vs b d) := by
  unfold Machine.Prog.run
  exact .foldlM fun _ _ => .bind (.XStep_run ..) fun _ => .pure _

theorem modRaise (x : Run) (form : Nat) (a : CtData) : EngInv (modRaise x form a) := by
  unfold Machine.modRaise
  exact .bind (.Run_prime ..) fun _ => .bind (.Run_qs ..) fun _ => .mapM fun _ => .ite_bind (.Run_ntt ..) (.pure _) fun _ => .Run_ntt ..

end EngInv

end Sys2Proof.Machine
end
section
/-! The checks of an op: every operation keeps the canonical form. -/
namespace Sys2Proof.Machine

variable {s : State}

namespace EngInv

theorem opDesc (j : Job) (unit : Option Nat) (i n : Nat) : EngInv (opDesc j unit i n) := by
  unfold Machine.opDesc
  refine .of fun s hs => ?_
  split
  next e => exact (hs.cachedVA ..).of_ok e
  · exact hs

theorem dirEntry (p idx : Nat) : EngInv (dirEntry p idx) := by
  unfold Machine.dirEntry
  refine .of fun s hs => ?_
  split <;> exact hs

theorem dirOwned (p : Nat) (es : List KeyEntry) : EngInv (dirOwned p es) := by
  unfold Machine.dirOwned
  exact .bind .engGet fun _ => .engAssert ..

theorem dirCheck (p : Nat) (idxs : List Nat) : EngInv (dirCheck p idxs) := by
  unfold Machine.dirCheck
  exact .bind .engGet fun _ => .bind (.engAssert ..) fun _ => .bind (.mapM fun _ => .dirEntry ..) fun _ => .bind .engGet fun _ =>
    .bind (.engAssert ..) fun _ => .bind (.dirOwned ..) fun _ => .pure _

theorem ctFront (j : Job) (unit : Option Nat) (e : Entry) : EngInv (ctFront j unit e) := by
  unfold Machine.ctFront
  exact .bind .engGet fun _ => .bind (.engAssert ..) fun _ => .ite_bind (.map (.dirEntry ..) _) (.pure _) fun _ =>
    .ite_bind (.readHeader ..) (.pure _) fun _ => .ite_bind (.ite (.pure _) (.readHeader ..)) (.pure _) fun _ =>
    .ite_bind (.ite (.pure _) (.ite (.pure _) (.readHeader ..))) (.pure _) fun _ => .ite_bind (.map (.opDesc ..) _) (.pure _) fun _ =>
    .bind .engGet fun _ => .bind (.engAssert ..) fun _ => .bind (.placeCheck ..) fun _ => .bind (.engAssert ..) fun _ => .pure _

theorem bundleAddr (p chain ks fuel i : Nat) : EngInv (bundleAddr p chain ks fuel i) := by
  induction fuel generalizing i with
  | zero => exact .pure _
  | succ fuel ih => exact .bind .engGet fun _ => .bind (.recordBytes ..) fun _ => .ite (.pure _) (ih (i + 1))

theorem bundleFor (p chain ks : Nat) : EngInv (bundleFor p chain ks) := by
  unfold Machine.bundleFor
  exact .bind .engGet fun _ => .bundleAddr ..

theorem readBundle (p a : Nat) : EngInv (readBundle p a) := by
  unfold Machine.readBundle
  exact .bind (.recordBytes ..) fun _ => .pure _

theorem quietBundle (p chain ks : Nat) : EngInv (quietBundle p chain ks) := by
  have found : EngInv (do
      match ← Machine.bundleFor p chain ks with
      | some a => return some (← Machine.readBundle p a)
      | none => return none : Eng (Option Bundle)) := by
    refine .bind (.bundleFor ..) fun a => ?_
    split
    · exact .bind (.readBundle ..) fun _ => .pure _
    · exact .pure _
  refine .of fun s hs => ?_
  unfold Machine.quietBundle
  split
  · next e => exact hs.eng_ok found e
  · next e => exact (hs.eng_error found e).capture ..
  · next e => exact (hs.eng_error found e).badLine ..
  · next e => exact hs.eng_error found e

theorem refreshWanted (j : Job) (h : Nat) (hdr : Header) (guard : Nat) : EngInv (refreshWanted j h hdr guard) := by
  unfold Machine.refreshWanted
  refine .bind .engGet fun _ => ?_
  split
  · exact .pure _
  · split
    · exact .pure _
    next x _ _ =>
      refine .bind (.quietBundle ..) fun x => ?_
      split <;> exact .pure _

theorem refreshFirst (j : Job) (r : OpRec) (guard : Nat) (hs : List (Nat × Header)) : EngInv (refreshFirst j r guard hs) := by
  induction hs with
  | nil => exact .pure _
  | cons x rest ih => exact .ite (.bind (.refreshWanted ..) fun _ => .ite (.pure _) ih) ih

theorem budgetOk (guard : Nat) (x : List Header) : EngInv (budgetOk guard x) := by
  unfold Machine.budgetOk
  exact .engAssert ..

theorem plainCheck (j : Job) (unit : Option Nat) (e : Entry) (a : Header) : EngInv (plainCheck j unit e a) := by
  unfold Machine.plainCheck
  exact .bind (.opDesc ..) fun _ => .bind .engGet fun _ => .bind (.engAssert ..) fun _ => .bind (.engAssert ..) fun _ => .pure _

theorem hoistCheck (j : Job) (r : OpRec) (f : Front) (c : Content) : EngInv (hoistCheck j r f c) := by
  unfold Machine.hoistCheck
  exact .bind (.opDesc ..) fun _ => .bind .engGet fun _ => .bind (.engAssert ..) fun _ => .bind (.engAssert ..) fun _ => .bind (.mapM fun _ =>
    .readHeader ..) fun _ => .bind (.engAssert ..) fun _ => .bind (.placeCheck ..) fun _ => .bind (.engAssert ..) fun _ => .bind .engGet fun _ =>
    .bind (.engAssert ..) fun _ => .bind (.dirCheck ..) fun _ => .pure _

theorem readyStep (j : Job) (r : OpRec) : EngInv (readyStep j r) := by
  unfold Machine.readyStep
  dsimp only
  refine .bind (.ctFront ..) fun _ => .bind .engGet fun _ => .bind (.engAssert ..) fun _ => .bind (.liftChk ..) fun _ =>
    .bind (.refreshFirst ..) fun _ => ?_
  split
  · exact .pure _
  · refine .bind (.liftChk ..) fun _ => .bind (.budgetOk ..) fun _ => .bind (.engAssert ..) fun _ => ?_
    split
    · exact .bind (.dirOwned ..) fun _ => .bind (.engAssert ..) fun _ => .bind (.engAssert ..) fun _ => .ite (.bind (.plainCheck ..) fun _ =>
        .pure _) (.ite (.bind (.hoistCheck ..) fun _ => .pure _) (.pure _))
    · exact .bind (.engAssert ..) fun _ => .bind (.engAssert ..) fun _ => .ite (.bind (.plainCheck ..) fun _ =>
        .pure _) (.ite (.bind (.hoistCheck ..) fun _ => .pure _) (.pure _))

theorem readyLoad (j : Job) (r : OpRec) : EngInv (readyLoad j r) := by
  unfold Machine.readyLoad
  exact .bind (.ctFront ..) fun _ => .bind .engGet fun _ => .bind (.engAssert ..) fun _ => .bind (.engAssert ..) fun _ => .pure _

theorem readyStore (j : Job) (r : OpRec) : EngInv (readyStore j r) := by
  unfold Machine.readyStore
  refine .bind (.ctFront ..) fun _ => .bind .engGet fun _ => .bind (.engAssert ..) fun _ => .bind (.refreshFirst ..) fun _ => ?_
  split
  · exact .pure _
  · exact .bind (.engAssert ..) fun _ => .pure _

theorem expandedFront (j : Job) (r : OpRec) (f : Front) : EngInv (expandedFront j r f) := by
  unfold Machine.expandedFront
  refine .bind .engGet fun _ => .bind (.engAssert ..) fun _ => .bind (.refreshFirst ..) fun _ => ?_
  split
  · exact .pure _
  · exact .bind (.budgetOk ..) fun _ => .pure _

theorem readyLinear (j : Job) (r : OpRec) : EngInv (readyLinear j r) := by
  unfold Machine.readyLinear
  exact .bind (.ctFront ..) fun _ => .bind (.expandedFront ..) fun _ => .ite (.pure _) (.bind (.engAssert ..) fun _ => .bind (.readPlan ..) fun _ =>
    .bind (.engAssert ..) fun _ => .bind (.engAssert ..) fun _ => .bind (.engAssert ..) fun _ => .bind (.engAssert ..) fun _ =>
    .bind (.dirCheck ..) fun _ => .bind (.liftChk ..) fun _ => .bind (.engAssert ..) fun _ => .pure _)

theorem readyPoly (j : Job) (r : OpRec) : EngInv (readyPoly j r) := by
  unfold Machine.readyPoly
  refine .bind (.ctFront ..) fun _ => .bind (.expandedFront ..) fun x => ?_
  split
  next x _ _ =>
    split
    · exact .pure _
    · refine .bind (.engAssert ..) fun x => .bind (.readPoly ..) fun x => ?_
      split
      · split
        · refine .bind (.liftChk ..) fun _ => .bind (.engAssert ..) fun x => ?_
          dsimp only
          split
          · exact .bind (.dirOwned ..) fun _ => .pure _
          · exact .pure _

theorem readParts (p : Nat) (b : Bundle) : EngInv (readParts p b) := by
  unfold Machine.readParts
  exact .bind (.mapM fun _ => .readPlan ..) fun _ => .bind (.mapM fun _ => .readPlan ..) fun _ => .bind (.readPoly ..) fun _ => .pure _

theorem openKeys (p : Nat) (r : OpRec) (dirs : List (Nat × Nat)) (h : Header) (c : ChainHdr) (us : List KeyUse) : EngInv (openKeys p r dirs h c us) := by
  unfold Machine.openKeys
  exact .bind (.mapM fun _ => .bind (.keyOpen ..) fun _ => .pure _) fun _ => .bind (.keysBound ..) fun _ => .pure _

theorem readyRefresh (j : Job) (r : OpRec) : EngInv (readyRefresh j r) := by
  unfold Machine.readyRefresh
  dsimp only
  refine .bind (.ctFront ..) fun _ => .bind .engGet fun _ => .bind (.engAssert ..) fun _ => .bind (.refreshFirst ..) fun _ => ?_
  split
  · exact .pure _
  · refine .bind (.bundleFor ..) fun _ => ?_
    split
    · exact .engFault ..
    · exact .bind (.engAssert ..) fun _ => .bind (.readBundle ..) fun _ => .bind (.engAssert ..) fun _ => .bind (.readParts ..) fun _ =>
        .bind (.engAssert ..) fun _ => .bind (.dirCheck ..) fun _ => .bind (.openKeys ..) fun _ => .bind (.liftChk ..) fun _ =>
        .bind (.engAssert ..) fun _ => .pure _

end EngInv

end Sys2Proof.Machine
end
section
/-! The tiles: every operation keeps the canonical form. -/
namespace Sys2Proof.Machine

variable {s : State}

namespace State.Inv

theorem semWrite (hs : s.Inv) (t : Nat) (n : Fin 32) (v : Word32) : (s.semWrite t n v).Inv := by
  unfold State.semWrite
  split
  · exact hs.stickOpt ..
  · exact hs.setReg ..

theorem applySpad (hs : s.Inv) (t : Nat) (on : BitVec 8) : (s.applySpad t on).Inv := (hs.setReg ..).updTile ..
theorem powerTile (hs : s.Inv) (t : Nat) : (s.powerTile t).Inv := ((hs.applySpad ..).setReg ..).updTile ..
theorem spadWrite (hs : s.Inv) (t : Nat) (on : BitVec 8) : (s.spadWrite t on).Inv := hs.updTile ..

theorem tileReset (hs : s.Inv) (t : Nat) : (s.tileReset t).Inv := by
  unfold State.tileReset
  split
  · exact hs
  · exact (((hs.dropCommit ..).keepRegs _).setField ..).updTile ..

theorem vecCtrlWrite (hs : s.Inv) (t : Nat) (v : Word32) : (s.vecCtrlWrite t v).Inv := hs.updTile ..

end State.Inv

end Sys2Proof.Machine
end
section
/-! The admission of ops and their work: every operation keeps the canonical form. -/
namespace Sys2Proof.Machine

variable {s : State}

namespace State.Inv

theorem fireHook (hs : s.Inv) (j : Job) (r : OpRec) (i : Nat) : (s.fireHook j r i).Inv := by
  unfold State.fireHook
  dsimp only
  exact .foldl (.stopOps (.updPart (.setField (.setField (.setField (.ite (hs.setField ..) hs) ..) ..) ..) ..) ..) _ fun _ _ hu => hu.updTile ..

theorem startOp (hs : s.Inv) (o : OpRef) (j : Job) (r : OpRec) : (s.startOp o j r).Inv := by
  unfold State.startOp
  dsimp only
  exact .foldl (.foldl (.updOp (hs.latch ..).draw ..) _ fun _ _ hu => hu.keepLeaves ..) _ fun _ _ hu => hu.updTile ..

theorem badReservoirs (hs : s.Inv) (o : OpRef) (j : Job) (r : OpRec) : (s.badReservoirs o j r).Inv := by
  unfold State.badReservoirs
  exact hs.foldl _ fun _ _ hu => .ite (((hu.reportLog ..).countUp ..).updOp ..) hu

theorem startRun (hs : s.Inv) (o : OpRef) (j : Job) (r : OpRec) : (s.startRun o j r).Inv := by
  unfold State.startRun
  dsimp only
  exact .badReservoirs (.updOp (.startOp (.ite (hs.foldl _ fun _ _ hu => hu.powerTile ..) hs) ..) ..) ..

theorem noteWrites (hs : s.Inv) (j : Job) (r : OpRec) : (s.noteWrites j r).Inv := by
  unfold State.noteWrites
  refine hs.foldl _ fun u x hu => ?_
  split
  · split
    · exact hu.updTile ..
    · exact hu

theorem runOp {work : Job → OpRec → Eng Unit} (hs : s.Inv) (hwork : ∀ a b, EngInv (work a b)) (o : OpRef) (opcode : Nat) :
    (s.runOp o opcode work).Inv := by
  unfold State.runOp
  split
  · exact hs
  · split
    · split
      · exact hs.fireHook ..
      · split
        next e3 => exact (((hs.startRun ..).eng_ok (hwork _ _) e3).noteWrites ..).updOp ..
        next e3 => exact ((hs.startRun ..).eng_error (hwork _ _) e3).opFailed ..
    · exact hs

end State.Inv

namespace EngInv

theorem putResult (j : Job) (r : OpRec) (d : CtData) : EngInv (putResult j r d) := by
  unfold Machine.putResult
  exact .writeCt ..

theorem operandA (x : Run) (r : OpRec) (l : Nat) : EngInv (operandA x r l) := by
  unfold Machine.operandA
  exact .readCt ..

theorem operandB (x : Run) (r : OpRec) (l : Nat) : EngInv (operandB x r l) := by
  unfold Machine.operandB
  exact .readCt ..

theorem plainLimb (x : Run) (t : TDesc) (i : Nat) : EngInv (plainLimb x t i) := by
  unfold Machine.plainLimb
  exact .bind (.Run_prime ..) fun _ => .bind .engGet fun _ => .bind (.engMem ..) fun _ => .bind (.engAssert ..) fun _ => .pure _

theorem stepWork {f : Run → OpRec → Nat → List Nat → CtData → Eng CtData} (hf : ∀ a b c d e, EngInv (f a b c d e)) (j : Job) (r : OpRec) :
    EngInv (stepWork f j r) := by
  unfold Machine.stepWork
  exact .bind .engGet fun _ => .bind (.operandA ..) fun _ => .bind (.Run_qs ..) fun _ => .bind (hf _ _ _ _ _) fun _ => .putResult ..

theorem binaryWork {f : Run → OpRec → Nat → List Nat → CtData → CtData → Eng CtData} (hf : ∀ a b c d e g, EngInv (f a b c d e g)) (j : Job)
  (r : OpRec) :
    EngInv (binaryWork f j r) := by
  unfold Machine.binaryWork
  exact .bind .engGet fun _ => .bind (.operandA ..) fun _ => .bind (.operandB ..) fun _ => .bind (.Run_qs ..) fun _ =>
    .bind (hf _ _ _ _ _ _) fun _ => .putResult ..

theorem opKey (j : Job) (r : OpRec) (kind g : Nat) : EngInv (opKey j r kind g) := by
  unfold Machine.opKey
  refine .bind .engGet fun _ => .bind (.openKeys ..) fun _ => ?_
  split
  · exact .pure _
  · exact .engFault ..

theorem keyWork {f : Run → KeySrc → Nat → Nat → CtData → Eng CtData} {after : OpRef → KeySrc → Eng Unit} (hf : ∀ a b c d e, EngInv (f a b c d e))
  (hafter : ∀ a b, EngInv (after a b)) (kind : Nat) (g : OpRec → Nat) (o : OpRef) (j : Job) (r : OpRec) :
    EngInv (keyWork kind g f after o j r) := by
  unfold Machine.keyWork
  exact .bind (.opKey ..) fun _ => .bind (hafter _ _) fun _ => .bind .engGet fun _ => .bind (.operandA ..) fun _ => .bind (hf _ _ _ _ _) fun _ =>
    .putResult ..

theorem galoisWork (x : Run) (k : KeySrc) (l g : Nat) (a : CtData) : EngInv (galoisWork x k l g a) := by
  unfold Machine.galoisWork
  exact .bind (.modUp ..) fun _ => .galoisCt ..

theorem workAdd (a : Job) (a' : OpRec) : EngInv (workAdd a a') := by
  unfold Machine.workAdd
  exact .binaryWork (fun _ _ _ _ _ _ => .pure _) ..

theorem workSub (a : Job) (a' : OpRec) : EngInv (workSub a a') := by
  unfold Machine.workSub
  exact .binaryWork (fun _ _ _ _ _ _ => .pure _) ..

theorem workNeg (a : Job) (a' : OpRec) : EngInv (workNeg a a') := by
  unfold Machine.workNeg
  exact .stepWork (fun _ _ _ _ _ => .pure _) ..

theorem workAddPlain (a : Job) (a' : OpRec) : EngInv (workAddPlain a a') := by
  unfold Machine.workAddPlain
  exact .stepWork (fun _ _ _ _ _ => .bind (.mapM fun _ => .plainLimb ..) fun _ => .pure _) ..

theorem workMulPlain (a : Job) (a' : OpRec) : EngInv (workMulPlain a a') := by
  unfold Machine.workMulPlain
  exact .stepWork (fun _ _ _ _ _ => .bind (.mapM fun _ => .plainLimb ..) fun _ => .mapM fun _ => .Run_mul ..) ..

theorem workMulConst (a : Job) (a' : OpRec) : EngInv (workMulConst a a') := by
  unfold Machine.workMulConst
  exact .stepWork (fun _ _ _ _ _ => .mapM fun _ => .Run_scale ..) ..

theorem workMul (a : Job) (a' : OpRec) : EngInv (workMul a a') := by
  unfold Machine.workMul
  exact .binaryWork (fun _ _ _ _ _ _ => .ite (.mulBfv ..) (.tensorCt ..)) ..

theorem workRescale (a : Job) (a' : OpRec) : EngInv (workRescale a a') := by
  unfold Machine.workRescale
  exact .stepWork (fun _ _ _ _ _ => .rescaleCt ..) ..

theorem workModDrop (a : Job) (a' : OpRec) : EngInv (workModDrop a a') := by
  unfold Machine.workModDrop
  exact .bind .engGet fun _ => .ite (.bind (.operandA ..) fun _ => .putResult ..) (.bind (.operandA ..) fun _ => .bind (.rescaleDown ..) fun _ =>
    .putResult ..)

theorem workNttFwd (a : Job) (a' : OpRec) : EngInv (workNttFwd a a') := by
  unfold Machine.workNttFwd
  exact .stepWork (fun _ _ _ _ _ => .mapM fun _ => .Run_ntt ..) ..

theorem workNttInv (a : Job) (a' : OpRec) : EngInv (workNttInv a a') := by
  unfold Machine.workNttInv
  exact .stepWork (fun _ _ _ _ _ => .mapM fun _ => .Run_ntt ..) ..

theorem workLoadCt (a : Job) (a' : OpRec) : EngInv (workLoadCt a a') := by
  unfold Machine.workLoadCt
  exact .bind .engGet fun _ => .bind (.readCt ..) fun _ => .pure _

theorem workStoreCt (a : Job) (a' : OpRec) : EngInv (workStoreCt a a') := by
  unfold Machine.workStoreCt
  exact .stepWork (fun _ _ _ _ _ => .pure _) ..

theorem workRelin (o : OpRef) (a : Job) (a' : OpRec) : EngInv (workRelin o a a') := by
  unfold Machine.workRelin
  exact .keyWork (fun _ _ _ _ _ => .relinCt ..) (fun _ _ => .pure _) ..

theorem workRotate (o : OpRef) (a : Job) (a' : OpRec) : EngInv (workRotate o a a') := by
  unfold Machine.workRotate
  exact .keyWork (fun _ _ _ _ _ => .galoisWork ..) (fun _ _ => .pure _) ..

theorem workConjugate (o : OpRef) (a : Job) (a' : OpRec) : EngInv (workConjugate o a a') := by
  unfold Machine.workConjugate
  exact .keyWork (fun _ _ _ _ _ => .galoisWork ..) (fun _ _ => .pure _) ..

theorem retarget (o : OpRef) (k : KeySrc) : EngInv (retarget o k) := by
  unfold Machine.retarget
  exact .engPut fun _ hu => hu.updOp ..

theorem workKeyswitch (o : OpRef) (a : Job) (a' : OpRec) : EngInv (workKeyswitch o a a') := by
  unfold Machine.workKeyswitch
  exact .keyWork (fun _ _ _ _ _ => .galoisWork ..) (fun _ _ => .retarget ..) ..

theorem hoistOutputs {out : Nat → KeySrc → Eng CtData} (hout : ∀ g k, EngInv (out g k)) (p : Nat) (unit : Option Nat) (l : List
  (Nat × KeySrc × Header)) (formed : List (Nat × Nat)) :
    EngInv (hoistOutputs p unit out l formed) := by
  induction l generalizing formed with
  | nil => exact .pure _
  | cons x rest ih =>
    obtain ⟨g, k, d⟩ := x
    have written : EngInv (do Machine.writeCt p unit d (← out g k)) := .bind (hout g k) fun _ => .writeCt ..
    refine .of fun s hs => ?_
    unfold Machine.hoistOutputs
    split
    · next e => exact (hs.eng_ok written e).run (ih _)
    · next e => exact (hs.eng_error written e).spoil ..

theorem hoistWork (j : Job) (r : OpRec) : EngInv (Machine.hoistWork j r) := by
  unfold Machine.hoistWork
  dsimp only
  refine .bind .engGet fun _ => .bind (.of fun s hs => ?_) fun _ => .bind ?_ fun _ =>
    .bind (.openKeys ..) fun _ => .bind (.operandA ..) fun _ => .bind (.modUp ..) fun _ => .hoistOutputs (fun _ _ => .galoisCt ..) ..
  · split
    · next e => exact (hs.narrowRead ..).of_ok e
    · exact hs
  · split
    · exact .pure _
    · exact .of fun _ hs => hs

theorem scratchRegion (p : Nat) (unit : Option Nat) (w : Nat × Nat) (known : List Byte) : EngInv (scratchRegion p unit w known) := by
  unfold Machine.scratchRegion
  refine .of fun s hs => ?_
  exact (hs.drawBelow ..).run (.engFeed ..)

theorem progKeys (x : Run) (j : Job) (r : OpRec) (b : Prog) (vs : List Content) : EngInv (progKeys x j r b vs) := by
  unfold Machine.progKeys
  exact .openKeys ..

theorem progValue (x : Run) (j : Job) (r : OpRec) (b : Prog) (v : Nat) (a : Content) (keys : List (Nat × KeySrc)) (d : CtData) :
    EngInv (progValue x j r b v a keys d) := by
  unfold Machine.progValue
  exact .bind .engGet fun _ => .bind (.liftChk ..) fun _ => .bind (.Prog_run ..) fun _ => .pure _

theorem expandedWork {prog : Job → OpRec → Eng (Prog × Nat)} (hprog : ∀ a b, EngInv (prog a b)) (j : Job) (r : OpRec) :
    EngInv (expandedWork prog j r) := by
  unfold Machine.expandedWork
  exact .bind .engGet fun _ => .bind (hprog _ _) fun _ => .bind .engGet fun _ => .bind (.liftChk ..) fun _ => .bind (.progKeys ..) fun _ =>
    .bind (.operandA ..) fun _ => .bind (.scratchRegion ..) fun _ => .bind (.progValue ..) fun _ => .putResult ..

theorem workLinearTransform (a : Job) (a' : OpRec) : EngInv (workLinearTransform a a') := by
  unfold Machine.workLinearTransform
  exact .expandedWork (fun _ _ => .bind (.readPlan ..) fun _ => .pure _) ..

theorem workPolyEval (a : Job) (a' : OpRec) : EngInv (workPolyEval a a') := by
  unfold Machine.workPolyEval
  exact .expandedWork (fun _ _ => .bind (.readPoly ..) fun _ => .pure _) ..

theorem refreshWork (j : Job) (r : OpRec) : EngInv (refreshWork j r) := by
  unfold Machine.refreshWork
  split
  · exact .putResult ..
  next x _ =>
    refine .bind .engGet fun x => ?_
    dsimp only
    split
    · exact .engFault ..
    · exact .bind (.readParts ..) fun _ => .bind .engGet fun _ => .bind (.liftChk ..) fun _ => .bind (.progKeys ..) fun _ =>
        .bind (.operandA ..) fun _ => .bind (.scratchRegion ..) fun _ => .bind (.modRaise ..) fun _ => .bind (.Prog_run ..) fun _ =>
        .bind (.engFeed ..) fun _ => .bind (.engPut fun _ hu => hu.updOp ..) fun _ => .putResult ..

end EngInv

end Sys2Proof.Machine
end
section
/-! The tensor ops: every operation keeps the canonical form. -/
namespace Sys2Proof.Machine

variable {s : State}

namespace EngInv

theorem descsCheck (p : Nat) (ts : List (TDesc × TUse)) : EngInv (descsCheck p ts) := by
  unfold Machine.descsCheck
  exact .forM fun _ => .bind .engGet fun _ => .engAssert ..

theorem readTensor (p : Nat) (unit : Option Nat) (t : TDesc) : EngInv (readTensor p unit t) := by
  unfold Machine.readTensor
  refine .bind .engGet fun s => ?_
  split
  · refine .of fun s hs => ?_
    exact hs
  · exact .bind (.engAssert ..) fun _ => .pure _

theorem writeTensor (p : Nat) (unit : Option Nat) (t : TDesc) (vals : List (List Nat)) : EngInv (writeTensor p unit t vals) := by
  unfold Machine.writeTensor
  exact .engFeed ..

theorem readyCopy (j : Job) (r : OpRec) : EngInv (readyCopy j r) := by
  unfold Machine.readyCopy
  exact .bind (.opDesc ..) fun _ => .bind (.opDesc ..) fun _ => .bind (.descsCheck ..) fun _ => .pure _

theorem stageSource (j : Job) (r : OpRec) (a d : TDesc) : EngInv (stageSource j r a d) := by
  unfold Machine.stageSource
  split
  · split
    · exact .bind .engGet fun _ => .bind (.engMem ..) fun _ => .engPut fun _ hu => hu.updTile ..
    · exact .pure _

theorem copyWork (j : Job) (r : OpRec) : EngInv (copyWork j r) := by
  unfold Machine.copyWork
  exact .bind (.stageSource ..) fun _ => .bind (.readTensor ..) fun _ => .writeTensor ..

theorem readyFill (j : Job) (r : OpRec) : EngInv (readyFill j r) := by
  unfold Machine.readyFill
  exact .bind (.opDesc ..) fun _ => .bind (.descsCheck ..) fun _ => .bind .engGet fun _ => .bind (.engAssert ..) fun _ => .pure _

theorem fillUnit (ty v : Nat) : EngInv (fillUnit ty v) := by
  unfold Machine.fillUnit
  split
  · exact .bind (.engDraw ..) fun _ => .pure _
  · exact .pure _

theorem fillWork (j : Job) (r : OpRec) : EngInv (fillWork j r) := by
  unfold Machine.fillWork
  exact .bind (.mapM fun _ => .mapM fun _ => .fillUnit ..) fun _ => .writeTensor ..

theorem readyBconv (j : Job) (r : OpRec) : EngInv (readyBconv j r) := by
  unfold Machine.readyBconv
  exact .bind (.opDesc ..) fun _ => .bind (.opDesc ..) fun _ => .bind (.opDesc ..) fun _ => .bind (.descsCheck ..) fun _ =>
    .bind (.readConst ..) fun _ => .bind (.engAssert ..) fun _ => .pure _

theorem bconvWork (j : Job) (r : OpRec) : EngInv (bconvWork j r) := by
  unfold Machine.bconvWork
  exact .bind (.readConst ..) fun _ => .bind (.readTensor ..) fun _ => .bind .engGet fun _ => .bind (.engResidue ..) fun _ => .bind .engGet fun _ =>
    .writeTensor ..

theorem readyEncode (j : Job) (r : OpRec) : EngInv (readyEncode j r) := by
  unfold Machine.readyEncode
  exact .bind (.opDesc ..) fun _ => .bind (.opDesc ..) fun _ => .bind .engGet fun _ => .bind (.descsCheck ..) fun _ => .pure _

theorem encodeWork (o : OpRef) (j : Job) (r : OpRec) : EngInv (encodeWork o j r) := by
  unfold Machine.encodeWork
  refine .bind (.readTensor ..) fun xs => .bind (.engAssert ..) fun _ => .bind .engGet fun s => ?_
  extract_lets n z
  split
  exact .bind (.markSat ..) fun _ => .writeTensor ..

theorem workFence (x : Job) (x' : OpRec) : EngInv (workFence x x') := by
  unfold Machine.workFence
  exact .pure _

theorem readySignal (r : OpRec) : EngInv (readySignal r) := by
  unfold Machine.readySignal
  exact .bind (.engAssert ..) fun _ => .pure _

theorem signalWork (j : Job) (r : OpRec) : EngInv (signalWork j r) := by
  unfold Machine.signalWork
  dsimp only
  split
  · exact .engPut fun _ hu => .ite (hu.writeHost ..) hu
  · exact .bind (.engStore (fun hu => hu.writeVA ..) _) fun _ => .engPut fun _ hu => hu.mirrorSignal ..

end EngInv

end Sys2Proof.Machine
end
section
/-! Integer ops, encoding and chains: every operation keeps the canonical form. -/
namespace Sys2Proof.Machine

variable {s : State}

namespace EngInv

theorem stageRun (o : OpRef) (x : Stage) (nc : Nat) (a b : List (List Nat)) : EngInv (stageRun o x nc a b) := by
  unfold Machine.stageRun
  refine .mapM fun _ => .mapM fun _ => ?_
  dsimp only
  split
  · exact .bind (.markSat ..) fun _ => .pure _
  · exact .bind (.engDraw ..) fun _ => .pure _

theorem normaliseRow (o : OpRef) (p : Nat) (unit : Option Nat) (blk : Nat) (eps : F32) (i : Nat) (row : List Nat) :
    EngInv (normaliseRow o p unit blk eps i row) := by
  unfold Machine.normaliseRow
  exact .bind .engGet fun _ => .bind (.engMem ..) fun _ => .mapM fun _ => .bind (.markSat ..) fun _ => .pure _

theorem rowsOf (ty k : Nat) (els : List (Nat × Nat)) : EngInv (rowsOf ty k els) := by
  unfold Machine.rowsOf
  exact .mapM fun _ => .ite (.mapM fun _ => .ite (.pure _) (.bind (.engDraw ..) fun _ => .pure _)) (.pure _)

theorem listCheck (code : Nat) (ls : List Nat) : EngInv (listCheck code ls) := by
  unfold Machine.listCheck
  exact .engAssert ..

theorem cableRun (code ty k : Nat) (ls : List Nat) (m : List (List Nat)) : EngInv (cableRun code ty k ls m) := by
  unfold Machine.cableRun
  refine .bind (.listCheck ..) fun _ => ?_
  split
  · exact .bind (.engAssert ..) fun _ => .rowsOf ..
  · exact .bind (.engAssert ..) fun _ => .pure _
  · exact .rowsOf ..

theorem prologueRun (o : OpRef) (p : Nat) (unit : Option Nat) (c : ChainDesc) (blk ty rows k : Nat) (ls : List Nat) (src : Option (List (List Nat))) :
    EngInv (prologueRun o p unit c blk ty rows k ls src) := by
  unfold Machine.prologueRun
  split
  · exact .bind (.listCheck ..) fun _ => .mapM fun _ => .mapM fun _ => .bind (.engDraw ..) fun _ => .pure _
  · split
    · exact .cableRun ..
    · exact .cableRun ..
    · exact .cableRun ..
    · exact .pure _
    · exact .mapM fun _ => .normaliseRow ..
    · exact .pure _

theorem epilogueRun (o : OpRef) (c : ChainDesc) (fmt recs : Nat) (rows : List (List Nat)) : EngInv (epilogueRun o c fmt recs rows) := by
  unfold Machine.epilogueRun
  split
  · exact .pure _
  · exact .bind (.mapM fun _ => .bind (.markSat ..) fun _ => .pure _) fun _ => .pure _

theorem chainRegions (p : Nat) (c : ChainDesc) (ds : List (Nat × Nat)) : EngInv (chainRegions p c ds) := by
  unfold Machine.chainRegions
  dsimp only
  split
  · exact .engFault ..
  · exact .bind (.descsCheck ..) fun _ => .pure _

theorem readyChain (j : Job) (r : OpRec) : EngInv (readyChain j r) := by
  unfold Machine.readyChain
  exact .bind (.engAssert ..) fun _ => .bind (.opDesc ..) fun _ => .bind .engGet fun _ => .bind (.engAssert ..) fun _ =>
    .bind (.engAssert ..) fun _ => .bind (.mapM fun _ => .bind (.opDesc ..) fun _ => .pure _) fun _ => .bind (.chainRegions ..) fun _ =>
    .bind .engGet fun _ => .bind (.engAssert ..) fun _ => .bind (.engAssert ..) fun _ => .pure _

theorem chainStages {mat : Nat → Eng (List (List Nat))} (hmat : ∀ a, EngInv (mat a)) (o : OpRef) (c : ChainDesc) (sh : List (Nat × Nat))
  (a0 b0 : List (List Nat)) :
    EngInv (chainStages o c sh a0 b0 mat) := by
  unfold Machine.chainStages
  exact .foldlM fun _ _ => .ite (.bind (.pure _) fun _ => .ite (.bind (hmat _) fun _ => .stageRun ..) (.ite_bind (.pure _) (.pure _) fun _ =>
    .stageRun ..)) (.ite_bind (.pure _) (hmat _) fun _ => .ite (.bind (hmat _) fun _ => .stageRun ..) (.ite_bind (.pure _) (.pure _) fun _ =>
    .stageRun ..))

theorem spillPass (o : OpRef) (p : Nat) (unit : Option Nat) (ts : List Nat) (c : ChainDesc) (cols : Nat) : EngInv (spillPass o p unit ts c cols) := by
  unfold Machine.spillPass
  exact .when_bind (.forM fun _ => .engPut fun _ hu => (hu.drawBelow ..).updTile ..) fun _ => .ite (.bind (.scratchRegion ..) fun _ =>
    .engPut fun _ hu => hu.updOp ..) (.pure _)

theorem chainWork (o : OpRef) (j : Job) (r : OpRec) : EngInv (chainWork o j r) := by
  unfold Machine.chainWork
  dsimp only
  split
  · exact .ite_bind (.pure _) (.map (.readTensor ..) _) fun _ => .ite_bind (.bind (.readTensor ..) fun _ => .pure _) (.pure _) fun _ =>
      .ite_bind (.readTensor ..) (.prologueRun ..) fun _ => .ite_bind (.prologueRun ..) (.pure _) fun _ => .bind (.chainStages (fun _ =>
      .readTensor ..) ..) fun _ => .ite (.bind (.readTensor ..) fun _ => .bind (.pure _) fun _ => .bind (.spillPass ..) fun _ =>
      .bind .engGet fun _ => .bind (.epilogueRun ..) fun _ => .ite_bind (.mapM fun _ => .mapM fun _ => .bind (.engDraw ..) fun _ =>
      .pure _) (.pure _) fun _ => .bind (.writeTensor ..) fun _ => .ite (.writeTensor ..) (.pure _)) (.bind (.pure _) fun _ =>
      .bind (.spillPass ..) fun _ => .bind .engGet fun _ => .bind (.epilogueRun ..) fun _ => .ite_bind (.mapM fun _ => .mapM fun _ =>
      .bind (.engDraw ..) fun _ => .pure _) (.pure _) fun _ => .bind (.writeTensor ..) fun _ => .ite (.writeTensor ..) (.pure _))
  · exact .engFault ..

theorem readyInt (j : Job) (r : OpRec) : EngInv (readyInt j r) := by
  unfold Machine.readyInt
  exact .bind .engGet fun _ => .bind (.engAssert ..) fun _ => .bind (.opDesc ..) fun _ => .bind (.opDesc ..) fun _ => .bind (.opDesc ..) fun _ =>
    .bind (.descsCheck ..) fun _ => .pure _

theorem intWork (o : OpRef) (j : Job) (r : OpRec) : EngInv (intWork o j r) := by
  unfold Machine.intWork
  exact .bind (.readTensor ..) fun _ => .bind (.readTensor ..) fun _ => .bind (.stageRun ..) fun _ => .writeTensor ..

theorem readyMatmul (j : Job) (r : OpRec) : EngInv (readyMatmul j r) := by
  unfold Machine.readyMatmul
  split
  · exact .readyChain ..
  · exact .readyInt ..

theorem workIntMatmul (o : OpRef) (j : Job) (r : OpRec) : EngInv (workIntMatmul o j r) := by
  unfold Machine.workIntMatmul
  split
  · exact .chainWork ..
  · exact .intWork ..

end EngInv

end Sys2Proof.Machine
end
section
/-! Custom programs: every operation keeps the canonical form. -/
namespace Sys2Proof.Machine

variable {s : State}

namespace EngInv

theorem fillCombine (p : Nat) (unit : Option Nat) (t : TDesc) : EngInv (Machine.fillCombine p unit t) := by
  unfold Machine.fillCombine
  refine .engStore (fun {s} hs => ?_) _
  refine LeftOk.foldl (P := State.Inv) (r := Except.ok s) (left := id) hs _ fun r x hr => ?_
  obtain ⟨a, bs⟩ := x
  dsimp only
  split
  · trivial
  · next u =>
    have hu : u.Inv := hr
    exact hu.writeVA ..

theorem patternCheck (pl : CustomPlan) (vs : List (Vet × List (BitVec 64))) : EngInv (patternCheck pl vs) := by
  unfold Machine.patternCheck
  exact .bind (.engAssert ..) fun _ => .bind (.engAssert ..) fun _ => .bind (.engAssert ..) fun _ => .bind (.engAssert ..) fun _ => .forM fun _ =>
    .bind (.engAssert ..) fun _ => .bind (.engAssert ..) fun _ => .bind (.engAssert ..) fun _ => .engAssert ..

theorem readContainer (j : Job) (e : Entry) (x : Nat) : EngInv (readContainer j e x) := by
  unfold Machine.readContainer
  exact .bind (.engAssert ..) fun _ => .bind (.engAssert ..) fun _ => .bind (.recordBytes ..) fun _ => .bind (.engAssert ..) fun _ => .pure _

theorem readyCustom (j : Job) (r : OpRec) : EngInv (Machine.readyCustom j r) := by
  unfold Machine.readyCustom
  extract_lets e p
  refine .bind (.opDesc ..) fun x => ?_
  extract_lets n ins withA
  refine .bind .engGet fun _ => .bind (.engAssert ..) fun _ => ?_
  have hA (a : Header) : EngInv (withA a) := by
    unfold withA
    extract_lets ca withB
    have hB (b : Header) : EngInv (withB b) := by
      unfold withB
      extract_lets hs cb
      refine .bind (.engAssert ..) fun _ => .bind (.placeCheck ..) fun _ => .bind (.engAssert ..) fun _ => .bind .engGet fun s => ?_
      extract_lets c checked
      refine .bind (.engAssert ..) fun _ => ?_
      have hchecked (u : Unit) : EngInv (checked u) := by
        refine .bind (.refreshFirst ..) fun due => ?_
        split
        · exact .pure _
        refine .bind (.budgetOk ..) fun _ => .bind (.readContainer ..) fun kbs => ?_
        obtain ⟨k, bs⟩ := kbs
        refine .bind .engGet fun s => .bind (.engAssert ..) fun _ => .bind (.engAssert ..) fun _ => ?_
        extract_lets pl dComps res withD
        have hD (d : Header) : EngInv (withD d) := by
          unfold withD
          extract_lets extra plan vets base withKey
          refine .bind (.patternCheck ..) fun _ => .bind (.engAssert ..) fun _ => ?_
          have hkey (x : Ready) : EngInv (withKey x) :=
            .ite (.bind (.dirCheck ..) fun _ => .pure _) (.pure _)
          exact .ite (.bind (.engAssert ..) fun _ => hkey _) (.bind (.engAssert ..) fun _ => .bind (.engAssert ..) fun _ =>
            .bind (.placeCheck ..) fun _ => .bind (.engAssert ..) fun _ => .bind (.engAssert ..) fun _ => .bind (.engAssert ..) fun _ => hkey _)
        exact .ite (.bind (.pure _) hD) (.ite (.bind (.pure _) hD) (.ite (.bind (.pure _) hD)
          (.ite (.bind (.readHeader ..) hD) (.bind (.pure _) hD))))
      exact .ite (.bind (.liftChk ..) hchecked) (hchecked ())
    exact .ite (.bind (.ite (.pure _) (.readHeader ..)) hB) (.bind (.pure _) hB)
  exact .ite (.bind (.readHeader ..) hA) (.bind (.pure _) hA)

end EngInv

namespace State.Inv

theorem loadTile (hs : s.Inv) (pl : CustomPlan) (o : OpRef) (t rank : Nat) : (loadTile pl o s t rank).Inv := by
  unfold Machine.loadTile
  dsimp only
  exact (((((hs.foldl _ fun _ _ hu => (hu.setReg ..).setAct ..).foldl _ fun _ _ hu => hu.setReg ..).setReg ..).applySpad ..).setReg ..).updTile ..

theorem loadPattern (hs : s.Inv) (o : OpRef) (r : OpRec) (pl : CustomPlan) : (s.loadPattern o r pl).Inv := by
  unfold State.loadPattern
  exact (hs.foldl _ fun _ _ hu => hu.loadTile ..).updOp ..

theorem startCustom (hs : s.Inv) (o : OpRef) : (s.startCustom o).Inv := by
  unfold State.startCustom
  split
  · exact hs
  · split
    · split
      · split
        · exact hs.fireHook ..
        · dsimp only
          split
          next e4 => exact ((((hs.startOp ..).updOp ..).badReservoirs ..).loadPattern ..).eng_ok (.forM fun _ => .fillCombine ..) e4
          next e4 => exact (((((hs.startOp ..).updOp ..).badReservoirs ..).loadPattern ..).eng_error (.forM fun _ => .fillCombine ..) e4).opFailed ..
      · exact hs
    · exact hs

end State.Inv

end Sys2Proof.Machine
end
section
/-! The binding of ready ops: every operation keeps the canonical form. -/
namespace Sys2Proof.Machine

variable {s : State}

namespace EngInv

theorem readyOf (j : Job) (r : OpRec) : EngInv (readyOf j r) := by
  unfold Machine.readyOf
  dsimp only
  split
  · exact .readyLoad ..
  · exact .readyStore ..
  · exact .readyCopy ..
  · exact .readyCopy ..
  · exact .readyFill ..
  · exact .readyBconv ..
  · exact .readyLinear ..
  · exact .readyPoly ..
  · exact .readyEncode ..
  · exact .readyMatmul ..
  · exact .readyInt ..
  · exact .pure _
  · exact .readySignal ..
  · exact .readyCustom ..
  · refine .bind (.readyRefresh ..) fun _ => ?_
    split
    · exact .pure _
    · refine .bind .engGet fun _ => ?_
      split
      · exact .engStall ..
      · exact .pure _
  · exact .readyStep ..

end EngInv

namespace State.Inv

theorem insertRefresh (hs : s.Inv) (o : OpRef) (h : Nat) (before : Bool) : (s.insertRefresh o h before).Inv := by
  unfold State.insertRefresh
  split
  · exact hs
  · exact ((hs.updJob ..).updOp ..).bump ..

theorem replace (hs : s.Inv) (o : OpRef) (j : Job) (r : OpRec) (ts : List Nat) : (s.replace o j r ts).Inv := by
  unfold State.replace
  split
  · exact hs.updOp ..
  · exact hs

theorem opReady (hs : s.Inv) (o : OpRef) (ts : List Nat) : (s.opReady o ts).Inv := by
  unfold State.opReady
  split
  · exact hs
  · split
    · exact hs.replace ..
    · split
      · exact hs
      · dsimp only
        split
        · exact hs
        next e4 => exact (hs.eng_error (.readyOf ..) e4).opFailed ..
        next e3 =>
          split
          · exact (hs.eng_ok (.readyOf ..) e3).insertRefresh ..
          · split
            · exact hs
            · split
              · exact (hs.eng_ok (.readyOf ..) e3).endOp ..
              · exact (hs.eng_ok (.readyOf ..) e3).updOp ..

end State.Inv

end Sys2Proof.Machine
end
section
/-! Ops that run: every operation keeps the canonical form. -/
namespace Sys2Proof.Machine

variable {s : State}

namespace State.Inv

theorem putDigest (hs : s.Inv) (p : Nat) (n : Fin 16) (d : BitVec 128) : (s.putDigest p n d).Inv := (hs.updReg ..).foldl _ fun _ _ hu => hu.setAct ..

theorem swatchOf (hs : s.Inv) (j : Job) (r : OpRec) (cfg : Word32) (key : BitVec 128) : (s.swatchOf j r cfg key).2.Inv := by
  unfold State.swatchOf
  dsimp only
  split
  · exact hs
  · split
    · split
      · exact hs
      · split
        · exact hs
        · exact hs.draw ..
    · split
      · split
        · exact hs
        · split
          · exact hs
          · exact hs.draw ..
      · exact hs

theorem swatches (hs : s.Inv) (j : Job) (r : OpRec) : (s.swatches j r).Inv := by
  unfold State.swatches
  refine hs.foldl _ fun u x hu => ?_
  split
  next e => exact ((hu.swatchOf ..).snd e).putDigest ..
  next e => exact (hu.swatchOf ..).snd e

end State.Inv

namespace EngInv

theorem writeHeaders (p : Nat) (x : List (Nat × Header × Bool)) : EngInv (writeHeaders p x) := by
  unfold Machine.writeHeaders
  exact .forM fun _ => .bind (.engStore (fun hu => hu.putHeader ..) _) fun _ => .ite (.engPut fun _ hu => hu.countPoison ..) (.pure _)

end EngInv

namespace State.Inv

theorem refreshAfter (hs : s.Inv) (o : OpRef) (j : Job) (r : OpRec) : (s.refreshAfter o j r).Inv := by
  unfold State.refreshAfter
  split
  · exact hs
  · refine hs.foldl _ fun u x hu => ?_
    split
    · split
      next e1 => exact (hu.eng_ok (.refreshWanted ..) e1).insertRefresh ..
      next e1 => exact hu.eng_ok (.refreshWanted ..) e1
      next e1 => exact hu.eng_error (.refreshWanted ..) e1

theorem bindOff (hs : s.Inv) (o : OpRef) : (s.bindOff o).Inv := by
  unfold State.bindOff
  split
  · exact hs
  · split
    · exact hs
    · split
      next e2 => exact (hs.eng_error (.writeHeaders ..) e2).opFailed ..
      next e2 =>
        dsimp only
        split
        · exact .settleJob (.refreshAfter (.updOp (.freeTiles (.latch (.countRun (.countUp (.bump (.statusEffects (.ite ((hs.eng_ok
            (.writeHeaders ..) e2).swatches ..) (hs.eng_ok (.writeHeaders ..) e2)) ..) ..) ..) ..) ..) ..) ..) ..) ..
        · exact .settleJob (.refreshAfter (.updOp (.freeTiles (.latch (.countRun (.countUp (.statusEffects (.ite ((hs.eng_ok
            (.writeHeaders ..) e2).swatches ..) (hs.eng_ok (.writeHeaders ..) e2)) ..) ..) ..) ..) ..) ..) ..) ..

end State.Inv

end Sys2Proof.Machine
end
section
/-! The power states: every operation keeps the canonical form. -/
namespace Sys2Proof.Machine

variable {s : State}

namespace State.Inv

theorem storePut (hs : s.Inv) (w : StoreWrite) : State.InvSome (s.storePut w) := by
  unfold State.storePut
  split
  · exact hs
  · split
    · exact hs
    · trivial

theorem storeFromReg (hs : s.Inv) (n : Nat) (v : StoreValue) : (s.storeFromReg n v).Inv := by
  unfold State.storeFromReg
  exact (hs.storePut ..).getD hs

theorem storeSeeds (hs : s.Inv) : s.storeSeeds.Inv := by
  unfold State.storeSeeds
  exact (hs.draw ..).storeFromReg ..

theorem resetDieRegs (hs : s.Inv) (keepOut : Bool) : (s.resetDieRegs keepOut).Inv := by
  unfold State.resetDieRegs
  extract_lets outs cleared shared
  have hcleared : cleared.Inv := hs.keepRegs _
  have hshared : shared.Inv := .foldl hcleared _ fun _ _ hu => (hu.setReg ..).setAct ..
  exact .foldl hshared _ fun _ _ hu => hu.setField ..

theorem enterM3Now (hs : s.Inv) : s.enterM3Now.Inv := by
  have hoff := hs.resetDieRegs true
  unfold State.enterM3Now
  generalize s.resetDieRegs true = off at hoff ⊢
  obtain ⟨mem, host, regs, active, parts, -, -, hanks, ports, pke⟩ := hoff
  exact ⟨mem, host, regs, active, parts, wf_blankTiles _, Tab.wf_rebuild off.sites (·.1) _ [] rfl, hanks, ports, pke⟩

theorem endPwr (hs : s.Inv) (op : Nat) (st : Status) : (s.endPwr op st).Inv := by
  unfold State.endPwr
  split
  · exact .setField (.setField (.withPower (.ite (hs.emit ..) hs) ..) ..) ..
  · exact hs

theorem leaveM3 (hs : s.Inv) : s.leaveM3.Inv := hs

theorem continueM3 (hs : s.Inv) : s.continueM3.Inv := by
  unfold State.continueM3
  split
  · dsimp only
    split
    · exact ((hs.enterM3Now ..).endPwr ..).leaveM3 ..
    · exact (hs.enterM3Now ..).endPwr ..
  · exact hs

end State.Inv

end Sys2Proof.Machine
end
section
/-! Stopped and killed jobs: every operation keeps the canonical form. -/
namespace Sys2Proof.Machine

variable {s : State}

namespace State.Inv

theorem stopCores (hs : s.Inv) (p : Nat) : (s.stopCores p).Inv := by
  unfold State.stopCores
  exact .withReservations (.updPart (.ite (hs.addUnseen ..) hs) ..) ..

theorem startHart0 (hs : s.Inv) (p : Nat) : (s.startHart0 p).Inv := hs.updPart ..

theorem coreStart (hs : s.Inv) (p : Nat) : (s.coreStart p).Inv := by
  unfold State.coreStart
  dsimp only
  split
  · exact hs
  · split
    · exact hs.startHart0 ..
    · exact hs.updPart ..
    · exact hs.updPart ..
    · exact hs

theorem spoilStash (hs : s.Inv) (ls : List (Nat × Nat)) : (s.spoilStash ls).Inv :=
  .foldl hs _ fun _ _ hu => .updTile (hu.drawBelow 256 64) ..

theorem killOp (hs : s.Inv) (o : OpRef) : (s.killOp o).Inv := by
  unfold State.killOp
  split
  · exact hs
  · dsimp only
    split
    · exact ((((((((hs.spoil ..).countRun ..).latch ..).spoilStash ..).freeTiles ..).updPart ..).updOp ..).refreshEnds ..).reportOp ..
    · exact (((((((hs.countRun ..).latch ..).spoilStash ..).freeTiles ..).updPart ..).updOp ..).refreshEnds ..).reportOp ..

theorem killHeld (hs : s.Inv) (j : Job) : (s.killHeld j).Inv := hs.updRing ..

theorem killJobs (hs : s.Inv) (js : List Nat) : (s.killJobs js).Inv := by
  unfold State.killJobs
  dsimp only
  refine .foldl (((hs.withJobs ..).stopOps ..).foldl _ fun u x hu => ?_) _ fun u x hu => ?_
  · split
    · exact hu.foldl _ fun _ _ hv => hv.updTile ..
    · exact hu
  · refine .foldl ?_ _ fun u x hv => ?_
    · split
      · exact hu.killHeld ..
      · exact hu
    · exact hv.killOp ..

theorem cancelCommits (hs : s.Inv) (p : Nat) : (s.cancelCommits p).Inv := by
  unfold State.cancelCommits
  exact .dropCommit (.dropCommit (.dropCommit (.ite ((hs.updPart ..).setField ..) hs) ..) ..) ..

theorem startFrog (hs : s.Inv) (p : Nat) (whole destroy : Bool) (js : List Nat) : (s.startFrog p whole destroy js).Inv := by
  unfold State.startFrog
  dsimp only
  split
  · exact hs
  · split
    · split
      · exact (((hs.updPart ..).killJobs ..).cancelCommits ..).stopCores ..
      · exact (hs.updPart ..).killJobs ..
    · split
      · exact (((hs.updPart ..).killJobs ..).cancelCommits ..).stopCores ..
      · exact (hs.updPart ..).killJobs ..

theorem jobFrog (hs : s.Inv) (p : Nat) (v : Word32) : (s.jobFrog p v).Inv := by
  unfold State.jobFrog
  split
  · dsimp only
    split <;> exact hs.startFrog ..
  · exact hs

theorem reportKilled (hs : s.Inv) (p jid : Nat) : (s.reportKilled p jid).Inv := by
  unfold State.reportKilled
  split
  · exact hs
  next x _ _ =>
    refine .completeJob ((hs.updJob ..).foldl _ fun u x hu => ?_) ..
    split
    · exact .produceOp (.ite (hu.bump ..) hu) ..
    · exact hu

theorem enginesStopped (hs : s.Inv) (p : Nat) : (s.enginesStopped p).Inv := by
  unfold State.enginesStopped
  split
  · split
    · exact hs
    · extract_lets ts resumed killed reported marked
      have hresumed : resumed.Inv := .foldl hs _ fun _ _ hu => hu.foldl _ fun _ _ hv => (hv.updOp ..).bindOff ..
      have hkilled : killed.Inv := .foldl hresumed _ fun _ _ hu => hu.foldl _ fun _ _ hv => hv.killOp ..
      have hreported : reported.Inv := .foldl hkilled _ fun _ _ hu => hu.reportKilled ..
      have hmarked : marked.Inv := .ite (hreported.stick ..) hreported
      exact hmarked.updPart ..
  · exact hs

theorem dropCache (hs : s.Inv) (p : Nat) : (s.dropCache p).Inv := hs.mapSites fun _ x => { x with cache := x.cache.filter (fun c => decide (c.1 ≠ p)) }
theorem zeroScratch (hs : s.Inv) (t : Nat) : (s.zeroScratch t).Inv := hs.updTile ..
theorem zeroStash (hs : s.Inv) (t : Nat) : (s.zeroStash t).Inv := hs.updTile ..

theorem scrubStep (hs : s.Inv) (p : Nat) (f : Frog) : (s.scrubStep p f).Inv := by
  unfold State.scrubStep
  dsimp only
  split
  · exact hs.dropCache ..
  · exact hs.foldl _ fun _ _ hu => (hu.freeTiles ..).updTile ..
  · exact hs.foldl _ fun _ _ hu => hu.zeroScratch ..
  · exact hs.foldl _ fun _ _ hu => hu.zeroStash ..
  · exact hs.stopCores ..
  · exact hs

theorem endCmd (hs : s.Inv) (op p : Nat) (st : Status) : (s.endCmd op p st).Inv := by
  unfold State.endCmd
  split
  · split
    · exact .setField (.setField (.setField (.ite ((hs.withPartCmd ..).emit ..) (hs.withPartCmd ..)) ..) ..) ..
    · exact hs
  · exact hs

theorem unhalt (hs : s.Inv) (p : Nat) : (s.unhalt p).Inv := by
  unfold State.unhalt
  dsimp only
  exact hs.foldl _ fun _ _ hu => hu.updTile ..

theorem releaseFrog (hs : s.Inv) (p : Nat) (f : Frog) : (s.releaseFrog p f).Inv := by
  unfold State.releaseFrog
  dsimp only
  split
  · exact .endCmd (.ite (.startHart0 (.updPart (.ite ((hs.setField ..).unhalt ..) hs) ..) ..) (.updPart (.ite ((hs.setField ..).unhalt ..) hs) ..)) ..
  · exact .endCmd (.updPart (.ite ((hs.setField ..).unhalt ..) hs) ..) ..

theorem scrubStepDone (hs : s.Inv) (p : Nat) : (s.scrubStepDone p).Inv := by
  unfold State.scrubStepDone
  split
  · split
    · exact hs
    · split
      · exact hs.releaseFrog ..
      · exact (hs.scrubStep ..).updPart ..
  · exact hs

end State.Inv

end Sys2Proof.Machine
end
section
/-! Partitions: every operation keeps the canonical form. -/
namespace Sys2Proof.Machine

variable {s : State}

namespace State.Inv

theorem spanCommit (hs : s.Inv) (v : Word32) : (s.spanCommit v).Inv := by
  unfold State.spanCommit
  split
  · dsimp only
    split
    · exact hs
    · exact hs.startCommit ..
  · exact hs

theorem spanApply (hs : s.Inv) (n : Fin 64) (c : Commit) : (s.spanApply n c).Inv := by
  unfold State.spanApply
  dsimp only
  split
  · split
    · split
      · exact ((hs.dropCommit ..).putActive ..).setField ..
      · exact (hs.dropCommit ..).putActive ..
    · exact .stick (.setField (.ite (hs.dropCommit ..) ((hs.dropCommit ..).setField ..)) ..) ..
  · exact hs

theorem spanOff (hs : s.Inv) (n : Fin 64) : (s.spanOff n).Inv := ((hs.setAct ..).setField ..).setField ..

theorem spansOff (hs : s.Inv) (p : Nat) (f : State → Fin 64 → Bool) : (s.spansOff p f).Inv := by
  unfold State.spansOff
  exact hs.foldl _ fun _ _ hu => .ite (hu.spanOff ..) hu

theorem writeTables (hs : s.Inv) (p : Nat) (old new : List MapEntry) : (s.writeTables p old new).Inv := by
  unfold State.writeTables
  dsimp only
  exact ((hs.dropLeaves ..).foldl _ fun _ _ hu => hu.storePhys ..).foldl _ fun _ _ hu => hu.storePhys ..

theorem zeroPages (hs : s.Inv) (ps : List (Nat × Nat)) : (s.zeroPages ps).Inv := Keeps.zeroPages hs ps
theorem issueCmd (hs : s.Inv) (op p : Nat) (mgmt : Bool) : (s.issueCmd op p mgmt).Inv := (((hs.withPartCmd ..).setField ..).setField ..).setField ..
theorem resetPartRegs (hs : s.Inv) (p : Nat) : (s.resetPartRegs p).Inv := Keeps.resetPartRegs hs p

theorem create (hs : s.Inv) (p x : Nat) (m : List MapEntry) : (s.create p x m).Inv := by
  unfold State.create
  exact ((((((hs.draw ..).resetPartRegs ..).zeroPages ..).writeTables ..).setReg ..).yieldWays ..).setPart ..

theorem partCreate (hs : s.Inv) (src : RecordSource) (p : Nat) (mgmt : Bool) : (s.partCreate src p mgmt).Inv := by
  unfold State.partCreate
  dsimp only
  split
  · exact (hs.issueCmd ..).endCmd ..
  · exact ((hs.issueCmd ..).create ..).endCmd ..

theorem partRemap (hs : s.Inv) (src : RecordSource) (p : Nat) (mgmt : Bool) : (s.partRemap src p mgmt).Inv := by
  unfold State.partRemap
  dsimp only
  split
  · exact (hs.issueCmd ..).endCmd ..
  · exact (hs.issueCmd ..).updPart ..

theorem translationChange (hs : s.Inv) (p : Nat) : (s.translationChange p).Inv := by
  unfold State.translationChange
  dsimp only
  split
  · split
    · exact ((((hs.zeroPages ..).writeTables ..).updPart ..).spansOff ..).endCmd ..
    · exact hs
  · exact hs

theorem partDestroy (hs : s.Inv) (p : Nat) (mgmt : Bool) : (s.partDestroy p mgmt).Inv := by
  unfold State.partDestroy
  dsimp only
  split
  · exact (hs.issueCmd ..).endCmd ..
  · exact (((hs.issueCmd ..).updPart ..).spansOff ..).startFrog ..

theorem partFrog (hs : s.Inv) (p : Nat) (mgmt : Bool) : (s.partFrog p mgmt).Inv := by
  unfold State.partFrog
  dsimp only
  split
  · exact (hs.issueCmd ..).endCmd ..
  · exact (hs.issueCmd ..).startFrog ..

theorem feedStranded (hs : s.Inv) (free : List Nat) : (s.feedStranded free).Inv := by
  unfold State.feedStranded
  refine .foldl_fst hs _ fun acc q hu => ?_
  dsimp only
  split
  · exact ((hu.updPart ..).yieldWays ..).setField ..
  · exact hu

theorem feedWaiting (hs : s.Inv) (free : List Nat) : (s.feedWaiting free).Inv := by
  unfold State.feedWaiting
  refine .foldl_fst hs _ fun acc q hu => ?_
  dsimp only
  split
  · exact hu
  · exact hu.updPart ..

theorem resetMsix (hs : s.Inv) (key : Nat) : (s.resetMsix key).Inv := hs

theorem freePart (hs : s.Inv) (p : Nat) : (s.freePart p).Inv := by
  unfold State.freePart
  dsimp only
  refine .endCmd (.feedWaiting (.feedStranded (.setPart (.withReservationsJobsCommits (.resetPartRegs (.setReg ?_ ..) ..) ..) ..) ..) ..) ..
  split
  · exact ((hs.zeroPages ..).writeTables ..).resetMsix ..
  · exact (hs.zeroPages ..).writeTables ..

theorem pageScrubDone (hs : s.Inv) (p : Nat) : (s.pageScrubDone p).Inv := by
  unfold State.pageScrubDone
  dsimp only
  split
  · exact hs.freePart ..
  · exact ((hs.dropCache ..).zeroPages ..).updPart ..

end State.Inv

end Sys2Proof.Machine
end
section
/-! Faults, replay and retirement: every operation keeps the canonical form. -/
namespace Sys2Proof.Machine

variable {s : State}

namespace State.Inv

theorem closeWindow (hs : s.Inv) (h : Fin 4) (src : BitVec 16) (event : Nat) : (s.closeWindow h src event).Inv := by
  unfold State.closeWindow
  dsimp only
  split
  · exact (hs.updHank h fun k => { k with windows := k.windows.filter (fun r => !r.pair src event) }).emitLog ..
  · exact hs

theorem alarmAck (hs : s.Inv) (h entry : Nat) : (s.alarmAck h entry).Inv := hs.updHank ..

theorem replay (hs : s.Inv) (o : OpRef) : (s.replay o).Inv := by
  unfold State.replay
  split
  · exact ((((hs.countUp ..).countRun ..).freeTiles ..).restoreLimbs ..).updOp ..
  · exact hs

theorem displace (hs : s.Inv) (o : OpRef) (left : List Nat) : (s.displace o left).Inv := by
  unfold State.displace
  split
  · exact (hs.freeTiles ..).updOp ..
  · exact hs

theorem startSelfTest (hs : s.Inv) (t : Nat) : (s.startSelfTest t).Inv := by
  unfold State.startSelfTest
  split
  · exact hs
  · exact (hs.updTile ..).tileReset ..

theorem resetTested (hs : s.Inv) (ts : List Nat) : (s.resetTested ts).Inv := by
  unfold State.resetTested
  exact hs.foldl _ fun _ _ hu => .ite (hu.tileReset ..) hu

theorem decideRetire (hs : s.Inv) (d : Nat) : (s.decideRetire d).Inv := by
  unfold State.decideRetire
  split <;> exact hs

theorem giveUp (hs : s.Inv) (o : OpRef) : (s.giveUp o).Inv := by
  unfold State.giveUp
  split
  · exact .displace (.ite (hs.replay ..) hs) ..
  · exact hs

theorem outOfUse (hs : s.Inv) (t row : Nat) : (s.outOfUse t row).Inv := by
  unfold State.outOfUse
  split
  · exact hs
  · dsimp only
    exact (((hs.updTile ..).reportLog ..).foldl _ fun _ _ hu => hu.giveUp ..).decideRetire ..

theorem setRuOut (hs : s.Inv) (t : Nat) : (s.setRuOut t).Inv := by
  unfold State.setRuOut
  dsimp only
  exact ((hs.setField ..).reportLog ..).foldl _ fun _ _ hu => hu.giveUp ..

theorem replayR69 (hs : s.Inv) (o : OpRef) : (s.replayR69 o).Inv := by
  unfold State.replayR69
  split
  · dsimp only
    split
    · exact (((hs.replay ..).updOp ..).displace ..).foldl _ fun _ _ hu => hu.startSelfTest ..
    · split
      · exact (hs.replay ..).updOp ..
      · exact ((hs.replay ..).updOp ..).displace ..
  · exact hs

theorem residueMismatch (hs : s.Inv) (o : OpRef) (t : Nat) (reduction : Bool) : (s.residueMismatch o t reduction).Inv := by
  unfold State.residueMismatch
  split
  · split
    · exact hs
    · extract_lets reported times twice timed marked replayed ruled
      have htimed : timed.Inv := (hs.reportLog ..).updTile ..
      have hmarked : marked.Inv := .ite (htimed.updOp ..) htimed
      have hreplayed : replayed.Inv := hmarked.replayR69 ..
      have hruled : ruled.Inv := .ite (hreplayed.setRuOut ..) hreplayed
      exact .ite (hruled.outOfUse ..) hruled
  · exact hs

theorem suspect (hs : s.Inv) (j : Job) (reporter : Nat) (u : BitVec 16) (cls : Nat) : (s.suspect j reporter u cls).Inv := by
  unfold State.suspect
  dsimp only
  split
  · exact (hs.reportLog ..).startSelfTest ..
  · split
    · exact (hs.reportLog ..).updSite ..
    · exact hs.reportLog ..

theorem timeout (hs : s.Inv) (o : OpRef) (reporter : Nat) (u : BitVec 16) (cls : Nat) : (s.timeout o reporter u cls).Inv := by
  unfold State.timeout
  split
  · split
    · exact (hs.suspect ..).updOp ..
    · split
      · exact (((hs.suspect ..).replayR69 ..).resetTested ..).updOp ..
      · exact hs
  · exact hs

theorem digestDiffers (hs : s.Inv) (o : OpRef) (t : Nat) : (s.digestDiffers o t).Inv := by
  unfold State.digestDiffers
  split
  · dsimp only
    split
    · exact (((hs.reportLog ..).reportAlarm ..).updOp ..).withService ..
    · exact (((hs.reportLog ..).replay ..).displace ..).foldl _ fun _ _ hu => hu.startSelfTest ..
  · exact hs

theorem bindOffCompared (hs : s.Inv) (o : OpRef) : (s.bindOffCompared o).Inv := by
  unfold State.bindOffCompared
  split
  · split
    · exact hs.digestDiffers ..
    · exact hs.bindOff ..
  · exact hs.bindOff ..

theorem ondieCount (hs : s.Inv) (d : Nat) : (s.ondieCount d).Inv := by
  unfold State.ondieCount
  dsimp only
  split
  · exact (hs.updSite ..).decideRetire ..
  · exact hs.updSite ..

theorem correctedCount (hs : s.Inv) (d n : Nat) : (s.correctedCount d n).Inv := by
  unfold State.correctedCount
  split
  · exact hs
  · dsimp only
    split
    · exact (hs.updSite ..).decideRetire ..
    · exact hs.updSite ..

theorem ondieReplay {f : State → State} (hs : s.Inv) (hf : ∀ {s : State}, s.Inv → (f s).Inv) (t line : Nat) (o : OpRef) :
    (s.ondieReplay t line o f).Inv := by
  unfold State.ondieReplay
  split
  · split
    · exact (hf (hs.reportLog ..)).ondieCount ..
    · exact hs
  · exact hs

theorem alter (hs : s.Inv) (o : OpRef) (t : Nat) : (s.alter o t).Inv := by
  unfold State.alter
  split
  · exact ((hs.spoil ..).draw ..).updTile ..
  · exact hs

theorem ondieError (hs : s.Inv) (a : OnDieError) : (s.ondieError a).Inv := by
  unfold State.ondieError
  split
  · split
    · exact .ondieCount (.reportLog (.cacheRefetch (.ite (hs.badLine ..) hs) ..) ..) ..
    · exact hs
  · exact hs.ondieReplay (fun hu => hu.replayR69 ..) ..
  · exact hs.ondieReplay (fun hu => hu.replayR69 ..) ..
  · exact hs.ondieReplay (fun hu => hu.replayR69 ..) ..
  · exact hs.ondieReplay (fun hu => ((hu.updTile ..).replayR69 ..).updOp ..) ..
  · exact hs.ondieReplay (fun hu => hu.opFailed ..) ..
  · split
    · exact hs.correctedCount ..
    · exact hs
  · split
    · exact hs.alter ..
    · exact hs

theorem tellPart (hs : s.Inv) (p : Nat) (abrupt : Bool) (d : Nat) (goal : Option Nat) (hadQuads lostHarts : Bool) (survivor : Option Nat) :
    (s.tellPart p abrupt d goal hadQuads lostHarts survivor).Inv := by
  unfold State.tellPart
  extract_lets r counted told raised
  have hcounted : counted.Inv := (hs.bump ..).setField ..
  have htold : told.Inv := by
    unfold told
    split
    · split
      · exact hcounted.setField ..
      · exact hcounted
    · exact hs
  have hraised : raised.Inv := htold.setField ..
  split
  · split
    · exact hraised.updPart ..
    · exact hraised
  · exact htold

theorem passOn (hs : s.Inv) (d : Nat) (abrupt : Bool) (quads cores : Moves) (spare : Option Nat) : (s.passOn d abrupt quads cores spare).Inv := by
  unfold State.passOn
  exact hs.foldl _ fun _ _ hu => ((hu.yieldWays ..).setPart ..).tellPart ..

theorem powerOffDie (hs : s.Inv) (d : Nat) : (s.powerOffDie d).Inv := by
  unfold State.powerOffDie
  extract_lets out cleared
  have hcleared : cleared.Inv := (hs.keepRegs out).withTiles (Tab.wf_keep _ hs.tiles)
  exact hcleared.updSite ..

theorem moveOp (hs : s.Inv) (o : OpRef) (d : Nat) (spare : Option Nat) : (s.moveOp o d spare).Inv := by
  unfold State.moveOp
  split
  · dsimp only
    split
    · exact .updOp (.updOp (.updOp (.ite (hs.replay ..) hs) ..) ..) ..
    · split
      · exact .updOp (.updOp (.ite (hs.replay ..) hs) ..) ..
      · exact .displace (.updOp (.updOp (.ite (hs.replay ..) hs) ..) ..) ..
  · exact hs

theorem markAwaiting (hs : s.Inv) (d : Nat) : (s.markAwaiting d).Inv := by
  unfold State.markAwaiting
  exact hs.foldl _ fun _ _ hu => hu.updOp ..

theorem endRetire (hs : s.Inv) (r : Retire) : (s.endRetire r).Inv := by
  unfold State.endRetire
  extract_lets u others moved replayed off logged ended cleared
  have hmoved : moved.Inv := .foldl hs _ fun _ _ hu => hu.moveOp ..
  have hreplayed : replayed.Inv := .foldl hmoved _ fun _ _ hu => .updOp (.ite (hu.replay ..) hu) ..
  have hoff : off.Inv := (hreplayed.powerOffDie ..).updSite ..
  have hlogged : logged.Inv := hoff.reportLog ..
  have hended : ended.Inv := hlogged.withRetiringRetirements ..
  have hcleared : cleared.Inv := .ite ((hended.setField ..).setField ..) hended
  exact .ite (hcleared.emit ..) hcleared

theorem placeRetire (hs : s.Inv) (r : Retire) (spare : Option Nat) : (s.placeRetire r spare).Inv := by
  unfold State.placeRetire
  dsimp only
  split
  · refine .endRetire ?_ ..
    split
    · exact (((((hs.markAwaiting ..).passOn ..).setReg ..).setAct ..).updSite ..).reportLog ..
    · exact ((hs.markAwaiting ..).passOn ..).reportAlarm ..
  · refine .withRetiring ?_ ..
    split
    · exact ((((hs.passOn ..).setReg ..).setAct ..).updSite ..).reportLog ..
    · exact (hs.passOn ..).reportAlarm ..

theorem beginRetire (hs : s.Inv) (r : Retire) : (s.beginRetire r).Inv := by
  unfold State.beginRetire
  dsimp only
  split
  · exact ((hs.withRetireQueue ..).updSite ..).withRetiring ..
  · exact ((hs.withRetireQueue ..).updSite ..).placeRetire ..

theorem serveAbrupt (hs : s.Inv) (n : Nat) : (State.serveAbrupt n s).Inv := by
  induction n generalizing s with
  | zero => exact hs
  | succ n ih =>
    unfold State.serveAbrupt
    split
    · split
      · exact ih (hs.beginRetire ..)
      · exact hs
    · exact hs

theorem spareGone (hs : s.Inv) (d kind : Nat) : (s.spareGone d kind).Inv := by
  unfold State.spareGone
  dsimp only
  split
  · split
    · exact ((hs.updSite ..).reportLog ..).withRetirements ..
    · split
      · exact ((hs.updSite ..).reportLog ..).withRetiringRetirements ..
      · exact (((hs.updSite ..).reportLog ..).withRetirements ..).placeRetire ..
  · exact ((hs.updSite ..).reportLog ..).withRetirements ..

theorem spareInService (hs : s.Inv) (d : Nat) (pass : Bool) : (s.spareInService d pass).Inv := by
  unfold State.spareInService
  split
  · split
    · exact hs
    · split
      · exact hs.placeRetire ..
      · exact (hs.updSite ..).spareGone ..
  · exact hs

theorem abruptRetire (hs : s.Inv) (d : Nat) : (s.abruptRetire d).Inv := by
  unfold State.abruptRetire
  split
  · split
    · split
      · exact hs.endRetire ..
      · exact hs
    · split <;> exact hs
  · split <;> exact hs

theorem fenceDie (hs : s.Inv) (d : Nat) : (s.fenceDie d).Inv := by
  unfold State.fenceDie
  refine .continueM3 (.serveAbrupt ?_ ..)
  exact .abruptRetire ((hs.updSite ..).withReservations ..) ..

theorem dieLost (hs : s.Inv) (d : Nat) : (s.dieLost d).Inv := by
  unfold State.dieLost
  dsimp only
  split
  · exact (hs.reportAlarm ..).fenceDie ..
  · split
    · exact (((hs.reportAlarm ..).spareGone ..).serveAbrupt ..).continueM3 ..
    · exact hs

theorem rasRetire (hs : s.Inv) (op d : Nat) (mgmt : Bool) : State.InvOk id (s.rasRetire op d mgmt) := by
  unfold State.rasRetire
  split
  · trivial
  · split
    · trivial
    · exact .ite ((hs.setField ..).withRetireQueue ..) ((hs.setField ..).withRetireQueue ..)

theorem rasCmd (hs : s.Inv) (v : Word32) : (s.rasCmd v).Inv := by
  unfold State.rasCmd
  split
  · exact hs
  · split
    next e1 => exact (hs.rasRetire ..).of_ok e1
    · exact hs.setField ..

end State.Inv

end Sys2Proof.Machine
end
section
/-! The cores: every operation keeps the canonical form. -/
namespace Sys2Proof.Machine

variable {s : State}

namespace State.Inv

theorem updHart (hs : s.Inv) (p vh : Nat) (f : Hart → Hart) : (s.updHart p vh f).Inv := hs.updPart ..

theorem coreFault (hs : s.Inv) (p vh cause : Nat) (f : XFault) : (s.coreFault p vh cause f).Inv := by
  unfold State.coreFault
  exact (hs.capture ..).updHart ..

theorem coreReturn (hs : s.Inv) (p vh : Nat) (v : BitVec 64) : (s.coreReturn p vh v).Inv := hs.updHart ..

theorem coreLeaf (hs : s.Inv) (p vh gpa n : Nat) : (s.coreLeaf p vh gpa n).Inv := ((CachesOnly.refl hs).coreLeaf ..).inv

theorem coreRead (hs : s.Inv) (p vh gpa n : Nat) : State.InvOk Prod.snd (s.coreRead p vh gpa n) := hs.cachedVA ..

theorem coreErr (hs : s.Inv) (p vh cause : Nat) (e : MemErr) : (s.coreErr p vh cause e).Inv := by
  unfold State.coreErr
  split
  · exact hs.coreFault ..
  · exact (hs.badLine ..).coreFault ..

theorem vsAddr (hs : s.Inv) (p vh : Nat) (k : VsKind) (va : Nat) : State.InvOk Prod.snd (s.vsAddr p vh k va) :=
  ((CachesOnly.refl hs).vsAddr ..).mono fun h => h.inv

theorem vsStage (hs : s.Inv) (p vh : Nat) (k : VsKind) (va n : Nat) : State.InvOk Prod.snd (s.vsStage p vh k va n) := by
  unfold State.vsStage
  dsimp only
  split
  · trivial
  next e =>
    split
    · exact (hs.vsAddr ..).of_ok e
    · split
      · trivial
      next e2 => exact (((hs.vsAddr ..).of_ok e).vsAddr ..).of_ok e2

theorem vsFault (hs : s.Inv) (p vh : Nat) (k : VsKind) (a : VsErr) : (s.vsFault p vh k a).Inv := by
  unfold State.vsFault
  split
  · exact hs.updHart ..
  · exact hs.coreErr ..

theorem behindVs {f : State → Nat → State} (hs : s.Inv) (hf : ∀ {s : State}, s.Inv → ∀ (a : Nat), (f s a).Inv) (p vh : Nat)
  (k : VsKind) (va : Nat) :
    (s.behindVs p vh k va f).Inv := by
  unfold State.behindVs
  split
  next e => exact hf ((hs.vsAddr ..).of_ok e) _
  · exact hs.vsFault ..

theorem setVs (hs : s.Inv) (p vh : Nat) (c : VsContext) : (s.setVs p vh c).Inv := hs.updHart ..

theorem coreLoad (hs : s.Inv) (p vh gpa n : Nat) : (s.coreLoad p vh gpa n).Inv := by
  unfold State.coreLoad
  split
  next e => exact ((hs.coreRead ..).of_ok e).coreReturn ..
  · exact hs.coreErr ..

theorem coreFetch (hs : s.Inv) (p vh gpa : Nat) : (s.coreFetch p vh gpa).Inv := by
  unfold State.coreFetch
  split
  next e => exact (hs.coreRead ..).of_ok e
  · exact hs.coreErr ..

theorem coreStore (hs : s.Inv) (p vh gpa n : Nat) (v : BitVec 64) : (s.coreStore p vh gpa n v).Inv := by
  unfold State.coreStore
  split
  · exact hs.coreFault ..
  · exact (hs.coreLeaf ..).foldl _ fun _ _ hu => hu.storePhys ..

theorem coreSplit (hs : s.Inv) (p vh : Nat) (a : CoreAccess) (g m g' m' : Nat) : (s.coreSplit p vh a g m g' m').Inv := by
  have read : State.InvOk Prod.snd (match s.coreRead p vh g m with
      | .error e => .error e
      | .ok (bs, u) => match u.coreRead p vh g' m' with
        | .error e => .error e
        | .ok (bs', u) => .ok (bs ++ bs', u)) := by
    split
    · trivial
    · next u e =>
      have hu : u.Inv := (hs.coreRead ..).of_ok e
      split
      · trivial
      · next v e' =>
        have hv : v.Inv := (hu.coreRead ..).of_ok e'
        exact hv
  unfold State.coreSplit
  dsimp only
  split
  · split
    · next e => exact read.of_ok e
    · exact hs.coreErr ..
  · split
    · next e => exact (read.of_ok e).coreReturn ..
    · exact hs.coreErr ..
  · split
    · exact .foldl ((hs.coreLeaf ..).coreLeaf ..) _ fun _ _ hu => hu.storePhys ..
    · exact hs.coreFault ..
    · exact hs.coreFault ..
  · exact hs

theorem amoRead (hs : s.Inv) (p pa gpa : Nat) (wide : Bool) : State.InvOk Prod.snd (s.amoRead p pa gpa wide) := by
  unfold State.amoRead
  split
  · trivial
  next e => exact (hs.cachedRead ..).of_ok e

theorem coreAtomic (hs : s.Inv) (p vh : Nat) (f : AmoOp) (wide : Bool) (gpa v c : Nat) : (s.coreAtomic p vh f wide gpa v c).Inv := by
  unfold State.coreAtomic
  split
  · exact hs.coreFault ..
  · split
    · exact hs
    · split
      · exact hs.coreErr ..
      next e2 => exact (((hs.amoRead ..).of_ok e2).storePhys ..).coreReturn ..

theorem dropReservation (hs : s.Inv) (p vh : Nat) : (s.dropReservation p vh).Inv := hs

theorem loadReserved (hs : s.Inv) (p vh : Nat) (wide : Bool) (gpa : Nat) : (s.loadReserved p vh wide gpa).Inv := by
  unfold State.loadReserved
  split
  · exact hs.coreFault ..
  · split
    · exact hs
    · split
      · exact hs.coreErr ..
      next e2 => exact ((((hs.amoRead ..).of_ok e2).dropReservation ..).withReservations ..).coreReturn ..

theorem storeConditional (hs : s.Inv) (p vh : Nat) (wide : Bool) (gpa v : Nat) : (s.storeConditional p vh wide gpa v).Inv := by
  unfold State.storeConditional
  split
  · exact hs.coreFault ..
  · split
    · exact ((hs.storePhys ..).dropReservation ..).coreReturn ..
    · exact (hs.dropReservation ..).coreReturn ..

theorem sbiReturn (hs : s.Inv) (p vh : Nat) (e : SbiErr) (v : BitVec 64) : (s.sbiReturn p vh e v).Inv := hs.updHart ..

theorem sbiBase (hs : s.Inv) (p vh fid : Nat) (arg : BitVec 64) : (s.sbiBase p vh fid arg).Inv := by
  unfold State.sbiBase
  split
  · exact hs.sbiReturn ..
  · split <;> exact hs.sbiReturn ..

theorem sbiMasked (hs : s.Inv) (p vh : Nat) (mask base : BitVec 64) (f : Nat → Hart → Hart) : (s.sbiMasked p vh mask base f).Inv := by
  unfold State.sbiMasked
  dsimp only
  split
  · exact (hs.foldl _ fun _ _ hu => hu.updHart ..).sbiReturn ..
  · exact hs.sbiReturn ..

theorem sbiHsm (hs : s.Inv) (p vh : Nat) (a : HsmCall) : (s.sbiHsm p vh a).Inv := by
  unfold State.sbiHsm
  split
  · split
    · exact hs.sbiReturn ..
    · split
      · exact hs.sbiReturn ..
      · split
        · exact hs.sbiReturn ..
        · exact (hs.updPart ..).sbiReturn ..
  · exact (hs.updHart ..).dropReservation ..
  · split
    · exact (hs.sbiReturn ..).updHart ..
    · split
      · split
        · exact hs.sbiReturn ..
        · exact (hs.sbiReturn ..).updHart ..
      · exact hs.sbiReturn ..
  · split <;> exact hs.sbiReturn ..

end State.Inv

end Sys2Proof.Machine
end
section
/-! Debug reads and samples: every operation keeps the canonical form. -/
namespace Sys2Proof.Machine

variable {s : State}

namespace State.Inv

theorem viewRead {f : State → Word32 × State} (hs : s.Inv) (hf : ∀ {s : State}, s.Inv → (f s).2.Inv) (v : View) (p : Nat) :
    (s.viewRead v p f).Inv := by
  unfold State.viewRead
  split
  · exact (hf hs).emit ..
  · exact hs.emit ..

theorem hookResume (hs : s.Inv) (p : Nat) : (s.hookResume p).Inv := by
  unfold State.hookResume
  split
  · refine .unhalt (.setField ?_ ..) ..
    split
    · exact hs.updOp ..
    · exact hs
  · exact hs

theorem inspect (hs : s.Inv) (p : Nat) : (s.inspect p).2.Inv := by
  unfold State.inspect
  dsimp only
  split
  · exact hs
  · split
    · exact hs
    · exact .snd_ite hs (.snd_ite (hs.stick ..) hs)

theorem opCounter (hs : s.Inv) : s.opCounter.2.Inv := by
  unfold State.opCounter
  exact .snd_ite (hs.moduleCounter ..) (.snd_ite hs (hs.counter ..))

theorem opCntRead (hs : s.Inv) : s.opCntRead.2.Inv := by
  unfold State.opCntRead
  exact (hs.opCounter ..).setReg ..

theorem swatchSeqRead (hs : s.Inv) (p : Nat) (n : Fin 16) : (s.swatchSeqRead p n).2.Inv := by
  unfold State.swatchSeqRead
  exact hs.foldl _ fun _ _ hu => hu.setReg ..

theorem swatchKeyWrite (hs : s.Inv) (p : Nat) (k : Fin 4) (v : Word32) : (s.swatchKeyWrite p k v).Inv := hs.setReg ..
theorem swatchInstall (hs : s.Inv) (p : Nat) (v : Word32) : (s.swatchInstall p v).Inv := (hs.swatchKeyWrite ..).updPart ..

theorem smpCfgWrite (hs : s.Inv) (p : Nat) (v : Word32) : (s.smpCfgWrite p v).Inv := by
  unfold State.smpCfgWrite
  dsimp only
  split
  · split
    · exact hs.malformed ..
    · exact hs.setField ..
  · split
    · split
      · exact ((hs.setReg ..).setReg ..).updPart ..
      · exact hs.setReg ..
    · exact hs.malformed ..

theorem sampleCounters (hs : s.Inv) (p : Nat) : (s.sampleCounters p).2.Inv := by
  unfold State.sampleCounters
  refine .foldl_snd hs _ fun acc i hu => ?_
  obtain ⟨sum, u⟩ := acc
  exact State.Inv.counter hu ..

theorem sample (hs : s.Inv) (p : Nat) : (s.sample p).Inv := by
  have hw {u : State} (hu : u.Inv) (p va : Nat) (bs : List Byte) := hu.writeVA p va bs .write none
  have hc := hs.sampleCounters p
  unfold State.sample
  generalize @State.writeVA = write at hw ⊢
  generalize State.sampleCounters = count at hc ⊢
  revert write count
  -- `id` keeps the abstraction in the proof term: the kernel would otherwise compute the accesses of 64 bytes.
  refine id fun write hw count hc => ?_
  dsimp only
  split
  · exact hs.updPart ..
  · split
    next e => exact (((hw hc ..).of_ok e).setField ..).updPart ..
    · exact ((hc.setField ..).stick ..).capture ..

theorem pathCfgWrite (hs : s.Inv) (h : Fin 4) (r : PathRegs) (v : Word32) : (s.pathCfgWrite h r v).Inv := by
  unfold State.pathCfgWrite
  dsimp only
  split
  · split
    · exact hs
    · exact hs.setField ..
  · split
    · split
      · exact (hs.setReg ..).setReg ..
      · exact hs.setReg ..
    · exact hs

end State.Inv

end Sys2Proof.Machine
end
section
/-! The public-key engines: every operation keeps the canonical form. -/
namespace Sys2Proof.Machine

variable {s : State}

namespace State.Inv

/-- A change of the public-key engine that keeps its canonical form: as a rule, one that leaves its tables alone. -/
theorem updPke (hs : s.Inv) (h : Nat) (f : Pke → Pke) (hf : ∀ x : Pke, x.wf = true → (f x).wf = true := by exact fun _ hx => hx) : (s.updPke h f).Inv :=
  Keeps.updPke hs h f hf

theorem pkeComplete (hs : s.Inv) (h : Fin 4) (e : PkeEntry) (status : Nat) (verdict : Bool) : (s.pkeComplete h e status verdict).Inv := by
  unfold State.pkeComplete
  split
  · exact (hs.writeHost ..).msixSend ..
  · exact hs

theorem pkeAbort (hs : s.Inv) (h : Fin 4) (u : Nat) : (s.pkeAbort h u).Inv := by
  unfold State.pkeAbort
  split
  · split
    · exact (hs.updPke _ _ fun _ hx => Pke.wf_invalidate (Pke.wf_setUnit hx ..) _).pkeComplete ..
    · exact hs
  · exact hs

theorem pkeGive (hs : s.Inv) (h q n : Nat) : (State.pkeGive h q n s).Inv := by
  induction n generalizing s with
  | zero => exact hs
  | succ n ih =>
    unfold State.pkeGive
    split
    · exact ih ((hs.updPke _ _ fun _ hx => Pke.wf_setUnit hx ..).updPort ..)
    · exact hs

theorem pkeRuntime (hs : s.Inv) (h : Nat) : (s.pkeRuntime h).Inv := by
  unfold State.pkeRuntime
  exact (hs.pkeGive ..).pkeGive ..

theorem pkeDisable (hs : s.Inv) (h : Fin 4) : (s.pkeDisable h).Inv := by
  unfold State.pkeDisable
  dsimp only
  exact (((((hs.setField ..).dropCommit ..).foldl _ fun _ _ hu => hu.pkeAbort ..).foldl _ fun _ _ hu => hu.pkeComplete ..).updPke ..).pkeRuntime ..

theorem pkeApply (hs : s.Inv) (h : Fin 4) (c : Commit) : (s.pkeApply h c).Inv := by
  unfold State.pkeApply
  split
  · exact hs
  · dsimp only
    split
    · exact ((hs.dropCommit ..).putActive ..).updPke ..
    · exact ((hs.dropCommit ..).setField ..).setField ..

theorem pkeDb (hs : s.Inv) (h : Fin 4) (v : Word32) : (s.pkeDb h v).Inv := by
  unfold State.pkeDb
  dsimp only
  split
  · split
    · exact (hs.wake ..).updPke ..
    · exact hs.wake ..
  · split
    · exact hs.updPke ..
    · exact hs

theorem pkeFetch (hs : s.Inv) (h : Fin 4) : (s.pkeFetch h).Inv := by
  unfold State.pkeFetch
  dsimp only
  split
  · exact hs
  · split
    · exact (hs.setField ..).updPke ..
    · exact hs.updPke ..

theorem pkeStart (hs : s.Inv) (h : Fin 4) : (s.pkeStart h).Inv := by
  unfold State.pkeStart
  dsimp only
  split
  · exact hs
  · split
    · exact (hs.updPke ..).pkeComplete ..
    · split
      · exact (hs.updPke ..).updPke ..
      · split
        · exact hs
        · split
          · exact (hs.updPke ..).pkeComplete ..
          · split
            · exact (hs.updPke ..).updPke _ _ fun _ hx => Pke.wf_setUnit hx ..
            · exact hs

theorem pkeRun {f : State → PkeRun → PkeRun × State} (hs : s.Inv) (hf : ∀ {s : State}, s.Inv → ∀ (a : PkeRun), (f s a).2.Inv)
  (h : Fin 4) (u op : Nat) :
    (s.pkeRun h u op f).Inv := by
  unfold State.pkeRun
  split
  · split
    · exact hs
    · exact .updPke (.snd_ite hs (.snd_ite (hf hs _) hs)) _ _ fun _ hx => Pke.wf_setUnit hx ..
  · exact hs

theorem keygenWork (hs : s.Inv) (r : PkeRun) : (keygenWork s r).2.Inv := by
  unfold Machine.keygenWork
  split
  · split
    next e1 =>
      dsimp only
      split
      next snd _ => exact (hs.draw ..).snd e1
      · exact (hs.draw ..).snd e1
  · exact hs

theorem signWork (hs : s.Inv) (h : Nat) (r : PkeRun) : (signWork h s r).2.Inv := by
  unfold Machine.signWork
  split
  · dsimp only
    split
    · exact hs
    · exact .snd_ite (hs.draw ..) (.snd_ite ((hs.draw ..).draw ..) ((hs.draw ..).draw ..))
  · exact hs

theorem verifyWork (hs : s.Inv) (h : Nat) (r : PkeRun) : (verifyWork h s r).2.Inv := by
  unfold Machine.verifyWork
  split
  · dsimp only
    split
    · exact hs
    · split <;> exact hs
  · exact hs

theorem ecdhWork (hs : s.Inv) (h : Nat) (r : PkeRun) : (ecdhWork h s r).2.Inv := by
  unfold Machine.ecdhWork
  split
  · dsimp only
    split
    · exact hs
    · split <;> exact hs
  · exact hs

theorem curveLoadWork (hs : s.Inv) (h : Nat) (r : PkeRun) : (curveLoadWork h s r).2.Inv := by
  unfold Machine.curveLoadWork
  dsimp only
  split
  · exact hs.drawBelow ..
  · exact .snd_ite (hs.drawBelow ..) (hs.drawBelow ..)

theorem slotLoadWork (hs : s.Inv) (h : Nat) (r : PkeRun) : (slotLoadWork h s r).2.Inv := by
  unfold Machine.slotLoadWork
  exact .snd_ite hs hs

theorem slotStoreWork (hs : s.Inv) (h : Nat) (r : PkeRun) : (slotStoreWork h s r).2.Inv := by
  unfold Machine.slotStoreWork
  exact .snd_ite hs hs

theorem wipeRun (hs : s.Inv) (h : Fin 4) : (s.wipeRun h).Inv := by
  unfold State.wipeRun
  split
  · exact hs
  next x _ _ _ =>
    refine .pkeRuntime (.pkeComplete (.updPke (hs.foldl _ fun u x hu => ?_) _ _ fun y hy =>
      Pke.wf_wiped hy ..) ..) ..
    split
    · split
      · exact (hu.pkeAbort ..).updPke _ _ fun _ hx => Pke.wf_foldl hx _ fun _ _ hy => Pke.wf_setSlot hy ..
      · exact hu
    · exact hu

theorem pkeFault (hs : s.Inv) (h : Fin 4) (u : Nat) (r : PkeRun) : (s.pkeFault h u r).Inv := by
  unfold State.pkeFault
  split
  · exact hs.reportLog ..
  · exact hs

theorem exchangeStep (hs : s.Inv) (q n : Nat) (r : PkeRun) : (s.exchangeStep q n r).Inv := by
  unfold State.exchangeStep
  dsimp only
  split
  · exact hs
  · split
    · exact hs.setPort ..
    · split
      · exact hs.phaseFailed ..
      · exact hs.linkLost ..

theorem pkeEnd (hs : s.Inv) (h : Fin 4) (u : Nat) (fault : Bool) : (s.pkeEnd h u fault).Inv := by
  unfold State.pkeEnd
  split
  · exact hs
  · split
    · exact hs
    · extract_lets r faulted
      have hf : faulted.Inv := hs.pkeFault ..
      split
      · exact ((hf.updPke _ _ fun _ hx => Pke.wf_setUnit hx ..).exchangeStep ..).pkeRuntime ..
      · refine .pkeRuntime ?_ ..
        split
        next done written _ _ _ =>
          have hdone : done.Inv := by
            refine hf.updPke _ _ fun x hx => ?_
            extract_lets y
            have hy : y.wf = true := Pke.wf_foldl (Pke.wf_setUnit hx ..) _ fun _ _ hy => Pke.wf_setSlot hy ..
            split
            · exact Pke.wf_setCurve hy ..
            · exact hy
          have hwritten : written.Inv := .ite (hdone.writeHost ..) hdone
          exact hwritten.pkeComplete ..
        · exact (hf.updPke _ _ fun _ hx => Pke.wf_invalidate (Pke.wf_setUnit hx ..) _).pkeComplete ..

end State.Inv

end Sys2Proof.Machine
end
section
/-! The secure sessions: every operation keeps the canonical form. -/
namespace Sys2Proof.Machine

variable {s : State}

namespace State.Inv

theorem updSpdm (hs : s.Inv) (h : Nat) (f : Spdm → Spdm) : (s.updSpdm h f).Inv := Keeps.updSpdm hs h f

theorem spdmAnswer (hs : s.Inv) (h : Nat) (ok : Bool) (f : Spdm → Spdm) (data : List Nat) : (s.spdmAnswer h ok f data).Inv := by
  unfold State.spdmAnswer
  split
  · exact hs
  · split
    · exact (hs.updSpdm ..).emit ..
    · exact hs.emit ..

end State.Inv

end Sys2Proof.Machine
end
section
/-! The links between modules: every operation keeps the canonical form. -/
namespace Sys2Proof.Machine

variable {s : State}

namespace State.Inv

theorem takeId (hs : s.Inv) : s.takeId.Inv := by
  unfold State.takeId
  split
  · exact (hs.setField ..).withMgmt ..
  · exact hs

theorem startTraining (hs : s.Inv) (q : Nat) : (s.startTraining q).Inv := by
  unfold State.startTraining
  split
  · exact (hs.takeId ..).updPort ..
  · exact hs

theorem qlNodeWrite (hs : s.Inv) (v : Word32) : (s.qlNodeWrite v).Inv := by
  unfold State.qlNodeWrite
  dsimp only
  exact .foldl (.ite (((hs.setReg ..).withMgmt ..).storeFromReg ..) (hs.setReg ..)) _ fun _ _ hu => hu.startTraining ..

theorem startExchange (hs : s.Inv) (q : Nat) (ops : List Nat) : (s.startExchange q ops).Inv := by
  unfold State.startExchange
  exact (hs.updPort ..).pkeRuntime ..

theorem endExchange (hs : s.Inv) (q : Nat) : (s.endExchange q).Inv := by
  unfold State.endExchange
  refine (State.Inv.updPort (hs.updPke _ _ fun x hx => Pke.wf_foldl hx _ fun y u hy => ?_) ..).pkeRuntime ..
  split
  · exact Pke.wf_setUnit hy ..
  · exact hy

theorem secured (hs : s.Inv) (q : Nat) : (s.secured q).Inv := by
  unfold State.secured
  exact (((hs.endExchange ..).draw ..).updPort ..).linkLog ..

theorem sendControl (hs : s.Inv) (q : Nat) (nak : Bool) : (s.sendControl q nak).Inv := by
  unfold State.sendControl
  exact hs.transmit ..

theorem acked (hs : s.Inv) (q ack : Nat) : (s.acked q ack).Inv := by
  unfold State.acked
  dsimp only
  split
  · exact hs
  · split
    · exact hs.setPort ..
    · exact hs

theorem follow (hs : s.Inv) (q : Nat) : (s.follow q).Inv := by
  unfold State.follow
  split
  · exact (hs.drainQueue ..).pkeRuntime ..
  · exact hs

theorem resend (hs : s.Inv) (q : Nat) : (s.resend q).Inv := by
  unfold State.resend
  dsimp only
  split
  · exact hs.linkLost ..
  · exact (((hs.setPort ..).foldl _ fun _ _ hu => ((hu.putOnWire ..).bump ..).linkTrace ..).rekeyAt40 ..).pkeRuntime ..

theorem badFrame (hs : s.Inv) (q : Nat) (f : Frame) : (s.badFrame q f).Inv := by
  unfold State.badFrame
  dsimp only
  split
  · split
    · exact (hs.reportAlarm ..).portDown ..
    · split
      · exact hs.updPort ..
      · exact (hs.updPort ..).sendControl ..
  · split
    · exact (hs.reportAlarm ..).portDown ..
    · split
      · exact hs.updPort ..
      · exact (hs.updPort ..).sendControl ..

theorem arrive {act : Frame → State → State} (hs : s.Inv) (hact : ∀ {s : State}, s.Inv → ∀ (a : Frame), (act a s).Inv) (q ty : Nat)
  (f : Frame) :
    (s.arrive q ty f act).Inv := by
  unfold State.arrive
  split
  · exact hs
  · dsimp only
    split
    · exact (hs.setPort ..).badFrame ..
    · exact .follow (.ite (hact (((hs.setPort ..).updPort ..).acked ..) _) (.ite (((hs.setPort ..).updPort ..).acked ..) (hact
        ((((hs.setPort ..).updPort ..).acked ..).updPort ..) _))) ..

theorem forward (hs : s.Inv) (q : Nat) (f : Frame) : (s.forward q f).Inv := by
  unfold State.forward
  split
  · exact hs.linkLog ..
  · split
    · exact hs.sendFrame ..
    · exact hs.linkLog ..

theorem spanRefused (hs : s.Inv) (q : Nat) (f : Frame) : (s.spanRefused q f).Inv := by
  unfold State.spanRefused
  exact hs.linkLog ..

theorem spanWrite (hs : s.Inv) (q : Nat) (f : Frame) (offset : Nat) (bs : List Byte) : (s.spanWrite q f offset bs).Inv := by
  unfold State.spanWrite
  dsimp only
  split
  · exact hs.foldl _ fun _ _ hu => hu.storePhys ..
  · exact (hs.spanRefused ..).capture ..

theorem deliverData (hs : s.Inv) (q : Nat) (f : Frame) : (s.deliverData q f).Inv := by
  unfold State.deliverData
  dsimp only
  split
  · exact hs.spanWrite ..
  · exact hs.spanRefused ..

theorem deliverSignal (hs : s.Inv) (q : Nat) (f : Frame) : (s.deliverSignal q f).Inv := by
  unfold State.deliverSignal
  dsimp only
  split
  · exact hs.spanWrite ..
  · exact hs.spanRefused ..

theorem startRekey (hs : s.Inv) (q : Nat) : (s.startRekey q).Inv := by
  unfold State.startRekey
  exact (hs.beginRekey ..).pkeRuntime ..

theorem sendProbe (hs : s.Inv) (q : Nat) : (s.sendProbe q).Inv := by
  unfold State.sendProbe
  exact ((((hs.setPort ..).putOnWire ..).linkTrace ..).rekeyAt40 ..).pkeRuntime ..

theorem rekeyed (hs : s.Inv) (q : Nat) : (s.rekeyed q).Inv := by
  unfold State.rekeyed
  exact (((hs.endExchange ..).draw ..).updPort ..).linkLog ..

end State.Inv

end Sys2Proof.Machine
end
section
/-! The column, segment and hank units: every operation keeps the canonical form. -/
namespace Sys2Proof.Machine

variable {s : State}

namespace State.Inv

theorem fenceColumn (hs : s.Inv) (c : Nat) : (s.fenceColumn c).Inv := hs

theorem segmentDie (hs : s.Inv) (d : Nat) : (s.segmentDie d).Inv := by
  unfold State.segmentDie
  split
  · exact hs.fenceDie ..
  · split
    · exact ((hs.spareGone ..).serveAbrupt ..).continueM3 ..
    · exact hs

theorem segmentFault (hs : s.Inv) (k : Nat) (lost : Bool) : (s.segmentFault k lost).Inv := by
  unfold State.segmentFault
  dsimp only
  split
  · split
    · exact (((hs.reportAlarm ..).withSegFault ..).fenceColumn ..).segmentDie ..
    · exact ((hs.reportAlarm ..).withSegFault ..).fenceColumn ..
  · exact hs.reportAlarm ..

theorem columnFault (hs : s.Inv) (c stack : Nat) : (s.columnFault c stack).Inv := by
  unfold State.columnFault
  exact (hs.reportAlarm ..).fenceColumn ..

theorem takeOver (hs : s.Inv) (h : Nat) : (s.takeOver h).Inv := hs.updHank ..

theorem hankFault (hs : s.Inv) (h : Nat) : (s.hankFault h).Inv := by
  unfold State.hankFault
  split
  · exact hs
  · extract_lets stopped taken down reported service lost
    have hstopped : stopped.Inv := hs.updHank _ _ fun _ hx => Pke.wf_stopped hx
    have htaken : taken.Inv := (hstopped.takeOver ..).updHank ..
    have hdown : down.Inv := .foldl htaken _ fun _ _ hu => .ite hu (hu.portDown ..)
    have hreported : reported.Inv := hdown.reportAlarm ..
    have hservice : service.Inv := hreported.withService ..
    have hlost : lost.Inv := .ite (hservice.withStoreBusyStoreQueueAttested ..) hservice
    exact .foldl hlost _ fun _ _ hu => .ite (hu.startFrog ..) hu

theorem monitorAlarm (hs : s.Inv) (m event detail : Nat) : (s.monitorAlarm m event detail).Inv := by
  unfold State.monitorAlarm
  exact hs.reportAlarm ..

theorem monitorLog (hs : s.Inv) (m event detail : Nat) : (s.monitorLog m event detail).Inv := by
  unfold State.monitorLog
  exact hs.reportLog ..

theorem pllLoss (hs : s.Inv) (u : BitVec 16) : (s.pllLoss u).Inv := by
  unfold State.pllLoss
  dsimp only
  split
  · exact (hs.monitorAlarm ..).dieLost ..
  · split
    · exact (hs.monitorAlarm ..).segmentFault ..
    · split
      · exact (hs.monitorAlarm ..).hankFault ..
      · exact hs

end State.Inv

end Sys2Proof.Machine
end
section
/-! Supply, cooling and resets: every operation keeps the canonical form. -/
namespace Sys2Proof.Machine

variable {s : State}

namespace State.Inv

theorem pwrCapWrite (hs : s.Inv) (v : Word32) : (s.pwrCapWrite v).Inv := by
  unfold State.pwrCapWrite
  dsimp only
  split
  · split
    · exact (hs.setReg ..).storeFromReg ..
    · exact hs.setReg ..
  · exact hs.setField ..

theorem offBase (hs : s.Inv) : s.offBase.Inv := by
  obtain ⟨-, host, -⟩ := hs
  exact ⟨rfl, host, rfl, rfl, rfl, rfl, wf_coldSites s, rfl, rfl, rfl⟩

theorem loadStore (hs : s.Inv) : s.loadStore.Inv := by
  unfold State.loadStore
  dsimp only
  exact (((hs.setReg ..).setReg ..).setReg ..).foldl _ fun _ _ hu => (hu.setReg ..).setAct ..

theorem fillAlarm (hs : s.Inv) (r : FaultRec) : (s.fillAlarm r).Inv := hs.updHank ..

theorem coldReset (hs : s.Inv) : s.coldReset.Inv := by
  unfold State.coldReset
  dsimp only
  exact ((((hs.offBase ..).loadStore ..).draw ..).withPowerMgmtReplayKey ..).foldl _ fun _ _ hu => hu.fillAlarm ..

theorem moduleReset (hs : s.Inv) : s.moduleReset.Inv := by
  have hloaded := hs.offBase.loadStore.draw
  unfold State.moduleReset
  extract_lets old
  generalize s.offBase.loadStore.draw = loaded at hloaded ⊢
  obtain ⟨key, u⟩ := loaded
  obtain ⟨mem, host, regs, active, parts, -, -, hanks, ports, pke⟩ := hloaded
  dsimp -zeta only
  extract_lets power reset errors alarms outs
  have hreset : reset.Inv :=
    ⟨mem, host, regs, active, parts, Tab.wf_rebuild old.tiles (·.1) _ [] rfl, Tab.wf_rebuild old.sites (·.1) _ [] rfl, hanks, ports, pke⟩
  have herrors : errors.Inv := .foldl hreset _ fun _ _ hu => hu.setReg ..
  have halarms : alarms.Inv := .foldl herrors _ fun _ _ hu => hu.setField ..
  have houts : outs.Inv := .foldl halarms _ fun _ _ hu => hu.setField ..
  refine .foldl houts _ fun _ _ hu => .foldl hu _ fun _ _ hv => ?_
  split
  · exact hv.updHank ..
  · exact hv

theorem faultM4 (hs : s.Inv) (m event detail : Nat) : (s.faultM4 m event detail).Inv := by
  unfold State.faultM4
  dsimp only
  split
  · exact (hs.monitorAlarm ..).offBase ..
  · split
    · exact hs
    · exact hs

theorem enterM4 (hs : s.Inv) : s.enterM4.Inv := by
  unfold State.enterM4
  split
  · exact hs.offBase ..
  · exact hs

theorem inputVoltage (hs : s.Inv) (mv : Nat) : (s.inputVoltage mv).Inv := by
  unfold State.inputVoltage
  dsimp only
  split
  · exact (hs.withPower ..).faultM4 ..
  · split
    · exact (hs.withPower ..).monitorLog ..
    · exact hs

theorem coolantTemp (hs : s.Inv) (deci : Nat) : (s.coolantTemp deci).Inv := by
  unfold State.coolantTemp
  dsimp only
  split
  · split
    · exact .monitorAlarm (.ite ((hs.withPower ..).monitorAlarm ..) (hs.withPower ..)) ..
    · split
      · exact (hs.withPower ..).monitorAlarm ..
      · exact hs
  · exact hs

theorem coolantFlow (hs : s.Inv) (centi : Nat) : (s.coolantFlow centi).Inv := by
  unfold State.coolantFlow
  dsimp only
  split
  · split
    · exact .monitorAlarm (.ite ((hs.withPower ..).monitorAlarm ..) (hs.withPower ..)) ..
    · split
      · exact (hs.withPower ..).monitorAlarm ..
      · exact hs
  · exact hs

theorem dieTemp (hs : s.Inv) (d deci : Nat) : (s.dieTemp d deci).Inv := by
  unfold State.dieTemp
  dsimp only
  split
  · exact hs.updSite ..
  · split
    · exact (hs.updSite ..).faultM4 ..
    · split
      · exact ((hs.updSite ..).updSite ..).monitorLog ..
      · exact hs.updSite ..

theorem stackTemp (hs : s.Inv) (k deci : Nat) : (s.stackTemp k deci).Inv := by
  unfold State.stackTemp
  dsimp only
  split
  · exact hs
  · split
    · split
      · exact hs
      · exact (hs.withPower ..).monitorLog ..
    · exact hs

theorem inputThrottle (hs : s.Inv) (watts : Nat) : (s.inputThrottle watts).Inv := by
  unfold State.inputThrottle
  split
  · exact hs
  · dsimp only
    split
    · split
      · exact ((hs.draw ..).withPower ..).monitorLog ..
      · exact (hs.draw ..).withPower ..
    · exact (hs.draw ..).withPower ..

theorem pwrStart (hs : s.Inv) (op : Nat) (mgmt : Bool) : (s.pwrStart op mgmt).Inv := (hs.withPower ..).setField ..

theorem enterM3 (hs : s.Inv) (mgmt : Bool) : (s.enterM3 mgmt).Inv := by
  unfold State.enterM3
  dsimp only
  split
  · exact (hs.pwrStart ..).endPwr ..
  · split
    · exact (hs.pwrStart ..).endPwr ..
    · exact ((hs.pwrStart ..).withPower ..).continueM3 ..

theorem leaveCmd (hs : s.Inv) (mgmt : Bool) : (s.leaveCmd mgmt).Inv := by
  unfold State.leaveCmd
  dsimp only
  split
  · exact (hs.pwrStart ..).leaveM3 ..
  · exact hs.pwrStart ..
  · exact (hs.pwrStart ..).endPwr ..

theorem pwrCmd (hs : s.Inv) (op : Nat) : (s.pwrCmd op).Inv := by
  unfold State.pwrCmd
  split
  · exact hs.enterM4 ..
  · split
    · exact hs
    · split
      · exact hs.enterM3 ..
      · split
        · exact hs.leaveCmd ..
        · split
          · exact hs.moduleReset ..
          · exact hs.setField ..

theorem exitM3 (hs : s.Inv) : s.exitM3.Inv := by
  unfold State.exitM3
  split
  · refine .endPwr ?_ ..
    exact hs.withParts (Tab.wf_rebuild s.parts (·.1) _ [] rfl)
  · exact hs

theorem siteStarts (hs : s.Inv) (d : Nat) (ok : Bool) : (s.siteStarts d ok).Inv := by
  unfold State.siteStarts
  dsimp only
  split
  · split
    · exact ((hs.updSite ..).setReg ..).setAct ..
    · split
      · exact (((hs.updSite ..).setReg ..).setAct ..).updSite ..
      · exact (((hs.updSite ..).setReg ..).setAct ..).dieLost ..
  · split
    · exact hs.updSite ..
    · split
      · exact (hs.updSite ..).updSite ..
      · exact (hs.updSite ..).dieLost ..

theorem stepRuns (hs : s.Inv) (ok : Bool) (a : StartupStep) : (s.stepRuns ok a).Inv := by
  unfold State.stepRuns
  split
  · split
    · exact hs
    · exact hs.hankFault ..
  · split
    · exact hs
    · exact (hs.segmentFault ..).segmentFault ..
  · split
    · exact hs
    · exact hs.columnFault ..
  · exact hs.siteStarts ..

theorem startupStep (hs : s.Inv) (k : StartupStep) (ok : Bool) : (s.startupStep k ok).Inv := by
  unfold State.startupStep
  dsimp only
  split
  · exact (hs.withPower ..).stepRuns ..
  · exact hs

theorem settleSites (hs : s.Inv) : s.settleSites.Inv := by
  unfold State.settleSites
  dsimp only
  exact (hs.foldl _ fun _ _ hu => hu.updSite ..).foldl _ fun _ _ hu => hu.updSite ..

theorem putKey (hs : s.Inv) (h i v : Nat) : (s.putKey h i v).Inv := by
  unfold State.putKey
  split
  · exact hs.updPke _ _ fun _ hx => Pke.wf_setSlot hx ..
  · exact hs

theorem aliasKey (hs : s.Inv) (h : Nat) : (s.aliasKey h).Inv := by
  unfold State.aliasKey
  split
  · exact ((hs.draw ..).putKey ..).updHank ..
  · exact hs

theorem attest (hs : s.Inv) : s.attest.Inv := by
  unfold State.attest
  exact (hs.putKey ..).foldl _ fun _ _ hu => hu.aliasKey ..

theorem ready (hs : s.Inv) : s.ready.Inv := by
  unfold State.ready
  split
  · exact ((((hs.settleSites ..).storeSeeds ..).attest ..).draw ..).withCountingPower ..
  · exact hs

theorem perst0 (hs : s.Inv) : s.perst0.Inv := by
  unfold State.perst0
  exact .withPower (.ite hs (hs.moduleReset ..)) ..

theorem configRequest (hs : s.Inv) (h : Nat) : (s.configRequest h).Inv := by
  unfold State.configRequest
  split
  · exact hs
  · split
    · exact hs.emit ..
    · split
      · exact .emit (.updHank (.ite hs (hs.storeSeeds ..)) ..) ..
      · exact hs

theorem disableRings (hs : s.Inv) (p : Nat) : (s.disableRings p).Inv := by
  unfold State.disableRings
  exact hs.foldl _ fun _ _ hu => .ite (hu.disableRing ..) hu

theorem holdRings (hs : s.Inv) (p : Nat) : (s.holdRings p).Inv := by
  unfold State.holdRings
  exact hs.foldl _ fun _ _ hu => .ite (hu.updRing ..) hu

theorem portReset (hs : s.Inv) (h : Nat) : (s.portReset h).Inv := by
  unfold State.portReset
  dsimp only
  exact (((hs.updHank ..).foldl _ fun _ _ hu => .ite ((hu.disableRings ..).holdRings ..) hu).resetMsix ..).foldl _ fun _ _ hu => hu.resetMsix ..

theorem setPerst (hs : s.Inv) (h : Nat) (low : Bool) : (s.setPerst h low).Inv := hs

theorem portEvent (hs : s.Inv) (a : PortEvent) : (s.portEvent a).Inv := by
  unfold State.portEvent
  split
  · split
    · exact hs.portReset ..
    · exact hs
  · exact .setPerst (.ite (hs.portReset ..) hs) ..
  · dsimp only
    split
    · exact (hs.updHank ..).setPerst ..
    · exact hs

theorem flr (hs : s.Inv) (h i : Nat) : (s.flr h i).Inv := by
  unfold State.flr
  dsimp only
  split
  · exact (((hs.resetMsix ..).startFrog ..).stopCores ..).disableRings ..
  · exact hs.resetMsix ..

end State.Inv

end Sys2Proof.Machine
end
section
/-! Reads of registers: every operation keeps the canonical form. -/
namespace Sys2Proof.Machine

variable {s : State}

namespace State.Inv

theorem partRead (hs : s.Inv) (p : Fin 64) (r : PReg) : (s.partRead p r).2.Inv := by
  unfold State.partRead
  split
  · exact hs.mtDataRead ..
  · exact hs.inspect ..
  · exact hs.swatchSeqRead ..
  · exact hs

theorem imageRead (hs : s.Inv) (p : Fin 64) (o : Nat) : (s.imageRead p o).2.Inv := by
  unfold State.imageRead
  split
  · exact hs
  · split
    · exact hs
    · split
      · exact hs.partRead ..
      · exact hs
      · exact hs

end State.Inv

end Sys2Proof.Machine
end
section
/-! The management commands: every operation keeps the canonical form. -/
namespace Sys2Proof.Machine

variable {s : State}

namespace State.Inv

theorem mgmtRefuse (hs : s.Inv) (cmd completion : Nat) : (s.mgmtRefuse cmd completion).Inv := by
  unfold State.mgmtRefuse
  exact hs.emit ..

theorem mgmtDone (hs : s.Inv) (cmd : Nat) (st : Option Status) (data : List Nat) : (s.mgmtDone cmd st data).Inv := by
  unfold State.mgmtDone
  exact hs.emit ..

theorem mgmtRun {f : State → State} (hs : s.Inv) (hf : ∀ {s : State}, s.Inv → (f s).Inv) (cmd : Nat) : (s.mgmtRun cmd f).Inv := by
  unfold State.mgmtRun
  split
  · exact hf hs
  · exact hs.mgmtRefuse ..

theorem alertRead (hs : s.Inv) (entry : Nat) : (s.alertRead entry).Inv := hs

theorem setCap (hs : s.Inv) (c : Nat) (store : Bool) : (s.setCap c store).Inv := by
  unfold State.setCap
  split
  · exact hs.mgmtRefuse ..
  · dsimp only
    split
    · split
      next e2 => exact ((hs.storePut ..).of_some e2).setReg ..
      · exact hs.mgmtRefuse ..
    · exact (hs.setReg ..).mgmtDone ..

theorem powerCmd (hs : s.Inv) (op : Nat) : (s.powerCmd op).Inv := by
  unfold State.powerCmd
  split
  · exact (hs.mgmtDone ..).enterM4 ..
  · split
    · exact hs.mgmtRefuse ..
    · split
      · exact hs.mgmtRefuse ..
      · split
        · exact hs.enterM3 ..
        · split
          · exact hs.leaveCmd ..
          · exact (hs.mgmtDone ..).moduleReset ..

theorem partitionCmd (hs : s.Inv) (op p : Nat) (record : BitVec 2048) (maps : List (BitVec 128)) : (s.partitionCmd op p record maps).Inv := by
  unfold State.partitionCmd
  dsimp only
  split
  · exact hs.mgmtRefuse ..
  · split
    · exact hs.mgmtRefuse ..
    · split
      · exact hs.partCreate ..
      · exact hs.partDestroy ..
      · exact hs.partRemap ..
      · exact hs.partFrog ..

theorem retireCmd (hs : s.Inv) (site : Nat) : (s.retireCmd site).Inv := by
  unfold State.retireCmd
  split
  · exact hs.mgmtRefuse ..
  · split
    next e1 => exact (hs.rasRetire ..).of_ok e1
    · exact (hs.setField ..).mgmtDone ..

theorem lifecycleCmd (hs : s.Inv) (target : Lifecycle) (auth : Bool) : (s.lifecycleCmd target auth).Inv := by
  unfold State.lifecycleCmd
  dsimp only
  split
  · exact ((hs.withLifecycleIdentityCert ..).mgmtDone ..).moduleReset ..
  · exact hs.mgmtDone ..

theorem storeWriteCmd (hs : s.Inv) (field : Nat) (v : StoreValue) : (s.storeWriteCmd field v).Inv := by
  unfold State.storeWriteCmd
  split
  · exact hs.mgmtRefuse ..
  · split
    · exact hs.mgmtRefuse ..
    · split
      next e2 => exact (hs.storePut ..).of_some e2
      · exact hs.mgmtRefuse ..

theorem storeImport (hs : s.Inv) (img : StoreImage) (serial : BitVec 64) (hashOk : Bool) : (s.storeImport img serial hashOk).Inv := by
  unfold State.storeImport
  split
  · exact hs.mgmtRefuse ..
  · split
    · exact hs.mgmtRefuse ..
    · split
      next e2 => exact (hs.storePut ..).of_some e2
      · exact hs.mgmtRefuse ..

theorem showStore (hs : s.Inv) (j : StoreJob) : (s.showStore j).Inv := by
  unfold State.showStore
  dsimp only
  split
  · split
    · exact hs.setField ..
    · exact hs
  · split
    · split
      · exact ((hs.setField ..).setField ..).withMgmt ..
      · exact (hs.setField ..).withMgmt ..
    · split
      · exact (hs.setField ..).withMgmt ..
      · exact hs

theorem recalibrate (hs : s.Inv) (old : StoreImage) : (s.recalibrate old).Inv := by
  unfold State.recalibrate
  split
  · exact hs
  · exact (hs.draw ..).coolantFlow ..

theorem storeDone (hs : s.Inv) : s.storeDone.Inv := by
  unfold State.storeDone
  split
  · exact hs
  · dsimp only
    split
    · exact (((hs.withStoreStoreBusyStoreQueue ..).showStore ..).recalibrate ..).mgmtDone ..
    · exact ((hs.withStoreStoreBusyStoreQueue ..).showStore ..).recalibrate ..

theorem measured (hs : s.Inv) : s.measured.2.Inv := by
  unfold State.measured
  exact hs.draw ..

theorem pldmData (hs : s.Inv) (a : PldmRequest) : (s.pldmData a).2.Inv := by
  unfold State.pldmData
  split
  · exact hs
  · exact hs
  · exact hs.measured ..
  · exact hs
  · exact hs
  · exact hs
  · exact hs
  · exact hs.measured ..
  · split
    · exact hs
    · exact hs.measured ..
  · exact hs
  · exact hs
  · exact hs
  · exact hs.alertRead ..
  · exact hs

theorem abstractCmd (hs : s.Inv) (hart : Nat) : (s.abstractCmd hart).Inv := by
  unfold State.abstractCmd
  split
  · exact hs
  · split
    · exact hs
    · exact ((hs.draw ..).withMgmt ..).emit ..

theorem busAccess (hs : s.Inv) (pa : Nat) (w : Option Word32) : (s.busAccess pa w).Inv := by
  unfold State.busAccess
  split
  · exact hs
  · split
    · exact (hs.withMgmt ..).emit ..
    · dsimp only
      split
      · exact (hs.withMgmt ..).storePhys ..
      · split
        · exact (((hs.withMgmt ..).badLine ..).withMgmt ..).emit ..
        · exact (hs.withMgmt ..).emit ..

end State.Inv

end Sys2Proof.Machine
end
section
/-! Register writes: every operation keeps the canonical form. -/
namespace Sys2Proof.Machine

variable {s : State}

namespace State.Inv

theorem plainWrite (hs : s.Inv) (r : Reg) (v : Word32) : (s.plainWrite r v).Inv := hs.setReg ..

theorem checkedWrite (hs : s.Inv) (p : Fin 64) (r : PReg) (v : Word32) (ok : Bool) : (s.checkedWrite p r v ok).Inv := by
  unfold State.checkedWrite
  split
  · exact hs.plainWrite ..
  · exact hs.malformed ..

theorem memCfgWrite (hs : s.Inv) (v : Word32) : (s.memCfgWrite v).Inv := by
  unfold State.memCfgWrite
  split
  · exact hs
  · exact (hs.plainWrite ..).storeFromReg ..

theorem partCmdWrite (hs : s.Inv) (h : Fin 4) (v : Word32) : (s.partCmdWrite h v).Inv := by
  unfold State.partCmdWrite
  dsimp only
  split
  · exact hs
  · split
    · exact hs.plainWrite ..
    · split
      · exact hs
      · split
        · exact hs.partCreate ..
        · split
          · exact hs.partDestroy ..
          · split
            · exact hs.partRemap ..
            · exact hs.partFrog ..

theorem routeWrite (hs : s.Inv) (v : Word32) : (s.routeWrite v).Inv := hs

theorem globWrite (hs : s.Inv) (h : Fin 4) (r : GReg) (v : Word32) : (s.globWrite h r v).Inv := by
  unfold State.globWrite
  split
  · exact hs.rasCmd ..
  · exact hs.pwrCapWrite ..
  · split
    · exact hs.pwrCmd ..
    · exact hs
  · exact hs.memCfgWrite ..
  · exact hs.partCmdWrite ..
  · exact hs.qlNodeWrite ..
  · exact hs.routeWrite ..
  · exact hs.spanCommit ..
  · exact hs.plainWrite ..

theorem pkeCfgWrite (hs : s.Inv) (h : Fin 4) (v : Word32) : (s.pkeCfgWrite h v).Inv := by
  unfold State.pkeCfgWrite
  dsimp only
  split
  · exact hs
  · split
    · exact ((hs.plainWrite ..).setField ..).startCommit ..
    · split
      · exact (hs.plainWrite ..).pkeDisable ..
      · exact hs.plainWrite ..

theorem hankWrite (hs : s.Inv) (h : Fin 4) (r : HReg) (v : Word32) : (s.hankWrite h r v).Inv := by
  unfold State.hankWrite
  split
  · exact hs
  · split
    · split
      · exact hs.alarmAck ..
      · exact hs
    · split
      · exact hs.pkeCfgWrite ..
      · exact hs
    · split
      · exact hs.pkeDb ..
      · exact hs
    · split
      · exact hs.plainWrite ..
      · exact hs
    · split
      · exact hs.plainWrite ..
      · exact hs
    · split
      · exact hs.plainWrite ..
      · exact hs
    · exact hs.pathCfgWrite ..
    · exact hs.pathCfgWrite ..
    · split
      · exact hs
      · exact hs.plainWrite ..
    · split
      · exact hs
      · exact hs.plainWrite ..
    · split
      · exact hs
      · exact hs.plainWrite ..
    · split
      · exact hs
      · exact hs.plainWrite ..
    · exact hs.plainWrite ..

theorem dieWrite (hs : s.Inv) (d : Fin 18) (r : DReg) (v : Word32) : (s.dieWrite d r v).Inv := by
  unfold State.dieWrite
  split
  · exact hs
  · split
    · split
      · exact hs.bwCommit ..
      · exact hs
    · exact hs.plainWrite ..

theorem checkedTileWrite (hs : s.Inv) (t : Fin 576) (r : TReg) (v : Word32) (ok : Bool) : (s.checkedTileWrite t r v ok).Inv := by
  unfold State.checkedTileWrite
  split
  · exact hs.plainWrite ..
  · exact hs.stickOpt ..

theorem tileWrite (hs : s.Inv) (t : Fin 576) (r : TReg) (v : Word32) : (s.tileWrite t r v).Inv := by
  unfold State.tileWrite
  split
  · exact hs
  · split
    · split
      · exact hs.qtabCommit ..
      · exact hs
    · exact hs.semWrite ..
    · exact hs.spadWrite ..
    · exact hs.vecCtrlWrite ..
    · exact hs.checkedTileWrite ..
    · split
      · exact hs.plainWrite ..
      · exact hs
    · exact hs.checkedTileWrite ..
    · exact hs.plainWrite ..

theorem coreCtrlWrite (hs : s.Inv) (p : Fin 64) (v : Word32) : (s.coreCtrlWrite p v).Inv := by
  unfold State.coreCtrlWrite
  dsimp only
  split
  · exact .coreStart (.ite (hs.stopCores ..) hs) ..
  · split
    · exact hs.stopCores ..
    · exact hs

theorem partWrite (hs : s.Inv) (p : Fin 64) (r : PReg) (v : Word32) : (s.partWrite p r v).Inv := by
  unfold State.partWrite
  split
  · exact hs.dbSq ..
  · exact hs.dbCq ..
  · exact hs.checkedWrite ..
  · split
    · exact hs.enableRing ..
    · exact hs.disableRing ..
  · exact hs.jobFrog ..
  · exact hs.coreCtrlWrite ..
  · split
    · exact hs.hookResume ..
    · exact hs
  · exact hs.checkedWrite ..
  · exact hs.smpCfgWrite ..
  · exact hs.checkedWrite ..
  · exact hs.checkedWrite ..
  · exact hs.checkedWrite ..
  · split
    · exact hs.swatchInstall ..
    · exact hs.swatchKeyWrite ..
  · exact hs.checkedWrite ..
  · exact hs.checkedWrite ..
  · exact hs.checkedWrite ..
  · exact hs.ctlCommit ..
  · exact hs.checkedWrite ..
  · exact hs.mtDataWrite ..
  · exact hs.mtCommit ..
  · exact hs.checkedWrite ..
  · exact hs.checkedWrite ..
  · exact hs.plainWrite ..

theorem msixWrite (hs : s.Inv) (key o : Nat) (v : Word32) (msg : Nat → Output) : (s.msixWrite key o v msg).Inv := by
  unfold State.msixWrite
  split
  · exact hs
  · dsimp only
    split
    · exact hs
    · exact hs

theorem windowWrite (hs : s.Inv) (p : Fin 64) (runtime : Bool) (o : Nat) (v : Word32) : (s.windowWrite p runtime o v).Inv := by
  unfold State.windowWrite
  split
  · split
    · split
      · exact hs
      · exact hs.partWrite ..
    · split
      · split
        · exact hs.msixWrite ..
        · exact hs
      · exact hs
    · exact hs
  · exact hs

theorem dieWindowWrite (hs : s.Inv) (d : Fin 18) (o : Nat) (v : Word32) (whole : Bool) : (s.dieWindowWrite d o v whole).Inv := by
  unfold State.dieWindowWrite
  split
  · split
    · exact hs.dieWrite ..
    · exact hs
  · split
    · split
      · exact hs.tileWrite ..
      · exact hs
    · exact hs
  · exact hs

theorem broadcast (hs : s.Inv) (b : Block) (v : Word32) (whole : Bool) : (s.broadcast b v whole).Inv := by
  unfold State.broadcast
  split
  · exact hs.foldl _ fun _ _ hu => hu.dieWindowWrite ..
  · dsimp only
    exact hs.foldl _ fun _ _ hu => hu.dieWindowWrite ..
  · exact hs.foldl _ fun _ _ hu => hu.dieWindowWrite ..
  · exact hs

theorem pfWrite (hs : s.Inv) (h : Fin 4) (runtime : Bool) (a : Nat) (v : Word32) : (s.pfWrite h runtime a v).Inv := by
  unfold State.pfWrite
  split
  · split
    · split
      · exact hs.plainWrite ..
      · exact hs
    · exact hs.globWrite ..
    · exact hs
  · split
    · exact hs.hankWrite ..
    · exact hs
  · split
    · exact hs
    · exact hs.msixWrite ..
  · exact hs.windowWrite ..
  · exact hs.dieWindowWrite ..
  · split
    · split
      · exact hs.tileWrite ..
      · exact hs
    · exact hs
  · split
    · split
      · exact hs.hankWrite ..
      · exact hs
    · exact hs
  · exact hs
  · exact hs.broadcast ..

theorem vfWrite (hs : s.Inv) (h : Fin 4) (i : Fin 16) (o : Nat) (v : Word32) : (s.vfWrite h i o v).Inv := by
  unfold State.vfWrite
  split
  · split
    · exact hs.partWrite ..
    · exact hs.msixWrite ..
    · exact hs
  · exact hs

theorem imageWrite (hs : s.Inv) (p : Fin 64) (o : Nat) (v : Word32) : (s.imageWrite p o v).Inv := by
  unfold State.imageWrite
  split
  · split
    · exact hs.partWrite ..
    · exact hs
  · exact hs

theorem regWrite (hs : s.Inv) (req : Requester) (o width : Nat) (v : Word32) : (s.regWrite req o width v).Inv := by
  unfold State.regWrite
  split
  · exact hs
  · split
    · exact hs.pfWrite ..
    · exact hs.pfWrite ..
    · exact hs.vfWrite ..
    · exact hs.vfWrite ..
    · exact hs.imageWrite ..

theorem bcastWrite (hs : s.Inv) (req : Requester) (o width : Nat) (v : Word32) : (s.bcastWrite req o width v).Inv := by
  unfold State.bcastWrite
  split
  · exact hs
  · exact hs
  · split
    · exact hs.regWrite ..
    · exact hs

theorem imageLoad (hs : s.Inv) (p : Fin 64) (vh o n : Nat) : (s.imageLoad p vh o n).Inv := by
  unfold State.imageLoad
  split
  · exact (hs.imageRead ..).coreReturn ..
  · exact hs.coreReturn ..

theorem guestAccess (hs : s.Inv) (p : Fin 64) (vh : Nat) (a : CoreAccess) (gpa : Nat) : (s.guestAccess p vh a gpa).Inv := by
  unfold State.guestAccess
  split
  · dsimp only
    split
    · exact hs.coreFault ..
    · exact hs.imageLoad ..
    · split
      · exact hs.imageWrite ..
      · exact hs
    · exact hs
  · split
    · exact hs.coreFetch ..
    · exact hs.coreLoad ..
    · exact hs.coreStore ..
    · exact hs

theorem coreAccess (hs : s.Inv) (p : Fin 64) (vh : Nat) (a : CoreAccess) (va : Nat) : (s.coreAccess p vh a va).Inv := by
  unfold State.coreAccess
  split
  · exact hs
  · split
    · exact hs.setVs ..
    · split
      · exact hs.vsFault ..
      next e2 => exact ((hs.vsStage ..).of_ok e2).coreSplit ..
      next e3 => exact ((hs.vsStage ..).of_ok e3).guestAccess ..

theorem applyCommit (hs : s.Inv) (c : Commit) : (s.applyCommit c).Inv := by
  unfold State.applyCommit
  split
  · exact hs.ctlApply ..
  · exact hs.ctlApply ..
  · exact hs.ctlApply ..
  · exact hs.ringApply ..
  · exact hs.qtabApply ..
  · exact hs.bwApply ..
  · exact hs.spanApply ..
  · exact hs.pkeApply ..

end State.Inv

end Sys2Proof.Machine
end
section
/-! Every command keeps the canonical form of the state, and so does every step. -/
namespace Sys2Proof.Machine

variable {s : State}

theorem execOpPassoverBlock_inv (hs : s.Inv) (o : OpRef) : ∃ u, execOpPassoverBlock o s = .next u ∧ u.Inv := by
  refine ⟨_, rfl, ?_⟩
  split
  · split
    · exact hs.updOp ..
    · exact hs
  · exact hs

theorem execMtDataAccess_inv (hs : s.Inv) (view : View) (p : Fin 64) (value : Option (BitVec 32)) :
    ∃ u, execMtDataAccess view p value s = .next u ∧ u.Inv := by
  refine ⟨_, rfl, ?_⟩
  split
  · split
    · exact hs.mtDataWrite ..
    · exact hs
  · split
    · exact (hs.mtDataRead ..).emit ..
    · exact hs.emit ..

theorem execCastOnCommitApply_inv (hs : s.Inv) (g : Sys2Proof.Group) : ∃ u, execCastOnCommitApply g s = .next u ∧ u.Inv := by
  refine ⟨_, rfl, ?_⟩
  split
  · exact hs.applyCommit ..
  · exact hs

theorem execSpadPwrApply_inv (hs : s.Inv) (t : Fin 576) : ∃ u, execSpadPwrApply t s = .next u ∧ u.Inv := by
  refine ⟨_, rfl, ?_⟩
  split
  · split
    · exact hs.applySpad ..
    · exact hs
  · exact hs

theorem execSpadGroupReady_inv (hs : s.Inv) (t : Fin 576) : ∃ u, execSpadGroupReady t s = .next u ∧ u.Inv := by
  refine ⟨_, rfl, ?_⟩
  split
  · exact (hs.updReg ..).updTile ..
  · exact hs

theorem execReducePathApply_inv (hs : s.Inv) (t : Fin 576) : ∃ u, execReducePathApply t s = .next u ∧ u.Inv := by
  refine ⟨_, rfl, ?_⟩
  split
  · split
    · exact (hs.setField ..).updTile ..
    · exact hs
  · exact hs

theorem execSwaitSatisfied_inv (hs : s.Inv) (t : Fin 576) (k : StreamCode) : ∃ u, execSwaitSatisfied t k s = .next u ∧ u.Inv := by
  refine ⟨_, rfl, ?_⟩
  split
  · split
    next e2 => exact ((hs.semTake ..).of_some e2).updStream ..
    · exact hs
  · exact hs

theorem execSpostr_inv (hs : s.Inv) (t : Fin 576) (k : StreamCode) (w : StreamWord) : ∃ u, execSpostr t k w s = .next u ∧ u.Inv := by
  refine ⟨_, rfl, ?_⟩
  refine hs.issue (fun _ => .bind .engGet fun s => ?_) ..
  split
  · split
    · exact .putPost ..
    · exact .engFault ..
  · exact .pure _

theorem execDeadlockTimeout_inv (hs : s.Inv) (o : OpRef) : ∃ u, execDeadlockTimeout o s = .next u ∧ u.Inv := by
  refine ⟨_, rfl, ?_⟩
  split
  · split
    · exact hs.endNow ..
    · exact hs
  · exact hs

theorem execStreamWatchdog_inv (hs : s.Inv) (o : OpRef) (t : Fin 576) (k : StreamCode) :
    ∃ u, execStreamWatchdog o t k s = .next u ∧ u.Inv := by
  refine ⟨_, rfl, ?_⟩
  split
  · dsimp only
    split
    · exact (((hs.reportLog ..).startSelfTest ..).replayR69 ..).resetTested ..
    · exact hs
  · exact hs

theorem execPatrolScrub_inv (hs : s.Inv) (line : Fin 25769803776) (found : EccFinding) :
    ∃ u, execPatrolScrub line found s = .next u ∧ u.Inv := by
  refine ⟨_, rfl, ?_⟩
  refine .ite hs ?_
  split
  · exact hs
  · exact .ite hs (hs.bump ..)
  · exact .ite hs (hs.bump ..)
  · exact (hs.withMemBad ..).badLine ..

theorem execOpCntLoRead_inv (hs : s.Inv) (req : Requester) : ∃ u, execOpCntLoRead req s = .next u ∧ u.Inv := by
  refine ⟨_, rfl, ?_⟩
  split
  · split
    · exact hs.emit ..
    · exact hs.emit ..
    · exact (hs.opCntRead ..).emit ..
  · exact hs.emit ..

theorem execRetirementStart_inv (hs : s.Inv) (d : Fin 18) : ∃ u, execRetirementStart d s = .next u ∧ u.Inv := by
  refine ⟨_, rfl, ?_⟩
  split
  · split
    · exact (hs.beginRetire ..).serveAbrupt ..
    · exact hs
  · exact hs

theorem execRetireGraceExpiry_inv (hs : s.Inv) (d : Fin 18) : ∃ u, execRetireGraceExpiry d s = .next u ∧ u.Inv := by
  refine ⟨_, rfl, ?_⟩
  split
  · split
    · exact ((hs.endRetire ..).serveAbrupt ..).continueM3 ..
    · exact hs
  · exact hs

theorem execStoreRead_inv (hs : s.Inv) (field : BitVec 8) : ∃ u, execStoreRead field s = .next u ∧ u.Inv := by
  refine ⟨_, rfl, ?_⟩
  split
  · exact hs.mgmtRefuse ..
  · split
    · exact hs.mgmtDone ..
    · exact hs.mgmtRefuse ..

theorem execIdeKeyProgram_inv (hs : s.Inv) (h : Fin 4) (stream : IdeStream) (key : BitVec 256) :
    ∃ u, execIdeKeyProgram h stream key s = .next u ∧ u.Inv := by
  refine ⟨_, rfl, ?_⟩
  split
  · refine hs.updHank _ _ fun _ hx => ?_
    split
    · exact hx
    · exact hx
  · exact hs

theorem execVsTimerInterrupt_inv (hs : s.Inv) (p : Fin 64) (vh : Nat) : ∃ u, execVsTimerInterrupt p vh s = .next u ∧ u.Inv := by
  refine ⟨_, rfl, ?_⟩
  split
  · split
    · split
      · exact hs.updHart ..
      · exact hs
    · exact hs
  · exact hs

/-- Each command by the operation it runs. -/
theorem exec_inv (hs : s.Inv) (c : Instr) : ∃ t, exec c s = .next t ∧ t.Inv := by
  cases c with
  | dbSqWrite => exact ⟨_, rfl, .ite (hs.dbSq ..) hs⟩
  | dbCqWrite => exact ⟨_, rfl, .ite (hs.dbCq ..) hs⟩
  | ringEnable => exact ⟨_, rfl, .ite (hs.enableRing ..) hs⟩
  | ringDisable => exact ⟨_, rfl, .ite (hs.disableRing ..) hs⟩
  | ringDrained => exact ⟨_, rfl, .ite (hs.updRing ..) hs⟩
  | submissionFetch => exact ⟨_, rfl, hs.fetch ..⟩
  | opReady => exact ⟨_, rfl, hs.opReady ..⟩
  | opPassoverBlock => exact execOpPassoverBlock_inv hs ..
  | loadCt => exact ⟨_, rfl, hs.runOp (fun _ _ => .workLoadCt ..) ..⟩
  | storeCt => exact ⟨_, rfl, hs.runOp (fun _ _ => .workStoreCt ..) ..⟩
  | copy => exact ⟨_, rfl, hs.runOp (fun _ _ => .copyWork ..) ..⟩
  | transposeCopy => exact ⟨_, rfl, hs.runOp (fun _ _ => .copyWork ..) ..⟩
  | fill => exact ⟨_, rfl, hs.runOp (fun _ _ => .fillWork ..) ..⟩
  | add => exact ⟨_, rfl, hs.runOp (fun _ _ => .workAdd ..) ..⟩
  | sub => exact ⟨_, rfl, hs.runOp (fun _ _ => .workSub ..) ..⟩
  | neg => exact ⟨_, rfl, hs.runOp (fun _ _ => .workNeg ..) ..⟩
  | addPlain => exact ⟨_, rfl, hs.runOp (fun _ _ => .workAddPlain ..) ..⟩
  | mulPlain => exact ⟨_, rfl, hs.runOp (fun _ _ => .workMulPlain ..) ..⟩
  | mulConst => exact ⟨_, rfl, hs.runOp (fun _ _ => .workMulConst ..) ..⟩
  | mul => exact ⟨_, rfl, hs.runOp (fun _ _ => .workMul ..) ..⟩
  | relin => exact ⟨_, rfl, hs.runOp (fun _ _ => .workRelin ..) ..⟩
  | rescale => exact ⟨_, rfl, hs.runOp (fun _ _ => .workRescale ..) ..⟩
  | modDrop => exact ⟨_, rfl, hs.runOp (fun _ _ => .workModDrop ..) ..⟩
  | rotate => exact ⟨_, rfl, hs.runOp (fun _ _ => .workRotate ..) ..⟩
  | hoistRotate => exact ⟨_, rfl, hs.runOp (fun _ _ => .hoistWork ..) ..⟩
  | conjugate => exact ⟨_, rfl, hs.runOp (fun _ _ => .workConjugate ..) ..⟩
  | keyswitch => exact ⟨_, rfl, hs.runOp (fun _ _ => .workKeyswitch ..) ..⟩
  | nttFwd => exact ⟨_, rfl, hs.runOp (fun _ _ => .workNttFwd ..) ..⟩
  | nttInv => exact ⟨_, rfl, hs.runOp (fun _ _ => .workNttInv ..) ..⟩
  | bconv => exact ⟨_, rfl, hs.runOp (fun _ _ => .bconvWork ..) ..⟩
  | linearTransform => exact ⟨_, rfl, hs.runOp (fun _ _ => .workLinearTransform ..) ..⟩
  | polyEval => exact ⟨_, rfl, hs.runOp (fun _ _ => .workPolyEval ..) ..⟩
  | refresh => exact ⟨_, rfl, hs.runOp (fun _ _ => .refreshWork ..) ..⟩
  | encodeOp => exact ⟨_, rfl, hs.runOp (fun _ _ => .encodeWork ..) ..⟩
  | intMatmul => exact ⟨_, rfl, hs.runOp (fun _ _ => .workIntMatmul ..) ..⟩
  | intConv => exact ⟨_, rfl, hs.runOp (fun _ _ => .intWork ..) ..⟩
  | fence => exact ⟨_, rfl, hs.runOp (fun _ _ => .workFence ..) ..⟩
  | signal => exact ⟨_, rfl, hs.runOp (fun _ _ => .signalWork ..) ..⟩
  | custom => exact ⟨_, rfl, hs.startCustom ..⟩
  | tilePartComplete => exact ⟨_, rfl, hs.tilePart ..⟩
  | opBindOff => exact ⟨_, rfl, hs.bindOffCompared ..⟩
  | completionWrite => exact ⟨_, rfl, hs.deliver ..⟩
  | ringIrqTimer => exact ⟨_, rfl, .ite (hs.ringIrq ..) hs⟩
  | mtDataAccess => exact execMtDataAccess_inv hs ..
  | mtCommit => exact ⟨_, rfl, .ite (hs.mtCommit ..) hs⟩
  | mtCommitCheck => exact ⟨_, rfl, hs.mtCommitCheck ..⟩
  | ctlCommitHandle => exact ⟨_, rfl, .ite (hs.ctlStart ..) hs⟩
  | ctlCommitKeyDir => exact ⟨_, rfl, .ite (hs.ctlStart ..) hs⟩
  | ctlCommitBundle => exact ⟨_, rfl, .ite (hs.ctlStart ..) hs⟩
  | qtabCommit => exact ⟨_, rfl, .ite (hs.qtabCommit ..) hs⟩
  | bwCommit => exact ⟨_, rfl, .ite (hs.bwCommit ..) hs⟩
  | spanCommit => exact ⟨_, rfl, .ite (hs.spanCommit ..) hs⟩
  | castOnCommitApply => exact execCastOnCommitApply_inv hs ..
  | semWrite => exact ⟨_, rfl, .ite (hs.semWrite ..) hs⟩
  | spadPwrWrite => exact ⟨_, rfl, .ite (hs.spadWrite ..) hs⟩
  | spadPwrApply => exact execSpadPwrApply_inv hs ..
  | spadGroupReady => exact execSpadGroupReady_inv hs ..
  | vecCtrlWrite => exact ⟨_, rfl, .ite (hs.vecCtrlWrite ..) hs⟩
  | reducePathApply => exact execReducePathApply_inv hs ..
  | memCfgWrite => exact ⟨_, rfl, .ite (hs.memCfgWrite ..) hs⟩
  | registerWrite => exact ⟨_, rfl, hs.regWrite ..⟩
  | broadcastWrite => exact ⟨_, rfl, hs.bcastWrite ..⟩
  | nop => exact ⟨_, rfl, hs.issueAt ..⟩
  | loop => exact ⟨_, rfl, hs.issueAt ..⟩
  | cmpset => exact ⟨_, rfl, hs.issueAt ..⟩
  | whenInstr => exact ⟨_, rfl, hs.issueAt ..⟩
  | swait => exact ⟨_, rfl, hs.swait ..⟩
  | swaitSatisfied => exact execSwaitSatisfied_inv hs ..
  | spost => exact ⟨_, rfl, hs.issue (fun _ => .putPost ..) ..⟩
  | spostr => exact execSpostr_inv hs ..
  | spostTakesEffect => exact ⟨_, rfl, hs.postEffect ..⟩
  | endInstr => exact ⟨_, rfl, hs.issueAt ..⟩
  | fload => exact ⟨_, rfl, hs.feedIssue ..⟩
  | fstore => exact ⟨_, rfl, hs.feedIssue ..⟩
  | fmove => exact ⟨_, rfl, hs.feedIssue ..⟩
  | spfill => exact ⟨_, rfl, hs.feedIssue ..⟩
  | spcopy => exact ⟨_, rfl, hs.feedIssue ..⟩
  | feederTransferDone => exact ⟨_, rfl, hs.feederDone ..⟩
  | nttf => exact ⟨_, rfl, hs.issue (fun _ => .nttWork ..) ..⟩
  | ntti => exact ⟨_, rfl, hs.issue (fun _ => .nttWork ..) ..⟩
  | ffte => exact ⟨_, rfl, hs.issue (fun _ => .ffteWork ..) ..⟩
  | ccopy => exact ⟨_, rfl, hs.issue (fun _ => .ccopyWork ..) ..⟩
  | caute => exact ⟨_, rfl, hs.issue (fun _ => .cautWork ..) ..⟩
  | cautc => exact ⟨_, rfl, hs.issue (fun _ => .cautWork ..) ..⟩
  | cgath => exact ⟨_, rfl, hs.issue (fun _ => .cgathWork ..) ..⟩
  | crgath => exact ⟨_, rfl, hs.issue (fun _ => .crgathWork ..) ..⟩
  | ctrans => exact ⟨_, rfl, hs.issue (fun _ => .ctransWork ..) ..⟩
  | cxchg => exact ⟨_, rfl, hs.issue (fun _ => .cxchgWork ..) ..⟩
  | exchangeComplete => exact ⟨_, rfl, hs.exchangeDone ..⟩
  | rmode => exact ⟨_, rfl, hs.issue (fun _ => .rmodeWork ..) ..⟩
  | rconst => exact ⟨_, rfl, hs.issue (fun _ => .rconstWork ..) ..⟩
  | rmac => exact ⟨_, rfl, hs.issue (fun _ => .rmacWork ..) ..⟩
  | pkey => exact ⟨_, rfl, hs.issue (fun _ => .pkeyWork ..) ..⟩
  | pmac => exact ⟨_, rfl, hs.issue (fun _ => .pmacWork ..) ..⟩
  | setwin => exact ⟨_, rfl, hs.issue (fun _ => .setwinWork ..) ..⟩
  | setvl => exact ⟨_, rfl, hs.issue (fun _ => .setvlWork ..) ..⟩
  | vaddm => exact ⟨_, rfl, hs.vec ..⟩
  | vsubm => exact ⟨_, rfl, hs.vec ..⟩
  | vnegm => exact ⟨_, rfl, hs.vec ..⟩
  | vmulm => exact ⟨_, rfl, hs.vec ..⟩
  | vmaddm => exact ⟨_, rfl, hs.vec ..⟩
  | vlift => exact ⟨_, rfl, hs.vec ..⟩
  | vrescale => exact ⟨_, rfl, hs.vec ..⟩
  | vaddi => exact ⟨_, rfl, hs.vec ..⟩
  | vsubi => exact ⟨_, rfl, hs.vec ..⟩
  | vmuli => exact ⟨_, rfl, hs.vec ..⟩
  | vmaddi => exact ⟨_, rfl, hs.vec ..⟩
  | vmaxi => exact ⟨_, rfl, hs.vec ..⟩
  | vmini => exact ⟨_, rfl, hs.vec ..⟩
  | vrelu => exact ⟨_, rfl, hs.vec ..⟩
  | vclamp => exact ⟨_, rfl, hs.vec ..⟩
  | vlut8 => exact ⟨_, rfl, hs.vec ..⟩
  | vshrr => exact ⟨_, rfl, hs.vec ..⟩
  | vreq => exact ⟨_, rfl, hs.vec ..⟩
  | vcvtif => exact ⟨_, rfl, hs.vec ..⟩
  | vcvtfi => exact ⟨_, rfl, hs.vec ..⟩
  | vaddf => exact ⟨_, rfl, hs.vec ..⟩
  | vsubf => exact ⟨_, rfl, hs.vec ..⟩
  | vmulf => exact ⟨_, rfl, hs.vec ..⟩
  | vdivf => exact ⟨_, rfl, hs.vec ..⟩
  | vsqrtf => exact ⟨_, rfl, hs.vec ..⟩
  | vmaxf => exact ⟨_, rfl, hs.vec ..⟩
  | vminf => exact ⟨_, rfl, hs.vec ..⟩
  | vcopy => exact ⟨_, rfl, hs.vec ..⟩
  | vreduce => exact ⟨_, rfl, hs.issue (fun _ => .vreduceWork ..) ..⟩
  | queueSlotCommit => exact ⟨_, rfl, hs.slotCommit ..⟩
  | queueSlotRelease => exact ⟨_, rfl, hs.slotRelease ..⟩
  | engineStallResume => exact ⟨_, rfl, .ite (hs.updStream ..) hs⟩
  | deadlockTimeout => exact execDeadlockTimeout_inv hs ..
  | streamWatchdog => exact execStreamWatchdog_inv hs ..
  | transactionTimeout => exact ⟨_, rfl, hs.timeout ..⟩
  | residueMismatch => exact ⟨_, rfl, hs.residueMismatch ..⟩
  | ondieUncorrectable => exact ⟨_, rfl, hs.ondieError ..⟩
  | stackUncorrectable => exact ⟨_, rfl, hs⟩
  | patrolScrub => exact execPatrolScrub_inv hs ..
  | flitCrcError => exact ⟨_, rfl, .ite hs (.ite (hs.reportTrace ..) (hs.reportLog ..))⟩
  | coreMemoryAccess => exact ⟨_, rfl, hs.coreAccess ..⟩
  | coreAtomic => exact ⟨_, rfl, .ite (hs.behindVs (fun hu _ => (hu.coreLeaf ..).coreAtomic ..) ..) hs⟩
  | coreLoadReserved => exact ⟨_, rfl, .ite (hs.behindVs (fun hu _ => (hu.coreLeaf ..).loadReserved ..) ..) hs⟩
  | coreStoreConditional => exact ⟨_, rfl, .ite (hs.behindVs (fun hu _ => (hu.coreLeaf ..).storeConditional ..) ..) hs⟩
  | sbiBase => exact ⟨_, rfl, .ite (hs.sbiBase ..) hs⟩
  | sbiTimer => exact ⟨_, rfl, .ite ((hs.updHart ..).sbiReturn ..) hs⟩
  | sbiIpi => exact ⟨_, rfl, .ite (hs.sbiMasked ..) hs⟩
  | sbiRfence => exact ⟨_, rfl, .ite (.ite (hs.sbiMasked ..) (hs.sbiReturn ..)) hs⟩
  | sbiHsm => exact ⟨_, rfl, .ite (hs.sbiHsm ..) hs⟩
  | sbiSystemReset => exact ⟨_, rfl, .ite (.ite ((hs.stopCores ..).startHart0 ..) (hs.sbiReturn ..)) hs⟩
  | coreStart => exact ⟨_, rfl, .ite (hs.coreStart ..) hs⟩
  | coreStopAll => exact ⟨_, rfl, .ite (hs.stopCores ..) hs⟩
  | translationChange => exact ⟨_, rfl, hs.translationChange ..⟩
  | partCreate => exact ⟨_, rfl, .ite (hs.partCreate ..) hs⟩
  | partDestroy => exact ⟨_, rfl, .ite (hs.partDestroy ..) hs⟩
  | partRemap => exact ⟨_, rfl, .ite (hs.partRemap ..) hs⟩
  | partFrog => exact ⟨_, rfl, .ite (hs.partFrog ..) hs⟩
  | jobFrog => exact ⟨_, rfl, .ite (hs.jobFrog ..) hs⟩
  | frogEnginesStopped => exact ⟨_, rfl, hs.enginesStopped ..⟩
  | frogScrubStepDone => exact ⟨_, rfl, (hs.scrubStepDone ..).continueM3 ..⟩
  | pageScrubDone => exact ⟨_, rfl, hs.pageScrubDone ..⟩
  | hookDrained => exact ⟨_, rfl, .ite (hs.setField ..) hs⟩
  | hookResume => exact ⟨_, rfl, .ite (hs.hookResume ..) hs⟩
  | inspDataRead => exact ⟨_, rfl, .ite (hs.viewRead (fun hu => hu) ..) (hs.viewRead (fun hu => hu.inspect ..) ..)⟩
  | opCntLoRead => exact execOpCntLoRead_inv hs ..
  | swatchSeqRead => exact ⟨_, rfl, .ite (hs.viewRead (fun hu => hu) ..) (hs.viewRead (fun hu => hu.swatchSeqRead ..) ..)⟩
  | swatchKeyInstall => exact ⟨_, rfl, .ite (hs.swatchInstall ..) hs⟩
  | samplerEnable => exact ⟨_, rfl, .ite (hs.smpCfgWrite ..) hs⟩
  | sampleRecord => exact ⟨_, rfl, .ite (hs.sample ..) hs⟩
  | logEnable => exact ⟨_, rfl, .ite (hs.pathCfgWrite ..) hs⟩
  | traceEnable => exact ⟨_, rfl, .ite (hs.pathCfgWrite ..) hs⟩
  | logWindowClose => exact ⟨_, rfl, hs.closeWindow ..⟩
  | traceMarker => exact ⟨_, rfl, .ite (hs.traceMark ..) hs⟩
  | fcAlarmAck => exact ⟨_, rfl, .ite (hs.alarmAck ..) hs⟩
  | dispatcherHeartbeat => exact ⟨_, rfl, .ite (hs.updSite ..) hs⟩
  | heartbeatCheck => exact ⟨_, rfl, .ite hs (.ite (hs.updSite ..) (.ite ((hs.updSite ..).dieLost ..) (hs.updSite ..)))⟩
  | dieProbeTimeout => exact ⟨_, rfl, .ite (hs.dieLost ..) hs⟩
  | tileSelftestDone => exact ⟨_, rfl, .ite (.ite (.ite ((hs.updTile ..).tileReset ..) (((hs.updTile ..).tileReset ..).setRuOut ..)) (.outOfUse
    (.ite ((hs.updTile ..).tileReset ..) (((hs.updTile ..).tileReset ..).setRuOut ..)) ..)) hs⟩
  | rasRetire => exact ⟨_, rfl, .ite (hs.rasCmd ..) hs⟩
  | retirementStart => exact execRetirementStart_inv hs ..
  | spareInService => exact ⟨_, rfl, ((hs.spareInService ..).serveAbrupt ..).continueM3 ..⟩
  | retireGraceExpiry => exact execRetireGraceExpiry_inv hs ..
  | bridgeSegmentFault => exact ⟨_, rfl, .ite (hs.segmentFault ..) hs⟩
  | memoryColumnFault => exact ⟨_, rfl, .ite (hs.columnFault ..) hs⟩
  | hankDieFault => exact ⟨_, rfl, .ite (hs.hankFault ..) hs⟩
  | pllLossOfLock => exact ⟨_, rfl, .ite (hs.pllLoss ..) hs⟩
  | refclkLoss => exact ⟨_, rfl, .ite (.ite ((hs.withPower ..).monitorAlarm ..) (hs.withPower ..)) hs⟩
  | refclkAbsentTimeout => exact ⟨_, rfl, .ite ((hs.foldl _ fun _ _ hu => hu.updTile ..).withPower ..) hs⟩
  | refclkReturn => exact ⟨_, rfl, (hs.foldl _ fun _ _ hu => hu.updTile ..).withPower ..⟩
  | inputVoltageChange => exact ⟨_, rfl, hs.inputVoltage ..⟩
  | conversionFault => exact ⟨_, rfl, hs.faultM4 ..⟩
  | coolantTempChange => exact ⟨_, rfl, hs.coolantTemp ..⟩
  | coolantFlowChange => exact ⟨_, rfl, hs.coolantFlow ..⟩
  | flowTripTimer => exact ⟨_, rfl, .ite (hs.faultM4 ..) hs⟩
  | dieTempChange => exact ⟨_, rfl, hs.dieTemp ..⟩
  | stackOvertemp => exact ⟨_, rfl, hs.stackTemp ..⟩
  | dutyAdjust => exact ⟨_, rfl, .ite (hs.updSite ..) hs⟩
  | inputThrottle => exact ⟨_, rfl, hs.inputThrottle ..⟩
  | pwrCapWrite => exact ⟨_, rfl, .ite (hs.pwrCapWrite ..) hs⟩
  | enterM3 => exact ⟨_, rfl, .ite (hs.pwrCmd ..) hs⟩
  | leaveM3 => exact ⟨_, rfl, .ite (hs.pwrCmd ..) hs⟩
  | m3ExitDone => exact ⟨_, rfl, hs.exitM3 ..⟩
  | enterM4 => exact ⟨_, rfl, .ite (hs.pwrCmd ..) hs⟩
  | moduleResetCmd => exact ⟨_, rfl, .ite (hs.pwrCmd ..) hs⟩
  | powerOn => exact ⟨_, rfl, .ite (hs.coldReset ..) hs⟩
  | startupStep => exact ⟨_, rfl, hs.startupStep ..⟩
  | runtimeReady => exact ⟨_, rfl, hs.ready ..⟩
  | perst0Assert => exact ⟨_, rfl, hs.perst0 ..⟩
  | perst0Deassert => exact ⟨_, rfl, hs⟩
  | portReset => exact ⟨_, rfl, hs.portEvent ..⟩
  | vfFlr => exact ⟨_, rfl, .ite (hs.flr ..) hs⟩
  | senseClose => exact ⟨_, rfl, hs⟩
  | hotswapChargeStart => exact ⟨_, rfl, .ite (hs.withPower ..) hs⟩
  | senseOpen => exact ⟨_, rfl, (hs.enterM4 ..).withPower ..⟩
  | forceOff => exact ⟨_, rfl, hs.enterM4 ..⟩
  | getState => exact ⟨_, rfl, hs.mgmtDone ..⟩
  | alarmRead => exact ⟨_, rfl, hs.mgmtRun (fun hu => (hu.alertRead ..).mgmtDone ..) ..⟩
  | alarmAck => exact ⟨_, rfl, hs.mgmtRun (fun hu => .ite ((hu.alarmAck ..).mgmtDone ..) (hu.mgmtRefuse ..)) ..⟩
  | setCap => exact ⟨_, rfl, hs.mgmtRun (fun hu => hu.setCap ..) ..⟩
  | power => exact ⟨_, rfl, hs.mgmtRun (fun hu => hu.powerCmd ..) ..⟩
  | coldReset => exact ⟨_, rfl, (hs.mgmtDone ..).coldReset ..⟩
  | partition => exact ⟨_, rfl, hs.mgmtRun (fun hu => hu.partitionCmd ..) ..⟩
  | retire => exact ⟨_, rfl, hs.mgmtRun (fun hu => hu.retireCmd ..) ..⟩
  | lifecycle => exact ⟨_, rfl, hs.mgmtRun (fun hu => hu.lifecycleCmd ..) ..⟩
  | storeRead => exact execStoreRead_inv hs ..
  | storeWrite => exact ⟨_, rfl, hs.mgmtRun (fun hu => hu.storeWriteCmd ..) ..⟩
  | storeExport => exact ⟨_, rfl, .ite (hs.mgmtDone ..) (hs.mgmtRefuse ..)⟩
  | storeImport => exact ⟨_, rfl, hs.mgmtRun (fun hu => hu.storeImport ..) ..⟩
  | storeWriteDone => exact ⟨_, rfl, hs.storeDone ..⟩
  | setEndpointId => exact ⟨_, rfl, (hs.withMgmt ..).emit ..⟩
  | pldmRequest => exact ⟨_, rfl, .ite ((hs.pldmData ..).emit ..) (hs.emit ..)⟩
  | pkeRingEnable => exact ⟨_, rfl, .ite hs ((hs.setField ..).startCommit ..)⟩
  | pkeRingDisable => exact ⟨_, rfl, .ite (hs.pkeDisable ..) hs⟩
  | pkeDb => exact ⟨_, rfl, .ite (hs.pkeDb ..) hs⟩
  | pkeCommandStart => exact ⟨_, rfl, .ite (((hs.pkeRuntime ..).pkeFetch ..).pkeStart ..) hs⟩
  | keygen => exact ⟨_, rfl, hs.pkeRun (fun hu _ => hu.keygenWork ..) ..⟩
  | sign => exact ⟨_, rfl, hs.pkeRun (fun hu _ => hu.signWork ..) ..⟩
  | verify => exact ⟨_, rfl, hs.pkeRun (fun hu _ => hu.verifyWork ..) ..⟩
  | ecdh => exact ⟨_, rfl, hs.pkeRun (fun hu _ => hu.ecdhWork ..) ..⟩
  | curveLoad => exact ⟨_, rfl, hs.pkeRun (fun hu _ => hu.curveLoadWork ..) ..⟩
  | wipe => exact ⟨_, rfl, hs.wipeRun ..⟩
  | slotLoad => exact ⟨_, rfl, hs.pkeRun (fun hu _ => hu.slotLoadWork ..) ..⟩
  | slotStore => exact ⟨_, rfl, hs.pkeRun (fun hu _ => hu.slotStoreWork ..) ..⟩
  | pkeOpComplete => exact ⟨_, rfl, hs.pkeEnd ..⟩
  | entropyHealthFail => exact ⟨_, rfl, .ite ((hs.updPke ..).reportAlarm ..) hs⟩
  | getVersion => exact ⟨_, rfl, hs.spdmAnswer ..⟩
  | getCapabilities => exact ⟨_, rfl, hs.spdmAnswer ..⟩
  | negotiateAlgorithms => exact ⟨_, rfl, hs.spdmAnswer ..⟩
  | getDigests => exact ⟨_, rfl, hs.spdmAnswer ..⟩
  | getCertificate => exact ⟨_, rfl, hs.spdmAnswer ..⟩
  | challenge => exact ⟨_, rfl, hs.spdmAnswer ..⟩
  | getMeasurements => exact ⟨_, rfl, hs.spdmAnswer ..⟩
  | keyExchange => exact ⟨_, rfl, hs.spdmAnswer ..⟩
  | finish => exact ⟨_, rfl, .ite ((hs.updSpdm ..).spdmAnswer ..) (hs.spdmAnswer ..)⟩
  | keyUpdate => exact ⟨_, rfl, hs.spdmAnswer ..⟩
  | heartbeat => exact ⟨_, rfl, hs.spdmAnswer ..⟩
  | endSession => exact ⟨_, rfl, hs.spdmAnswer ..⟩
  | ideKeyProgram => exact execIdeKeyProgram_inv hs ..
  | qlNodeWrite => exact ⟨_, rfl, .ite (hs.qlNodeWrite ..) hs⟩
  | qlPortTakedown => exact ⟨_, rfl, .ite ((hs.linkLog ..).portDown ..) hs⟩
  | qlTrainingDone => exact ⟨_, rfl, .ite (.ite ((hs.updPort ..).storeSeeds ..) (hs.linkLost ..)) hs⟩
  | qlHello => exact ⟨_, rfl, .ite (.ite ((hs.updPort ..).startExchange ..) (hs.phaseFailed ..)) hs⟩
  | qlSecureDone => exact ⟨_, rfl, .ite (.ite (hs.secured ..) (hs.phaseFailed ..)) hs⟩
  | qlPhaseTimeout => exact ⟨_, rfl, .ite (hs.phaseFailed ..) hs⟩
  | qlRetryTimer => exact ⟨_, rfl, .ite ((hs.updPort ..).startTraining ..) hs⟩
  | qlLaneLoss => exact ⟨_, rfl, .ite (hs.linkLost ..) hs⟩
  | dataFrame => exact ⟨_, rfl, hs.arrive (fun hu _ => .ite (hu.deliverData ..) (hu.forward ..)) ..⟩
  | signalFrame => exact ⟨_, rfl, hs.arrive (fun hu _ => .ite (hu.deliverSignal ..) (hu.forward ..)) ..⟩
  | controlFrame => exact ⟨_, rfl, hs.arrive (fun hu _ => .ite (hu.resend ..) hu) ..⟩
  | probeFrame => exact ⟨_, rfl, hs.arrive (fun hu _ => hu.linkTrace ..) ..⟩
  | keyExchangeFrame => exact ⟨_, rfl, hs.arrive (fun hu _ => .ite hu (hu.startRekey ..)) ..⟩
  | qlControlTimer => exact ⟨_, rfl, .ite ((hs.sendControl ..).pkeRuntime ..) hs⟩
  | qlProbeSend => exact ⟨_, rfl, .ite (hs.sendProbe ..) hs⟩
  | qlRekeyStart => exact ⟨_, rfl, .ite (hs.startRekey ..) hs⟩
  | qlRekeyComplete => exact ⟨_, rfl, .ite (.ite (hs.rekeyed ..) (hs.linkLost ..)) hs⟩
  | tileEntersM1 => exact ⟨_, rfl, .ite (hs.updTile ..) hs⟩
  | tileEntersM2 => exact ⟨_, rfl, .ite (hs.updTile ..) hs⟩
  | tileM2ExitDone => exact ⟨_, rfl, .ite (hs.updTile ..) hs⟩
  | vsTimerInterrupt => exact execVsTimerInterrupt_inv hs ..
  | abstractCommand => exact ⟨_, rfl, hs.abstractCmd ..⟩
  | systemBusAccess => exact ⟨_, rfl, hs.busAccess ..⟩
  | tapInstruction => exact ⟨_, rfl, hs⟩
  | configurationRequest => exact ⟨_, rfl, hs.configRequest ..⟩

/-- Every step, from any state in canonical form. -/
theorem step_inv (hs : s.Inv) : ∃ t, step s = .next t ∧ t.Inv := by
  unfold step
  split
  · exact ⟨_, rfl, .ite hs hs⟩
  next c rest _ => exact exec_inv (s := { s with pending := rest }) hs c

/-- Settles O59: every operation of the model keeps the canonical form, operation by operation in the model's order, and every command is one of them. -/
theorem stepKeepsInv : Obligations.StepKeepsInv := by
  unfold Obligations.StepKeepsInv
  intro s t hs ht
  obtain ⟨u, hu, inv⟩ := step_inv hs
  cases ht.symm.trans hu
  exact inv

end Sys2Proof.Machine
end

section
/-! Completion delivery (R257 to R259): the entry that is written, the ring that moves on, the interrupt of COUNT, and the write that the translation refuses. -/
namespace Sys2Proof.Machine

variable {s t u v : State}

/-! ### What a write to memory leaves -/

/-- Nothing but stack memory, what belongs to its lines, and host memory differs. -/
def State.WritesOnly (s t : State) : Prop :=
  ∃ mem memBad reservations sites host, t = { s with mem := mem, memBad := memBad, reservations := reservations, sites := sites, host := host }

namespace State.WritesOnly

theorem trans (h : s.WritesOnly t) (k : t.WritesOnly u) : s.WritesOnly u := by
  obtain ⟨_, _, _, _, _, rfl⟩ := h
  obtain ⟨_, _, _, _, _, rfl⟩ := k
  exact ⟨_, _, _, _, _, rfl⟩

theorem writeHost (s : State) (h a : Nat) (bs : List Byte) : s.WritesOnly (s.writeHost h a bs) := ⟨_, _, _, _, _, rfl⟩

end State.WritesOnly

/-- Nothing but stack memory and what belongs to its lines differs. -/
def State.StoresOnly (s t : State) : Prop :=
  ∃ mem memBad reservations sites, t = { s with mem := mem, memBad := memBad, reservations := reservations, sites := sites }

namespace State.StoresOnly

theorem refl (s : State) : s.StoresOnly s := ⟨_, _, _, _, rfl⟩

theorem trans (h : s.StoresOnly t) (k : t.StoresOnly u) : s.StoresOnly u := by
  obtain ⟨_, _, _, _, rfl⟩ := h
  obtain ⟨_, _, _, _, rfl⟩ := k
  exact ⟨_, _, _, _, rfl⟩

theorem writesOnly (h : s.StoresOnly t) : s.WritesOnly t := by
  obtain ⟨_, _, _, _, rfl⟩ := h
  exact ⟨_, _, _, _, _, rfl⟩

theorem host (h : s.StoresOnly t) : t.host = s.host := by
  obtain ⟨_, _, _, _, rfl⟩ := h
  rfl

theorem foldl {α : Type} (l : List α) {f : State → α → State} (hf : ∀ (t : State) (x : α), t.StoresOnly (f t x)) (s : State) : s.StoresOnly (l.foldl f s) := by
  induction l generalizing s with
  | nil => exact refl s
  | cons x rest ih => exact (hf s x).trans (ih (f s x))

theorem storeLine (s : State) (pa : Nat) (bs : List Byte) (keep : Option Nat) : s.StoresOnly (s.storeLine pa bs keep) := by
  unfold State.storeLine
  dsimp only
  split
  · exact refl s
  · exact ⟨_, _, _, _, rfl⟩

theorem storePhys (s : State) (pa : Nat) (bs : List Byte) (keep : Option Nat) : s.StoresOnly (s.storePhys pa bs keep) := by
  unfold State.storePhys
  refine foldl _ (fun t x => ?_) s
  exact storeLine ..

theorem writeVA {p va : Nat} {bs : List Byte} {k : Access} {unit : Option Nat} (h : s.writeVA p va bs k unit = .ok t) : s.StoresOnly t := by
  unfold State.writeVA at h
  split at h
  · cases h
  · cases h
    refine foldl _ (fun t x => ?_) s
    exact storePhys ..

end State.StoresOnly

/-! ### The ring pair -/

theorem State.Inv.regs (hs : s.Inv) : Tab.wf regInit s.regs = true := by
  obtain ⟨-, -, regs, -⟩ := hs
  exact regs

/-- A ring pair reads back as it was set, where that is not the pair never touched. -/
theorem Part.ring_setRing_same (x : Part) (n : Nat) {r : Ring} (h : r ≠ {}) : (x.setRing n r).ring n = r := by
  show Tab.get _ (if r = {} then Tab.erase x.rings n else Tab.insert x.rings n r) n = r
  rw [if_neg h, Tab.get_insert_same]

theorem part_updRing_same (hs : s.Inv) (p n : Nat) (f : Ring → Ring) : (s.updRing p n f).part p = (s.part p).setRing n (f (s.ring p n)) :=
  part_updPart_same hs.parts p _

theorem ring_updRing_same (hs : s.Inv) {p n : Nat} {f : Ring → Ring} (h : f (s.ring p n) ≠ {}) : (s.updRing p n f).ring p n = f (s.ring p n) := by
  rw [State.ring, part_updRing_same hs, Part.ring_setRing_same _ _ h]

/-- A ring pair that is active, or whose delivery has stopped, is not the one never touched. -/
theorem ring_ne_default {r : Ring} (h : r.active = true ∨ r.deliveryStopped = true) : r ≠ {} := by
  rintro rfl
  simp at h

/-- The ring pair once its oldest waiting entry, before `rest`, has been written to a completion ring of `k` entries (R257, R259). -/
def Ring.passed (k : Nat) (rest : List HeldEntry) (r : Ring) : Ring := { r with
  hold := rest, cqTail := (r.cqTail + 1) % k, phase := if r.cqTail + 1 = k then !r.phase else r.phase, irqCount := r.irqCount + 1 }

/-- The ring pair once an interrupt covers its entries (R259). -/
def Ring.covered (r : Ring) : Ring := { r with irqCount := 0 }

/-- The entry has been written, and the interrupt of R259 not yet considered. -/
def State.passEntry (s : State) (p n : Nat) (e : HeldEntry) (rest : List HeldEntry) : State :=
  { s.updRing p n (Ring.passed (s.cqSize p n) rest) with jobs := if e.isJob then s.jobs.filter (fun j => j.id ≠ e.job) else s.jobs }

/-- With one more entry, COUNT written entries stand uncovered (R259). -/
def State.countReached (s : State) (p : Fin 64) (n : Fin 16) : Prop :=
  bits (s.reg (.part p (.ringIrq n))) 15 8 ≠ 0 ∧ bits (s.reg (.part p (.ringIrq n))) 15 8 ≤ (s.ring p n).irqCount + 1

/-- What a supervisor external interrupt on virtual hart 0 leaves of the harts (R318). -/
def interrupted (harts : List Hart) : List Hart := harts.mapIdx (fun k hart => if k = 0 then Hart.wake 0 { hart with extPending := true } else hart)

/-! ### The interrupt -/

variable {p : Fin 64} {n : Fin 16} {e : HeldEntry} {rest : List HeldEntry}

/-- The MSI-X message of a partition's virtual function, on the vector `v`. -/
def State.sendOn (s : State) (p v : Nat) : State :=
  match (s.part p).vf with
  | some (h, i) => s.msixSend (4 + 16 * h + i) v (.msixVf h i v)
  | none => s

/-- The message changes nothing but what is sent out and the pending bits of vectors. -/
theorem sendOn_eq (s : State) (p v : Nat) : ∃ out pending, s.sendOn p v = { s with out := out, msixPending := pending } := by
  unfold State.sendOn State.msixSend
  split
  · split
    · exact ⟨_, _, rfl⟩
    · exact ⟨_, _, rfl⟩
  · exact ⟨_, _, rfl⟩

theorem sendOn_frame (s : State) (p v : Nat) : (s.sendOn p v).parts = s.parts ∧ (s.sendOn p v).jobs = s.jobs ∧ (s.sendOn p v).tiles = s.tiles ∧
    (s.sendOn p v).regs = s.regs ∧ (s.sendOn p v).mem = s.mem ∧ (s.sendOn p v).host = s.host := by
  obtain ⟨out, pending, heq⟩ := sendOn_eq s p v
  rw [heq]
  exact ⟨rfl, rfl, rfl, rfl, rfl, rfl⟩

/-- The message of an unmasked vector is sent. -/
theorem sendOn_out {p v h i : Nat} (hvf : (s.part p).vf = some (h, i))
    (hclear : bit (Tab.get (fun w => if w % 4 = 3 then 1 else 0) s.msix (64 * (4 + 16 * h + i) + 4 * v + 3)) 0 = false) :
    (s.sendOn p v).out = s.out ++ [.msixVf h i v] := by
  simp only [State.sendOn, hvf, State.msixSend, hclear]
  rfl

/-- The interrupt of a ring pair: it covers the entries written, sends the message and interrupts virtual hart 0 (R259, R318). -/
theorem ringIrq_eq (s : State) (p : Fin 64) (n : Fin 16) : s.ringIrq p n =
    ((s.updRing p n Ring.covered).sendOn p (bits (s.reg (.part p (.ringIrq n))) 3 0)).updPart p (fun x => { x with harts := interrupted x.harts }) := by
  have named : Reg.part p (.ringIrq n) = pr p (.ringIrq (nIdx n)) := by rw [pr_val, nIdx_val]
  rw [named]
  rfl

theorem ringIrq_frame (s : State) (p : Fin 64) (n : Fin 16) : (s.ringIrq p n).jobs = s.jobs ∧ (s.ringIrq p n).tiles = s.tiles ∧ (s.ringIrq p n).regs = s.regs ∧
    (s.ringIrq p n).mem = s.mem ∧ (s.ringIrq p n).host = s.host := by
  rw [ringIrq_eq]
  exact (sendOn_frame (s.updRing p n Ring.covered) p _).2

theorem part_ringIrq (hs : s.Inv) (p : Fin 64) (n : Fin 16) :
    (s.ringIrq p n).part p = { (s.part p).setRing n (s.ring p n).covered with harts := interrupted (s.part p).harts } := by
  obtain ⟨parts, -⟩ := sendOn_frame (s.updRing p n Ring.covered) p (bits (s.reg (.part p (.ringIrq n))) 3 0)
  have before : ((s.updRing p n Ring.covered).sendOn p (bits (s.reg (.part p (.ringIrq n))) 3 0)).part p = (s.part p).setRing n (s.ring p n).covered := by
    rw [State.part, parts]
    exact part_updRing_same hs p n Ring.covered
  rw [ringIrq_eq, part_updPart_same (parts.symm ▸ (hs.updRing p n Ring.covered).parts), before]
  rfl

/-- An active ring pair whose interrupt has been raised has no uncovered entry. -/
theorem ring_ringIrq (hs : s.Inv) (ha : (s.ring p n).active = true) : (s.ringIrq p n).ring p n = (s.ring p n).covered := by
  rw [State.ring, part_ringIrq hs]
  exact Part.ring_setRing_same _ _ (ring_ne_default (.inl ha))

theorem out_ringIrq (hs : s.Inv) {h i : Nat} (hvf : (s.part p).vf = some (h, i))
    (hclear : bit (Tab.get (fun w => if w % 4 = 3 then 1 else 0) s.msix (64 * (4 + 16 * h + i) + 4 * bits (s.reg (.part p (.ringIrq n))) 3 0 + 3)) 0 = false) :
    (s.ringIrq p n).out = s.out ++ [.msixVf h i (bits (s.reg (.part p (.ringIrq n))) 3 0)] := by
  rw [ringIrq_eq]
  refine sendOn_out (s := s.updRing p n Ring.covered) ?_ hclear
  rw [part_updRing_same hs]
  exact hvf

/-! ### The entry is passed -/

theorem ring_passEntry (hs : s.Inv) (ha : (s.ring p n).active = true) : (s.passEntry p n e rest).ring p n = (s.ring p n).passed (s.cqSize p n) rest :=
  ring_updRing_same hs (ring_ne_default (.inl ha))

/-- What follows the write of an entry: the ring moves on, and the interrupt is raised when COUNT is reached. -/
theorem delivered_eq (hs : s.Inv) (hh : (s.ring p n).hold = e :: rest) (ha : (s.ring p n).active = true) :
    (¬ s.countReached p n → s.delivered p n e = s.passEntry p n e rest) ∧ (s.countReached p n → s.delivered p n e = (s.passEntry p n e rest).ringIrq p n) := by
  have moved : s.updRing p n (fun r => { r with
      hold := r.hold.drop 1, cqTail := (r.cqTail + 1) % s.cqSize p n, phase := if r.cqTail + 1 = s.cqSize p n then !r.phase else r.phase, irqCount := r.irqCount + 1 }) =
      s.updRing p n (Ring.passed (s.cqSize p n) rest) := by
    have hh : ((s.part p).ring n).hold = e :: rest := hh
    simp only [State.updRing, State.updPart, Ring.passed, hh, List.drop_one, List.tail_cons]
  have passed : (if e.isJob then { s.updRing p n (Ring.passed (s.cqSize p n) rest) with jobs := s.jobs.filter (fun j => j.id ≠ e.job) }
      else s.updRing p n (Ring.passed (s.cqSize p n) rest)) = s.passEntry p n e rest := by
    unfold State.passEntry
    split <;> rfl
  have count : ((s.passEntry p n e rest).ring p n).irqCount = (s.ring p n).irqCount + 1 := by rw [ring_passEntry hs ha]; rfl
  unfold State.delivered
  dsimp only
  rw [moved, updRing_jobs, passed, pr_val, nIdx_val, count]
  exact ⟨fun h => if_neg h, fun h => if_pos h⟩

/-- What delivery makes of the state once the entry is in the ring, besides the memory that holds the ring (R257, R259, R318). -/
structure State.EntryPassed (s : State) (p : Fin 64) (n : Fin 16) (e : HeldEntry) (rest : List HeldEntry) (t : State) : Prop where
  jobs : t.jobs = (if e.isJob then s.jobs.filter (fun j => j.id ≠ e.job) else s.jobs)
  tiles : t.tiles = s.tiles
  regs : t.regs = s.regs
  quiet : ¬ s.countReached p n → t.parts = (s.updRing p n (Ring.passed (s.cqSize p n) rest)).parts ∧ t.out = s.out
  ring : s.countReached p n → t.ring p n = ((s.ring p n).passed (s.cqSize p n) rest).covered
  harts : s.countReached p n → (t.part p).harts = interrupted (s.part p).harts
  sent (h i : Nat) : s.countReached p n → (s.part p).vf = some (h, i) →
    bit (Tab.get (fun w => if w % 4 = 3 then 1 else 0) s.msix (64 * (4 + 16 * h + i) + 4 * bits (s.reg (.part p (.ringIrq n))) 3 0 + 3)) 0 = false →
    t.out = s.out ++ [.msixVf h i (bits (s.reg (.part p (.ringIrq n))) 3 0)]

theorem part_passEntry (hs : s.Inv) : (s.passEntry p n e rest).part p = (s.part p).setRing n ((s.ring p n).passed (s.cqSize p n) rest) :=
  part_updRing_same hs p n _

/-- Delivery, once the entry is in the ring, passes it and leaves the memories. -/
theorem delivered_passes (hs : s.Inv) (hh : (s.ring p n).hold = e :: rest) (ha : (s.ring p n).active = true) :
    s.EntryPassed p n e rest (s.delivered p n e) ∧ (s.delivered p n e).mem = s.mem ∧ (s.delivered p n e).host = s.host := by
  obtain ⟨hquiet, hfires⟩ := delivered_eq hs hh ha
  have moved : (s.passEntry p n e rest).Inv := hs.updRing ..
  by_cases hc : s.countReached p n
  · rw [hfires hc]
    have hactive : ((s.passEntry p n e rest).ring p n).active = true := by rw [ring_passEntry hs ha]; exact ha
    obtain ⟨hjobs, htiles, hregs, hmem, hhost⟩ := ringIrq_frame (s.passEntry p n e rest) p n
    refine ⟨⟨hjobs, htiles, hregs, fun h => absurd hc h, fun _ => ?_, fun _ => ?_, fun h i _ hvf hclear => ?_⟩, hmem, hhost⟩
    · rw [ring_ringIrq moved hactive, ring_passEntry hs ha]
    · rw [part_ringIrq moved, part_passEntry hs]
      rfl
    · exact out_ringIrq moved (by rw [part_passEntry hs]; exact hvf) hclear
  · rw [hquiet hc]
    exact ⟨⟨rfl, rfl, rfl, fun _ => ⟨rfl, rfl⟩, fun h => absurd h hc, fun h => absurd h hc, fun _ _ h => absurd h hc⟩, rfl, rfl⟩

/-- The writes of the entry itself come between: what delivery then makes is told of the state before them. -/
theorem delivered_after_writes (hw : s.WritesOnly v) (hv : v.Inv) (hh : (s.ring p n).hold = e :: rest) (ha : (s.ring p n).active = true) :
    s.EntryPassed p n e rest (v.delivered p n e) ∧ (v.delivered p n e).mem = v.mem ∧ (v.delivered p n e).host = v.host := by
  obtain ⟨_, _, _, _, _, rfl⟩ := hw
  obtain ⟨passed, hmem, hhost⟩ := delivered_passes hv hh ha
  exact ⟨⟨passed.jobs, passed.tiles, passed.regs, passed.quiet, passed.ring, passed.harts, passed.sent⟩, hmem, hhost⟩

/-! ### A write that the translation refuses -/

theorem Reg.addr_injective : Function.Injective Reg.addr := fun a b h => by
  have found := Reg.ofAddr_addr a
  rw [h, Reg.ofAddr_addr b] at found
  exact (Option.some.inj found).symm

theorem walk_error_level {f : XFault} {va l tab : Nat} (h : s.walk va l tab = .error f) : f.level ≤ l := by
  induction l generalizing tab with
  | zero =>
    unfold State.walk at h
    dsimp only at h
    split_ifs at h <;> cases h <;> exact Nat.le_refl _
  | succ l ih =>
    unfold State.walk at h
    dsimp only at h
    split_ifs at h
    · cases h; exact Nat.le_refl _
    · cases h; exact Nat.le_refl _
    · cases h; exact Nat.le_refl _
    · exact (ih h).trans (Nat.le_succ l)

theorem leafOf_error_level {f : XFault} {p va : Nat} {unit : Option Nat} (h : s.leafOf p va unit = .error f) : f.level ≤ 3 := by
  unfold State.leafOf at h
  split at h
  · cases h
  next f' hwalk =>
    split at h
    · cases h
    · cases h
      exact walk_error_level hwalk

theorem xlate_error_level {f : XFault} {p va : Nat} {k : Access} {unit : Option Nat} (h : s.xlate p va k unit = .error f) : f.level ≤ 3 := by
  unfold State.xlate at h
  split at h
  · cases h; exact Nat.le_refl _
  · split at h
    next f' hleaf =>
      cases h
      exact leafOf_error_level hleaf
    · dsimp only at h
      generalize (_ && !s.underScrub p _) = allowed at h
      cases allowed with
      | false => cases h; exact Nat.zero_le _
      | true => cases h

theorem xlateWrite_error_level {f : XFault} {p va : Nat} {bs : List Byte} {k : Access} {unit : Option Nat} (h : s.xlateWrite p va bs k unit = .error f) :
    f.level ≤ 3 := by
  unfold State.xlateWrite at h
  refine foldl_level _ (fun acc x g hacc hg => ?_) (fun g hg => by cases hg) h
  obtain ⟨a, len⟩ := x
  dsimp only at hg
  split at hg
  · cases hg
    exact hacc _ rfl
  · split at hg
    next _ _ f' hx =>
      cases hg
      exact xlate_error_level hx
    · cases hg
where
  /-- Steps that each end in a fault of the walk do so together. -/
  foldl_level {α β : Type} {step : Except XFault α → β → Except XFault α} (l : List β)
      (hstep : ∀ acc x g, (∀ g', acc = .error g' → g'.level ≤ 3) → step acc x = .error g → g.level ≤ 3)
      {acc : Except XFault α} (hacc : ∀ g, acc = .error g → g.level ≤ 3) {f : XFault} (h : l.foldl step acc = .error f) : f.level ≤ 3 := by
    induction l generalizing acc with
    | nil => exact hacc f h
    | cons x rest ih => exact ih (fun g hg => hstep acc x g hacc hg) h

/-- A write that the translation refuses tells a level of the walk. -/
theorem writeVA_error_level {f : XFault} {p va : Nat} {bs : List Byte} {k : Access} {unit : Option Nat} (h : s.writeVA p va bs k unit = .error f) : f.level ≤ 3 := by
  unfold State.writeVA at h
  split at h
  next f' hx =>
    cases h
    exact xlateWrite_error_level hx
  · cases h

/-- The upper word of the status block that captures a fault (R232). -/
def faultHi (access : Nat) (f : XFault) : Word32 :=
  BitVec.ofNat 32 (access * 2 ^ 28 + f.level * 2 ^ 25 + (if f.protect then 2 ^ 24 else 0) + 2 ^ 23 + f.va / 2 ^ 32 % 2 ^ 16)

theorem bits_faultHi {access : Nat} (ha : access < 16) {f : XFault} (hl : f.level ≤ 3) : bits (faultHi access f) 31 28 = access := by
  rw [bits, faultHi, BitVec.toNat_ofNat]
  split <;> omega

theorem bit_faultHi {access : Nat} {f : XFault} : bit (faultHi access f) 23 = true := by
  rw [bit, faultHi, BitVec.getLsbD_ofNat, Nat.testBit_eq_decide_div_mod_eq]
  split <;> simp <;> omega

/-- A fault whose walk met no uncorrectable line is captured where the status block holds none (R232). -/
theorem capture_of_clear {access : Nat} {f : XFault} (hf : f.entry = none) (hclear : bit (s.reg (.part p .xlateFaultHi)) 23 = false) :
    s.capture p access f = (s.setReg (.part p .xlateFaultLo) (BitVec.ofNat 32 f.va)).setReg (.part p .xlateFaultHi) (faultHi access f) := by
  rw [State.capture, hf, pr_val, pr_val]
  simp only [hclear]
  rfl

theorem PReg.addr_ne {p : Fin 64} {a b : PReg} (h : a ≠ b) : (Reg.part p a).addr ≠ (Reg.part p b).addr :=
  Reg.addr_injective.ne fun e => h (Reg.part.inj e).2

theorem deliveryFault_eq (s : State) (p : Fin 64) (n : Fin 16) :
    s.deliveryFault p n = (s.setField (.part p (.ringStatus n)) 2 2 1).updRing p n (fun r => { r with deliveryStopped := true }) := by
  rw [State.deliveryFault, pr_val, nIdx_val]

/-- Delivery that stops keeps what waits (R258). -/
theorem ring_deliveryFault (hs : s.Inv) : (s.deliveryFault p n).ring p n = { s.ring p n with deliveryStopped := true } := by
  have hfield : (s.setField (.part p (.ringStatus n)) 2 2 1).Inv := hs.setField ..
  rw [deliveryFault_eq, ring_updRing_same hfield (ring_ne_default (.inr rfl))]
  rfl

/-- CQ_FAULT is set in the ring's status (R258). -/
theorem bit_ringStatus_deliveryFault (hs : s.Inv) : bit ((s.deliveryFault p n).reg (.part p (.ringStatus n))) 2 = true := by
  rw [deliveryFault_eq, updRing_reg_get, reg_setField_same hs.regs, bit, getLsbD_setBits _ (by decide) (by decide)]
  rfl

theorem deliveryFault_reg_other (s : State) {r : PReg} (h : r ≠ .ringStatus n) : (s.deliveryFault p n).reg (.part p r) = s.reg (.part p r) := by
  rw [deliveryFault_eq, updRing_reg_get, reg_setField_other _ _ _ (PReg.addr_ne h)]

/-- Delivery that a translation fault stops is captured with ACCESS 0x9 (R232, R258). -/
theorem deliveryFault_captured (hs : s.Inv) {f : XFault} (hf : f.entry = none) (hclear : bit (s.reg (.part p .xlateFaultHi)) 23 = false) :
    ((s.deliveryFault p n).capture p 9 f).ring p n = { s.ring p n with deliveryStopped := true } ∧
    bit (((s.deliveryFault p n).capture p 9 f).reg (.part p (.ringStatus n))) 2 = true ∧
    ((s.deliveryFault p n).capture p 9 f).reg (.part p .xlateFaultHi) = faultHi 9 f ∧
    ((s.deliveryFault p n).capture p 9 f).mem = s.mem ∧ ((s.deliveryFault p n).capture p 9 f).jobs = s.jobs := by
  have hclear' : bit ((s.deliveryFault p n).reg (.part p .xlateFaultHi)) 23 = false := by
    rw [deliveryFault_reg_other s (r := .xlateFaultHi) nofun]
    exact hclear
  have low : ((s.deliveryFault p n).setReg (.part p .xlateFaultLo) (BitVec.ofNat 32 f.va)).Inv := State.Inv.setReg (hs.deliveryFault ..) ..
  rw [capture_of_clear hf hclear']
  refine ⟨?_, ?_, reg_setReg_same low.regs .., ?_, ?_⟩
  · rw [setReg_ring_get, setReg_ring_get, ring_deliveryFault hs]
  · have notHi : PReg.ringStatus n ≠ .xlateFaultHi := nofun
    have notLo : PReg.ringStatus n ≠ .xlateFaultLo := nofun
    rw [reg_setReg_other _ (PReg.addr_ne notHi), reg_setReg_other _ (PReg.addr_ne notLo)]
    exact bit_ringStatus_deliveryFault hs
  · rw [setReg_mem, setReg_mem, deliveryFault_eq, updRing_mem, setField_mem]
  · rw [setReg_jobs, setReg_jobs, deliveryFault_eq, updRing_jobs, setField_jobs]

/-! ### Delivery -/

theorem deliverable_of (ha : s.answers = true) (hm : s.power.state = .m0) (hr : (s.ring p n).active = true) (hd : (s.ring p n).deliveryStopped = false)
    (hfull : ((s.ring p n).cqTail + 1) % s.cqSize p n ≠ (s.ring p n).head) : s.deliverable p n = true := by
  simp [State.deliverable, State.cqFull, ha, hm, hr, hd, hfull]

theorem deliver_to_host (hh : (s.ring p n).hold = e :: rest) (hd : s.deliverable p n = true) (hc : s.cqHost p n = true) (hup : s.portUp (s.vfPort p) = true) :
    s.deliver p n = ((s.writeHost (s.vfPort p) (s.cqBase p n + 64 * (s.ring p n).cqTail + 4) ((s.entryBytes p n e).drop 4)).writeHost (s.vfPort p)
      (s.cqBase p n + 64 * (s.ring p n).cqTail) ((s.entryBytes p n e).take 4)).delivered p n e := by
  simp only [State.deliver, hh, hd, hc, hup, if_true]

theorem deliver_to_device (hh : (s.ring p n).hold = e :: rest) (hd : s.deliverable p n = true) (hc : s.cqHost p n = false)
    (hu : s.writeVA p (s.cqBase p n + 64 * (s.ring p n).cqTail + 4) ((s.entryBytes p n e).drop 4) = .ok u)
    (hv : u.writeVA p (s.cqBase p n + 64 * (s.ring p n).cqTail) ((s.entryBytes p n e).take 4) = .ok v) : s.deliver p n = v.delivered p n e := by
  unfold State.deliver
  generalize @State.writeVA = write at hu hv ⊢
  revert write
  -- `id` keeps the abstraction in the proof term: the kernel would otherwise compute the accesses of 64 bytes.
  refine id fun write hu hv => ?_
  simp only [hh, hd, hc, hu, hv, if_true, Bool.false_eq_true, if_false]

theorem deliver_refused (hh : (s.ring p n).hold = e :: rest) (hd : s.deliverable p n = true) (hc : s.cqHost p n = false) {f : XFault}
    (hf : s.writeVA p (s.cqBase p n + 64 * (s.ring p n).cqTail + 4) ((s.entryBytes p n e).drop 4) = .error f) :
    s.deliver p n = (s.deliveryFault p n).capture p 9 f := by
  simp only [State.deliver, hh, hd, hc, hf, if_true, Bool.false_eq_true, if_false]

/-- Settles O5. The entry's writes leave all but the memories; delivery then passes the entry, or a refused write stops it and is captured. -/
theorem completionIsWritten : Obligations.CompletionIsWritten := by
  unfold Obligations.CompletionIsWritten
  intro p n e rest s hs hans hm hh ha hds hfull a bs irq fires moved goesOn
  have hd : s.deliverable p n = true := deliverable_of hans hm ha hds hfull
  have hexec {t : State} (ht : s.deliver p n = t) : exec (.completionWrite p n) s = .next t := congrArg Host.Outcome.next ht
  have goes {t : State} (ht : s.EntryPassed p n e rest t) : goesOn t :=
    ⟨ht.jobs, ht.tiles, ht.quiet, fun hc => ⟨ht.ring hc, ht.harts hc, fun h i => ht.sent h i hc⟩⟩
  refine ⟨fun hc hup => ?_, fun hc => ⟨fun u v hu hv => ?_, fun f hf hentry hclear => ?_⟩⟩
  · have hw := State.Inv.writeHost (hs.writeHost (s.vfPort p) (a + 4) (bs.drop 4)) (s.vfPort p) a (bs.take 4)
    obtain ⟨passed, hmem, hhost⟩ := delivered_after_writes ((State.WritesOnly.writeHost ..).trans (.writeHost ..)) hw hh ha
    exact ⟨_, hexec (deliver_to_host hh hd hc hup), hhost, passed.regs, hmem, goes passed⟩
  · have stored : s.StoresOnly v := (State.StoresOnly.writeVA hu).trans (.writeVA hv)
    have hinv : v.Inv := ((hs.writeVA ..).of_ok hu).writeVA .. |>.of_ok hv
    obtain ⟨passed, hmem, hhost⟩ := delivered_after_writes stored.writesOnly hinv hh ha
    exact ⟨_, hexec (deliver_to_device hh hd hc hu hv), hmem, hhost.trans stored.host, goes passed⟩
  · obtain ⟨hring, hstatus, hhi, hmem, hjobs⟩ := deliveryFault_captured (n := n) hs hentry hclear
    refine ⟨_, hexec (deliver_refused hh hd hc hf), ?_, ?_, hstatus, ?_, ?_, hmem, hjobs⟩
    · rw [hring]
    · rw [hring]; exact hh
    · rw [hhi]; exact bits_faultHi (by decide) (writeVA_error_level hf)
    · rw [hhi]; exact bit_faultHi

end Sys2Proof.Machine
end

section
/-! Atomics, load-reserved and store-conditional of a core (R223): the translation, the value at the home, what is written in one line and what is returned. -/
namespace Sys2Proof.Machine

variable {s t : State}

/-! ### Bytes of one line -/

theorem leBytes_getD {n i : Nat} (hi : i < n) (v : Nat) : (leBytes n v).getD i 0 = BitVec.ofNat 8 (v / 256 ^ i) := by
  induction n generalizing i v with
  | zero => omega
  | succ n ih =>
    cases i with
    | zero => simp [leBytes]
    | succ i =>
      rw [leBytes, List.getD_cons_succ, ih (by omega), Nat.div_div_eq_div_mul, Nat.pow_succ, Nat.mul_comm 256]

/-- An access within a line is one piece. -/
theorem pieces_of_line {a n : Nat} (hn : 0 < n) (h : a % 64 + n ≤ 64) : pieces a n = [(a, n)] := by
  have hline : (a + n - 1) / 64 - a / 64 = 0 := by omega
  have hlo : max a (64 * (a / 64)) = a := by omega
  have hhi : min (a + n) (64 * (a / 64) + 64) - a = n := by omega
  rw [pieces, linesOf, if_neg (by omega), hline]
  simp [hlo, hhi]

theorem storePhys_of_line {pa : Nat} {bs : List Byte} (hne : bs ≠ []) (h : pa % 64 + bs.length ≤ 64) (s : State) (keep : Option Nat) :
    s.storePhys pa bs keep = s.storeLine pa bs keep := by
  rw [State.storePhys, pieces_of_line (List.length_pos_of_ne_nil hne) h]
  simp

theorem byte_storeLine (hw : Memory.wf s.mem = true) {pa : Nat} (hf : s.lineFenced (pa / 64) = false) (bs : List Byte) (keep : Option Nat) (a : Nat) :
    (s.storeLine pa bs keep).byte a = if pa ≤ a ∧ a < pa + bs.length then bs.getD (a - pa) 0 else s.byte a := by
  rw [State.byte, storeLine_mem, hf]
  exact get_putBytes hw pa a bs

/-- A write to a line clears the reservations on it (R223). -/
theorem reservations_storeLine {pa : Nat} (hf : s.lineFenced (pa / 64) = false) (bs : List Byte) (keep : Option Nat) :
    (s.storeLine pa bs keep).reservations = s.reservations.filter (fun r => decide (r.2.2.2 ≠ pa / 64)) := by
  simp [State.storeLine, hf]

/-! ### The hart -/

theorem hart?_updHart_same (hs : s.Inv) {p vh : Nat} {h : Hart} (hh : s.hart? p vh = some h) (f : Hart → Hart) : (s.updHart p vh f).hart? p vh = some (f h) := by
  have hh : (s.part p).harts[vh]? = some h := hh
  rw [State.hart?, State.updHart, part_updPart_same hs.parts]
  simp [Part.updHart, hh]

theorem part_updHart_other {p q : Nat} (vh : Nat) (f : Hart → Hart) (h : q ≠ p) : (s.updHart p vh f).part q = s.part q := part_updPart_other _ h

/-! ### The function of an atomic -/

theorem signed_eq_toInt {w : Nat} (hw : 0 < w) (x : Nat) : signed w x = (BitVec.ofNat w x).toInt := by
  have half : 2 * 2 ^ (w - 1) = 2 ^ w := by rw [← Nat.pow_succ', Nat.succ_eq_add_one, Nat.sub_add_cancel hw]
  rw [signed, BitVec.toInt_eq_toNat_cond, BitVec.toNat_ofNat]
  have same : 2 * (x % 2 ^ w) < 2 ^ w ↔ x % 2 ^ w < 2 ^ (w - 1) := by omega
  simp only [same]

/-- The model's function of an atomic is R223's, on words of the width. -/
theorem amoResult_eq (f : AmoOp) {w m : Nat} (hw : 0 < w) (hm : m < 2 ^ w) (v c : Nat) :
    amoResult f w m v c = (atomicResult f w (BitVec.ofNat w m) (BitVec.ofNat w v) (BitVec.ofNat w c)).toNat := by
  have hm' : m % 2 ^ w = m := Nat.mod_eq_of_lt hm
  cases f with
  | swap => simp [amoResult, atomicResult]
  | add => simp [amoResult, atomicResult]
  | min =>
    simp only [amoResult, atomicResult, signed_eq_toInt hw, BitVec.slt, decide_eq_true_eq, ← Int.not_le]
    split <;> simp_all
  | max =>
    simp only [amoResult, atomicResult, signed_eq_toInt hw, BitVec.slt, decide_eq_true_eq, ← Int.not_le]
    split <;> simp_all
  | minu =>
    simp only [amoResult, atomicResult, BitVec.ult, BitVec.toNat_ofNat, hm', decide_eq_true_eq]
    split <;> simp [hm'] <;> omega
  | maxu =>
    simp only [amoResult, atomicResult, BitVec.ult, BitVec.toNat_ofNat, hm', decide_eq_true_eq]
    split <;> simp [hm'] <;> omega
  | and => simp only [amoResult, atomicResult, BitVec.toNat_and, BitVec.toNat_ofNat, hm']; rfl
  | or => simp only [amoResult, atomicResult, BitVec.toNat_or, BitVec.toNat_ofNat, hm']; rfl
  | xor => simp only [amoResult, atomicResult, BitVec.toNat_xor, BitVec.toNat_ofNat, hm']; rfl
  | cas =>
    have same : BitVec.ofNat w m = BitVec.ofNat w c ↔ m = c % 2 ^ w := by rw [← BitVec.toNat_inj, BitVec.toNat_ofNat, BitVec.toNat_ofNat, hm']
    simp only [amoResult, atomicResult, same]
    split <;> simp [hm']

theorem amoReturn_eq (wide : Bool) (m : Nat) : amoReturn wide m = (BitVec.ofNat (8 * amoBytes wide) m).signExtend 64 := by
  cases wide with
  | false => rfl
  | true => exact (BitVec.signExtend_eq _).symm

/-! ### The translation and the value at the home -/

theorem eight_le_levelShift (l : Nat) : 8 ≤ levelShift l := by
  unfold levelShift
  split <;> decide

/-- A translated address has the offset of its 256 bytes. -/
theorem xlate_mod {p va pa : Nat} {k : Access} {unit : Option Nat} (h : s.xlate p va k unit = .ok pa) : pa % 256 = va % 256 := by
  unfold State.xlate at h
  split at h
  · cases h
  · split at h
    · cases h
    next l e _ =>
      have small : va % 2 ^ levelShift l % 256 = va % 256 := Nat.mod_mod_of_dvd va (Nat.pow_dvd_pow 2 (eight_le_levelShift l))
      dsimp only at h
      generalize (_ && !s.underScrub p _) = allowed at h
      cases allowed with
      | false => cases h
      | true =>
        cases h
        omega

theorem amoBytes_cases (wide : Bool) : amoBytes wide = 4 ∨ amoBytes wide = 8 := by cases wide <;> simp [amoBytes]

theorem amoBytes_in_line {pa : Nat} {wide : Bool} (ha : pa % amoBytes wide = 0) : pa % 64 + amoBytes wide ≤ 64 := by
  obtain h | h := amoBytes_cases wide <;> rw [h] at ha ⊢ <;> omega

/-! ### What reaches the home

In these lemmas `u` is the state in which the access reaches its home: the VS stage has translated and the die's unit keeps the leaf entry, so that it differs
from `s`, where the command began, in the caches alone. -/

variable {p : Fin 64} {vh pa ga : Nat} {wide : Bool} {h : Hart} {u : State}

theorem reaches_of_vsAddr (hs : s.Inv) {k : VsKind} {va : Nat} (hv : s.vsAddr p vh k va = .ok (ga, u)) (n : Nat) : s.CachesOnly (u.coreLeaf p vh ga n) :=
  (((State.CachesOnly.refl hs).vsAddr ..).of_ok hv).coreLeaf ..

/-- Where an atomic at an aligned physical address goes. -/
theorem amoXlate_of_xlate (hu : s.CachesOnly u) (hx : u.xlate p ga .combine (s.hartSite p vh) = .ok pa) (ha : pa % amoBytes wide = 0) :
    u.amoXlate p vh ga wide = .ok pa := by
  have hmod := xlate_mod hx
  have haligned : ga % amoBytes wide = 0 := by
    obtain h | h := amoBytes_cases wide <;> rw [h] at ha ⊢ <;> omega
  rw [State.amoXlate, if_neg (not_not_intro haligned), hu.hartSite, hx]

/-- A readable line gives an atomic its value, and the home's cache takes it in. -/
theorem amoRead_of_readable (hu : s.CachesOnly u) (hb : s.lineBad (pa / 64) = false) (ga : Nat) (wide : Bool) :
    ∃ t, s.CachesOnly t ∧ u.amoRead p pa ga wide = .ok (leNat (s.readPhys pa (amoBytes wide)), t) := by
  have hread : u.cachedRead p (some (u.homeOf p pa)) pa ga (amoBytes wide) = .ok (u.readPhys pa (amoBytes wide), u.cacheTouch p (u.homeOf p pa) (pa / 64)) := by
    simp [State.cachedRead, hu.lineBad, hb]
  exact ⟨_, hu.cacheTouch .., by rw [State.amoRead, hread, hu.readPhys]⟩

/-- What a store of `n` bytes into a line leaves of the memory. -/
theorem byte_storePhys_leBytes (hs : s.Inv) {n : Nat} (hn : 0 < n) (hline : pa % 64 + n ≤ 64) (hf : s.lineFenced (pa / 64) = false) (v : Nat)
    (keep : Option Nat) (a : Nat) :
    (s.storePhys pa (leBytes n v) keep).byte a = if pa ≤ a ∧ a < pa + n then BitVec.ofNat 8 (v / 256 ^ (a - pa)) else s.byte a := by
  have hlen := leBytes_length n v
  have hne : leBytes n v ≠ [] := List.ne_nil_of_length_pos (by omega)
  rw [storePhys_of_line hne (by omega), byte_storeLine hs.1 hf, hlen]
  split
  · rw [leBytes_getD (by omega)]
  · rfl

/-- A store to memory leaves the partitions and the registers. -/
theorem storePhys_frame (s : State) (pa : Nat) (bs : List Byte) (keep : Option Nat) :
    (s.storePhys pa bs keep).parts = s.parts ∧ (s.storePhys pa bs keep).regs = s.regs := by
  obtain ⟨_, _, _, _, stored⟩ := State.StoresOnly.storePhys s pa bs keep
  rw [stored]
  exact ⟨rfl, rfl⟩

/-- The value in memory at an atomic's address is of its width. -/
theorem leNat_readPhys_lt (s : State) (pa n : Nat) : leNat (s.readPhys pa n) < 2 ^ (8 * n) := by
  have hlt := leNat_lt (s.readPhys pa n)
  rw [readPhys_eq, getBytes_length] at hlt
  rwa [readPhys_eq, Nat.pow_mul]

/-! ### Atomics -/

theorem exec_coreAtomic_of_runs (hr : hartIs s p vh h) (f : AmoOp) (wide : Bool) (g v c : BitVec 64) : exec (.coreAtomic p vh f wide g v c) s =
    .next (s.behindVs p vh .store g.toNat (fun s g => (s.coreLeaf p vh g (amoBytes wide)).coreAtomic p vh f wide g v.toNat c.toNat)) :=
  congrArg Host.Outcome.next (if_pos hr.1)

/-- An atomic whose home is lost waits (R358, log entry 115). -/
theorem coreAtomic_of_lost (hu : s.CachesOnly u) (hx : u.xlate p ga .combine (s.hartSite p vh) = .ok pa) (ha : pa % amoBytes wide = 0)
    (hw : (s.site (s.homeOf p pa)).works = false) (f : AmoOp) (v c : Nat) : u.coreAtomic p vh f wide ga v c = u := by
  rw [State.coreAtomic, amoXlate_of_xlate hu hx ha]
  simp [hu.homeOf, hu.works, hw]

/-- An atomic at a home that works stores the function's result and returns the old value (R223). -/
theorem coreAtomic_of_works (hu : s.CachesOnly u) (hx : u.xlate p ga .combine (s.hartSite p vh) = .ok pa) (ha : pa % amoBytes wide = 0)
    (hb : s.lineBad (pa / 64) = false) (hw : (s.site (s.homeOf p pa)).works = true) (f : AmoOp) (v c : Nat) :
    let m := leNat (s.readPhys pa (amoBytes wide))
    ∃ t, s.CachesOnly t ∧ u.coreAtomic p vh f wide ga v c =
      (t.storePhys pa (leBytes (amoBytes wide) (amoResult f (8 * amoBytes wide) m v c)) (some (s.homeOf p pa))).coreReturn p vh (amoReturn wide m) := by
  obtain ⟨t, ht, hread⟩ := amoRead_of_readable (p := p) hu hb ga wide
  refine ⟨t, ht, ?_⟩
  rw [State.coreAtomic, amoXlate_of_xlate hu hx ha]
  simp [hu.homeOf, hu.works, hw, hread, ht.homeOf]

/-- A value stored within one line of a home, and the hart that made the access told of a value: what is left. -/
theorem stored_returned (ht : s.CachesOnly t) (hh : s.hart? p vh = some h) {n : Nat} (hn : 0 < n) (hline : pa % 64 + n ≤ 64)
    (hf : s.lineFenced (pa / 64) = false) (v : Nat) (keep : Option Nat) (rd : BitVec 64) :
    let t' := (t.storePhys pa (leBytes n v) keep).coreReturn p vh rd
    (∀ a, t'.byte a = if pa ≤ a ∧ a < pa + n then BitVec.ofNat 8 (v / 256 ^ (a - pa)) else s.byte a) ∧
    t'.hart? p vh = some { h with rd := rd } ∧ t'.regs = s.regs ∧ ∀ q : Nat, q ≠ p.val → t'.part q = s.part q := by
  obtain ⟨hparts, hregs⟩ := storePhys_frame t pa (leBytes n v) keep
  have hparts : (t.storePhys pa (leBytes n v) keep).parts = s.parts := hparts.trans ht.parts
  have hpart (q : Nat) : (t.storePhys pa (leBytes n v) keep).part q = s.part q := by rw [State.part, hparts]; rfl
  refine ⟨fun a => ?_, ?_, hregs.trans ht.regs, fun q hq => ?_⟩
  · rw [← ht.byte]
    exact byte_storePhys_leBytes ht.inv hn hline ((ht.lineFenced _).trans hf) v keep a
  · refine hart?_updHart_same (ht.inv.storePhys ..) ?_ _
    rw [State.hart?, hpart]; exact hh
  · exact (part_updHart_other vh _ hq).trans (hpart q)

/-- Settles O21. The access reaches its home through the caches alone; there the function's result is stored and the old value returned. -/
theorem coreAtomicComputes : Obligations.CoreAtomicComputes := by
  unfold Obligations.CoreAtomicComputes
  intro p vh pa ga f wide g v c h s u hs hr n
  refine ⟨fun hv => ?_, fun hv _ hx ha hb => ?_⟩
  · rw [exec_coreAtomic_of_runs hr, State.behindVs, hv]
    rfl
  · intro m r
    have reached : s.CachesOnly (u.coreLeaf p vh ga n) := reaches_of_vsAddr hs hv n
    have hexec : exec (.coreAtomic p vh f wide g v c) s = .next ((u.coreLeaf p vh ga n).coreAtomic p vh f wide ga v.toNat c.toNat) := by
      rw [exec_coreAtomic_of_runs hr, State.behindVs, hv]
      rfl
    refine ⟨fun hl => ⟨_, hexec, ?_⟩, fun hw => ?_⟩
    · rw [coreAtomic_of_lost reached hx ha hl]
      exact ⟨reached.mem, reached.parts, reached.regs, reached.reservations⟩
    · obtain ⟨t, ht, hdone⟩ := coreAtomic_of_works reached hx ha hb hw f v.toNat c.toNat
      have hf : s.lineFenced (pa / 64) = false := by
        rw [State.lineBad, Bool.or_eq_false_iff] at hb
        exact hb.2
      have hn : 0 < amoBytes wide := by obtain h | h := amoBytes_cases wide <;> omega
      have hresult : amoResult f (8 * amoBytes wide) (leNat (s.readPhys pa (amoBytes wide))) v.toNat c.toNat = r.toNat := by
        rw [amoResult_eq f (by omega) (leNat_readPhys_lt ..), BitVec.ofNat_toNat, BitVec.ofNat_toNat]
        rfl
      rw [hresult, amoReturn_eq] at hdone
      obtain ⟨hbytes, hhart, hregs, hothers⟩ := stored_returned ht hr.2 hn (amoBytes_in_line ha) hf r.toNat (some (s.homeOf p pa)) (m.signExtend 64)
      exact ⟨_, hexec.trans (congrArg _ hdone), hbytes, hhart, hregs, hothers⟩

/-! ### Reservations -/

theorem exec_coreLoadReserved_of_runs (hr : hartIs s p vh h) (wide : Bool) (g : BitVec 64) : exec (.coreLoadReserved p vh wide g) s =
    .next (s.behindVs p vh .load g.toNat (fun s g => (s.coreLeaf p vh g (amoBytes wide)).loadReserved p vh wide g)) :=
  congrArg Host.Outcome.next (if_pos hr.1)

theorem exec_coreStoreConditional_of_runs (hr : hartIs s p vh h) (wide : Bool) (g v : BitVec 64) : exec (.coreStoreConditional p vh wide g v) s =
    .next (s.behindVs p vh .store g.toNat (fun s g => (s.coreLeaf p vh g (amoBytes wide)).storeConditional p vh wide g v.toNat)) :=
  congrArg Host.Outcome.next (if_pos hr.1)

theorem mem_dropReservation {r : Nat × Nat × Nat × Nat} {p : Nat} : r ∈ (s.dropReservation p vh).reservations ↔ r ∈ s.reservations ∧ ¬ (r.2.1 = p ∧ r.2.2.1 = vh) := by
  simp only [State.dropReservation, List.mem_filter, decide_eq_true_eq]
  tauto

/-- A load-reserved at a home that works: the hart's one reservation is the line's, and the value is returned. -/
theorem loadReserved_of_works (hu : s.CachesOnly u) (hx : u.xlate p ga .combine (s.hartSite p vh) = .ok pa) (ha : pa % amoBytes wide = 0)
    (hb : s.lineBad (pa / 64) = false) (hw : (s.site (s.homeOf p pa)).works = true) :
    ∃ t, s.CachesOnly t ∧ u.loadReserved p vh wide ga =
      State.coreReturn { t with reservations := (t.dropReservation p vh).reservations ++ [(s.homeOf p pa, p.val, vh, pa / 64)] } p vh
        (amoReturn wide (leNat (s.readPhys pa (amoBytes wide)))) := by
  obtain ⟨t, ht, hread⟩ := amoRead_of_readable (p := p) hu hb ga wide
  refine ⟨t, ht, ?_⟩
  have home : (t.dropReservation p vh).homeOf p pa = s.homeOf p pa := ht.homeOf p pa
  rw [State.loadReserved, amoXlate_of_xlate hu hx ha]
  simp only [hu.homeOf, hu.works, hw, hread, home]
  rfl

theorem reserved_iff (hu : s.CachesOnly u) : u.reserved p vh pa = true ↔ (s.homeOf p pa, p.val, vh, pa / 64) ∈ s.reservations := by
  rw [State.reserved, hu.homeOf, hu.reservations, List.contains_iff_mem]

theorem storeConditional_of_xlate (hu : s.CachesOnly u) (hx : u.xlate p ga .combine (s.hartSite p vh) = .ok pa) (ha : pa % amoBytes wide = 0) (v : Nat) :
    u.storeConditional p vh wide ga v = if (s.homeOf p pa, p.val, vh, pa / 64) ∈ s.reservations then
      ((u.storePhys pa (leBytes (amoBytes wide) v) (some (s.homeOf p pa))).dropReservation p vh).coreReturn p vh 0
    else (u.dropReservation p vh).coreReturn p vh 1 := by
  rw [State.storeConditional, amoXlate_of_xlate hu hx ha]
  simp only [reserved_iff hu, hu.homeOf]

/-- Settles O22. -/
theorem reservationsGuardStores : Obligations.ReservationsGuardStores := by
  unfold Obligations.ReservationsGuardStores
  refine ⟨fun p vh pa ga wide g v h s u hs hr _ hx ha => ⟨fun hv hb hw => ?_, fun hv hf => ?_⟩, fun s pa bs keep hne hline hf r => ?_⟩
  case refine_1 =>
    have reached : s.CachesOnly (u.coreLeaf p vh ga (amoBytes wide)) := reaches_of_vsAddr hs hv _
    have hexec : exec (.coreLoadReserved p vh wide g) s = .next ((u.coreLeaf p vh ga (amoBytes wide)).loadReserved p vh wide ga) := by
      rw [exec_coreLoadReserved_of_runs hr, State.behindVs, hv]
    obtain ⟨t, ht, hdone⟩ := loadReserved_of_works reached hx ha hb hw
    have hinv : State.Inv { t with reservations := (t.dropReservation p vh).reservations ++ [(s.homeOf p pa, p.val, vh, pa / 64)] } := ht.inv
    refine ⟨_, hexec.trans (congrArg _ hdone), List.mem_append_right _ (List.mem_singleton_self _), fun r hmem hp hvh => ?_, ht.mem, ?_⟩
    · obtain hold | hnew := List.mem_append.1 hmem
      · exact absurd ⟨hp, hvh⟩ (mem_dropReservation.1 hold).2
      · exact List.mem_singleton.1 hnew
    · rw [State.coreReturn, hart?_updHart_same hinv ((ht.hart? ..).trans hr.2), amoReturn_eq]
      rfl
  case refine_2 =>
    have reached : s.CachesOnly (u.coreLeaf p vh ga (amoBytes wide)) := reaches_of_vsAddr hs hv _
    have hexec : exec (.coreStoreConditional p vh wide g v) s = .next ((u.coreLeaf p vh ga (amoBytes wide)).storeConditional p vh wide ga v.toNat) := by
      rw [exec_coreStoreConditional_of_runs hr, State.behindVs, hv]
    rw [storeConditional_of_xlate reached hx ha] at hexec
    split at hexec
    next held =>
      have hn : 0 < amoBytes wide := by obtain h | h := amoBytes_cases wide <;> omega
      obtain ⟨hbytes, hhart, -, -⟩ := stored_returned reached hr.2 hn (amoBytes_in_line ha) hf v.toNat (some (s.homeOf p pa)) 0
      exact ⟨_, hexec, fun r hmem => (mem_dropReservation.1 hmem).2, fun _ => ⟨hhart, hbytes⟩, fun gone => absurd held gone⟩
    next gone =>
      have hinv : ((u.coreLeaf p vh ga (amoBytes wide)).dropReservation p vh).Inv := reached.inv
      exact ⟨_, hexec, fun r hmem => (mem_dropReservation.1 hmem).2, fun held => absurd held gone,
        fun _ => ⟨hart?_updHart_same hinv ((reached.hart? ..).trans hr.2) _, reached.mem⟩⟩
  case refine_3 =>
    rw [storePhys_of_line hne hline, reservations_storeLine hf, List.mem_filter, decide_eq_true_eq]

end Sys2Proof.Machine
end
section
/-! Ring pairs (R252 to R254, R259, R318): doorbells, ENABLE, the drain, and the time trigger of the interrupt. -/
namespace Sys2Proof.Machine

variable {s : State} {p : Fin 64} {n : Fin 16}

/-! ### Doorbells (R253, R254) -/

theorem bits_low_half (x : Word32) : bits x 15 0 = x.toNat % 65536 := by simp [bits]

theorem wake_of_m0 (h : s.power.state = .m0) : s.wake = s := by rw [State.wake, h]

theorem sqTailOk_iff (s : State) (p n v : Nat) : s.sqTailOk p n v = true ↔ (s.ring p n).active = true ∧ v < s.sqSize p n ∧
    ((v : Int) - (s.ring p n).tail) % s.sqSize p n ≤ (((s.ring p n).sqHead : Int) - 1 - (s.ring p n).tail) % s.sqSize p n := by
  simp only [State.sqTailOk, Bool.and_eq_true, decide_eq_true_eq, and_assoc]

theorem cqHeadOk_iff (s : State) (p n v : Nat) : s.cqHeadOk p n v = true ↔ (s.ring p n).active = true ∧ v < s.cqSize p n ∧
    ((v : Int) - (s.ring p n).head) % s.cqSize p n ≤ (((s.ring p n).cqTail : Int) - (s.ring p n).head) % s.cqSize p n := by
  simp only [State.cqHeadOk, Bool.and_eq_true, decide_eq_true_eq, and_assoc]

/-- A discarded value sets DB_REFUSED and the DESC_MALFORMED sticky bit. -/
theorem refuseDb_eq (s : State) (p : Fin 64) (n : Fin 16) :
    s.refuseDb p n = (s.setField (.part p (.ringStatus n)) 4 4 1).setField (.part p .partSticky) 0 0 1 := by
  rw [State.refuseDb, pr_val, nIdx_val, State.malformed, State.stick, pr_val]
  rfl

theorem exec_dbSqWrite {v : View} (ho : s.viewOpen v p = true) (hm : s.power.state = .m0) (x : BitVec 32) :
    exec (.dbSqWrite v p n x) s =
      .next (if s.sqTailOk p n (x.toNat % 65536) then s.updRing p n (fun r => { r with tail := x.toNat % 65536 }) else s.refuseDb p n) := by
  show execDbSqWrite v p n x s = _
  rw [execDbSqWrite, if_pos ho, State.dbSq, wake_of_m0 hm, ite_self, bits_low_half]

theorem exec_dbCqWrite {v : View} (ho : s.viewOpen v p = true) (hm : s.power.state = .m0) (x : BitVec 32) :
    exec (.dbCqWrite v p n x) s =
      .next (if s.cqHeadOk p n (x.toNat % 65536) then s.updRing p n (fun r => { r with head := x.toNat % 65536 }) else s.refuseDb p n) := by
  show execDbCqWrite v p n x s = _
  rw [execDbCqWrite, if_pos ho, State.dbCq, wake_of_m0 hm, ite_self, bits_low_half]

/-- A commit that passes leaves the pair with both indices at 0. -/
theorem ring_ringApply_of_agrees (hs : s.Inv) {c : Commit} (ha : (s.ring p n).active = false)
    (hagrees : ringAgrees (snapVal c.values (.part p (.ringSqBaseLo n))) (snapVal c.values (.part p (.ringSqBaseHi n)))
      (snapVal c.values (.part p (.ringCqBaseLo n))) (snapVal c.values (.part p (.ringCqBaseHi n))) (snapVal c.values (.part p (.ringCfg n))) = true) :
    (s.ringApply p n c).ring p n = { s.ring p n with
      active := true, tail := 0, head := 0, sqHead := 0, cqTail := 0, phase := true, fetchStopped := false, deliveryStopped := false } := by
  have put : ((s.dropCommit c.group).putActive c.values).Inv := (hs.dropCommit _).putActive _
  rw [ringApply_drained s c p n ha]
  dsimp only
  rw [if_pos hagrees, ring_updRing_same put (ring_ne_default (.inl rfl))]
  rfl

/-- Settles O2. -/
theorem doorbellsMoveIndices : Obligations.DoorbellsMoveIndices := by
  unfold Obligations.DoorbellsMoveIndices
  intro v p n x s ho hm
  refine ⟨?_, ?_, fun c hs hc hg ha hagrees => ?_⟩
  · simp only [exec_dbSqWrite ho hm, apply_ite Host.Outcome.next, sqTailOk_iff, refuseDb_eq]
  · simp only [exec_dbCqWrite ho hm, apply_ite Host.Outcome.next, cqHeadOk_iff, refuseDb_eq]
  · have applied : s.applyCommit c = s.ringApply p n c := by rw [State.applyCommit, hg]
    refine ⟨_, (exec_castOnCommitApply hc).trans (congrArg _ applied), ?_, ?_⟩
    · rw [ring_ringApply_of_agrees hs ha hagrees]
    · rw [ring_ringApply_of_agrees hs ha hagrees]

/-! ### ENABLE and ACTIVE (R252) -/

theorem ringEnabled_eq (s : State) (p : Fin 64) (n : Fin 16) : s.ringEnabled p n = bit (s.reg (.part p (.ringCtrl n))) 0 := by
  rw [State.ringEnabled, pr_val, nIdx_val]

theorem enableRing_eq (s : State) (p : Fin 64) (n : Fin 16) : s.enableRing p n =
    if bit (s.reg (.part p (.ringCtrl n))) 0 then s
    else (s.setField (.part p (.ringCtrl n)) 0 0 1).startCommit (.ring p n) (ringGroup p n) := by
  rw [State.enableRing, ringEnabled_eq, pr_val, nIdx_val, pIdx_val]

theorem disableRing_eq (s : State) (p : Fin 64) (n : Fin 16) :
    s.disableRing p n = (s.setField (.part p (.ringCtrl n)) 0 0 0).dropCommit (.ring p n) := by
  rw [State.disableRing, pr_val, nIdx_val, pIdx_val]

/-- A pair serves while ENABLE reads 1 and no commit of it waits. -/
theorem ringServing_eq_false (h : bit (s.reg (.part p (.ringCtrl n))) 0 = false ∨ s.commitPending (.ring p n) = true) : s.ringServing p n = false := by
  rw [State.ringServing, ringEnabled_eq, pIdx_val, nIdx_val]
  obtain h | h := h <;> simp [h]

/-- A pair that no longer serves drains once its jobs have ended and its entries are written, or kept after a failed write. -/
theorem ringDrainable_of (ha : (s.ring p n).active = true) (hserving : s.ringServing p n = false)
    (hhold : (s.ring p n).hold = [] ∨ (s.ring p n).deliveryStopped = true)
    (hjobs : ∀ j ∈ s.jobs, j.part = p.val → j.ring = n.val → j.produced = true) : s.ringDrainable p n = true := by
  have ended : ∀ j ∈ s.jobs, (j.part ≠ p.val ∨ j.ring ≠ n.val) ∨ j.produced = true := fun j hj => by
    have := hjobs j hj
    tauto
  simpa [State.ringDrainable, ha, hserving, hhold] using ended

/-- Settles O3. -/
theorem ringPairLifecycle : Obligations.RingPairLifecycle := by
  unfold Obligations.RingPairLifecycle
  refine fun v p n s => ⟨fun ho => ⟨?_, ?_⟩, fun ha hoff hhold hjobs => ?_⟩
  · show execRingEnable v p n s = _
    rw [execRingEnable, if_pos ho, enableRing_eq, apply_ite Host.Outcome.next]
  · show execRingDisable v p n s = _
    rw [execRingDisable, if_pos ho, disableRing_eq]
  · show execRingDrained p n s = _
    rw [execRingDrained, if_pos (ringDrainable_of ha (ringServing_eq_false hoff) hhold hjobs)]

/-! ### The time trigger (R259, R318) -/

/-- The message of an unmasked vector is sent, and nothing else changes. -/
theorem sendOn_of_unmasked {p v h i : Nat} (hvf : (s.part p).vf = some (h, i))
    (hclear : bit (Tab.get (fun w => if w % 4 = 3 then 1 else 0) s.msix (64 * (4 + 16 * h + i) + 4 * v + 3)) 0 = false) :
    s.sendOn p v = s.emit (.msixVf h i v) := by
  simp only [State.sendOn, hvf, State.msixSend, hclear, Bool.false_eq_true, if_false]

theorem exec_ringIrqTimer (htime : bits (s.reg (.part p (.ringIrq n))) 31 16 ≠ 0) (hcount : bits (s.reg (.part p (.ringIrq n))) 15 8 ≠ 0)
    (hopen : 0 < (s.ring p n).irqCount) : exec (.ringIrqTimer p n) s = .next (s.ringIrq p n) := by
  show execRingIrqTimer p n s = _
  rw [execRingIrqTimer]
  exact congrArg _ (if_pos ⟨htime, hcount, hopen⟩)

/-- Settles O6. -/
theorem ringTimerInterrupt : Obligations.RingTimerInterrupt := by
  unfold Obligations.RingTimerInterrupt
  intro p n h i s hs q vec htime hcount hopen hvf hclear
  have hvf' : ((s.updRing p n Ring.covered).part p).vf = some (h, i) := by rw [part_updRing_same hs]; exact hvf
  rw [exec_ringIrqTimer htime hcount hopen, ringIrq_eq, sendOn_of_unmasked hvf' hclear]
  rfl

end Sys2Proof.Machine
end
section
/-! Translated reads do not look at a partition's own record, apart from its port (R230 to R232, R256). -/
namespace Sys2Proof

namespace Tab

variable {α : Type} {k : Nat} {P : Nat × α → Bool}

/-- An entry that fails a test adds nothing to whether some entry passes it, and takes nothing away. -/
theorem any_erase_of_fails (hP : ∀ v, P (k, v) = false) (m : Tab α) : (erase m k).any P = m.any P := by
  induction m with
  | nil => rfl
  | cons e rest ih =>
    obtain ⟨i, w⟩ := e
    unfold erase
    split
    next hi => rw [List.any_cons, hi, hP, Bool.false_or]
    · split
      · rfl
      · rw [List.any_cons, List.any_cons, ih]

theorem any_insert_of_fails (hP : ∀ v, P (k, v) = false) (m : Tab α) (v : α) : (insert m k v).any P = m.any P := by
  induction m with
  | nil => rw [insert, List.any_cons, hP, Bool.false_or]
  | cons e rest ih =>
    obtain ⟨i, w⟩ := e
    unfold insert
    split
    · rw [List.any_cons, hP, Bool.false_or]
    · split
      next hi => rw [List.any_cons, List.any_cons, hi, hP, hP]
      · rw [List.any_cons, List.any_cons, ih]

theorem any_set_of_fails [DecidableEq α] {d : Nat → α} (hP : ∀ v, P (k, v) = false) (m : Tab α) (v : α) : (set d m k v).any P = m.any P := by
  unfold set
  split
  · exact any_erase_of_fails hP m
  · exact any_insert_of_fails hP m v

end Tab

namespace Machine

variable (s : State) (p : Nat) (f : Part → Part)

theorem updPart_parts_set : (s.updPart p f).parts = Tab.set (fun _ => ({} : Part)) s.parts p (f (s.part p)) := rfl

/-- Only other partitions' pages under a scrub stand in the way of a partition (R324). -/
theorem updPart_underScrub (pa : Nat) : (s.updPart p f).underScrub p pa = s.underScrub p pa := by
  unfold State.underScrub
  rw [updPart_parts_set]
  exact Tab.any_set_of_fails (fun x => by simp) ..

theorem updPart_lineBad (l : Nat) : (s.updPart p f).lineBad l = s.lineBad l := rfl

theorem updPart_readPhys (a n : Nat) : (s.updPart p f).readPhys a n = s.readPhys a n := by rw [readPhys_eq, readPhys_eq, updPart_mem]

theorem updPart_walk (va l tab : Nat) : (s.updPart p f).walk va l tab = s.walk va l tab := by
  induction l generalizing tab with
  | zero =>
    unfold State.walk
    simp only [updPart_readPhys, updPart_lineBad]
  | succ l ih =>
    unfold State.walk
    simp only [updPart_readPhys, updPart_lineBad, ih]

theorem updPart_leafOf (q va : Nat) (unit : Option Nat) : (s.updPart p f).leafOf q va unit = s.leafOf q va unit := by
  unfold State.leafOf
  rw [updPart_walk]
  rfl

theorem updPart_xlate (va : Nat) (k : Access) (unit : Option Nat) : (s.updPart p f).xlate p va k unit = s.xlate p va k unit := by
  unfold State.xlate
  rw [updPart_leafOf]
  simp only [updPart_underScrub]

theorem updPart_readVA (va n : Nat) (unit : Option Nat) : (s.updPart p f).readVA p va n unit = s.readVA p va n unit := by
  unfold State.readVA
  simp only [updPart_xlate, updPart_lineBad, updPart_readPhys]

theorem updPart_graphErr (a n : Nat) : (s.updPart p f).graphErr p a n = s.graphErr p a n := by
  unfold State.graphErr
  simp only [updPart_readVA]

variable {s p f}

/-- A place that a ring or a graph lies in reads as before a change of the partition's record that leaves its virtual function. -/
theorem updPart_readSpace (hs : s.Inv) (hf : (f (s.part p)).vf = (s.part p).vf) (host : Bool) (a n : Nat) :
    (s.updPart p f).readSpace p host a n = s.readSpace p host a n := by
  have port : (s.updPart p f).vfPort p = s.vfPort p := by
    unfold State.vfPort
    rw [part_updPart_same hs.parts, hf]
  unfold State.readSpace
  rw [port, updPart_readVA]
  rfl

end Machine

end Sys2Proof
end
section
/-! Counters that are latched (R277, R398): a latch moves counters that the module does not make itself, and nothing else. -/
namespace Sys2Proof.Machine

/-- A counter whose count the model makes itself (R398): no free amount is added to it (log entry 16). -/
def madeCount (k : Nat) : Prop := k ∉ clockCounts ∧ k ∉ workCounts

/-- Nothing but the counters that go up by free amounts differs, and the state is in canonical form. -/
structure State.CountsOnly (s t : State) : Prop where
  inv : t.Inv
  eq : t = { s with parts := t.parts, fresh := t.fresh }
  part (p : Nat) : ∃ counters, t.part p = { s.part p with counters := counters }
  made (p k : Nat) : madeCount k → Tab.get (fun _ => 0) (t.part p).counters k = Tab.get (fun _ => 0) (s.part p).counters k

namespace State.CountsOnly

variable {s₀ s t : State}

theorem refl (hs : s.Inv) : s.CountsOnly s := ⟨hs, rfl, fun _ => ⟨_, rfl⟩, fun _ _ _ => rfl⟩

theorem ring (h : s.CountsOnly t) (p n : Nat) : t.ring p n = s.ring p n := by
  obtain ⟨counters, e⟩ := h.part p
  rw [State.ring, e]
  rfl

theorem mem (h : s.CountsOnly t) : t.mem = s.mem := by rw [h.eq]
theorem host (h : s.CountsOnly t) : t.host = s.host := by rw [h.eq]
theorem tiles (h : s.CountsOnly t) : t.tiles = s.tiles := by rw [h.eq]
theorem regs (h : s.CountsOnly t) : t.regs = s.regs := by rw [h.eq]
theorem jobs (h : s.CountsOnly t) : t.jobs = s.jobs := by rw [h.eq]
theorem nextJob (h : s.CountsOnly t) : t.nextJob = s.nextJob := by rw [h.eq]
theorem clock (h : s.CountsOnly t) : t.clock = s.clock := by rw [h.eq]

theorem draw (h : s₀.CountsOnly s) : s₀.CountsOnly s.draw.2 := by
  refine ⟨h.inv.draw, ?_, h.part, h.made⟩
  rw [h.eq]
  rfl

theorem countBy (h : s₀.CountsOnly s) (p : Nat) {n : Nat} (hn : ¬ madeCount n) (k : Nat) : s₀.CountsOnly (s.countBy p n k) := by
  have moved (q : Nat) : ∃ c, (s.countBy p n k).part q = { s.part q with counters := c } ∧
      ∀ k, madeCount k → Tab.get (fun _ => 0) c k = Tab.get (fun _ => 0) (s.part q).counters k := by
    by_cases hq : q = p
    · subst hq
      rw [State.countBy, part_updPart_same h.inv.parts]
      exact ⟨_, rfl, fun j hj => Tab.get_set_other _ _ (fun e => hn (e ▸ hj))⟩
    · rw [State.countBy, part_updPart_other _ hq]
      exact ⟨_, rfl, fun _ _ => rfl⟩
  refine ⟨h.inv.countBy .., ?_, fun q => ?_, fun q j hj => ?_⟩
  · rw [h.eq]
    rfl
  · obtain ⟨c, e, -⟩ := moved q
    obtain ⟨c', e'⟩ := h.part q
    exact ⟨c, e.trans (by rw [e'])⟩
  · obtain ⟨c, e, hc⟩ := moved q
    rw [e, ← h.made q j hj]
    exact hc j hj

theorem counter (h : s₀.CountsOnly s) (p n : Nat) : s₀.CountsOnly (s.counter p n).2 := by
  unfold State.counter
  split
  · exact h
  · dsimp only
    split
    next hnow =>
      have free : ¬ madeCount n := by
        rintro ⟨hclock, hwork⟩
        simp [State.countsNow, hclock, hwork] at hnow
      exact h.draw.countBy p free _
    · exact h

theorem latch (h : s₀.CountsOnly s) (j : Job) : s₀.CountsOnly (s.latch j).2 := by
  unfold State.latch
  split
  · exact (h.counter ..).counter ..
  · exact h

end State.CountsOnly

/-- The timestamp and the counted events (R398). -/
def plainCounts : List Nat := [1, 0x30, 0x31]

/-- What such a counter shows. -/
def State.count (s : State) (p k : Nat) : BitVec 64 := if k = 1 then s.clock else Tab.get (fun _ => 0) (s.part p).counters k

theorem counter_of_plain (s : State) (p : Nat) {k : Nat} (hk : k ∈ plainCounts) : (s.counter p k).1 = s.count p k := by
  simp only [plainCounts, List.mem_cons, List.not_mem_nil, or_false] at hk
  obtain rfl | rfl | rfl := hk <;> simp [State.counter, State.count, State.countsNow, clockCounts, workCounts]

theorem madeCount_of_plain : ∀ k ∈ plainCounts, madeCount k := by
  unfold madeCount
  decide

theorem State.CountsOnly.count {s t : State} (h : s.CountsOnly t) (p : Nat) {k : Nat} (hk : k ∈ plainCounts) : t.count p k = s.count p k := by
  rw [State.count, State.count, h.made p k (madeCount_of_plain k hk), h.clock]

theorem latch_of_plain {s : State} {j : Job} (hc : seCounters j.entry = false) : s.latch j = ((0, 0), s) := by
  simp [State.latch, hc]

/-- The two counters that RING_CNT_SEL selects, where each is the timestamp or a counted event. -/
theorem latch_of_counters {s : State} (hs : s.Inv) {j : Job} (hc : seCounters j.entry = true) :
    let sel := s.reg (pr j.part (.ringCntSel (nIdx j.ring)))
    (bits sel 15 0 ∈ plainCounts → (s.latch j).1.1 = (s.count j.part (bits sel 15 0)).truncate 32) ∧
    (bits sel 31 16 ∈ plainCounts → (s.latch j).1.2 = (s.count j.part (bits sel 31 16)).truncate 32) := by
  intro sel
  have first : s.CountsOnly (s.counter j.part (bits sel 15 0)).2 := (State.CountsOnly.refl hs).counter ..
  rw [State.latch, if_pos hc]
  refine ⟨fun h => ?_, fun h => ?_⟩
  · exact congrArg (BitVec.truncate 32) (counter_of_plain s j.part h)
  · exact congrArg (BitVec.truncate 32) ((counter_of_plain _ j.part h).trans (first.count j.part h))

end Sys2Proof.Machine
end
section
/-! Jobs that are complete produce their entry (R272, R274, R275): what the entry says, and what its production leaves. -/
namespace Sys2Proof.Machine

variable {s t u : State} {p n : Nat}

/-! ### The fields of an entry -/

theorem Status.code_lt (st : Status) : st.code < 2 ^ 16 := by cases st <;> decide

theorem bnat_le_one (b : Bool) : bnat b ≤ 1 := by cases b <;> decide

/-- STATUS of an entry stands in bits [31:16], ORIGIN in [95:80] (R274). -/
theorem encode_status_origin {c : Completion} (hk : c.kind < 2 ^ 16) (ht : c.tag < 2 ^ 16) (ho : c.origin < 2 ^ 16) :
    nbits c.encode.toNat 31 16 = c.status.code ∧ nbits c.encode.toNat 95 80 = c.origin := by
  have code := c.status.code_lt
  have b₁ := bnat_le_one c.remapped
  have b₂ := bnat_le_one c.spilled
  have b₃ := bnat_le_one c.saturated
  have b₄ := bnat_le_one c.autoRefreshed
  rw [nbits, nbits, Completion.encode, BitVec.toNat_ofNat]
  constructor <;> omega

/-- The job entry of a job refused at acceptance, with the status and ORIGIN of the refusal (R265, R272). -/
theorem jobCompletion_of_refused {j : Job} (hk : j.killed = false) (hst : j.acceptStatus ≠ .done) (ho : j.acceptOrigin < 2 ^ 16) (now : BitVec 64) (c0 c1 : BitVec 32) :
    nbits (jobCompletion j now c0 c1).encode.toNat 31 16 = j.acceptStatus.code ∧ nbits (jobCompletion j now c0 c1).encode.toNat 95 80 = j.acceptOrigin := by
  have status : jobStatus j = (j.acceptStatus, j.acceptOrigin) := by simp [jobStatus, hk, hst]
  have tag : seTag j.entry < 2 ^ 16 := Nat.mod_lt _ (by decide)
  have fields := encode_status_origin (c := jobCompletion j now c0 c1) (by simp [jobCompletion]) (by simpa [jobCompletion] using tag)
    (by simpa [jobCompletion, status] using ho)
  simpa [jobCompletion, status] using fields

/-! ### The hold -/

theorem ring_updRing_other (hs : s.Inv) {q m : Nat} (f : Ring → Ring) (h : ¬ (p = q ∧ n = m)) : (s.updRing q m f).ring p n = s.ring p n := by
  by_cases hp : p = q
  · subst hp
    rw [State.ring, part_updRing_same hs]
    exact Tab.get_set_other _ _ fun e => h ⟨rfl, e⟩
  · exact congrArg (·.ring n) (part_updPart_other (s := s) _ hp)

/-- An entry joins the hold of its own ring pair, and of no other (R258). -/
theorem ring_produce (hs : s.Inv) (q m : Nat) (e : HeldEntry) :
    (s.produce q m e).ring p n = if p = q ∧ n = m then { s.ring p n with hold := (s.ring p n).hold ++ [e] } else s.ring p n := by
  split
  next h =>
    obtain ⟨rfl, rfl⟩ := h
    refine ring_updRing_same hs (fun e => ?_)
    simpa using congrArg Ring.hold e
  next h => exact ring_updRing_other hs _ h

/-! ### A job that completes -/

/-- The job entry of a job is produced. -/
def State.produceJob (s : State) (j : Job) : State :=
  (((s.latch j).2).updJob j.id (fun j => { j with produced := true })).produce j.part j.ring
    ⟨(jobCompletion j (s.latch j).2.clock (s.latch j).1.1 (s.latch j).1.2).encode, j.id, true⟩

theorem completeOne_of_due {i : Nat} {j : Job} (hj : s.job? i = some j) (ho : j.over = true) (hp : j.produced = false) (hk : s.orderKept j = true) :
    s.completeOne i = s.produceJob j := by
  have id : j.id = i := State.job?_id hj
  subst id
  simp only [State.completeOne, hj, ho, hp, hk]
  rfl

/-- Either nothing happens, or the job's entry is produced. -/
theorem completeOne_cases (s : State) (i : Nat) : s.completeOne i = s ∨ ∃ j, s.job? i = some j ∧ s.completeOne i = s.produceJob j := by
  cases hj : s.job? i with
  | none =>
    left
    simp only [State.completeOne, hj]
  | some j =>
    by_cases hdue : (j.over && !j.produced && s.orderKept j) = true
    · obtain ⟨⟨hover, hpending⟩, horder⟩ : (j.over = true ∧ j.produced = false) ∧ s.orderKept j = true := by simpa using hdue
      exact .inr ⟨j, rfl, completeOne_of_due hj hover hpending horder⟩
    · left
      simp only [State.completeOne, hj, hdue]
      rfl

/-- What the production of job entries leaves: the memories, the tiles and the registers, the jobs but for PRODUCED, and of the ring pair all but its hold, which grows. -/
structure State.EntriesOnly (p n : Nat) (s t : State) : Prop where
  inv : t.Inv
  mem : t.mem = s.mem
  tiles : t.tiles = s.tiles
  regs : t.regs = s.regs
  nextJob : t.nextJob = s.nextJob
  ring : ∃ more, t.ring p n = { s.ring p n with hold := (s.ring p n).hold ++ more }
  jobs : ∀ j ∈ s.jobs, ∃ b, { j with produced := b } ∈ t.jobs

namespace State.EntriesOnly

theorem refl (hs : s.Inv) : s.EntriesOnly p n s :=
  ⟨hs, rfl, rfl, rfl, rfl, ⟨[], by rw [List.append_nil]⟩, fun j hj => ⟨j.produced, hj⟩⟩

theorem trans (h : s.EntriesOnly p n t) (k : t.EntriesOnly p n u) : s.EntriesOnly p n u := by
  refine ⟨k.inv, k.mem.trans h.mem, k.tiles.trans h.tiles, k.regs.trans h.regs, k.nextJob.trans h.nextJob, ?_, fun j hj => ?_⟩
  · obtain ⟨more, e⟩ := h.ring
    obtain ⟨more', e'⟩ := k.ring
    exact ⟨more ++ more', by rw [e', e, List.append_assoc]⟩
  · obtain ⟨b, hb⟩ := h.jobs j hj
    exact k.jobs { j with produced := b } hb

theorem produceJob (hs : s.Inv) (j : Job) : s.EntriesOnly p n (s.produceJob j) := by
  have latched : s.CountsOnly (s.latch j).2 := (State.CountsOnly.refl hs).latch j
  have inv : ((s.latch j).2.updJob j.id (fun j => { j with produced := true })).Inv := latched.inv
  refine ⟨inv.produce .., ?_, ?_, ?_, ?_, ?_, fun k hk => ?_⟩
  · exact latched.mem
  · exact latched.tiles
  · exact latched.regs
  · exact latched.nextJob
  · rw [State.produceJob, ring_produce inv, updJob_ring_get, latched.ring]
    split
    · exact ⟨_, rfl⟩
    · exact ⟨[], by rw [List.append_nil]⟩
  · have jobs : (s.produceJob j).jobs = s.jobs.map (fun x => if x.id = j.id then { x with produced := true } else x) :=
      congrArg (List.map _) latched.jobs
    rw [jobs]
    by_cases hid : k.id = j.id
    · exact ⟨true, List.mem_map.2 ⟨k, hk, if_pos hid⟩⟩
    · exact ⟨k.produced, List.mem_map.2 ⟨k, hk, if_neg hid⟩⟩

theorem completeOne (hs : s.Inv) (i : Nat) : s.EntriesOnly p n (s.completeOne i) := by
  obtain h | ⟨j, -, h⟩ := completeOne_cases s i
  · rw [h]
    exact refl hs
  · rw [h]
    exact produceJob hs j

theorem completeEach (hs : s.Inv) (i : Nat) (l : List Job) :
    s.EntriesOnly p n (l.foldl (fun s j => if j.id = i ∨ seOrdered j.entry then s.completeOne j.id else s) s) := by
  induction l generalizing s with
  | nil => exact refl hs
  | cons j rest ih =>
    have one : s.EntriesOnly p n (if j.id = i ∨ seOrdered j.entry then s.completeOne j.id else s) := by
      split
      · exact completeOne hs _
      · exact refl hs
    exact one.trans (ih one.inv)

theorem completeJob (hs : s.Inv) (i : Nat) : s.EntriesOnly p n (s.completeJob i) := completeEach hs i s.jobs

end State.EntriesOnly

/-- Another job's entry leaves a job as it is. -/
theorem job?_produceJob_other (hs : s.Inv) {j : Job} {i : Nat} (h : j.id ≠ i) : (s.produceJob j).job? i = s.job? i := by
  have latched : s.CountsOnly (s.latch j).2 := (State.CountsOnly.refl hs).latch j
  have jobs : (s.latch j).2.job? i = s.job? i := congrArg (List.find? _) latched.jobs
  show ((s.latch j).2.updJob j.id _).job? i = _
  rw [State.job?_updJob (fun _ => by rfl), jobs]
  cases hi : s.job? i with
  | none => rfl
  | some k => rw [Option.map_some, if_neg (fun e => h (e.symm.trans (State.job?_id hi)))]

theorem job?_completeOne_other (hs : s.Inv) {i k : Nat} (h : k ≠ i) : (s.completeOne k).job? i = s.job? i := by
  obtain e | ⟨j, hj, e⟩ := completeOne_cases s k
  · rw [e]
  · rw [e]
    exact job?_produceJob_other hs ((State.job?_id hj).trans_ne h)

theorem job?_completeEach_other (hs : s.Inv) {i : Nat} {l : List Job} (hl : ∀ k ∈ l, k.id ≠ i) :
    (l.foldl (fun s j => if j.id = i ∨ seOrdered j.entry then s.completeOne j.id else s) s).job? i = s.job? i := by
  induction l generalizing s with
  | nil => rfl
  | cons k rest ih =>
    obtain ⟨hk, hrest⟩ := List.forall_mem_cons.1 hl
    rw [List.foldl_cons]
    split
    · rw [ih (hs.completeOne _) hrest, job?_completeOne_other hs hk]
    · exact ih hs hrest

/-- The entry of a job that completes waits in its ring pair. -/
theorem mem_hold_produceJob (hs : s.Inv) (j : Job) :
    ∃ now c0 c1, ⟨(jobCompletion j now c0 c1).encode, j.id, true⟩ ∈ ((s.produceJob j).ring j.part j.ring).hold := by
  have inv : ((s.latch j).2.updJob j.id (fun j => { j with produced := true })).Inv := ((State.CountsOnly.refl hs).latch j).inv
  refine ⟨(s.latch j).2.clock, (s.latch j).1.1, (s.latch j).1.2, ?_⟩
  rw [State.produceJob, ring_produce inv, if_pos ⟨rfl, rfl⟩]
  exact List.mem_append_right _ (List.mem_singleton_self _)

/-- A job without an op and without ORDERED completes at once, when it is the last and the only one of its number (R275). -/
theorem mem_hold_completeJob (hs : s.Inv) {l : List Job} {j : Job} (hjobs : s.jobs = l ++ [j]) (hl : ∀ k ∈ l, k.id ≠ j.id)
    (hops : j.ops = []) (hpending : j.produced = false) (horder : seOrdered j.entry = false) :
    ∃ now c0 c1, ⟨(jobCompletion j now c0 c1).encode, j.id, true⟩ ∈ ((s.completeJob j.id).ring j.part j.ring).hold := by
  have only : s.job? j.id = some j := by
    have none : l.find? (fun k => decide (k.id = j.id)) = none := by simpa using hl
    simp [State.job?, hjobs, none]
  have before := State.EntriesOnly.completeEach (p := 0) (n := 0) hs j.id l
  have found := (job?_completeEach_other hs hl).trans only
  have settled : j.over = true := by rw [Job.over, hops]; rfl
  rw [State.completeJob, hjobs, List.foldl_append, List.foldl_cons, List.foldl_nil, if_pos (.inl rfl),
    completeOne_of_due found settled hpending (by rw [State.orderKept, horder]; rfl)]
  exact mem_hold_produceJob before.inv j

end Sys2Proof.Machine
end
section
/-! Submission fetch (R255, R256, R265, R277): the entry whose turn it is, the fault of a read, and the job that is accepted or refused. -/
namespace Sys2Proof.Machine

variable {s t u v : State}

/-! ### Acceptance (R265, R277) -/

/-- A job with its counters latched at acceptance. -/
def Job.latched (j : Job) (c : BitVec 32 × BitVec 32) : Job := { j with c0Start := c.1, c1Start := c.2 }

/-- A job that acceptance refuses: it has no op. -/
def Job.refused (j : Job) (st : Status) (origin : Nat) : Job := { j with ops := [], acceptStatus := st, acceptOrigin := origin }

theorem acceptJob_eq (hs : s.Inv) (j : Job) : s.acceptJob j =
    State.updRing { (s.latch j).2 with jobs := s.jobs ++ [j.latched (s.latch j).1], nextJob := s.nextJob + 1 } j.part j.ring
      (fun r => { r with lastJob := some j.id }) := by
  have latched : s.CountsOnly (s.latch j).2 := (State.CountsOnly.refl hs).latch j
  rw [← latched.jobs, ← latched.nextJob]
  rfl

/-- What acceptance makes of the state: one more job, at the end; the job is its ring's last. -/
structure State.JobJoins (j : Job) (s t : State) : Prop where
  inv : t.Inv
  mem : t.mem = s.mem
  host : t.host = s.host
  tiles : t.tiles = s.tiles
  regs : t.regs = s.regs
  nextJob : t.nextJob = s.nextJob + 1
  jobs : t.jobs = s.jobs ++ [j.latched (s.latch j).1]
  ring : t.ring j.part j.ring = { s.ring j.part j.ring with lastJob := some j.id }
  nextRing : (t.part j.part).nextRing = (s.part j.part).nextRing

theorem acceptJob_joins (hs : s.Inv) (j : Job) : s.JobJoins j (s.acceptJob j) := by
  have latched : s.CountsOnly (s.latch j).2 := (State.CountsOnly.refl hs).latch j
  have joined : State.Inv { (s.latch j).2 with jobs := s.jobs ++ [j.latched (s.latch j).1], nextJob := s.nextJob + 1 } := latched.inv
  have last : { s.ring j.part j.ring with lastJob := some j.id } ≠ ({} : Ring) := fun e => by simpa using congrArg Ring.lastJob e
  have ring : State.ring { (s.latch j).2 with jobs := s.jobs ++ [j.latched (s.latch j).1], nextJob := s.nextJob + 1 } j.part j.ring =
      s.ring j.part j.ring := latched.ring ..
  rw [acceptJob_eq hs]
  refine ⟨joined.updRing .., latched.mem, latched.host, latched.tiles, latched.regs, rfl, rfl, ?_, ?_⟩
  · rw [ring_updRing_same joined (by rw [ring]; exact last), ring]
  · obtain ⟨counters, e⟩ := latched.part j.part
    rw [part_updRing_same joined]
    show ((s.latch j).2.part j.part).nextRing = _
    rw [e]

/-! ### Refusal (R265, R272, R275) -/

theorem ring_of_parts (h : t.parts = s.parts) (p n : Nat) : t.ring p n = s.ring p n := by
  rw [State.ring, State.part, h]
  rfl

theorem reg_of_regs (h : t.regs = s.regs) (r : Reg) : t.reg r = s.reg r := congrArg (fun m => Tab.get (fun _ => r.init) m r.addr) h

theorem stick_nextJob (s : State) (p : Nat) (st : Status) : (s.stick p st).nextJob = s.nextJob := by
  unfold State.stick
  split <;> rfl

theorem Status.sticky_lt {st : Status} {b : Nat} (h : st.sticky = some b) : b < 32 := by
  cases st <;> cases h <;> decide

/-- The sticky bit of a status (R279). -/
theorem bit_partSticky_stick (hs : s.Inv) (p : Fin 64) {st : Status} {b : Nat} (h : st.sticky = some b) :
    bit ((s.stick p st).reg (.part p .partSticky)) b = true := by
  rw [State.stick, h, pr_val]
  dsimp only
  rw [reg_setField_same hs.regs, bit, getLsbD_setBits _ (Nat.le_refl b) (Status.sticky_lt h), if_pos ⟨Nat.le_refl b, Nat.le_refl b⟩, Nat.sub_self]
  rfl

theorem stick_reg_other (s : State) (p : Fin 64) (st : Status) {r : PReg} (h : r ≠ .partSticky) : (s.stick p st).reg (.part p r) = s.reg (.part p r) := by
  unfold State.stick
  split
  · rfl
  · rw [pr_val, reg_setField_other _ _ _ (PReg.addr_ne h)]

/-- What a refusal at acceptance makes of the state: a job without ops, with the status and ORIGIN of the refusal, and its sticky bit;
the job's entry waits, where it has no ORDERED. -/
structure State.Refuses (j : Job) (st : Status) (origin : Nat) (s t : State) : Prop where
  mem : t.mem = s.mem
  tiles : t.tiles = s.tiles
  nextJob : t.nextJob = s.nextJob + 1
  regs : t.regs = (s.stick j.part st).regs
  ring : ∃ more, t.ring j.part j.ring = { s.ring j.part j.ring with lastJob := some j.id, hold := (s.ring j.part j.ring).hold ++ more }
  job : ∃ c b, { (j.refused st origin).latched c with produced := b } ∈ t.jobs
  entry : seOrdered j.entry = false → (∀ k ∈ s.jobs, k.id ≠ j.id) → ∃ x ∈ (t.ring j.part j.ring).hold,
    x.job = j.id ∧ x.isJob = true ∧ nbits x.bits.toNat 31 16 = st.code ∧ nbits x.bits.toNat 95 80 = origin

theorem refuseJob_refuses (hs : s.Inv) {j : Job} (hk : j.killed = false) (hp : j.produced = false) {st : Status} (hst : st ≠ .done) {origin : Nat}
    (ho : origin < 2 ^ 16) : s.Refuses j st origin (s.refuseJob j st origin) := by
  obtain ⟨mem, -, parts, tiles, -, -, jobs, -⟩ := State.SameCore.stick s j.part st
  have joins := acceptJob_joins (hs.stick j.part st) (j.refused st origin)
  have entries : ((s.stick j.part st).acceptJob (j.refused st origin)).EntriesOnly j.part j.ring (s.refuseJob j st origin) :=
    State.EntriesOnly.completeJob joins.inv j.id
  have stuck : (s.stick j.part st).ring j.part j.ring = s.ring j.part j.ring := ring_of_parts parts ..
  have joined : ((s.stick j.part st).acceptJob (j.refused st origin)).ring j.part j.ring = { s.ring j.part j.ring with lastJob := some j.id } := by
    rw [← stuck]
    exact joins.ring
  refine ⟨?_, ?_, ?_, entries.regs.trans joins.regs, ?_, ?_, fun horder hfresh => ?_⟩
  · rw [entries.mem, joins.mem, mem]
  · rw [entries.tiles, joins.tiles, tiles]
  · rw [entries.nextJob, joins.nextJob, stick_nextJob]
  · obtain ⟨more, e⟩ := entries.ring
    exact ⟨more, by rw [e, joined]⟩
  · obtain ⟨b, hb⟩ := entries.jobs _ (joins.jobs ▸ List.mem_append_right _ (List.mem_singleton_self _))
    exact ⟨_, b, hb⟩
  · obtain ⟨now, c0, c1, hmem⟩ := mem_hold_completeJob joins.inv joins.jobs (jobs.symm ▸ hfresh) rfl hp horder
    obtain ⟨hstatus, horigin⟩ := jobCompletion_of_refused (j := (j.refused st origin).latched _) hk hst ho now c0 c1
    exact ⟨_, hmem, rfl, rfl, hstatus, horigin⟩

/-! ### A read that fails (R228, R229, R232, R256) -/

/-- Nothing but what records a fault differs: of a partition's registers, the captured fault alone. -/
structure State.FaultRecorded (s t : State) : Prop where
  core : s.SameCore t
  nextJob : t.nextJob = s.nextJob
  reg (q : Fin 64) (r : PReg) : r ≠ .xlateFaultLo → r ≠ .xlateFaultHi → t.reg (.part q r) = s.reg (.part q r)

namespace State.FaultRecorded

variable {s₀ : State}

theorem refl (s : State) : s.FaultRecorded s := ⟨.refl s, rfl, fun _ _ _ _ => rfl⟩

theorem ite {c : Prop} [Decidable c] (hs : s₀.FaultRecorded s) (ht : s₀.FaultRecorded t) : s₀.FaultRecorded (if c then s else t) := by
  split
  · exact hs
  · exact ht

theorem setReg (hs : s₀.FaultRecorded s) {k : Reg} (hk : ∀ q r, r ≠ .xlateFaultLo → r ≠ .xlateFaultHi → Reg.part q r ≠ k) (x : Word32) :
    s₀.FaultRecorded (s.setReg k x) := by
  refine ⟨hs.core.trans (.setReg ..), hs.nextJob, fun q r hlo hhi => ?_⟩
  rw [reg_setReg_other _ (Reg.addr_injective.ne (hk q r hlo hhi)), hs.reg q r hlo hhi]

theorem setField (hs : s₀.FaultRecorded s) {k : Reg} (hk : ∀ q r, Reg.part q r ≠ k) (hi lo x : Nat) : s₀.FaultRecorded (s.setField k hi lo x) :=
  hs.setReg (fun q r _ _ => hk q r) _

theorem bump (hs : s₀.FaultRecorded s) {k : Reg} (hk : ∀ q r, Reg.part q r ≠ k) (hi lo : Nat) : s₀.FaultRecorded (s.bump k hi lo) :=
  .ite (hs.setField hk ..) hs

theorem setHank (hs : s₀.FaultRecorded s) (h : Nat) (x : Hank) : s₀.FaultRecorded (s.setHank h x) :=
  ⟨hs.core.trans (.setHank ..), hs.nextJob, hs.reg⟩

theorem pathWrite (hs : s₀.FaultRecorded s) (h : Fin 4) (r : PathRegs) (x : BitVec 256) : s₀.FaultRecorded (s.pathWrite h r x) := by
  have written (a : Nat) (bs : List Byte) : s₀.FaultRecorded (s.writeHost h a bs) := ⟨hs.core.trans (.writeHost ..), hs.nextJob, hs.reg⟩
  exact (written ..).setField (fun _ _ => by nofun) ..

theorem logRecord (hs : s₀.FaultRecorded s) (h : Fin 4) (x : BitVec 256) : s₀.FaultRecorded (s.logRecord h x) :=
  .ite (hs.bump (fun _ _ => by nofun) ..) (.ite (((hs.pathWrite ..).setField (fun _ _ => by nofun) ..).bump (fun _ _ => by nofun) ..) (hs.pathWrite ..))

theorem emitLog (hs : s₀.FaultRecorded s) (h : Fin 4) (r : FaultRec) : s₀.FaultRecorded (s.emitLog h r) :=
  (ite (hs.setField (fun _ _ => by nofun) ..) hs).logRecord ..

theorem reportLog (hs : s₀.FaultRecorded s) (src rep : BitVec 16) (event detail : Nat) (part : Option Nat) :
    s₀.FaultRecorded (s.reportLog src rep event detail part) :=
  .ite hs (.ite (hs.setHank ..) (.ite (hs.setHank ..) (hs.emitLog ..)))

theorem badLine (hs : s₀.FaultRecorded s) (pa : Nat) (part : Option Nat) (rep : BitVec 16) : s₀.FaultRecorded (s.badLine pa part rep) :=
  (hs.bump (fun _ _ => by nofun) ..).reportLog ..

theorem capture (hs : s₀.FaultRecorded s) (p access : Nat) (f : XFault) : s₀.FaultRecorded (s.capture p access f) := by
  have entered {u : State} (hu : s₀.FaultRecorded u) (lo hi : Word32) :
      s₀.FaultRecorded ((u.setReg (pr p .xlateFaultLo) lo).setReg (pr p .xlateFaultHi) hi) :=
    (hu.setReg (fun q r hr _ e => hr (Reg.part.inj e).2) lo).setReg (fun q r _ hr e => hr (Reg.part.inj e).2) hi
  unfold State.capture
  split
  · exact .ite (hs.badLine ..) (entered (hs.badLine ..) ..)
  · exact .ite hs (entered hs ..)

end State.FaultRecorded

/-- FETCH_FAULT is set and the ring is fetched no more. -/
def State.stopFetch (s : State) (p : Fin 64) (n : Fin 16) : State :=
  (s.setField (.part p (.ringStatus n)) 1 1 1).updRing p n (fun r => { r with fetchStopped := true })

theorem fetchFault_records (s : State) (p : Fin 64) (n : Fin 16) (err : Option MemErr) : (s.stopFetch p n).FaultRecorded (s.fetchFault p n err) := by
  have stops : (s.setField (pr p (.ringStatus (nIdx n))) 1 1 1).updRing p n (fun r => { r with fetchStopped := true }) = s.stopFetch p n := by
    rw [pr_val, nIdx_val]
    rfl
  unfold State.fetchFault
  rw [stops]
  dsimp only
  split
  · exact (State.FaultRecorded.refl _).capture ..
  · exact (State.FaultRecorded.refl _).badLine ..
  · exact .refl _

/-- Memory, the tiles and the jobs stand as they did, and the state is in canonical form. -/
structure State.JobsStand (s t : State) : Prop where
  inv : t.Inv
  mem : t.mem = s.mem
  tiles : t.tiles = s.tiles
  jobs : t.jobs = s.jobs
  nextJob : t.nextJob = s.nextJob

variable {p : Fin 64} {n : Fin 16}

/-- A failed read leaves memory and the jobs, and stops the ring. -/
theorem fetchFault_stops (hs : s.Inv) (err : Option MemErr) :
    s.JobsStand (s.fetchFault p n err) ∧ (s.fetchFault p n err).ring p n = { s.ring p n with fetchStopped := true } ∧
      bit ((s.fetchFault p n err).reg (.part p (.ringStatus n))) 1 = true := by
  have records := fetchFault_records s p n err
  obtain ⟨mem, -, parts, tiles, -, -, jobs, -⟩ := records.core
  have field : (s.setField (.part p (.ringStatus n)) 1 1 1).Inv := hs.setField ..
  have stopped : (s.stopFetch p n).ring p n = { s.ring p n with fetchStopped := true } :=
    ring_updRing_same field fun e => by simpa using congrArg Ring.fetchStopped e
  refine ⟨⟨hs.fetchFault .., mem, tiles, jobs, records.nextJob⟩, ?_, ?_⟩
  · exact (ring_of_parts parts ..).trans stopped
  · rw [records.reg p (.ringStatus n) nofun nofun, State.stopFetch, updRing_reg_get, reg_setField_same hs.regs, bit,
      getLsbD_setBits _ (by decide) (by decide)]
    rfl

end Sys2Proof.Machine
end
section
/-! SUBMISSION_FETCH (R255, R256, R265): an equation for each way that the fetch of an entry can go, and what each of them leaves. -/
namespace Sys2Proof.Machine

variable {s t u v : State} {p : Fin 64} {n : Fin 16} {e : Entry}

/-! ### The ways of a fetch -/

/-- The turn passes on from ring `n` (R255). -/
def State.turned (s : State) (p n : Nat) : State := s.updPart p (fun x => { x with nextRing := (n + 1) % 16 })

/-- SQ_HEAD passes the entry (R255). -/
def State.headPassed (s : State) (p n : Nat) : State := s.updRing p n (fun r => { r with sqHead := (r.sqHead + 1) % s.sqSize p n })

theorem ring_turned (hs : s.Inv) (p n m : Nat) : (s.turned p n).ring p m = s.ring p m := by
  rw [State.ring, State.turned, part_updPart_same hs.parts]
  rfl

theorem turned_readSpace (hs : s.Inv) (p n : Nat) (host : Bool) (a k : Nat) : (s.turned p n).readSpace p host a k = s.readSpace p host a k :=
  updPart_readSpace hs rfl host a k

theorem turned_graphErr (s : State) (p n a k : Nat) : (s.turned p n).graphErr p a k = s.graphErr p a k := updPart_graphErr ..

/-- The entry is read as before the turn passed on. -/
theorem turned_reads_entry (hs : s.Inv) (p n : Nat) :
    (s.turned p n).readSpace p ((s.turned p n).sqHost p n) ((s.turned p n).sqBase p n + 64 * ((s.turned p n).ring p n).sqHead) 64 =
      s.readSpace p (s.sqHost p n) (s.sqBase p n + 64 * (s.ring p n).sqHead) 64 := by
  rw [turned_readSpace hs, ring_turned hs]
  rfl

/-- The ring whose turn it is is active (R255). -/
theorem active_of_fetchTurn (h : s.fetchTurn p = some n.val) : (s.ring p n).active = true := by
  have fetchable : s.fetchable p n = true := List.find?_some h
  unfold State.fetchable at fetchable
  simp only [Bool.and_eq_true] at fetchable
  obtain ⟨⟨⟨⟨active, -⟩, -⟩, -⟩, -⟩ := fetchable
  exact active

section
variable (hs : s.Inv) (hf : s.fetches p = true) (ht : s.fetchTurn p = some n.val) (ho : s.openJobs p < 256)
include hs hf ht ho

theorem exec_submissionFetch_of_error {err : Option MemErr}
    (hr : s.readSpace p (s.sqHost p n) (s.sqBase p n + 64 * (s.ring p n).sqHead) 64 = .error err) :
    exec (.submissionFetch p n) s = .next ((s.turned p n).fetchFault p n err) := by
  show execSubmissionFetch p n s = _
  rw [execSubmissionFetch, State.fetch, if_pos (by simp [hf, ht, ho])]
  dsimp only
  rw [← State.turned, turned_reads_entry hs, hr]

theorem exec_submissionFetch_of_read {bs : List Byte}
    (hr : s.readSpace p (s.sqHost p n) (s.sqBase p n + 64 * (s.ring p n).sqHead) 64 = .ok bs) :
    exec (.submissionFetch p n) s = .next ((s.turned p n).fetchGraph p n (entryOf bs)) := by
  show execSubmissionFetch p n s = _
  rw [execSubmissionFetch, State.fetch, if_pos (by simp [hf, ht, ho])]
  dsimp only
  rw [← State.turned, turned_reads_entry hs, hr]

end

/-- Steps 1 and 2 of R265. -/
theorem fetchGraph_of_malformed (h : submissionStatus e ≠ .done) :
    s.fetchGraph p n e = (s.headPassed p n).refuseJob (s.newJob p n (s.ring p n).sqHead e []) (submissionStatus e) 0xFFFF := by
  unfold State.fetchGraph
  dsimp only
  split
  next hd => exact absurd hd h
  · rfl

/-- Step 3 of R265, for a graph in host memory. -/
theorem fetchGraph_of_host_error (hd : submissionStatus e = .done) (hh : seGraphHost e = true) {err : Option MemErr}
    (hr : s.readSpace p (seGraphHost e) (seGraph e) (64 * seOpCount e) = .error err) :
    s.fetchGraph p n e = (s.fetchFault p n err).refuseJob (s.newJob p n (s.ring p n).sqHead e []) .xlate 0xFFFF := by
  rw [hh] at hr
  rw [State.fetchGraph, hd]
  dsimp only
  rw [if_pos hh, hr]

/-- Step 3 of R265, for a graph in device space. -/
theorem fetchGraph_of_device_error (hd : submissionStatus e = .done) (hh : seGraphHost e = false) {err : MemErr}
    (hr : s.graphErr p (seGraph e) (64 * seOpCount e) = some err) :
    s.fetchGraph p n e = (s.fetchFault p n (some err)).refuseJob (s.newJob p n (s.ring p n).sqHead e []) err.status 0xFFFF := by
  rw [State.fetchGraph, hd]
  dsimp only
  rw [hh, if_neg Bool.false_ne_true, hr]

theorem readVA_of_readSpace {a k : Nat} {bs : List Byte} (h : s.readSpace p false a k = .ok bs) : s.readVA p a k = .ok bs := by
  rw [State.readSpace, if_neg Bool.false_ne_true] at h
  split at h
  next hr =>
    cases h
    exact hr
  · cases h

/-- A graph that has been read goes to steps 4 and 5. -/
theorem fetchGraph_of_read (hd : submissionStatus e = .done) (hg : seGraphHost e = false → s.graphErr p (seGraph e) (64 * seOpCount e) = none) {gs : List Byte}
    (hr : s.readSpace p (seGraphHost e) (seGraph e) (64 * seOpCount e) = .ok gs) :
    s.fetchGraph p n e = s.accept p n e ((chunksOf 64 (seOpCount e) gs).map entryOf) := by
  rw [State.fetchGraph, hd]
  dsimp only
  cases hh : seGraphHost e with
  | true =>
    rw [hh] at hr
    rw [if_pos rfl, hr]
  | false =>
    rw [hh] at hr
    rw [if_neg Bool.false_ne_true, hg hh]
    dsimp only
    rw [readVA_of_readSpace hr]

variable {es : List Entry}

theorem accept_of_refused (h : (graphStatus e es).1 ≠ .done) : s.accept p n e es =
    (s.headPassed p n).refuseJob (s.newJob p n (s.ring p n).sqHead e es) (graphStatus e es).1 (graphStatus e es).2 := by
  unfold State.accept
  dsimp only
  split
  next hg => exact absurd (congrArg Prod.fst hg) h
  next hg =>
    rw [hg]
    rfl

theorem accept_of_done {origin : Nat} (h : graphStatus e es = (.done, origin)) :
    s.accept p n e es = (s.headPassed p n).acceptJob (s.newJob p n (s.ring p n).sqHead e es) := by
  rw [State.accept, h]
  rfl

/-! ### The status and ORIGIN of a refusal -/

theorem chunksOf_length_le {α : Type} (k fuel : Nat) (l : List α) : (chunksOf k fuel l).length ≤ fuel := by
  induction fuel generalizing l with
  | zero => exact Nat.le_refl 0
  | succ fuel ih =>
    unfold chunksOf
    split
    · exact Nat.zero_le _
    · exact Nat.succ_le_succ (ih _)

theorem seOpCount_lt (e : Entry) : seOpCount e < 2 ^ 16 := Nat.mod_lt _ (by decide)

theorem handleConflict_lt {i : Nat} (h : handleConflict es = some i) : i < es.length := List.mem_range.1 (List.mem_of_find?_eq_some h)

/-- ORIGIN is an op of the graph, or 0xFFFF (R272). -/
theorem graphStatus_origin_lt (h : es.length < 2 ^ 16) : (graphStatus e es).2 < 2 ^ 16 := by
  unfold graphStatus
  split
  next i hi => exact (List.mem_range.1 (List.mem_of_find?_eq_some hi)).trans h
  · split
    next i hi => exact (handleConflict_lt hi).trans h
    · decide

theorem MemErr.status_ne_done (err : MemErr) : err.status ≠ .done := by
  cases err with
  | fault f =>
    rw [MemErr.status, XFault.status]
    split <;> decide
  | bad => exact nofun

/-! ### What each way leaves -/

theorem State.JobsStand.trans (h : s.JobsStand t) (k : t.JobsStand u) : s.JobsStand u :=
  ⟨k.inv, k.mem.trans h.mem, k.tiles.trans h.tiles, k.jobs.trans h.jobs, k.nextJob.trans h.nextJob⟩

theorem turned_stands (hs : s.Inv) (p n : Nat) : s.JobsStand (s.turned p n) := ⟨hs.updPart .., rfl, rfl, rfl, rfl⟩

theorem headPassed_stands (hs : s.Inv) (p n : Nat) : s.JobsStand (s.headPassed p n) := ⟨hs.updRing .., rfl, rfl, rfl, rfl⟩

theorem ring_headPassed (hs : s.Inv) (ha : (s.ring p n).active = true) :
    (s.headPassed p n).ring p n = { s.ring p n with sqHead := ((s.ring p n).sqHead + 1) % s.sqSize p n } :=
  ring_updRing_same hs (ring_ne_default (.inl ha))

/-- Fetching from the pair has stopped at the entry (R256). -/
def State.FetchStopped (p : Fin 64) (n : Fin 16) (head : Nat) (t : State) : Prop :=
  bit (t.reg (.part p (.ringStatus n))) 1 = true ∧ (t.ring p n).fetchStopped = true ∧ (t.ring p n).sqHead = head

/-- The entry at `head` has become a job that is refused, and the job's entry waits where it has no ORDERED (R265, R272, R275, R279). -/
def State.JobRefused (p : Fin 64) (n : Fin 16) (head : Nat) (e : Entry) (st : Status) (origin : Nat) (s t : State) : Prop :=
  t.mem = s.mem ∧ t.tiles = s.tiles ∧ t.nextJob = s.nextJob + 1 ∧ (∀ b, st.sticky = some b → bit (t.reg (.part p .partSticky)) b = true) ∧
  (∃ j ∈ t.jobs, j.id = s.nextJob ∧ j.part = p.val ∧ j.ring = n.val ∧ j.sqIndex = head ∧ j.entry = e ∧ j.ops = [] ∧ j.acceptStatus = st ∧ j.acceptOrigin = origin) ∧
  (seOrdered e = false → (∀ k ∈ s.jobs, k.id ≠ s.nextJob) →
    ∃ x ∈ (t.ring p n).hold, x.job = s.nextJob ∧ x.isJob = true ∧ nbits x.bits.toNat 31 16 = st.code ∧ nbits x.bits.toNat 95 80 = origin)

section
variable (hv : s.JobsStand v) {head : Nat} {st : Status} (hst : st ≠ .done) {origin : Nat} (horigin : origin < 2 ^ 16)
include hv hst horigin

theorem refuseJob_jobRefused : s.JobRefused p n head e st origin (v.refuseJob (s.newJob p n head e es) st origin) := by
  have refuses := refuseJob_refuses hv.inv (j := s.newJob p n head e es) rfl rfl hst horigin
  refine ⟨refuses.mem.trans hv.mem, refuses.tiles.trans hv.tiles, by rw [refuses.nextJob, hv.nextJob], fun b hb => ?_, ?_, fun ho hk => ?_⟩
  · rw [reg_of_regs refuses.regs]
    exact bit_partSticky_stick hv.inv p hb
  · obtain ⟨c, b, hmem⟩ := refuses.job
    exact ⟨_, hmem, rfl, rfl, rfl, rfl, rfl, rfl, rfl, rfl⟩
  · exact refuses.entry ho (hv.jobs.symm ▸ hk)

/-- A refusal leaves the head of the submission ring. -/
theorem sqHead_refuseJob : ((v.refuseJob (s.newJob p n head e es) st origin).ring p n).sqHead = (v.ring p n).sqHead := by
  obtain ⟨more, ring⟩ := (refuseJob_refuses hv.inv (j := s.newJob p n head e es) rfl rfl hst horigin).ring
  exact (congrArg Ring.sqHead ring :)

theorem refuseJob_fetchStopped (h : v.FetchStopped p n head) : (v.refuseJob (s.newJob p n head e es) st origin).FetchStopped p n head := by
  have refuses := refuseJob_refuses hv.inv (j := s.newJob p n head e es) rfl rfl hst horigin
  obtain ⟨more, ring⟩ := refuses.ring
  obtain ⟨status, stopped, atHead⟩ := h
  refine ⟨?_, (congrArg Ring.fetchStopped ring).trans stopped, (congrArg Ring.sqHead ring).trans atHead⟩
  rw [reg_of_regs refuses.regs]
  have kept : (v.stick p st).reg (.part p (.ringStatus n)) = v.reg (.part p (.ringStatus n)) := stick_reg_other v p st nofun
  exact (congrArg (bit · 1) kept).trans status

end

end Sys2Proof.Machine
end
section
/-! A submission becomes one job with the ops of its graph, or is refused (R255, R256, R265, R277). -/
namespace Sys2Proof.Machine

variable {s t : State} {p : Fin 64} {n : Fin 16} {e : Entry} {es : List Entry}

/-! ### An entry that becomes a job -/

theorem ops_newJob (s : State) (p n idx : Nat) (e : Entry) (es : List Entry) :
    (s.newJob p n idx e es).ops.map (fun o => (o.entry, o.phase)) = es.map (fun x => (x, .waiting)) := by
  apply List.ext_getElem <;> simp [State.newJob]

/-- The state once the entry at SQ_HEAD has been passed and the turn with it. -/
def State.entryTaken (s : State) (p : Fin 64) (n : Fin 16) : State := (s.turned p n).headPassed p n

theorem entryTaken_stands (hs : s.Inv) : s.JobsStand (s.entryTaken p n) :=
  (turned_stands hs p n).trans (headPassed_stands (turned_stands hs p n).inv p n)

theorem ring_entryTaken (hs : s.Inv) (ha : (s.ring p n).active = true) :
    (s.entryTaken p n).ring p n = { s.ring p n with sqHead := ((s.ring p n).sqHead + 1) % s.sqSize p n } := by
  have turned := turned_stands hs p n
  rw [State.entryTaken, ring_headPassed turned.inv (by rw [ring_turned hs]; exact ha), ring_turned hs]
  rfl

theorem part_entryTaken (hs : s.Inv) : ∃ rings, (s.entryTaken p n).part p = { s.part p with nextRing := (n + 1) % 16, rings := rings } := by
  have turned := turned_stands hs p n
  rw [State.entryTaken, State.headPassed, part_updRing_same turned.inv, State.turned, part_updPart_same hs.parts]
  exact ⟨_, rfl⟩

theorem count_entryTaken (hs : s.Inv) (k : Nat) : (s.entryTaken p n).count p k = s.count p k := by
  obtain ⟨rings, part⟩ := part_entryTaken (p := p) (n := n) hs
  rw [State.count, part]
  rfl

/-- What acceptance makes of an entry and its graph (R255, R265, R277). -/
theorem acceptJob_entryTaken (hs : s.Inv) (ha : (s.ring p n).active = true) :
    let j := (s.turned p n).newJob p n (s.ring p n).sqHead e es
    let t := (s.entryTaken p n).acceptJob j
    t.jobs = s.jobs ++ [j.latched ((s.entryTaken p n).latch j).1] ∧ t.nextJob = s.nextJob + 1 ∧
    t.regs = s.regs ∧ t.mem = s.mem ∧ t.host = s.host ∧ t.tiles = s.tiles ∧
    (t.ring p n).sqHead = ((s.ring p n).sqHead + 1) % s.sqSize p n ∧ (t.part p).nextRing = (n + 1) % 16 ∧ (t.ring p n).lastJob = some s.nextJob := by
  intro j t
  have joins : (s.entryTaken p n).JobJoins j t := acceptJob_joins (entryTaken_stands hs).inv j
  have ring : t.ring p n = { (s.entryTaken p n).ring p n with lastJob := some s.nextJob } := joins.ring
  have nextRing : (t.part p).nextRing = ((s.entryTaken p n).part p).nextRing := joins.nextRing
  obtain ⟨rings, part⟩ := part_entryTaken (p := p) (n := n) hs
  rw [ring_entryTaken hs ha] at ring
  rw [part] at nextRing
  exact ⟨joins.jobs, joins.nextJob, joins.regs, joins.mem, joins.host, joins.tiles, congrArg Ring.sqHead ring, nextRing, congrArg Ring.lastJob ring⟩

/-- Without COUNTERS nothing is latched: the job's start values are 0, and the partitions stand but for the turn, SQ_HEAD and the last job (R277). -/
theorem acceptJob_entryTaken_plain (hs : s.Inv) (hc : seCounters e = false) :
    let j := (s.turned p n).newJob p n (s.ring p n).sqHead e es
    ((s.entryTaken p n).latch j).1 = (0, 0) ∧
      ((s.entryTaken p n).acceptJob j).parts = ((s.entryTaken p n).updRing p n (fun r => { r with lastJob := some s.nextJob })).parts := by
  intro j
  have latch : (s.entryTaken p n).latch j = ((0, 0), s.entryTaken p n) := latch_of_plain hc
  refine ⟨congrArg Prod.fst latch, ?_⟩
  rw [acceptJob_eq (entryTaken_stands hs).inv, latch]
  rfl

/-- With COUNTERS the two selected counters are latched (R277). -/
theorem latch_entryTaken (hs : s.Inv) (hc : seCounters e = true) :
    let j := (s.turned p n).newJob p n (s.ring p n).sqHead e es
    let sel := s.reg (.part p (.ringCntSel n))
    (bits sel 15 0 ∈ plainCounts → ((s.entryTaken p n).latch j).1.1 = (s.count p (bits sel 15 0)).truncate 32) ∧
    (bits sel 31 16 ∈ plainCounts → ((s.entryTaken p n).latch j).1.2 = (s.count p (bits sel 31 16)).truncate 32) := by
  intro j sel
  have latched := latch_of_counters (entryTaken_stands (p := p) (n := n) hs).inv (j := j) hc
  have selected : (s.entryTaken p n).reg (pr j.part (.ringCntSel (nIdx j.ring))) = sel := by
    show (s.entryTaken p n).reg (pr p (.ringCntSel (nIdx n))) = sel
    rw [pr_val, nIdx_val]
    rfl
  obtain ⟨first, second⟩ := latched
  rw [selected] at first second
  exact ⟨fun h => (first h).trans (congrArg (BitVec.truncate 32) (count_entryTaken hs _)),
    fun h => (second h).trans (congrArg (BitVec.truncate 32) (count_entryTaken hs _))⟩

/-! ### An entry that is refused -/

/-- Fetching that stops at an entry leaves it at the head of its ring. -/
theorem fetchFault_turned (hs : s.Inv) (err : Option MemErr) :
    (s.turned p n).JobsStand ((s.turned p n).fetchFault p n err) ∧ ((s.turned p n).fetchFault p n err).FetchStopped p n (s.ring p n).sqHead := by
  obtain ⟨stands, ring, status⟩ := fetchFault_stops (p := p) (n := n) (turned_stands hs p n).inv err
  rw [ring_turned hs] at ring
  exact ⟨stands, status, (congrArg Ring.fetchStopped ring :), (congrArg Ring.sqHead ring :)⟩

section
variable (hs : s.Inv) {st : Status} (hst : st ≠ .done) {origin : Nat} (horigin : origin < 2 ^ 16)
include hs hst horigin

/-- Steps 1 to 3 and 4 to 5 of R265: the entry's job is refused, and SQ_HEAD passes the entry. -/
theorem refuseJob_entryTaken (ha : (s.ring p n).active = true) :
    let t := (s.entryTaken p n).refuseJob ((s.turned p n).newJob p n (s.ring p n).sqHead e es) st origin
    (t.ring p n).sqHead = ((s.ring p n).sqHead + 1) % s.sqSize p n ∧ s.JobRefused p n (s.ring p n).sqHead e st origin t := by
  have stands : (s.turned p n).JobsStand (s.entryTaken p n) := headPassed_stands (turned_stands hs p n).inv p n
  refine ⟨?_, refuseJob_jobRefused (s := s.turned p n) stands hst horigin⟩
  rw [sqHead_refuseJob stands hst horigin, ring_entryTaken hs ha]

/-- Step 3 of R265: the entry's job is refused, and fetching stops at the entry. -/
theorem refuseJob_fetchFault (err : Option MemErr) :
    let t := ((s.turned p n).fetchFault p n err).refuseJob ((s.turned p n).newJob p n (s.ring p n).sqHead e es) st origin
    t.FetchStopped p n (s.ring p n).sqHead ∧ s.JobRefused p n (s.ring p n).sqHead e st origin t := by
  obtain ⟨stands, stopped⟩ := fetchFault_turned (p := p) (n := n) hs err
  exact ⟨refuseJob_fetchStopped stands hst horigin stopped, refuseJob_jobRefused (s := s.turned p n) stands hst horigin⟩

end

/-- Settles O4: each way that a fetch can go has its equation, and what it leaves is told of the state before the turn passed on. -/
theorem fetchAcceptsJob : Obligations.FetchAcceptsJob := by
  unfold Obligations.FetchAcceptsJob
  intro p n s hs hf ht ho head at_ stopped passed
  have ha := active_of_fetchTurn ht
  have atHead : ((s.turned p n).ring p n).sqHead = head := congrArg Ring.sqHead (ring_turned hs p n n)
  refine ⟨fun err hr => ?unread, fun bs hr => ?read⟩
  case unread =>
    obtain ⟨stands, hstopped⟩ := fetchFault_turned (p := p) (n := n) hs err
    exact ⟨_, exec_submissionFetch_of_error hs hf ht ho hr, hstopped, stands.jobs, stands.nextJob, stands.mem⟩
  intro e graph refused
  have hexec := exec_submissionFetch_of_read hs hf ht ho hr
  refine ⟨fun hbad => ?malformed, fun hd => ⟨fun hh hg => ?hostGraphUnread, fun err hh hg => ?deviceGraphUnread, fun gs hg hread => ?graphRead⟩⟩
  case malformed =>
    rw [fetchGraph_of_malformed hbad, atHead] at hexec
    exact ⟨_, hexec, refuseJob_entryTaken hs hbad (by decide) ha⟩
  case hostGraphUnread =>
    rw [fetchGraph_of_host_error hd hh ((turned_readSpace hs ..).trans hg), atHead] at hexec
    exact ⟨_, hexec, refuseJob_fetchFault hs (by decide) (by decide) none⟩
  case deviceGraphUnread =>
    rw [fetchGraph_of_device_error hd hh ((turned_graphErr ..).trans hg), atHead] at hexec
    exact ⟨_, hexec, refuseJob_fetchFault hs err.status_ne_done (by decide) (some err)⟩
  intro es
  rw [fetchGraph_of_read hd (fun hh => (turned_graphErr ..).trans (hg hh)) ((turned_readSpace hs ..).trans hread)] at hexec
  refine ⟨fun hbad => ?graphRefused, fun hgood => ?accepted⟩
  case graphRefused =>
    have few : es.length < 2 ^ 16 := by
      rw [List.length_map]
      exact (chunksOf_length_le ..).trans_lt (seOpCount_lt e)
    rw [accept_of_refused hbad, atHead] at hexec
    exact ⟨_, hexec, refuseJob_entryTaken hs hbad (graphStatus_origin_lt few) ha⟩
  case accepted =>
    rw [accept_of_done hgood, atHead] at hexec
    obtain ⟨hjobs, hnext, hregs, hmem, hhost, htiles, hpassed, hturn, hlast⟩ := acceptJob_entryTaken (e := e) (es := es) hs ha
    refine ⟨_, _, hexec, hjobs, hnext, rfl, rfl, rfl, rfl, rfl, rfl, rfl, ops_newJob (s.turned p n) p n head e es, hregs, hmem, hhost, htiles, hpassed, hturn, hlast, fun hc => ?_, fun hc => ?_⟩
    · obtain ⟨hzero, hparts⟩ := acceptJob_entryTaken_plain (p := p) (n := n) (es := es) hs hc
      exact ⟨congrArg Prod.fst hzero, congrArg Prod.snd hzero, hparts⟩
    · exact latch_entryTaken hs hc

end Sys2Proof.Machine
end
section
/-! A BFV product on one limb (R284) whose last transform reads a twiddle table that does not match `OMEGA`: its limb is unspecified (R72, R87), so the operands do not decide it. -/
namespace Sys2Proof.Machine

/-! ### Unspecified residues -/

theorem drawBelow_fst (s : State) (m n : Nat) : (s.drawBelow m n).1 = (List.range n).map (fun i => Config.free (s.fresh + i) % m) := by
  induction n generalizing s with
  | zero => rfl
  | succ n ih =>
    rw [List.range_succ_eq_map, List.map_cons, List.map_map]
    change Config.free s.fresh % m :: (s.draw.2.drawBelow m n).1 = _
    rw [ih]
    simp only [State.draw, Function.comp_def, Nat.add_zero, Nat.succ_eq_add_one, Nat.add_assoc, Nat.add_comm 1]

/-- A transform whose table does not match `OMEGA` gives free values, whatever limb it is given. -/
theorem engTransform_of_mismatch {s v : State} {r : Bool × State} {p t n : Nat} {e : PrimeEntry} {fwd : Bool} {xs ys : List Nat}
    (hr : s.twiddles p t e n fwd = .ok r) (hbad : r.1 = false) (h : engTransform p t e n fwd xs s = .ok ys v) :
    ys = (List.range (2 ^ n)).map (fun i => Config.free (r.2.fresh + i) % e.q) := by
  obtain ⟨good, u⟩ := r
  obtain rfl : good = false := hbad
  have htransform : s.transform p t e n fwd xs = .ok (u.drawBelow e.q (2 ^ n)) := by rw [State.transform, hr]
  unfold engTransform at h
  rw [htransform] at h
  dsimp only at h
  split at h
  · cases h
  · split at h
    · cases h
      exact drawBelow_fst ..
    · cases h

/-! ### The course of a BFV product -/

theorem mapM_cons_ok {α β : Type} {m : α → Eng β} {a : α} {l : List α} {bs : List β} {s t : State} (h : (a :: l).mapM m s = .ok bs t) :
    ∃ b u cs, m a s = .ok b u ∧ bs = b :: cs := by
  rw [List.mapM_cons] at h
  obtain ⟨b, u, hb, h⟩ := bind_eq_ok h
  obtain ⟨cs, v, -, h⟩ := bind_eq_ok h
  cases h
  exact ⟨b, u, cs, hb, rfl⟩

theorem ntt_singleton_ok {x : Run} {fwd : Bool} {e : Nat} {l : List Nat} {ls : Limbs} {s t : State} (h : x.ntt fwd [e] [l] s = .ok ls t) :
    ∃ y u ys, engTransform x.p (x.tileOf e) (s.prime x.p x.c e) x.n fwd l s = .ok y u ∧ ls = y :: ys := by
  obtain ⟨y, u, ys, hy, hls⟩ := mapM_cons_ok (a := (e, l)) (l := []) h
  obtain ⟨entry, v, hentry, hy⟩ := bind_eq_ok hy
  cases hentry
  exact ⟨y, u, ys, hy, hls⟩

/-- The entries of a run's special primes. -/
def Run.special (x : Run) : List Nat := (List.range x.h.k).map (· + 64)

/-- The primes of entries, as a run that starts in `s` reads them. -/
def Run.primesIn (x : Run) (s : State) (es : List Nat) : List Nat := es.map (fun e => (s.prime x.p x.c e).q)

/-- Step 1 of R284 on one component: its limbs, and those of its exact centred lift. -/
def Run.extend (x : Run) (l : Nat) (qs ps : List Nat) (ls : Limbs) : Eng Limbs := do
  let c ← x.ntt false (List.range l) ls
  return ls ++ (← x.ntt true x.special (ps.map (fun q => (crtLimbs qs c).map (toMod q))))

/-- Steps 1 and 2 of R284: the tensor product in the extended basis. -/
def Run.extendedProduct (x : Run) (l : Nat) (qs ps : List Nat) (a b : CtData) : Eng CtData := do
  let a' ← (a.map (·.take l)).mapM (x.extend l qs ps)
  let b' ← (b.map (·.take l)).mapM (x.extend l qs ps)
  tensorCt x (List.range l ++ x.special) a' b'

/-- Step 3 of R284 on one component: scaled, rounded, and back on the ciphertext limbs. -/
def Run.scaleDown (x : Run) (l : Nat) (qs ps : List Nat) (ls : Limbs) : Eng Limbs := do
  let c ← x.ntt false (List.range l ++ x.special) ls
  x.ntt true (List.range l) (qs.map (fun q => ((crtLimbs (qs ++ ps) c).map (scaleRound x.h.t (prodOf qs))).map (toMod q)))

/-- A BFV product is its three steps. -/
theorem mulBfv_ok {x : Run} {l : Nat} {a b d : CtData} {s u : State} (h : mulBfv x l a b s = .ok d u) :
    ∃ ts v, x.extendedProduct l (x.primesIn s (List.range l)) (x.primesIn s x.special) a b s = .ok ts v ∧
      ts.mapM (x.scaleDown l (x.primesIn s (List.range l)) (x.primesIn s x.special)) v = .ok d u := by
  obtain ⟨qs, _, hqs, h⟩ := bind_eq_ok h
  cases hqs
  obtain ⟨ps, _, hps, h⟩ := bind_eq_ok h
  cases hps
  obtain ⟨a', s₁, ha, h⟩ := bind_eq_ok h
  obtain ⟨b', s₂, hb, h⟩ := bind_eq_ok h
  obtain ⟨ts, v, hts, h⟩ := bind_eq_ok h
  exact ⟨ts, v, (bind_of_ok ha).trans ((bind_of_ok hb).trans hts), h⟩

/-- On one limb, the limb written comes from a transform forward in the state that the transform back leaves. -/
theorem scaleDown_one_ok {x : Run} {q : Nat} {ps : List Nat} {ls limbs : Limbs} {s u : State} (h : x.scaleDown 1 [q] ps ls s = .ok limbs u) :
    ∃ c v xs y w ys, x.ntt false (List.range 1 ++ x.special) ls s = .ok c v ∧
      engTransform x.p (x.tileOf 0) (v.prime x.p x.c 0) x.n true xs v = .ok y w ∧ limbs = y :: ys := by
  obtain ⟨c, v, hc, h⟩ := bind_eq_ok h
  obtain ⟨y, w, ys, hy, hlimbs⟩ := ntt_singleton_ok h
  exact ⟨c, v, _, y, w, ys, hc, hy, hlimbs⟩

/-- A product on one limb, up to the transform that gives the limb of its component 0. -/
def Run.beforeLast (x : Run) (a b : CtData) (s : State) : Eng Limbs := do
  let ts ← x.extendedProduct 1 (x.primesIn s [0]) (x.primesIn s x.special) a b
  x.ntt false (List.range 1 ++ x.special) (ts.headD [])

/-- If the twiddle table of that transform does not match, the limb is unspecified. -/
theorem mulBfv_of_mismatch {x : Run} {a b d : CtData} {c : Limbs} {s u v : State} {r : Bool × State} (h : mulBfv x 1 a b s = .ok d u) (hd : 0 < d.length)
    (hbefore : x.beforeLast a b s s = .ok c v) (hr : v.twiddles x.p (x.tileOf 0) (v.prime x.p x.c 0) x.n true = .ok r) (hbad : r.1 = false) :
    (d.getD 0 []).getD 0 [] = (List.range (2 ^ x.n)).map (fun i => Config.free (r.2.fresh + i) % (v.prime x.p x.c 0).q) := by
  obtain ⟨ts, w, hts, hmap⟩ := mulBfv_ok h
  rw [List.range_one] at hts hmap
  have hback := (bind_of_ok hts).symm.trans hbefore
  cases ts with
  | nil =>
    cases hmap
    exact absurd hd (Nat.lt_irrefl 0)
  | cons ls rest =>
    obtain ⟨limbs, u₁, others, hlimbs, rfl⟩ := mapM_cons_ok hmap
    obtain ⟨coeffs, v', xs, y, w, ys, hcoeffs, hy, rfl⟩ := scaleDown_one_ok hlimbs
    obtain ⟨-, rfl⟩ := EStateM.Result.ok.inj (hcoeffs.symm.trans hback)
    rw [List.getD_cons_zero, List.getD_cons_zero, engTransform_of_mismatch hr hbad hy]

/-! ### Work that the model evaluates -/

/-- What engine work gives and leaves, if it goes through. -/
def completion {α : Type} (m : Eng α) (s : State) : Option (α × State) :=
  match m s with
  | .ok a t => some (a, t)
  | .error _ _ => none

theorem ok_of_completion {α : Type} {m : Eng α} {s : State} {p : α × State → Bool} (h : (completion m s).any p = true) : ∃ a t, m s = .ok a t ∧ p (a, t) = true := by
  unfold completion at h
  split at h
  · next a t hm => exact ⟨a, t, hm, h⟩
  · cases h

theorem ok_of_toOption {ε α : Type} {e : Except ε α} {p : α → Bool} (h : e.toOption.any p = true) : ∃ a, e = .ok a ∧ p a = true := by
  cases e with
  | error => cases h
  | ok a => exact ⟨a, rfl, h⟩

/-! ### The counterexample -/

/-- A chain for N = 4 over the prime 17, its twiddle table at 0x1_0000_4000, with the special prime 97, which has no table; t = 5. -/
def tabledChain : Tab Word32 :=
  [(mtKey 0 0 0, 17), (mtKey 0 0 2, 0xD0000), (mtKey 0 0 3, 0x2000000), (mtKey 0 0 6, 0x400000), (mtKey 0 0 7, 0x100),
    (mtKey 0 64 0, 97), (mtKey 0 64 2, 0x490000), (mtKey 0 64 3, 0x21000000), (mtKey 0 127 0, 0x80010102), (mtKey 0 127 1, 5)]

/-- Partition 0 with that chain. The inverse half of the table stands in memory, the forward half is zero; at 0x1_0000_1000 stands a limb of four residues 2. -/
def tabled : State :=
  let s : State := { State.reset with parts := [(0, { bundlePart with mtActive := tabledChain })] }
  let s := (s.setReg (.glob (.ptRoot 0)) (BitVec.ofNat 32 (tableBase 0 / 4096))).writeTables 0 [] bundlePart.map
  (s.storePhys 0x4001000 ((List.replicate 4 (leBytes 8 2)).flatten)).storePhys 0x4004020 ((twiddleWords 17 2 2 false).flatMap (leBytes 8))

/-- A BFV ciphertext over those primes, at 0x1_0000_0000 for c = 0 and at 0x1_0000_1000 for c = 1: the constant 2c in component 0, and 0 in component 1. -/
def constantHeader (c : Nat) : Header :=
  BitVec.ofNat 512 (2 + 2 * 4 + 2 * 128 + 512 + 2 ^ 28 + 2 ^ 29 + (0x100000000 + 0x1000 * c) * 2 ^ 256 + 64 * 2 ^ 304 + 0x100002000 * 2 ^ 336 + 64 * 2 ^ 384)
/-- Its residues, in evaluation form. -/
def constantData (c : Nat) : CtData := [[List.replicate 4 (2 * c)], [List.replicate 4 0]]
/-- The integers that a constant `v` in component 0 stands for. -/
def constantCoefs (v : Int) (k e : Nat) : Int := if k = 0 ∧ e = 0 then v else 0

/-- Its square, on tile 0. -/
def squareOp (c : Nat) : OpRec := { idx := c, entry := 0, hdrA := constantHeader c, hdrB := constantHeader c, tiles := [0] }
def squareJob : Job := { id := 0, part := 0, ring := 0, sqIndex := 0, entry := 0, ops := [squareOp 0, squareOp 1] }
/-- Where both squares compute. -/
def squareRun : Run := runAt tabled squareJob (squareOp 0) 0

theorem runAt_squareOp (c : Nat) : runAt tabled squareJob (squareOp c) 0 = squareRun := by simp only [squareRun, runAt, squareOp]

theorem squareRun_n : squareRun.n = 2 := by decide +kernel

theorem squareOp_handles : ∀ c < 2, oeA (squareOp c).entry = 0 ∧ oeB (squareOp c).entry = 0 := by decide +kernel

theorem constantHeader_fields : ∀ c < 2, hChain (constantHeader c) = 0 ∧ hLevel (constantHeader c) = 1 ∧ compCount (hComps (constantHeader c)) = 2 ∧
    hScheme (constantHeader c) = 2 ∧ hN (constantHeader c) = 2 ^ squareRun.n := by decide +kernel

/-- Both squares come to their last transform with the forward half of the table, which does not match, and with no free value used. -/
theorem square_beforeLast : ∀ c < 2, (completion (squareRun.beforeLast (constantData c) (constantData c) tabled) tabled).any (fun r =>
    let e := r.2.prime squareRun.p squareRun.c 0
    decide (e.q = 17) && (r.2.twiddles squareRun.p (squareRun.tileOf 0) e squareRun.n true).toOption.any (fun r => decide (r.1 = false) && decide (r.2.fresh = 0))) = true := by
  decide +kernel

section
variable {c : Nat} (hc : c < 2)
include hc

theorem readCt_constantHeader : readCt squareRun 0 (constantHeader c) 2 1 tabled = .ok (constantData c) tabled := by
  have hread : ∀ c < 2, (completion (readCt squareRun 0 (constantHeader c) 2 1) tabled).any (fun r => decide (r.1 = constantData c) && decide (r.2 = tabled)) = true := by
    decide +kernel
  obtain ⟨a, t, hok, h⟩ := ok_of_completion (hread c hc)
  simp only [Bool.and_eq_true, decide_eq_true_eq] at h
  obtain ⟨rfl, rfl⟩ := h
  exact hok

theorem mulBfv_square_completes : ∃ d u, mulBfv squareRun 1 (constantData c) (constantData c) tabled = .ok d u := by
  have hmul : ∀ c < 2, (completion (mulBfv squareRun 1 (constantData c) (constantData c)) tabled).any (fun _ => true) = true := by decide +kernel
  obtain ⟨d, u, hok, -⟩ := ok_of_completion (hmul c hc)
  exact ⟨d, u, hok⟩

variable {d : CtData} {u : State} (hd : mulBfv squareRun 1 (constantData c) (constantData c) tabled = .ok d u)
include hd

/-- So the limb of component 0 is the same four free values for both. -/
theorem mulBfv_square_firstLimb (hlen : 0 < d.length) : (d.getD 0 []).getD 0 [] = (List.range 4).map (fun i => Config.free (0 + i) % 17) := by
  obtain ⟨_, v, hbefore, h⟩ := ok_of_completion (square_beforeLast c hc)
  simp only [Bool.and_eq_true, decide_eq_true_eq] at h
  obtain ⟨hq, htable⟩ := h
  obtain ⟨r, hr, h⟩ := ok_of_toOption htable
  simp only [Bool.and_eq_true, decide_eq_true_eq] at h
  obtain ⟨hbad, hfresh⟩ := h
  have hlimb := mulBfv_of_mismatch hd hlen hbefore hr hbad
  rwa [squareRun_n, hq, hfresh] at hlimb

/-- The statement asks for the transform of c there: A = B = 2c, T = 4c, and c is nearest to 5 · 4c / 17. -/
theorem firstLimb_of_arithmeticOpsCompute (h : Obligations.ArithmeticOpsCompute) : d.length = 3 ∧ (d.getD 0 []).getD 0 [] = nttForward 17 2 2 [c, 0, 0, 0] := by
  obtain ⟨hchain, hlevel, hcomps, hscheme, hn⟩ := constantHeader_fields c hc
  obtain ⟨hhandleA, hhandleB⟩ := squareOp_handles c hc
  have hread := readCt_constantHeader hc
  have hA : (squareOp c).hdrA = constantHeader c := rfl
  have hB : (squareOp c).hdrB = constantHeader c := rfl
  have claim := h squareJob (squareOp c) (constantData c) (constantData c) tabled
  dsimp only at claim
  rw [hA, hB, hchain, hlevel, hcomps, hscheme, runAt_squareOp, hhandleA, hhandleB, Nat.min_self] at claim
  obtain ⟨-, hbinary⟩ := claim hn
  obtain ⟨-, -, -, hbfv⟩ := hbinary hn hread hread
  obtain ⟨-, ⟨hlen, -⟩, hvalue⟩ := hbfv rfl rfl rfl d u hd
  refine ⟨hlen, (hvalue ?primes ?apart (constantCoefs (2 * c)) (constantCoefs (2 * c)) (constantCoefs (4 * c)) (constantCoefs c)
    ?coefsA ?coefsB ?coefsT ?coefsR 0 (by decide) 0 (by decide)).trans ?limb⟩
  case primes | apart => decide +kernel
  all_goals
    obtain rfl | rfl : c = 0 ∨ c = 1 := by omega
    all_goals decide +kernel

end

/-- Refutes O31: its clause on BFV leaves out that the twiddle tables match. Where the table of a ciphertext prime has other words, the results of the transform that
writes a limb are unspecified (R72, R87): here they are the same free values for the square of 0 and for that of 2, whose limbs the clause wants to differ. -/
theorem not_arithmeticOpsCompute : ¬ Obligations.ArithmeticOpsCompute := by
  intro h
  have hfree {c : Nat} (hc : c < 2) : nttForward 17 2 2 [c, 0, 0, 0] = (List.range 4).map (fun i => Config.free (0 + i) % 17) := by
    obtain ⟨d, u, hd⟩ := mulBfv_square_completes hc
    obtain ⟨hlen, hlimb⟩ := firstLimb_of_arithmeticOpsCompute hc hd h
    exact hlimb.symm.trans (mulBfv_square_firstLimb hc hd (by omega))
  have hsame : nttForward 17 2 2 [0, 0, 0, 0] = nttForward 17 2 2 [1, 0, 0, 0] := (hfree (by decide)).trans (hfree (by decide)).symm
  exact absurd hsame (by decide +kernel)

end Sys2Proof.Machine
end
section
/-! The tenant cores of a partition: what STOP_ALL does besides (R320), and how a suspended hart goes on (R318). -/
namespace Sys2Proof.Machine

variable {s : State}

/-! ### STOP_ALL (R320) -/

/-- The cores stop. Besides the harts and the reservations that changes the count of the walks that a running core has made (counter 0x28 of R398, log entry 16). -/
theorem stopCores_eq (s : State) (p : Nat) : ∃ u, (u = s ∨ (s.part p).coresRun = true ∧ u = s.addUnseen p [0x28]) ∧ s.stopCores p =
    { u.updPart p (fun x => { x with harts := x.harts.map Hart.resetOf }) with reservations := s.reservations.filter (fun r => decide (r.2.1 ≠ p)) } := by
  unfold State.stopCores
  dsimp only
  split
  next h => exact ⟨_, .inr ⟨h, rfl⟩, rfl⟩
  next => exact ⟨_, .inl rfl, rfl⟩

/-- While no core runs, STOP_ALL does what O24 says of it. -/
theorem stopCores_of_stopped {p : Nat} (h : (s.part p).coresRun = false) : s.stopCores p =
    { s.updPart p (fun x => { x with harts := x.harts.map Hart.resetOf }) with reservations := s.reservations.filter (fun r => decide (r.2.1 ≠ p)) } := by
  obtain ⟨u, rfl | ⟨hr, -⟩, e⟩ := stopCores_eq s p
  · exact e
  · rw [h] at hr
    cases hr

/-- Partition 0 is ACTIVE with one hart, which runs on its core. -/
def oneCore : State := { State.reset with
  power := { State.reset.power with state := .m0, runtimeReady := true }
  parts := [(0, { state := .active, quads := [0], harts := [{ phys := some 2, state := .running }] })] }

theorem oneCore_open : oneCore.viewOpen .operator (0 : Fin 64) = true := by decide +kernel

/-- Its STOP_ALL draws a free value. -/
theorem oneCore_draws : (oneCore.stopCores (0 : Fin 64)).fresh = 1 := by decide +kernel

/-- Refutes O24: STOP_ALL of a partition with a running core also counts, by a free amount, the walks that the core has made (counter 0x28 of R398, log entry 16), and
uses up a free value for it. The clause leaves that out; where no core runs it holds (`stopCores_of_stopped`). -/
theorem not_coresStartAndStop : ¬ Obligations.CoresStartAndStop := by
  unfold Obligations.CoresStartAndStop
  intro h
  obtain ⟨-, -, -, hstop⟩ := h .operator 0 oneCore oneCore_open
  have hexec : exec (.coreStopAll .operator 0) oneCore = .next (oneCore.stopCores (0 : Fin 64)) := congrArg Host.Outcome.next (if_pos oneCore_open)
  have hfresh : (oneCore.stopCores (0 : Fin 64)).fresh = 0 := congrArg State.fresh (Host.Outcome.next.inj (hexec.symm.trans hstop))
  rw [oneCore_draws] at hfresh
  cases hfresh

/-! ### A suspended hart goes on (log entry 14) -/

/-- A suspended hart with an interrupt pending goes on where it stopped, whatever resume address its suspension gave: `Hart.wake` looks for the address in the hart
whose `resume` it has just cleared. -/
theorem wake_eq (v : Nat) {h : Hart} (hsusp : h.state = .suspended) (hpend : (h.timerPending || h.softPending || h.extPending) = true) :
    h.wake v = { h with state := if h.core.isSome then .running else .waitingForCore, resume := none } :=
  if_pos ⟨hsusp, hpend⟩

/-- A hart suspended without its registers, to resume at address 4 with argument 5; a software interrupt is pending. -/
def sleeper : Hart := { phys := some 2, state := .suspended, softPending := true, resume := some (4, 5) }

/-- Refutes O23: a suspended hart whose suspension kept no registers does not go on at its resume address. The hart `sleeper` wakes at address 0 (`wake_eq`), where its
suspension (SUSPEND of kind 0x80000000) asked for address 4. -/
theorem not_sbiCallsAnswer : ¬ Obligations.SbiCallsAnswer := by
  unfold Obligations.SbiCallsAnswer
  rintro ⟨-, -, hwake⟩
  obtain ⟨-, hgoes⟩ := hwake 0 sleeper
  obtain ⟨-, -, -, hresumed⟩ := hgoes rfl rfl
  obtain ⟨hentry, -⟩ := hresumed 4 5 rfl
  rw [wake_eq 0 rfl rfl] at hentry
  exact absurd hentry (by decide)

end Sys2Proof.Machine
end
section
/-! Loads, stores and fetches of a core within one line (R318, R319): the VS stage, the translation of the partition, and what each of them leaves. -/
namespace Sys2Proof.Machine

variable {s t u : State} {p vh : Nat}

/-! ### The VS stage (log entry 82) -/

theorem vsLeaf_mod {c : VsContext} {k : VsKind} {va l e g : Nat} (h : vsLeaf c k va l e = some g) : g % 4096 = va % 4096 := by
  have page (m : Nat) : va % 2 ^ (12 + m) % 4096 = va % 4096 := Nat.mod_mod_of_dvd va (Nat.pow_dvd_pow 2 (Nat.le_add_right 12 m))
  unfold vsLeaf at h
  dsimp only at h
  split at h
  · cases h
  · have small := page 4
    have large := page (9 * l)
    split at h <;> cases h <;> omega

/-- The VS stage keeps the offset within a page. -/
theorem vsWalk_mod {c : VsContext} {k : VsKind} {va l a g : Nat} (h : s.vsWalk p vh c k va l a = .ok (g, u)) : g % 4096 = va % 4096 := by
  induction l generalizing s a with
  | zero =>
    unfold State.vsWalk at h
    split at h
    · cases h
    · dsimp only at h
      split at h
      · cases h
      · split at h
        · split at h
          next hleaf => cases h; exact vsLeaf_mod hleaf
          · cases h
        · split at h <;> cases h
  | succ l ih =>
    unfold State.vsWalk at h
    split at h
    · cases h
    · dsimp only at h
      split at h
      · cases h
      · split at h
        · split at h
          next hleaf => cases h; exact vsLeaf_mod hleaf
          · cases h
        · split at h
          · cases h
          · exact ih h

theorem vsAddr_mod {k : VsKind} {va g : Nat} (h : s.vsAddr p vh k va = .ok (g, u)) : g % 4096 = va % 4096 := by
  unfold State.vsAddr at h
  dsimp only at h
  split at h
  · split at h
    · exact vsWalk_mod h
    · cases h
  · split at h
    · exact vsWalk_mod h
    · cases h
  · cases h; rfl

/-! The walk reads through the cache of the core's die: it leaves the partitions. -/

theorem cacheTouch_parts (s : State) (x : CacheUser) (d line : Nat) : (s.cacheTouch x d line).parts = s.parts := by
  unfold State.cacheTouch
  dsimp only
  split <;> rfl

theorem keepLeaf_parts (s : State) (p d va : Nat) : (s.keepLeaf p d va).parts = s.parts := by
  unfold State.keepLeaf
  split <;> rfl

/-- An access that completes leaves the partitions of `s`. -/
abbrev PartsLeft {ε α : Type} (s : State) (r : Except ε (α × State)) : Prop := LeftOk (fun t => t.parts = s.parts) Prod.snd r

theorem partsLeft_cachedRead (ht : t.parts = s.parts) (x : CacheUser) (d : Option Nat) (pa va len : Nat) : PartsLeft s (t.cachedRead x d pa va len) := by
  unfold State.cachedRead
  dsimp only
  split
  · split
    · trivial
    · exact (cacheTouch_parts ..).trans ht
  · split
    · trivial
    · exact ht

theorem partsLeft_coreRead (ht : t.parts = s.parts) (p vh a n : Nat) : PartsLeft s (t.coreRead p vh a n) := by
  refine LeftOk.foldl (P := fun t => t.parts = s.parts) (r := Except.ok (_, t)) (left := Prod.snd) ht _ fun r x hr => ?_
  obtain ⟨a, len⟩ := x
  dsimp only
  split
  · trivial
  next bs v =>
    have hv : v.parts = s.parts := hr
    split
    · trivial
    · split
      · trivial
      next e =>
        have hread := (partsLeft_cachedRead hv ..).of_ok e
        split
        · exact (keepLeaf_parts ..).trans hread
        · exact hread

theorem partsLeft_vsWalk (ht : t.parts = s.parts) (p vh : Nat) (c : VsContext) (k : VsKind) (va l a : Nat) : PartsLeft s (t.vsWalk p vh c k va l a) := by
  induction l generalizing t a with
  | zero =>
    unfold State.vsWalk
    split
    · trivial
    next e =>
      dsimp only
      split
      · trivial
      · split
        · split
          · exact (partsLeft_coreRead ht ..).of_ok e
          · trivial
        · split <;> trivial
  | succ l ih =>
    unfold State.vsWalk
    split
    · trivial
    next e =>
      dsimp only
      split
      · trivial
      · split
        · split
          · exact (partsLeft_coreRead ht ..).of_ok e
          · trivial
        · split
          · trivial
          · exact ih ((partsLeft_coreRead ht ..).of_ok e) _

theorem vsAddr_parts {k : VsKind} {va g : Nat} (h : s.vsAddr p vh k va = .ok (g, u)) : u.parts = s.parts := by
  have left : PartsLeft s (s.vsAddr p vh k va) := by
    unfold State.vsAddr
    dsimp only
    split
    · split
      · exact partsLeft_vsWalk rfl ..
      · trivial
    · split
      · exact partsLeft_vsWalk rfl ..
      · trivial
    · rfl
  exact left.of_ok h

/-- The core whose access the VS stage has translated is on the site that it was on. -/
theorem vsAddr_hartSite {k : VsKind} {va g : Nat} (h : s.vsAddr p vh k va = .ok (g, u)) : u.hartSite p vh = s.hartSite p vh := by
  unfold State.hartSite State.hart? State.part
  rw [vsAddr_parts h]

/-! ### An access within a page of the VS stage -/

theorem vsStage_of_page {k : VsKind} {va g n : Nat} (h : s.vsAddr p vh k va = .ok (g, u)) (hn : n ≤ 4096 - va % 4096) :
    s.vsStage p vh k va n = .ok ([(g, n)], u) := by
  simp only [State.vsStage, h]
  exact if_pos (.inl hn)

theorem vsStage_of_stopped {k : VsKind} {va n : Nat} {e : VsErr} (h : s.vsAddr p vh k va = .error e) : s.vsStage p vh k va n = .error e := by
  simp only [State.vsStage, h]

section
variable {p : Fin 64} {va g : Nat} {a : CoreAccess} (hr : s.coreRuns p vh = true) (ha : ∀ c, a ≠ .context c)
include hr ha

/-- An access that the VS stage translates goes on at the guest physical address. -/
theorem coreAccess_of_page (h : s.vsAddr p vh (accessKind a).1 va = .ok (g, u)) (hn : (accessKind a).2 ≤ 4096 - va % 4096) :
    s.coreAccess p vh a va = u.guestAccess p vh a g := by
  have stage := vsStage_of_page h hn
  cases a with
  | context c => exact absurd rfl (ha c)
  | fetch | load | store =>
    simp only [State.coreAccess, hr]
    simp only [stage]
    rfl

/-- One that the VS stage stops raises its fault. -/
theorem coreAccess_of_stopped {e : VsErr} (h : s.vsAddr p vh (accessKind a).1 va = .error e) : s.coreAccess p vh a va = s.vsFault p vh (accessKind a).1 e := by
  have stage := vsStage_of_stopped (n := (accessKind a).2) h
  cases a with
  | context c => exact absurd rfl (ha c)
  | fetch | load | store =>
    simp only [State.coreAccess, hr]
    simp only [stage]
    rfl

end

/-- A context change passes no translation. -/
theorem coreAccess_context {p : Fin 64} (hr : s.coreRuns p vh = true) (c : VsContext) (va : Nat) : s.coreAccess p vh (.context c) va = s.setVs p vh c := by
  simp only [State.coreAccess, hr]
  rfl

/-- An address outside the register image is one of device memory. -/
theorem guestAccess_of_device {p : Fin 64} {g : Nat} (hg : ¬ (imageBase ≤ g ∧ g < imageBase + 0x10000)) (s : State) (vh : Nat) :
    s.guestAccess p vh .fetch g = s.coreFetch p vh g ∧ (∀ n, s.guestAccess p vh (.load n) g = s.coreLoad p vh g n) ∧
    ∀ n v, s.guestAccess p vh (.store n v) g = s.coreStore p vh g n v :=
  ⟨if_neg hg, fun _ => if_neg hg, fun _ _ => if_neg hg⟩

/-! ### An access within a line -/

section
variable {g n pa : Nat} (hn : 0 < n) (hline : g % 64 + n ≤ 64)
include hn hline

/-- A read whose address does not translate. -/
theorem coreRead_of_fault {f : XFault} (hx : u.xlate p g .read (u.hartSite p vh) = .error f) : u.coreRead p vh g n = .error (.fault f) := by
  unfold State.coreRead State.cachedVA
  rw [pieces_of_line hn hline]
  simp only [List.foldl_cons, List.foldl_nil, hx]

/-- A read of a line that can be read gives its bytes, and changes the caches alone. -/
theorem coreRead_of_readable (hu : s.CachesOnly u) (hx : u.xlate p g .read (u.hartSite p vh) = .ok pa) (hb : s.lineBad (pa / 64) = false) :
    ∃ t, s.CachesOnly t ∧ u.coreRead p vh g n = .ok (s.readPhys pa n, t) := by
  have hval : ∃ t, u.coreRead p vh g n = .ok (u.readPhys pa n, t) := by
    unfold State.coreRead State.cachedVA State.cachedRead
    rw [pieces_of_line hn hline]
    simp [hx, hu.lineBad, hb]
  obtain ⟨t, ht⟩ := hval
  exact ⟨t, (hu.coreRead ..).of_ok ht, by rw [ht, hu.readPhys]⟩

theorem xlateWrite_of_fault {k : Access} {unit : Option Nat} {f : XFault} (hx : u.xlate p g k unit = .error f) (v : Nat) :
    u.xlateWrite p g (leBytes n v) k unit = .error f := by
  unfold State.xlateWrite
  rw [leBytes_length, pieces_of_line hn hline]
  simp only [List.foldl_cons, List.foldl_nil, hx]

theorem xlateWrite_of_line {k : Access} {unit : Option Nat} (hx : u.xlate p g k unit = .ok pa) (v : Nat) :
    u.xlateWrite p g (leBytes n v) k unit = .ok [(pa, leBytes n v)] := by
  unfold State.xlateWrite
  rw [leBytes_length, pieces_of_line hn hline]
  simp [hx, List.take_of_length_le, leBytes_length]

theorem coreStore_of_fault {f : XFault} (hx : u.xlate p g .write (u.hartSite p vh) = .error f) (v : BitVec 64) :
    u.coreStore p vh g n v = u.coreFault p vh 7 f := by
  rw [State.coreStore, xlateWrite_of_fault hn hline hx]

/-- A store that translates is written through; the copy in the core's own die cache stays (R220). -/
theorem coreStore_of_xlate (hx : u.xlate p g .write (u.hartSite p vh) = .ok pa) (v : BitVec 64) :
    u.coreStore p vh g n v = (u.coreLeaf p vh g n).storePhys pa (leBytes n v.toNat) ((u.coreLeaf p vh g n).hartSite p vh) := by
  rw [State.coreStore, xlateWrite_of_line hn hline hx]
  rfl

end

/-! ### Loads, stores and fetches -/

variable {p : Fin 64} {h : Hart} {n g pa : Nat}

theorem in_line_of_page {va : Nat} (hn : n = 1 ∨ n = 2 ∨ n = 4 ∨ n = 8) (ha : va % n = 0) (hg : g % 4096 = va % 4096) :
    0 < n ∧ n ≤ 4096 - va % 4096 ∧ g % 64 + n ≤ 64 := by
  obtain rfl | rfl | rfl | rfl := hn <;> omega

/-- What a load or a fetch at an address does once the VS stage has translated it, told of the state before. -/
theorem exec_access_of_vsAddr (hr : s.coreRuns p vh = true) (a : CoreAccess) (ha : ∀ c, a ≠ .context c) {va : BitVec 64}
    (hv : s.vsAddr p vh (accessKind a).1 va.toNat = .ok (g, u)) (hn : (accessKind a).2 ≤ 4096 - va.toNat % 4096) :
    exec (.coreMemoryAccess p vh a va) s = .next (u.guestAccess p vh a g) :=
  congrArg Host.Outcome.next (coreAccess_of_page hr ha hv hn)

theorem exec_access_of_page_fault (hr : s.coreRuns p vh = true) (a : CoreAccess) (ha : ∀ c, a ≠ .context c) {va : BitVec 64}
    (hv : s.vsAddr p vh (accessKind a).1 va.toNat = .error .page) :
    exec (.coreMemoryAccess p vh a va) s = .next (s.updHart p vh (fun x => { x with fault := some (accessKind a).1.pageCause })) :=
  congrArg Host.Outcome.next (coreAccess_of_stopped hr ha hv)

/-- A load within a line that can be read returns its bytes and changes the hart and the caches alone. -/
theorem coreLoad_of_readable (hu : s.CachesOnly u) (hh : s.hart? p vh = some h) (hn : 0 < n) (hline : g % 64 + n ≤ 64)
    (hx : u.xlate p g .read (s.hartSite p vh) = .ok pa) (hb : s.lineBad (pa / 64) = false) :
    let t := u.coreLoad p vh g n
    t.hart? p vh = some { h with rd := BitVec.ofNat 64 (leNat (s.readPhys pa n)) } ∧ t.mem = s.mem ∧ t.regs = s.regs ∧ ∀ q : Nat, q ≠ p.val → t.part q = s.part q := by
  obtain ⟨t, ht, hread⟩ := coreRead_of_readable hn hline hu ((hu.hartSite ..).symm ▸ hx) hb
  have hload : u.coreLoad p vh g n = t.coreReturn p vh (BitVec.ofNat 64 (leNat (s.readPhys pa n))) := by rw [State.coreLoad, hread]
  intro t'
  rw [show t' = _ from hload]
  exact ⟨hart?_updHart_same ht.inv ((ht.hart? ..).trans hh) _, ht.mem, ht.regs, fun q hq => (part_updHart_other vh _ hq).trans (ht.part q)⟩

/-- A fetch within a line that can be read changes the caches alone. -/
theorem coreFetch_of_readable (hu : s.CachesOnly u) (hline : g % 64 + 4 ≤ 64)
    (hx : u.xlate p g .read (s.hartSite p vh) = .ok pa) (hb : s.lineBad (pa / 64) = false) : s.CachesOnly (u.coreFetch p vh g) := by
  obtain ⟨t, ht, hread⟩ := coreRead_of_readable (by decide) hline hu ((hu.hartSite ..).symm ▸ hx) hb
  rw [State.coreFetch, hread]
  exact ht

/-- A store within a line writes its bytes, and leaves the partitions and the registers. -/
theorem coreStore_of_writable (hu : s.CachesOnly u) (hn : 0 < n) (hline : g % 64 + n ≤ 64) (hpa : pa % 64 + n ≤ 64)
    (hx : u.xlate p g .write (s.hartSite p vh) = .ok pa) (hf : s.lineFenced (pa / 64) = false) (v : BitVec 64) :
    let t := u.coreStore p vh g n v
    (∀ a : Nat, t.byte a = if pa ≤ a ∧ a < pa + n then BitVec.ofNat 8 (v.toNat / 256 ^ (a - pa)) else s.byte a) ∧ t.parts = s.parts ∧ t.regs = s.regs := by
  have reached : s.CachesOnly (u.coreLeaf p vh g n) := hu.coreLeaf ..
  obtain ⟨hparts, hregs⟩ := storePhys_frame (u.coreLeaf p vh g n) pa (leBytes n v.toNat) ((u.coreLeaf p vh g n).hartSite p vh)
  intro t
  rw [show t = _ from coreStore_of_xlate hn hline ((hu.hartSite ..).symm ▸ hx) v]
  refine ⟨fun a => ?_, hparts.trans reached.parts, hregs.trans reached.regs⟩
  rw [byte_storePhys_leBytes reached.inv hn hpa ((reached.lineFenced _).trans hf), reached.byte]

/-- Settles O20. An aligned access stays within a page of the VS stage and within a line, so that it has one piece in each stage of translation. -/
theorem coreAccessesMemory : Obligations.CoreAccessesMemory := by
  unfold Obligations.CoreAccessesMemory
  refine ⟨fun p vh n pa ga g v h s u hs hr hn ha hga => ⟨fun hx hb => ⟨fun hv => ?_, fun h4 hv => ?_⟩, fun hv hx hf hpa => ?_⟩,
    fun p vh n ga g v h f s u hr hn ha hdev => ?_, fun p vh g v h s hr => ?_⟩
  case refine_1 =>
    obtain ⟨hpos, hpage, hline⟩ := in_line_of_page hn ha (vsAddr_mod hv)
    obtain ⟨-, hload, -⟩ := guestAccess_of_device (p := p) (g := ga) (by omega) u vh
    refine ⟨_, exec_access_of_vsAddr hr.1 (.load n) nofun hv hpage, ?_⟩
    rw [hload]
    exact coreLoad_of_readable (((State.CachesOnly.refl hs).vsAddr ..).of_ok hv) hr.2 hpos hline hx hb
  case refine_2 =>
    subst h4
    obtain ⟨-, hpage, hline⟩ := in_line_of_page hn ha (vsAddr_mod hv)
    obtain ⟨hfetch, -⟩ := guestAccess_of_device (p := p) (g := ga) (by omega) u vh
    refine ⟨_, exec_access_of_vsAddr hr.1 .fetch nofun hv hpage, ?_⟩
    rw [hfetch]
    have fetched := coreFetch_of_readable (((State.CachesOnly.refl hs).vsAddr ..).of_ok hv) hline hx hb
    exact ⟨fetched.parts, fetched.mem, fetched.regs⟩
  case refine_3 =>
    obtain ⟨hpos, hpage, hline⟩ := in_line_of_page hn ha (vsAddr_mod hv)
    obtain ⟨-, -, hstore⟩ := guestAccess_of_device (p := p) (g := ga) (by omega) u vh
    refine ⟨_, exec_access_of_vsAddr hr.1 (.store n v) nofun hv hpage, ?_⟩
    rw [hstore]
    obtain ⟨-, -, hpline⟩ := in_line_of_page (g := pa) hn hpa rfl
    exact coreStore_of_writable (((State.CachesOnly.refl hs).vsAddr ..).of_ok hv) hpos hline hpline hx hf v
  case refine_4 =>
    intro fault
    obtain ⟨hfetch, hload, hstore⟩ := guestAccess_of_device (p := p) hdev u vh
    refine ⟨fun hx => ⟨fun hv => ?_, fun h4 hv => ?_⟩, fun hv hx => ?_⟩
    · obtain ⟨hpos, hpage, hline⟩ := in_line_of_page hn ha (vsAddr_mod hv)
      have hread := coreRead_of_fault hpos hline ((vsAddr_hartSite hv).symm ▸ hx)
      rw [exec_access_of_vsAddr hr.1 (.load n) nofun hv hpage, hload, State.coreLoad, hread]
      rfl
    · subst h4
      obtain ⟨hpos, hpage, hline⟩ := in_line_of_page hn ha (vsAddr_mod hv)
      have hread := coreRead_of_fault hpos hline ((vsAddr_hartSite hv).symm ▸ hx)
      rw [exec_access_of_vsAddr hr.1 .fetch nofun hv hpage, hfetch, State.coreFetch, hread]
      rfl
    · obtain ⟨hpos, hpage, hline⟩ := in_line_of_page hn ha (vsAddr_mod hv)
      rw [exec_access_of_vsAddr hr.1 (.store n v) nofun hv hpage, hstore, coreStore_of_fault hpos hline ((vsAddr_hartSite hv).symm ▸ hx)]
      rfl
  case refine_5 =>
    intro mode top stops page
    have hvs : s.vsOf p vh = h.vs := by rw [State.vsOf, hr.2]
    refine ⟨fun h0 k => ?_, fun htop k => ?_, fun hv => exec_access_of_page_fault hr.1 .fetch nofun hv, fun n hv => exec_access_of_page_fault hr.1 (.load n) nofun hv,
      fun n hv => exec_access_of_page_fault hr.1 (.store n v) nofun hv, fun c => ?_⟩
    · have hmode : nbits (s.vsOf p vh).vsatp.toNat 63 60 = 0 := hvs ▸ h0
      simp only [State.vsAddr, hmode]
    · have hmode : nbits (s.vsOf p vh).vsatp.toNat 63 60 = mode := by rw [hvs]
      show s.vsAddr p vh k g.toNat = .error .page
      obtain ⟨h8, hlo, hhi⟩ | ⟨h9, hlo, hhi⟩ := htop
      · simp only [State.vsAddr, hmode, h8]
        exact if_neg (not_or.2 ⟨hlo, hhi⟩)
      · simp only [State.vsAddr, hmode, h9]
        exact if_neg (not_or.2 ⟨hlo, hhi⟩)
    · have hexec : exec (.coreMemoryAccess p vh (.context c) g) s = .next (s.setVs p vh c) := congrArg Host.Outcome.next (coreAccess_context hr.1 c g.toNat)
      simp only [hexec, State.setVs, List.mem_cons, List.not_mem_nil, or_false]

end Sys2Proof.Machine
end
section
/-! The fields of a word (R10): what is read from a field after fields were set. -/
namespace Sys2Proof.Machine

theorem testBit_bits (x : Word32) (hi lo i : Nat) : (bits x hi lo).testBit i = (decide (i < hi + 1 - lo) && x.getLsbD (i + lo)) := by
  rw [bits, Nat.testBit_mod_two_pow, Nat.testBit_div_two_pow, BitVec.testBit_toNat]

/-- A field that was set reads back. -/
theorem bits_setBits_same (x : Word32) {hi lo v : Nat} (h : lo ≤ hi) (hi32 : hi < 32) (hv : v < 2 ^ (hi + 1 - lo)) : bits (setBits x hi lo v) hi lo = v := by
  refine Nat.eq_of_testBit_eq fun i => ?_
  rw [testBit_bits]
  by_cases hin : i < hi + 1 - lo
  · rw [getLsbD_setBits x h (by omega), if_pos ⟨by omega, by omega⟩, Nat.add_sub_cancel]
    simp [hin]
  · have hz : v.testBit i = false := Nat.testBit_lt_two_pow (hv.trans_le (Nat.pow_le_pow_right (by decide) (by omega)))
    simp [hin, hz]

/-- A field reads as before when another one was set. -/
theorem bits_setBits_other (x : Word32) {hi lo hi' lo' : Nat} (h : lo ≤ hi) (hi32 : hi' < 32) (hd : hi < lo' ∨ hi' < lo) (v : Nat) :
    bits (setBits x hi lo v) hi' lo' = bits x hi' lo' := by
  refine Nat.eq_of_testBit_eq fun i => ?_
  rw [testBit_bits, testBit_bits]
  by_cases hin : i < hi' + 1 - lo'
  · rw [getLsbD_setBits x h (by omega), if_neg (by omega)]
  · simp [hin]

end Sys2Proof.Machine
end

section
/-! The commands of partitions (R310 to R316): how each begins and ends, and what CREATE makes. -/
namespace Sys2Proof.Machine

variable {s t u : State}

/-! ### A command begins and ends (R311) -/

/-- The answer to a partition command that came over SMBus (R430). -/
def cmdAnswer (mgmt : Bool) (st : Status) : List Output := if mgmt then [.mgmt 0x20 0 (some st) []] else []

/-- The command in progress on partition `p` has ended with a status: the state is as it was but for the command, its status register and its answer. -/
structure State.CmdEnded (s : State) (p : Nat) (mgmt : Bool) (st : Status) (t : State) : Prop where
  eq : ∃ regs, t = { s with partCmd := none, regs := regs, out := s.out ++ cmdAnswer mgmt st }
  status : bits (t.reg (.glob .partCmdStatus)) 31 16 = st.code
  last : p < 64 → bits (t.reg (.glob .partCmdStatus)) 13 8 = p
  busy : bits (t.reg (.glob .partCmdStatus)) 0 0 = 0
  reg (r : Reg) : r ≠ .glob .partCmdStatus → t.reg r = s.reg r

namespace State.CmdEnded

variable {p : Nat} {mgmt : Bool} {st : Status} (h : s.CmdEnded p mgmt st t)
include h

theorem partCmd : t.partCmd = none := by obtain ⟨regs, rfl⟩ := h.eq; rfl
theorem parts : t.parts = s.parts := by obtain ⟨regs, rfl⟩ := h.eq; rfl
theorem mem : t.mem = s.mem := by obtain ⟨regs, rfl⟩ := h.eq; rfl
theorem out : t.out = s.out ++ cmdAnswer mgmt st := by obtain ⟨regs, rfl⟩ := h.eq; rfl
theorem part (q : Nat) : t.part q = s.part q := by rw [State.part, h.parts]; rfl

end State.CmdEnded

theorem endCmd_of_cmd (hs : s.Inv) {op p : Nat} {mgmt : Bool} (hc : s.partCmd = some ⟨op, p, mgmt⟩) (st : Status) : s.CmdEnded p mgmt st (s.endCmd op p st) := by
  have answered : ∃ u, u = { s with partCmd := none, out := s.out ++ cmdAnswer mgmt st } ∧ s.endCmd op p st =
      ((u.setField (.glob .partCmdStatus) 31 16 st.code).setField (.glob .partCmdStatus) 13 8 p).setField (.glob .partCmdStatus) 0 0 0 := by
    refine ⟨_, rfl, ?_⟩
    simp only [State.endCmd, hc, and_self, if_true]
    cases mgmt with
    | true => rfl
    | false => rw [cmdAnswer]; simp
  obtain ⟨u, hu, e⟩ := answered
  have inv : u.Inv := by rw [hu]; exact hs
  have regs : u.regs = s.regs := by rw [hu]
  have inv₁ : (u.setField (.glob .partCmdStatus) 31 16 st.code).Inv := inv.setField ..
  have inv₂ : ((u.setField (.glob .partCmdStatus) 31 16 st.code).setField (.glob .partCmdStatus) 13 8 p).Inv := inv₁.setField ..
  rw [e]
  refine ⟨⟨_, by rw [hu]; rfl⟩, ?_, fun hp => ?_, ?_, fun r hr => ?_⟩
  · rw [reg_setField_same inv₂.regs, bits_setBits_other _ (by decide) (by decide) (by decide), reg_setField_same inv₁.regs,
      bits_setBits_other _ (by decide) (by decide) (by decide), reg_setField_same inv.regs, bits_setBits_same _ (by decide) (by decide) st.code_lt]
  · rw [reg_setField_same inv₂.regs, bits_setBits_other _ (by decide) (by decide) (by decide), reg_setField_same inv₁.regs,
      bits_setBits_same _ (by decide) (by decide) hp]
  · rw [reg_setField_same inv₂.regs, bits_setBits_same _ (by decide) (by decide) (by decide)]
  · have other := Reg.addr_injective.ne hr
    rw [reg_setField_other _ _ _ other, reg_setField_other _ _ _ other, reg_setField_other _ _ _ other, State.reg, regs]
    rfl

/-! ### Tables and pages (R230, R309) -/

namespace State.StoresOnly

variable {p : Nat}

theorem regs (h : s.StoresOnly t) : t.regs = s.regs := by obtain ⟨_, _, _, _, rfl⟩ := h; rfl
theorem parts (h : s.StoresOnly t) : t.parts = s.parts := by obtain ⟨_, _, _, _, rfl⟩ := h; rfl
theorem partCmd (h : s.StoresOnly t) : t.partCmd = s.partCmd := by obtain ⟨_, _, _, _, rfl⟩ := h; rfl
theorem out (h : s.StoresOnly t) : t.out = s.out := by obtain ⟨_, _, _, _, rfl⟩ := h; rfl

theorem zeroPages (s : State) (ps : List (Nat × Nat)) : s.StoresOnly (s.zeroPages ps) := ⟨_, _, _, _, rfl⟩

theorem writeTables (s : State) (p : Nat) (old new : List MapEntry) : s.StoresOnly (s.writeTables p old new) := by
  have dropped : s.StoresOnly (s.dropLeaves p) := ⟨_, _, _, _, rfl⟩
  have cleared := foldl (tableWords (tableBase p) old) (f := fun s x => s.storePhys x.1 (leBytes 8 0)) (fun _ _ => storePhys ..) (s.dropLeaves p)
  exact (dropped.trans cleared).trans (foldl _ (fun _ _ => storePhys ..) _)

theorem yieldWays (s : State) (ds : List Nat) : s.StoresOnly (s.yieldWays ds) := foldl _ (fun _ _ => ⟨_, _, _, _, rfl⟩) s

end State.StoresOnly

/-! ### CREATE (R314) -/

/-- A partition as CREATE makes it from its record, with swatch key `h`. -/
def createdPart (x : Nat) (m : List MapEntry) (h : Nat) : Part :=
  { state := .active, vf := some (nbits x 1 0, nbits x 5 2), grant := prGrant x, quads := prQuads x, harts := (prCores x).map (fun h => ({ phys := some h } : Hart)),
    map := m, swatchH := h, homes := homesOf (prQuads x) }

/-- CREATE resets the partition's registers, clears its pages, writes its tables, and makes it. -/
theorem create_eq (s : State) (p x : Nat) (m : List MapEntry) : ∃ u v w h, (s.draw.2.resetPartRegs p).StoresOnly u ∧
    (u.setReg (.glob (.ptRoot (pIdx p))) w).StoresOnly v ∧ s.create p x m = v.setPart p (createdPart x m h) :=
  ⟨_, _, _, _, (State.StoresOnly.zeroPages ..).trans (.writeTables ..), .yieldWays .., rfl⟩

/-- The addresses outside the block of a partition's registers (R435, R447). -/
def outsideBlock (p a : Nat) : Bool := decide (a < 0x800000 + 0x10000 * p ∨ 0x800000 + 0x10000 * (p + 1) ≤ a)

theorem outsideBlock_addr (p : Fin 64) (r : PReg) : outsideBlock p (Reg.part p r).addr = false := by
  obtain ⟨-, -, small⟩ := vfPlace_off r
  have lo : 0x800000 + 0x10000 * p.val ≤ (Reg.part p r).addr := Nat.le_add_right _ _
  have hi : (Reg.part p r).addr < 0x800000 + 0x10000 * (p.val + 1) := by
    rw [Reg.addr]
    omega
  exact decide_eq_false (not_or.2 ⟨Nat.not_lt.2 lo, Nat.not_le.2 hi⟩)

theorem resetPartRegs_regs (s : State) (p : Nat) : (s.resetPartRegs p).regs = Tab.keep (outsideBlock p) s.regs := rfl

/-- The registers of a partition have their reset values again. -/
theorem reg_resetPartRegs (s : State) (p : Fin 64) (r : PReg) : (s.resetPartRegs p).reg (.part p r) = (Reg.part p r).init := by
  rw [State.reg, resetPartRegs_regs, Tab.get_keep, outsideBlock_addr]
  rfl

/-- What CREATE leaves. -/
structure State.PartMade (s : State) (p : Fin 64) (x : Nat) (m : List MapEntry) (t : State) : Prop where
  inv : t.Inv
  part : ∃ h, t.part p = createdPart x m h
  others (q : Nat) : q ≠ p.val → t.part q = s.part q
  reg (r : PReg) : t.reg (.part p r) = (Reg.part p r).init
  partCmd : t.partCmd = s.partCmd
  out : t.out = s.out

theorem create_makes (hs : s.Inv) (p : Fin 64) (x : Nat) (m : List MapEntry) : s.PartMade p x m (s.create p x m) := by
  obtain ⟨u, v, w, h, stored, yielded, e⟩ := create_eq s p x m
  have inv : (s.create p x m).Inv := hs.create ..
  have parts : v.parts = s.parts := yielded.parts.trans stored.parts
  refine ⟨inv, ⟨h, ?_⟩, fun q hq => ?_, fun r => ?_, ?_, ?_⟩
  · rw [e]
    exact part_setPart_same (parts.symm ▸ hs.parts) _ _
  · rw [e, part_setPart_other _ hq, State.part, parts]
    rfl
  · have other : (Reg.part p r).addr ≠ (Reg.glob (.ptRoot (pIdx p))).addr := Reg.addr_injective.ne nofun
    have reset := reg_resetPartRegs s.draw.2 p r
    rw [State.reg, ← stored.regs] at reset
    rw [e, setPart_reg_get, State.reg, yielded.regs]
    exact (reg_setReg_other _ other).trans reset
  · rw [e, setPart_partCmd, yielded.partCmd, setReg_partCmd, stored.partCmd]
    rfl
  · rw [e, setPart_out, yielded.out, setReg_out, stored.out]
    rfl

section
variable {src : RecordSource} {p : Fin 64} {mgmt : Bool}

/-- A CREATE whose checks pass makes the partition and ends with DONE. -/
theorem partCreate_of_ok (hs : s.Inv) {x : Nat} {m : List MapEntry} (h : (s.issueCmd 1 p mgmt).createCheck src p = .ok (x, m)) :
    ∃ u, (s.issueCmd 1 p mgmt).PartMade p x m u ∧ u.CmdEnded p mgmt .done (s.partCreate src p mgmt) := by
  have made := create_makes (hs.issueCmd 1 p mgmt) p x m
  refine ⟨_, made, ?_⟩
  rw [State.partCreate]
  simp only [h]
  exact endCmd_of_cmd made.inv made.partCmd _

/-- A refused one ends with the status of the check that fails. -/
theorem partCreate_of_error (hs : s.Inv) {e : Status} (h : (s.issueCmd 1 p mgmt).createCheck src p = .error e) :
    (s.issueCmd 1 p mgmt).CmdEnded p mgmt e (s.partCreate src p mgmt) := by
  rw [State.partCreate]
  simp only [h]
  exact endCmd_of_cmd (hs.issueCmd ..) rfl _

end

/-- Outside Deployed, and for a partition that is not FREE, the record does not matter. -/
theorem createCheck_of_not_free {p : Nat} (src : RecordSource) (h : s.lifecycle ≠ .deployed ∨ (s.part p).state ≠ .free) : s.createCheck src p = .error .protect := by
  unfold State.createCheck
  rw [if_pos h]
  rfl

/-- Settles O25: an accepted CREATE makes the partition and a refused one only ends its command; the record is read after lifecycle and state. -/
theorem partitionIsCreated : Obligations.PartitionIsCreated := by
  unfold Obligations.PartitionIsCreated
  refine ⟨fun src p s hs hfree => ?_, fun src p s h => createCheck_of_not_free src h⟩
  have hexec : exec (.partCreate src p) s = .next (s.partCreate src p false) := congrArg Host.Outcome.next (if_pos hfree)
  refine ⟨fun x m h => ?_, fun e h => ?_⟩
  · obtain ⟨u, made, ended⟩ := partCreate_of_ok hs h
    obtain ⟨key, hpart⟩ := made.part
    refine ⟨_, hexec, ended.partCmd, ended.status, ended.last p.isLt, ended.busy, ?_⟩
    rw [ended.part, hpart]
    refine ⟨rfl, rfl, rfl, rfl, ?_, rfl, fun r => (ended.reg (.part p r) nofun).trans (made.reg r), fun q hq => (ended.part q).trans (made.others q hq)⟩
    simp [createdPart]
  · have ended := partCreate_of_error hs h
    exact ⟨_, hexec, ended.partCmd, ended.status, ended.last p.isLt, ended.busy, ended.parts, ended.mem⟩

end Sys2Proof.Machine
end
section
/-! What the work of ops and frogs leaves of the partitions (R308, R322): all but the rings, the counters, a pending modulus table and the work slots that wait in a frog. -/
namespace Sys2Proof.Machine

/-- A partition without its rings, its counters, its pending modulus table (R77) and the work slots that its frog holds back (R323). -/
def Part.frame (x : Part) : Part := { x with rings := [], counters := [], mtSnap := none, frog := x.frog.map (fun f => { f with slots := [] }) }

section
variable {x y : Part} (h : y.frame = x.frame)
include h

theorem Part.state_of_frame : y.state = x.state := (congrArg Part.state h : y.frame.state = x.frame.state)
theorem Part.harts_of_frame : y.harts = x.harts := (congrArg Part.harts h : y.frame.harts = x.frame.harts)
theorem Part.destroyed_of_frame : y.destroyed = x.destroyed := (congrArg Part.destroyed h : y.frame.destroyed = x.frame.destroyed)

theorem Part.map_of_frame : y.map = x.map := (congrArg Part.map h : y.frame.map = x.frame.map)
theorem Part.remap_of_frame : y.remap = x.remap := (congrArg Part.remap h : y.frame.remap = x.frame.remap)

theorem Part.frog_of_frame {f : Frog} (hf : x.frog = some f) : ∃ slots, y.frog = some { f with slots := slots } := by
  have hframe : y.frog.map (fun f => { f with slots := [] }) = x.frog.map (fun f => { f with slots := [] }) := congrArg Part.frog h
  rw [hf] at hframe
  obtain ⟨g, hg, e⟩ := Option.map_eq_some_iff.1 hframe
  refine ⟨g.slots, hg.trans (congrArg some ?_)⟩
  exact congrArg (fun k : Frog => { k with slots := g.slots }) e

end

/-- The command in progress stands, and every partition but for what `Part.frame` leaves out. -/
def State.PartsKept (s t : State) : Prop :=
  t.partCmd = s.partCmd ∧ (Tab.wf (fun _ => ({} : Part)) s.parts = true → Tab.wf (fun _ => ({} : Part)) t.parts = true ∧ ∀ p, (t.part p).frame = (s.part p).frame)

namespace State.PartsKept

variable {s₀ s t : State}

/-! ### Rules of the relation -/

theorem refl (s : State) : s.PartsKept s := ⟨rfl, fun w => ⟨w, fun _ => rfl⟩⟩

theorem trans (hs : s₀.PartsKept s) (ht : s.PartsKept t) : s₀.PartsKept t := by
  obtain ⟨cmd, parts⟩ := hs
  obtain ⟨cmd', parts'⟩ := ht
  refine ⟨cmd'.trans cmd, fun w => ?_⟩
  obtain ⟨w', frame⟩ := parts w
  obtain ⟨w'', frame'⟩ := parts' w'
  exact ⟨w'', fun p => (frame' p).trans (frame p)⟩

theorem ite {c : Prop} [Decidable c] (hs : s₀.PartsKept s) (ht : s₀.PartsKept t) : s₀.PartsKept (if c then s else t) := by
  split
  · exact hs
  · exact ht

theorem foldl {α : Type} {f : State → α → State} (hs : s₀.PartsKept s) (l : List α) (hf : ∀ u x, s₀.PartsKept u → s₀.PartsKept (f u x)) :
    s₀.PartsKept (l.foldl f s) := by
  induction l generalizing s with
  | nil => exact hs
  | cons x rest ih => exact ih (hf s x hs)

theorem partCmd (hs : s₀.PartsKept s) : s.partCmd = s₀.partCmd := hs.1
theorem wf (hs : s₀.PartsKept s) (w : Tab.wf (fun _ => ({} : Part)) s₀.parts = true) : Tab.wf (fun _ => ({} : Part)) s.parts = true := (hs.2 w).1
theorem frame (hs : s₀.PartsKept s) (w : Tab.wf (fun _ => ({} : Part)) s₀.parts = true) (p : Nat) : (s.part p).frame = (s₀.part p).frame := (hs.2 w).2 p

/-! ### Changes of something else, and of rings, counters and slots -/

theorem updTile (hs : s₀.PartsKept s) (k : Nat) (f : Tile → Tile) : s₀.PartsKept (s.updTile k f) := hs
theorem updJob (hs : s₀.PartsKept s) (j : Nat) (f : Job → Job) : s₀.PartsKept (s.updJob j f) := hs
theorem updOp (hs : s₀.PartsKept s) (o : OpRef) (f : OpRec → OpRec) : s₀.PartsKept (s.updOp o f) := hs
theorem setReg (hs : s₀.PartsKept s) (r : Reg) (v : Word32) : s₀.PartsKept (s.setReg r v) := hs
theorem setField (hs : s₀.PartsKept s) (r : Reg) (hi lo v : Nat) : s₀.PartsKept (s.setField r hi lo v) := hs
theorem setAct (hs : s₀.PartsKept s) (r : Reg) (v : Word32) : s₀.PartsKept (s.setAct r v) := hs
theorem draw (hs : s₀.PartsKept s) : s₀.PartsKept s.draw.2 := hs
theorem withJobs (hs : s₀.PartsKept s) (jobs) : s₀.PartsKept { s with jobs := jobs } := hs

theorem dropCommit (hs : s₀.PartsKept s) (g : Group) : s₀.PartsKept (s.dropCommit g) := hs

theorem updPart (hs : s₀.PartsKept s) (p : Nat) {f : Part → Part} (hf : ∀ x, (f x).frame = x.frame) : s₀.PartsKept (s.updPart p f) := by
  obtain ⟨cmd, parts⟩ := hs
  refine ⟨cmd, fun w => ?_⟩
  obtain ⟨w', frame⟩ := parts w
  refine ⟨Tab.wf_set w' .., fun q => ?_⟩
  by_cases hq : q = p
  · rw [hq, part_updPart_same w']
    exact (hf _).trans (frame p)
  · rw [part_updPart_other _ hq]
    exact frame q

theorem countBy (hs : s₀.PartsKept s) (p n k : Nat) : s₀.PartsKept (s.countBy p n k) := hs.updPart p fun _ => rfl
theorem updRing (hs : s₀.PartsKept s) (p n : Nat) (f : Ring → Ring) : s₀.PartsKept (s.updRing p n f) := hs.updPart p fun _ => rfl
theorem produce (hs : s₀.PartsKept s) (p n : Nat) (e : HeldEntry) : s₀.PartsKept (s.produce p n e) := hs.updRing ..
theorem bump (hs : s₀.PartsKept s) (r : Reg) (hi lo : Nat) : s₀.PartsKept (s.bump r hi lo) := .ite hs hs

/-! ### Counters and memory -/

theorem addUnseen (hs : s₀.PartsKept s) (p : Nat) (ns : List Nat) : s₀.PartsKept (s.addUnseen p ns) := hs.foldl _ fun _ _ hu => hu.draw.countBy ..
theorem countRun (hs : s₀.PartsKept s) (p : Nat) (r : OpRec) : s₀.PartsKept (s.countRun p r) := .ite (hs.addUnseen ..) hs

theorem counter (hs : s₀.PartsKept s) (p n : Nat) : s₀.PartsKept (s.counter p n).2 := by
  unfold State.counter
  split
  · exact hs
  · exact .ite (hs.addUnseen ..) hs

theorem latch (hs : s₀.PartsKept s) (j : Job) : s₀.PartsKept (s.latch j).2 := by
  unfold State.latch
  split
  · exact (hs.counter ..).counter ..
  · exact hs

theorem drawBelow (hs : s₀.PartsKept s) (m n : Nat) : s₀.PartsKept (s.drawBelow m n).2 := by
  induction n generalizing s with
  | zero => exact hs
  | succ n ih => exact ih hs.draw

theorem storePhys (hs : s₀.PartsKept s) (pa : Nat) (bs : List Byte) (keep : Option Nat) : s₀.PartsKept (s.storePhys pa bs keep) := by
  obtain ⟨_, _, _, _, e⟩ := State.StoresOnly.storePhys s pa bs keep
  rw [e]
  exact hs

theorem writeVA (hs : s₀.PartsKept s) {p va : Nat} {bs : List Byte} {k : Access} {unit : Option Nat} (h : s.writeVA p va bs k unit = .ok t) : s₀.PartsKept t := by
  unfold State.writeVA at h
  split at h
  · cases h
  · cases h
    exact hs.foldl _ fun _ _ hu => hu.storePhys ..

theorem spoil (hs : s₀.PartsKept s) (p : Nat) (keep : Bool) (rs : List (Nat × Nat)) (unit : Option Nat) : s₀.PartsKept (s.spoil p keep rs unit) := by
  refine hs.foldl _ fun u x hu => ?_
  dsimp only
  split
  · exact (hu.drawBelow ..).foldl _ fun _ _ hv => .ite hv (hv.storePhys ..)
  · exact hu

/-! ### Ops that end -/

theorem freeTiles (hs : s₀.PartsKept s) (ts : List Nat) : s₀.PartsKept (s.freeTiles ts) := hs.foldl _ fun _ _ hu => hu.updTile ..

theorem produceOp (hs : s₀.PartsKept s) (o : OpRef) : s₀.PartsKept (s.produceOp o) := by
  unfold State.produceOp
  split
  · exact .ite ((hs.updOp ..).produce ..) (hs.updOp ..)
  · exact hs

theorem reportOp (hs : s₀.PartsKept s) (o : OpRef) : s₀.PartsKept (s.reportOp o) := by
  unfold State.reportOp
  split
  · exact .ite (.ite (hs.updJob ..) (hs.produceOp ..)) hs
  · exact hs

theorem refreshEnds (hs : s₀.PartsKept s) (o : OpRef) : s₀.PartsKept (s.refreshEnds o) := by
  unfold State.refreshEnds
  split
  · split
    · exact (hs.updOp ..).reportOp ..
    · exact hs
  · exact hs

theorem stopOps (hs : s₀.PartsKept s) (f : Job → OpRec → Bool) : s₀.PartsKept (s.stopOps f) := by
  unfold State.stopOps
  dsimp only
  exact (hs.withJobs ..).foldl _ fun _ _ hu => hu.updTile ..

/-! ### Killed jobs -/

theorem spoilStash (hs : s₀.PartsKept s) (ls : List (Nat × Nat)) : s₀.PartsKept (s.spoilStash ls) :=
  hs.foldl _ fun _ _ hu => (hu.drawBelow 256 64).updTile ..

/-- The work slot of a killed op waits in its frog. -/
theorem frame_addSlots (x : Part) (ns : List Nat) : ({ x with frog := x.frog.map (fun f => { f with slots := f.slots ++ ns }) } : Part).frame = x.frame := by
  unfold Part.frame
  rw [Option.map_map]
  rfl

theorem killOp (hs : s₀.PartsKept s) (o : OpRef) : s₀.PartsKept (s.killOp o) := by
  unfold State.killOp
  split
  · exact hs
  next j r _ =>
    have hspoilt : s₀.PartsKept (if r.started then s.spoil j.part false (r.limbs ++ r.spoil ++ r.scratch) r.die else s) := .ite (hs.spoil ..) hs
    exact (((((((hspoilt.countRun ..).latch ..).spoilStash ..).freeTiles ..).updPart _ fun x => frame_addSlots x _).updOp ..).refreshEnds ..).reportOp ..

theorem killHeld (hs : s₀.PartsKept s) (j : Job) : s₀.PartsKept (s.killHeld j) := hs.updRing ..

theorem killJobs (hs : s₀.PartsKept s) (js : List Nat) : s₀.PartsKept (s.killJobs js) := by
  unfold State.killJobs
  extract_lets marked stopped dropped
  have hstopped : s₀.PartsKept stopped := stopOps (s := marked) hs _
  have hdropped : s₀.PartsKept dropped := by
    refine hstopped.foldl _ fun u o hu => ?_
    split
    · exact hu.foldl _ fun _ _ hv => hv.updTile ..
    · exact hu
  refine hdropped.foldl _ fun u jid hu => ?_
  refine foldl ?_ _ fun _ _ hv => hv.killOp ..
  split
  · exact hu.killHeld ..
  · exact hu

theorem cancelCommits (hs : s₀.PartsKept s) (p : Nat) : s₀.PartsKept (s.cancelCommits p) := by
  unfold State.cancelCommits
  exact .dropCommit (.dropCommit (.dropCommit (.ite ((updPart (f := fun x => { x with mtSnap := none }) hs p fun _ => rfl).setField ..) hs) ..) ..) ..

theorem spanOff (hs : s₀.PartsKept s) (n : Fin 64) : s₀.PartsKept (s.spanOff n) := ((hs.setAct ..).setField ..).setField ..

theorem spansOff (hs : s₀.PartsKept s) (p : Nat) (f : State → Fin 64 → Bool) : s₀.PartsKept (s.spansOff p f) := by
  unfold State.spansOff
  exact hs.foldl _ fun _ _ hu => .ite (hu.spanOff ..) hu

end State.PartsKept

end Sys2Proof.Machine
end
section
/-! REMAP, DESTROY and FROG of a partition (R311, R315, R316, R322). -/
namespace Sys2Proof.Machine

variable {s t : State} {p : Nat}

/-! ### The start of a partition frog (R322) -/

theorem Part.frog_none_of_frame {x y : Part} (h : y.frame = x.frame) (hx : x.frog = none) : y.frog = none := by
  have hframe : y.frame.frog = x.frame.frog := congrArg Part.frog h
  rw [Part.frame, Part.frame, hx] at hframe
  exact Option.map_eq_none_iff.1 hframe

/-- The cores of a partition stop: its harts are reset, and otherwise it keeps what `Part.frame` shows. -/
theorem stopCores_part (hs : s.Inv) (p : Nat) : (s.stopCores p).partCmd = s.partCmd ∧
    ∃ x : Part, x.frame = (s.part p).frame ∧ (s.stopCores p).part p = { x with harts := x.harts.map Hart.resetOf } := by
  obtain ⟨u, hu, e⟩ := stopCores_eq s p
  have kept : s.PartsKept u := by
    obtain rfl | ⟨-, rfl⟩ := hu
    · exact .refl _
    · exact (State.PartsKept.refl s).addUnseen ..
  have stopped : (u.updPart p (fun x => { x with harts := x.harts.map Hart.resetOf })).part p = { u.part p with harts := (u.part p).harts.map Hart.resetOf } :=
    part_updPart_same (kept.wf hs.parts) ..
  rw [e]
  exact ⟨kept.partCmd, u.part p, kept.frame hs.parts p, stopped⟩

/-- The partition is in STOPPING with its tenant cores stopped. -/
structure State.PartStopping (t : State) (p : Nat) (destroyed : Bool) (cmd : Option PartCmd) : Prop where
  state : (t.part p).state = .stopping
  destroyed : (t.part p).destroyed = destroyed
  harts : ∀ h ∈ (t.part p).harts, h.state = .stopped
  partCmd : t.partCmd = cmd

/-- A partition frog where no frog is: the partition stops, its jobs are killed, its commits cancelled, its cores stopped. -/
theorem startFrog_eq_of_whole (h : (s.part p).frog = none) (destroy : Bool) (js : List Nat) : ∃ f ks, s.startFrog p true destroy js =
    (((s.updPart p (fun x => { x with frog := some f, state := .stopping })).killJobs ks).cancelCommits p).stopCores p := by
  unfold State.startFrog
  rw [h]
  exact ⟨_, _, rfl⟩

theorem startFrog_stops (hs : s.Inv) (h : (s.part p).frog = none) (destroy : Bool) (js : List Nat) :
    (s.startFrog p true destroy js).PartStopping p (s.part p).destroyed s.partCmd := by
  obtain ⟨f, ks, e⟩ := startFrog_eq_of_whole h destroy js
  rw [e]
  have issued : (s.updPart p (fun x => { x with frog := some f, state := .stopping })).Inv := hs.updPart ..
  have begun : (s.updPart p (fun x => { x with frog := some f, state := .stopping })).part p = { s.part p with frog := some f, state := .stopping } := part_updPart_same hs.parts ..
  have cmd : (s.updPart p (fun x => { x with frog := some f, state := .stopping })).partCmd = s.partCmd := rfl
  generalize s.updPart p (fun x => { x with frog := some f, state := .stopping }) = u at issued begun cmd ⊢
  have killed : u.PartsKept ((u.killJobs ks).cancelCommits p) := ((State.PartsKept.refl u).killJobs ..).cancelCommits ..
  obtain ⟨cmd', x, frame, stopped⟩ := stopCores_part ((issued.killJobs ks).cancelCommits p) p
  have kept : x.frame = ({ s.part p with frog := some f, state := .stopping } : Part).frame := begun ▸ frame.trans (killed.frame issued.parts p)
  refine ⟨?_, ?_, fun h hh => ?_, cmd'.trans (killed.partCmd.trans cmd)⟩
  · rw [stopped]
    exact Part.state_of_frame kept
  · rw [stopped]
    have same := Part.destroyed_of_frame kept
    exact same
  · rw [stopped] at hh
    obtain ⟨g, -, rfl⟩ := List.mem_map.1 hh
    rfl

/-! ### DESTROY and FROG (R316, R322) -/

section
variable (mgmt : Bool)

theorem partHeld_of_active (h : (s.part p).state = .active) : s.partHeld p = true := by
  rw [State.partHeld, h]
  rfl

/-- The command is noted, and no partition changes. -/
theorem issueCmd_keeps (hs : s.Inv) (op p : Nat) (mgmt : Bool) : ∃ u : State, u = s.issueCmd op p mgmt ∧ u.Inv ∧ u.partCmd = some ⟨op, p, mgmt⟩ ∧ u.parts = s.parts :=
  ⟨_, rfl, hs.issueCmd .., rfl, rfl⟩

theorem partDestroy_stops (hs : s.Inv) (hactive : (s.part p).state = .active) (hfrog : (s.part p).frog = none) :
    (s.partDestroy p mgmt).PartStopping p true (some ⟨2, p, mgmt⟩) := by
  obtain ⟨u, hu, issued, cmd, parts⟩ := issueCmd_keeps hs 2 p mgmt
  have same : u.part p = s.part p := by rw [State.part, parts]; rfl
  have unbound : (u.updPart p (fun x => { x with destroyed := true })).part p = { s.part p with destroyed := true } := same ▸ part_updPart_same issued.parts ..
  have marked : (u.updPart p (fun x => { x with destroyed := true })).Inv := issued.updPart ..
  rw [State.partDestroy, ← hu]
  simp only [partHeld_of_active (same ▸ hactive)]
  have cmd' : (u.updPart p (fun x => { x with destroyed := true })).partCmd = some ⟨2, p, mgmt⟩ := cmd
  generalize u.updPart p (fun x => { x with destroyed := true }) = v at unbound marked cmd' ⊢
  have spans := (State.PartsKept.refl v).spansOff p (fun _ _ => true)
  have frame := spans.frame marked.parts p
  rw [unbound] at frame
  have stops := startFrog_stops (marked.spansOff ..) (Part.frog_none_of_frame frame hfrog) true (u.openJobIds p)
  rw [Part.destroyed_of_frame frame, spans.partCmd, cmd'] at stops
  exact stops

theorem partFrog_stops (hs : s.Inv) (hactive : (s.part p).state = .active) (hfrog : (s.part p).frog = none) :
    (s.partFrog p mgmt).PartStopping p (s.part p).destroyed (some ⟨4, p, mgmt⟩) := by
  obtain ⟨u, hu, issued, cmd, parts⟩ := issueCmd_keeps hs 4 p mgmt
  have same : u.part p = s.part p := by rw [State.part, parts]; rfl
  rw [State.partFrog, ← hu]
  simp only [partHeld_of_active (same ▸ hactive)]
  have stops := startFrog_stops issued (same ▸ hfrog) false (u.openJobIds p)
  rw [same, cmd] at stops
  exact stops

end

/-! ### REMAP (R315) -/

theorem partRemap_of_ok {src : RecordSource} {mgmt : Bool} {m : List MapEntry} (h : (s.issueCmd 3 p mgmt).remapCheck src p = .ok m) :
    s.partRemap src p mgmt = (s.issueCmd 3 p mgmt).updPart p (fun x => { x with remap := some m }) := by
  unfold State.partRemap
  simp only [h]

/-- At the quiescent point the tables are written, then the map is in force and the spans that it breaks are disabled. -/
theorem translationChange_eq (hs : s.Inv) {m : List MapEntry} (hremap : (s.part p).remap = some m) (hidle : (s.inFlight p).isEmpty = true) (hfrog : (s.part p).frog = none) :
    ∃ u gone, u.Inv ∧ s.StoresOnly u ∧ s.translationChange p =
      ((u.updPart p (fun x => { x with map := m, remap := none, dropped := x.dropped ++ gone })).spansOff p (fun s n => !s.spanOk n (s.span n) m)).endCmd 3 p .done := by
  unfold State.translationChange
  simp only [hremap, hidle, hfrog]
  exact ⟨_, _, (hs.zeroPages ..).writeTables .., (State.StoresOnly.zeroPages ..).trans (.writeTables ..), rfl⟩

/-- The new map is in force, and the command ends with DONE. -/
theorem translationChange_ends (hs : s.Inv) {m : List MapEntry} {mgmt : Bool} (hremap : (s.part p).remap = some m) (hidle : (s.inFlight p).isEmpty = true)
    (hfrog : (s.part p).frog = none) (hcmd : s.partCmd = some ⟨3, p, mgmt⟩) :
    ∃ u : State, (u.part p).map = m ∧ (u.part p).remap = none ∧ u.CmdEnded p mgmt .done (s.translationChange p) := by
  obtain ⟨u, gone, inv, stored, e⟩ := translationChange_eq hs hremap hidle hfrog
  rw [e]
  have mapped : (u.updPart p (fun x => { x with map := m, remap := none, dropped := x.dropped ++ gone })).Inv := inv.updPart ..
  have inForce : (u.updPart p (fun x => { x with map := m, remap := none, dropped := x.dropped ++ gone })).part p =
      { u.part p with map := m, remap := none, dropped := (u.part p).dropped ++ gone } := part_updPart_same inv.parts ..
  have cmd : (u.updPart p (fun x => { x with map := m, remap := none, dropped := x.dropped ++ gone })).partCmd = some ⟨3, p, mgmt⟩ := stored.partCmd.trans hcmd
  generalize u.updPart p (fun x => { x with map := m, remap := none, dropped := x.dropped ++ gone }) = v at mapped inForce cmd ⊢
  have spans := (State.PartsKept.refl v).spansOff p (fun s n => !s.spanOk n (s.span n) m)
  have frame := spans.frame mapped.parts p
  rw [inForce] at frame
  exact ⟨_, Part.map_of_frame frame, Part.remap_of_frame frame, endCmd_of_cmd (mapped.spansOff ..) (spans.partCmd.trans cmd) _⟩

/-- Settles O26: a partition frog leaves STOPPING and stopped cores, whatever it kills; the new map is in force before the spans that it breaks are disabled. -/
theorem partitionCommandsProceed : Obligations.PartitionCommandsProceed := by
  unfold Obligations.PartitionCommandsProceed
  refine fun p s hs => ⟨fun hfree hactive hfrog => ⟨fun src m h => ?_, ?_, ?_⟩, fun m hremap hidle hfrog hcmd => ?_⟩
  · exact congrArg Host.Outcome.next ((if_pos hfree).trans (partRemap_of_ok h))
  · obtain ⟨state, destroyed, harts, cmd⟩ := partDestroy_stops false hs hactive hfrog
    exact ⟨_, congrArg Host.Outcome.next (if_pos hfree), destroyed, state, harts, cmd⟩
  · obtain ⟨state, destroyed, harts, cmd⟩ := partFrog_stops false hs hactive hfrog
    exact ⟨_, congrArg Host.Outcome.next (if_pos hfree), destroyed, state, harts, cmd⟩
  · obtain ⟨u, hmap, hremap, ended⟩ := translationChange_ends hs hremap hidle hfrog hcmd
    exact ⟨_, rfl, (congrArg Part.map (ended.part p)).trans hmap, (congrArg Part.remap (ended.part p)).trans hremap, ended.partCmd, ended.status, ended.busy⟩

end Sys2Proof.Machine
end
section
/-! How a frog kills jobs (R322): what it does to the ops, and which ops it resolves. -/
namespace Sys2Proof.Machine

/-! ### What killing does to an op, to a job, and to the jobs -/

/-- An op keeps its index, and its end or how far it had come, but for one that killing resolved, with KILLED and its own index as ORIGIN. -/
structure OpRec.Killing (r q : OpRec) : Prop where
  idx : q.idx = r.idx
  started : q.started = r.started
  phase : (q.phase = r.phase ∧ q.status = r.status ∧ q.origin = r.origin) ∨ (q.phase = .resolved ∧ q.status = .killed ∧ q.origin = r.idx)

namespace OpRec.Killing

variable {r q o : OpRec}

theorem refl (r : OpRec) : r.Killing r := ⟨rfl, rfl, .inl ⟨rfl, rfl, rfl⟩⟩

theorem trans (h : r.Killing q) (k : q.Killing o) : r.Killing o := by
  refine ⟨k.idx.trans h.idx, k.started.trans h.started, ?_⟩
  obtain ⟨phase, status, origin⟩ | ⟨phase, status, origin⟩ := k.phase
  · rw [phase, status, origin]
    exact h.phase
  · exact .inr ⟨phase, status, origin.trans h.idx⟩

theorem settled (h : r.Killing q) (hr : r.phase.settled = true) : q.phase.settled = true := by
  obtain ⟨phase, -, -⟩ | ⟨phase, -, -⟩ := h.phase
  · rwa [phase]
  · rw [phase]
    rfl

end OpRec.Killing

/-- A job keeps its number and whether it is killed; its ops are changed one by one. -/
structure Job.Killing (j k : Job) : Prop where
  id : k.id = j.id
  killed : k.killed = j.killed
  ops : ∃ g : OpRec → OpRec, k.ops = j.ops.map g ∧ ∀ r : OpRec, r.Killing (g r)

namespace Job.Killing

variable {j k l : Job}

theorem refl (j : Job) : j.Killing j := ⟨rfl, rfl, fun r => r, (List.map_id' _).symm, .refl⟩

theorem trans (h : j.Killing k) (h' : k.Killing l) : j.Killing l := by
  obtain ⟨g, e, hg⟩ := h.ops
  obtain ⟨g', e', hg'⟩ := h'.ops
  exact ⟨h'.id.trans h.id, h'.killed.trans h.killed, g' ∘ g, by rw [e', e, List.map_map], fun r => (hg r).trans (hg' _)⟩

end Job.Killing

/-- The jobs are changed one by one, as killing changes them. -/
def State.Kills (s t : State) : Prop := ∃ f : Job → Job, t.jobs = s.jobs.map f ∧ ∀ j : Job, j.Killing (f j)

namespace State.Kills

variable {s₀ s t : State}

theorem refl (s : State) : s.Kills s := ⟨fun j => j, (List.map_id' _).symm, .refl⟩

theorem trans (h : s₀.Kills s) (k : s.Kills t) : s₀.Kills t := by
  obtain ⟨f, e, hf⟩ := h
  obtain ⟨g, e', hg⟩ := k
  exact ⟨g ∘ f, by rw [e', e, List.map_map], fun j => (hf j).trans (hg _)⟩

theorem ite {c : Prop} [Decidable c] (hs : s₀.Kills s) (ht : s₀.Kills t) : s₀.Kills (if c then s else t) := by
  split
  · exact hs
  · exact ht

theorem foldl {α : Type} {f : State → α → State} (hs : s₀.Kills s) (l : List α) (hf : ∀ u x, s₀.Kills u → s₀.Kills (f u x)) : s₀.Kills (l.foldl f s) := by
  induction l generalizing s with
  | nil => exact hs
  | cons x rest ih => exact ih (hf s x hs)

/-! ### Changes of something else, and of the reports of ops -/

theorem of_jobs (hs : s₀.Kills s) (h : t.jobs = s.jobs) : s₀.Kills t := by
  obtain ⟨f, e, hf⟩ := hs
  exact ⟨f, h.trans e, hf⟩

theorem updTile (hs : s₀.Kills s) (k : Nat) (f : Tile → Tile) : s₀.Kills (s.updTile k f) := hs
theorem produce (hs : s₀.Kills s) (p n : Nat) (e : HeldEntry) : s₀.Kills (s.produce p n e) := hs

theorem updJob (hs : s₀.Kills s) (n : Nat) {f : Job → Job} (hf : ∀ j : Job, j.Killing (f j)) : s₀.Kills (s.updJob n f) := by
  refine hs.trans ⟨fun j => if j.id = n then f j else j, rfl, fun j => ?_⟩
  dsimp only
  split
  · exact hf j
  · exact .refl j

theorem updOp (hs : s₀.Kills s) (o : OpRef) {f : OpRec → OpRec} (hf : ∀ r : OpRec, r.idx = o.op → r.Killing (f r)) : s₀.Kills (s.updOp o f) := by
  refine hs.updJob _ fun j => ⟨rfl, rfl, fun r => if r.idx = o.op then f r else r, rfl, fun r => ?_⟩
  dsimp only
  split
  next h => exact hf r h
  next => exact .refl r

theorem produceOp (hs : s₀.Kills s) (o : OpRef) : s₀.Kills (s.produceOp o) := by
  unfold State.produceOp
  split
  · have marked : s₀.Kills (s.updOp o fun r => { r with reported := true }) := hs.updOp o fun r _ => ⟨rfl, rfl, .inl ⟨rfl, rfl, rfl⟩⟩
    exact .ite (marked.produce ..) marked
  · exact hs

theorem reportOp (hs : s₀.Kills s) (o : OpRef) : s₀.Kills (s.reportOp o) := by
  unfold State.reportOp
  split
  · exact .ite (.ite (hs.updJob _ fun j => ⟨rfl, rfl, fun r => r, (List.map_id' _).symm, .refl⟩) (hs.produceOp ..)) hs
  · exact hs

theorem refreshEnds (hs : s₀.Kills s) (o : OpRef) : s₀.Kills (s.refreshEnds o) := by
  unfold State.refreshEnds
  split
  · split
    · dsimp only
      refine reportOp (updOp hs _ fun r _ => ?_) _
      exact ⟨rfl, rfl, .inl ⟨rfl, rfl, rfl⟩⟩
    · exact hs
  · exact hs

theorem stopOps (hs : s₀.Kills s) (f : Job → OpRec → Bool) : s₀.Kills (s.stopOps f) := by
  unfold State.stopOps
  dsimp only
  refine foldl ?_ _ fun _ _ hu => hu.updTile ..
  refine hs.trans ⟨_, rfl, fun j => ⟨rfl, rfl, _, rfl, fun r => ?_⟩⟩
  split
  · exact ⟨rfl, rfl, .inl ⟨rfl, rfl, rfl⟩⟩
  · exact .refl r

end State.Kills

/-! ### Ops that have not started are resolved (R322) -/

namespace State.JobsKept

variable {s₀ s : State} (hs : s₀.JobsKept s)
include hs

theorem updPart (p : Nat) (f : Part → Part) : s₀.JobsKept (s.updPart p f) := hs

theorem drawBelow (m n : Nat) : s₀.JobsKept (s.drawBelow m n).2 := by
  induction n generalizing s with
  | zero => exact hs
  | succ n ih => exact ih hs.draw

theorem spoilStash (ls : List (Nat × Nat)) : s₀.JobsKept (s.spoilStash ls) := hs.foldl _ fun _ _ hu => (hu.drawBelow 256 64).updTile ..

end State.JobsKept

/-- No op of this name has started. -/
def State.Unstarted (s : State) (o : OpRef) : Prop := ∀ j ∈ s.jobs, j.id = o.job → ∀ r ∈ j.ops, r.idx = o.op → r.started = false

/-- Every op of this name has settled. -/
def State.Settled (s : State) (o : OpRef) : Prop := ∀ j ∈ s.jobs, j.id = o.job → ∀ r ∈ j.ops, r.idx = o.op → r.phase.settled = true

/-- Jobs and ops of one number are one. -/
def State.OwnNumbers (s : State) : Prop := (∀ j ∈ s.jobs, ∀ k ∈ s.jobs, j.id = k.id → j = k) ∧ ∀ j ∈ s.jobs, ∀ a ∈ j.ops, ∀ b ∈ j.ops, a.idx = b.idx → a = b

theorem State.job?_mem {s : State} {i : Nat} {j : Job} (h : s.job? i = some j) : j ∈ s.jobs := List.mem_of_find?_eq_some h
theorem Job.op?_mem {j : Job} {i : Nat} {r : OpRec} (h : j.op? i = some r) : r ∈ j.ops := List.mem_of_find?_eq_some h

/-- The job and the op that a name finds, where numbers are unique. -/
theorem State.OwnNumbers.op? {s : State} (own : s.OwnNumbers) {j : Job} (hj : j ∈ s.jobs) {r : OpRec} (hr : r ∈ j.ops) : s.op? ⟨j.id, r.idx⟩ = some (j, r) := by
  obtain ⟨jobs, ops⟩ := own
  have hk : (s.job? j.id).isSome := List.find?_isSome.2 ⟨j, hj, by simp⟩
  have hq : (j.op? r.idx).isSome := List.find?_isSome.2 ⟨r, hr, by simp⟩
  obtain ⟨k, hk⟩ := Option.isSome_iff_exists.1 hk
  obtain ⟨q, hq⟩ := Option.isSome_iff_exists.1 hq
  obtain rfl : k = j := jobs k (State.job?_mem hk) j hj (State.job?_id hk)
  obtain rfl : q = r := ops k hj q (Job.op?_mem hq) r hr (Job.op?_idx hq)
  exact State.op?_eq_some.2 ⟨hk, hq⟩

namespace State.Kills

variable {s t : State} {o : OpRef}

theorem job_mem (h : s.Kills t) {k : Job} (hk : k ∈ t.jobs) : ∃ j ∈ s.jobs, j.Killing k := by
  obtain ⟨f, e, hf⟩ := h
  rw [e] at hk
  obtain ⟨j, hj, rfl⟩ := List.mem_map.1 hk
  exact ⟨j, hj, hf j⟩

theorem unstarted (h : s.Kills t) (hs : s.Unstarted o) : t.Unstarted o := by
  intro k hk hid q hq hidx
  obtain ⟨j, hj, killing⟩ := h.job_mem hk
  obtain ⟨g, e, hg⟩ := killing.ops
  rw [e] at hq
  obtain ⟨r, hr, rfl⟩ := List.mem_map.1 hq
  exact (hg r).started.trans (hs j hj (killing.id.symm.trans hid) r hr ((hg r).idx.symm.trans hidx))

theorem settled (h : s.Kills t) (hs : s.Settled o) : t.Settled o := by
  intro k hk hid q hq hidx
  obtain ⟨j, hj, killing⟩ := h.job_mem hk
  obtain ⟨g, e, hg⟩ := killing.ops
  rw [e] at hq
  obtain ⟨r, hr, rfl⟩ := List.mem_map.1 hq
  exact (hg r).settled (hs j hj (killing.id.symm.trans hid) r hr ((hg r).idx.symm.trans hidx))

theorem ownNumbers (h : s.Kills t) (own : s.OwnNumbers) : t.OwnNumbers := by
  obtain ⟨f, e, hf⟩ := h
  obtain ⟨jobs, ops⟩ := own
  rw [State.OwnNumbers, e]
  refine ⟨fun j hj k hk hid => ?_, fun j hj a ha b hb hidx => ?_⟩
  · obtain ⟨j, hj', rfl⟩ := List.mem_map.1 hj
    obtain ⟨k, hk', rfl⟩ := List.mem_map.1 hk
    rw [(hf j).id, (hf k).id] at hid
    rw [jobs j hj' k hk' hid]
  · obtain ⟨j, hj', rfl⟩ := List.mem_map.1 hj
    obtain ⟨g, eg, hg⟩ := (hf j).ops
    rw [eg] at ha hb
    obtain ⟨a, ha', rfl⟩ := List.mem_map.1 ha
    obtain ⟨b, hb', rfl⟩ := List.mem_map.1 hb
    rw [(hg a).idx, (hg b).idx] at hidx
    rw [ops j hj' a ha' b hb' hidx]

end State.Kills

section
variable {s : State} {o : OpRef}

/-- An op that has not started is resolved, whatever else is noted of it, and then reported. -/
theorem killOp_eq_of_unstarted {j : Job} {r : OpRec} (h : s.op? o = some (j, r)) (hr : r.started = false) :
    ∃ u f, s.JobsKept u ∧ (∀ q : OpRec, q.idx = o.op → q.Killing (f q) ∧ (f q).phase = .resolved) ∧ s.killOp o = ((u.updOp o f).refreshEnds o).reportOp o := by
  obtain ⟨-, hq⟩ := State.op?_eq_some.1 h
  have hidx := Job.op?_idx hq
  unfold State.killOp
  rw [h]
  simp only [hr, Bool.false_eq_true, if_false]
  refine ⟨_, _, ?_, fun q hq => ⟨⟨?_, ?_, .inr ⟨?_, ?_, ?_⟩⟩, ?_⟩, rfl⟩
  · exact (((((State.JobsKept.refl s).countRun ..).latch ..).spoilStash ..).freeTiles ..).updPart ..
  · rfl
  · rfl
  · rfl
  · rfl
  · exact hidx.trans hq.symm
  · rfl

theorem killOp_kills (h : s.Unstarted o) : s.Kills (s.killOp o) := by
  cases hop : s.op? o with
  | none =>
    have same : s.killOp o = s := by
      unfold State.killOp
      rw [hop]
    rw [same]
    exact .refl s
  | some x =>
    obtain ⟨hj, hr⟩ := State.op?_eq_some.1 (show s.op? o = some (x.1, x.2) from hop)
    obtain ⟨u, f, ⟨-, -, jobs⟩, hf, e⟩ := killOp_eq_of_unstarted hop (h _ (State.job?_mem hj) (State.job?_id hj) _ (Job.op?_mem hr) (Job.op?_idx hr))
    rw [e]
    exact ((((State.Kills.refl s).of_jobs jobs).updOp o fun q hq => (hf q hq).1).refreshEnds ..).reportOp ..

theorem killOp_settles (h : s.Unstarted o) (hop : (s.op? o).isSome) : (s.killOp o).Settled o := by
  obtain ⟨⟨j, r⟩, hop⟩ := Option.isSome_iff_exists.1 hop
  obtain ⟨hj, hr⟩ := State.op?_eq_some.1 hop
  obtain ⟨u, f, -, hf, e⟩ := killOp_eq_of_unstarted hop (h _ (State.job?_mem hj) (State.job?_id hj) _ (Job.op?_mem hr) (Job.op?_idx hr))
  have resolved : (u.updOp o f).Settled o := by
    intro k hk hid q hq hidx
    obtain ⟨k, -, rfl⟩ := List.mem_map.1 hk
    by_cases hko : k.id = o.job
    · rw [if_pos hko] at hq
      obtain ⟨q, -, rfl⟩ := List.mem_map.1 hq
      by_cases hqo : q.idx = o.op
      · rw [if_pos hqo, (hf q hqo).2]
        rfl
      · rw [if_neg hqo] at hidx
        exact absurd hidx hqo
    · rw [if_neg hko] at hid
      exact absurd hid hko
  rw [e]
  exact (((State.Kills.refl _).refreshEnds o).reportOp o).settled resolved

end

/-! ### The killed jobs (R322) -/

/-- Every op of the jobs of this number has settled or started. -/
def State.Quiet (s : State) (jid : Nat) : Prop := ∀ j ∈ s.jobs, j.id = jid → ∀ r ∈ j.ops, r.phase.settled = true ∨ r.started = true

/-- A killed job's entry in the hold reports KILLED, and its ops that have not started are resolved: what `State.killJobs` does for each job. -/
def State.killUnstarted (s : State) (jid : Nat) : State :=
  let s := match s.job? jid with
    | some j => s.killHeld j
    | none => s
  (s.opsOf jid (fun r => !r.phase.settled && !r.started)).foldl State.killOp s

/-- The jobs marked as killed. -/
def State.markKilled (s : State) (js : List Nat) : State :=
  { s with jobs := s.jobs.map (fun (j : Job) => if js.contains j.id then { j with killed := true } else j) }

section
variable {s t : State}

theorem State.Kills.quiet (h : s.Kills t) {jid : Nat} (hs : s.Quiet jid) : t.Quiet jid := by
  intro k hk hid q hq
  obtain ⟨j, hj, killing⟩ := h.job_mem hk
  obtain ⟨g, e, hg⟩ := killing.ops
  rw [e] at hq
  obtain ⟨r, hr, rfl⟩ := List.mem_map.1 hq
  obtain hsettled | hstarted := hs j hj (killing.id.symm.trans hid) r hr
  · exact .inl ((hg r).settled hsettled)
  · exact .inr ((hg r).started.trans hstarted)

theorem State.Kills.op?_isSome (h : s.Kills t) (own : s.OwnNumbers) {o : OpRef} (hs : (s.op? o).isSome) : (t.op? o).isSome := by
  obtain ⟨⟨j, r⟩, hop⟩ := Option.isSome_iff_exists.1 hs
  obtain ⟨hj, hr⟩ := State.op?_eq_some.1 hop
  have own' := h.ownNumbers own
  obtain ⟨f, e, hf⟩ := h
  obtain ⟨g, eg, hg⟩ := (hf j).ops
  have hmem : f j ∈ t.jobs := e ▸ List.mem_map_of_mem (State.job?_mem hj)
  have found := own'.op? hmem (r := g r) (eg ▸ List.mem_map_of_mem (Job.op?_mem hr))
  rw [(hf j).id, (hg r).idx, State.job?_id hj, Job.op?_idx hr] at found
  exact Option.isSome_of_eq_some found

/-- Killing ops that have not started, one after the other. -/
theorem killOps_kills (own : s.OwnNumbers) {os : List OpRef} (hos : ∀ o ∈ os, s.Unstarted o ∧ (s.op? o).isSome) :
    s.Kills (os.foldl State.killOp s) ∧ ∀ o ∈ os, (os.foldl State.killOp s).Settled o := by
  induction os generalizing s with
  | nil => exact ⟨.refl s, nofun⟩
  | cons o rest ih =>
    obtain ⟨unstarted, found⟩ := hos o (by simp)
    have first := killOp_kills unstarted
    obtain ⟨others, settles⟩ := ih (first.ownNumbers own) fun x hx => ⟨first.unstarted (hos x (by simp [hx])).1, first.op?_isSome own (hos x (by simp [hx])).2⟩
    refine ⟨first.trans others, fun x hx => ?_⟩
    obtain rfl | hx := List.mem_cons.1 hx
    · exact others.settled (killOp_settles unstarted found)
    · exact settles x hx

theorem mem_opsOf (own : s.OwnNumbers) {j : Job} (hj : j ∈ s.jobs) {r : OpRec} (hr : r ∈ j.ops) {f : OpRec → Bool} (hf : f r = true) : ⟨j.id, r.idx⟩ ∈ s.opsOf j.id f := by
  obtain ⟨hjob, -⟩ := State.op?_eq_some.1 (own.op? hj hr)
  rw [State.opsOf, hjob]
  exact List.mem_map.2 ⟨r, List.mem_filter.2 ⟨hr, hf⟩, rfl⟩

theorem of_mem_opsOf {jid : Nat} {f : OpRec → Bool} {o : OpRef} (h : o ∈ s.opsOf jid f) : ∃ j ∈ s.jobs, ∃ r ∈ j.ops, f r = true ∧ o = ⟨j.id, r.idx⟩ := by
  unfold State.opsOf at h
  split at h
  next j hj =>
    obtain ⟨r, hr, rfl⟩ := List.mem_map.1 h
    obtain ⟨hr, hf⟩ := List.mem_filter.1 hr
    exact ⟨j, State.job?_mem hj, r, hr, hf, by rw [State.job?_id hj]⟩
  next => cases h

theorem killUnstarted_kills (own : s.OwnNumbers) (jid : Nat) : s.Kills (s.killUnstarted jid) ∧ (s.killUnstarted jid).Quiet jid := by
  have held : ∃ u : State, u.jobs = s.jobs ∧ s.killUnstarted jid = (u.opsOf jid (fun r => !r.phase.settled && !r.started)).foldl State.killOp u := by
    unfold State.killUnstarted
    cases s.job? jid with
    | none => exact ⟨s, rfl, rfl⟩
    | some j => exact ⟨s.killHeld j, rfl, rfl⟩
  obtain ⟨u, jobs, e⟩ := held
  have own : u.OwnNumbers := by rwa [State.OwnNumbers, jobs]
  rw [e]
  obtain ⟨kills, settles⟩ := killOps_kills own (os := u.opsOf jid (fun r => !r.phase.settled && !r.started)) fun o ho => by
    obtain ⟨j, hj, r, hr, hf, rfl⟩ := of_mem_opsOf ho
    refine ⟨fun k hk hid q hq hidx => ?_, Option.isSome_of_eq_some (own.op? hj hr)⟩
    obtain rfl := own.1 k hk j hj hid
    obtain rfl := own.2 k hk q hq r hr hidx
    simpa using (Bool.and_eq_true_iff.1 hf).2
  refine ⟨((State.Kills.refl s).of_jobs jobs).trans kills, fun k hk hid q hq => ?_⟩
  obtain ⟨j, hj, killing⟩ := kills.job_mem hk
  obtain ⟨g, eg, hg⟩ := killing.ops
  rw [eg] at hq
  obtain ⟨r, hr, rfl⟩ := List.mem_map.1 hq
  by_cases hsettled : r.phase.settled = true
  · exact .inl ((hg r).settled hsettled)
  by_cases hstarted : r.started = true
  · exact .inr ((hg r).started.trans hstarted)
  obtain rfl : j.id = jid := killing.id.symm.trans hid
  have named := mem_opsOf own hj hr (f := fun r => !r.phase.settled && !r.started) (by simp [hsettled, hstarted])
  exact .inl (settles _ named k hk killing.id _ (eg ▸ hq) (hg r).idx)

theorem killUnstarted_all (own : s.OwnNumbers) (js : List Nat) :
    s.Kills (js.foldl State.killUnstarted s) ∧ ∀ jid ∈ js, (js.foldl State.killUnstarted s).Quiet jid := by
  induction js generalizing s with
  | nil => exact ⟨.refl s, nofun⟩
  | cons jid rest ih =>
    obtain ⟨first, quiet⟩ := killUnstarted_kills own jid
    obtain ⟨others, quiets⟩ := ih (first.ownNumbers own)
    refine ⟨first.trans others, fun x hx => ?_⟩
    obtain rfl | hx := List.mem_cons.1 hx
    · exact others.quiet quiet
    · exact quiets x hx

theorem killJobs_eq (s : State) (js : List Nat) : ∃ u, (s.markKilled js).Kills u ∧ s.killJobs js = js.foldl State.killUnstarted u := by
  refine ⟨_, State.Kills.foldl ((State.Kills.refl _).stopOps ..) _ fun u o hu => ?_, rfl⟩
  split
  · exact hu.foldl _ fun _ _ hv => hv.updTile ..
  · exact hu

theorem markKilled_ownNumbers (own : s.OwnNumbers) (js : List Nat) : (s.markKilled js).OwnNumbers := by
  obtain ⟨jobs, ops⟩ := own
  refine ⟨fun j hj k hk hid => ?_, fun j hj => ?_⟩
  · obtain ⟨j, hj', rfl⟩ := List.mem_map.1 hj
    obtain ⟨k, hk', rfl⟩ := List.mem_map.1 hk
    have number (x : Job) : (if js.contains x.id then { x with killed := true } else x).id = x.id := by split <;> rfl
    rw [number, number] at hid
    rw [jobs j hj' k hk' hid]
  · obtain ⟨j, hj', rfl⟩ := List.mem_map.1 hj
    have same : (if js.contains j.id then { j with killed := true } else j).ops = j.ops := by split <;> rfl
    rw [same]
    exact ops j hj'

/-- Killing jobs marks them, and resolves their ops that have not started. -/
theorem killJobs_kills (own : s.OwnNumbers) (js : List Nat) : (s.markKilled js).Kills (s.killJobs js) ∧ ∀ jid ∈ js, (s.killJobs js).Quiet jid := by
  obtain ⟨u, kills, e⟩ := killJobs_eq s js
  obtain ⟨rest, quiet⟩ := killUnstarted_all (kills.ownNumbers (markKilled_ownNumbers own js)) js
  rw [e]
  exact ⟨kills.trans rest, quiet⟩

end

/-! ### A write of FROG_CTRL (R320, R321) -/

/-- The jobs that a write of FROG_CTRL names (R321). -/
def State.frogNames (s : State) (p : Nat) (x : Word32) : List Nat :=
  (s.jobs.filter (fun j => decide (j.part = p ∧ j.id ∈ s.openJobIds p ∧ (bit x 30 = true ∨ j.ring = bits x 19 16 ∧ j.sqIndex = bits x 15 0)))).map (·.id)

section
variable {s : State} {p : Nat} {x : Word32}

theorem mem_openJobIds {i : Nat} : i ∈ s.openJobIds p ↔ ∃ j ∈ s.jobs, j.part = p ∧ j.killed = false ∧ j.id = i := by
  simp [State.openJobIds, and_assoc]

theorem frogNames_open {i : Nat} (h : i ∈ s.frogNames p x) : i ∈ s.openJobIds p := by
  obtain ⟨j, hj, rfl⟩ := List.mem_map.1 h
  obtain ⟨-, hnamed⟩ := List.mem_filter.1 hj
  obtain ⟨-, hopen, -⟩ := of_decide_eq_true hnamed
  exact hopen

/-- A job frog is noted, to kill jobs. -/
def State.noteFrog (s : State) (p : Nat) (js : List Nat) : State := s.updPart p (fun x => { x with frog := some { whole := false, jobs := js, killing := true } })

/-- A job frog of named jobs that are open, where no frog is: it is noted, and the jobs are killed. -/
theorem startFrog_eq_of_job (h : (s.part p).frog = none) {js : List Nat} (hopen : ∀ i ∈ js, i ∈ s.openJobIds p) (hjs : js ≠ []) : s.startFrog p false false js =
    (s.noteFrog p js).killJobs js := by
  have all : js.filter (s.openJobIds p).contains = js := List.filter_eq_self.2 fun i hi => List.contains_iff_mem.2 (hopen i hi)
  have nonempty : js.isEmpty = false := by simpa using hjs
  have named : decide (js ≠ []) = true := decide_eq_true hjs
  unfold State.startFrog
  simp only [all, h, nonempty, named]
  rfl

/-- One that names none has no effect. -/
theorem startFrog_none (h : (s.part p).frog = none) : s.startFrog p false false [] = s := by
  unfold State.startFrog
  rw [h]
  rfl

/-- ALL and the rest of the forms (R321) name the same jobs to the frog. -/
theorem jobFrog_eq (hgo : bit x 31 = true) (hall : bit x 30 = true → s.openJobIds p = s.frogNames p x) : s.jobFrog p x = s.startFrog p false false (s.frogNames p x) := by
  unfold State.jobFrog
  rw [if_pos hgo]
  dsimp only
  split
  next h => rw [hall h]
  next h =>
    congr 2
    refine List.filter_congr fun j _ => ?_
    simp [h]

theorem openJobIds_eq_frogNames (jobs : ∀ j ∈ s.jobs, ∀ k ∈ s.jobs, j.id = k.id → j = k) (h : bit x 30 = true) : s.openJobIds p = s.frogNames p x := by
  unfold State.frogNames
  conv_lhs => rw [State.openJobIds]
  congr 1
  refine List.filter_congr fun j hj => ?_
  have named : j.id ∈ s.openJobIds p ↔ j.part = p ∧ j.killed = false := by
    rw [mem_openJobIds]
    constructor
    · rintro ⟨k, hk, hpart, hkilled, hid⟩
      obtain rfl := jobs k hk j hj hid
      exact ⟨hpart, hkilled⟩
    · rintro ⟨hpart, hkilled⟩
      exact ⟨j, hj, hpart, hkilled, rfl⟩
  simp [named, h]

theorem openJobIds_nil (h : bit x 30 = true) (hnone : s.frogNames p x = []) : s.openJobIds p = [] := by
  refine List.eq_nil_iff_forall_not_mem.2 fun i hi => ?_
  obtain ⟨j, hj, hpart, -, rfl⟩ := mem_openJobIds.1 hi
  have named : j.id ∈ s.frogNames p x := List.mem_map.2 ⟨j, List.mem_filter.2 ⟨hj, decide_eq_true ⟨hpart, hi, .inl h⟩⟩, rfl⟩
  rw [hnone] at named
  cases named

/-- GO 0, or a write that names no job, has no effect. -/
theorem jobFrog_nothing (hfrog : (s.part p).frog = none) (h : bit x 31 = false ∨ s.frogNames p x = []) : s.jobFrog p x = s := by
  by_cases hgo : bit x 31 = true
  · obtain h | h := h
    · rw [h] at hgo
      cases hgo
    · rw [jobFrog_eq hgo fun hall => (openJobIds_nil hall h).trans h.symm, h, startFrog_none hfrog]
  · exact if_neg hgo

/-- What a job frog leaves, in terms of the state in which it is noted. -/
theorem killedJobs_spec (own : s.OwnNumbers) {js : List Nat} :
    (∀ j ∈ (s.killJobs js).jobs, j.id ∈ js → j.killed = true ∧ ∀ r ∈ j.ops, r.phase.settled = true ∨ r.started = true) ∧
    (∀ j ∈ (s.killJobs js).jobs, j.id ∉ js → ∃ k ∈ s.jobs, k.id = j.id ∧ k.killed = j.killed) ∧
    ∀ j ∈ s.jobs, j.id ∈ js → ∀ r ∈ j.ops, r.phase.settled = false → r.started = false →
      ∃ k q, (s.killJobs js).op? ⟨j.id, r.idx⟩ = some (k, q) ∧ q.phase = .resolved ∧ q.status = .killed ∧ q.origin = r.idx := by
  obtain ⟨kills, quiet⟩ := killJobs_kills own js
  refine ⟨fun k hk hid => ⟨?_, quiet _ hid k hk rfl⟩, fun k hk hid => ?_, fun j hj hid r hr hsettled hstarted => ?_⟩
  · obtain ⟨j, hj, killing⟩ := kills.job_mem hk
    obtain ⟨i, -, rfl⟩ := List.mem_map.1 hj
    have hid' : i.id ∈ js := by
      have hid := killing.id ▸ hid
      split at hid <;> exact hid
    rw [killing.killed, if_pos (List.contains_iff_mem.2 hid')]
  · obtain ⟨j, hj, killing⟩ := kills.job_mem hk
    obtain ⟨i, hi, rfl⟩ := List.mem_map.1 hj
    have hid' : i.id ∉ js := by
      have hid := killing.id ▸ hid
      split at hid <;> exact hid
    rw [if_neg (by simpa using hid')] at killing
    exact ⟨i, hi, killing.id.symm, killing.killed.symm⟩
  · have own' := kills.ownNumbers (markKilled_ownNumbers own js)
    obtain ⟨f, e, hf⟩ := kills
    have marked : { j with killed := true } ∈ (s.markKilled js).jobs := List.mem_map.2 ⟨j, hj, if_pos (List.contains_iff_mem.2 hid)⟩
    have killing := hf { j with killed := true }
    have hmem : f { j with killed := true } ∈ (s.killJobs js).jobs := e ▸ List.mem_map_of_mem marked
    obtain ⟨g, eg, hg⟩ := killing.ops
    have hop : g r ∈ (f { j with killed := true }).ops := eg ▸ List.mem_map_of_mem hr
    have found := own'.op? hmem hop
    rw [killing.id, (hg r).idx] at found
    refine ⟨_, _, found, ?_⟩
    obtain hdone | hrun := quiet j.id hid _ hmem killing.id _ hop
    · obtain ⟨phase, -, -⟩ | resolved := (hg r).phase
      · rw [phase, hsettled] at hdone
        cases hdone
      · exact resolved
    · rw [(hg r).started, hstarted] at hrun
      cases hrun

end

/-- Settles O27: the jobs are changed one by one (`State.Kills`), and each named job ends with no op that could still start (`State.Quiet`). -/
theorem jobFrogKills : Obligations.JobFrogKills := by
  unfold Obligations.JobFrogKills
  refine fun v p x s hopen hfrog => ⟨fun h => ?_, fun hs hgo hnames jobs ops => ?_⟩
  · exact congrArg Host.Outcome.next ((if_pos hopen).trans (jobFrog_nothing hfrog h))
  have hrun : exec (.jobFrog v p x) s = .next ((s.noteFrog p (s.frogNames p x)).killJobs (s.frogNames p x)) := by
    refine congrArg Host.Outcome.next ((if_pos hopen).trans ?_)
    rw [jobFrog_eq hgo fun hall => openJobIds_eq_frogNames jobs hall]
    exact startFrog_eq_of_job hfrog (fun i hi => frogNames_open hi) hnames
  have noted : (s.noteFrog p (s.frogNames p x)).part p = { s.part p with frog := some { whole := false, jobs := s.frogNames p x, killing := true } } := part_updPart_same hs.parts ..
  have issued : (s.noteFrog p (s.frogNames p x)).Inv := hs.updPart ..
  have frame := ((State.PartsKept.refl (s.noteFrog p (s.frogNames p x))).killJobs (s.frogNames p x)).frame issued.parts p
  rw [noted] at frame
  have state := Part.state_of_frame frame
  obtain ⟨slots, frog⟩ := Part.frog_of_frame frame rfl
  exact ⟨_, hrun, state, ⟨_, frog, rfl, rfl, rfl⟩, killedJobs_spec (s := s.noteFrog p (s.frogNames p x)) ⟨jobs, ops⟩⟩

end Sys2Proof.Machine
end
section
/-! What ops that bind off or fail, and the reports of killed jobs, leave of the partitions (R207, R273, R322). -/
namespace Sys2Proof.Machine

namespace State.PartsKept

variable {s₀ s t : State}

/-! ### Records of faults -/

theorem setHank (hs : s₀.PartsKept s) (h : Nat) (x : Hank) : s₀.PartsKept (s.setHank h x) := hs
theorem pathWrite (hs : s₀.PartsKept s) (h : Fin 4) (r : PathRegs) (v : BitVec 256) : s₀.PartsKept (s.pathWrite h r v) := hs

theorem logRecord (hs : s₀.PartsKept s) (h : Fin 4) (v : BitVec 256) : s₀.PartsKept (s.logRecord h v) := by
  unfold State.logRecord
  exact .ite (hs.bump ..) (.ite (((hs.pathWrite ..).setField ..).bump ..) (hs.pathWrite ..))

theorem emitLog (hs : s₀.PartsKept s) (h : Fin 4) (r : FaultRec) : s₀.PartsKept (s.emitLog h r) := by
  unfold State.emitLog
  exact .logRecord (.ite (hs.setField ..) hs) ..

theorem reportLog (hs : s₀.PartsKept s) (src rep : BitVec 16) (event detail : Nat) (part : Option Nat) :
    s₀.PartsKept (s.reportLog src rep event detail part) :=
  .ite hs (.ite (hs.setHank ..) (.ite (hs.setHank ..) (hs.emitLog ..)))

theorem badLine (hs : s₀.PartsKept s) (pa : Nat) (part : Option Nat) (rep : BitVec 16) : s₀.PartsKept (s.badLine pa part rep) :=
  (hs.bump ..).reportLog ..

theorem capture (hs : s₀.PartsKept s) (p access : Nat) (f : XFault) : s₀.PartsKept (s.capture p access f) := by
  unfold State.capture
  split
  · exact .ite (hs.badLine ..) (((hs.badLine ..).setReg ..).setReg ..)
  · exact .ite hs ((hs.setReg ..).setReg ..)

theorem stick (hs : s₀.PartsKept s) (p : Nat) (st : Status) : s₀.PartsKept (s.stick p st) := by
  unfold State.stick
  split
  · exact hs
  · exact hs.setField ..

theorem statusEffects (hs : s₀.PartsKept s) (p : Nat) (st : Status) : s₀.PartsKept (s.statusEffects p st) := .ite ((hs.stick ..).bump ..) (hs.stick ..)

theorem keyFault (hs : s₀.PartsKept s) (o : OpRef) (cause dir : Nat) : s₀.PartsKept (s.keyFault o cause dir) := by
  unfold State.keyFault
  split
  · exact hs
  · exact .ite (hs.bump ..) ((hs.bump ..).setReg ..)

/-! ### Jobs that settle (R271, R275) -/

theorem completeOne (hs : s₀.PartsKept s) (jid : Nat) : s₀.PartsKept (s.completeOne jid) := by
  unfold State.completeOne
  split
  · exact .ite (((hs.latch ..).updJob ..).produce ..) hs
  · exact hs

theorem completeJob (hs : s₀.PartsKept s) (jid : Nat) : s₀.PartsKept (s.completeJob jid) := hs.foldl _ fun _ _ hu => .ite (hu.completeOne ..) hu

theorem resolvePass (hs : s₀.PartsKept s) (jid : Nat) : s₀.PartsKept (s.resolvePass jid) := by
  unfold State.resolvePass
  split
  · refine hs.foldl _ fun u x hu => ?_
    split
    · dsimp only
      split
      · exact ((hu.latch ..).updOp ..).reportOp ..
      · exact hu
    · exact hu
  · exact hs

theorem settleJob (hs : s₀.PartsKept s) (o : OpRef) : s₀.PartsKept (s.settleJob o) := (((hs.refreshEnds ..).reportOp ..).resolvePass ..).completeJob ..

/-! ### Ops that fail (R207) -/

theorem endOp (hs : s₀.PartsKept s) (o : OpRef) (st : Status) : s₀.PartsKept (s.endOp o st) := by
  unfold State.endOp
  split
  next j r _ =>
    have counted : s₀.PartsKept (if r.inserted.isNone then ((s.statusEffects j.part st).countRun j.part r).bump (pr j.part .partEventCount) 15 0
        else (s.statusEffects j.part st).countRun j.part r) :=
      .ite (((hs.statusEffects ..).countRun ..).bump ..) ((hs.statusEffects ..).countRun ..)
    exact (((counted.latch ..).freeTiles ..).updOp ..).settleJob ..
  next => exact hs

theorem restoreLimbs (hs : s₀.PartsKept s) (p : Nat) (saved : List (Nat × List Byte)) (unit : Option Nat) : s₀.PartsKept (s.restoreLimbs p saved unit) := by
  refine hs.foldl _ fun u x hu => ?_
  dsimp only
  split
  next h => exact hu.writeVA h
  next => exact hu

theorem leave (hs : s₀.PartsKept s) (o : OpRef) (st : Status) : s₀.PartsKept (s.leave o st) := by
  unfold State.leave
  split
  · exact hs
  · exact .ite hs (.ite (hs.restoreLimbs ..) (.ite (hs.spoil ..) ((hs.restoreLimbs ..).spoil ..)))

theorem endNow (hs : s₀.PartsKept s) (o : OpRef) (st : Status) (marks : Option (List Nat)) : s₀.PartsKept (s.endNow o st marks) := by
  unfold State.endNow
  split
  · exact (hs.leave ..).endOp ..
  · split
    · dsimp only
      exact ((hs.leave ..).foldl _ fun _ _ hu => hu.updTile ..).updOp ..
    · exact hs

theorem settleEnd (hs : s₀.PartsKept s) (o : OpRef) : s₀.PartsKept (s.settleEnd o) := by
  unfold State.settleEnd
  split
  · split
    · exact .ite (hs.endNow ..) hs
    · exact hs
  · exact hs

theorem endSoon (hs : s₀.PartsKept s) (o : OpRef) (st : Status) (marks : Option (List Nat)) : s₀.PartsKept (s.endSoon o st marks) := by
  unfold State.endSoon
  split
  · exact .ite (hs.endNow ..) ((((hs.stopOps ..).foldl _ fun _ _ hu => hu.updTile ..).updOp ..).settleEnd ..)
  · exact hs

theorem poisonOp (hs : s₀.PartsKept s) (o : OpRef) (damaged : List Nat) : s₀.PartsKept (s.poisonOp o damaged) := by
  unfold State.poisonOp
  split
  · exact hs.endSoon ..
  · exact hs

theorem memFault (hs : s₀.PartsKept s) (o : OpRef) (access : Nat) (e : MemErr) (rep : BitVec 16) : s₀.PartsKept (s.memFault o access e rep) := by
  unfold State.memFault
  split
  · exact hs
  · split
    · exact (hs.capture ..).endSoon ..
    · exact (hs.badLine ..).poisonOp ..

theorem opFailed (hs : s₀.PartsKept s) (o : OpRef) (rep : BitVec 16) (h : Halt) : s₀.PartsKept (s.opFailed o rep h) := by
  unfold State.opFailed
  split
  · exact hs.settleEnd ..
  · extract_lets damaged spoiled
    have hspoiled : s₀.PartsKept spoiled := by
      unfold spoiled
      split
      · exact (hs.updOp ..).spoil ..
      · exact hs
    clear_value spoiled
    split
    · exact hspoiled
    · exact hspoiled.poisonOp ..
    · exact hspoiled.poisonOp ..
    · exact hspoiled.poisonOp ..
    · exact hspoiled.endSoon ..
    · exact hspoiled.memFault ..
    · exact (hspoiled.keyFault ..).endSoon ..
    · exact hspoiled.poisonOp ..

theorem putHeader (hs : s₀.PartsKept s) {p h : Nat} {v : Header} (e : s.putHeader p h v = .ok t) : s₀.PartsKept t := hs.writeVA e

theorem countPoison (hs : s₀.PartsKept s) (p : Nat) : s₀.PartsKept (s.countPoison p) := by
  unfold State.countPoison
  exact hs.bump ..

/-- A killed job is reported (R322 step 3). -/
theorem reportKilled (hs : s₀.PartsKept s) (p jid : Nat) : s₀.PartsKept (s.reportKilled p jid) := by
  unfold State.reportKilled
  split
  · exact hs
  · refine completeJob (foldl (hs.updJob ..) _ fun u i hu => ?_) _
    split
    · exact .produceOp (.ite (hu.bump ..) hu) ..
    · exact hu

end State.PartsKept

/-! ### The work of engines that a bind-off needs -/

/-- What a piece of work leaves, whether it completes or halts. -/
def State.PartsKeptBy {α : Type} (s : State) : EStateM.Result Halt State α → Prop
  | .ok _ t => s.PartsKept t
  | .error _ t => s.PartsKept t

/-- A piece of engine work that keeps the partitions. -/
structure EngParts {α : Type} (m : Eng α) : Prop where
  kept (s : State) : s.PartsKeptBy (m s)

namespace State.PartsKept

variable {s₀ s t : State} {α : Type} {m : Eng α}

theorem run (hs : s₀.PartsKept s) (hm : EngParts m) : s₀.PartsKeptBy (m s) := by
  have h := hm.kept s
  revert h
  cases m s with
  | ok a t => exact hs.trans
  | error h t => exact hs.trans

theorem eng_ok {a : α} (hs : s₀.PartsKept s) (hm : EngParts m) (e : m s = .ok a t) : s₀.PartsKept t := by
  have h := hs.run hm
  rw [e] at h
  exact h

theorem eng_error {a : Halt} (hs : s₀.PartsKept s) (hm : EngParts m) (e : m s = .error a t) : s₀.PartsKept t := by
  have h := hs.run hm
  rw [e] at h
  exact h

end State.PartsKept

namespace EngParts

variable {α β : Type}

theorem pure (a : α) : EngParts (pure a : Eng α) := ⟨fun s => .refl s⟩
theorem engGet : EngParts engGet := ⟨fun s => .refl s⟩
theorem engPut {f : State → State} (hf : ∀ s : State, s.PartsKept (f s)) : EngParts (engPut f) := ⟨hf⟩

theorem bind {m : Eng α} {f : α → Eng β} (hm : EngParts m) (hf : ∀ a, EngParts (f a)) : EngParts (m >>= f) := by
  refine ⟨fun s => ?_⟩
  show s.PartsKeptBy (EStateM.bind m f s)
  unfold EStateM.bind
  split
  next a t e => exact (State.PartsKept.eng_ok (.refl s) hm e).run (hf a)
  next h t e => exact State.PartsKept.eng_error (.refl s) hm e

theorem ite {c : Prop} [Decidable c] {m n : Eng α} (hm : EngParts m) (hn : EngParts n) : EngParts (if c then m else n) := by
  split
  · exact hm
  · exact hn

theorem forM {f : α → Eng PUnit} {l : List α} (hf : ∀ a, EngParts (f a)) : EngParts (l.forM f) := by
  induction l with
  | nil => exact .pure _
  | cons a rest ih => exact .bind (hf a) fun _ => ih

theorem recordBytes (p a n : Nat) : EngParts (recordBytes p a n) := by
  refine ⟨fun s => ?_⟩
  unfold Machine.recordBytes
  split <;> exact .refl s

theorem bundleAddr (p chain ks fuel i : Nat) : EngParts (bundleAddr p chain ks fuel i) := by
  induction fuel generalizing i with
  | zero => exact .pure _
  | succ fuel ih => exact .bind .engGet fun _ => .bind (.recordBytes ..) fun _ => .ite (.pure _) (ih (i + 1))

theorem quietBundle (p chain ks : Nat) : EngParts (quietBundle p chain ks) := by
  have found : EngParts (do
      match ← bundleFor p chain ks with
      | some a => return some (← readBundle p a)
      | none => return none : Eng (Option Bundle)) := by
    refine .bind (.bind .engGet fun _ => .bundleAddr ..) fun a => ?_
    split
    · exact .bind (.bind (.recordBytes ..) fun _ => .pure _) fun _ => .pure _
    · exact .pure _
  refine ⟨fun s => ?_⟩
  unfold Machine.quietBundle
  split
  next e => exact State.PartsKept.eng_ok (.refl s) found e
  next e => exact (State.PartsKept.eng_error (.refl s) found e).capture ..
  next e => exact (State.PartsKept.eng_error (.refl s) found e).badLine ..
  next e => exact State.PartsKept.eng_error (.refl s) found e

theorem refreshWanted (j : Job) (h : Nat) (hdr : Header) (guard : Nat) : EngParts (refreshWanted j h hdr guard) := by
  unfold Machine.refreshWanted
  refine .bind .engGet fun s => ?_
  split
  · exact .pure _
  · split
    · exact .pure _
    · refine .bind (.quietBundle ..) fun x => ?_
      split
      · exact .pure _
      · exact .pure _

theorem engStore {r : State → Except XFault State} (hr : ∀ {s t : State}, r s = .ok t → s.PartsKept t) (access : Nat) : EngParts (engStore access r) := by
  refine ⟨fun s => ?_⟩
  unfold Machine.engStore
  split
  next e => exact hr e
  next => exact .refl s

theorem writeHeaders (p : Nat) (hs : List (Nat × Header × Bool)) : EngParts (writeHeaders p hs) := by
  unfold Machine.writeHeaders
  exact .forM fun _ => .bind (.engStore (State.PartsKept.refl _).putHeader _) fun _ => .ite (.engPut fun u => (State.PartsKept.refl u).countPoison ..) (.pure _)

end EngParts

/-! ### Bind-off (R273), and the stop of a frog's engines -/

namespace State.PartsKept

variable {s₀ s t : State}

theorem putDigest (hs : s₀.PartsKept s) (p : Nat) (n : Fin 16) (d : BitVec 128) : s₀.PartsKept (s.putDigest p n d) :=
  foldl (s := s.setReg ..) hs _ fun _ _ hu => hu.setAct ..

theorem swatchOf (hs : s₀.PartsKept s) (j : Job) (r : OpRec) (cfg : Word32) (key : BitVec 128) : s₀.PartsKept (s.swatchOf j r cfg key).2 := by
  unfold State.swatchOf
  dsimp only
  split
  · exact hs
  · split
    · split
      · exact hs
      · split
        · exact hs
        · exact hs.draw
    · split
      · split
        · exact hs
        · split
          · exact hs
          · exact hs.draw
      · exact hs

theorem swatches (hs : s₀.PartsKept s) (j : Job) (r : OpRec) : s₀.PartsKept (s.swatches j r) := by
  refine hs.foldl _ fun u n hu => ?_
  have digest := hu.swatchOf j r (u.reg (pr j.part (.swatchCfg n))) (BitVec.ofNat 128 (u.part j.part).swatchH)
  split
  next e =>
    rw [e] at digest
    exact digest.putDigest ..
  next e =>
    rw [e] at digest
    exact digest

theorem insertRefresh (hs : s₀.PartsKept s) (o : OpRef) (h : Nat) (before : Bool) : s₀.PartsKept (s.insertRefresh o h before) := by
  unfold State.insertRefresh
  split
  · exact hs
  · exact ((hs.updJob ..).updOp ..).bump ..

theorem refreshAfter (hs : s₀.PartsKept s) (o : OpRef) (j : Job) (r : OpRec) : s₀.PartsKept (s.refreshAfter o j r) := by
  refine .ite hs (hs.foldl _ fun u x hu => ?_)
  dsimp only
  split
  next e => exact (hu.eng_ok (.refreshWanted ..) e).insertRefresh ..
  next e => exact hu.eng_ok (.refreshWanted ..) e
  next e => exact hu.eng_error (.refreshWanted ..) e

theorem bindOff (hs : s₀.PartsKept s) (o : OpRef) : s₀.PartsKept (s.bindOff o) := by
  unfold State.bindOff
  split
  · exact hs
  next j r _ =>
    split
    · exact hs
    · split
      next e => exact (hs.eng_error (.writeHeaders ..) e).opFailed ..
      next u e =>
        have digested : s₀.PartsKept (if r.status = .done then u.swatches j r else u) := .ite ((hs.eng_ok (.writeHeaders ..) e).swatches ..) (hs.eng_ok (.writeHeaders ..) e)
        extract_lets v w x
        have failed : s₀.PartsKept x := .ite ((digested.statusEffects ..).bump ..) (digested.statusEffects ..)
        exact ((((((failed.countBy ..).countRun ..).latch ..).freeTiles ..).updOp ..).refreshAfter ..).settleJob ..

end State.PartsKept

end Sys2Proof.Machine
end
section
/-! The steps of a frog (R322, R323, R325), and what each leaves. -/
namespace Sys2Proof.Machine

variable {s t u : State} {p : Nat} {f : Frog}

/-! ### Changes of tiles -/

/-- The tiles that satisfy `P` are changed by `f`, and nothing else. -/
structure State.TilesChanged (s : State) (P : Nat → Prop) (f : Tile → Tile) (t : State) : Prop where
  eq : ∃ tiles, t = { s with tiles := tiles }
  wf : Tab.wf (fun _ => ({} : Tile)) t.tiles = true
  changed (k : Nat) : P k → t.tile k = f (s.tile k)
  others (k : Nat) : ¬ P k → t.tile k = s.tile k

theorem updTile_changes (w : Tab.wf (fun _ => ({} : Tile)) s.tiles = true) (k : Nat) (f : Tile → Tile) : s.TilesChanged (· = k) f (s.updTile k f) :=
  ⟨⟨_, rfl⟩, Tab.wf_set w .., fun _ h => h ▸ tile_updTile_same w .., fun _ h => tile_updTile_other _ h⟩

/-- A change that is made once or more, tile after tile. -/
theorem tilesChanged_foldl {g : State → Nat → State} {f : Tile → Tile} (again : ∀ x, f (f x) = f x)
    (hg : ∀ (s : State) (k : Nat), Tab.wf (fun _ => ({} : Tile)) s.tiles = true → s.TilesChanged (· = k) f (g s k))
    (w : Tab.wf (fun _ => ({} : Tile)) s.tiles = true) (ts : List Nat) : s.TilesChanged (· ∈ ts) f (ts.foldl g s) := by
  induction ts generalizing s with
  | nil => exact ⟨⟨s.tiles, rfl⟩, w, nofun, fun _ _ => rfl⟩
  | cons k rest ih =>
    have first := hg s k w
    have others := ih first.wf
    obtain ⟨tiles, e⟩ := first.eq
    obtain ⟨tiles', e'⟩ := others.eq
    refine ⟨⟨tiles', ?_⟩, others.wf, fun n hn => ?_, fun n hn => ?_⟩
    · rw [List.foldl_cons, e', e]
    · by_cases hrest : n ∈ rest
      · refine (others.changed n hrest).trans ?_
        by_cases hk : n = k
        · rw [first.changed n hk, again]
        · rw [first.others n hk]
      · exact (others.others n hrest).trans (first.changed n ((List.mem_cons.1 hn).resolve_right hrest))
    · obtain ⟨hk, hrest⟩ := not_or.1 (mt List.mem_cons.2 hn)
      exact (others.others n hrest).trans (first.others n hk)

/-- Tiles one after the other, whatever is done to each. -/
theorem foldl_updTile_eq (ts : List Nat) (f : Tile → Tile) (s : State) : ∃ tiles, ts.foldl (fun s k => s.updTile k f) s = { s with tiles := tiles } := by
  induction ts generalizing s with
  | nil => exact ⟨s.tiles, rfl⟩
  | cons k rest ih =>
    obtain ⟨tiles, e⟩ := ih (s.updTile k f)
    exact ⟨tiles, e⟩

/-! ### The engines stop (R209, R322) -/

theorem enginesStopped_of_busy (hf : (s.part p).frog = some f) (hbusy : s.atRest (fun j => f.jobs.contains j.id) = false) : s.enginesStopped p = s := by
  unfold State.enginesStopped
  rw [hf]
  exact if_pos (.inr (by rw [hbusy]; rfl))

/-- The scrub begins: what the frog has done until then leaves the partitions as `Part.frame` shows them. -/
theorem enginesStopped_eq (hf : (s.part p).frog = some f) (hstep : f.step = 0) (hrest : s.atRest (fun j => f.jobs.contains j.id) = true) :
    ∃ u tiles, s.PartsKept u ∧ s.enginesStopped p = u.updPart p (fun x => { x with
      frog := x.frog.map (fun g => { g with tiles := tiles, step := 1, killing := false }), state := if f.whole then .scrubbing else x.state }) := by
  unfold State.enginesStopped
  rw [hf]
  dsimp only
  rw [if_neg (by rw [hrest]; simp [hstep])]
  refine ⟨_, _, .ite (.stick ?_ ..) ?_, rfl⟩
  all_goals
    refine .foldl (.foldl (.foldl (.refl s) _ fun _ _ hu => ?_) _ fun _ _ hu => ?_) _ fun _ _ hu => hu.reportKilled ..
    · exact hu.foldl _ fun _ _ hv => (hv.updOp ..).bindOff ..
    · exact hu.foldl _ fun _ _ hv => hv.killOp ..

theorem enginesStopped_begins (hs : s.Inv) (hf : (s.part p).frog = some f) (hstep : f.step = 0) (hrest : s.atRest (fun j => f.jobs.contains j.id) = true) :
    ∃ g, ((s.enginesStopped p).part p).frog = some g ∧ g.step = 1 ∧ g.jobs = f.jobs ∧ (f.whole = true → ((s.enginesStopped p).part p).state = .scrubbing) := by
  obtain ⟨u, tiles, kept, e⟩ := enginesStopped_eq hf hstep hrest
  obtain ⟨slots, frog⟩ := Part.frog_of_frame (kept.frame hs.parts p) hf
  have begun := part_updPart_same (kept.wf hs.parts) p (fun x => { x with
    frog := x.frog.map (fun g => { g with tiles := tiles, step := 1, killing := false }), state := if f.whole then .scrubbing else x.state })
  rw [e, begun, frog]
  exact ⟨_, rfl, rfl, rfl, fun hw => if_pos hw⟩

/-! ### The scrub (R323) -/

/-- The entry to M3 goes on in no other power state. -/
theorem continueM3_of_m0 (h : s.power.state = .m0) : s.continueM3 = s := by
  refine if_neg fun hentry => ?_
  obtain ⟨hentering, -⟩ := hentry
  rw [h] at hentering
  cases hentering

/-- A scrub step ends, and the next one begins. -/
theorem scrubStepDone_eq (hf : (s.part p).frog = some f) (h0 : f.step ≠ 0) (h7 : f.step ≠ 7) :
    s.scrubStepDone p = (s.scrubStep p f).updPart p (fun x => { x with frog := some { f with step := f.nextStep } }) := by
  unfold State.scrubStepDone
  rw [hf]
  dsimp only
  rw [if_neg h0, if_neg h7]

/-- The command for a scrub step, where the step leaves the power state and the partitions' table in form. -/
theorem exec_scrubStep (hf : (s.part p).frog = some f) (h0 : f.step ≠ 0) (h7 : f.step ≠ 7) {n : Nat} (hn : f.nextStep = n) (hu : s.scrubStep p f = u)
    (hpower : u.power.state = .m0) (hw : Tab.wf (fun _ => ({} : Part)) u.parts = true) :
    ∃ t, .next (s.scrubStepDone p).continueM3 = (Host.Outcome.next t : Host.Outcome State Fault Refusal) ∧
      t = u.updPart p (fun x => { x with frog := some { f with step := n } }) ∧ (t.part p).frog = some { f with step := n } := by
  have e : s.scrubStepDone p = u.updPart p (fun x => { x with frog := some { f with step := n } }) := by rw [scrubStepDone_eq hf h0 h7, hu, hn]
  have same : (s.scrubStepDone p).continueM3 = s.scrubStepDone p := continueM3_of_m0 (by rw [e]; exact hpower)
  exact ⟨_, congrArg Host.Outcome.next (same.trans e), rfl, congrArg Part.frog (part_updPart_same hw p (fun x => { x with frog := some { f with step := n } }))⟩

/-- The partition's lines have left the die caches. -/
theorem mem_cache_dropCache (hs : s.Inv) (d : Nat) (c : Nat × Nat) : c ∈ ((s.dropCache p).site d).cache ↔ c ∈ (s.site d).cache ∧ c.1 ≠ p := by
  have sites : Tab.wf (fun _ => ({} : Site)) s.sites = true := hs.sites
  obtain h | ⟨h, hnone⟩ := Tab.get_rebuild (k := d) (r := []) (fun _ (x : Site) => { x with cache := x.cache.filter (fun c => decide (c.1 ≠ p)) }) sites rfl
  · have cache : ((s.dropCache p).site d).cache = (s.site d).cache.filter (fun c => decide (c.1 ≠ p)) := congrArg Site.cache h
    rw [cache]
    simp
  · have cache : ((s.dropCache p).site d).cache = [] := congrArg Site.cache h
    have cache' : (s.site d).cache = [] := congrArg Site.cache hnone
    rw [cache, cache']
    simp

/-- A tile with nothing of its op in its engines (R325). -/
def Tile.scrubbed (x : Tile) : Tile :=
  { x with op := none, partDone := false, streams := [], feeders := [], posts := [], exchanges := [], ribGroups := [], ribConst := none, plyKey := none, windows := [],
           reduction := none, stashWrote := [], wrote := [], sent := [], heldBack := none, staging := [], queues := [] }

theorem scrubTile_changes (w : Tab.wf (fun _ => ({} : Tile)) s.tiles = true) (k : Nat) :
    s.TilesChanged (· = k) Tile.scrubbed ((s.freeTiles [k]).updTile k (fun x => { x with queues := [] })) := by
  have freed : Tab.wf (fun _ => ({} : Tile)) (s.freeTiles [k]).tiles = true := Tab.wf_set w ..
  refine ⟨⟨_, rfl⟩, Tab.wf_set freed .., fun n hn => ?_, fun n hn => ?_⟩
  · subst hn
    rw [tile_updTile_same freed, State.freeTiles, List.foldl_cons, List.foldl_nil, tile_updTile_same w]
    rfl
  · rw [tile_updTile_other _ hn, State.freeTiles, List.foldl_cons, List.foldl_nil, tile_updTile_other _ hn]

/-- The tiles that the frog scrubs. -/
def State.frogTiles (s : State) (p : Nat) (f : Frog) : List Nat := if f.whole then s.partTiles p else f.tiles

/-- Those of them that no op of another job has taken. -/
def State.frogFreeTiles (s : State) (p : Nat) (f : Frog) : List Nat := (s.frogTiles p f).filter (fun t => match (s.tile t).op with
  | some (j, _) => f.jobs.contains j
  | none => true)

theorem mem_frogFreeTiles {k : Nat} : k ∈ s.frogFreeTiles p f ↔ k ∈ s.frogTiles p f ∧ ∀ o, (s.tile k).op = some o → o.1 ∈ f.jobs := by
  rw [State.frogFreeTiles, List.mem_filter]
  cases (s.tile k).op with
  | none => simp
  | some o => simp

theorem scrubStep_two (hs : s.Inv) (h : f.step = 2) : s.TilesChanged (· ∈ s.frogFreeTiles p f) Tile.scrubbed (s.scrubStep p f) := by
  have e : s.scrubStep p f = (s.frogFreeTiles p f).foldl (fun s t => (s.freeTiles [t]).updTile t (fun x => { x with queues := [] })) s := by
    unfold State.scrubStep
    rw [h]
    rfl
  rw [e]
  refine tilesChanged_foldl ?_ ?_ hs.tiles _
  · exact fun _ => rfl
  · exact fun _ _ w => scrubTile_changes w _

theorem scrubStep_three (hs : s.Inv) (h : f.step = 3) : s.TilesChanged (· ∈ s.frogTiles p f) (fun x => { x with scratch := [] }) (s.scrubStep p f) := by
  have e : s.scrubStep p f = (s.frogTiles p f).foldl State.zeroScratch s := by
    unfold State.scrubStep
    rw [h]
    rfl
  rw [e]
  refine tilesChanged_foldl ?_ ?_ hs.tiles _
  · exact fun _ => rfl
  · exact fun _ _ w => updTile_changes w ..

theorem scrubStep_four (hs : s.Inv) (h : f.step = 4) :
    s.TilesChanged (· ∈ s.frogTiles p f) (fun x => { x with stash := [], stashBad := [], stashWrote := [] }) (s.scrubStep p f) := by
  have e : s.scrubStep p f = (s.frogTiles p f).foldl State.zeroStash s := by
    unfold State.scrubStep
    rw [h]
    rfl
  rw [e]
  refine tilesChanged_foldl ?_ ?_ hs.tiles _
  · exact fun _ => rfl
  · exact fun _ _ w => updTile_changes w ..

/-- Besides harts, reservations and a counter STOP_ALL changes none of these. -/
theorem stopCores_rest (s : State) (p : Nat) : (s.stopCores p).mem = s.mem ∧ (s.stopCores p).tiles = s.tiles ∧ (s.stopCores p).power = s.power ∧
    (s.stopCores p).reservations = s.reservations.filter (fun r => decide (r.2.1 ≠ p)) := by
  obtain ⟨u, hu, e⟩ := stopCores_eq s p
  rw [e]
  obtain rfl | ⟨-, rfl⟩ := hu
  · exact ⟨rfl, rfl, rfl, rfl⟩
  · exact ⟨rfl, rfl, rfl, rfl⟩

theorem stopCores_harts (hs : s.Inv) (p : Nat) : ((s.stopCores p).part p).harts = (s.part p).harts.map Hart.resetOf := by
  obtain ⟨-, x, frame, e⟩ := stopCores_part hs p
  rw [e, ← Part.harts_of_frame frame]

/-! ### The release (R322 step 5) -/

theorem endCmd_frame (s : State) (op p : Nat) (st : Status) : (s.endCmd op p st).parts = s.parts ∧ (s.endCmd op p st).power = s.power := by
  unfold State.endCmd
  split
  · split
    · split
      · exact ⟨rfl, rfl⟩
      · exact ⟨rfl, rfl⟩
    · exact ⟨rfl, rfl⟩
  · exact ⟨rfl, rfl⟩

theorem unhalt_frame (s : State) (p : Nat) : (s.unhalt p).parts = s.parts ∧ (s.unhalt p).power = s.power := by
  unfold State.unhalt
  obtain ⟨tiles, e⟩ := foldl_updTile_eq (s.jobs.flatMap (fun k => (k.ops.filter (fun o => decide (k.part = p) && !k.killed && decide (o.phase = .running))).flatMap (·.tiles)))
    Tile.resumeMarkers s
  dsimp only
  rw [e]
  exact ⟨rfl, rfl⟩

theorem startHart0_part (w : Tab.wf (fun _ => ({} : Part)) s.parts = true) :
    ((s.startHart0 p).part p).frog = (s.part p).frog ∧ ((s.startHart0 p).part p).state = (s.part p).state := by
  have started := part_updPart_same w p (fun x => x.updHart 0 (fun h => h.start (firstCore x.harts) 0 (s.coreEntry p) 0))
  have frog := congrArg Part.frog started
  have state := congrArg Part.state started
  exact ⟨frog, state⟩

/-- The partition after the release of its frog. -/
structure State.FrogReleased (s : State) (p : Nat) (f : Frog) (t : State) : Prop where
  power : t.power = s.power
  frog : (t.part p).frog = none
  active : f.whole = true → f.destroy = false → (t.part p).state = .active
  releasing : f.destroy = true → f.whole = true → (t.part p).state = .releasing

/-- The end of a command changes no partition. -/
theorem State.FrogReleased.endCmd (h : s.FrogReleased p f t) (op q : Nat) (st : Status) : s.FrogReleased p f (t.endCmd op q st) := by
  obtain ⟨parts, power⟩ := endCmd_frame t op q st
  have part : (t.endCmd op q st).part p = t.part p := by rw [State.part, parts]; rfl
  obtain ⟨hpower, frog, active, releasing⟩ := h
  exact ⟨power.trans hpower, by rw [part]; exact frog, by rw [part]; exact active, by rw [part]; exact releasing⟩

theorem releaseFrog_releases (hs : s.Inv) (p : Nat) (f : Frog) : s.FrogReleased p f (s.releaseFrog p f) := by
  unfold State.releaseFrog
  have ended : ∃ u, u = (if s.hookKilled p f then (s.setField (pr p .hookStatus) 17 16 0).unhalt p else s) ∧ u.parts = s.parts ∧ u.power = s.power := by
    refine ⟨_, rfl, ?_⟩
    split
    · exact unhalt_frame ..
    · exact ⟨rfl, rfl⟩
  obtain ⟨u, hu, parts, power⟩ := ended
  have wf : Tab.wf (fun _ => ({} : Part)) u.parts = true := parts ▸ hs.parts
  dsimp only
  rw [← hu]
  by_cases hw : f.whole = true
  · rw [if_pos hw]
    refine State.FrogReleased.endCmd ?_ ..
    have released := part_updPart_same wf p (fun x => { x with frog := none, startHeld := false, state := if f.destroy then .releasing else .active })
    have wf' : Tab.wf (fun _ => ({} : Part)) (u.updPart p (fun x => { x with frog := none, startHeld := false, state := if f.destroy then .releasing else .active })).parts = true :=
      Tab.wf_set wf ..
    have power' : (u.updPart p (fun x => { x with frog := none, startHeld := false, state := if f.destroy then .releasing else .active })).power = s.power := power
    generalize u.updPart p (fun x => { x with frog := none, startHeld := false, state := if f.destroy then .releasing else .active }) = v at released wf' power' ⊢
    have frog : (v.part p).frog = none := congrArg Part.frog released
    have state : (v.part p).state = if f.destroy then .releasing else .active := congrArg Part.state released
    split
    · obtain ⟨frog', state'⟩ := startHart0_part wf'
      refine ⟨power', frog'.trans frog, fun _ hd => (state'.trans state).trans ?_, fun hd _ => (state'.trans state).trans ?_⟩
      · exact if_neg (by rw [hd]; decide)
      · exact if_pos hd
    · refine ⟨power', frog, fun _ hd => state.trans ?_, fun hd _ => state.trans ?_⟩
      · exact if_neg (by rw [hd]; decide)
      · exact if_pos hd
  · rw [if_neg hw]
    refine State.FrogReleased.endCmd ?_ ..
    have released := part_updPart_same wf p (fun x => { x with frog := none })
    exact ⟨power, congrArg Part.frog released, fun h => absurd h hw, fun _ h => absurd h hw⟩

/-! ### The scrub of pages (R309, R316) -/

/-- The byte at an address reads zero, in a memory in form. -/
def State.ZeroAt (s : State) (a : Nat) : Prop := Memory.wf s.mem = true ∧ s.byte a = 0

namespace State.ZeroAt

variable {a : Nat}

theorem foldl {α : Type} {f : State → α → State} (hs : s.ZeroAt a) (l : List α) (hf : ∀ u x, u.ZeroAt a → (f u x).ZeroAt a) : (l.foldl f s).ZeroAt a := by
  induction l generalizing s with
  | nil => exact hs
  | cons x rest ih => exact ih (hf s x hs)

/-- Zeros that are stored leave a zero as it is. -/
theorem storeLine (hs : s.ZeroAt a) (pa : Nat) {bs : List Byte} (hbs : ∀ b ∈ bs, b = 0) (keep : Option Nat) : (s.storeLine pa bs keep).ZeroAt a := by
  obtain ⟨wf, zero⟩ := hs
  unfold State.storeLine
  dsimp only
  split
  · exact ⟨wf, zero⟩
  · refine ⟨wf_putBytes wf .., (get_putBytes wf pa a bs).trans ?_⟩
    split
    next h =>
      rw [List.getD_eq_getElem _ _ (by omega)]
      exact hbs _ (List.getElem_mem _)
    next => exact zero

theorem storePhys (hs : s.ZeroAt a) (pa : Nat) {bs : List Byte} (hbs : ∀ b ∈ bs, b = 0) (keep : Option Nat) : (s.storePhys pa bs keep).ZeroAt a :=
  hs.foldl _ fun _ _ hu => hu.storeLine _ (fun b hb => hbs b (List.mem_of_mem_drop (List.mem_of_mem_take hb))) _

end State.ZeroAt

theorem leBytes_zero (n : Nat) : ∀ b ∈ leBytes n 0, b = 0 := by
  induction n with
  | zero => nofun
  | succ n ih =>
    intro b hb
    obtain rfl | hb := List.mem_cons.1 hb
    · rfl
    · exact ih b hb

/-- The tables of no map: what stood in them is overwritten with zeros. -/
theorem zeroAt_writeTables_nil {a : Nat} (hs : s.ZeroAt a) (p : Nat) (old : List MapEntry) : (s.writeTables p old []).ZeroAt a := by
  have cleared : ((tableWords (tableBase p) old).foldl (fun s x => s.storePhys x.1 (leBytes 8 0)) (s.dropLeaves p)).ZeroAt a := by
    have dropped : (s.dropLeaves p).ZeroAt a := hs
    refine dropped.foldl _ fun u x hu => ?_
    exact hu.storePhys _ (leBytes_zero 8) _
  exact cleared

theorem zeroAt_zeroPages (hs : s.Inv) {ps : List (Nat × Nat)} {b n a : Nat} (hp : (b, n) ∈ ps) (hb : b ≤ a) (ha : a < b + n) : (s.zeroPages ps).ZeroAt a := by
  have hit : ps.any (fun (b, n) => decide (b ≤ a ∧ a < b + n)) = true := List.any_eq_true.2 ⟨_, hp, decide_eq_true ⟨hb, ha⟩⟩
  refine ⟨(hs.zeroPages ps).1, ?_⟩
  unfold State.zeroPages
  refine (Tab.get_keep ..).trans (if_neg ?_)
  dsimp only
  rw [hit]
  decide

/-! #### What returns to the pool -/

/-- Memory and the command stand, and so do the partitions of a kind. -/
structure State.Spares (C : Part → Prop) (s t : State) : Prop where
  mem : t.mem = s.mem
  partCmd : t.partCmd = s.partCmd
  part (q : Nat) : C (s.part q) → t.part q = s.part q

namespace State.Spares

variable {s₀ : State} {C : Part → Prop}

theorem refl (C : Part → Prop) (s : State) : s.Spares C s := ⟨rfl, rfl, fun _ _ => rfl⟩

theorem foldl_fst {α β : Type} {g : State × β → α → State × β} {x : State × β} (hx : s₀.Spares C x.1) (l : List α) (hg : ∀ x a, s₀.Spares C x.1 → s₀.Spares C (g x a).1) :
    s₀.Spares C (l.foldl g x).1 := by
  induction l generalizing x with
  | nil => exact hx
  | cons a rest ih => exact ih (hg x a hx)

theorem updPart (hs : s₀.Spares C s) {q : Nat} (hq : ¬ C (s.part q)) (g : Part → Part) : s₀.Spares C (s.updPart q g) := by
  obtain ⟨mem, partCmd, part⟩ := hs
  refine ⟨mem, partCmd, fun n hn => ?_⟩
  have hne : n ≠ q := by
    rintro rfl
    exact hq (part n hn ▸ hn)
  rw [part_updPart_other _ hne, part n hn]

theorem setField (hs : s₀.Spares C s) (r : Reg) (hi lo v : Nat) : s₀.Spares C (s.setField r hi lo v) := ⟨hs.mem, hs.partCmd, hs.part⟩

theorem yieldWays (hs : s₀.Spares C s) (ds : List Nat) : s₀.Spares C (s.yieldWays ds) := by
  obtain ⟨mem, partCmd, part⟩ := hs
  have cached : ∃ sites, s.yieldWays ds = { s with sites := sites } := by
    unfold State.yieldWays
    clear mem partCmd part
    induction ds generalizing s with
    | nil => exact ⟨s.sites, rfl⟩
    | cons d rest ih =>
      obtain ⟨sites, e⟩ := ih (s := s.updSite d (fun x => { x with cache := x.cache.filter (fun c => decide (c.1 ≠ freeWays)) }))
      exact ⟨sites, e⟩
  obtain ⟨sites, e⟩ := cached
  rw [e]
  exact ⟨mem, partCmd, part⟩

end State.Spares

/-- Quads go to stranded partitions only (R363). -/
theorem feedStranded_spares (s : State) (free : List Nat) : s.Spares (fun x => x.stranded = false) (s.feedStranded free) := by
  refine State.Spares.foldl_fst (.refl _ s) _ fun x q hx => ?_
  obtain ⟨u, free⟩ := x
  dsimp only
  split
  next h =>
    have stranded : ¬ (u.part q).stranded = false := by
      rw [(Bool.and_eq_true_iff.1 h).1]
      decide
    exact ((State.Spares.updPart hx stranded _).yieldWays _).setField ..
  next => exact hx

/-- Cores go to harts that wait for one only (R362). -/
theorem feedWaiting_spares (s : State) (free : List Nat) : s.Spares (fun x => ∀ h ∈ x.harts, h.state ≠ .waitingForCore) (s.feedWaiting free) := by
  refine State.Spares.foldl_fst (.refl _ s) _ fun x q hx => ?_
  dsimp only
  split
  next => exact hx
  next h =>
    have waits : ¬ ∀ k ∈ (x.1.part q).harts, k.state ≠ .waitingForCore := fun hall => h (List.all_eq_true.2 fun k hk => decide_eq_true (hall k hk))
    have given := State.Spares.updPart hx waits (fun y => { y with harts := shareCores (giveCores (x.1.part q).harts x.2).1 })
    exact given

/-- The pages are cleared and the tables emptied, the partition is FREE, and its quads and cores go on to others. -/
theorem freePart_eq (hs : s.Inv) (p : Nat) : ∃ (u : State) (quads cores : List Nat), u.Inv ∧ u.parts = s.parts ∧ u.partCmd = s.partCmd ∧
    u.mem = ((s.zeroPages (s.part p).heldPages).writeTables p (s.part p).map []).mem ∧
    s.freePart p = (((u.setPart p {}).feedStranded quads).feedWaiting cores).endCmd 2 p .done := by
  have cleared := (hs.zeroPages (s.part p).heldPages).writeTables p (s.part p).map []
  have stored := (State.StoresOnly.zeroPages s (s.part p).heldPages).trans (.writeTables _ p (s.part p).map [])
  unfold State.freePart
  extract_lets x v w y z up
  have unbound : ∃ msix pending, w = { v with msix := msix, msixPending := pending } := by
    unfold w
    split
    · exact ⟨_, _, rfl⟩
    · exact ⟨v.msix, v.msixPending, rfl⟩
  obtain ⟨msix, pending, hw⟩ := unbound
  have wInv : w.Inv := hw ▸ cleared
  have parts : w.parts = s.parts := by rw [hw]; exact stored.parts
  have partCmd : w.partCmd = s.partCmd := by rw [hw]; exact stored.partCmd
  have mem : w.mem = v.mem := by rw [hw]
  have yInv : y.Inv := (wInv.setReg (.glob (.ptRoot (pIdx p))) 0).resetPartRegs p
  have zInv : z.Inv := yInv.withReservationsJobsCommits _ _ _
  exact ⟨z, _, _, zInv, parts, partCmd, mem, rfl⟩

/-- The partition is FREE, and whoever does not wait for its quads or cores stays as it is. -/
theorem freePart_spec (hs : s.Inv) {mgmt : Bool} (hcmd : s.partCmd = some ⟨2, p, mgmt⟩) :
    ∃ u : State, u.CmdEnded p mgmt .done (s.freePart p) ∧ u.part p = {} ∧
      (∀ b n a : Nat, (b, n) ∈ (s.part p).heldPages → b ≤ a → a < b + n → u.byte a = 0) ∧
      ∀ q, q ≠ p → (s.part q).stranded = false → (∀ h ∈ (s.part q).harts, h.state ≠ .waitingForCore) → u.part q = s.part q := by
  obtain ⟨u, quads, cores, inv, parts, partCmd, mem, e⟩ := freePart_eq hs p
  have emptied : (u.setPart p {}).Inv := inv.setPart ..
  have quadsFed := feedStranded_spares (u.setPart p {}) quads
  have coresFed := feedWaiting_spares ((u.setPart p {}).feedStranded quads) cores
  have free : (u.setPart p {}).part p = {} := part_setPart_same inv.parts ..
  have quadless : ((u.setPart p {}).part p).stranded = false := by rw [free]
  have free' : ((u.setPart p {}).feedStranded quads).part p = {} := (quadsFed.part p quadless).trans free
  rw [e]
  refine ⟨_, endCmd_of_cmd ((emptied.feedStranded ..).feedWaiting ..) (coresFed.partCmd.trans (quadsFed.partCmd.trans (partCmd.trans hcmd))) _, ?_, ?_, ?_⟩
  · have coreless : ∀ h ∈ (((u.setPart p {}).feedStranded quads).part p).harts, h.state ≠ .waitingForCore := by
      rw [free']
      simp
    exact (coresFed.part p coreless).trans free'
  · intro b n a hp hb ha
    obtain ⟨-, zero⟩ := zeroAt_writeTables_nil (zeroAt_zeroPages hs hp hb ha) p (s.part p).map
    rw [State.byte, coresFed.mem, quadsFed.mem]
    refine Eq.trans ?_ zero
    rw [State.byte, ← mem]
    rfl
  · intro q hq hstranded hwaits
    have same : (u.setPart p {}).part q = s.part q := by rw [part_setPart_other _ hq, State.part, parts]; rfl
    have same' : ((u.setPart p {}).feedStranded quads).part q = s.part q := (quadsFed.part q (by rw [same]; exact hstranded)).trans same
    exact (coresFed.part q (by rw [same']; exact hwaits)).trans same'

theorem mem_heldPages {x : Part} {e : MapEntry} (he : e ∈ x.map) {b : Nat} (hb : b ∈ e.pages) : (b, pageSize e.page) ∈ x.heldPages := by
  rw [Part.heldPages]
  refine List.mem_flatMap.2 ⟨e, ?_, List.mem_map.2 ⟨b, hb, rfl⟩⟩
  exact List.mem_append_left _ (List.mem_append_left _ he)

/-! ### The obligation -/

/-- Settles O28: each step by the lemma about it. -/
theorem frogScrubsInOrder : Obligations.FrogScrubsInOrder := by
  unfold Obligations.FrogScrubsInOrder
  refine ⟨fun p f s hs hf hm0 => ⟨fun _ hbusy => ?_, fun h hrest => ?_, fun h => ?_, fun h => ?_, fun h => ?_, fun h hw => ?_, fun h hw => ?_, fun h => ?_⟩,
    fun p s hs hreleasing hcmd => ?_⟩
  · exact congrArg Host.Outcome.next (enginesStopped_of_busy hf hbusy)
  · obtain ⟨g, hg, step, jobs, state⟩ := enginesStopped_begins hs hf h hrest
    exact ⟨_, g, rfl, hg, step, jobs, state⟩
  · have e : s.scrubStep p f = s.dropCache p := by rw [State.scrubStep, h]; rfl
    obtain ⟨t, ht, rfl, frog⟩ := exec_scrubStep hf (by omega) (by omega) (n := 2) (by simp [Frog.nextStep, h]) e hm0 hs.parts
    exact ⟨_, ht, fun d c => mem_cache_dropCache hs d c, frog, rfl, rfl⟩
  · have changed := scrubStep_two (p := p) hs h
    obtain ⟨tiles, e⟩ := changed.eq
    obtain ⟨t, ht, rfl, frog⟩ := exec_scrubStep hf (by omega) (by omega) (n := 3) (by simp [Frog.nextStep, h]) rfl (by rw [e]; exact hm0) (by rw [e]; exact hs.parts)
    refine ⟨_, ht, fun tl => ⟨fun mine => ?_, fun notMine => ?_⟩, frog, by rw [e]; rfl⟩
    · have scrubbed : ((s.scrubStep p f).updPart p (fun x => { x with frog := some { f with step := 3 } })).tile tl = (s.tile tl).scrubbed :=
        changed.changed tl (mem_frogFreeTiles.2 mine)
      rw [scrubbed]
      exact ⟨rfl, rfl, rfl, rfl, rfl, rfl, rfl, rfl, rfl, rfl, rfl, rfl, rfl⟩
    · exact changed.others tl (mt mem_frogFreeTiles.1 notMine)
  · have changed := scrubStep_three (p := p) hs h
    obtain ⟨tiles, e⟩ := changed.eq
    obtain ⟨t, ht, rfl, frog⟩ := exec_scrubStep hf (by omega) (by omega) (n := if f.whole then 4 else 7) (by simp [Frog.nextStep, h]) rfl (by rw [e]; exact hm0) (by rw [e]; exact hs.parts)
    exact ⟨_, ht, fun tl htl => congrArg Tile.scratch (changed.changed tl htl), frog, by rw [e]; rfl⟩
  · have changed := scrubStep_four (p := p) hs h
    obtain ⟨tiles, e⟩ := changed.eq
    obtain ⟨t, ht, rfl, frog⟩ := exec_scrubStep hf (by omega) (by omega) (n := 5) (by simp [Frog.nextStep, h, hw]) rfl (by rw [e]; exact hm0) (by rw [e]; exact hs.parts)
    refine ⟨_, ht, fun tl htl => congrArg Tile.stash (changed.changed tl ?_), frog, by rw [e]; rfl⟩
    rw [State.frogTiles, if_pos hw]
    exact htl
  · have e : s.scrubStep p f = s.stopCores p := by rw [State.scrubStep, h]; rfl
    obtain ⟨mem, tiles, power, reservations⟩ := stopCores_rest s p
    have stopped : (s.stopCores p).Inv := hs.stopCores ..
    obtain ⟨t, ht, rfl, frog⟩ := exec_scrubStep hf (by omega) (by omega) (n := 7) (by simp [Frog.nextStep, h, hw]) e (by rw [power]; exact hm0) stopped.parts
    refine ⟨_, ht, ?_, fun r hr => ?_, frog, mem, tiles⟩
    · rw [part_updPart_same stopped.parts]
      exact stopCores_harts hs p
    · rw [updPart_reservations, reservations] at hr
      exact of_decide_eq_true (List.mem_filter.1 hr).2
  · have released := releaseFrog_releases hs p f
    have e : s.scrubStepDone p = s.releaseFrog p f := by
      unfold State.scrubStepDone
      rw [hf]
      dsimp only
      rw [if_neg (by omega), if_pos h]
    have same : (s.releaseFrog p f).continueM3 = s.releaseFrog p f := continueM3_of_m0 (by rw [released.power]; exact hm0)
    exact ⟨_, congrArg Host.Outcome.next (by rw [e, same]), released.frog, released.active, released.releasing⟩
  · obtain ⟨u, ended, free, zero, others⟩ := freePart_spec hs hcmd
    have e : s.pageScrubDone p = s.freePart p := if_pos hreleasing
    refine ⟨_, congrArg Host.Outcome.next e, ?_, ended.partCmd, ended.status, ended.busy, fun m hm b hb a hba ha _ => ?_, fun q hq hstranded hwaits => ?_⟩
    · rw [ended.part, free]
    · rw [State.byte, ended.mem]
      exact zero b _ a (mem_heldPages hm hb) hba ha
    · exact (ended.part q).trans (others q hq hstranded hwaits)

end Sys2Proof.Machine
end
section
/-! What the resets and the power commands leave (R386 to R392). -/
namespace Sys2Proof.Machine

variable {s t : State}

/-- Nothing but registers, hank dies and pending commits differs. -/
def State.RegsOnly (s t : State) : Prop := ∃ regs active hanks commits, t = { s with regs := regs, active := active, hanks := hanks, commits := commits }

namespace State.RegsOnly

variable {u : State}

theorem refl (s : State) : s.RegsOnly s := ⟨_, _, _, _, rfl⟩

theorem trans (h : s.RegsOnly t) (k : t.RegsOnly u) : s.RegsOnly u := by
  obtain ⟨_, _, _, _, rfl⟩ := h
  obtain ⟨_, _, _, _, rfl⟩ := k
  exact ⟨_, _, _, _, rfl⟩

theorem setReg (s : State) (r : Reg) (v : Word32) : s.RegsOnly (s.setReg r v) := ⟨_, _, _, _, rfl⟩
theorem setField (s : State) (r : Reg) (hi lo v : Nat) : s.RegsOnly (s.setField r hi lo v) := ⟨_, _, _, _, rfl⟩
theorem setAct (s : State) (r : Reg) (v : Word32) : s.RegsOnly (s.setAct r v) := ⟨_, _, _, _, rfl⟩
theorem updHank (s : State) (h : Nat) (f : Hank → Hank) : s.RegsOnly (s.updHank h f) := ⟨_, _, _, _, rfl⟩

theorem foldl {α : Type} {f : State → α → State} (l : List α) (hf : ∀ (t : State) (x : α), t.RegsOnly (f t x)) (s : State) : s.RegsOnly (l.foldl f s) := by
  induction l generalizing s with
  | nil => exact refl s
  | cons x rest ih => exact (hf s x).trans (ih (f s x))

theorem loadStore (s : State) : s.RegsOnly s.loadStore := by
  have fields : s.RegsOnly (((s.setReg (.glob .pwrCap) (BitVec.ofNat 32 s.store.cap)).setReg (.glob .memCfg)
      (BitVec.ofNat 32 (1 + s.store.interleave * 2 ^ 2 + s.store.interleave * 2 ^ 18))).setReg (.glob .qlNode) (BitVec.ofNat 32 (0xFF0000 + s.store.moduleId.toNat))) :=
    ((setReg s ..).trans (setReg ..)).trans (setReg ..)
  exact fields.trans (foldl _ (fun t d => (setReg t ..).trans (setAct ..)) _)

theorem fillAlarms (recs : List FaultRec) (s : State) : s.RegsOnly (recs.foldl State.fillAlarm s) := by
  refine foldl recs (fun t r => ?_) s
  exact ⟨_, _, _, _, rfl⟩

theorem resetDieRegs (s : State) (keepOut : Bool) : s.RegsOnly (s.resetDieRegs keepOut) := by
  unfold State.resetDieRegs
  extract_lets outs cleared shared
  have hcleared : s.RegsOnly cleared := ⟨_, _, _, _, rfl⟩
  have hshared : cleared.RegsOnly shared := foldl _ (fun t d => (setReg t ..).trans (setAct ..)) _
  exact (hcleared.trans hshared).trans (foldl _ (fun _ _ => setField ..) _)

end State.RegsOnly

/-- What a reset of the module leaves: start-up begins, memory is wiped, no job and no partition is left; the store and the fuse of the lifecycle stay (R390). -/
structure State.Restarted (s t : State) : Prop where
  power : t.power.state = .starting
  mem : t.mem = []
  jobs : t.jobs = []
  parts : t.parts = []
  store : t.store = s.store
  lifecycle : t.lifecycle = s.lifecycle
  identityCert : t.identityCert = s.identityCert

theorem State.Restarted.of_regsOnly {u : State} (h : s.Restarted t) (k : t.RegsOnly u) : s.Restarted u := by
  obtain ⟨_, _, _, _, rfl⟩ := k
  obtain ⟨power, mem, jobs, parts, store, lifecycle, cert⟩ := h
  exact ⟨power, mem, jobs, parts, store, lifecycle, cert⟩

theorem coldReset_restarts (s : State) : s.Restarted s.coldReset ∧ s.coldReset.power.standby = [] := by
  obtain ⟨_, _, _, _, loaded⟩ := State.RegsOnly.loadStore s.offBase
  unfold State.coldReset
  dsimp only
  rw [loaded]
  obtain ⟨_, _, _, _, filled⟩ := State.RegsOnly.fillAlarms s.power.standby (s := _)
  rw [filled]
  exact ⟨⟨rfl, rfl, rfl, rfl, rfl, rfl, rfl⟩, rfl⟩

theorem moduleReset_restarts (s : State) : s.Restarted s.moduleReset := by
  obtain ⟨_, _, _, _, loaded⟩ := State.RegsOnly.loadStore s.offBase
  unfold State.moduleReset
  rw [loaded]
  extract_lets old
  split
  next key drawn hdraw =>
  extract_lets power base counts status outs
  have hbase : s.Restarted base := by
    obtain ⟨-, rfl⟩ := Prod.mk.inj hdraw
    exact ⟨rfl, rfl, rfl, rfl, rfl, rfl, rfl⟩
  have hcounts : base.RegsOnly counts := .foldl _ (fun _ _ => .setReg ..) _
  have hstatus : counts.RegsOnly status := .foldl _ (fun _ _ => .setField ..) _
  have houts : status.RegsOnly outs := .foldl _ (fun _ _ => .setField ..) _
  refine hbase.of_regsOnly (((hcounts.trans hstatus).trans houts).trans (.foldl _ (fun t x => .foldl _ (fun u y => ?_) t) _))
  obtain ⟨e, r⟩ := y
  cases r with
  | some r => exact .updHank ..
  | none => exact .refl u

/-! ### M3 (R388) -/

/-- A power command that came over SMBus ends, and is answered (R386, R430). -/
theorem endPwr_of_cmd {op : Nat} (hcmd : s.power.cmd = some op) (hmgmt : s.power.cmdMgmt = true) (st : Status) :
    ∃ regs, s.endPwr op st = { s with regs := regs, out := s.out ++ [.mgmt 0x11 0 (some st) []], power := { s.power with cmd := none, cmdMgmt := false } } := by
  unfold State.endPwr
  rw [if_pos hcmd, if_pos hmgmt]
  exact ⟨_, rfl⟩

/-- A refused entry to M3 ends with PROTECT. -/
theorem enterM3_of_refused (hstate : s.power.state = .m0) (hrefused : s.m3Refused = true) :
    (s.enterM3 true).power.state = .m0 ∧ (s.enterM3 true).tiles = s.tiles ∧ (s.enterM3 true).out = s.out ++ [.mgmt 0x11 0 (some .protect) []] := by
  have state : (s.pwrStart 1 true).power.state = .m0 := hstate
  have refused : (s.pwrStart 1 true).m3Refused = true := hrefused
  obtain ⟨regs, e⟩ := endPwr_of_cmd (s := s.pwrStart 1 true) (op := 1) rfl rfl .protect
  have same : s.enterM3 true = (s.pwrStart 1 true).endPwr 1 .protect := by
    unfold State.enterM3
    dsimp only
    rw [if_neg (by rw [state]; decide), if_pos (.inr refused)]
  rw [same, e]
  exact ⟨state, rfl, rfl⟩

/-- One that nothing is served before takes place at once. -/
theorem enterM3_of_free (hstate : s.power.state = .m0) (hrefused : s.m3Refused = false) (hfree : s.entryFree = true) :
    (s.enterM3 true).power.state = .m3 ∧ (s.enterM3 true).out = s.out ++ [.mgmt 0x11 0 (some .done) []] := by
  have state : (s.pwrStart 1 true).power.state = .m0 := hstate
  have refused : (s.pwrStart 1 true).m3Refused = false := hrefused
  have entering : ∃ u : State, u = { s.pwrStart 1 true with power := { (s.pwrStart 1 true).power with state := .enteringM3, doorbell := false } } ∧
      u.power.state = .enteringM3 ∧ u.entryFree = true ∧ u.power.doorbell = false ∧ u.power.cmd = some 1 ∧ u.power.cmdMgmt = true ∧ u.out = s.out :=
    ⟨_, rfl, rfl, hfree, rfl, rfl, rfl, rfl⟩
  obtain ⟨u, hu, state', free, bell, cmd, mgmt, out⟩ := entering
  have same : s.enterM3 true = u.continueM3 := by
    unfold State.enterM3
    dsimp only
    rw [if_neg (by rw [state]; decide), if_neg (by rw [state, refused]; decide), hu]
  have off : ∃ v, v = u.enterM3Now ∧ v.power = { u.power with state := .m3 } ∧ v.out = u.out := by
    obtain ⟨_, _, _, _, e⟩ := State.RegsOnly.resetDieRegs u true
    refine ⟨_, rfl, ?_⟩
    unfold State.enterM3Now
    dsimp only
    rw [e]
    exact ⟨rfl, rfl⟩
  obtain ⟨v, hv, power, outv⟩ := off
  obtain ⟨regs, e⟩ := endPwr_of_cmd (s := v) (op := 1) (by rw [power]; exact cmd) (by rw [power]; exact mgmt) .done
  have ended : u.continueM3 = v.endPwr 1 .done := by
    unfold State.continueM3
    rw [if_pos ⟨state', free⟩, ← hv]
    dsimp only
    rw [e, if_neg]
    rw [power, bell]
    decide
  rw [same, ended, e, power, outv, out]
  exact ⟨rfl, rfl⟩

/-- The exit from M3 begins. -/
theorem leaveCmd_of_m3 (hstate : s.power.state = .m3) :
    (s.leaveCmd true).power.state = .leavingM3 ∧ (s.leaveCmd true).power.cmd = some 2 ∧ (s.leaveCmd true).power.cmdMgmt = true := by
  have state : (s.pwrStart 2 true).power.state = .m3 := hstate
  have same : s.leaveCmd true = (s.pwrStart 2 true).leaveM3 := by
    unfold State.leaveCmd
    dsimp only
    rw [state]
  rw [same]
  exact ⟨rfl, rfl, rfl⟩

end Sys2Proof.Machine
end
section
/-! GET_STATE (R430): the fields of RAS_STATUS, PWR_STATUS and DIE_STATE that it answers (R373, R386). -/
namespace Sys2Proof.Machine

variable {s : State}

theorem flagAt_eq (b : Bool) (i : Nat) : flagAt b i = b.toNat * 2 ^ i := by cases b <;> simp [flagAt]

theorem sitesIn_le (s : State) (x : DieState) : s.sitesIn x ≤ 18 := by
  have h := List.length_filter_le (fun d => decide ((s.site d).state = x)) (List.range 18)
  rwa [List.length_range] at h

/-- RAS_STATUS by its fields (R373). -/
theorem rasStatus_fields (s : State) : nbits s.rasStatus 20 16 = s.sitesIn .active ∧ nbits s.rasStatus 12 11 = min 3 (s.sitesIn .spare) ∧
    nbits s.rasStatus 31 31 = s.alarmOut.toNat ∧ nbits s.rasStatus 30 30 = s.service.toNat ∧ nbits s.rasStatus 29 29 = s.anyStranded.toNat ∧
    nbits s.rasStatus 28 28 = (decide (s.sitesIn .active < s.gradeDies)).toNat ∧ nbits s.rasStatus 27 27 = (decide (s.sitesIn .spare < 2)).toNat ∧
    nbits s.rasStatus 26 26 = s.fabric.toNat := by
  have active := sitesIn_le s .active
  have alarm := s.alarmOut.toNat_le
  have service := s.service.toNat_le
  have stranded := s.anyStranded.toNat_le
  have degraded := (decide (s.sitesIn .active < s.gradeDies)).toNat_le
  have spares := (decide (s.sitesIn .spare < 2)).toNat_le
  have fabric := s.fabric.toNat_le
  simp only [State.rasStatus, nbits, flagAt_eq]
  generalize s.sitesIn .active = n at *
  generalize s.sitesIn .spare = m at *
  omega

theorem effCap_le (s : State) : s.effCap ≤ 9500 := by
  have grade : s.gradeMax ≤ 9500 := by
    unfold State.gradeMax
    split <;> decide
  unfold State.effCap
  dsimp only
  split
  · decide
  · split <;> split <;> omega

/-- PWR_STATUS by its fields (R386). -/
theorem pwrStatus_fields (s : State) : nbits s.pwrStatus 31 22 = s.effCap / 10 ∧ nbits s.pwrStatus 21 19 = s.power.state.code ∧
    nbits s.pwrStatus 15 15 = (decide (s.power.inputMv < 47500)).toNat ∧
    nbits s.pwrStatus 14 14 = (decide (400 < s.power.inletDeci) || decide (s.power.flowCenti < 1600)).toNat := by
  have cap := effCap_le s
  have code : s.power.state.code < 8 := by cases s.power.state <;> decide
  have low := (decide (s.power.inputMv < 47500)).toNat_le
  have coolant := (decide (400 < s.power.inletDeci) || decide (s.power.flowCenti < 1600)).toNat_le
  have hot := (((List.range 18).filter s.diePowered).any (fun d => decide (950 < (s.site d).tempDeci))).toNat_le
  have slow := (((List.range 18).filter s.diePowered).any (fun d => decide ((s.site d).duty < 16))).toNat_le
  have refused : bits (s.reg (.glob .pwrStatus)) 0 0 < 2 := Nat.mod_lt _ (by decide)
  simp only [State.pwrStatus, nbits, flagAt_eq]
  omega

/-- Digits to the base 4 read back. -/
theorem digit_of_sum {f : Nat → Nat} (hf : ∀ i, f i < 4) (n : Nat) :
    ((List.range n).map (fun i => f i * 4 ^ i)).sum < 4 ^ n ∧ ∀ k < n, ((List.range n).map (fun i => f i * 4 ^ i)).sum / 4 ^ k % 4 = f k := by
  induction n with
  | zero => exact ⟨by simp, fun k hk => absurd hk (Nat.not_lt_zero k)⟩
  | succ n ih =>
    obtain ⟨small, digits⟩ := ih
    rw [List.range_succ, List.map_append, List.sum_append, List.map_singleton, List.sum_singleton]
    generalize ((List.range n).map (fun i => f i * 4 ^ i)).sum = x at *
    have digit := hf n
    refine ⟨?_, fun k hk => ?_⟩
    · calc x + f n * 4 ^ n < 4 ^ n + f n * 4 ^ n := by omega
        _ = (f n + 1) * 4 ^ n := by ring
        _ ≤ 4 * 4 ^ n := Nat.mul_le_mul_right _ (by omega)
        _ = 4 ^ (n + 1) := by ring
    · obtain rfl | hlt := Nat.eq_or_lt_of_le (Nat.le_of_lt_succ hk)
      · rw [Nat.add_mul_div_right _ _ (by positivity), Nat.div_eq_of_lt small, Nat.zero_add, Nat.mod_eq_of_lt digit]
      · obtain ⟨d, rfl⟩ : ∃ d, n = k + 1 + d := ⟨n - (k + 1), by omega⟩
        have high : f (k + 1 + d) * 4 ^ (k + 1 + d) = f (k + 1 + d) * 4 ^ d * 4 * 4 ^ k := by ring
        rw [high, Nat.add_mul_div_right _ _ (by positivity), Nat.add_mul_mod_self_right, digits k hlt]

theorem DieState.code_lt (x : DieState) : x.code < 4 := by cases x <;> decide

/-- DIE_STATE by its fields (R373). -/
theorem dieStates_field (s : State) (first : Nat) {n i : Nat} (h : i < n) : nbits (s.dieStates first n) (2 * i + 1) (2 * i) = (s.site (first + i)).state.code := by
  obtain ⟨-, digits⟩ := digit_of_sum (f := fun i => (s.site (first + i)).state.code) (fun _ => DieState.code_lt _) n
  have width : 2 ^ (2 * i + 1 + 1 - 2 * i) = 4 := by rw [show 2 * i + 1 + 1 - 2 * i = 2 by omega]; rfl
  rw [nbits, width, pow_mul]
  exact digits i h

end Sys2Proof.Machine
end
section
/-! The management commands (R430), each in the circumstances that O52 names. -/
namespace Sys2Proof.Machine

variable {s : State}

/-! ### Answers -/

theorem mgmtRun_of_powered (h : s.powered = true) (cmd : Nat) (f : State → State) : s.mgmtRun cmd f = f s := if_pos h
theorem mgmtRun_of_off (h : s.powered = false) (cmd : Nat) (f : State → State) : s.mgmtRun cmd f = s.mgmtRefuse cmd 2 := if_neg (by rw [h]; decide)

theorem mem_mgmtDone (s : State) (cmd : Nat) (st : Option Status) (data : List Nat) : Output.mgmt cmd 0 st data ∈ (s.mgmtDone cmd st data).out :=
  List.mem_append_right _ (List.mem_singleton.2 rfl)

/-! ### GET_STATE and COLD_RESET -/

theorem getState_of_off (h : s.powered = false) : exec .getState s = .next (s.emit (.mgmt 0x01 0 none [Lifecycle.code s.lifecycle, s.grade])) := by
  refine congrArg Host.Outcome.next ?_
  rw [h]
  rfl

theorem getState_of_powered (h : s.powered = true) : exec .getState s =
    .next (s.emit (.mgmt 0x01 0 none [Lifecycle.code s.lifecycle, s.grade, s.rasStatus, s.pwrStatus, s.dieStates 0 16, s.dieStates 16 2])) := by
  refine congrArg Host.Outcome.next ?_
  rw [h]
  rfl

theorem coldReset_answers (s : State) : ∃ t, exec .coldReset s = .next t ∧ s.Restarted t ∧ t.power.standby = [] ∧ Output.mgmt 0x12 0 none [] ∈ t.out := by
  obtain ⟨restarted, standby⟩ := coldReset_restarts (s.mgmtDone 0x12 none [])
  exact ⟨_, rfl, ⟨restarted.power, restarted.mem, restarted.jobs, restarted.parts, restarted.store, restarted.lifecycle, restarted.identityCert⟩, standby,
    (State.Kept.coldReset (.refl _)).mem_out (mem_mgmtDone ..)⟩

/-! ### SET_CAP (R386) -/

section
variable {c : Nat}

theorem setCap_of_illegal (h : ¬ (300 ≤ c ∧ c ≤ if s.grade = 3 then 860 else 950)) (store : Bool) : s.setCap c store = s.mgmtRefuse 0x10 3 := by
  have ok : s.capOk c = false := decide_eq_false h
  rw [State.setCap, ok]
  rfl

theorem setCap_unstored (h : 300 ≤ c ∧ c ≤ if s.grade = 3 then 860 else 950) :
    s.setCap c false = (s.setReg (.glob .pwrCap) (BitVec.ofNat 32 c)).mgmtDone 0x10 none [] := by
  have ok : s.capOk c = true := decide_eq_true h
  rw [State.setCap, ok]
  rfl

theorem setCap_stored (h : 300 ≤ c ∧ c ≤ if s.grade = 3 then 860 else 950) (hidle : s.storeBusy = none) :
    s.setCap c true = State.setReg { s with storeBusy := some { job := .field 0x06 (.cap c), answer := some 0x10 } } (.glob .pwrCap) (BitVec.ofNat 32 c) := by
  have ok : s.capOk c = true := decide_eq_true h
  have put : s.storePut { job := .field 0x06 (.cap c), answer := some 0x10 } = some { s with storeBusy := some { job := .field 0x06 (.cap c), answer := some 0x10 } } :=
    if_pos (by rw [hidle]; rfl)
  rw [State.setCap, ok, put]
  rfl

theorem setCap_busy (h : 300 ≤ c ∧ c ≤ if s.grade = 3 then 860 else 950) (hbusy : s.storeBusy ≠ none) (hfull : 8 ≤ s.storeQueue.length) :
    s.setCap c true = s.mgmtRefuse 0x10 1 := by
  have ok : s.capOk c = true := decide_eq_true h
  have put : s.storePut { job := .field 0x06 (.cap c), answer := some 0x10 } = none := by
    rw [State.storePut, if_neg (by simpa using hbusy), if_neg (by omega)]
  rw [State.setCap, ok, put]
  rfl

end

/-! ### POWER (R386, R389) -/

theorem powerCmd_off (h : s.powered = true) : (s.powerCmd 4).power.state = .m4 ∧ (s.powerCmd 4).mem = [] ∧ Output.mgmt 0x11 0 (some .done) [] ∈ (s.powerCmd 4).out := by
  have powered : (s.mgmtDone 0x11 (some .done) []).powered = true := h
  have off : s.powerCmd 4 = (s.mgmtDone 0x11 (some .done) []).offBase := if_pos powered
  rw [off]
  exact ⟨rfl, rfl, mem_mgmtDone ..⟩

theorem powerCmd_of_undefined {x : Nat} (h1 : x ≠ 1) (h2 : x ≠ 2) (h4 : x ≠ 4) (h8 : x ≠ 8) : s.powerCmd x = s.mgmtRefuse 0x11 3 := by
  rw [State.powerCmd, if_neg h4, if_pos ⟨h1, h2, h8⟩]

/-- While a command is in progress the others are refused. -/
theorem powerCmd_of_busy {x : Nat} (hx : x = 1 ∨ x = 2 ∨ x = 8) (hbusy : s.power.cmd ≠ none) : s.powerCmd x = s.mgmtRefuse 0x11 1 := by
  rw [State.powerCmd, if_neg (by omega), if_neg (by omega), if_pos (Option.isSome_iff_ne_none.2 hbusy)]

section
variable (hidle : s.power.cmd = none)
include hidle

theorem powerCmd_one : s.powerCmd 1 = s.enterM3 true := by
  rw [State.powerCmd, hidle]
  rfl

theorem powerCmd_two : s.powerCmd 2 = s.leaveCmd true := by
  rw [State.powerCmd, hidle]
  rfl

theorem powerCmd_eight : s.powerCmd 8 = (s.mgmtDone 0x11 (some .done) []).moduleReset := by
  rw [State.powerCmd, hidle]
  rfl

end

/-! ### PARTITION (R311 to R316) -/

section
variable {p : Nat} {r : BitVec 2048} {ms : List (BitVec 128)}

/-- The partition command that an accepted PARTITION issues. -/
def State.partitionRun (s : State) (x p : Nat) (src : RecordSource) : State :=
  match x with
  | 1 => s.partCreate src p true
  | 2 => s.partDestroy p true
  | 3 => s.partRemap src p true
  | _ => s.partFrog p true

/-- CREATE and REMAP read a record that comes inline: with MAP_ADDR zero and as many map entries as it says. -/
theorem partitionCmd_of_malformed {x : Nat} (h : x = 0 ∨ 4 < x ∨ 64 ≤ p ∨ 64 < ms.length ∨ ((x = 1 ∨ x = 3) ∧ (prMapAddr r.toNat ≠ 0 ∨ prMapCount r.toNat ≠ ms.length))) :
    s.partitionCmd x p r ms = s.mgmtRefuse 0x20 3 := by
  refine if_pos ?_
  simpa using h

section
variable {x : Nat} (h0 : x ≠ 0) (h4 : x ≤ 4) (hp : p < 64) (hms : ms.length ≤ 64) (hreads : x = 1 ∨ x = 3 → prMapAddr r.toNat = 0 ∧ prMapCount r.toNat = ms.length)
include h0 h4 hp hms hreads

theorem partition_wellFormed : ¬ (x = 0 ∨ 4 < x ∨ 64 ≤ p ∨ 64 < ms.length ∨ ((decide (x = 1) || decide (x = 3)) = true ∧ (prMapAddr r.toNat ≠ 0 ∨ prMapCount r.toNat ≠ ms.length))) := by
  rintro (h | h | h | h | ⟨h, hne⟩)
  · exact h0 h
  · omega
  · omega
  · omega
  · obtain ⟨addr, count⟩ := hreads (by simpa using h)
    exact hne.elim (fun k => k addr) (fun k => k count)

theorem partitionCmd_of_busy (hbusy : s.partCmd ≠ none) : s.partitionCmd x p r ms = s.mgmtRefuse 0x20 1 :=
  (if_neg (partition_wellFormed h0 h4 hp hms hreads)).trans (if_pos (Option.isSome_iff_ne_none.2 hbusy))

theorem partitionCmd_of_idle (hidle : s.partCmd = none) : s.partitionCmd x p r ms = s.partitionRun x p (.inline r ms) := by
  have idle : ¬ s.partCmd.isSome = true := by rw [hidle]; decide
  exact (if_neg (partition_wellFormed h0 h4 hp hms hreads)).trans (if_neg idle)

end

theorem not_partHeld_of_free (h : (s.part p).state = .free) : s.partHeld p = false := by
  rw [State.partHeld, h]
  rfl

/-- DESTROY and FROG of a partition that is FREE end with PROTECT. -/
theorem partDestroy_of_free (hs : s.Inv) (mgmt : Bool) (h : (s.part p).state = .free) : (s.issueCmd 2 p mgmt).CmdEnded p mgmt .protect (s.partDestroy p mgmt) := by
  have held : (s.issueCmd 2 p mgmt).partHeld p = false := not_partHeld_of_free h
  unfold State.partDestroy
  dsimp only
  rw [held]
  exact endCmd_of_cmd (hs.issueCmd ..) rfl _

theorem partFrog_of_free (hs : s.Inv) (mgmt : Bool) (h : (s.part p).state = .free) : (s.issueCmd 4 p mgmt).CmdEnded p mgmt .protect (s.partFrog p mgmt) := by
  have held : (s.issueCmd 4 p mgmt).partHeld p = false := not_partHeld_of_free h
  unfold State.partFrog
  dsimp only
  rw [held]
  exact endCmd_of_cmd (hs.issueCmd ..) rfl _

end

/-! ### RETIRE (R373) -/

theorem retireCmd_of_busy {d : Nat} (h : bit (s.reg (.glob .rasCmdStatus)) 0 = true) : s.retireCmd d = s.mgmtRefuse 0x21 1 := by
  rw [State.retireCmd, if_pos h]

section
variable {d : Nat} (hidle : bit (s.reg (.glob .rasCmdStatus)) 0 = false)
include hidle

theorem retireCmd_of_unusable (h : 18 ≤ d ∨ (s.site d).state ≠ .active) :
    s.retireCmd d = (s.setField (.glob .rasCmdStatus) 31 16 Status.descMalformed.code).mgmtDone 0x21 (some .descMalformed) [] := by
  have refused : s.rasRetire 1 d true = .error .descMalformed := if_pos (.inr h)
  rw [State.retireCmd, if_neg (by rw [hidle]; decide), refused]

theorem retireCmd_of_usable (hd : d < 18) (hactive : (s.site d).state = .active) (hlast : s.lastDie d = false) (hqueued : s.retireQueued d = false) :
    s.retireCmd d = State.setField { s with retireQueue := s.retireQueue ++ [{ site := d, kind := 2, operator := true, mgmt := true }] } (.glob .rasCmdStatus) 0 0 1 := by
  have decided : s.rasRetire 1 d true =
      .ok (State.setField { s with retireQueue := s.retireQueue ++ [{ site := d, kind := 2, operator := true, mgmt := true }] } (.glob .rasCmdStatus) 0 0 1) := by
    have queued : (s.setField (.glob .rasCmdStatus) 0 0 1).retireQueued d = false := hqueued
    unfold State.rasRetire
    rw [if_neg (by simp [hd, hactive]), if_neg (by rw [hlast]; decide)]
    dsimp only
    rw [if_neg (by rw [queued]; decide)]
    rfl
  rw [State.retireCmd, if_neg (by rw [hidle]; decide), decided]

end

/-! ### LIFECYCLE (R327) -/

/-- The transitions of R327. -/
theorem lifecycleMove_iff (old new : Lifecycle) (auth : Bool) : lifecycleMove old new auth = true ↔
    (old = .manufacturing ∧ new = .provisioned ∧ auth = true) ∨ (old = .provisioned ∧ (new = .deployed ∨ new = .returned)) ∨
    (old = .deployed ∧ (new = .provisioned ∨ new = .returned)) ∨ (old = .returned ∧ new = .manufacturing ∧ auth = true) := by
  cases old <;> cases new <;> simp [lifecycleMove]

theorem lifecycleCmd_of_refused {l : Lifecycle} {auth : Bool}
    (h : lifecycleMove s.lifecycle l auth = false ∨ ((s.lifecycle = .deployed ∨ l = .returned) ∧ ∃ q ∈ s.parts, q.2.state ≠ .free)) :
    s.lifecycleCmd l auth = s.mgmtDone 0x30 (some .protect) [] := by
  refine if_neg fun hgo => ?_
  obtain ⟨hmove, hempty⟩ := Bool.and_eq_true_iff.1 hgo
  obtain hno | ⟨hneeds, q, hq, hheld⟩ := h
  · rw [hno] at hmove
    cases hmove
  · have needs : (decide (s.lifecycle = .deployed) || decide (l = .returned)) = true := by simpa using hneeds
    rw [needs] at hempty
    exact hheld (of_decide_eq_true (List.all_eq_true.1 hempty q hq))

/-- A transition writes the fuse and resets the module; the change to Provisioned certifies the identity key (R347). -/
theorem lifecycleCmd_of_allowed {l : Lifecycle} {auth : Bool} (h : lifecycleMove s.lifecycle l auth = true) (hfree : ∀ q ∈ s.parts, q.2.state = .free) :
    s.lifecycleCmd l auth = (State.mgmtDone { s with lifecycle := l, identityCert := s.identityCert || decide (s.lifecycle = .manufacturing ∧ l = .provisioned) }
      0x30 (some .done) []).moduleReset := by
  have free : s.parts.all (fun q => decide (q.2.state = .free)) = true := List.all_eq_true.2 fun q hq => decide_eq_true (hfree q hq)
  refine if_pos ?_
  rw [h, free]
  simp

/-! ### The obligation -/

theorem toNat_ne {x : BitVec 8} {n : Nat} (h : x ≠ BitVec.ofNat 8 n) : x.toNat ≠ n := by
  rintro rfl
  exact h (by simp)

theorem bool_iff_of_toNat {b : Bool} {x : Nat} (h : x = b.toNat) : x = 1 ↔ b = true := by
  rw [h]
  cases b
  · simp
  · simp

theorem getState_answers (h : s.powered = true) : ∃ ras pwr lo hi : Nat, exec .getState s = .next (s.emit (.mgmt 0x01 0 none [Lifecycle.code s.lifecycle, s.grade, ras, pwr, lo, hi])) ∧
    nbits ras 20 16 = s.sitesIn .active ∧ nbits ras 12 11 = min 3 (s.sitesIn .spare) ∧ (nbits ras 31 31 = 1 ↔ s.alarmOut = true) ∧ (nbits ras 30 30 = 1 ↔ s.service = true) ∧
    (nbits ras 29 29 = 1 ↔ s.anyStranded = true) ∧ (nbits ras 28 28 = 1 ↔ s.sitesIn .active < s.gradeDies) ∧ (nbits ras 27 27 = 1 ↔ s.sitesIn .spare < 2) ∧
    (nbits ras 26 26 = 1 ↔ s.fabric = true) ∧ nbits pwr 31 22 = s.effCap / 10 ∧ nbits pwr 21 19 = s.power.state.code ∧ (nbits pwr 15 15 = 1 ↔ s.power.inputMv < 47500) ∧
    (nbits pwr 14 14 = 1 ↔ 400 < s.power.inletDeci ∨ s.power.flowCenti < 1600) ∧
    (∀ i : Nat, i < 16 → nbits lo (2 * i + 1) (2 * i) = (s.site i).state.code) ∧ (∀ i : Nat, i < 2 → nbits hi (2 * i + 1) (2 * i) = (s.site (16 + i)).state.code) := by
  obtain ⟨active, spare, alarm, service, stranded, degraded, spares, fabric⟩ := rasStatus_fields s
  obtain ⟨cap, state, low, coolant⟩ := pwrStatus_fields s
  refine ⟨_, _, _, _, getState_of_powered h, active, spare, bool_iff_of_toNat alarm, bool_iff_of_toNat service, bool_iff_of_toNat stranded,
    (bool_iff_of_toNat degraded).trans decide_eq_true_iff, (bool_iff_of_toNat spares).trans decide_eq_true_iff, bool_iff_of_toNat fabric, cap, state,
    (bool_iff_of_toNat low).trans decide_eq_true_iff, (bool_iff_of_toNat coolant).trans ?_, fun i hi => ?_, fun i hi => dieStates_field s 16 hi⟩
  · rw [Bool.or_eq_true, decide_eq_true_iff, decide_eq_true_iff]
  · rw [dieStates_field s 0 hi, Nat.zero_add]

/-- PARTITION: refused, or the partition command that it issues (R311 to R316). -/
theorem partition_answers (hp : s.powered = true) (x p : BitVec 8) (r : BitVec 2048) (ms : List (BitVec 128)) :
    let reads := x = 1 ∨ x = 3
    let refused := goes (s.emit (.mgmt 0x20 1 none []))
    (x = 0 ∨ 4 < x.toNat ∨ 64 ≤ p.toNat ∨ 64 < ms.length ∨ (reads ∧ (prMapAddr r.toNat ≠ 0 ∨ prMapCount r.toNat ≠ ms.length)) →
      exec (.partition x p r ms) s = goes (s.emit (.mgmt 0x20 3 none []))) ∧
    (p.toNat < 64 → ms.length ≤ 64 → (reads → prMapAddr r.toNat = 0 ∧ prMapCount r.toNat = ms.length) →
      (0 < x.toNat → x.toNat ≤ 4 → s.partCmd ≠ none → exec (.partition x p r ms) s = refused) ∧
      (s.partCmd = none → s.Inv →
        (∀ e, x = 1 → (s.issueCmd 1 p.toNat true).createCheck (.inline r ms) p.toNat = .error e →
          ∃ t, exec (.partition x p r ms) s = .next t ∧ t.partCmd = none ∧ t.parts = s.parts ∧ t.mem = s.mem ∧ t.out = s.out ++ [.mgmt 0x20 0 (some e) []]) ∧
        (∀ y m, x = 1 → (s.issueCmd 1 p.toNat true).createCheck (.inline r ms) p.toNat = .ok (y, m) →
          ∃ t, exec (.partition x p r ms) s = .next t ∧ t.partCmd = none ∧ (t.part p.toNat).state = .active ∧ (t.part p.toNat).quads = prQuads y ∧ (t.part p.toNat).map = m ∧
            t.out = s.out ++ [.mgmt 0x20 0 (some .done) []]) ∧
        (x = 2 ∨ x = 4 → (s.part p.toNat).state = .free → ∃ t, exec (.partition x p r ms) s = .next t ∧ t.partCmd = none ∧ t.parts = s.parts ∧
          t.out = s.out ++ [.mgmt 0x20 0 (some .protect) []]) ∧
        (x = 2 ∨ x = 4 → (s.part p.toNat).state = .active → (s.part p.toNat).frog = none → ∃ t, exec (.partition x p r ms) s = .next t ∧ (t.part p.toNat).state = .stopping ∧
          t.partCmd = some { op := x.toNat, part := p.toNat, mgmt := true }))) := by
  have run : exec (.partition x p r ms) s = .next (s.partitionCmd x.toNat p.toNat r ms) := congrArg Host.Outcome.next (mgmtRun_of_powered hp 0x20 _)
  intro reads refused
  have number (n : Nat) (hn : n < 256) : x = BitVec.ofNat 8 n ↔ x.toNat = n := by
    rw [← BitVec.toNat_inj, BitVec.toNat_ofNat, Nat.mod_eq_of_lt hn]
  have reads_iff : x.toNat = 1 ∨ x.toNat = 3 ↔ reads := or_congr (number 1 (by decide)).symm (number 3 (by decide)).symm
  refine ⟨fun h => run.trans (congrArg Host.Outcome.next (partitionCmd_of_malformed ?_)), fun hpart hms hreads => ⟨fun h0 h4 hbusy => ?_, fun hidle hs => ?_⟩⟩
  · exact h.imp (number 0 (by decide)).1 (Or.imp_right (Or.imp_right (Or.imp_right (And.imp_left reads_iff.2))))
  · exact run.trans (congrArg Host.Outcome.next (partitionCmd_of_busy (by omega) h4 hpart hms (fun h => hreads (reads_iff.1 h)) hbusy))
  · have issued (h0 : x.toNat ≠ 0) (h4 : x.toNat ≤ 4) : exec (.partition x p r ms) s = .next (s.partitionRun x.toNat p.toNat (.inline r ms)) :=
      run.trans (congrArg Host.Outcome.next (partitionCmd_of_idle h0 h4 hpart hms (fun h => hreads (reads_iff.1 h)) hidle))
    refine ⟨fun e hx hcheck => ?_, fun y m hx hcheck => ?_, fun hx hfree => ?_, fun hx hactive hfrog => ?_⟩
    · subst hx
      have ended := partCreate_of_error (p := ⟨p.toNat, hpart⟩) hs hcheck
      exact ⟨_, issued (by decide) (by decide), ended.partCmd, ended.parts, ended.mem, ended.out⟩
    · subst hx
      obtain ⟨u, made, ended⟩ := partCreate_of_ok (p := ⟨p.toNat, hpart⟩) hs hcheck
      obtain ⟨key, hmade⟩ := made.part
      have part : (State.partCreate s (.inline r ms) p.toNat true).part p.toNat = createdPart y m key := (ended.part _).trans hmade
      have out := ended.out
      rw [made.out] at out
      exact ⟨_, issued (by decide) (by decide), ended.partCmd, congrArg Part.state part, congrArg Part.quads part, congrArg Part.map part, out⟩
    · obtain rfl | rfl := hx
      · have ended := partDestroy_of_free hs true hfree
        exact ⟨_, issued (by decide) (by decide), ended.partCmd, ended.parts, ended.out⟩
      · have ended := partFrog_of_free hs true hfree
        exact ⟨_, issued (by decide) (by decide), ended.partCmd, ended.parts, ended.out⟩
    · obtain rfl | rfl := hx
      · have stops := partDestroy_stops true hs hactive hfrog
        exact ⟨_, issued (by decide) (by decide), stops.state, stops.partCmd⟩
      · have stops := partFrog_stops true hs hactive hfrog
        exact ⟨_, issued (by decide) (by decide), stops.state, stops.partCmd⟩

/-- Settles O52: each command by the lemmas about it. -/
theorem managementCommandsAnswer : Obligations.ManagementCommandsAnswer := by
  unfold Obligations.ManagementCommandsAnswer
  intro s refused dies
  refine ⟨getState_of_off, fun hp => ?_, ?_, fun hp h e c b x y r ms l v img n => ?_, fun hp => ⟨?_, ?_, ?_, ?_, ?_, ?_, ?_, ?_, ?_⟩⟩
  · exact getState_answers hp
  · obtain ⟨t, ht, restarted, standby, answered⟩ := coldReset_answers s
    exact ⟨t, ht, restarted.power, restarted.mem, restarted.jobs, restarted.parts, restarted.store, restarted.lifecycle, standby, answered⟩
  · have off (cmd : Nat) (f : State → State) : (Host.Outcome.next (s.mgmtRun cmd f) : Host.Outcome State Fault Refusal) = refused cmd 2 :=
      congrArg Host.Outcome.next (mgmtRun_of_off hp cmd f)
    exact ⟨off .., off .., off .., off .., off .., off .., off .., off .., off ..⟩
  · intro h e hrun
    have run (cmd : Nat) (f : State → State) := congrArg (Host.Outcome.next : State → Host.Outcome State Fault Refusal) (mgmtRun_of_powered hp cmd f)
    refine ⟨(run ..).trans ?_, (run ..).trans (congrArg Host.Outcome.next (if_pos hrun))⟩
    simp only [hrun]
    rfl
  · intro c legal
    have run (b : Bool) : exec (.setCap c b) s = .next (s.setCap c.toNat b) := congrArg Host.Outcome.next (mgmtRun_of_powered hp 0x10 _)
    refine ⟨fun h b => ?_, fun h => ?_, fun h hidle => ?_, fun h hbusy hfull => ?_⟩
    · rw [run, setCap_of_illegal h]
      rfl
    · rw [run, setCap_unstored h]
      rfl
    · rw [run, setCap_stored h hidle]
    · rw [run, setCap_busy h hbusy hfull]
      rfl
  · obtain ⟨off, mem, answered⟩ := powerCmd_off hp
    exact ⟨_, congrArg Host.Outcome.next (mgmtRun_of_powered hp 0x11 _), off, mem, answered⟩
  · intro x h1 h2 h4 h8
    refine congrArg Host.Outcome.next ((mgmtRun_of_powered hp 0x11 _).trans ?_)
    exact powerCmd_of_undefined (toNat_ne h1) (toNat_ne h2) (toNat_ne h4) (toNat_ne h8)
  · intro hbusy
    have busy {x : BitVec 8} (hx : x.toNat = 1 ∨ x.toNat = 2 ∨ x.toNat = 8) : exec (.power x) s = refused 0x11 1 :=
      congrArg Host.Outcome.next ((mgmtRun_of_powered hp 0x11 _).trans (powerCmd_of_busy hx hbusy))
    exact ⟨busy (by decide), busy (by decide), busy (by decide)⟩
  · intro hidle
    have run (x : BitVec 8) : exec (.power x) s = .next (s.powerCmd x.toNat) := congrArg Host.Outcome.next (mgmtRun_of_powered hp 0x11 _)
    refine ⟨?_, fun hm0 hrefused => ?_, fun hm0 hrefused hfree => ?_, fun hm3 => ?_⟩
    · have restarted := moduleReset_restarts (s.mgmtDone 0x11 (some .done) [])
      exact ⟨_, (run 8).trans (congrArg Host.Outcome.next (powerCmd_eight hidle)), restarted.power, restarted.mem, (State.Kept.moduleReset (.refl _)).mem_out (mem_mgmtDone ..)⟩
    · exact ⟨_, (run 1).trans (congrArg Host.Outcome.next (powerCmd_one hidle)), enterM3_of_refused hm0 hrefused⟩
    · exact ⟨_, (run 1).trans (congrArg Host.Outcome.next (powerCmd_one hidle)), enterM3_of_free hm0 hrefused hfree⟩
    · exact ⟨_, (run 2).trans (congrArg Host.Outcome.next (powerCmd_two hidle)), leaveCmd_of_m3 hm3⟩
  · intro x p r ms reads
    exact partition_answers hp x p r ms
  · intro x
    have run : exec (.retire x) s = .next (s.retireCmd x.toNat) := congrArg Host.Outcome.next (mgmtRun_of_powered hp 0x21 _)
    refine ⟨fun hbusy => run.trans (congrArg Host.Outcome.next (retireCmd_of_busy hbusy)), fun hidle => ⟨fun h => ?_, fun hd hactive hlast hqueued => ?_⟩⟩
    · exact ⟨_, run.trans (congrArg Host.Outcome.next (retireCmd_of_unusable hidle h)), rfl, rfl, rfl⟩
    · exact run.trans (congrArg Host.Outcome.next (retireCmd_of_usable hidle hd hactive hlast hqueued))
  · intro l auth allowed
    have run : exec (.lifecycle l auth) s = .next (s.lifecycleCmd l auth) := congrArg Host.Outcome.next (mgmtRun_of_powered hp 0x30 _)
    have move : lifecycleMove s.lifecycle l auth = true ↔ allowed := lifecycleMove_iff ..
    refine ⟨fun h => ?_, fun h hfree => ?_⟩
    · refine run.trans (congrArg Host.Outcome.next (lifecycleCmd_of_refused (h.imp (fun hno => ?_) fun hheld => hheld)))
      exact Bool.eq_false_iff.2 (mt move.1 hno)
    · have restarted := moduleReset_restarts (State.mgmtDone { s with lifecycle := l, identityCert := s.identityCert || decide (s.lifecycle = .manufacturing ∧ l = .provisioned) }
        0x30 (some .done) [])
      refine ⟨_, run.trans (congrArg Host.Outcome.next (lifecycleCmd_of_allowed (move.2 h) hfree)), restarted.lifecycle, restarted.power, restarted.mem, restarted.jobs,
        restarted.store, fun hm => restarted.identityCert.trans ?_, (State.Kept.moduleReset (.refl _)).mem_out (mem_mgmtDone ..)⟩
      have provisioned : l = .provisioned := by
        obtain ⟨-, hl, -⟩ | ⟨hl, -⟩ | ⟨hl, -⟩ | ⟨hl, -⟩ := h
        · exact hl
        all_goals
          rw [hm] at hl
          cases hl
      rw [show (State.mgmtDone { s with lifecycle := l, identityCert := s.identityCert || decide (s.lifecycle = .manufacturing ∧ l = .provisioned) }
        0x30 (some .done) []).identityCert = (s.identityCert || decide (s.lifecycle = .manufacturing ∧ l = .provisioned)) from rfl, decide_eq_true ⟨hm, provisioned⟩, Bool.or_true]

end Sys2Proof.Machine
end
section
/-! The operations of a point unit (R333 to R335, R338, R339): how a unit runs its operation, and what each operation makes of its inputs. -/
namespace Sys2Proof.Machine

/-! ### Inverses modulo a prime -/

theorem mul_invMod_modEq {q a : Nat} (hq : q.Prime) (ha : 1 ≤ a) (hlt : a < q) : invMod q a * a ≡ 1 [MOD q] := by
  have hcoprime : a.Coprime q := (Nat.coprime_of_lt_prime (by omega) hlt hq).symm
  have hexp : q - 2 + 1 = q.totient := by
    have := hq.two_le
    rw [Nat.totient_prime hq]
    omega
  calc invMod q a * a ≡ a ^ (q - 2) * a [MOD q] := by
        rw [invMod, powMod_eq]
        exact (Nat.mod_modEq _ _).mul_right a
    _ = a ^ q.totient := by rw [← pow_succ, hexp]
    _ ≡ 1 [MOD q] := Nat.ModEq.pow_totient hcoprime

/-! ### Private values and signatures (FIPS 186-5) -/

theorem privateOf_range {c : PkeCurve} (hn : 2 ≤ c.n) (rnd : Nat) : 1 ≤ privateOf c rnd ∧ privateOf c rnd < c.n := by
  have hlt : rnd % 2 ^ (bitLength c.n + 64) % (c.n - 1) < c.n - 1 := Nat.mod_lt _ (by omega)
  unfold privateOf
  omega

/-- The second half of a signature: the value s with s k = e + r d. -/
def signatureS (c : PkeCurve) (d e k r : Nat) : Nat := invMod c.n k * ((e + r * d) % c.n) % c.n

theorem ecdsaSign_of_mul {c : PkeCurve} {k x y : Nat} (h : c.mul k c.base = some (x, y)) (d e : Nat) :
    ecdsaSign c d e k = (x % c.n, signatureS c d e k (x % c.n)) := by
  rw [ecdsaSign, h]
  rfl

theorem signatureS_spec {c : PkeCurve} (hn : c.n.Prime) {k : Nat} (hk : 1 ≤ k) (hlt : k < c.n) (d e r : Nat) :
    signatureS c d e k r < c.n ∧ signatureS c d e k r * k % c.n = (e + r * d) % c.n := by
  refine ⟨Nat.mod_lt _ hn.pos, ?_⟩
  calc signatureS c d e k r * k ≡ invMod c.n k * ((e + r * d) % c.n) * k [MOD c.n] := (Nat.mod_modEq _ _).mul_right k
    _ = invMod c.n k * k * ((e + r * d) % c.n) := by ring
    _ ≡ 1 * (e + r * d) [MOD c.n] := (mul_invMod_modEq hn hk hlt).mul (Nat.mod_modEq _ _)
    _ = e + r * d := one_mul _

/-! ### Inputs (R335) -/

theorem inputCode_pair_above {c : PkeCurve} {w : PkeSlot} (h : w.lo ≥ c.n ∨ w.hi ≥ c.n) (ints points : List PkeSlot) : inputCode c ints [w] points = some 0x51 := by
  simp [inputCode, h]

/-- The rows of R335 for one integer and one point. -/
theorem inputCode_int_point (c : PkeCurve) (d q : PkeSlot) : inputCode c [d] [] [q] =
    if d.value ≥ c.n ∨ q.lo ≥ c.p ∨ q.hi ≥ c.p then some 0x51 else if d.value = 0 ∨ q.value = 0 then some 0x50
    else if c.has q.lo q.hi = false then some 0x52 else none := by
  simp [inputCode]

/-! ### How a unit runs its operation -/

/-- Unit `u` has run its operation: its results wait for PKE_OP_COMPLETE. -/
def State.unitRan (s : State) (h u : Nat) (r : PkeRun) : State := s.updPke h (fun x => x.setUnit u (some { r with done := true }))

section
variable {s : State} {h : Fin 4} {u op : Nat} {r : PkeRun} {f : State → PkeRun → PkeRun × State}
  (hu : (s.pke h).unit u = some r) (hop : r.entry.op = op) (hd : r.done = false)
include hu hop hd

/-- A dead entropy source makes an operation fail that needs random data (R339). -/
theorem pkeRun_of_starved (hr : pkeRandom op = true) (he : (s.pke h).entropyOk = false) :
    s.pkeRun h u op f = s.unitRan h u { r with status := 0x54, starved := true } := by
  simp [State.pkeRun, State.unitRan, hu, hop, hd, hr, he]

/-- An operation of the operator that is not starved computes. -/
theorem pkeRun_of_operator (hp : r.port = none) (he : pkeRandom op = true → (s.pke h).entropyOk = true) :
    s.pkeRun h u op f = (f s r).2.unitRan h u (f s r).1 := by
  have hfed : (pkeRandom op && !(s.pke h).entropyOk) = false := by
    cases hr : pkeRandom op with
    | false => rfl
    | true => rw [he hr]; rfl
  have hoperator : r.operator = true := by rw [PkeRun.operator, hp]; rfl
  simp [State.pkeRun, State.unitRan, hu, hop, hd, hfed, hoperator]

/-- What an operation of the runtime computes stays in the security block (log entry 11). -/
theorem pkeRun_of_runtime (hp : r.port ≠ none) (he : (s.pke h).entropyOk = true) : s.pkeRun h u op f = s.unitRan h u r := by
  have hruntime : r.operator = false := by
    obtain ⟨q, hq⟩ := Option.ne_none_iff_exists'.1 hp
    rw [PkeRun.operator, hq]
    rfl
  simp [State.pkeRun, State.unitRan, hu, hop, hd, he, hruntime]

end

/-! ### What each operation computes -/

section
variable {s : State} {h : Nat} {r : PkeRun} {c : PkeCurve} (hc : r.params = some c)
include hc

theorem keygenWork_eq {qx qy : Nat} (hmul : c.mul (privateOf c s.draw.1) c.base = some (qx, qy)) :
    keygenWork s r = ({ r with writes := [(r.entry.out0, pkeOut (privateOf c s.draw.1) true r.entry.exportable), (r.entry.out1, pkeOut (pointValue qx qy) false false)] }, s.draw.2) := by
  simp only [keygenWork, hc, hmul]

/-- A signature with the first k, when neither r nor s is 0. -/
theorem signWork_eq (hin : inputCode c [(s.pke h).slot r.entry.in0] [] [] = none) {a b : Nat}
    (hsign : ecdsaSign c ((s.pke h).slot r.entry.in0).value (digestInt c (((s.pke h).slot r.entry.in1).digest r.entry.hashLen)) (privateOf c s.draw.1) = (a, b))
    (ha : a ≠ 0) (hb : b ≠ 0) :
    signWork h s r = ({ r with writes := [(r.entry.out0, pkeOut (pointValue a b) false false)] }, s.draw.2) := by
  simp only [signWork, hc, hin, hsign, ha, hb, ne_eq, not_false_eq_true, and_self, if_true]

section
variable {q w : PkeSlot} (hq : (s.pke h).slot r.entry.in0 = q) (hw : (s.pke h).slot r.entry.in2 = w)
include hq hw

theorem verifyWork_of_code {code : Nat} (hin : inputCode c [] [w] [q] = some code) : verifyWork h s r = ({ r with status := code }, s) := by
  simp only [verifyWork, hc, hq, hw, hin]

section
variable {e : Nat} (hin : inputCode c [] [w] [q] = none) (he : digestInt c (((s.pke h).slot r.entry.in1).digest r.entry.hashLen) = e)
include hin he

theorem verifyWork_of_infinity (hpoint : ecdsaPoint c (q.lo, q.hi) e w.lo w.hi = none) : verifyWork h s r = ({ r with status := 0x56 }, s) := by
  simp only [verifyWork, hc, hq, hw, hin, he, hpoint]

theorem verifyWork_of_point {px py : Nat} (hpoint : ecdsaPoint c (q.lo, q.hi) e w.lo w.hi = some (px, py)) :
    verifyWork h s r = ({ r with verdict := decide (px % c.n = w.lo) }, s) := by
  simp only [verifyWork, hc, hq, hw, hin, he, hpoint]

end

end

section
variable {d q : PkeSlot} (hslot : (s.pke h).slot r.entry.in0 = d) (hq : (s.pke h).slot r.entry.in1 = q)
include hslot hq

theorem ecdhWork_of_code {code : Nat} (hin : inputCode c [d] [] [q] = some code) : ecdhWork h s r = ({ r with status := code }, s) := by
  simp only [ecdhWork, hc, hslot, hq, hin]

theorem ecdhWork_of_infinity (hin : inputCode c [d] [] [q] = none) (hpoint : c.mul d.value (some (q.lo, q.hi)) = none) :
    ecdhWork h s r = ({ r with status := 0x56 }, s) := by
  simp only [ecdhWork, hc, hslot, hq, hin, hpoint]

theorem ecdhWork_of_point (hin : inputCode c [d] [] [q] = none) {z y : Nat} (hpoint : c.mul d.value (some (q.lo, q.hi)) = some (z, y)) :
    ecdhWork h s r = ({ r with writes := [(r.entry.out0, pkeOut z true r.entry.exportable)] }, s) := by
  simp only [ecdhWork, hc, hslot, hq, hin, hpoint]

end

end

/-- Free values that are drawn in a row change the count of drawn values alone. -/
theorem drawBelow_state (s : State) (m n : Nat) : (s.drawBelow m n).2 = { s with fresh := s.fresh + n } := by
  induction n generalizing s with
  | zero => rfl
  | succ n ih =>
    rw [State.drawBelow, ih]
    simp only [State.draw, Nat.add_assoc, Nat.add_comm n 1]

/-- The curve that the slots of a CURVE_LOAD spell (R333). -/
def loadedCurve (x : Pke) (r : PkeRun) : PkeCurve :=
  { p := (x.slot r.entry.in0).lo, a := (x.slot r.entry.in0).hi, b := (x.slot r.entry.in1).lo, n := (x.slot r.entry.in1).hi, gx := (x.slot r.entry.in2).lo,
    gy := (x.slot r.entry.in2).hi }

/-- What a CURVE_LOAD makes of the curve and of the bases that were drawn for its primality tests. -/
def loadResult (c : PkeCurve) (bases : List Nat) (r : PkeRun) : PkeRun :=
  if c.p ≤ c.a ∨ c.p ≤ c.b ∨ c.p ≤ c.gx ∨ c.p ≤ c.gy then { r with status := 0x51 }
  else if c.gx = 0 ∧ c.gy = 0 then { r with status := 0x50 }
  else if c.has c.gx c.gy = false then { r with status := 0x52 }
  else if curveOk c bases then { r with curve := some (r.entry.curve, c) } else { r with status := 0x53 }

theorem curveLoadWork_eq (s : State) (h : Nat) (r : PkeRun) :
    curveLoadWork h s r = (loadResult (loadedCurve (s.pke h) r) (s.drawBelow (2 ^ 576) 128).1 r, (s.drawBelow (2 ^ 576) 128).2) := by
  unfold curveLoadWork loadResult
  extract_lets x pa bn g c
  have hcurve : loadedCurve (s.pke h) r = c := rfl
  have hcode : curveCode c = if c.p ≤ c.a ∨ c.p ≤ c.b ∨ c.p ≤ c.gx ∨ c.p ≤ c.gy then some 0x51 else if c.gx = 0 ∧ c.gy = 0 then some 0x50
      else if c.has c.gx c.gy = false then some 0x52 else none := by simp only [curveCode, Bool.not_eq_true']
  rw [hcurve, hcode]
  dsimp only
  split_ifs <;> rfl

/-! ### Accepted curves (R333) -/

theorem discriminant_mod (c : PkeCurve) : (4 * c.a * c.a % c.p * c.a + 27 * c.b * c.b) % c.p = (4 * c.a ^ 3 + 27 * c.b ^ 2) % c.p := by
  have h : 4 * c.a * c.a % c.p * c.a + 27 * c.b * c.b ≡ 4 * c.a * c.a * c.a + 27 * c.b * c.b [MOD c.p] := ((Nat.mod_modEq _ _).mul_right _).add_right _
  rw [h, show 4 * c.a * c.a * c.a + 27 * c.b * c.b = 4 * c.a ^ 3 + 27 * c.b ^ 2 by ring]

theorem has_iff (c : PkeCurve) (x y : Nat) : c.has x y = true ↔ y ^ 2 % c.p = (x ^ 3 + c.a * x + c.b) % c.p := by
  have h : x * x % c.p * x + c.a * x + c.b ≡ x * x * x + c.a * x + c.b [MOD c.p] := (((Nat.mod_modEq _ _).mul_right _).add_right _).add_right _
  rw [PkeCurve.has, decide_eq_true_iff, h, show x * x * x = x ^ 3 by ring, sq]

theorem two_pow_le_of_bitLength {q k : Nat} (h : k + 1 ≤ bitLength q) : 2 ^ k ≤ q := by
  have hne : q ≠ 0 := by rintro rfl; simp [bitLength] at h
  rw [bitLength, if_neg hne] at h
  exact (Nat.le_log2 hne).1 (by omega)

theorem lt_two_pow_of_bitLength {q k : Nat} (h : bitLength q ≤ k) : q < 2 ^ k := by
  rcases eq_or_ne q 0 with rfl | hne
  · exact Nat.two_pow_pos k
  · rw [bitLength, if_neg hne] at h
    exact (Nat.log2_lt hne).1 (by omega)

theorem curveOk_properties {c : PkeCurve} {bases : List Nat} (h : curveOk c bases = true) :
    2 ^ 159 ≤ c.p ∧ c.p < 2 ^ 576 ∧ c.a < c.p ∧ c.b < c.p ∧ c.gx < c.p ∧ c.gy < c.p ∧ (4 * c.a ^ 3 + 27 * c.b ^ 2) % c.p ≠ 0 ∧
      c.gy ^ 2 % c.p = (c.gx ^ 3 + c.a * c.gx + c.b) % c.p ∧ ((c.n : Int) - (c.p + 1)) ^ 2 ≤ 4 * c.p ∧ c.n ≠ c.p ∧ c.mul c.n (some (c.gx, c.gy)) = none := by
  simp only [curveOk, Bool.and_eq_true, decide_eq_true_eq, has_iff, discriminant_mod, Option.isNone_iff_eq_none] at h
  obtain ⟨⟨⟨⟨⟨⟨⟨⟨⟨hlo, hhi⟩, ha, hb, hx, hy⟩, -⟩, -⟩, hdisc⟩, hon⟩, hhasse⟩, hne⟩, hmul⟩ := h
  exact ⟨two_pow_le_of_bitLength (k := 159) hlo, lt_two_pow_of_bitLength (k := 576) hhi, ha, hb, hx, hy, hdisc, hon, by rw [sq]; exact_mod_cast hhasse, hne, hmul⟩

/-! ### The obligation -/

/-- Settles O55: a unit runs its operation once (`pkeRun_of_operator`), and each operation makes of its inputs what its equation says. -/
theorem pkeOperationsCompute : Obligations.PkeOperationsCompute := by
  unfold Obligations.PkeOperationsCompute
  refine ⟨?_, ?_, fun c bases => curveOk_properties⟩
  · intro h u r s hu hd hp x ends one
    have ran {op : Nat} {f : State → PkeRun → PkeRun × State} (hop : r.entry.op = op) (he : pkeRandom op = true → x.entropyOk = true) {t : State} {r' : PkeRun}
        (hf : f s r = (r', t)) : Host.Outcome.next (s.pkeRun h u op f) = ends t r' := by
      rw [pkeRun_of_operator hu hop hd hp he, hf]
      rfl
    refine ⟨fun he => ?_, fun c he hc => ⟨fun hop => ?_, fun hop hn hin => ?_, fun hop => ?_⟩, fun c hc hop => ?_, fun he hop => ?_,
      fun hup => ⟨fun hop => ?_, fun hop => ?_⟩⟩
    · have starved {op : Nat} {f : State → PkeRun → PkeRun × State} (hr : pkeRandom op = true) (hop : r.entry.op = op) :
          Host.Outcome.next (s.pkeRun h u op f) = ends s { r with status := 0x54, starved := true } := congrArg _ (pkeRun_of_starved hu hop hd hr he)
      exact ⟨starved rfl, starved rfl, starved rfl, starved rfl⟩
    · refine ⟨privateOf c s.draw.1, fun hn => privateOf_range hn _, fun qx qy hmul => ?_⟩
      exact ran hop (fun _ => he) (keygenWork_eq hc hmul)
    · obtain ⟨hk, hlt⟩ := privateOf_range hn.two_le s.draw.1
      refine ⟨privateOf c s.draw.1, hk, hlt, fun kx ky hmul => ?_⟩
      obtain ⟨hbound, hspec⟩ := signatureS_spec hn hk hlt (x.slot r.entry.in0).value (digestInt c ((x.slot r.entry.in1).digest r.entry.hashLen)) (kx % c.n)
      exact ⟨_, hbound, hspec, fun ha hb => ran hop (fun _ => he) (signWork_eq hc hin (ecdsaSign_of_mul hmul ..) ha hb)⟩
    · intro d q
      have hcode := inputCode_int_point c (x.slot r.entry.in0) q
      show Host.Outcome.next (s.pkeRun h u 4 (ecdhWork h)) = _
      split_ifs at hcode ⊢
      · exact ran hop (fun _ => he) (ecdhWork_of_code hc rfl rfl hcode)
      · exact ran hop (fun _ => he) (ecdhWork_of_code hc rfl rfl hcode)
      · exact ran hop (fun _ => he) (ecdhWork_of_code hc rfl rfl hcode)
      · split
        next hpoint => exact ran hop (fun _ => he) (ecdhWork_of_infinity hc rfl rfl hcode hpoint)
        next hpoint => exact ran hop (fun _ => he) (ecdhWork_of_point hc rfl rfl hcode hpoint)
    · intro q w
      refine ⟨fun habove => ?_, fun hin => ?_⟩
      · exact ran hop (fun hr => nomatch hr) (verifyWork_of_code hc rfl rfl (inputCode_pair_above habove ..))
      · show Host.Outcome.next (s.pkeRun h u 3 (verifyWork h)) = _
        split
        next hpoint => exact ran hop (fun hr => nomatch hr) (verifyWork_of_infinity hc rfl rfl hin rfl hpoint)
        next hpoint => exact ran hop (fun hr => nomatch hr) (verifyWork_of_point hc rfl rfl hin rfl hpoint)
    · refine ⟨(s.drawBelow (2 ^ 576) 128).1, 128, ?_⟩
      rw [← drawBelow_state s (2 ^ 576)]
      exact ran hop (fun _ => he) (curveLoadWork_eq s h r)
    · exact ran hop (fun hr => nomatch hr) (if_pos hup)
    · exact ran hop (fun hr => nomatch hr) (if_pos hup)
  · intro h u r s hu hd hp he ran
    have runs {op : Nat} {f : State → PkeRun → PkeRun × State} (hop : r.entry.op = op) : Host.Outcome.next (s.pkeRun h u op f) = ran :=
      congrArg _ (pkeRun_of_runtime hu hop hd hp he)
    exact ⟨runs, runs, runs, runs⟩

end Sys2Proof.Machine
end
section
/-! Canonical tables are known by what they say: equal contents are equal tables (the canonical form), so that of two writes of one entry the last counts. -/
namespace Sys2Proof.Tab

variable {α : Type} [DecidableEq α] {d : Nat → α}

/-- An entry of a canonical table is no default, whatever bounds its key. -/
theorem ne_of_wfFrom_cons {lo : Option Nat} {i : Nat} {v : α} {rest : Tab α} (h : wfFrom d lo ((i, v) :: rest) = true) : v ≠ d i := by
  cases lo <;> simp [wfFrom] at h <;> tauto

theorem wfFrom_rest {lo : Option Nat} {i : Nat} {v : α} {rest : Tab α} (h : wfFrom d lo ((i, v) :: rest) = true) : wfFrom d (some i) rest = true := by
  simp only [wfFrom, Bool.and_eq_true] at h
  exact h.2

/-- A key below the first one of a canonical table is not listed. -/
theorem get_below {lo : Option Nat} {i k : Nat} {v : α} {rest : Tab α} (h : wfFrom d lo ((i, v) :: rest) = true) (hk : k < i) : get d ((i, v) :: rest) k = d k := by
  rw [get, if_neg (by omega), get_of_wfFrom_le (wfFrom_rest h) hk.le]

theorem eq_of_get {m n : Tab α} {lo lo' : Option Nat} (hm : wfFrom d lo m = true) (hn : wfFrom d lo' n = true) (h : ∀ k, get d m k = get d n k) : m = n := by
  induction m generalizing n lo lo' with
  | nil =>
    cases n with
    | nil => rfl
    | cons e rest => exact absurd (by simpa [get] using (h e.1).symm) (ne_of_wfFrom_cons hn)
  | cons e rest ih =>
    obtain ⟨i, v⟩ := e
    have hi : get d ((i, v) :: rest) i = v := by rw [get, if_pos rfl]
    cases n with
    | nil => exact absurd (hi.symm.trans (h i)) (ne_of_wfFrom_cons hm)
    | cons e' rest' =>
      obtain ⟨j, w⟩ := e'
      have hj : get d ((j, w) :: rest') j = w := by rw [get, if_pos rfl]
      obtain hlt | rfl | hgt := Nat.lt_trichotomy i j
      · exact absurd (hi.symm.trans ((h i).trans (get_below hn hlt))) (ne_of_wfFrom_cons hm)
      · have hvw : v = w := hi.symm.trans ((h i).trans hj)
        rw [hvw, ih (wfFrom_rest hm) (wfFrom_rest hn) fun k => ?_]
        obtain rfl | hne := eq_or_ne k i
        · rw [get_of_wfFrom_le (wfFrom_rest hm) le_rfl, get_of_wfFrom_le (wfFrom_rest hn) le_rfl]
        · have hk := h k
          rwa [get, get, if_neg hne.symm, if_neg hne.symm] at hk
      · exact absurd (hj.symm.trans ((h j).symm.trans (get_below hm hgt))) (ne_of_wfFrom_cons hn)

/-- Of two writes of one entry the last counts. -/
theorem set_set {m : Tab α} (hm : wf d m = true) (k : Nat) (v w : α) : set d (set d m k v) k w = set d m k w := by
  refine eq_of_get (wf_set (wf_set hm k v) k w) (wf_set hm k w) fun j => ?_
  obtain rfl | hj := eq_or_ne j k
  · rw [get_set_same (wf_set hm _ v), get_set_same hm]
  · rw [get_set_other _ _ hj, get_set_other _ _ hj, get_set_other _ _ hj]

end Sys2Proof.Tab
end
section
/-! What a hank die, its public-key engine and a port read as after a change of them, given the canonical form. -/
namespace Sys2Proof.Machine

variable {s : State}

theorem State.Inv.hanks_wf (hs : s.Inv) : Tab.wf (fun _ => ({} : Hank)) s.hanks = true := by
  obtain ⟨-, -, -, -, -, -, -, hanks, -⟩ := hs
  exact hanks

theorem State.Inv.ports_wf (hs : s.Inv) : Tab.wf (fun _ => ({} : QPort)) s.ports = true := by
  obtain ⟨-, -, -, -, -, -, -, -, ports, -⟩ := hs
  exact ports

theorem State.Inv.regs_wf (hs : s.Inv) : Tab.wf regInit s.regs = true := by
  obtain ⟨-, -, regs, -⟩ := hs
  exact regs

theorem State.Inv.host_wf (hs : s.Inv) : Memory.wf s.host = true := by
  obtain ⟨-, host, -⟩ := hs
  exact host

theorem State.Inv.pke_wf (hs : s.Inv) (h : Nat) : (s.pke h).wf = true := Keeps.pke_wf hs h

theorem hank_updPke (hs : s.Inv) (h : Nat) (f : Pke → Pke) : (s.updPke h f).hank h = { s.hank h with pke := f (s.pke h) } :=
  hank_updHank_same hs.hanks_wf h _

theorem pke_updPke (hs : s.Inv) (h : Nat) (f : Pke → Pke) : (s.updPke h f).pke h = f (s.pke h) := congrArg Hank.pke (hank_updPke hs h f)

theorem hank_updSpdm (hs : s.Inv) (h : Nat) (f : Spdm → Spdm) : (s.updSpdm h f).hank h = { s.hank h with spdm := f (s.spdm h) } :=
  hank_updHank_same hs.hanks_wf h _

theorem spdm_updSpdm (hs : s.Inv) (h : Nat) (f : Spdm → Spdm) : (s.updSpdm h f).spdm h = f (s.spdm h) := congrArg Hank.spdm (hank_updSpdm hs h f)

theorem port_setPort (hs : s.Inv) (q : Nat) (x : QPort) : (s.setPort q x).port q = x := port_setPort_same hs.ports_wf q x

theorem port_updPort (hs : s.Inv) (q : Nat) (f : QPort → QPort) : (s.updPort q f).port q = f (s.port q) := port_updPort_same hs.ports_wf q f

@[simp] theorem draw_port_get (s : State) (q : Nat) : s.draw.2.port q = s.port q := rfl

/-- Two changes of one port are one change. -/
theorem updPort_updPort (hs : s.Inv) (q : Nat) (f g : QPort → QPort) : (s.updPort q f).updPort q g = s.updPort q (fun x => g (f x)) := by
  have hget := port_updPort hs q f
  unfold State.updPort at hget ⊢
  rw [hget]
  exact congrArg (fun ports => { s with ports := ports }) (Tab.set_set hs.ports_wf q _ _)

end Sys2Proof.Machine
end
section
/-! The SPDM responder (R347 to R349, R351): what an answered request leaves, and when the device has a chain and can sign. -/
namespace Sys2Proof.Machine

variable {s : State} {h : Nat} (ho : s.spdmOpen h = true)

/-! ### Answers -/

section
include ho

theorem spdmAnswer_of_ok (f : Spdm → Spdm) (d : List Nat) : s.spdmAnswer h true f d = (s.updSpdm h f).emit (.spdm h true d) := by
  simp [State.spdmAnswer, ho]

theorem spdmAnswer_of_not_ok {ok : Bool} (hok : ok = false) (f : Spdm → Spdm) (d : List Nat) : s.spdmAnswer h ok f d = s.emit (.spdm h false []) := by
  simp [State.spdmAnswer, ho, hok]

end

/-- An accepted request changes the connection and sends its response; memory, registers, partitions and the port's IDE key stay. -/
def State.SpdmTook (s : State) (h : Nat) (d : List Nat) (y : Spdm) (t : State) : Prop :=
  t.spdm h = y ∧ t.out = s.out ++ [.spdm h true d] ∧ t.mem = s.mem ∧ t.regs = s.regs ∧ t.parts = s.parts ∧ (t.hank h).ideLink = (s.hank h).ideLink

include ho in
theorem spdmAnswer_took (hs : s.Inv) {ok : Bool} (hok : ok = true) (f : Spdm → Spdm) (d : List Nat) : s.SpdmTook h d (f (s.spdm h)) (s.spdmAnswer h ok f d) := by
  rw [hok, spdmAnswer_of_ok ho]
  exact ⟨spdm_updSpdm hs h f, rfl, rfl, rfl, rfl, by rw [emit_hank_get, hank_updSpdm hs]⟩

theorem spdmOpen_updSpdm (hs : s.Inv) (f : Spdm → Spdm) : (s.updSpdm h f).spdmOpen h = s.spdmOpen h := by
  simp only [State.spdmOpen, State.portUp, hank_updSpdm hs, updSpdm_answers_get]
  rfl

/-! ### What a request needs -/

theorem ready_iff (x : Spdm) : x.ready = true ↔ x.version = true ∧ x.capabilities = true ∧ x.algorithms = true := by
  simp only [Spdm.ready, Bool.and_eq_true, and_assoc]

theorem hasChain_iff (s : State) (h : Nat) :
    s.hasChain h = true ↔ s.attested = true ∧ s.identityCert = true ∧ (s.hank h).aliasCert ≠ none ∧ s.lifecycle ≠ .manufacturing := by
  simp only [State.hasChain, Bool.and_eq_true, decide_eq_true_eq, Option.isSome_iff_ne_none, and_assoc]

theorem canSign_iff (s : State) (h : Nat) :
    s.canSign h = true ↔ (s.attested = true ∧ s.identityCert = true ∧ (s.hank h).aliasCert ≠ none ∧ s.lifecycle ≠ .manufacturing) ∧ (s.pke h).entropyOk = true := by
  rw [State.canSign, Bool.and_eq_true, hasChain_iff]

/-- A measurement request names one of the five, or all of them (R348). -/
theorem measurementNamed_eq_false {n : Nat} (hn : n = 0 ∨ (5 < n ∧ n ≠ 0xFF)) : (decide (1 ≤ n ∧ n ≤ 5) || decide (n = 0xFF)) = false := by
  simp only [Bool.or_eq_false_iff, decide_eq_false_iff_not]
  omega

/-! ### IDE keys (R349, R351) -/

theorem exec_ideKeyProgram_of_established {h : Fin 4} (ho : s.spdmOpen h = true) (he : (s.spdm h).established = true)
    (hl : s.lifecycle = .provisioned ∨ s.lifecycle = .deployed) (i : IdeStream) (key : BitVec 256) :
    exec (.ideKeyProgram h i key) s = .next (s.updHank h (fun k => match i with
      | .link => { k with ideLink := some key.toNat }
      | .selective i => { k with ideSel := Tab.set (fun _ => none) k.ideSel i (some key.toNat) })) :=
  congrArg Host.Outcome.next (if_pos (by simpa [ho, he] using hl))

theorem exec_ideKeyProgram_of_closed {h : Fin 4} (hc : (s.spdm h).established = false ∨ s.lifecycle = .manufacturing ∨ s.lifecycle = .returned) (i : IdeStream)
    (key : BitVec 256) : exec (.ideKeyProgram h i key) s = .next s := by
  refine congrArg Host.Outcome.next (if_neg ?_)
  obtain hc | hc | hc := hc <;> simp [hc]

/-! ### The obligation -/

/-- Settles O56: each request is an answer (`State.spdmAnswer`) with its condition, which `spdmAnswer_took` and `spdmAnswer_of_not_ok` decide. -/
theorem spdmAnswersInOrder : Obligations.SpdmAnswersInOrder := by
  unfold Obligations.SpdmAnswersInOrder
  intro h s hs ho x error sets ready chain signs
  have takes {c : Instr} {ok : Bool} {f : Spdm → Spdm} {d : List Nat} (hc : exec c s = .next (s.spdmAnswer h ok f d)) (hok : ok = true) {y : Spdm} (hy : f x = y) :
      sets c d y := hy ▸ ⟨_, hc, spdmAnswer_took ho hs hok f d⟩
  have fails {c : Instr} {ok : Bool} {f : Spdm → Spdm} {d : List Nat} (hc : exec c s = .next (s.spdmAnswer h ok f d)) (hok : ok = false) : exec c s = error :=
    hc.trans (congrArg _ (spdmAnswer_of_not_ok ho hok f d))
  have hready : x.ready = true ↔ ready := ready_iff x
  have hchain : s.hasChain h = true ↔ chain := hasChain_iff s h
  have hsigns : s.canSign h = true ↔ signs := canSign_iff s h
  have served {b : Bool} {p : Prop} (hb : b = true ↔ p) : (x.ready && b) = true ↔ ready ∧ p := by rw [Bool.and_eq_true, hready, hb]
  have refused {b : Bool} {p : Prop} (hb : b = true ↔ p) (hno : ¬ (ready ∧ p)) : (x.ready && b) = false := Bool.eq_false_iff.2 (mt (served hb).1 hno)
  refine ⟨takes rfl rfl rfl, fun hv => takes rfl hv rfl, fun hv => fails rfl hv, fun hv hc => takes rfl (by rw [Bool.and_eq_true]; exact ⟨hv, hc⟩) rfl,
    fun hc => fails rfl (Bool.and_eq_false_imp.2 fun _ => hc), fun hr hc => ?_, fun hr hc => ?_, fun hno => ?_, fun hno => ?_, fun hr => ?_, fun hsession => ?_, fun hsession ok => ?_,
    fun he => ?_, fun he => ?_, fun key => ⟨fun he hl => ?_, fun hc i => exec_ideKeyProgram_of_closed hc i key⟩⟩
  · have ok := (served hchain).2 ⟨hr, hc⟩
    exact ⟨⟨_, takes rfl ok rfl⟩, ⟨_, takes rfl ok rfl⟩⟩
  · have ok := (served hsigns).2 ⟨hr, hc⟩
    exact ⟨⟨_, takes rfl ok rfl⟩, ⟨_, takes rfl ok rfl⟩⟩
  · exact ⟨fails rfl (refused hchain hno), fails rfl (refused hchain hno)⟩
  · exact ⟨fails rfl (refused hsigns hno), fails rfl (refused hsigns hno)⟩
  · have named (n : Nat) : exec (.getMeasurements h n) s = .next (s.spdmAnswer h (x.ready && (decide (1 ≤ n ∧ n ≤ 5) || decide (n = 0xFF))) id
        (if n = 0xFF then [1, 2, 3, 4, 5].map s.measurement else [s.measurement n])) := rfl
    have ok {b : Bool} (hb : b = true) : (x.ready && b) = true := by rw [hready.2 hr, hb]; rfl
    exact ⟨takes (named 4) (ok rfl) rfl, ⟨_, _, _, _, takes (named 0xFF) (ok rfl) rfl⟩, fun n hn => fails (named n) (by rw [measurementNamed_eq_false hn, Bool.and_false])⟩
  · have passed : exec (.finish h true) s = .next (s.spdmAnswer h (x.session && true) (fun x => { x with established := true }) []) :=
      congrArg Host.Outcome.next (if_neg (by simp))
    have failed : exec (.finish h false) s = .next ((s.updSpdm h (fun x => { x with session := false, established := false })).spdmAnswer h false id []) :=
      congrArg Host.Outcome.next (if_pos (by simpa [ho] using hsession))
    refine ⟨takes passed (by rw [hsession]; rfl) rfl, _, failed.trans (congrArg _ (spdmAnswer_of_not_ok ?_ rfl id [])), by rw [State.spdm, emit_hank_get, hank_updSpdm hs], rfl⟩
    rw [spdmOpen_updSpdm hs, ho]
  · refine fails (congrArg Host.Outcome.next (if_neg ?_)) (Bool.and_eq_false_imp.2 fun hyes => absurd hyes (Bool.eq_false_iff.1 hsession))
    rw [show (s.spdm h).session = false from hsession]
    simp
  · exact ⟨takes rfl he rfl, takes rfl he rfl, takes rfl he rfl⟩
  · exact ⟨fails rfl he, fails rfl he, fails rfl he⟩
  · exact ⟨exec_ideKeyProgram_of_established ho he hl .link key, fun i => exec_ideKeyProgram_of_established ho he hl (.selective i) key⟩

end Sys2Proof.Machine
end
section
/-! The point units of a public-key engine: their tables, the lowest free unit, and what the operations of the runtime change that take free units (R350, R412). -/
namespace Sys2Proof.Machine

namespace Pke

variable {x : Pke}

theorem unit_setUnit_same (hx : x.wf = true) (u : Nat) (r : Option PkeRun) : (x.setUnit u r).unit u = r := by
  obtain ⟨-, -, units⟩ := wf_iff.1 hx
  exact Tab.get_set_same units u r

theorem unit_setUnit_other (x : Pke) {u v : Nat} (r : Option PkeRun) (h : v ≠ u) : (x.setUnit u r).unit v = x.unit v := Tab.get_set_other _ r h

theorem slot_setSlot_same (hx : x.wf = true) (i : Nat) (v : PkeSlot) : (x.setSlot i v).slot i = v := by
  obtain ⟨slots, -, -⟩ := wf_iff.1 hx
  exact Tab.get_set_same slots i v

theorem slot_setSlot_other (x : Pke) {i k : Nat} (v : PkeSlot) (h : k ≠ i) : (x.setSlot i v).slot k = x.slot k := Tab.get_set_other _ v h

/-- The lowest free unit is free. -/
theorem unit_of_freeUnit {u : Nat} (h : x.freeUnit = some u) : x.unit u = none :=
  Option.isNone_iff_eq_none.1 (List.find?_some (p := fun u => (x.unit u).isNone) h)

theorem freeUnit_eq_some {u : Nat} (hu : u < 8) (hfree : x.unit u = none) (hlowest : ∀ v < u, x.unit v ≠ none) : x.freeUnit = some u := by
  rw [freeUnit, List.find?_range_eq_some]
  simpa [hu, hfree, Option.isSome_iff_ne_none] using hlowest

end Pke

/-- Nothing differs but units of engine `h` that were free, in which there are operations of the runtime now, and the operations that wait at the ports. -/
structure State.GaveUnits (h : Nat) (s t : State) : Prop where
  rest : ∃ hanks ports, t = { s with hanks := hanks, ports := ports }
  hank : ∃ units, t.hank h = { s.hank h with pke := { s.pke h with units := units } }
  port : ∀ q, ∃ idle, t.port q = { s.port q with idle := idle }
  held : ∀ u r, (s.pke h).unit u = some r → (t.pke h).unit u = some r
  given : ∀ u r, (t.pke h).unit u = some r → (s.pke h).unit u = some r ∨ r.port ≠ none

namespace State.GaveUnits

variable {s t v : State} {h q : Nat}

theorem refl (h : Nat) (s : State) : s.GaveUnits h s := ⟨⟨_, _, rfl⟩, ⟨_, rfl⟩, fun _ => ⟨_, rfl⟩, fun _ _ => id, fun _ _ => .inl⟩

theorem trans (a : s.GaveUnits h t) (b : t.GaveUnits h v) : s.GaveUnits h v where
  rest := by
    obtain ⟨_, _, ht⟩ := a.rest
    obtain ⟨_, _, hv⟩ := b.rest
    exact ⟨_, _, by rw [hv, ht]⟩
  hank := by
    obtain ⟨_, ht⟩ := a.hank
    obtain ⟨_, hv⟩ := b.hank
    exact ⟨_, by rw [hv, State.pke, ht]⟩
  port q := by
    obtain ⟨_, ht⟩ := a.port q
    obtain ⟨_, hv⟩ := b.port q
    exact ⟨_, by rw [hv, ht]⟩
  held u r hu := b.held u r (a.held u r hu)
  given u r hu := (b.given u r hu).elim (a.given u r) .inr

/-- One operation of port `q` takes a free unit. -/
theorem one (hs : s.Inv) {u : Nat} (hfree : (s.pke h).unit u = none) {r : PkeRun} (hr : r.port ≠ none) (q : Nat) (idle : List Nat) :
    s.GaveUnits h ((s.updPke h (fun x => x.setUnit u (some r))).updPort q (fun x => { x with idle := idle })) := by
  have hank : ((s.updPke h (fun x => x.setUnit u (some r))).updPort q (fun x => { x with idle := idle })).hank h =
      { s.hank h with pke := (s.pke h).setUnit u (some r) } := by rw [updPort_hank_get, hank_updPke hs]
  have same := Pke.unit_setUnit_same (hs.pke_wf h) u (some r)
  refine ⟨⟨_, _, rfl⟩, ⟨_, hank⟩, fun k => ?_, fun v r' hv => ?_, fun v r' hv => ?_⟩
  · obtain rfl | hk := eq_or_ne k q
    · exact ⟨idle, by rw [port_updPort_same (s := s.updPke h _) hs.ports_wf, updPke_port_get]⟩
    · exact ⟨_, port_updPort_other (s := s.updPke h _) _ hk⟩
  · have hne : v ≠ u := by rintro rfl; rw [hfree] at hv; cases hv
    rw [State.pke, hank, Pke.unit_setUnit_other _ _ hne, hv]
  · rw [State.pke, hank] at hv
    obtain rfl | hne := eq_or_ne v u
    · rw [same] at hv
      cases hv
      exact .inr hr
    · rw [Pke.unit_setUnit_other _ _ hne] at hv
      exact .inl hv

theorem pkeGive (hs : s.Inv) (h q n : Nat) : s.GaveUnits h (State.pkeGive h q n s) := by
  induction n generalizing s with
  | zero => exact refl h s
  | succ n ih =>
    unfold State.pkeGive
    split
    next op rest u _ hu =>
      have step := one hs (Pke.unit_of_freeUnit hu) (r := { entry := runtimeEntry op, params := some p384, port := some (q, (s.port q).exchange) }) (by simp) q rest
      exact step.trans (ih ((hs.updPke _ _ fun _ hx => Pke.wf_setUnit hx ..).updPort ..))
    · exact refl h s

theorem pkeRuntime (hs : s.Inv) (h : Nat) : s.GaveUnits h (s.pkeRuntime h) := (pkeGive hs ..).trans (pkeGive (hs.pkeGive ..) ..)

theorem mem (a : s.GaveUnits h t) : t.mem = s.mem := by
  obtain ⟨_, _, rfl⟩ := a.rest
  rfl

theorem host (a : s.GaveUnits h t) : t.host = s.host := by
  obtain ⟨_, _, rfl⟩ := a.rest
  rfl

theorem regs (a : s.GaveUnits h t) : t.regs = s.regs := by
  obtain ⟨_, _, rfl⟩ := a.rest
  rfl

theorem fresh (a : s.GaveUnits h t) : t.fresh = s.fresh := by
  obtain ⟨_, _, rfl⟩ := a.rest
  rfl

end State.GaveUnits

end Sys2Proof.Machine
end
section
/-! A port goes down (R409, R412): what the waiting frames take along are reports, and the port is as at reset but for its counts. -/
namespace Sys2Proof.Machine

variable {s t : State} {q : Nat}

theorem State.SameCore.port_eq (a : s.SameCore t) (q : Nat) : t.port q = s.port q := by
  obtain ⟨-, -, -, -, -, ports, -⟩ := a
  rw [State.port, ports]
  rfl

theorem State.SameCore.mem_eq (a : s.SameCore t) : t.mem = s.mem := a.1

theorem State.SameCore.foldl {α : Type} {f : State → α → State} (l : List α) (hf : ∀ (u : State) (x : α), u.SameCore (f u x)) (s : State) :
    s.SameCore (l.foldl f s) := by
  induction l generalizing s with
  | nil => exact .refl s
  | cons x rest ih => exact (hf s x).trans (ih _)

theorem spanLost_sameCore (s : State) (n : Nat) : s.SameCore (s.spanLost n) := ((State.SameCore.bump s ..).trans (.setField ..)).trans (.reportLog ..)

theorem linkLog_sameCore (s : State) (q event detail : Nat) (part : Option Nat) : s.SameCore (s.linkLog q event detail part) := .reportLog ..

theorem dropQueue_sameCore (s : State) (q : Nat) : s.SameCore (s.dropQueue q) := by
  unfold State.dropQueue
  refine (State.SameCore.foldl _ (fun u f => ?_) s).trans (.foldl _ (fun u f => ?_) _)
  · exact spanLost_sameCore ..
  · exact linkLog_sameCore ..

/-- Port `q` is in phase 0 with nothing unacknowledged and nothing waiting, and memory stands. -/
def State.WentDown (s : State) (q : Nat) (retry : Bool) (t : State) : Prop :=
  (t.port q).phase = 0 ∧ (t.port q).retryWait = retry ∧ (t.port q).sent = [] ∧ (t.port q).queue = [] ∧ t.mem = s.mem

theorem portDown_wentDown (hs : s.Inv) (q : Nat) (retry : Bool) : s.WentDown q retry (s.portDown q retry) := by
  have down : (s.portDown q retry).port q = { probeSeq := ((s.dropQueue q).port q).probeSeq, exchange := ((s.dropQueue q).port q).exchange + 1, retryWait := retry } :=
    port_updPort (hs.dropQueue q) q _
  simp only [State.WentDown, down, true_and]
  exact (dropQueue_sameCore s q).mem_eq

/-- What is reported before a port goes down does not matter to it. -/
theorem State.WentDown.of_sameCore {u : State} (a : s.SameCore t) {retry : Bool} (h : t.WentDown q retry u) : s.WentDown q retry u := by
  obtain ⟨phase, wait, sent, queue, mem⟩ := h
  exact ⟨phase, wait, sent, queue, mem.trans a.mem_eq⟩

theorem phaseFailed_wentDown (hs : s.Inv) (q : Nat) : s.WentDown q true (s.phaseFailed q) :=
  (portDown_wentDown (hs.linkLog ..) q true).of_sameCore (linkLog_sameCore s ..)

theorem linkLost_wentDown (hs : s.Inv) (q reason : Nat) : s.WentDown q true (s.linkLost q reason) := by
  have reported : s.SameCore (s.reportAlarm (quolynUnit q) (quolynUnit q) 0x33 reason) := .reportAlarm ..
  unfold State.linkLost
  dsimp only
  split
  · exact (portDown_wentDown (hs.reportAlarm ..) q true).of_sameCore reported
  · exact (phaseFailed_wentDown (hs.reportAlarm ..) q).of_sameCore reported

/-- A lost link is an alarm with its reason (R420). -/
theorem alarm_mem_linkLost (s : State) (q reason : Nat) : Output.alarm (quolynUnit q) 0x33 (BitVec.ofNat 32 reason) ∈ (s.linkLost q reason).out := by
  have reported := alarm_mem_reportAlarm s (quolynUnit q) (quolynUnit q) 0x33 reason
  have kept : (s.reportAlarm (quolynUnit q) (quolynUnit q) 0x33 reason).Kept (s.linkLost q reason) :=
    .ite (State.Kept.portDown (.refl _) ..) (State.Kept.phaseFailed (.refl _) ..)
  exact kept.mem_out reported

end Sys2Proof.Machine
end
section
/-! QL_NODE and the ports that begin training (R409, R412, R431). -/
namespace Sys2Proof.Machine

variable {s t : State} {q : Nat}

/-! ### Which ports may begin -/

theorem linkAllowed_iff (s : State) (q : Nat) :
    s.linkAllowed q = true ↔ s.linkWanted q = true ∧ s.answers = true ∧ s.power.state = .m0 ∧ s.lifecycle = .deployed ∧ s.hasChain (q / 2) = true ∧ s.grade ≠ 2 ∧
      (s.hank (q / 2)).running = true := by
  simp only [State.linkAllowed, State.portAbsent, Bool.and_eq_true, decide_eq_true_eq, Bool.not_eq_true', decide_eq_false_iff_not, and_assoc]

theorem linkWanted_iff (s : State) (q : Nat) : s.linkWanted q = true ↔ bit (s.reg (.glob .qlNode)) 31 = true ∧ bit (s.reg (.glob .qlNode)) (16 + q) = true := by
  rw [State.linkWanted, Bool.and_eq_true]

/-- A port that begins training when it is asked to. -/
def State.Trainable (s : State) (q : Nat) : Prop := s.linkAllowed q = true ∧ (s.port q).phase = 0 ∧ (s.port q).retryWait = false

/-- LINKS, PORT_EN and the bits between them read alike: all but MODULE_ID. -/
def State.SamePermits (s t : State) : Prop := ∀ i, 10 < i → bit (t.reg (.glob .qlNode)) i = bit (s.reg (.glob .qlNode)) i

theorem linkAllowed_congr {regs : Tab Word32} {mgmt : Mgmt} {ports : Tab QPort} (ht : t = { s with regs := regs, mgmt := mgmt, ports := ports }) (hp : s.SamePermits t) (q : Nat) :
    t.linkAllowed q = s.linkAllowed q := by
  have wanted : t.linkWanted q = s.linkWanted q := by rw [State.linkWanted, State.linkWanted, hp 31 (by omega), hp (16 + q) (by omega)]
  rw [State.linkAllowed, State.linkAllowed, wanted, ht]
  rfl

/-! ### The MODULE_ID of the store (R431) -/

theorem takeId_of_none (h : s.mgmt.idDue = none) : s.takeId = s := by rw [State.takeId, h]

theorem takeId_of_some {v : BitVec 11} (h : s.mgmt.idDue = some v) :
    s.takeId = { s.setField (.glob .qlNode) 10 0 v.toNat with mgmt := { s.mgmt with idDue := none } } := by rw [State.takeId, h]

theorem reg_takeId (hs : s.Inv) {v : BitVec 11} (h : s.mgmt.idDue = some v) : s.takeId.reg (.glob .qlNode) = setBits (s.reg (.glob .qlNode)) 10 0 v.toNat := by
  rw [takeId_of_some h]
  exact reg_setField_same hs.regs_wf ..

theorem takeId_rest (s : State) : ∃ regs, s.takeId = { s with regs := regs, mgmt := { s.mgmt with idDue := none } } := by
  cases h : s.mgmt.idDue with
  | none => exact ⟨s.regs, by rw [takeId_of_none h, ← h]⟩
  | some v => exact ⟨_, takeId_of_some h⟩

/-- A bring-up takes the number without a look at the ports. -/
theorem takeId_updPort (s : State) (q : Nat) (f : QPort → QPort) : (s.updPort q f).takeId = s.takeId.updPort q f := by
  cases h : s.mgmt.idDue with
  | none => rw [takeId_of_none h, takeId_of_none (s := s.updPort q f) h]
  | some v =>
    rw [takeId_of_some h, takeId_of_some (s := s.updPort q f) h]
    rfl

theorem takeId_samePermits (hs : s.Inv) : s.SamePermits s.takeId := by
  intro i hi
  cases h : s.mgmt.idDue with
  | none => rw [takeId_of_none h]
  | some v =>
    rw [reg_takeId hs h, bit, bit]
    by_cases h32 : i < 32
    · rw [getLsbD_setBits _ (by omega) h32, if_neg (by omega)]
    · rw [BitVec.getLsbD_of_ge _ _ (by omega), BitVec.getLsbD_of_ge _ _ (by omega)]

/-! ### Training begins -/

/-- From `s`, the ports among `qs` that may have begun training, and a bring-up has taken the MODULE_ID that waited for one. -/
structure State.Trained (qs : List Nat) (s t : State) : Prop where
  rest : ∃ regs mgmt ports, t = { s with regs := regs, mgmt := mgmt, ports := ports }
  permits : s.SamePermits t
  begins : ∀ q ∈ qs, s.Trainable q → (t.port q).phase = 1
  stays : ∀ q, ¬ s.Trainable q → t.port q = s.port q
  idKept : s.mgmt.idDue = none → t.reg (.glob .qlNode) = s.reg (.glob .qlNode)
  idTaken : ∀ v, s.mgmt.idDue = some v → (∃ q, t.port q ≠ s.port q) → bits (t.reg (.glob .qlNode)) 10 0 = v.toNat

theorem State.Trained.nil (s : State) : s.Trained [] s where
  rest := ⟨_, _, _, rfl⟩
  permits _ _ := rfl
  begins _ hq := nomatch hq
  stays _ _ := rfl
  idKept _ := rfl
  idTaken := fun _ _ ⟨_, hne⟩ => absurd rfl hne

theorem startTraining_of_trainable (h : s.Trainable q) : s.startTraining q = s.takeId.updPort q (fun x => { x with phase := 1 }) := if_pos h

theorem startTraining_of_not_trainable (h : ¬ s.Trainable q) : s.startTraining q = s := if_neg h

theorem port_startTraining (hs : s.Inv) (h : s.Trainable q) (k : Nat) :
    (s.startTraining q).port k = if k = q then { s.port q with phase := 1 } else s.port k := by
  have ports (k : Nat) : s.takeId.port k = s.port k := by
    obtain ⟨_, hrest⟩ := takeId_rest s
    rw [hrest]
    rfl
  rw [startTraining_of_trainable h]
  split
  next hk => rw [hk, port_updPort hs.takeId, ports]
  next hk => rw [port_updPort_other _ hk, ports]

/-- One port that begins, and then others. -/
theorem State.Trained.cons {u : State} {qs : List Nat} (hs : s.Inv) (h : s.Trainable q) (a : State.Trained qs (s.startTraining q) u) : s.Trained (q :: qs) u := by
  obtain ⟨regs, hid⟩ := takeId_rest s
  have start := startTraining_of_trainable h
  have hrest : s.startTraining q = { s with regs := regs, mgmt := { s.mgmt with idDue := none }, ports := (s.startTraining q).ports } := by
    rw [start, hid]
    rfl
  have hreg : (s.startTraining q).reg (.glob .qlNode) = s.takeId.reg (.glob .qlNode) := by rw [start, updPort_reg_get]
  have permits : s.SamePermits (s.startTraining q) := fun i hi => by rw [hreg, takeId_samePermits hs i hi]
  have hport := port_startTraining hs h
  have self : ((s.startTraining q).port q).phase = 1 := by rw [hport, if_pos rfl]
  have other {k : Nat} (hk : k ≠ q) : (s.startTraining q).port k = s.port k := by rw [hport, if_neg hk]
  have trainable_other {k : Nat} (hk : k ≠ q) : (s.startTraining q).Trainable k ↔ s.Trainable k := by
    rw [State.Trainable, State.Trainable, linkAllowed_congr hrest permits, other hk]
  have none_due : (s.startTraining q).mgmt.idDue = none := by rw [hrest]
  have selfStays : u.port q = (s.startTraining q).port q := a.stays q fun ht => by
    rw [ht.2.1] at self
    cases self
  refine ⟨?_, fun i hi => (a.permits i hi).trans (permits i hi), fun k hk htrain => ?_, fun k hno => ?_, fun hnone => ?_, fun v hsome _ => ?_⟩
  · obtain ⟨_, _, _, hu⟩ := a.rest
    exact ⟨_, _, _, by rw [hu, hrest]⟩
  · obtain rfl | hne := eq_or_ne k q
    · rw [selfStays, self]
    · exact a.begins k ((List.mem_cons.1 hk).resolve_left hne) ((trainable_other hne).2 htrain)
  · have hne : k ≠ q := by rintro rfl; exact hno h
    rw [a.stays k (mt (trainable_other hne).1 hno), other hne]
  · rw [a.idKept none_due, hreg, takeId_of_none hnone]
  · rw [a.idKept none_due, hreg, reg_takeId hs hsome, bits_setBits_same _ (by omega) (by omega) v.isLt]

theorem trained_foldl (hs : s.Inv) (qs : List Nat) : s.Trained qs (qs.foldl State.startTraining s) := by
  induction qs generalizing s with
  | nil => exact .nil s
  | cons q qs ih =>
    by_cases h : s.Trainable q
    · exact .cons hs h (ih (hs.startTraining q))
    · obtain ⟨rest, permits, begins, stays, idKept, idTaken⟩ := ih hs
      rw [List.foldl_cons, startTraining_of_not_trainable h]
      exact ⟨rest, permits, fun k hk hk' => begins k ((List.mem_cons.1 hk).resolve_left (by rintro rfl; exact h hk')) hk', stays, idKept, idTaken⟩

/-! ### A write of QL_NODE -/

/-- Is every port in phase 0? -/
def State.portsFree (s : State) : Bool := (List.range 8).all (fun q => decide ((s.port q).phase = 0))

theorem portsFree_iff (s : State) : s.portsFree = true ↔ ∀ q : Nat, q < 8 → (s.port q).phase = 0 := by
  simp only [State.portsFree, List.all_eq_true, List.mem_range, decide_eq_true_eq]

/-- QL_NODE after a write of `v` (R412). -/
def State.nodeWritten (s : State) (v : Word32) : Word32 :=
  setBits ((Reg.glob .qlNode).written (s.reg (.glob .qlNode)) v) 10 0 (if s.portsFree then bits v 10 0 else bits (s.reg (.glob .qlNode)) 10 0)

/-- The state with the write taken, before ports begin training. -/
def State.nodeSet (s : State) (v : Word32) : State :=
  let t := s.setReg (.glob .qlNode) (s.nodeWritten v)
  if s.portsFree then { t with mgmt := { t.mgmt with idDue := none } }.storeFromReg 0x0A (.moduleId (BitVec.ofNat 11 (bits v 10 0))) else t

theorem qlNodeWrite_eq (s : State) (v : Word32) : s.qlNodeWrite v = (List.range 8).foldl State.startTraining (s.nodeSet v) := rfl

theorem bits_node_id (s : State) (v : Word32) : bits (s.nodeWritten v) 10 0 = if s.portsFree then bits v 10 0 else bits (s.reg (.glob .qlNode)) 10 0 := by
  rw [State.nodeWritten, bits_setBits_same _ (by omega) (by omega)]
  split <;> exact Nat.mod_lt _ (by decide)

/-- LINKS and PORT_EN are bits that a write sets. -/
theorem bitTy_qlNode_permits : ∀ i : Fin 32, (16 ≤ i.val ∧ i.val ≤ 23) ∨ i.val = 31 → bitTy (.glob .qlNode) i = some .rw := by decide

theorem bit_node_permit (s : State) (v : Word32) {i : Nat} (hi : (16 ≤ i ∧ i ≤ 23) ∨ i = 31) : bit (s.nodeWritten v) i = bit v i := by
  have h32 : i < 32 := by omega
  have apart : fieldsApart (Reg.fields (.glob .qlNode)) = true := rfl
  rw [bit, State.nodeWritten, getLsbD_setBits _ (by omega) h32, if_neg (by omega), getLsbD_written apart _ _ h32, bitTy_qlNode_permits ⟨i, h32⟩ hi]
  rfl

theorem storeFromReg_rest (s : State) (n : Nat) (v : StoreValue) :
    ∃ busy queue, s.storeFromReg n v = { s with storeBusy := busy, storeQueue := queue } := by
  unfold State.storeFromReg State.storePut
  split
  · exact ⟨_, _, rfl⟩
  · split <;> exact ⟨_, _, rfl⟩

/-- The write touches the register, the store's queue and the number that waits for a bring-up. -/
theorem nodeSet_rest (s : State) (v : Word32) : ∃ due busy queue, s.nodeSet v = { s.setReg (.glob .qlNode) (s.nodeWritten v) with
    mgmt := { s.mgmt with idDue := due }, storeBusy := busy, storeQueue := queue } ∧ due = if s.portsFree then none else s.mgmt.idDue := by
  unfold State.nodeSet
  dsimp only
  split
  · obtain ⟨busy, queue, h⟩ := storeFromReg_rest { s.setReg (.glob .qlNode) (s.nodeWritten v) with mgmt := { s.mgmt with idDue := none } } 0x0A
      (.moduleId (BitVec.ofNat 11 (bits v 10 0)))
    exact ⟨none, busy, queue, h, rfl⟩
  · exact ⟨_, _, _, rfl, rfl⟩

theorem nodeSet_inv (hs : s.Inv) (v : Word32) : (s.nodeSet v).Inv := by
  have set : (s.setReg (.glob .qlNode) (s.nodeWritten v)).Inv := hs.setReg ..
  unfold State.nodeSet
  dsimp only
  split
  · exact (set.withMgmt _).storeFromReg ..
  · exact set

theorem reg_nodeSet (hs : s.Inv) (v : Word32) : (s.nodeSet v).reg (.glob .qlNode) = s.nodeWritten v := by
  obtain ⟨_, _, _, h, -⟩ := nodeSet_rest s v
  rw [h]
  exact reg_setReg_same hs.regs_wf ..

theorem port_nodeSet (s : State) (v : Word32) (q : Nat) : (s.nodeSet v).port q = s.port q := by
  obtain ⟨_, _, _, h, -⟩ := nodeSet_rest s v
  rw [h]
  rfl

theorem mem_nodeSet (s : State) (v : Word32) : (s.nodeSet v).mem = s.mem := by
  obtain ⟨_, _, _, h, -⟩ := nodeSet_rest s v
  rw [h]
  rfl

theorem idDue_nodeSet (s : State) (v : Word32) : (s.nodeSet v).mgmt.idDue = if s.portsFree then none else s.mgmt.idDue := by
  obtain ⟨_, _, _, h, hdue⟩ := nodeSet_rest s v
  rw [h, ← hdue]

theorem trainable_nodeSet_iff (hs : s.Inv) (v : Word32) (hq : q < 8) : (s.nodeSet v).Trainable q ↔
    (bit v 31 = true ∧ bit v (16 + q) = true) ∧ s.answers = true ∧ s.power.state = .m0 ∧ s.lifecycle = .deployed ∧ s.hasChain (q / 2) = true ∧ s.grade ≠ 2 ∧
      (s.hank (q / 2)).running = true ∧ (s.port q).phase = 0 ∧ (s.port q).retryWait = false := by
  have wanted : (s.nodeSet v).linkWanted q = true ↔ bit v 31 = true ∧ bit v (16 + q) = true := by
    rw [linkWanted_iff, reg_nodeSet hs, bit_node_permit s v (.inr rfl), bit_node_permit s v (.inl (by omega))]
  obtain ⟨_, _, _, h, -⟩ := nodeSet_rest s v
  rw [State.Trainable, linkAllowed_iff, wanted, port_nodeSet, h]
  simp only [and_assoc]
  rfl

/-- The ports begin training from the state with the write taken. -/
theorem qlNodeWrite_trained (hs : s.Inv) (v : Word32) : (s.nodeSet v).Trained (List.range 8) (s.qlNodeWrite v) := by
  rw [qlNodeWrite_eq]
  exact trained_foldl (nodeSet_inv hs v) _

/-- The bits above MODULE_ID after a write of QL_NODE. -/
theorem bit_qlNodeWrite (hs : s.Inv) (v : Word32) {i : Nat} (hi : (16 ≤ i ∧ i ≤ 23) ∨ i = 31) : bit ((s.qlNodeWrite v).reg (.glob .qlNode)) i = bit v i := by
  rw [(qlNodeWrite_trained hs v).permits i (by omega), reg_nodeSet hs, bit_node_permit s v hi]

theorem portEn_qlNodeWrite (hs : s.Inv) (v : Word32) : bits ((s.qlNodeWrite v).reg (.glob .qlNode)) 23 16 = bits v 23 16 := by
  refine Nat.eq_of_testBit_eq fun i => ?_
  rw [testBit_bits, testBit_bits]
  by_cases hi : i < 23 + 1 - 16
  · exact congrArg _ (bit_qlNodeWrite hs v (.inl (by omega)))
  · simp [hi]

/-- MODULE_ID after a write of QL_NODE when no number of the store waits for a bring-up. -/
theorem id_qlNodeWrite (hs : s.Inv) (v : Word32) (hdue : (s.nodeSet v).mgmt.idDue = none) :
    bits ((s.qlNodeWrite v).reg (.glob .qlNode)) 10 0 = if s.portsFree then bits v 10 0 else bits (s.reg (.glob .qlNode)) 10 0 := by
  rw [(qlNodeWrite_trained hs v).idKept hdue, reg_nodeSet hs, bits_node_id]

end Sys2Proof.Machine
end
section
/-! The phases of a Quolyn port (R351, R408, R409, R412, R431), each with the command that leads out of it. -/
namespace Sys2Proof.Machine

variable {s t : State} {q : Nat}

theorem storeSeeds_rest (s : State) : ∃ fresh busy queue, s.storeSeeds = { s with fresh := fresh, storeBusy := busy, storeQueue := queue } := by
  obtain ⟨_, _, h⟩ := storeFromReg_rest s.draw.2 0x03 (.opaqueField s.draw.1)
  exact ⟨_, _, _, h⟩

/-- The seeds are written at once when the store is idle. -/
theorem storeBusy_storeSeeds (h : s.storeBusy = none) : s.storeSeeds.storeBusy = some { job := .field 0x03 (.opaqueField s.draw.1), answer := none } := by
  have idle : s.draw.2.storeBusy.isNone = true := by simp [State.draw, h]
  simp only [State.storeSeeds, State.storeFromReg, State.storePut, idle, if_true, Option.getD_some]

theorem startExchange_spec (hs : s.Inv) (q : Nat) (ops : List Nat) : (s.startExchange q ops).mem = s.mem ∧
    ∃ idle, (s.startExchange q ops).port q = { s.port q with work := ops, idle := idle, exchange := (s.port q).exchange + 1 } := by
  have gave := State.GaveUnits.pkeRuntime (hs.updPort q (fun x => { x with work := ops, idle := ops, exchange := x.exchange + 1 })) (q / 2)
  obtain ⟨idle, hport⟩ := gave.port q
  exact ⟨gave.mem, idle, by rw [State.startExchange, hport, port_updPort hs]⟩

theorem endExchange_spec (hs : s.Inv) (q : Nat) : (s.endExchange q).mem = s.mem ∧ ∃ idle, (s.endExchange q).port q = { s.port q with work := [], idle := idle } := by
  unfold State.endExchange
  extract_lets own freed
  have hfreed : freed.Inv := hs.updPke _ _ fun x hx => Pke.wf_foldl hx _ fun y u hy => by
    split
    · exact Pke.wf_setUnit hy ..
    · exact hy
  have gave := State.GaveUnits.pkeRuntime (hfreed.updPort q (fun x => { x with work := [], idle := [] })) (q / 2)
  obtain ⟨idle, hport⟩ := gave.port q
  exact ⟨gave.mem, idle, by rw [hport, port_updPort hfreed]; rfl⟩

/-- A port with keys from the exchanged value `z`: sequences and epochs are as at reset. -/
def QPort.keyed (x : QPort) (z : Nat) : QPort :=
  { phase := 4, peer := x.peer, probeSeq := x.probeSeq, exchange := x.exchange
    keyOut := Config.derived z 1, saltOut := Config.derived z 2, keyIn := Config.derived z 3, saltIn := Config.derived z 4 }

theorem secured_eq (s : State) (q : Nat) :
    ∃ z peer, s.secured q = State.linkLog ((s.endExchange q).draw.2.updPort q (fun x => x.keyed z)) q 0x30 peer := ⟨_, _, rfl⟩

theorem secured_spec (hs : s.Inv) (q : Nat) : (s.secured q).mem = s.mem ∧ ∃ z, (s.secured q).port q = (s.port q).keyed z := by
  obtain ⟨hmem, idle, hport⟩ := endExchange_spec hs q
  obtain ⟨z, peer, h⟩ := secured_eq s q
  have logged := linkLog_sameCore ((s.endExchange q).draw.2.updPort q (fun x => x.keyed z)) q 0x30 peer none
  refine ⟨?_, z, ?_⟩
  · rw [h, logged.mem_eq, updPort_mem, draw_mem, hmem]
  · rw [h, logged.port_eq, port_updPort (hs.endExchange q).draw, draw_port_get, hport]
    rfl

/-- A retry that is due (R409). -/
theorem retry_eq (hs : s.Inv) (ha : s.linkAllowed q = true) (hp : (s.port q).phase = 0) :
    (s.updPort q (fun x => { x with retryWait := false })).startTraining q = s.takeId.updPort q (fun x => { x with phase := 1, retryWait := false }) := by
  have hport := port_updPort hs q (fun x => { x with retryWait := false })
  have trainable : (s.updPort q (fun x => { x with retryWait := false })).Trainable q := ⟨ha, by rw [hport]; exact hp, by rw [hport]⟩
  rw [startTraining_of_trainable trainable, takeId_updPort, updPort_updPort hs.takeId]

/-! ### The obligation -/

/-- Settles O57: a write of QL_NODE is the write of the register, then `State.Trained`; each phase has its command, and `State.WentDown` is how a port leaves them all. -/
theorem linksComeUp : Obligations.LinksComeUp := by
  unfold Obligations.LinksComeUp
  intro s hs
  refine ⟨fun x ha => ?_, fun q => ?_⟩
  · intro free
    have trained := qlNodeWrite_trained hs x
    have hfree : s.portsFree = true ↔ free := portsFree_iff s
    refine ⟨_, congrArg Host.Outcome.next (if_pos ha), bit_qlNodeWrite hs x (.inr rfl), portEn_qlNodeWrite hs x, fun hf => ?_, fun hf hdue => ?_, fun hf v hdue hmoved => ?_, ?_,
      fun q hq => ⟨?_, fun hno => ?_⟩⟩
    · rw [id_qlNodeWrite hs x (by rw [idDue_nodeSet, if_pos (hfree.2 hf)]), if_pos (hfree.2 hf)]
    · rw [id_qlNodeWrite hs x (by rw [idDue_nodeSet, if_neg (mt hfree.1 hf), hdue]), if_neg (mt hfree.1 hf)]
    · obtain ⟨k, -, hk⟩ := hmoved
      exact trained.idTaken v (by rw [idDue_nodeSet, if_neg (mt hfree.1 hf), hdue]) ⟨k, by rwa [port_nodeSet]⟩
    · obtain ⟨_, _, _, hrest⟩ := trained.rest
      rw [hrest, ← mem_nodeSet s x]
    · intro hphase hlinks hen hpower hlife hchain hgrade hrun hwait
      exact trained.begins q (List.mem_range.2 hq) ((trainable_nodeSet_iff hs x hq).2 ⟨⟨hlinks, hen⟩, ha, hpower, hlife, hchain, hgrade, hrun, hphase, hwait⟩)
    · rw [trained.stays q, port_nodeSet]
      rw [trainable_nodeSet_iff hs x hq]
      rintro ⟨⟨hlinks, hen⟩, -, -, hlife, -, hgrade, -, hphase, hwait⟩
      simp [hlinks, hen, hlife, hgrade, hphase, hwait] at hno
  · intro p down lost
    have fell {c : Instr} {retry : Bool} {t : State} (hc : exec c s = .next t) (hd : s.WentDown q retry t) : down c retry := ⟨t, hc, hd⟩
    have loses {c : Instr} (hc : exec c s = .next (s.linkLost q 1)) : lost c 1 :=
      have ⟨phase, wait, _⟩ := linkLost_wentDown hs q 1
      ⟨_, hc, phase, wait, alarm_mem_linkLost s q 1⟩
    have run {c : Prop} [Decidable c] {t u : State} (hc : c) : Host.Outcome.next (if c then t else u) = (.next t : Host.Outcome State Fault Refusal) :=
      congrArg _ (if_pos hc)
    refine ⟨fun lanes hphase => ⟨fun hlanes => ?_, fun hlanes => ?_⟩, fun peer l hphase => ⟨fun hlife hl hpeer => ?_, fun hno => ?_⟩, fun hphase hok => ?_, fun hphase hok => ?_,
      fun hlo hhi => ?_, fun hwait hallowed hphase => ?_, fun hlo hhi => ?_, fun hphase hwanted => ?_⟩
    · have hport := port_updPort hs q (fun x => { x with phase := 2 })
      have hidle (h : s.storeBusy = none) := storeBusy_storeSeeds (s := s.updPort q (fun x => { x with phase := 2 })) h
      obtain ⟨_, _, _, hseeds⟩ := storeSeeds_rest (s.updPort q (fun x => { x with phase := 2 }))
      refine ⟨_, (run hphase).trans (congrArg _ (if_pos hlanes)), ?_, ?_, ?_, fun h => ⟨_, hidle h⟩⟩
      · rw [hseeds]
        exact hport
      · rw [hseeds, updPort_mem]
      · rw [hseeds, updPort_jobs]
    · exact loses ((run hphase).trans (congrArg _ (if_neg (by omega))))
    · obtain ⟨hmem, idle, hport⟩ := startExchange_spec (hs.updPort q (fun x => { x with phase := 3, peer := peer.toNat })) q bringUpOps
      rw [port_updPort hs] at hport
      refine ⟨_, (run hphase).trans (congrArg _ (if_pos ⟨hlife, hl, hpeer⟩)), ?_, ?_, ?_, hmem⟩ <;> rw [hport]
      rfl
    · refine fell ((run hphase).trans (congrArg _ (if_neg ?_))) (phaseFailed_wentDown hs q)
      tauto
    · obtain ⟨hmem, z, hport⟩ := secured_spec hs q
      exact ⟨_, z, (run hphase).trans (congrArg _ (if_pos hok)), hmem, hport⟩
    · exact fell ((run hphase).trans (congrArg _ (if_neg (by rw [hok]; decide)))) (phaseFailed_wentDown hs q)
    · exact fell (run ⟨hlo, hhi⟩) (phaseFailed_wentDown hs q)
    · exact (run hwait).trans (congrArg _ (retry_eq hs hallowed hphase))
    · exact loses (run ⟨hlo, hhi⟩)
    · exact fell (run ⟨hphase, by rw [hwanted]; rfl⟩) ((portDown_wentDown (hs.linkLog ..) q false).of_sameCore (linkLog_sameCore s ..))

end Sys2Proof.Machine
end
section
/-! The ring of a public-key engine: its slots after writes, what a report and a completion leave of it, and word 12 of an entry (R344, R345). -/
namespace Sys2Proof.Machine

namespace Pke

variable {x : Pke}

/-! ### Slots that lose VALID, and slots that are wiped (R341, R342) -/

/-- Only slots differ. -/
def SlotsOnly (x y : Pke) : Prop := ∃ slots, y = { x with slots := slots }

theorem SlotsOnly.foldl {α : Type} {f : Pke → α → Pke} (l : List α) (hf : ∀ y a, SlotsOnly y (f y a)) (x : Pke) : SlotsOnly x (l.foldl f x) := by
  induction l generalizing x with
  | nil => exact ⟨_, rfl⟩
  | cons a rest ih =>
    obtain ⟨_, h⟩ := hf x a
    obtain ⟨_, h'⟩ := ih (f x a)
    exact ⟨_, by rw [List.foldl_cons, h', h]⟩

theorem setSlot_slotsOnly (x : Pke) (i : Nat) (v : PkeSlot) : SlotsOnly x (x.setSlot i v) := ⟨_, rfl⟩

theorem invalidate_slotsOnly (x : Pke) (is : List Nat) : SlotsOnly x (x.invalidate is) := .foldl _ (fun y i => setSlot_slotsOnly y i _) x

theorem unit_invalidate (x : Pke) (is : List Nat) (u : Nat) : (x.invalidate is).unit u = x.unit u := by
  obtain ⟨_, h⟩ := invalidate_slotsOnly x is
  rw [h]
  rfl

theorem slot_invalidate (hx : x.wf = true) (is : List Nat) (i : Nat) :
    (x.invalidate is).slot i = { x.slot i with valid := (x.slot i).valid && !is.contains i } := by
  induction is generalizing x with
  | nil => simp [invalidate]
  | cons k rest ih =>
    show ((x.setSlot k { x.slot k with valid := false }).invalidate rest).slot i = _
    rw [ih (wf_setSlot hx ..)]
    obtain rfl | hne := eq_or_ne i k
    · simp [slot_setSlot_same hx]
    · rw [slot_setSlot_other _ _ hne, List.contains_cons, beq_false_of_ne hne, Bool.false_or]

/-- The slots of a list are zeroed. -/
def zeroed (x : Pke) (is : List Nat) : Pke := is.foldl (fun x i => x.setSlot i {}) x

theorem slot_zeroed (hx : x.wf = true) (is : List Nat) (i : Nat) : (x.zeroed is).slot i = if i ∈ is then {} else x.slot i := by
  induction is generalizing x with
  | nil => simp [zeroed]
  | cons k rest ih =>
    show ((x.setSlot k {}).zeroed rest).slot i = _
    rw [ih (wf_setSlot hx ..)]
    obtain rfl | hne := eq_or_ne i k
    · simp [slot_setSlot_same hx]
    · simp [slot_setSlot_other _ _ hne, hne]

theorem curveOf_of_loaded {id : Nat} (h : 3 ≤ id) (x : Pke) : x.curveOf id = Tab.get (fun _ => none) x.curves id := by
  obtain ⟨k, rfl⟩ := Nat.exists_eq_add_of_le' h
  rfl

end Pke

variable {s t : State} {h : Fin 4}

/-! ### The die and its ring -/

theorem portUp_congr {h : Nat} (hrun : (t.hank h).running = (s.hank h).running) (hlink : (t.hank h).linkUp = (s.hank h).linkUp) (hpower : t.power = s.power) :
    t.portUp h = s.portUp h := by
  rw [State.portUp, State.portUp, State.perstLow, State.perstLow, hrun, hlink, hpower]

theorem pkeBase_congr (ha : t.active = s.active) : t.pkeBase h = s.pkeBase h := by
  rw [State.pkeBase, State.pkeBase, State.act, State.act, State.act, State.act, ha]

theorem portUp_updPke (hs : s.Inv) (h : Nat) (f : Pke → Pke) : (s.updPke h f).portUp h = s.portUp h := by
  have hank := hank_updPke hs h f
  exact portUp_congr (by rw [hank]) (by rw [hank]) rfl

theorem logRecord_hanks (s : State) (h : Fin 4) (v : BitVec 256) : (s.logRecord h v).hanks = s.hanks := by
  have bumped (u : State) (r : Reg) (hi lo : Nat) : (u.bump r hi lo).hanks = u.hanks := by
    unfold State.bump
    dsimp only
    split <;> rfl
  unfold State.logRecord
  split
  · exact bumped ..
  · dsimp only
    split
    · exact bumped ..
    · rfl

theorem emitLog_hanks (s : State) (h : Fin 4) (r : FaultRec) : (s.emitLog h r).hanks = s.hanks := by
  unfold State.emitLog
  dsimp only
  rw [logRecord_hanks]
  split <;> rfl

theorem hank_setWindows (hs : s.Inv) (k : Nat) (w : List FaultRec) (j : Nat) :
    ∃ windows, (s.setHank k { s.hank k with windows := w }).hank j = { s.hank j with windows := windows } := by
  obtain rfl | hne := eq_or_ne j k
  · exact ⟨w, hank_setHank_same hs.hanks_wf j _⟩
  · exact ⟨(s.hank j).windows, hank_setHank_other _ hne⟩

/-- A log-class report leaves of a hank die all but its windows. -/
theorem hank_reportLog (hs : s.Inv) (src rep : BitVec 16) (event detail : Nat) (part : Option Nat) (j : Nat) :
    ∃ windows, (s.reportLog src rep event detail part).hank j = { s.hank j with windows := windows } := by
  unfold State.reportLog
  dsimp only
  split
  · exact ⟨_, rfl⟩
  · split
    · exact hank_setWindows hs ..
    · split
      · exact hank_setWindows hs ..
      · exact ⟨_, by rw [State.hank, emitLog_hanks]; rfl⟩

/-- An alarm-class report leaves of a hank die all but its alarms. -/
theorem hank_reportAlarm (hs : s.Inv) (src rep : BitVec 16) (event detail : Nat) (part : Option Nat) (j : Nat) :
    ∃ alarms, (s.reportAlarm src rep event detail part).hank j = { s.hank j with alarms := alarms } := by
  unfold State.reportAlarm
  extract_lets k x e sent
  split
  · exact ⟨_, rfl⟩
  · obtain rfl | hne := eq_or_ne j k
    · exact ⟨_, hank_setHank_same hs.hanks_wf _ _⟩
    · exact ⟨(s.hank j).alarms, hank_setHank_other (s := sent) _ hne⟩

/-! ### Word 12 (R344, R345) -/

theorem msixSend_rest (s : State) (key vector : Nat) (o : Output) : ∃ pend out, s.msixSend key vector o = { s with msixPending := pend, out := out } := by
  unfold State.msixSend
  split <;> exact ⟨_, _, rfl⟩

theorem msixSend_host (s : State) (key vector : Nat) (o : Output) : (s.msixSend key vector o).host = s.host := by
  obtain ⟨_, _, h⟩ := msixSend_rest s key vector o
  rw [h]

/-- A completion changes host memory and what is sent, or waits to be sent. -/
theorem pkeComplete_rest (s : State) (h : Fin 4) (e : PkeEntry) (status : Nat) (verdict : Bool) :
    ∃ host pend out, s.pkeComplete h e status verdict = { s with host := host, msixPending := pend, out := out } := by
  unfold State.pkeComplete
  split
  · obtain ⟨_, _, hsent⟩ := msixSend_rest (s.writeHost h (s.pkeBase h + 64 * e.index + 48) (leBytes 4 (1 + (if verdict then 2 else 0) + status * 2 ^ 16))) h
      (bits (s.reg (.hank h .pkeRingCfg)) 11 8) (.msixPf h (bits (s.reg (.hank h .pkeRingCfg)) 11 8))
    exact ⟨_, _, _, hsent⟩
  · exact ⟨_, _, _, rfl⟩

theorem pke_pkeComplete (s : State) (h : Fin 4) (e : PkeEntry) (status : Nat) (verdict : Bool) (k : Nat) : (s.pkeComplete h e status verdict).pke k = s.pke k := by
  obtain ⟨_, _, _, hc⟩ := pkeComplete_rest s h e status verdict
  rw [hc]
  rfl

theorem port_pkeComplete (s : State) (h : Fin 4) (e : PkeEntry) (status : Nat) (verdict : Bool) (q : Nat) : (s.pkeComplete h e status verdict).port q = s.port q := by
  obtain ⟨_, _, _, hc⟩ := pkeComplete_rest s h e status verdict
  rw [hc]
  rfl

theorem pkeWord_of_host (ht : t.host = s.host) (s₀ : State) (e : PkeEntry) : pkeWord s₀ t h e = pkeWord s₀ s h e := by
  rw [pkeWord, pkeWord, State.readHost, State.readHost, ht]

/-- The word that a completion writes is read back. -/
theorem pkeWord_pkeComplete {s₀ : State} (hs : s.Inv) (hup : s.portUp h = true) (hbase : s.pkeBase h = s₀.pkeBase h) (e : PkeEntry) {status : Nat} (hstatus : status < 65536)
    (verdict : Bool) : pkeWord s₀ (s.pkeComplete h e status verdict) h e = 1 + (if verdict then 2 else 0) + status * 65536 := by
  have written := readHost_writeHost_same hs.host_wf h (s.pkeBase h + 64 * e.index + 48) (leBytes 4 (1 + (if verdict then 2 else 0) + status * 2 ^ 16))
  rw [leBytes_length] at written
  have host : (s.pkeComplete h e status verdict).host =
      (s.writeHost h (s.pkeBase h + 64 * e.index + 48) (leBytes 4 (1 + (if verdict then 2 else 0) + status * 2 ^ 16))).host := by
    rw [State.pkeComplete, if_pos hup]
    exact msixSend_host ..
  rw [pkeWord_of_host host, pkeWord, ← hbase, written, leNat_leBytes]
  refine Nat.mod_eq_of_lt ?_
  split <;> omega

/-! ### The runtime has nothing to do (R350) -/

/-- No operation of the runtime waits for a unit of die `h`. -/
def State.PkeCalm (s : State) (h : Nat) : Prop := (s.port (2 * h)).idle = [] ∧ (s.port (2 * h + 1)).idle = []

theorem State.PkeCalm.congr {h : Nat} (a : s.PkeCalm h) (ht : ∀ q, t.port q = s.port q) : t.PkeCalm h := by rwa [State.PkeCalm, ht, ht]

theorem pkeGive_of_none {q : Nat} (hq : (s.port q).idle = []) (h n : Nat) : State.pkeGive h q n s = s := by
  cases n with
  | zero => rfl
  | succ n => rw [State.pkeGive, hq]

theorem pkeRuntime_of_calm {h : Nat} (a : s.PkeCalm h) : s.pkeRuntime h = s := by
  obtain ⟨even, odd⟩ := a
  rw [State.pkeRuntime, pkeGive_of_none even, pkeGive_of_none odd]

end Sys2Proof.Machine
end
section
/-! The ring is disabled (R342, R343): what is in flight is aborted, unit by unit. -/
namespace Sys2Proof.Machine

variable {s t v : State} {h : Fin 4}

/-- What aborts leave: host memory, what is sent, and of the hank dies the slots and units of engine `h` may differ, and a unit holds an operation only if it held it before. -/
structure State.Aborts (h : Fin 4) (s t : State) : Prop where
  rest : ∃ host pend out hanks, t = { s with host := host, msixPending := pend, out := out, hanks := hanks }
  hank : ∃ slots units, t.hank h = { s.hank h with pke := { s.pke h with slots := slots, units := units } }
  held : ∀ u r, (t.pke h).unit u = some r → (s.pke h).unit u = some r

namespace State.Aborts

theorem refl (h : Fin 4) (s : State) : s.Aborts h s := ⟨⟨_, _, _, _, rfl⟩, ⟨_, _, rfl⟩, fun _ _ => id⟩

theorem trans (a : s.Aborts h t) (b : t.Aborts h v) : s.Aborts h v where
  rest := by
    obtain ⟨_, _, _, _, ht⟩ := a.rest
    obtain ⟨_, _, _, _, hv⟩ := b.rest
    exact ⟨_, _, _, _, by rw [hv, ht]⟩
  hank := by
    obtain ⟨_, _, ht⟩ := a.hank
    obtain ⟨_, _, hv⟩ := b.hank
    exact ⟨_, _, by rw [hv, State.pke, ht]⟩
  held u r hu := a.held u r (b.held u r hu)

theorem complete (s : State) (h : Fin 4) (e : PkeEntry) (status : Nat) (verdict : Bool) : s.Aborts h (s.pkeComplete h e status verdict) := by
  obtain ⟨_, _, _, hc⟩ := pkeComplete_rest s h e status verdict
  rw [hc]
  exact ⟨⟨_, _, _, _, rfl⟩, ⟨_, _, rfl⟩, fun _ _ => id⟩

/-- Unit `u` is emptied, and slots lose VALID. -/
theorem empty (hs : s.Inv) (h : Fin 4) (u : Nat) (is : List Nat) : s.Aborts h (s.updPke h (fun x => (x.setUnit u none).invalidate is)) := by
  have hank := hank_updPke hs h (fun x => (x.setUnit u none).invalidate is)
  obtain ⟨slots, hslots⟩ := Pke.invalidate_slotsOnly ((s.pke h).setUnit u none) is
  refine ⟨⟨_, _, _, _, rfl⟩, ⟨slots, Tab.set (fun _ => none) (s.pke h).units u none, ?_⟩, fun k r hk => ?_⟩
  · rw [hank, hslots]
    rfl
  · rw [pke_updPke hs, Pke.unit_invalidate] at hk
    obtain rfl | hne := eq_or_ne k u
    · rw [Pke.unit_setUnit_same (hs.pke_wf h)] at hk
      cases hk
    · rwa [Pke.unit_setUnit_other _ _ hne] at hk

theorem abort (hs : s.Inv) (h : Fin 4) (u : Nat) : s.Aborts h (s.pkeAbort h u) := by
  unfold State.pkeAbort
  split
  · split
    · exact (empty hs h u _).trans (complete ..)
    · exact refl h s
  · exact refl h s

theorem foldl {α : Type} {f : State → α → State} (hf : ∀ u x, u.Inv → (f u x).Inv ∧ u.Aborts h (f u x)) (l : List α) (hs : s.Inv) : s.Aborts h (l.foldl f s) := by
  induction l generalizing s with
  | nil => exact refl h s
  | cons x rest ih =>
    obtain ⟨inv, one⟩ := hf s x hs
    exact one.trans (ih inv)

theorem port_eq (a : s.Aborts h t) (q : Nat) : t.port q = s.port q := by
  obtain ⟨_, _, _, _, rfl⟩ := a.rest
  rfl

theorem regs_eq (a : s.Aborts h t) : t.regs = s.regs := by
  obtain ⟨_, _, _, _, rfl⟩ := a.rest
  rfl

theorem wipes_eq (a : s.Aborts h t) : (t.pke h).wipes = (s.pke h).wipes := by
  obtain ⟨_, _, ht⟩ := a.hank
  rw [State.pke, ht]

end State.Aborts

/-! ### The units one after the other -/

theorem pkeAbort_of_free {u : Nat} (hu : (s.pke h).unit u = none) : s.pkeAbort h u = s := by rw [State.pkeAbort, hu]

theorem pkeAbort_of_operator {u : Nat} {r : PkeRun} (hu : (s.pke h).unit u = some r) (hr : r.port = none) :
    s.pkeAbort h u = (s.updPke h (fun x => (x.setUnit u none).invalidate r.entry.writes)).pkeComplete h r.entry 0x55 false := by
  have operator : r.operator = true := by rw [PkeRun.operator, hr]; rfl
  rw [State.pkeAbort, hu]
  exact if_pos operator

/-- A unit that has been aborted holds no operation of the operator. -/
theorem port_of_unit_pkeAbort (hs : s.Inv) {u : Nat} {r : PkeRun} (hu : ((s.pkeAbort h u).pke h).unit u = some r) : r.port ≠ none := by
  intro hr
  have before := (State.Aborts.abort hs h u).held u r hu
  rw [pkeAbort_of_operator before hr, pke_pkeComplete, pke_updPke hs, Pke.unit_invalidate, Pke.unit_setUnit_same (hs.pke_wf h)] at hu
  cases hu

theorem foldl_pkeAbort_aborts (hs : s.Inv) (l : List Nat) : s.Aborts h (l.foldl (fun s u => s.pkeAbort h u) s) :=
  .foldl (fun _ x hu => ⟨hu.pkeAbort h x, .abort hu h x⟩) l hs

theorem foldl_pkeAbort_inv (hs : s.Inv) (l : List Nat) : (l.foldl (fun s u => s.pkeAbort h u) s).Inv := hs.foldl l fun _ x hu => hu.pkeAbort h x

theorem port_of_unit_foldl_pkeAbort (hs : s.Inv) {l : List Nat} {u : Nat} (hl : u ∈ l) {r : PkeRun}
    (hu : ((l.foldl (fun s u => s.pkeAbort h u) s).pke h).unit u = some r) : r.port ≠ none := by
  induction l generalizing s with
  | nil => cases hl
  | cons k rest ih =>
    obtain rfl | hrest := List.mem_cons.1 hl
    · exact port_of_unit_pkeAbort hs ((foldl_pkeAbort_aborts (hs.pkeAbort h u) rest).held u r hu)
    · exact ih (hs.pkeAbort h k) hrest hu

theorem foldl_pkeAbort_of_free {l : List Nat} (hl : ∀ u ∈ l, (s.pke h).unit u = none) : l.foldl (fun s u => s.pkeAbort h u) s = s := by
  induction l with
  | nil => rfl
  | cons k rest ih => rw [List.foldl_cons, pkeAbort_of_free (hl k List.mem_cons_self), ih fun u hu => hl u (List.mem_cons_of_mem k hu)]

/-- Where one unit alone is in use, its abort is all that happens. -/
theorem foldl_pkeAbort_of_single (hs : s.Inv) {l : List Nat} (hl : l.Nodup) {u : Nat} (hu : u ∈ l) (hfree : ∀ v ∈ l, v ≠ u → (s.pke h).unit v = none) :
    l.foldl (fun s u => s.pkeAbort h u) s = s.pkeAbort h u := by
  induction l with
  | nil => cases hu
  | cons k rest ih =>
    obtain ⟨hk, hrest⟩ := List.nodup_cons.1 hl
    rw [List.foldl_cons]
    obtain rfl | hne := eq_or_ne k u
    · refine foldl_pkeAbort_of_free fun v hv => ?_
      have before := hfree v (List.mem_cons_of_mem k hv) (by rintro rfl; exact hk hv)
      cases hunit : ((s.pkeAbort h k).pke h).unit v with
      | none => rfl
      | some r =>
        rw [(State.Aborts.abort hs h k).held v r hunit] at before
        cases before
    · rw [pkeAbort_of_free (hfree k List.mem_cons_self hne)]
      exact ih hrest ((List.mem_cons.1 hu).resolve_left hne.symm) fun v hv => hfree v (List.mem_cons_of_mem k hv)

/-! ### The disable -/

/-- The ring with ENABLE cleared and its waiting commit withdrawn. -/
def State.pkeOff (s : State) (h : Fin 4) : State := (s.setField (.hank h .pkeRingCfg) 31 31 0).dropCommit (.pkeRing h)

/-- What is in flight is aborted. -/
def State.pkeAborted (s : State) (h : Fin 4) : State := (List.range 8).foldl (fun s u => s.pkeAbort h u) (s.pkeOff h)

theorem pkeOff_inv (hs : s.Inv) (h : Fin 4) : (s.pkeOff h).Inv := (hs.setField ..).dropCommit _

theorem pkeAborted_inv (hs : s.Inv) (h : Fin 4) : (s.pkeAborted h).Inv := foldl_pkeAbort_inv (pkeOff_inv hs h) _

theorem pkeAborted_aborts (hs : s.Inv) (h : Fin 4) : (s.pkeOff h).Aborts h (s.pkeAborted h) := foldl_pkeAbort_aborts (pkeOff_inv hs h) _

theorem port_of_unit_pkeAborted (hs : s.Inv) (u : Fin 8) {r : PkeRun} (hu : ((s.pkeAborted h).pke h).unit u = some r) : r.port ≠ none :=
  port_of_unit_foldl_pkeAbort (s := s.pkeOff h) (l := List.range 8) (pkeOff_inv hs h) (List.mem_range.2 u.isLt) hu

theorem pkeDisable_eq (s : State) (h : Fin 4) : s.pkeDisable h =
    ((((s.pkeAborted h).pke h).wipes.foldl (fun s e => s.pkeComplete h e 0x55 false) (s.pkeAborted h)).updPke h
      (fun x => { x with active := false, waiting := none, wipes := [] })).pkeRuntime h := rfl

theorem foldl_pkeComplete_aborts (hs : s.Inv) (l : List PkeEntry) : s.Aborts h (l.foldl (fun s e => s.pkeComplete h e 0x55 false) s) :=
  .foldl (fun _ e hu => ⟨hu.pkeComplete h e 0x55 false, .complete ..⟩) l hs

theorem pke_foldl_pkeComplete (s : State) (l : List PkeEntry) : (l.foldl (fun s e => s.pkeComplete h e 0x55 false) s).pke h = s.pke h := by
  induction l generalizing s with
  | nil => rfl
  | cons e rest ih => rw [List.foldl_cons, ih, pke_pkeComplete]

/-- After a disable ENABLE and ACTIVE read 0, no command waits or wipes, and the units hold operations of the runtime alone. -/
theorem pkeDisable_spec (hs : s.Inv) (h : Fin 4) : bit ((s.pkeDisable h).reg (.hank h .pkeRingCfg)) 31 = false ∧ ((s.pkeDisable h).pke h).active = false ∧
    ((s.pkeDisable h).pke h).waiting = none ∧ ((s.pkeDisable h).pke h).wipes = [] ∧
    ∀ (u : Fin 8) (r : PkeRun), ((s.pkeDisable h).pke h).unit u = some r → r.port ≠ none := by
  have haborted := pkeAborted_inv hs h
  have completes := foldl_pkeComplete_aborts (h := h) haborted ((s.pkeAborted h).pke h).wipes
  have hcompleted : (((s.pkeAborted h).pke h).wipes.foldl (fun s e => s.pkeComplete h e 0x55 false) (s.pkeAborted h)).Inv :=
    haborted.foldl _ fun _ e hu => hu.pkeComplete h e 0x55 false
  rw [pkeDisable_eq]
  have gave := State.GaveUnits.pkeRuntime (hcompleted.updPke h (fun x => { x with active := false, waiting := none, wipes := [] })) h
  have aborts := pkeAborted_aborts hs h
  obtain ⟨units, hank⟩ := gave.hank
  rw [pke_updPke hcompleted] at hank
  refine ⟨?_, ?_, ?_, ?_, fun u r hu => ?_⟩
  · rw [State.reg, gave.regs, updPke_regs, completes.regs_eq, aborts.regs_eq]
    show bit ((s.setField (.hank h .pkeRingCfg) 31 31 0).reg (.hank h .pkeRingCfg)) 31 = false
    rw [reg_setField_same hs.regs_wf, bit, getLsbD_setBits _ le_rfl (by omega), if_pos ⟨le_rfl, le_rfl⟩, Nat.zero_testBit]
  · rw [State.pke, hank]
  · rw [State.pke, hank]
  · rw [State.pke, hank]
  · refine (gave.given u r hu).elim (fun hheld => ?_) id
    rw [pke_updPke hcompleted, pke_foldl_pkeComplete] at hheld
    dsimp only [Pke.unit] at hheld
    exact port_of_unit_pkeAborted hs u hheld

/-- The only operation in flight completes with PKE_ABORTED (R342). -/
theorem pkeWord_pkeDisable (hs : s.Inv) (hup : s.portUp h = true) {u : Fin 8} {r : PkeRun} (hunits : (s.pke h).units = [(u.val, some r)]) (hr : r.port = none)
    (hwipes : (s.pke h).wipes = []) : pkeWord s (s.pkeDisable h) h r.entry = 0x550001 := by
  have hoff := pkeOff_inv hs h
  have haborted := pkeAborted_inv hs h
  have hunit : ((s.pkeOff h).pke h).unit u = some r := by
    show Tab.get _ (s.pke h).units u = _
    rw [hunits, Tab.get, if_pos rfl]
  have hfree : ∀ v ∈ List.range 8, v ≠ u.val → ((s.pkeOff h).pke h).unit v = none := fun v _ hv => by
    show Tab.get _ (s.pke h).units v = _
    rw [hunits, Tab.get, if_neg hv.symm, Tab.get_nil]
  have single : s.pkeAborted h = (s.pkeOff h).pkeAbort h u := foldl_pkeAbort_of_single hoff List.nodup_range (List.mem_range.2 u.isLt) hfree
  have nowipes : ((s.pkeAborted h).pke h).wipes = [] := (pkeAborted_aborts hs h).wipes_eq.trans hwipes
  have gave := State.GaveUnits.pkeRuntime (haborted.updPke h (fun x => { x with active := false, waiting := none, wipes := [] })) h
  rw [pkeDisable_eq, nowipes, List.foldl_nil, pkeWord_of_host gave.host, pkeWord_of_host (updPke_host ..), single, pkeAbort_of_operator hunit hr,
    pkeWord_pkeComplete (hoff.updPke h _ fun _ hx => Pke.wf_invalidate (Pke.wf_setUnit hx ..) _) ?_ ?_ _ (by omega)]
  · rfl
  · rw [portUp_updPke hoff, ← hup]
    rfl
  · rfl

end Sys2Proof.Machine
end
section
/-! PKE_COMMAND_START (R340, R341, R346, R350): the fetch of the next entry, the checks in their order, and how the waiting command is refused, starts or waits. -/
namespace Sys2Proof.Machine

variable {s t : State} {h : Fin 4} {e : PkeEntry}

/-! ### The fetch -/

/-- The entry at the head of the ring. -/
def State.pkeNext (s : State) (h : Fin 4) : PkeEntry :=
  { raw := BitVec.ofNat 512 (leNat (s.readHost h (s.pkeBase h + 64 * (s.pke h).head) 64)), index := (s.pke h).head }

/-- The engine with the entry at its head taken. -/
def State.pkeFetched (s : State) (h : Fin 4) : State :=
  s.updPke h (fun x => { x with waiting := some (s.pkeNext h), head := (x.head + 1) % s.pkeSize h })

theorem pkeFetch_of_waiting (hw : (s.pke h).waiting = some e) : s.pkeFetch h = s := by simp [State.pkeFetch, hw]

theorem pkeFetch_of_ready (hup : s.portUp h = true) (hw : (s.pke h).waiting = none) (ha : (s.pke h).active = true) (hen : s.pkeEnabled h = true)
    (hf : (s.pke h).fetchStopped = false) (hne : (s.pke h).head ≠ (s.pke h).tail) : s.pkeFetch h = s.pkeFetched h := by
  simp only [State.pkeFetch, hup, hw, ha, hen, hf, hne, Option.isSome_none, Bool.not_true, Bool.or_self, decide_false, Bool.false_eq_true, if_false]
  rfl

theorem exec_pkeCommandStart (ho : s.pkeOpen h = true) (hm : s.power.state = .m0) : exec (.pkeCommandStart h) s = .next (((s.pkeRuntime h).pkeFetch h).pkeStart h) :=
  congrArg Host.Outcome.next (if_pos (by rw [ho, hm]; rfl))

theorem exec_pkeCommandStart_of_calm (ho : s.pkeOpen h = true) (hm : s.power.state = .m0) (hcalm : s.PkeCalm h) :
    exec (.pkeCommandStart h) s = .next ((s.pkeFetch h).pkeStart h) := by rw [exec_pkeCommandStart ho hm, pkeRuntime_of_calm hcalm]

theorem exec_pkeCommandStart_of_waiting (ho : s.pkeOpen h = true) (hm : s.power.state = .m0) (hcalm : s.PkeCalm h) (hw : (s.pke h).waiting = some e) :
    exec (.pkeCommandStart h) s = .next (s.pkeStart h) := by rw [exec_pkeCommandStart_of_calm ho hm hcalm, pkeFetch_of_waiting hw]

theorem pkeOpen_updPke (hs : s.Inv) (h : Nat) (f : Pke → Pke) : (s.updPke h f).pkeOpen h = s.pkeOpen h := by
  simp only [State.pkeOpen, State.hankOpen, hank_updPke hs, updPke_answers_get]
  rfl

/-- A start fetches first. -/
theorem exec_pkeCommandStart_fetched (hs : s.Inv) (ho : s.pkeOpen h = true) (hm : s.power.state = .m0) (hcalm : s.PkeCalm h) (hf : s.pkeFetch h = s.pkeFetched h) :
    exec (.pkeCommandStart h) s = exec (.pkeCommandStart h) (s.pkeFetched h) := by
  have waiting : ((s.pkeFetched h).pke h).waiting = some (s.pkeNext h) := by rw [State.pkeFetched, pke_updPke hs]
  have calm : (s.pkeFetched h).PkeCalm h := hcalm.congr fun q => updPke_port_get ..
  have again := exec_pkeCommandStart_of_waiting (s := s.pkeFetched h) ((pkeOpen_updPke hs ..).trans ho) hm calm waiting
  rw [again, exec_pkeCommandStart_of_calm ho hm hcalm, hf]

/-! ### The checks of R346 -/

/-- The slots that step 1 and step 3 look at: a WIPE names the ends of its range. -/
def PkeEntry.named (e : PkeEntry) : List Nat := if e.op = 0x06 then [e.first, e.last] else e.slots

/-- Step 1 of R346: reserved bits, operation, slots, the length of a digest and the order of a range. -/
def PkeEntry.formed (e : PkeEntry) : Bool :=
  pkeReservedOk e.num && [0x01, 0x02, 0x03, 0x04, 0x05, 0x06, 0x08, 0x09].contains e.op && e.named.all (fun i => decide (i ≠ 0x3F)) &&
    (decide (e.op ≠ 0x02 ∧ e.op ≠ 0x03) || decide (1 ≤ e.hashLen ∧ e.hashLen ≤ 64)) && (decide (e.op ≠ 0x06) || decide (e.first ≤ e.last))

/-- Step 2 and step 5 look at the operations that use host memory. -/
def PkeEntry.onHost (e : PkeEntry) : Bool := decide (e.op = 0x08) || decide (e.op = 0x09)

/-- Step 3: a slot of the runtime, or a secret that may not be exported. -/
def PkeEntry.denied (x : Pke) (e : PkeEntry) : Bool :=
  e.named.any (fun i => decide (i < 32)) || (decide (e.op = 0x09) && (x.slot e.in0).secret && !(x.slot e.in0).exportable)

/-- Step 4: a curve that is not loaded, or a place that cannot be loaded. -/
def PkeEntry.noCurve (x : Pke) (e : PkeEntry) : Bool := if e.op = 0x05 then decide (e.curve < 3) else (x.curveOf e.curve).isNone

theorem pkeCheck_eq (s : State) (h : Fin 4) (e : PkeEntry) : s.pkeCheck h e =
    if e.formed = false then some 0x10 else if e.onHost = true ∧ e.hostAddr % 64 ≠ 0 then some 0x11 else if e.denied (s.pke h) = true then some 0x15
    else if e.noCurve (s.pke h) = true then some 0x53 else if e.onHost = true ∧ s.portUp h = false then some 0x14 else none := by
  have steps : s.pkeCheck h e = if (!e.formed) = true then some 0x10 else if (e.onHost && decide (e.hostAddr % 64 ≠ 0)) = true then some 0x11
      else if e.denied (s.pke h) = true then some 0x15 else if e.noCurve (s.pke h) = true then some 0x53 else if (e.onHost && !s.portUp h) = true then some 0x14 else none := rfl
  simpa only [Bool.not_eq_true', Bool.and_eq_true, decide_eq_true_iff] using steps

theorem pkeCheck_lt {code : Nat} (hc : s.pkeCheck h e = some code) : code < 65536 := by
  rw [pkeCheck_eq] at hc
  split_ifs at hc <;> cases hc <;> decide

section
variable (hres : pkeReservedOk e.num = true)
include hres

theorem formed_verify (hop : e.op = 3) (h0 : e.in0 ≠ 63) (h1 : e.in1 ≠ 63) (h2 : e.in2 ≠ 63) (hlo : 1 ≤ e.hashLen) (hhi : e.hashLen ≤ 64) : e.formed = true := by
  simp [PkeEntry.formed, PkeEntry.named, PkeEntry.slots, PkeEntry.reads, PkeEntry.writes, hres, hop, h0, h1, h2, hlo, hhi]

theorem formed_curveLoad (hop : e.op = 5) (h0 : e.in0 ≠ 63) (h1 : e.in1 ≠ 63) (h2 : e.in2 ≠ 63) : e.formed = true := by
  simp [PkeEntry.formed, PkeEntry.named, PkeEntry.slots, PkeEntry.reads, PkeEntry.writes, hres, hop, h0, h1, h2]

theorem formed_wipe (hop : e.op = 6) (hf : e.first ≠ 63) (hl : e.last ≠ 63) (hle : e.first ≤ e.last) : e.formed = true := by
  simp [PkeEntry.formed, PkeEntry.named, hres, hop, hf, hl, hle]

theorem formed_slotStore (hop : e.op = 9) (h0 : e.in0 ≠ 63) : e.formed = true := by
  simp [PkeEntry.formed, PkeEntry.named, PkeEntry.slots, PkeEntry.reads, PkeEntry.writes, hres, hop, h0]

end

theorem formed_undefined (hop : e.op = 7 ∨ 9 < e.op) : e.formed = false := by
  have undefined : [0x01, 0x02, 0x03, 0x04, 0x05, 0x06, 0x08, 0x09].contains e.op = false := by
    generalize e.op = op at hop
    simp only [List.contains_eq_mem, decide_eq_false_iff_not, List.mem_cons, List.not_mem_nil, or_false]
    omega
  rw [PkeEntry.formed, undefined]
  simp

/-- Steps 3 and 4 alone decide about a well-formed operation that does not use host memory. -/
theorem pkeCheck_of_formed (hf : e.formed = true) (hh : e.onHost = false) : s.pkeCheck h e =
    if e.denied (s.pke h) = true then some 0x15 else if e.noCurve (s.pke h) = true then some 0x53 else none := by
  simp [pkeCheck_eq, hf, hh]

theorem denied_three {x : Pke} (hop : e.op = 3 ∨ e.op = 5) : e.denied x = true ↔ e.in0 < 32 ∨ e.in1 < 32 ∨ e.in2 < 32 := by
  obtain hop | hop := hop <;> simp [PkeEntry.denied, PkeEntry.named, PkeEntry.slots, PkeEntry.reads, PkeEntry.writes, hop]

theorem denied_wipe {x : Pke} (hop : e.op = 6) : e.denied x = true ↔ e.first < 32 ∨ e.last < 32 := by simp [PkeEntry.denied, PkeEntry.named, hop]

theorem denied_slotStore {x : Pke} (hop : e.op = 9) :
    e.denied x = true ↔ e.in0 < 32 ∨ ((x.slot e.in0).secret = true ∧ (x.slot e.in0).exportable = false) := by
  simp [PkeEntry.denied, PkeEntry.named, PkeEntry.slots, PkeEntry.reads, PkeEntry.writes, hop]

theorem noCurve_iff {x : Pke} (hop : e.op ≠ 5) : e.noCurve x = true ↔ x.curveOf e.curve = none := by
  rw [PkeEntry.noCurve, if_neg hop, Option.isNone_iff_eq_none]

theorem noCurve_curveLoad {x : Pke} (hop : e.op = 5) : e.noCurve x = true ↔ e.curve < 3 := by rw [PkeEntry.noCurve, if_pos hop, decide_eq_true_iff]

theorem onHost_eq_false (h8 : e.op ≠ 8) (h9 : e.op ≠ 9) : e.onHost = false := by simp [PkeEntry.onHost, h8, h9]

/-- The checks of R346, for the operations in turn: VERIFY, CURVE_LOAD, WIPE, SLOT_STORE, and codes that name none. -/
theorem pkeCheck_codes (hup : s.portUp h = true) (e : PkeEntry) (hres : pkeReservedOk e.num = true) :
    (e.op = 3 → e.in0 ≠ 63 → e.in1 ≠ 63 → e.in2 ≠ 63 → 1 ≤ e.hashLen → e.hashLen ≤ 64 →
      s.pkeCheck h e = if e.in0 < 32 ∨ e.in1 < 32 ∨ e.in2 < 32 then some 0x15 else if (s.pke h).curveOf e.curve = none then some 0x53 else none) ∧
    (e.op = 5 → e.in0 ≠ 63 → e.in1 ≠ 63 → e.in2 ≠ 63 →
      s.pkeCheck h e = if e.in0 < 32 ∨ e.in1 < 32 ∨ e.in2 < 32 then some 0x15 else if e.curve < 3 then some 0x53 else none) ∧
    (e.op = 6 → e.first ≠ 63 → e.last ≠ 63 → e.first ≤ e.last →
      s.pkeCheck h e = if e.first < 32 ∨ e.last < 32 then some 0x15 else if (s.pke h).curveOf e.curve = none then some 0x53 else none) ∧
    (e.op = 9 → e.in0 ≠ 63 → s.pkeCheck h e = if e.hostAddr % 64 ≠ 0 then some 0x11
      else if e.in0 < 32 ∨ (((s.pke h).slot e.in0).secret = true ∧ ((s.pke h).slot e.in0).exportable = false) then some 0x15
      else if (s.pke h).curveOf e.curve = none then some 0x53 else none) ∧
    (e.op = 7 ∨ 9 < e.op → s.pkeCheck h e = some 0x10) := by
  refine ⟨fun hop h0 h1 h2 hlo hhi => ?_, fun hop h0 h1 h2 => ?_, fun hop hf hl hle => ?_, fun hop h0 => ?_, fun hop => ?_⟩
  · simp only [pkeCheck_of_formed (formed_verify hres hop h0 h1 h2 hlo hhi) (onHost_eq_false (by omega) (by omega)), denied_three (.inl hop), noCurve_iff (e := e) (by omega)]
  · simp only [pkeCheck_of_formed (formed_curveLoad hres hop h0 h1 h2) (onHost_eq_false (by omega) (by omega)), denied_three (.inr hop), noCurve_curveLoad hop]
  · simp only [pkeCheck_of_formed (formed_wipe hres hop hf hl hle) (onHost_eq_false (by omega) (by omega)), denied_wipe hop, noCurve_iff (e := e) (by omega)]
  · have host : e.onHost = true := by simp [PkeEntry.onHost, hop]
    simp only [pkeCheck_eq, formed_slotStore hres hop h0, host, denied_slotStore hop, noCurve_iff (e := e) (by omega), hup, true_and, Bool.true_eq_false, if_false]
  · rw [pkeCheck_eq, if_pos (formed_undefined hop)]

/-! ### The waiting command -/

/-- The engine without the waiting command. -/
def State.pkeTaken (s : State) (h : Fin 4) : State := s.updPke h (fun x => { x with waiting := none })

theorem pkeTaken_inv (hs : s.Inv) (h : Fin 4) : (s.pkeTaken h).Inv := hs.updPke h _

section
variable (hw : (s.pke h).waiting = some e)
include hw

theorem pkeStart_of_code {code : Nat} (hc : s.pkeCheck h e = some code) : s.pkeStart h = (s.pkeTaken h).pkeComplete h e code false := by
  simp only [State.pkeStart, hw, hc, State.pkeTaken]

variable (hc : s.pkeCheck h e = none)
include hc

theorem pkeStart_of_wipe (hop : e.op = 6) : s.pkeStart h = (s.pkeTaken h).updPke h (fun x => { x with wipes := x.wipes ++ [e] }) := by
  simp only [State.pkeStart, hw, hc, hop, if_true, State.pkeTaken]

variable (hop : e.op ≠ 6)
include hop

theorem pkeStart_of_hazard (hz : (s.pke h).hazard e = true) : s.pkeStart h = s := by
  simp only [State.pkeStart, hw, hc, hop, hz, if_true, if_false]

variable (hz : (s.pke h).hazard e = false)
include hz

theorem pkeStart_of_invalid (hv : ∃ i ∈ e.reads, ((s.pke h).slot i).valid = false) : s.pkeStart h = (s.pkeTaken h).pkeComplete h e 0x10 false := by
  have invalid : e.reads.any (fun i => !((s.pke h).slot i).valid) = true := by simpa [List.any_eq_true] using hv
  simp only [State.pkeStart, hw, hc, hop, hz, invalid, if_true, if_false, Bool.false_eq_true, State.pkeTaken]

theorem pkeStart_of_free (hv : ∀ i ∈ e.reads, ((s.pke h).slot i).valid = true) {u : Nat} (hu : (s.pke h).freeUnit = some u) :
    s.pkeStart h = (s.pkeTaken h).updPke h (fun x => x.setUnit u (some { entry := e, params := if e.op = 5 then none else x.curveOf e.curve })) := by
  have valid : e.reads.any (fun i => !((s.pke h).slot i).valid) = false := by simpa [List.any_eq_false] using hv
  simp only [State.pkeStart, hw, hc, hop, hz, valid, hu, if_false, Bool.false_eq_true, State.pkeTaken]

end

/-- A refusal leaves units and slots, and its code stands in word 12. -/
theorem refused_spec (hs : s.Inv) (hup : s.portUp h = true) {code : Nat} (hcode : code < 65536) :
    let t := (s.pkeTaken h).pkeComplete h e code false
    (t.pke h).waiting = none ∧ (t.pke h).units = (s.pke h).units ∧ (t.pke h).slots = (s.pke h).slots ∧ pkeWord s t h e = 1 + code * 65536 := by
  have pke : ((s.pkeTaken h).pkeComplete h e code false).pke h = { s.pke h with waiting := none } := by rw [pke_pkeComplete, State.pkeTaken, pke_updPke hs]
  refine ⟨by rw [pke], by rw [pke], by rw [pke], ?_⟩
  exact pkeWord_pkeComplete (pkeTaken_inv hs h) ((portUp_updPke hs ..).trans hup) rfl e hcode false

/-! ### Units of the runtime -/

/-- A fetch leaves the units. -/
theorem unit_pkeFetch (hs : s.Inv) (h : Fin 4) (u : Nat) : ((s.pkeFetch h).pke h).unit u = (s.pke h).unit u := by
  unfold State.pkeFetch
  dsimp only
  split
  · rfl
  · split
    · rw [pke_updPke (hs.setField ..)]
      rfl
    · rw [pke_updPke hs]
      rfl

/-- A start leaves the units in use. -/
theorem unit_pkeStart_of_held (hs : s.Inv) {u : Nat} {r : PkeRun} (hu : (s.pke h).unit u = some r) : ((s.pkeStart h).pke h).unit u = some r := by
  have taken : ((s.pkeTaken h).pke h).unit u = some r := by
    rw [State.pkeTaken, pke_updPke hs]
    exact hu
  have inv := pkeTaken_inv hs h
  rw [State.pkeTaken] at taken inv
  unfold State.pkeStart
  dsimp only
  split
  · exact hu
  · split
    · rw [pke_pkeComplete]
      exact taken
    · split
      · rw [pke_updPke inv]
        exact taken
      · split
        · exact hu
        · split
          · rw [pke_pkeComplete]
            exact taken
          · split
            next v hv =>
              have hne : u ≠ v := by
                rintro rfl
                rw [Pke.unit_of_freeUnit hv] at hu
                cases hu
              rw [pke_updPke inv, Pke.unit_setUnit_other _ _ hne]
              exact taken
            · exact hu

/-- The operation `op` of a port's exchange, in unit `u`; `rest` waits on. -/
def State.pkeGiveOne (s : State) (h q u op : Nat) (rest : List Nat) : State :=
  (s.updPke h (fun x => x.setUnit u (some { entry := runtimeEntry op, params := some p384, port := some (q, (s.port q).exchange) }))).updPort q (fun x => { x with idle := rest })

theorem pkeGiveOne_inv (hs : s.Inv) (h q u op : Nat) (rest : List Nat) : (s.pkeGiveOne h q u op rest).Inv := (hs.updPke h _ fun _ hx => Pke.wf_setUnit hx ..).updPort ..

theorem pkeGive_succ {h q op u : Nat} {rest : List Nat} (hidle : (s.port q).idle = op :: rest) (hu : (s.pke h).freeUnit = some u) (n : Nat) :
    State.pkeGive h q (n + 1) s = State.pkeGive h q n (s.pkeGiveOne h q u op rest) := by
  rw [State.pkeGive, hidle, hu]
  rfl

theorem unit_pkeGiveOne (hs : s.Inv) (h q u op : Nat) (rest : List Nat) : ((s.pkeGiveOne h q u op rest).pke h).unit u =
    some { entry := runtimeEntry op, params := some p384, port := some (q, (s.port q).exchange) } := by
  rw [State.pkeGiveOne, State.pke, updPort_hank_get, hank_updPke hs]
  exact Pke.unit_setUnit_same (hs.pke_wf h) ..

/-- The first operation that waits at the even port of die `h` takes the lowest free unit (R350). -/
theorem unit_pkeRuntime_first (hs : s.Inv) {h op u : Nat} {rest : List Nat} (hidle : (s.port (2 * h)).idle = op :: rest) (hu : (s.pke h).freeUnit = some u) :
    ((s.pkeRuntime h).pke h).unit u = some { entry := runtimeEntry op, params := some p384, port := some (2 * h, (s.port (2 * h)).exchange) } := by
  have first := pkeGiveOne_inv hs h (2 * h) u op rest
  have later := (State.GaveUnits.pkeGive first h (2 * h) 7).trans (.pkeGive (first.pkeGive ..) h (2 * h + 1) 8)
  rw [State.pkeRuntime, pkeGive_succ hidle hu]
  exact later.held u _ (unit_pkeGiveOne hs ..)

end Sys2Proof.Machine
end
section
/-! A WIPE that finds no operation in flight (R342), and the failure of the entropy source (R339). -/
namespace Sys2Proof.Machine

variable {s t : State} {h : Fin 4} {w : PkeEntry} {rest : List PkeEntry}

/-- The slots of a WIPE are zeroed, with CURVES the loaded curves go, and the next WIPE follows. -/
def Pke.wiped (x : Pke) (w : PkeEntry) (rest : List PkeEntry) : Pke := { x.zeroed w.writes with curves := if w.wipeCurves then [] else x.curves, wipes := rest }

theorem unit_of_no_units {x : Pke} (hx : x.units = []) (u : Nat) : x.unit u = none := by rw [Pke.unit, hx, Tab.get_nil]

/-- With the units free a WIPE aborts nothing. -/
theorem wipeRun_of_idle (hw : (s.pke h).wipes = w :: rest) (hunits : (s.pke h).units = []) :
    s.wipeRun h = ((s.updPke h (fun x => x.wiped w rest)).pkeComplete h w 0 false).pkeRuntime h := by
  unfold State.wipeRun
  rw [hw]
  dsimp only
  rw [List.foldl_fixed' fun u => by rw [unit_of_no_units hunits]]
  rfl

/-- A WIPE writes its range. -/
theorem mem_writes_wipe (hop : w.op = 6) {i : Nat} (hi : i < 63) : i ∈ w.writes ↔ w.first ≤ i ∧ i ≤ w.last := by
  simp [PkeEntry.writes, hop, hi]

theorem slot_wiped {x : Pke} (hx : x.wf = true) (hop : w.op = 6) (rest : List PkeEntry) {i : Nat} (hi : i < 63) :
    (x.wiped w rest).slot i = if w.first ≤ i ∧ i ≤ w.last then {} else x.slot i := by
  show (x.zeroed w.writes).slot i = _
  simp only [Pke.slot_zeroed hx, mem_writes_wipe hop hi]

theorem curveOf_wiped (x : Pke) (w : PkeEntry) (rest : List PkeEntry) (id : Nat) :
    (x.wiped w rest).curveOf id = if 3 ≤ id ∧ w.wipeCurves = true then none else x.curveOf id := by
  by_cases hid : 3 ≤ id
  · rw [Pke.curveOf_of_loaded hid, Pke.curveOf_of_loaded hid]
    show Tab.get _ (if w.wipeCurves then [] else x.curves) id = _
    by_cases hc : w.wipeCurves = true
    · rw [if_pos hc, if_pos ⟨hid, hc⟩, Tab.get_nil]
    · rw [if_neg hc, if_neg fun both => hc both.2]
  · rw [if_neg fun both => hid both.1]
    obtain rfl | rfl | rfl : id = 0 ∨ id = 1 ∨ id = 2 := by omega
    all_goals rfl

/-- What a WIPE leaves, with word 12 of its entry. -/
theorem wipeRun_spec (hs : s.Inv) (hup : s.portUp h = true) (hw : (s.pke h).wipes = w :: rest) (hunits : (s.pke h).units = []) (hop : w.op = 6) :
    ((s.wipeRun h).pke h).wipes = rest ∧ pkeWord s (s.wipeRun h) h w = 1 ∧
    (∀ i : Nat, i < 63 → ((s.wipeRun h).pke h).slot i = if w.first ≤ i ∧ i ≤ w.last then {} else (s.pke h).slot i) ∧
    ∀ id : Nat, ((s.wipeRun h).pke h).curveOf id = if 3 ≤ id ∧ w.wipeCurves = true then none else (s.pke h).curveOf id := by
  have inv : (s.updPke h (fun x => x.wiped w rest)).Inv := hs.updPke h _ fun _ hx => Pke.wf_wiped hx ..
  have gave := State.GaveUnits.pkeRuntime (inv.pkeComplete h w 0 false) h
  obtain ⟨units, hank⟩ := gave.hank
  rw [pke_pkeComplete, pke_updPke hs] at hank
  rw [wipeRun_of_idle hw hunits]
  refine ⟨?_, ?_, fun i hi => ?_, fun id => ?_⟩
  · rw [State.pke, hank]
    rfl
  · rw [pkeWord_of_host gave.host, pkeWord_pkeComplete (s₀ := s) inv ((portUp_updPke hs ..).trans hup) rfl w (by decide)]
    rfl
  · rw [State.pke, hank]
    exact slot_wiped (hs.pke_wf h) hop rest hi
  · rw [State.pke, hank]
    exact curveOf_wiped (s.pke h) w rest id

/-- A failed health test is an alarm, and the source stays dead. -/
theorem exec_entropyHealthFail_spec (hs : s.Inv) (hrun : (s.hank h).running = true) (hok : (s.pke h).entropyOk = true) :
    ∃ t, exec (.entropyHealthFail h) s = .next t ∧ (t.pke h).entropyOk = false ∧ Output.alarm (pkeUnit h 0) 0x14 0 ∈ t.out := by
  have dead : (s.updPke h (fun x => { x with entropyOk := false })).Inv := hs.updPke h _
  obtain ⟨alarms, hank⟩ := hank_reportAlarm dead (pkeUnit h 0) (hankUnit h) 0x14 0 none h
  refine ⟨_, congrArg Host.Outcome.next (if_pos (by rw [hrun, hok]; rfl)), ?_, alarm_mem_reportAlarm ..⟩
  rw [State.pke, hank]
  exact congrArg Pke.entropyOk (pke_updPke hs ..)

end Sys2Proof.Machine
end
section
/-! PKE_OP_COMPLETE (R336, R338, R341, R345): an operation of a port's exchange, one of the operator that delivers, and one that fails. -/
namespace Sys2Proof.Machine

variable {s t : State} {h : Fin 4} {u : Nat} {r : PkeRun} {fault : Bool}

/-! ### How an operation ends -/

/-- An operation as it ends: a failed self-check makes its status PKE_FAULT_DETECTED. -/
def PkeRun.ended (r : PkeRun) (fault : Bool) : PkeRun := if fault then { r with status := 0x54, starved := false } else r

theorem ended_def (r : PkeRun) (fault : Bool) : (if fault = true then { r with status := 0x54, starved := false } else r) = r.ended fault := rfl

theorem ended_eq (r : PkeRun) (fault : Bool) :
    ∃ starved, r.ended fault = { r with status := if fault = true then 0x54 else r.status, starved := starved } := by
  cases fault
  · exact ⟨r.starved, rfl⟩
  · exact ⟨false, rfl⟩

theorem status_ended_ne_zero (hf : fault = true ∨ r.status ≠ 0) : (if fault = true then 0x54 else r.status) ≠ 0 := by
  split
  · omega
  next hno => exact hf.resolve_left hno

/-- The outputs of an operation that ends with DONE: its slots, and the curve that it loaded. -/
def Pke.delivered (x : Pke) (u : Nat) (r : PkeRun) : Pke :=
  let y := r.writes.foldl (fun x (i, v) => x.setSlot i v) (x.setUnit u none)
  match r.curve with
  | some (id, c) => { y with curves := Tab.set (fun _ => none) y.curves id (some c) }
  | none => y

/-- The state with the outputs in slots, curves and host memory. -/
def State.pkeDelivered (s : State) (h : Fin 4) (u : Nat) (r : PkeRun) : State :=
  let t := s.updPke h (fun x => x.delivered u r)
  if r.outBytes ≠ [] ∧ t.portUp h then t.writeHost h r.entry.hostAddr r.outBytes else t

/-- The state with the unit free and the output slots invalid. -/
def State.pkeFailed (s : State) (h : Fin 4) (u : Nat) (r : PkeRun) : State := s.updPke h (fun x => (x.setUnit u none).invalidate r.entry.writes)

section
variable (hu : (s.pke h).unit u = some r) (hd : r.done = true)
include hu hd

theorem pkeEnd_of_port {q n : Nat} (hp : r.port = some (q, n)) :
    s.pkeEnd h u fault = (((s.pkeFault h u (r.ended fault)).updPke h (fun x => x.setUnit u none)).exchangeStep q n (r.ended fault)).pkeRuntime h := by
  have port : (r.ended fault).port = some (q, n) := by
    obtain ⟨_, he⟩ := ended_eq r fault
    rw [he, hp]
  have running : ¬ (!r.done) = true := by simp [hd]
  unfold State.pkeEnd
  rw [hu]
  dsimp only
  rw [if_neg running, ended_def, port]

theorem pkeEnd_of_operator (hp : r.port = none) : s.pkeEnd h u fault = State.pkeRuntime (if (r.ended fault).status = 0
    then ((s.pkeFault h u (r.ended fault)).pkeDelivered h u (r.ended fault)).pkeComplete h (r.ended fault).entry 0 (r.ended fault).verdict
    else ((s.pkeFault h u (r.ended fault)).pkeFailed h u (r.ended fault)).pkeComplete h (r.ended fault).entry (r.ended fault).status false) h := by
  have port : (r.ended fault).port = none := by
    obtain ⟨_, he⟩ := ended_eq r fault
    rw [he, hp]
  have running : ¬ (!r.done) = true := by simp [hd]
  unfold State.pkeEnd
  rw [hu]
  dsimp only
  rw [if_neg running, ended_def, port]
  rfl

end

/-! ### The report of a fault (R338) -/

theorem pkeFault_of_ok (hr : r.status = 0) : s.pkeFault h u r = s := if_neg fun both => by omega

theorem pkeFault_sameCore (s : State) (h : Fin 4) (u : Nat) (r : PkeRun) : s.SameCore (s.pkeFault h u r) := by
  unfold State.pkeFault
  split
  · exact .reportLog ..
  · exact .refl s

theorem hank_pkeFault (hs : s.Inv) (h : Fin 4) (u : Nat) (r : PkeRun) (j : Nat) :
    ∃ windows, (s.pkeFault h u r).hank j = { s.hank j with windows := windows } := by
  unfold State.pkeFault
  split
  · exact hank_reportLog hs ..
  · exact ⟨_, rfl⟩

/-! ### Operations of a port's exchange (R350, R409) -/

section
variable {q n : Nat} (hn : (s.port q).exchange = n) (hw : r.entry.op ∈ (s.port q).work)
include hn hw

theorem exchangeStep_of_done (hr : r.status = 0) : s.exchangeStep q n r = s.setPort q { s.port q with work := (s.port q).work.erase r.entry.op } := by
  simp [State.exchangeStep, hn, hw, hr]

theorem exchangeStep_of_failed (hr : r.status ≠ 0) : s.exchangeStep q n r = if (s.port q).phase = 3 then s.phaseFailed q else s.linkLost q 2 := by
  simp [State.exchangeStep, hn, hw, hr]

end

/-- An operation of the exchange that ends is done. -/
theorem exchange_goes_on (hs : s.Inv) {q n : Nat} (hu : (s.pke h).unit u = some r) (hd : r.done = true) (hp : r.port = some (q, n)) (hn : (s.port q).exchange = n)
    (hw : r.entry.op ∈ (s.port q).work) (hr : r.status = 0) :
    ((s.pkeEnd h u false).port q).work = (s.port q).work.erase r.entry.op ∧ (s.pkeEnd h u false).host = s.host := by
  have freed : (s.updPke h (fun x => x.setUnit u none)).Inv := hs.updPke h _ fun _ hx => Pke.wf_setUnit hx ..
  have ends : s.pkeEnd h u false = ((s.updPke h (fun x => x.setUnit u none)).setPort q { s.port q with work := (s.port q).work.erase r.entry.op }).pkeRuntime h := by
    rw [pkeEnd_of_port hu hd hp]
    show (((s.pkeFault h u r).updPke h (fun x => x.setUnit u none)).exchangeStep q n r).pkeRuntime h = _
    rw [pkeFault_of_ok hr, exchangeStep_of_done (s := s.updPke h (fun x => x.setUnit u none)) hn hw hr]
    rfl
  have gave := State.GaveUnits.pkeRuntime (freed.setPort q { s.port q with work := (s.port q).work.erase r.entry.op }) h
  obtain ⟨_, port⟩ := gave.port q
  rw [ends]
  refine ⟨?_, gave.host⟩
  rw [port, port_setPort freed]

/-- One that fails ends the bring-up or the link. -/
theorem exchange_fails (hs : s.Inv) {q n : Nat} (hu : (s.pke h).unit u = some r) (hd : r.done = true) (hp : r.port = some (q, n)) (hn : (s.port q).exchange = n)
    (hw : r.entry.op ∈ (s.port q).work) (hf : fault = true ∨ r.status ≠ 0) : ((s.pkeEnd h u fault).port q).phase = 0 ∧ ((s.pkeEnd h u fault).port q).retryWait = true := by
  have faulted := hs.pkeFault h u (r.ended fault)
  have freed : ((s.pkeFault h u (r.ended fault)).updPke h (fun x => x.setUnit u none)).Inv := faulted.updPke h _ fun _ hx => Pke.wf_setUnit hx ..
  have port : ((s.pkeFault h u (r.ended fault)).updPke h (fun x => x.setUnit u none)).port q = s.port q := (pkeFault_sameCore ..).port_eq q
  obtain ⟨_, he⟩ := ended_eq r fault
  have status : (r.ended fault).status ≠ 0 := by
    rw [he]
    exact status_ended_ne_zero hf
  have op : (r.ended fault).entry = r.entry := by rw [he]
  rw [pkeEnd_of_port hu hd hp, exchangeStep_of_failed (by rw [port, hn]) (by rw [port, op]; exact hw) status]
  generalize (s.pkeFault h u (r.ended fault)).updPke h (fun x => x.setUnit u none) = v at freed port
  have down : v.WentDown q true (if (v.port q).phase = 3 then v.phaseFailed q else v.linkLost q 2) := by
    split
    · exact phaseFailed_wentDown freed q
    · exact linkLost_wentDown freed q 2
  have inv : (if (v.port q).phase = 3 then v.phaseFailed q else v.linkLost q 2).Inv := .ite (freed.phaseFailed q) (freed.linkLost q 2)
  obtain ⟨phase, wait, -⟩ := down
  obtain ⟨_, gave⟩ := (State.GaveUnits.pkeRuntime inv h).port q
  rw [gave]
  exact ⟨phase, wait⟩

/-! ### The outputs of an operation that ends with DONE -/

theorem wf_delivered {x : Pke} (hx : x.wf = true) (u : Nat) (r : PkeRun) : (x.delivered u r).wf = true := by
  have hy := Pke.wf_foldl (f := fun x (p : Nat × PkeSlot) => x.setSlot p.1 p.2) (Pke.wf_setUnit hx u none) r.writes fun _ _ hy => Pke.wf_setSlot hy ..
  unfold Pke.delivered
  dsimp only
  split
  · exact Pke.wf_setCurve hy ..
  · exact hy

/-- Delivery touches slots and curves, and frees the unit. -/
theorem delivered_rest (x : Pke) (u : Nat) (r : PkeRun) : ∃ slots curves, x.delivered u r = { x.setUnit u none with slots := slots, curves := curves } := by
  obtain ⟨slots, hy⟩ := Pke.SlotsOnly.foldl (f := fun x (p : Nat × PkeSlot) => x.setSlot p.1 p.2) r.writes (fun y p => Pke.setSlot_slotsOnly y ..) (x.setUnit u none)
  unfold Pke.delivered
  dsimp only
  rw [hy]
  split <;> exact ⟨_, _, rfl⟩

theorem unit_delivered {x : Pke} (hx : x.wf = true) (u : Nat) (r : PkeRun) : (x.delivered u r).unit u = none := by
  obtain ⟨_, _, hrest⟩ := delivered_rest x u r
  rw [hrest]
  exact Pke.unit_setUnit_same hx u none

theorem slot_delivered {x : Pke} (hx : x.wf = true) (u : Nat) {i : Nat} {v : PkeSlot} (hr : r.writes = [(i, v)]) : (x.delivered u r).slot i = v := by
  have same := Pke.slot_setSlot_same (Pke.wf_setUnit hx u none) i v
  unfold Pke.delivered
  rw [hr]
  dsimp only [List.foldl_cons, List.foldl_nil]
  split <;> exact same

theorem curveOf_delivered {x : Pke} (hx : x.wf = true) (u : Nat) {id : Nat} (hid : 3 ≤ id) {c : PkeCurve} (hr : r.curve = some (id, c)) : (x.delivered u r).curveOf id = some c := by
  obtain ⟨-, curves, -⟩ := Pke.wf_iff.1 (Pke.wf_foldl (f := fun x (p : Nat × PkeSlot) => x.setSlot p.1 p.2) (Pke.wf_setUnit hx u none) r.writes fun _ _ hy => Pke.wf_setSlot hy ..)
  rw [Pke.curveOf_of_loaded hid, Pke.delivered, hr]
  exact Tab.get_set_same curves id (some c)

/-- Delivery is an update of the engine, and of host memory. -/
theorem pkeDelivered_rest (s : State) (h : Fin 4) (u : Nat) (r : PkeRun) : ∃ host, s.pkeDelivered h u r = { s.updPke h (fun x => x.delivered u r) with host := host } := by
  unfold State.pkeDelivered
  dsimp only
  split <;> exact ⟨_, rfl⟩

theorem pkeDelivered_inv (hs : s.Inv) (h : Fin 4) (u : Nat) (r : PkeRun) : (s.pkeDelivered h u r).Inv := by
  have delivered : (s.updPke h (fun x => x.delivered u r)).Inv := hs.updPke h _ fun _ hx => wf_delivered hx ..
  exact .ite (delivered.writeHost ..) delivered

theorem pke_pkeDelivered (hs : s.Inv) (h : Fin 4) (u : Nat) (r : PkeRun) : (s.pkeDelivered h u r).pke h = (s.pke h).delivered u r := by
  obtain ⟨_, hrest⟩ := pkeDelivered_rest s h u r
  rw [hrest]
  exact pke_updPke hs h (fun x => x.delivered u r)

theorem portUp_pkeDelivered (hs : s.Inv) (h : Fin 4) (u : Nat) (r : PkeRun) : (s.pkeDelivered h u r).portUp h = s.portUp h := by
  obtain ⟨_, hrest⟩ := pkeDelivered_rest s h u r
  rw [hrest]
  exact portUp_updPke hs h (fun x => x.delivered u r)

theorem pkeBase_pkeDelivered (s : State) (h : Fin 4) (u : Nat) (r : PkeRun) : (s.pkeDelivered h u r).pkeBase h = s.pkeBase h := by
  obtain ⟨_, hrest⟩ := pkeDelivered_rest s h u r
  rw [hrest]
  exact pkeBase_congr rfl

theorem port_pkeDelivered (s : State) (h : Fin 4) (u : Nat) (r : PkeRun) (q : Nat) : (s.pkeDelivered h u r).port q = s.port q := by
  obtain ⟨_, hrest⟩ := pkeDelivered_rest s h u r
  rw [hrest]
  rfl

/-! ### Operations of the operator -/

section
variable (hs : s.Inv) (hup : s.portUp h = true) (hcalm : s.PkeCalm h) (hu : (s.pke h).unit u = some r) (hd : r.done = true) (hp : r.port = none)
include hs hup hcalm hu hd hp

/-- An operation that ends with DONE delivers its outputs. -/
theorem operation_done (hr : r.status = 0) : ((s.pkeEnd h u false).pke h).unit u = none ∧ pkeWord s (s.pkeEnd h u false) h r.entry = (if r.verdict then 3 else 1) ∧
    (∀ i v, r.writes = [(i, v)] → ((s.pkeEnd h u false).pke h).slot i = v) ∧
    ∀ id c, 3 ≤ id → r.curve = some (id, c) → ((s.pkeEnd h u false).pke h).curveOf id = some c := by
  have ends : s.pkeEnd h u false = (s.pkeDelivered h u r).pkeComplete h r.entry 0 r.verdict := by
    rw [pkeEnd_of_operator hu hd hp]
    show State.pkeRuntime (if r.status = 0 then ((s.pkeFault h u r).pkeDelivered h u r).pkeComplete h r.entry 0 r.verdict
      else ((s.pkeFault h u r).pkeFailed h u r).pkeComplete h r.entry r.status false) h = _
    rw [if_pos hr, pkeFault_of_ok hr]
    exact pkeRuntime_of_calm (hcalm.congr fun q => (port_pkeComplete ..).trans (port_pkeDelivered ..))
  have wf := hs.pke_wf h
  have word := pkeWord_pkeComplete (s₀ := s) (pkeDelivered_inv hs h u r) ((portUp_pkeDelivered hs ..).trans hup) (pkeBase_pkeDelivered ..) r.entry (status := 0) (by decide) r.verdict
  rw [ends, pke_pkeComplete, pke_pkeDelivered hs, word]
  refine ⟨unit_delivered wf .., ?_, fun i v => slot_delivered wf u, fun id c hid => curveOf_delivered wf u hid⟩
  split <;> rfl

/-- One that fails leaves its output slots invalid and their contents as they are. -/
theorem operation_failed (hlt : r.status < 65536) (hf : fault = true ∨ r.status ≠ 0) : ((s.pkeEnd h u fault).pke h).unit u = none ∧
    pkeWord s (s.pkeEnd h u fault) h r.entry = 1 + (if fault then 0x54 else r.status) * 65536 ∧
    ∀ i : Nat, ((s.pkeEnd h u fault).pke h).slot i = { (s.pke h).slot i with valid := ((s.pke h).slot i).valid && !r.entry.writes.contains i } := by
  have faulted := hs.pkeFault h u (r.ended fault)
  have core := pkeFault_sameCore s h u (r.ended fault)
  have ⟨_, active, _, _, _, _, _, power, _⟩ := core
  obtain ⟨_, hank⟩ := hank_pkeFault hs h u (r.ended fault) h
  obtain ⟨_, he⟩ := ended_eq r fault
  have entry : (r.ended fault).entry = r.entry := by rw [he]
  have status : (r.ended fault).status = if fault = true then 0x54 else r.status := by rw [he]
  have failed : (r.ended fault).status ≠ 0 := by
    rw [status]
    exact status_ended_ne_zero hf
  have pke : (s.pkeFault h u (r.ended fault)).pke h = s.pke h := (congrArg Hank.pke hank :)
  have ends : s.pkeEnd h u fault = ((s.pkeFault h u (r.ended fault)).pkeFailed h u (r.ended fault)).pkeComplete h r.entry (if fault = true then 0x54 else r.status) false := by
    rw [pkeEnd_of_operator hu hd hp, if_neg failed, entry, status]
    exact pkeRuntime_of_calm (hcalm.congr fun q => (port_pkeComplete ..).trans (core.port_eq q))
  have inv : ((s.pkeFault h u (r.ended fault)).pkeFailed h u (r.ended fault)).Inv := faulted.updPke h _ fun _ hx => Pke.wf_invalidate (Pke.wf_setUnit hx ..) _
  have up : ((s.pkeFault h u (r.ended fault)).pkeFailed h u (r.ended fault)).portUp h = true := by
    rw [State.pkeFailed, portUp_updPke faulted, portUp_congr (s := s) (by rw [hank]) (by rw [hank]) power, hup]
  have base : ((s.pkeFault h u (r.ended fault)).pkeFailed h u (r.ended fault)).pkeBase h = s.pkeBase h := pkeBase_congr active
  have small : (if fault = true then 0x54 else r.status) < 65536 := by split <;> omega
  have wf := hs.pke_wf h
  rw [ends, pkeWord_pkeComplete inv up base r.entry small, pke_pkeComplete, State.pkeFailed, pke_updPke faulted, pke, entry]
  refine ⟨?_, by simp, fun i => ?_⟩
  · rw [Pke.unit_invalidate, Pke.unit_setUnit_same wf]
  · exact Pke.slot_invalidate (Pke.wf_setUnit wf u none) _ i

end

end Sys2Proof.Machine
end
section
/-! The operator ring as a whole (O54): enable, doorbell and start put together. -/
namespace Sys2Proof.Machine

variable {s : State} {h : Fin 4}

theorem exec_pkeRingEnable (ho : s.pkeOpen h = true) : exec (.pkeRingEnable h) s = if bit (s.reg (.hank h .pkeRingCfg)) 31 = true then .next s
    else .next ((s.setField (.hank h .pkeRingCfg) 31 31 1).startCommit (.pkeRing h) (pkeRegs h)) := by
  show Host.Outcome.next (if (!s.pkeOpen h || s.pkeEnabled h) = true then s else _) = _
  rw [ho, Bool.not_true, Bool.false_or, State.pkeEnabled, apply_ite Host.Outcome.next]

theorem exec_pkeDb (ho : s.pkeOpen h = true) (hm : s.power.state = .m0) (ha : (s.pke h).active = true) (v : BitVec 32) : exec (.pkeDb h v) s =
    if v.toNat % 65536 < s.pkeSize h then .next (s.updPke h (fun x => { x with tail := v.toNat % 65536 })) else .next s := by
  have awake : (if s.pkeEnabled h then s.wake else s) = s := by rw [wake_of_m0 hm, ite_self]
  show Host.Outcome.next (if s.pkeOpen h = true then s.pkeDb h v else s) = _
  rw [if_pos ho, State.pkeDb, awake, ← apply_ite Host.Outcome.next]
  simp only [ha, true_and, bits_low_half]

theorem exec_pkeRingDisable (ho : s.pkeOpen h = true) : exec (.pkeRingDisable h) s = .next (s.pkeDisable h) := congrArg Host.Outcome.next (if_pos ho)

theorem running_of_pkeOpen (ho : s.pkeOpen h = true) : (s.hank h).running = true := by
  rw [State.pkeOpen, State.hankOpen, Bool.and_eq_true, Bool.and_eq_true] at ho
  obtain ⟨⟨-, running⟩, -⟩ := ho
  exact running

/-- The first operation of an even port's exchange has a unit after the start, ahead of the operator's (R350). -/
theorem exec_pkeCommandStart_runtime (hs : s.Inv) (ho : s.pkeOpen h = true) (hm : s.power.state = .m0) {op u : Nat} {rest : List Nat}
    (hidle : (s.port (2 * h.val)).idle = op :: rest) (hu : (s.pke h).freeUnit = some u) : ∃ t, exec (.pkeCommandStart h) s = .next t ∧
    (t.pke h).unit u = some { entry := runtimeEntry op, params := some p384, port := some (2 * h.val, (s.port (2 * h.val)).exchange) } := by
  have given := hs.pkeRuntime h
  have unit := unit_pkeRuntime_first hs hidle hu
  refine ⟨_, exec_pkeCommandStart ho hm, unit_pkeStart_of_held (given.pkeFetch h) ?_⟩
  rw [unit_pkeFetch given, unit]

/-- Settles O54, clause by clause: the disable by the aborts of the units in turn, a start by what the waiting command meets, a completion by whose operation it is and whether it failed. -/
theorem pkeRingServesCommands : Obligations.PkeRingServesCommands := by
  intro h s hs ho hup hm x enabled gone calm
  refine ⟨exec_pkeRingEnable ho, ⟨s.pkeDisable h, exec_pkeRingDisable ho, ?_⟩, fun v ha => exec_pkeDb ho hm ha v, fun hcalm hw ha hen hf hne => ?_,
    fun op rest u hidle hu => exec_pkeCommandStart_runtime hs ho hm hidle hu, fun e hcalm hw => ?_, pkeCheck_codes hup, fun w rest hw hunits hop => ?_,
    fun u r q n hu hd hp hn hwork => ⟨fun hr => ?_, fun fault hf => ?_⟩, fun u r hcalm hu hd hp => ⟨fun hr => ?_, fun fault hlt hf => ?_⟩, fun hok => ?_⟩
  · obtain ⟨enable, active, waiting, wipes, units⟩ := pkeDisable_spec hs h
    exact ⟨enable, active, waiting, wipes, units, fun u r hu hr hwipes => pkeWord_pkeDisable hs hup hu hr hwipes⟩
  · exact exec_pkeCommandStart_fetched hs ho hm hcalm (pkeFetch_of_ready hup hw ha hen hf hne)
  · have start := exec_pkeCommandStart_of_waiting ho hm hcalm hw
    refine ⟨fun code hc => ?_, fun hc hop => ?_, fun hc hop hz => ?_, fun hc hop hz hv => ?_, fun hc hop hz hv u hu hfree hlowest => ?_⟩
    · exact ⟨_, start.trans (congrArg _ (pkeStart_of_code hw hc)), refused_spec hs hup (pkeCheck_lt hc)⟩
    · exact start.trans (congrArg _ (pkeStart_of_wipe hw hc hop))
    · exact start.trans (congrArg _ (pkeStart_of_hazard hw hc hop hz))
    · obtain ⟨waiting, -, -, word⟩ := refused_spec (e := e) hs hup (code := 0x10) (by decide)
      exact ⟨_, start.trans (congrArg _ (pkeStart_of_invalid hw hc hop hz hv)), waiting, word⟩
    · exact start.trans (congrArg _ (pkeStart_of_free hw hc hop hz hv (Pke.freeUnit_eq_some hu hfree hlowest)))
  · exact ⟨s.wipeRun h, rfl, wipeRun_spec hs hup hw hunits hop⟩
  · exact ⟨s.pkeEnd h u false, rfl, exchange_goes_on hs hu hd hp hn hwork hr⟩
  · exact ⟨s.pkeEnd h u fault, rfl, exchange_fails hs hu hd hp hn hwork hf⟩
  · exact ⟨s.pkeEnd h u false, rfl, operation_done hs hup hcalm hu hd hp hr⟩
  · exact ⟨s.pkeEnd h u fault, rfl, operation_failed hs hup hcalm hu hd hp hlt hf⟩
  · exact exec_entropyHealthFail_spec hs (running_of_pkeOpen ho) hok

end Sys2Proof.Machine
end
